-- ==== Sys2Proof/Word.lean ====
section
/-! DEFINITION. The word type, unit numbers (R20, R505), and the plain data that commands carry: what the module is handed from outside (frames, fabric segments, liveness messages, readings). -/

namespace Sys2Proof

abbrev Word := BitVec 32
abbrev Byte := BitVec 8
abbrev DWord := BitVec 64

/-- Global unit numbers of R20. -/
abbrev TileId := Fin 1024
abbrev LaneId := Fin 128
abbrev GroveId := Fin 32
abbrev DieId := Fin 4
/-- A lane context, 0 to 7 (R114). -/
abbrev LaneCtxId := Fin 8
abbrev CellId := Fin 512
abbrev InstId := Fin 4096
/-- A request context (R259: a pool of 262,144). -/
abbrev ReqId := Fin 262144
/-- A Caerkuix port (R26). -/
abbrev CkxPort := Fin 12
abbrev LndId := Fin 4
abbrev EthPort := Fin 8
abbrev HbmId := Fin 24
abbrev ChkId := Fin 64
abbrev PulseId := Fin 4
abbrev CascId := Fin 4

/-- The issuer of a memory access: domain 0 or an instance (R318). -/
inductive Space where
  | dom0
  | inst (i : InstId)
deriving DecidableEq, Repr

/-- The issuer of fabric work: an instance's queue, or domain 0 through the map page (R351, R355). -/
abbrev Stream := Space

/-- Page kinds of R505, and the MSI-X structures of R510, which lie past the last page. -/
inductive PageKind where
  | tile | lane | grv | srt | sds | hbm | cnp | skd | chp | cru | ckx | lnd | eth | cxl | time | mbx | fbk | chk | seed | pwr | bist | msix
deriving DecidableEq, Repr

/-- One register page: its kind and instance number (R505). -/
structure Page where
  kind : PageKind
  inst : Nat
deriving DecidableEq, Repr

/-- The requester of a register access: its PASID, if the request carries one (R436), and the selective IDE stream that it comes inside, if any (R440, R441). -/
structure Requester where
  pasid  : Option (BitVec 20) := none
  stream : Option (Fin 4) := none
deriving DecidableEq, Repr

/-- An SPDM request that needs a signature (R440, R474): what is to be signed, and the IDE stream (4: CXL.cache and CXL.mem) whose keys the session that it sets up programs, if any. -/
structure SpdmRequest where
  msg : List Byte
  ide : Option (Fin 5) := none
deriving DecidableEq, Repr

/-- A page and who asks for it. -/
structure PageReq where
  req  : Requester
  page : Page
deriving DecidableEq, Repr

/-- A data memory of a lane, as R316 numbers them. -/
inductive LaneMem where
  | x | y | c | prog
deriving DecidableEq, Repr

/-- What an access does: read so many bytes, or write these. -/
inductive AccessOp where
  | read (len : Nat)
  | write (bytes : List Byte)
deriving DecidableEq, Repr

/-- What makes an access to device memory (R318): the running LOAD or STORE of a tile, or another agent (a Skidder copy, the fabric agent, a port), with the deadline tag that its request carries (R27, R216, R219) and the die it comes from: compute dies 0 to 3, port dies 4 and 5 (R26). -/
inductive MemAccess where
  | transfer (t : TileId)
  | agent (sp : Space) (addr : Nat) (op : AccessOp) (tag : Nat) (from_ : Fin 6)
deriving DecidableEq, Repr

/-- A U-plane section as a port hands it on (R167): stream eAxC ID, the frame, slot and symbol it names, its first PRB, its PRBs' compressed bytes, its ingress stamp in ns and sixteenths of one (R401), whether it is section type 3 (PRACH), whether it carries its occasion's last sample, and its udCompHdr (R447). -/
structure USection where
  eaxc     : Nat
  sfn      : Nat
  slot     : Nat
  sym      : Nat
  startPrb : Nat
  prbs     : List (List Byte)
  stamp    : DWord
  prach    : Bool
  lastOfOccasion : Bool
  frac     : Nat := 0
  comp     : Byte := 0x91
deriving DecidableEq, Repr

/-- A time-domain IQ message (R450): samples are (I, Q). -/
structure IqMessage where
  eaxc    : Nat
  sfn     : Nat
  slot    : Nat
  sym     : Nat
  off     : Nat
  samples : List (Int × Int)
  stamp   : DWord
  frac    : Nat := 0
deriving DecidableEq, Repr

/-- The eCPRI common header beside the message type: protocol revision, concatenation bit, payload size (R446, R448). -/
structure EcpriHead where
  rev    : Nat := 1
  concat : Bool := false
  size   : Nat
deriving DecidableEq, Repr

/-- The O-RAN application header of a U-plane frame: dataDirection, payloadVersion, filterIndex (R448). -/
structure RadioHead where
  dir    : Nat := 0
  ver    : Nat := 1
  filter : Nat := 0
deriving DecidableEq, Repr

/-- What an Ethernet frame carries (R446, R451, R453). -/
inductive FrameBody where
  | uplane (h : EcpriHead) (r : RadioHead) (eaxc : Nat) (eBit : Bool) (seqId : Byte) (secs : List USection)
  | iq (h : EcpriHead) (eBit : Bool) (seqId : Byte) (msg : IqMessage)
  | ecpriOther (h : EcpriHead) (mtype : Nat)
  | delayRequest (h : EcpriHead) (id : Nat)
  | payload (srcIp : Nat) (ipFragment : Bool) (ver : Nat) (cell : Nat) (msgid : Word) (offset total : Nat) (bytes : List Byte)
  | other (bytes : List Byte)
deriving DecidableEq, Repr

/-- A received Ethernet frame (R445): addresses, tags, sub-port, length from the destination address to the FCS, its stamp, and its bytes after the start-of-frame delimiter as a check unit sees them. -/
structure EthFrame where
  sub     : Nat
  dst     : Nat
  src     : Nat
  vlan    : Option Nat
  doubleTag : Bool
  len     : Nat
  stamp   : DWord
  frac    : Nat
  raw     : List Byte
  body    : FrameBody
deriving DecidableEq, Repr

/-- What a fabric segment asks of the home (R349). -/
inductive SegOp where
  | write (bytes : List Byte)                                   -- PUT, STORE, MSTORE
  | read (len : Nat)                                            -- GET, LOAD
  | red (fp : Bool) (rop : Nat) (elems : List Word)             -- RED
  | atomic (w64 : Bool) (rop : Nat) (operand compare : DWord)   -- ATOMIC
deriving DecidableEq, Repr

/-- A fabric segment with its tag (R355): source module, stream, SEQ; and what it names at the home. -/
structure Segment where
  src     : Nat
  stream  : Nat
  seq     : Nat
  region  : Nat
  grant   : Nat
  key     : DWord
  offset  : Nat
  op      : SegOp
  ctr     : Option Nat
  mstore  : Bool      -- a destination of an MSTORE
  tag     : Nat := 0  -- deadline tag, kept across links (R27, R216)
  late    : Bool := false -- R218
deriving DecidableEq, Repr

/-- What the home answers a segment with (R355). -/
structure SegAck where
  home    : Nat
  stream  : Stream
  seq     : Nat
  status  : Byte
  retry   : Bool      -- no duplicate window free (R358)
  data    : List Byte
  dest    : Nat := 0  -- the source that it answers, which gateways route it to (R342)
deriving DecidableEq, Repr

/-- A bulk transfer between Landing gateways (R360, R361). -/
structure BulkTransfer where
  dest    : Nat
  crossed : List Nat
  segs    : List Segment
deriving DecidableEq, Repr

/-- The payload of a link packet (R364); an acknowledgement and a NAK name the packet they answer and take no number of their own. -/
inductive LinkPayload where
  | seg (s : Segment)
  | ack (a : SegAck)
  | bulk (b : BulkTransfer)
  | liveness (bytes : List Byte)
  | linkAck (seq : Nat)
  | linkNak (seq : Nat)
deriving DecidableEq, Repr

/-- A packet on a link: its sequence number, whether its CRC-32 is good, its payload (R364). -/
structure LinkPacket where
  seq   : Nat
  crcOk : Bool
  body  : LinkPayload
deriving DecidableEq, Repr

/-- A forwarded verdict: the module that is a snag, and the epoch before the verdict (R374, R376). -/
structure Forward where
  module_ : Fin 65536
  epoch   : Word
deriving DecidableEq, Repr

/-- A heartbeat (R374, R389). -/
structure Heartbeat where
  pos    : Nat
  epoch  : Word
  round  : Nat
  flagged : Bool
  digest : Word
deriving DecidableEq, Repr

/-- An ADMIT message (R374, R388). -/
structure AdmitMsg where
  pos   : Nat
  epoch : Word
  round : Nat
  table : List Nat
deriving DecidableEq, Repr

/-- An item of the mirror stream (R382). -/
inductive MirrorItem where
  | message (words : List Word)
  | gains (g : List (Int × Option Nat × Option Nat × Int))
  | area (bytes : List Byte)
deriving DecidableEq, Repr

/-- A point that holds a request and its LATE bit (R218): an entry of a tile's queue, of a sort deck, of a coding engine; a lane context; a request context; entry n of a page's waiters; entry n of an arbitration point's request buffer (R312). -/
inductive HoldPoint where
  | tile (t : TileId) (entry : Nat)
  | deck (g : GroveId) (entry : Nat)
  | code (g : GroveId) (entry : Nat)
  | lane (l : LaneId) (c : LaneCtxId)
  | req (k : ReqId)
  | waiter (page n : Nat)
  | slot (point n : Nat)
  | frame (p : EthPort) (n : Nat)
  | unacked (sp : Space) (n : Nat)               -- a segment that is not acknowledged
  | gather (buffer n : Nat)                      -- a segment in a gather buffer
  | combining (d : DieId) (outside : Bool) (n : Nat) -- an operation queued at a line, or waiting at its source's port
  | move (n : Nat)
  | port (n : Nat)                               -- a request of a port that an arbitration point holds
deriving DecidableEq, Repr

/-- Readings of one thermal or telemetry sample, in tenths of a degree, 10 mV, 10 mA and 0.1 W (R458, R485). -/
structure Readings where
  dies     : List Int      -- C0, C1, C2, C3, P0, P1
  hbm      : Int
  stage    : Int
  voltage  : Nat
  current  : Nat
  power    : Nat
deriving DecidableEq, Repr

/-- The PLLs of R487. -/
inductive Pll where
  | arith | hbm | time
  | eth (p : EthPort)
  | ckx (p : CkxPort)
  | cxl
deriving DecidableEq, Repr

/-- What a BIST test found on the silicon (R493, R495): signatures, failing dies, failing tiles and the first failing array and word. -/
structure BistResult where
  sigs      : List Word
  dieFail   : List Nat
  tileFail  : List Nat
  array     : Nat
  word      : Nat
deriving DecidableEq, Repr

/-- JTAG instructions of R503. -/
inductive JtagIr where
  | bypass | idcode | sample | extest | clamp | highz
deriving DecidableEq, Repr

/-- The CCCs of R457, and any other. -/
inductive I3cCcc where
  | entdaa | setnewda | rstdaa | enec | disec | getpid | getbcr | getdcr | getstatus | getmxds
  | other (code : Byte)
deriving DecidableEq, Repr

end Sys2Proof
end

