-- ==== Sys2Proof/Syntax.lean ====
section
/-! DEFINITION. The commands: one constructor per row of the opcode table, in its order, with the rule that gives it. A word v is the value of the register write that the command is; units are those of R20; what a command carries beyond that comes from outside the module. -/

namespace Sys2Proof

inductive Instr where
  | registerWrite (req : Requester) (p : Page) (off : Nat) (v : Word)  -- REGISTER_WRITE, R12
  | unsupportedRegisterAccess (p : PageReq) (off size : Nat)  -- UNSUPPORTED_REGISTER_ACCESS, R11
  | tenantManagementAccess (pasid : BitVec 20) (p : Page)  -- TENANT_MANAGEMENT_ACCESS, R9
  | commit (p : Page)  -- COMMIT, R15
  | evtPendClear (p : Page) (v : Word)  -- EVT_PEND_CLEAR, R16
  | evtMaskWrite (p : Page) (v : Word)  -- EVT_MASK_WRITE, R510
  | matmul (t : TileId)  -- MATMUL, R64
  | conv (t : TileId)  -- CONV, R73
  | dft (t : TileId)  -- DFT, R75
  | load (t : TileId)  -- LOAD, R78
  | store (t : TileId)  -- STORE, R78
  | wait (t : TileId)  -- WAIT, R81
  | signal (t : TileId)  -- SIGNAL, R81
  | gate (t : TileId)  -- GATE, R100
  | tileWaitSatisfied (t : TileId)  -- TILE_WAIT_SATISFIED, R81
  | signalApply (t : TileId)  -- SIGNAL_APPLY, R81
  | tileQueueEntryFree (t : TileId)  -- TILE_QUEUE_ENTRY_FREE, R60
  | outputBlockEnd (t : TileId) (fault : Bool)  -- OUTPUT_BLOCK_END, R69
  | tileRecordPost (t : TileId)  -- TILE_RECORD_POST, R62
  | preq (t : TileId)  -- PREQ, R83
  | preemptionPointReached (t : TileId)  -- PREEMPTION_POINT_REACHED, R83
  | transferPreemptTimeout (t : TileId)  -- TRANSFER_PREEMPT_TIMEOUT, R80
  | tileSaveComplete (t : TileId)  -- TILE_SAVE_COMPLETE, R83
  | resume (t : TileId)  -- RESUME, R83
  | suspectClr (t : TileId)  -- SUSPECT_CLR, R496
  | tileCtrlHostWrite (t : TileId) (v : Word)  -- TILE_CTRL_HOST_WRITE, R515
  | tileScrubComplete (t : TileId)  -- TILE_SCRUB_COMPLETE, R59
  | sortDeckCommand (g : GroveId)  -- SORT_DECK_COMMAND, R105
  | sortDeckComplete (g : GroveId) (second : Bool)  -- SORT_DECK_COMPLETE, R108
  | nop (l : LaneId)  -- NOP, R125
  | br (l : LaneId)  -- BR, R125
  | call (l : LaneId)  -- CALL, R125
  | ret (l : LaneId)  -- RET, R125
  | loop (l : LaneId)  -- LOOP, R133
  | repeat_ (l : LaneId)  -- REPEAT, R131
  | laneWait (l : LaneId)  -- LANE_WAIT, R138
  | laneWaitWake (l : LaneId) (c : LaneCtxId)  -- LANE_WAIT_WAKE, R138
  | setdl (l : LaneId)  -- SETDL, R125
  | halt (l : LaneId)  -- HALT, R125
  | tiss (l : LaneId)  -- TISS, R134
  | ciss (l : LaneId)  -- CISS, R135
  | laneIssueUnblock (l : LaneId) (c : LaneCtxId)  -- LANE_ISSUE_UNBLOCK, R137
  | rdc (l : LaneId)  -- RDC, R136
  | advc (l : LaneId)  -- ADVC, R136
  | sigc (l : LaneId)  -- SIGC, R139
  | salu (l : LaneId)  -- SALU, R125
  | movi (l : LaneId)  -- MOVI, R125
  | cmp (l : LaneId)  -- CMP, R125
  | gett (l : LaneId)  -- GETT, R125
  | seta (l : LaneId)  -- SETA, R125
  | geta (l : LaneId)  -- GETA, R125
  | valu (l : LaneId)  -- VALU, R125
  | vcmul (l : LaneId)  -- VCMUL, R125
  | vmac (l : LaneId)  -- VMAC, R125
  | vmacs (l : LaneId)  -- VMACS, R125
  | vcmac (l : LaneId)  -- VCMAC, R125
  | vrdac (l : LaneId)  -- VRDAC, R125
  | vsclac (l : LaneId)  -- VSCLAC, R125
  | vmag2 (l : LaneId)  -- VMAG2, R125
  | vrcp (l : LaneId)  -- VRCP, R125
  | vcvt (l : LaneId)  -- VCVT, R129
  | vsplat (l : LaneId)  -- VSPLAT, R125
  | completionRecordArrive (l : LaneId) (c : LaneCtxId)  -- COMPLETION_RECORD_ARRIVE, R136
  | laneContextSwitch (l : LaneId)  -- LANE_CONTEXT_SWITCH, R141
  | standbyLoadComplete (l : LaneId) (c : LaneCtxId)  -- STANDBY_LOAD_COMPLETE, R142
  | sliceExhausted (l : LaneId) (c : LaneCtxId)  -- SLICE_EXHAUSTED, R240
  | laneDeadlinePassed (l : LaneId) (c : LaneCtxId)  -- LANE_DEADLINE_PASSED, R245
  | laneExternalAccess (l : LaneId) (mem : LaneMem) (addr : Nat) (op : AccessOp)  -- LANE_EXTERNAL_ACCESS, R117
  | programMemoryWrite (l : LaneId) (off : Nat) (bytes : List Byte)  -- PROGRAM_MEMORY_WRITE, R119
  | enable (l : LaneId) (c : LaneCtxId) (v : Word)  -- ENABLE, R144
  | laneContextDisable (l : LaneId) (c : LaneCtxId) (v : Word)  -- LANE_CONTEXT_DISABLE, R144
  | laneContextStopped (l : LaneId) (c : LaneCtxId)  -- LANE_CONTEXT_STOPPED, R144
  | mbclr (l : LaneId)  -- MBCLR, R335
  | cellSlotStart (c : CellId)  -- CELL_SLOT_START, R140
  | ulConfig (msg : List Word)  -- UL_CONFIG, R152
  | dlConfig (msg : List Word)  -- DL_CONFIG, R152
  | txData (msg : List Word)  -- TX_DATA, R152
  | messageDeadline (c : CellId)  -- MESSAGE_DEADLINE, R155
  | admitCell (v : Word)  -- ADMIT, R159
  | admitChecksComplete  -- ADMIT_CHECKS_COMPLETE, R160
  | remove (v : Word)  -- REMOVE, R164
  | removeForce (v : Word)  -- REMOVE_FORCE, R165
  | cellActivate (c : CellId)  -- CELL_ACTIVATE, R163
  | cellEndBoundary (c : CellId)  -- CELL_END_BOUNDARY, R164
  | cellFree (c : CellId)  -- CELL_FREE, R164
  | uplinkCplaneSend (c : CellId) (sfn slot : Nat)  -- UPLINK_CPLANE_SEND, R166
  | uplaneSection (port : EthPort) (sec : USection)  -- UPLANE_SECTION, R167
  | timeDomainIqMessage (port : EthPort) (msg : IqMessage)  -- TIME_DOMAIN_IQ_MESSAGE, R450
  | ulSymbolClose (c : CellId) (sfn slot sym : Nat)  -- UL_SYMBOL_CLOSE, R170
  | gainSlotEnd (c : CellId) (sfn slot : Nat)  -- GAIN_SLOT_END, R172
  | ldec (g : GroveId)  -- LDEC, R196
  | lenc (g : GroveId)  -- LENC, R198
  | pdec (g : GroveId)  -- PDEC, R198
  | penc (g : GroveId)  -- PENC, R198
  | codeBlockEnd (g : GroveId)  -- CODE_BLOCK_END, R193
  | harqLockRelease (c : CellId) (entry : Nat)  -- HARQ_LOCK_RELEASE, R202
  | softBufferRelease (c : CellId)  -- SOFT_BUFFER_RELEASE, R204
  | rxDataEgress (c : CellId) (sfn slot : Nat) (tbs crcs : List (List Word)) (others : List (Nat × List (List Word)))  -- RX_DATA_EGRESS, R205
  | dlSymbolSend (c : CellId) (sfn slot k : Nat)  -- DL_SYMBOL_SEND, R211
  | dlSymbolClose (c : CellId) (sfn slot k : Nat)  -- DL_SYMBOL_CLOSE, R211
  | planPeriodBoundary (d : DieId)  -- PLAN_PERIOD_BOUNDARY, R230
  | spillComplete (t : TileId) (tierErr : Bool)  -- SPILL_COMPLETE, R232
  | tileReturnStart (t : TileId)  -- TILE_RETURN_START, R235
  | restoreComplete (t : TileId)  -- RESTORE_COMPLETE, R235
  | groupCommit (v : Word)  -- GROUP_COMMIT, R227
  | heldCommitApply  -- HELD_COMMIT_APPLY, R162
  | shapingRefill (d : Fin 64) (pt : Nat)  -- SHAPING_REFILL, R313
  | requestLate (pt : HoldPoint)  -- REQUEST_LATE, R218
  | cqDoorbell (i : InstId) (v : Word)  -- CQ_DOORBELL, R257
  | cqNop (i : InstId)  -- CQ_NOP, R258
  | run (i : InstId)  -- RUN, R259
  | cancel (i : InstId)  -- CANCEL, R269
  | openJob (i : InstId)  -- OPEN_JOB, R250
  | closeJob (i : InstId)  -- CLOSE_JOB, R250
  | restart (i : InstId)  -- RESTART, R272
  | cqFetchResume (i : InstId)  -- CQ_FETCH_RESUME, R259
  | stepStart (id : ReqId)  -- STEP_START, R256
  | stepTile (id : ReqId)  -- STEP_TILE, R253
  | stepSort (id : ReqId)  -- STEP_SORT, R252
  | jumpc (id : ReqId)  -- JUMPC, R252
  | emit (id : ReqId)  -- EMIT, R252
  | ckpt (id : ReqId)  -- CKPT, R271
  | stepEnd (id : ReqId)  -- STEP_END, R252
  | sequencerRecord (id : ReqId)  -- SEQUENCER_RECORD, R254
  | teardownFinish (id : ReqId)  -- TEARDOWN_FINISH, R270
  | rqHeadWrite (i : InstId) (v : Word)  -- RQ_HEAD_WRITE, R266
  | deviceMemoryAccess (a : MemAccess)  -- DEVICE_MEMORY_ACCESS, R318
  | moveSwitch (page : Nat)  -- MOVE_SWITCH, R280
  | moveAbort (page : Nat)  -- MOVE_ABORT, R281
  | epochEnd (d : DieId)  -- EPOCH_END, R285
  | tierStallLimit (k : ReqId)  -- TIER_STALL_LIMIT, R297
  | patrolScrub (ctl : HbmId) (frame line err : Nat)  -- PATROL_SCRUB, R304
  | register (d : DieId) (v : Word)  -- REGISTER, R279
  | unregister (d : DieId) (v : Word)  -- UNREGISTER, R279
  | objectRead (d : DieId) (v : Word)  -- OBJECT_READ, R518
  | hbmRetireLogWrite (ctl : HbmId) (v : Word)  -- HBM_RETIRE_LOG_WRITE, R306
  | fbkMapaddrWrite (v : Word)  -- FBK_MAPADDR_WRITE, R309
  | mapCopyComplete  -- MAP_COPY_COMPLETE, R309
  | firebreakCommit (page : Fin 65)  -- FIREBREAK_COMMIT, R310
  | create (v : Word)  -- CREATE, R322
  | activate (v : Word)  -- ACTIVATE, R323
  | resetDrain (v : Word)  -- RESET_DRAIN, R326
  | resetSquash (v : Word)  -- RESET_SQUASH, R326
  | drainComplete (i : InstId)  -- DRAIN_COMPLETE, R326
  | drainTimeout (i : InstId)  -- DRAIN_TIMEOUT, R327
  | squashComplete (i : InstId)  -- SQUASH_COMPLETE, R326
  | destroy (v : Word)  -- DESTROY, R325
  | logStart (v : Word)  -- LOG_START, R336
  | logSwap (v : Word)  -- LOG_SWAP, R338
  | logStop (v : Word)  -- LOG_STOP, R338
  | freeze (v : Word)  -- FREEZE, R339
  | freezeComplete (i : InstId)  -- FREEZE_COMPLETE, R339
  | thaw (v : Word)  -- THAW, R339
  | instanceRead (v : Word)  -- INSTANCE_READ, R322
  | keyDelivery (i : InstId) (key : BitVec 512)  -- KEY_DELIVERY, R317
  | mailboxSend (sender : Space) (v : Word)  -- MAILBOX_SEND, R331
  | mailboxAck (i : InstId) (v : Word)  -- MAILBOX_ACK, R332
  | fqDoorbell (sp : Space) (v : Word)  -- FQ_DOORBELL, R351
  | fcHeadWrite (sp : Space) (v : Word)  -- FC_HEAD_WRITE, R351
  | put (sp : Space)  -- PUT, R349
  | get (sp : Space)  -- GET, R349
  | fabricStore (sp : Space)  -- FABRIC_STORE, R349
  | fabricLoad (sp : Space)  -- FABRIC_LOAD, R349
  | red (sp : Space)  -- RED, R350
  | mstore (sp : Space)  -- MSTORE, R349
  | atomic (sp : Space)  -- ATOMIC, R350
  | fence (sp : Space)  -- FENCE, R356
  | regionOpen (sp : Space)  -- REGION_OPEN, R343
  | regionClose (sp : Space)  -- REGION_CLOSE, R348
  | grant (sp : Space)  -- GRANT, R344
  | revoke (sp : Space)  -- REVOKE, R352
  | import_ (sp : Space)  -- IMPORT, R345
  | unimport (sp : Space)  -- UNIMPORT, R352
  | importClear (sp : Space)  -- IMPORT_CLEAR, R359
  | segmentArrive (x : Segment)  -- SEGMENT_ARRIVE, R346
  | hotLineCool (d : DieId) (key : Nat)  -- HOT_LINE_COOL, R362
  | segmentAck (a : SegAck)  -- SEGMENT_ACK, R355
  | fenceTimeout (sp : Space)  -- FENCE_TIMEOUT, R359
  | windowRetry (sp : Space)  -- WINDOW_RETRY, R358
  | duplicateWindowExpire (d : DieId) (src stream : Fin 65536)  -- DUPLICATE_WINDOW_EXPIRE, R358
  | gatherTimeout (g : LndId)  -- GATHER_TIMEOUT, R360
  | bulkTransferArrive (g : LndId) (b : BulkTransfer)  -- BULK_TRANSFER_ARRIVE, R361
  | linkPacketReceive (p : CkxPort) (k : LinkPacket)  -- LINK_PACKET_RECEIVE, R364
  | linkRetryTimeout (p : CkxPort)  -- LINK_RETRY_TIMEOUT, R364
  | laneErrorLimit (p : CkxPort) (ln : Fin 4)  -- LANE_ERROR_LIMIT, R365
  | linkRetrainComplete (p : CkxPort) (good : Fin 16)  -- LINK_RETRAIN_COMPLETE, R365
  | portHoldExpire (p : CkxPort)  -- PORT_HOLD_EXPIRE, R366
  | retrain (p : CkxPort)  -- RETRAIN, R365
  | holdClr (p : CkxPort)  -- HOLD_CLR, R366
  | grantSweepComplete (m : Fin 65536)  -- GRANT_SWEEP_COMPLETE, R347
  | moduleFault  -- MODULE_FAULT, R371
  | livenessRound  -- LIVENESS_ROUND, R373
  | heartbeat (h : Heartbeat)  -- HEARTBEAT, R374
  | peerAbsent (x : Fin 256)  -- PEER_ABSENT, R374
  | accuse (x from_ : Fin 256) (epoch : Word)  -- ACCUSE, R375
  | clear (x from_ : Fin 256) (epoch : Word)  -- CLEAR, R375
  | verdict (x from_ : Fin 256) (epoch : Word)  -- VERDICT, R375
  | verdictForward (x : Forward)  -- VERDICT_FORWARD, R376
  | quorumLoss  -- QUORUM_LOSS, R377
  | found  -- FOUND, R388
  | join  -- JOIN, R388
  | leave  -- LEAVE, R377
  | joinMessage (x : Fin 256) (shadow bistOk : Bool)  -- JOIN_MESSAGE, R388
  | admitMessage (a : AdmitMsg)  -- ADMIT_MESSAGE, R388
  | memberEntry  -- MEMBER_ENTRY, R388
  | joinTimeout  -- JOIN_TIMEOUT, R388
  | arm (v : Word)  -- ARM, R381
  | disarm (v : Word)  -- DISARM, R381
  | mirrorRead (v : Word)  -- MIRROR_READ, R392
  | mirrorOpenRequest (c : CellId) (answer : Option Bool)  -- MIRROR_OPEN_REQUEST, R382
  | mirrorOpenReceive (src : Fin 65536) (pcell c : CellId) (desc : List Word) (rdigest ldigest : List Byte)  -- MIRROR_OPEN_RECEIVE, R382
  | mirror (c : CellId) (item : MirrorItem)  -- MIRROR, R382
  | encode (i : InstId) (v : Word)  -- ENCODE, R387
  | rebuild (i : InstId) (v : Word)  -- REBUILD, R387
  | ecDone (i : InstId)  -- EC_DONE, R387
  | timeSettingApply  -- TIME_SETTING_APPLY, R394
  | snap  -- SNAP, R395
  | referenceLost  -- REFERENCE_LOST, R396
  | referenceGood  -- REFERENCE_GOOD, R396
  | ethernetStamp (p : EthPort) (ns : DWord) (frac : Fin 16)  -- ETHERNET_STAMP, R403
  | tsqHeadWrite (p : EthPort) (v : Word)  -- TSQ_HEAD_WRITE, R403
  | ppsEdge  -- PPS_EDGE, R405
  | pulseEnable (p : PulseId) (v : Word)  -- PULSE_ENABLE, R406
  | pulseEdge (p : PulseId)  -- PULSE_EDGE, R406
  | cascadeDelayMeasure (q : CascId) (dly : Fin 65536) (conflict : Bool) (up : Option (Nat × Nat × Nat)) (below : Fin 32)  -- CASCADE_DELAY_MEASURE, R408
  | cascadeLinkLost (q : CascId)  -- CASCADE_LINK_LOST, R408
  | cascadeLinkReturn (q : CascId) (off : Int)  -- CASCADE_LINK_RETURN, R408
  | stepAnnounce (at_ : DWord) (step : Int) (foff : Nat)  -- STEP_ANNOUNCE, R408
  | barArm  -- BAR_ARM, R410
  | ready (q : CascId)  -- READY, R410
  | fire (at_ : DWord)  -- FIRE, R411
  | barrierFire  -- BARRIER_FIRE, R410
  | barrierTimeout  -- BARRIER_TIMEOUT, R411
  | abort  -- ABORT, R411
  | replayInject  -- REPLAY_INJECT, R427
  | close (k : ChkId)  -- CLOSE, R433
  | chkRestart (k : ChkId)  -- CHK_RESTART, R431
  | windowAccess (addr : Fin 274877906944) (op : AccessOp)  -- WINDOW_ACCESS, R437
  | atsInvalidation (pasid : BitVec 20) (first pages : Nat) (refused : Bool)  -- ATS_INVALIDATION, R439
  | ideIntegrityFail (stream : Fin 5)  -- IDE_INTEGRITY_FAIL, R440
  | tspLock (i : InstId)  -- TSP_LOCK, R441
  | tspUnlock (i : InstId)  -- TSP_UNLOCK, R441
  | l2qInboundTailWrite (q : Fin 8) (v : Word)  -- L2Q_INBOUND_TAIL_WRITE, R443
  | l2qDheadWrite (q : Fin 8) (v : Word)  -- L2Q_DHEAD_WRITE, R443
  | ethFrameReceive (p : EthPort) (f : EthFrame)  -- ETH_FRAME_RECEIVE, R448
  | payloadDatagram (p : EthPort) (srcIp : Nat) (ipFragment : Bool) (ver : Nat) (cell : CellId) (msgid : Word) (offset total : Nat) (bytes : List Byte)  -- PAYLOAD_DATAGRAM, R452
  | reassemblyTimeout (p : EthPort)  -- REASSEMBLY_TIMEOUT, R452
  | managementTxTailWrite (p : EthPort) (v : Word)  -- MANAGEMENT_TX_TAIL_WRITE, R453
  | wheelBucketDue (p : EthPort) (sub : Fin 8)  -- WHEEL_BUCKET_DUE, R454
  | i3cCcc (c : I3cCcc) (arg : Nat)  -- I3C_CCC, R457
  | i3cPrivateWrite (bytes : List Byte)  -- I3C_PRIVATE_WRITE, R458
  | i3cPrivateRead (n : Nat)  -- I3C_PRIVATE_READ, R458
  | telemetrySnapshot (r : Readings)  -- TELEMETRY_SNAPSHOT, R458
  | bind (v : Word)  -- BIND, R467
  | bindComplete  -- BIND_COMPLETE, R468
  | unbind (v : Word)  -- UNBIND, R472
  | packageRead (v : Word)  -- PACKAGE_READ, R470
  | install (v : Word)  -- INSTALL, R466
  | anchorClear (v : Word)  -- ANCHOR_CLEAR, R466
  | raise (v : Word)  -- RAISE, R466
  | tenantAttestationRequest (i : InstId) (v : Word)  -- TENANT_ATTESTATION_REQUEST, R477
  | managerAttestationRequest (v : Word)  -- MANAGER_ATTESTATION_REQUEST, R477
  | signerTakeRequest  -- SIGNER_TAKE_REQUEST, R477
  | signatureComplete  -- SIGNATURE_COMPLETE, R475
  | topWriteComplete  -- TOP_WRITE_COMPLETE, R475
  | spdmRequest (x : SpdmRequest)  -- SPDM_REQUEST, R440
  | park (v : Word)  -- PARK, R483
  | parkComplete (g : GroveId)  -- PARK_COMPLETE, R483
  | unpark (v : Word)  -- UNPARK, R484
  | unparkComplete (g : GroveId)  -- UNPARK_COMPLETE, R484
  | moduleReset (v : Word)  -- MODULE_RESET, R489
  | sleep (v : Word)  -- SLEEP, R481
  | modWake  -- MOD_WAKE, R481
  | powerOn (modTest : Bool)  -- POWER_ON, R490
  | startupStepComplete (ok : Bool)  -- STARTUP_STEP_COMPLETE, R490
  | perst  -- PERST, R489
  | cxlLinkReset  -- CXL_LINK_RESET, R489
  | testReset  -- TEST_RESET, R489
  | thermalSample (r : Readings)  -- THERMAL_SAMPLE, R485
  | inputFault  -- INPUT_FAULT, R486
  | powerStageFault  -- POWER_STAGE_FAULT, R522
  | pllLockLoss (p : Pll)  -- PLL_LOCK_LOSS, R488
  | logic (v : Word)  -- LOGIC, R493
  | memory (v : Word)  -- MEMORY, R493
  | tileBist (v : Word)  -- TILE_BIST, R496
  | bistDone (r : BistResult)  -- BIST_DONE, R495
  | injectionArm (v : Word)  -- INJECTION_ARM, R500
  | injectionDisarm (v : Word)  -- INJECTION_DISARM, R500
  | scalerSelect (v : Word)  -- SCALER_SELECT, R501
  | dump (v : Word)  -- DUMP, R501
  | clr (v : Word)  -- CLR, R501
  | jtagInstruction (tap : Fin 6) (ir : JtagIr)  -- JTAG_INSTRUCTION, R503
  | ethernetLinkDown (p : EthPort) (sub : Fin 8)  -- ETHERNET_LINK_DOWN, R455
  | ethernetLinkUp (p : EthPort) (sub : Fin 8)  -- ETHERNET_LINK_UP, R459
  | cxlLinkUp (width rate : Nat) (flit256 : Bool)  -- CXL_LINK_UP, R435
  | switchUnreachable (p : CkxPort) (dest : Fin 65536)  -- SWITCH_UNREACHABLE, R357
  | downlinkCplaneSend (c : CellId) (sfn slot : Nat) (weights : List (List (Nat × Nat × List (Int × Int))))  -- DOWNLINK_CPLANE_SEND, R209
  | cascadeSlewComplete  -- CASCADE_SLEW_COMPLETE, R408
deriving DecidableEq, Repr

end Sys2Proof
end

