-- ==== Sys2Proof/Decode.lean ====
section
/-! DEFINITION. Commands that the opcode table spells by bits: it gives no row any bits, so no word spells one. -/

namespace Sys2Proof

/-- The command that a word of nbits bits spells. -/
def decodeTableWord (_nbits _w : Nat) : Option Instr := none

end Sys2Proof
end

