-- ==== Sys2Proof/Config.lean ====
section
/-! DEFINITION. What one implementation fixes and the manual does not state: free values. None has a body, so no proof can see what it is. -/

namespace Sys2Proof.Config

/-- A value the manual leaves open, by the state's counter of free values (log entry 3). -/
opaque freeNat : Nat → Nat

/-- Key material from the internal random bit generator (R317). -/
opaque randomKey : Nat → BitVec 512

/-- Draw of an arbitration point's LFSR under perturbation (R498): by seed, point and clocks since the perturbation took effect. -/
opaque perturbDraw : BitVec 32 → Nat → Nat → BitVec 8

/-- AES-256-XTS, a standard outside the manual (R317, R319): key material, 128-bit tweak, the plaintext of a data unit. -/
opaque xtsEncrypt : BitVec 512 → BitVec 128 → List (BitVec 8) → List (BitVec 8)

/-- The module's identity public key, 68 bytes, by word (R474, R479). -/
opaque identityKeyWord : Nat → BitVec 32

/-- Akrad's MIPI manufacturer code and the board's SLOT_ID pins (R457): the manual gives neither. -/
opaque mipiCode : Nat
opaque slotId : Nat

/-- Answers of the I3C target to the CCCs whose bytes the manual leaves to the I3C standard (R457), by number of the CCC. -/
opaque i3cAnswer : Nat → List (BitVec 8)

/-- Clocks a LOAD, STORE, WAIT or SIGNAL reports in ACTIVE_AC: the manual gives no figure (R62). -/
opaque activeAc : Nat → Nat

/-- The hash of (destination module, fence stream) that picks a port (R342): the manual does not give it. -/
opaque pathHash : Nat → Nat → Nat

/-- Tables of TS 38.212, which the manual names and does not print (R194, R198). Shift of a base graph (2 or 1) at a set index, row and column; the reliability sequence of polar codes, least reliable first; the interleaver of downlink polar payloads. -/
opaque bgEntry : Bool → Nat → Nat → Nat → Option Nat
opaque polarSequence : Nat → Nat
opaque polarInterleaver : Nat → Nat

/-- What the manual leaves open of the LDPC decoder (R196): the normalisation of a smallest magnitude, and the largest value of its words. -/
opaque minSumNorm : Nat → Int
opaque llrMax : Nat

/-- Verification of an XMSS or XMSS^MT signature of SP 800-208, outside the manual (R464): 68-byte public key, message, signature. -/
opaque xmssVerify : List (BitVec 8) → List (BitVec 8) → List (BitVec 8) → Bool

/-- The identity key's signature at an index over a message, after its 5-byte index field (R474): 5,600 bytes of which no value is known. -/
opaque identitySign : Nat → List (BitVec 8) → Nat → BitVec 8

/-- The selective IDE stream that is bound to an interface when it is locked: the host chooses it, and the manual names no register of it (R441; log entry 74). -/
opaque tspStream : Nat → Nat

end Sys2Proof.Config
end

