-- ==== Sys2Proof/Machine/Codes.lean ====
section
/-! DEFINITION. The LDPC and polar codes of TS 38.212 that R194, R196 and R198 name. Their structure is PRESUMED from that document (log entry 124); its tables are free values of Config. -/

namespace Sys2Proof.Machine

open Sys2Proof

/-- Exclusive or of two bit lists of one length. -/
def xorBits (a b : List Bool) : List Bool := List.zipWith xor a b

/-! LDPC (5.3.2): a base graph's entry in row i, column j is a Z × Z identity rotated by its shift. -/

/-- Set index of a lifting size a · 2^j, by a. -/
def liftSet (z : Nat) : Nat :=
  ((List.range 8).find? (fun i => (List.range 8).any (fun j => z = [2, 3, 5, 7, 9, 11, 13, 15].getD i 2 * 2 ^ j))).getD 0

/-- Information columns Kc (R194) and rows of a base graph. -/
def bgCols (bg2 : Bool) : Nat := if bg2 then 10 else 22
def bgRows (bg2 : Bool) : Nat := if bg2 then 42 else 46

/-- Shift of row i, column j at lifting size Z; none where the block is zero. -/
def bgShift (bg2 : Bool) (z i j : Nat) : Option Nat := (Sys2Proof.Config.bgEntry bg2 (liftSet z) i j).map (· % z)

/-- Sum over the first n columns of row i, each rotated by its shift. -/
def rowSum (bg2 : Bool) (z i n : Nat) (cols : List (List Bool)) : List Bool :=
  (List.range n).foldl (fun acc j => match bgShift bg2 z i j with
    | some p => xorBits acc ((cols.getD j []).rotate p)
    | none => acc) (List.replicate z false)

/-- The four core parity columns: rows 0 to 3 hold column Kc and a staircase of columns Kc + 1 to Kc + 3, so the sum of the rows gives column Kc, rotated by the one shift of it that does not cancel. -/
def coreParity (bg2 : Bool) (z : Nat) (cols : List (List Bool)) : List (List Bool) :=
  let kc := bgCols bg2
  let sums := (List.range 4).map (fun i => rowSum bg2 z i kc cols)
  let shifts := (List.range 4).filterMap (fun i => bgShift bg2 z i kc)
  let odd := (shifts.find? (fun p => shifts.count p % 2 = 1)).getD 0
  let p0 := (sums.foldl xorBits (List.replicate z false)).rotate (z - odd)
  let with0 (i : Nat) : List Bool := match bgShift bg2 z i kc with
    | some p => xorBits (sums.getD i []) (p0.rotate p)
    | none => sums.getD i []
  let p1 := with0 0
  let p2 := xorBits (with0 1) p1
  [p0, p1, p2, with0 3]

/-- Parity bits of K systematic bits: the core's, then one column for each further row. -/
def ldpcParity (bg2 : Bool) (z : Nat) (sys : List Bool) : List Bool :=
  let kc := bgCols bg2
  let cols := (List.range kc).map (fun j => (sys.drop (j * z)).take z)
  let core := cols ++ coreParity bg2 z cols
  ((core.drop kc) ++ (List.range (bgRows bg2 - 4)).map (fun i => rowSum bg2 z (i + 4) (kc + 4) core)).flatten

/-- Positions of a block's value list that check row i, lifted row k, joins. -/
def checkAt (bg2 : Bool) (z n i k : Nat) : List Nat :=
  (List.range n).filterMap (fun j => (bgShift bg2 z i j).map (fun p => j * z + (k + p) % z))

/-- Every parity check of the first nr rows holds of hard decisions. -/
def checksHold (bg2 : Bool) (z nr : Nat) (hard : List Bool) : Bool :=
  (List.range nr).all (fun i => (List.range z).all (fun k =>
    (checkAt bg2 z (bgCols bg2 + nr) i k).foldl (fun a p => xor a (hard.getD p false)) false = false))

/-- Smallest magnitude and parity of signs of some values. -/
def minSum (qs : List Int) : Int :=
  let m := qs.foldl (fun a q => min a (q.natAbs : Int)) (Sys2Proof.Config.llrMax : Int)
  if (qs.filter (· < 0)).length % 2 = 1 then -Sys2Proof.Config.minSumNorm m.toNat else Sys2Proof.Config.minSumNorm m.toNat

/-- A value held to the decoder's word length. -/
def llrClip (v : Int) : Int := max (-(Sys2Proof.Config.llrMax : Int)) (min Sys2Proof.Config.llrMax v)

/-- A decoder's state: the value of each position, and for each row and lifted row what it last added at each of its positions. -/
structure MinSum where
  vals : List Int
  msgs : List (List (List Int))
deriving DecidableEq, Repr

/-- One lifted row of a layer: each position's value without the row's last message gets the row's new one. -/
def rowStep (pos : List Nat) (old : List Int) (vals : List Int) : List Int × List Int :=
  let qs := ((List.range pos.length).map (fun e => vals.getD (pos.getD e 0) 0 - old.getD e 0))
  let new := (List.range pos.length).map (fun e => minSum (qs.eraseIdx e))
  ((List.range pos.length).foldl (fun v e => v.set (pos.getD e 0) (llrClip (qs.getD e 0 + new.getD e 0))) vals, new)

/-- One iteration: a layer for each row in ascending order (R196). -/
def minSumIter (bg2 : Bool) (z nr : Nat) (x : MinSum) : MinSum :=
  (List.range nr).foldl (fun y i =>
    let r := (List.range z).foldl (fun (acc : List Int × List (List Int)) k =>
      let s := rowStep (checkAt bg2 z (bgCols bg2 + nr) i k) ((y.msgs.getD i []).getD k []) acc.1
      (s.1, acc.2 ++ [s.2])) (y.vals, [])
    { vals := r.1, msgs := y.msgs.set i r.2 }) x

def minSumRun (bg2 : Bool) (z nr : Nat) : Nat → MinSum → MinSum
  | 0, x => x
  | n + 1, x => minSumRun bg2 z nr n (minSumIter bg2 z nr x)

/-- The hard decisions after n iterations of layered normalised min-sum, and whether every parity check of the rows in use holds; a certain zero enters as the largest value (R196). -/
def ldpcIter (bg2 : Bool) (z nr : Nat) (input : List (Option Int)) (n : Nat) : List Bool × Bool :=
  let x := minSumRun bg2 z nr n { vals := input.map (fun v => v.getD Sys2Proof.Config.llrMax), msgs := List.replicate nr [] }
  let hard := x.vals.map (fun v => decide (v < 0))
  (hard, checksHold bg2 z nr hard)

/-! Polar codes (5.3.1, 5.4.1). -/

/-- What a polar segment's code is: mother length exponent, bits with their CRC, rate-matched bits, and whether it carries uplink control information. -/
structure PolarCode where
  n   : Nat
  k   : Nat
  e   : Nat
  uci : Bool
deriving DecidableEq, Repr

def PolarCode.len (c : PolarCode) : Nat := 2 ^ c.n

/-- Sub-block interleaver pattern. -/
def subBlock : List Nat :=
  [0, 1, 2, 4, 3, 5, 6, 7, 8, 16, 9, 17, 10, 18, 11, 19, 12, 20, 13, 21, 14, 22, 15, 23, 24, 25, 26, 28, 27, 29, 30, 31]

/-- J(i): the coded bit at place i of the circular buffer. -/
def PolarCode.sub (c : PolarCode) (i : Nat) : Nat := subBlock.getD (32 * i / c.len) 0 * (c.len / 32) + i % (c.len / 32)

/-- Rate matching punctures where E < N and K / E ≤ 7/16, and else shortens. -/
def PolarCode.punctures (c : PolarCode) : Bool := c.e < c.len && 16 * c.k ≤ 7 * c.e

/-- Parity-check bits: 3 for 18 to 25 bits of uplink control information. -/
def PolarCode.pc (c : PolarCode) : Nat := if c.uci && 18 ≤ c.k && c.k ≤ 25 then 3 else 0

/-- Bits that rate matching freezes. -/
def PolarCode.preFrozen (c : PolarCode) : List Nat :=
  if c.len ≤ c.e then []
  else if c.punctures then
    (List.range (c.len - c.e)).map c.sub
      ++ List.range (if 3 * c.len ≤ 4 * c.e then cdivN (3 * c.len - 2 * c.e) 4 else cdivN (9 * c.len - 4 * c.e) 16)
  else (List.range (c.len - c.e)).map (fun i => c.sub (c.e + i))
where
  cdivN (a b : Nat) : Nat := (a + b - 1) / b

/-- The positions that carry information or parity-check bits, the most reliable last. -/
def PolarCode.info (c : PolarCode) : List Nat :=
  let usable := ((List.range 1024).map Sys2Proof.Config.polarSequence).filter (fun p => p < c.len && !c.preFrozen.contains p)
  usable.drop (usable.length - (c.k + c.pc))

/-- Weight of row i of the generator. -/
def rowWeight (n i : Nat) : Nat := 2 ^ ((List.range n).filter (fun j => i / 2 ^ j % 2 = 1)).length

/-- The parity-check positions: the least reliable ones, and where E − K + 3 > 192 one of least row weight among the rest, the most reliable of these. -/
def PolarCode.pcAt (c : PolarCode) : List Nat :=
  let wm := if c.pc = 3 && 192 + c.k < c.e + 3 then 1 else 0
  let rest := c.info.drop c.pc
  let least := (rest.map (rowWeight c.n)).foldl min c.len
  c.info.take (c.pc - wm) ++ (if wm = 1 then ((rest.filter (fun p => rowWeight c.n p = least)).getLast?).toList else [])

/-- The shift register y0 to y4 of the parity-check bits and the bits set so far: the next bit from what it carries. -/
def pcStep (info pcs : List Nat) (i : Nat) (data : Bool) (y : List Bool) : Bool × List Bool :=
  let y1 := y.rotate 1
  if pcs.contains i then (y1.getD 0 false, y1)
  else if info.contains i then (data, y1.set 0 (xor (y1.getD 0 false) data))
  else (false, y1)

/-- x G for G the n-th power of the 2 × 2 kernel. -/
def polarMul : Nat → List Bool → List Bool
  | 0, u => u
  | n + 1, u =>
    let a := polarMul n (u.take (2 ^ n))
    let b := polarMul n (u.drop (2 ^ n))
    xorBits a b ++ b

/-- The bit interleaver of downlink payloads: place k takes bit Π(k). -/
def PolarCode.interleave (c : PolarCode) : List Nat :=
  if c.uci then List.range c.k
  else ((List.range 164).map Sys2Proof.Config.polarInterleaver).filterMap (fun p => if 164 ≤ p + c.k then some (p + c.k - 164) else none)

/-- The bits u of a payload with its CRC. -/
def PolarCode.place (c : PolarCode) (bits : List Bool) : List Bool :=
  let pcs := c.pcAt
  let inter := c.interleave
  ((List.range c.len).foldl (fun (acc : List Bool × Nat × List Bool) i =>
    let s := pcStep c.info pcs i (bits.getD (inter.getD acc.2.1 0) false) acc.2.2
    (acc.1 ++ [s.1], acc.2.1 + (if c.info.contains i && !pcs.contains i then 1 else 0), s.2)) ([], 0, List.replicate 5 false)).1

/-- The place in the circular buffer of rate-matched bit i: repetition, puncturing or shortening. -/
def PolarCode.matchAt (c : PolarCode) (i : Nat) : Nat :=
  if c.len ≤ c.e then i % c.len else if c.punctures then i + c.len - c.e else i

/-- Order in which uplink control information leaves its triangle: rows are filled, columns are read. -/
def PolarCode.triangle (c : PolarCode) : List Nat :=
  let t := ((List.range (c.e + 1)).find? (fun t => 2 * c.e ≤ t * (t + 1))).getD 0
  let start (r : Nat) : Nat := ((List.range r).map (fun i => t - i)).sum
  (List.range t).flatMap (fun col => (List.range (t - col)).filterMap (fun row => if start row + col < c.e then some (start row + col) else none))

/-- The rate-matched bits in the order in which they leave, each by its coded bit. -/
def PolarCode.order (c : PolarCode) : List Nat :=
  (if c.uci then c.triangle else List.range c.e).map (fun i => c.sub (c.matchAt i))

/-- The code word of a payload with its CRC. -/
def polarEncode (c : PolarCode) (bits : List Bool) : List Bool :=
  let d := polarMul c.n (c.place bits)
  c.order.map (fun j => d.getD j false)

/-- Soft value of bit u after the bits decided before it, by successive cancellation: signs and least magnitude for the upper half, sums for the lower. -/
def scValue : Nat → List Int → List Bool → Int
  | 0, v, _ => v.getD 0 0
  | n + 1, v, u =>
    let a := v.take (2 ^ n)
    let b := v.drop (2 ^ n)
    if u.length < 2 ^ n then
      scValue n (List.zipWith (fun x y => if (x < 0) = (y < 0) then min (x.natAbs : Int) y.natAbs else -min (x.natAbs : Int) y.natAbs) a b) u
    else
      scValue n (List.zipWith (fun (xc : Int × Bool) y => if xc.2 then y - xc.1 else y + xc.1) (List.zip a (polarMul n (u.take (2 ^ n)))) b) (u.drop (2 ^ n))

/-- A path of a list decoding: what its decisions cost against the soft values, its bits, its parity-check register. -/
structure PolarPath where
  cost : Nat
  bits : List Bool
  reg  : List Bool
deriving DecidableEq, Repr

/-- The soft values of the coded bits: repetitions add, a bit not sent is 0, a shortened one a certain zero. -/
def PolarCode.soft (c : PolarCode) (soft : List Int) : List Int :=
  let ord := c.order
  (List.range c.len).map (fun j =>
    let got := ((List.range ord.length).filter (fun i => ord.getD i c.len = j)).map (fun i => soft.getD i 0)
    if !got.isEmpty then got.sum else if c.e < c.len && !c.punctures then (Sys2Proof.Config.llrMax : Int) else 0)

/-- The list with an element put before the first one of greater cost. -/
def insertPath (p : PolarPath) : List PolarPath → List PolarPath
  | [] => [p]
  | q :: t => if p.cost < q.cost then p :: q :: t else q :: insertPath p t

/-- Successive-cancellation list decoding: path i in order of metric, highest first, as the payload with its CRC (R198). -/
def polarPath (c : PolarCode) (list : Nat) (soft : List Int) (i : Nat) : List Bool :=
  let v := c.soft soft
  let info := c.info
  let pcs := c.pcAt
  let step (ps : List PolarPath) (i : Nat) : List PolarPath :=
    (ps.flatMap (fun (p : PolarPath) =>
      let l := scValue c.n v p.bits
      (if info.contains i && !pcs.contains i then [false, true] else [false]).map (fun d =>
        let s := pcStep info pcs i d p.reg
        ({ cost := p.cost + (if s.1 = decide (l < 0) then 0 else l.natAbs), bits := p.bits ++ [s.1], reg := s.2 } : PolarPath)))).foldl (fun acc p => insertPath p acc) [] |>.take list
  let best := (List.range c.len).foldl step [{ cost := 0, bits := [], reg := List.replicate 5 false }]
  let u := (best.getD i { cost := 0, bits := [], reg := [] }).bits
  let data := ((List.range c.len).filter (fun j => info.contains j && !pcs.contains j)).map (fun j => u.getD j false)
  let inter := c.interleave
  (List.range c.k).map (fun b => data.getD (inter.idxOf b) false)

end Sys2Proof.Machine
end

