-- ==== Sys2Proof/Machine/Table.lean ====
section
/-! DEFINITION. Sparse tables of numbered units, and byte memory: sorted lists in one canonical form, with their reads and writes. -/

namespace Sys2Proof.Machine

/-- Units of one kind by number, strictly rising; a unit that is not listed holds its default. -/
abbrev Table (α : Type) := List (Nat × α)

/-- What the table lists for unit k. -/
def Table.find {α : Type} (k : Nat) : Table α → Option α
  | [] => none
  | (a, x) :: t => if a = k then some x else Table.find k t

/-- Unit k of a table whose unlisted units hold d. -/
def Table.get {α : Type} (d : α) (t : Table α) (k : Nat) : α := (Table.find k t).getD d

/-- The table with unit k holding v: its place in the rising order is kept. -/
def Table.set {α : Type} (k : Nat) (v : α) : Table α → Table α
  | [] => [(k, v)]
  | (a, x) :: t =>
    if k < a then (k, v) :: (a, x) :: t
    else if k = a then (k, v) :: t
    else (a, x) :: Table.set k v t

/-- The table with unit k no longer listed. -/
def Table.erase {α : Type} (k : Nat) (t : Table α) : Table α := t.filter (fun p => p.1 ≠ k)

/-- Unit k changed by f. -/
def Table.upd {α : Type} (d : α) (k : Nat) (f : α → α) (t : Table α) : Table α :=
  Table.set k (f (Table.get d t k)) t

/-- The keys rise strictly. -/
def Table.sorted {α : Type} : Table α → Bool
  | [] => true
  | [_] => true
  | (a, _) :: (b, y) :: t => decide (a < b) && Table.sorted ((b, y) :: t)

/-- Byte memory: (address, byte) pairs. An address that is not listed reads 0 (R274: an UNBACKED page reads zero; R490: start-up zeroes HBM). -/
abbrev Memory := List Host.Cell

/-- The byte at a. -/
def Memory.read (m : Memory) (a : Nat) : Byte := Table.get 0#8 m a

/-- The memory with byte b at a: a zero byte is not listed. -/
def Memory.write (a : Nat) (b : Byte) : Memory → Memory
  | [] => if b = 0#8 then [] else [(a, b)]
  | (c, x) :: t =>
    if a < c then (if b = 0#8 then (c, x) :: t else (a, b) :: (c, x) :: t)
    else if a = c then (if b = 0#8 then t else (a, b) :: t)
    else (c, x) :: Memory.write a b t

/-- n bytes from a on. -/
def Memory.readN (m : Memory) (a : Nat) : Nat → List Byte
  | 0 => []
  | n + 1 => m.read a :: m.readN (a + 1) n

/-- The bytes written from a on. -/
def Memory.writeN (a : Nat) : List Byte → Memory → Memory
  | [], m => m
  | b :: bs, m => Memory.writeN (a + 1) bs (Memory.write a b m)

/-- The bytes from lo to hi - 1 set to zero. -/
def Memory.clear (lo hi : Nat) (m : Memory) : Memory := m.filter (fun p => p.1 < lo || hi ≤ p.1)

/-- The canonical form: addresses rise strictly and no listed byte is 0. -/
def Memory.wf (m : Memory) : Bool := Table.sorted m && m.all (fun p => p.2 ≠ 0#8)

/-- Little-endian value of bytes (R11, R32). -/
def leNat : List Byte → Nat
  | [] => 0
  | b :: t => b.toNat + 256 * leNat t

/-- n bytes of a value, little-endian. -/
def leBytes : Nat → Nat → List Byte
  | 0, _ => []
  | n + 1, v => BitVec.ofNat 8 v :: leBytes n (v / 256)

/-- Big-endian value of bytes. -/
def beNat (bs : List Byte) : Nat := bs.foldl (fun a b => a * 256 + b.toNat) 0

/-- n bytes of a value, big-endian. -/
def beBytes (n v : Nat) : List Byte := (leBytes n v).reverse

/-- The 32-bit words of a byte list, little-endian. -/
def wordsOf (n : Nat) (bs : List Byte) : List Word :=
  (List.range n).map (fun i => BitVec.ofNat 32 (leNat ((bs.drop (4 * i)).take 4)))

/-- The bytes of 32-bit words, little-endian. -/
def bytesOf (ws : List Word) : List Byte := ws.flatMap (fun w => leBytes 4 w.toNat)

/-- Field [hi:lo] of a word (R10), as a number. -/
def fld (w : Word) (hi lo : Nat) : Nat := w.toNat / 2 ^ lo % 2 ^ (hi + 1 - lo)

/-- Bit i of a word. -/
def bitOf (w : Word) (i : Nat) : Bool := w.getLsbD i

/-- Field [hi:lo] of a number. -/
def nfld (n hi lo : Nat) : Nat := n / 2 ^ lo % 2 ^ (hi + 1 - lo)

/-- A word from a number, low 32 bits. -/
def w32 (n : Nat) : Word := BitVec.ofNat 32 n

/-- 1 for true. -/
def b1 (b : Bool) : Nat := if b then 1 else 0

/-- The word with bit i set or cleared. -/
def setBitTo (w : Word) (i : Nat) (b : Bool) : Word :=
  if b then w ||| (1#32 <<< i) else w &&& ~~~ (1#32 <<< i)

/-- Word i of a message or descriptor; 0 past its end. -/
def wAt (ws : List Word) (i : Nat) : Word := ws.getD i 0#32

/-- a / b rounded up. -/
def cdiv (a b : Nat) : Nat := if b = 0 then 0 else (a + b - 1) / b

/-- The list with element i replaced, unchanged when i is past its end. -/
def setAt {α : Type} (l : List α) (i : Nat) (x : α) : List α := l.set i x

/-- a + n, saturating at hi. -/
def satAdd (a n hi : Nat) : Nat := min (a + n) hi

end Sys2Proof.Machine
end

