-- ==== Sys2Proof/Machine/Status.lean ====
section
/-! DEFINITION. Status codes and the rank by which one is reported among several (R18, R19). -/

namespace Sys2Proof.Machine

/-- The status codes of R18. -/
inductive Code where
  | ok | empty | notReady | preempted | tierLate | tierError | keyDenied | pathLost | generationMismatch
  | levelUnsupported | deadlineMissed | aborted | faultContained | fencedOut | signatureInvalid
  | configInvalid | capacityExceeded | overflow | checksumFault | indexExhausted
deriving DecidableEq, Repr

/-- The code's value (R18). -/
def codeVal : Code → Nat
  | .ok => 0x00 | .empty => 0x01 | .notReady => 0x02 | .preempted => 0x03 | .tierLate => 0x04 | .tierError => 0x05
  | .keyDenied => 0x06 | .pathLost => 0x07 | .generationMismatch => 0x08 | .levelUnsupported => 0x09
  | .deadlineMissed => 0x0A | .aborted => 0x0B | .faultContained => 0x0C | .fencedOut => 0x0D
  | .signatureInvalid => 0x0E | .configInvalid => 0x0F | .capacityExceeded => 0x10 | .overflow => 0x11
  | .checksumFault => 0x12 | .indexExhausted => 0x13

/-- The code's rank (R18). -/
def codeRank : Code → Nat
  | .ok => 20 | .empty => 19 | .notReady => 18 | .preempted => 17 | .tierLate => 16 | .tierError => 2
  | .keyDenied => 5 | .pathLost => 6 | .generationMismatch => 9 | .levelUnsupported => 10
  | .deadlineMissed => 15 | .aborted => 7 | .faultContained => 4 | .fencedOut => 1
  | .signatureInvalid => 8 | .configInvalid => 11 | .capacityExceeded => 12 | .overflow => 14
  | .checksumFault => 3 | .indexExhausted => 13

/-- Of two codes that apply, the one with the lower rank (R19). -/
def codeMin (a b : Code) : Code := if codeRank a ≤ codeRank b then a else b

/-- The code with the lowest rank among several (R19); OK when none applies. -/
def codePick (cs : List Code) : Code := cs.foldl codeMin .ok

end Sys2Proof.Machine
end

