-- ==== Sys2Proof/Machine/TileState.lean ====
section
/-! DEFINITION. State of a matrix tile, a sort deck and their commands (03, 04, 09 R236). -/

namespace Sys2Proof.Machine

/-- The five arithmetic flags of R56. -/
structure AFlags where
  nanSeen : Bool := false
  infSeen : Bool := false
  satOut  : Bool := false
  satAcc  : Bool := false
  fmtErr  : Bool := false
deriving DecidableEq, Repr

/-- An exact value: (-1)^s × m × 2^e, an infinity, or a NaN. -/
inductive Num where
  | fin (s : Bool) (m : Nat) (e : Int)
  | inf (s : Bool)
  | nan
deriving DecidableEq, Repr

/-- A two's-complement accumulator that saturates and keeps its value (R55). -/
structure IAcc where
  v   : Int
  sat : Bool
deriving DecidableEq, Repr

/-- A cell of the array while K indices pass (R52 to R55, R69): its FP32 accumulator, empty until something enters it (R530), or its integer components; the roundings taken; Babs, in a checksum cell; and the flags that its products and sums set. -/
structure Acc where
  fp     : Option Num
  re     : IAcc
  im     : IAcc
  rounds : Nat
  babs   : Num
  flags  : AFlags
deriving DecidableEq, Repr

/-- An accumulator that nothing has entered. -/
def Acc.zero : Acc :=
  { fp := none, re := { v := 0, sat := false }, im := { v := 0, sat := false }, rounds := 0, babs := .fin false 0 0, flags := {} }

/-- The cells of an output block (R68, R69): data cells row by row, the checksum row, the checksum column, and the corner. -/
structure Bank where
  cells  : List (List Acc)
  row    : List Acc
  col    : List Acc
  corner : Acc
deriving DecidableEq, Repr

/-- Who wrote a command into a queue (R60, R62): a context of a lane, or the sequencer of a grove for a request context. -/
inductive Issuer where
  | lane (l : LaneId) (c : LaneCtxId)
  | seq  (g : GroveId) (ctx : Nat)
deriving DecidableEq, Repr

/-- The context a tile command serves. -/
def seqCtx : Issuer → Option Nat
  | .seq _ k => some k
  | .lane _ _ => none

/-- A command in a tile's queue: its words, its issuer, the issuer's space, and the issuer's seed and step counter (R48). -/
structure TileCmd where
  words  : List Word
  issuer : Issuer
  space  : Space
  seed   : DWord
  step   : Word
  late   : Bool          -- R218
deriving DecidableEq, Repr

/-- What a completion record carries beside TAG and END_NS (R62). -/
structure RecBody where
  status : Code
  flags  : AFlags
  ckM    : Nat
  ckN    : Nat
  ac     : Nat          -- ACTIVE_AC
  endNs  : Word         -- END_NS
  late   : Bool         -- it closed after the command's DEADLINE, whichever code STATUS carries (R19, R244, R245)
deriving DecidableEq, Repr

/-- The tile operations of R63. -/
inductive TileOp where
  | matmul | conv | dft | load | store | wait | signal | gate
deriving DecidableEq, Repr

/-- A command that has left the queue and whose record is not posted (R61, R62): its progress, its flags, ACTIVE_AC so far, and its record body once it has completed. -/
structure Flight where
  cmd    : TileCmd
  op     : TileOp
  m      : Nat             -- rows of a MATMUL, read once at decode (R104)
  block  : Nat             -- output blocks, DFT passes, or rows of a transfer that are finished
  off    : Nat             -- bytes moved of a transfer's present row (R79, R80)
  part   : List Byte       -- bytes of a LOAD that have landed and do not yet fill a group of the destination
  point  : Bool            -- the transfer stands where 64 KiB more have been moved (R80)
  flags  : AFlags
  ac     : Nat
  inject : Option Nat      -- an armed TILE_ACC argument it consumed and has not used (R531)
  waits  : Bool            -- it waits on a tier (R295)
  ran    : Bool            -- it executed: it was not refused or EMPTY at decode (R71)
  done   : Option RecBody
deriving DecidableEq, Repr

/-- Scheduler states of R236. -/
inductive TSched where
  | none | floor | preempt | spill | scrubIn | standby | lent | drain | scrubOut | restore
deriving DecidableEq, Repr

/-- What the save area holds after R83: the queue, the engine state, and with an array command inside an output block the K-blocks done, the active accumulator bank and the checksum cells (R58, R82). -/
structure SaveArea where
  queue   : List TileCmd
  flights : List Flight
  bank    : Option (Nat × Bank)
deriving DecidableEq, Repr

/-- A spilled image (R232): operand region, save area, and the owning instance's context. -/
structure SpillImage where
  store : Memory
  save  : SaveArea
  inst  : Nat
deriving DecidableEq, Repr

/-- One tile (R20, R58 to R84). -/
structure Tile where
  store    : Memory                     -- 512 KiB, R58; the save area's content is saved below
  queue    : List TileCmd               -- R60
  flights  : List Flight                -- R61, R62, oldest first
  suspect  : Bool                       -- R71
  held     : Bool                       -- R84
  scrub    : Bool                       -- R84
  faultRun : Nat                        -- R71
  preq     : Bool                       -- R83: PREQ pending
  xferPoint : Bool                      -- R80: the transfer engine is at a pre-emption point
  bank     : Option (Nat × Bank)        -- R82: stopped inside an output block, the K-blocks done and the cells
  saving   : Bool                       -- R83: a save is in progress
  saved    : Option SaveArea            -- R58, R83
  live     : Option (Nat × Nat)         -- R251: LIVE mark, instance and context
  lastInst : Option Nat                 -- R232, R255: instance whose context last wrote the store
  holder   : Option Nat                 -- R255: context that holds the tile
  sched    : TSched                     -- R236
  image    : Option SpillImage          -- R232
  imageLost : Bool                      -- R238: no restore when the lending ends
  dropImage : Bool                      -- R251, R272, R326, R328: the lent tile is not restored on return
  testing  : Bool                       -- R496: a TILE test runs
  testPass : Bool                       -- R496: the last TILE test of this tile passed
deriving DecidableEq, Repr

/-- A tile with nothing in it: zero store, empty queue. -/
def Tile.idle : Tile :=
  { store := [], queue := [], flights := [], suspect := false, held := false, scrub := false, faultRun := 0,
    preq := false, xferPoint := false, bank := none, saving := false, saved := none, live := none, lastInst := none,
    holder := none, sched := .none, image := none, imageLost := false, dropImage := false, testing := false,
    testPass := false }

/-- A floor tile after start-up (R22, R236). -/
def Tile.idleFloor : Tile := { Tile.idle with sched := .floor }

/-- A sort-deck command (R105) with the tile and destination mask already in grove numbers. -/
structure DeckCmd where
  words  : List Word
  ctx    : Nat          -- the request context it serves
  domain : Nat
  late   : Bool         -- R218
  seq    : Nat := 0     -- its order of arrival at the deck (R109)
  spent  : Nat := 0     -- arithmetic clocks that the deck has given it (R109)
deriving DecidableEq, Repr

/-- A coding-engine command (R190): its words, its lane context, its progress and its result. -/
structure CodeCmd where
  words   : List Word
  lane    : LaneId
  lctx    : LaneCtxId
  seq     : Nat            -- order of acceptance among the die's engines (R202)
  late    : Bool           -- R218
  started : Bool           -- it has left the queue and its blocks are being taken (R193)
  blocks  : Nat            -- its code blocks or segments
  next    : Nat            -- blocks finished
  entry   : Option Nat     -- the directory entry it uses (R202)
  coded   : List (List Bool) -- the bits of its blocks, first to last
  ac      : Nat            -- clocks spent (R197, R198)
  itMax   : Nat
  cbErr   : Nat
deriving DecidableEq, Repr

/-- A command as CISS writes it. -/
def CodeCmd.fresh (ws : List Word) (l : LaneId) (c : LaneCtxId) (seq : Nat) (late : Bool) : CodeCmd :=
  { words := ws, lane := l, lctx := c, seq := seq, late := late, started := false, blocks := 0, next := 0, entry := none,
    coded := [], ac := 0, itMax := 0, cbErr := 0 }

/-- One grove (R20): sort deck, coding engine, park state. -/
structure Grove where
  deck0    : Option DeckCmd      -- R109: two command contexts
  deck1    : Option DeckCmd
  deckWait : List DeckCmd        -- R109: further commands wait
  deckSeq  : Nat := 0            -- commands that have reached the deck
  deckOn   : Option Bool := none -- R109: the context that the deck serves, true for the second
  ceQueue  : List CodeCmd        -- R189: commands in the queue and in progress, oldest first
  ceBusy   : Option Nat          -- the one whose block is in progress, by its order of acceptance (R193)
  parked   : Bool                -- R483
  parkPending : Bool             -- R483
  unparking : Bool               -- R484
deriving DecidableEq, Repr

def Grove.idle : Grove :=
  { deck0 := none, deck1 := none, deckWait := [], ceQueue := [], ceBusy := none, parked := false, parkPending := false, unparking := false }

/-- A grove parked at reset (R490, R492). -/
def Grove.idleParked : Grove := { Grove.idle with parked := true }

end Sys2Proof.Machine
end

