-- ==== Sys2Proof/Machine/LaneState.lean ====
section
/-! DEFINITION. State of a DSP lane and its eight contexts (05, 09 R240, R245, 16 R420). -/

namespace Sys2Proof.Machine

/-- Context states of R140. -/
inductive LaneCtxState where
  | off | sleep | ready | run | faulted | stopping
deriving DecidableEq, Repr

/-- Lane fault codes of R143. -/
inductive LaneFault where
  | none | illegal | addr | stack | count | ctr | code | ecc | cfg | qfull
deriving DecidableEq, Repr

/-- What a sleeping or blocked context waits for (R137, R138). -/
inductive LaneWaitOn where
  | nothing
  | counter (a : Nat) (thresh : Word)
  | record
  | time (t : Word)
  | mailbox
  | issue                 -- a TISS or CISS blocks (R134, R137)
deriving DecidableEq, Repr

/-- One level of LOOP (R133): iterations left, first instruction, length, and the first body instruction's index. -/
structure LoopLevel where
  left  : Nat
  start : Nat
  len   : Nat
deriving DecidableEq, Repr

/-- An accumulator slot: its value and whether it has saturated (R128). -/
structure AcSlot where
  val : Int
  sat : Bool
deriving DecidableEq, Repr

/-- One pipeline context (R114, R136 to R144). -/
structure LaneCtx where
  s      : List Word            -- S0 to S15
  v      : List (BitVec 128)    -- V0 to V7
  ac     : List (List AcSlot)   -- AC0 to AC3, 8 slots each
  p      : List (BitVec 16)
  n      : List (BitVec 16)
  base   : List (BitVec 16)
  len    : List Nat
  pc     : Nat
  stack  : List Nat
  loops  : List LoopLevel       -- innermost first
  rep    : Option Nat           -- a REPEAT count whose instruction runs next (R131)
  z      : Bool
  lt     : Bool
  ltu    : Bool
  satOut : Bool
  satAcc : Bool
  nanSeen : Bool
  infSeen : Bool
  cdl    : Nat                  -- 24 bits
  src    : Word
  state  : LaneCtxState
  fault  : LaneFault
  faultPc : Nat
  outst  : Nat
  port   : List (List Word)     -- completion port, head first (R136)
  arriving : List (List Word)   -- posted records on their way
  wait   : LaneWaitOn
  halted : Bool                 -- it ended its slot with HALT (R140)
  fresh  : Bool                 -- enabled since the last slot start (R140)
  seq    : Nat                  -- when it became ready, for R141's ties
  faultSlots : Nat              -- run of slots in which it faulted (R143)
  ranSlot : Bool                -- it ran in the present slot
  left   : Nat                  -- LEFT (R240)
  exh    : Bool
  ovr    : Nat                  -- OVR charged at this slot's start
  newOvr : Nat                  -- overrun counted since LEFT reached 0 (R241)
  ovrOpen : Bool                -- LEFT reached 0 in the REPEAT span that runs now: its clocks count (R241)
  due    : List (Nat × Nat)     -- results in flight: a register (V 0 to 7, an accumulator's value 16 to 19) and the clock from which it may be used (R125, R126)
  cdlSet : Bool                 -- the present CDL has not been missed, and no HALT has followed it (R245)
  seed   : DWord                -- cell pipeline seed (R420)
  late   : Bool                 -- R218
  issueLate : Bool              -- LATE of the command that a blocked TISS or CISS holds (R218)
  step   : DWord                -- cell pipeline step counter (R420)
deriving DecidableEq, Repr

/-- Registers at a start (R115): everything zero. -/
def LaneCtx.zero : LaneCtx :=
  { s := List.replicate 16 0, v := List.replicate 8 0, ac := List.replicate 4 (List.replicate 8 { val := 0, sat := false }),
    p := List.replicate 8 0, n := List.replicate 8 0, base := List.replicate 8 0, len := List.replicate 8 0, pc := 0,
    stack := [], loops := [], rep := none, z := false, lt := false, ltu := false, satOut := false, satAcc := false,
    nanSeen := false, infSeen := false, cdl := 0, src := 0, state := .off, fault := .none, faultPc := 0, outst := 0,
    port := [], arriving := [], wait := .nothing, halted := false, fresh := false, seq := 0, faultSlots := 0, ranSlot := false,
    left := 0, exh := false, ovr := 0, newOvr := 0, ovrOpen := false, due := [], cdlSet := false, seed := 0, late := false, issueLate := false, step := 0 }

/-- One DSP lane. -/
structure Lane where
  x      : Memory
  y      : Memory
  c      : Memory
  prog   : Memory                   -- 32 KiB (R119)
  seals  : List (Nat × Nat × Nat)   -- sealed ranges: base, size, handle (R470)
  ctxs   : Table LaneCtx
  runCtx : Nat
  running : Bool
  stbyCtx : Nat
  stbyValid : Bool
  mbTail : Word                     -- the device's copy of TAIL (R335)
  ticks  : Nat                      -- order of becoming ready (R141)
  cache  : List (Nat × Nat)         -- loop cache, and the word a REPEAT runs: index and word (R131, R133)
  free   : Nat                      -- the arithmetic clock from which the next instruction may issue (R125)
  cold   : Bool                     -- the switch emptied the loop cache of a running loop, and no loop-back has followed (R133)
deriving DecidableEq, Repr

def Lane.reset : Lane :=
  { x := [], y := [], c := [], prog := [], seals := [], ctxs := [], runCtx := 0, running := false,
    stbyCtx := 0, stbyValid := false, mbTail := 0, ticks := 0, cache := [], free := 0, cold := false }

end Sys2Proof.Machine
end

