-- ==== Sys2Proof/Machine/Numbers.lean ====
section
/-! DEFINITION. Number formats: exact values, decoding, rounding and conversion (R31 to R50), and the FP32 and integer accumulators (R52 to R55, R530). -/

namespace Sys2Proof.Machine

/-- Flags that either of two operations set. -/
def AFlags.or (a b : AFlags) : AFlags :=
  { nanSeen := a.nanSeen || b.nanSeen, infSeen := a.infSeen || b.infSeen, satOut := a.satOut || b.satOut,
    satAcc := a.satAcc || b.satAcc, fmtErr := a.fmtErr || b.fmtErr }

/-- AFLAGS in the order of R62: bit 0 NAN_SEEN to bit 4 FMT_ERR. -/
def AFlags.toNat (a : AFlags) : Nat :=
  b1 a.nanSeen + 2 * b1 a.infSeen + 4 * b1 a.satOut + 8 * b1 a.satAcc + 16 * b1 a.fmtErr

/-- How a format treats its top exponent (R34). -/
inductive FpTop where
  | ieee      -- infinity and NaNs
  | e4m3      -- S.1111.111 is NaN, no infinity
  | finite    -- every pattern is finite
deriving DecidableEq, Repr

/-- A floating-point layout (R34). -/
structure FpSpec where
  eb   : Nat
  mb   : Nat
  bias : Nat
  top  : FpTop
deriving DecidableEq, Repr

def fp32 : FpSpec := { eb := 8, mb := 23, bias := 127, top := .ieee }
def fp16 : FpSpec := { eb := 5, mb := 10, bias := 15, top := .ieee }
def bf16 : FpSpec := { eb := 8, mb := 7, bias := 127, top := .ieee }

/-- The layout of a floating-point format code (R31, R34). -/
def fpSpec : Nat → Option FpSpec
  | 0x1 => some fp32
  | 0x2 => some fp16
  | 0x3 => some bf16
  | 0x4 => some { eb := 4, mb := 3, bias := 7, top := .e4m3 }
  | 0x5 => some { eb := 5, mb := 2, bias := 15, top := .ieee }
  | 0x6 => some { eb := 3, mb := 2, bias := 3, top := .finite }
  | 0x7 => some { eb := 2, mb := 3, bias := 1, top := .finite }
  | 0x8 => some { eb := 2, mb := 1, bias := 1, top := .finite }
  | _ => none

/-- Bits per element, complex samples counted whole, of a format other than CBFP (R31). -/
def fmtBits : Nat → Nat
  | 0x1 => 32 | 0x2 => 16 | 0x3 => 16 | 0x4 => 8 | 0x5 => 8 | 0x6 => 6 | 0x7 => 6 | 0x8 => 4
  | 0x9 => 8 | 0xA => 4 | 0xB => 16 | 0xC => 32 | 0xD => 32 | 0xF => 2 | _ => 0

/-- CBFP mantissa width of a CBW field (R38). -/
def cbwWidth : Nat → Nat
  | 0 => 9 | 1 => 12 | 2 => 14 | _ => 16

/-- Bytes of one CBFP block (R38). -/
def cbfpBytes (cbw : Nat) : Nat := 1 + 3 * cbwWidth cbw

/-- Bytes of a row of n elements, whole groups (R32, R33, R40). -/
def rowBytes (fmt cbw n : Nat) : Nat :=
  match fmt with
  | 0x6 | 0x7 => cdiv n 4 * 3
  | 0xE => cdiv n 12 * cbfpBytes cbw
  | f => cdiv (n * fmtBits f) 8

/-- 2^k for a non-negative exponent, 1 below. -/
def pow2 (k : Int) : Nat := 2 ^ k.toNat

/-- Position of the leading bit of m × 2^e. -/
def leadPos (m : Nat) (e : Int) : Int := (Nat.log2 m : Int) + e

/-- Rounding modes of R46. -/
inductive Rnd where
  | nearest | zero | stoch (r : Nat)
deriving DecidableEq, Repr

/-- A magnitude m × 2^e in units of 2^q, rounded (R46, R48). -/
def roundUnits (rnd : Rnd) (m : Nat) (e q : Int) : Nat :=
  if q ≤ e then m * pow2 (e - q)
  else
    let d := (q - e).toNat
    let quo := m / 2 ^ d
    let rem := m % 2 ^ d
    match rnd with
    | .nearest => if 2 ^ d < 2 * rem || (2 ^ d = 2 * rem && quo % 2 = 1) then quo + 1 else quo
    | .zero => quo
    | .stoch r =>
      let dd := if 16 ≤ d then rem / 2 ^ (d - 16) else rem * 2 ^ (16 - d)
      if 0x10000 ≤ dd + r then quo + 1 else quo

/-- Value of a floating-point pattern (R34). -/
def decodeFp (f : FpSpec) (w : Nat) : Num :=
  let s := w / 2 ^ (f.eb + f.mb) % 2 = 1
  let ex := w / 2 ^ f.mb % 2 ^ f.eb
  let m := w % 2 ^ f.mb
  let v : Num := if ex = 0 then .fin s m (1 - f.bias - f.mb) else .fin s (2 ^ f.mb + m) ((ex : Int) - f.bias - f.mb)
  match f.top with
  | .ieee => if ex = 2 ^ f.eb - 1 then (if m = 0 then .inf s else .nan) else v
  | .e4m3 => if ex = 2 ^ f.eb - 1 && m = 2 ^ f.mb - 1 then .nan else v
  | .finite => v

/-- Largest finite value: its pattern without the sign (R34). -/
def maxFinBits (f : FpSpec) : Nat :=
  match f.top with
  | .ieee => (2 ^ f.eb - 1) * 2 ^ f.mb - 1
  | .e4m3 => 2 ^ (f.eb + f.mb) - 2
  | .finite => 2 ^ (f.eb + f.mb) - 1

/-- The canonical NaN pattern of R36; formats without NaN write +0. -/
def nanBits (f : FpSpec) : Nat :=
  match f.top with
  | .ieee => (2 ^ f.eb - 1) * 2 ^ f.mb + 2 ^ (f.mb - 1)
  | .e4m3 => 2 ^ (f.eb + f.mb) - 1
  | .finite => 0

/-- Conversion into a floating-point format (R35, R36, R49). -/
def encodeFp (f : FpSpec) (rnd : Rnd) (sat : Bool) (x : Num) : Nat × AFlags :=
  let sgn (s : Bool) (w : Nat) : Nat := if s then 2 ^ (f.eb + f.mb) + w else w
  match x with
  | .nan => (nanBits f, { nanSeen := true })
  | .inf s =>
    match f.top with
    | .ieee => (sgn s ((2 ^ f.eb - 1) * 2 ^ f.mb), { infSeen := true })
    | .e4m3 =>
      if sat then (sgn s (maxFinBits f), { infSeen := true, satOut := true })
      else (nanBits f, { infSeen := true, nanSeen := true })
    | .finite => (sgn s (maxFinBits f), { infSeen := true, satOut := true })
  | .fin s m e =>
    if m = 0 then (sgn s 0, {})
    else
      let q := max (leadPos m e) (1 - f.bias) - f.mb
      let u := roundUnits rnd m e q
      -- the pattern with the exponent range unbounded: a carry out of the mantissa raises the exponent
      let pat := (q + f.mb + f.bias - 1) * 2 ^ f.mb + u
      if pat ≤ maxFinBits f then (sgn s pat.toNat, {})
      else
        match f.top with
        | .ieee =>
          if sat then (sgn s (maxFinBits f), { satOut := true })
          else (sgn s ((2 ^ f.eb - 1) * 2 ^ f.mb), { infSeen := true })
        | .e4m3 =>
          if sat then (sgn s (maxFinBits f), { satOut := true })
          else (nanBits f, { nanSeen := true })
        | .finite => (sgn s (maxFinBits f), { satOut := true })

/-- Two's-complement pattern of an integer in b bits. -/
def twos (b : Nat) (v : Int) : Nat := (v % (2 ^ b : Int)).toNat

/-- Signed value of a b-bit pattern. -/
def signed (b w : Nat) : Int := if w % 2 ^ b < 2 ^ (b - 1) then (w % 2 ^ b : Nat) else (w % 2 ^ b : Nat) - (2 ^ b : Int)

/-- Conversion into a b-bit integer format after scaling by 2^k (R49). -/
def encodeInt (b : Nat) (k : Int) (rnd : Rnd) (x : Num) : Nat × AFlags :=
  let hi : Int := 2 ^ (b - 1) - 1
  let lo : Int := -(2 ^ (b - 1))
  match x with
  | .nan => (0, { nanSeen := true })
  | .inf s => (twos b (if s then lo else hi), { infSeen := true, satOut := true })
  | .fin s m e =>
    let u : Int := roundUnits rnd m (e + k) 0
    let v := if s then -u else u
    if hi < v then (twos b hi, { satOut := true })
    else if v < lo then (twos b lo, { satOut := true })
    else (twos b v, {})

/-- Conversion into a real format code 0x1 to 0xC (R49). -/
def encodeReal (fmt : Nat) (rnd : Rnd) (sat : Bool) (x : Num) : Nat × AFlags :=
  match fpSpec fmt with
  | some f => encodeFp f rnd sat x
  | none =>
    match fmt with
    | 0x9 => encodeInt 8 0 rnd x
    | 0xA => encodeInt 4 0 rnd x
    | 0xB => encodeInt 16 15 rnd x
    | _ => encodeInt 32 0 rnd x

/-- Exact value of an integer. -/
def numOfInt (v : Int) (e : Int) : Num := .fin (v < 0) v.natAbs e

/-- The value of a ternary pattern, and whether it is the reserved one (R41). -/
def trn2 (w : Nat) : Int × Bool :=
  match w % 4 with
  | 1 => (1, false) | 3 => (-1, false) | 2 => (0, true) | _ => (0, false)

/-- Exact value of a stored real element (R34, R37, R41), and FMT_ERR. MXINT8 elements are scaled where their scale is applied. -/
def decodeReal (fmt w : Nat) : Num × Bool :=
  match fpSpec fmt with
  | some f => (decodeFp f w, false)
  | none =>
    match fmt with
    | 0x9 => (numOfInt (signed 8 w) 0, false)
    | 0xA => (numOfInt (signed 4 w) 0, false)
    | 0xB => (numOfInt (signed 16 w) (-15), false)
    | 0xC => (numOfInt (signed 32 w) 0, false)
    | _ => (numOfInt (trn2 w).1 0, (trn2 w).2)

/-- Negation. -/
def Num.neg : Num → Num
  | .fin s m e => .fin (!s) m e
  | .inf s => .inf (!s)
  | .nan => .nan

def Num.isNan : Num → Bool | .nan => true | _ => false
def Num.isInf : Num → Bool | .inf _ => true | _ => false
def Num.isZero : Num → Bool | .fin _ 0 _ => true | _ => false

/-- Exact product (R36: ∞ × 0 is NaN). -/
def Num.mul : Num → Num → Num
  | .nan, _ => .nan
  | _, .nan => .nan
  | .fin s m e, .fin t n f => .fin (s != t) (m * n) (e + f)
  | .inf s, .inf t => .inf (s != t)
  | .inf s, .fin t n _ => if n = 0 then .nan else .inf (s != t)
  | .fin s m _, .inf t => if m = 0 then .nan else .inf (s != t)

/-- |x|. -/
def Num.abs : Num → Num
  | .fin _ m e => .fin false m e
  | .inf _ => .inf false
  | .nan => .nan

/-- Value × 2^k. -/
def Num.shift (k : Int) : Num → Num
  | .fin s m e => .fin s m (e + k)
  | x => x

/-- Signed integer of a finite value in units of 2^q, q at or below its exponent. -/
def finUnits (s : Bool) (m : Nat) (e q : Int) : Int := if s then -(m * pow2 (e - q) : Nat) else (m * pow2 (e - q) : Nat)

/-- Exact sum (R36: ∞ + (−∞) is NaN; IEEE zero signs). -/
def Num.add : Num → Num → Num
  | .nan, _ => .nan
  | _, .nan => .nan
  | .inf s, .inf t => if s = t then .inf s else .nan
  | .inf s, .fin _ _ _ => .inf s
  | .fin _ _ _, .inf t => .inf t
  | .fin s m e, .fin t n f =>
    let q := min e f
    let v := finUnits s m e q + finUnits t n f q
    if v = 0 then .fin (s && t && m = 0 && n = 0) 0 q else .fin (v < 0) v.natAbs q

/-- x < y for values that are not NaN. -/
def Num.lt : Num → Num → Bool
  | .inf s, .inf t => s && !t
  | .inf s, .fin _ _ _ => s
  | .fin _ _ _, .inf t => !t
  | .fin s m e, .fin t n f => decide (finUnits s m e (min e f) < finUnits t n f (min e f))
  | _, _ => false

/-- x ≤ y for values that are not NaN. -/
def Num.le (x y : Num) : Bool := !x.isNan && !y.isNan && !(Num.lt y x)

/-- One rounding to FP32 at nearest, even, SAT = 0 (R52, R53, R530). -/
def rnd32 (x : Num) : Num := decodeFp fp32 (encodeFp fp32 .nearest false x).1

/-- A magnitude rounded to FP32 toward +∞ (R69). -/
def roundUp32 (x : Num) : Num :=
  match x with
  | .fin _ m e =>
    if m = 0 then .fin false 0 0
    else
      let q := max (leadPos m e) (-126) - 23
      let u := if q ≤ e then m * pow2 (e - q) else cdiv m (2 ^ (q - e).toNat)
      if 127 < leadPos u q then .inf false else .fin false u q
  | y => y.abs

/-- Value of an FP32 word. -/
def ofFp32 (w : Word) : Num := decodeFp fp32 w.toNat

/-- Flags of a value that is read or produced (R56). -/
def numFlags (x : Num) : AFlags := { nanSeen := x.isNan, infSeen := x.isInf }

/-- The value of an E8M0 scale byte (R42). -/
def e8m0 (s : Nat) : Num := if s = 0xFF then .nan else .fin false 1 ((s : Int) - 127)

/-- The 16 random bits of R48. -/
def stochBits (seed : DWord) (step : Word) (ctr : Nat) : Nat :=
  let z0 := seed ^^^ ((step.setWidth 64 <<< 32) ||| BitVec.ofNat 64 (ctr % 2 ^ 32))
  let z1 := z0 + 0x9E3779B97F4A7C15#64
  let z2 := (z1 ^^^ (z1 >>> 30)) * 0xBF58476D1CE4E5B9#64
  let z3 := (z2 ^^^ (z2 >>> 27)) * 0x94D049BB133111EB#64
  let z4 := z3 ^^^ (z3 >>> 31)
  (z4 >>> 48).toNat

/-- The rounding of output element idx under an RND field (R46, R48). -/
def rndOf (rnd : Nat) (seed : DWord) (step srbase : Word) (idx : Nat) : Rnd :=
  match rnd with
  | 0 => .nearest
  | 1 => .zero
  | _ => .stoch (stochBits seed step ((srbase.toNat + idx) % 2 ^ 32))

/-- A part of a product more than 80 positions below the leading position L, truncated toward zero (R52). -/
def trunc80 (lead : Int) : Num → Num
  | .fin s m e => if e < lead - 80 then .fin s (m / 2 ^ (lead - 80 - e).toNat) (lead - 80) else .fin s m e
  | x => x

/-- The leading position of the largest-magnitude product of a group. -/
def groupLead (ps : List Num) : Int :=
  ps.foldl (fun a p => match p with | .fin _ m e => if m = 0 then a else max a (leadPos m e) | _ => a) (-100000)

/-- The exact sum of a group's products (R52, R54): +0 when it is zero, unless every product is −0. -/
def groupSum (half : Bool) (ps : List Num) : Num :=
  match (if half then ps.map (trunc80 (groupLead ps)) else ps) with
  | [] => .fin false 0 0
  | p :: t => t.foldl Num.add p

/-- An FP32 accumulator: empty, or a value (R530). -/
abbrev FAcc := Option Num

/-- A group added to the accumulator (R52, R96, R530). -/
def faccGroup (half : Bool) (acc : FAcc) (ps : List Num) : FAcc :=
  match ps with
  | [] => acc
  | _ =>
    match acc with
    | none => some (rnd32 (groupSum half ps))
    | some a => some (rnd32 (Num.add a (groupSum half ps)))

/-- One fused term added to the accumulator (R53). -/
def faccTerm (acc : FAcc) (p : Num) : FAcc :=
  match acc with
  | none => some (rnd32 p)
  | some a => some (rnd32 (Num.add a p))

/-- The written value of an FP32 accumulator: +0 when it received no product (R530). -/
def faccVal (acc : FAcc) : Num := acc.getD (.fin false 0 0)

/-- A term added to an accumulator of b bits: it saturates and then keeps its value (R55). -/
def iaccAdd (b : Nat) (a : IAcc) (t : Int) : IAcc :=
  if a.sat then a
  else
    let v := a.v + t
    if (2 ^ (b - 1) - 1 : Int) < v then { v := 2 ^ (b - 1) - 1, sat := true }
    else if v < -(2 ^ (b - 1) : Int) then { v := -(2 ^ (b - 1)), sat := true }
    else { v := v, sat := false }

/-- Bits of an element in a packed run: w bits at bit offset off of the run that starts at byte a (R32). -/
def readBits (m : Memory) (a off w : Nat) : Nat :=
  leNat (m.readN (a + off / 8) (cdiv (off % 8 + w) 8)) / 2 ^ (off % 8) % 2 ^ w

/-- w bits written at bit offset off of the run at byte a; the other bits of the bytes keep their values. -/
def writeBits (m : Memory) (a off w v : Nat) : Memory :=
  let n := cdiv (off % 8 + w) 8
  let old := leNat (m.readN (a + off / 8) n)
  let lo := old % 2 ^ (off % 8)
  let hi := old / 2 ^ (off % 8 + w)
  Memory.writeN (a + off / 8) (leBytes n (lo + (v % 2 ^ w) * 2 ^ (off % 8) + hi * 2 ^ (off % 8 + w))) m

/-- Bits from a most-significant-first stream that starts at byte a (R38). -/
def readBitsMsb (m : Memory) (a off w : Nat) : Nat :=
  let n := cdiv (off % 8 + w) 8
  beNat (m.readN (a + off / 8) n) / 2 ^ (8 * n - off % 8 - w) % 2 ^ w

/-- Component c (0 to 23) of the CBFP block at byte a, in units of 2^−15 (R38, R39). -/
def cbfpComp (m : Memory) (a cbw c : Nat) : Int :=
  let w := cbwWidth cbw
  signed w (readBitsMsb m (a + 1) (c * w) w) * 2 ^ ((m.read a).toNat % 16)

/-- Complex sample j of a row that starts at byte a, CI16 or CBFP, in units of 2^−15 (R32, R38). -/
def readCplx (m : Memory) (fmt cbw a j : Nat) : Int × Int :=
  if fmt = 0xE then
    let b := a + j / 12 * cbfpBytes cbw
    (cbfpComp m b cbw (2 * (j % 12)), cbfpComp m b cbw (2 * (j % 12) + 1))
  else (signed 16 (readBits m (a + 4 * j) 0 16), signed 16 (readBits m (a + 4 * j + 2) 0 16))

/-- A component fits CBFP exponent e at width w (R40 step 1); a NaN takes no part, an infinity never fits. -/
def cbfpFits (w e : Nat) : Num → Bool
  | .nan => true
  | .inf _ => false
  | .fin s m x =>
    Num.le (.fin s m (x + 15)) (.fin false (2 ^ (w - 1) - 1) e) && Num.le (.fin true (2 ^ (w - 1)) e) (.fin s m (x + 15))

/-- The smallest exponent that fits every component, 15 when none does (R40). -/
def cbfpExp (w : Nat) (comps : List Num) : Nat :=
  ((List.range 16).find? (fun e => comps.all (cbfpFits w e))).getD 15

/-- One CBFP component as a mantissa (R40 steps 2, 3). -/
def cbfpMant (w e : Nat) (rnd : Rnd) (x : Num) : Nat × AFlags := encodeInt w (15 - (e : Int)) rnd x

/-- The bytes of a CBFP block of 24 components with their roundings (R38, R40), and its flags. -/
def cbfpBlock (cbw : Nat) (comps : List (Num × Rnd)) : List Byte × AFlags :=
  let w := cbwWidth cbw
  let e := cbfpExp w (comps.map (·.1))
  let ms := comps.map (fun c => cbfpMant w e c.2 c.1)
  let stream := ms.foldl (fun a m => a * 2 ^ w + m.1) 0
  (BitVec.ofNat 8 e :: beBytes (3 * w) stream, (ms.map (·.2)).foldl AFlags.or {})

/-- emax of the scaled element formats (R45). -/
def scaleEmax : Nat → Int
  | 0x4 => 8 | 0x5 => 15 | 0x6 => 4 | 0x7 => 2 | 0x8 => 2 | _ => 0

/-- The larger of two magnitudes, infinity largest; NaN is handled before. -/
def magMax (a b : Num) : Num :=
  match a, b with
  | .inf _, _ => .inf false
  | _, .inf _ => .inf false
  | .fin _ m e, .fin _ n f => if Num.lt (.fin false m e) (.fin false n f) then .fin false n f else .fin false m e
  | .fin _ m e, .nan => .fin false m e
  | .nan, y => y

/-- Largest finite magnitude of a scaled element format, for its sign (R34, R37). -/
def elemMax (fmt : Nat) (s : Bool) : Num :=
  match fpSpec fmt with
  | some f => (decodeFp f (maxFinBits f)).abs
  | none => .fin false (if s then 128 else 127) 0

/-- An element of a scaled block divided by the block's scale 2^k, saturation always on (R45): an infinity becomes the largest finite value of its sign. SAT_OUT marks a quotient beyond the largest finite value before it is rounded, as R45's example has it for 6.5 into E2M1, where R49 alone would compare the rounded one (DEDUCED, log entry 47). -/
def scaledElem (fmt : Nat) (k : Int) (x : Num × Rnd) : Nat × AFlags :=
  match x.1 with
  | .inf s =>
    let r := encodeReal fmt x.2 true (.fin s 1 1024)
    (r.1, { r.2 with infSeen := true })
  | .nan => (0, { nanSeen := true })
  | .fin s m e =>
    let r := encodeReal fmt x.2 true (.fin s m (e + k))
    (r.1, { r.2 with satOut := r.2.satOut || Num.lt (elemMax fmt s) (.fin false m (e + k)) })

/-- A scaled output block (R45): scale byte, element patterns, flags. The zero elements of an all-zero block and of a block with a NaN are written as pattern 0, whatever the sign of the value (DESIGN CHOICE, log entry 93: R45 says zero elements, and R35 speaks of conversions). -/
def scaledBlock (fmt : Nat) (xs : List (Num × Rnd)) : Nat × List Nat × AFlags :=
  if xs.any (·.1.isNan) then (0xFF, xs.map (fun _ => 0), { nanSeen := true })
  else
    match (xs.map (·.1)).foldl magMax (.fin false 0 0) with
    | .fin _ 0 _ => (0, xs.map (fun _ => 0), {})
    | amax =>
      -- an infinite amax clamps to 127 like any other exponent past it
      let se : Int := match amax with | .fin _ m e => max (-127) (min 127 (leadPos m e - scaleEmax fmt)) | _ => 127
      let ys := xs.map (scaledElem fmt ((if fmt = 0x9 then 6 else 0) - se))
      ((se + 127).toNat, ys.map (·.1), (ys.map (·.2)).foldl AFlags.or {})

end Sys2Proof.Machine
end

