-- ==== Sys2Proof/Machine/Flags.lean ====
section
/-! DEFINITION. The flags of a DSP lane context: Z, LT, LTU of CMP, and the sticky arithmetic flags (05 R114, R122, R125, R130). -/

namespace Sys2Proof.Machine

/-- CMP: Z, LT and LTU of S_RA − S_RB (R125). -/
def LaneCtx.compare (x : LaneCtx) (a b : Word) : LaneCtx := { x with z := a = b, lt := a.slt b, ltu := a.ult b }

/-- The conditions of BR by MOD (R122); none faults ILLEGAL. -/
def LaneCtx.condition (x : LaneCtx) : Nat → Option Bool
  | 0 => some true
  | 1 => some x.z
  | 2 => some !x.z
  | 3 => some x.lt
  | 4 => some !x.lt
  | 5 => some x.ltu
  | 6 => some !x.ltu
  | _ => none

/-- The sticky flags after an instruction that met these (R114, R130). -/
def LaneCtx.stick (x : LaneCtx) (f : AFlags) : LaneCtx :=
  { x with satOut := x.satOut || f.satOut, satAcc := x.satAcc || f.satAcc, nanSeen := x.nanSeen || f.nanSeen,
           infSeen := x.infSeen || f.infSeen }

/-- FLAGS of LANE_CTXc_STAT (R144). -/
def LaneCtx.flagBits (x : LaneCtx) : Nat := b1 x.satOut + 2 * b1 x.satAcc + 4 * b1 x.nanSeen + 8 * b1 x.infSeen

end Sys2Proof.Machine
end

