-- ==== Sys2Proof/Machine/RegMap.lean ====
section
/-! DEFINITION. The register map: pages, offsets, writable bits, reset values, shadow registers, defined events (R12 to R15, R505 to R520 and the register sections of every chapter). -/

namespace Sys2Proof.Machine

/-- Kind codes of R505. -/
def kindCode : PageKind → Nat
  | .tile => 0x01 | .lane => 0x02 | .grv => 0x03 | .srt => 0x04 | .sds => 0x05 | .hbm => 0x06 | .cnp => 0x07
  | .skd => 0x08 | .chp => 0x09 | .cru => 0x0A | .ckx => 0x0B | .lnd => 0x0C | .eth => 0x0D | .cxl => 0x0E
  | .time => 0x0F | .mbx => 0x10 | .fbk => 0x11 | .chk => 0x12 | .seed => 0x13 | .pwr => 0x14 | .bist => 0x15
  | .msix => 0x1F

/-- A page exists (R505, R506). -/
def pageExists (p : Page) : Bool :=
  match p.kind with
  | .tile => p.inst < 1024 | .lane => p.inst < 128 | .grv => p.inst < 32 | .srt => p.inst < 32 | .sds => p.inst < 5
  | .hbm => p.inst < 24 | .cnp => p.inst < 4 | .skd => p.inst < 64 | .chp => p.inst < 24 | .cru => p.inst < 4
  | .ckx => p.inst < 12 || (16 ≤ p.inst && p.inst < 20) || p.inst = 32
  | .lnd => p.inst < 4 | .eth => p.inst < 8 | .cxl => p.inst = 0 | .time => p.inst = 0 | .mbx => p.inst < 4096
  | .fbk => p.inst < 65 | .chk => p.inst < 64 | .seed => p.inst = 0 | .pwr => p.inst = 0 | .bist => p.inst = 0
  | .msix => p.inst = 0

/-- Die code that PAGE_ID reports (R505, R507). -/
def pageDie (p : Page) : Nat :=
  match p.kind with
  | .tile => p.inst / 256 | .lane => p.inst / 32 | .grv => p.inst / 8 | .srt => p.inst / 8
  | .sds => if p.inst < 4 then p.inst else 4
  | .hbm => p.inst / 6 | .cnp => p.inst | .skd => p.inst / 16 | .chp => p.inst / 6 | .cru => p.inst
  | .ckx => if p.inst < 6 || p.inst = 32 then 4 else if p.inst < 12 then 5 else p.inst - 16
  | .lnd => if p.inst < 2 then 4 else 5
  | .eth => if p.inst < 4 then 4 else 5
  | .chk => if p.inst < 32 then 4 else 5
  | _ => 4

/-- PAGE_ID (R507). -/
def pageId (p : Page) : Word := w32 (p.inst % 0x2000 + pageDie p * 0x2000 + kindCode p.kind * 0x10000)

/-- Number of a page, for tables. -/
def pageKey (p : Page) : Nat := kindCode p.kind * 2 ^ 16 + p.inst

/-- Number of a register: its page and offset. -/
def regKey (p : Page) (off : Nat) : Nat := pageKey p * 4096 + off

/-- A register, or count of them stride bytes apart: its writable bits and reset value. -/
structure RegDesc where
  off    : Nat
  count  : Nat
  stride : Nat
  mask   : Word
  reset  : Word
deriving DecidableEq, Repr

def reg1 (off : Nat) (mask reset : Word) : RegDesc := { off := off, count := 1, stride := 4, mask := mask, reset := reset }
def regN (off count stride : Nat) (mask reset : Word) : RegDesc :=
  { off := off, count := count, stride := stride, mask := mask, reset := reset }

/-- The register lies at off. -/
def descHit (off : Nat) (d : RegDesc) : Bool :=
  d.off ≤ off && (off - d.off) % d.stride = 0 && (off - d.off) / d.stride < d.count

/-- A ring written by software: base, configuration, and one index (R257, R273). -/
def ringDescs (o idx : Nat) : List RegDesc :=
  [reg1 o 0xFFFFFFC0 0, reg1 (o + 4) 0xFFFF 0, reg1 (o + 8) 0x10F 4, reg1 (o + idx) 0xFFFF 0]

/-- Events a page defines (R509, R510): bit b of the result. TGT_EMPTY of the map page stands where an MBX page has it (R333, R519; DEDUCED, log entry 107). -/
def evtBits (p : Page) : Word :=
  match p.kind with
  | .tile => 0x7 | .lane => 0x1FF | .sds => if p.inst < 4 then 0xF else 0x7F
  | .cru => 0x3
  | .ckx => if 16 ≤ p.inst && p.inst < 20 then 0x10 else if p.inst = 32 then 0xF else 0
  | .lnd => 0x1 | .eth => 0x300 | .time => 0x1F0F | .mbx => 0x1F03 | .fbk => if p.inst = 64 then 0x3 else 0
  | .chk => 0x3 | .seed => 0x7 | .pwr => 0x3 | .bist => 0x3
  | _ => 0

/-- Registers that software writes, other than shadow registers, EVT_MASK and EVT_VEC. Registers whose write is a command of its own and holds nothing are not listed. -/
def rwRegs (p : Page) : List RegDesc :=
  match p.kind with
  | .lane => [regN 0x100 8 0x20 0x0FFF1FF1 0, regN 0x104 8 0x20 0x1FFF0FFF 0, regN 0x108 8 0x20 0x07FFFFFF 0]
  | .sds => if p.inst = 4 then [reg1 0x010 0x0FFFFFFF 0, regN 0x240 8 4 0xFFFFFFFF 0] else []
  | .hbm => [reg1 0x010 0xFFFF 0x1018]
  | .cru => [reg1 0x010 0xFF3F0F1F 0x6410020A, reg1 0x100 0xFFFFF000 0, reg1 0x104 0xFFFF 0, reg1 0x108 0x1FFF 0, regN 0x140 8 4 0xFFFFFFFF 0]
  | .ckx =>
    if p.inst < 12 then [reg1 0x010 0x00FFFF01 0x000AE000]
    else if p.inst = 32 then
      [reg1 0x010 0x1FFFF 0, reg1 0x014 0xFFFFF 0x3E8, regN 0x200 8 4 0xFFFFFFFF 0, regN 0x240 8 4 0xFFFFFFFF 0]
    else []
  | .lnd => [reg1 0x010 0xFF 2, regN 0x100 256 4 0xF 0]
  | .eth =>
    [reg1 0x010 0x0FFFFFFF 0x8C48, reg1 0x014 0x7 0, reg1 0x018 0xFFFF 0, reg1 0x01C 0xFFFFFFFF 0, reg1 0x020 0x1FFFF 0,
     reg1 0x024 0xFFFFFFFF 0, reg1 0x028 0x1FFFF 0, reg1 0x02C 0xFFFF 0, reg1 0x030 0xFFFF 0, reg1 0x034 0x3FFF3FFF 0,
     reg1 0x038 0x3FFF3FFF 0, reg1 0x1C0 0xFFFF 0,
     regN 0x200 32 0x20 0xFFFFFFFF 0, regN 0x204 32 0x20 0x003FFFFF 0, regN 0x208 32 0x20 0xFFFFFFFF 0, regN 0x20C 32 0x20 0xFFFF 0,
     regN 0x210 32 0x20 0xFFFFFFFF 0, regN 0x214 32 0x20 0xFFFFFFFF 0, regN 0x218 32 0x20 0xFFFFFFFF 0, regN 0x21C 32 0x20 0xFFFFFFFF 0]
    ++ ringDescs 0x600 0xC ++ ringDescs 0x620 0xC
  | .cxl =>
    (List.range 8).flatMap (fun q => ringDescs (0x100 + 0x40 * q) 0xC ++ ringDescs (0x120 + 0x40 * q) 0xC
      ++ [reg1 (0x114 + 0x40 * q) 0xFFFFFFF8 0, reg1 (0x118 + 0x40 * q) 0xFFFF 0, reg1 (0x11C + 0x40 * q) 0x1F 0x14,
          reg1 (0x134 + 0x40 * q) 0x3FFFFFFF 0])
    ++ [regN 0x800 256 4 0x7FFFFFFF 0]
  | .time =>
    [reg1 0x010 0xFF3 0, regN 0x100 4 0x20 0xFFFFFFFF 0, regN 0x104 4 0x20 0xFFFFFFFF 0, regN 0x108 4 0x20 0xFFFFFFFF 0,
     regN 0x10C 4 0x20 0xFFFFFFFF 0, regN 0x110 4 0x20 0xF 0, reg1 0x300 0xFFF001FF 0,
     reg1 0x308 0xFFFFF000 0, reg1 0x30C 0xFF 0, reg1 0x310 0xFFFF 0, reg1 0x314 0xFFFFFFFF 0, reg1 0x318 0xFFFFFFFF 0]
  | .mbx =>
    ringDescs 0x100 0xC ++ ringDescs 0x120 0xC ++ ringDescs 0x400 0xC ++ ringDescs 0x420 0xC
    ++ [reg1 0x140 0xFFFFFFC0 0, reg1 0x144 0xFFFF 0, reg1 0x148 0xFFFFFFFF 0, regN 0x300 4 4 0xFFFFFFFF 0,
        regN 0x540 8 4 0xFFFFFFFF 0, regN 0x5A0 12 4 0xFFFFFFFF 0]
  | .fbk =>
    if p.inst = 64 then
      ringDescs 0x400 0xC ++ ringDescs 0x420 0xC ++
      [reg1 0x010 0xFFFFF 0, reg1 0x014 0xFFFFF 0x2710, regN 0x140 8 4 0xFFFFFFFF 0, regN 0x300 4 4 0xFFFFFFFF 0]
    else []
  | .chk =>
    [reg1 0x010 0x001F0FFF 0x20, regN 0x014 4 4 0xFFFFFFFF 0, reg1 0x024 0x0FFFFFFF 0, reg1 0x028 0xFFFF 0xFFFF]
  | .seed =>
    [reg1 0x100 0xFFFFF000 0, reg1 0x104 0xFF 0, reg1 0x108 0xFFFFFFFF 0, reg1 0x10C 0xFFFFF000 0, reg1 0x110 0xFF 0,
     reg1 0x114 0xFFFFF000 0, reg1 0x118 0xFF 0, reg1 0x11C 0xFF 0, regN 0x140 8 4 0xFFFFFFFF 0, regN 0x160 8 4 0xFFFFFFFF 0]
  | .pwr => [reg1 0x010 0xFFFF 0x7369]
  | .bist => [reg1 0x114 0xFFFFFFFF 0, reg1 0x118 0xFFFFFFFF 0, reg1 0x11C 0x1FFF 0, reg1 0x120 0xFFFFFFFC 0, reg1 0x124 0xFFFF 0]
  | .msix => [regN 0x000 256 4 0xFFFFFFFF 0]
  | _ => []

/-- Shadow registers (R15, R226 and the chapters' registers). -/
def shadowRegs (p : Page) : List RegDesc :=
  match p.kind with
  | .lane => [regN 0x0C0 8 4 0x3FFFFF 0]
  | .sds =>
    if p.inst < 4 then [reg1 0x0C0 0x3F 0x14]
    else [regN 0x0C0 8 4 0xFFFFFF 0x7A12, reg1 0x0E0 0xFFFFFFFF 0, reg1 0x0E4 0xFFFFFFFF 0, reg1 0x0E8 1 0]
  | .cru => [reg1 0x0C0 0x03FF03FF 0x00100008, reg1 0x0C4 0xFFFFF 0x3E8]
  | .ckx =>
    if 16 ≤ p.inst && p.inst < 20 then [reg1 0x0C0 0xFFF 0x240]
    else if p.inst = 32 then [reg1 0x0C8 0x1FFFFFFF 0x0407D0C8] else []
  | .fbk => if p.inst = 64 then [reg1 0x0C0 0x0FFFFFFF 0] else [reg1 0x0C0 0x7F01 0x100, reg1 0x0C4 0xFF07FF 0x10000]
  | .time => [reg1 0x0C0 0xFFFFFFFF 0x10000000, regN 0x0C4 4 4 0xFFFFFFFF 0, reg1 0x0D4 0xFFFFFF07 0x03E80A03]
  | .bist => [regN 0x0C0 10 4 0x03FFFFFF 0, reg1 0x0E8 0xFFFFFFFF 1]
  | _ => []

/-- EVT_MASK and EVT_VEC (R510): MBX pages have no vector. -/
def commonRegs (p : Page) : List RegDesc :=
  (if evtBits p = 0 then [] else [reg1 0x084 (evtBits p) 0])
  ++ (if p.kind = .mbx || p.kind = .msix then [] else [reg1 0x08C 0x3F (w32 (kindCode p.kind))])

/-- Shadow registers exist on the page (R509). -/
def hasShadow (p : Page) : Bool := !(shadowRegs p).isEmpty

/-- The writable register at an offset. -/
def findReg (p : Page) (off : Nat) : Option RegDesc :=
  if pageExists p then ((commonRegs p) ++ (shadowRegs p) ++ (rwRegs p)).find? (descHit off) else none

/-- The offset holds a shadow register. -/
def isShadow (p : Page) (off : Nat) : Bool := (shadowRegs p).any (descHit off)

/-- Reset value of the register at an offset, 0 where none is. -/
def regReset (p : Page) (off : Nat) : Word :=
  match findReg p off with
  | some d => d.reset
  | none => 0

/-- Offsets of a page's shadow registers. -/
def shadowOffs (p : Page) : List Nat := (shadowRegs p).flatMap (fun d => (List.range d.count).map (fun i => d.off + i * d.stride))

end Sys2Proof.Machine
end

