-- ==== Sys2Proof/Machine/InstState.lean ====
section
/-! DEFINITION. State of instances, jobs, request contexts, mailboxes and the firebreak map (10, 12). -/

namespace Sys2Proof.Machine

/-- Instance states of R321. -/
inductive InstPhase where
  | free | created | active | draining | squashing | freezing | frozen
deriving DecidableEq, Repr

/-- A job of an instance (R250, R271, R272). -/
structure Job where
  isOpen   : Bool
  pkg      : Nat            -- package handle
  gmask    : Nat            -- granules, bits 0 to 63
  ckptva   : Nat
  seq      : Nat            -- last checkpoint SEQ
  closing  : Option Nat     -- ticket of a CLOSE_JOB under way
  restart  : Option Nat     -- ticket of a RESTART under way
deriving DecidableEq, Repr

def Job.closed : Job := { isOpen := false, pkg := 0, gmask := 0, ckptva := 0, seq := 0, closing := none, restart := none }

/-- What the write of a record does beside storing it: a job opens, closes, or has restarted (R250, R251, R259). -/
inductive RecEffect where
  | none
  | opens (n : Nat) (j : Job)
  | closes (n : Nat)
  | restarted (n seq : Nat)
deriving DecidableEq, Repr

/-- A result record that is ready (R263, R264): words 0 to 15 without STATUS, PHASE and END_NS, which its write fixes; its code but for lateness; the context it ends or continues; and what its write does. -/
structure ReadyRec where
  words  : List Word
  code   : Code
  ctx    : Option Nat
  effect : RecEffect
deriving DecidableEq, Repr

/-- One instance (R315 to R340, R257 to R268). -/
structure Inst where
  phase     : InstPhase
  domain    : Nat
  cls       : Nat
  keysrc    : Bool
  pasid     : Nat
  quota     : Nat
  dmem      : Nat                   -- GiB
  key       : Option (BitVec 512)   -- the key slot (R317)
  mailbox   : List (List Word)      -- oldest first (R329)
  seq       : Nat                   -- SEQ of the last message placed
  dropped   : Nat
  sendStat  : Code
  sendSid   : Nat
  sendUntil : Nat                   -- BUSY of MBX_SEND_STAT stands before this time base (R331)
  ovfTarget : Nat
  watch     : Bool
  logOn     : Bool                  -- R336
  logA      : Nat
  logB      : Nat
  logSel    : Bool
  resetMode : Bool                  -- MODE of the reset in progress
  byTimeout : Bool                  -- squash entered from a drain time-out
  drainAt   : Nat                   -- time base at the RESET command
  destroy   : Bool                  -- a DESTROY waits for the squash (R325)
  locked    : Bool                  -- TSP interface locked (R441)
  jobs      : Table Job
  cqHead    : Nat
  cqPaused  : Bool
  runHeld   : Bool                  -- its next RUN waits for a context (R259)
  cqFrozen  : Bool                  -- fetching paused by FREEZE (R339)
  rqTail    : Nat
  rqWait    : List ReadyRec         -- records held under R268, in ready order
  ecBusy    : Bool
  ecStat    : Code
  ecWords   : List Word             -- the command under way or last taken (R387)
  attBusy   : Bool
  attStat   : Code
deriving DecidableEq, Repr

def Inst.free : Inst :=
  { phase := .free, domain := 0, cls := 0, keysrc := false, pasid := 0, quota := 0, dmem := 0, key := none,
    mailbox := [], seq := 0, dropped := 0, sendStat := .ok, sendSid := 0, sendUntil := 0, ovfTarget := 0, watch := false,
    logOn := false, logA := 0, logB := 0, logSel := false, resetMode := false, byTimeout := false, drainAt := 0,
    destroy := false, locked := false, jobs := [], cqHead := 0, cqPaused := false, runHeld := false, cqFrozen := false, rqTail := 0,
    rqWait := [], ecBusy := false, ecStat := .ok, ecWords := [], attBusy := false, attStat := .ok }

/-- States of a request context (R260). -/
inductive CtxState where
  | free | queued | ready | run | rqWait | ending
deriving DecidableEq, Repr

/-- A command of the running step not yet issued: its list header and its words, in order (R253). -/
structure PendCmd where
  header : Word
  header1 : Word
  words  : List Word
deriving DecidableEq, Repr

/-- One request context (R260, R264). -/
structure ReqCtx where
  state    : CtxState
  inst     : Nat
  job      : Nat
  ticket   : Nat
  tag      : Nat          -- 24 bits
  order    : Nat          -- order of acceptance (R256)
  arg      : Nat
  kvlist   : Nat
  kvlen    : Nat
  seed     : DWord
  step     : DWord        -- the step counter
  lc       : Nat
  limit    : Nat
  pc       : Nat          -- index of the step
  flags    : AFlags
  missed   : Bool
  ovf      : Bool
  tierStall : Nat
  heldTime : Nat          -- ns with a footprint tile lent, ended intervals (R264)
  qTime    : Nat
  openedAt : Nat
  started  : Bool         -- its first step has started
  held     : Bool         -- HELD flag
  tierWait : Bool         -- TIERWAIT flag
  lentAt   : Option Nat   -- time base since which a footprint tile has been lent
  scrubbing : Bool        -- its teardown has begun to scrub the tiles it holds (R270)
  tierAt   : Nat
  epPage   : Nat          -- page waited on first in the episode (R297)
  epT3     : Bool
  noticed  : Bool         -- the episode's TIER_LATE is posted
  outst    : Nat          -- issued commands without a record
  issue    : List PendCmd -- the running step's commands not issued
  foot     : List Nat     -- the running step's footprint, global tiles
  kept     : List Nat     -- tiles held by earlier KEEP steps
  cause    : Option Code  -- why it is torn down (R270)
  aborted  : Bool         -- it ends with ABORTED
  noRec    : Bool         -- no further record is written (R326 SQUASH)
  late     : Bool         -- R218
  recs     : List (List Word) -- posted command records on their way to the sequencer, oldest first (R254)
  folded   : List Byte    -- STATUS and AFLAGS of the step's folded records, in arrival order (R425)
deriving DecidableEq, Repr

def ReqCtx.free : ReqCtx :=
  { state := .free, inst := 0, job := 0, ticket := 0, tag := 0, order := 0, arg := 0, kvlist := 0, kvlen := 0, seed := 0,
    step := 0, lc := 0, limit := 0, pc := 0, flags := {}, missed := false, ovf := false, tierStall := 0,
    heldTime := 0, qTime := 0, openedAt := 0, started := false, held := false, tierWait := false, lentAt := none, scrubbing := false,
    tierAt := 0, epPage := 0, epT3 := false, noticed := false, outst := 0, issue := [], foot := [], kept := [],
    cause := none, aborted := false, noRec := false, late := false, recs := [], folded := [] }

/-- A commit held behind admission or a map copy (R162, R227, R309). -/
inductive HeldCommit where
  | group
  | mapPage
  | domPage (d : Nat)
  | sdsPage (i : Nat)
deriving DecidableEq, Repr

/-- The map page's own state (R308 to R310, R321, R331, R334, R340). -/
structure FbkSt where
  map      : Memory            -- map in force, bytes 0 to 703
  image    : Memory            -- pending image
  bad      : Bool              -- the pending image is unreadable
  loaded   : Bool
  status   : Code              -- FBK_MAPSTAT.STATUS
  held     : List HeldCommit   -- held commits, in order
  mabort   : Nat
  instBusy : Bool
  instStat : Code
  lastInst : Nat               -- last commanded instance (LOGSEL)
  sendStat : Code
  sendSid  : Nat
  sendUntil : Nat              -- R331
  ovfTarget : Nat              -- MBX_SEND_OVF of the map page (R519)
  watch    : Bool
  d0key    : Option (BitVec 512)
  pausedOrder : List Nat       -- instances paused for want of a context, oldest first (R259)
  accepted : Nat               -- RUNs accepted since reset, for R256's order
deriving DecidableEq, Repr

end Sys2Proof.Machine
end

