-- ==== Sys2Proof/Machine/CellState.lean ====
section
/-! DEFINITION. State of a cell-carrier, of the deadline schedulers and of the radio coordinator (06, 07, 08, 09, 14 R380). -/

namespace Sys2Proof.Machine

/-- Cell states of R165. -/
inductive CellPhase where
  | free | accepted | active | draining
deriving DecidableEq, Repr

/-- A slot of a cell: its start on the time base in ns and the system frame and slot it is (R150, R157). -/
structure SlotId where
  start : Nat
  sfn   : Nat
  slot  : Nat
deriving DecidableEq, Repr

/-- A PDU of an accepted message: its type, its words, header included. -/
structure Pdu where
  kind  : Nat
  seq   : Nat                  -- SEQ of its message
  words : List Word
deriving DecidableEq, Repr

/-- The accepted messages of one slot of a cell (R152). -/
structure SlotMsgs where
  sfn    : Nat
  slot   : Nat
  start  : Nat
  ulSeq  : Option Nat          -- SEQ of the accepted UL_CONFIG
  dlSeq  : Option Nat
  ul     : List Pdu
  dl     : List Pdu
  tbs    : List Pdu            -- TB PDUs landed
  late   : Bool                -- the message deadline has been acted on (R155)
  notReady : List Word         -- HANDLEs of PDSCH PDUs that transmit nothing (R155)
  dlCplane : Bool              -- downlink C-plane sent (R209)
  ulCplane : Bool              -- uplink C-plane sent (R166)
  indSent  : Bool              -- its indications have left (R164)
  dropped  : Bool              -- its work was dropped as a cell fault (R143, R370)
  handed   : List Word         -- HANDLEs of PUSCH PDUs whose LDEC has been issued (R185)
  lateHand : Bool              -- one was issued after the detection deadline (R185)
  decoded  : List (Word × Bool × Nat) -- of PUSCH PDUs: HANDLE, the engine's TBOK and NCBERR (R186)
deriving DecidableEq, Repr

/-- A symbol of a stream of an uplink slot, or the PRACH sections of a symbol (sym + 14): what has been received, and whether it is closed (R167 to R170). -/
structure UlSymbol where
  slot   : Nat                 -- slots since the frame numbering began: sfn * slots per frame + slot
  sym    : Nat
  stream : Nat
  got    : List (Nat × Nat)    -- PRBs or useful samples received: first and number
  closed : Bool
deriving DecidableEq, Repr

/-- What a stream has received of a PRACH occasion whose RSSI is not latched yet (R173). -/
structure OccSum where
  start : Nat                  -- start of its PDU's slot
  idx   : Nat                  -- place of the PDU among the slot's
  close : Nat                  -- close of the symbol of its last sample, in fourteenths of a ns
  sum   : Nat                  -- squared units, before gain
  count : Nat
deriving DecidableEq, Repr

/-- The gain stage of one time-domain stream (R172 to R174). -/
structure Gain where
  g       : Int                -- in 0.25 dB
  prev    : Int                -- the gain of the slots before `since`
  since   : Nat                -- start of the slot from which g applies
  cfg     : Word               -- ETH_TDG_CFG as applied at the slot start (R174)
  gsum    : Nat                -- power accumulated over the slot, in squared units
  gcount  : Nat                -- samples accumulated
  frzEnd  : Option Nat         -- start of the last slot frozen for an occasion (R173)
  holdEnd : Option Nat         -- start of the last slot held (R174)
  rssi    : Int                -- latched RSSI (R173)
  occs    : List OccSum
deriving DecidableEq, Repr

def Gain.zero : Gain :=
  { g := 0, prev := 0, since := 0, cfg := 0, gsum := 0, gcount := 0, frzEnd := none, holdEnd := none, rssi := 0, occs := [] }

/-- Mirror entry states (R380, R381). -/
inductive MirState where
  | none | wait | armed | taken | failed
deriving DecidableEq, Repr

/-- A mirror entry (R380). -/
structure MirrorEntry where
  state : MirState
  role  : Bool                 -- 1: this module is the partner
  pcell : Nat
  pmod  : Nat
  daddr : Nat
  desc  : List Word
deriving DecidableEq, Repr

def MirrorEntry.none : MirrorEntry := { state := .none, role := false, pcell := 0, pmod := 0, daddr := 0, desc := [] }

/-- One cell-carrier (R145 to R165). -/
structure Cell where
  phase   : CellPhase
  desc    : List Word          -- 16 words
  startAt : Nat                -- activation boundary (R163)
  startSfn : Nat
  endAt   : Nat                -- end boundary (R164)
  forced  : Bool               -- REMOVE_FORCE (R165)
  ended   : Bool               -- its end boundary has passed (R164)
  sbFree  : Bool               -- its soft buffers are released (R204)
  lastStart : Option Nat       -- start of the last slot begun (R140)
  slots   : List SlotMsgs
  syms    : List UlSymbol
  gains   : Table Gain         -- by stream
  seqs    : Table Nat          -- C-plane and U-plane sequence counters: direction * 2 + plane, by stream (R449)
  rxSeq   : Table Nat          -- expected uplink sequence per stream (R449)
  txSeq   : Nat                -- slot messages sent: SEQ (R150) and MSGID (R451) (log entry 21)
  buckets : Table (Nat × Nat)  -- policing buckets: stream * 2, + 1 for section type 3: tokens in bytes × Tslot, and since when (R456)
  dlSent  : List (Nat × Nat × Nat × Nat)  -- (slot number, symbol, stream, PRB) sent and not yet cleared (R211)
  dlStale : List (Nat × Nat × Nat × Nat)  -- set after the position's last close, before the slot's messages were due (R211)
  dlShut  : List (Nat × Nat)   -- symbols closed: slot number and symbol (R211)
  ind     : List Byte          -- indications sent since the last slot start (R425)
  seed    : DWord              -- R420
  stepCtr : DWord
  faultSlot : Option Nat       -- the slot whose work is dropped as a cell fault (R143, R385)
deriving DecidableEq, Repr

def Cell.free : Cell :=
  { phase := .free, desc := [], startAt := 0, startSfn := 0, endAt := 0,
    forced := false, ended := false, sbFree := false, lastStart := none, slots := [], syms := [], gains := [], seqs := [], rxSeq := [], txSeq := 0, buckets := [],
    dlSent := [], dlStale := [], dlShut := [], ind := [], seed := 0, stepCtr := 0, faultSlot := none }

/-- One deadline scheduler (R229, R249). -/
structure Sched where
  need    : Nat
  borrow  : Nat
  pmu     : Nat
  boundary : Nat               -- time base of the last boundary Sj
  plan    : List Nat           -- tiles of the plan fixed for the next period
  cur     : List Nat           -- tiles of the plan of this period
  grp     : Nat                -- SPILLGRP of the plan (R228)
  raisedNow  : Nat             -- EVT bits whose condition arose in this period
deriving DecidableEq, Repr

def Sched.reset : Sched := { need := 0, borrow := 0, pmu := 0, boundary := 0, plan := [], cur := [], grp := 0, raisedNow := 0 }

/-- The radio coordinator (R159 to R165, R227, R249, R392). -/
structure Coord where
  busy    : Bool
  doneBit : Bool
  status  : Code
  sfn     : Nat
  fails   : Nat
  cmdCell : Nat
  cmdSfn  : Nat
  asap    : Bool
  desc    : List Word
  gstatus : Code
  mirStat : Code
deriving DecidableEq, Repr

def Coord.reset : Coord :=
  { busy := false, doneBit := false, status := .ok, sfn := 0, fails := 0, cmdCell := 0, cmdSfn := 0, asap := false, desc := [],
    gstatus := .ok, mirStat := .ok }

end Sys2Proof.Machine
end

