-- ==== Sys2Proof/Machine/FabricState.lean ====
section
/-! DEFINITION. State of the rack fabric and of the liveness protocol (13, 14). -/

namespace Sys2Proof.Machine

/-- A region (R343). -/
structure Region where
  owner   : Space
  base    : Nat          -- VA
  pages   : Nat
  atomic  : Bool         -- mode: REDUCE or ATOMIC
  ctrBase : Nat
  ctrN    : Nat
deriving DecidableEq, Repr

/-- A grant (R344). -/
structure Grant where
  region : Nat
  module_ : Nat
  key    : DWord
  perm   : Nat
deriving DecidableEq, Repr

/-- An import handle (R345, R359). -/
structure Import where
  holder  : Space
  home    : Nat
  region  : Nat
  grant   : Nat
  key     : DWord
  perm    : Nat
  suspect : Bool
deriving DecidableEq, Repr

/-- A segment issued and not yet acknowledged (R355): its import, home, the port it left on, the operation it belongs to, where GET data lands, and whether it waits for WINDOW_RETRY (R358) or for a path (R357). -/
structure Unacked where
  seg    : Segment
  import_ : Nat
  home   : Nat
  port   : Option Nat
  op     : Nat
  lva    : Nat
  retry  : Bool
deriving DecidableEq, Repr

/-- An operation or fence of a stream that has not completed (R349, R356). -/
structure FabOp where
  id      : Nat
  opc     : Nat
  ticket  : Nat
  quiet   : Bool
  fence   : Bool
  left    : Nat          -- segments not acknowledged or not issued
  code    : Code
  result  : DWord
  data    : List Byte
  lctr    : Option Nat   -- GET: local counter to raise
  issued  : Nat          -- time base at issue
  tag     : Nat := 0     -- deadline tag of the operation (R219, R244)
deriving DecidableEq, Repr

/-- A descriptor whose segments are being issued (R355). -/
structure Issuing where
  words : List Word
  op    : Nat
  next  : Nat
  total : Nat
deriving DecidableEq, Repr

/-- One fence stream (R351, R355). -/
structure FStream where
  seq     : Nat
  unacked : List Unacked
  ops     : List FabOp
  cur     : Option Issuing
  nextOp  : Nat
  codes   : Code         -- lowest-ranked code reported since the last fence (R356)
  fqHead  : Nat
  fcTail  : Nat
  fcWait  : List (List Word)  -- records that wait for room, oldest first
  paused  : Bool
deriving DecidableEq, Repr

def FStream.new : FStream :=
  { seq := 0, unacked := [], ops := [], cur := none, nextOp := 0, codes := .ok, fqHead := 0, fcTail := 0, fcWait := [],
    paused := false }

/-- A duplicate window (R358). -/
structure DupWin where
  src    : Nat
  stream : Nat
  base   : Nat
  bits   : List Nat      -- offsets from base that are set
  lastAt : Nat
deriving DecidableEq, Repr

/-- A line that the fabric agent counts (R362): the time base of its recent operations, newest first, the time at which it entered the combining buffer, if it is there, and the source whose operations it takes now with the number taken in this round (R363). -/
structure HotLine where
  key   : Nat            -- device-memory byte key / 128
  times : List Nat
  buf   : Option Nat
  turn  : Nat := 0
  took  : Nat := 0
deriving DecidableEq, Repr

/-- One element of an exact-reduction entry (R416): the sum in units of 2^−149, the flags, and whether every term was −0. -/
structure ExactElem where
  sum    : Int
  nan    : Bool
  pinf   : Bool
  ninf   : Bool
  negz   : Bool
deriving DecidableEq, Repr

/-- An exact-reduction entry (R416, R417). -/
structure ExactEntry where
  key    : Nat
  domain : Nat
  elems  : List ExactElem
deriving DecidableEq, Repr

/-- The fabric agent of a die. -/
structure Agent where
  wins  : List DupWin
  hot   : List HotLine
  exact : List ExactEntry   -- most recently used first
  queue : List (Segment × Region) := []  -- operations queued at lines of the combining buffer, oldest first (R363)
  outside : List (Segment × Region) := []  -- operations that wait at their source's port for a credit of their line, oldest first (R363)
deriving DecidableEq, Repr

def Agent.empty : Agent := { wins := [], hot := [], exact := [], queue := [], outside := [] }

/-- A gather buffer of a Landing gateway (R360). -/
structure GatherBuf where
  gw     : Nat
  stream : Space
  dest   : Nat
  region : Nat
  block  : Nat            -- OFFSET / 4096
  segs   : List Segment
  since  : Nat
deriving DecidableEq, Repr

/-- States of a Caerkuix link (R364 to R369). -/
inductive LinkState where
  | down | training | up | held
deriving DecidableEq, Repr

/-- The virtual channels of a port (R367). -/
inductive Channel where
  | request | response | dom0
deriving DecidableEq, Repr

/-- The channel that a payload travels on (R367). -/
def payloadChannel : LinkPayload → Channel
  | .seg x => if x.stream = 4096 then .dom0 else .request
  | .ack _ => .response
  | .bulk b => if b.segs.any (fun x => x.stream = 4096) then .dom0 else .request
  | .liveness _ | .linkAck _ | .linkNak _ => .dom0

/-- 512-byte units of a payload's packet in the retry buffer: a bulk transfer takes one for each segment (DESIGN CHOICE, log entry 69). -/
def packetUnits : LinkPayload → Nat
  | .bulk b => max 1 b.segs.length
  | _ => 1

/-- One Caerkuix port. -/
structure CkxPortSt where
  state   : LinkState
  lanes   : Nat            -- LANES_OK, 4 bits
  width   : Nat            -- lanes in use
  downs   : List Nat       -- time base of recent downs, newest first
  retry   : Nat
  heldAt  : Nat
  txSeq   : Nat
  sent    : List LinkPacket   -- the retry buffer: packets not acknowledged, oldest first (R364)
  txWait  : List LinkPayload := []  -- payloads of the three virtual channels that wait for room in it, oldest first (R364, R367)
  tries   : Nat            -- retries of the packet numbered tryOf that have not been acknowledged
  tryOf   : Nat
  rxSeq   : Nat
  bad     : Nat            -- lanes not to be used until RETRAIN (R365)
  unreach : List Nat       -- modules for which the switch has returned UNREACHABLE since the link came up (R357)
deriving DecidableEq, Repr

/-- The 128 KiB retry buffer has room for a payload's packet (R364). -/
def CkxPortSt.room (x : CkxPortSt) (b : LinkPayload) : Bool := (x.sent.map (fun k => packetUnits k.body)).sum + packetUnits b ≤ 256

/-- The payload that leaves next of those that wait: responses and domain 0 never wait on requests (R367). -/
def CkxPortSt.nextTx (x : CkxPortSt) : Option LinkPayload :=
  match x.txWait.find? (fun b => payloadChannel b ≠ .request) with
  | some b => some b
  | none => x.txWait.head?

def CkxPortSt.reset : CkxPortSt :=
  { state := .down, lanes := 0, width := 0, downs := [], retry := 0, heldAt := 0, txSeq := 0, sent := [], txWait := [], tries := 0, tryOf := 0, rxSeq := 0,
    bad := 0, unreach := [] }

/-- States of CKX_LV_STAT (R392). -/
inductive LvState where
  | none | joining | shadow | member | fenced
deriving DecidableEq, Repr

/-- An entry of the revoke list (R347): the module, the epoch before the verdict on it, whether its sweep has completed. -/
structure Revoked where
  module_ : Nat
  swept   : Bool
  epoch   : Nat := 0
deriving DecidableEq, Repr

/-- Position states of R372. -/
inductive PosState where
  | none | member | snag | joining | shadow
deriving DecidableEq, Repr

/-- The liveness protocol (R370 to R392). -/
structure LvSt where
  state   : LvState
  cut     : Bool                -- fenced, and not re-admitted since (R378)
  cause   : Nat
  epoch   : Nat
  match_  : Nat
  rounds  : Nat                 -- rounds in JOINING or SHADOW
  posn    : Table PosState      -- unlisted: NONE
  heard   : Table Nat           -- time base of the last heartbeat from a position
  accused : List (Nat × Nat)    -- (accused, accuser)
  mine    : List Nat            -- positions this module accuses
  admits  : List AdmitMsg       -- received while JOINING
  began   : Option Nat          -- the last round begun
  entry   : Option Nat          -- round at whose start this module enters
  entries : List (Nat × Nat)    -- (position, round) of joining modules, as a member
  digests : List (Nat × Nat × Word)  -- (position, round, digest) received
  own     : Word := 0           -- this module's digest at the start of the last round begun (R389)
  revoke  : List Revoked        -- oldest first
deriving DecidableEq, Repr

def LvSt.reset : LvSt :=
  { state := .none, cut := false, cause := 0, epoch := 0, match_ := 0, rounds := 0, posn := [], heard := [], accused := [], mine := [], admits := [],
    began := none, entry := none, entries := [], digests := [], own := 0, revoke := [] }

/-- The fabric. -/
structure FabricSt where
  regions : Table Region
  grants  : Table Grant
  imports : Table Import
  streams : Table FStream       -- by stream number, 4,096 for domain 0
  agents  : Table Agent         -- by die
  gather  : List GatherBuf
  ports   : Table CkxPortSt
  lv      : LvSt
deriving DecidableEq, Repr

def FabricSt.reset : FabricSt :=
  { regions := [], grants := [], imports := [], streams := [], agents := [], gather := [], ports := [], lv := LvSt.reset }

end Sys2Proof.Machine
end

