-- ==== Sys2Proof/Machine/MemState.lean ====
section
/-! DEFINITION. State of the memory tiers: homes, objects, moves, frames, errors, canopy lines (11). -/

namespace Sys2Proof.Machine

/-- Where a page's home is (R274). -/
inductive Tier where
  | unbacked | t2 | t3
deriving DecidableEq, Repr

/-- Kinds of move (11, "Moves"). -/
inductive MoveKind where
  | promotion | demotion | rehome | release
deriving DecidableEq, Repr

/-- A unit of the module whose own access waits on a page, and which goes on when the page is served (R276, R295): the fabric queue of a space, a segment at its home, the landing of GET data, the command queue of an instance, a context's step, the RESTART of a job, an erasure-code command. -/
inductive WaitUnit where
  | fq (sp : Space)
  | seg (x : Segment)
  | ack (a : SegAck)
  | cq (inst : Nat)
  | ctx (k : Nat)
  | job (inst n : Nat)
  | ec (inst : Nat)
deriving DecidableEq, Repr

/-- What waits on a page (R280, R282, R283, R295): a tile's transfer, another agent's access, a host access through the device window, a move; a posted write of the device's own, a bit of the dirty log, a unit's access (with whether it writes). -/
inductive WaitWhat where
  | transfer (t : TileId)
  | agent (sp : Space) (va : Nat) (op : AccessOp) (from_ : Fin 6)
  | window (sp : Space) (va : Nat) (op : AccessOp)
  | move (k : MoveKind)
  | store (sp : Space) (va : Nat) (bytes : List Byte)
  | mark (va bit : Nat)
  | unit (u : WaitUnit) (wr : Bool)
deriving DecidableEq, Repr

/-- What a port of the module asks of device memory (R27): a segment at its home, an access through the device window, a write of data that an Ethernet port received. -/
inductive PortWork where
  | seg (x : Segment)
  | window (sp : Space) (va : Nat) (op : AccessOp)
  | post (sp : Space) (va : Nat) (bytes : List Byte)
deriving DecidableEq, Repr

/-- A request of a port that an arbitration point has not granted (R27, R223): the requester's number, what it asks, its tag and LATE bit. A requester's requests keep their order. -/
structure PortReq where
  who  : Nat
  work : PortWork
  tag  : Nat
  late : Bool
deriving DecidableEq, Repr

/-- Who stands at an arbitration point: an access of a tile or an agent, the oldest request of a port, a patrol read of a line (R225, R304). -/
inductive ArbWhat where
  | access (a : MemAccess)
  | port (who : Nat)
  | patrol (frame line : Nat)
deriving DecidableEq, Repr

/-- An entry of a page's waiter list, with the tag that it carries (R219) and its LATE bit (R218). -/
structure Waiter where
  what    : WaitWhat
  t3      : Bool        -- T3 wait, else T2 wait (R295)
  since   : Nat         -- time base at which it began to wait
  tag     : Nat
  late    : Bool
deriving DecidableEq, Repr

/-- A request that an arbitration point holds (R218, R223, R312): its domain, what it asks, its tag and LATE bit, and the arithmetic clock on which it came to the point (R498). -/
structure ArbReq where
  domain : Nat
  what   : ArbWhat
  tag    : Nat
  late   : Bool
  since  : Nat := 0
deriving DecidableEq, Repr

/-- A page that a prefetch holds (R290): the context, and of the LOAD that named it the virtual address and the value of the step counter at its step. -/
structure PfHold where
  ctx  : Nat
  addr : Nat
  step : DWord
deriving DecidableEq, Repr

/-- The home entry of a page (R278) with the Cruiser's heat of it (R285) and its waiter lists (R280). -/
structure Home where
  tier   : Tier
  lock   : Bool
  cmp    : Bool
  poison : Bool
  frame  : Nat
  sector : Nat
  cmap   : DWord
  die    : Nat          -- the die it is or was first homed on (R279)
  pinned : Bool         -- a spill or mailbox page (R277, R279)
  heat   : Nat
  laste  : Nat
  acc    : Nat          -- A, the accesses of this epoch
  pfHold : List PfHold  -- prefetches that hold the page (R290)
  waiters : List Waiter -- accesses and moves that wait, oldest first (R280, R283)
deriving DecidableEq, Repr

/-- A page that has never been written (R315). -/
def Home.fresh : Home :=
  { tier := .unbacked, lock := false, cmp := false, poison := false, frame := 0, sector := 0, cmap := 0, die := 0,
    pinned := false, heat := 0, laste := 0, acc := 0, pfHold := [], waiters := [] }

/-- The four stall counters of R298. -/
structure Stalls where
  t2n : Nat
  t2t : Nat
  t3n : Nat
  t3t : Nat
deriving DecidableEq, Repr

def Stalls.zero : Stalls := { t2n := 0, t2t := 0, t3n := 0, t3t := 0 }

/-- A registered object (R279, R518). -/
structure Obj where
  space  : Space
  die    : Nat
  vpn    : Nat
  npages : Nat
  pinned : Bool
  cmpt2  : Bool
  base   : Nat
  stalls : Stalls
deriving DecidableEq, Repr

/-- A move in flight (R280): the page, its kind, its destination frame or run, and its tag (R219). -/
structure Move where
  page  : Nat
  kind  : MoveKind
  frame : Nat           -- T2 destination
  sector : Nat          -- T3 destination
  sectors : Nat
  cmap  : DWord
  tag   : Nat
  late  : Bool := false   -- R218
deriving DecidableEq, Repr

/-- A canopy line (R276, R301). -/
structure CLine where
  die    : Nat
  page   : Nat          -- page key
  line   : Nat          -- 0 to 511 within the page
  domain : Nat          -- in whose ways it lies
  way    : Nat          -- 0 to 31 (R301, R307)
  dirty  : Bool
  pf     : Bool
deriving DecidableEq, Repr

/-- The memory tiers' state. -/
structure MemSt where
  homes    : Table Home            -- by page key
  objects  : Table Obj             -- by OID, registered objects
  dstalls  : Table Stalls          -- default objects' counters, by OID * 4 + die (R298, R518)
  moves    : List Move             -- R280, oldest first
  t3runs   : Table (List (Nat × Nat)) -- per die: runs in use, first sector and sectors
  retired  : List Nat              -- retired frames (R305)
  retirePend : List Nat            -- RETIRE_PENDING frames (R305)
  retireLog : Table (List Nat)     -- per HBM controller, oldest first (R306)
  ce       : Table Nat             -- HBM_ECC_STAT.CE per controller
  ue       : Table Nat             -- HBM_ECC_STAT.UE per controller
  frameCe  : Table Nat             -- corrected errors of a frame within the patrol period (R305)
  poison   : List Nat              -- poisoned 128-byte lines, page key * 512 + line (R303)
  canopy   : List CLine            -- most recently used first (R301)
  cerr     : Table Nat             -- canopy corrected errors per die (R302)
  objStat  : Table Code            -- per die, OBJSTAT (R306)
  epoch    : Table Nat             -- epochs ended per die (R285)
  epochAt  : Table Nat             -- per die, the time base at which the present epoch began (R285)
  tierFail : Option Nat            -- the page whose T3 read has failed, while the accesses that waited for it complete (R281)
  woken    : List (WaitUnit × Option Nat)  -- units whose page has been served within the step, with the page if its T3 read failed (R281, R283)
  held     : List PortReq          -- requests of the ports that wait at an arbitration point, oldest first (R27, R223)
  rr       : Table Nat             -- the winner of an arbitration point's last round-robin tie, plus 1 (R222)
  patrolled : Table Nat            -- time base at which patrol last read a line, frame * 512 + line (R304)
deriving DecidableEq, Repr

def MemSt.empty : MemSt :=
  { homes := [], objects := [], dstalls := [], moves := [], t3runs := [], retired := [], retirePend := [],
    retireLog := [], ce := [], ue := [], frameCe := [], poison := [], canopy := [], cerr := [], objStat := [], epoch := [], epochAt := [],
    tierFail := none, woken := [], held := [], rr := [], patrolled := [] }

end Sys2Proof.Machine
end

