-- ==== Sys2Proof/Machine/PortState.lean ====
section
/-! DEFINITION. State of the host link, the Ethernet ports and the board-management target (17). -/

namespace Sys2Proof.Machine

/-- States of CXL_LINK_STAT (R435, R459). -/
inductive CxlState where
  | down | training | up | flitfail
deriving DecidableEq, Repr

/-- A slot-message queue pair (R443). -/
structure L2q where
  inHead  : Nat
  outTail : Nat
  dtail   : Nat
  held    : Nat
  bad     : Nat
  waiting : List (Nat × List Word)   -- held messages, oldest first, with their cell
deriving DecidableEq, Repr

def L2q.reset : L2q := { inHead := 0, outTail := 0, dtail := 0, held := 0, bad := 0, waiting := [] }

/-- The host port (R435 to R443): link, secure streams, queue pairs, and the host ranges whose translation ATS refuses: (PASID, first page, pages). -/
structure CxlSt where
  state  : CxlState
  width  : Nat             -- lanes
  rate   : Nat             -- GT/s
  ide    : Nat             -- bit n: selective stream n secure
  cmide  : Bool
  insecure : List Nat      -- streams in the Insecure state; 4 is CXL.cache and CXL.mem
  winref : Nat
  l2q    : Table L2q
  denied : List (Nat × Nat × Nat)
  hostLines : List Nat := []   -- 64-byte lines of device memory that the host holds, byte key / 64 (R437)
deriving DecidableEq, Repr

def CxlSt.reset : CxlSt :=
  { state := .training, width := 1, rate := 16, ide := 0, cmide := false, insecure := [], winref := 0, l2q := [], denied := [] }

/-- Where an egress frame comes from (R454). -/
inductive EgressKind where
  | uplane (cell : Nat) | cplane (cell : Nat) | payload (cell : Nat) | mgmt | delay
deriving DecidableEq, Repr

/-- A frame waiting on a sub-port's timing wheel (R454). -/
structure EgressFrame where
  sub      : Nat
  launch   : Nat
  deadline : Nat           -- time base of its deadline
  eaxc     : Option Nat
  kind     : EgressKind
  bytes    : List Byte     -- from the destination address on
  tsreq    : Bool
  txid     : Nat
  close    : Option Nat    -- E(k) of its symbol
  late     : Bool := false -- R218
deriving DecidableEq, Repr

/-- A message being reassembled (R452). -/
structure Reasm where
  src    : Nat
  cell   : Nat
  msgid  : Word
  total  : Nat
  since  : Nat
  first  : Bool            -- the fragment at OFFSET 0 has arrived
  got    : List (Nat × Nat)  -- ranges received
  bytes  : Memory
deriving DecidableEq, Repr

/-- One Ethernet port. -/
structure EthSt where
  up      : Nat            -- bit s: sub-port s UP
  tsqTail : Nat
  tsq     : Table (List Word)
  tsWait  : List (Nat × Nat)   -- sub-port and TXID of frames sent whose stamp point has not passed, in send order (R403)
  drops   : Nat
  lost    : Nat            -- stamps discarded since the last entry
  mtxHead : Nat
  mrxTail : Nat
  unsup   : Nat
  polDrop : Nat
  wheel   : List EgressFrame
  reasm   : List Reasm
  plTok   : Table (Nat × Nat)  -- payload bucket per sub-port: (bytes × 8 × 10^9 scale, last time)
  mgTok   : Nat × Nat
deriving DecidableEq, Repr

def EthSt.reset : EthSt :=
  { up := 0, tsqTail := 0, tsq := [], tsWait := [], drops := 0, lost := 0, mtxHead := 0, mrxTail := 0, unsup := 0, polDrop := 0, wheel := [],
    reasm := [], plTok := [], mgTok := (0, 0) }

/-- The I3C target (R457, R458). -/
structure I3cSt where
  addr   : Option Nat
  ibi    : Bool
  ptr    : Nat
  snap   : List Byte       -- 32 bytes
  seq    : Nat
  flags  : Nat
deriving DecidableEq, Repr

def I3cSt.reset : I3cSt := { addr := none, ibi := false, ptr := 0, snap := List.replicate 32 0, seq := 0, flags := 0 }

end Sys2Proof.Machine
end

