-- ==== Sys2Proof/Machine/PowerState.lean ====
section
/-! DEFINITION. State of power, start-up, built-in test, injection, telemetry and JTAG (19, 20). -/

namespace Sys2Proof.Machine

/-- Power states of R480 that are held; FULL, PARTIAL and RADIO_ONLY are derived from the parked groves. -/
inductive PwrPhase where
  | standby | starting | running | tripped
deriving DecidableEq, Repr

/-- The PWR page (R480 to R492). -/
structure PwrSt where
  phase   : PwrPhase
  step    : Nat
  fail    : Nat
  throt   : Nat             -- bit d: compute die d is throttled (R485)
  coolAt  : Option Nat      -- time base since which every die is below THROT − 5
  parkBusy : Bool
  parkStat : Code
  parkHeld : Option Word    -- a PWR_PARK_CMD held while ADM BUSY (R482)
  overTemp : Bool           -- the last trip was thermal (R458, R486)
  modTest  : Bool           -- MOD_TEST held through power-on (R490, R503)
deriving DecidableEq, Repr

def PwrSt.running : PwrSt :=
  { phase := .running, step := 8, fail := 0, throt := 0, coolAt := none, parkBusy := false, parkStat := .ok, parkHeld := none,
    overTemp := false, modTest := false }

/-- An armed injection point (R500). -/
structure Inj where
  every  : Bool
  target : Nat
  arg    : Nat
deriving DecidableEq, Repr

/-- A BIST test under way (R493). -/
inductive BistTest where
  | logic (dies : Nat) | memory (dies : Nat) | tile (t : Nat)
deriving DecidableEq, Repr

/-- The BIST page (R493 to R504). -/
structure BistSt where
  test    : Option BistTest
  pass    : Bool
  logicOk : Nat             -- bit d: LOGIC passed on die d since the last fence or reset (R497)
  memOk   : Nat
  status  : Code
  dieFail : Nat
  failArray : Nat
  failWord : Nat
  sigs    : List Word       -- 6
  tsig    : Word
  pertStat : Code
  pertAt  : Nat             -- arithmetic clock on which the perturbation in force took effect (R498)
  inj     : Table Inj       -- by point
  injStat : Code
  uses    : Nat
  selPage : Word
  selIdx  : Nat
  ready   : Bool
  val     : Word
deriving DecidableEq, Repr

def BistSt.reset : BistSt :=
  { test := none, pass := false, logicOk := 0, memOk := 0, status := .ok, dieFail := 0, failArray := 0, failWord := 0,
    sigs := List.replicate 6 0, tsig := 0, pertStat := .ok, pertAt := 0, inj := [], injStat := .ok, uses := 0, selPage := 0, selIdx := 0,
    ready := false, val := 0 }

/-- The TAPs (R503): the instruction in force in each, in chain order P0, P1, C0 to C3. -/
structure JtagSt where
  irs : List JtagIr
deriving DecidableEq, Repr

def JtagSt.reset : JtagSt := { irs := List.replicate 6 .idcode }

end Sys2Proof.Machine
end

