-- ==== Sys2Proof/Machine/TimeState.lean ====
section
/-! DEFINITION. State of the time base, its reference, cascade, barrier, pulse outputs, recorder and check units (15, 16). -/

namespace Sys2Proof.Machine

/-- TIME settings committed and not yet applied (R394): the steps added together, and the last COMMIT's increment, FOFF and barrier settings. -/
structure TimeSet where
  step   : Int
  incr   : Nat
  foff   : Nat
  barCfg : Word
deriving DecidableEq, Repr

/-- States of TIME_STAT.PLL (R396). -/
inductive PllState where
  | freerun | acquiring | locked | holdover
deriving DecidableEq, Repr

/-- States of TIME_STAT.CASC (R408, R412). -/
inductive CascRole where
  | none | locked | holdover | slewing
deriving DecidableEq, Repr

/-- States of TIME_BAR_STAT (R410, R412). -/
inductive BarState where
  | idle | armed | ready | done
deriving DecidableEq, Repr

/-- One pulse output (R406, R407): enabled, whether the pulse is given, the START in use, the next edge (2k the leading edge of pulse k, 2k + 1 its trailing edge), its counts. -/
structure Pulse where
  en      : Bool
  high    : Bool
  waitBar : Bool          -- SEL = 1 and the barrier has not fired
  start   : Nat
  edge    : Nat
  status  : Code
  skipped : Nat
  count   : Nat
deriving DecidableEq, Repr

def Pulse.off : Pulse :=
  { en := false, high := false, waitBar := false, start := 0, edge := 0, status := .ok, skipped := 0, count := 0 }

/-- One cascade port (R408, R409): its measured delay, 0 DOWN, 1 UP, 2 CONFLICT; READY held from downstream; modules that report through it. -/
structure Casc where
  dly   : Nat
  state : Nat
  ready : Bool
  below : Nat
deriving DecidableEq, Repr

def Casc.down : Casc := { dly := 0, state := 0, ready := false, below := 0 }

/-- An announced step or FOFF (R408): the time base value at which it applies. -/
structure Announce where
  at_  : Nat
  step : Int
  foff : Nat
deriving DecidableEq, Repr

/-- The time base (R393) in nanoseconds and 2^−28 ns, and the rest of the TIME page's state. -/
structure TimeSt where
  ns       : Nat
  frac     : Nat
  phase    : Nat          -- sevenths of a time clock since its last edge: an arithmetic clock is 4 of them
  incr     : Nat          -- in force (R397)
  foff     : Nat          -- in force (R399)
  barCfg   : Word         -- in force
  pend     : Option TimeSet
  announce : List Announce
  stepSt   : Code
  pll      : PllState
  srcAct   : Nat
  casc     : CascRole
  slew     : Int          -- still to be slewed back to the master, in 2^−28 ns
  nmem     : Nat
  oversize : Bool
  hops     : Nat
  cascs    : List Casc    -- ports 0 to 3
  snapNs   : Nat
  snapFrac : Nat
  ppsNs    : Nat
  ppsFrac  : Nat
  ppsSeq   : Nat
  ppsTaken : Bool         -- an edge has been taken
  glitch   : Nat
  barState : BarState
  barStatus : Code
  barGen   : Nat
  barFire  : Option Nat   -- T fixed and not yet reached
  barT     : Nat          -- TIME_BAR_T
  armedAt  : Nat
  pulses   : List Pulse   -- outputs 0 to 3
deriving DecidableEq, Repr

def TimeSt.reset : TimeSt :=
  { ns := 0, frac := 0, phase := 0, incr := 0x10000000, foff := 0, barCfg := 0x03E80A03, pend := none, announce := [], stepSt := .ok,
    pll := .freerun, srcAct := 0, casc := .none, slew := 0, nmem := 0, oversize := false, hops := 0,
    cascs := List.replicate 4 Casc.down, snapNs := 0, snapFrac := 0, ppsNs := 0, ppsFrac := 0, ppsSeq := 0, ppsTaken := false,
    glitch := 0, barState := .idle, barStatus := .ok, barGen := 0, barFire := none, barT := 0, armedAt := 0,
    pulses := List.replicate 4 Pulse.off }

/-- The recorder (R422 to R429). -/
structure RecSt where
  running  : Bool          -- from the barrier's fire time until MODE = 0
  origin   : Nat           -- the fire time
  status   : Code
  stopped  : Bool          -- replay has stopped (R428)
  drops    : Nat
  gap      : Nat           -- entries dropped since the last one written
  late     : Nat           -- replay: LIVE_DROP (R427)
  mismatch : Nat
  badType  : Nat
  badId    : Nat
  badT     : Nat
  cmpAt    : Table Nat     -- per TYPE and ID: ring position after the last blaze compared
  head0    : Nat           -- HEAD when the barrier fired (R429)
deriving DecidableEq, Repr

def RecSt.reset : RecSt :=
  { running := false, origin := 0, status := .ok, stopped := false, drops := 0, gap := 0, late := 0, mismatch := 0, badType := 0,
    badId := 0, badT := 0, cmpAt := [], head0 := 0 }

/-- One check unit (R431 to R434). -/
structure ChkSt where
  crc      : Nat           -- the register
  result   : Nat
  spans    : Nat
  short    : Nat
  mismatch : Nat
deriving DecidableEq, Repr

def ChkSt.reset : ChkSt := { crc := 0, result := 0, spans := 0, short := 0, mismatch := 0 }

end Sys2Proof.Machine
end

