-- ==== Sys2Proof/Machine/TrustState.lean ====
section
/-! DEFINITION. State of the binder, the signer and the seed bank (18). -/

namespace Sys2Proof.Machine

/-- A trust anchor slot that is VALID (R465): 17 key words, rights, domain. -/
structure Anchor where
  key    : List Word
  rights : Nat
  domain : Nat
deriving DecidableEq, Repr

/-- A weight segment of a bound graph: its object. -/
structure WgtObj where
  oid    : Nat
  vpn    : Nat
  npages : Nat
deriving DecidableEq, Repr

/-- A bound package (R467 to R472). -/
structure Pkg where
  kind    : Nat
  anchor  : Nat
  level   : Nat
  abi     : Nat
  svn     : Nat
  npspan  : Nat
  padr    : Nat
  size    : Nat              -- bytes placed at PADDR
  digest  : List Byte        -- 32 bytes
  inst    : Nat              -- graph: instance
  wbase   : Nat
  lmask   : Nat
  pbase   : Nat
  pinst   : Nat              -- instructions of CODE
  oid     : Nat              -- object of the PADDR range
  records : List (List Word) -- DECL records, 8 words each
  steps   : List (List Word) -- step entries (R252)
  cmds    : List Byte        -- command area (R253)
  wgts    : List WgtObj
  ckptsz  : Nat
  ckpt    : List (Nat × Nat) -- CKPT list entries
deriving DecidableEq, Repr

/-- What a signature request is for (R440, R474, R477). -/
inductive SignFor where
  | tenant (inst : Nat) | manager (inst : Nat) | spdm (ide : Option (Fin 5))
deriving DecidableEq, Repr

/-- A request to the signer. -/
structure SignReq where
  who   : SignFor
  nonce : List Byte
  dest  : Nat
deriving DecidableEq, Repr

/-- The request the signer has taken up (R475, R477): its captured report, its index, and whether its signature is held for the TOP write. -/
structure Signing where
  req    : SignReq
  report : List Byte
  index  : Nat
  made   : Bool            -- the signature exists
  held   : Bool            -- it waits for the TOP write
deriving DecidableEq, Repr

/-- The binder's command in progress (R467, R472). -/
inductive BindJob where
  | bind (addr len : Nat) (stage : List Word)
  | unbind (handle : Nat)
deriving DecidableEq, Repr

/-- The seed bank and its agents. -/
structure SeedSt where
  anchors : Table Anchor
  ctrs    : Table Nat        -- 32 monotonic counters
  top     : Nat
  block   : Nat × Nat        -- next index and end of the block in hand
  signing : Option Signing
  queue   : List SignReq
  exh     : Bool
  pkgs    : Table Pkg        -- by handle
  job     : Option BindJob
  jobHeld : Bool             -- held behind admission (R472)
  status  : Code
  reason  : Nat
  handle  : Nat
  level   : Nat
  read    : List Word        -- read area, 16 words
  ancStat : Code
  attBusy : Bool
  attStat : Code
deriving DecidableEq, Repr

def SeedSt.reset : SeedSt :=
  { anchors := [], ctrs := [], top := 0, block := (0, 0), signing := none, queue := [], exh := false, pkgs := [], job := none,
    jobHeld := false, status := .ok, reason := 0, handle := 0, level := 0, read := List.replicate 16 0, ancStat := .ok,
    attBusy := false, attStat := .ok }

end Sys2Proof.Machine
end

