-- ==== Sys2Proof/Machine/State.lean ====
section
/-! DEFINITION. The state of the module, what a step can stop with, and the module after reset. -/

namespace Sys2Proof.Machine

/-- Liveness and mirror messages that leave the module (R374, R382). -/
inductive LvMsg where
  | heartbeat (h : Heartbeat)
  | accuse (x : Nat) (epoch : Word)
  | clear (x : Nat) (epoch : Word)
  | verdict (x : Nat) (epoch : Word)
  | forward (x : Nat) (epoch : Word)          -- R376, to modules of the stage and of reached stages
  | join (pos : Nat) (shadow bist : Bool)
  | admitMsg (a : AdmitMsg)
  | mirrorOpen (cell pcell : Nat) (desc : List Word) (rdigest ldigest : List Byte)
  | mirrorAnswer (pcell : Nat) (ok : Bool)
  | mirror (pcell : Nat) (item : MirrorItem)
deriving DecidableEq, Repr

/-- Cascade messages (R408, R410, R411). -/
inductive CascMsg where
  | ready | fire (t : Nat) | abort | announce (at_ : Nat) (step : Int) (foff : Nat)
deriving DecidableEq, Repr

/-- What has left the module (log entry 4). -/
inductive Output where
  | msix (addr : DWord) (data : Word)                 -- R510
  | unsupported (req : Requester) (page : Page) (off : Nat)   -- an unsupported-request completion (R9, R11)
  | noService                                         -- a host access during a reset or without rails: an unsupported request (R489)
  | slotMsg (cell : Nat) (words : List Word)          -- a slot message to the L2 host (R151)
  | ethTx (port : Nat) (f : EgressFrame)              -- a frame sent (R454)
  | ckxTx (port : Nat) (p : LinkPacket)               -- a link packet (R364)
  | ckxCredit (port : Nat) (n : Nat)                  -- R367: request credits advertised to the switch
  | ckxAck (port : Nat) (seq : Nat)
  | ckxNak (port : Nat) (seq : Nat)
  | lvTx (port : Nat) (dest : Nat) (m : LvMsg)        -- R374
  | cascTx (port : Nat) (m : CascMsg)
  | pulse (p : Nat) (high : Bool)                     -- R406: the pin's level
  | i3cAck
  | i3cNack
  | i3cData (bytes : List Byte)
  | i3cIbi (flags : Byte)                             -- R458
  | accessDone (sp : Space) (va : Nat) (code : Code) (bytes : List Byte) -- R318: an agent's access completes
  | refused (page : Page) (off : Nat) (c : Code)               -- R441: a register write that is refused with a code (DESIGN CHOICE, log entry 135: no register shows it)
  | windowDone (c : Code)                             -- R282: the completion of a write through the device window
  | biSnoop (line : Nat)                              -- R437: a back-invalidate snoop of a line, byte key / 64
  | hbmWrite (frame : Nat) (bytes : List Byte)        -- R319: ciphertext that a move writes to a frame
  | spillWrite (inst tile : Nat) (bytes : List Byte)  -- R319: ciphertext of a spill image
  | t3Write (addr : Nat) (bytes : List Byte)    -- R294, R319: ciphertext that a demotion writes to a run in host memory
  | windowData (bytes : List Byte)                    -- R437
  | windowPoison (len : Nat)
  | atsDone (pasid first pages : Nat)                 -- R439
  | spdm (index : Option Nat)                         -- R440: a signature with its index, or INDEX_EXHAUSTED
deriving DecidableEq, Repr

/-- The register file (R12 to R16, R501, R510). -/
structure RegFile where
  raw    : Table Word          -- every writable register as last accepted; for shadow registers the pending value
  com    : Table Word          -- shadow registers in force
  evtRaw : Table Word
  evtPend : Table Word
  scal   : Table Nat           -- scaler counters by page and index
  msixTab : Table Word         -- words of the MSI-X table as written
  pba    : DWord
deriving DecidableEq, Repr

/-- The module. -/
structure State where
  pending : List Instr         -- commands waiting, first in, first out
  fresh   : Nat                -- the model's counter of free values (log entry 3)
  out     : List Output        -- newest first
  ac      : Nat                -- arithmetic clocks since reset
  regs    : RegFile
  mem     : Memory             -- device memory of every space, and host memory by PASID
  mems    : MemSt
  tiles   : Table Tile
  groves  : Table Grove
  lanes   : Table Lane
  cells   : Table Cell
  mirrors : Table MirrorEntry
  scheds  : Table Sched
  coord   : Coord
  codeSeq : Nat                -- coding-engine commands accepted since reset, for R202's order
  insts   : Table Inst
  ctxs    : Table ReqCtx
  fbk     : FbkSt
  arr     : Table Word         -- arrival counters, die * 65536 + counter (R81, R307)
  arb     : Table (List ArbReq) -- requests held at each arbitration point, oldest first (R223, R312)
  shape   : Table Nat          -- shaping buckets in 1/1024 transfers, domain * 2^20 + arbitration point (R313)
  time    : TimeSt
  recd    : RecSt
  chks    : Table ChkSt
  fabric  : FabricSt
  eth     : Table EthSt
  cxl     : CxlSt
  i3c     : I3cSt
  seed    : SeedSt
  pwr     : PwrSt
  bist    : BistSt
  jtag    : JtagSt
deriving DecidableEq, Repr

/-- No command of this module ends in a fault: every outcome the manual gives is a state (log entry 5). The one constructor is never raised; safe. -/
inductive Fault where
  | neverRaised
deriving DecidableEq, Repr

/-- notModelled: a command whose meaning is not written; raised by its arm alone; safe. -/
inductive Refusal where
  | notModelled (mnemonic : String)
deriving DecidableEq, Repr

/-- Floor granules (R22). -/
def floorGranules : List Nat := [0, 1, 16, 17, 32, 33, 48, 49]

/-- The map after start-up: floor granules domain 0 VALID, nothing else held (R22, R490). -/
def resetMap : Memory := floorGranules.map (fun g => (g, 0x80#8))

/-- The map page's state after start-up: the pending image is the map in force (R309, R490). -/
def FbkSt.reset (d0key : BitVec 512) : FbkSt :=
  { map := resetMap, image := resetMap, bad := false, loaded := true, status := .ok, held := [], mabort := 0, instBusy := false,
    instStat := .ok, lastInst := 0, sendStat := .ok, sendSid := 0, sendUntil := 0, ovfTarget := 0, watch := false, d0key := some d0key,
    pausedOrder := [], accepted := 0 }

/-- EVT_RAW of the coordinator's page at reset: the IDLE bit stands (log entry 6). -/
def RegFile.reset : RegFile :=
  { raw := [], com := [], evtRaw := [(5 * 65536 + 4, 0x1#32)], evtPend := [(5 * 65536 + 4, 0x1#32)], scal := [], msixTab := [], pba := 0 }

/-- The module at the end of start-up step 8: module reset is released, the floor belongs to domain 0, the other groves are parked, the CXL link trains (R490). -/
def State.reset : State :=
  { pending := [], fresh := 1, out := [], ac := 0, regs := RegFile.reset, mem := [], mems := MemSt.empty, tiles := [], groves := [],
    lanes := [], cells := [], mirrors := [], scheds := [], coord := Coord.reset, codeSeq := 0, insts := [], ctxs := [],
    fbk := FbkSt.reset (Sys2Proof.Config.randomKey 0), arr := [], arb := [], shape := [], time := TimeSt.reset, recd := RecSt.reset, chks := [],
    fabric := FabricSt.reset, eth := [], cxl := CxlSt.reset, i3c := I3cSt.reset, seed := SeedSt.reset, pwr := PwrSt.running,
    bist := BistSt.reset, jtag := JtagSt.reset }

end Sys2Proof.Machine
end

