-- ==== Sys2Proof/Machine/Ops.lean ====
section
/-! DEFINITION. Named operations over the state: units and their updates, registers, events and their interrupts, scaler counters, the map, free values, output. -/

namespace Sys2Proof.Machine

/-- A field of width bits at bit lo, saturating at its largest value. -/
def put (v width lo : Nat) : Nat := min v (2 ^ width - 1) * 2 ^ lo

/-- A field of width bits at bit lo that wraps. -/
def putW (v width lo : Nat) : Nat := v % 2 ^ width * 2 ^ lo

/-- A step's answer. -/
abbrev Ans := Host.Outcome State Fault Refusal

/-- The state that an answer leads to. -/
def Ans.state (s : State) : Ans → State
  | .next t => t
  | _ => s

/-- The rails are up and the module reset is released (R480, R490). -/
def State.running (s : State) : Bool := s.pwr.phase = .running

/-! Units. -/

/-- A tile lies in a floor grove (R22). -/
def floorTile (t : Nat) : Bool := t % 256 < 32

def State.tile (s : State) (t : Nat) : Tile := s.tiles.get (if floorTile t then Tile.idleFloor else Tile.idle) t
def State.setTile (s : State) (t : Nat) (x : Tile) : State := { s with tiles := s.tiles.set t x }
def State.updTile (s : State) (t : Nat) (f : Tile → Tile) : State := s.setTile t (f (s.tile t))

/-- A grove: those outside the floor are parked at reset (R490). -/
def State.grove (s : State) (g : Nat) : Grove := s.groves.get (if g % 8 = 0 then Grove.idle else Grove.idleParked) g
def State.setGrove (s : State) (g : Nat) (x : Grove) : State := { s with groves := s.groves.set g x }
def State.updGrove (s : State) (g : Nat) (f : Grove → Grove) : State := s.setGrove g (f (s.grove g))

def State.lane (s : State) (l : Nat) : Lane := s.lanes.get Lane.reset l
def State.setLane (s : State) (l : Nat) (x : Lane) : State := { s with lanes := s.lanes.set l x }
def State.updLane (s : State) (l : Nat) (f : Lane → Lane) : State := s.setLane l (f (s.lane l))

/-- Context c of a lane. -/
def Lane.ctx (l : Lane) (c : Nat) : LaneCtx := l.ctxs.get LaneCtx.zero c
def Lane.setCtx (l : Lane) (c : Nat) (x : LaneCtx) : Lane := { l with ctxs := l.ctxs.set c x }
def State.lctx (s : State) (l c : Nat) : LaneCtx := (s.lane l).ctx c
def State.setLctx (s : State) (l c : Nat) (x : LaneCtx) : State := s.updLane l (fun y => y.setCtx c x)
def State.updLctx (s : State) (l c : Nat) (f : LaneCtx → LaneCtx) : State := s.setLctx l c (f (s.lctx l c))

def State.cell (s : State) (c : Nat) : Cell := s.cells.get Cell.free c
def State.setCell (s : State) (c : Nat) (x : Cell) : State := { s with cells := s.cells.set c x }
def State.updCell (s : State) (c : Nat) (f : Cell → Cell) : State := s.setCell c (f (s.cell c))

def State.mirror (s : State) (c : Nat) : MirrorEntry := s.mirrors.get MirrorEntry.none c
def State.setMirror (s : State) (c : Nat) (x : MirrorEntry) : State := { s with mirrors := s.mirrors.set c x }

def State.sched (s : State) (d : Nat) : Sched := s.scheds.get Sched.reset d
def State.updSched (s : State) (d : Nat) (f : Sched → Sched) : State := { s with scheds := s.scheds.set d (f (s.sched d)) }

def State.inst (s : State) (i : Nat) : Inst := s.insts.get Inst.free i
def State.setInst (s : State) (i : Nat) (x : Inst) : State := { s with insts := s.insts.set i x }
def State.updInst (s : State) (i : Nat) (f : Inst → Inst) : State := s.setInst i (f (s.inst i))

def State.ctx (s : State) (k : Nat) : ReqCtx := s.ctxs.get ReqCtx.free k
def State.setCtx (s : State) (k : Nat) (x : ReqCtx) : State := { s with ctxs := s.ctxs.set k x }
def State.updCtx (s : State) (k : Nat) (f : ReqCtx → ReqCtx) : State := s.setCtx k (f (s.ctx k))

def State.chk (s : State) (k : Nat) : ChkSt := s.chks.get ChkSt.reset k
def State.setChk (s : State) (k : Nat) (x : ChkSt) : State := { s with chks := s.chks.set k x }

def State.ethp (s : State) (p : Nat) : EthSt := s.eth.get EthSt.reset p
def State.setEth (s : State) (p : Nat) (x : EthSt) : State := { s with eth := s.eth.set p x }
def State.updEth (s : State) (p : Nat) (f : EthSt → EthSt) : State := s.setEth p (f (s.ethp p))

def State.port (s : State) (p : Nat) : CkxPortSt := s.fabric.ports.get CkxPortSt.reset p
def State.setPort (s : State) (p : Nat) (x : CkxPortSt) : State :=
  { s with fabric := { s.fabric with ports := s.fabric.ports.set p x } }
def State.updPort (s : State) (p : Nat) (f : CkxPortSt → CkxPortSt) : State := s.setPort p (f (s.port p))

def State.fstream (s : State) (k : Nat) : FStream := s.fabric.streams.get FStream.new k
def State.setFstream (s : State) (k : Nat) (x : FStream) : State :=
  { s with fabric := { s.fabric with streams := s.fabric.streams.set k x } }

def State.agent (s : State) (d : Nat) : Agent := s.fabric.agents.get Agent.empty d
def State.setAgent (s : State) (d : Nat) (x : Agent) : State :=
  { s with fabric := { s.fabric with agents := s.fabric.agents.set d x } }

def State.lv (s : State) : LvSt := s.fabric.lv
def State.setLv (s : State) (x : LvSt) : State := { s with fabric := { s.fabric with lv := x } }

def State.l2q (s : State) (q : Nat) : L2q := s.cxl.l2q.get L2q.reset q
def State.setL2q (s : State) (q : Nat) (x : L2q) : State := { s with cxl := { s.cxl with l2q := s.cxl.l2q.set q x } }

/-! Free values and output. -/

/-- A free value the manual leaves open (log entry 3), and the state with its counter advanced. -/
def State.takeFree (s : State) : Nat × State := (Sys2Proof.Config.freeNat s.fresh, { s with fresh := s.fresh + 1 })

/-- Random key material (R317, R344). -/
def State.takeKey (s : State) : BitVec 512 × State := (Sys2Proof.Config.randomKey s.fresh, { s with fresh := s.fresh + 1 })

def State.emit (s : State) (o : Output) : State := { s with out := o :: s.out }

/-- f folded over numbers 0 to n - 1. -/
def foldN {α : Type} (n : Nat) (f : Nat → α → α) (a : α) : α := (List.range n).foldl (fun acc i => f i acc) a

/-- f folded over a list. -/
def foldS {α β : Type} (l : List β) (f : β → α → α) (a : α) : α := l.foldl (fun acc x => f x acc) a

/-! The map (R307, R308). -/

/-- The domain that holds map unit u (byte u), if any. -/
def mapOwner (m : Memory) (u : Nat) : Option Nat :=
  if (m.read u).toNat / 128 = 1 then some ((m.read u).toNat % 64) else none

/-- The map entry is draining (R308). -/
def mapDrain (m : Memory) (u : Nat) : Bool := (m.read u).toNat / 64 % 2 = 1

def State.owner (s : State) (u : Nat) : Option Nat := mapOwner s.fbk.map u

/-- The domain of a tile (R307). -/
def State.tileOwner (s : State) (t : Nat) : Option Nat := s.owner (t / 16)

/-- Domain d holds arrival counter c (R307). -/
def State.ctrHeld (s : State) (d c : Nat) : Bool := if 0x8000 ≤ c then d = 0 else s.owner (576 + c / 256) = some d

/-! Registers. -/

/-- A writable register as last accepted; a shadow register's pending value. -/
def State.reg (s : State) (p : Page) (off : Nat) : Word := s.regs.raw.get (regReset p off) (regKey p off)

/-- A shadow register in force (R15). -/
def State.inForce (s : State) (p : Page) (off : Nat) : Word := s.regs.com.get (regReset p off) (regKey p off)

def State.setReg (s : State) (p : Page) (off : Nat) (v : Word) : State :=
  { s with regs := { s.regs with raw := s.regs.raw.set (regKey p off) v } }

/-- Every shadow register of the page takes its pending value (R15). -/
def State.applyShadow (s : State) (p : Page) : State :=
  { s with regs := { s.regs with com := foldS (shadowOffs p) (fun off t => t.set (regKey p off) (s.reg p off)) s.regs.com } }

/-- Two words of a register pair as one number (R513). -/
def State.pair (s : State) (p : Page) (lo hi : Nat) : Nat := (s.reg p lo).toNat + 2 ^ 32 * (s.reg p hi).toNat

def pgTile (t : Nat) : Page := { kind := .tile, inst := t }
def pgLane (l : Nat) : Page := { kind := .lane, inst := l }
def pgGrv (g : Nat) : Page := { kind := .grv, inst := g }
def pgSds (d : Nat) : Page := { kind := .sds, inst := d }
def pgHbm (c : Nat) : Page := { kind := .hbm, inst := c }
def pgCru (d : Nat) : Page := { kind := .cru, inst := d }
def pgCkx (p : Nat) : Page := { kind := .ckx, inst := p }
def pgLnd (g : Nat) : Page := { kind := .lnd, inst := g }
def pgEth (p : Nat) : Page := { kind := .eth, inst := p }
def pgCxl : Page := { kind := .cxl, inst := 0 }
def pgTime : Page := { kind := .time, inst := 0 }
def pgMbx (i : Nat) : Page := { kind := .mbx, inst := i }
def pgFbk (k : Nat) : Page := { kind := .fbk, inst := k }
def pgMap : Page := { kind := .fbk, inst := 64 }
def pgChk (k : Nat) : Page := { kind := .chk, inst := k }
def pgSeed : Page := { kind := .seed, inst := 0 }
def pgPwr : Page := { kind := .pwr, inst := 0 }
def pgBist : Page := { kind := .bist, inst := 0 }

/-! Scaler counters (R501, R502). -/

def scalKey (p : Page) (idx : Nat) : Nat := pageKey p * 65536 + idx

def State.scaler (s : State) (p : Page) (idx : Nat) : Nat := s.regs.scal.get 0 (scalKey p idx)

/-- A scaler counter raised by n, saturating. -/
def State.bump (s : State) (p : Page) (idx n : Nat) : State :=
  if n = 0 then s else
  { s with regs := { s.regs with scal := s.regs.scal.set (scalKey p idx) (satAdd (s.scaler p idx) n 0xFFFFFFFF) } }

/-- A write that is ignored and counted, on a page for which R502 lists no counter of such writes: an index of its own. -/
def State.ignored (s : State) (p : Page) : State :=
  s.bump p (match p.kind with | .lane => 7 | .sds => (if p.inst = 4 then 0 else 255) | .mbx => 1 | .fbk => 0 | _ => 255) 1

/-- Counters of a cell on the coordinator's page (R502). -/
def cellIdx (c k : Nat) : Nat := 64 + 8 * c + k

/-! Interrupts of BAR0 pages (R510). -/

/-- Word w of the MSI-X table; vector control resets to masked (log entry 8). -/
def State.msix (s : State) (w : Nat) : Word := s.regs.msixTab.get (if w % 4 = 3 then 1 else 0) w

/-- The MSI-X message of vector v: sent, or pending while masked (R510). -/
def State.sendVector (s : State) (v : Nat) : State :=
  if bitOf (s.msix (4 * v + 3)) 0 then { s with regs := { s.regs with pba := s.regs.pba ||| (1#64 <<< v) } }
  else s.emit (.msix (BitVec.ofNat 64 ((s.msix (4 * v)).toNat + 2 ^ 32 * (s.msix (4 * v + 1)).toNat)) (s.msix (4 * v + 2)))

def State.evtRaw (s : State) (p : Page) : Word := s.regs.evtRaw.get 0 (pageKey p)
def State.evtPend (s : State) (p : Page) : Word := s.regs.evtPend.get 0 (pageKey p)

/-- The page's interrupt condition I (R510). -/
def State.irq (s : State) (p : Page) : Bool := s.evtPend p &&& s.reg p 0x084 ≠ 0

/-- EVT_RAW becomes raw; it and the pulse are latched in EVT_PEND (R510). -/
def State.latch (s : State) (p : Page) (raw pulse : Word) : State :=
  { s with regs := { s.regs with evtRaw := s.regs.evtRaw.set (pageKey p) raw
                                 evtPend := s.regs.evtPend.set (pageKey p) (s.evtPend p ||| raw ||| pulse) } }

/-- The page's MSI-X message (R510). -/
def State.notifyBar0 (s : State) (p : Page) : State := s.sendVector (fld (s.reg p 0x08C) 5 0)

/-- Event conditions of a BAR0 page change: a message when I rises. -/
def State.evtBar0 (s : State) (p : Page) (raw pulse : Word) : State :=
  let s1 := s.latch p raw pulse
  if !s.irq p && s1.irq p then s1.notifyBar0 p else s1

/-- Event b of a BAR0 page stands or falls. -/
def State.level (s : State) (p : Page) (b : Nat) (on : Bool) : State := s.evtBar0 p (setBitTo (s.evtRaw p) b on) 0

/-- Event b of a BAR0 page occurs for one clock. -/
def State.pulse (s : State) (p : Page) (b : Nat) : State := s.evtBar0 p (s.evtRaw p) (1#32 <<< b)

/-! Time. -/

/-- The time base in ns (R393). -/
def State.now (s : State) : Nat := s.time.ns

/-- Its low 32 bits (R400). -/
def State.now32 (s : State) : Word := w32 s.time.ns

/-- A 24-bit deadline tag of a time (R217): 32 ns units. -/
def tagOf (ns : Nat) : Nat := ns / 32 % 2 ^ 24

/-- The key of a request at an arbitration point (R217, R218): LATE requests stand at −2^22. -/
def State.tagKey (s : State) (tag : Nat) (late : Bool) : Int :=
  let k : Nat := (tag + 2 ^ 24 - tagOf s.now) % 2 ^ 24
  let v : Int := if k < 2 ^ 23 then (k : Int) else (k : Int) - 2 ^ 24
  if late then -(2 ^ 22) else max v (-(2 ^ 22))

/-- A request's key has reached −2^22. -/
def State.tooLate (s : State) (tag : Nat) : Bool := decide (s.tagKey tag false ≤ -(2 ^ 22 : Int))

/-- DREL of a class after its clamps (R220). -/
def State.drel (s : State) (cls : Nat) : Nat :=
  let d := fld (s.inForce (pgSds 4) (0x0C0 + 4 * cls)) 23 0
  if 2 ^ 23 ≤ d then 0x7FFFFF else max 0x400 d

/-- The tag of work that serves no request (R219): NOW + DREL of class 7. -/
def State.tag7 (s : State) : Nat := (tagOf s.now + s.drel 7) % 2 ^ 24

/-- The frame grid (R399): offset of the time base from FOFF, modulo 1,024 frames. -/
def State.gridPos (s : State) (t : Nat) : Nat := ((t : Int) - (s.time.foff : Int)).emod 10240000000 |>.toNat

/-- SFN at a time (R399). -/
def State.sfnAt (s : State) (t : Nat) : Nat := s.gridPos t / 10000000

/-- Arrival counter c of a die (R81). -/
def State.ctr (s : State) (die c : Nat) : Word := s.arr.get 0 (die * 65536 + c)
def State.setCtr (s : State) (die c : Nat) (v : Word) : State := { s with arr := s.arr.set (die * 65536 + c) v }
def State.addCtr (s : State) (die c : Nat) (n : Word) : State := s.setCtr die c (s.ctr die c + n)

/-- Number of a space: instances 0 to 4,095, domain 0 is 4,096. -/
def spaceIdx : Space → Nat
  | .dom0 => 4096
  | .inst i => i.val

/-- The space of a number. -/
def spaceOf (k : Nat) : Space := if h : k < 4096 then .inst ⟨k, h⟩ else .dom0

/-- The domain of a space (R307). -/
def State.domainOf (s : State) : Space → Nat
  | .dom0 => 0
  | .inst i => (s.inst i.val).domain

end Sys2Proof.Machine
end

