-- ==== Sys2Proof/Machine/MemOps.lean ====
section
/-! DEFINITION. Device and host memory: spaces and keys, homes, frames, the Chipper's sizes, canopy lines, errors, the checks of R318, loads and stores, the dirty log, notification lines of MBX pages (11, 12, 21 R514). -/

namespace Sys2Proof.Machine

/-! Where bytes live in State.mem. -/

/-- Byte key of device address va of a space. Content is kept by virtual address, so a move (R275) never changes it. -/
def devKey (k va : Nat) : Nat := k * 2 ^ 48 + va

/-- Byte key of host address va under a PASID (R315, R438). -/
def hostKey (pasid va : Nat) : Nat := (8192 + pasid) * 2 ^ 48 + va

/-- Key of a 64 KiB page of a space (R274). -/
def pageKeyOf (k vpn : Nat) : Nat := k * 2 ^ 32 + vpn

def pageSpace (pk : Nat) : Nat := pk / 2 ^ 32
def pageVpn (pk : Nat) : Nat := pk % 2 ^ 32

/-- Pages of the spill region of an instance (R322): 8 for each tile; and its mailbox page. -/
def spillPage (i t j : Nat) : Nat := pageKeyOf (16384 + i) (t * 8 + j)
def mailPage (i : Nat) : Nat := pageKeyOf (16384 + i) (2 ^ 20)

def State.home (s : State) (pk : Nat) : Home := s.mems.homes.get Home.fresh pk
def State.setHome (s : State) (pk : Nat) (h : Home) : State := { s with mems := { s.mems with homes := s.mems.homes.set pk h } }
def State.updHome (s : State) (pk : Nat) (f : Home → Home) : State := s.setHome pk (f (s.home pk))

/-! Objects (R279). -/

/-- The registered object that covers a page: its OID and entry. -/
def State.objOf (s : State) (k vpn : Nat) : Option (Nat × Obj) :=
  s.mems.objects.find? (fun p => spaceIdx p.2.space = k && p.2.vpn ≤ vpn && vpn < p.2.vpn + p.2.npages)

/-- The domain of a space number; spill and mailbox pages follow their instance. -/
def State.domainOfIdx (s : State) (k : Nat) : Nat :=
  if k = 4096 then 0 else if k < 4096 then (s.inst k).domain else (s.inst (k - 16384)).domain

/-- Channels that a domain holds on a die, ascending (R299, R307). -/
def State.channels (s : State) (d die : Nat) : List Nat :=
  ((List.range 96).map (die * 96 + ·)).filter (fun c => s.owner (64 + c) = some d)

/-- Those without DRAIN (R308). -/
def State.openChannels (s : State) (d die : Nat) : List Nat := (s.channels d die).filter (fun c => !mapDrain s.fbk.map (64 + c))

/-- The lowest die on which a domain holds a channel without DRAIN (R279). -/
def State.lowDie (s : State) (d : Nat) : Option Nat := (List.range 4).find? (fun die => !(s.openChannels d die).isEmpty)

/-- The lowest die on which domain 0 holds a channel, draining or not (R279). -/
def State.lowDie0 (s : State) : Option Nat := (List.range 4).find? (fun die => !(s.channels 0 die).isEmpty)

/-- The die and base of a page's object (R279): a page of a default object keeps the die it was first backed on. -/
def State.placeOf (s : State) (pk : Nat) : Option (Nat × Nat) :=
  let k := pageSpace pk
  match s.objOf k (pageVpn pk) with
  | some (_, o) => some (o.die, o.base)
  | none =>
    let h := s.home pk
    let d := s.domainOfIdx k
    match (if h.tier ≠ .unbacked then some h.die else if k = 4096 then s.lowDie0 else s.lowDie d) with
    | none => none
    | some die => some (die, if k < 4096 then (let n := (s.channels d die).length; if n = 0 then 0 else k % n) else 0)

/-- A page's index within its object (R300). -/
def State.pageIndex (s : State) (pk : Nat) : Nat :=
  match s.objOf (pageSpace pk) (pageVpn pk) with
  | some (_, o) => pageVpn pk - o.vpn
  | none => pageVpn pk

/-- PINNED (R279): every page of domain 0, spill and mailbox pages, pages of pinned objects. -/
def State.pinned (s : State) (pk : Nat) : Bool :=
  let k := pageSpace pk
  4096 ≤ k || (match s.objOf k (pageVpn pk) with | some (_, o) => o.pinned | none => false)

/-- A T2 home of the page is Chipper-encoded (R291). -/
def State.encT2 (s : State) (pk : Nat) : Bool :=
  match s.objOf (pageSpace pk) (pageVpn pk) with | some (_, o) => o.cmpt2 | none => false

/-! Frames (R299, R300, R305). -/

def framesPerCh : Nat := 36864
def usableFrames : Nat := 36848
def frameCh (f : Nat) : Nat := f / framesPerCh
def frameDie (f : Nat) : Nat := f / framesPerCh / 96
def frameHbm (f : Nat) : Nat := f / framesPerCh / 16

/-- Frames that hold a page or are a move's destination. -/
def State.usedFrames (s : State) : List Nat :=
  (s.mems.homes.filter (fun p => p.2.tier = .t2)).map (fun p => p.2.frame)
  ++ (s.mems.moves.filter (fun m => m.kind = .promotion || m.kind = .rehome)).map (fun m => m.frame)

def State.badFrame (s : State) (f : Nat) : Bool := s.mems.retired.contains f || s.mems.retirePend.contains f

/-- The lowest number below n that the list does not hold. -/
def lowestFree (used : List Nat) (n : Nat) : Option Nat := (List.range (min n (used.length + 1))).find? (fun x => !used.contains x)

/-- The lowest free frame of a channel that a page may take: not a spare, not retired (R300). -/
def State.freeInChannel (s : State) (c : Nat) : Option Nat :=
  let used := (s.usedFrames ++ s.mems.retired ++ s.mems.retirePend).filter (fun f => frameCh f = c)
  (lowestFree (used.map (· % framesPerCh)) usableFrames).map (c * framesPerCh + ·)

/-- The lowest free spare frame of a channel (R299, R305). -/
def State.freeSpare (s : State) (c : Nat) : Option Nat :=
  let used := s.usedFrames ++ s.mems.retired ++ s.mems.retirePend
  ((List.range 16).map (c * framesPerCh + usableFrames + ·)).find? (fun f => !used.contains f)

/-- A frame for page i of an object with this base on the die, round-robin over the domain's channels (R300); a draining channel gives none (R308). -/
def State.freeFrame (s : State) (d die base i : Nat) : Option Nat :=
  let chs := s.channels d die
  let n := chs.length
  if n = 0 then none else
    (List.range n).findSome? (fun j =>
      let c := chs.getD ((base + i + j) % n) 0
      if mapDrain s.fbk.map (64 + c) then none else s.freeInChannel c)

/-- Free frames of a domain on a die: those an allocation can take (R286, R308). -/
def State.freeFrames (s : State) (d die : Nat) : Nat :=
  let chs := s.openChannels d die
  let gone := (s.usedFrames ++ s.mems.retired ++ s.mems.retirePend).filter (fun f => chs.contains (frameCh f) && f % framesPerCh < usableFrames)
  chs.length * usableFrames - gone.eraseDups.length

/-- Pinned pages of a domain homed on a die. -/
def State.pinnedFrames (s : State) (d die : Nat) : Nat :=
  (s.mems.homes.filter (fun p => p.2.tier = .t2 && frameDie p.2.frame = die && s.domainOfIdx (pageSpace p.1) = d && s.pinned p.1)).length

/-! The Chipper's encoding (R292, R293). -/

/-- Code and payload of a line: the shortest payload, a tie to the lower code (R292). -/
def lineCode (prev : Option (List Byte)) (l : List Byte) : Nat × List Byte :=
  if l.all (· = 0#8) then (0, [])
  else if prev = some l then (1, [])
  else
    let mask := l.foldr (fun x m => 2 * m + (if x = 0#8 then 0 else 1)) 0
    let sparse := leBytes 8 mask ++ l.filter (· ≠ 0#8)
    if sparse.length ≤ 64 then (2, sparse) else (3, l)

/-- Codes and payloads of a chunk's lines in order; line 0 is never REPEAT. -/
def lineCodes : Option (List Byte) → List (List Byte) → List (Nat × List Byte)
  | _, [] => []
  | prev, l :: t => lineCode prev l :: lineCodes (some l) t

/-- The 64-byte lines of a chunk. -/
def chunkLines (bs : List Byte) : List (List Byte) := (List.range 64).map (fun j => (bs.drop (64 * j)).take 64)

/-- The CMAP nibble of a chunk and the bytes of its sectors: ZERO, LINES with its line-code array, payloads and zero padding, or RAW (R292, R293). -/
def encodeChunk (bs : List Byte) : Nat × List Byte :=
  if bs.all (· = 0#8) then (0, [])
  else
    let cs := lineCodes none (chunkLines bs)
    let body := leBytes 16 (cs.foldr (fun c acc => c.1 + 4 * acc) 0) ++ cs.flatMap (·.2)
    let n := cdiv body.length 512
    if n ≤ 7 then (n, body ++ List.replicate (512 * n - body.length) 0#8) else (8, bs)

/-- Sectors of one chunk. -/
def chunkSectors (bs : List Byte) : Nat := (encodeChunk bs).1

/-- Nibble c of a chunk map. -/
def cmapNibble (m : DWord) (c : Nat) : Nat := m.toNat / 16 ^ c % 16

/-- The chunk map of a page's content. -/
def State.cmapOf (s : State) (pk : Nat) : List Nat :=
  (List.range 16).map (fun c => chunkSectors (s.mem.readN (devKey (pageSpace pk) (pageVpn pk * 65536 + 4096 * c)) 4096))

def cmapWord (cs : List Nat) : DWord := BitVec.ofNat 64 (cs.foldr (fun n acc => n + 16 * acc) 0)

/-- The tweak of sector s of a page (R319). -/
def tweakOf (vpn s : Nat) : BitVec 128 := BitVec.ofNat 128 (vpn % 2 ^ 31 * 128 + s)

/-- The key that a space's memory is under (R317). -/
def State.keyOf (s : State) (sp : Nat) : BitVec 512 := ((if sp < 4096 then (s.inst sp).key else s.fbk.d0key).getD 0)

/-- The page's sectors as a T3 home in host memory holds them: sector k of chunk c is the data unit with tweak sector 8c + k (R291, R319). -/
def State.t3Cipher (s : State) (pk : Nat) : List Byte :=
  (List.range 16).flatMap (fun c =>
    let x := encodeChunk (s.mem.readN (devKey (pageSpace pk) (pageVpn pk * 65536 + 4096 * c)) 4096)
    (List.range x.1).flatMap (fun k =>
      Sys2Proof.Config.xtsEncrypt (s.keyOf (pageSpace pk)) (tweakOf (pageVpn pk) (8 * c + k)) ((x.2.drop (512 * k)).take 512)))

/-- The page's sectors as a T2 home holds them: a raw home's sector s is the data unit with tweak sector s, an encoded home's sector k of chunk c that with tweak sector 8c + k (R291, R319). -/
def State.t2Cipher (s : State) (pk : Nat) : List Byte :=
  if (s.home pk).cmp then s.t3Cipher pk
  else (List.range 128).flatMap (fun x =>
    Sys2Proof.Config.xtsEncrypt (s.keyOf (pageSpace pk)) (tweakOf (pageVpn pk) x) (s.mem.readN (devKey (pageSpace pk) (pageVpn pk * 65536 + 512 * x)) 512))

/-- The tweak of a sector of a tile's spill image (R319). -/
def spillTweak (tile sector : Nat) : BitVec 128 := BitVec.ofNat 128 (2 ^ 64 + tile * 1024 + sector)

/-- A spill image as the spill region holds it, 512 bytes to a sector (R277, R319). -/
def State.spillCipher (s : State) (inst tile : Nat) (image : List Byte) : List Byte :=
  (List.range (cdiv image.length 512)).flatMap (fun x =>
    Sys2Proof.Config.xtsEncrypt (s.keyOf inst) (spillTweak tile x) ((image.drop (512 * x)).take 512))

/-- The least power of two at or above n (R294). -/
def pow2Up (n : Nat) : Nat := if n ≤ 1 then n else 2 ^ (Nat.log2 (n - 1) + 1)

/-- Sectors of a page's T3 run (R294). -/
def runSectors (cs : List Nat) : Nat := pow2Up cs.sum

/-- The Cruiser's T3 range in sectors (R306). -/
def State.t3Sectors (s : State) (die : Nat) : Nat := (s.reg (pgCru die) 0x108).toNat % 8192 * 2 ^ 21

/-- The lowest aligned free run of n sectors in the die's T3 range (R280). -/
def State.freeRun (s : State) (die n : Nat) : Option Nat :=
  if n = 0 then some 0 else
    let used := s.mems.t3runs.get [] die
    let starts := 0 :: used.map (fun r => cdiv (r.1 + r.2) n * n)
    let ok := starts.filter (fun a => a + n ≤ s.t3Sectors die && used.all (fun r => a + n ≤ r.1 || r.1 + r.2 ≤ a))
    match ok with
    | [] => none
    | a :: t => some (t.foldl min a)

def State.addRun (s : State) (die a n : Nat) : State :=
  if n = 0 then s else { s with mems := { s.mems with t3runs := s.mems.t3runs.set die ((a, n) :: s.mems.t3runs.get [] die) } }
def State.dropRun (s : State) (die a : Nat) : State :=
  { s with mems := { s.mems with t3runs := s.mems.t3runs.set die ((s.mems.t3runs.get [] die).filter (fun r => r.1 ≠ a)) } }

/-- The run of a T3 home returns to the allocator; a page whose chunks are all ZERO has none (R280, R294). -/
def State.dropHomeRun (s : State) (h : Home) : State := if h.tier = .t3 && h.cmap ≠ 0 then s.dropRun h.die h.sector else s

/-! Canopy lines (R276, R301, R302). -/

/-- Ways that a domain holds on a die (R307). -/
def State.wayList (s : State) (d die : Nat) : List Nat := (List.range 32).filter (fun w => s.owner (448 + die * 32 + w) = some d)
def State.waysOf (s : State) (d die : Nat) : Nat := (s.wayList d die).length

/-- Heat counts line accesses that reach the home (R285). -/
def State.heatUp (s : State) (pk : Nat) : State := s.updHome pk (fun h => { h with acc := h.acc + 1 })

/-- Set of a line: physical line address modulo 24,576 (R301). -/
def lineSet (frame line : Nat) : Nat := (frame * 512 + line) % 24576

def CLine.isAt (c : CLine) (pk line : Nat) : Bool := c.page = pk && c.line = line

/-- The line replaced in a full set of a domain's ways: the PF line least recently used, else the least recently used (R301). The list is most recent first. -/
def victimOf (ls : List CLine) : Option CLine :=
  match ls.reverse.find? (·.pf) with
  | some c => some c
  | none => ls.getLast?

/-- Entries of exact reduction live in the domain's ways at 10 lines each: the least recently used leave while they and the canopy lines do not fit, each counted in REPRO_INEXACT (R417). -/
def State.exactPressure (s : State) (d die : Nat) : State :=
  let a := s.agent die
  let mine := a.exact.filter (fun e => e.domain = d)
  let lines := (s.mems.canopy.filter (fun c => c.die = die && c.domain = d)).length
  let gone := (mine.drop ((s.waysOf d die * 24576 - lines) / 10)).map (·.key)
  if gone.isEmpty then s
  else ((s.setAgent die { a with exact := a.exact.filter (fun x => !gone.contains x.key) }).bump (pgCkx (16 + die)) 1 gone.length).pulse (pgCkx (16 + die)) 4

/-- A line enters the canopy in the ways of a domain (R301): a free one of its set, the lowest first, else that of the line it replaces, which is written back when dirty (R285). -/
def State.allocLine (s : State) (d pk line : Nat) (dirty pf : Bool) : State :=
  let h := s.home pk
  let die := frameDie h.frame
  let ways := s.wayList d die
  let inSet := s.mems.canopy.filter (fun c => c.die = die && c.domain = d && lineSet (s.home c.page).frame c.line = lineSet h.frame line)
  let enter (t : State) (w : Nat) : State :=
    { t with mems := { t.mems with canopy := { die := die, page := pk, line := line, domain := d, way := w, dirty := dirty, pf := pf } :: t.mems.canopy } }
  match ways.find? (fun w => !inSet.any (fun c => c.way = w)) with
  | some w => (enter s w).exactPressure d die
  | none =>
    match victimOf inSet with
    | none => s
    | some v =>
      let t := { s with mems := { s.mems with canopy := s.mems.canopy.filter (fun x => !x.isAt v.page v.line) } }
      (enter (if v.dirty then t.heatUp v.page else t) v.way).exactPressure d die

/-- Uncorrectable errors of a controller (R306). -/
def State.countUe (s : State) (ctl : Nat) : State :=
  { s with mems := { s.mems with ue := s.mems.ue.set ctl (satAdd (s.mems.ue.get 0 ctl) 1 0xFFF) } }

/-- A line of an uncorrectable error is poisoned (R303). -/
def State.poisonLine (s : State) (pk line : Nat) : State :=
  { (s.updHome pk (fun h => { h with poison := true })) with
    mems := { (s.updHome pk (fun h => { h with poison := true })).mems with
      poison := if s.mems.poison.contains (pk * 512 + line) then s.mems.poison else (pk * 512 + line) :: s.mems.poison } }

def State.isPoison (s : State) (pk line : Nat) : Bool := s.mems.poison.contains (pk * 512 + line)

/-- A full-line write clears the line's poison (R303). -/
def State.clearPoison (s : State) (pk line : Nat) : State :=
  if s.isPoison pk line then
    let ps := s.mems.poison.filter (· ≠ pk * 512 + line)
    ({ s with mems := { s.mems with poison := ps } }).updHome pk (fun h => { h with poison := ps.any (fun x => x / 512 = pk) })
  else s

/-- An armed injection at a point for a target is consumed (R500): its argument, and the state after. -/
def State.useInj (s : State) (point target : Nat) : Option Nat × State :=
  match s.bist.inj.find point with
  | some j =>
    if j.target = target then
      (some j.arg, { s with bist := { s.bist with inj := if j.every then s.bist.inj else s.bist.inj.erase point
                                                  uses := satAdd s.bist.uses 1 0xFFFF } })
    else (none, s)
  | none => (none, s)

/-- A line of the page is in a fabric agent's combining buffer (R362). -/
def State.hotPage (s : State) (pk : Nat) : Bool := s.fabric.agents.any (fun p => p.2.hot.any (fun h => h.buf.isSome && h.key / 512 = pk))

/-- The candidates for demotion of a domain on a die, and the coldest (R287). -/
def State.candidates (s : State) (d die : Nat) : List (Nat × Home) :=
  s.mems.homes.filter (fun p => p.2.tier = .t2 && frameDie p.2.frame = die && s.domainOfIdx (pageSpace p.1) = d && pageSpace p.1 < 4096
    && !s.pinned p.1 && !p.2.lock && p.2.waiters.isEmpty && p.2.pfHold.isEmpty)

def colder (a b : Nat × Home) : Bool :=
  a.2.heat < b.2.heat || (a.2.heat = b.2.heat && (a.2.laste < b.2.laste || (a.2.laste = b.2.laste && a.2.frame < b.2.frame)))

def State.coldest (s : State) (d die : Nat) : Option (Nat × Home) :=
  (s.candidates d die).foldl (fun acc x => match acc with | none => some x | some y => if colder x y then some x else some y) none

/-- Canopy lines of a page are invalidated (R280). -/
def State.dropLines (s : State) (pk : Nat) : State :=
  { s with mems := { s.mems with canopy := s.mems.canopy.filter (fun c => c.page ≠ pk) } }

/-- No candidate is left for a demotion that is needed (R287). -/
def State.noCandidate (s : State) (die : Nat) : State := (s.bump (pgCru die) 0 1).pulse (pgCru die) 0

/-- A demotion of a page starts: its T3 run is taken and LOCK set (R280). False when T3 has no run for it. -/
def State.startDemotion (s : State) (pk : Nat) : Bool × State :=
  let h := s.home pk
  let cs := s.cmapOf pk
  let n := runSectors cs
  match s.freeRun h.die n with
  | none => (false, s)
  | some a =>
    let t := (s.addRun h.die a n).setHome pk { h with lock := true }
    (true, { t with mems := { t.mems with moves := t.mems.moves ++ [{ page := pk, kind := .demotion, frame := 0, sector := a, sectors := n, cmap := cmapWord cs, tag := t.tag7 }] } })

/-- Demotions in flight on a die; with a domain, that domain's. -/
def State.demotions (s : State) (die : Nat) (d : Option Nat) : Nat :=
  (s.mems.moves.filter (fun m => m.kind = .demotion && (s.home m.page).die = die
    && (match d with | none => true | some x => s.domainOfIdx (pageSpace m.page) = x))).length

/-- Demotions are started while the frames that will be free stay below the mark (R286, R287). -/
def State.demoteTo (s : State) (d die mark : Nat) : Nat → State
  | 0 => s
  | fuel + 1 =>
    if (s.freeFrames d die + s.demotions die (some d)) * 1024 < mark
        && s.demotions die none < max 1 (fld (s.reg (pgCru die) 0x010) 21 16) then
      match s.coldest d die with
      | none => s.noCandidate die
      | some (pk, _) =>
        let (ok, t) := s.startDemotion pk
        if ok then t.demoteTo d die mark fuel else t
    else s

/-- The Cruiser looks at a domain's free frames (R286): demotion starts below LOW and, once going, runs to HIGH. -/
def State.waterCheck (s : State) (d die : Nat) (going : Bool) : State :=
  let w := s.inForce (pgCru die) 0x0C0
  let frames := (s.channels d die).length * usableFrames - s.pinnedFrames d die
  let low := fld w 9 0 * frames
  let high := max low (fld w 25 16 * frames)
  let f := (s.freeFrames d die + s.demotions die (some d)) * 1024
  if f < (if going then high else low) then s.demoteTo d die high 64 else s

/-- Every Cruiser looks at the free frames of the domains that have pages on its die, after a change of the map or of the marks (R286). -/
def State.watchWater (s : State) : State :=
  foldS (((s.mems.homes.filter (fun p => p.2.tier = .t2)).map (fun p => (s.domainOfIdx (pageSpace p.1), frameDie p.2.frame))).eraseDups)
    (fun x t => t.waterCheck x.1 x.2 false) s

/-- A move waits for the page: it joins the waiter list, once (R280, R283). -/
def State.waitMove (s : State) (pk : Nat) (k : MoveKind) (tag : Nat) : State :=
  s.updHome pk (fun h => if h.waiters.any (fun w => w.what = .move k) then h
    else { h with waiters := h.waiters ++ [{ what := .move k, t3 := false, since := s.now, tag := tag, late := false }] })

/-- The move no longer waits. -/
def Home.unwait (h : Home) (k : MoveKind) : Home := { h with waiters := h.waiters.filter (fun w => w.what ≠ .move k) }

/-- The tag that a waiting move carries. -/
def Home.moveTag (h : Home) (k : MoveKind) (other : Nat) : Nat :=
  match h.waiters.find? (fun w => w.what = .move k) with | some w => w.tag | none => other

def Home.waitsMove (h : Home) (k : MoveKind) : Bool := h.waiters.any (fun w => w.what = .move k)

/-- Retirement of a frame is recorded (R305, R306). -/
def State.logRetire (s : State) (f : Nat) : State :=
  { s with mems := { s.mems with retired := if s.mems.retired.contains f then s.mems.retired else f :: s.mems.retired
                                 retireLog := s.mems.retireLog.set (frameHbm f) (s.mems.retireLog.get [] (frameHbm f) ++ [f]) } }

/-- A page may not stay in the frame: retired, or in a draining channel (R305, R308). -/
def State.mustLeave (s : State) (f : Nat) : Bool := s.badFrame f || mapDrain s.fbk.map (64 + frameCh f)

/-- The page in a frame. -/
def State.pageIn (s : State) (f : Nat) : Option (Nat × Home) := s.mems.homes.find? (fun p => p.2.tier = .t2 && p.2.frame = f)

/-- The die whose Cruiser keeps a page's waiter list: its home's, or for a page that was never backed the one where it will be placed (R279). -/
def State.waitDie (s : State) (pk : Nat) : Nat :=
  if (s.home pk).tier = .unbacked then (match s.placeOf pk with | some (die, _) => die | none => 0) else (s.home pk).die

/-- Pages of a domain on a die that wait for a frame, this one among them. -/
def State.frameSeekers (s : State) (pk d die : Nat) : Nat :=
  1 + (s.mems.homes.filter (fun p => p.1 ≠ pk && (p.2.waitsMove .promotion || p.2.waitsMove .rehome) && s.domainOfIdx (pageSpace p.1) = d
    && s.waitDie p.1 = die)).length

/-- Room for a page that found no frame (R286, R305): the coldest candidate begins to leave, one for each page that waits for a frame. -/
def State.makeRoom (s : State) (pk d die : Nat) : State :=
  if s.demotions die (some d) < s.frameSeekers pk d die && s.demotions die none < max 1 (fld (s.reg (pgCru die) 0x010) 21 16) then
    match s.coldest d die with
    | some (qk, _) => (s.startDemotion qk).2
    | none => s.noCandidate die
  else s

/-- Where the page of a frame that it must leave goes (R305, R308): a spare of its channel unless that drains, else a free frame of the domain; failing that, room is made by the coldest candidate. -/
def State.rehomeDest (s : State) (pk f : Nat) : Option Nat × State :=
  let d := s.domainOfIdx (pageSpace pk)
  match (if mapDrain s.fbk.map (64 + frameCh f) then none else s.freeSpare (frameCh f)) with
  | some f' => (some f', s)
  | none =>
    let base := match s.placeOf pk with | some p => p.2 | none => 0
    match s.freeFrame d (frameDie f) base (s.pageIndex pk) with
    | some f' => (some f', s)
    | none => (none, if d = 0 then s else s.makeRoom pk d (frameDie f))

/-- A rehome of a page out of frame f starts (R280, R305); with no destination a domain-0 page stays, RETIRE_PENDING, and another waits for one. -/
def State.startRehome (s : State) (pk f : Nat) : State :=
  if (s.home pk).lock then s.waitMove pk .rehome s.tag7 else
  match s.rehomeDest pk f with
  | (some f', t) =>
    let t1 := t.updHome pk (fun h => { (h.unwait .rehome) with lock := true })
    let m : Move := { page := pk, kind := .rehome, frame := f', sector := 0, sectors := 0, cmap := 0, tag := t1.tag7 }
    ({ t1 with mems := { t1.mems with moves := t1.mems.moves ++ [m] } }).waterCheck
      (s.domainOfIdx (pageSpace pk)) (frameDie f') false
  | (none, t) =>
    if s.domainOfIdx (pageSpace pk) = 0 then
      ({ t with mems := { t.mems with retirePend := if t.mems.retirePend.contains f then t.mems.retirePend else f :: t.mems.retirePend } }).pulse (pgCru (frameDie f)) 1
    else t.waitMove pk .rehome t.tag7

/-- A frame is retired (R305): its page, if it holds one, is rehomed. A free frame less may start a demotion (R286). -/
def State.retire (s : State) (f : Nat) : State :=
  if s.badFrame f then s else
  match s.pageIn f with
  | none =>
    (match s.owner (64 + frameCh f) with
     | some d => (s.logRetire f).waterCheck d (frameDie f) false
     | none => s.logRetire f)
  | some (pk, _) =>
    let t := s.startRehome pk f
    if t.mems.retirePend.contains f then t else t.logRetire f

/-- A corrected error of a frame (R302, R305). -/
def State.correctedAt (s : State) (f : Nat) : State :=
  let c := frameHbm f
  let n := s.mems.frameCe.get 0 f + 1
  let lim := max 1 (fld (s.reg (pgHbm c) 0x010) 15 8)
  let s1 := { s with mems := { s.mems with ce := s.mems.ce.set c (satAdd (s.mems.ce.get 0 c) 1 0xFFFF), frameCe := s.mems.frameCe.set f n } }
  if lim ≤ n then s1.retire f else s1

/-- An uncorrectable error in a line of a frame (R303, R305). -/
def State.uncorrectedAt (s : State) (f pk line : Nat) : State :=
  ((s.countUe (frameHbm f)).poisonLine pk line).retire f

/-- A read that reaches HBM: an armed injection of its controller strikes domain 0's reads (R500). -/
def State.hbmRead (s : State) (d pk line : Nat) : State :=
  let f := (s.home pk).frame
  if d ≠ 0 then s else
    match s.useInj 3 (frameHbm f) with
    | (none, _) => s
    | (some arg, s1) => if arg % 2 = 1 then s1.uncorrectedAt f pk line else s1.correctedAt f

/-- A canopy hit: an armed injection of the die strikes domain 0's hits (R302, R500). -/
def State.canopyHit (s : State) (d die pk line : Nat) (dirty : Bool) : State :=
  if d ≠ 0 then s else
    match s.useInj 4 die with
    | (none, _) => s
    | (some arg, s1) =>
      if arg % 2 = 0 then { s1 with mems := { s1.mems with cerr := s1.mems.cerr.set die (satAdd (s1.mems.cerr.get 0 die) 1 0xFFFFFFFF) } }
      else if dirty then (s1.countUe (frameHbm (s1.home pk).frame)).poisonLine pk line
      else s1.heatUp pk

/-! Shaping (R313). -/

def shapeRate (w : Word) : Nat := min 1024 (fld w 10 0)
def shapeBurst (w : Word) : Nat := max 1 (fld w 23 16)

/-- A bucket in 1/1,024 of a grant; one that has not been touched since its settings took effect is full. -/
def State.bucket (s : State) (d pt : Nat) : Nat := s.shape.get (1024 * shapeBurst (s.inForce (pgFbk d) 0x0C4)) (d * 2 ^ 20 + pt)

/-- Shaping holds the domain's requests at arbitration points (R313). -/
def State.shaped (s : State) (d : Nat) : Bool := d ≠ 0 && shapeRate (s.inForce (pgFbk d) 0x0C4) ≠ 0

/-! Arbitration points (R225), numbered by the model (DESIGN CHOICE, log entry 19): pseudo-channels 0 to 767, package links by their two dies, a canopy cache of each die, the CXL port, Caerkuix ports, router hops, Skidder engines and Chippers of each die, tile queues, sort decks. -/

def linkPoint (a b : Nat) : Nat := 768 + 6 * a + b
def canopyPoint (die : Nat) : Nat := 816 + die
def cxlPoint : Nat := 824
def ckxPoint (p : Nat) : Nat := 832 + p
def routerPoint (die hop : Nat) : Nat := 896 + 4 * die + hop
def skdPoint (die : Nat) : Nat := 928 + die
def chipPoint (die : Nat) : Nat := 936 + die
def tilePoint (t : Nat) : Nat := 1024 + t
def deckPoint (g : Nat) : Nat := 2048 + g

/-- The arbitration point of a line's home: pseudo-channel of its frame's channel, 1 KiB blocks alternating (R225, R299). -/
def hbmPoint (frame line : Nat) : Nat := frameCh frame * 2 + line / 8 % 2

/-- Kind of R498 and die of a point that grants memory accesses. -/
def pointKind (pt : Nat) : Option (Nat × Nat) :=
  if pt < 768 then some (4, pt / 192)
  else if pt < 768 + 36 then some (2, (pt - 768) / 6)
  else if canopyPoint 0 ≤ pt && pt < canopyPoint 4 then some (3, pt - canopyPoint 0)
  else if pt = cxlPoint then some (7, 4)
  else if routerPoint 0 0 ≤ pt && pt < routerPoint 6 0 then some (1, (pt - routerPoint 0 0) / 4)
  else none

/-- Perturbation holds back a request that came to the point at a clock (R498): its grant is delayed by DELAY, and on a clock whose draw withholds the credit it is not given, for 64 clocks at most. -/
def State.perturbed (s : State) (pt since : Nat) : Bool :=
  match pointKind pt with
  | none => false
  | some (k, die) =>
    let w := s.inForce pgBist (0x0C0 + 4 * k)
    let start := since + fld w 11 0
    bitOf w (20 + die)
    && (s.ac < start || (s.ac < start + 64 && (Config.perturbDraw (s.inForce pgBist 0x0E8) pt (s.ac - s.bist.pertAt)).toNat < fld w 19 12))

/-- The domain has shaping credit at a point: b ≥ 1 (R223, R313). -/
def State.eligible (s : State) (d pt : Nat) : Bool := !s.shaped d || 1024 ≤ s.bucket d pt

/-- A grant at a point takes 1 from the domain's bucket (R313). -/
def State.takeGrant (s : State) (d pt : Nat) : State :=
  if s.shaped d then { s with shape := s.shape.set (d * 2 ^ 20 + pt) (s.bucket d pt - 1024) } else s

/-- One 128-byte line access by domain d at a T2 home (R28, R29, R276, R301); full: a write of the whole line. -/
def State.lineAccess (s : State) (d pk line : Nat) (wr full : Bool) : State :=
  let h := s.home pk
  if h.tier ≠ .t2 then s else
    let die := frameDie h.frame
    let n := s.waysOf d die
    let pt := hbmPoint h.frame line
    if n = 0 then (if wr then (s.heatUp pk).takeGrant d pt else ((s.heatUp pk).takeGrant d pt).hbmRead d pk line)
    else
      match s.mems.canopy.find? (fun c => c.isAt pk line) with
      | some c =>
        let s1 := { s with mems := { s.mems with canopy :=
          { c with dirty := c.dirty || wr, pf := false } :: s.mems.canopy.filter (fun x => !x.isAt pk line) } }
        if wr then s1 else s1.canopyHit d die pk line c.dirty
      | none =>
        let s1 := ((s.heatUp pk).takeGrant d pt).allocLine d pk line wr false
        if full then s1 else s1.hbmRead d pk line

/-- Lines of a page enter the canopy marked PF, without counting in its heat (R289, R301). -/
def State.pfLine (s : State) (d pk line : Nat) : State :=
  let h := s.home pk
  if s.waysOf d (frameDie h.frame) = 0 || h.tier ≠ .t2 || s.mems.canopy.any (fun c => c.isAt pk line) then s
  else s.allocLine d pk line false true

/-- All lines of a page in T2 enter the canopy marked PF (R289). -/
def State.pfPage (s : State) (d pk : Nat) : State := if (s.home pk).tier = .t2 then foldN 512 (fun line t => t.pfLine d pk line) s else s

/-! Spaces and checks (R315, R316, R318). -/

def laneLo : Nat := 0x700000000000
def laneHi : Nat := 0x700002000000
def half : Nat := 2 ^ 47

/-- Pages of an instance's device memory (R315). -/
def State.pagesOf (s : State) (i : Nat) : Nat := (s.inst i).dmem * 16384

/-- States in which an instance's accesses are served (R318). -/
def phaseServes : InstPhase → Bool
  | .active | .draining | .squashing | .freezing | .frozen => true
  | .free | .created => false

/-- The PASID of a space's host half (R315, R316). -/
def State.pasidOf (s : State) : Space → Nat
  | .dom0 => fld (s.reg pgMap 0x010) 19 0
  | .inst i => (s.inst i.val).pasid

/-- ATS translates every page of a host extent (R439). -/
def State.atsOk (s : State) (pasid va len : Nat) : Bool :=
  s.cxl.denied.all (fun r => r.1 ≠ pasid || (va + len - 1) / 4096 < r.2.1 || r.2.1 + r.2.2 ≤ va / 4096)

/-- The issuer's key slot and state allow an access (R318). -/
def State.issuerOk (s : State) : Space → Bool
  | .dom0 => s.fbk.d0key.isSome
  | .inst i => (s.inst i.val).key.isSome && phaseServes (s.inst i.val).phase

/-- The extent lies in the issuer's device memory (R315, R316). -/
def State.inDevice (s : State) (sp : Space) (va len : Nat) : Bool :=
  match sp with
  | .dom0 => va + len ≤ laneLo
  | .inst i => va + len ≤ s.pagesOf i.val * 65536

/-- The extent lies in the lane memories (R316). -/
def inLanes (sp : Space) (va len : Nat) : Bool := sp = .dom0 && laneLo ≤ va && va + len ≤ laneHi

/-- Which memory of which lane, and the byte in it (R316). -/
def laneSpot (va : Nat) : Nat × Nat × Nat := ((va - laneLo) / 0x40000, (va - laneLo) % 0x40000 / 0x10000, (va - laneLo) % 0x10000)

/-- The outcome of the checks on an extent (R318). -/
def State.accCode (s : State) (sp : Space) (va len : Nat) : Code :=
  if len = 0 then .ok
  else if half ≤ va then
    (if !(va + len ≤ 2 ^ 48 && s.atsOk (s.pasidOf sp) va len) then .keyDenied
     -- a request on an Insecure stream loses its completion (R440)
     else if s.cxl.insecure.contains 4 then .tierError else .ok)
  else if !s.issuerOk sp then .keyDenied
  else if s.inDevice sp va len || inLanes sp va len then .ok else .keyDenied

/-- A store's checks: program memory is not written by an agent (R316). -/
def State.storeCode (s : State) (sp : Space) (va len : Nat) : Code :=
  if s.accCode sp va len ≠ .ok then s.accCode sp va len
  else if inLanes sp va len && 0 < len && ((laneSpot va).2.1 = 3 || (laneSpot (va + len - 1)).2.1 = 3) then .keyDenied
  else .ok

/-- The memory list's key of an address of a space. -/
def State.memKey (s : State) (sp : Space) (va : Nat) : Nat :=
  if half ≤ va then hostKey (s.pasidOf sp) va else devKey (spaceIdx sp) va

/-- A lane memory by number (R316). -/
def Lane.memOf (l : Lane) (m : Nat) : Memory := if m = 0 then l.x else if m = 1 then l.y else if m = 2 then l.c else l.prog
def Lane.setMem (l : Lane) (m : Nat) (x : Memory) : Lane :=
  if m = 0 then { l with x := x } else if m = 1 then { l with y := x } else if m = 2 then { l with c := x } else { l with prog := x }

/-- A read of len bytes at b in memory m of lane l: an armed LANE_MEM injection on one of its 64-bit words is consumed; one flipped bit is corrected and counted, two make the read fail (R118, R500). -/
def State.laneRead (s : State) (l m b len : Nat) : Bool × State :=
  match s.bist.inj.find 2 with
  | none => (false, s)
  | some j =>
    let word := j.arg / 4 % 8192
    if j.target = l && j.arg % 4 = m && b / 8 ≤ word && word ≤ (b + len - 1) / 8 && 0 < len then
      let s1 := (s.useInj 2 l).2
      if j.arg / 32768 % 2 = 1 then (true, s1) else (false, s1.bump (pgLane l) 0 1)
    else (false, s)

/-- One byte as an agent sees it. -/
def State.byteAt (s : State) (sp : Space) (va : Nat) : Byte :=
  if inLanes sp va 1 then
    let (l, m, b) := laneSpot va
    if m = 3 && 0x8000 ≤ b then 0 else ((s.lane l).memOf m).read b
  else s.mem.read (s.memKey sp va)

/-- The content of an extent. -/
def State.peek (s : State) (sp : Space) (va len : Nat) : List Byte :=
  if half ≤ va || s.inDevice sp va len then s.mem.readN (s.memKey sp va) len
  else (List.range len).map (fun i => s.byteAt sp (va + i))

/-- Lines of an extent: (page key, line, whether all 128 bytes lie in it). -/
def linesIn (k va len : Nat) : List (Nat × Nat × Bool) :=
  if len = 0 then [] else
    (List.range ((va + len - 1) / 128 + 1 - va / 128)).map (fun i =>
      let a := (va / 128 + i) * 128
      (pageKeyOf k (a / 65536), a % 65536 / 128, va ≤ a && a + 128 ≤ va + len))

/-- The router hops of a die (R225): 3 on a compute die, 2 on a port die. -/
def routers (die : Nat) : List Nat := (List.range (if die < 4 then 3 else 2)).map (routerPoint die)

/-- The router hops and the package link that a packet crosses from die a to die b (R27, R225). -/
def hopPoints (a b : Nat) : List Nat := if a = b then routers a else routers a ++ [linkPoint a b] ++ routers b

/-- The arbitration points that a line access crosses from a die (R27, R225): the routers and the link to its home die, that die's canopy cache, and the pseudo-channel when the line is not in the canopy. -/
def State.linePoints (s : State) (from_ d pk line : Nat) : List Nat :=
  let h := s.home pk
  if h.tier ≠ .t2 then [] else
    let die := frameDie h.frame
    let ways := s.waysOf d die ≠ 0
    hopPoints from_ die ++ (if ways then [canopyPoint die] else [])
      ++ (if ways && s.mems.canopy.any (fun c => c.isAt pk line) then [] else [hbmPoint h.frame line])

/-- The points of an access to an extent; the host half lies past the CXL port on P0 (R26). -/
def State.accPoints (s : State) (from_ : Nat) (sp : Space) (va len : Nat) : List Nat :=
  if half ≤ va then hopPoints from_ 4 ++ [cxlPoint]
  else if inLanes sp va len then hopPoints from_ ((laneSpot va).1 / 32)
  else (linesIn (spaceIdx sp) va len).flatMap (fun x => s.linePoints from_ (s.domainOf sp) x.1 x.2.1)

/-- Pages of an extent. -/
def pagesIn (k va len : Nat) : List Nat :=
  if len = 0 then [] else (List.range ((va + len - 1) / 65536 + 1 - va / 65536)).map (fun i => pageKeyOf k (va / 65536 + i))

/-- A poisoned line lies in the extent (R303). -/
def State.hasPoison (s : State) (sp : Space) (va len : Nat) : Bool :=
  if half ≤ va || inLanes sp va len then false
  else (linesIn (spaceIdx sp) va len).any (fun x => s.isPoison x.1 x.2.1)

/-- A chunk of the extent has a nibble that is never written (R293). -/
def State.badNibble (s : State) (sp : Space) (va len : Nat) : List Nat :=
  if half ≤ va || inLanes sp va len then [] else
    ((linesIn (spaceIdx sp) va len).filter (fun x => let h := s.home x.1; h.cmp && 9 ≤ cmapNibble h.cmap (x.2.1 / 32))).map (·.1)

/-- An access that meets a poisoned line or such a chunk fails, and POISON stands for the chunk's page (R293, R303). -/
def State.tierBad (s : State) (sp : Space) (va len : Nat) : Bool × State :=
  let bad := s.badNibble sp va len
  (!bad.isEmpty || s.hasPoison sp va len, foldS bad (fun pk t => t.updHome pk (fun h => { h with poison := true })) s)

/-- A promoted page stands in frame f: its T3 run returns, its heat starts at 0 when it is first backed, LOCK is clear (R280, R285). -/
def State.enterT2 (s : State) (pk f : Nat) : State :=
  let h := s.home pk
  let t := s.dropHomeRun h
  let enc := t.encT2 pk
  let g := h.unwait .promotion
  t.setHome pk { g with tier := .t2, lock := false, frame := f, sector := 0, die := frameDie f, cmp := enc,
                        cmap := if enc then cmapWord (t.cmapOf pk) else 0, pinned := t.pinned pk,
                        heat := if h.tier = .unbacked then 0 else h.heat, acc := if h.tier = .unbacked then 0 else h.acc,
                        laste := if h.tier = .unbacked then 0 else h.laste }

/-- A frame for a page that enters T2: one that is free; with none, room is made (R286, R300). -/
def State.frameFor (s : State) (pk die base : Nat) : Option Nat × State :=
  let d := s.domainOfIdx (pageSpace pk)
  match s.freeFrame d die base (s.pageIndex pk) with
  | some f => (some f, s)
  | none => (none, s.makeRoom pk d die)

/-- A promotion of a page starts with the tag of what asks for it (R219, R280); with no frame to be had it waits. A frame less may start a demotion (R286). -/
def State.startPromotion (s : State) (pk tag : Nat) : State :=
  let h := s.home pk
  if h.tier = .t2 then s.updHome pk (fun x => x.unwait .promotion)
  else if h.lock then (if s.mems.moves.any (fun m => m.page = pk && m.kind = .promotion) then s else s.waitMove pk .promotion tag)
  else match s.placeOf pk with
    | none => s.waitMove pk .promotion tag
    | some (die, base) =>
      match s.frameFor pk die base with
      | (none, t) => t.waitMove pk .promotion tag
      | (some f, t) =>
        let t1 := t.updHome pk (fun x => { (x.unwait .promotion) with lock := true })
        let m : Move := { page := pk, kind := .promotion, frame := f, sector := 0, sectors := 0, cmap := 0, tag := tag }
        ({ t1 with mems := { t1.mems with moves := t1.mems.moves ++ [m] } }).waterCheck
          (s.domainOfIdx (pageSpace pk)) die false

/-! Waits (R276, R280, R282, R295). -/

/-- An access to this page waits: for a T3 wait true, for a T2 wait false (R276, R280, R295). Accesses that a failed T3 read completes wait no more (R281). -/
def State.pageWaits (s : State) (pk : Nat) (wr : Bool) : Option Bool :=
  let h := s.home pk
  match h.tier with
  | .t3 => if s.mems.tierFail = some pk then none else some true
  | .unbacked => if wr then some true else none
  | .t2 => if wr && h.lock then some false else none

/-- The first page of an extent that an access waits on. -/
def State.firstWait (s : State) (sp : Space) (va len : Nat) (wr : Bool) : Option (Nat × Bool) :=
  if half ≤ va || inLanes sp va len then none
  else (pagesIn (spaceIdx sp) va len).findSome? (fun pk => (s.pageWaits pk wr).map (fun t3 => (pk, t3)))

/-- An access joins the waiters of a page, and for a T3 wait raises its demand promotion, which carries its tag (R219, R276, R295). -/
def State.waitOn (s : State) (pk : Nat) (what : WaitWhat) (t3 : Bool) (tag : Nat) (late : Bool) : State :=
  let s1 := s.updHome pk (fun h => { h with waiters := h.waiters ++ [{ what := what, t3 := t3, since := s.now, tag := tag, late := late }] })
  if t3 then s1.startPromotion pk tag else s1

/-- A unit whose access waits on a tier (R276, R295): of the extents that it is to read or write, given as (space, address, length, writes), the first page that makes it wait takes it as a waiter, once; none, it goes on. -/
def State.unitWait (s : State) (u : WaitUnit) (tag : Nat) (xs : List (Space × Nat × Nat × Bool)) : Option State :=
  match xs.findSome? (fun x => (s.firstWait x.1 x.2.1 x.2.2.1 x.2.2.2).map (fun p => (p.1, p.2, x.2.2.2))) with
  | none => none
  | some (pk, t3, wr) =>
    if s.mems.homes.any (fun p => p.2.waiters.any (fun w => w.what = .unit u true || w.what = .unit u false)) then some s
    else some (s.waitOn pk (.unit u wr) t3 tag false)

/-- A write of the device's own to a page that was never backed takes a free frame at once, if there is one (DESIGN CHOICE, log entry 20: its demand promotion takes no time). -/
def State.backFree (s : State) (pk : Nat) : State :=
  let h := s.home pk
  if h.tier ≠ .unbacked || h.lock then s else
    match s.placeOf pk with
    | none => s
    | some (die, base) =>
      match s.freeFrame (s.domainOfIdx (pageSpace pk)) die base (s.pageIndex pk) with
      | some f => (s.enterT2 pk f).waterCheck (s.domainOfIdx (pageSpace pk)) die false
      | none => s

/-- A write to the page lands (R276, R280). -/
def State.lands (s : State) (pk : Nat) : Bool := (s.home pk).tier = .t2 && !(s.home pk).lock

/-! The dirty log (R336 to R338). -/

/-- A bit of a bitmap is set, or waits as any write does (R276, R280). -/
def State.setMark (s : State) (va bit : Nat) : State :=
  let pk := pageKeyOf 4096 (va / 65536)
  let a := devKey 4096 va
  let t := s.backFree pk
  if t.lands pk then { t with mem := Memory.write a (BitVec.ofNat 8 ((t.mem.read a).toNat ||| 2 ^ bit)) t.mem }
  else t.waitOn pk (.mark va bit) ((t.home pk).tier ≠ .t2) t.tag7 false

/-- A write to page p of an instance that landed is logged (R337). -/
def State.logDirty (s : State) (sp : Space) (p : Nat) : State :=
  match sp with
  | .dom0 => s
  | .inst i =>
    let x := s.inst i.val
    if x.logOn then s.setMark ((if x.logSel then x.logB else x.logA) + p / 8) (p % 8) else s

/-- A page returns to UNBACKED, its frame zeroed (R280); it counts as a write (R337). Its waiters stay with it. -/
def State.freePage (s : State) (pk : Nat) : State :=
  let h := s.home pk
  let k := pageSpace pk
  let lo := devKey k (pageVpn pk * 65536)
  let s2 := (s.dropHomeRun h).dropLines pk
  let s3 := { s2 with mem := s2.mem.clear lo (lo + 65536)
                      mems := { s2.mems with homes := if h.waiters.isEmpty then s2.mems.homes.erase pk else s2.mems.homes.set pk { Home.fresh with waiters := h.waiters }
                                             poison := s2.mems.poison.filter (fun x => x / 512 ≠ pk)
                                             moves := s2.mems.moves.filter (fun m => m.page ≠ pk) } }
  if k < 4096 then s3.logDirty (spaceOf k) (pageVpn pk) else s3

/-- A page is released (R280); while a move of it is under way the release waits (R283). -/
def State.releasePage (s : State) (pk : Nat) : State :=
  if (s.home pk).lock then s.waitMove pk .release s.tag7 else s.freePage pk

/-! Moves end (R280, R281). -/

/-- The Cruiser's T3 range begins at this host address (R306). -/
def State.t3Base (s : State) (die : Nat) : Nat :=
  fld (s.reg (pgCru die) 0x100) 31 12 * 4096 + 2 ^ 32 * fld (s.reg (pgCru die) 0x104) 15 0

/-- Host address of a sector of the range. -/
def State.t3Addr (s : State) (die sector : Nat) : Nat := s.t3Base die + 512 * sector

/-- The move's accesses to host memory are served: its run of n sectors translates, on a stream that is not Insecure (R281, R438, R440). -/
def State.t3Ok (s : State) (die sector n : Nat) : Bool := s.accCode .dom0 (half + s.t3Addr die sector) (512 * n) = .ok

/-- The destination of a move is given back and LOCK cleared: the page stays where it is (R281). -/
def State.undoMove (s : State) (m : Move) : State :=
  let h := s.home m.page
  let s0 := ({ s with mems := { s.mems with moves := s.mems.moves.filter (fun x => x.page ≠ m.page) } }).updHome m.page (fun x => { x with lock := false })
  if m.kind = .demotion && m.sectors ≠ 0 then s0.dropRun h.die m.sector else s0

/-- The clock on which a move writes the new home entry (R280): LOCK clear, canopy lines gone, the source freed. A page that a prefetch asked for has its lines filled (R289); a destination retired meanwhile is left again (R305). A demotion writes its sectors to host memory, a promotion and a rehome theirs to their frame (R319). -/
def State.switchMove (s : State) (m : Move) : State :=
  let pk := m.page
  let h := s.home pk
  let s0 := ({ s with mems := { s.mems with moves := s.mems.moves.filter (fun x => x.page ≠ pk) } }).dropLines pk
  match m.kind with
  | .promotion =>
    let t := (s0.enterT2 pk m.frame).emit (.hbmWrite m.frame ((s0.enterT2 pk m.frame).t2Cipher pk))
    let u := if h.pfHold.isEmpty then t else t.pfPage (t.domainOfIdx (pageSpace pk)) pk
    if u.mustLeave m.frame then u.startRehome pk m.frame else u
  | .rehome =>
    let t := (s0.setHome pk { h with lock := false, frame := m.frame }).emit (.hbmWrite m.frame (s0.t2Cipher pk))
    if t.mustLeave m.frame then t.startRehome pk m.frame else t
  | .release => s0.freePage pk
  | .demotion =>
    let cs := s0.cmapOf pk
    if runSectors cs = m.sectors then
      (s0.setHome pk { h with lock := false, tier := .t3, cmp := true, frame := 0, sector := m.sector, cmap := cmapWord cs }).emit
        (.t3Write (s0.t3Addr h.die m.sector) (s0.t3Cipher pk))
    else s.undoMove m

/-- An exact-reduction entry ends at a local write to its line (R417). -/
def State.endExact (s : State) (k va len : Nat) : State :=
  let lo := devKey k va / 128
  let hi := (devKey k va + len - 1) / 128
  if s.fabric.agents.all (fun p => p.2.exact.isEmpty) then s else
    { s with fabric := { s.fabric with agents := s.fabric.agents.map (fun p =>
        (p.1, { p.2 with exact := p.2.exact.filter (fun e => e.key < lo || hi < e.key) })) } }

/-! Loads and stores. -/

/-- A device agent needs an extent: lines of it that the host holds are snooped back (R437). -/
def State.snoopHost (s : State) (k va len : Nat) : State :=
  if s.cxl.hostLines.isEmpty then s else
    let lo := devKey k va / 64
    let hi := (devKey k va + len - 1) / 64
    let hit (x : Nat) : Bool := lo ≤ x && x ≤ hi
    foldS (s.cxl.hostLines.filter hit) (fun x t => t.emit (.biSnoop x))
      { s with cxl := { s.cxl with hostLines := s.cxl.hostLines.filter (fun x => !hit x) } }

/-- The host takes the lines of an extent that it reads, and gives back those that it writes (R437; DESIGN CHOICE, log entry 139: a read leaves its lines with the host until they are snooped or written). -/
def State.hostTakes (s : State) (k va len : Nat) (on : Bool) : State :=
  let ls := if len = 0 then [] else (List.range ((devKey k va + len - 1) / 64 + 1 - devKey k va / 64)).map (devKey k va / 64 + ·)
  { s with cxl := { s.cxl with hostLines := (if on then ls else []) ++ s.cxl.hostLines.filter (fun x => !ls.contains x) } }

/-- Bytes land at pages in T2: the dirty bit set, an encoded home's map kept, an exact-reduction entry of the lines ended (R294, R337, R417). -/
def State.landBytes (s : State) (sp : Space) (va : Nat) (bs : List Byte) : State :=
  let k := spaceIdx sp
  let len := bs.length
  let s1 := s.snoopHost k va len
  let s2 := { s1 with mem := Memory.writeN (devKey k va) bs s1.mem }
  (foldS (pagesIn k va len) (fun pk t =>
    let t1 := if (t.home pk).tier = .t2 && (t.home pk).cmp then t.updHome pk (fun h => { h with cmap := cmapWord (t.cmapOf pk) }) else t
    t1.logDirty sp (pageVpn pk)) s2).endExact k va len

/-- The lines of a write are accessed, and poison of those written whole is cleared (R285, R303). -/
def State.touchWrite (s : State) (sp : Space) (va len : Nat) : State :=
  foldS (linesIn (spaceIdx sp) va len) (fun x t =>
    let t1 := if x.2.2 then t.clearPoison x.1 x.2.1 else t
    t1.lineAccess (s.domainOf sp) x.1 x.2.1 true x.2.2) s

/-- A write lands: its lines are accessed, then its bytes stand. -/
def State.landDev (s : State) (sp : Space) (va : Nat) (bs : List Byte) : State := (s.touchWrite sp va bs.length).landBytes sp va bs

/-- An extent's part in each page: (page key, address, bytes). -/
def pageSlices (k va : Nat) (bs : List Byte) : List (Nat × Nat × List Byte) :=
  (pagesIn k va bs.length).map (fun pk =>
    let lo := max va (pageVpn pk * 65536)
    (pk, lo, (bs.drop (lo - va)).take ((pageVpn pk + 1) * 65536 - lo)))

/-- Bytes stored at their addresses, with no check: a part whose page is in T2 lands; another waits at the page with the tag, and lands after its move (R276, R280, R282). -/
def State.putDevTag (s : State) (tag : Nat) (sp : Space) (va : Nat) (bs : List Byte) : State :=
  let len := bs.length
  if len = 0 then s
  else if half ≤ va then { s with mem := Memory.writeN (s.memKey sp va) bs s.mem }
  else if inLanes sp va len then
    foldS ((List.range len).zip bs) (fun ib t =>
      let (l, m, b) := laneSpot (va + ib.1)
      t.updLane l (fun x => x.setMem m (Memory.write b ib.2 (x.memOf m)))) s
  else
    let k := spaceIdx sp
    let s1 := foldS (pagesIn k va len) (fun pk t => t.backFree pk) s
    if (pagesIn k va len).all s1.lands then s1.landDev sp va bs
    else
      foldS (pageSlices k va bs) (fun x t =>
        if t.lands x.1 then t.landDev sp x.2.1 x.2.2 else t.waitOn x.1 (.store sp x.2.1 x.2.2) ((t.home x.1).tier ≠ .t2) tag false) s1

/-- A posted write of the device's own. Where R219 names no tag for it, it carries that of class 7 (DESIGN CHOICE, log entry 114). -/
def State.putDev (s : State) (sp : Space) (va : Nat) (bs : List Byte) : State := s.putDevTag s.tag7 sp va bs

/-- POISON stands for the pages listed. -/
def State.poisonPages (s : State) (pks : List Nat) : State := foldS pks (fun pk t => t.updHome pk (fun h => { h with poison := true })) s

/-- The page's T3 read has failed and this access, which waited for it, completes (R281). -/
def State.readFailed (s : State) (sp : Space) (va len : Nat) : Bool :=
  !(half ≤ va || inLanes sp va len) && (pagesIn (spaceIdx sp) va len).any (fun pk => (s.home pk).tier = .t3 && s.mems.tierFail = some pk)

/-- A store by an agent: checked whole, then landed (R293, R318). -/
def State.storeDev (s : State) (sp : Space) (va : Nat) (bs : List Byte) : Code × State :=
  match s.storeCode sp va bs.length with
  | .ok =>
    if s.readFailed sp va bs.length then (.tierError, s)
    else if (s.badNibble sp va bs.length).isEmpty then (.ok, s.putDev sp va bs)
    else (.tierError, s.poisonPages (s.badNibble sp va bs.length))
  | c => (c, s)

/-- A load's effect on heat and canopy, and errors it meets. -/
def State.touchRead (s : State) (sp : Space) (va len : Nat) : State :=
  if half ≤ va || inLanes sp va len then s
  else foldS (linesIn (spaceIdx sp) va len) (fun x t => t.lineAccess (s.domainOf sp) x.1 x.2.1 false false) (s.snoopHost (spaceIdx sp) va len)

/-- A load by an agent: the code, the bytes, the state after (R276, R303, R318). No access reads T3: the caller has waited for the promotion (R295), and where its T3 read failed the load fails (R281). -/
def State.loadDev (s : State) (sp : Space) (va len : Nat) : Code × List Byte × State :=
  match s.accCode sp va len with
  | .ok =>
    if (s.firstWait sp va len false).isSome || s.readFailed sp va len then (.tierError, [], s) else
    let (bad, s2) := if inLanes sp va len then s.laneRead (laneSpot va).1 (laneSpot va).2.1 (laneSpot va).2.2 len
      else (false, s.touchRead sp va len)
    let (worse, s3) := s2.tierBad sp va len
    if bad || worse then (.tierError, [], s3) else (.ok, s3.peek sp va len, s3)
  | c => (c, [], s)

/-- Moves that waited for room on a die are tried again. -/
def State.retryMoves (s : State) (die : Nat) : State :=
  foldS (s.mems.homes.filter (fun p => !p.2.lock && (p.2.waitsMove .promotion || p.2.waitsMove .rehome))) (fun p t =>
    match t.placeOf p.1 with
    | some (d, _) => if d = die then (if (t.home p.1).waitsMove .promotion then t.startPromotion p.1 ((t.home p.1).moveTag .promotion t.tag7)
        else if (t.home p.1).tier = .t2 && t.mustLeave (t.home p.1).frame then t.startRehome p.1 (t.home p.1).frame else t) else t
    | none => if (t.home p.1).waitsMove .promotion then t.startPromotion p.1 ((t.home p.1).moveTag .promotion t.tag7) else t) s

/-- After pages were released, waiting moves of every die are tried again. -/
def State.retryAll (s : State) : State := foldN 4 (fun die t => t.retryMoves die) s

/-! Pages released, regions pinned. -/

/-- A pinned page of an instance's spill region or mailbox takes a frame on the die; false when none is free (R322). -/
def State.pinPage (s : State) (pk d die i : Nat) : Bool × State :=
  if (s.home pk).tier = .t2 then (true, s) else
    match s.freeFrame d die 0 i with
    | none => (false, s)
    | some f => (true, (s.setHome pk { Home.fresh with tier := .t2, frame := f, die := die, pinned := true }).waterCheck d die false)

/-! Notification lines and events of MBX pages (R514). -/

/-- The notification line of an MBX page (R514). -/
def State.irqLine (s : State) (i : Nat) : State :=
  let p := pgMbx i
  let va := s.pair p 0x140 0x144
  if va = 0 then s else
    let ws := [s.reg p 0x148, s.evtPend p &&& s.reg p 0x084, s.now32] ++ List.replicate 13 0#32
    match s.storeDev (spaceOf i) va (bytesOf ws) with
    | (.ok, t) => t
    | (_, t) => t.bump p 1 1

/-- The page's interrupt: an MSI-X message, or a notification line on an MBX page (R510, R514). -/
def State.notify (s : State) (p : Page) : State := if p.kind = .mbx then s.irqLine p.inst else s.notifyBar0 p

/-- Event conditions of any page change. -/
def State.evt (s : State) (p : Page) (raw pulse : Word) : State :=
  let s1 := s.latch p raw pulse
  if !s.irq p && s1.irq p then s1.notify p else s1

/-- Event b of a tenant's page stands or falls. -/
def State.mbxLevel (s : State) (i b : Nat) (on : Bool) : State := s.evt (pgMbx i) (setBitTo (s.evtRaw (pgMbx i)) b on) 0

end Sys2Proof.Machine
end

