-- ==== Sys2Proof/Machine/Notify.lean ====
section
/-! DEFINITION. Mailboxes of instances and lanes (12 R329 to R335), CRCs (16 R431), the recorder's log and blazes (16 R422 to R429). -/

namespace Sys2Proof.Machine

/-! Instance mailboxes. -/

/-- A message (R329), and after its eight words the sender's SID, which SEND_ABORTED names (R330). -/
def message (type srck : Nat) (status : Code) (srci seq : Nat) (now : Word) (payload : List Word) (sid : Nat) : List Word :=
  [w32 (type + srck * 256 + codeVal status * 65536), w32 srci, w32 seq, now] ++ (List.range 4).map (wAt payload) ++ [w32 sid]

/-- A message placed in the mailbox of an instance that has room (R329). -/
def State.place (s : State) (i type srck : Nat) (status : Code) (srci : Nat) (payload : List Word) (sid : Nat) : State :=
  let x := s.inst i
  let m := message type srck status srci (x.seq + 1) s.now32 payload sid
  (s.setInst i { x with mailbox := x.mailbox ++ [m], seq := (x.seq + 1) % 2 ^ 32 }).mbxLevel i 0 true

/-- A device notice: dropped and counted when the mailbox is full (R333). -/
def State.notice (s : State) (i type : Nat) (status : Code) (payload : List Word) : State :=
  if 64 ≤ (s.inst i).mailbox.length then s.updInst i (fun x => { x with dropped := satAdd x.dropped 1 0xFFFF })
  else s.place i type 0 status 0 payload 0

/-- TGT_EMPTY rises on the pages that watch a target, an instance or 0x1000 + lane, whose mailbox now holds no message (R333, R519). -/
def State.watchRise (s : State) (target : Nat) : State :=
  foldS (s.insts.filter (fun p => p.2.watch && p.2.ovfTarget = target)) (fun p t => t.mbxLevel p.1 1 true)
    (if s.fbk.watch && s.fbk.ovfTarget = target then s.level pgMap 1 true else s)

/-- The pages that watch an instance whose mailbox holds no message. -/
def State.tgtEmpty (s : State) (target : Nat) : State := if (s.inst target).mailbox.isEmpty then s.watchRise target else s

/-- The oldest message leaves the mailbox (R332). -/
def State.popMail (s : State) (i : Nat) : State :=
  let rest := (s.inst i).mailbox.tail
  let s1 := s.updInst i (fun x => { x with mailbox := rest })
  if rest.isEmpty then (s1.mbxLevel i 0 false).tgtEmpty i else s1

/-- A discarded message is answered by its sender kind (R334); target as R331 numbers it. -/
def State.discard (s : State) (target : Nat) (m : List Word) : State :=
  let srck := fld (wAt m 0) 9 8
  if srck = 2 then s.notice (fld (wAt m 1) 11 0) 0x02 .aborted [w32 target, wAt m 8, wAt m 2, 0]
  else if srck = 1 then ({ s with fbk := { s.fbk with mabort := satAdd s.fbk.mabort 1 0x7F } }).pulse pgMap 0
  else s

/-- A reset empties an instance's mailbox (R326, R334): its watchers learn of it before any notice of a discarded message is placed (R333). -/
def State.emptyMail (s : State) (i : Nat) : State :=
  let ms := (s.inst i).mailbox
  let s1 := ((s.updInst i (fun x => { x with mailbox := [] })).mbxLevel i 0 false).tgtEmpty i
  foldS ms (fun m t => t.discard i m) s1

/-! Lane mailboxes (R335). -/

def laneHead (l : Lane) : Word := BitVec.ofNat 32 (leNat (l.x.readN 0xFE04 4))

/-- Event MB_NONEMPTY of a lane follows HEAD ≠ TAIL (R516); pages that watch the mailbox learn that it is empty (R333). -/
def State.laneMbEvt (s : State) (l : Nat) : State :=
  let on := laneHead (s.lane l) ≠ (s.lane l).mbTail
  if bitOf (s.evtRaw (pgLane l)) 8 = on then s
  else if on then s.level (pgLane l) 8 true
  else (s.level (pgLane l) 8 false).watchRise (0x1000 + l)

def laneMbFull (l : Lane) : Bool := l.mbTail - laneHead l = 16#32

/-- Message n of a lane's mailbox lies at 0xFC00 + 32 (n mod 16). -/
def laneMbMsg (l : Lane) (n : Word) : List Word := wordsOf 8 (l.x.readN (0xFC00 + 32 * (n.toNat % 16)) 32)

/-- A message placed in a lane's mailbox with room: SEQ is its number there plus 1. -/
def State.placeLane (s : State) (l type srck : Nat) (status : Code) (payload : List Word) : State :=
  let y := s.lane l
  let m := (message type srck status 0 (y.mbTail.toNat + 1) s.now32 payload 0).take 8
  let x1 := Memory.writeN (0xFC00 + 32 * (y.mbTail.toNat % 16)) (bytesOf m) y.x
  (s.setLane l { y with x := Memory.writeN 0xFE00 (leBytes 4 (y.mbTail + 1).toNat) x1, mbTail := y.mbTail + 1 }).laneMbEvt l

/-! CRCs (R431). -/

/-- Bits of a byte in feeding order. -/
def byteBits (refin : Bool) (b : Byte) : List Bool :=
  (List.range 8).map (fun i => b.getLsbD (if refin then i else 7 - i))

/-- The register after one bit. -/
def crcBit (width poly reg : Nat) (b : Bool) : Nat :=
  let sh := reg * 2 % 2 ^ width
  if (reg / 2 ^ (width - 1) % 2 = 1) = b then sh else Nat.xor sh (poly % 2 ^ width)

/-- The register after a span of bytes (R431). -/
def crcFeed (width poly : Nat) (refin : Bool) (reg : Nat) (bs : List Byte) : Nat :=
  bs.foldl (fun r b => (byteBits refin b).foldl (crcBit width poly) r) reg

/-- n low bits reversed. -/
def reflect (n v : Nat) : Nat := (List.range n).foldl (fun acc i => acc * 2 + v / 2 ^ i % 2) 0

/-- The result of a closed span (R431). -/
def crcEnd (width xorout : Nat) (refout : Bool) (reg : Nat) : Nat :=
  Nat.xor (if refout then reflect width reg else reg % 2 ^ width) (xorout % 2 ^ width)

/-- The CRC-32 of R389. -/
def crc32 (bs : List Byte) : Nat := crcEnd 32 0xFFFFFFFF true (crcFeed 32 0x04C11DB7 true 0xFFFFFFFF bs)

/-! The recorder (R422 to R424). -/

def State.recMode (s : State) : Nat := let m := fld (s.reg pgTime 0x300) 1 0; if m = 3 then 0 else m

/-- Class c of R422 is set in CLASSES. -/
def State.recClass (s : State) (c : Nat) : Bool := bitOf (s.reg pgTime 0x300) (2 + c)

/-- The ring's units of 16 bytes and its address (R434). -/
def State.recUnits (s : State) : Nat := fld (s.reg pgTime 0x310) 15 0 * 65536
def State.recBase (s : State) : Nat := fld (s.reg pgTime 0x308) 31 12 * 4096 + fld (s.reg pgTime 0x30C) 7 0 * 2 ^ 32
def State.recHead (s : State) : Nat := (s.reg pgTime 0x314).toNat
def State.recTail (s : State) : Nat := (s.reg pgTime 0x318).toNat

/-- An entry's bytes: header, payload, padding (R423). -/
def recEntry (type src id t : Nat) (payload : List Byte) : List Byte :=
  let n := min payload.length 65535
  [BitVec.ofNat 8 type, BitVec.ofNat 8 src] ++ leBytes 2 n ++ leBytes 4 id ++ leBytes 8 t ++ payload.take n
    ++ List.replicate (cdiv n 16 * 16 - n) 0

/-- Units between TAIL and HEAD that an entry may take: TAIL never reaches HEAD from behind. -/
def State.recRoom (s : State) : Nat :=
  let n := s.recUnits
  if n = 0 then 0 else n - 1 - (s.recTail + n - s.recHead % n) % n

/-- An entry written at TAIL, wrapping at the ring's end. -/
def State.recPut (s : State) (bs : List Byte) : State :=
  let n := s.recUnits
  let s1 := foldN (bs.length / 16) (fun i t =>
    t.putDev .dom0 (s.recBase + (s.recTail + i) % n * 16) ((bs.drop (16 * i)).take 16)) s
  s1.setReg pgTime 0x318 (w32 ((s.recTail + bs.length / 16) % n))

/-- An input of a class, taken at a time, is logged, or dropped and counted (R422 to R424). -/
def State.recLogAt (s : State) (cls type src id at0 : Nat) (payload : List Byte) : State :=
  if s.recMode = 1 && s.recd.running && s.recClass cls then
    let e := recEntry type src id ((at0 + 2 ^ 64 - s.recd.origin) % 2 ^ 64) payload
    let g := if s.recd.gap = 0 then [] else recEntry 0x1F 0 s.recd.gap ((s.now + 2 ^ 64 - s.recd.origin) % 2 ^ 64) []
    if (g.length + e.length) / 16 ≤ s.recRoom then
      ({ s with recd := { s.recd with gap := 0 } }).recPut (g ++ e)
    else { s with recd := { s.recd with drops := satAdd s.recd.drops 1 0xFFFF, gap := s.recd.gap + 1 } }
  else s

/-- An input of the present time. -/
def State.recLog (s : State) (cls type src id : Nat) (payload : List Byte) : State := s.recLogAt cls type src id s.now payload

/-- A live input of a replayed class is discarded (R427). -/
def State.replayed (s : State) (cls : Nat) : Bool := s.recMode = 2 && s.recd.running && s.recClass cls

/-- It is counted in LIVE_DROP. -/
def State.liveDrop (s : State) : State := { s with recd := { s.recd with late := s.recd.late + 1 } }

/-- The ring entry at a position: TYPE, ID, T, payload, and the next position. -/
def State.recAt (s : State) (pos : Nat) : Nat × Nat × Nat × List Byte × Nat :=
  let n := s.recUnits
  let unit (i : Nat) := s.peek .dom0 (s.recBase + (pos + i) % n * 16) 16
  let h := unit 0
  let len := leNat ((h.drop 2).take 2)
  let k := cdiv len 16
  ((h.getD 0 0).toNat, leNat ((h.drop 4).take 4), leNat ((h.drop 8).take 8),
   ((List.range k).flatMap (fun i => unit (i + 1))).take len, (pos + 1 + k) % n)

/-- The first entry from pos to TAIL with this TYPE and ID. -/
def State.recFind (s : State) (type id : Nat) : Nat → Nat → Option (List Byte × Nat × Nat)
  | 0, _ => none
  | fuel + 1, pos =>
    if pos = s.recTail then none else
      let (ty, i, t, pl, nx) := s.recAt pos
      if ty = type && i = id then some (pl, t, nx) else s.recFind type id fuel nx

/-- A blaze is written, or compared during replay with the logged ones in log order, from the entry at HEAD when the barrier fired (R425, R429). -/
def State.blaze (s : State) (type id : Nat) (payload : List Byte) : State :=
  if s.recMode = 2 && s.recd.running && s.recUnits ≠ 0 then
    let key := type * 2 ^ 32 + id
    match s.recFind type id s.recUnits (s.recd.cmpAt.get s.recd.head0 key) with
    | none => s
    | some (pl, t, nx) =>
      let s1 := { s with recd := { s.recd with cmpAt := s.recd.cmpAt.set key nx } }
      if pl = payload then s1 else
        let r := s1.recd
        let r1 := if r.mismatch = 0 then { r with badType := type, badId := id, badT := t } else r
        let s2 := { s1 with recd := { r1 with mismatch := satAdd r.mismatch 1 0xFF } }
        if r.mismatch = 0 then s2.pulse pgTime 12 else s2
  else s.recLog 5 type 0 id payload

end Sys2Proof.Machine
end

