-- ==== Sys2Proof/Machine/Check.lean ====
section
/-! DEFINITION. Check units: what they select and compute (R26, R431 to R434). -/

namespace Sys2Proof.Machine

/-- A cell is ACCEPTED, ACTIVE or DRAINING. -/
def State.cellsBusy (s : State) : Bool := s.cells.any (fun p => p.2.phase ≠ CellPhase.free)

/-- Die d (C0 to C3, P0, P1) is under a LOGIC or MEMORY test: its ports stay DOWN (R494). -/
def State.dieTested (s : State) (d : Nat) : Bool :=
  match s.bist.test with
  | some (.logic m) | some (.memory m) => m / 2 ^ d % 2 = 1
  | _ => false

/-- WIDTH in effect (R434). -/
def chkWidth (w : Word) : Nat := max 1 (min 32 (fld w 5 0))

/-- The coordinator holds the unit for transport blocks while a cell is charged (R205). -/
def State.chkHeld (s : State) (k : Nat) : Bool := s.cellsBusy && ((27 ≤ k && k ≤ 31) || 60 ≤ k)

/-- A span's result is held and compared (R433) with what it should be; with none, it is a mismatch. -/
def State.chkCompare (s : State) (k result : Nat) (want : Option Nat) : State :=
  let x := s.chk k
  let bad : Bool := match want with | some w => result ≠ w | none => true
  let s1 := s.setChk k { x with result := result, spans := (x.spans + 1) % 65536, mismatch := if bad then satAdd x.mismatch 1 0xFF else x.mismatch }
  if bad then s1.pulse (pgChk k) 0 else s1

/-- The unit's INIT, masked to WIDTH (R431). -/
def State.chkInit (s : State) (k : Nat) : Nat := (s.reg (pgChk k) 0x018).toNat % 2 ^ chkWidth (s.reg (pgChk k) 0x010)

/-- A frame passes one unit (R431 to R433): raw ends with the FCS. -/
def State.chkFeed (s : State) (k : Nat) (raw : List Byte) : State :=
  let p := pgChk k
  let cfg := s.reg p 0x010
  let w := chkWidth cfg
  let body := raw.length - 4
  let off := fld (s.reg p 0x024) 13 0
  let len := fld (s.reg p 0x024) 27 14
  let stop := if len = 0 then body else min raw.length (off + len)
  let span := (raw.take stop).drop off
  let short : Bool := (if len = 0 then body else raw.length) < off + len
  let s0 := if short then (let x := s.chk k; (s.setChk k { x with short := satAdd x.short 1 0xFF }).bump p 1 1) else s
  let poly := (s.reg p 0x014).toNat
  if bitOf cfg 9 then
    let x := s0.chk k
    s0.setChk k { x with crc := crcFeed w poly (bitOf cfg 6) x.crc span }
  else
    let r := crcEnd w (s.reg p 0x01C).toNat (bitOf cfg 7) (crcFeed w poly (bitOf cfg 6) (s.chkInit k) span)
    let n := cdiv w 8
    let tail := (raw.drop (max off stop)).take n
    s0.chkCompare k r (if bitOf cfg 10 then (if tail.length = n then some (if bitOf cfg 7 then leNat tail else beNat tail) else none)
                       else some (s.reg p 0x020).toNat)

/-- Unit k is enabled, snoops a source of its die in a direction, and takes frames of this eAxC ID or fabric stream (R432, R434). -/
def State.chkTakes (s : State) (k src : Nat) (egress : Bool) (id : Option Nat) : Bool :=
  let cfg := s.reg (pgChk k) 0x010
  let m := fld (s.reg (pgChk k) 0x028) 15 0
  bitOf cfg 8 && fld cfg 20 16 = src && bitOf cfg 11 = egress && (m = 0xFFFF || id = some m) && !s.chkHeld k

/-- A frame of a source of a die passes every unit that selects it. -/
def State.chkSource (s : State) (die src : Nat) (egress : Bool) (id : Option Nat) (raw : List Byte) : State :=
  foldS ((List.range 32).map (die * 32 + ·)) (fun k t => if t.chkTakes k src egress id then t.chkFeed k raw else t) s

/-- A frame of Ethernet port p. -/
def State.chkEth (s : State) (p : Nat) (egress : Bool) (eaxc : Option Nat) (raw : List Byte) : State :=
  s.chkSource (p / 4) (p % 4) egress eaxc raw

/-- Bytes that the manual does not lay out pass a source, n and an FCS: free ones where a unit takes them (log entry 112). -/
def State.chkFree (s : State) (die src : Nat) (egress : Bool) (id : Option Nat) (n : Nat) : State :=
  if (List.range 32).any (fun i => s.chkTakes (die * 32 + i) src egress id) then
    let (v, t) := s.takeFree
    t.chkSource die src egress id (leBytes (n + 4) v)
  else s

/-- A packet of Caerkuix port p, of a fabric stream. -/
def State.chkCkx (s : State) (p : Nat) (egress : Bool) (stream : Option Nat) : State := s.chkFree (p / 6) (8 + p % 6) egress stream 512

/-- A flit of the CXL port (R435). -/
def State.chkCxl (s : State) (egress : Bool) : State := s.chkFree 0 16 egress none 256

end Sys2Proof.Machine
end

