-- ==== Sys2Proof/Machine/Radio.lean ====
section
/-! DEFINITION. What the radio families share: cell descriptors, slot times, package declarations and charges, rings in memory, slot messages to the L2 host (06 R145 to R165, 17 R443 and R451, 18 R463). -/

namespace Sys2Proof.Machine

/-! Cell descriptor (R146). -/

def dCell (d : List Word) : Nat := fld (wAt d 0) 8 0
def dMu (d : List Word) : Nat := fld (wAt d 0) 10 9
def dHome (d : List Word) : Nat := fld (wAt d 0) 12 11
def dNprb (d : List Word) : Nat := fld (wAt d 0) 24 16
def dNtx (d : List Word) : Nat := fld (wAt d 1) 6 0
def dNrx (d : List Word) : Nat := fld (wAt d 1) 14 8
def dUlLay (d : List Word) : Nat := fld (wAt d 1) 20 16
def dDlLay (d : List Word) : Nat := fld (wAt d 1) 25 21
def dMode (d : List Word) : Nat := fld (wAt d 2) 1 0
def dUlComp (d : List Word) : Nat := fld (wAt d 2) 7 4
def dDlComp (d : List Word) : Nat := fld (wAt d 2) 11 8
def dPort (d : List Word) : Nat := fld (wAt d 2) 14 12
def dL2Path (d : List Word) : Bool := bitOf (wAt d 2) 15
def dL2Port (d : List Word) : Nat := fld (wAt d 2) 18 16
def dEaxUl (d : List Word) : Nat := fld (wAt d 3) 15 0
def dEaxDl (d : List Word) : Nat := fld (wAt d 3) 31 16
def dStrUl (d : List Word) : Nat := fld (wAt d 4) 6 0
def dStrDl (d : List Word) : Nat := fld (wAt d 4) 14 8
def dUlWin (d : List Word) : Nat := fld (wAt d 5) 8 0
def dDlAdv (d : List Word) : Nat := fld (wAt d 5) 24 16
def dPci (d : List Word) : Nat := fld (wAt d 6) 9 0
def dRing (d : List Word) : Nat := fld (wAt d 7) 27 0 * 4096
def dRingSz (d : List Word) : Nat := fld (wAt d 8) 7 0 * 2 ^ 20
def dSbuf (d : List Word) : Nat := fld (wAt d 9) 27 0 * 4096
def dSbSz (d : List Word) : Nat := fld (wAt d 10) 15 0 * 2 ^ 20
def dRpkg (d : List Word) : Nat := fld (wAt d 11) 15 0
def dLpkg (d : List Word) : Nat := fld (wAt d 11) 31 16

/-- The cell carries time-domain IQ (R146). -/
def dTimeDomain (d : List Word) : Bool := dMode d = 2

/-! Slot times (R145, R157). A symbol is a fourteenth of a slot: times of symbols are in fourteenths of a nanosecond. -/

def tSlot (mu : Nat) : Nat := 1000000 / 2 ^ mu
def slotsPerFrame (mu : Nat) : Nat := 10 * 2 ^ mu
def dTslot (d : List Word) : Nat := tSlot (dMu d)

/-- Close of downlink symbol k, E(k), in fourteenths (R157). -/
def eClose (d : List Word) (sm k : Nat) : Int := 14 * (sm : Int) + k * dTslot d - 14000 * dDlAdv d

/-- Close of uplink symbol k, U(k), in fourteenths (R157). -/
def uClose (d : List Word) (sm k : Nat) : Nat := 14 * sm + (k + 1) * dTslot d + 14000 * dUlWin d

/-- A slot's running number within the 1,024 frames. -/
def slotNum (mu sfn slot : Nat) : Nat := sfn * slotsPerFrame mu + slot

/-- The start of the slot nearest the time base that bears this SFN and slot number (R399). -/
def State.slotStart (s : State) (mu sfn slot : Nat) : Nat :=
  let span : Int := 10240000000
  let off : Int := (sfn : Int) * 10000000 + slot * tSlot mu - s.gridPos s.now
  let o := (off + span / 2).emod span - span / 2
  ((s.now : Int) + o).toNat

/-- The slot under way at a time: start, SFN, slot (R399). -/
def State.slotAt (s : State) (mu t : Nat) : SlotId :=
  let p := s.gridPos t
  { start := t - p % tSlot mu, sfn := p / 10000000, slot := p % 10000000 / tSlot mu }

/-! Package declarations (R463). -/

/-- A configuration record covers a descriptor. -/
def covers (r d : List Word) : Bool :=
  bitOf (wAt r 0) (dMu d) && bitOf (wAt r 0) (4 + dMode d) && dNprb d ≤ fld (wAt r 0) 15 7
  && dNtx d ≤ fld (wAt r 0) 22 16 && dNrx d ≤ fld (wAt r 0) 29 23
  && dUlLay d ≤ fld (wAt r 1) 4 0 && dDlLay d ≤ fld (wAt r 1) 9 5

/-- The first record of a package that covers the descriptor. -/
def State.recordOf (s : State) (handle : Nat) (d : List Word) : Option (List Word) :=
  match s.seed.pkgs.find handle with
  | some p => p.records.find? (fun r => covers r d)
  | none => none

/-- The radio program's record, or zeros. -/
def State.rRec (s : State) (d : List Word) : List Word := (s.recordOf (dRpkg d) d).getD []
def State.lRec (s : State) (d : List Word) : List Word := if dLpkg d = 0 then [] else (s.recordOf (dLpkg d) d).getD []

def State.tileCharge (s : State) (d : List Word) : Nat := fld (wAt (s.rRec d) 2) 17 0 + fld (wAt (s.lRec d) 2) 17 0
def State.codeCharge (s : State) (d : List Word) : Nat := fld (wAt (s.rRec d) 3) 17 0
def State.dlOff (s : State) (d : List Word) : Nat := fld (wAt (s.rRec d) 5) 15 0 * 2 ^ 20
def State.mirSz (s : State) (d : List Word) : Nat := fld (wAt (s.rRec d) 5) 31 16 * 1024

/-! Charges and capacity (R161). -/

/-- Cells that hold charges on a die: those not FREE, and partner entries that wait or stand armed (R381). -/
def State.chargedDescs (s : State) : List (List Word) :=
  (s.cells.filter (fun p => p.2.phase ≠ CellPhase.free)).map (fun p => p.2.desc)
  ++ (s.mirrors.filter (fun p => p.2.role && (p.2.state = .wait || p.2.state = .armed))).map (fun p => p.2.desc)

def State.loadMt (s : State) (d : Nat) : Nat := ((s.chargedDescs.filter (fun x => dHome x = d)).map s.tileCharge).sum
def State.loadCode (s : State) (d : Nat) : Nat := ((s.chargedDescs.filter (fun x => dHome x = d)).map s.codeCharge).sum
def State.loadCells (s : State) (d : Nat) : Nat := (s.chargedDescs.filter (fun x => dHome x = d)).length
def State.loadUl (s : State) : Nat := (s.chargedDescs.map dStrUl).sum
def State.loadDl (s : State) : Nat := (s.chargedDescs.map dStrDl).sum

/-- A domain is lendable: FBK_CFG.LEND in force (R237). -/
def State.lendable (s : State) (d : Nat) : Bool := bitOf (s.inForce (pgFbk d) 0x0C0) 0

/-- Tiles of parked groves count for nobody (R483). -/
def State.tileLive (s : State) (t : Nat) : Bool := !(s.grove (t / 32)).parked

def dieTiles (d : Nat) : List Nat := (List.range 256).map (d * 256 + ·)

/-- CAPd for a map (R161). -/
def State.capWith (s : State) (m : Memory) (lend : Nat → Bool) (d : Nat) : Nat :=
  900 * ((dieTiles d).filter (fun t => s.tileLive t && !(s.tile t).suspect &&
    (match mapOwner m (t / 16) with | none => true | some o => o = 0 || lend o))).length

def State.cap (s : State) (d : Nat) : Nat := s.capWith s.fbk.map s.lendable d

/-- OVER[d] follows the charged load (R162). -/
def State.overCheck (s : State) (d : Nat) : State :=
  let on := s.cap d < s.loadMt d
  if bitOf (s.evtRaw (pgSds 4)) (1 + d) = on then s else s.level (pgSds 4) (1 + d) on

def State.overAll (s : State) : State := foldN 4 (fun d t => t.overCheck d) s

/-- An event of a die's scheduler page arises: it stands for the whole next plan period (R249). -/
def State.sdsEvent (s : State) (d b : Nat) : State :=
  s.updSched d (fun x => { x with raisedNow := x.raisedNow ||| 2 ^ b })

/-- A recorded miss: counted on the die, and for the cell or the instance (R245). -/
def State.missCell (s : State) (d c : Nat) : State := ((s.bump (pgSds d) 0 1).bump (pgSds 4) (cellIdx c 6) 1).sdsEvent d 0
def State.missInst (s : State) (d i : Nat) : State := ((s.bump (pgSds d) 0 1).bump (pgMbx i) 2 1).sdsEvent d 0

/-- The cell of a lane context: CFG.CELL (R144). -/
def State.ctxCell (s : State) (l c : Nat) : Nat := fld (s.reg (pgLane l) (0x100 + 0x20 * c)) 12 4

/-- A tag lies later than another (R217, R244). -/
def tagLater (a b : Nat) : Bool := let k := (a + 2 ^ 24 - b % 2 ^ 24) % 2 ^ 24; 0 < k && k < 2 ^ 23

/-- The time base has passed a deadline tag: a completion within the deadline's own 32 ns unit is in time (R244). -/
def State.pastTag (s : State) (deadline : Nat) : Bool := tagLater (tagOf s.now) deadline

/-- A completion at the present time against a deadline tag: DEADLINE_MISSED joins the code (R244). -/
def State.closeCode (s : State) (deadline : Nat) (c : Code) : Code :=
  if s.pastTag deadline then codeMin c .deadlineMissed else c

/-! Arrival counters of cells (R169, R174). -/

/-- Streams of a time-domain cell stay frozen through slot h + HOLD after a rise of counter 15 in slot h (R174): the start of the last slot held is kept. -/
def State.gainHold (s : State) (c : Nat) : State :=
  let x := s.cell c
  if x.phase = CellPhase.free || !dTimeDomain x.desc then s else
    foldN (dStrUl x.desc) (fun st t => t.updCell c (fun y =>
      let g := y.gains.get Gain.zero st
      let e := (s.slotAt (dMu x.desc) s.now).start + fld g.cfg 19 12 * dTslot x.desc
      { y with gains := y.gains.set st { g with holdEnd := some (match g.holdEnd with | some o => max o e | none => e) } })) s

/-- An arrival counter rises (R81, R139, R169): counter 15 of a cell on its home die reaches the gain stage. -/
def State.raiseCtr (s : State) (die c : Nat) (n : Word) : State :=
  let s1 := s.addCtr die c n
  if 0x8000 ≤ c && c < 0xC000 && c % 32 = 15 && n ≠ 0 && dHome (s.cell ((c - 0x8000) / 32)).desc = die then s1.gainHold ((c - 0x8000) / 32) else s1

/-! PUSCH PDUs and the engines (R185, R186). -/

/-- The PUSCH PDU that an LDEC command serves: its cell's earliest open slot with one of the command's RNTI, HARQID and TBS, among those that p admits. -/
def Cell.puschFor (x : Cell) (ws : List Word) (p : SlotMsgs → Pdu → Bool) : Option (SlotMsgs × Pdu) :=
  let fits (q : Pdu) : Bool := q.kind = 0x01 && fld (wAt q.words 2) 15 0 = fld (wAt ws 3) 15 0
    && fld (wAt q.words 6) 25 22 = fld (wAt ws 2) 25 22 && fld (wAt q.words 6) 17 0 = fld (wAt ws 2) 17 0
  (x.slots.filter (fun m => m.ulSeq.isSome && !m.indSent && !m.dropped)).foldl (fun acc m =>
    match m.ul.find? (fun q => fits q && p m q) with
    | none => acc
    | some q => match acc with | some (m2, q2) => if m.start < m2.start then some (m, q) else some (m2, q2) | none => some (m, q)) none

/-- A change to the slot of a cell that starts at a time. -/
def State.updSlotAt (s : State) (c start : Nat) (f : SlotMsgs → SlotMsgs) : State :=
  s.updCell c (fun x => { x with slots := x.slots.map (fun m => if m.start = start then f m else m) })

/-- HANDLE of a PDU (R153). -/
def Pdu.handle (p : Pdu) : Word := wAt p.words 1

/-- A command issued by CISS: an LDEC hands a PUSCH PDU over, late past the detection deadline (R157, R185). -/
def State.puschHanded (s : State) (ws : List Word) : State :=
  let c := fld (wAt ws 3) 24 16
  let x := s.cell c
  if fld (wAt ws 0) 31 28 ≠ 1 then s else
    match x.puschFor ws (fun m q => !m.handed.contains q.handle) with
    | none => s
    | some (m, q) =>
      let t := dTslot x.desc
      s.updSlotAt c m.start (fun y => { y with handed := y.handed ++ [q.handle], lateHand := y.lateHand || m.start + t + 1000 * dUlWin x.desc + t / 2 < s.now })

/-- An LDEC's record supplies TBOK and NCBERR of its PUSCH PDU (R186). -/
def State.puschDecoded (s : State) (ws : List Word) (tbok : Bool) (err : Nat) : State :=
  let c := fld (wAt ws 3) 24 16
  if fld (wAt ws 0) 31 28 ≠ 1 then s else
    match (s.cell c).puschFor ws (fun m q => m.handed.contains q.handle && m.decoded.all (fun r => r.1 ≠ q.handle)) with
    | none => s
    | some (m, q) => s.updSlotAt c m.start (fun y => { y with decoded := y.decoded ++ [(q.handle, tbok, err)] })

/-! Rings in memory (R257, R263, R443, R453). -/

/-- Base address of the ring whose registers begin at o. -/
def State.ringBase (s : State) (p : Page) (o : Nat) : Nat := s.pair p o (o + 4)

/-- Entries of the ring: 2^SIZE, SIZE held between 4 and 15. -/
def State.ringLen (s : State) (p : Page) (o : Nat) : Nat := 2 ^ (max 4 (fld (s.reg p (o + 8)) 3 0))
def State.ringOn (s : State) (p : Page) (o : Nat) : Bool := bitOf (s.reg p (o + 8)) 8

/-- The index that software writes: TAIL of a ring the device reads, HEAD of one it writes. -/
def State.ringIdx (s : State) (p : Page) (o : Nat) : Nat := fld (s.reg p (o + 0xC)) 15 0

/-- Entries of a 16-bit ring between head and tail. -/
def idxGap (head tail : Nat) : Nat := (tail + 65536 - head % 65536) % 65536

/-- PHASE of record n (R263). -/
def phaseOf (n len : Nat) : Nat := (n / len + 1) % 2

/-- A domain-0 host address: rings in host memory lie in the half VA[47] = 1 (R315). -/
def hostVa (a : Nat) : Nat := a % half + half

/-! Slot messages from the device (R150, R151). -/

/-- A message's words: header, then the PDUs' words; LEN is a multiple of 8, so an odd word is followed by a zero (DESIGN CHOICE, log entry 109). -/
def slotMsg (type cell sfn slot seq : Nat) (st : Code) (pdus : List (List Word)) : List Word :=
  let body := let b := pdus.flatten; b ++ List.replicate (b.length % 2) 0#32
  [w32 (type + 0x100 + cell * 65536), w32 (sfn + slot * 1024), w32 (16 + 4 * body.length),
   w32 (seq % 65536 + codeVal st * 65536 + pdus.length % 256 * 2 ^ 24)] ++ body

/-- Registers of queue pair q begin here. -/
def l2qBase (q : Nat) : Nat := 0x100 + 0x40 * q

/-- Data-ring size of a queue pair (R459). -/
def State.l2qDsize (s : State) (q : Nat) : Nat := min 30 (max 16 (fld (s.reg pgCxl (l2qBase q + 0x1C)) 4 0))

/-- The pair has room for a message of n bytes in its data ring and its record ring (R443). -/
def State.l2qRoom (s : State) (q n : Nat) : Bool :=
  let x := s.l2q q
  let used := (x.dtail + 2 ^ 30 - fld (s.reg pgCxl (l2qBase q + 0x34)) 29 0) % 2 ^ 30
  s.ringOn pgCxl (l2qBase q + 0x20) && used + n ≤ 2 ^ s.l2qDsize q
    && idxGap (s.ringIdx pgCxl (l2qBase q + 0x20)) x.outTail < s.ringLen pgCxl (l2qBase q + 0x20)

/-- Host bytes written under FBK_D0PASID. -/
def State.putHost (s : State) (va : Nat) (bs : List Byte) : State := ((s.chkCxl true).storeDev .dom0 (hostVa va) bs).2

/-- A message written into the outbound rings (R443): bytes, record, tail. -/
def State.l2qWrite (s : State) (q cell : Nat) (ws : List Word) : State :=
  let x := s.l2q q
  let bs := bytesOf ws
  let size := 2 ^ s.l2qDsize q
  let off := x.dtail % size
  let base := s.pair pgCxl (l2qBase q + 0x14) (l2qBase q + 0x18)
  let s1 := (s.putHost (base + off) (bs.take (size - off))).putHost base (bs.drop (size - off))
  let o := l2qBase q + 0x20
  let len := s.ringLen pgCxl o
  let r := [w32 (off + phaseOf x.outTail len * 2 ^ 31), w32 bs.length, 0, 0]
  let s2 := s1.putHost (s.ringBase pgCxl o + 16 * (x.outTail % len)) (bytesOf r)
  ((s2.setL2q q { s2.l2q q with outTail := (x.outTail + 1) % 65536, dtail := (x.dtail + bs.length) % 2 ^ 30 })).emit (.slotMsg cell ws)

/-- The header of an indication sent late takes DEADLINE_MISSED (R156, R443). -/
def lateHeader (ws : List Word) : List Word :=
  let st := fld (wAt ws 3) 23 16
  if st = 0 && 0x11 ≤ fld (wAt ws 0) 7 0 && fld (wAt ws 0) 7 0 ≤ 0x15 then
    setAt ws 3 (w32 ((wAt ws 3).toNat + codeVal .deadlineMissed * 65536)) else ws

/-- Held messages are written in order while there is room. -/
def State.l2qDrain (s : State) (q : Nat) : Nat → State
  | 0 => s
  | fuel + 1 =>
    match (s.l2q q).waiting with
    | [] => s
    | (c, ws) :: rest =>
      if s.l2qRoom q (4 * ws.length) then
        ((s.setL2q q { s.l2q q with waiting := rest }).l2qWrite q c (lateHeader ws)).l2qDrain q fuel
      else s

/-! Payload ports (R444, R451). -/

def pgEthOf (p : Nat) : Page := pgEth p

/-- Role of a sub-port (R444). -/
def State.role (s : State) (p sub : Nat) : Nat := fld (s.reg (pgEth p) 0x018) (2 * sub + 1) (2 * sub)

/-- Sub-ports of a port's mode (R444). -/
def State.subCount (s : State) (p : Nat) : Nat :=
  match fld (s.reg (pgEth p) 0x014) 2 1 with | 1 => 2 | 2 => 8 | _ => 1

/-- The first peer of a kind whose range covers an ID (R445). -/
def State.peer (s : State) (p kind id : Nat) : Option Nat :=
  (List.range 32).find? (fun e =>
    fld (s.reg (pgEth p) (0x204 + 0x20 * e)) 20 19 = kind
      && fld (s.reg (pgEth p) (0x208 + 0x20 * e)) 15 0 ≤ id
      && id < fld (s.reg (pgEth p) (0x208 + 0x20 * e)) 15 0 + fld (s.reg (pgEth p) (0x208 + 0x20 * e)) 31 16)

def State.peerSub (s : State) (p e : Nat) : Nat := fld (s.reg (pgEth p) (0x204 + 0x20 * e)) 18 16
def State.peerMac (s : State) (p e : Nat) : Nat :=
  (s.reg (pgEth p) (0x200 + 0x20 * e)).toNat + 2 ^ 32 * fld (s.reg (pgEth p) (0x204 + 0x20 * e)) 15 0

/-- The port's address for a sub-port (R445). -/
def State.ownMac (s : State) (p sub : Nat) : Nat :=
  (s.reg (pgEth p) 0x01C).toNat + 2 ^ 32 * fld (s.reg (pgEth p) 0x020) 15 0 + sub

/-- Ethernet header with the port's tag setting (R445). -/
def State.ethHeader (s : State) (p sub dst type : Nat) : List Byte :=
  let v := s.reg (pgEth p) 0x02C
  beBytes 6 dst ++ beBytes 6 (s.ownMac p sub)
    ++ (if bitOf v 15 then beBytes 2 0x8100 ++ beBytes 2 (fld v 14 12 * 8192 + fld v 11 0) else [])
    ++ beBytes 2 type

/-- A frame queued for egress: nothing when its sub-port is down (R454, R455). -/
def State.queueFrame (s : State) (p : Nat) (f : EgressFrame) : State :=
  if (s.ethp p).up / 2 ^ f.sub % 2 = 1 then s.updEth p (fun x => { x with wheel := x.wheel ++ [f] }) else s

/-- Fragment payload bytes that keep a frame at or below 9,216 bytes (R451): Ethernet, tag, IP, UDP and fragment headers, FCS. -/
def fragMax : Nat := 9128

/-- Ethertype towards a peer. -/
def State.peerType (s : State) (p e : Nat) : Nat := if bitOf (s.reg (pgEth p) (0x204 + 0x20 * e)) 21 then 0x0800 else 0x86DD

/-- The Internet checksum of RFC 1071 over big-endian 16-bit words. -/
def inetSum (bs : List Byte) : Nat :=
  let n := (List.range (cdiv bs.length 2)).foldl (fun a i => a + beNat ((bs ++ [0#8]).drop (2 * i) |>.take 2)) 0
  let f (x : Nat) : Nat := x % 65536 + x / 65536
  65535 - f (f n)

/-- IPv4 or IPv6 and UDP headers to a peer with the source address left 0: the manual gives the port no IP address of its own (log entry 22). -/
def State.ipUdp (s : State) (p e : Nat) (data : List Byte) : List Byte :=
  let ip (i : Nat) : List Byte := beBytes 4 (s.reg (pgEth p) (0x210 + 0x20 * e + 4 * i)).toNat
  let n := data.length
  let udp := beBytes 2 (fld (s.reg (pgEth p) 0x030) 15 0) ++ beBytes 2 (fld (s.reg (pgEth p) (0x20C + 0x20 * e)) 15 0) ++ beBytes 2 (8 + n)
  if bitOf (s.reg (pgEth p) (0x204 + 0x20 * e)) 21 then
    let h (c : Nat) : List Byte := [0x45#8, 0#8] ++ beBytes 2 (28 + n) ++ [0#8, 0#8, 0x40#8, 0#8, 64#8, 17#8] ++ beBytes 2 c ++ [0#8, 0#8, 0#8, 0#8] ++ ip 3
    h (inetSum (h 0)) ++ udp ++ [0#8, 0#8] ++ data
  else
    let src : List Byte := List.replicate 16 0#8
    let dst := ip 0 ++ ip 1 ++ ip 2 ++ ip 3
    let c := inetSum (src ++ dst ++ beBytes 4 (8 + n) ++ [0#8, 0#8, 0#8, 17#8] ++ udp ++ [0#8, 0#8] ++ data)
    [0x60#8, 0#8, 0#8, 0#8] ++ beBytes 2 (8 + n) ++ [17#8, 64#8] ++ src ++ dst ++ udp ++ beBytes 2 (if c = 0 then 0xFFFF else c) ++ data

/-- A slot message sent as fragments on the cell's payload port (R451). -/
def State.payloadSend (s : State) (cell : Nat) (d : List Word) (msgid : Nat) (ws : List Word) (deadline : Nat) : State :=
  let p := dL2Port d
  match s.peer p 2 cell with
  | none => s
  | some e =>
    let bs := bytesOf ws
    let sub := s.peerSub p e
    foldN (cdiv bs.length fragMax) (fun i t =>
      let frag := (bs.drop (fragMax * i)).take fragMax
      let data := leBytes 4 (1 + cell * 65536) ++ leBytes 4 msgid ++ leBytes 4 (fragMax * i) ++ leBytes 4 bs.length ++ frag
      t.queueFrame p {
        sub := sub, launch := t.now, deadline := deadline, eaxc := none, kind := .payload cell,
        bytes := t.ethHeader p sub (t.peerMac p e) (t.peerType p e) ++ t.ipUdp p e data,
        tsreq := false, txid := 0, close := none }) (s.emit (.slotMsg cell ws))

/-- A slot message from the device to the L2 host of a cell (R150, R151, R443, R451). -/
def State.sendSlot (s : State) (c : Nat) (d : List Word) (type sfn slot : Nat) (st : Code) (pdus : List (List Word)) (deadline : Nat) : State :=
  let x := s.cell c
  let ws := slotMsg type c sfn slot x.txSeq st pdus
  let s1 := s.setCell c { x with txSeq := (x.txSeq + 1) % 2 ^ 32 }
  if dL2Path d then s1.payloadSend c d x.txSeq ws deadline
  else
    let q := c % 8
    if (s1.l2q q).waiting.isEmpty && s1.l2qRoom q (4 * ws.length) then s1.l2qWrite q c ws
    else s1.setL2q q { s1.l2q q with waiting := (s1.l2q q).waiting ++ [(c, ws)], held := satAdd (s1.l2q q).held 1 0xFFFF }

/-- An ERROR PDU (R156). -/
def errorPdu (handle : Word) (type st seq pduType : Nat) : List Word :=
  [w32 (0x0041 + 16 * 65536), handle, w32 (type + st * 256), w32 (seq % 65536 + pduType * 65536)]

/-- An ERROR_IND with one PDU (R156). -/
def State.errorInd (s : State) (c : Nat) (d : List Word) (sfn slot : Nat) (handle : Word) (type : Nat) (st : Code) (seq pduType : Nat) : State :=
  s.sendSlot c d 0x16 sfn slot .ok [errorPdu handle type (codeVal st) seq pduType] s.now

/-- A CELL_IND (R165). -/
def State.cellInd (s : State) (c : Nat) (d : List Word) (code sfn : Nat) : State :=
  s.sendSlot c d 0x17 sfn 0 .ok [[w32 (0x0042 + 16 * 65536), 0, w32 code, w32 sfn]] s.now

end Sys2Proof.Machine
end

