-- ==== Sys2Proof/Machine/Operands.lean ====
section
/-! DEFINITION. Operand forms of the tile commands: fields, extents, and the element address generator of MATMUL and CONV (R58, R63 to R75, R85 to R104). -/

namespace Sys2Proof.Machine

/-- First byte past the operand region (R58). -/
def operandEnd : Nat := 0x6C000

/-- An extent: rows of len bytes, pitch bytes apart (R58). -/
structure Ext where
  base  : Nat
  pitch : Nat
  rows  : Nat
  len   : Nat
deriving DecidableEq, Repr

/-- The extent and its base lie in the operand region (R58, R72). -/
def extOk (e : Ext) : Bool :=
  e.base < operandEnd && (e.rows = 0 || e.len = 0 || e.base + (e.rows - 1) * e.pitch + e.len ≤ operandEnd)

/-- A row [s, s + n) meets some row of an extent. -/
def rowMeets (s n : Nat) (e : Ext) : Bool :=
  if n = 0 || e.len = 0 || e.rows = 0 then false
  else
    let r := if s < e.base + e.len then 0 else if e.pitch = 0 then e.rows else (s - e.base - e.len) / e.pitch + 1
    r < e.rows && e.base + r * e.pitch < s + n

/-- Two extents share a byte (R58). -/
def extMeets (a b : Ext) : Bool := (List.range a.rows).any (fun r => rowMeets (a.base + r * a.pitch) a.len b)

/-- Operand classes of R51. -/
inductive Cls where
  | narrowInt | narrowMixed | half | q15 | single | word | complex
deriving DecidableEq, Repr

/-- The class of an operand pair; none when R51 has no row for it. -/
def clsOf (fa fb : Nat) (sa sb : Bool) : Option Cls :=
  let int (f : Nat) : Bool := f = 0x9 || f = 0xA
  let nar (f : Nat) : Bool := (0x4 ≤ f && f ≤ 0xA) || f = 0xF
  let hf (f : Nat) : Bool := f = 0x2 || f = 0x3
  let cx (f : Nat) : Bool := f = 0xD || f = 0xE
  if int fa && int fb && !sa && !sb then some .narrowInt
  else if nar fa && nar fb then some .narrowMixed
  else if hf fa && hf fb then some .half
  else if fa = 0xB && fb = 0xB then some .q15
  else if fa = 0x1 && fb = 0x1 then some .single
  else if fa = 0xC && fb = 0xC then some .word
  else if cx fa && cx fb then some .complex
  else none

/-- Twice the clocks per K index (R67): the rate of a pair is the lower of its formats' rates (R51). -/
def clk2 (c : Cls) (fa fb : Nat) : Nat :=
  let fast (f : Nat) : Bool := f = 0x8 || f = 0xA || f = 0xF
  match c with
  | .narrowInt | .narrowMixed => if fast fa && fast fb then 1 else 2
  | .half | .q15 => 8
  | .single | .word | .complex => 32

/-- Accumulator width of an integer class (R55). -/
def accBits : Cls → Nat
  | .narrowInt => 48 | .q15 => 64 | .word => 64 | _ => 72

/-- Exponent of an integer accumulator's unit (R55). -/
def accUnit : Cls → Int
  | .q15 | .complex => -30
  | _ => 0

/-- The accumulator is FP32 (R51). -/
def fpClass : Cls → Bool
  | .narrowMixed | .half | .single => true
  | _ => false

/-- A decoded MATMUL or CONV: shape, formats, addresses, and the extension words (R64, R73, R85). -/
structure Mat where
  conv : Bool
  m : Nat
  n : Nat
  k : Nat
  fa : Nat
  fb : Nat
  fc : Nat
  fd : Nat
  cwa : Nat
  cwb : Nat
  cwc : Nat
  cwd : Nat
  scla : Bool
  sclb : Bool
  scld : Bool
  ta : Bool
  tb : Bool
  ab : Nat
  bb : Nat
  cb : Nat
  db : Nat
  pa : Nat
  pb : Nat
  pc : Nat
  pd : Nat
  sa : Nat
  sb : Nat
  sd : Nat
  beta : Word
  ih : Nat
  iw : Nat
  fh : Nat
  fw : Nat
  cin : Nat
  sh : Nat
  sw : Nat
  dh : Nat
  dw : Nat
  pt : Nat
  pl : Nat
  q : Nat
  thin : Nat
  thb : Bool
  zskip : Bool
  zdrop : Bool
  bma : Bool
  bmb : Bool
  bpack : Bool
  msk : Bool
  maxis : Bool
  mwr : Bool
  gather : Bool
  scat : Bool
  mcnt : Bool
  mdb : Nat
  mdp : Nat
  bmab : Nat
  bmbb : Nat
  mkb : Nat
  mgran : Nat
  idx : Nat
  grows : Nat
  cnt : Nat
  rnd : Nat
  sat : Bool
  oshift : Nat
deriving DecidableEq, Repr

/-- β = 0.0 (R65); −0.0 counts as zero, so C is not read (DESIGN CHOICE, log entry 100: the manual names 0.0 without a sign). -/
def Mat.beta0 (d : Mat) : Bool := (ofFp32 d.beta).isZero

/-- The class of the command; a pair outside R51 was refused, narrow integer stands for it. -/
def Mat.cls (d : Mat) : Cls := (clsOf d.fa d.fb d.scla d.sclb).getD .narrowInt

/-- Output dimension of a convolution (R74): a non-positive result counts as 0. -/
def convDim (i p0 p1 dil f s : Nat) : Nat :=
  if dil * (f - 1) + 1 ≤ i + p0 + p1 then (i + p0 + p1 - dil * (f - 1) - 1) / s + 1 else 0

/-- Bytes rounded up to 32. -/
def up32 (n : Nat) : Nat := cdiv n 32 * 32

/-- The extension words, or sixteen zero words when EXT is 0 (R85). -/
def extWords (ws : List Word) : List Word := if bitOf (wAt ws 0) 27 then ws.drop 16 else List.replicate 16 0#32

/-- Fields of a MATMUL (R64) or CONV (R73), with M under MCNT read from the tile store (R104).
DESIGN CHOICE (log entry 137): a packed CBFP filter row of 64 samples takes whole CBFP blocks, 6 of them, before it is rounded up to 32 bytes; R93's formula in bits leaves a part of a block. -/
def decodeMat (ws : List Word) (st : Memory) : Mat :=
  let w := wAt ws
  let x := wAt (extWords ws)
  let conv := fld (w 0) 31 28 = 2
  let ih := fld (w 3) 11 0
  let iw := fld (w 3) 23 12
  let fh := fld (w 3) 27 24
  let fw := fld (w 3) 31 28
  let cin := fld (w 4) 15 0
  let sh := fld (w 10) 3 0
  let sw := fld (w 10) 7 4
  let dh := fld (w 10) 11 8
  let dw := fld (w 10) 15 12
  let p := convDim ih (fld (w 10) 19 16) (fld (w 10) 23 20) dh fh sh
  let q := convDim iw (fld (w 10) 27 24) (fld (w 10) 31 28) dw fw sw
  let mcnt := bitOf (x 0) 13
  let cnt := fld (x 7) 18 0
  let m0 := if conv then p * q else fld (w 3) 15 0
  let m := if mcnt && !conv then min m0 (leNat (st.readN cnt 2)) else m0
  let n := if conv then fld (w 4) 31 16 else fld (w 3) 31 16
  let k := if conv then fh * fw * cin else fld (w 4) 23 0
  let fb := fld (w 5) 7 4
  let cwb := fld (w 5) 19 18
  let thin := fld (x 0) 1 0
  let thb := bitOf (x 0) 2
  let bpack := bitOf (x 0) 7
  let pb :=
    if conv then
      (if bpack then up32 (rowBytes fb cwb 64)
       else if thin ≠ 0 && thb then up32 (rowBytes fb cwb (k / 2)) else up32 (rowBytes fb cwb n))
    else fld (w 10) 27 14 * 32
  { conv := conv, m := m, n := n, k := k, fa := fld (w 5) 3 0, fb := fb, fc := fld (w 5) 11 8, fd := fld (w 5) 15 12,
    cwa := fld (w 5) 17 16, cwb := cwb, cwc := fld (w 5) 21 20, cwd := fld (w 5) 23 22,
    scla := bitOf (w 5) 24, sclb := bitOf (w 5) 25, scld := bitOf (w 5) 26, ta := bitOf (w 5) 27, tb := bitOf (w 5) 28,
    ab := fld (w 6) 18 0, bb := fld (w 7) 18 0, cb := fld (w 8) 18 0, db := fld (w 9) 18 0,
    pa := fld (w 10) 13 0 * 32, pb := pb, pc := fld (w 11) 13 0 * 32, pd := fld (w 11) 27 14 * 32,
    sa := fld (w 12) 18 0, sb := fld (w 13) 18 0, sd := fld (w 14) 18 0, beta := w 15,
    ih := ih, iw := iw, fh := fh, fw := fw, cin := cin, sh := sh, sw := sw, dh := dh, dw := dw,
    pt := fld (w 10) 19 16, pl := fld (w 10) 27 24, q := q,
    thin := thin, thb := thb, zskip := bitOf (x 0) 3 || bitOf (x 0) 4, zdrop := bitOf (x 0) 4,
    bma := bitOf (x 0) 5, bmb := bitOf (x 0) 6, bpack := bpack, msk := bitOf (x 0) 8, maxis := bitOf (x 0) 9,
    mwr := bitOf (x 0) 10, gather := bitOf (x 0) 11, scat := bitOf (x 0) 12, mcnt := mcnt,
    mdb := fld (x 1) 18 0, mdp := fld (x 2) 13 0 * 32, bmab := fld (x 3) 18 0, bmbb := fld (x 4) 18 0,
    mkb := fld (x 5) 18 0, mgran := fld (x 5) 26 19, idx := fld (x 6) 18 0, grows := fld (x 6) 31 19, cnt := cnt,
    rnd := fld (w 0) 25 24, sat := bitOf (w 0) 23, oshift := fld (w 0) 21 16 }

/-- Bytes of a block-map row of so many bits (R91). -/
def mapRowBytes (bits : Nat) : Nat := 4 * cdiv bits 32

/-- A bit of a bit array at byte a (R91, R97). -/
def bitAt (st : Memory) (a u : Nat) : Bool := (st.read (a + u / 8)).toNat / 2 ^ (u % 8) % 2 = 1

/-- Bytes per row of D: a complex result in a real float format is interleaved I and Q (R50). -/
def dRowBytes (d : Mat) : Nat :=
  if d.cls = .complex && d.fd < 0xD then rowBytes d.fd 0 (2 * d.n) else rowBytes d.fd d.cwd d.n

/-- Number of present blocks of B in map rows 0 to the end, row-major (R93). -/
def presentCount (d : Mat) (st : Memory) : Nat :=
  ((List.range (cdiv d.k 64)).map (fun kb =>
    ((List.range (cdiv d.n 64)).filter (fun nb => bitAt st (d.bmbb + kb * mapRowBytes (cdiv d.n 64)) nb)).length)).sum

/-- Index of present block (kb, nb) in map order (R93). -/
def presentIndex (d : Mat) (st : Memory) (kb nb : Nat) : Nat :=
  ((List.range kb).map (fun r =>
    ((List.range (cdiv d.n 64)).filter (fun c => bitAt st (d.bmbb + r * mapRowBytes (cdiv d.n 64)) c)).length)).sum
  + ((List.range nb).filter (fun c => bitAt st (d.bmbb + kb * mapRowBytes (cdiv d.n 64)) c)).length

/-- Extent of A. -/
def aExt (d : Mat) : Ext :=
  if d.conv then { base := d.ab, pitch := 0, rows := 1, len := rowBytes d.fa d.cwa (d.ih * d.iw * d.cin) }
  else if d.ta then { base := d.ab, pitch := d.pa, rows := d.k, len := rowBytes d.fa d.cwa d.m }
  else { base := d.ab, pitch := d.pa, rows := if d.gather then d.grows else d.m,
         len := rowBytes d.fa d.cwa (if d.thin ≠ 0 && !d.thb then d.k / 2 else d.k) }

/-- Extent of B or of the filter. -/
def bExt (d : Mat) (st : Memory) : Ext :=
  if d.bpack then { base := d.bb, pitch := 0, rows := 1, len := presentCount d st * 64 * d.pb }
  else if d.thin ≠ 0 && d.thb then { base := d.bb, pitch := d.pb, rows := d.n, len := rowBytes d.fb d.cwb (d.k / 2) }
  else if d.tb then { base := d.bb, pitch := d.pb, rows := d.n, len := rowBytes d.fb d.cwb d.k }
  else { base := d.bb, pitch := d.pb, rows := d.k, len := rowBytes d.fb d.cwb d.n }

/-- Rows of C and D (R102: GROWS rows under SCAT). -/
def cdRows (d : Mat) : Nat := if d.scat then d.grows else d.m

def cExt (d : Mat) : Ext := { base := d.cb, pitch := d.pc, rows := cdRows d, len := rowBytes d.fc d.cwc d.n }
def dExt (d : Mat) : Ext := { base := d.db, pitch := d.pd, rows := cdRows d, len := dRowBytes d }

/-- A run of bytes as an extent. -/
def flat (base len : Nat) : Ext := { base := base, pitch := 0, rows := 1, len := len }

/-- Metadata bytes per row (R87). -/
def mdRow (d : Mat) : Nat := if d.thin = 1 then cdiv d.k 8 else cdiv d.k 4

/-- Rows of A's scales and metadata: they belong to A's stored rows, GROWS of them under GATHER (R102; DEDUCED, log entry 32). -/
def aSideRows (d : Mat) : Nat := if d.gather then d.grows else d.m

/-- The extents a command reads besides A, B and C: scales, metadata, maps, mask, index list, count. -/
def sideExts (d : Mat) : List Ext :=
  (if d.scla then [flat d.sa (if d.conv then d.ih * d.iw * (d.cin / 32) else aSideRows d * cdiv d.k 32)] else [])
  ++ (if d.sclb then [flat d.sb (d.n * cdiv d.k 32)] else [])
  ++ (if d.thin ≠ 0 then [{ base := d.mdb, pitch := d.mdp, rows := if d.thb then d.n else aSideRows d, len := mdRow d }] else [])
  ++ (if d.bma then [flat d.bmab (cdiv d.m 64 * mapRowBytes (cdiv d.k 64))] else [])
  ++ (if d.bmb then [flat d.bmbb (cdiv d.k 64 * mapRowBytes (cdiv d.n 64))] else [])
  ++ (if d.msk then [flat d.mkb (mapRowBytes (cdiv (if d.maxis then d.n else d.m) d.mgran))] else [])
  ++ (if d.gather || d.scat then [flat d.idx (8 * d.m)] else [])
  ++ (if d.mcnt then [flat d.cnt 2] else [])

/-- Extents read. -/
def matReads (d : Mat) (st : Memory) : List Ext :=
  [aExt d, bExt d st] ++ (if d.beta0 then [] else [cExt d]) ++ sideExts d

/-- Extents written. -/
def matWrites (d : Mat) : List Ext :=
  dExt d :: (if d.scld then [flat d.sd (cdRows d * cdiv d.n 32)] else [])

/-- Formats of C that a class accepts (R65). -/
def cFormatOk (c : Cls) (fc : Nat) : Bool :=
  match c with
  | .narrowInt | .word => fc = 0x9 || fc = 0xA || fc = 0xC
  | .q15 => fc = 0xB
  | .complex => fc = 0xD || fc = 0xE
  | .narrowMixed | .half | .single => 0x1 ≤ fc && fc ≤ 0xC

/-- Output formats of a class (R41, R50). -/
def dFormatOk (c : Cls) (fd : Nat) : Bool :=
  if c = .complex then fd = 0xD || fd = 0xE || (0x1 ≤ fd && fd ≤ 0x3) else 0x1 ≤ fd && fd ≤ 0xC

/-- A scale may go with the format, and must with TRN2 (R42). -/
def scaleOk (f : Nat) (s : Bool) : Bool := if f = 0xF then s else !s || (0x4 ≤ f && f ≤ 0x9)

/-- Bits of a packed CONV position must fill whole groups (R33). -/
def cinGroupOk (f cin : Nat) : Bool :=
  match f with
  | 0x6 | 0x7 => cin * 6 % 24 = 0
  | 0x8 | 0xA => cin * 4 % 8 = 0
  | 0xF => cin * 2 % 8 = 0
  | _ => true

/-- Bits [31:19] of words that hold a tile-store address are 0 (R64, R85). -/
def addrWordOk (w : Word) : Bool := fld w 31 19 = 0

/-- Words 0 to 2 of any tile command (R46, R63). -/
def commonOk (ws : List Word) : Bool :=
  fld (wAt ws 0) 25 24 ≠ 3 && !bitOf (wAt ws 0) 22 && fld (wAt ws 1) 31 24 = 0

/-- Reserved fields of the extension words, and the conditions of R86. With EXT = 1 the fields that R85 documents as 0 are checked also where word 16 is all zero: R63 refuses any such field, and R85 says how such a command runs, not that it is accepted (DESIGN CHOICE, log entry 101). -/
def extOkFields (d : Mat) (ws : List Word) (c : Cls) : Bool :=
  let x := wAt (extWords ws)
  fld (x 0) 31 14 = 0 && addrWordOk (x 1) && fld (x 2) 31 14 = 0 && addrWordOk (x 3) && addrWordOk (x 4)
  && fld (x 5) 31 27 = 0 && addrWordOk (x 7) && ((List.range 8).all (fun i => x (8 + i) = 0#32))
  && d.thin ≠ 3
  && !(d.thin ≠ 0 && c = .complex)
  && !(d.thin ≠ 0 && d.conv && !d.thb)
  && !(d.thin ≠ 0 && !d.thb && d.ta)
  && !(d.thin ≠ 0 && d.thb && !d.conv && !d.tb)
  && !(d.thin = 1 && d.k % 4 ≠ 0)
  && !(d.thin = 2 && d.k % 8 ≠ 0)
  && !(d.zdrop && d.thin ≠ 0 && !d.thb)
  && !(d.bma && d.conv)
  && !(d.bpack && (!d.bmb || d.thin ≠ 0 || d.tb))
  && !(d.msk && d.mgran = 0)
  && !(d.msk && !d.mwr && d.scld)
  && !(d.msk && d.maxis && !d.mwr && d.fd = 0xE && d.mgran % 12 ≠ 0)
  && !((d.gather || d.scat || d.mcnt) && d.conv)
  && !((d.gather || d.scat) && (d.ta || d.grows = 0))
  && !(d.scat && !fpClass c)
  && !(d.mcnt && d.cnt % 2 ≠ 0)
  && !(d.thin ≠ 0 && d.mdp < mdRow d)

/-- Two extents hold the same rows of bytes. -/
def extSame (a b : Ext) : Bool :=
  a.base = b.base && a.rows = b.rows && a.len = b.len && (a.pitch = b.pitch || a.rows ≤ 1 || a.len = 0)

/-- The fields of words 3 to 15 that the tables document as 0, and the shape conditions (R63, R64, R73); other bits are ignored (DEDUCED, log entry 31). -/
def matFieldsOk (d : Mat) (ws : List Word) : Bool :=
  let w := wAt ws
  fld (w 5) 31 29 = 0
  && (if d.conv then
        !d.ta && !d.tb && d.ih ≠ 0 && d.iw ≠ 0 && d.fh ≠ 0 && d.fw ≠ 0 && d.cin ≠ 0
        && d.sh ≠ 0 && d.sw ≠ 0 && d.dh ≠ 0 && d.dw ≠ 0 && cinGroupOk d.fa d.cin && (!d.scla || d.cin % 32 = 0)
      else fld (w 4) 31 24 = 0 && addrWordOk (w 6) && addrWordOk (w 7) && addrWordOk (w 8) && addrWordOk (w 9))

/-- Every check of a MATMUL or CONV before it executes (R31, R42, R58, R63, R65, R73, R86). -/
def matOk (d : Mat) (ws : List Word) (st : Memory) : Bool :=
  match clsOf d.fa d.fb d.scla d.sclb with
  | none => false
  | some c =>
    let e := dExt d
    commonOk ws && matFieldsOk d ws && extOkFields d ws c
    && scaleOk d.fa d.scla && scaleOk d.fb d.sclb && (!d.scld || (0x4 ≤ d.fd && d.fd ≤ 0x9))
    && dFormatOk c d.fd
    && (d.beta0 || (cFormatOk c d.fc && (fpClass c || d.beta = 0x3F800000#32)))
    && (matReads d st).all extOk && (matWrites d).all extOk
    && !extMeets e (aExt d) && !extMeets e (bExt d st)
    && (d.beta0 || extSame (cExt d) e || !extMeets e (cExt d))

/-- Row i of the command reads row r of A; none when GATHER names a row past GROWS (R102). -/
def gatherRow (d : Mat) (st : Memory) (i : Nat) : Option Nat :=
  if d.gather then
    let r := leNat (st.readN (d.idx + 8 * i) 2)
    if r < d.grows then some r else none
  else some i

/-- Row of C and D that row i uses; none when SCAT names a row past GROWS (R103). -/
def scatRow (d : Mat) (st : Memory) (i : Nat) : Option Nat :=
  if d.scat then
    let r := leNat (st.readN (d.idx + 8 * i) 2)
    if r < d.grows then some r else none
  else some i

/-- Weight of row i under SCAT (R102). -/
def scatWeight (d : Mat) (st : Memory) (i : Nat) : Num := decodeFp fp32 (leNat (st.readN (d.idx + 8 * i + 4) 4))

/-- Row i (MAXIS = 0) or column j (MAXIS = 1) is active under the mask (R97). -/
def rowActive (d : Mat) (st : Memory) (i : Nat) : Bool := !d.msk || d.maxis || bitAt st d.mkb (i / d.mgran)
def colActive (d : Mat) (st : Memory) (j : Nat) : Bool := !d.msk || !d.maxis || bitAt st d.mkb (j / d.mgran)

/-- K sub-block kb takes part in output block (bm, bn) (R92). -/
def subPresent (d : Mat) (st : Memory) (bm bn kb : Nat) : Bool :=
  (!d.bma || bitAt st (d.bmab + bm * mapRowBytes (cdiv d.k 64)) kb)
  && (!d.bmb || bitAt st (d.bmbb + kb * mapRowBytes (cdiv d.n 64)) bn)

/-- Dense position of stored element t of metadata row r (R87, R88). -/
def densePos (d : Mat) (st : Memory) (r t : Nat) : Nat :=
  if d.thin = 1 then
    let g := t / 2
    let nib := (st.read (d.mdb + r * d.mdp + g / 2)).toNat / 16 ^ (g % 2) % 16
    4 * g + nib / 4 ^ (t % 2) % 4
  else
    let g := t / 4
    8 * g + leNat (st.readN (d.mdb + r * d.mdp + 2 * g) 2) / 8 ^ (t % 4) % 8

/-- Where an element lies: start of its run, and its index in the run. -/
structure Loc where
  a : Nat
  j : Nat
deriving DecidableEq, Repr

/-- Location of A's element for row i, dense index kd, stored index t; none for padding or a row that is not gathered (R64, R74, R102). -/
def aLoc (d : Mat) (st : Memory) (i kd t : Nat) : Option Loc :=
  if d.conv then
    let c := kd % d.cin
    let fc := kd / d.cin % d.fw
    let fr := kd / (d.cin * d.fw)
    let ih : Int := (i / d.q * d.sh + fr * d.dh : Nat) - (d.pt : Int)
    let iw : Int := (i % d.q * d.sw + fc * d.dw : Nat) - (d.pl : Int)
    if ih < 0 || iw < 0 || (d.ih : Int) ≤ ih || (d.iw : Int) ≤ iw then none
    else some { a := d.ab, j := (ih.toNat * d.iw + iw.toNat) * d.cin + c }
  else
    match gatherRow d st i with
    | none => none
    | some r =>
      if d.ta then some { a := d.ab + kd * d.pa, j := r }
      else some { a := d.ab + r * d.pa, j := if d.thin ≠ 0 && !d.thb then t else kd }

/-- Location of B's element for column j. -/
def bLoc (d : Mat) (st : Memory) (j kd t : Nat) : Loc :=
  if d.bpack then { a := d.bb + (presentIndex d st (kd / 64) (j / 64) * 64 + kd % 64) * d.pb, j := j % 64 }
  else if d.thin ≠ 0 && d.thb then { a := d.bb + j * d.pb, j := t }
  else if d.tb then { a := d.bb + j * d.pb, j := kd }
  else { a := d.bb + kd * d.pb, j := j }

/-- Scale of A's element at row i, dense index kd (R43). -/
def aScale (d : Mat) (st : Memory) (i kd : Nat) : Num :=
  if d.conv then
    match aLoc d st i kd kd with
    | none => .fin false 1 0
    | some l => e8m0 (st.read (d.sa + l.j / d.cin * (d.cin / 32) + l.j % d.cin / 32)).toNat
  else e8m0 (st.read (d.sa + (gatherRow d st i).getD i * cdiv d.k 32 + kd / 32)).toNat

/-- Scale of B's element at column j (R43). -/
def bScale (d : Mat) (st : Memory) (j kd : Nat) : Num := e8m0 (st.read (d.sb + j * cdiv d.k 32 + kd / 32)).toNat

/-- A real element with its scale: value and FMT_ERR (R37: MXINT8 is integer × 2^−6 × scale). -/
def realElem (st : Memory) (fmt : Nat) (l : Loc) (scaled : Bool) (sc : Num) : Num × Bool :=
  let v := decodeReal fmt (readBits st l.a (l.j * fmtBits fmt) (fmtBits fmt))
  if scaled then (Num.mul (if fmt = 0x9 then Num.shift (-6) v.1 else v.1) sc, v.2) else v

/-- An integer element of the integer classes. -/
def intElem (st : Memory) (fmt : Nat) (l : Loc) : Int :=
  signed (fmtBits fmt) (readBits st l.a (l.j * fmtBits fmt) (fmtBits fmt))

/-- The value of A's element at row i and dense index kd is zero, +0 or −0, or zero in both components (R94): with its scale, under which a zero may be NaN (R36, R44). -/
def aIsZero (d : Mat) (st : Memory) (i kd : Nat) (l : Loc) : Bool :=
  match d.cls with
  | .complex => decide (readCplx st d.fa d.cwa l.a l.j = (0, 0))
  | .narrowInt | .q15 | .word => decide (intElem st d.fa l = 0)
  | _ => (realElem st d.fa l d.scla (aScale d st i kd)).1.isZero

/-- The stored indices broadcast: K, or K / 2 for a thinned operand (R90). -/
def termCount (d : Mat) : Nat := if d.thin ≠ 0 then d.k / 2 else d.k

/-- Stored indices per accumulation group of 32 dense indices (R52, R87). -/
def groupLen (d : Mat) : Nat := if d.thin ≠ 0 then 16 else 32

/-- Dense index of stored index t for the cell (i, j). -/
def denseOf (d : Mat) (st : Memory) (i j t : Nat) : Nat :=
  if d.thin = 0 then t else densePos d st (if d.thb then j else (gatherRow d st i).getD i) t

/-- A's location for a term that forms a product at (i, j); none when either operand is invalid (R66, R89, R92, R94, R98). -/
def termLoc (d : Mat) (st : Memory) (i j t : Nat) : Option (Nat × Loc) :=
  let kd := denseOf d st i j t
  if kd < d.k && rowActive d st i && colActive d st j && subPresent d st (i / 64) (j / 64) (kd / 64) then
    match aLoc d st i kd t with
    | none => none
    | some l => if d.zskip && aIsZero d st i kd l then none else some (kd, l)
  else none

/-- A's element at row i and dense index k is valid and no bubble (R94, R98, R102). -/
def aLive (d : Mat) (st : Memory) (i k : Nat) : Bool :=
  rowActive d st i && (match aLoc d st i k k with
    | none => false
    | some l => !aIsZero d st i k l)

/-- Dense K index k of an output block stays in the broadcast (R92, R95): its sub-block takes part and, under ZDROP, some row of the block has a valid A element there that is no bubble. -/
def liveIndex (d : Mat) (st : Memory) (bm bn k : Nat) : Bool :=
  subPresent d st bm bn (k / 64)
  && (!d.zdrop || (List.range (min 64 (d.m - 64 * bm))).any (fun r => aLive d st (64 * bm + r) k))

/-- Kp of R92, K_live of R95: the dense K indices broadcast for an output block. -/
def blockIndices (d : Mat) (st : Memory) (bm bn : Nat) : Nat :=
  ((List.range d.k).filter (liveIndex d st bm bn)).length

/-- The whole output block is masked (R98). -/
def blockMasked (d : Mat) (st : Memory) (bm bn : Nat) : Bool :=
  (List.range (min 64 (d.m - 64 * bm))).all (fun r => !rowActive d st (64 * bm + r))
  || (List.range (min 64 (d.n - 64 * bn))).all (fun c => !colActive d st (64 * bn + c))

end Sys2Proof.Machine
end

