-- ==== Sys2Proof/Machine/TileMath.lean ====
section
/-! DEFINITION. What the array computes: cells, output blocks, checksum decisions, DFT passes, GATE, converting rows (R49, R52 to R57, R68 to R77, R78, R94 to R103, R111, R531). -/

namespace Sys2Proof.Machine

/-- A pattern with one bit flipped; a bit at or past the width flips nothing (R531). -/
def flipBit (width bit v : Nat) : Nat := if bit < width then v ^^^ 2 ^ bit else v

/-- A product of the real classes: the exact product, and the flags of what it produced (R44, R52, R56). -/
def realTerm (d : Mat) (st : Memory) (i j t : Nat) : Option (Num × AFlags) :=
  match termLoc d st i j t with
  | none => none
  | some (kd, la) =>
    let a := realElem st d.fa la d.scla (aScale d st i kd)
    let b := realElem st d.fb (bLoc d st j kd t) d.sclb (bScale d st j kd)
    let p := Num.mul a.1 b.1
    some (p, numFlags p)

/-- The integer term at (i, j): one component, or two of a complex product in units of 2^−30 (R55). -/
def intTerm (d : Mat) (st : Memory) (i j t : Nat) : Option (Int × Int) :=
  match termLoc d st i j t with
  | none => none
  | some (kd, la) =>
    let lb := bLoc d st j kd t
    if d.cls = .complex then
      let a := readCplx st d.fa d.cwa la.a la.j
      let b := readCplx st d.fb d.cwb lb.a lb.j
      some (a.1 * b.1 - a.2 * b.2, a.1 * b.2 + a.2 * b.1)
    else some (intElem st d.fa la * intElem st d.fb lb, 0)

/-! What is read (R56): an element counts as read when the array takes it in, whether or not it forms a product. -/

/-- Flags of a stored real element, before and after its scale. -/
def elemFlags (st : Memory) (fmt : Nat) (l : Loc) (scaled : Bool) (sc : Num) : AFlags :=
  let v := decodeReal fmt (readBits st l.a (l.j * fmtBits fmt) (fmtBits fmt))
  ((numFlags v.1).or (numFlags (realElem st fmt l scaled sc).1)).or { fmtErr := v.2 }

/-- Flags of A's elements of an output block: the rows that take part, the sub-blocks that take part, bubbles too, which the unpack stage reads as any other (R94; DEDUCED, log entry 94). -/
def aFlags (d : Mat) (st : Memory) (bm bn : Nat) : AFlags :=
  let rows := ((List.range (min 64 (d.m - 64 * bm))).map (64 * bm + ·)).filter (rowActive d st)
  let ts := List.range (if d.thin ≠ 0 && !d.thb then d.k / 2 else d.k)
  rows.foldl (fun fl i => ts.foldl (fun fl t =>
    let kd := if d.thin ≠ 0 && !d.thb then densePos d st ((gatherRow d st i).getD i) t else t
    if kd < d.k && subPresent d st bm bn (kd / 64) then
      match aLoc d st i kd t with
      | none => fl
      | some l => fl.or (elemFlags st d.fa l d.scla (aScale d st i kd))
    else fl) fl) {}

/-- Flags of B's elements of an output block: the columns that take part, at every K index of the sub-blocks that take part (R92). Those at an index that ZDROP removes count too: a result, flags included, is the same with and without ZDROP (R95, R112). -/
def bFlags (d0 : Mat) (st : Memory) (bm bn : Nat) : AFlags :=
  let d := { d0 with zdrop := false }
  let cols := ((List.range (min 64 (d.n - 64 * bn))).map (64 * bn + ·)).filter (colActive d st)
  let ts := (List.range (if d.thin ≠ 0 && d.thb then d.k / 2 else d.k)).filter (fun t =>
    (d.thin ≠ 0 && d.thb) || liveIndex d st bm bn t)
  cols.foldl (fun fl j => ts.foldl (fun fl t =>
    let kd := if d.thin ≠ 0 && d.thb then densePos d st j t else t
    if kd < d.k && liveIndex d st bm bn kd then
      fl.or (elemFlags st d.fb (bLoc d st j kd t) d.sclb (bScale d st j kd))
    else fl) fl) {}

/-- Flags that a block's reads of A and B set; the integer classes hold no NaN, infinity or reserved pattern. -/
def readFlags (d : Mat) (st : Memory) (bm bn : Nat) : AFlags :=
  if fpClass d.cls && !blockMasked d st bm bn then (aFlags d st bm bn).or (bFlags d st bm bn) else {}

/-! Data cells (R52 to R55, R530). -/

/-- C's element at (row, j). -/
def cElem (d : Mat) (st : Memory) (row j : Nat) : Num := (realElem st d.fc { a := d.cb + row * d.pc, j := j } false .nan).1

/-- β × C at (row, j), exact, with the flags of β, C and the product (R56, R530). -/
def betaC (d : Mat) (st : Memory) (row j : Nat) : Num × AFlags :=
  let c := cElem d st row j
  let p := Num.mul (ofFp32 d.beta) c
  (p, ((numFlags (ofFp32 d.beta)).or (numFlags c)).or (numFlags p))

/-- C placed in an integer accumulator (R530). -/
def intStart (d : Mat) (st : Memory) (i j : Nat) : Int × Int :=
  if d.beta0 then (0, 0)
  else
    let l : Loc := { a := d.cb + i * d.pc, j := j }
    match d.cls with
    | .complex => let c := readCplx st d.fc d.cwc l.a l.j; (c.1 * 2 ^ 15, c.2 * 2 ^ 15)
    | .q15 => (intElem st d.fc l * 2 ^ 15, 0)
    | _ => (intElem st d.fc l, 0)

/-- Integer components added to an accumulator of b bits (R55). -/
def Acc.addInt (a : Acc) (b : Nat) (p : Int × Int) : Acc :=
  let re := iaccAdd b a.re p.1
  let im := iaccAdd b a.im p.2
  { a with re := re, im := im, flags := a.flags.or { satAcc := re.sat || im.sat } }

/-- An FP32 accumulator takes a value, one rounding taken. -/
def Acc.take (a : Acc) (v : FAcc) : Acc := { a with fp := v, rounds := a.rounds + 1, flags := a.flags.or (numFlags (faccVal v)) }

/-- The products of one accumulation group (narrow mixed, half), or its terms one by one (single) (R52, R53, R54). -/
def Acc.addGroup (a : Acc) (c : Cls) (ps : List Num) : Acc :=
  if c = .single then ps.foldl (fun a p => a.take (faccTerm a.fp p)) a
  else if ps = [] then a
  else a.take (faccGroup (c = .half) a.fp ps)

/-- A data cell before its first K index (R530). -/
def cellStart (d : Mat) (st : Memory) (i j : Nat) : Acc :=
  if fpClass d.cls then
    (if d.beta0 || d.scat then Acc.zero
     else let b := betaC d st i j; { (Acc.zero.take (some (rnd32 b.1))) with flags := b.2.or (numFlags (rnd32 b.1)) })
  else Acc.zero.addInt (accBits d.cls) (intStart d st i j)

/-- Groups of 32 dense K indices of a command, and the stored indices of group g. -/
def groupCount (d : Mat) : Nat := cdiv (termCount d) (groupLen d)
def groupTerms (d : Mat) (g : Nat) : List Nat :=
  (List.range (min (groupLen d) (termCount d - g * groupLen d))).map (fun x => g * groupLen d + x)

/-- Groups of a K-block of 256 dense indices (R82). -/
def blockGroups : Nat := 8

/-- A cell takes group g. -/
def cellGroup (d : Mat) (st : Memory) (i j : Nat) (a : Acc) (g : Nat) : Acc :=
  if fpClass d.cls then
    let ps : List (Num × AFlags) := (groupTerms d g).filterMap (realTerm d st i j)
    let fl := (ps.map (fun p => p.2)).foldl AFlags.or a.flags
    ({ a with flags := fl }).addGroup d.cls (ps.map (fun (p : Num × AFlags) => p.1))
  else ((groupTerms d g).filterMap (intTerm d st i j)).foldl (fun a p => a.addInt (accBits d.cls) p) a

/-- One bit of an accumulator's stored form flipped: an FP32 accumulator, or an integer one's first component (R531). -/
def Acc.flip (a : Acc) (c : Cls) (bit : Nat) : Acc :=
  if fpClass c then { a with fp := some (decodeFp fp32 (flipBit 32 bit (encodeFp fp32 .nearest false (faccVal a.fp)).1)) }
  else { a with re := { a.re with v := signed (accBits c) (flipBit (accBits c) bit (twos (accBits c) a.re.v)) } }

/-- A cell takes n groups from group g on; a flip lands at the end of K-block 0, or of the last group before it (R531). -/
def cellSpan (d : Mat) (st : Memory) (i j : Nat) (bit : Option Nat) (g n : Nat) (a : Acc) : Acc :=
  let flip (a : Acc) : Acc := match bit with | none => a | some b => a.flip d.cls b
  if groupCount d = 0 then flip a
  else
    (List.range n).foldl (fun a x =>
      let a' := cellGroup d st i j a (g + x)
      if g + x = min (blockGroups - 1) (groupCount d - 1) then flip a' else a') a

/-- The components of a cell as exact values. -/
def accVals (c : Cls) (a : Acc) : List Num :=
  if fpClass c then [faccVal a.fp]
  else if c = .complex then [numOfInt a.re.v (accUnit c), numOfInt a.im.v (accUnit c)] else [numOfInt a.re.v (accUnit c)]

/-- A cell that no comparison may involve: NaN, ∞, or saturated (R57, R69). -/
def accOdd (c : Cls) (a : Acc) : Bool := (if fpClass c then (faccVal a.fp).isNan || (faccVal a.fp).isInf else false) || a.re.sat || a.im.sat

/-! Output blocks and their checksum cells (R68, R69, R111). -/

/-- Rows and columns of an output block. -/
def blockRows (d : Mat) (bm : Nat) : List Nat := (List.range (min 64 (d.m - 64 * bm))).map (64 * bm + ·)
def blockCols (d : Mat) (bn : Nat) : List Nat := (List.range (min 64 (d.n - 64 * bn))).map (64 * bn + ·)

/-- The active cells of a block. -/
def activeRows (d : Mat) (st : Memory) (bm : Nat) : List Nat := (blockRows d bm).filter (rowActive d st)
def activeCols (d : Mat) (st : Memory) (bn : Nat) : List Nat := (blockCols d bn).filter (colActive d st)

/-- A checksum cell over so many data cells before its first K index: β times the sum of their C, and Babs of it (R69, R72); zero under SCAT (R111). -/
def chkStart (d : Mat) (st : Memory) (cs : List (Nat × Nat)) : Acc :=
  if fpClass d.cls then
    (if d.beta0 || d.scat then Acc.zero
     else
       let sum := (cs.map (fun c => cElem d st c.1 c.2)).foldl Num.add (.fin false 0 0)
       let abs := (cs.map (fun c => (betaC d st c.1 c.2).1.abs)).foldl Num.add (.fin false 0 0)
       { (Acc.zero.take (some (rnd32 (Num.mul (ofFp32 d.beta) sum)))) with babs := roundUp32 abs })
  else cs.foldl (fun a c => a.addInt (accBits d.cls + 16) (intStart d st c.1 c.2)) Acc.zero

/-- The products of group g over so many data cells, summed at each dense K index (the sum trees, R66, R69, R111): the sum and the sum of magnitudes. The sums are exact (DEDUCED, log entry 95). -/
def chkTerms (d : Mat) (st : Memory) (cs : List (Nat × Nat)) (g : Nat) : List (Num × Num) :=
  let ps : List (Nat × Num) := cs.flatMap (fun c => (groupTerms d g).filterMap (fun t =>
    (realTerm d st c.1 c.2 t).map (fun p => (denseOf d st c.1 c.2 t, p.1))))
  (List.range 32).filterMap (fun x =>
    match ps.filter (fun p => p.1 = 32 * g + x) with
    | [] => none
    | q :: qs => some (qs.foldl (fun s p => Num.add s p.2) q.2, (q :: qs).foldl (fun s p => Num.add s p.2.abs) (.fin false 0 0)))

/-- A checksum cell takes group g (R69): exact and 16 bits wider, or FP32 with its Babs rounded up at each addition. -/
def chkGroup (d : Mat) (st : Memory) (cs : List (Nat × Nat)) (a : Acc) (g : Nat) : Acc :=
  if fpClass d.cls then
    let ps := chkTerms d st cs g
    let up (b p : Num) : Num := roundUp32 (Num.add b p)
    let babs := if d.cls = .single then (ps.map (·.2)).foldl up a.babs
      else if ps = [] then a.babs else up a.babs ((ps.map (·.2)).foldl Num.add (.fin false 0 0))
    { a.addGroup d.cls (ps.map (·.1)) with babs := babs }
  else (cs.flatMap (fun c => (groupTerms d g).filterMap (intTerm d st c.1 c.2))).foldl (fun a p => a.addInt (accBits d.cls + 16) p) a

def chkSpan (d : Mat) (st : Memory) (cs : List (Nat × Nat)) (g n : Nat) (a : Acc) : Acc :=
  (List.range n).foldl (fun a x => chkGroup d st cs a (g + x)) a

/-- The active data cells that checksum-row cell j, checksum-column cell i and the corner cover. -/
def colCells (d : Mat) (st : Memory) (bm bn j : Nat) : List (Nat × Nat) :=
  if colActive d st j then (activeRows d st bm).map (fun i => (i, j)) else []
def rowCells (d : Mat) (st : Memory) (bm bn i : Nat) : List (Nat × Nat) :=
  if rowActive d st i then (activeCols d st bn).map (fun j => (i, j)) else []
def allCells (d : Mat) (st : Memory) (bm bn : Nat) : List (Nat × Nat) := (activeRows d st bm).flatMap (rowCells d st bm bn)

/-- The cells of a block before its first K index; those that are masked stay empty. -/
def bankStart (d : Mat) (st : Memory) (bm bn : Nat) : Bank :=
  { cells := (blockRows d bm).map (fun i => (blockCols d bn).map (fun j =>
      if rowActive d st i && colActive d st j then cellStart d st i j else Acc.zero)),
    row := (blockCols d bn).map (fun j => chkStart d st (colCells d st bm bn j)),
    col := (blockRows d bm).map (fun i => chkStart d st (rowCells d st bm bn i)),
    corner := chkStart d st (allCells d st bm bn) }

/-- The cells of a block take n groups from group g on; fl names a data cell and the bit that an injection flips in it. -/
def bankSpan (d : Mat) (st : Memory) (bm bn : Nat) (fl : Option (Nat × Nat × Nat)) (g n : Nat) (b : Bank) : Bank :=
  let bit (i j : Nat) : Option Nat := match fl with | some f => if f.1 = i && f.2.1 = j then some f.2.2 else none | none => none
  { cells := ((blockRows d bm).zip b.cells).map (fun r => ((blockCols d bn).zip r.2).map (fun c =>
      if rowActive d st r.1 && colActive d st c.1 then cellSpan d st r.1 c.1 (bit r.1 c.1) g n c.2 else c.2)),
    row := ((blockCols d bn).zip b.row).map (fun c => chkSpan d st (colCells d st bm bn c.1) g n c.2),
    col := ((blockRows d bm).zip b.col).map (fun r => chkSpan d st (rowCells d st bm bn r.1) g n r.2),
    corner := chkSpan d st (allCells d st bm bn) g n b.corner }

/-- Data cell (i, j) of the output block that holds it. -/
def Bank.cell (b : Bank) (i j : Nat) : Acc := (b.cells.getD (i % 64) []).getD (j % 64) Acc.zero

/-- One comparison of R69: a line of cells and the checksum cell over them. None: it is not evaluated; else whether it fails. The sum of the line is exact (DESIGN CHOICE, log entry 95). -/
def lineFails (c : Cls) (line : List Acc) (chk : Acc) : Option Bool :=
  if line.any (accOdd c) || accOdd c chk then none
  else if fpClass c then
    let sum := (line.map (fun a => faccVal a.fp)).foldl Num.add (.fin false 0 0)
    let g := (line.map (·.rounds)).foldl max chk.rounds
    some (Num.lt (Num.mul (.fin false (g + 72) (-22)) chk.babs) (Num.add sum (faccVal chk.fp).neg).abs)
  else some (decide ((line.map (·.re.v)).sum ≠ chk.re.v) || decide ((line.map (·.im.v)).sum ≠ chk.im.v))

/-- Every comparison of a block (R69): its active columns, its active rows, the corner with the checksum row and with the checksum column. -/
def bankLines (d : Mat) (st : Memory) (bm bn : Nat) (b : Bank) : List (Option Bool) :=
  ((blockCols d bn).zip b.row).filterMap (fun c =>
    if colActive d st c.1 then some (lineFails d.cls ((activeRows d st bm).map (fun i => b.cell i c.1)) c.2) else none)
  ++ ((blockRows d bm).zip b.col).filterMap (fun r =>
    if rowActive d st r.1 then some (lineFails d.cls ((activeCols d st bn).map (fun j => b.cell r.1 j)) r.2) else none)
  ++ [lineFails d.cls b.row b.corner, lineFails d.cls b.col b.corner]

/-- The data cell and bit that an injection flips in a block (R531): none outside the active rows and columns, and none where neither the row nor the column of the flipped cell is compared. -/
def injAt (d : Mat) (st : Memory) (bm bn : Nat) (arg : Option Nat) : Option (Nat × Nat × Nat) :=
  match arg with
  | none => none
  | some a =>
    let i := 64 * bm + a % 64
    let j := 64 * bn + a / 64 % 64
    let fl := (i, j, a / 4096 % 64)
    if i < d.m && j < d.n && rowActive d st i && colActive d st j then
      let b := bankSpan d st bm bn (some fl) 0 (groupCount d) (bankStart d st bm bn)
      if ((activeCols d st bn).any (fun y => accOdd d.cls (b.cell i y))) && ((activeRows d st bm).any (fun x => accOdd d.cls (b.cell x j)))
        then none else some fl
    else none

/-- A block's cells after its last K index, from its start or from the K-block boundary where it was stopped (R82, R83). -/
def blockBank (d : Mat) (st : Memory) (bm bn : Nat) (arg : Option Nat) (from_ : Option (Nat × Bank)) : Bank :=
  match from_ with
  | some (p, b) => bankSpan d st bm bn none (blockGroups * p) (groupCount d - blockGroups * p) b
  | none => bankSpan d st bm bn (injAt d st bm bn arg) 0 (groupCount d) (bankStart d st bm bn)

/-- A block's cells at K-block boundary q, for a stop there. -/
def bankUntil (d : Mat) (st : Memory) (bm bn : Nat) (arg : Option Nat) (from_ : Option (Nat × Bank)) (q : Nat) : Bank :=
  match from_ with
  | some (p, b) => bankSpan d st bm bn none (blockGroups * p) (blockGroups * (q - p)) b
  | none => bankSpan d st bm bn (injAt d st bm bn arg) 0 (blockGroups * q) (bankStart d st bm bn)

/-- A block's comparisons find a mismatch: its own, or one of the silicon (fault) in a block with a comparison that is evaluated. A masked block is not compared (R57, R69, R111). -/
def blockFails (d : Mat) (st : Memory) (bm bn : Nat) (b : Bank) (fault : Bool) : Bool :=
  let ls := bankLines d st bm bn b
  !blockMasked d st bm bn && ((fault && ls.any (·.isSome)) || ls.any (· = some true))

/-- The written value of a cell's components and the flags of what it takes: OSHIFT on integer accumulators, w × acc + β × C under SCAT (R49, R103). A cell under SCAT that received no product is w × +0 (DESIGN CHOICE, log entry 96). -/
def outVals (d : Mat) (st : Memory) (i j row : Nat) (a : Acc) : List Num × AFlags :=
  if d.scat then
    let w := scatWeight d st i
    let wv := Num.mul w (faccVal a.fp)
    let c := if d.beta0 then (wv, ({} : AFlags)) else (Num.add wv (betaC d st row j).1, (betaC d st row j).2)
    ([c.1], ((numFlags w).or (numFlags wv)).or (c.2.or (numFlags c.1)))
  else if fpClass d.cls then (accVals d.cls a, {})
  else ((accVals d.cls a).map (Num.shift (-(d.oshift : Int))), {})

/-- Issuer values that stochastic rounding takes (R48). -/
structure Stream where
  seed : DWord
  step : Word
  base : Word
deriving DecidableEq, Repr

def roundAt (rnd : Nat) (z : Stream) (idx : Nat) : Rnd := rndOf rnd z.seed z.step z.base idx

/-- Bits that one column of D takes. -/
def dBits (d : Mat) : Nat := if d.cls = .complex && d.fd < 0xD then 2 * fmtBits d.fd else fmtBits d.fd

/-- Pattern of an output element at linear index idx (R48 to R50). -/
def outPattern (cx : Bool) (fd rnd : Nat) (sat : Bool) (z : Stream) (idx : Nat) (vs : List Num) : Nat × AFlags :=
  match vs with
  | [x, y] =>
    let f := if fd = 0xD then 0xB else fd
    let i := encodeReal f (roundAt rnd z (2 * idx)) sat x
    let q := encodeReal f (roundAt rnd z (2 * idx + 1)) sat y
    (i.1 + 2 ^ fmtBits f * q.1, i.2.or q.2)
  | [x] => if cx then (0, {}) else encodeReal fd (roundAt rnd z idx) sat x
  | _ => (0, {})

/-- A row's unused bits of its last group written as 0 (R33). -/
def padRow (st : Memory) (a fd bits n : Nat) : Memory :=
  let grp := if fd = 0x6 || fd = 0x7 then 24 else 8
  let used := n * bits
  let rest := cdiv used grp * grp - used
  if rest = 0 then st else writeBits st a used rest 0

/-- What a block leaves: the store, flags, bytes of D written, bytes of C read. -/
structure BlockOut where
  st     : Memory
  flags  : AFlags
  wbytes : Nat
deriving DecidableEq, Repr

/-- Columns of one row of a block written, element formats (not CBFP, not scaled). The unused bits of the row's last group are written with its last column; where that column is masked and not written they keep their values (DESIGN CHOICE, log entry 97). -/
def writeRowPlain (d : Mat) (st0 : Memory) (b : Bank) (z : Stream) (i row bn : Nat) (act : Bool) (o : BlockOut) : BlockOut :=
  let a := d.db + row * d.pd
  let cols := (blockCols d bn).filter (fun j => (act && colActive d st0 j) || d.mwr)
  let r := cols.foldl (fun (p : Memory × AFlags) j =>
    if act && colActive d st0 j then
      let v := outVals d st0 i j row (b.cell i j)
      let w := outPattern (d.cls = .complex) d.fd d.rnd d.sat z (row * d.n + j) v.1
      (writeBits p.1 a (j * dBits d) (dBits d) w.1, (p.2.or v.2).or w.2)
    else (writeBits p.1 a (j * dBits d) (dBits d) 0, p.2)) (o.st, o.flags)
  let st1 := if cols.any (· + 1 = d.n) then padRow r.1 a d.fd (dBits d) d.n else r.1
  { st := st1, flags := r.2, wbytes := o.wbytes + cdiv (cols.length * dBits d) 8 }

/-- A cell at its final value: of this output block, or of an earlier block column whose samples share a CBFP block with it. -/
def finalCell (d : Mat) (st : Memory) (b : Bank) (bn i j : Nat) : Acc :=
  if j / 64 = bn then b.cell i j else cellSpan d st i j none 0 (groupCount d) (cellStart d st i j)

/-- A cell's output components, +0 where it is masked. -/
def maskedVals (d : Mat) (st0 : Memory) (b : Bank) (bn i j row : Nat) (act : Bool) : List Num × AFlags :=
  if act && colActive d st0 j then outVals d st0 i j row (finalCell d st0 b bn i j)
  else (if d.cls = .complex then [.fin false 0 0, .fin false 0 0] else [.fin false 0 0], {})

/-- Scaled output of one row of a block: blocks of 32 along n (R45). -/
def writeRowScaled (d : Mat) (st0 : Memory) (b : Bank) (z : Stream) (i row bn : Nat) (act : Bool) (o : BlockOut) : BlockOut :=
  let a := d.db + row * d.pd
  let nbs := (List.range 2).map (2 * bn + ·) |>.filter (fun nb => 32 * nb < d.n)
  nbs.foldl (fun o nb =>
    let js := (List.range (min 32 (d.n - 32 * nb))).map (32 * nb + ·)
    let vs := js.map (fun j => maskedVals d st0 b bn i j row act)
    let e := scaledBlock d.fd ((js.zip vs).map (fun p =>
      (p.2.1.headD (.fin false 0 0), roundAt d.rnd z (row * d.n + p.1))))
    let st1 := (js.zip e.2.1).foldl (fun m p => writeBits m a (p.1 * fmtBits d.fd) (fmtBits d.fd) p.2) o.st
    let st2 := if js.any (· + 1 = d.n) then padRow st1 a d.fd (fmtBits d.fd) d.n else st1
    { st := Memory.write (d.sd + row * cdiv d.n 32 + nb) (BitVec.ofNat 8 e.1) st2,
      flags := ((vs.map (·.2)).foldl AFlags.or o.flags).or e.2.2,
      wbytes := o.wbytes + cdiv (js.length * fmtBits d.fd) 8 }) o

/-- CBFP output of one row: the CBFP blocks whose last sample lies in this output block (R40). -/
def writeRowCbfp (d : Mat) (st0 : Memory) (b : Bank) (z : Stream) (i row bn : Nat) (act : Bool) (o : BlockOut) : BlockOut :=
  let a := d.db + row * d.pd
  let ks := (List.range (cdiv d.n 12)).filter (fun k =>
    let e := min (12 * k + 11) (d.n - 1)
    64 * bn ≤ e && e < 64 * bn + 64 && (d.mwr || (act && (List.range 12).all (fun x => d.n ≤ 12 * k + x || colActive d st0 (12 * k + x)))))
  ks.foldl (fun o k =>
    let vs := (List.range 12).map (fun x =>
      let j := 12 * k + x
      if j < d.n then (j, maskedVals d st0 b bn i j row act) else (j, ([.fin false 0 0, .fin false 0 0], {})))
    let comps := vs.flatMap (fun p =>
      match p.2.1 with
      | [x, y] => [(x, roundAt d.rnd z (2 * (row * d.n + p.1))), (y, roundAt d.rnd z (2 * (row * d.n + p.1) + 1))]
      | _ => [])
    let r := cbfpBlock d.cwd comps
    { st := Memory.writeN (a + k * cbfpBytes d.cwd) r.1 o.st,
      flags := ((vs.map (fun p => p.2.2)).foldl AFlags.or o.flags).or r.2,
      wbytes := o.wbytes + cbfpBytes d.cwd }) o

/-- The flags of a block's data cells (R56). -/
def Bank.flags (b : Bank) : AFlags := b.cells.foldl (fun fl r => r.foldl (fun fl a => fl.or a.flags) fl) {}

/-- An output block written from its cells (R68, R98). -/
def outBlock (d : Mat) (st : Memory) (b : Bank) (z : Stream) (bm bn : Nat) : BlockOut :=
  (blockRows d bm).foldl (fun o i =>
    let act := rowActive d st i
    match scatRow d st i with
    | none => o
    | some row =>
      if act || d.mwr then
        (if d.scld then writeRowScaled d st b z i row bn act o
         else if d.fd = 0xE then writeRowCbfp d st b z i row bn act o
         else writeRowPlain d st b z i row bn act o)
      else o) { st := st, flags := {}, wbytes := 0 }

/-- Bytes of C read for a block when β ≠ 0 (R68). -/
def cBytes (d : Mat) (st : Memory) (bm bn : Nat) : Nat :=
  if d.beta0 || blockMasked d st bm bn then 0
  else ((blockRows d bm).filter (rowActive d st)).length *
    (if d.fc = 0xE then (cdiv (64 * bn + (blockCols d bn).length) 12 - 64 * bn / 12) * cbfpBytes d.cwc
     else cdiv ((blockCols d bn).length * fmtBits d.fc) 8)

/-- Block rows and block columns of a command. -/
def blocksM (d : Mat) : Nat := cdiv d.m 64
def blocksN (d : Mat) : Nat := cdiv d.n 64

/-- Clocks of R68 before the first block ends: fill and first C, or the decode clock of a K = 0 command (R72, R92). -/
def matStartAc (d : Mat) (st : Memory) : Nat :=
  if d.k = 0 then 1
  else 6 + cdiv ((if d.bma then cdiv d.m 64 * mapRowBytes (cdiv d.k 64) else 0)
        + (if d.bmb then cdiv d.k 64 * mapRowBytes (cdiv d.n 64) else 0)) 128
    + cdiv (cBytes d st 0 0) 1024

/-- Clocks of one block (R68, R72, R90, R92, R95, R98); a block that fails its comparison writes nothing. A masked block of a K = 0 command counts one clock too: R98 names every masked block, and it is neither compared nor, for Wlast, written. -/
def matBlockAc (d : Mat) (st : Memory) (bm bn wbytes : Nat) : Nat :=
  if blockMasked d st bm bn then 1
  else if d.k = 0 then cdiv (cBytes d st bm bn) 1024 + 3 + cdiv wbytes 1024
  else if (List.range (cdiv d.k 64)).all (fun kb => !subPresent d st bm bn kb) then 1
  else cdiv (blockIndices d st bm bn * clk2 d.cls d.fa d.fb) (if d.thin ≠ 0 then 4 else 2)

/-- Clocks after the broadcast of the block that ends a command (R68): drain, comparison, and for a block that passes its write. -/
def matEndAc (d : Mat) (wlast : Nat) : Nat := if d.k = 0 then 0 else 4 + 3 + cdiv wlast 1024

/-- π in units of 2^−100. -/
def piFix : Int := 3982441812995697363688351113952

/-- x × y of values in units of 2^−100. -/
def fixMul (x y : Int) : Int := x * y / 2 ^ 100

/-- Partial sums of the exponential series of ix: cosine and sine of x, in units of 2^−100, n terms from term k. -/
def cosSin : Nat → Nat → Int → Int → Int × Int → Int × Int
  | 0, _, _, _, acc => acc
  | n + 1, k, x, term, acc =>
    let acc' :=
      match k % 4 with
      | 0 => (acc.1 + term, acc.2) | 1 => (acc.1, acc.2 + term) | 2 => (acc.1 - term, acc.2) | _ => (acc.1, acc.2 - term)
    cosSin n (k + 1) x (fixMul term x / (k + 1)) acc'

/-- A value in units of 2^−100 as Q1.15 at nearest, +1 stored as 32,767 (12, "DFT mode"). -/
def romRound (v : Int) : Int := min 32767 ((v + 2 ^ 84) / 2 ^ 85)

/-- ROM entry exp(∓2πj·a/b) (R75): (I, Q) in units of 2^−15. -/
def romEntry (inv : Bool) (a b : Nat) : Int × Int :=
  let cs := cosSin 64 0 (2 * piFix * (a % b : Nat) / b) (2 ^ 100) (0, 0)
  (romRound cs.1, romRound (if inv then cs.2 else -cs.2))

/-- A DFT command (R75). -/
structure Dft where
  log2n : Nat
  inv   : Bool
  nb    : Nat
  sh1   : Nat
  fd    : Nat
  ib    : Nat
  sb    : Nat
  db    : Nat
  pin   : Nat
  pout  : Nat
  rnd   : Nat
  sat   : Bool
  oshift : Nat
deriving DecidableEq, Repr

def decodeDft (ws : List Word) : Dft :=
  let w := wAt ws
  { log2n := fld (w 3) 3 0, inv := bitOf (w 3) 4, nb := fld (w 3) 19 8, sh1 := fld (w 3) 23 20, fd := fld (w 5) 15 12,
    ib := fld (w 6) 18 0, sb := fld (w 8) 18 0, db := fld (w 9) 18 0, pin := fld (w 10) 13 0 * 32, pout := fld (w 10) 27 14 * 32,
    rnd := fld (w 0) 25 24, sat := bitOf (w 0) 23, oshift := fld (w 0) 21 16 }

def Dft.n (d : Dft) : Nat := 2 ^ d.log2n
/-- Columns of pass 1: N = 64 × L (R76). -/
def Dft.l (d : Dft) : Nat := d.n / 64
/-- Output bytes per point. -/
def Dft.outBytes (d : Dft) : Nat := if d.fd = 0xD then 4 else 2 * fmtBits d.fd / 8

def dftReads (d : Dft) : List Ext := [{ base := d.ib, pitch := d.pin, rows := d.nb, len := d.n * 4 }]
/-- Scratch is used by transforms of more than 64 points. -/
def dftScratch (d : Dft) : Ext := flat d.sb (if d.n ≤ 64 then 0 else d.n * 4)
def dftOut (d : Dft) : Ext := { base := d.db, pitch := d.pout, rows := d.nb, len := d.n * d.outBytes }

/-- Every check of a DFT before it executes (R58, R63, R75, R86). SBASE is checked as N × 4 bytes of scratch for every N, also where a transform of at most 64 points uses none: R75 names the field and its extent without that exception (DESIGN CHOICE, log entry 98). -/
def dftOk (d : Dft) (ws : List Word) : Bool :=
  let w := wAt ws
  commonOk ws && !bitOf (w 0) 27 && 4 ≤ d.log2n && d.log2n ≤ 12
  && fld (w 3) 7 5 = 0 && fld (w 3) 31 24 = 0 && fld (w 5) 3 0 = 0xD
  && (d.fd = 0xD || (0x1 ≤ d.fd && d.fd ≤ 0x3)) && fld (w 5) 11 4 = 0 && fld (w 5) 31 16 = 0
  && (dftReads d).all extOk && extOk (flat d.sb (d.n * 4)) && extOk (dftOut d)
  && !(dftReads d).any (extMeets (flat d.sb (d.n * 4))) && !extMeets (flat d.sb (d.n * 4)) (dftOut d)

/-- Complex product of Q1.15 values in units of 2^−30. -/
def cmulI (a b : Int × Int) : Int × Int := (a.1 * b.1 - a.2 * b.2, a.1 * b.2 + a.2 * b.1)
def caddI (a b : Int × Int) : Int × Int := (a.1 + b.1, a.2 + b.2)

/-- A complex value in units of 2^u as CI16 at index idx (R50, R76). -/
def toCi16 (rnd : Nat) (z : Stream) (idx : Nat) (u : Int) (v : Int × Int) : (Int × Int) × AFlags :=
  let i := encodeInt 16 15 (roundAt rnd z (2 * idx)) (numOfInt v.1 u)
  let q := encodeInt 16 15 (roundAt rnd z (2 * idx + 1)) (numOfInt v.2 u)
  ((signed 16 i.1, signed 16 q.1), i.2.or q.2)

/-- One output point written (R50, R76). -/
def dftPut (d : Dft) (z : Stream) (t k : Nat) (v : Int × Int) (o : Memory × AFlags) : Memory × AFlags :=
  let u : Int := -30 - d.oshift
  let p := outPattern true d.fd d.rnd d.sat z (t * d.n + k) [numOfInt v.1 u, numOfInt v.2 u]
  (writeBits o.1 (d.db + t * d.pout) (k * (8 * d.outBytes)) (8 * d.outBytes) p.1, o.2.or p.2)

/-- A transform of at most 64 points (R76). -/
def dftSmall (d : Dft) (st : Memory) (z : Stream) (t : Nat) : Memory × AFlags :=
  (List.range d.n).foldl (fun o k =>
    let v := ((List.range d.n).map (fun n => cmulI (readCplx st 0xD 0 (d.ib + t * d.pin) n) (romEntry d.inv (n * k % d.n) d.n))).foldl caddI (0, 0)
    dftPut d z t k v o) (st, {})

/-- Pass 1 and the twiddle step: Y'[k1, n2] into scratch, at element k1 × L + n2 (R76; the order in scratch is a DESIGN CHOICE, log entry 42). -/
def dftPass1 (d : Dft) (st : Memory) (z : Stream) (t : Nat) : Memory × AFlags :=
  (List.range 64).foldl (fun o k1 =>
    (List.range d.l).foldl (fun o n2 =>
      let v := ((List.range 64).map (fun n1 =>
        cmulI (readCplx st 0xD 0 (d.ib + t * d.pin) (d.l * n1 + n2)) (romEntry d.inv (n1 * k1 % 64) 64))).foldl caddI (0, 0)
      let pos := k1 * d.l + n2
      let y := toCi16 d.rnd z (t * d.n + pos) (-30 - d.sh1) v
      let w := toCi16 d.rnd z (t * d.n + pos) (-30) (cmulI y.1 (romEntry d.inv (n2 * k1 % d.n) d.n))
      (writeBits o.1 d.sb (pos * 32) 32 (twos 16 w.1.1 + 65536 * twos 16 w.1.2), (o.2.or y.2).or w.2)) o) (st, {})

/-- Pass 2 (R76). -/
def dftPass2 (d : Dft) (st : Memory) (z : Stream) (t : Nat) : Memory × AFlags :=
  (List.range 64).foldl (fun o k1 =>
    (List.range d.l).foldl (fun o k2 =>
      let v := ((List.range d.l).map (fun n2 =>
        cmulI (readCplx st 0xD 0 d.sb (k1 * d.l + n2)) (romEntry d.inv (n2 * k2 % d.l) d.l))).foldl caddI (0, 0)
      dftPut d z t (k1 + 64 * k2) v o) o) (st, {})

/-- Array passes of the whole command: one per small transform, two per larger one. -/
def dftBlocks (d : Dft) : Nat := if d.n ≤ 64 then d.nb else 2 * d.nb

/-- Pass b of the command. -/
def dftBlock (d : Dft) (st : Memory) (z : Stream) (b : Nat) : Memory × AFlags :=
  if d.n ≤ 64 then dftSmall d st z b
  else if b % 2 = 0 then dftPass1 d st z (b / 2) else dftPass2 d st z (b / 2)

/-- Clocks of pass b (R77): each further transform takes 6 ac less; a pass that fails its comparison takes neither twiddle step nor write. -/
def dftBlockAc (d : Dft) (b : Nat) (fails : Bool) : Nat :=
  let w := if fails then 0 else cdiv (d.n * d.outBytes) 1024
  if d.n ≤ 64 then (if b = 0 then 6 else 0) + 16 * d.n + 4 + 3 + w
  else if b % 2 = 0 then (if b = 0 then 6 else 0) + 1024 + 4 + 3 + (if fails then 0 else 16)
  else 6 + 16 * d.l + 4 + 3 + w

/-- An injected flip in pass b lands on an active cell (R76, R531): exact comparison always sees it. -/
def dftInjectionFails (d : Dft) (b arg : Nat) : Bool :=
  let i := arg % 64
  let j := arg / 64 % 64
  if d.n ≤ 64 then i < d.n && j = 0 else if b % 2 = 0 then j < d.l else j < d.l

/-- A GATE command's fields (R99). -/
structure Gate where
  m    : Nat
  init : Bool
  cmp  : Nat
  thresh : Word
  fv   : Nat
  vb   : Nat
  mkb  : Nat
  sum  : Nat
deriving DecidableEq, Repr

def decodeGate (ws : List Word) : Gate :=
  let w := wAt ws
  { m := fld (w 3) 15 0, init := bitOf (w 3) 16, cmp := fld (w 3) 18 17, thresh := w 4, fv := fld (w 5) 3 0,
    vb := fld (w 6) 18 0, mkb := fld (w 7) 18 0, sum := fld (w 8) 18 0 }

/-- Extents of a GATE (R99). -/
def gateVals (g : Gate) : Ext := flat g.vb (if g.init then 0 else g.m * (fmtBits g.fv / 8))
def gateMask (g : Gate) : Ext := flat g.mkb (4 * cdiv g.m 32)
def gateSum (g : Gate) : Ext := flat g.sum 16

def gateOk (g : Gate) (ws : List Word) : Bool :=
  let w := wAt ws
  commonOk ws && !bitOf (w 0) 27 && fld (w 3) 31 19 = 0 && g.cmp < 2 && 0x1 ≤ g.fv && g.fv ≤ 0x3 && fld (w 5) 31 4 = 0
  && addrWordOk (w 6) && addrWordOk (w 7) && addrWordOk (w 8) && ((List.range 7).all (fun i => w (9 + i) = 0#32))
  && extOk (gateVals g) && extOk (gateMask g) && extOk (gateSum g)

/-- A token's value retires it (R100): a NaN never does. -/
def gateRetires (g : Gate) (v : Num) : Bool :=
  if v.isNan then false
  else if g.cmp = 0 then Num.le (ofFp32 g.thresh) v else Num.le v (ofFp32 g.thresh)

/-- GATE's effect on the store, and NAN_SEEN (R100). -/
def gateRun (g : Gate) (st : Memory) : Memory × AFlags :=
  if g.init then
    let words := cdiv g.m 32
    let mask := leBytes (4 * words) (2 ^ g.m - 1)
    (Memory.writeN g.sum (leBytes 16 (g.m * 2 ^ 64)) (Memory.writeN g.mkb mask st), {})
  else
    let live := (List.range g.m).filter (bitAt st g.mkb)
    let w := fmtBits g.fv
    let val (t : Nat) : Num := (decodeReal g.fv (readBits st (g.vb + t * (w / 8)) 0 w)).1
    let ret := live.filter (fun t => gateRetires g (val t))
    let st1 := ret.foldl (fun m t => writeBits m g.mkb t 1 0) st
    let nan := live.any (fun t => (val t).isNan)
    (Memory.writeN g.sum (leBytes 16 (live.length + ret.length * 2 ^ 32 + (live.length - ret.length) * 2 ^ 64)) st1,
      { nanSeen := nan })

/-- Clocks of a GATE (R101). -/
def gateAc (g : Gate) : Nat := 3 + cdiv (g.m * (if g.init then 0 else fmtBits g.fv / 8)) 128

/-- LOAD and STORE fields (R78). -/
structure Xfer where
  rows : Nat
  cols : Nat
  addr : Nat
  taddr : Nat
  mp   : Nat
  tp   : Nat
  fs   : Nat
  fd   : Nat
  cws  : Nat
  cwd  : Nat
  rnd  : Nat
  sat  : Bool
deriving DecidableEq, Repr

def decodeXfer (ws : List Word) : Xfer :=
  let w := wAt ws
  { rows := fld (w 3) 15 0, cols := fld (w 3) 31 16, addr := (w 4).toNat + fld (w 5) 15 0 * 2 ^ 32, taddr := fld (w 6) 18 0,
    mp := fld (w 7) 23 0, tp := fld (w 8) 13 0 * 32, fs := fld (w 9) 3 0, fd := fld (w 9) 7 4, cws := fld (w 9) 9 8,
    cwd := fld (w 9) 11 10, rnd := fld (w 0) 25 24, sat := bitOf (w 0) 23 }

/-- Bytes of n elements of the source, and of what they become (R78): equal formats move bytes unchanged. -/
def xferSrcN (x : Xfer) (n : Nat) : Nat := rowBytes x.fs x.cws n
def xferDstN (x : Xfer) (n : Nat) : Nat :=
  if x.fs = x.fd then xferSrcN x n
  else if 0xD ≤ x.fs && x.fs ≤ 0xE && x.fd < 0xD then rowBytes x.fd 0 (2 * n)
  else rowBytes x.fd x.cwd n

/-- Bytes of a source row and of a destination row. -/
def xferSrcRow (x : Xfer) : Nat := xferSrcN x x.cols
def xferDstRow (x : Xfer) : Nat := xferDstN x x.cols

/-- The fewest elements that fill whole bytes in both formats, and whole CBFP blocks (R32, R38). -/
def xferUnit (x : Xfer) : Nat :=
  let n (f : Nat) : Nat := if f = 0xE then 12 else if f = 0x6 || f = 0x7 then 4 else if f = 0x8 || f = 0xA then 2 else 1
  max (n x.fs) (n x.fd)

/-- A pairing of formats that moves or converts (R41, R50, R78). -/
def xferPairOk (fs fd : Nat) : Bool :=
  fs ≠ 0 && fd ≠ 0 &&
  (fs = fd || (fs ≠ 0xF && fd ≠ 0xF &&
    (if 0xD ≤ fs then fd = 0xD || fd = 0xE || fd ≤ 0x3 else fd < 0xD)))

def xferTileExt (x : Xfer) (load : Bool) : Ext :=
  { base := x.taddr, pitch := x.tp, rows := x.rows, len := if load then xferDstRow x else xferSrcRow x }

/-- Every check of a LOAD or STORE before translation (R58, R63, R78, R86). -/
def xferOk (x : Xfer) (ws : List Word) (load : Bool) : Bool :=
  let w := wAt ws
  commonOk ws && !bitOf (w 0) 27 && fld (w 5) 31 16 = 0 && fld (w 7) 31 24 = 0
  && fld (w 9) 31 12 = 0 && xferPairOk x.fs x.fd
  && (!(x.fs = 0xE || x.fd = 0xE) || x.cols % 12 = 0)
  && extOk (xferTileExt x load)

/-- n elements of a row from element e0 on, given as bytes in format fs, written in format fd (R39, R49, R50, R78). Equal formats are moved and not read as elements, so they raise no flag (DESIGN CHOICE, log entry 99). -/
def convertElems (x : Xfer) (z : Stream) (row e0 n : Nat) (src : List Byte) : List Byte × AFlags :=
  if x.fs = x.fd then (src, {})
  else
    let m := Memory.writeN 0 src []
    if 0xD ≤ x.fs then
      let comps := (List.range n).map (fun c =>
        let v := readCplx m x.fs x.cws 0 c
        ([numOfInt v.1 (-15), numOfInt v.2 (-15)], row * x.cols + e0 + c))
      if x.fd = 0xE then
        (List.range (n / 12)).foldl (fun (o : List Byte × AFlags) b =>
          let r := cbfpBlock x.cwd (((comps.drop (12 * b)).take 12).flatMap (fun p =>
            match p.1 with
            | [i, q] => [(i, roundAt x.rnd z (2 * p.2)), (q, roundAt x.rnd z (2 * p.2 + 1))]
            | _ => []))
          (o.1 ++ r.1, o.2.or r.2)) ([], {})
      else
        comps.foldl (fun (o : List Byte × AFlags) p =>
          let r := outPattern true x.fd x.rnd x.sat z p.2 p.1
          (o.1 ++ leBytes (if x.fd = 0xD then 4 else 2 * fmtBits x.fd / 8) r.1, o.2.or r.2)) ([], {})
    else
      let ps := (List.range n).map (fun c =>
        let v := decodeReal x.fs (readBits m 0 (c * fmtBits x.fs) (fmtBits x.fs))
        let e := encodeReal x.fd (roundAt x.rnd z (row * x.cols + e0 + c)) x.sat v.1
        (e.1, (e.2.or (numFlags v.1)).or { fmtErr := v.2 }))
      let bits := ps.foldl (fun (a : Nat × Nat) p => (a.1 + p.1 * 2 ^ a.2, a.2 + fmtBits x.fd)) (0, 0)
      (leBytes (rowBytes x.fd 0 n) bits.1, (ps.map (·.2)).foldl AFlags.or {})

/-- A whole row converted. -/
def convertRow (x : Xfer) (z : Stream) (row : Nat) (src : List Byte) : List Byte × AFlags := convertElems x z row 0 x.cols src

/-- What a LOAD's landed bytes of a row fill: they begin at byte base of the row, and end it or not. The destination's bytes, where in the row they go, the flags, and the landed bytes that fill nothing yet (R79, R80). -/
def landElems (x : Xfer) (z : Stream) (row base : Nat) (landed : List Byte) (ends : Bool) : List Byte × Nat × AFlags × List Byte :=
  if x.fs = x.fd then (landed, base, {}, [])
  else
    let u := xferUnit x
    let e0 := base / xferSrcN x u * u
    let n := if ends then x.cols - e0 else landed.length / xferSrcN x u * u
    let take := if ends then landed.length else xferSrcN x n
    let r := convertElems x z row e0 n (landed.take take)
    (r.1, xferDstN x e0, r.2, landed.drop take)

end Sys2Proof.Machine
end

