-- ==== Sys2Proof/Machine/Tile.lean ====
section
/-! DEFINITION. Matrix tiles: the queue, the two engines, records, pre-emption, scrubs (03, 04, 09 R236, 20 R496). -/

namespace Sys2Proof.Machine

/-! Records and their issuers (R60, R62). -/

/-- A completion record (R62). -/
def recordWords (tag : Nat) (b : RecBody) : List Word :=
  [w32 (tag + codeVal b.status * 65536 + b.flags.toNat * 2 ^ 24 + b.ckM / 65536 * 2 ^ 29), w32 b.ac, b.endNs,
   w32 (b.ckM % 65536 + b.ckN * 65536)]

/-- A record on its way to the issuer: a lane context's completion port, or a grove sequencer's request context. -/
def State.deliver (s : State) (who : Issuer) (r : List Word) : State :=
  match who with
  | .lane l c => s.updLctx l.val c.val (fun x => { x with arriving := x.arriving ++ [r] })
  | .seq _ k => s.updCtx k (fun x => { x with recs := x.recs ++ [r] })

def cmdOp (ws : List Word) : Nat := fld (wAt ws 0) 31 28
def cmdTag (ws : List Word) : Nat := fld (wAt ws 0) 15 0
def cmdDeadline (ws : List Word) : Nat := fld (wAt ws 1) 23 0

/-- A body that closes now (R244): its status takes DEADLINE_MISSED under R19. -/
def State.closeBody (s : State) (ws : List Word) (c : Code) (fl : AFlags) (ckM ckN ac : Nat) : RecBody :=
  { status := s.closeCode (cmdDeadline ws) c, flags := fl, ckM := ckM, ckN := ckN, ac := ac, endNs := s.now32,
    late := s.pastTag (cmdDeadline ws) }

/-- A body with no failing block. -/
def State.plainBody (s : State) (ws : List Word) (c : Code) (ac : Nat) : RecBody := s.closeBody ws c {} 0x7FFFF 0xFFFF ac

/-- The domain of a command's issuer. -/
def State.cmdDomain (s : State) (c : TileCmd) : Nat := s.domainOf c.space

/-- Flags of a completed block raise the tile's counters (R56, R502). -/
def State.bumpFlags (s : State) (t : Nat) (f : AFlags) : State :=
  ((((s.bump (pgTile t) 1 (b1 f.nanSeen)).bump (pgTile t) 2 (b1 f.infSeen)).bump (pgTile t) 3 (b1 f.satOut)).bump
    (pgTile t) 4 (b1 f.satAcc)).bump (pgTile t) 5 (b1 f.fmtErr)

/-- The decoded MATMUL or CONV; once it has started, M is the value read at decode (R104). -/
def matFor (ws : List Word) (m : Option Nat) (st : Memory) : Mat :=
  let d := decodeMat ws st
  { d with m := m.getD d.m }

/-! Extents that a command in flight reads and writes (R61). -/

def cmdReads (ws : List Word) (m : Option Nat) (st : Memory) : List Ext :=
  match cmdOp ws with
  | 1 | 2 => matReads (matFor ws m st) st
  | 3 => dftReads (decodeDft ws)
  | 5 => [xferTileExt (decodeXfer ws) false]
  | 8 => let g := decodeGate ws; [gateVals g, gateMask g]
  | _ => []

def cmdWrites (ws : List Word) (m : Option Nat) (st : Memory) : List Ext :=
  match cmdOp ws with
  | 1 | 2 => matWrites (matFor ws m st)
  | 3 => let d := decodeDft ws; [dftScratch d, dftOut d]
  | 4 => [xferTileExt (decodeXfer ws) true]
  | 8 => let g := decodeGate ws; [gateMask g, gateSum g]
  | _ => []

/-- A command in flight and a waiting one share a byte that one of them writes. -/
def cmdsConflict (f : Flight) (b : List Word) (st : Memory) : Bool :=
  let wa := cmdWrites f.cmd.words (some f.m) st
  let wb := cmdWrites b none st
  wa.any (fun x => (wb ++ cmdReads b none st).any (extMeets x)) || wb.any (fun x => (cmdReads f.cmd.words (some f.m) st).any (extMeets x))

/-- The engine of an operation (R61): 0 array, 1 transfer, 2 none. -/
def TileOp.engine : TileOp → Nat
  | .matmul | .conv | .dft | .gate => 0
  | .load | .store => 1
  | .wait | .signal => 2

def opOf : Nat → Option TileOp
  | 1 => some .matmul | 2 => some .conv | 3 => some .dft | 4 => some .load | 5 => some .store
  | 6 => some .wait | 7 => some .signal | 8 => some .gate | _ => none

def Flight.undone (f : Flight) : Bool := f.done.isNone

/-- Nothing of the tile is stopped: commands leave the queue (R59, R83). -/
def Tile.open_ (x : Tile) : Bool := !x.preq && !x.saving && !x.held && !x.scrub && !x.testing

/-- The queue's head may leave it: no WAIT holds it, its engine is free, no earlier command of the other engine conflicts (R61). -/
def Tile.headReady (x : Tile) (c : TileCmd) (op : TileOp) : Bool :=
  x.open_ && !x.flights.any (fun f => f.undone && (f.op = .wait || (f.op.engine = op.engine && op.engine < 2)
    || (f.op.engine < 2 && op.engine < 2 && cmdsConflict f c.words x.store)))

/-- HELD of a context follows its footprint: a tile of it is lent or being spilled (R260). HELDTIME runs while one is lent (R264). -/
def State.heldCheck (s : State) (k : Nat) : State :=
  let c := s.ctx k
  if c.state = .free then s else
  let any (p : TSched → Bool) : Bool := (c.foot ++ c.kept).any (fun t => p (s.tile t).sched)
  let held := any (fun z => z = .spill || z = .lent)
  match any (fun z => z = .lent), c.lentAt with
  | true, none => s.setCtx k { c with held := held, lentAt := some s.now }
  | false, some t0 => s.setCtx k { c with held := held, lentAt := none, heldTime := c.heldTime + (s.now - t0) }
  | _, _ => s.setCtx k { c with held := held }

/-- A tile's scheduler state changes (R236), and with it the HELD flag of the context that holds the tile. -/
def State.toSched (s : State) (t : Nat) (z : TSched) : State :=
  let s1 := s.updTile t (fun x => { x with sched := z })
  match (s.tile t).holder with
  | some k => s1.heldCheck k
  | none => s1

/-- The head leaves the queue as flight f. -/
def State.fly (s : State) (t : Nat) (f : Flight) : State :=
  s.updTile t (fun x => { x with queue := x.queue.tail, flights := x.flights ++ [f] })

def newFlight (c : TileCmd) (op : TileOp) (ac : Nat) : Flight :=
  { cmd := c, op := op, m := 0, block := 0, off := 0, part := [], point := false, flags := {}, ac := ac, inject := none, waits := false, ran := true, done := none }

/-- A lane's refused command counts in the lane's REFUSED and in the tile's (R24, R134, R502). -/
def State.countRefusal (s : State) (t : Nat) (who : Issuer) : State :=
  match who with
  | .lane l _ => (s.bump (pgLane l.val) 2 1).bump (pgTile t) 6 1
  | .seq _ _ => s

/-- The head is refused, or completes with EMPTY, at decode: one clock. R72 gives it for an empty MATMUL, CONV or DFT; for a command refused at decode, and for an empty GATE, LOAD, STORE or SIGNAL, where R101's formula and R81 speak of commands that run, the model takes the same clock (DESIGN CHOICE, log entry 102). -/
def State.flyDone (s : State) (t : Nat) (c : TileCmd) (op : TileOp) (code : Code) : State :=
  (if code = .configInvalid then s.countRefusal t c.issuer else s).fly t
    { newFlight c op 1 with ran := false, done := some (s.plainBody c.words code 1) }

/-- Commands of an unknown OP at the head are refused at decode (R63). -/
def State.dropUnknown (s : State) (t : Nat) : Nat → State
  | 0 => s
  | fuel + 1 =>
    match (s.tile t).queue with
    | c :: _ =>
      if (opOf (cmdOp c.words)).isNone && (s.tile t).headReady c .wait then
        (s.flyDone t c .wait (if (s.tile t).suspect then .checksumFault else .configInvalid)).dropUnknown t fuel
      else s
    | [] => s

/-- A row of the table starts the command at the head of a tile's queue, if it is that row's operation and may leave; a suspect tile refuses it (R71). -/
def State.startHead (s : State) (t : Nat) (op : TileOp) (start : State → TileCmd → State) : State :=
  let s1 := s.dropUnknown t 16
  match (s1.tile t).queue with
  | [] => s1
  | c :: _ =>
    if opOf (cmdOp c.words) = some op && (s1.tile t).headReady c op then
      (if (s1.tile t).suspect then s1.flyDone t c op .checksumFault else start s1 c)
    else s1

/-- Rows of a GATHER or SCAT index list past GROWS are counted (R102). -/
def badIndices (d : Mat) (st : Memory) : Nat :=
  if d.gather || d.scat then ((List.range d.m).filter (fun i => d.grows ≤ leNat (st.readN (d.idx + 8 * i) 2))).length else 0

/-- An armed TILE_ACC injection goes with the first array command of domain 0 that passes decode (R500, R531). -/
def State.tileInj (s : State) (t : Nat) (c : TileCmd) : Option Nat × State :=
  if s.cmdDomain c = 0 then s.useInj 1 t else (none, s)

/-- A MATMUL or CONV starts (R64, R73). -/
def State.startMat (t : Nat) (op : TileOp) (s : State) (c : TileCmd) : State :=
  let st := (s.tile t).store
  let d := decodeMat c.words st
  if !matOk d c.words st then s.flyDone t c op .configInvalid
  else if d.m = 0 || d.n = 0 then s.flyDone t c op .empty
  else
    let (inj, s1) := s.tileInj t c
    (s1.bump (pgTile t) 10 (badIndices d st)).fly t { newFlight c op (matStartAc d st) with m := d.m, inject := inj }

/-- A DFT starts (R75). -/
def State.startDft (t : Nat) (s : State) (c : TileCmd) : State :=
  let d := decodeDft c.words
  if !dftOk d c.words then s.flyDone t c .dft .configInvalid
  else if d.nb = 0 then s.flyDone t c .dft .empty
  else
    let (inj, s1) := s.tileInj t c
    s1.fly t { newFlight c .dft 0 with inject := inj }

def execMatmul (t : TileId) (s : State) : Ans := .next (s.startHead t.val .matmul (State.startMat t.val .matmul))
def execConv (t : TileId) (s : State) : Ans := .next (s.startHead t.val .conv (State.startMat t.val .conv))
def execDft (t : TileId) (s : State) : Ans := .next (s.startHead t.val .dft (State.startDft t.val))

/-- The memory rows of a LOAD or STORE: address and bytes of each (R78). -/
def xferMemRow (x : Xfer) (load : Bool) : Nat := if load then xferSrcRow x else xferDstRow x

/-- Every page of the extent is translated before the first byte moves (R79). -/
def State.xferCode (s : State) (sp : Space) (x : Xfer) (load : Bool) : Code :=
  codePick ((List.range x.rows).map (fun r =>
    if load then s.accCode sp (x.addr + r * x.mp) (xferMemRow x load) else s.storeCode sp (x.addr + r * x.mp) (xferMemRow x load)))

/-- A LOAD or STORE starts (R78, R79): its clocks are a value the manual gives no figure for. -/
def State.startXfer (t : Nat) (op : TileOp) (load : Bool) (s : State) (c : TileCmd) : State :=
  let x := decodeXfer c.words
  if !xferOk x c.words load then s.flyDone t c op .configInvalid
  else if x.rows = 0 || x.cols = 0 then s.flyDone t c op .empty
  else
    match s.xferCode c.space x load with
    | .ok =>
      let ac := Sys2Proof.Config.activeAc s.fresh
      ({ s with fresh := s.fresh + 1 }).fly t (newFlight c op ac)
    | code =>
      -- the clocks that translation took before the page that failed are a value the manual gives no figure for
      let ac := Sys2Proof.Config.activeAc s.fresh
      ({ s with fresh := s.fresh + 1 }).fly t { newFlight c op ac with ran := false, done := some (s.plainBody c.words code ac) }

def execLoad (t : TileId) (s : State) : Ans := .next (s.startHead t.val .load (State.startXfer t.val .load true))
def execStore (t : TileId) (s : State) : Ans := .next (s.startHead t.val .store (State.startXfer t.val .store false))

/-- Fields of WAIT and SIGNAL (R81): the table documents no field as 0 beyond the common words. -/
def ctrCmdOk (ws : List Word) : Bool := commonOk ws && !bitOf (wAt ws 0) 27

/-- Clocks of a WAIT: a free value (log entry 23). -/
def State.freeAc (s : State) : Nat × State := (Sys2Proof.Config.activeAc s.fresh, { s with fresh := s.fresh + 1 })

def State.startWait (t : Nat) (s : State) (c : TileCmd) : State :=
  if ctrCmdOk c.words && s.ctrHeld (s.cmdDomain c) (fld (wAt c.words 3) 15 0) then
    let (ac, s1) := s.freeAc
    s1.fly t (newFlight c .wait ac)
  else s.flyDone t c .wait .configInvalid

def State.startSignal (t : Nat) (s : State) (c : TileCmd) : State :=
  if ctrCmdOk c.words && s.ctrHeld (s.cmdDomain c) (fld (wAt c.words 3) 15 0) then
    if wAt c.words 4 = 0#32 then s.flyDone t c .signal .empty
    else
      let (ac, s1) := s.freeAc
      s1.fly t (newFlight c .signal ac)
  else s.flyDone t c .signal .configInvalid

def execWait (t : TileId) (s : State) : Ans := .next (s.startHead t.val .wait (State.startWait t.val))
def execSignal (t : TileId) (s : State) : Ans := .next (s.startHead t.val .signal (State.startSignal t.val))

/-- A GATE runs in its own step: it has no pre-emption point inside (R100, R101). -/
def State.startGate (t : Nat) (s : State) (c : TileCmd) : State :=
  let g := decodeGate c.words
  if !gateOk g c.words then s.flyDone t c .gate .configInvalid
  else if g.m = 0 then s.flyDone t c .gate .empty
  else
    let r := gateRun g (s.tile t).store
    ((s.fly t { newFlight c .gate (gateAc g) with
      flags := r.2, done := some (s.closeBody c.words .ok r.2 0x7FFFF 0xFFFF (gateAc g)) }).updTile t (fun x => { x with store := r.1 })).bumpFlags t r.2

def execGate (t : TileId) (s : State) : Ans := .next (s.startHead t.val .gate (State.startGate t.val))

/-- The first undone flight of an engine's operations. -/
def Tile.flightIdx (x : Tile) (p : Flight → Bool) : Option Nat := x.flights.findIdx? p

def Tile.putFlight (x : Tile) (i : Nat) (f : Flight) : Tile := { x with flights := x.flights.set i f }

/-- The counter is satisfied (R81). -/
def ctrReached (v thresh : Word) : Bool := decide ((v - thresh).toNat < 2 ^ 31)

/-- TILE_WAIT_SATISFIED: the pending WAIT finds its counter at the threshold (R81). -/
def execTileWaitSatisfied (t : TileId) (s : State) : Ans :=
  let x := s.tile t.val
  match x.flightIdx (fun f => f.undone && f.op = .wait) with
  | none => .next s
  | some i =>
    match x.flights[i]? with
    | none => .next s
    | some f =>
      if x.open_ && ctrReached (s.ctr (t.val / 256) (fld (wAt f.cmd.words 3) 15 0)) (wAt f.cmd.words 4) then
        .next (s.setTile t.val (x.putFlight i { f with done := some (s.plainBody f.cmd.words .ok f.ac) }))
      else .next s

/-- The lending of a lent tile that the next plan drops ends with a release SIGNAL (R234). -/
def State.releaseLent (s : State) (t : Nat) : State :=
  if (s.tile t).sched = .lent && !(s.sched (t / 256)).plan.contains t then s.toSched t .drain else s

/-- SIGNAL_APPLY: every earlier command has completed and its writes are visible (R81, R234). -/
def execSignalApply (t : TileId) (s : State) : Ans :=
  let x := s.tile t.val
  match x.flightIdx (fun f => f.undone) with
  | none => .next s
  | some i =>
    match x.flights[i]? with
    | none => .next s
    | some f =>
      if f.op = .signal && x.open_ then
        let c := fld (wAt f.cmd.words 3) 15 0
        let s1 := (s.raiseCtr (t.val / 256) c (wAt f.cmd.words 4)).setTile t.val
          (x.putFlight i { f with done := some (s.plainBody f.cmd.words .ok f.ac) })
        .next (if c = 0xFFFF then s1.releaseLent t.val else s1)
      else .next s

/-! Output blocks (R68 to R72, R76). -/

/-- What one block's end leaves: the store, flags, clocks, and whether the comparison failed. -/
structure BlockEnd where
  store : Memory
  flags : AFlags
  ac    : Nat
  fails : Bool
  bm    : Nat
  bn    : Nat
  last  : Bool
  skips : Nat
  skipK : Nat
  masked : Nat
deriving DecidableEq, Repr

/-- The end of block b of a MATMUL or CONV: blocks run down the block rows of each block column (R68). from_ is the K-block boundary where the block was stopped and its cells there. A block that fails ends the command at its comparison, and its reads and sums have set their flags. -/
def matBlockEnd (d : Mat) (st : Memory) (z : Stream) (b : Nat) (inj : Option Nat) (from_ : Option (Nat × Bank)) (fault : Bool) : BlockEnd :=
  let bm := b % blocksM d
  let bn := b / blocksM d
  let masked := blockMasked d st bm bn
  let bank := blockBank d st bm bn inj from_
  let seen := (readFlags d st bm bn).or bank.flags
  let fails := blockFails d st bm bn bank fault
  let o := if fails then { st := st, flags := {}, wbytes := 0 } else outBlock d st bank z bm bn
  let last := b + 1 = blocksM d * blocksN d
  let absent := if masked || d.k = 0 then 0 else ((List.range (cdiv d.k 64)).filter (fun kb => !subPresent d st bm bn kb)).length
  { store := o.st, flags := seen.or o.flags,
    ac := matBlockAc d st bm bn o.wbytes + (if fails || last then matEndAc d (if masked then 0 else o.wbytes) else 0),
    fails := fails, bm := bm, bn := bn, last := last, skips := absent,
    skipK := if d.zdrop && !masked && d.k ≠ 0 then
        ((List.range d.k).filter (fun k => liveIndex { d with zdrop := false } st bm bn k && !liveIndex d st bm bn k)).length else 0,
    masked := b1 masked }

/-- The end of pass b of a DFT (R76). -/
def dftBlockEnd (d : Dft) (st : Memory) (z : Stream) (b : Nat) (inj : Option Nat) (fault : Bool) : BlockEnd :=
  let fails := fault || (match inj with | some a => dftInjectionFails d b a | none => false)
  let o := if fails then (st, ({} : AFlags)) else dftBlock d st z b
  { store := o.1, flags := o.2, ac := dftBlockAc d b fails, fails := fails, bm := 0, bn := 0, last := b + 1 = dftBlocks d,
    skips := 0, skipK := 0, masked := 0 }

def Flight.blockEnd (f : Flight) (st : Memory) (from_ : Option (Nat × Bank)) (fault : Bool) : BlockEnd :=
  let z : Stream := { seed := f.cmd.seed, step := f.cmd.step, base := wAt f.cmd.words 2 }
  if f.op = .dft then dftBlockEnd (decodeDft f.cmd.words) st z f.block f.inject fault
  else matBlockEnd (matFor f.cmd.words (some f.m) st) st z f.block f.inject from_ fault

/-- OUTPUT_BLOCK_END: the running array command's next block is compared, then written; a failed comparison ends the command (R69, R70). fault says that the silicon made a comparison fail. -/
def execOutputBlockEnd (t : TileId) (fault : Bool) (s : State) : Ans :=
  let x := s.tile t.val
  if x.held || x.scrub || x.saving then .next s else
  match x.flightIdx (fun f => f.undone && f.op.engine = 0) with
  | none => .next s
  | some i =>
    match x.flights[i]? with
    | none => .next s
    | some f =>
      let e := f.blockEnd x.store x.bank fault
      let fl := f.flags.or e.flags
      let ac := f.ac + e.ac
      if e.fails then
        let b := s.closeBody f.cmd.words .checksumFault fl e.bm e.bn ac
        let s1 := (s.setTile t.val { x.putFlight i { f with flags := fl, ac := ac, inject := none, done := some b } with bank := none }).bump (pgTile t.val) 0 1
        .next (((s1.bump (pgTile t.val) 7 e.skips).bump (pgTile t.val) 8 e.skipK).bumpFlags t.val fl)
      else
        let done := if e.last then some (s.closeBody f.cmd.words .ok fl 0x7FFFF 0xFFFF ac) else none
        let s1 := s.setTile t.val { x.putFlight i { f with flags := fl, ac := ac, block := f.block + 1, inject := none, done := done } with store := e.store, bank := none }
        let s2 := ((s1.bump (pgTile t.val) 7 e.skips).bump (pgTile t.val) 8 e.skipK).bump (pgTile t.val) 9 e.masked
        .next (if e.last then s2.bumpFlags t.val fl else s2)

/-! Records (R62, R71, R244). -/

/-- The run of checksum faults after a record, and SUSPECT (R71). -/
def State.faultRunAfter (s : State) (t : Nat) (f : Flight) (b : RecBody) : State :=
  if f.ran && (f.op = .matmul || f.op = .conv || f.op = .dft) then
    let n := if b.status = .checksumFault then (s.tile t).faultRun + 1 else 0
    let s1 := s.updTile t (fun x => { x with faultRun := n })
    if 2 ≤ n && !(s1.tile t).suspect then
      ((s1.updTile t (fun x => { x with suspect := true, testPass := false })).level (pgTile t) 1 true).overCheck (t / 256)
    else s1
  else s

/-- A miss of a command's issuer is counted (R245). -/
def State.missIssuer (s : State) (die : Nat) (who : Issuer) : State :=
  match who with
  | .lane l c => s.missCell die (s.ctxCell l.val c.val)
  | .seq _ k => s.missInst die (s.ctx k).inst

/-- TILE_RECORD_POST: the oldest command out of the queue, completed, posts its record (R62). A late one counts as a miss, where STATUS carries a code of lower rank too (R19, R245). -/
def execTileRecordPost (t : TileId) (s : State) : Ans :=
  let x := s.tile t.val
  if x.held || x.scrub || x.saving then .next s else
  match x.flights with
  | [] => .next s
  | f :: rest =>
    match f.done with
    | none => .next s
    | some b =>
      let s1 := (s.setTile t.val { x with flights := rest }).deliver f.cmd.issuer (recordWords (cmdTag f.cmd.words) b)
      let s2 := if bitOf (wAt f.cmd.words 0) 26 then s1.pulse (pgTile t.val) 0 else s1
      let s3 := s2.faultRunAfter t.val f b
      .next (if b.late then s3.missIssuer (t.val / 256) f.cmd.issuer else s3)

/-! Pre-emption (R82, R83). -/

/-- A tile is asked to stop: TILE_CTRL.PREQ written by the device. -/
def State.preqTile (s : State) (t : Nat) : State :=
  let x := s.tile t
  if x.held || x.saving || x.scrub then s else s.setTile t { x with preq := true, xferPoint := false }

/-- A tile with a tenant's work is pre-empted only for a borrow (R239), or with the context of an instance that squashes (R326). -/
def State.preqAllowed (s : State) (t : Nat) : Bool :=
  let x := s.tile t
  let tenant := x.live.isSome || x.queue.any (fun c => (seqCtx c.issuer).isSome) || x.flights.any (fun f => (seqCtx f.cmd.issuer).isSome)
  !tenant || x.sched = .preempt || (match x.holder with | some k => (s.ctx k).noRec | none => false)

/-- PREQ: the device writes TILE_CTRL.PREQ (R83). -/
def execPreq (t : TileId) (s : State) : Ans := .next (if s.preqAllowed t.val then s.preqTile t.val else s)

/-- The transfer engine stands at a pre-emption point: no transfer, one that has moved nothing or 64 KiB more, or one stopped after 4,096 ac (R80; that a transfer which has moved nothing stands at one is a DESIGN CHOICE, log entry 65). -/
def Tile.xferStops (x : Tile) : Bool :=
  match x.flights.find? (fun f => f.undone && f.op.engine = 1) with
  | none => true
  | some f => x.xferPoint || (f.block = 0 && f.off = 0) || f.point

/-- The running MATMUL or CONV, its block, and the K-blocks of that block that lie before its last boundary inside the block (R82). -/
def Tile.running (x : Tile) : Option (Flight × Mat × Nat) :=
  match x.flights.find? (fun f => f.undone && (f.op = .matmul || f.op = .conv)) with
  | none => none
  | some f =>
    let d := matFor f.cmd.words (some f.m) x.store
    some (f, d, cdiv (groupCount d) blockGroups - 1)

/-- The array engine stops at boundary q of its output block: the accumulators and the checksum cells stand as they are there (R82, R83). An injection that landed before it stands in the cells. -/
def Tile.stopAt (x : Tile) (q : Nat) : Tile :=
  match x.running with
  | none => x
  | some (f, d, _) =>
    { x with bank := some (q, bankUntil d x.store (f.block % blocksM d) (f.block / blocksM d) f.inject x.bank q),
             flights := x.flights.map (fun y => if y.undone && y.op.engine = 0 then { y with inject := none } else y) }

/-- PREEMPTION_POINT_REACHED: both engines stop and the save begins (R83). The array engine stands between blocks or passes, or at a K-block boundary of its block at or past the one it went on from: which one is a free value (DESIGN CHOICE, log entry 103). -/
def execPreemptionPointReached (t : TileId) (s : State) : Ans :=
  let x := s.tile t.val
  if x.preq && !x.saving && x.xferStops then
    let p := match x.bank with | some b => b.1 | none => 0
    match x.running with
    | none => .next (s.setTile t.val { x with saving := true })
    | some (_, _, n) =>
      if n ≤ p then .next (s.setTile t.val { x with saving := true })
      else
        let (v, s1) := s.takeFree
        let q := p + v % (n + 1 - p)
        .next (s1.setTile t.val { (if p < q then x.stopAt q else x) with saving := true })
  else .next s

/-- TRANSFER_PREEMPT_TIMEOUT: a transfer stops at its present line (R80). -/
def execTransferPreemptTimeout (t : TileId) (s : State) : Ans :=
  let x := s.tile t.val
  if x.preq && x.flights.any (fun f => f.undone && f.op.engine = 1) then .next (s.setTile t.val { x with xferPoint := true }) else .next s

/-- A scrub of a tile begins: HELD falls, queue and engine state go (R59, R84). -/
def State.startScrub (s : State) (t : Nat) : State :=
  let s1 := s.updTile t (fun x => { x with scrub := true, held := false, preq := false, saving := false, xferPoint := false,
                                           bank := none, queue := [], flights := [], saved := none })
  if bitOf (s1.evtRaw (pgTile t)) 2 then s1.level (pgTile t) 2 false else s1

/-- TILE_SAVE_COMPLETE: HELD is set; a borrowed tile goes on to its spill or its scrub (R83, R232, R236). -/
def execTileSaveComplete (t : TileId) (s : State) : Ans :=
  let x := s.tile t.val
  if x.saving then
    let s1 := (s.setTile t.val { x with saving := false, preq := false, held := true,
                                        saved := some { queue := x.queue, flights := x.flights, bank := x.bank } }).level (pgTile t.val) 2 true
    .next (if x.sched = .preempt then
        (if x.live.isSome then s1.toSched t.val .spill else (s1.startScrub t.val).toSched t.val .scrubIn)
      else s1)
  else .next s

/-- A held tile goes on from its save area (R83). -/
def State.resumeTile (s : State) (t : Nat) : State :=
  let x := s.tile t
  if x.held then
    (s.setTile t { x with held := false, saved := none, preq := false, xferPoint := false }).level (pgTile t) 2 false
  else s

/-- RESUME: the device writes TILE_CTRL.RESUME (R83). -/
def execResume (t : TileId) (s : State) : Ans := .next (s.resumeTile t.val)

/-- SUSPECT_CLR: accepted only after a passing TILE test; otherwise ignored and counted (R71, R496). -/
def hostSuspectClr (t : TileId) (s : State) : Ans :=
  let x := s.tile t.val
  if x.suspect && x.testPass && !x.testing then
    .next (((s.setTile t.val { x with suspect := false, testPass := false, faultRun := 0 }).level (pgTile t.val) 1 false).overCheck (t.val / 256))
  else .next (s.bump (pgTile t.val) 11 1)

/-- TILE_SCRUB_COMPLETE: the store, accumulators and checksum cells are zero; a borrow or a return goes on (R59, R233, R235, R236). -/
def execTileScrubComplete (t : TileId) (s : State) : Ans :=
  let x := s.tile t.val
  if !x.scrub then .next s else
    let y := { x with store := [], scrub := false, lastInst := none }
    let d := t.val / 256
    match x.sched with
    | .scrubIn =>
      if (s.sched d).cur.contains t.val then
        .next ((((s.setTile t.val y).toSched t.val .lent).bump (pgSds d) 1 1).sdsEvent d 1)
      else .next ((s.setTile t.val y).toSched t.val .standby)
    | .scrubOut =>
      if x.image.isSome && !x.imageLost && !x.dropImage then .next ((s.setTile t.val y).toSched t.val .restore)
      else .next ((s.setTile t.val { y with image := none, imageLost := false, dropImage := false }).toSched t.val .none)
    -- selected for a borrow while it was being scrubbed: PREQ stands from here
    | .preempt => .next ((s.setTile t.val y).preqTile t.val)
    | _ => .next (s.setTile t.val y)

/-- TILE_CTRL_HOST_WRITE: 1 in PREQ or RESUME is ignored and counted in REFUSED (R515). -/
def hostTileCtrlHostWrite (t : TileId) (v : Word) (s : State) : Ans :=
  .next (s.bump (pgTile t.val) 6 (b1 (bitOf v 0) + b1 (bitOf v 1)))

/-! A command reaches a tile's queue (R24, R60). -/

/-- Domain d may write commands to the tile now: it holds the tile, or radio has it lent, or in DRAIN until the period ends; a tile lent or on its way is not the tenant's (R24, R60, R235, R236). -/
def State.tileHeldBy (s : State) (t d : Nat) : Bool :=
  let x := s.tile t
  s.tileLive t &&
  (if d = 0 then x.sched = .lent || (x.sched = .drain && (s.sched (t / 256)).cur.contains t) || (s.tileOwner t = some 0 && x.sched ≠ .drain)
   else s.tileOwner t = some d && x.sched ≠ .lent && x.sched ≠ .standby && x.sched ≠ .drain && x.sched ≠ .scrubOut && x.sched ≠ .scrubIn)

def State.queueFull (s : State) (t : Nat) : Bool := 16 ≤ (s.tile t).queue.length

/-- A command enters a queue that has room. -/
def State.enqueue (s : State) (t : Nat) (c : TileCmd) : State := s.updTile t (fun x => { x with queue := x.queue ++ [c] })

/-- A sequencer's command that a tile refuses at its queue: the tile counts it, and its record is posted at once, with the completion event where EVT asks for it (R60, R63). It never starts, so its ACTIVE_AC is 0 (DESIGN CHOICE, log entry 102). -/
def State.refuseAtQueue (s : State) (t : Nat) (c : TileCmd) : State :=
  let b := s.plainBody c.words .configInvalid 0
  let s1 := (s.bump (pgTile t) 6 1).deliver c.issuer (recordWords (cmdTag c.words) b)
  let s2 := if bitOf (wAt c.words 0) 26 then s1.pulse (pgTile t) 0 else s1
  if b.late then s2.missIssuer (t / 256) c.issuer else s2

end Sys2Proof.Machine
end

