-- ==== Sys2Proof/Machine/Lane.lean ====
section
/-! DEFINITION. DSP lanes: the instruction word, move slots, faults, and the running of one instruction (05 R114 to R133, R143). -/

namespace Sys2Proof.Machine

/-- An instruction's fields (R122). -/
structure LIns where
  op  : Nat
  rd  : Nat
  ra  : Nat
  rb  : Nat
  mod : Nat
  xm  : Nat
  ym  : Nat
  cm  : Nat
  xf  : Nat
  rnd : Nat
  low : Nat       -- [3:0]
  hi8 : Nat       -- [39:32]
  imm : Word
deriving DecidableEq, Repr

def decodeLane (w : Nat) : LIns :=
  { op := nfld w 63 56, rd := nfld w 55 52, ra := nfld w 51 48, rb := nfld w 47 44, mod := nfld w 43 40,
    xm := nfld w 39 30, ym := nfld w 29 20, cm := nfld w 19 10, xf := nfld w 9 6, rnd := nfld w 5 4, low := nfld w 3 0,
    hi8 := nfld w 39 32, imm := w32 w }

/-- The operations of R125. -/
def laneOps : List Nat :=
  [0x00, 0x01, 0x02, 0x03, 0x04, 0x05, 0x06, 0x07, 0x08, 0x09, 0x0A, 0x0B, 0x0C, 0x0D, 0x10, 0x11, 0x12, 0x13, 0x20, 0x21,
   0x30, 0x31, 0x32, 0x33, 0x34, 0x35, 0x36, 0x37, 0x38, 0x39, 0x3A]

/-- Move slots are allowed (R125). -/
def slotsAllowed (op : Nat) : Bool := op = 0x00 || op = 0x10 || op = 0x12 || (0x30 ≤ op && op ≤ 0x3A && op ≠ 0x38)

/-- Marked Yes under REPEAT (R125). -/
def repeatable (op : Nat) : Bool := op = 0x00 || op = 0x10 || op = 0x11 || op = 0x12 || (0x30 ≤ op && op ≤ 0x3A && op ≠ 0x38)

/-- The operation takes IMM (R122). -/
def takesImm (i : LIns) : Bool :=
  i.op = 0x01 || i.op = 0x02 || i.op = 0x04 || i.op = 0x05 || i.op = 0x11 || (i.op = 0x20 && i.mod / 4 % 2 = 1)

/-- Reserved fields, RND and misplaced move slots (R122, R124, R129).
DESIGN CHOICE (log entry 48): on an operation without move slots any bit set in a slot field counts as a slot that appears, also with MODE 0. -/
def laneFieldsOk (i : LIns) : Bool :=
  if takesImm i then i.hi8 = 0
  else i.low = 0 && i.rnd ≠ 3 && (if i.op = 0x39 then i.xf < 2 else i.xf = 0)
    && (slotsAllowed i.op || (i.xm = 0 && i.ym = 0 && i.cm = 0))

/-! Registers of a context. -/

def LaneCtx.getS (x : LaneCtx) (n : Nat) : Word := if n = 0 then 0 else x.s.getD n 0
/-- S0 reads as 0 and ignores writes (R114). -/
def LaneCtx.setS (x : LaneCtx) (n : Nat) (v : Word) : LaneCtx := if n = 0 then x else { x with s := x.s.set n v }
def LaneCtx.getV (x : LaneCtx) (n : Nat) : BitVec 128 := x.v.getD n 0
def LaneCtx.setV (x : LaneCtx) (n : Nat) (v : BitVec 128) : LaneCtx := { x with v := x.v.set n v }
def LaneCtx.getAc (x : LaneCtx) (n : Nat) : List AcSlot := x.ac.getD n []

/-- Element i of a vector register. -/
def v16 (v : BitVec 128) (i : Nat) : Int := signed 16 (v.toNat / 2 ^ (16 * i))
def v32 (v : BitVec 128) (i : Nat) : Word := w32 (v.toNat / 2 ^ (32 * i))

/-- A vector register from its elements of w bits. -/
def vOf (w : Nat) (es : List Nat) : BitVec 128 := BitVec.ofNat 128 (es.foldr (fun e acc => e % 2 ^ w + 2 ^ w * acc) 0)

/-! Pointers (R120, R121). -/

/-- A pointer after a step of d. -/
def LaneCtx.stepPtr (x : LaneCtx) (n : Nat) (d : Int) : BitVec 16 :=
  let p := x.p.getD n 0
  let len := x.len.getD n 0
  if len = 0 then BitVec.ofInt 16 (p.toNat + d)
  else x.base.getD n 0 + BitVec.ofInt 16 (((p - x.base.getD n 0).toNat + d) % (len : Int))

/-- The modifier Nn, signed. -/
def LaneCtx.modifier (x : LaneCtx) (n : Nat) : Int := (x.n.getD n 0).toInt

/-- Address used and the pointer afterwards, by MODE (R120); none faults ILLEGAL. -/
def LaneCtx.address (x : LaneCtx) (mode n sz : Nat) : Option (Nat × Option (BitVec 16)) :=
  let p := x.p.getD n 0
  match mode with
  | 1 => some (p.toNat, none)
  | 2 => some (p.toNat, some (x.stepPtr n sz))
  | 3 => some (p.toNat, some (x.stepPtr n (-sz)))
  | 4 => some (p.toNat, some (x.stepPtr n (x.modifier n)))
  | 5 => some (p.toNat, some (x.stepPtr n (-x.modifier n)))
  | 6 => some ((p + x.n.getD n 0).toNat, none)
  | _ => none

/-! Move slots (R123, R124). -/

/-- One move: its memory (0 X, 1 Y, 2 C), pointer and its new value, address in the window, register, size, store or load. -/
structure Move1 where
  mem   : Nat
  ptr   : Nat
  upd   : Option (BitVec 16)
  addr  : Nat
  reg   : Nat
  size  : Nat
  store : Bool
deriving DecidableEq, Repr

/-- A slot decoded: no access, an illegal mode, or a move. -/
def LaneCtx.slot (x : LaneCtx) (mem bits : Nat) : Except LaneFault (Option Move1) :=
  let mode := bits / 128
  if mode = 0 then .ok none
  else
    let ptr := if mem = 0 then bits / 32 % 4 else if mem = 1 then 4 + bits / 32 % 4 else bits / 16 % 8
    let reg := bits % 16
    let sz := if reg < 8 then 16 else 4
    match x.address mode ptr sz with
    | none => .error .illegal
    | some (a, u) => .ok (some { mem := mem, ptr := ptr, upd := u, addr := a, reg := reg, size := sz, store := mem < 2 && bits / 16 % 2 = 1 })

/-- The moves of an instruction. -/
def LaneCtx.moves (x : LaneCtx) (i : LIns) : Except LaneFault (List Move1) := do
  let a ← x.slot 0 i.xm
  let b ← x.slot 1 i.ym
  let c ← x.slot 2 i.cm
  return a.toList ++ b.toList ++ c.toList

/-- Window of memory m: base and size in bytes (R116). -/
def State.window (s : State) (l c m : Nat) : Nat × Nat :=
  let w := s.reg (pgLane l) (0x108 + 0x20 * c)
  if m = 0 then (fld w 3 0 * 4096, fld w 8 4 * 4096)
  else if m = 1 then (fld w 12 9 * 4096, fld w 17 13 * 4096)
  else (fld w 21 18 * 4096, fld w 26 22 * 4096)

/-- The access is aligned and ends within the window (R116). -/
def Move1.inWindow (m : Move1) (size : Nat) : Bool := m.addr % m.size = 0 && m.addr + m.size ≤ size

/-! Results. -/

/-- What an operation writes beside its moves: one register, and whatever else of the context it changes. -/
structure LEff where
  sreg  : Option (Nat × Word) := none
  vreg  : Option (Nat × BitVec 128) := none
  areg  : Option (Nat × List AcSlot) := none
  flags : AFlags := {}
  src   : Nat := 0           -- what SRC advances by (R130)
  cmp   : Option (Word × Word) := none
deriving DecidableEq, Repr

/-- Two parts of the instruction write one register, or CM names a pointer that XM or YM names (R124). -/
def movesClash (e : LEff) (ms : List Move1) : Bool :=
  let loads := (ms.filter (fun m => !m.store)).map (·.reg)
  let res := (match e.sreg with | some (n, _) => if 8 ≤ n then [n] else [] | none => []) ++ (match e.vreg with | some (n, _) => [n] | none => [])
  !(decide (loads ++ res).Nodup) || !(decide (ms.map (·.ptr)).Nodup)

/-- The bytes a store slot writes, from the registers as read at the start (R124). -/
def LaneCtx.regBytes (x : LaneCtx) (r : Nat) : List Byte :=
  if r < 8 then leBytes 16 (x.getV r).toNat else leBytes 4 (x.getS r).toNat

def LaneCtx.loadReg (x : LaneCtx) (r : Nat) (bs : List Byte) : LaneCtx :=
  if r < 8 then x.setV r (BitVec.ofNat 128 (leNat bs)) else x.setS r (w32 (leNat bs))

/-! The program counter (R131, R133, R144). -/

/-- The next instruction's index and the loops left: an ended iteration goes back or ends its loop. -/
def nextPc (pc : Nat) : List LoopLevel → Nat × List LoopLevel
  | [] => (pc + 1, [])
  | lv :: rest =>
    if pc + 1 = lv.start + lv.len then
      (if 1 < lv.left then (lv.start, { lv with left := lv.left - 1 } :: rest) else nextPc pc rest)
    else (pc + 1, lv :: rest)

/-- The context passes the instruction at its PC; under REPEAT it stays until the last run (R131). -/
def LaneCtx.advance (x : LaneCtx) : LaneCtx :=
  match x.rep with
  | some (n + 2) => { x with rep := some (n + 1) }
  | _ =>
    let r := nextPc x.pc x.loops
    { x with rep := none, pc := r.1, loops := r.2, ovrOpen := false }

/-- A jump to t: loops whose body does not hold it end (R133). -/
def LaneCtx.jump (x : LaneCtx) (t : Nat) : LaneCtx :=
  { x with pc := t, loops := x.loops.filter (fun lv => lv.start ≤ t && t < lv.start + lv.len) }

def State.psize (s : State) (l c : Nat) : Nat := fld (s.reg (pgLane l) (0x104 + 0x20 * c)) 28 16
def State.pbase (s : State) (l c : Nat) : Nat := fld (s.reg (pgLane l) (0x104 + 0x20 * c)) 11 0
def State.entry (s : State) (l c : Nat) : Nat := fld (s.reg (pgLane l) (0x100 + 0x20 * c)) 27 16

/-- The 64 bits at index pc of a context's segment. -/
def State.laneWord (s : State) (l c pc : Nat) : Nat := leNat ((s.lane l).prog.readN (8 * (s.pbase l c + pc)) 8)

/-! Faults (R143). -/

/-- Context a goes before context b (R141, R240). -/
def State.lanePrefers (s : State) (l a b : Nat) : Bool :=
  let x := s.lctx l a
  let y := s.lctx l b
  if x.exh ≠ y.exh then !x.exh
  else
    let kx := s.tagKey x.cdl x.late
    let ky := s.tagKey y.cdl y.late
    kx < ky || (kx = ky && (x.seq < y.seq || (x.seq = y.seq && a < b)))

/-- The context that the lane runs next, among those that p admits. -/
def State.laneBest (s : State) (l : Nat) (p : Nat → Bool) : Option Nat :=
  ((List.range 8).filter p).foldl (fun acc c => match acc with | none => some c | some b => if s.lanePrefers l c b then some c else some b) none

/-- The READY context that the standby bank is to hold: the nearest CDL (R142). -/
def State.standbyBest (s : State) (l : Nat) : Option Nat := s.laneBest l (fun k => ((s.lane l).ctx k).state = .ready)

/-- The standby bank's load restarts when its context is no longer the one it is to hold (R142). -/
def State.standbyCheck (s : State) (l : Nat) : State :=
  if (s.lane l).stbyValid && s.standbyBest l ≠ some (s.lane l).stbyCtx then s.updLane l (fun y => { y with stbyValid := false }) else s

/-- The cell's work of the present slot is dropped as a cell fault (R143, R370): ERROR_IND names its accepted UL_CONFIG and DL_CONFIG at once with ABORTED, and its CRC_IND tells of no decoded block.
DESIGN CHOICE (log entry 122): R370 names the two indications and no status code. -/
def State.cellFault (s : State) (c : Nat) : State :=
  let x := s.cell c
  if x.phase = CellPhase.free then s else
    let m := s.slotAt (dMu x.desc) s.now
    let s1 := s.updCell c (fun z => { z with
      faultSlot := some (slotNum (dMu z.desc) m.sfn m.slot)
      slots := z.slots.map (fun y => if y.start = m.start then { y with dropped := true } else y) })
    foldS (x.slots.filter (fun y => y.start = m.start && !y.dropped && !y.indSent)) (fun y t =>
      let one (type : Nat) (seq : Option Nat) (u : State) : State := match seq with
        | some q => u.errorInd c x.desc y.sfn y.slot 0 type .aborted q 0
        | none => u
      one 2 y.dlSeq (one 1 y.ulSeq t)) s1

/-- The context faults: it stops, the cell's work of the slot is dropped, and its records are discarded: those that come and (DESIGN CHOICE, log entry 122) those in its completion port. -/
def State.laneFault (s : State) (l c : Nat) (f : LaneFault) : State :=
  let s1 := s.updLane l (fun y => { y.setCtx c { y.ctx c with
      state := .faulted, fault := f, faultPc := (y.ctx c).pc, port := [], wait := .nothing, rep := none, issueLate := false,
      faultSlots := (y.ctx c).faultSlots + 1 } with running := y.running && y.runCtx ≠ c })
  (s1.cellFault (s.ctxCell l c)).level (pgLane l) c true

/-! One instruction. -/

/-- What the running context of a lane executes next. -/
inductive Fetched where
  | idle
  | fault (c : Nat) (f : LaneFault)
  | ins (c : Nat) (i : LIns) (s : State)
deriving DecidableEq, Repr

/-- The instruction at index pc is kept after its fetch: a REPEAT runs it, or it lies in the innermost body, or in an outer body that is at most 16 instructions long with the inner loop (R131, R133). -/
def LaneCtx.keeps (x : LaneCtx) (pc : Nat) : Bool :=
  let within (a b : Nat) : Bool := a ≤ pc && pc < b
  (x.rep.isSome && pc = x.pc) ||
  (match x.loops with
   | [] => false
   | [a] => within a.start (a.start + a.len)
   | a :: b :: _ =>
     let e := max (a.start + a.len) (b.start + b.len)
     within a.start (a.start + a.len) || (e - b.start ≤ 16 && within b.start e))

/-- The instruction word at the running context's PC, from the loop cache or from program memory, which the fetch captures where the cache keeps it; none: an uncorrectable word (R118, R131, R133). -/
def State.fetchWord (s : State) (l : Nat) : Option (Nat × State) :=
  let y := s.lane l
  let x := y.ctx y.runCtx
  let kept := y.cache.filter (fun e => x.keeps e.1)
  match kept.find? (fun e => e.1 = x.pc) with
  | some e => some (e.2, s.setLane l { y with cache := kept })
  | none =>
    match s.laneRead l 3 (8 * (s.pbase l y.runCtx + x.pc)) 8 with
    | (true, _) => none
    | (false, s1) =>
      let w := s.laneWord l y.runCtx x.pc
      some (w, s1.setLane l { y with cache := if x.keeps x.pc then (x.pc, w) :: kept else kept })

/-- Fetch at PBASE + PC: a PC past the segment, an uncorrectable word, an unknown operation (R118, R125, R143, R144). -/
def State.laneFetch (s : State) (l : Nat) : Fetched :=
  let y := s.lane l
  let c := y.runCtx
  if !y.running || (y.ctx c).state ≠ .run then .idle
  else if s.psize l c ≤ (y.ctx c).pc then .fault c .code
  else
    match s.fetchWord l with
    | none => .fault c .ecc
    | some (w, s1) => if laneOps.contains (decodeLane w).op then .ins c (decodeLane w) s1 else .fault c .illegal

/-- A context whose ENABLE has been cleared enters STOPPING at a pre-emption point: its records are discarded (R132, R144). -/
def State.stopCheck (s : State) (l c : Nat) : State :=
  let x := s.lctx l c
  if bitOf (s.reg (pgLane l) (0x100 + 0x20 * c)) 0 || x.state = .off || x.state = .stopping || x.rep.isSome then s
  else
    let s1 := s.updLane l (fun y => { y.setCtx c { x with state := .stopping, wait := .nothing, port := [] } with running := y.running && y.runCtx ≠ c })
    (if x.state = .faulted then s1.level (pgLane l) c false else s1).standbyCheck l

/-! Interlocks and clocks (R125, R126, R131, R133). The lane issues in order; `free` is the clock of its next issue, never before the present one. -/

/-- Registers read whose results may be in flight: vector registers 0 to 7, the value of accumulator n at 16 + n (R125, R126). -/
def insSources (i : LIns) : List Nat :=
  let st (bits : Nat) : List Nat := if bits / 128 ≠ 0 && bits / 16 % 2 = 1 && bits % 16 < 8 then [bits % 16] else []
  let narrow := (i.rb = 0x1 || i.rb = 0xC) && (i.mod = 0x2 || i.mod = 0x3 || i.mod = 0xB)
  (if i.op = 0x30 || i.op = 0x31 || i.op = 0x32 || i.op = 0x34 then [i.ra, i.rb]
   else if i.op = 0x33 || i.op = 0x37 || i.op = 0x38 then [i.ra]
   else if i.op = 0x35 then [16 + i.ra]
   else if i.op = 0x36 then [16 + i.ra, i.rb]
   else if i.op = 0x39 then i.ra :: (if narrow then [i.rd] else [])
   else []) ++ (if slotsAllowed i.op then st i.xm ++ st i.ym else [])

/-- Registers that an instruction's operation writes, numbered as in insSources. -/
def insResults (i : LIns) : List Nat :=
  if i.op = 0x32 || i.op = 0x33 || i.op = 0x34 then [16 + i.rd]
  else if i.op = 0x0B || (0x30 ≤ i.op && i.op ≤ 0x3A) then [i.rd] else []

/-- Vector registers that its move slots load: ready on the next clock, whatever the operation's own latency (R125). -/
def insLoads (i : LIns) : List Nat :=
  let ld (m bits : Nat) : List Nat := if bits / 128 ≠ 0 && (m = 2 || bits / 16 % 2 = 0) && bits % 16 < 8 then [bits % 16] else []
  if slotsAllowed i.op then ld 0 i.xm ++ ld 1 i.ym ++ ld 2 i.cm else []

/-- Clocks from issue until a result of more than 1 ac may be used: VRCP, and an accumulator for VRDAC and VSCLAC (R125, R126). -/
def insLatency (i : LIns) : Nat :=
  if i.op = 0x38 then 4 else if i.op = 0x32 || i.op = 0x33 || i.op = 0x34 then 2 else 1

/-- Clocks that an instruction waits at clock t for registers it reads. -/
def LaneCtx.stall (x : LaneCtx) (t : Nat) (rs : List Nat) : Nat :=
  ((x.due.filter (fun e => rs.contains e.1)).foldl (fun m e => max m e.2) t) - t

/-- The count of a LOOP or REPEAT: IMM's field of n bits, or S_RA (R125). -/
def LaneCtx.count (x : LaneCtx) (i : LIns) (n : Nat) : Nat := if i.mod % 2 = 1 then (x.getS i.ra).toNat else fld i.imm (n - 1) 0

/-- The instruction stalls until its sources are ready, each clock counted in INTERLOCK, then issues; REPEAT of one run or more waits for the sources of the instruction that it repeats, which runs one clock later (R125, R126, R131). -/
def State.laneIssueAt (s : State) (l c : Nat) (i : LIns) : State :=
  let y := s.lane l
  let x := y.ctx c
  let t := max y.free s.ac
  let wait := if i.op = 0x05 then (if x.count i 12 = 0 then 0 else x.stall (t + 1) (insSources (decodeLane (s.laneWord l c (x.pc + 1))))) else x.stall t (insSources i)
  let t1 := t + wait
  let rs := insResults i
  let due := x.due.filter (fun e => !rs.contains e.1 && !(insLoads i).contains e.1 && t1 < e.2) ++ (if 1 < insLatency i then rs.map (fun r => (r, t1 + insLatency i)) else [])
  (s.setLane l { (y.setCtx c { x with due := due }) with free := t1 }).bump (pgLane l) 1 wait

/-- A taken BR, a CALL or a RET (R125). -/
def LaneCtx.jumps (x : LaneCtx) (i : LIns) : Bool :=
  (i.op = 0x01 && x.condition i.mod = some true) || i.op = 0x02 || i.op = 0x03

/-- Executing i from x to x1 ended a loop's iteration and went back to the body's start (R133). -/
def LaneCtx.loopBack (x x1 : LaneCtx) (i : LIns) : Bool := x1.state = .run && x1.rep.isNone && x1.pc ≤ x.pc && !x.jumps i

/-- Clocks of an executed instruction beside its stalls: its latency where it is a control row's (R125), and 2 ac for a loop-back that the loop cache does not hold or that is the first after a switch (R133). -/
def insClocks (i : LIns) (ext : Bool) (x x1 : LaneCtx) (cache : List (Nat × Nat)) (cold : Bool) : Nat :=
  (if i.op = 0x01 then (if x.jumps i then 2 else 1)
   else if i.op = 0x02 || i.op = 0x03 || i.op = 0x06 || i.op = 0x0D then 2
   else if i.op = 0x09 then (if ext then 8 else 4)
   else if i.op = 0x0A then 4
   else 1)
  + (if x.loopBack x1 i && (cold || !cache.any (fun e => e.1 = x1.pc)) then 2 else 0)

/-- The lane's next issue follows the executed instruction. -/
def State.laneSpend (s : State) (l c : Nat) (i : LIns) (ext : Bool) (x : LaneCtx) : State :=
  s.updLane l (fun y => { y with free := y.free + insClocks i ext x (y.ctx c) y.cache y.cold, cold := y.cold && !x.loopBack (y.ctx c) i })

/-- A row of the table executes the running context's instruction if its operation is the row's; a fetch that faults takes its fault in any row. -/
def State.laneRow (s : State) (l op : Nat) (run : State → Nat → LIns → State) : State :=
  match s.laneFetch l with
  | .idle => s
  | .fault c f => (s.laneFault l c f).stopCheck l c
  | .ins c i s1 =>
    if i.op ≠ op then s
    else if !laneFieldsOk i then (s1.laneFault l c .illegal).stopCheck l c
    else
      let x := s1.lctx l c
      let ext := bitOf (w32 (leNat ((s.lane l).x.readN ((s.window l c 0).1 + (x.getS i.rb).toNat) 4))) 27
      (((run (s1.laneIssueAt l c i) c i)).laneSpend l c i ext x).stopCheck l c

/-- Counters of the flags an instruction sets (R130, R502). -/
def State.bumpLane (s : State) (l : Nat) (f : AFlags) : State :=
  (((s.bump (pgLane l) 3 (b1 f.satOut)).bump (pgLane l) 4 (b1 f.satAcc)).bump (pgLane l) 5 (b1 f.nanSeen)).bump (pgLane l) 6 (b1 f.infSeen)

/-- The bytes each load slot brings, and whether one met a double-bit error (R118). -/
def State.laneLoads (s : State) (l c : Nat) (ms : List Move1) : Bool × List (Nat × List Byte) × State :=
  ms.foldl (fun (acc : Bool × List (Nat × List Byte) × State) m =>
    if m.store then acc else
      let a := (acc.2.2.window l c m.mem).1 + m.addr
      let r := acc.2.2.laneRead l m.mem a m.size
      (acc.1 || r.1, acc.2.1 ++ [(m.reg, ((s.lane l).memOf m.mem).readN a m.size)], r.2)) (false, [], s)

/-- Stores of the slots. -/
def State.laneStores (s : State) (l c : Nat) (x : LaneCtx) (ms : List Move1) : State :=
  foldS ms (fun m t =>
    if m.store then
      let a := (t.window l c m.mem).1 + m.addr
      let t1 := t.updLane l (fun y => y.setMem m.mem (Memory.writeN a (x.regBytes m.reg) (y.memOf m.mem)))
      if m.mem = 0 then t1.laneMbEvt l else t1
    else t) s

/-- An operation's effect and its moves applied to the context (R124). -/
def LaneCtx.apply (x : LaneCtx) (e : LEff) (ms : List Move1) (ld : List (Nat × List Byte)) : LaneCtx :=
  let x1 := match e.sreg with | some (n, v) => x.setS n v | none => x
  let x2 := match e.vreg with | some (n, v) => x1.setV n v | none => x1
  let x3 := match e.areg with | some (n, a) => { x2 with ac := x2.ac.set n a } | none => x2
  let x4 := match e.cmp with | some (a, b) => x3.compare a b | none => x3
  let x5 := foldS ld (fun r y => y.loadReg r.1 r.2) x4
  let x6 := foldS ms (fun m y => match m.upd with | some v => { y with p := y.p.set m.ptr v } | none => y) x5
  { x6.stick e.flags with src := x6.src + w32 e.src }

/-- A data instruction with its move slots, as one step (R124). -/
def State.laneData (s : State) (l c : Nat) (i : LIns) (work : LaneCtx → Except LaneFault LEff) : State :=
  let x := s.lctx l c
  match work x, (if slotsAllowed i.op then x.moves i else .ok []) with
  | .error f, _ => s.laneFault l c f
  | _, .error f => s.laneFault l c f
  | .ok e, .ok ms =>
    if movesClash e ms then s.laneFault l c .illegal
    else if ms.any (fun m => !m.inWindow (s.window l c m.mem).2) then s.laneFault l c .addr
    else
      match s.laneLoads l c ms with
      | (true, _, s1) => s1.laneFault l c .ecc
      | (false, ld, s1) =>
        ((s1.laneStores l c x ms).updLctx l c (fun y => (y.apply e ms ld).advance)).bumpLane l e.flags

/-- A row for a data instruction. -/
def State.laneCalc (s : State) (l op : Nat) (work : State → LIns → LaneCtx → Except LaneFault LEff) : State :=
  s.laneRow l op (fun t c i => t.laneData l c i (work t i))

end Sys2Proof.Machine
end

