-- ==== Sys2Proof/Machine/LaneOps.lean ====
section
/-! DEFINITION. The lane instructions of R125: data, control, commands and waits (05 R125 to R139). -/

namespace Sys2Proof.Machine

/-! Data instructions. -/

/-- A rounding instruction's rounding of element i (R130). -/
def laneRnd (i : LIns) (x : LaneCtx) (k : Nat) : Rnd := rndOf i.rnd x.seed (x.step.setWidth 32) x.src k

/-- What SRC advances by after a rounding instruction (R130). -/
def srcStep (i : LIns) : Nat := if i.rnd = 2 then 8 else 0

def orFlags (fs : List AFlags) : AFlags := fs.foldl AFlags.or {}

/-- A vector result of elements that are given with their flags. -/
def vEff (i : LIns) (w : Nat) (es : List (Nat × AFlags)) (rounds : Bool) : Except LaneFault LEff :=
  if 8 ≤ i.rd then .error .illegal
  else .ok { vreg := some (i.rd, vOf w (es.map (·.1))), flags := orFlags (es.map (·.2)), src := if rounds then srcStep i else 0 }

/-- A 16-bit sum or difference, saturating (R127). -/
def sat16 (v : Int) : Nat × AFlags :=
  if 32767 < v then (twos 16 32767, { satOut := true }) else if v < -32768 then (twos 16 (-32768), { satOut := true }) else (twos 16 v, {})

/-- NOP: its move slots only. -/
def nopEff (_ : LIns) (_ : LaneCtx) : Except LaneFault LEff := .ok {}

/-- SALU (R125). -/
def saluEff (i : LIns) (x : LaneCtx) : Except LaneFault LEff :=
  let a := x.getS i.ra
  let b := x.getS i.rb
  let r : Option Word :=
    match i.mod with
    | 0 => some (a + b) | 1 => some (a - b) | 2 => some (a &&& b) | 3 => some (a ||| b) | 4 => some (a ^^^ b)
    | 5 => some (a <<< b.toNat) | 6 => some (a >>> b.toNat) | 7 => some (a.sshiftRight b.toNat)
    | 8 => some (if a.slt b then a else b) | 9 => some (if a.slt b then b else a)
    | _ => none
  match r with
  | some v => .ok { sreg := some (i.rd, v) }
  | none => .error .illegal

def moviEff (i : LIns) (_ : LaneCtx) : Except LaneFault LEff := .ok { sreg := some (i.rd, i.imm) }

def cmpEff (i : LIns) (x : LaneCtx) : Except LaneFault LEff := .ok { cmp := some (x.getS i.ra, x.getS i.rb) }

/-- GETA (R125). -/
def getaEff (i : LIns) (x : LaneCtx) : Except LaneFault LEff :=
  let n := i.ra % 8
  .ok { sreg := some (i.rd,
    match i.mod % 4 with
    | 0 => (x.p.getD n 0).setWidth 32 | 1 => (x.n.getD n 0).signExtend 32 | 2 => (x.base.getD n 0).setWidth 32 | _ => w32 (x.len.getD n 0)) }

/-- VALU (R125, R127). -/
def valuEff (i : LIns) (x : LaneCtx) : Except LaneFault LEff :=
  if 8 ≤ i.ra || 8 ≤ i.rb then .error .illegal else
    let a := x.getV i.ra
    let b := x.getV i.rb
    let fp (f : Num → Num → Num) : List (Nat × AFlags) := (List.range 4).map (fun k =>
      let p := ofFp32 (v32 a k)
      let q := ofFp32 (v32 b k)
      let r := encodeFp fp32 (laneRnd i x k) false (f p q)
      (r.1, ((r.2.or (numFlags p)).or (numFlags q))))
    match i.mod with
    | 0 => vEff i 16 ((List.range 8).map (fun k => sat16 (v16 a k + v16 b k))) false
    | 1 => vEff i 16 ((List.range 8).map (fun k => sat16 (v16 a k - v16 b k))) false
    | 2 => vEff i 16 ((List.range 8).map (fun k => encodeInt 16 15 (laneRnd i x k) (numOfInt (v16 a k * v16 b k) (-30)))) true
    | 3 => vEff i 32 (fp Num.add) true
    | 4 => vEff i 32 (fp (fun p q => Num.add p q.neg)) true
    | 5 => vEff i 32 (fp Num.mul) true
    | _ => .error .illegal

/-- A complex product of Q1.15 pairs in units of 2^−30. -/
def cmul16 (a b : BitVec 128) (c : Nat) (conj : Bool) : Int × Int :=
  let bi := v16 b (2 * c)
  let bq := if conj then -(v16 b (2 * c + 1)) else v16 b (2 * c + 1)
  cmulI (v16 a (2 * c), v16 a (2 * c + 1)) (bi, bq)

/-- VCMUL (R127). -/
def vcmulEff (i : LIns) (x : LaneCtx) : Except LaneFault LEff :=
  if 8 ≤ i.ra || 8 ≤ i.rb then .error .illegal else
    vEff i 16 ((List.range 8).map (fun k =>
      let p := cmul16 (x.getV i.ra) (x.getV i.rb) (k / 2) (i.mod % 2 = 1)
      encodeInt 16 15 (laneRnd i x k) (numOfInt (if k % 2 = 0 then p.1 else p.2) (-30)))) true

/-- A term added to an accumulator slot of 48 bits: a slot that has saturated keeps its value until it is cleared (R128). -/
def slotAdd (a : AcSlot) (clear : Bool) (t : Int) : AcSlot × AFlags :=
  let r := iaccAdd 48 (if clear then { v := 0, sat := false } else { v := a.val, sat := a.sat }) t
  ({ val := r.v, sat := r.sat }, { satAcc := r.sat && (clear || !a.sat) })

def acEff (i : LIns) (x : LaneCtx) (clear : Bool) (term : Nat → Int) : Except LaneFault LEff :=
  if 4 ≤ i.rd then .error .illegal else
    let rs := (List.range 8).map (fun k => slotAdd ((x.getAc i.rd).getD k { val := 0, sat := false }) clear (term k))
    .ok { areg := some (i.rd, rs.map (·.1)), flags := orFlags (rs.map (·.2)) }

/-- VMAC (R125, R128). -/
def vmacEff (i : LIns) (x : LaneCtx) : Except LaneFault LEff :=
  if 8 ≤ i.ra || 8 ≤ i.rb then .error .illegal else
    acEff i x (i.mod % 2 = 1) (fun k => (if i.mod / 2 % 2 = 1 then -1 else 1) * (v16 (x.getV i.ra) k * v16 (x.getV i.rb) k))

/-- VMACS (R125). -/
def vmacsEff (i : LIns) (x : LaneCtx) : Except LaneFault LEff :=
  if 8 ≤ i.ra then .error .illegal else
    acEff i x (i.mod % 2 = 1) (fun k => (if i.mod / 2 % 2 = 1 then -1 else 1) * (v16 (x.getV i.ra) k * signed 16 (x.getS i.rb).toNat))

/-- VCMAC (R125). -/
def vcmacEff (i : LIns) (x : LaneCtx) : Except LaneFault LEff :=
  if 8 ≤ i.ra || 8 ≤ i.rb then .error .illegal else
    acEff i x (i.mod % 2 = 1) (fun k =>
      let p := cmul16 (x.getV i.ra) (x.getV i.rb) (k / 2) (i.mod / 2 % 2 = 1)
      (if i.mod / 4 % 2 = 1 then -1 else 1) * (if k % 2 = 0 then p.1 else p.2))

/-- VRDAC (R125, R127). -/
def vrdacEff (i : LIns) (x : LaneCtx) : Except LaneFault LEff :=
  if 4 ≤ i.ra then .error .illegal else
    vEff i 16 ((List.range 8).map (fun k =>
      encodeInt 16 15 (laneRnd i x k) (numOfInt ((x.getAc i.ra).getD k { val := 0, sat := false }).val (-30 - (i.rb : Int))))) true

/-- VSCLAC (R125, R127). -/
def vsclacEff (i : LIns) (x : LaneCtx) : Except LaneFault LEff :=
  if 4 ≤ i.ra || 8 ≤ i.rb then .error .illegal else
    vEff i 16 ((List.range 8).map (fun k =>
      let f := ofFp32 (v32 (x.getV i.rb) (k / 2))
      let r := encodeInt 16 15 (laneRnd i x k) (Num.mul (numOfInt ((x.getAc i.ra).getD k { val := 0, sat := false }).val (-30)) f)
      (r.1, r.2.or (numFlags f)))) true

/-- VMAG2 (R125, R127): rounded once to nearest. -/
def vmag2Eff (i : LIns) (x : LaneCtx) : Except LaneFault LEff :=
  if 8 ≤ i.ra then .error .illegal else
    let o := ofFp32 (x.getS i.rb)
    vEff i 32 ((List.range 4).map (fun c =>
      let a := v16 (x.getV i.ra) (2 * c)
      let b := v16 (x.getV i.ra) (2 * c + 1)
      let r := encodeFp fp32 .nearest false (Num.add (numOfInt (a * a + b * b) (-30)) o)
      (r.1, r.2.or (numFlags o)))) false

/-- A reciprocal with a sticky last bit far below the rounding position. -/
def recip : Num → Num
  | .nan => .nan
  | .inf s => .fin s 0 0
  | .fin s m e =>
    if m = 0 then .inf s
    else .fin s (2 * (2 ^ 80 / m) + b1 (2 ^ 80 % m ≠ 0)) (-81 - e)

/-- VRCP (R125, R127): to nearest, whatever RND holds. -/
def vrcpEff (i : LIns) (x : LaneCtx) : Except LaneFault LEff :=
  if 8 ≤ i.ra then .error .illegal else
    vEff i 32 ((List.range 4).map (fun c =>
      let a := ofFp32 (v32 (x.getV i.ra) c)
      let r := encodeFp fp32 .nearest false (recip a)
      (r.1, r.2.or (numFlags a)))) false

/-- Formats of VCVT (R129) and their widths. -/
def cvtWidth : Nat → Option Nat
  | 0x1 | 0xC => some 32
  | 0x2 | 0x3 | 0xB => some 16
  | _ => none

/-- VCVT (R129). -/
def vcvtEff (i : LIns) (x : LaneCtx) : Except LaneFault LEff :=
  match cvtWidth i.rb, cvtWidth i.mod with
  | some ws, some wd =>
    if 8 ≤ i.ra || 8 ≤ i.rd then .error .illegal else
      let a := x.getV i.ra
      let half := i.xf % 2
      -- element k of V_RD from element j of V_RA
      let one (k j : Nat) : Nat × AFlags :=
        let v := (decodeReal i.rb (a.toNat / 2 ^ (ws * j) % 2 ^ ws)).1
        let r := encodeReal i.mod (laneRnd i x k) false v
        (r.1, r.2.or (numFlags v))
      if ws = wd then vEff i wd ((List.range (128 / wd)).map (fun k => one k k)) true
      else if ws < wd then vEff i 32 ((List.range 4).map (fun k => one k (4 * half + k))) true
      else vEff i 16 ((List.range 8).map (fun k =>
        if k / 4 = half then one k (k % 4) else ((x.getV i.rd).toNat / 2 ^ (16 * k) % 65536, {}))) true
  | _, _ => .error .illegal

/-- VSPLAT (R125). -/
def vsplatEff (i : LIns) (x : LaneCtx) : Except LaneFault LEff :=
  let a := (x.getS i.ra).toNat
  match i.mod with
  | 0 => vEff i 16 (List.replicate 8 (a % 65536, {})) false
  | 1 => vEff i 32 (List.replicate 4 (a, {})) false
  | _ => .error .illegal

def execNop (l : LaneId) (s : State) : Ans := .next (s.laneCalc l.val 0x00 (fun _ => nopEff))
def execSalu (l : LaneId) (s : State) : Ans := .next (s.laneCalc l.val 0x10 (fun _ => saluEff))
def execMovi (l : LaneId) (s : State) : Ans := .next (s.laneCalc l.val 0x11 (fun _ => moviEff))
def execCmp (l : LaneId) (s : State) : Ans := .next (s.laneCalc l.val 0x12 (fun _ => cmpEff))
/-- GETT: the low 32 bits of the time base (R125, R400). -/
def execGett (l : LaneId) (s : State) : Ans := .next (s.laneCalc l.val 0x13 (fun t i _ => .ok { sreg := some (i.rd, t.now32) }))
def execGeta (l : LaneId) (s : State) : Ans := .next (s.laneCalc l.val 0x21 (fun _ => getaEff))
def execValu (l : LaneId) (s : State) : Ans := .next (s.laneCalc l.val 0x30 (fun _ => valuEff))
def execVcmul (l : LaneId) (s : State) : Ans := .next (s.laneCalc l.val 0x31 (fun _ => vcmulEff))
def execVmac (l : LaneId) (s : State) : Ans := .next (s.laneCalc l.val 0x32 (fun _ => vmacEff))
def execVmacs (l : LaneId) (s : State) : Ans := .next (s.laneCalc l.val 0x33 (fun _ => vmacsEff))
def execVcmac (l : LaneId) (s : State) : Ans := .next (s.laneCalc l.val 0x34 (fun _ => vcmacEff))
def execVrdac (l : LaneId) (s : State) : Ans := .next (s.laneCalc l.val 0x35 (fun _ => vrdacEff))
def execVsclac (l : LaneId) (s : State) : Ans := .next (s.laneCalc l.val 0x36 (fun _ => vsclacEff))
def execVmag2 (l : LaneId) (s : State) : Ans := .next (s.laneCalc l.val 0x37 (fun _ => vmag2Eff))
def execVrcp (l : LaneId) (s : State) : Ans := .next (s.laneCalc l.val 0x38 (fun _ => vrcpEff))
def execVcvt (l : LaneId) (s : State) : Ans := .next (s.laneCalc l.val 0x39 (fun _ => vcvtEff))
def execVsplat (l : LaneId) (s : State) : Ans := .next (s.laneCalc l.val 0x3A (fun _ => vsplatEff))

/-- SETA (R125): a BASE or LEN that is not a multiple of 16, or a LEN past 65,536, faults. -/
def LaneCtx.seta (x : LaneCtx) (i : LIns) : Option LaneCtx :=
  let v := if i.mod / 4 % 2 = 1 then i.imm.toNat % 2 ^ 17 else (x.getS i.ra).toNat
  let n := i.rd % 8
  match i.mod % 4 with
  | 0 => some { x with p := x.p.set n (BitVec.ofNat 16 v) }
  | 1 => some { x with n := x.n.set n (BitVec.ofNat 16 v) }
  | 2 => if v % 65536 % 16 = 0 then some { x with base := x.base.set n (BitVec.ofNat 16 v) } else none
  | _ => if v % 2 ^ 17 % 16 = 0 && v % 2 ^ 17 ≤ 65536 then some { x with len := x.len.set n (v % 2 ^ 17) } else none

def execSeta (l : LaneId) (s : State) : Ans :=
  .next (s.laneRow l.val 0x20 (fun t c i =>
    match (t.lctx l.val c).seta i with
    | some x => t.setLctx l.val c x.advance
    | none => t.laneFault l.val c .illegal))

/-! Control. -/

/-- BR (R122, R125): a taken branch past the segment faults CODE. -/
def execBr (l : LaneId) (s : State) : Ans :=
  .next (s.laneRow l.val 0x01 (fun t c i =>
    let x := t.lctx l.val c
    match x.condition i.mod with
    | none => t.laneFault l.val c .illegal
    | some false => t.setLctx l.val c x.advance
    | some true =>
      if t.psize l.val c ≤ fld i.imm 11 0 then t.laneFault l.val c .code else t.setLctx l.val c (x.jump (fld i.imm 11 0))))

/-- CALL (R125, R133, R143). -/
def execCall (l : LaneId) (s : State) : Ans :=
  .next (s.laneRow l.val 0x02 (fun t c i =>
    let x := t.lctx l.val c
    if 8 ≤ x.stack.length then t.laneFault l.val c .stack
    else if t.psize l.val c ≤ fld i.imm 11 0 then t.laneFault l.val c .code
    else t.setLctx l.val c ({ x with stack := (x.pc + 1) :: x.stack }.jump (fld i.imm 11 0))))

/-- RET (R125, R143). -/
def execRet (l : LaneId) (s : State) : Ans :=
  .next (s.laneRow l.val 0x03 (fun t c _ =>
    let x := t.lctx l.val c
    match x.stack with
    | [] => t.laneFault l.val c .stack
    | a :: rest => if t.psize l.val c ≤ a then t.laneFault l.val c .code else t.setLctx l.val c { x with stack := rest, pc := a }))

/-- LOOP (R125, R133). -/
def execLoop (l : LaneId) (s : State) : Ans :=
  .next (s.laneRow l.val 0x04 (fun t c i =>
    let x := t.lctx l.val c
    let n := x.count i 16
    let len := fld i.imm 19 16 + 1
    if 2 ≤ x.loops.length then t.laneFault l.val c .illegal
    else if 65535 < n then t.laneFault l.val c .count
    else if n = 0 then
      let r := nextPc (x.pc + len) x.loops
      t.setLctx l.val c { x with pc := r.1, loops := r.2 }
    else t.setLctx l.val c { x with pc := x.pc + 1, loops := { left := n, start := x.pc + 1, len := len } :: x.loops }))

/-- REPEAT (R125, R131): the next instruction's runs follow with no pre-emption point between. -/
def execRepeat (l : LaneId) (s : State) : Ans :=
  .next (s.laneRow l.val 0x05 (fun t c i =>
    let x := t.lctx l.val c
    let n := x.count i 12
    if x.loops.any (fun lv => x.pc + 1 = lv.start + lv.len) then t.laneFault l.val c .illegal
    else if 4095 < n then t.laneFault l.val c .count
    else if n = 0 then
      let r := nextPc (x.pc + 1) x.loops
      t.setLctx l.val c { x with pc := r.1, loops := r.2 }
    else if t.psize l.val c ≤ x.pc + 1 then t.laneFault l.val c .code
    else if !repeatable (decodeLane (t.laneWord l.val c (x.pc + 1))).op then t.laneFault l.val c .illegal
    else t.setLctx l.val c { x with pc := x.pc + 1, rep := some n }))

/-- SETDL: a new CDL, which may be missed in its turn (R125, R245). -/
def execSetdl (l : LaneId) (s : State) : Ans :=
  .next (s.laneRow l.val 0x07 (fun t c i =>
    t.updLctx l.val c (fun x => { x with cdl := fld (x.getS i.ra) 23 0, cdlSet := true, late := false }.advance)))

/-- The running context leaves the active bank. -/
def State.laneLeave (s : State) (l c : Nat) (f : LaneCtx → LaneCtx) : State :=
  s.updLane l (fun y => { y.setCtx c (f (y.ctx c)) with running := y.running && y.runCtx ≠ c })

/-- HALT: the context sleeps until its cell's next slot start (R125, R140). -/
def execHalt (l : LaneId) (s : State) : Ans :=
  .next (s.laneRow l.val 0x08 (fun t c _ => t.laneLeave l.val c (fun x => { x with state := .sleep, halted := true, cdlSet := false })))

/-! Waits (R138). -/

/-- The condition of a waiting context holds now. -/
def State.laneWaitHolds (s : State) (l c : Nat) : Bool :=
  match (s.lctx l c).wait with
  | .counter a t => ctrReached (s.ctr (l / 32) a) t
  | .record => !(s.lctx l c).port.isEmpty
  | .time t => ctrReached s.now32 t
  | .mailbox => laneHead (s.lane l) ≠ (s.lane l).mbTail
  | .issue => false
  | .nothing => false

/-- WAIT (R138). -/
def execLaneWait (l : LaneId) (s : State) : Ans :=
  .next (s.laneRow l.val 0x06 (fun t c i =>
    let x := t.lctx l.val c
    let go (w : LaneWaitOn) : State :=
      let t1 := t.setLctx l.val c { x with wait := w }
      if t1.laneWaitHolds l.val c then t.setLctx l.val c x.advance
      else t1.laneLeave l.val c (fun y => { y with state := .sleep })
    match i.mod with
    | 0 => if 65535 < (x.getS i.ra).toNat then t.laneFault l.val c .ctr else go (.counter (x.getS i.ra).toNat (x.getS i.rb))
    | 1 => go .record
    | 2 => go (.time (x.getS i.ra))
    | 3 => go .mailbox
    | _ => t.laneFault l.val c .illegal))

/-- A context becomes READY: the order is kept for R141's ties. -/
def State.laneReady (s : State) (l c : Nat) (f : LaneCtx → LaneCtx) : State :=
  (s.updLane l (fun y => { y.setCtx c { f (y.ctx c) with state := .ready, wait := .nothing, issueLate := false, seq := y.ticks } with ticks := y.ticks + 1 })).standbyCheck l

/-- LANE_WAIT_WAKE (R138). -/
def execLaneWaitWake (l : LaneId) (c : LaneCtxId) (s : State) : Ans :=
  if (s.lctx l.val c.val).state = .sleep && s.laneWaitHolds l.val c.val then
    .next (s.laneReady l.val c.val LaneCtx.advance)
  else .next s

/-! Commands (R134, R135, R137). -/

/-- What an issue does. -/
inductive Issued where
  | blocks
  | fault (f : LaneFault) (s : State)
  | done (s : State)
deriving DecidableEq, Repr

/-- The port has room for the record of one more command. -/
def LaneCtx.portRoom (x : LaneCtx) : Bool := x.outst + x.port.length < 32

/-- A record that refuses a lane's command with CONFIG_INVALID (R134, R135). -/
def State.laneRefusal (s : State) (l c : Nat) (tag dl : Nat) : State :=
  let b : RecBody := { status := s.closeCode dl .configInvalid, flags := {}, ckM := 0x7FFFF, ckN := 0xFFFF, ac := 0, endNs := s.now32, late := s.pastTag dl }
  let s1 := s.updLctx l c (fun x => { x with outst := x.outst + 1, arriving := x.arriving ++ [recordWords tag b] })
  if b.late then s1.missCell (l / 32) (s1.ctxCell l c) else s1

/-- Words of a command in the context's X window, and the state after the read; a fault when it is misaligned, does not end within the window, or meets a double-bit error (R116, R118, R134, R135). -/
def State.xCommand (s : State) (l c : Nat) (tile : Bool) (a : Word) : Except LaneFault (List Word) × State :=
  let w := s.window l c 0
  let at_ (n : Nat) : List Word := wordsOf n ((s.lane l).x.readN (w.1 + a.toNat) (4 * n))
  let n := if tile && bitOf (wAt (at_ 16) 0) 27 then 32 else 16
  if a.toNat % 32 ≠ 0 || w.2 < a.toNat + 64 || w.2 < a.toNat + 4 * n then (.error .addr, s)
  else
    let (bad, s1) := s.laneRead l 0 (w.1 + a.toNat) (4 * n)
    (if bad then .error .ecc else .ok (at_ n), s1)

/-- A blocked issue goes through or blocks (R137). -/
def State.issueGate (s : State) (l c : Nat) (room : Bool) (go : State) : Issued :=
  let x := s.lctx l c
  if !x.portRoom then (if x.outst = 0 then .fault .qfull s else .blocks)
  else if !room then .blocks
  else .done go

/-- A tile refuses a lane's command: counted, and the completion event set where EVT asks for it (R24, R63). -/
def State.tileRefusal (s : State) (t : Nat) (ws : List Word) : State :=
  let s1 := s.bump (pgTile t) 6 1
  if bitOf (wAt ws 0) 26 then s1.pulse (pgTile t) 0 else s1

/-- TISS's issue (R24, R60, R134). -/
def State.tiss (s : State) (l c : Nat) (i : LIns) : Issued :=
  let x := s.lctx l c
  match s.xCommand l c true (x.getS i.rb) with
  | (.error f, s) => .fault f s
  | (.ok ws, s) =>
    let t := (x.getS i.ra).toNat
    if t < 1024 && t / 256 = l / 32 && s.tileHeldBy t 0 then
      s.issueGate l c (!s.queueFull t)
        (if h : l < 128 ∧ c < 8 then
          (s.enqueue t { words := ws, issuer := .lane ⟨l, h.1⟩ ⟨c, h.2⟩, space := .dom0, seed := x.seed, step := x.step.setWidth 32, late := x.issueLate }).updLctx l c
            (fun y => { y with outst := y.outst + 1 })
         else s)
    else
      let s1 := s.bump (pgLane l) 2 1
      s.issueGate l c true ((if t < 1024 then s1.tileRefusal t ws else s1).laneRefusal l c (cmdTag ws) (cmdDeadline ws))

/-- CISS's issue (R135, R189). -/
def State.ciss (s : State) (l c : Nat) (i : LIns) : Issued :=
  let x := s.lctx l c
  match s.xCommand l c false (x.getS i.rb) with
  | (.error f, s) => .fault f s
  | (.ok ws, s) =>
    let g := (x.getS i.ra).toNat
    if g < 32 && g / 8 = l / 32 then
      s.issueGate l c (decide (((s.grove g).ceQueue.filter (fun q => !q.started)).length < 16))
        (if h : l < 128 ∧ c < 8 then
          ((({ s with codeSeq := s.codeSeq + 1 }).updGrove g (fun v => { v with ceQueue := v.ceQueue ++ [CodeCmd.fresh ws ⟨l, h.1⟩ ⟨c, h.2⟩ s.codeSeq x.issueLate] })).updLctx l c
            (fun y => { y with outst := y.outst + 1 })).puschHanded ws
         else s)
    else s.issueGate l c true (s.laneRefusal l c (cmdTag ws) (cmdDeadline ws))

/-- The outcome of an issue by the running context. -/
def State.laneIssue (s : State) (l c : Nat) : Issued → State
  | .blocks => { s.laneLeave l c (fun x => { x with state := .sleep, wait := .issue, seq := s.codeSeq, issueLate := false }) with codeSeq := s.codeSeq + 1 }
  | .fault f t => t.laneFault l c f
  | .done t => t.updLctx l c LaneCtx.advance

def execTiss (l : LaneId) (s : State) : Ans := .next (s.laneRow l.val 0x09 (fun t c i => t.laneIssue l.val c (t.tiss l.val c i)))
def execCiss (l : LaneId) (s : State) : Ans := .next (s.laneRow l.val 0x0A (fun t c i => t.laneIssue l.val c (t.ciss l.val c i)))

/-- The queue that a blocked context's command is for: TISS or CISS, and the tile or engine; none where a full port holds it (R134, R135, R137). -/
def State.issueTarget (s : State) (l c : Nat) : Option (Nat × Nat) :=
  let x := s.lctx l c
  let i := decodeLane (s.laneWord l c x.pc)
  if x.state = .sleep && x.wait = .issue && x.portRoom then some (i.op, (x.getS i.ra).toNat) else none

/-- DEADLINE of the command that a blocked TISS or CISS is to issue (R62, R219). -/
def State.issueTag (s : State) (l c : Nat) : Nat :=
  let i := decodeLane (s.laneWord l c (s.lctx l c).pc)
  cmdDeadline (wordsOf 16 ((s.lane l).x.readN ((s.window l c 0).1 + ((s.lctx l c).getS i.rb).toNat) 64))

/-- Another blocked context of the die goes first to the queue that this one waits for: the smaller key of its command, then the earlier arrival (R219, R222, R225). -/
def State.issueBehind (s : State) (l c : Nat) : Bool :=
  let rank (l2 c2 : Nat) : Int × Nat := (s.tagKey (s.issueTag l2 c2) (s.lctx l2 c2).issueLate, (s.lctx l2 c2).seq)
  (List.range 32).any (fun i => (List.range 8).any (fun c2 =>
    let l2 := l / 32 * 32 + i
    let a := rank l2 c2
    let b := rank l c
    s.issueTarget l2 c2 = s.issueTarget l c && (a.1 < b.1 || (a.1 = b.1 && a.2 < b.2))))

/-- LANE_ISSUE_UNBLOCK: a blocked TISS or CISS proceeds in its turn, or faults QFULL (R134, R137, R222).
DESIGN CHOICE (log entry 123): it takes its command from X now, as X then stands; R134 does not say when a blocked issue reads X. -/
def execLaneIssueUnblock (l : LaneId) (c : LaneCtxId) (s : State) : Ans :=
  let x := s.lctx l.val c.val
  if x.state = .sleep && x.wait = .issue && !((s.issueTarget l.val c.val).isSome && s.issueBehind l.val c.val) then
    let i := decodeLane (s.laneWord l.val c.val x.pc)
    match (if i.op = 0x09 then s.tiss l.val c.val i else s.ciss l.val c.val i) with
    | .blocks => .next s
    | .fault f t => .next (t.laneFault l.val c.val f)
    | .done t => .next (t.laneReady l.val c.val LaneCtx.advance)
  else .next s

/-- RDC (R136). -/
def execRdc (l : LaneId) (s : State) : Ans :=
  .next (s.laneCalc l.val 0x0B (fun _ i x =>
    if 8 ≤ i.rd then .error .illegal
    else .ok { vreg := some (i.rd, match x.port with | r :: _ => vOf 32 ((List.range 4).map (fun k => (wAt r k).toNat)) | [] => 0x00020000) }))

/-- ADVC (R136). -/
def execAdvc (l : LaneId) (s : State) : Ans :=
  .next (s.laneRow l.val 0x0C (fun t c _ => t.updLctx l.val c (fun x => { x with port := x.port.tail }.advance)))

/-- SIGC (R139): an arrival counter of domain 0 on the lane's die rises. -/
def execSigc (l : LaneId) (s : State) : Ans :=
  .next (s.laneRow l.val 0x0D (fun t c i =>
    let x := t.lctx l.val c
    let a := (x.getS i.ra).toNat
    if 65535 < a || !t.ctrHeld 0 a then t.laneFault l.val c .ctr
    else (t.raiseCtr (l.val / 32) a (x.getS i.rb)).setLctx l.val c x.advance))

end Sys2Proof.Machine
end

