-- ==== Sys2Proof/Machine/LaneRun.lean ====
section
/-! DEFINITION. DSP lanes: records, time slicing among contexts, enables, external access, program memory, the lane mailbox (05 R117, R119, R136, R140 to R144; 09 R240, R245; 12 R335). -/

namespace Sys2Proof.Machine

/-- COMPLETION_RECORD_ARRIVE: the oldest record on its way enters the completion port; a faulted or stopping context's is discarded, and a force-removed cell's (R136, R143, R144, R165). -/
def execCompletionRecordArrive (l : LaneId) (c : LaneCtxId) (s : State) : Ans :=
  let x := s.lctx l.val c.val
  match x.arriving with
  | [] => .next s
  | r :: rest =>
    let z := s.cell (s.ctxCell l.val c.val)
    let keep := x.state ≠ .faulted && x.state ≠ .stopping && x.state ≠ .off && !(z.forced && z.ended)
    .next (s.setLctx l.val c.val { x with arriving := rest, outst := x.outst - 1, port := if keep then x.port ++ [r] else x.port })

/-- LANE_CONTEXT_SWITCH: at a pre-emption point the lane takes the READY or running context with the nearest CDL, in 2 ac from the standby bank and else in 38; the loop cache and the standby bank are empty after it. A context that still holds the active bank goes on at once (R132, R133, R141, R142). -/
def execLaneContextSwitch (l : LaneId) (s : State) : Ans :=
  let y := s.lane l.val
  let cur := y.runCtx
  if y.running && (y.ctx cur).rep.isSome then .next s
  else
    match s.laneBest l.val (fun c => (y.ctx c).state = .ready || (y.running && c = cur)) with
    | none => .next s
    | some b =>
      if y.running && b = cur then .next s
      else
        let y1 := if y.running then { y.setCtx cur { y.ctx cur with state := .ready, seq := y.ticks } with ticks := y.ticks + 1 } else y
        let y2 := y1.setCtx b { y1.ctx b with state := .run, ranSlot := true }
        let ready := y.stbyValid && y.stbyCtx = b
        let y3 := { y2 with runCtx := b, running := true }
        if b = cur then .next ((s.setLane l.val y3).standbyCheck l.val)
        else .next (s.setLane l.val { y3 with stbyValid := false, cache := [], cold := !(y.ctx b).loops.isEmpty, free := max y.free s.ac + (if ready then 2 else 38) })

/-- STANDBY_LOAD_COMPLETE: the standby bank holds the ready context with the nearest CDL other than the running one (R142). -/
def execStandbyLoadComplete (l : LaneId) (c : LaneCtxId) (s : State) : Ans :=
  let y := s.lane l.val
  if s.standbyBest l.val = some c.val then
    .next (s.setLane l.val { y with stbyCtx := c.val, stbyValid := true })
  else .next s

/-- SLICE_EXHAUSTED: the context's LEFT is 0 under a budget (R240). -/
def execSliceExhausted (l : LaneId) (c : LaneCtxId) (s : State) : Ans :=
  let x := s.lctx l.val c.val
  if x.left = 0 && fld (s.inForce (pgLane l.val) (0x0C0 + 4 * c.val)) 21 0 ≠ 0 && x.state ≠ .off then
    .next (s.setLctx l.val c.val { x with exh := true })
  else .next s

/-- LANE_DEADLINE_PASSED: the time base has passed the context's CDL with neither SETDL nor HALT executed: one miss per CDL value (R245). -/
def execLaneDeadlinePassed (l : LaneId) (c : LaneCtxId) (s : State) : Ans :=
  let x := s.lctx l.val c.val
  if x.cdlSet && (x.state = .ready || x.state = .run || x.state = .sleep) && tagLater (tagOf s.now) x.cdl then
    .next ((s.setLctx l.val c.val { x with cdlSet := false }).missCell (l.val / 32) (s.ctxCell l.val c.val))
  else .next s

def laneMemNo : LaneMem → Nat
  | .x => 0 | .y => 1 | .c => 2 | .prog => 3

/-- LANE_EXTERNAL_ACCESS: an agent reads or writes X, Y or C through the second port (R117, R118). Program memory takes no write here (R316). -/
def execLaneExternalAccess (l : LaneId) (mem : LaneMem) (addr : Nat) (op : AccessOp) (s : State) : Ans :=
  match op with
  | .read len => .next (s.laneRead l.val (laneMemNo mem) addr len).2
  | .write bytes =>
    if mem = .prog || 65536 < addr + bytes.length then .next s
    else
      let s1 := s.updLane l.val (fun y => y.setMem (laneMemNo mem) (Memory.writeN addr bytes (y.memOf (laneMemNo mem))))
      .next (if mem = .x then s1.laneMbEvt l.val else s1)

/-- Instruction k lies in the code segment of an enabled context (R119). -/
def State.inSegment (s : State) (l k : Nat) : Bool :=
  (List.range 8).any (fun c => bitOf (s.reg (pgLane l) (0x100 + 0x20 * c)) 0 && s.pbase l c ≤ k && k < s.pbase l c + s.psize l c)

/-- PROGRAM_MEMORY_WRITE: bytes outside enabled segments are written and unseal their range; the others are counted once an instruction (R119, R471). -/
def State.progWrite (s : State) (l off : Nat) (bs : List Byte) : State :=
  foldS ((List.range bs.length).zip bs) (fun ib t =>
    let a := off + ib.1
    let k := a / 8
    if 32768 ≤ a then t
    else if s.inSegment l k then (if ib.1 = 0 || a % 8 = 0 then t.bump (pgLane l) 7 1 else t)
    else t.updLane l (fun y => { y with prog := Memory.write a ib.2 y.prog, seals := y.seals.filter (fun r => k < r.1 || r.1 + r.2.1 ≤ k) })) s

def hostProgramMemoryWrite (l : LaneId) (off : Nat) (bytes : List Byte) (s : State) : Ans := .next (s.progWrite l.val off bytes)

/-- The segment and windows of a context are valid and sealed (R144, R471). -/
def State.canEnable (s : State) (l c : Nat) : Bool :=
  let w := s.reg (pgLane l) (0x108 + 0x20 * c)
  let y := s.lane l
  (y.ctx c).state = .off && s.pbase l c + s.psize l c ≤ 4096
    && fld w 3 0 + fld w 8 4 ≤ 16 && fld w 12 9 + fld w 17 13 ≤ 16 && fld w 21 18 + fld w 26 22 ≤ 16
    && y.seals.any (fun r => r.1 ≤ s.pbase l c && s.pbase l c + s.psize l c ≤ r.1 + r.2.1)

/-- A write of LANE_CTXc_CFG (R144). -/
def State.ctxCfgWrite (s : State) (l c : Nat) (v : Word) : State :=
  let off := 0x100 + 0x20 * c
  let old := s.reg (pgLane l) off
  let new := v &&& 0x0FFF1FF1
  if bitOf old 0 then
    let s1 := if new ||| 1 ≠ old then s.bump (pgLane l) 7 1 else s
    if bitOf new 0 then s1 else (s1.setReg (pgLane l) off (old &&& ~~~ 1#32)).stopCheck l c
  else if !bitOf new 0 then s.setReg (pgLane l) off new
  else if s.canEnable l c then
    (s.setReg (pgLane l) off new).updLctx l c (fun x => { x with
      state := .sleep, fresh := true, halted := false, wait := .nothing, faultSlots := 0, ranSlot := false, cdlSet := false, rep := none,
      exh := false, left := 0, ovr := 0, newOvr := 0, ovrOpen := false, due := [], late := false })
  else (s.setReg (pgLane l) off (new &&& ~~~ 1#32)).updLctx l c (fun x => { x with fault := .cfg })

/-- ENABLE: a write of 1 to LANE_CTXc_CFG.ENABLE (R144, R471). -/
def hostEnable (l : LaneId) (c : LaneCtxId) (v : Word) (s : State) : Ans :=
  .next (if bitOf v 0 then s.ctxCfgWrite l.val c.val v else s)

/-- LANE_CONTEXT_DISABLE: a write of 0 to ENABLE (R144). -/
def hostLaneContextDisable (l : LaneId) (c : LaneCtxId) (v : Word) (s : State) : Ans :=
  .next (if bitOf v 0 then s else s.ctxCfgWrite l.val c.val v)

/-- LANE_CONTEXT_STOPPED (R144). -/
def execLaneContextStopped (l : LaneId) (c : LaneCtxId) (s : State) : Ans :=
  let x := s.lctx l.val c.val
  if x.state = .stopping && x.outst = 0 then .next (s.setLctx l.val c.val { x with state := .off, port := [] }) else .next s

/-- MBCLR: HEAD becomes TAIL and the messages between are discarded (R334, R335). -/
def hostMbclr (l : LaneId) (s : State) : Ans :=
  let y := s.lane l.val
  let n := (y.mbTail - laneHead y).toNat
  let ms := (List.range (min n 16)).map (fun i => laneMbMsg y (laneHead y + w32 i))
  let s1 := (s.setLane l.val { y with x := Memory.writeN 0xFE04 (leBytes 4 y.mbTail.toNat) y.x }).laneMbEvt l.val
  .next (foldS ms (fun m t => t.discard (0x1000 + l.val) m) s1)

/-- A clock passes for the running contexts: LEFT falls, and from 0 the overrun counts to the end of the REPEAT span, the next pre-emption point (R240, R241). -/
def State.laneTick (s : State) : State :=
  { s with lanes := s.lanes.map (fun p =>
      let y := p.2
      if !y.running then p else
        let x := y.ctx y.runCtx
        if fld (s.inForce (pgLane p.1) (0x0C0 + 4 * y.runCtx)) 21 0 = 0 then p
        else (p.1, y.setCtx y.runCtx
          (if x.left = 0 then (if x.ovrOpen then { x with newOvr := min (x.newOvr + 1) 4096 } else x)
           else { x with left := x.left - 1, ovrOpen := x.left = 1 && x.rep.isSome }))) }

end Sys2Proof.Machine
end

