-- ==== Sys2Proof/Machine/Deck.lean ====
section
/-! DEFINITION. The sort deck: ranking, weights, placement, write-out, records (04 R105 to R110). -/

namespace Sys2Proof.Machine

/-- Fields of a sort-deck command (R105). -/
structure Deck where
  t     : Nat
  e     : Nat
  topk  : Nat
  norm  : Bool
  cap   : Nat
  sfmt  : Nat
  sbase : Nat
  stile : Nat
  pitch : Nat
  bbase : Nat
  dmask : Nat
  lmb   : Nat
  lmen  : Bool
deriving DecidableEq, Repr

def decodeDeck (ws : List Word) : Deck :=
  let w := wAt ws
  { t := fld (w 2) 12 0, e := fld (w 2) 24 16, topk := fld (w 2) 28 25, norm := bitOf (w 2) 29, cap := fld (w 3) 12 0,
    sfmt := fld (w 3) 19 16, sbase := fld (w 4) 18 0, stile := fld (w 4) 23 19, pitch := fld (w 5) 13 0 * 32,
    bbase := fld (w 6) 18 0, dmask := (w 7).toNat, lmb := fld (w 8) 18 0, lmen := bitOf (w 8) 19 }

/-- Bytes of one bin (R108). -/
def Deck.binBytes (d : Deck) : Nat := 32 * cdiv (8 + 8 * d.cap) 32

def Deck.scoreExt (d : Deck) : Ext := { base := d.sbase, pitch := d.pitch, rows := d.t, len := d.e * (fmtBits d.sfmt / 8) }
def Deck.maskExt (d : Deck) : Ext := flat d.lmb (if d.lmen then 4 * cdiv d.t 32 else 0)
def Deck.outExt (d : Deck) : Ext := flat d.bbase (32 + d.e * d.binBytes)

/-- Destination tiles, grove numbers. -/
def Deck.dests (d : Deck) : List Nat := (List.range 32).filter (fun i => d.dmask / 2 ^ i % 2 = 1)

/-- The checks of R105 on the words. -/
def deckOk (d : Deck) (ws : List Word) : Bool :=
  let w := wAt ws
  fld (w 0) 31 16 = 0 && fld (w 1) 31 24 = 0 && d.t ≤ 4096 && fld (w 2) 15 13 = 0 && 1 ≤ d.e && d.e ≤ 256
  && 1 ≤ d.topk && d.topk ≤ 8 && fld (w 2) 31 30 = 0 && 1 ≤ d.cap && d.cap ≤ 4096 && fld (w 3) 15 13 = 0
  && 1 ≤ d.sfmt && d.sfmt ≤ 3 && fld (w 3) 31 20 = 0 && fld (w 4) 31 24 = 0 && fld (w 5) 31 14 = 0 && addrWordOk (w 6)
  && fld (w 8) 31 20 = 0 && (List.range 7).all (fun i => w (9 + i) = 0#32)
  && d.topk ≤ d.e && d.dmask ≠ 0 && extOk d.scoreExt && extOk d.maskExt && extOk d.outExt

/-- Clocks of a command (R109). -/
def Deck.ac (d : Deck) : Nat := 4 + d.t * cdiv d.e 64 + cdiv (d.t * d.topk) 8 + cdiv (32 + d.e * d.binBytes) 1024

/-- A context that has had n clocks stands where the deck may switch: at a token boundary of the scan, between phases, or not begun (R109). -/
def Deck.boundary (d : Deck) (n : Nat) : Bool :=
  let scan := 4 + d.t * cdiv d.e 64
  n = 0 || (4 ≤ n && n ≤ scan && (n - 4) % cdiv d.e 64 = 0) || n = scan + cdiv (d.t * d.topk) 8 || d.ac ≤ n

/-- Score a ranks before score b at other places: NaN last, then −∞, then by value (R106). -/
def scoreAbove (a b : Num) : Bool :=
  if a.isNan then false else if b.isNan then true else Num.lt b a

/-- Insertion that keeps equal scores in expert order. -/
def rankInsert (x : Nat × Num) : List (Nat × Num) → List (Nat × Num)
  | [] => [x]
  | y :: t => if scoreAbove x.2 y.2 then x :: y :: t else y :: rankInsert x t

/-- Experts by score, highest first, ties to the lower index (R106). -/
def rankScores (xs : List (Nat × Num)) : List (Nat × Num) := xs.foldl (fun acc x => rankInsert x acc) []

/-- exp(−x) for x in units of 2^−160, in units of 2^−400, by its series on x / 2^10 squared ten times. -/
def expSeries : Nat → Nat → Int → Int → Int → Int
  | 0, _, _, _, acc => acc
  | n + 1, k, x, term, acc => expSeries n (k + 1) x (-(term * x / 2 ^ 400) / (k + 1)) (acc + term)

def sqFix : Nat → Int → Int
  | 0, v => v
  | n + 1, v => sqFix n (v * v / 2 ^ 400)

/-- The exponential of R106, rounded to FP32 at nearest, even. -/
def exp32 : Num → Num
  | .nan => .nan
  | .inf s => if s then .fin false 0 0 else .inf false
  | .fin _ 0 _ => .fin false 1 0
  | .fin s m e =>
    if !s then .nan
    else if 7 ≤ leadPos m e then .fin false 0 0
    else
      let x : Int := m * pow2 (e + 160) / pow2 (-(e + 160))
      rnd32 (numOfInt (sqFix 10 (expSeries 80 0 (x * 2 ^ 230) (2 ^ 400) 0)) (-400))

/-- A quotient of finite non-negative FP32 values rounded at nearest, even. -/
def div32 (a b : Num) : Num :=
  match a, b with
  | .fin _ m e, .fin _ n f =>
    if n = 0 then .nan
    else rnd32 (.fin false (2 * (m * 2 ^ 80 / n) + b1 (m * 2 ^ 80 % n ≠ 0)) (e - f - 81))
  | _, _ => .nan

/-- A token's choices in rank order: expert, weight; none for a NaN score (R106). DESIGN CHOICE (log entry 104): each partial sum of the softmax is rounded to FP32, and a NaN choice takes no part in the sum of the others. -/
def tokenChoices (d : Deck) (scores : List Num) : List (Option (Nat × Num)) :=
  let cs := (rankScores ((List.range d.e).zip scores)).take d.topk
  if !d.norm then cs.map (fun c => if c.2.isNan then none else some c)
  else
    let top := (cs.head?.map (·.2)).getD .nan
    let ex := cs.map (fun c => (c.1, c.2.isNan, exp32 (Num.add c.2 top.neg)))
    let sum := (ex.filter (fun c => !c.2.1)).foldl (fun a c => rnd32 (Num.add a c.2.2)) (.fin false 0 0)
    ex.map (fun c => if c.2.1 then none else some (c.1, div32 c.2.2 sum))

/-- One bin while it fills: entries in placement order (token, rank, weight pattern), and its dropped count. -/
structure Bin where
  entries : List (Nat × Nat × Nat)
  dropped : Nat
deriving DecidableEq, Repr

/-- What placement leaves. -/
structure Placed where
  bins   : List Bin
  placed : Nat
  drops  : Nat
  nans   : Nat
  hit    : List Nat       -- tokens with a placed choice
deriving DecidableEq, Repr

/-- One choice placed (R107). -/
def placeChoice (d : Deck) (tok rank : Nat) (c : Option (Nat × Num)) (p : Placed) : Placed :=
  match c with
  | none => { p with nans := p.nans + 1 }
  | some (e, w) =>
    let b := p.bins.getD e { entries := [], dropped := 0 }
    if b.entries.length < d.cap then
      { p with bins := p.bins.set e { b with entries := b.entries ++ [(tok, rank, (encodeFp fp32 .nearest false w).1)] },
               placed := p.placed + 1, hit := if p.hit.contains tok then p.hit else tok :: p.hit }
    else { p with bins := p.bins.set e { b with dropped := b.dropped + 1 }, drops := p.drops + 1 }

/-- Placement in rank order, tokens ascending (R107). -/
def placeAll (d : Deck) (ch : List (Nat × List (Option (Nat × Num)))) : Placed :=
  (List.range d.topk).foldl (fun p r =>
    ch.foldl (fun p tc => match tc.2[r]? with | some c => placeChoice d tc.1 (r + 1) c p | none => p) p)
    { bins := List.replicate d.e { entries := [], dropped := 0 }, placed := 0, drops := 0, nans := 0, hit := [] }

/-- The bytes written in every destination tile: summary and bins (R108). -/
def deckBytes (d : Deck) (live : Nat) (p : Placed) : List Byte :=
  leBytes 4 p.placed ++ leBytes 4 p.drops ++ leBytes 4 (live - p.hit.length) ++ leBytes 4 p.nans ++ List.replicate 16 0#8
  ++ p.bins.flatMap (fun b =>
      let body := leBytes 2 b.entries.length ++ leBytes 2 b.dropped ++ leBytes 4 0
        ++ b.entries.flatMap (fun x => leBytes 2 x.1 ++ leBytes 1 x.2.1 ++ leBytes 1 0 ++ leBytes 4 x.2.2)
      body ++ List.replicate (d.binBytes - body.length) 0#8)

/-- The whole computation on the score tile's store. -/
def deckRun (d : Deck) (st : Memory) : Placed × List Byte :=
  let sz := fmtBits d.sfmt / 8
  let live := (List.range d.t).filter (fun t => !d.lmen || bitAt st d.lmb t)
  let ch := live.map (fun t => (t, tokenChoices d ((List.range d.e).map (fun e =>
    (decodeReal d.sfmt (leNat (st.readN (d.sbase + t * d.pitch + e * sz) sz))).1))))
  let p := placeAll d ch
  (p, deckBytes d live.length p)

/-! The deck's command contexts (R109). -/

/-- The waiting command, among those whose domain is eligible at the point, with the smallest key; ties to the older (R222, R223). -/
def State.nearest (s : State) (pt : Nat) (l : List DeckCmd) : Option Nat :=
  (List.range l.length).foldl (fun acc i =>
    match l[i]? with
    | none => acc
    | some c =>
      if !s.eligible c.domain pt then acc else
      match acc with
      | none => some i
      | some j =>
        (match l[j]? with
         | some b => if s.tagKey (cmdDeadline c.words) c.late < s.tagKey (cmdDeadline b.words) b.late then some i else some j
         | none => some j)) none

/-- A tile of a grove by its number there. -/
def groveTile (g i : Nat) : Nat := g * 32 + i

/-- The deck's record goes to the request context it serves (R108), and a miss is counted (R245). -/
def State.deckRecord (s : State) (g : Nat) (c : DeckCmd) (code : Code) (nan : Bool) (ac : Nat) : State :=
  let b := s.closeBody c.words code { nanSeen := nan } 0x7FFFF 0xFFFF ac
  let s1 := s.updCtx c.ctx (fun x => { x with recs := x.recs ++ [recordWords (cmdTag c.words) b] })
  if b.late then s1.missInst (g / 8) (s1.ctx c.ctx).inst else s1

/-- SORT_DECK_COMMAND: a free context of the deck takes the waiting command with the nearest deadline and checks it (R105, R109).
DESIGN CHOICE (log entry 102): the record of a command that is refused or completes with EMPTY carries ACTIVE_AC 0. -/
def execSortDeckCommand (g : GroveId) (s : State) : Ans :=
  let v := s.grove g.val
  if v.parked || (v.deck0.isSome && v.deck1.isSome) then .next s else
  match s.nearest (deckPoint g.val) v.deckWait with
  | none => .next s
  | some i =>
    match v.deckWait[i]? with
    | none => .next s
    | some c =>
      let d := decodeDeck c.words
      let s1 := (s.setGrove g.val { v with deckWait := v.deckWait.eraseIdx i }).takeGrant c.domain (deckPoint g.val)
      let tiles := (d.stile :: d.dests).map (groveTile g.val)
      if !deckOk d c.words || !tiles.all (fun t => s.tileHeldBy t c.domain) then .next (s1.deckRecord g.val c .configInvalid false 0)
      else if d.t = 0 then .next (s1.deckRecord g.val c .empty false 0)
      else .next (s1.updGrove g.val (fun w => if w.deck0.isNone then { w with deck0 := some c } else { w with deck1 := some c }))

/-- A tile that the deck uses is asked to stop, held or being scrubbed: the deck waits until RESUME has restored it (R109). -/
def State.deckWaits (s : State) (g : Nat) (d : Deck) : Bool :=
  ((d.stile :: d.dests).map (groveTile g)).any (fun t =>
    let x := s.tile t
    x.preq || x.saving || x.held || x.scrub || x.sched = .spill || x.sched = .standby || x.sched = .lent || x.sched = .drain || x.sched = .restore)

/-- SORT_DECK_COMPLETE: a command that has had its clocks has ranked, placed and written out, and posts its record (R106 to R109). -/
def execSortDeckComplete (g : GroveId) (second : Bool) (s : State) : Ans :=
  let v := s.grove g.val
  match (if second then v.deck1 else v.deck0) with
  | none => .next s
  | some c =>
    let d := decodeDeck c.words
    if v.parked || c.spent < d.ac || s.deckWaits g.val d then .next s else
      let r := deckRun d (s.tile (groveTile g.val d.stile)).store
      let s1 := foldS d.dests (fun i t => t.updTile (groveTile g.val i) (fun x => { x with store := Memory.writeN d.bbase r.2 x.store })) s
      let s2 := s1.updGrove g.val (fun w => if second then { w with deck1 := none } else { w with deck0 := none })
      .next (s2.deckRecord g.val c (if r.1.drops = 0 then .ok else .overflow) (r.1.nans ≠ 0) d.ac)

/-- A command that a deck context holds and that has clocks left. -/
def deckLive (c : Option DeckCmd) : Option DeckCmd := c.filter (fun x => x.spent < (decodeDeck x.words).ac)

/-- The second context goes before the first: the nearer deadline, ties by age (R109). -/
def State.secondFirst (s : State) (a b : DeckCmd) : Bool :=
  let ka := s.tagKey (cmdDeadline a.words) a.late
  let kb := s.tagKey (cmdDeadline b.words) b.late
  kb < ka || (kb = ka && b.seq < a.seq)

/-- The context that the deck serves on this clock (R109): the same one inside a slice; at a boundary that of the nearest deadline, among those whose tiles are not stopped. -/
def State.deckGrant (s : State) (g : Nat) (v : Grove) : Option Bool :=
  let held (second : Bool) : Bool := match deckLive (if second then v.deck1 else v.deck0) with
    | some c => !(decodeDeck c.words).boundary c.spent
    | none => false
  match v.deckOn.filter held with
  | some x => some x
  | none =>
    let free (c : Option DeckCmd) : Option DeckCmd := (deckLive c).filter (fun x => !s.deckWaits g (decodeDeck x.words))
    match free v.deck0, free v.deck1 with
    | some a, some b => some (s.secondFirst a b)
    | some _, none => some false
    | none, some _ => some true
    | none, none => none

/-- A context has had one more clock, unless one of its tiles is stopped. -/
def State.deckClock (s : State) (g : Nat) (c : DeckCmd) : DeckCmd := if s.deckWaits g (decodeDeck c.words) then c else { c with spent := c.spent + 1 }

/-- One arithmetic clock of the decks: the context that is granted goes on, and a clock that a context waits on a stopped tile is counted (R109). -/
def State.deckTick (s : State) : State :=
  foldS (s.groves.filter (fun p => p.2.deck0.isSome || p.2.deck1.isSome)) (fun p t =>
    let w (c : Option DeckCmd) : Nat := match c with | some c => b1 (t.deckWaits p.1 (decodeDeck c.words)) | none => 0
    let on := t.deckGrant p.1 p.2
    (t.setGrove p.1 { p.2 with
      deckOn := on
      deck0 := if on = some false then p.2.deck0.map (t.deckClock p.1) else p.2.deck0
      deck1 := if on = some true then p.2.deck1.map (t.deckClock p.1) else p.2.deck1 }).bump (pgGrv p.1) 1 (max (w p.2.deck0) (w p.2.deck1))) s

end Sys2Proof.Machine
end

