-- ==== Sys2Proof/Machine/Memory.lean ====
section
/-! DEFINITION. Commands of the memory tiers: accesses that wait, moves, heat, stall episodes, patrol, objects, retirement (11, 21 R518). -/

namespace Sys2Proof.Machine

/-! Waits and stall episodes (R295 to R298). -/

/-- A wait's time counts against the object and tier of its page, domain 0's default object among them (R297, R298). -/
def State.countStall (s : State) (pk : Nat) (w : Waiter) : State :=
  let units := (s.now - w.since) / 32
  let add (x : Stalls) : Stalls :=
    if w.t3 then { x with t3n := satAdd x.t3n 1 0xFFFFFFFF, t3t := satAdd x.t3t units 0xFFFFFFFF }
    else { x with t2n := satAdd x.t2n 1 0xFFFFFFFF, t2t := satAdd x.t2t units 0xFFFFFFFF }
  match s.objOf (pageSpace pk) (pageVpn pk) with
  | some (oid, o) => { s with mems := { s.mems with objects := s.mems.objects.set oid { o with stalls := add o.stalls } } }
  | none =>
    let k := pageSpace pk
    if k ≤ 4096 then
      let key := k * 4 + (s.home pk).die
      { s with mems := { s.mems with dstalls := s.mems.dstalls.set key (add (s.mems.dstalls.get Stalls.zero key)) } }
    else s

/-- A stall episode of a context begins (R297). -/
def State.beginEpisode (s : State) (who : Issuer) (pk : Nat) (t3 : Bool) : State :=
  match seqCtx who with
  | none => s
  | some k => s.updCtx k (fun c =>
      if c.tierWait then c else { c with tierWait := true, tierAt := s.now, epPage := pk, epT3 := t3, noticed := false })

/-- Some command of the context waits on a tier. -/
def State.ctxStalled (s : State) (k : Nat) : Bool :=
  s.tiles.any (fun p => p.2.flights.any (fun f => f.waits && f.undone && seqCtx f.cmd.issuer = some k))

/-- The episode ends when no command of the context waits; TIERSTALL grows by its length (R296). -/
def State.endEpisode (s : State) (who : Issuer) : State :=
  match seqCtx who with
  | none => s
  | some k =>
    if (s.ctx k).tierWait && !s.ctxStalled k then
      s.updCtx k (fun c => { c with tierWait := false, tierStall := satAdd c.tierStall ((s.now - c.tierAt) / 32) 0xFFFFFFFF })
    else s

/-! Accesses. -/

/-- Pages that a prefetch holds for the LOAD that completes are let go (R290). -/
def State.prefetchDone (f : Flight) (s : State) : State :=
  match seqCtx f.cmd.issuer with
  | none => s
  | some k =>
    let hold : PfHold := { ctx := k, addr := (decodeXfer f.cmd.words).addr, step := (s.ctx k).step }
    { s with mems := { s.mems with homes := s.mems.homes.map (fun p => (p.1, { p.2 with pfHold := p.2.pfHold.filter (· ≠ hold) })) } }

/-- A transfer ends: with a code, the flags of the rows that landed, and the flags' counters (R56, R62, R79). -/
def State.endTransfer (s : State) (t i : Nat) (f : Flight) (c : Code) : State :=
  State.prefetchDone f <|
  (s.setTile t ((s.tile t).putFlight i { f with waits := false, done := some (s.closeBody f.cmd.words c f.flags 0x7FFFF 0xFFFF f.ac) })).bumpFlags t f.flags

/-! Arbitration of memory accesses (R217 to R223, R312, R313). -/

/-- The running transfer of a tile that is not stopped. -/
def Tile.transfer (x : Tile) : Option Flight :=
  if x.held || x.scrub || x.saving then none else x.flights.find? (fun f => f.undone && f.op.engine = 1)

/-- A held request still stands: a transfer's, while that transfer runs. -/
def State.reqAlive (s : State) (r : ArbReq) : Bool :=
  match r.what with
  | .access (.transfer t) => (s.tile t.val).transfer.isSome
  | .access (.agent _ _ _ _ _) | .port _ | .patrol _ _ => true

/-- The requests that a point holds, oldest first. -/
def State.heldAt (s : State) (pt : Nat) : List ArbReq := (s.arb.get [] pt).filter s.reqAlive

/-- Entries that a domain may hold at a point: CRED, and domain 0's reserved 4 beside it (R247, R312). -/
def State.credOf (s : State) (d : Nat) : Nat := min 64 (fld (s.inForce (pgFbk d) 0x0C0) 14 8) + (if d = 0 then 4 else 0)

/-- The index of a requester at its points, by which round-robin goes (R222; DESIGN CHOICE, log entry 19: tiles, agents by die, ports, patrols by controller). -/
def requesterIdx : ArbWhat → Nat
  | .access (.transfer t) => t.val
  | .access (.agent _ _ _ _ from_) => 1024 + from_.val
  | .port who => 1032 + who
  | .patrol frame _ => 2000 + frameHbm frame

/-- The place of a requester in the point's next round-robin, which starts after the last winner (R222). -/
def State.rrPlace (s : State) (pt : Nat) (a : ArbWhat) : Nat := (requesterIdx a + 2048 - s.mems.rr.get 0 pt) % 2048

/-- The clock on which a request came to the point. -/
def State.sinceAt (s : State) (pt : Nat) (a : ArbWhat) : Nat :=
  match (s.heldAt pt).find? (fun r => r.what = a) with | some r => r.since | none => s.ac

/-- The point has an entry for the request, or it holds one already (R312). -/
def State.entryFree (s : State) (pt d : Nat) (a : ArbWhat) : Bool :=
  let held := s.heldAt pt
  held.any (fun r => r.what = a) || ((held.filter (fun r => r.domain = d)).length < s.credOf d && held.length < 68)

/-- A request that the point holds goes before one of this key, arrival and place (R222). -/
def State.goesBefore (s : State) (pt : Nat) (mine : Int) (since : Nat) (a : ArbWhat) (r : ArbReq) : Bool :=
  let k := s.tagKey r.tag r.late
  s.eligible r.domain pt && (k < mine || (k = mine && (r.since < since || (r.since = since && s.rrPlace pt r.what < s.rrPlace pt a))))

/-- The point grants the request now (R222, R223): its domain has an entry and shaping credit there, perturbation does not hold it back (R498), and no other eligible request that the point holds goes before it. -/
def State.grants (s : State) (pt d : Nat) (a : ArbWhat) (tag : Nat) (late : Bool) : Bool :=
  let since := s.sinceAt pt a
  s.entryFree pt d a && s.eligible d pt && !s.perturbed pt since
  && !(s.heldAt pt).any (fun r => r.what ≠ a && s.goesBefore pt (s.tagKey tag late) since a r)

/-- The grant settled a tie of arrival at the point, whose round-robin starts after the winner next (R222). -/
def State.tieWon (s : State) (pt : Nat) (a : ArbWhat) (tag : Nat) (late : Bool) : State :=
  if (s.heldAt pt).any (fun r => r.what ≠ a && s.eligible r.domain pt && s.tagKey r.tag r.late = s.tagKey tag late && r.since = s.sinceAt pt a)
  then { s with mems := { s.mems with rr := s.mems.rr.set pt (requesterIdx a + 1) } } else s

/-- The access leaves every point that holds it. -/
def State.leavePoints (s : State) (a : ArbWhat) : State :=
  { s with arb := (s.arb.map (fun p => (p.1, p.2.filter (fun r => r.what ≠ a && s.reqAlive r)))).filter (fun p => !p.2.isEmpty) }

/-- The LATE bit that an access has gathered (R218: it travels with the request). -/
def State.lateAt (s : State) (a : ArbWhat) : Bool := s.arb.any (fun p => p.2.any (fun r => r.what = a && r.late))

/-- The access takes an entry of a point, if its domain may hold one more and the point's 68 are not all in use; where it may not it stays where it was (R223, R312). -/
def State.holdAt (s : State) (pt d : Nat) (a : ArbWhat) (tag : Nat) (late : Bool) : State :=
  if (s.heldAt pt).any (fun r => r.what = a) then s
  else if s.entryFree pt d a then
    let t := s.leavePoints a
    { t with arb := t.arb.set pt (t.arb.get [] pt ++ [{ domain := d, what := a, tag := tag, late := late, since := s.ac }]) }
  else s

/-- An access crosses its points: granted at all of them it goes on and each takes its grant, the pseudo-channels as their lines are accessed; else the first that does not grant holds it (DESIGN CHOICE, log entry 19: all points of one access decide in one step). -/
def State.arbitrate (s : State) (d : Nat) (a : ArbWhat) (tag : Nat) (late : Bool) (pts : List Nat) : Bool × State :=
  let l := late || s.lateAt a
  match pts.find? (fun pt => !s.grants pt d a tag l) with
  | some pt => (false, s.holdAt pt d a tag l)
  | none => (true, foldS (pts.filter (768 ≤ ·)) (fun pt t => t.takeGrant d pt) ((foldS pts (fun pt t => t.tieWon pt a tag l) s).leavePoints a))

/-- A port's request comes to its points (R27, R223): behind one of the same port that is held it waits in its turn, and one that is not granted is held there. -/
def State.portAsks (s : State) (q : PortReq) (d : Nat) (pts : List Nat) : Bool × State :=
  let keep (t : State) : State := { t with mems := { t.mems with held := t.mems.held ++ [q] } }
  if s.mems.held.any (fun r => r.who = q.who) then (false, keep s)
  else match s.arbitrate d (.port q.who) q.tag q.late pts with
    | (true, t) => (true, t)
    | (false, t) => (false, keep t)

/-- Requester numbers of the ports: Ethernet ports, the CXL port, Caerkuix ports. -/
def ethReq (p : Nat) : Nat := p
def cxlReq : Nat := 64
def ckxReq (p : Nat) : Nat := 128 + p

/-- A write of data that an Ethernet port received crosses to its home, with the tag it carries (R27, R219). -/
def State.portPost (s : State) (p tag : Nat) (sp : Space) (va : Nat) (bs : List Byte) : State :=
  if bs.isEmpty then s else
  match s.portAsks { who := ethReq p, work := .post sp va bs, tag := tag, late := false } (s.domainOf sp) (s.accPoints (pageDie (pgEth p)) sp va bs.length) with
  | (true, t) => t.putDevTag tag sp va bs
  | (false, t) => t

/-- The next piece of a transfer's row: up to the next 64-byte boundary of memory (R79, R80). -/
def xferPiece (va len : Nat) : Nat := min len (64 - va % 64)

/-- The transfer stands after its piece: the row goes on, or ends; 64 KiB more moved make a pre-emption point (R80). -/
def Flight.advance (f : Flight) (q : Xfer) (load : Bool) (n : Nat) (part : List Byte) (fl : AFlags) : Flight :=
  let len := xferMemRow q load
  let before := f.block * len + f.off
  let ends := len ≤ f.off + n
  { f with waits := false, block := if ends then f.block + 1 else f.block, off := if ends then 0 else f.off + n, part := part,
           point := before / 65536 < (before + n) / 65536, flags := f.flags.or fl }

/-- A piece of a STORE lands (R79, R285, R303): the first of its 128-byte line accesses the line; the second of a line that the row writes whole clears its poison. -/
def State.storePiece (s : State) (sp : Space) (va : Nat) (bs : List Byte) (first whole : Bool) : State :=
  if half ≤ va || inLanes sp va bs.length then s.putDev sp va bs
  else
    let s1 := if first then s.touchWrite sp va bs.length else s
    let s2 := if whole then s1.clearPoison (pageKeyOf (spaceIdx sp) (va / 65536)) (va % 65536 / 128) else s1
    s2.landBytes sp va bs

/-- The next 64-byte line of the running LOAD or STORE is moved, or the transfer waits on a tier, or at an arbitration point (R78, R79, R80, R223, R295). A line's 128-byte home line is accessed once for both of its halves. -/
def State.xferStep (s : State) (who : TileId) : State :=
  let t := who.val
  let x := s.tile t
  if x.held || x.scrub || x.saving || (x.preq && x.xferStops) then s else
  match x.flightIdx (fun f => f.undone && f.op.engine = 1) with
  | none => s
  | some i =>
    match x.flights[i]? with
    | none => s
    | some f =>
      let q := decodeXfer f.cmd.words
      let load := f.op = .load
      let sp := f.cmd.space
      let va := q.addr + f.block * q.mp + f.off
      let n := xferPiece va (xferMemRow q load - f.off)
      let code := if load then s.accCode sp va n else s.storeCode sp va n
      if code ≠ .ok then s.endTransfer t i f code else
      let tag := cmdDeadline f.cmd.words
      match s.firstWait sp va n (!load) with
      | some (pk, t3) =>
        if f.waits then s
        else ((s.setTile t (x.putFlight i { f with waits := true })).beginEpisode f.cmd.issuer pk t3).waitOn pk (.transfer who) t3 tag f.cmd.late
      | none =>
        let first := f.off = 0 || va % 128 = 0
        match s.arbitrate (s.domainOf sp) (.access (.transfer who)) tag f.cmd.late (if first then s.accPoints (t / 256) sp va n else []) with
        | (false, s0) => s0
        | (true, s0) =>
        let z : Stream := { seed := f.cmd.seed, step := f.cmd.step, base := wAt f.cmd.words 2 }
        let ta := q.taddr + f.block * q.tp
        let go (s1 : State) (store : Memory) (part : List Byte) (fl : AFlags) : State :=
          let f1 := f.advance q load n part fl
          let s2 := s1.setTile t { (s1.tile t).putFlight i f1 with store := store, xferPoint := false }
          if f1.block = q.rows then s2.endTransfer t i f1 .ok else s2
        if load then
          let (bad, s1) := if inLanes sp va n then s0.laneRead (laneSpot va).1 (laneSpot va).2.1 (laneSpot va).2.2 n
            else (false, if first then s0.touchRead sp va n else s0)
          let (worse, s2) := s1.tierBad sp va n
          if bad || worse then s2.endTransfer t i f .tierError
          else
            let r := landElems q z f.block (f.off - f.part.length) (f.part ++ s2.peek sp va n) (xferMemRow q load ≤ f.off + n)
            go s2 (Memory.writeN (ta + r.2.1) r.1 (s2.tile t).store) r.2.2.2 r.2.2.1
        else if !(s0.badNibble sp va n).isEmpty then (s0.poisonPages (s0.badNibble sp va n)).endTransfer t i f .tierError
        else
          let r := convertRow q z f.block (x.store.readN ta (xferSrcRow q))
          -- a line whose 128 bytes this row writes is a write of the whole line (R303)
          let whole := va % 128 = 64 && n = 64 && 64 ≤ f.off
          go (s0.storePiece sp va ((r.1.drop f.off).take n) first whole) x.store [] (if f.off = 0 then r.2 else {})

/-- An access by a Skidder copy, the fabric agent or a port (R318): checked, then served at the home, or waiting; its completion says what became of it. -/
def State.agentStep (s : State) (sp : Space) (va : Nat) (op : AccessOp) (tag : Nat) (from_ : Fin 6) : State :=
  let len := match op with | .read n => n | .write bs => bs.length
  let wr := match op with | .read _ => false | .write _ => true
  let code := if wr then s.storeCode sp va len else s.accCode sp va len
  if code ≠ .ok then s.emit (.accessDone sp va code []) else
  match s.firstWait sp va len wr with
  | some (pk, t3) => s.waitOn pk (.agent sp va op from_) t3 tag false
  | none =>
    match s.arbitrate (s.domainOf sp) (.access (.agent sp va op tag from_)) tag false (s.accPoints from_.val sp va len) with
    | (false, s0) => s0
    | (true, s0) =>
    match op with
    | .read n =>
      let (bad, s1) := if inLanes sp va n then s0.laneRead (laneSpot va).1 (laneSpot va).2.1 (laneSpot va).2.2 n else (false, s0.touchRead sp va n)
      let (worse, s2) := s1.tierBad sp va n
      s2.emit (if bad || worse then .accessDone sp va .tierError [] else .accessDone sp va .ok (s2.peek sp va n))
    | .write bs =>
      if !(s0.badNibble sp va len).isEmpty then (s0.poisonPages (s0.badNibble sp va len)).emit (.accessDone sp va .tierError []) else
      let s1 := s0.putDev sp va bs
      (if inLanes sp va len && len ≠ 0 then s1.laneMbEvt (laneSpot va).1 else s1).emit (.accessDone sp va .ok [])

def State.accessStep (s : State) : MemAccess → State
  | .transfer t => s.xferStep t
  | .agent sp va op tag from_ => s.agentStep sp va op tag from_

/-- DEVICE_MEMORY_ACCESS (R318). -/
def execDeviceMemoryAccess (a : MemAccess) (s : State) : Ans := .next (s.accessStep a)

/-! The device window (R437). -/

/-- A window access that is refused, counted (R437). -/
def State.winRefused (s : State) : State := { s with cxl := { s.cxl with winref := satAdd s.cxl.winref 1 0xFFFF } }

/-- An access through the window is served (R437): a poisoned line reads as data marked poisoned; a write completes (R282). -/
def State.windowServe (s : State) (sp : Space) (va : Nat) (op : AccessOp) : State :=
  match op with
  | .read len =>
    (match (s.hostTakes (spaceIdx sp) va len false).loadDev sp va len with
     | (.ok, bs, t) => (t.hostTakes (spaceIdx sp) va len true).emit (.windowData bs)
     | (.keyDenied, _, t) => t.winRefused.emit (.windowPoison len)
     | (_, _, t) => t.emit (.windowPoison len))
  | .write bs =>
    let (c, t) := (s.hostTakes (spaceIdx sp) va bs.length false).storeDev sp va bs
    (if c = .keyDenied then t.winRefused else t).emit (.windowDone c)

/-- An access through the window to a page in T3, a write to an UNBACKED page or to one that a move holds, waits as any other; its completion comes after the switch (R276, R282, R437). From P0 it crosses the points to its home (R27). Its tag is NOW + DREL of class 7: R219 names none (DESIGN CHOICE, log entry 114). -/
def State.windowStep (s : State) (sp : Space) (va : Nat) (op : AccessOp) (tag : Nat) (late : Bool) : State :=
  let len := match op with | .read n => n | .write bs => bs.length
  let wr := match op with | .read _ => false | .write _ => true
  if s.accCode sp va len ≠ .ok then s.windowServe sp va op else
  match s.firstWait sp va len wr with
  | some (pk, t3) => s.waitOn pk (.window sp va op) t3 tag late
  | none =>
    match s.portAsks { who := cxlReq, work := .window sp va op, tag := tag, late := late } (s.domainOf sp) (s.accPoints 4 sp va len) with
    | (true, t) => t.windowServe sp va op
    | (false, t) => t

/-! Moves (R280 to R284). -/

/-- A waiter's flight no longer waits. -/
def State.wake (s : State) : WaitWhat → State
  | .transfer t => s.updTile t.val (fun x => { x with flights := x.flights.map (fun f => if f.undone && f.op.engine = 1 then { f with waits := false } else f) })
  | _ => s

/-- The running transfer of a tile, stopped or not. -/
def Tile.mover (x : Tile) : Option Flight := x.flights.find? (fun f => f.undone && f.op.engine = 1)

def State.waiterIssuer (s : State) : WaitWhat → Option Issuer
  | .transfer t => (s.tile t.val).mover.map (fun f => f.cmd.issuer)
  | _ => none

/-- The waiter is a write (R280, R282). -/
def State.waitsToWrite (s : State) (w : Waiter) : Bool :=
  match w.what with
  | .transfer t => (s.tile t.val).mover.any (fun f => f.op = .store)
  | .agent _ _ op _ | .window _ _ op => (match op with | .read _ => false | .write _ => true)
  | .store _ _ _ | .mark _ _ => true
  | .unit _ wr => wr
  | .move _ => false

/-- How the waiter would wait on the page now. -/
def State.stillWaits (s : State) (pk : Nat) (w : Waiter) : Option Bool :=
  match w.what with
  | .transfer t => if (s.tile t.val).mover.isNone then none else s.pageWaits pk (s.waitsToWrite w)
  | .move _ => none
  | _ => s.pageWaits pk (s.waitsToWrite w)

/-- A waiting access proceeds at the home. -/
def State.proceed (s : State) (w : Waiter) : State :=
  match w.what with
  | .transfer t => s.accessStep (.transfer t)
  | .agent sp va op from_ => s.accessStep (.agent sp va op w.tag from_)
  | .window sp va op => s.windowStep sp va op w.tag w.late
  | .store sp va bs => s.putDevTag w.tag sp va bs
  | .mark va bit => s.setMark va bit
  | .unit u _ => { s with mems := { s.mems with woken := s.mems.woken ++ [(u, none)] } }
  | .move _ => s

/-- A waiter is served (R283, R284): an access proceeds at the home, or waits on with the page, where a write whose page a demotion has taken to T3 raises its promotion; a move starts, or is done with. -/
def State.serveWaiter (s : State) (pk : Nat) (w : Waiter) : State :=
  match w.what with
  | .move k =>
    let h := s.home pk
    if h.lock then s.waitMove pk k w.tag
    else (match k with
      | .promotion => s.startPromotion pk w.tag
      | .rehome => if h.tier = .t2 && s.mustLeave h.frame then s.startRehome pk h.frame else s
      | .release => s.releasePage pk
      | .demotion =>
        match s.coldest (s.domainOfIdx (pageSpace pk)) h.die with
        | some (q, _) => if q = pk then (s.startDemotion pk).2 else s.waterCheck (s.domainOfIdx (pageSpace pk)) h.die true
        | none => s)
  | _ =>
    match s.stillWaits pk w with
    | some t3 =>
      let t := s.updHome pk (fun h => { h with waiters := h.waiters ++ [{ w with t3 := w.t3 || t3 }] })
      if t3 then t.startPromotion pk w.tag else t
    | none =>
      let who := s.waiterIssuer w.what
      let t := ((s.countStall pk w).wake w.what).proceed w
      match who with
      | none => t
      | some i => t.endEpisode i

/-- A waiter inserted among writes of larger keys. -/
def State.insertWrite (s : State) (w : Waiter) : List Waiter → List Waiter
  | [] => [w]
  | v :: t => if s.tagKey w.tag w.late < s.tagKey v.tag v.late then w :: v :: t else v :: s.insertWrite w t

/-- The list with its writes, in their places, replaced by the writes given. -/
def State.placeWrites (s : State) : List Waiter → List Waiter → List Waiter
  | [], _ => []
  | w :: t, ws =>
    if s.waitsToWrite w then (match ws with | v :: r => v :: s.placeWrites t r | [] => w :: s.placeWrites t [])
    else w :: s.placeWrites t ws

/-- The order in which a page's waiters are served: their arrival (R283), the writes, which the controller holds in deadline order, in that order among themselves (R282; DEDUCED, log entry 45). -/
def State.serveOrder (s : State) (ws : List Waiter) : List Waiter :=
  s.placeWrites ws ((ws.filter s.waitsToWrite).foldl (fun acc w => s.insertWrite w acc) [])

/-- The page's waiters are served (R283). -/
def State.serveWaiters (s : State) (pk : Nat) : State :=
  let ws := (s.home pk).waiters
  foldS (s.serveOrder ws) (fun w t => t.serveWaiter pk w) (s.updHome pk (fun h => { h with waiters := [] }))

/-- The die that a move counts on: of its destination frame, or of the page that leaves T2. -/
def State.moveDie (s : State) (m : Move) : Nat :=
  match m.kind with
  | .promotion | .rehome => frameDie m.frame
  | .demotion | .release => (s.home m.page).die

/-- A waiter whose T3 read failed completes with TIER_ERROR (R79, R281). -/
def State.failWaiter (s : State) (pk : Nat) (w : Waiter) : State :=
  let s1 := s.countStall pk w
  match w.what with
  | .agent sp va _ _ => s1.emit (.accessDone sp va .tierError [])
  | .window _ _ (.read len) => s1.emit (.windowPoison len)
  | .window _ _ (.write _) => s1.emit (.windowDone .tierError)
  | .unit u _ => { s1 with mems := { s1.mems with woken := s1.mems.woken ++ [(u, some pk)] } }
  | .store _ _ _ | .mark _ _ | .move _ => s1
  | .transfer t =>
    match (s1.tile t.val).flightIdx (fun f => f.undone && f.op.engine = 1) with
    | none => s1
    | some i =>
      match (s1.tile t.val).flights[i]? with
      | none => s1
      | some f => (s1.endTransfer t.val i f .tierError).endEpisode f.cmd.issuer

/-- A move is given up (R281): the page stays where it is, and its waiters are served there, those of a promotion whose T3 read failed with TIER_ERROR. A demotion that is still needed begins again (R286). -/
def State.moveGiveUp (s : State) (m : Move) : State :=
  let pk := m.page
  let h := s.home pk
  let s0 := s.undoMove m
  match m.kind with
  | .promotion =>
    foldS (s.serveOrder h.waiters) (fun w t => if w.t3 then t.failWaiter pk w else t.serveWaiter pk w) (s0.updHome pk (fun x => { x with waiters := [] }))
  | _ => (s0.serveWaiters pk).waterCheck (s.domainOfIdx (pageSpace pk)) h.die true

/-- A move switches, and the page's waiters are served at its new home (R280, R283). -/
def State.moveDone (s : State) (m : Move) : State :=
  let die := s.moveDie m
  (((s.switchMove m).serveWaiters m.page).waterCheck (s.domainOfIdx (pageSpace m.page)) die (m.kind = .demotion)).retryMoves die

/-- The move's T3 reads or writes fail on the host link (R281, R438). -/
def State.moveFails (s : State) (m : Move) : Bool :=
  let h := s.home m.page
  match m.kind with
  | .promotion => h.tier = .t3 && !s.t3Ok h.die h.sector (runSectors ((List.range 16).map (cmapNibble h.cmap)))
  | .demotion => !s.t3Ok h.die m.sector m.sectors
  | .rehome | .release => false

/-- A chunk of a T3 page has a nibble that is never written: the accesses that wait for its promotion find it (R293). -/
def State.moveFinds (s : State) (m : Move) : Bool :=
  let h := s.home m.page
  m.kind = .promotion && h.tier = .t3 && (List.range 16).any (fun c => 9 ≤ cmapNibble h.cmap c)

/-- The length of an epoch: 2^EPOCH µs, EPOCH from 6 to 20 (R285, R306). -/
def State.epochLen (s : State) (d : Nat) : Nat := 2 ^ min 20 (max 6 (fld (s.reg (pgCru d) 0x010) 4 0)) * 1000

/-- EPOCH_END (R285): nothing happens before the epoch has lasted its length. -/
def execEpochEnd (d : DieId) (s : State) : Ans :=
  let at0 := s.mems.epochAt.get 0 d.val
  if at0 ≤ s.now && s.now < at0 + s.epochLen d.val then .next s else
  let decay := min 8 (max 1 (fld (s.reg (pgCru d.val) 0x010) 11 8))
  let e := s.mems.epoch.get 0 d.val + 1
  let homes := s.mems.homes.map (fun p =>
    if p.2.tier ≠ .unbacked && (match s.placeOf p.1 with | some (die, _) => die = d.val | none => p.2.die = d.val) then
      (p.1, { p.2 with heat := min 0xFFFF (p.2.heat - p.2.heat / 2 ^ decay + p.2.acc), laste := if p.2.acc = 0 then p.2.laste else e, acc := 0 })
    else p)
  .next { s with mems := { s.mems with homes := homes, epoch := s.mems.epoch.set d.val e, epochAt := s.mems.epochAt.set d.val s.now } }

/-- The OID of a page's object (R279); domain 0's default object has none. -/
def State.oidOf (s : State) (pk : Nat) : Nat :=
  match s.objOf (pageSpace pk) (pageVpn pk) with
  | some (oid, _) => oid
  | none => if pageSpace pk < 4096 then pageSpace pk else 0

/-- TIER_STALL_LIMIT: one notice for an episode that has lasted LIMIT µs (R297). -/
def execTierStallLimit (k : ReqId) (s : State) : Ans :=
  let c := s.ctx k.val
  let lim := fld (s.inForce (pgCru (s.waitDie c.epPage)) 0x0C4) 19 0
  if c.tierWait && !c.noticed && lim ≠ 0 && (s.inst c.inst).domain ≠ 0 && lim * 1000 ≤ s.now - c.tierAt then
    .next ((s.setCtx k.val { c with noticed := true }).notice c.inst 0x01 .tierLate
      [w32 (k.val + (if c.epT3 then 3 else 2) * 2 ^ 20), w32 c.ticket, w32 (s.oidOf c.epPage), w32 ((s.now - c.tierAt) / 32)])
  else .next s

/-! Errors found by patrol, retirement, objects. -/

/-- PATROL_SCRUB of one line: nothing, a corrected error, or an uncorrectable one (R302 to R305). The read is due once per SCRUB_HOURS, carries the tag of R219 and waits its turn at the line's pseudo-channel (R304). Line 0 of a frame opens the frame's next patrol period. -/
def execPatrolScrub (ctl : HbmId) (frame line err : Nat) (s : State) : Ans :=
  let f := ctl.val * 16 * framesPerCh + frame % (16 * framesPerCh)
  let key := f * 512 + line % 512
  let hours := max 1 (fld (s.reg (pgHbm ctl.val) 0x010) 7 0)
  let due := match s.mems.patrolled.find key with | some t0 => t0 + hours * 3600000000000 ≤ s.now | none => true
  if !s.running || !due then .next s else
  match s.arbitrate 0 (.patrol f (line % 512)) s.tag7 false [hbmPoint f (line % 512)] with
  | (false, t) => .next t
  | (true, t) =>
  let t1 := { t with mems := { t.mems with patrolled := t.mems.patrolled.set key s.now } }
  let s0 := if line = 0 then { t1 with mems := { t1.mems with frameCe := t1.mems.frameCe.erase f } } else t1
  .next (match err with
    | 1 => s0.correctedAt f
    | 2 =>
      (match s0.pageIn f with
       | some (pk, _) => s0.uncorrectedAt f pk (line % 512)
       | none => (s0.countUe ctl.val).retire f)
    | _ => s0)

/-- OID of a CRU_OBJ_CMD write (R306). -/
def objOid (v : Word) : Nat := fld v 21 4

def State.objStatus (s : State) (d : Nat) (c : Code) : State := { s with mems := { s.mems with objStat := s.mems.objStat.set d c } }

/-- Pages that pinned objects and device pages keep in T2 for a domain on a die (R279). -/
def State.pinnedClaim (s : State) (d die : Nat) : Nat :=
  ((s.mems.objects.filter (fun p => p.2.pinned && p.2.die = die && s.domainOf p.2.space = d)).map (fun p => p.2.npages)).sum
  + (s.mems.homes.filter (fun p => 16384 ≤ pageSpace p.1 && p.2.tier = .t2 && frameDie p.2.frame = die && s.domainOfIdx (pageSpace p.1) = d)).length

/-- A registration is refused (R279). -/
def State.objRefused (s : State) (oid : Nat) (o : Obj) : Bool :=
  let d := s.domainOf o.space
  let frames := (s.channels d o.die).length * usableFrames
  oid < 4096 || (s.mems.objects.find oid).isSome
  || (match o.space with
      | .dom0 => laneLo / 65536 < o.vpn + o.npages
      | .inst i => (s.inst i.val).phase = .free || s.pagesOf i.val < o.vpn + o.npages)
  || o.npages = 0 || 16384 < o.npages
  || s.mems.objects.any (fun p => p.2.space = o.space && p.2.vpn < o.vpn + o.npages && o.vpn < p.2.vpn + p.2.npages)
  || (d ≠ 0 && o.pinned && (frames - (s.pinnedClaim d o.die + o.npages)) * 16 < frames)

/-- An object entered with the base that registration fixes; the manual states no rule for it (log entry 24). -/
def State.addObj (s : State) (oid : Nat) (o : Obj) : State :=
  let (b, s1) := s.takeFree
  let n := (s1.channels (s1.domainOf o.space) o.die).length
  { s1 with mems := { s1.mems with objects := s1.mems.objects.set oid { o with base := if n = 0 then 0 else b % n } } }

/-- The object that staging describes (R518). -/
def State.stagedObj (s : State) (d : Nat) : Obj :=
  let w (i : Nat) : Word := s.reg (pgCru d) (0x140 + 4 * i)
  { space := if bitOf (w 0) 12 then .dom0 else spaceOf (fld (w 0) 11 0), die := d, vpn := fld (w 1) 30 0, npages := fld (w 2) 14 0,
    pinned := bitOf (w 0) 13, cmpt2 := bitOf (w 0) 14, base := 0, stalls := Stalls.zero }

/-- REGISTER (R279). -/
def hostRegister (d : DieId) (v : Word) (s : State) : Ans :=
  let o := s.stagedObj d.val
  if s.objRefused (objOid v) o then .next (s.objStatus d.val .configInvalid)
  else .next ((s.addObj (objOid v) o).objStatus d.val .ok)

/-- UNREGISTER (R279). -/
def hostUnregister (d : DieId) (v : Word) (s : State) : Ans :=
  if objOid v < 4096 || (s.mems.objects.find (objOid v)).isNone then .next (s.objStatus d.val .configInvalid)
  else .next (({ s with mems := { s.mems with objects := s.mems.objects.erase (objOid v) } }).objStatus d.val .ok)

/-- Staging takes an object entry (R518). -/
def State.stageObj (s : State) (d inst : Nat) (d0 pinned cmpt2 : Bool) (vpn npages base : Nat) (st : Stalls) : State :=
  let ws := [w32 (inst + 4096 * b1 d0 + 8192 * b1 pinned + 16384 * b1 cmpt2), w32 vpn, w32 npages, w32 base, w32 st.t2n, w32 st.t2t, w32 st.t3n, w32 st.t3t]
  foldN 8 (fun i t => t.setReg (pgCru d) (0x140 + 4 * i) (wAt ws i)) s

/-- OBJECT_READ (R279, R518). -/
def hostObjectRead (d : DieId) (v : Word) (s : State) : Ans :=
  let oid := objOid v
  if oid < 4096 then
    let n := (s.channels (s.inst oid).domain d.val).length
    .next ((s.stageObj d.val oid false false false 0 0 (if n = 0 then 0 else oid % n) (s.mems.dstalls.get Stalls.zero (oid * 4 + d.val))).objStatus d.val .ok)
  else match s.mems.objects.find oid with
    | none => .next (s.objStatus d.val .configInvalid)
    | some o =>
      let (i, z) := match o.space with | .dom0 => (0, true) | .inst i => (i.val, false)
      .next ((s.stageObj d.val i z o.pinned o.cmpt2 o.vpn o.npages o.base o.stalls).objStatus d.val .ok)

/-- HBM_RETIRE_LOG_WRITE: VALID retires a frame; VALID = 0 with the oldest entry's frame removes that entry (R306). -/
def hostHbmRetireLogWrite (ctl : HbmId) (v : Word) (s : State) : Ans :=
  let f := fld v 23 0
  if bitOf v 24 then .next (if frameHbm f = ctl.val then s.retire f else s)
  else match s.mems.retireLog.get [] ctl.val with
    | g :: rest => .next (if g = f then { s with mems := { s.mems with retireLog := s.mems.retireLog.set ctl.val rest } } else s)
    | [] => .next s

end Sys2Proof.Machine
end

