-- ==== Sys2Proof/Machine/Jobs.lean ====
section
/-! DEFINITION. Jobs, command and result queues, request contexts and the grove sequencers' steps (10). -/

namespace Sys2Proof.Machine

/-! Result queue (R263 to R268). -/

def State.rqRoom (s : State) (i : Nat) : Bool :=
  s.ringOn (pgMbx i) 0x120 && idxGap (s.ringIdx (pgMbx i) 0x120) (s.inst i).rqTail < s.ringLen (pgMbx i) 0x120

/-- RQ_NONEMPTY follows head ≠ tail (R273). -/
def State.rqEvent (s : State) (i : Nat) : State := s.mbxLevel i 8 (s.ringIdx (pgMbx i) 0x120 ≠ (s.inst i).rqTail)

/-- CQ_PAUSED and its event (R259, R268, R273). -/
def State.cqPause (s : State) (i : Nat) (on : Bool) : State := (s.updInst i (fun x => { x with cqPaused := on })).mbxLevel i 9 on

/-- The die of a job's slice. -/
def jobDie (j : Job) : Nat := (((List.range 64).find? (fun g => j.gmask / 2 ^ g % 2 = 1)).getD 0) / 16

/-- Slice tiles in slice order (R251): granule by granule, ascending. -/
def sliceTiles (j : Job) : List Nat :=
  ((List.range 64).filter (fun g => j.gmask / 2 ^ g % 2 = 1)).flatMap (fun g => (List.range 16).map (g * 16 + ·))

def State.job (s : State) (i j : Nat) : Job := (s.inst i).jobs.get Job.closed j
def State.setJob (s : State) (i j : Nat) (x : Job) : State := s.updInst i (fun y => { y with jobs := y.jobs.set j x })

/-- A context's slot returns to the pool (R260). -/
def State.freeCtx (s : State) (k : Nat) : State :=
  let s1 := { s with ctxs := s.ctxs.erase k }
  { s1 with mems := { s1.mems with homes := s1.mems.homes.map (fun p => (p.1, { p.2 with pfHold := p.2.pfHold.filter (fun h => h.ctx ≠ k) })) } }

/-- A granule of the mask is held by a job (R250). -/
def State.granulesHeld (s : State) (g : Nat) : Bool :=
  s.insts.any (fun p => p.2.jobs.any (fun q => q.2.isOpen && (List.range 64).any (fun n => g / 2 ^ n % 2 = 1 && q.2.gmask / 2 ^ n % 2 = 1)))

/-- What a record's write does: a slice is the job's from the clock its OPEN_JOB record is written until its CLOSE_JOB record is (R250, R251); contexts that waited for a restart are READY (R259, R260). -/
def State.recEffect (s : State) (i : Nat) (e : RecEffect) : State :=
  match e with
  | .none => s
  | .opens n j => if s.granulesHeld j.gmask then s else s.setJob i n j
  | .closes n => s.updInst i (fun x => { x with jobs := x.jobs.erase n })
  | .restarted n seq =>
    let t := s.setJob i n { s.job i n with restart := none, seq := seq }
    { t with ctxs := t.ctxs.map (fun p => if p.2.inst = i && p.2.job = n && p.2.state = .queued then (p.1, { p.2 with state := .ready }) else p) }

/-- The code of a record as it is written: DEADLINE_MISSED when the context's tag has passed (R265); CONFIG_INVALID for an OPEN_JOB whose granules another job came to hold while its record waited (R250). -/
def State.recCode (s : State) (r : ReadyRec) : Code :=
  match r.ctx, r.effect with
  | some k, _ => s.closeCode (s.ctx k).tag r.code
  | none, .opens _ j => if s.granulesHeld j.gmask then .configInvalid else r.code
  | none, _ => r.code

/-- A ready record is written at the tail (R263, R265). -/
def State.writeRec (s : State) (i : Nat) (r : ReadyRec) : State :=
  let x := s.inst i
  let len := s.ringLen (pgMbx i) 0x120
  let code := s.recCode r
  let w0 := w32 ((wAt r.words 0).toNat + codeVal code * 65536 + phaseOf x.rqTail len * 2 ^ 24)
  let ws := (setAt (setAt r.words 2 s.now32) 0 w0)
  let s1 := (s.storeDev (spaceOf i) (s.ringBase (pgMbx i) 0x120 + 64 * (x.rqTail % len)) (bytesOf ws)).2
  let s2 := ((s1.updInst i (fun y => { y with rqTail := (y.rqTail + 1) % 65536 })).rqEvent i).recEffect i r.effect
  match r.ctx with
  | none => s2
  | some k =>
    let c := s2.ctx k
    let s3 := if s.pastTag c.tag then s2.missInst (jobDie (s2.job i c.job)) i else s2
    if bitOf (wAt r.words 0) 25 then
      (if s.lv.cut && !c.aborted then s3.setCtx k { c with state := .ending, cause := some .fencedOut }
       else s3.setCtx k { c with state := if c.aborted then .ending else .ready })
    else s3.freeCtx k

/-- Waiting records are written in ready order while entries are free; with none left, fetching goes on unless a RUN waits for a context (R259, R268). -/
def State.rqDrain (s : State) (i : Nat) : Nat → State
  | 0 => s
  | fuel + 1 =>
    match (s.inst i).rqWait with
    | [] => if (s.inst i).cqPaused && !(s.inst i).runHeld then s.cqPause i false else s
    | r :: rest => if s.rqRoom i then ((s.updInst i (fun x => { x with rqWait := rest })).writeRec i r).rqDrain i fuel else s

/-- A record becomes ready (R263): written at once, or held, which pauses the instance's fetching (R268). An instance that squashes writes none (R326). -/
def State.postRec (s : State) (i : Nat) (r : ReadyRec) : State :=
  let mute : Bool := match r.ctx with
    | some k => (s.ctx k).noRec
    | none => (s.inst i).phase = .squashing
  if mute then
    (match r.ctx with | some k => s.freeCtx k | none => s)
  else
    let s1 := match r.ctx with | some k => s.updCtx k (fun c => { c with state := .rqWait }) | none => s
    if (s1.inst i).rqWait.isEmpty && s1.rqRoom i then s1.writeRec i r
    else (s1.updInst i (fun x => { x with rqWait := x.rqWait ++ [r] })).cqPause i true

/-- The record of a command other than RUN, or of a refused RUN (R264), with what its write does. -/
def State.jobRec (s : State) (i opc ticket : Nat) (code : Code) (job steps : Nat) (e : RecEffect) : State :=
  s.postRec i { words := [w32 (ticket + opc * 2 ^ 28), w32 (job * 2 ^ 20), 0, w32 steps] ++ List.replicate 12 0#32, code := code, ctx := none, effect := e }

/-- Such a record that changes nothing else. -/
def State.simpleRec (s : State) (i opc ticket : Nat) (code : Code) (job steps : Nat) : State := s.jobRec i opc ticket code job steps .none

/-- HELDTIME in 32 ns units, with an interval that is still open (R264). -/
def State.heldUnits (s : State) (c : ReqCtx) : Nat :=
  min 0xFFFFFFFF ((c.heldTime + (match c.lentAt with | some t0 => s.now - t0 | none => 0)) / 32)

/-- The record of a context (R264, R265). -/
def State.ctxRec (s : State) (k : Nat) (more : Bool) (code : Code) (inl : List Byte) : State :=
  let c := s.ctx k
  let ws := [w32 (c.ticket + 2 ^ 25 * b1 more + 2 ^ 28),
             w32 (k + 2 ^ 18 + c.job * 2 ^ 20 + (match c.cause with | some e => codeVal e | none => 0) * 2 ^ 24), 0,
             w32 c.step.toNat, w32 (c.flags.toNat + 256 * b1 c.missed + 512 * b1 c.ovf), w32 c.tierStall, w32 (s.heldUnits c), w32 c.qTime]
            ++ wordsOf 8 inl
  s.postRec c.inst { words := ws, code := if c.ovf then codeMin code .overflow else code, ctx := some k, effect := .none }

/-! Tiles of a context (R251, R255). -/

/-- The tile's data is out of it: spilled, lent or on its way back (R236). -/
def schedAway : TSched → Bool
  | .spill | .scrubIn | .standby | .lent | .drain | .scrubOut | .restore => true
  | .none | .floor | .preempt => false

/-- A tile is released (R255): the LIVE mark goes, and with it a spilled image (R236). -/
def State.releaseTile (s : State) (k t : Nat) : State :=
  let x := s.tile t
  if x.holder = some k then s.setTile t { x with holder := none, live := none, dropImage := x.dropImage || schedAway x.sched || x.sched = .preempt }
  else s

/-- A tile of a slice is scrubbed at a CLOSE_JOB or RESTART (R251, R272), within the step (log entry 20); one that is lent goes without its image. -/
def State.scrubTile (s : State) (t : Nat) : State :=
  let x := s.tile t
  if x.sched = .none then (s.startScrub t).updTile t (fun y => { y with store := [], scrub := false, lastInst := none, live := none, holder := none })
  else s.setTile t { x with live := none, holder := none, lastInst := none, dropImage := true }

/-- The context's footprint and kept tiles are released. -/
def State.releaseAll (s : State) (k : Nat) : State :=
  let c := s.ctx k
  (foldS (c.foot ++ c.kept) (fun t u => u.releaseTile k t) s).updCtx k (fun x => { x with foot := [], kept := [] }) |>.heldCheck k

/-- The end of a step for its footprint (R255): with KEEP = 0 every tile of it is released, those that an earlier KEEP step left with the context among them. -/
def State.endFoot (s : State) (k : Nat) (keep : Bool) : State :=
  let c := s.ctx k
  if keep then s.setCtx k { c with foot := [], kept := c.kept ++ c.foot.filter (fun t => !c.kept.contains t) }
  else
    (foldS c.foot (fun t u => u.releaseTile k t) s).updCtx k (fun x => { x with foot := [], kept := x.kept.filter (fun t => !c.foot.contains t) }) |>.heldCheck k

/-! Ends of contexts (R269, R270). -/

/-- The context stops issuing and ends (R269, R270). -/
def State.endCtx (s : State) (k : Nat) (cause : Option Code) : State :=
  let c := s.ctx k
  match c.state with
  | .free | .ending => s
  | .rqWait => if (s.inst c.inst).rqWait.any (fun r => r.ctx = some k && bitOf (wAt r.words 0) 25) then s.setCtx k { c with aborted := true, cause := cause } else s
  | _ => s.setCtx k { c with state := .ending, issue := [], aborted := cause.isNone, cause := cause }

/-- A step boundary (R254): the counter rises, a blaze is written (R425), the context is READY at the next step, or ends on a FENCED module (R378). -/
def State.boundary (s : State) (k : Nat) (pc : Nat) : State :=
  let c := s.ctx k
  let cfg := s.reg pgTime 0x300
  let s1 := if bitOf cfg 8 || fld cfg 31 20 = c.inst then
      s.blaze 0x11 k (leBytes 4 c.ticket ++ leBytes 8 (c.step + 1).toNat ++ leBytes 4 (crc32 c.folded)) else s
  let ends : Bool := s.lv.cut && c.state = .run
  s1.updCtx k (fun x => { x with step := x.step + 1, pc := pc, state := if ends then .ending else if x.state = .run then .ready else x.state,
                                 cause := if ends then some .fencedOut else x.cause, folded := [] })

/-! Step table (R252, R253). -/

def State.pkgOf (s : State) (i j : Nat) : Option Pkg := s.seed.pkgs.find (s.job i j).pkg

def stKind (e : List Word) : Nat := fld (wAt e 0) 3 0
def stKeep (e : List Word) : Bool := bitOf (wAt e 0) 4
def stNcmd (e : List Word) : Nat := fld (wAt e 0) 23 8
def stCmdoff (e : List Word) : Nat := (wAt e 1).toNat
def stTile0 (e : List Word) : Nat := fld (wAt e 2) 9 0
def stTileN (e : List Word) : Nat := fld (wAt e 2) 20 10
def stTarget (e : List Word) : Nat := fld (wAt e 3) 15 0
def stInlAddr (e : List Word) : Nat := fld (wAt e 4) 18 0
def stInlTile (e : List Word) : Nat := fld (wAt e 4) 28 19

/-- Fields of a descriptor are in range for a slice of n tiles (R252). -/
def stepOk (e : List Word) (n : Nat) : Bool :=
  1 ≤ stKind e && stKind e ≤ 6 && fld (wAt e 0) 7 5 = 0 && fld (wAt e 0) 31 24 = 0 && stCmdoff e % 8 = 0
  && stTileN e ≤ 1024 && stTile0 e + stTileN e ≤ n && fld (wAt e 2) 31 21 = 0 && fld (wAt e 3) 31 16 = 0 && fld (wAt e 4) 31 29 = 0
  && wAt e 5 = 0#32 && wAt e 6 = 0#32 && wAt e 7 = 0#32
  && ((stKind e ≠ 4 && stKind e ≠ 6) || (stInlTile e < n && stInlAddr e + 32 ≤ operandEnd && !stKeep e))

/-- The descriptor at the context's step, when the table has one that is well formed. -/
def State.stepAt (s : State) (c : ReqCtx) (pc : Nat) : Option (List Word) :=
  match s.pkgOf c.inst c.job with
  | none => none
  | some p =>
    match p.steps[pc]? with
    | some e => if stepOk e (sliceTiles (s.job c.inst c.job)).length then some e else none
    | none => none

/-- The global tiles of a step's footprint. -/
def State.footOf (s : State) (c : ReqCtx) (e : List Word) : List Nat :=
  ((sliceTiles (s.job c.inst c.job)).drop (stTile0 e)).take (stTileN e)

/-- The command list at an offset of the command area (R253). A list that runs off the area ends in a header that no check passes. -/
def parseCmds (area : List Byte) : Nat → Nat → List PendCmd
  | 0, _ => []
  | n + 1, off =>
    let h := wordsOf 2 ((area.drop off).take 8)
    let len := if bitOf (wAt h 0) 10 then 128 else 64
    if area.length < off + 8 + len then [{ header := 0, header1 := 1, words := [] }]
    else { header := wAt h 0, header1 := wAt h 1, words := wordsOf (len / 4) ((area.drop (off + 8)).take len) } :: parseCmds area n (off + 8 + len)

def State.stepCmds (s : State) (c : ReqCtx) (e : List Word) : List PendCmd :=
  match s.pkgOf c.inst c.job with
  | some p => parseCmds p.cmds (stNcmd e) (stCmdoff e)
  | none => []

/-! Prefetch (R289, R290). -/

/-- Bytes and pages of a transfer's memory extent. -/
def xferExtent (ws : List Word) : Nat × List (Nat × Nat) :=
  let x := decodeXfer ws
  let n := xferMemRow x true
  (x.rows * n, (List.range x.rows).map (fun r => (x.addr + r * x.mp, n)))

/-- The extents of weight LOADs in a step. -/
def weightLoads (cs : List PendCmd) : List (List Word) :=
  (cs.filter (fun c => cmdOp c.words = 4 && fld c.header 12 11 = 3)).map (·.words)

/-- The step that follows descriptor e at pc with loop counter lc, and the loop counter there; nothing follows END (R252). -/
def stepAfter (c : ReqCtx) (e : List Word) (pc lc : Nat) : Option (Nat × Nat) :=
  if stKind e = 6 then none
  else if stKind e = 3 && lc + 1 < c.limit then some (stTarget e, lc + 1)
  else some (pc + 1, lc)

/-- Weight LOADs on the path a context will take, each with the value that the step counter will have at its step (R289). -/
def State.walkPath (s : State) (c : ReqCtx) : Nat → Nat → Nat → DWord → Nat → List (DWord × List Word)
  | 0, _, _, _, _ => []
  | fuel + 1, pc, lc, step, room =>
    match s.stepAt c pc with
    | none => []
    | some e =>
      let ls := if stKind e = 1 then weightLoads (s.stepCmds c e) else []
      let n := (ls.map (fun w => (xferExtent w).1)).sum
      let here := ls.map (fun w => (step, w))
      match stepAfter c e pc lc with
      | none => here
      | some (pc1, lc1) => if room ≤ n then here else here ++ s.walkPath c fuel pc1 lc1 (step + 1) (room - n)

/-- The prefetcher's requests for one weight LOAD: a promotion, with the context's tag, of each page that is not in T2, which is held from then on; then the lines of pages in T2 (R219, R289, R290). -/
def State.prefetchLoad (s : State) (k : Nat) (wbase : Nat) (step : DWord) (ws : List Word) : State :=
  let c := s.ctx k
  let sp := spaceIdx (spaceOf c.inst)
  let hold : PfHold := { ctx := k, addr := (wbase + (decodeXfer ws).addr) % 2 ^ 48, step := step }
  foldS (xferExtent ws).2 (fun r t =>
    let pks := pagesIn sp (wbase + r.1) r.2
    let t1 := foldS (pks.filter (fun pk => (t.home pk).tier ≠ .t2)) (fun pk u =>
      (u.updHome pk (fun h => if h.pfHold.contains hold then h else { h with pfHold := hold :: h.pfHold })).startPromotion pk c.tag) t
    foldS pks (fun pk u => u.pfPage (u.domainOf (spaceOf c.inst)) pk) t1) s

/-- The grove's prefetcher walks the steps after the one that starts, in that step (R289). Its 8 streams bound walks under way together; a walk that takes no time never meets the bound (DESIGN CHOICE, log entry 20). -/
def State.prefetchWalk (s : State) (k : Nat) : State :=
  let c := s.ctx k
  match s.pkgOf c.inst c.job, s.stepAt c c.pc with
  | some p, some e =>
    let cfg := s.reg (pgCru (jobDie (s.job c.inst c.job))) 0x010
    (match stepAfter c e c.pc c.lc with
     | none => s
     | some (pc, lc) =>
       foldS (s.walkPath c (fld cfg 27 24) pc lc (c.step + 1) (2 ^ (20 + fld cfg 31 28))) (fun w t => t.prefetchLoad k p.wbase w.1 w.2) s)
  | _, _ => s

/-! Steps. -/

/-- Context k ranks before context j of one job (R256). -/
def State.ranksBefore (s : State) (k j : Nat) : Bool :=
  let a := s.ctx k
  let b := s.ctx j
  let ka := s.tagKey a.tag a.late
  let kb := s.tagKey b.tag b.late
  ka < kb || (ka = kb && (a.order < b.order || (a.order = b.order && k < j)))

/-- The top-ranked READY context of a job. -/
def State.topReady (s : State) (i j : Nat) : Option Nat :=
  (s.ctxs.filter (fun p => p.2.inst = i && p.2.job = j && p.2.state = .ready)).foldl (fun acc p =>
    match acc with | none => some p.1 | some t => if s.ranksBefore p.1 t then some p.1 else some t) none

/-- A tile is free for the context's step (R255, R270); a parked grove's tile is not. -/
def State.tileFree (s : State) (k t : Nat) : Bool :=
  let x := s.tile t
  x.sched = .none && (x.holder = none || x.holder = some k) && s.tileLive t

/-- A die whose sequencers start no new step (R485). -/
def State.throttled (s : State) (die : Nat) : Bool := s.pwr.throt / 2 ^ die % 2 = 1

/-- Bytes of one slot of a job's checkpoint (R271): at least its header. -/
def slotSize (p : Pkg) : Nat := max 64 p.ckptsz

/-- The slot of the job's next checkpoint, and its SEQ (R271). -/
def nextSlot (j : Job) (p : Pkg) : Nat × Nat :=
  let seq := (j.seq + 1) % 2 ^ 32
  (j.ckptva + seq % 2 * slotSize p, seq)

/-- A CKPT step begins: its slot's VALID is cleared (R271), so a step that is cut leaves it clear (R272, R328). -/
def State.ckptClear (s : State) (k : Nat) : Code × State :=
  let c := s.ctx k
  match s.pkgOf c.inst c.job with
  | none => (.configInvalid, s)
  | some p => s.storeDev (spaceOf c.inst) ((nextSlot (s.job c.inst c.job) p).1 + 4) (leBytes 4 0)

/-- STEP_START: a READY context whose footprint is free starts its next step (R252, R255, R256, R485). -/
def execStepStart (id : ReqId) (s : State) : Ans :=
  let k := id.val
  let c := s.ctx k
  if c.state ≠ .ready || s.throttled (jobDie (s.job c.inst c.job)) then .next s else
  match s.stepAt c c.pc with
  | none => .next (s.endCtx k (some .configInvalid))
  | some e =>
    let foot := s.footOf c e
    let top := (s.topReady c.inst c.job).getD k
    let blocked := top ≠ k && (match s.stepAt (s.ctx top) (s.ctx top).pc with
      | some f => (s.footOf (s.ctx top) f).any (fun t => foot.contains t)
      | none => false)
    let ckptBusy := stKind e = 5 && s.ctxs.any (fun p => p.2.inst = c.inst && p.2.job = c.job && p.2.state = .run
      && (match s.stepAt p.2 p.2.pc with | some f => stKind f = 5 | none => false))
    match foot.find? (fun t => (s.tile t).suspect) with
    | some t => .next (s.bump (pgGrv (t / 32)) 0 1)
    | none =>
      if blocked || ckptBusy || !foot.all (s.tileFree k) then .next s
      else
        let s1 := s.setCtx k { c with state := .run, foot := foot, issue := s.stepCmds c e, started := true, folded := [],
                                      qTime := if c.started then c.qTime else (s.now - c.openedAt) / 32 }
        let s2 := foldS foot (fun t u =>
          let y := u.tile t
          let u1 := u.setTile t { y with holder := some k }
          match y.lastInst with
          | some j => if j = c.inst then u1 else (u1.startScrub t).updTile t (fun z => { z with lastInst := none })
          | none => u1) s1
        let s3 := s2.prefetchWalk k
        if stKind e ≠ 5 then .next s3 else
        (match s3.ckptClear k with
         | (.ok, s4) => .next s4
         | (code, s4) => .next (s4.endCtx k (some code)))

/-- The context's running step, if it is of a kind. -/
def State.runStep (s : State) (k kind : Nat) : Option (List Word) :=
  let c := s.ctx k
  if c.state = .run then
    (match s.stepAt c c.pc with
     | some e => if stKind e = kind then some e else none
     | none => none)
  else none

/-- The step's last record has arrived: a boundary (R254). -/
def State.stepDone (s : State) (k : Nat) : State :=
  let c := s.ctx k
  if c.state = .run && c.outst = 0 && c.issue.isEmpty && c.recs.isEmpty then
    match s.stepAt c c.pc with
    | some e =>
      if stKind e = 1 || stKind e = 2 then (s.endFoot k (stKeep e)).boundary k (c.pc + 1) else s
    | none => s
  else s

/-- Where a relocated LOAD or STORE goes (R253, R261), or why the context is torn down. -/
def State.relocate (s : State) (c : ReqCtx) (reloc : Nat) (ws : List Word) : Except Code (Nat × State) :=
  let a := (wAt ws 4).toNat + fld (wAt ws 5) 15 0 * 2 ^ 32
  match reloc with
  | 0 => .ok (a, s)
  | 1 => .ok ((c.arg + a) % 2 ^ 48, s)
  | 3 => .ok ((((s.pkgOf c.inst c.job).map (·.wbase)).getD 0 + a) % 2 ^ 48, s)
  | _ =>
    let x := decodeXfer ws
    let n := if x.rows = 0 then 0 else (x.rows - 1) * x.mp + xferMemRow x (cmdOp ws = 4)
    let p := a / 65536
    let o := a % 65536
    if c.kvlen ≤ p || 65536 < o + n then .error .configInvalid
    else match s.loadDev (spaceOf c.inst) (c.kvlist + 8 * p) 8 with
      | (.ok, bs, s1) =>
        let v := leNat bs
        if v % 2 = 1 then .ok (v / 65536 % 2 ^ 32 * 65536 + o, s1) else .error .configInvalid
      | (_, _, _) => .error .configInvalid

/-- A header's fields are well formed and its length is its command's (R253). -/
def headerOk (p : PendCmd) : Bool :=
  p.header1 = 0#32 && fld p.header 31 13 = 0 && (bitOf p.header 10 = bitOf (wAt p.words 0) 27)

/-- A command as the sequencer writes it: its own TAG, the context's tag, the relocated address (R253). -/
def issuedWords (k tag : Nat) (ws : List Word) (addr : Option Nat) : List Word :=
  let w0 := w32 ((wAt ws 0).toNat / 65536 * 65536 + k % 65536)
  let w1 := w32 ((wAt ws 1).toNat / 2 ^ 24 * 2 ^ 24 + tag)
  let ws1 := setAt (setAt ws 0 w0) 1 w1
  match addr with
  | none => ws1
  | some a => setAt (setAt ws1 4 (w32 a)) 5 (w32 ((wAt ws 5).toNat / 65536 * 65536 + a / 2 ^ 32))

/-- The next command of the step's list goes to its tile: true when it went. It waits for a tile in a borrow (R250) and for an entry of the queue (R60); a tile that the map no longer gives to the context's domain, or whose grove is parked, refuses it (R60, R251, R253). -/
def State.issueOne (s : State) (k : Nat) (e : List Word) : Bool × State :=
  let c := s.ctx k
  match c.issue with
  | [] => (false, s)
  | p :: rest =>
    let n := fld p.header 9 0
    if !headerOk p || n < stTile0 e || stTile0 e + stTileN e ≤ n then (false, s.endCtx k (some .configInvalid)) else
    let t := (sliceTiles (s.job c.inst c.job)).getD n 0
    let x := s.tile t
    let dom := s.domainOf (spaceOf c.inst)
    let mine := s.tileHeldBy t dom
    if (x.sched ≠ .none && x.sched ≠ .floor) || (mine && (s.queueFull t || !s.eligible dom (tilePoint t))) then (false, s) else
    let op := cmdOp p.words
    let reloc := if op = 4 || op = 5 then some (fld p.header 12 11) else none
    let r : Except Code (Option Nat × State) := match reloc with
      | none => .ok (none, s)
      | some m => (s.relocate c m p.words).map (fun q => (some q.1, q.2))
    match r with
    | .error cause => (false, s.endCtx k (some cause))
    | .ok (a, s1) =>
      let cmd : TileCmd := { words := issuedWords k c.tag p.words a, issuer := .seq ⟨t / 32 % 32, Nat.mod_lt _ (by decide)⟩ k, space := spaceOf c.inst,
                             seed := c.seed, step := w32 c.step.toNat, late := c.late }
      let s2 := s1.updCtx k (fun y => { y with issue := rest, outst := y.outst + 1 })
      if mine then
        (true, ((s2.takeGrant dom (tilePoint t)).enqueue t cmd).updTile t (fun y => { y with live := some (c.inst, k), lastInst := some c.inst }))
      else (true, s2.refuseAtQueue t cmd)

/-- The context waits for the page of the KV-list entry that its next command is to read (R253, R295). -/
def State.kvWait (s : State) (k : Nat) : Option State :=
  let c := s.ctx k
  match c.issue with
  | p :: _ =>
    let q := (wAt p.words 4).toNat + fld (wAt p.words 5) 15 0 * 2 ^ 32
    if (cmdOp p.words = 4 || cmdOp p.words = 5) && fld p.header 12 11 = 2 && q / 65536 < c.kvlen then
      s.unitWait (.ctx k) c.tag [(spaceOf c.inst, c.kvlist + 8 * (q / 65536), 8, false)] else none
  | [] => none

/-- Commands issue in list order until one cannot (R253), or until a KV-list entry must be waited for (R295). -/
def State.issueAll (s : State) (k : Nat) (e : List Word) : Nat → State
  | 0 => s
  | fuel + 1 =>
    match s.kvWait k with
    | some t => t
    | none =>
      match s.issueOne k e with
      | (true, t) => t.issueAll k e fuel
      | (false, t) => t

/-- STEP_TILE (R252, R253). -/
def execStepTile (id : ReqId) (s : State) : Ans :=
  match s.runStep id.val 1 with
  | none => .next s
  | some e => .next ((s.issueAll id.val e ((s.ctx id.val).issue.length + 1)).stepDone id.val)

/-- TILE_QUEUE_ENTRY_FREE: contexts held up at this tile's queue issue on, nearest tag first (R60, R222). -/
def execTileQueueEntryFree (t : TileId) (s : State) : Ans :=
  let waits := s.ctxs.filter (fun p => p.2.state = .run && (match p.2.issue with
    | [] => false
    | q :: _ => (sliceTiles (s.job p.2.inst p.2.job)).getD (fld q.header 9 0) 1024 = t.val))
  match waits.foldl (fun acc p => match acc with
      | none => some p.1
      | some b => if s.ranksBefore p.1 b then some p.1 else some b) (none : Option Nat) with
  | none => .next s
  | some k =>
    match s.runStep k 1 with
    | none => .next s
    | some e => .next (s.issueAll k e ((s.ctx k).issue.length + 1))

/-- Slice tiles that a mask of slice numbers names, as grove numbers (R252). -/
def groveMask (slice : List Nat) (mask : Nat) : Nat :=
  ((List.range 32).filter (fun i => mask / 2 ^ i % 2 = 1)).foldl (fun acc i => acc ||| 2 ^ (slice.getD i 0 % 32)) 0

/-- STEP_SORT: the list's one command goes to the deck of the grove that holds FTILE0 (R252). -/
def execStepSort (id : ReqId) (s : State) : Ans :=
  let k := id.val
  let c := s.ctx k
  match s.runStep k 2 with
  | none => .next s
  | some e =>
    if stNcmd e ≠ 1 then .next (s.endCtx k (some .configInvalid)) else
    match c.issue with
    | [p] =>
      let slice := sliceTiles (s.job c.inst c.job)
      let foot := s.footOf c e
      let g := slice.getD (stTile0 e) 0 / 32
      let named := fld (wAt p.words 4) 23 19 :: (List.range 32).filter (fun i => bitOf (wAt p.words 7) i)
      if foot.isEmpty || !foot.all (fun t => t / 32 = g) || p.header1 ≠ 0#32 || fld p.header 31 10 ≠ 0
          || !named.all (fun i => stTile0 e ≤ i && i < stTile0 e + stTileN e) then .next (s.endCtx k (some .configInvalid))
      else if !foot.all (fun t => (s.tile t).sched = .none) then .next s
      else
        let stile := slice.getD (fld (wAt p.words 4) 23 19) 0 % 32
        let w4 := w32 ((wAt p.words 4).toNat / 2 ^ 24 * 2 ^ 24 + stile * 2 ^ 19 + fld (wAt p.words 4) 18 0)
        let ws := issuedWords k c.tag (setAt (setAt p.words 4 w4) 7 (w32 (groveMask slice (wAt p.words 7).toNat))) none
        let s1 := s.updCtx k (fun y => { y with issue := [], outst := y.outst + 1 })
        let s2 := foldS foot (fun t u => u.updTile t (fun y => { y with live := some (c.inst, k), lastInst := some c.inst })) s1
        .next (s2.updGrove g (fun v => { v with deckSeq := v.deckSeq + 1, deckWait := v.deckWait ++ [{ words := ws, ctx := k, domain := s.domainOf (spaceOf c.inst), late := c.late, seq := v.deckSeq }] }))
    | [] => .next s
    | _ => .next (s.endCtx k (some .configInvalid))

/-- JUMPC (R252). -/
def execJumpc (id : ReqId) (s : State) : Ans :=
  let k := id.val
  match s.runStep k 3 with
  | none => .next s
  | some e =>
    let c := s.ctx k
    let s1 := s.endFoot k (stKeep e)
    if c.lc + 1 < c.limit then .next ((s1.updCtx k (fun y => { y with lc := y.lc + 1 })).boundary k (stTarget e))
    else .next (s1.boundary k (c.pc + 1))

/-- The tile that holds a step's inline data is in a borrow: the step stalls (R250). -/
def State.inlineAway (s : State) (c : ReqCtx) (e : List Word) : Bool :=
  let z := (s.tile ((sliceTiles (s.job c.inst c.job)).getD (stInlTile e) 0)).sched
  z ≠ .none && z ≠ .floor

/-- Inline data of a step. -/
def State.inlineOf (s : State) (c : ReqCtx) (e : List Word) : List Byte :=
  (s.tile ((sliceTiles (s.job c.inst c.job)).getD (stInlTile e) 0)).store.readN (stInlAddr e) 32

/-- EMIT: inline data is copied, the footprint released, a record with MORE = 1 made ready (R252, R263, R268). -/
def execEmit (id : ReqId) (s : State) : Ans :=
  let k := id.val
  match s.runStep k 4 with
  | none => .next s
  | some e =>
    let c := s.ctx k
    if s.inlineAway c e then .next s else
    let inl := s.inlineOf c e
    let s1 := s.endFoot k false
    .next ((s1.boundary k (c.pc + 1)).updCtx k (fun x => { x with step := c.step, cause := c.cause }) |>.ctxRec k true .ok inl |>.updCtx k (fun x => { x with step := c.step + 1 }))

/-- Regions copied one after another; the first code that is not OK ends the copy. -/
def State.copyRegions (s : State) (sp : Space) (ws : List (Nat × Nat × Nat)) : Code × State :=
  ws.foldl (fun acc r =>
    if acc.1 ≠ .ok then acc else
    match acc.2.loadDev sp r.1 r.2.2 with
    | (.ok, bs, t) => t.storeDev sp r.2.1 bs
    | (c, _, t) => (c, t)) (.ok, s)

/-- Regions of the list with their places after a slot's header: (region, place, length). -/
def ckptPlan (p : Pkg) (slot : Nat) : List (Nat × Nat × Nat) :=
  (p.ckpt.foldl (fun (acc : List (Nat × Nat × Nat) × Nat) r => (acc.1 ++ [(p.wbase + r.1, acc.2, r.2)], acc.2 + r.2)) ([], slot + 64)).1

/-- The regions of the checkpoint list, and after them the header with VALID = 1 (R271): its step counter is the one of the step after the CKPT, with which a restarted context goes on (R421; DEDUCED, log entry 133). -/
def State.writeCkpt (s : State) (i : Nat) (c : ReqCtx) (j : Job) (p : Pkg) : Code × State :=
  let (slot, seq) := nextSlot j p
  match s.copyRegions (spaceOf i) (ckptPlan p slot) with
  | (.ok, s2) => s2.storeDev (spaceOf i) slot (leBytes 4 seq ++ leBytes 4 1 ++ leBytes 8 (c.step + 1).toNat ++ List.replicate 48 0#8)
  | e => e

/-- The extents that a copy of regions reads and writes. -/
def copyExtents (sp : Space) (ws : List (Nat × Nat × Nat)) : List (Space × Nat × Nat × Bool) :=
  ws.flatMap (fun r => [(sp, r.1, r.2.2, false), (sp, r.2.1, r.2.2, true)])

/-- CKPT: the step that STEP_START began writes its data and its header (R271), once their pages are in T2 (R276). -/
def execCkpt (id : ReqId) (s : State) : Ans :=
  let k := id.val
  match s.runStep k 5 with
  | none => .next s
  | some e =>
    let c := s.ctx k
    match s.pkgOf c.inst c.job with
    | none => .next (s.endCtx k (some .configInvalid))
    | some p =>
      let j := s.job c.inst c.job
      match s.unitWait (.ctx k) c.tag (copyExtents (spaceOf c.inst) (ckptPlan p (nextSlot j p).1) ++ [(spaceOf c.inst, (nextSlot j p).1, 64, true)]) with
      | some t => .next t
      | none =>
      match s.writeCkpt c.inst c j p with
      | (.ok, s1) => .next (((s1.setJob c.inst c.job { j with seq := (j.seq + 1) % 2 ^ 32 }).endFoot k (stKeep e)).boundary k (c.pc + 1))
      | (code, s1) => .next (s1.endCtx k (some code))

/-- STEP_END: inline data is copied, every tile released, the final record made ready (R252, R263). -/
def execStepEnd (id : ReqId) (s : State) : Ans :=
  let k := id.val
  match s.runStep k 6 with
  | none => .next s
  | some e =>
    if s.inlineAway (s.ctx k) e then .next s else
    let inl := s.inlineOf (s.ctx k) e
    -- on a FENCED module the end of the step ends the context with FENCED_OUT (R378)
    .next ((s.releaseAll k).ctxRec k false (if s.lv.cut then .fencedOut else .ok) inl)

/-- The code of a value, OK for an unknown one. -/
def codeOf (n : Nat) : Code :=
  ([.ok, .empty, .notReady, .preempted, .tierLate, .tierError, .keyDenied, .pathLost, .generationMismatch, .levelUnsupported, .deadlineMissed,
    .aborted, .faultContained, .fencedOut, .signatureInvalid, .configInvalid, .capacityExceeded, .overflow, .checksumFault, .indexExhausted] : List Code).getD n .ok

/-- Codes of a step record that tear a context down (R254). -/
def tearsDown (c : Code) : Bool := c = .tierError || c = .keyDenied || c = .checksumFault || c = .configInvalid

/-- The instance is being reset or destroyed (R326). -/
def State.resetting (s : State) (i : Nat) : Bool := (s.inst i).phase = .draining || (s.inst i).phase = .squashing

/-- SEQUENCER_RECORD: the oldest record that has been posted for the context is folded in, while it ends too; the first record with a code of R254 is the teardown's cause (R264), but not where a reset decides the record (R328). -/
def execSequencerRecord (id : ReqId) (s : State) : Ans :=
  let k := id.val
  let c := s.ctx k
  match c.recs with
  | [] => .next s
  | r :: rest =>
    let code := codeOf (fld (wAt r 0) 23 16)
    let fl (b : Nat) : Bool := bitOf (wAt r 0) (24 + b)
    let c1 := { c with
      recs := rest, outst := c.outst - 1, flags := c.flags.or { nanSeen := fl 0, infSeen := fl 1, satOut := fl 2, satAcc := fl 3, fmtErr := fl 4 },
      missed := c.missed || code = .deadlineMissed, ovf := c.ovf || code = .overflow,
      folded := c.folded ++ [BitVec.ofNat 8 (codeVal code), BitVec.ofNat 8 (fld (wAt r 0) 28 24)] }
    if tearsDown code then
      .next (if c.state = .ending then s.setCtx k { c1 with cause := if s.resetting c.inst then c.cause else some (c.cause.getD code) } else (s.setCtx k c1).endCtx k (some code))
    else .next ((s.setCtx k c1).stepDone k)

/-! Ends of jobs (R251, R272). -/

/-- Every tile of a slice is scrubbed; lent ones on return, without their image. -/
def State.scrubSlice (s : State) (j : Job) : State := foldS (sliceTiles j) (fun t u => u.scrubTile t) s

/-- The newest valid checkpoint: SEQ and slot address (R272). -/
def State.newestCkpt (s : State) (i : Nat) (j : Job) (p : Pkg) : Option (Nat × Nat) :=
  [0, 1].foldl (fun acc n =>
    let a := j.ckptva + n * slotSize p
    match s.loadDev (spaceOf i) a 64 with
    | (.ok, bs, _) =>
      let seq := leNat (bs.take 4)
      if leNat ((bs.drop 4).take 4) % 2 = 1 && (match acc with | none => true | some q => q.1 < seq) then some (seq, a) else acc
    | _ => acc) none

/-- The job's CLOSE_JOB or RESTART has done its work and its record waits for an entry (R268). -/
def State.jobPosted (s : State) (i n : Nat) : Bool :=
  (s.inst i).rqWait.any (fun r => match r.effect with | .closes m => m = n | .restarted m _ => m = n | _ => false)

/-- A RESTART waits for the pages of its checkpoint's headers, then of the regions that it copies (R272, R276). -/
def State.restartWait (s : State) (i n : Nat) (j : Job) : Option State :=
  match s.pkgOf i n with
  | none => none
  | some p =>
    let tag := (tagOf s.now + s.drel (s.inst i).cls) % 2 ^ 24
    match s.unitWait (.job i n) tag [(spaceOf i, j.ckptva, 64, false), (spaceOf i, j.ckptva + slotSize p, 64, false)] with
    | some t => some t
    | none => (s.newestCkpt i j p).bind (fun q => s.unitWait (.job i n) tag (copyExtents (spaceOf i) ((ckptPlan p q.2).map (fun r => (r.2.1, r.1, r.2.2)))))

/-- A CLOSE_JOB or RESTART goes on once no context of the job is left to end (R251, R272). -/
def State.jobCheck (s : State) (i n : Nat) : State :=
  let j := s.job i n
  if s.jobPosted i n then s else
  let left := s.ctxs.any (fun p => p.2.inst = i && p.2.job = n &&
    (p.2.state = .ready || p.2.state = .run || p.2.state = .ending || (p.2.state = .rqWait && p.2.aborted) || (p.2.state = .queued && j.restart.isNone)))
  if left then s else
  match j.closing, j.restart with
  | some ticket, _ => (s.scrubSlice j).jobRec i 4 ticket .ok n 0 (.closes n)
  | none, some ticket =>
    match s.restartWait i n j with
    | some t => t
    | none =>
    let s1 := s.scrubSlice j
    (match (s1.pkgOf i n).bind (fun p => (s1.newestCkpt i j p).map (fun q => (p, q))) with
     | none => s1.jobRec i 5 ticket .empty n 0 (.restarted n j.seq)
     | some (p, seq, a) =>
       let r := s1.copyRegions (spaceOf i) ((ckptPlan p a).map (fun q => (q.2.1, q.1, q.2.2)))
       r.2.jobRec i 5 ticket r.1 n seq (.restarted n seq))
  | none, none => s

/-- Commands of the context in a queue and its flights. -/
def cmdsOf (k : Nat) (q : List TileCmd) (fs : List Flight) : Nat :=
  (q.filter (fun c => seqCtx c.issuer = some k)).length + (fs.filter (fun f => seqCtx f.cmd.issuer = some k)).length

/-- Issued commands of the context whose records are still to come; those in a discarded image never complete. -/
def State.cmdsOut (s : State) (k : Nat) (drop : Bool) : Nat :=
  (s.tiles.map (fun p =>
    (if drop && schedAway p.2.sched then 0 else cmdsOf k p.2.queue p.2.flights)
    + (match p.2.image with | some g => if drop || p.2.dropImage then 0 else cmdsOf k g.save.queue g.save.flights | none => 0))).sum
  + (s.groves.map (fun p => ((p.2.deck0.toList ++ p.2.deck1.toList ++ p.2.deckWait).filter (fun c => c.ctx = k)).length)).sum
  + (s.ctx k).recs.length

/-- The context's images are discarded: a teardown, a close or a restart (R251, R270, R272). -/
def State.dropsImages (s : State) (c : ReqCtx) : Bool :=
  c.cause.isSome || c.noRec || (s.job c.inst c.job).closing.isSome || (s.job c.inst c.job).restart.isSome

/-- Tiles that the context holds. -/
def State.heldTiles (s : State) (k : Nat) : List Nat :=
  let c := s.ctx k
  (c.foot ++ c.kept).filter (fun t => (s.tile t).holder = some k)

/-- A tile that is torn down with its context (R270): the scrub begins, or a lent tile goes without its image. -/
def State.tearTile (s : State) (t : Nat) : State :=
  if schedAway (s.tile t).sched then s.scrubTile t else s.startScrub t

/-- STATUS of a context that ends (R265, R270): among ABORTED after a cancel, close, restart or reset, and FAULT_CONTAINED and the cause after a teardown. -/
def endCode (c : ReqCtx) : Code :=
  codePick [match c.cause with | some e => codeMin .faultContained e | none => .aborted, if c.aborted then .aborted else .ok]

/-- TEARDOWN_FINISH: every issued command has its record (R269). After a fault the scrub of each tile that the context holds begins; once those scrubs are complete, or with nothing to scrub, the tiles are released and the record is made ready (R265, R270). -/
def execTeardownFinish (id : ReqId) (s : State) : Ans :=
  let k := id.val
  let c := s.ctx k
  if c.state ≠ .ending || s.cmdsOut k (s.dropsImages c) ≠ 0 then .next s
  else if (c.cause.isSome || c.noRec) && !c.scrubbing && !(s.heldTiles k).isEmpty then
    .next (foldS (s.heldTiles k) (fun t u => u.tearTile t) (s.setCtx k { c with scrubbing := true }))
  else if (s.heldTiles k).any (fun t => (s.tile t).scrub) then .next s
  else
    let s1 := if s.dropsImages c then foldS ((s.heldTiles k).filter (fun t => schedAway (s.tile t).sched)) (fun t u => u.scrubTile t) s else s
    let s2 := (s1.releaseAll k).updCtx k (fun x => { x with aborted := false, tierWait := false, outst := 0 })
    .next ((s2.ctxRec k false (endCode c) []).jobCheck c.inst c.job)

/-! The command queue (R257 to R259). -/

/-- The page of an instance that is FREE or CREATED takes no write (R324). -/
def pageDead (p : InstPhase) : Bool := p = .free || p = .created

/-- CQ_DOORBELL (R257): ignored and counted on a dead page, and in DRAINING, SQUASHING, FREEZING and FROZEN (R324). -/
def hostCqDoorbell (i : InstId) (v : Word) (s : State) : Ans :=
  if pageDead (s.inst i.val).phase then .next (s.bump pgMap 0 1) else
  if (s.inst i.val).phase ≠ .active then .next (s.bump (pgMbx i.val) 1 1) else
  let p := pgMbx i.val
  let tail := fld v 15 0
  let head := (s.inst i.val).cqHead
  if s.ringLen p 0x100 < idxGap head tail || idxGap head tail < idxGap head (s.ringIdx p 0x100) then .next (s.bump p 1 1)
  else .next (s.setReg p 0x10C (w32 tail))

/-- An instance's queue has an entry to fetch, and fetching is not stopped (R259, R268, R339, R378). -/
def State.cqReady (s : State) (i : Nat) : Bool :=
  let x := s.inst i
  let p := pgMbx i
  x.phase = .active && !x.cqPaused && !x.cqFrozen && x.rqWait.isEmpty && s.ringOn p 0x100 && x.cqHead ≠ s.ringIdx p 0x100 && !s.lv.cut

/-- The fetch of the entry at the head waits for its page (R276, R295). -/
def State.cqWait (s : State) (i : Nat) : Option State :=
  let p := pgMbx i
  if s.cqReady i then
    s.unitWait (.cq i) ((tagOf s.now + s.drel (s.inst i).cls) % 2 ^ 24) [(spaceOf i, s.ringBase p 0x100 + 64 * ((s.inst i).cqHead % s.ringLen p 0x100), 64, false)]
  else none

/-- The entry at the head of an instance's queue, read under its key; nothing while fetching is stopped (R259, R268, R339, R378). -/
def State.cqEntry (s : State) (i : Nat) : Option (List Word × State) :=
  let x := s.inst i
  let p := pgMbx i
  if s.cqReady i then
    match s.loadDev (spaceOf i) (s.ringBase p 0x100 + 64 * (x.cqHead % s.ringLen p 0x100)) 64 with
    | (.ok, bs, t) => some (wordsOf 16 bs, t)
    | _ => none
  else none

/-- An entry is copied: the head advances (R259), the recorder logs it (R422). -/
def State.cqTake (s : State) (i : Nat) (ws : List Word) : State :=
  (s.updInst i (fun x => { x with cqHead := (x.cqHead + 1) % 65536 })).recLog 2 0x03 0 i (bytesOf ws)

/-- A row of the table serves the entry at the head when it is the row's. -/
def State.cqRow (s : State) (i : Nat) (mine : Nat → Bool) (run : List Word → State → State) : State :=
  match s.cqWait i with
  | some t => t
  | none =>
  match s.cqEntry i with
  | none => s
  | some (ws, t) =>
    if mine (fld (wAt ws 0) 3 0) then
      (if s.replayed 2 then (t.cqTake i ws).liveDrop else run ws t)
    else s

def cqTicket (ws : List Word) : Nat := fld (wAt ws 0) 31 16
def cqJob (ws : List Word) : Nat := fld (wAt ws 1) 3 0
def zeroFrom (ws : List Word) (n : Nat) : Bool := (List.range (16 - n)).all (fun j => wAt ws (n + j) = 0#32)
def cqOk0 (ws : List Word) : Bool := fld (wAt ws 0) 15 4 = 0

/-- A NOP or an unknown OPC (R258). -/
def State.cqNop (i : Nat) (ws : List Word) (s : State) : State :=
  let opc := fld (wAt ws 0) 3 0
  (s.cqTake i ws).simpleRec i opc (cqTicket ws) (if opc = 0 && cqOk0 ws && zeroFrom ws 1 then .empty else .configInvalid) 0 0

def execCqNop (i : InstId) (s : State) : Ans := .next (s.cqRow i.val (fun o => o = 0 || 6 ≤ o) (State.cqNop i.val))

/-- Contexts of an instance that are not FREE. -/
def State.openCtxs (s : State) (i : Nat) : Nat := (s.ctxs.filter (fun p => p.2.inst = i && p.2.state ≠ .free)).length

/-- A FREE context of the pool; which one the manual leaves open (log entry 25). -/
def State.pickCtx (s : State) : Option (Nat × State) :=
  let (v, t) := s.takeFree
  let used := (s.ctxs.filter (fun p => p.2.state ≠ .free)).map (·.1)
  ((List.range (min 262144 (used.length + 1))).map (fun n => (v + n) % 262144)).find? (fun k => !used.contains k) |>.map (fun k => (k, t))

/-- The instance has fewer open contexts than its quota (R259). -/
def State.quotaFree (s : State) (i : Nat) : Bool := s.openCtxs i < (s.inst i).quota

/-- A FREE context would go to this instance: of those whose fetching paused because the pool was empty, and which can fetch, none paused earlier (R259). -/
def State.poolTurn (s : State) (i : Nat) : Bool :=
  match s.fbk.pausedOrder.find? (fun h => s.quotaFree h && (s.inst h).phase = .active && (s.inst h).rqWait.isEmpty) with
  | none => true
  | some h => h = i

/-- RUN (R258 to R260): a context opens with its tag, or fetching pauses. -/
def State.cqRun (i : Nat) (ws : List Word) (s : State) : State :=
  let x := s.inst i
  let j := s.job i (cqJob ws)
  let w := wAt ws
  if !cqOk0 ws || fld (w 1) 15 4 ≠ 0 || fld (w 6) 31 16 ≠ 0 || !zeroFrom ws 12 || !j.isOpen || j.closing.isSome then
    (s.cqTake i ws).simpleRec i 1 (cqTicket ws) .configInvalid (cqJob ws) 0
  else if !s.quotaFree i then (s.updInst i (fun x => { x with runHeld := true })).cqPause i true
  else match (if s.poolTurn i then s.pickCtx else none) with
    | none =>
      ({ s with fbk := { s.fbk with pausedOrder := if s.fbk.pausedOrder.contains i then s.fbk.pausedOrder else s.fbk.pausedOrder ++ [i] } } |>.updInst i
        (fun x => { x with runHeld := true })).cqPause i true
    | some (k, t) =>
      let c : ReqCtx := { ReqCtx.free with
        state := if j.restart.isSome then .queued else .ready, inst := i, job := cqJob ws, ticket := cqTicket ws,
        tag := (tagOf s.now + s.drel x.cls) % 2 ^ 24, order := s.fbk.accepted, arg := (w 2).toNat + 2 ^ 32 * (w 3).toNat,
        kvlist := (w 4).toNat + 2 ^ 32 * (w 5).toNat, kvlen := fld (w 6) 15 0, limit := (w 7).toNat,
        seed := BitVec.ofNat 64 ((w 8).toNat + 2 ^ 32 * (w 9).toNat), step := BitVec.ofNat 64 ((w 10).toNat + 2 ^ 32 * (w 11).toNat),
        pc := fld (w 1) 31 16, openedAt := s.now }
      ((t.cqTake i ws).setCtx k c) |> fun u => { u with fbk := { u.fbk with accepted := u.fbk.accepted + 1 } }

def execRun (i : InstId) (s : State) : Ans := .next (s.cqRow i.val (· = 1) (State.cqRun i.val))

/-- CANCEL (R269). -/
def State.cqCancel (i : Nat) (ws : List Word) (s : State) : State :=
  let t := s.cqTake i ws
  if !cqOk0 ws || fld (wAt ws 1) 31 16 ≠ 0 || !zeroFrom ws 2 then t.simpleRec i 2 (cqTicket ws) .configInvalid 0 0 else
  let hits := s.ctxs.filter (fun p => p.2.inst = i && p.2.ticket = fld (wAt ws 1) 15 0 && (p.2.state = .queued || p.2.state = .ready || p.2.state = .run))
  match hits.foldl (fun (acc : Option (Nat × ReqCtx)) p => match acc with | none => some p | some b => if p.2.order < b.2.order then some p else some b) none with
  | none => t.simpleRec i 2 (cqTicket ws) .empty 0 0
  | some (k, _) => (t.endCtx k none).simpleRec i 2 (cqTicket ws) .ok 0 0

def execCancel (i : InstId) (s : State) : Ans := .next (s.cqRow i.val (· = 2) (State.cqCancel i.val))

/-- OPEN_JOB's checks (R250). -/
def State.jobRefused (s : State) (i : Nat) (ws : List Word) : Bool :=
  let x := s.inst i
  let g := (wAt ws 2).toNat + 2 ^ 32 * (wAt ws 3).toNat
  let gs := (List.range 64).filter (fun n => g / 2 ^ n % 2 = 1)
  let ck := (wAt ws 4).toNat + 2 ^ 32 * (wAt ws 5).toNat
  !cqOk0 ws || fld (wAt ws 1) 15 4 ≠ 0 || !zeroFrom ws 6 || ck % 4096 ≠ 0
  || (s.job i (cqJob ws)).isOpen
  || (match s.seed.pkgs.find (fld (wAt ws 1) 31 16) with | some p => !(p.kind = 3 && p.inst = i) | none => true)
  || g = 0 || !gs.all (fun n => s.owner n = some x.domain)
  || s.granulesHeld g
  || !gs.all (fun n => n / 16 = gs.headD 0 / 16)

/-- OPEN_JOB (R250). -/
def State.cqOpenJob (i : Nat) (ws : List Word) (s : State) : State :=
  let t := s.cqTake i ws
  if s.jobRefused i ws then t.simpleRec i 3 (cqTicket ws) .configInvalid (cqJob ws) 0
  else
    let j : Job := { Job.closed with isOpen := true, pkg := fld (wAt ws 1) 31 16, gmask := (wAt ws 2).toNat + 2 ^ 32 * (wAt ws 3).toNat,
                                     ckptva := (wAt ws 4).toNat + 2 ^ 32 * (wAt ws 5).toNat }
    t.jobRec i 3 (cqTicket ws) .ok (cqJob ws) 0 (.opens (cqJob ws) j)

def execOpenJob (i : InstId) (s : State) : Ans := .next (s.cqRow i.val (· = 3) (State.cqOpenJob i.val))

/-- Every open context of a job is told to end with ABORTED (R251, R272). -/
def State.endJobCtxs (s : State) (i n : Nat) : State :=
  foldS (s.ctxs.filter (fun p => p.2.inst = i && p.2.job = n)) (fun p t => t.endCtx p.1 none) s

/-- A CLOSE_JOB or RESTART begins; one for a job that is not open, or already ending, is refused. -/
def State.jobEnd (i opc : Nat) (ws : List Word) (s : State) : State :=
  let t := s.cqTake i ws
  let n := cqJob ws
  let j := s.job i n
  if !cqOk0 ws || fld (wAt ws 1) 31 4 ≠ 0 || !zeroFrom ws 2 || !j.isOpen || j.closing.isSome || j.restart.isSome then
    t.simpleRec i opc (cqTicket ws) .configInvalid n 0
  else
    let j1 := if opc = 4 then { j with closing := some (cqTicket ws) } else { j with restart := some (cqTicket ws) }
    ((t.setJob i n j1).endJobCtxs i n).jobCheck i n

def execCloseJob (i : InstId) (s : State) : Ans := .next (s.cqRow i.val (· = 4) (State.jobEnd i.val 4))
def execRestart (i : InstId) (s : State) : Ans := .next (s.cqRow i.val (· = 5) (State.jobEnd i.val 5))

/-- Nothing holds the instance's fetching any longer (R259, R268). -/
def State.mayFetch (s : State) (i : Nat) : Bool :=
  (s.inst i).rqWait.isEmpty && (!(s.inst i).runHeld ||
    (s.quotaFree i && s.poolTurn i && (s.ctxs.filter (fun p => p.2.state ≠ .free)).length < 262144))

/-- CQ_FETCH_RESUME: fetching goes on, and the RUN that waited for a context is fetched and takes one, so that no other instance does (R259). -/
def execCqFetchResume (i : InstId) (s : State) : Ans :=
  if (s.inst i.val).cqPaused && s.mayFetch i.val then
    let s1 := (({ s with fbk := { s.fbk with pausedOrder := s.fbk.pausedOrder.filter (· ≠ i.val) } }).updInst i.val
      (fun x => { x with runHeld := false })).cqPause i.val false
    .next (if (s.inst i.val).runHeld then s1.cqRow i.val (· = 1) (State.cqRun i.val) else s1)
  else .next s

/-- RQ_HEAD_WRITE (R266, R268): entries free for waiting records; fetching that only they held goes on. -/
def hostRqHeadWrite (i : InstId) (v : Word) (s : State) : Ans :=
  if pageDead (s.inst i.val).phase then .next (s.bump pgMap 0 1) else
  let p := pgMbx i.val
  let head := fld v 15 0
  let cur := s.ringIdx p 0x120
  if idxGap cur (s.inst i.val).rqTail < idxGap cur head then .next (s.bump p 1 1)
  else
    .next (((s.setReg p 0x12C (w32 head)).rqEvent i.val).rqDrain i.val ((s.inst i.val).rqWait.length + 1))

end Sys2Proof.Machine
end

