-- ==== Sys2Proof/Machine/Sched.lean ====
section
/-! DEFINITION. Deadline schedulers: plan periods, borrows, spills, returns (09). -/

namespace Sys2Proof.Machine

/-! Demand (R229, R230, R463). -/

def CellPhase.charged : CellPhase → Bool
  | .free => false
  | .accepted | .active | .draining => true

/-- Cells in service or to come on a die. -/
def State.dieCells (s : State) (d : Nat) : List (Nat × Cell) :=
  s.cells.filter (fun p => p.2.phase.charged && dHome p.2.desc = d)

/-- The numerology whose slot is the shortest among the cells charged on the die (R229), those that a mirror entry holds charges for among them (R381). -/
def State.dieMu (s : State) (d : Nat) : Nat := (s.chargedDescs.filter (fun x => dHome x = d)).foldl (fun acc x => max acc (dMu x)) 0

/-- The allocation fields that a cost counts: PUSCH and PDSCH name PRBs and layers. -/
def pduCells (p : Pdu) : Nat := if p.kind = 0x0001 || p.kind = 0x0011 then fld (wAt p.words 3) 24 16 * fld (wAt p.words 5) 3 0 else 0

/-- A record's share of the cost for a set of PDUs (R463). -/
def recCost (r : List Word) (ps : List Pdu) : Nat :=
  fld (wAt r 6) 17 0 + cdiv (((ps.map pduCells).sum) * fld (wAt r 7) 15 0) 1000

/-- Cost of a cell in the slot that starts at a time, in mt (R230, R463). -/
def State.cellCost (s : State) (c : Cell) (start : Nat) : Nat :=
  match c.slots.find? (fun m => m.start = start) with
  | none => min (recCost (s.rRec c.desc) []) (s.tileCharge c.desc)
  | some m =>
    let ps := m.ul ++ m.dl
    let lrx := ps.filter (fun p => p.kind = 0x0001 && bitOf (wAt p.words 8) 0)
    min (recCost (s.rRec c.desc) ps + (if lrx.isEmpty then 0 else recCost (s.lRec c.desc) lrx)) (s.tileCharge c.desc)

/-- A cell has work in the slot that starts at a time: it is active then. -/
def Cell.inService (c : Cell) (t : Nat) : Bool :=
  c.phase ≠ CellPhase.free && c.startAt ≤ t && (c.phase ≠ CellPhase.draining || t < c.endAt)

/-- Demand of the plan period that starts at a time (R230). -/
def State.demand (s : State) (d t : Nat) : Nat :=
  ((s.dieCells d).map (fun p => if p.2.inService t then s.cellCost p.2 (s.slotAt (dMu p.2.desc) t).start else 0)).sum

/-- Tiles that domain 0 holds on a die apart from borrowed ones, less SUSPECT ones (R230). -/
def State.ownTiles (s : State) (d : Nat) : Nat :=
  ((dieTiles d).filter (fun t => s.tileOwner t = some 0 && s.tileLive t && !(s.tile t).suspect)).length

/-! Selection (R231). -/

/-- A tile that a plan may name: not a floor tile, held by no domain or a lendable one, not SUSPECT, its grove not parked nor to be (R231, R237). -/
def State.plannable (s : State) (t : Nat) : Bool :=
  !floorTile t && !(s.tile t).suspect && s.tileLive t && !(s.grove (t / 32)).parkPending
  && (match s.tileOwner t with | none => true | some o => o ≠ 0 && s.lendable o)

/-- A tile that may be borrowed anew. -/
def State.borrowable (s : State) (t : Nat) : Bool := (s.tile t).sched = .none && s.plannable t

/-- The class of R231 that a borrowable tile falls in. -/
def State.borrowClass (s : State) (t : Nat) : Nat :=
  let x := s.tile t
  if (s.tileOwner t).isNone then 2
  else if x.queue.isEmpty && x.flights.isEmpty && x.live.isNone then 3 else 4

/-- The distance of a tile in ac to its next pre-emption point (R82): 0 with nothing running or a WAIT; inside a command a value from 0 to 4,096, for the state holds no clocks within a command (DESIGN CHOICE, log entry 26). -/
def State.pointDist (s : State) (t : Nat) : Nat :=
  if (s.tile t).flights.any (fun f => f.undone && f.op.engine < 2) then Sys2Proof.Config.freeNat (s.fresh + t) % 4097 else 0

/-- Class 4 in ascending distance to the next pre-emption point; the lower tile number goes first (R231). -/
def State.byDistance (s : State) (ts : List Nat) : List Nat :=
  ts.foldl (fun acc t =>
    let dist := s.pointDist
    let lo := acc.takeWhile (fun y => dist y ≤ dist t)
    lo ++ t :: acc.drop lo.length) []

/-- The tiles that fill a borrow, in R231's order. -/
def State.borrowList (s : State) (d : Nat) : List Nat :=
  let ts := dieTiles d
  let lent := ts.filter (fun t => (s.tile t).sched = .lent && s.plannable t)
  let new := ts.filter s.borrowable
  lent ++ new.filter (fun t => s.borrowClass t = 2) ++ new.filter (fun t => s.borrowClass t = 3)
    ++ s.byDistance (new.filter (fun t => s.borrowClass t = 4))

/-! The boundary (R228 to R235, R249). -/

/-- Events of the period that ended stand for the next one (R249). -/
def State.sdsPeriod (s : State) (d : Nat) : State :=
  (s.updSched d (fun x => { x with raisedNow := 0 })).evtBar0 (pgSds d) (w32 (s.sched d).raisedNow) 0

/-- The plan is handed over: STANDBY tiles become LENT, LENT tiles that it drops begin to drain (R228, R234). -/
def State.handOver (s : State) (d : Nat) : State :=
  let plan := (s.sched d).plan
  foldS (dieTiles d) (fun t u =>
    match (u.tile t).sched with
    | .standby => u.toSched t (if plan.contains t then .lent else .drain)
    | .lent => if plan.contains t then u else u.toSched t .drain
    | _ => u) (s.updSched d (fun x => { x with cur := plan }))

/-- A drain that has lasted through the whole period is charged with it (R235). -/
def State.overrunPeriod (s : State) (d : Nat) : State :=
  let x := s.sched d
  let n := ((dieTiles d).filter (fun t => (s.tile t).sched = .drain && !x.cur.contains t)).length
  if n = 0 then s else (s.bump (pgSds d) 3 (n * ((s.now - x.boundary) * 7 / 4))).sdsEvent d 3

/-- A tile selected anew: PREQ is written; one that is held already goes on to its spill or scrub (R232, R236). -/
def State.beginBorrow (s : State) (t : Nat) : State :=
  let x := s.tile t
  if !x.held || x.scrub then (s.toSched t .preempt).preqTile t
  else if x.live.isSome then s.toSched t .spill
  else (s.startScrub t).toSched t .scrubIn

/-- The next plan is fixed and its borrow begun (R230 to R232, R238). -/
def State.fixPlan (s : State) (d : Nat) : State :=
  let x := s.sched d
  let mu := if (s.slotAt x.pmu s.now).slot = 0 then s.dieMu d else x.pmu
  let start := (s.slotAt mu s.now).start
  let n := cdiv (s.demand d (start + tSlot mu)) 900
  let b := n - s.ownTiles d
  let sel := (s.borrowList d).take b
  let grp := min 32 (max 8 (fld (s.inForce (pgSds d) 0x0C0) 5 0))
  let s1 := { (s.updSched d (fun y => { y with need := n, borrow := sel.length, pmu := mu, boundary := start, plan := sel, grp := grp })) with fresh := s.fresh + 1024 }
  let s2 := if sel.length < b then (s1.bump (pgSds d) 2 (b - sel.length)).sdsEvent d 2 else s1
  foldS sel (fun t u => if (u.tile t).sched = .lent then u else u.beginBorrow t) s2

/-- A period of the die has begun and its boundary has not been handled (R229). -/
def State.atBoundary (s : State) (d : Nat) : Bool := (s.slotAt (s.sched d).pmu s.now).start ≠ (s.sched d).boundary

/-- PLAN_PERIOD_BOUNDARY: once in each plan period (R229, R230). A drain that lasted through the period that ends arose in it (R249). The coordinator's one signal to the four schedulers is four commands at one value of the time base. -/
def execPlanPeriodBoundary (d : DieId) (s : State) : Ans :=
  .next (if s.atBoundary d.val then (((s.overrunPeriod d.val).sdsPeriod d.val).handOver d.val).fixPlan d.val else s)

/-! Spill, return, restore (R232, R235, R238). -/

/-- A tile's transfer leaves every waiter list; its wait so far is counted (R298). -/
def State.dropWaiters (s : State) (t : Nat) : State :=
  let mine (w : Waiter) : Bool := match w.what with | .transfer u => u.val = t | _ => false
  let s := foldS s.mems.homes (fun p u => foldS (p.2.waiters.filter mine) (fun w v => v.countStall p.1 w) u) s
  { s with mems := { s.mems with homes := s.mems.homes.map (fun p =>
      (p.1, { p.2 with waiters := p.2.waiters.filter (fun w => match w.what with | .transfer u => u.val ≠ t | _ => true) })) } }

/-- Contexts that have commands in a tile. -/
def tileCtxs (x : Tile) : List Nat := (x.queue.filterMap (fun c => seqCtx c.issuer) ++ x.flights.filterMap (fun f => seqCtx f.cmd.issuer)).eraseDups

/-- SPILL_COMPLETE: the image is written under the key of the instance that last wrote the tile, and the scrub begins; tierErr says that the write met an uncorrectable error (R232, R238). -/
def execSpillComplete (t : TileId) (tierErr : Bool) (s : State) : Ans :=
  let x := s.tile t.val
  if x.sched ≠ .spill then .next s else
  match x.lastInst with
  | none => .next ((s.startScrub t.val).toSched t.val .scrubIn)
  | some i =>
    let bad : Option Code := if !s.issuerOk (spaceOf i) then some .keyDenied else if tierErr then some .tierError else none
    let img : SpillImage := {
      store := x.store, inst := i,
      save := { queue := x.queue, flights := x.flights.map (fun f => { f with waits := false }), bank := x.bank } }
    let s1 := (s.dropWaiters t.val).startScrub t.val
    let s2 := (s1.updTile t.val (fun y => { y with image := if bad.isSome then none else some img, imageLost := bad.isSome })).toSched t.val .scrubIn
    let s3 := match bad, x.live with
      | some c, some (_, k) => s2.endCtx k (some c)
      | _, _ => if bad.isSome then s2 else s2.emit (.spillWrite i t.val (s.spillCipher i t.val (x.store.readN 0 524288)))
    .next (foldS (tileCtxs x) (fun k u => u.endEpisode (.seq ⟨t.val / 32 % 32, Nat.mod_lt _ (by decide)⟩ k)) s3)

/-- TILE_RETURN_START: a DRAIN tile holds no domain-0 command; its overrun past the period end is counted and the return scrub begins (R235). -/
def execTileReturnStart (t : TileId) (s : State) : Ans :=
  let x := s.tile t.val
  let d := t.val / 256
  if x.sched = .drain && x.queue.isEmpty && x.flights.isEmpty then
    let late := if (s.sched d).cur.contains t.val then 0 else (s.now - (s.sched d).boundary) * 7 / 4
    let s1 := if late = 0 then s else (s.bump (pgSds d) 3 late).sdsEvent d 3
    -- a lent tile that turned SUSPECT is not restored, and its context ends (R238)
    let s2 := if x.suspect && x.image.isSome then
        (match x.live with | some (_, k) => (s1.updTile t.val (fun y => { y with imageLost := true })).endCtx k (some .faultContained) | none => s1) else s1
    .next ((s2.startScrub t.val).toSched t.val .scrubOut)
  else .next s

/-- RESTORE_COMPLETE: the image is back, and HELD stands from here until RESUME (R84, R235, R236). -/
def execRestoreComplete (t : TileId) (s : State) : Ans :=
  let x := s.tile t.val
  match x.sched, x.image with
  | .restore, some g =>
    if x.dropImage then .next ((s.setTile t.val { x with image := none, dropImage := false }).toSched t.val .none)
    else
      let y := { x with
        image := none, imageLost := false, held := true, saved := some g.save, store := g.store, queue := g.save.queue,
        flights := g.save.flights, bank := g.save.bank, lastInst := some g.inst }
      .next (((s.setTile t.val y).toSched t.val .none).level (pgTile t.val) 2 true)
  | _, _ => .next s

end Sys2Proof.Machine
end

