-- ==== Sys2Proof/Machine/Gate.lean ====
section
/-! DEFINITION. Commands that wait for the radio coordinator: the unbinding of packages (18 R472) and the parking of groves (19 R482 to R484). -/

namespace Sys2Proof.Machine

/-! Unbinding (R472). -/

/-- A package goes: its sealed ranges are zeroed, its memory released, its objects unregistered, its handle freed (R472). -/
def State.unbindPkg (s : State) (h : Nat) : State :=
  match s.seed.pkgs.find h with
  | none => s
  | some p =>
    let s1 := { s with lanes := s.lanes.map (fun l => (l.1, (l.2.seals.filter (fun r => r.2.2 = h)).foldl
      (fun (y : Lane) r => { y with prog := Memory.clear (8 * r.1) (8 * (r.1 + r.2.1)) y.prog, seals := y.seals.filter (fun q => q ≠ r) }) l.2)) }
    let drop (oid : Nat) (release : Bool) (t : State) : State :=
      match t.mems.objects.find oid with
      | none => t
      | some o =>
        let t1 := { t with mems := { t.mems with objects := t.mems.objects.erase oid } }
        if release then foldN o.npages (fun j u => u.releasePage (pageKeyOf (spaceIdx o.space) (o.vpn + j))) t1 else t1
    let s2 := if p.kind = 3 then s1 else drop p.oid false s1
    let s3 := foldS p.wgts (fun w t => drop w.oid true t) s2
    ({ s3 with seed := { s3.seed with pkgs := s3.seed.pkgs.erase h } }).retryAll

/-- Enabled contexts of a lane whose code segment meets a range of its program memory. -/
def State.rangeEnabled (s : State) (l base n : Nat) : Bool :=
  (List.range 8).any (fun c => bitOf (s.reg (pgLane l) (0x100 + 0x20 * c)) 0 && s.pbase l c < base + n && base < s.pbase l c + s.psize l c)

/-- A package that is still in use, or no package. -/
def State.unbindRefused (s : State) (h : Nat) : Bool :=
  match s.seed.pkgs.find h with
  | none => true
  | some p =>
    let named (d : List Word) : Bool := dRpkg d = h || dLpkg d = h
    if p.kind = 3 then s.insts.any (fun q => q.2.jobs.any (fun j => j.2.isOpen && j.2.pkg = h))
    else
      s.cells.any (fun q => q.2.phase ≠ CellPhase.free && named q.2.desc)
      || s.mirrors.any (fun q => (q.2.state = .armed || q.2.state = .taken) && named q.2.desc)
      || s.lanes.any (fun q => q.2.seals.any (fun r => r.2.2 = h && s.rangeEnabled q.1 r.1 r.2.1))

/-- An UNBIND is carried out; the binder is free again. -/
def State.unbindNow (s : State) (h : Nat) : State :=
  let bad := s.unbindRefused h
  let s1 := if bad then s else s.unbindPkg h
  { s1 with seed := { s1.seed with job := none, jobHeld := false, status := if bad then .configInvalid else .ok, reason := 0 } }

/-! Parking (R482). -/

/-- The result of a park command. -/
def State.parkResult (s : State) (c : Code) : State := { s with pwr := { s.pwr with parkBusy := false, parkStat := c, parkHeld := none } }

/-- A granule of the grove lies in the slice of an open job. -/
def State.groveInJob (s : State) (g : Nat) : Bool :=
  s.insts.any (fun q => q.2.jobs.any (fun j => j.2.isOpen && j.2.gmask / 2 ^ (2 * g) % 4 ≠ 0))

/-- The code of a park command, its checks in the order of the table. -/
def State.parkCode (s : State) (park : Bool) (g : Nat) : Code :=
  if g % 8 = 0 then .configInvalid
  else if (s.grove g).parked = park then .configInvalid
  else if park && s.groveInJob g then .configInvalid
  else if park && (s.updGrove g (fun x => { x with parked := true })).cap (g / 8) < s.loadMt (g / 8) then .capacityExceeded
  else .ok

/-- A park command is checked: accepted, it stays BUSY until the grove is parked or has power. -/
def State.parkApply (s : State) (v : Word) : State :=
  let g := fld v 8 4
  let park : Bool := fld v 1 0 = 1
  let c := s.parkCode park g
  if c ≠ .ok then s.parkResult c
  else
    let s1 := s.updGrove g (fun x => if park then { x with parkPending := true } else { x with unparking := true })
    { s1 with pwr := { s1.pwr with parkBusy := true, parkHeld := none } }

/-- What waited for BUSY to clear goes on (R472, R482). -/
def State.gateOpen (s : State) : State :=
  let s1 := match s.seed.jobHeld, s.seed.job with
    | true, some (.unbind h) => s.unbindNow h
    | _, _ => { s with seed := { s.seed with jobHeld := false } }
  match s1.pwr.parkHeld with
  | some v => s1.parkApply v
  | none => s1

end Sys2Proof.Machine
end

