-- ==== Sys2Proof/Machine/Cells.lean ====
section
/-! DEFINITION. Cell-carriers: slot messages and their checks, admission, removal, slot starts (06; 07 R172, R177, R187, R188; 08 R205 to R214; 16 R420, R425). -/

namespace Sys2Proof.Machine

/-! Slot messages as they land (R150, R153). -/

/-- A message handed over as bytes: header and PDUs. -/
structure SlotHead where
  type : Nat
  cell : Nat
  sfn  : Nat
  slot : Nat
  seq  : Nat
  npdu : Nat
deriving DecidableEq, Repr

def slotHead (ws : List Word) : SlotHead :=
  { type := fld (wAt ws 0) 7 0, cell := fld (wAt ws 0) 24 16, sfn := fld (wAt ws 1) 9 0, slot := fld (wAt ws 1) 16 10,
    seq := fld (wAt ws 3) 15 0, npdu := fld (wAt ws 3) 31 24 }

/-- The header is well formed: reserved bits 0, VER 1, LEN the bytes that landed and a multiple of 8, STATUS 0 (R150). -/
def headOk (ws : List Word) : Bool :=
  fld (wAt ws 0) 15 8 = 1 && fld (wAt ws 0) 31 25 = 0 && fld (wAt ws 1) 31 17 = 0 && fld (wAt ws 2) 31 24 = 0
    && fld (wAt ws 2) 23 0 = 4 * ws.length && ws.length % 2 = 0 && 4 ≤ ws.length && fld (wAt ws 3) 23 16 = 0

/-- Bytes of a TB PDU (R153, R206): its 16-bit length field cannot hold the largest. -/
def tbBytes (tbs : Nat) : Nat := 16 + cdiv tbs 8 * 8

/-- Words of the PDU at the head of a list, by its length field, or by TBS for a TB PDU too long for that field (R153, R206); 0 where the length is no multiple of 8. -/
def pduLen (ws : List Word) : Nat :=
  let n := fld (wAt ws 0) 31 16
  let tb := tbBytes (fld (wAt ws 2) 17 0)
  if fld (wAt ws 0) 15 0 = 0x21 && 65536 ≤ tb then tb / 4 else if n % 8 = 0 then n / 4 else 0

/-- The PDUs that follow a header; none when they do not fill the message exactly. -/
def splitPdus (seq : Nat) : Nat → List Word → Option (List Pdu)
  | 0, ws => if ws.isEmpty then some [] else none
  | n + 1, ws =>
    let k := pduLen ws
    if k < 2 || ws.length < k then none
    else (splitPdus seq n (ws.drop k)).map (fun ps => { kind := fld (wAt ws 0) 15 0, seq := seq, words := ws.take k } :: ps)

def Pdu.f (p : Pdu) (w hi lo : Nat) : Nat := fld (wAt p.words w) hi lo

/-- A PUSCH or PDSCH PDU's fields (R154). -/
def schOk (d : List Word) (p : Pdu) (ul : Bool) : Bool :=
  p.words.length = 10 && p.f 2 31 26 = 0 && p.f 3 15 9 = 0 && p.f 3 31 26 = 0 && p.f 3 8 0 + p.f 3 24 16 ≤ dNprb d
    && (p.f 3 25 25 = 0 || p.f 5 3 0 = 1) && p.f 4 3 0 + p.f 4 7 4 ≤ 14 && p.f 4 31 23 = 0
    && 1 ≤ p.f 5 3 0 && p.f 5 3 0 ≤ (if ul then 4 else 8)
    && ([1, 2, 4, 6, 8].contains (p.f 5 7 4) || (!ul && p.f 5 7 4 = 10)) && p.f 5 31 20 = 0
    && p.f 6 31 26 = 0 && 30 ≤ p.f 7 9 0 && p.f 7 9 0 ≤ 948 && p.f 7 31 10 = 0
    && (if ul then p.f 8 31 1 = 0 && (p.f 8 0 0 = 0 || dLpkg d ≠ 0) else p.f 8 0 0 = 0 && p.f 8 31 2 = 0)
    && p.f 9 31 0 = 0

/-- A PUCCH PDU's fields (R187). -/
def pucchOk (p : Pdu) : Bool :=
  p.words.length = 8 && p.f 2 31 26 = 0 && p.f 3 2 0 ≤ 4 && p.f 3 3 3 = 0 && p.f 3 15 13 = 0 && p.f 3 23 21 = 0
    && 1 ≤ p.f 3 20 16 && p.f 3 20 16 ≤ 16 && 1 ≤ p.f 3 31 28 && p.f 3 31 28 ≤ 14
    && p.f 4 7 1 = 0 && p.f 4 23 17 = 0 && p.f 4 31 31 = 0 && p.f 4 27 24 ≤ 11 && p.f 4 30 28 ≤ 6
    && (2 ≤ p.f 3 2 0 || p.f 5 7 0 ≤ 2) && p.f 5 15 9 = 0 && p.f 5 31 27 = 0 && p.f 5 26 16 ≤ 1706
    && p.f 6 31 16 = 0 && p.f 7 31 0 = 0

/-- A PRACH PDU's fields (R177). -/
def prachOk (p : Pdu) : Bool :=
  p.words.length = 6 && p.f 2 3 0 ≤ 0xC && p.f 2 7 4 = 0 && p.f 2 11 8 ≤ 13 && p.f 2 15 12 = 0 && p.f 2 31 25 = 0
    && p.f 3 9 0 ≤ (if p.f 2 3 0 ≤ 3 then 837 else 137) && p.f 3 15 14 = 0 && p.f 3 31 22 = 0
    && 1 ≤ p.f 4 7 0 && p.f 4 31 8 = 0 && p.f 5 31 0 = 0

/-- An SRS PDU's fields (R188). -/
def srsOk (p : Pdu) : Bool :=
  p.words.length = 8 && p.f 2 17 16 ≠ 3 && p.f 2 31 18 = 0 && p.f 3 1 0 ≠ 3 && p.f 3 14 13 ≠ 3 && p.f 3 31 15 = 0
    && p.f 4 15 9 = 0 && p.f 4 31 25 = 0 && p.f 5 2 0 ≤ 4 && p.f 5 15 3 = 0 && p.f 5 31 26 = 0
    && p.f 6 31 0 = 0 && p.f 7 31 0 = 0

/-- A DCI entry's fields, its CCEs within the CORESET of n CCEs (R212). -/
def dciOk (n w0 : Nat) (len : Nat) : Bool :=
  nfld w0 23 16 ≤ 134 && nfld w0 26 24 ≤ 4 && nfld w0 31 27 = 0 && 12 ≤ len && len ≤ 88 && nfld w0 23 16 + 2 ^ nfld w0 26 24 ≤ n

/-- A PDCCH PDU's fields (R212). -/
def pdcchOk (p : Pdu) : Bool :=
  1 ≤ p.f 2 14 9 && p.f 2 14 9 ≤ 45 && 1 ≤ p.f 2 17 16 && p.f 2 21 18 ≤ 13 && p.f 2 24 23 ≠ 3 && p.f 2 26 25 ≠ 3
    && p.f 2 15 15 = 0 && p.f 2 31 27 = 0 && p.f 3 18 10 ≤ 274 && 1 ≤ p.f 3 26 19 && p.f 3 26 19 ≤ 135 && p.f 3 31 27 = 0
    && p.words.length = 4 + 4 * p.f 3 26 19
    && (List.range (p.f 3 26 19)).all (fun i =>
      dciOk (p.f 2 14 9 * p.f 2 17 16) (wAt p.words (4 + 4 * i)).toNat (p.f (5 + 4 * i) 7 0))

/-- An SSB PDU's fields (R213). -/
def ssbOk (p : Pdu) : Bool :=
  p.words.length = 6 && p.f 2 21 17 ≤ 23 && p.f 2 7 6 = 0 && p.f 2 31 27 = 0 && p.f 3 31 24 = 0 && p.f 4 31 0 = 0 && p.f 5 31 0 = 0

/-- A CSI-RS PDU's fields (R214). -/
def csirsOk (p : Pdu) : Bool :=
  p.words.length = 6 && 1 ≤ p.f 2 4 0 && p.f 2 4 0 ≤ 18 && p.f 2 7 5 = 0 && p.f 2 31 30 = 0 && p.f 3 15 9 = 0 && p.f 3 31 25 = 0
    && p.f 4 31 13 = 0 && p.f 5 31 0 = 0

/-- A TB PDU's fields from the L2 host (R206). -/
def tbOk (p : Pdu) : Bool := p.f 2 31 18 = 0 && p.f 3 31 24 = 0 && p.words.length = tbBytes (p.f 2 17 0) / 4

/-- The PDU belongs to a message of this type and its fields are legal (R153). -/
def pduOk (d : List Word) (type : Nat) (p : Pdu) : Bool :=
  match type, p.kind with
  | 1, 0x01 => schOk d p true
  | 1, 0x02 => pucchOk p
  | 1, 0x03 => prachOk p
  | 1, 0x04 => srsOk p
  | 2, 0x11 => schOk d p false
  | 2, 0x12 => pdcchOk p
  | 2, 0x13 => ssbOk p
  | 2, 0x14 => csirsOk p
  | 3, 0x21 => tbOk p
  | _, _ => false

/-- Layers of the PDUs of a kind that occupy a symbol (R154). -/
def layersAt (ps : List Pdu) (kind k : Nat) : Nat :=
  ((ps.filter (fun p => p.kind = kind && p.f 4 3 0 ≤ k && k < p.f 4 3 0 + p.f 4 7 4)).map (fun p => p.f 5 3 0)).sum

/-- Adding the PDU keeps every symbol within ULLAY or DLLAY (R146, R149, R154). -/
def layersOk (d : List Word) (ps : List Pdu) (p : Pdu) : Bool :=
  if p.kind = 0x01 then (List.range 14).all (fun k => layersAt (p :: ps) 0x01 k ≤ dUlLay d)
  else if p.kind = 0x11 then (List.range 14).all (fun k => layersAt (p :: ps) 0x11 k ≤ dDlLay d)
  else true

/-- The PDUs of a message that are accepted, in order, and those that are refused (R152). -/
def judgePdus (d : List Word) (type : Nat) (ps : List Pdu) : List Pdu × List Pdu :=
  ps.foldl (fun acc p => if pduOk d type p && layersOk d acc.1 p then (acc.1 ++ [p], acc.2) else (acc.1, acc.2 ++ [p])) ([], [])

/-! Acceptance (R152). -/

def Cell.slotOf (c : Cell) (sfn slot start : Nat) : Option SlotMsgs :=
  c.slots.find? (fun m => m.sfn = sfn && m.slot = slot && m.start = start)

def SlotMsgs.empty (sfn slot start : Nat) : SlotMsgs :=
  { sfn := sfn, slot := slot, start := start, ulSeq := none, dlSeq := none, ul := [], dl := [], tbs := [], late := false,
    notReady := [], dlCplane := false, ulCplane := false, indSent := false, dropped := false,
    handed := [], lateHand := false, decoded := [] }

/-- The slot's messages, made if none is held, changed by f. -/
def Cell.updSlot (c : Cell) (sfn slot start : Nat) (f : SlotMsgs → SlotMsgs) : Cell :=
  match c.slotOf sfn slot start with
  | some _ => { c with slots := c.slots.map (fun m => if m.sfn = sfn && m.slot = slot && m.start = start then f m else m) }
  | none => { c with slots := c.slots ++ [f (SlotMsgs.empty sfn slot start)] }

/-- The cell takes messages for the slot that starts at a time. -/
def Cell.takesMsgs (c : Cell) (start : Nat) : Bool :=
  match c.phase with
  | .accepted | .active => true
  | .draining => decide (start < c.endAt)
  | .free => false

/-- The message is accepted under R152: window, cell state, first of its kind. -/
def State.msgOk (s : State) (h : SlotHead) (start : Nat) : Bool :=
  let c := s.cell h.cell
  let t := dTslot c.desc
  h.slot < slotsPerFrame (dMu c.desc) && start ≤ s.now + 16 * t && s.now + t < start && c.takesMsgs start
    && (match c.slotOf h.sfn h.slot start with
        | some m => (h.type ≠ 1 || m.ulSeq.isNone) && (h.type ≠ 2 || m.dlSeq.isNone)
        | none => true)

/-! Mirroring (R382): an ARMED origin sends what its cell accepts. -/

/-- This module's ID, once VALID (R341). -/
def State.modId (s : State) : Nat := fld (s.reg (pgCkx 32) 0x010) 15 0
def State.modValid (s : State) : Bool := bitOf (s.reg (pgCkx 32) 0x010) 16

/-- A module of this module's stage. -/
def State.sameStage (s : State) (dest : Nat) : Bool := dest / 256 = s.modId / 256

def State.portUp (s : State) (p : Nat) : Bool := (s.port p).state = .up

/-- The port on which gateway g sends towards a stage: the lowest UP port of LND_ROUTE.PMASK (R361). -/
def State.route (s : State) (g stage : Nat) : Option Nat :=
  let w := s.reg (pgLnd g) (0x100 + 4 * stage)
  if bitOf w 3 then ((List.range 3).map (3 * g + ·)).find? (fun p => bitOf w (p - 3 * g) && s.portUp p) else none

/-- A port through which a module can be reached (R342, R357). -/
def State.reaches (s : State) (dest p : Nat) : Bool :=
  s.portUp p && !(s.port p).unreach.contains dest && (s.sameStage dest || (s.route (p / 3) (dest / 256)).isSome)

/-- The port that R342's hash chooses for a destination and a stream; none while the module has no ID (R341). -/
def State.pathPort (s : State) (dest stream : Nat) : Option Nat :=
  let ups := (List.range 12).filter (s.reaches dest)
  if !s.modValid || ups.isEmpty then none else some (ups.getD (Sys2Proof.Config.pathHash dest stream % ups.length) 0)

/-- A liveness or mirror message leaves on a port; the check units see it (R26, R374). -/
def State.lvTxOn (s : State) (p dest : Nat) (m : LvMsg) : State := (s.emit (.lvTx p dest m)).chkCkx p true none

/-- A liveness or mirror message to a module, on the domain-0 channel (R374). -/
def State.lvSend (s : State) (dest : Nat) (m : LvMsg) : State :=
  match s.pathPort dest 4096 with
  | some p => s.lvTxOn p dest m
  | none => s

def State.mirrorOut (s : State) (c : Nat) (item : MirrorItem) : State :=
  let e := s.mirror c
  if e.state = .armed && !e.role then s.lvSend e.pmod (.mirror e.pcell item) else s

/-! Landing. -/

/-- CRC parameters of a transport block (R205). -/
def tbCrc (payload : List Byte) (tbs : Nat) : Nat :=
  if 3824 < 8 * tbs then crcFeed 24 0x864CFB false 0 payload else crcFeed 16 0x1021 false 0 payload

/-- Payload of a TB PDU. -/
def Pdu.payload (p : Pdu) : List Byte := ((bytesOf p.words).drop 16).take (p.f 2 17 0)

/-- The ingress check unit writes the CRC into word 3 (R205). -/
def Pdu.withCrc (p : Pdu) : Pdu := { p with words := setAt p.words 3 (w32 (tbCrc p.payload (p.f 2 17 0))) }

/-- ERROR PDUs for refused PDUs (R152, R156). -/
def State.refusePdus (s : State) (c : Nat) (h : SlotHead) (code : Code) (ps : List Pdu) : State :=
  foldS ps (fun p t => t.errorInd c (t.cell c).desc h.sfn h.slot p.handle h.type code h.seq p.kind) s

/-- A TB PDU names a PDSCH PDU of the slot that takes its TB from TX_DATA (R155, R208). -/
def SlotMsgs.wantsTb (m : SlotMsgs) (p : Pdu) : Bool := m.dl.any (fun q => q.kind = 0x11 && q.handle = p.handle && q.f 8 1 1 = 0)

/-- SRC of a logged slot message: its payload port, or 8 + q for queue pair q of the host link (R423, R443, R451; DESIGN CHOICE, log entry 28). -/
def l2Src (d : List Word) (cell : Nat) : Nat := if dL2Path d then dL2Port d else 8 + cell % 8

/-- A slot message lands (R152): accepted with its legal PDUs, or discarded whole. -/
def State.landSlot (s : State) (ws : List Word) : State :=
  let h := slotHead ws
  let c := s.cell h.cell
  let start := s.slotStart (dMu c.desc) h.sfn h.slot
  match (if headOk ws && s.msgOk h start then splitPdus h.seq h.npdu (ws.drop 4) else none) with
  | none => s.errorInd h.cell c.desc h.sfn h.slot 0 h.type .configInvalid h.seq 0
  | some ps =>
    let (good, bad) := judgePdus c.desc h.type ps
    let m0 := (c.slotOf h.sfn h.slot start).getD (SlotMsgs.empty h.sfn h.slot start)
    -- TX_DATA that follows its DL_CONFIG is judged against it at once
    let (keep, stray) := if h.type = 3 && m0.dlSeq.isSome then (good.filter m0.wantsTb, good.filter (fun p => !m0.wantsTb p)) else (good, [])
    let s1 := s.updCell h.cell (fun x => x.updSlot h.sfn h.slot start (fun m =>
      match h.type with
      | 1 => { m with ulSeq := some h.seq, ul := keep }
      | 2 => { m with dlSeq := some h.seq, dl := keep }
      | _ => { m with tbs := m.tbs ++ keep.map Pdu.withCrc }))
    let s2 := (s1.recLog 1 0x02 (l2Src c.desc h.cell) h.cell (bytesOf ws)).mirrorOut h.cell (.message ws)
    s2.refusePdus h.cell h .configInvalid (bad ++ stray)

/-- A landed message of a type: dropped during replay of its class (R427). -/
def State.slotMessage (s : State) (type : Nat) (ws : List Word) : State :=
  if !s.running || fld (wAt ws 0) 7 0 ≠ type then s
  else if s.replayed 1 then s.liveDrop
  else s.landSlot ws

/-- UL_CONFIG (R152). -/
def execUlConfig (msg : List Word) (s : State) : Ans := .next (s.slotMessage 1 msg)

/-- DL_CONFIG (R152). -/
def execDlConfig (msg : List Word) (s : State) : Ans := .next (s.slotMessage 2 msg)

/-- TX_DATA (R152, R205). -/
def execTxData (msg : List Word) (s : State) : Ans := .next (s.slotMessage 3 msg)

/-! Soft-buffer directory (R199). -/

/-- Directory entry i of a cell: 8 words. -/
def State.dirEntry (s : State) (d : List Word) (i : Nat) : List Word := wordsOf 8 (s.peek .dom0 (dSbuf d + 32 * i) 32)

/-- Key of an entry: RNTI, HARQID, DIR in word 0 [20:0]. -/
def dirKey (rnti harq : Nat) (dl : Bool) : Nat := rnti % 65536 + harq % 16 * 65536 + b1 dl * 2 ^ 20

/-- The entry holding a key and VALID. -/
def State.dirFind (s : State) (d : List Word) (key : Nat) : Option Nat :=
  (List.range 1024).find? (fun i => let w := wAt (s.dirEntry d i) 0; fld w 20 0 = key && bitOf w 21)

/-- The entry's TBS and BG are these. -/
def State.dirMatch (s : State) (d : List Word) (i tbs bg : Nat) : Bool :=
  let w := wAt (s.dirEntry d i) 1
  fld w 17 0 = tbs && fld w 18 18 = bg

/-! The message deadline (R155, R208). -/

/-- A PDSCH PDU that transmits nothing: NOT_READY. -/
def State.noTb (s : State) (c : Nat) (m : SlotMsgs) (p : Pdu) : State :=
  let s1 := s.updCell c (fun x => x.updSlot m.sfn m.slot m.start (fun y => { y with notReady := y.notReady ++ [p.handle] }))
  s1.errorInd c (s1.cell c).desc m.sfn m.slot p.handle 2 .notReady (m.dlSeq.getD 0) 0x11

/-- One PDSCH PDU at the deadline. -/
def State.judgePdsch (s : State) (c : Nat) (m : SlotMsgs) (p : Pdu) : State :=
  let d := (s.cell c).desc
  if p.f 8 1 1 = 0 then
    (if m.tbs.any (fun q => q.handle = p.handle) then s else s.noTb c m p)
  else
    match s.dirFind d (dirKey (p.f 2 15 0) (p.f 6 25 22) true) with
    | some i => if s.dirMatch d i (p.f 6 17 0) (p.f 6 18 18) then s else (s.bump (pgSds 4) (cellIdx c 3) 1).noTb c m p
    | none => (s.bump (pgSds 4) (cellIdx c 3) 1).noTb c m p

/-- The deadline of one slot's messages passes. -/
def State.slotDeadline (s : State) (c : Nat) (m : SlotMsgs) : State :=
  let stray := m.tbs.filter (fun p => !m.wantsTb p)
  let s1 := s.updCell c (fun x => x.updSlot m.sfn m.slot m.start (fun y => { y with late := true, tbs := y.tbs.filter (m.wantsTb ·) }))
  let s2 := foldS stray (fun p t => t.errorInd c (t.cell c).desc m.sfn m.slot p.handle 3 .configInvalid p.seq p.kind) s1
  foldS (m.dl.filter (fun p => p.kind = 0x11)) (fun p t => t.judgePdsch c m p) s2

/-! Admission (R159 to R163). -/

/-- Largest NPRB of a numerology (R145). -/
def maxPrb : Nat → Nat
  | 0 => 270 | 1 => 273 | _ => 264

/-- Check 0: the descriptor's fields (R145, R146, R147).
DESIGN CHOICE (log entry 138): word 1 bit [7], which the table names neither as a field nor as 0, is refused where it is set. -/
def descOk (d : List Word) (cell : Nat) : Bool :=
  let w := wAt d
  dCell d = cell && fld (w 0) 15 13 = 0 && fld (w 0) 31 25 = 0 && 1 ≤ dNprb d && dNprb d ≤ maxPrb (dMu d)
    && 1 ≤ dNtx d && dNtx d ≤ 64 && 1 ≤ dNrx d && dNrx d ≤ 64 && fld (w 1) 7 7 = 0 && fld (w 1) 15 15 = 0 && fld (w 1) 31 26 = 0
    && 1 ≤ dUlLay d && dUlLay d ≤ 16 && 1 ≤ dDlLay d && dDlLay d ≤ 16
    && dMode d ≠ 3 && fld (w 2) 3 2 = 0 && dUlComp d ≤ 3 && dDlComp d ≤ 3 && (dL2Path d || dL2Port d = 0) && fld (w 2) 31 19 = 0
    && 1 ≤ dStrUl d && dStrUl d ≤ 64 && 1 ≤ dStrDl d && dStrDl d ≤ 64 && fld (w 4) 7 7 = 0 && fld (w 4) 31 15 = 0
    && 1 ≤ dUlWin d && 2000 * dUlWin d ≤ dTslot d && fld (w 5) 15 9 = 0
    && dTslot d ≤ 14000 * dDlAdv d && 2000 * dDlAdv d ≤ dTslot d && fld (w 5) 31 25 = 0
    && dPci d ≤ 1007 && fld (w 6) 31 10 = 0 && fld (w 7) 31 28 = 0 && fld (w 8) 31 8 = 0 && fld (w 9) 31 28 = 0 && fld (w 10) 31 16 = 0
    && w 12 = 0 && w 13 = 0 && w 14 = 0 && w 15 = 0
    && dEaxUl d + dStrUl d ≤ 65536 && dEaxDl d + dStrDl d ≤ 65536
    && (dMode d = 1 || (dStrUl d = dNrx d && dStrDl d = dNtx d))

/-- Check 2: the packages are bound, of their kinds, and accept the descriptor (R463). -/
def State.pkgOk (s : State) (d : List Word) : Bool :=
  let ok (h k : Nat) : Bool := (match s.seed.pkgs.find h with | some p => p.kind = k && p.records.any (fun r => covers r d) | none => false)
  ok (dRpkg d) 1 && (dLpkg d = 0 || ok (dLpkg d) 2)

/-- Check 3: one ABI generation (R469). -/
def State.genOk (s : State) (d : List Word) : Bool :=
  match s.seed.pkgs.find (dRpkg d), s.seed.pkgs.find (dLpkg d) with
  | some p, some q => p.abi = q.abi
  | _, _ => true

/-- Enabled contexts with a cell's number: (lane, context). -/
def State.cellCtxs (s : State) (c : Nat) : List (Nat × Nat) :=
  (List.range 128).flatMap (fun l => ((List.range 8).filter (fun k =>
    bitOf (s.reg (pgLane l) (0x100 + 0x20 * k)) 0 && s.ctxCell l k = c)).map (fun k => (l, k)))

/-- Check 4 (R144). -/
def State.lanesOk (s : State) (d : List Word) (c : Nat) : Bool :=
  let cs := s.cellCtxs c
  !cs.isEmpty && cs.all (fun p => p.1 / 32 = dHome d)

/-- Check 5: an extent of domain 0 lies inside its registered objects on a die (R279). -/
def State.extentOk (s : State) (va len die : Nat) : Bool :=
  va + len ≤ laneLo && (pagesIn 4096 va len).all (fun pk =>
    match s.objOf 4096 (pageVpn pk) with | some (_, o) => o.die = die | none => false)

def State.areasOk (s : State) (d : List Word) : Bool :=
  s.extentOk (dRing d) (dRingSz d) (dHome d) && s.extentOk (dSbuf d) (dSbSz d) (dHome d)
    && fld (wAt (s.rRec d) 4) 15 0 * 2 ^ 20 ≤ dRingSz d && fld (wAt (s.rRec d) 4) 31 16 * 2 ^ 20 ≤ dSbSz d

/-- Two ranges meet. -/
def meets (a n b m : Nat) : Bool := a < b + m && b < a + n

/-- Check 6: roles, and eAxC ranges on one port (R147, R171, R444). -/
def State.portsOk (s : State) (d : List Word) : Bool :=
  let has (p r : Nat) : Bool := bitOf (s.reg (pgEth p) 0x014) 0 && (List.range (s.subCount p)).any (fun k => s.role p k = r)
  let low (e n : Nat) : List Nat := (List.range n).map (fun i => (e + i) % 256)
  has (dPort d) 1 && (!dL2Path d || has (dL2Port d) 2)
    && s.chargedDescs.all (fun o => dPort o ≠ dPort d ||
        (!meets (dEaxUl d) (dStrUl d) (dEaxUl o) (dStrUl o) && !meets (dEaxDl d) (dStrDl d) (dEaxDl o) (dStrDl o)
          && (!(dTimeDomain d && dTimeDomain o) || (low (dEaxUl d) (dStrUl d)).all (fun x => !(low (dEaxUl o) (dStrUl o)).contains x))))

/-- The eleven checks of R160, each true when it fails. -/
def State.admitFails (s : State) (d : List Word) (c : Nat) : List Bool :=
  let die := dHome d
  [!descOk d c, (s.cell c).phase ≠ .free, !s.pkgOk d, !s.genOk d, !s.lanesOk d c, !s.areasOk d, !s.portsOk d,
   128 < s.loadCells die + 1, 2048 < s.loadUl + dStrUl d || 2048 < s.loadDl + dStrDl d,
   s.cap die < s.loadMt die + s.tileCharge d, 200000 < s.loadCode die + s.codeCharge d]

/-- Code of check i (R160). -/
def failCode (i : Nat) : Code := if i = 3 then .generationMismatch else if 7 ≤ i then .capacityExceeded else .configInvalid

/-- FAILS as a number, and the one code reported (R19). -/
def failsWord (fs : List Bool) : Nat := (fs.zip (List.range 11)).foldl (fun a p => a + b1 p.1 * 2 ^ p.2) 0
def failsCode (fs : List Bool) : Code := codePick (((fs.zip (List.range 11)).filter (·.1)).map (fun p => failCode p.2))

/-- The first frame boundary at or after a time whose SFN is one given, or any: its time and SFN (R163, R164). -/
def State.frameAfter (s : State) (t sfn : Nat) (any : Bool) : Nat × Nat :=
  let p := s.gridPos t
  let k := cdiv p 10000000
  let f := k % 1024
  let more := if any then 0 else (sfn + 1024 - f) % 1024
  (t + (k * 10000000 - p) + more * 10000000, (f + more) % 1024)

/-- SDS_ADM_STAT follows BUSY (R227, R249): IDLE stands while BUSY is clear. -/
def State.admBusy (s : State) (b : Bool) : State :=
  let s1 := ({ s with coord := { s.coord with busy := b } }).level (pgSds 4) 0 (!b)
  if b then s1 else s1.gateOpen

/-- A result is held. -/
def State.admDone (s : State) (c : Code) (sfn : Option Nat) : State :=
  { s with coord := { s.coord with doneBit := true, status := c, sfn := sfn.getD s.coord.sfn } }

/-- A command while BUSY is ignored and counted (R159). -/
def State.admIgnored (s : State) : State := s.bump (pgSds 4) 0 1

/-- ADMIT: SDS_ADM_CMD with OP = ADMIT copies the descriptor and starts the checks. -/
def hostAdmit (v : Word) (s : State) : Ans :=
  if fld v 1 0 ≠ 1 then .next s
  else if s.coord.busy then .next s.admIgnored
  else
    let (code, bs, s1) := s.loadDev .dom0 (fld (s.reg (pgSds 4) 0x010) 27 0 * 4096) 64
    let d := if code = .ok then wordsOf 16 bs else List.replicate 16 0
    .next (({ s1 with coord := { s1.coord with cmdCell := fld v 12 4, cmdSfn := fld v 22 13, asap := bitOf v 23, desc := d } }).admBusy true)

/-- ADMIT_CHECKS_COMPLETE (R160, R163). -/
def execAdmitChecksComplete (s : State) : Ans :=
  let k := s.coord
  -- check 2 waits for a bind or unbind in progress (R472)
  if !k.busy || (s.seed.job.isSome && !s.seed.jobHeld) then .next s else
    let fs := s.admitFails k.desc k.cmdCell
    let code := failsCode fs
    let s1 := { s with coord := { k with fails := failsWord fs } }
    if code ≠ .ok then .next ((s1.admDone code none).admBusy false)
    else
      let (at0, sfn) := s.frameAfter (s.now + 20000000) k.cmdSfn k.asap
      let s2 := s1.setCell k.cmdCell { Cell.free with phase := .accepted, desc := k.desc, startAt := at0, startSfn := sfn, txSeq := (s.cell k.cmdCell).txSeq }
      .next (((s2.admDone .ok (some sfn)).admBusy false).overCheck (dHome k.desc))

/-! Removal (R164, R165). -/

/-- The slot's messages are discarded with ABORTED: one ERROR PDU for each message. -/
def State.abortSlot (s : State) (c : Nat) (m : SlotMsgs) : State :=
  let one (type seq : Nat) (t : State) : State := t.errorInd c (t.cell c).desc m.sfn m.slot 0 type .aborted seq 0
  let s1 := match m.ulSeq with | some q => one 1 q s | none => s
  let s2 := match m.dlSeq with | some q => one 2 q s1 | none => s1
  foldS (m.tbs.map (·.seq)).eraseDups (fun q t => one 3 q t) s2

/-- Messages for slots from a time on are discarded (R164, R165). -/
def State.abortFrom (s : State) (c t : Nat) : State :=
  let x := s.cell c
  let gone := x.slots.filter (fun m => t ≤ m.start)
  foldS gone (fun m u => u.abortSlot c m) (s.setCell c { x with slots := x.slots.filter (fun m => m.start < t) })

/-- The cell begins to drain towards an end boundary. -/
def State.drainCell (s : State) (c at0 sfn : Nat) (forced : Bool) : State :=
  let x := s.cell c
  let e := if x.phase = .draining then min at0 x.endAt else at0
  let s1 := (s.setCell c { x with phase := .draining, endAt := e, forced := x.forced || forced,
                                  slots := if x.ended then [] else x.slots }).abortFrom c e
  (if x.phase = .draining then s1 else s1.cellInd c x.desc 3 (s.sfnAt s.now)).admDone .ok (some sfn)

/-- The cell is FREE: charges released, the change reported, a TAKEN mirror entry back to NONE (R164, R165, R381). -/
def State.freeCell (s : State) (c : Nat) : State :=
  let x := s.cell c
  let s1 := s.cellInd c x.desc 0 (s.sfnAt s.now)
  let s2 := s1.setCell c { Cell.free with txSeq := (s1.cell c).txSeq }
  let s3 := if (s2.mirror c).state = .taken then s2.setMirror c MirrorEntry.none else s2
  s3.overCheck (dHome x.desc)

/-- REMOVE (R164). -/
def hostRemove (v : Word) (s : State) : Ans :=
  let c := fld v 12 4
  if fld v 1 0 ≠ 2 then .next s
  else if s.coord.busy then .next s.admIgnored
  else
    match (s.cell c).phase with
    | .free | .draining => .next (s.admDone .configInvalid none)
    | .accepted => .next ((s.freeCell c).admDone .ok (some (s.sfnAt s.now)))
    | .active => let (at0, sfn) := s.frameAfter (s.now + 1000000) (fld v 22 13) (bitOf v 23); .next (s.drainCell c at0 sfn false)

/-- REMOVE_FORCE (R165): the end boundary is the next slot boundary. -/
def hostRemoveForce (v : Word) (s : State) : Ans :=
  let c := fld v 12 4
  if fld v 1 0 ≠ 3 then .next s
  else if s.coord.busy then .next s.admIgnored
  else
    let x := s.cell c
    if x.phase = .free then .next (s.admDone .configInvalid none)
    else
      let at0 := (s.slotAt (dMu x.desc) s.now).start + dTslot x.desc
      .next (s.drainCell c at0 (s.sfnAt at0) true)

/-- GINIT (R172), held to ±24 dB. -/
def State.ginit (s : State) (d : List Word) : Int :=
  let g := fld (s.reg (pgEth (dPort d)) 0x010) 27 20
  max (-96) (min 96 (if g < 128 then (g : Int) else (g : Int) - 256))

/-- Bucket parameters of an uplink stream (R456): bytes per symbol. -/
def dWidth (c : Nat) : Nat := match c with | 0 => 9 | 1 => 12 | 2 => 14 | _ => 16

/-- Smallest power of two from 256 to 4,096 with 12 NPRB ≤ 0.85 NFFT (07, time-domain front end). -/
def nfft (nprb : Nat) : Nat := ([256, 512, 1024, 2048].find? (fun n => 1200 * nprb ≤ 85 * n)).getD 4096

def polS (d : List Word) : Nat :=
  if dTimeDomain d then 5 * nfft (dNprb d) + 64 * cdiv (5 * nfft (dNprb d)) 8960
  else dNprb d * (1 + 3 * dWidth (dUlComp d)) + 64 * cdiv (dNprb d) 255

/-- A bucket's depth, in bytes × Tslot: key 2s for a stream, 2s + 1 for its section type 3. -/
def polDepth (d : List Word) (key : Nat) : Nat := (if key % 2 = 0 then 2 * polS d else 65536) * dTslot d

/-- Gains start at GINIT and buckets full (R172, R456). -/
def State.startStreams (s : State) (c : Nat) : State :=
  let d := (s.cell c).desc
  s.updCell c (fun x => { x with
    gains := if dTimeDomain d then (List.range (dStrUl d)).map (fun i => (i, { Gain.zero with g := s.ginit d, prev := s.ginit d, cfg := s.reg (pgEth (dPort d)) 0x010 })) else []
    buckets := (List.range (2 * dStrUl d)).map (fun k => (k, (polDepth d k, s.now))) })

/-- CELL_ACTIVATE (R163). -/
def execCellActivate (c : CellId) (s : State) : Ans :=
  let x := s.cell c.val
  if x.phase = .accepted && x.startAt ≤ s.now then
    .next (((s.setCell c.val { x with phase := .active }).startStreams c.val).cellInd c.val x.desc 2 x.startSfn)
  else .next s

/-- Frames of the cell's U-plane and C-plane on a port's wheels are dropped (R165). -/
def State.dropFrames (s : State) (c p : Nat) : State :=
  s.updEth p (fun x => { x with wheel := x.wheel.filter (fun f => f.kind ≠ .uplane c && f.kind ≠ .cplane c) })

/-- CELL_END_BOUNDARY (R164, R165): after a forced end nothing more is sent and no work is left. -/
def execCellEndBoundary (c : CellId) (s : State) : Ans :=
  let x := s.cell c.val
  if x.phase = .draining && !x.ended && x.endAt ≤ s.now then
    if x.forced then .next ((s.setCell c.val { x with ended := true, slots := [] }).dropFrames c.val (dPort x.desc))
    else .next (s.setCell c.val { x with ended := true })
  else .next s

/-- Samples of a symbol's cyclic prefix (R171): longer in the first symbol of each 0.5 ms. -/
def cpLen (mu n slot sym : Nat) : Nat :=
  9 * n / 128 + (if (slot % 2 ^ mu * 14 + sym) % (7 * 2 ^ mu) = 0 then n * 2 ^ mu / 128 else 0)

/-- Samples of the slot before symbol k. -/
def symStart (mu n slot k : Nat) : Nat := ((List.range k).map (fun j => cpLen mu n slot j + n)).sum

/-- PRACH occasions of TS 38.211 in units of 1/30.72 MHz, prefix and samples; those of short formats shrink with μ (PRESUMED). -/
def prachSpan (format : Nat) : Nat × Nat :=
  match format with
  | 0 => (3168, 24576) | 1 => (21024, 49152) | 2 => (4688, 98304) | 3 => (3168, 24576)
  | 4 => (288, 4096) | 5 => (576, 8192) | 6 => (864, 12288) | 7 => (216, 4096) | 8 => (360, 8192) | 9 => (504, 12288)
  | 10 => (936, 24576) | 11 => (1240, 2048) | _ => (2048, 8192)

/-- Prefix and samples of an occasion at the cell's rate. -/
def occasion (d : List Word) (p : Pdu) : Nat × Nat :=
  let x := prachSpan (p.f 2 3 0)
  let k := if p.f 2 3 0 ≤ 3 then 2 ^ dMu d else 1
  let n := nfft (dNprb d)
  (x.1 * n * k / 2048, x.2 * n * k / 2048)

/-- Samples of a slot. -/
def slotSamples (d : List Word) (slot : Nat) : Nat := symStart (dMu d) (nfft (dNprb d)) slot 14

/-- First sample of an occasion within the slot of its PDU, its prefix passed, and how many follow. -/
def occasionAt (d : List Word) (slot : Nat) (p : Pdu) : Nat × Nat :=
  let o := occasion d p
  (symStart (dMu d) (nfft (dNprb d)) slot (p.f 2 11 8) + o.1, o.2)

/-- Sample n counted from a slot's start, walked over slots of their own lengths: slots passed, and the sample within the last one. -/
def slotWalk (d : List Word) : Nat → Nat → Nat → Nat × Nat
  | 0, _, n => (0, n)
  | fuel + 1, slot, n =>
    let len := slotSamples d slot
    if n < len then (0, n) else let r := slotWalk d fuel (slot + 1) (n - len); (r.1 + 1, r.2)

/-- Slots that an occasion runs on past its own, and its last sample's place in the last of them; at most 32 slots (the longest occasion lasts 3.4 ms). -/
def occasionEnd (d : List Word) (slot : Nat) (p : Pdu) : Nat × Nat :=
  let o := occasionAt d slot p
  if o.2 = 0 then (0, o.1) else slotWalk d 32 slot (o.1 + o.2 - 1)

def occasionSlots (d : List Word) (slot : Nat) (p : Pdu) : Nat := (occasionEnd d slot p).1

/-- Start of the last slot that an occasion touches. -/
def occasionLast (d : List Word) (m : SlotMsgs) (p : Pdu) : Nat := m.start + occasionSlots d m.slot p * dTslot d

/-- PRACH occasions of the cell that end in the slot starting at a time. -/
def Cell.occEnds (x : Cell) (start : Nat) : List Pdu :=
  x.slots.flatMap (fun m => m.ul.filter (fun p => p.kind = 3 && occasionLast x.desc m p = start))

/-- RACH_IND for the slot that starts at a time has left. -/
def Cell.rachSent (x : Cell) (start : Nat) : Bool := x.slots.any (fun m => m.start = start && m.indSent)

/-- A slot's occasions still owe a RACH_IND, which leaves for each slot in which one ends before the cell's end boundary (R164, R179). -/
def Cell.rachOwed (x : Cell) (m : SlotMsgs) : Bool :=
  m.ul.any (fun p => p.kind = 3 && !x.rachSent (occasionLast x.desc m p) && (x.phase ≠ CellPhase.draining || occasionLast x.desc m p < x.endAt))

/-- The slot's record is kept at a later slot start: for four slots after its last occasion's, until its indications have left, and while an occasion that is kept ends in it. -/
def Cell.keepSlot (x : Cell) (now : Nat) (m : SlotMsgs) : Bool :=
  let last := ((m.ul.filter (fun p => p.kind = 3)).map (occasionLast x.desc m)).foldl max m.start
  now < last + 4 * dTslot x.desc || (m.ulSeq.isSome && !m.indSent) || x.rachOwed m || !(x.occEnds m.start).isEmpty

/-- Every indication of the cell has been sent. -/
def Cell.indDone (x : Cell) : Bool := x.slots.all (fun m => (m.ulSeq.isNone || m.indSent) && !x.rachOwed m)

/-- Every lane context with the cell's CELL has OUTST = 0, those that stop after a disable too (R144, R164). -/
def State.lanesQuiet (s : State) (c : Nat) : Bool :=
  s.lanes.all (fun p => (List.range 8).all (fun k => s.ctxCell p.1 k ≠ c || (s.lctx p.1 k).outst = 0))

/-- CELL_FREE (R164). -/
def execCellFree (c : CellId) (s : State) : Ans :=
  let x := s.cell c.val
  if x.phase = .draining && x.ended && x.indDone && x.sbFree && s.lanesQuiet c.val then
    .next (s.freeCell c.val)
  else .next s

/-! Slot starts (R140, R151, R158, R420, R425). -/

/-- Stage deadlines of the slots whose stages may lie after a time, in fourteenths of a ns (R157). -/
def stages (d : List Word) (sm : Int) : List Int :=
  let t : Int := dTslot d
  let a : Int := 1000 * dDlAdv d
  let w : Int := 1000 * dUlWin d
  [14 * (sm - t), 14 * (sm - a) - t] ++ (List.range 14).map (fun (k : Nat) => 14 * (sm - a) + k * t)
    ++ (List.range 15).map (fun (k : Nat) => 14 * (sm + w) + (k + 1) * t)
    ++ [14 * (sm + t + w) + 7 * t, 14 * (sm + 2 * t + w)]

/-- The nearest stage deadline of the cell after a slot start, in ns (R158): stages of the slots around it. -/
def nearestStage (d : List Word) (sm : Nat) : Nat :=
  let t : Int := dTslot d
  let near := ((List.range 6).flatMap (fun (i : Nat) => stages d ((sm : Int) + ((i : Int) - 3) * t))).filter (fun x => 14 * (sm : Int) < x)
  (near.foldl min (14 * ((sm : Int) + t)) / 14).toNat

/-- A lane context at its cell's slot start (R140, R143, R240, R420). -/
def LaneCtx.slotStart (x : LaneCtx) (entry budget cdl : Nat) (seed step : DWord) : LaneCtx :=
  let restart := x.fresh || (x.state = .faulted && x.outst = 0 && x.faultSlots < 4)
  let runs := if x.ranSlot && x.state ≠ .faulted then 0 else x.faultSlots
  let y : LaneCtx :=
    if restart then { LaneCtx.zero with pc := entry, fault := x.fault, faultPc := x.faultPc, outst := x.outst, port := x.port, arriving := x.arriving, newOvr := x.newOvr }
    else if x.halted then { x with pc := entry, stack := [], loops := [] }
    else x
  { y with
    cdl := cdl, cdlSet := true, left := budget - x.newOvr, exh := false, ovr := x.newOvr, newOvr := 0, ovrOpen := y.rep.isSome && budget - x.newOvr = 0, late := false, ranSlot := x.state = .run,
    faultSlots := runs, seed := seed, step := step, fresh := false, halted := false
    state := if restart || x.halted then .ready else x.state
    wait := if restart || x.halted then .nothing else x.wait }

/-- A context becomes READY at the slot start: order of becoming ready is kept. -/
def State.slotCtx (s : State) (sm : Nat) (c l k : Nat) : State :=
  let x := s.lctx l k
  if x.state = .off || x.state = .stopping then s else
    let z := s.cell c
    let y := x.slotStart (s.entry l k) (fld (s.inForce (pgLane l) (0x0C0 + 4 * k)) 21 0) (tagOf (nearestStage z.desc sm)) z.seed z.stepCtr
    if y.state = .ready && x.state ≠ .ready then
      let s1 := s.updLane l (fun v => { v.setCtx k { y with seq := v.ticks } with ticks := v.ticks + 1 })
      (if x.state = .faulted then s1.level (pgLane l) k false else s1).standbyCheck l
    else (s.setLctx l k y).standbyCheck l

/-- CELL_SLOT_START (R140). -/
def execCellSlotStart (c : CellId) (s : State) : Ans :=
  let x := s.cell c.val
  let m := s.slotAt (dMu x.desc) s.now
  let runs := (x.phase = .active && x.startAt ≤ m.start) || (x.phase = .draining && x.startAt ≤ m.start && m.start < x.endAt)
  if !runs || x.lastStart = some m.start then .next s else
    let rseed := (s.inForce (pgSds 4) 0x0E0).toNat + 2 ^ 32 * (s.inForce (pgSds 4) 0x0E4).toNat
    let s1 := s.setCell c.val { x with
      lastStart := some m.start, seed := BitVec.ofNat 64 rseed ^^^ BitVec.ofNat 64 c.val,
      stepCtr := BitVec.ofNat 64 (slotNum (dMu x.desc) m.sfn m.slot), ind := []
      slots := x.slots.filter (x.keepSlot s.now)
      dlShut := x.dlShut.filter (fun e =>
        let n := 1024 * slotsPerFrame (dMu x.desc)
        (slotNum (dMu x.desc) m.sfn m.slot + n - e.1) % n < 8)
      syms := x.syms.filter (fun y =>
        let n := 1024 * slotsPerFrame (dMu x.desc)
        let k := (y.slot + n - slotNum (dMu x.desc) m.sfn m.slot) % n
        k < 16 ∨ n < k + 4) }
    let s2 := foldS (s.cellCtxs c.val) (fun p t => t.slotCtx m.start c.val p.1 p.2) s1
    let s3 := s2.sendSlot c.val x.desc 0x10 m.sfn m.slot .ok [] s.now
    .next (s3.blaze 0x10 c.val (leBytes 4 m.sfn ++ leBytes 4 m.slot ++ leBytes 4 (crc32 x.ind)))

end Sys2Proof.Machine
end

