-- ==== Sys2Proof/Machine/Receive.lean ====
section
/-! DEFINITION. Fronthaul of a cell: the cell ring, uplink U-plane and time-domain IQ, symbol closes, the gain stage, indications, C-plane, downlink symbols (07; 08 R205, R209 to R211; 17 R446 to R450, R454). -/

namespace Sys2Proof.Machine

/-! The cell ring (R168, R210). -/

/-- Bytes of a CBFP block (R38). -/
def blockBytes (w : Nat) : Nat := 1 + 3 * w

def ringPos (d : List Word) (sfn slot : Nat) : Nat := slotNum (dMu d) sfn slot % 4

def ulB (d : List Word) : Nat := blockBytes (dWidth (dUlComp d))
def dlB (d : List Word) : Nat := blockBytes (dWidth (dDlComp d))
def ringUa (d : List Word) : Nat := 56 * dStrUl d * dNprb d * ulB d
def ringPa (d : List Word) : Nat := 56 * dStrUl d * 64

def ulPrbAt (d : List Word) (pos k st p : Nat) : Nat := dRing d + ((pos * 14 + k) * dStrUl d + st) * dNprb d * ulB d + p * ulB d
def ulPresAt (d : List Word) (pos k st : Nat) : Nat := dRing d + ringUa d + ((pos * 14 + k) * dStrUl d + st) * 64
def prachAt (d : List Word) (pos st : Nat) : Nat := dRing d + ringUa d + ringPa d + (pos * dStrUl d + st) * 65536
def tdAt (d : List Word) (pos st k : Nat) : Nat :=
  let n := nfft (dNprb d)
  dRing d + ringUa d + ringPa d + 4 * dStrUl d * 65536 + (pos * dStrUl d + st) * 14 * n * 4 + k * n * 4

def dlPrbAt (s : State) (d : List Word) (pos k st p : Nat) : Nat :=
  dRing d + s.dlOff d + ((pos * 14 + k) * dStrDl d + st) * dNprb d * dlB d + p * dlB d
def dlPresAt (s : State) (d : List Word) (pos k st : Nat) : Nat :=
  dRing d + s.dlOff d + 56 * dStrDl d * dNprb d * dlB d + ((pos * 14 + k) * dStrDl d + st) * 64

/-- A presence entry: bit p set when PRB p holds data (R97, R168). -/
def presBytes (n : Nat) (has : Nat → Bool) : List Byte :=
  (List.range 64).map (fun i => BitVec.ofNat 8 ((List.range 8).foldl (fun a j => a + b1 (8 * i + j < n && has (8 * i + j)) * 2 ^ j) 0))

/-- PRBs whose bit is set in a presence entry. -/
def presList (n : Nat) (bs : List Byte) : List Nat := (List.range n).filter (fun p => (bs.getD (p / 8) 0).getLsbD (p % 8))

/-- Counter j of a cell, on its home die (R169). -/
def State.cellCtr (s : State) (c j n : Nat) : State := s.raiseCtr (dHome (s.cell c).desc) (0x8000 + 32 * c + j) (w32 n)

/-! What has been received of a symbol. -/

def Cell.symOf (c : Cell) (slot sym st : Nat) : UlSymbol :=
  (c.syms.find? (fun x => x.slot = slot && x.sym = sym && x.stream = st)).getD { slot := slot, sym := sym, stream := st, got := [], closed := false }

def Cell.putSym (c : Cell) (x : UlSymbol) : Cell :=
  { c with syms := x :: c.syms.filter (fun y => !(y.slot = x.slot && y.sym = x.sym && y.stream = x.stream)) }

def UlSymbol.has (x : UlSymbol) (i : Nat) : Bool := x.got.any (fun r => r.1 ≤ i && i < r.1 + r.2)
def UlSymbol.overlaps (x : UlSymbol) (a n : Nat) : Bool := x.got.any (fun r => meets a n r.1 r.2)
def UlSymbol.count (x : UlSymbol) : Nat := (x.got.map (·.2)).sum

/-! Which cell (R147, R167, R384). -/

def inRange (e first n : Nat) : Bool := first ≤ e && e < first + n

/-- The cell on a port whose uplink range holds an eAxC ID, and the stream. -/
def State.ulCell (s : State) (port e : Nat) : Option (Nat × Nat) :=
  (s.cells.find? (fun p => p.2.phase ≠ CellPhase.free && dPort p.2.desc = port && inRange e (dEaxUl p.2.desc) (dStrUl p.2.desc))).map
    (fun p => (p.1, e - dEaxUl p.2.desc))

/-- The stream belongs to a mirrored cell that has not been taken over (R384). -/
def State.mirrored (s : State) (port e : Nat) : Bool :=
  s.mirrors.any (fun p => p.2.role && p.2.state = .armed && dPort p.2.desc = port && inRange e (dEaxUl p.2.desc) (dStrUl p.2.desc))

/-- A drop on a port, counted (R502). -/
def State.ethDrop (s : State) (port idx : Nat) : State := s.bump (pgEth port) idx 1

/-- What R167 says of a section or message of symbol k stamped in ns and sixteenths of one (R401): the counter it is dropped under, or the slot's start. -/
def State.windowCheck (s : State) (d : List Word) (sfn slot sym stamp frac : Nat) : Except Nat Nat :=
  if slotsPerFrame (dMu d) ≤ slot || 14 ≤ sym || 1024 ≤ sfn then .error 0
  else
    let sm := s.slotStart (dMu d) sfn slot
    let at0 := 14 * (16 * stamp + frac)
    if at0 < 16 * (14 * sm + sym * dTslot d) then .error 1
    else if 16 * uClose d sm sym < at0 then .error 2
    else .ok sm

/-! U-plane sections (R167 to R170, R176). -/

/-- A PRB as it is stored: an uncompressed PRB gets compression parameter 0 (R168). -/
def storedPrb (d : List Word) (bs : List Byte) : List Byte :=
  let x := if dUlComp d = 3 then 0#8 :: bs else bs
  (x ++ List.replicate (ulB d) 0#8).take (ulB d)

/-- The tag that the data of symbol k of the slot that starts at sm carries: T(U(k)) (R219). -/
def symTag (d : List Word) (sm k : Nat) : Nat := tagOf (uClose d sm k / 14)

/-- An accepted section of data symbols lands. -/
def State.landSection (s : State) (port c st sm : Nat) (x : USection) : State :=
  let d := (s.cell c).desc
  let pos := ringPos d x.sfn x.slot
  let u := (s.cell c).symOf (slotNum (dMu d) x.sfn x.slot) x.sym st
  let u1 := { u with got := u.got ++ [(x.startPrb, x.prbs.length)] }
  let s1 := s.portPost port (symTag d sm x.sym) .dom0 (ulPrbAt d pos x.sym st x.startPrb) (x.prbs.flatMap (storedPrb d))
  let s2 := (s1.portPost port (symTag d sm x.sym) .dom0 (ulPresAt d pos x.sym st) (presBytes (dNprb d) u1.has)).updCell c (fun y => y.putSym u1)
  s2.cellCtr c x.sym x.prbs.length

/-- An accepted section type 3 lands in the PRACH area (R176).
DESIGN CHOICE (log entry 125): every symbol of an occasion, and every occasion of the slot, starts at the area's offset 0. -/
def State.landPrach (s : State) (port c st sm : Nat) (x : USection) : State :=
  let d := (s.cell c).desc
  let u := (s.cell c).symOf (slotNum (dMu d) x.sfn x.slot) (14 + x.sym) st
  let s1 := s.portPost port (symTag d sm x.sym) .dom0 (prachAt d (ringPos d x.sfn x.slot) st + x.startPrb * ulB d) (x.prbs.flatMap (storedPrb d))
  let s2 := s1.updCell c (fun y => y.putSym { u with got := u.got ++ [(x.startPrb, x.prbs.length)] })
  if x.lastOfOccasion then s2.cellCtr c 14 1 else s2

/-- A section as logged (R422). -/
def sectionBytes (x : USection) : List Byte :=
  leBytes 8 x.stamp.toNat ++ leBytes 2 x.sfn ++ leBytes 1 x.slot ++ leBytes 1 x.sym ++ leBytes 2 x.startPrb ++ leBytes 2 x.prbs.length
    ++ [BitVec.ofNat 8 (b1 x.prach + 2 * b1 x.lastOfOccasion + 16 * x.frac)] ++ x.prbs.flatten

/-- A U-plane section at a port (R167). -/
def State.uplane (s : State) (port : Nat) (x : USection) : State :=
  match s.ulCell port x.eaxc with
  | none => s.ethDrop port (if s.mirrored port x.eaxc then 7 else 0)
  | some (c, st) =>
    let z := s.cell c
    let d := z.desc
    match s.windowCheck d x.sfn x.slot x.sym x.stamp.toNat x.frac with
    | .error i => s.ethDrop port i
    | .ok sm =>
      let u := z.symOf (slotNum (dMu d) x.sfn x.slot) (if x.prach then 14 + x.sym else x.sym) st
      if dTimeDomain d || (!x.prach && dNprb d < x.startPrb + x.prbs.length) then s.ethDrop port 0
      else if u.closed then s.ethDrop port 2
      else if u.overlaps x.startPrb x.prbs.length then s.ethDrop port 3
      else
        let s1 := s.recLogAt 0 0x01 port x.eaxc x.stamp.toNat (sectionBytes x)
        if x.prach then s1.landPrach port c st sm x else s1.landSection port c st sm x

/-- UPLANE_SECTION (R167): live input is discarded while its class is replayed (R427). -/
def execUplaneSection (port : EthPort) (sec : USection) (s : State) : Ans :=
  .next (if !s.running then s else if s.replayed 0 then s.liveDrop else s.uplane port.val sec)

/-! The gain stage (R171 to R174). -/

/-- x^80 ≤ (131072)^80 · 10^g, for x = 2n − 1. -/
def gainLe (g : Int) (x : Nat) : Bool :=
  if 0 ≤ g then x ^ 80 ≤ 131072 ^ 80 * 10 ^ g.toNat else x ^ 80 * 10 ^ (-g).toNat ≤ 131072 ^ 80

/-- The greatest n below lo + 2^bits with n = lo or p n. -/
def searchUp (p : Nat → Bool) : Nat → Nat → Nat
  | 0, lo => lo
  | b + 1, lo => searchUp p b (if p (lo + 2 ^ b) then lo + 2 ^ b else lo)

/-- 10^(G/20) in units of 2^−16, G in quarters of a dB, to the nearest (R171, R172). -/
def gainFactor (g : Int) : Nat := searchUp (fun n => gainLe g (2 * n - 1)) 21 0

/-- v · f / 65536 to the nearest integer, ties to even, held to INT16; the flag tells a saturation. -/
def gainMul (f : Nat) (v : Int) : Int × Bool :=
  let p := v * f
  let q := p / 65536
  let r := p - q * 65536
  let n := if 32768 < r || (r = 32768 && q % 2 ≠ 0) then q + 1 else q
  if 32767 < n then (32767, true) else if n < -32768 then (-32768, true) else (n, false)

/-- A sample as CI16, little-endian, I first. -/
def ci16 (x : Int × Int) : List Byte := leBytes 2 (x.1 % 65536).toNat ++ leBytes 2 (x.2 % 65536).toNat

def sqSum (xs : List (Int × Int)) : Nat := (xs.map (fun x => (x.1 * x.1 + x.2 * x.2).toNat)).sum

/-- mean^p compared with 10^e: mean = a / b. -/
def powGe (a b p : Nat) (e : Int) : Bool :=
  if 0 ≤ e then b ^ p * 10 ^ e.toNat ≤ a ^ p else b ^ p ≤ a ^ p * 10 ^ (-e).toNat

/-- 10 · log10(mean) in units of 0.1 dB, to the nearest, from −2,000; mean in units of 2^30 (R173). -/
def dbTenths (a b : Nat) : Int :=
  (searchUp (fun k => powGe a (b * 2 ^ 30) 200 (2 * ((k : Int) - 2000) - 1)) 12 0 : Int) - 2000

/-- Close of the symbol that holds an occasion's last sample, in fourteenths of a ns (R157). -/
def occasionClose (d : List Word) (m : SlotMsgs) (p : Pdu) : Nat :=
  let (k, n) := occasionEnd d m.slot p
  let sym := ((List.range 14).filter (fun j => symStart (dMu d) (nfft (dNprb d)) (m.slot + k) j ≤ n)).length - 1
  uClose d (occasionLast d m p) sym

/-- RSSI of an occasion latched at its end (R173); of samples that are all zero it has no value in dB, so it is a free one. -/
def State.latchOcc (s : State) (c st : Nat) (o : OccSum) : State :=
  let (v, s1) := if o.sum = 0 then (let (n, t) := s.takeFree; (((n % 65536 : Nat) : Int) - 32768, t)) else (dbTenths o.sum o.count, s)
  s1.updCell c (fun y =>
    let g := y.gains.get Gain.zero st
    { y with gains := y.gains.set st { g with rssi := v, occs := g.occs.filter (fun q => !(q.start = o.start && q.idx = o.idx)) } })

/-- Occasions whose last symbol has closed are latched over what was received of them. -/
def State.latchDue (s : State) (c st : Nat) : State :=
  foldS ((((s.cell c).gains.get Gain.zero st).occs).filter (fun o => o.close ≤ 14 * s.now)) (fun o t => t.latchOcc c st o) s

/-- Part of [a, a + n) that lies in [b, b + m). -/
def overlap (a n b m : Nat) : Nat × Nat := let lo := max a b; let hi := min (a + n) (b + m); (lo, hi - lo)

/-- The samples that belong to PRACH PDU number idx of a slot are copied to the PRACH area after gain; the last one raises counter 14 and latches RSSI (R173, R176).
DESIGN CHOICE (log entry 125): every occasion of the slot starts at the area's offset 0, and one longer than the area's 64 KiB runs on into the bytes that follow. -/
def State.copyOccasion (s : State) (port tag c st : Nat) (m : SlotMsgs) (idx : Nat) (p : Pdu) (at0 : Nat) (raw out : List (Int × Int)) : State :=
  let d := (s.cell c).desc
  let o := occasionAt d m.slot p
  let (lo, n) := overlap at0 raw.length o.1 o.2
  if n = 0 then s else
    let s1 := s.portPost port tag .dom0 (prachAt d (ringPos d m.sfn m.slot) st + 4 * (lo - o.1)) (((out.drop (lo - at0)).take n).flatMap ci16)
    let g := (s1.cell c).gains.get Gain.zero st
    let mine (q : OccSum) : Bool := q.start = m.start && q.idx = idx
    let q := (g.occs.find? mine).getD { start := m.start, idx := idx, close := occasionClose d m p, sum := 0, count := 0 }
    let q1 := { q with sum := q.sum + sqSum ((raw.drop (lo - at0)).take n), count := q.count + n }
    let s2 := s1.updCell c (fun y => { y with gains := y.gains.set st { g with occs := q1 :: g.occs.filter (fun r => !mine r) } })
    if lo + n = o.1 + o.2 then (s2.cellCtr c 14 1).latchOcc c st q1 else s2

/-- Every occasion of the cell that a run of samples touches: those of this slot and of slots before it. -/
def State.copyOccasions (s : State) (port c st sm sym off : Nat) (slot : Nat) (raw out : List (Int × Int)) : State :=
  let z := s.cell c
  let d := z.desc
  foldS z.slots (fun m t =>
    if sm < m.start || (sm - m.start) % dTslot d ≠ 0 then t else
      let back := (sm - m.start) / dTslot d
      let at0 := ((List.range back).map (fun i => slotSamples d (m.slot + i))).sum + symStart (dMu d) (nfft (dNprb d)) slot sym + off
      foldS (((List.range m.ul.length).zip m.ul).filter (fun ip => ip.2.kind = 3 && back ≤ occasionSlots d m.slot ip.2)) (fun ip u =>
        u.copyOccasion port (symTag d sm sym) c st m ip.1 ip.2 at0 raw out) t) s

/-- An accepted IQ message lands: the gain of its slot, prefix removal, ring, presence, counter (R170 to R172). Samples that land after their slot has ended take its gain and are past its measurement (DESIGN CHOICE, log entry 108). -/
def State.landIq (s : State) (port c st sm : Nat) (x : IqMessage) : State :=
  let z := s.cell c
  let d := z.desc
  let n := nfft (dNprb d)
  let g := z.gains.get Gain.zero st
  let ended := sm < g.since
  let f := gainFactor (if ended then g.prev else g.g)
  let res := x.samples.map (fun v => (gainMul f v.1, gainMul f v.2))
  let out := res.map (fun v => (v.1.1, v.2.1))
  let sats := (res.map (fun v => b1 v.1.2 + b1 v.2.2)).sum
  let first := cpLen (dMu d) n x.slot x.sym - n / 32
  let (lo, k) := overlap x.off x.samples.length first n
  let pos := ringPos d x.sfn x.slot
  let mine := (out.drop (lo - x.off)).take k
  let u := z.symOf (slotNum (dMu d) x.sfn x.slot) x.sym st
  let u1 := if k = 0 then u else { u with got := u.got ++ [(lo - first, k)] }
  let s1 := s.bump (pgEth port) 8 sats
  let s2 := s1.portPost port (symTag d sm x.sym) .dom0 (tdAt d pos st x.sym + 4 * (lo - first)) (mine.flatMap ci16)
  let s3 := s2.updCell c (fun y => { (y.putSym u1) with
    gains := if ended then y.gains else y.gains.set st { g with gsum := g.gsum + sqSum mine, gcount := g.gcount + mine.length } })
  let s4 := s3.copyOccasions port c st sm x.sym x.off x.slot x.samples out
  if u.count < n && u1.count = n then
    (s4.portPost port (symTag d sm x.sym) .dom0 (ulPresAt d pos x.sym st) (presBytes (dNprb d) (fun _ => true))).cellCtr c (16 + x.sym) 1
  else s4

/-- A message as logged (R422). -/
def iqBytes (x : IqMessage) : List Byte :=
  leBytes 8 x.stamp.toNat ++ leBytes 2 x.sfn ++ leBytes 1 x.slot ++ leBytes 1 (x.sym % 16 + 16 * x.frac) ++ leBytes 2 x.off ++ leBytes 2 x.samples.length ++ x.samples.flatMap ci16

/-- A time-domain IQ message at a port (R450). -/
def State.iqMessage (s : State) (port : Nat) (x : IqMessage) : State :=
  match s.ulCell port x.eaxc with
  | none => s.ethDrop port (if s.mirrored port x.eaxc then 7 else 0)
  | some (c, st) =>
    let z := s.cell c
    let d := z.desc
    match s.windowCheck d x.sfn x.slot x.sym x.stamp.toNat x.frac with
    | .error i => s.ethDrop port i
    | .ok sm =>
      let n := nfft (dNprb d)
      let first := cpLen (dMu d) n x.slot x.sym - n / 32
      let (lo, k) := overlap x.off x.samples.length first n
      let u := z.symOf (slotNum (dMu d) x.sfn x.slot) x.sym st
      if !dTimeDomain d then s.ethDrop port 0
      else if u.closed then s.ethDrop port 2
      else if u.overlaps (lo - first) k then s.ethDrop port 3
      else (s.recLogAt 0 0x01 port x.eaxc x.stamp.toNat (iqBytes x)).landIq port c st sm x

/-- TIME_DOMAIN_IQ_MESSAGE (R450). -/
def execTimeDomainIqMessage (port : EthPort) (msg : IqMessage) (s : State) : Ans :=
  .next (if !s.running then s else if s.replayed 0 then s.liveDrop else s.iqMessage port.val msg)

/-! Symbol close (R170). -/

/-- A stream of an O-RAN cell at U(k): its missing PRBs are erased; how many. -/
def State.closePrbs (s : State) (c st sfn slot k : Nat) : Nat × State :=
  let d := (s.cell c).desc
  let u := (s.cell c).symOf (slotNum (dMu d) sfn slot) k st
  let gone := (List.range (dNprb d)).filter (fun p => !u.has p)
  let pos := ringPos d sfn slot
  let tag := symTag d (s.slotStart (dMu d) sfn slot) k
  let s1 := foldS gone (fun p t => t.putDevTag tag .dom0 (ulPrbAt d pos k st p) (List.replicate (ulB d) 0#8)) s
  let s2 := s1.putDevTag tag .dom0 (ulPresAt d pos k st) (presBytes (dNprb d) u.has)
  (gone.length, s2.updCell c (fun y => y.putSym { u with closed := true }))

/-- A stream of a time-domain cell at U(k). -/
def State.closeSamples (s : State) (c st sfn slot k : Nat) : State :=
  let d := (s.cell c).desc
  let n := nfft (dNprb d)
  let u := (s.cell c).symOf (slotNum (dMu d) sfn slot) k st
  let pos := ringPos d sfn slot
  let s0 := s.updCell c (fun y => y.putSym { u with closed := true })
  if u.count = n then s0 else
    let tag := symTag d (s.slotStart (dMu d) sfn slot) k
    let s1 := foldS ((List.range n).filter (fun i => !u.has i)) (fun i t => t.putDevTag tag .dom0 (tdAt d pos st k + 4 * i) [0#8, 0#8, 0#8, 0#8]) s0
    ((s1.putDevTag tag .dom0 (ulPresAt d pos k st) (List.replicate 64 0#8)).bump (pgSds 4) (cellIdx c 0) (dNprb d)).cellCtr c (16 + k) 1

/-- UL_SYMBOL_CLOSE: U(k) of a symbol of a slot with an accepted UL_CONFIG passes. -/
def execUlSymbolClose (c : CellId) (sfn slot sym : Nat) (s : State) : Ans :=
  let x := s.cell c.val
  let d := x.desc
  let sm := s.slotStart (dMu d) sfn slot
  let due := (match x.slotOf sfn slot sm with | some m => m.ulSeq.isSome | none => false) && sym < 14 && uClose d sm sym ≤ 14 * s.now
    && !(x.symOf (slotNum (dMu d) sfn slot) sym 0).closed
  if x.phase = CellPhase.free || !due then .next s
  else if dTimeDomain d then .next (foldN (dStrUl d) (fun st t => (t.closeSamples c.val st sfn slot sym).latchDue c.val st) s)
  else
    let (n, s1) := foldN (dStrUl d) (fun st acc => let (k, t) := acc.2.closePrbs c.val st sfn slot sym; (acc.1 + k, t)) (0, s)
    .next ((s1.bump (pgSds 4) (cellIdx c.val 0) n).cellCtr c.val sym n)

/-! The end of a slot (R172 to R174, R382). -/

/-- The change of G in quarters of a dB: 2 (T − P) to the nearest, ties to even, within ±MAXSTEP. -/
def gainStep (target maxStep sum count : Nat) : Int :=
  -- the step is at least k when 40 log10(mean) ≤ 1 − TARGET − 2k; at equality the even one is taken
  let atLeast (k : Int) : Bool :=
    let e : Int := 1 - target - 2 * k
    !powGe sum (count * 2 ^ 30) 40 e || (k % 2 = 0 && powGe (count * 2 ^ 30) sum 40 (-e))
  let m : Int := maxStep
  ((List.range (2 * maxStep)).filter (fun i => atLeast ((i : Int) + 1 - m))).length - m

/-- The frozen slots of an occasion end with the one in which its RACH_IND deadline falls (R157, R173). -/
def occasionFreeze (d : List Word) (m : SlotMsgs) (p : Pdu) : Nat :=
  occasionLast d m p + (2 * dTslot d + 1000 * dUlWin d) / dTslot d * dTslot d

/-- The last frozen slot of the occasions that the slot starting at a time touches or follows (R173). -/
def Cell.frozenTo (x : Cell) (start : Nat) : Option Nat :=
  let es := (x.slots.filter (fun m => m.start ≤ start)).flatMap (fun m => (m.ul.filter (fun p => p.kind = 3)).map (occasionFreeze x.desc m))
  if es.isEmpty then none else some (es.foldl max 0)

def laterOf (a b : Option Nat) : Option Nat := match a, b with | some x, some y => some (max x y) | some x, none => some x | none, y => y

/-- One stream at the end of the slot that starts at a time, with ETH_TDG_CFG as it applied there; the new gain and the register's present value apply from the next slot (R172 to R174). -/
def Gain.slotEnd (g : Gain) (start next : Nat) (frz : Option Nat) (cfg : Word) : Gain :=
  let f := laterOf g.frzEnd frz
  let on (e : Option Nat) : Bool := (match e with | some x => decide (start ≤ x) | none => false)
  let g1 := if on f || on g.holdEnd || g.gcount = 0 then g.g
    else max (-96) (min 96 (g.g + gainStep (fld g.cfg 7 0) (fld g.cfg 11 8) g.gsum g.gcount))
  { g with g := g1, prev := g.g, since := next, cfg := cfg, frzEnd := f, gsum := 0, gcount := 0 }

/-- GAIN_SLOT_END: the slot of a time-domain cell has ended; an armed origin mirrors gains and area (R172, R173, R382). -/
def execGainSlotEnd (c : CellId) (sfn slot : Nat) (s : State) : Ans :=
  let x := s.cell c.val
  let d := x.desc
  let start := s.slotStart (dMu d) sfn slot
  if x.phase = CellPhase.free || s.now < start + dTslot d then .next s else
    let area := s.peek .dom0 (dRing d + dRingSz d - min (dRingSz d) (s.mirSz d)) (min (dRingSz d) (s.mirSz d))
    if !dTimeDomain d then .next (s.mirrorOut c.val (.area area))
    else
      let s1 := foldN (dStrUl d) (fun st t => t.latchDue c.val st) s
      let s2 := s1.updCell c.val (fun y => { y with gains := (List.range (dStrUl d)).map (fun st =>
        (st, (y.gains.get Gain.zero st).slotEnd start (start + dTslot d) (x.frozenTo start) (s.reg (pgEth (dPort d)) 0x010))) })
      let gs := (List.range (dStrUl d)).map (fun st => let g := (s2.cell c.val).gains.get Gain.zero st; (g.g, g.frzEnd, g.holdEnd, g.rssi))
      .next ((s2.mirrorOut c.val (.gains gs)).mirrorOut c.val (.area area))

/-! Indications (R156, R186, R205). -/

/-- Check unit of a cell's transport blocks (R205). -/
def tbUnit (d : List Word) : Nat :=
  if dL2Path d then (if dL2Port d < 4 then 28 + dL2Port d else 60 + (dL2Port d - 4)) else 27

/-- The TB PDU as words of a PDU. -/
def asPdu (ws : List Word) : Pdu := { kind := fld (wAt ws 0) 15 0, seq := 0, words := ws }

/-- The unit's CRC over the payload agrees with the decoded one in word 3. -/
def tbAgrees (ws : List Word) : Bool := tbCrc (asPdu ws).payload ((asPdu ws).f 2 17 0) = (asPdu ws).f 3 23 0

/-- The CRC PDU of a PUSCH PDU (R186): HANDLE; TBOK and NCBERR of the engine's record, TBOK also needing the agreement of the TB that leaves (R205); STATUS, PATH, SINR and TADJ as the radio program found them. -/
def crcPdu (m : SlotMsgs) (tbs crcs : List (List Word)) (p : Pdu) : List Word :=
  let w := (crcs.find? (fun w => wAt w 1 = p.handle)).getD []
  let r := (m.decoded.find? (fun r => r.1 = p.handle)).getD (p.handle, false, 0)
  let agrees : Bool := match tbs.find? (fun t => wAt t 1 = p.handle) with
    | some t => bitOf (wAt t 2) 18 && tbAgrees t
    | none => true
  [w32 (0x0031 + 16 * 65536), p.handle, w32 (put (fld (wAt w 2) 7 0) 8 0 + 2 ^ 8 * b1 (r.2.1 && agrees) + put (fld (wAt w 2) 10 9) 2 9 + put r.2.2 16 16),
   w32 (fld (wAt w 3) 27 0)]

/-- The first n bits of some words, the rest 0. -/
def maskBits (n : Nat) (ws : List Word) : List Word :=
  (List.range ws.length).map (fun i => if 32 * (i + 1) ≤ n then wAt ws i else w32 ((wAt ws i).toNat % 2 ^ (n - 32 * i)))

/-- The UCI PDU of a PUCCH PDU (R187): its counts, what the decoder found, and its payload padded with zeros to 8 bytes. -/
def uciPdu (p : Pdu) (w : List Word) : List Word :=
  let n := p.f 5 7 0 + p.f 5 26 16
  let k := 2 * cdiv n 64
  [w32 (0x0032 + (16 + 4 * k) * 65536), p.handle, w32 (p.f 5 7 0 + 2 ^ 8 * p.f 5 8 8 + put (fld (wAt w 2) 12 9) 4 9), w32 (fld (wAt w 3) 15 0)]
    ++ maskBits n ((List.range k).map (fun i => wAt w (4 + i)))

/-- The UCI PDU of a PUSCH PDU, which names no counts of its own: counts, results and payload are what the decoder found (R151, R187; DESIGN CHOICE, log entry 127). -/
def uciPuschPdu (p : Pdu) (w : List Word) : List Word :=
  let k := 2 * cdiv (w.length - 4) 2
  [w32 (0x0032 + (16 + 4 * k) * 65536), p.handle, w32 (fld (wAt w 2) 7 0 + put (fld (wAt w 2) 12 9) 4 9), w32 (fld (wAt w 3) 15 0)]
    ++ (List.range k).map (fun i => wAt w (4 + i))

/-- The UCI PDU of a PUCCH or PUSCH PDU. -/
def uciOf (p : Pdu) (w : List Word) : List Word := if p.kind = 1 then uciPuschPdu p w else uciPdu p w

/-- The SRS_REPORT of an SRS PDU (R188): NGRP, and one entry for each group and port. -/
def srsPdu (p : Pdu) (w : List Word) : List Word :=
  let n := cdiv (p.f 4 24 16) (2 ^ p.f 5 2 0)
  let k := n * 2 ^ p.f 2 17 16
  [w32 (0x0034 + (16 + 4 * k) * 65536), p.handle, w32 (put n 9 0), 0] ++ (List.range k).map (fun i => wAt w (4 + i))

/-- 10^(r/100) in units of 2^−130, rounded down: a power from tenths of a dB. -/
def linTenths (r : Int) : Nat :=
  let le (n : Nat) : Bool := if 0 ≤ r then n ^ 100 ≤ 2 ^ 13000 * 10 ^ r.toNat else n ^ 100 * 10 ^ (-r).toNat ≤ 2 ^ 13000
  searchUp le 160 0

/-- The mean of RSSI values taken in linear power (R179). -/
def rssiMean (rs : List Int) : Int := dbTenths ((rs.map linTenths).sum / 2 ^ 30) (rs.length * 2 ^ 70)

/-- A PREAMBLE PDU (R179): in a time-domain cell RSSI is the mean of the latched values. -/
def preamblePdu (rssi : Option Int) (w : List Word) : List Word :=
  let r : Nat := match rssi with | some v => (v % 65536).toNat | none => fld (wAt w 3) 31 16
  [w32 (0x0033 + 16 * 65536), wAt w 1, w32 (fld (wAt w 2) 5 0 + 2 ^ 8 * min 3846 (fld (wAt w 2) 19 8)), w32 (fld (wAt w 3) 15 0 + 2 ^ 16 * r)]

/-- PREAMBLE PDUs of a slot: detections of its occasions with preambles in use, in ascending preamble index. -/
def Cell.preambles (x : Cell) (start : Nat) (found : List (List Word)) : List (List Word) :=
  let occ := x.occEnds start
  let ok (w : List Word) : Bool := occ.any (fun p => p.handle = wAt w 1 && fld (wAt w 2) 5 0 ≤ p.f 3 21 16)
  let rssi := if dTimeDomain x.desc then some (rssiMean ((List.range (dStrUl x.desc)).map (fun st => (x.gains.get Gain.zero st).rssi))) else none
  (List.range 64).flatMap (fun i => (found.filter (fun w => ok w && fld (wAt w 2) 5 0 = i)).map (preamblePdu rssi))

/-- What the radio program found for indications of a type. -/
def foundFor (others : List (Nat × List (List Word))) (type : Nat) : List (List Word) := (others.filter (fun p => p.1 = type)).flatMap (·.2)

/-- Reports of accepted PDUs of some kinds, each built from what was found under its HANDLE. -/
def reports (m : SlotMsgs) (kinds : List Nat) (build : Pdu → List Word → List Word) (found : List (List Word)) : List (List Word) :=
  (m.ul.filter (fun p => kinds.contains p.kind)).flatMap (fun p => (found.filter (fun w => wAt w 1 = p.handle)).map (build p))

/-- The CRC PDU of a PUSCH PDU whose slot was dropped as a cell fault: nothing was decoded (R370; DESIGN CHOICE, log entry 122: STATUS is ABORTED). -/
def droppedCrc (p : Pdu) : List Word := [w32 (0x0031 + 16 * 65536), p.handle, w32 (codeVal .aborted), 0]

/-- The indications of a slot, by type (R151, R179, R186 to R188): a CRC PDU for every PUSCH PDU; RACH_IND when an occasion ends in the slot, be it without a PDU. A slot dropped as a cell fault has no others (R143, R370). -/
def Cell.indications (x : Cell) (m : SlotMsgs) (start : Nat) (tbs crcs : List (List Word)) (others : List (Nat × List (List Word))) : List (Nat × List (List Word)) :=
  let filled (type : Nat) (ps : List (List Word)) : List (Nat × List (List Word)) := if ps.isEmpty then [] else [(type, ps)]
  let pusch := m.ul.filter (fun p => p.kind = 1)
  let rach (ps : List (List Word)) : List (Nat × List (List Word)) := if (x.occEnds start).isEmpty then [] else [(0x14, ps)]
  if m.dropped then filled 0x12 (pusch.map droppedCrc) ++ rach []
  else
    filled 0x11 tbs ++ filled 0x12 (pusch.map (crcPdu m tbs crcs)) ++ filled 0x13 (reports m [1, 2] uciOf (foundFor others 0x13))
      ++ rach (x.preambles start (foundFor others 0x14)) ++ filled 0x15 (reports m [4] srsPdu (foundFor others 0x15))

/-- RX_DATA_EGRESS: a slot's indications leave: RX_DATA, CRC_IND, then the others by type; each carries DEADLINE_MISSED when it is late, RX_DATA and CRC_IND also after a late handover (R185). A CRC PDU of PATH 2 tells a fallback of the learned receiver (R184, R186). A slot without UL_CONFIG in which an occasion ends sends its RACH_IND (R179). -/
def execRxDataEgress (c : CellId) (sfn slot : Nat) (tbs crcs : List (List Word)) (others : List (Nat × List (List Word))) (s : State) : Ans :=
  let x := s.cell c.val
  let d := x.desc
  let sm := s.slotStart (dMu d) sfn slot
  let m := (x.slotOf sfn slot sm).getD (SlotMsgs.empty sfn slot sm)
  if x.phase = CellPhase.free || m.indSent || (m.ulSeq.isNone && (x.occEnds sm).isEmpty) then .next s else
    let dl := sm + 2 * dTslot d + 1000 * dUlWin d
    let late (type : Nat) : Code := if dl < s.now || (m.lateHand && (type = 0x11 || type = 0x12)) then .deadlineMissed else .ok
    let tbs := if m.ulSeq.isNone || m.dropped then [] else tbs
    let msgs := x.indications m sm tbs crcs others
    let bad := (tbs.filter (fun t => !tbAgrees t)).length
    let falls := ((foundFor msgs 0x12).filter (fun w => fld (wAt w 2) 10 9 = 2)).length
    let s1 := ((s.bump (pgChk (tbUnit d)) 0 bad).bump (pgSds 4) (cellIdx c.val 1) falls).updCell c.val (fun y => y.updSlot sfn slot sm (fun m => { m with indSent := true }))
    .next (foldS msgs (fun p t =>
      let ws := slotMsg p.1 c.val sfn slot (t.cell c.val).txSeq (late p.1) p.2
      (t.sendSlot c.val d p.1 sfn slot (late p.1) p.2 dl).updCell c.val (fun y => { y with ind := y.ind ++ bytesOf ws })) s1)

/-! Fronthaul egress (R166, R209, R211, R446, R447, R449, R454). Byte layouts inside eCPRI payloads are those of O-RAN WG4 (PRESUMED, log entry 27). -/

/-- eCPRI header and payload: revision 1, no concatenation; SeqId, E bit 1, sub-sequence 0 (R446, R449). -/
def ecpri (mtype eaxc seq : Nat) (payload : List Byte) : List Byte :=
  [0x10#8, BitVec.ofNat 8 mtype] ++ beBytes 2 (payload.length + 4) ++ beBytes 2 eaxc ++ [BitVec.ofNat 8 seq, 0x80#8] ++ payload

/-- The next SeqId of a stream's plane (R449): direction and plane in the key. -/
def State.nextSeq (s : State) (c st dir plane : Nat) : Nat × State :=
  let k := st * 4 + dir * 2 + plane
  let n := (s.cell c).seqs.get 0 k
  (n, s.updCell c (fun y => { y with seqs := y.seqs.set k ((n + 1) % 256) }))

/-- A fronthaul frame to the radio unit of an eAxC ID (R445); none where no RU entry covers it. -/
def State.ruFrame (s : State) (port eaxc : Nat) (body : List Byte) (launch deadline : Nat) (kind : EgressKind) (close : Option Nat) : State :=
  match s.peer port 1 eaxc with
  | none => s
  | some e =>
    let sub := s.peerSub port e
    s.queueFrame port { sub := sub, launch := launch, deadline := deadline, eaxc := some eaxc, kind := kind,
                        bytes := s.ethHeader port sub (s.peerMac port e) 0xAEFE ++ body, tsreq := false, txid := 0, close := close }

/-- udCompHdr of a compression code: width and method. -/
def compHdr (c : Nat) : Byte := match c with | 0 => 0x91 | 1 => 0xC1 | 2 => 0xE1 | _ => 0x00

/-- Radio application header: direction, payload version 1, filter; frame, subframe, slot, symbol (R399). -/
def appHeader (d : List Word) (dl : Bool) (filter sfn slot sym : Nat) : List Byte :=
  [BitVec.ofNat 8 (b1 dl * 128 + 16 + filter), BitVec.ofNat 8 sfn] ++ beBytes 2 (slot / 2 ^ dMu d * 4096 + slot % 2 ^ dMu d * 64 + sym)

/-- A C-plane section for PRBs start to start + n − 1 (n = 0: every PRB) and k symbols (R447). -/
def cSection (start n k : Nat) (ef : Bool) : List Byte :=
  beBytes 4 (start * 256 + n) ++ beBytes 4 (0xFFF * 2 ^ 20 + k * 2 ^ 16 + b1 ef * 2 ^ 15)

/-- CI16 weights under 9-bit block floating point: the least exponent that fits them all, and their mantissas, I before Q, most significant bit first (R38, R209; DESIGN CHOICE, log entry 128: to the nearest, ties to even). -/
def bfpWeights (w : List (Int × Int)) : List Byte :=
  let xs := (w.flatMap (fun p => [p.1, p.2])).map (fun v => Num.fin (decide (v < 0)) v.natAbs (-15))
  let e := cbfpExp 9 xs
  let n := cdiv (9 * xs.length) 8
  BitVec.ofNat 8 e :: beBytes n ((xs.map (fun x => (cbfpMant 9 e .nearest x).1)).foldl (fun a m => a * 512 + m) 0 * 2 ^ (8 * n - 9 * xs.length))

/-- Section extension type 1: the weights of a PRB group, padded to whole words (R209, R447). -/
def weightExt (w : List (Int × Int)) : List Byte :=
  let b := bfpWeights w
  let n := cdiv (3 + b.length) 4
  [0x01#8, BitVec.ofNat 8 n, 0x91#8] ++ b ++ List.replicate (n * 4 - (3 + b.length)) 0#8

/-- Section type 1: one section for the whole carrier, or one for each PRB group that has weights: first PRB, PRBs, weights (R209). -/
def cType1 (d : List Word) (dl : Bool) (sfn slot : Nat) (groups : List (Nat × Nat × List (Int × Int))) : List Byte :=
  let secs := if groups.isEmpty then cSection 0 0 14 false else groups.flatMap (fun g => cSection g.1 g.2.1 14 true ++ weightExt g.2.2)
  appHeader d dl 0 sfn slot 0 ++ [BitVec.ofNat 8 (max 1 groups.length), 1#8, compHdr (if dl then dDlComp d else dUlComp d), 0#8] ++ secs

/-- frameStructure: the FFT size as its power of two, and μ (R145, R447). -/
def frameStructure (d : List Word) : Byte := BitVec.ofNat 8 (Nat.log2 (nfft (dNprb d)) * 16 + dMu d)

/-- Section type 3 for a PRACH occasion: timeOffset, cpLength and freqOffset are not in the manual, so they are free bytes. -/
def cType3 (d : List Word) (sfn slot : Nat) (p : Pdu) (free : Nat) : List Byte :=
  appHeader d false 1 sfn slot (p.f 2 11 8) ++ [1#8, 3#8] ++ leBytes 2 free ++ [frameStructure d] ++ leBytes 2 (free / 2 ^ 16) ++ [compHdr (dUlComp d)]
    ++ cSection (p.f 2 24 16) 0 0 false ++ leBytes 3 (free / 2 ^ 40) ++ [0#8]

/-- The C-plane deadline Sm − A − Tsym in ns (R157). -/
def cDeadline (d : List Word) (sm : Nat) : Nat := ((14 * (sm : Int) - 14000 * dDlAdv d - dTslot d) / 14).toNat

def State.cFrame (s : State) (c st : Nat) (dl : Bool) (sm : Nat) (payload : List Byte) : State :=
  let d := (s.cell c).desc
  let (q, s1) := s.nextSeq c st (b1 dl) 1
  let e := (if dl then dEaxDl d else dEaxUl d) + st
  s1.ruFrame (dPort d) e (ecpri 2 e q payload) s1.now (cDeadline d sm) (.cplane c) none

/-- The cell's U-plane and C-plane may leave for a slot: it is not past a forced end (R165).
DESIGN CHOICE (log entry 126): what an ACCEPTED cell has been sent for a slot before its first one leaves too; R163 names only SLOT_IND. -/
def Cell.maySend (x : Cell) (start : Nat) : Bool :=
  x.phase ≠ CellPhase.free && !(x.forced && x.endAt ≤ start) && !(x.forced && x.ended)

/-- UPLINK_CPLANE_SEND (R166). -/
def execUplinkCplaneSend (c : CellId) (sfn slot : Nat) (s : State) : Ans :=
  let x := s.cell c.val
  let d := x.desc
  let sm := s.slotStart (dMu d) sfn slot
  match x.slotOf sfn slot sm with
  | none => .next s
  | some m =>
    if m.ulSeq.isNone || m.ulCplane || !x.maySend sm then .next s else
      let s1 := s.updCell c.val (fun y => y.updSlot sfn slot sm (fun z => { z with ulCplane := true }))
      .next (foldN (dStrUl d) (fun st t =>
        foldS (m.ul.filter (fun p => p.kind = 3)) (fun p u => let (f, v) := u.takeFree; v.cFrame c.val st false sm (cType3 d sfn slot p f))
          (t.cFrame c.val st false sm (cType1 d false sfn slot []))) s1)

/-- DOWNLINK_CPLANE_SEND: category B streams carry the weights of their PRB groups, one section each, in section extension type 1 (R209). -/
def execDownlinkCplaneSend (c : CellId) (sfn slot : Nat) (weights : List (List (Nat × Nat × List (Int × Int)))) (s : State) : Ans :=
  let x := s.cell c.val
  let d := x.desc
  let sm := s.slotStart (dMu d) sfn slot
  match x.slotOf sfn slot sm with
  | none => .next s
  | some m =>
    if m.dlSeq.isNone || m.dlCplane || !x.maySend sm then .next s else
      let s1 := s.updCell c.val (fun y => y.updSlot sfn slot sm (fun z => { z with dlCplane := true }))
      .next (foldN (dStrDl d) (fun st t =>
        t.cFrame c.val st true sm (cType1 d true sfn slot (if dMode d = 1 then weights.getD st [] else []))) s1)

/-! Downlink symbols (R211, R454). -/

/-- PRBs in runs of consecutive ones, each of at most n: first and number. -/
def prbRuns (n : Nat) : List Nat → List (Nat × Nat)
  | [] => []
  | p :: t =>
    match prbRuns n t with
    | (q, k) :: r => if p + 1 = q && k < n then (p, k + 1) :: r else (p, 1) :: (q, k) :: r
    | [] => [(p, 1)]

/-- PRBs that one downlink section holds: at most 255, and no more than fit the longest frame with its tag, eCPRI header, application header and section header (R211, R444, R445).
DEDUCED (log entry 129): R444's longest frame splits a section of wide PRBs. -/
def dlRun (d : List Word) : Nat := min 255 ((9216 - (14 + 4 + 8 + 4 + 4 + 2 + 4)) / (if dDlComp d = 3 then 48 else dlB d))

/-- PRBs of a downlink PDU in symbol k: first and number (R154, R212 to R214). -/
def dlCover (p : Pdu) (k : Nat) : Nat × Nat :=
  let within (a n : Nat) : Bool := a ≤ k && k < a + n
  if p.kind = 0x11 then (if within (p.f 4 3 0) (p.f 4 7 4) then (p.f 3 8 0, p.f 3 24 16) else (0, 0))
  else if p.kind = 0x12 then (if within (p.f 2 21 18) (p.f 2 17 16) then (p.f 2 8 0, 6 * p.f 2 14 9) else (0, 0))
  else if p.kind = 0x13 then (if within (p.f 2 25 22) 4 then (p.f 2 16 8, 20 + b1 (p.f 2 21 17 ≠ 0)) else (0, 0))
  else
    let n := if p.f 2 29 28 = 2 then 2 else if p.f 2 29 28 = 3 then 4 else 1
    if within (p.f 2 23 20) n || within (p.f 2 27 24) n then (p.f 3 8 0, p.f 3 24 16) else (0, 0)

/-- PRB p of symbol k belongs to PDSCH PDUs that transmit nothing, and to no other PDU of the slot (R155, R208). -/
def SlotMsgs.blank (m : SlotMsgs) (k p : Nat) : Bool :=
  let on (q : Pdu) : Bool := inRange p (dlCover q k).1 (dlCover q k).2
  let off (q : Pdu) : Bool := q.kind = 0x11 && m.notReady.contains q.handle
  m.dl.any (fun q => off q && on q) && !m.dl.any (fun q => !off q && on q)

/-- PRBs of a stream's symbol whose presence bit is set; none where the entry's line is poisoned (R303; DESIGN CHOICE, log entry 110). -/
def State.dlPresent (s : State) (c st pos k : Nat) : List Nat :=
  let d := (s.cell c).desc
  if s.hasPoison .dom0 (dlPresAt s d pos k st) 64 then [] else presList (dNprb d) (s.peek .dom0 (dlPresAt s d pos k st) 64)

/-- A downlink U-plane section: the stored blocks, an uncompressed PRB without its parameter byte. -/
def State.dlSection (s : State) (d : List Word) (sfn slot k st : Nat) (r : Nat × Nat) : List Byte :=
  let pos := ringPos d sfn slot
  let prbs := (List.range r.2).flatMap (fun i =>
    let b := s.peek .dom0 (dlPrbAt s d pos k st (r.1 + i)) (dlB d)
    if dDlComp d = 3 then b.drop 1 else b)
  appHeader d true 0 sfn slot k ++ beBytes 4 (r.1 * 256 + r.2) ++ [compHdr (dDlComp d), 0#8] ++ prbs

/-- Time-domain messages of a symbol (R450): the samples come from the cell's transform, which the manual gives no values for. -/
def State.iqSections (s : State) (d : List Word) (sfn slot k : Nat) : List (List Byte) :=
  let n := cpLen (dMu d) (nfft (dNprb d)) slot k + nfft (dNprb d)
  (List.range (cdiv n 2280)).map (fun i =>
    let ns := min 2280 (n - 2280 * i)
    beBytes 8 (sfn * 2 ^ 54 + slot * 2 ^ 47 + k * 2 ^ 43 + 2280 * i * 2 ^ 30 + ns * 2 ^ 16) ++ leBytes (4 * ns) (Sys2Proof.Config.freeNat (s.fresh + i)))

/-- Frame bytes from the destination address to the FCS. -/
def wireBytes (payload : Nat) : Nat := 14 + 8 + payload + 4

/-- The sections of a stream's symbol with their launch times: at once, or paced over three quarters of a symbol (R454). -/
def paced (d : List Word) (first : Nat) (paceIt : Bool) (secs : List (List Byte)) : List (Nat × List Byte) :=
  let q := (secs.map (fun b => wireBytes b.length)).sum
  (secs.foldl (fun acc b =>
    let gap := if paceIt then cdiv (wireBytes b.length * 3 * dTslot d) (56 * q * 128) * 128 else 0
    match acc.1 with
    | none => (some first, acc.2 ++ [(first, b)])
    | some l => (some (l + gap), acc.2 ++ [(l + gap, b)])) ((none : Option Nat), ([] : List (Nat × List Byte)))).2

/-- Present PRBs of a stream's symbol that have not been sent, sent: not those set after the position's last close, nor those of PDUs that transmit nothing (R155, R211). -/
def State.sendSymbol (s : State) (c st sfn slot k sm : Nat) (first : Nat) (paceIt : Bool) : State :=
  let x := s.cell c
  let d := x.desc
  let num := slotNum (dMu d) sfn slot
  let pos := ringPos d sfn slot
  let m := (x.slotOf sfn slot sm).getD (SlotMsgs.empty sfn slot sm)
  let new := (s.dlPresent c st pos k).filter (fun p => !x.dlSent.contains (num, k, st, p) && !x.dlStale.contains (num, k, st, p)
    && !m.blank k p && !s.hasPoison .dom0 (dlPrbAt s d pos k st p) (dlB d))
  if new.isEmpty then s else
    let secs := if dTimeDomain d then s.iqSections d sfn slot k else (prbRuns (dlRun d) new).map (s.dlSection d sfn slot k st)
    let close := (eClose d sm k / 14).toNat
    let s1 := { (s.updCell c (fun y => { y with dlSent := y.dlSent ++ new.map (fun p => (num, k, st, p)) })) with fresh := s.fresh + (if dTimeDomain d then secs.length else 0) }
    foldS (paced d first paceIt secs) (fun lb t =>
      let (q, u) := t.nextSeq c st 1 0
      u.ruFrame (dPort d) (dEaxDl d + st) (ecpri 0 (dEaxDl d + st) q lb.2) lb.1 close (.uplane c) (some close)) s1

/-- The symbol may be sent: the slot has a DL_CONFIG and its work is not dropped (R143, R152). -/
def Cell.dlOpen (x : Cell) (sfn slot sm : Nat) : Bool :=
  x.maySend sm && x.faultSlot ≠ some (slotNum (dMu x.desc) sfn slot)
    && (match x.slotOf sfn slot sm with | some m => m.dlSeq.isSome | none => false)

/-- DL_SYMBOL_SEND: from E(k) − Tsym until the close at E(k) the port sends the symbol (R211). -/
def execDlSymbolSend (c : CellId) (sfn slot k : Nat) (s : State) : Ans :=
  let x := s.cell c.val
  let sm := s.slotStart (dMu x.desc) sfn slot
  let first := ((eClose x.desc sm k - dTslot x.desc) / 14).toNat
  if 14 ≤ k || !x.dlOpen sfn slot sm || s.now < first || x.dlShut.contains (slotNum (dMu x.desc) sfn slot, k) || eClose x.desc sm k ≤ 14 * (s.now : Int) then .next s
  else .next (foldN (dStrDl x.desc) (fun st t => t.sendSymbol c.val st sfn slot k sm first true) s)

/-- The symbol's presence bits are cleared; those set after the position's last close, and those of a slot without DL_CONFIG, are late (R211). -/
def State.clearSymbol (s : State) (c st sfn slot k sm : Nat) : State :=
  let x := s.cell c
  let d := x.desc
  let num := slotNum (dMu d) sfn slot
  let idle : Bool := match x.slotOf sfn slot sm with | some m => m.dlSeq.isNone | none => true
  let late := (s.dlPresent c st (ringPos d sfn slot) k).filter (fun p => idle || x.dlStale.contains (num, k, st, p))
  let keep (e : Nat × Nat × Nat × Nat) : Bool := !(e.1 = num && e.2.1 = k && e.2.2.1 = st)
  ((s.bump (pgSds 4) (cellIdx c 5) late.length).putDev .dom0 (dlPresAt s d (ringPos d sfn slot) k st) (List.replicate 64 0#8)).updCell c (fun y =>
    { y with dlSent := y.dlSent.filter keep, dlStale := y.dlStale.filter keep })

/-- Presence bits found set when the messages of a slot are due: the program's work on the slot follows (R157), so they were set after the close of the position's last use (R211; DEDUCED, log entry 111). -/
def State.markStale (s : State) (c : Nat) (m : SlotMsgs) : State :=
  let d := (s.cell c).desc
  let found := (List.range 14).flatMap (fun k => (List.range (dStrDl d)).flatMap (fun st =>
    (s.dlPresent c st (ringPos d m.sfn m.slot) k).map (fun p => (slotNum (dMu d) m.sfn m.slot, k, st, p))))
  if m.dlSeq.isSome then s.updCell c (fun y => { y with dlStale := y.dlStale ++ found }) else s

/-- MESSAGE_DEADLINE: every slot of the cell whose message deadline has come is judged. -/
def execMessageDeadline (c : CellId) (s : State) : Ans :=
  let x := s.cell c.val
  .next (foldS (x.slots.filter (fun m => !m.late && m.start ≤ s.now + dTslot x.desc)) (fun m t => (t.slotDeadline c.val m).markStale c.val m) s)

/-- DL_SYMBOL_CLOSE: at E(k), once, late PRBs are sent, every presence bit of the symbol is cleared and the symbol is closed (R211). -/
def execDlSymbolClose (c : CellId) (sfn slot k : Nat) (s : State) : Ans :=
  let x := s.cell c.val
  let sm := s.slotStart (dMu x.desc) sfn slot
  if 14 ≤ k || x.phase = CellPhase.free || (14 * (s.now : Int)) < eClose x.desc sm k || x.dlShut.contains (slotNum (dMu x.desc) sfn slot, k) then .next s
  else
    let s1 := if x.dlOpen sfn slot sm then foldN (dStrDl x.desc) (fun st t => t.sendSymbol c.val st sfn slot k sm t.now false) s else s
    .next ((foldN (dStrDl x.desc) (fun st t => t.clearSymbol c.val st sfn slot k sm) s1).updCell c.val (fun y => { y with dlShut := (slotNum (dMu x.desc) sfn slot, k) :: y.dlShut }))

end Sys2Proof.Machine
end

