-- ==== Sys2Proof/Machine/Coding.lean ====
section
/-! DEFINITION. The channel-coding engines: checks, segmentation and rate matching, HARQ soft buffers, LDPC and polar commands, records (08 R189 to R204). -/

namespace Sys2Proof.Machine

/-! Command fields (R190). -/

def ccOp (ws : List Word) : Nat := fld (wAt ws 0) 31 28
def ccMaxIt (ws : List Word) : Nat := fld (wAt ws 0) 27 24
def ccTbs (ws : List Word) : Nat := fld (wAt ws 2) 17 0
def ccBg2 (ws : List Word) : Bool := bitOf (wAt ws 2) 18
def ccRv (ws : List Word) : Nat := fld (wAt ws 2) 20 19
def ccNdi (ws : List Word) : Bool := bitOf (wAt ws 2) 21
def ccHarq (ws : List Word) : Nat := fld (wAt ws 2) 25 22
def ccRnti (ws : List Word) : Nat := fld (wAt ws 3) 15 0
def ccCell (ws : List Word) : Nat := fld (wAt ws 3) 24 16
def ccG (ws : List Word) : Nat := (wAt ws 4).toNat
def ccQm (ws : List Word) : Nat := fld (wAt ws 5) 3 0
def ccNl (ws : List Word) : Nat := fld (wAt ws 5) 7 4
def ccLbrm (ws : List Word) : Nat := fld (wAt ws 6) 17 0
def ccIn (ws : List Word) : Nat := (wAt ws 7).toNat + 2 ^ 32 * fld (wAt ws 8) 15 0
def ccOut (ws : List Word) : Nat := (wAt ws 9).toNat + 2 ^ 32 * fld (wAt ws 10) 15 0
def ccA (ws : List Word) : Nat := fld (wAt ws 11) 10 0
def ccE (ws : List Word) : Nat := fld (wAt ws 11) 24 11
def ccList (ws : List Word) : Nat := 2 ^ fld (wAt ws 11) 26 25
def ccCrct (ws : List Word) : Nat := fld (wAt ws 11) 28 27

/-- The fields that every operation shares, and those of one (R190, R191). -/
def ccFieldsOk (ws : List Word) : Bool :=
  let w := wAt ws
  let common := fld (w 0) 23 16 = 0 && fld (w 1) 31 24 = 0 && fld (w 2) 31 26 = 0 && fld (w 3) 31 25 = 0 && fld (w 5) 31 8 = 0
    && fld (w 6) 31 18 = 0 && fld (w 8) 31 16 = 0 && fld (w 10) 31 16 = 0 && fld (w 11) 31 29 = 0
    && w 12 = 0 && w 13 = 0 && w 14 = 0 && w 15 = 0
  let ldpc := 1 ≤ ccTbs ws && 1 ≤ ccG ws && [1, 2, 4, 6, 8, 10].contains (ccQm ws) && 1 ≤ ccNl ws && ccNl ws ≤ 8
    && ccG ws % (ccNl ws * ccQm ws) = 0 && ccA ws = 0
  let polar := w 2 = 0 && fld (w 5) 7 0 = 0 && 12 ≤ ccA ws && ccA ws ≤ 1706 && 1 ≤ ccE ws && ccE ws ≤ 8192 && ccCrct ws ≠ 3
  common && (match ccOp ws with
    | 1 => ldpc && 1 ≤ ccMaxIt ws
    | 2 => ldpc && ccMaxIt ws = 0
    | 3 => polar && ccMaxIt ws = 0
    | 4 => polar && ccMaxIt ws = 0
    | _ => false)

/-! Segmentation of TS 38.212 as R194 names it (the constants of 5.2.2 and 5.4.2 are PRESUMED from that document). -/

/-- Lifting sizes a · 2^j up to 384. -/
def liftSizes : List Nat :=
  ([2, 3, 5, 7, 9, 11, 13, 15].flatMap (fun a => (List.range 8).map (fun j => a * 2 ^ j))).filter (· ≤ 384)

/-- What a transport block's coding needs. -/
structure Seg where
  bg2  : Bool
  crcL : Nat          -- TB CRC bits
  c    : Nat          -- code blocks
  kp   : Nat          -- K′: bits of a block without fillers
  z    : Nat
  k    : Nat          -- K
  ncb  : Nat
deriving DecidableEq, Repr

def segOf (ws : List Word) : Seg :=
  let bg2 := ccBg2 ws
  let a := 8 * ccTbs ws
  let l := if 3824 < a then 24 else 16
  let b := a + l
  let kcb := if bg2 then 3840 else 8448
  let c := if b ≤ kcb then 1 else cdiv b (kcb - 24)
  let kp := cdiv (b + (if 1 < c then 24 * c else 0)) c
  let kb := if !bg2 then 22 else if 640 < b then 10 else if 560 < b then 9 else if 192 < b then 8 else 6
  let z := (liftSizes.filter (fun z => kp ≤ kb * z)).foldl min 384
  let nmax := (if bg2 then 50 else 66) * z
  { bg2 := bg2, crcL := l, c := c, kp := kp, z := z, k := (if bg2 then 10 else 22) * z,
    ncb := if ccLbrm ws = 0 then nmax else min nmax (12 * ccLbrm ws / c) }

/-- Er (R195). -/
def blockE (ws : List Word) (c r : Nat) : Nat :=
  let u := ccNl ws * ccQm ws
  let j := ccG ws / u % c
  if r < c - j then u * (ccG ws / (u * c)) else u * cdiv (ccG ws) (u * c)

/-- Soft or coded bits of the blocks before block r. -/
def blockOff (ws : List Word) (c r : Nat) : Nat := ((List.range r).map (blockE ws c)).sum

/-- k0 of a redundancy version. -/
def rvStart (g : Seg) (rv : Nat) : Nat :=
  let n := if g.bg2 then 50 else 66
  let q := if g.bg2 then ([0, 13, 25, 43].getD rv 0) else ([0, 17, 33, 56].getD rv 0)
  q * g.ncb / (n * g.z) * g.z

/-- A filler position of the circular buffer. -/
def isFiller (g : Seg) (p : Nat) : Bool := g.kp - 2 * g.z ≤ p && p < g.k - 2 * g.z

/-- The positions that a transmission of e bits selects, in order. -/
def selected (g : Seg) (rv e : Nat) : List Nat :=
  let k0 := rvStart g rv
  let ps := ((List.range g.ncb).map (fun i => (k0 + i) % g.ncb)).filter (fun p => !isFiller g p)
  if ps.isEmpty then [] else (List.range e).map (fun i => ps.getD (i % ps.length) 0)

/-- Index before interleaving of transmitted bit i of a block (bit interleaving of 5.4.2.2). -/
def deinter (e qm i : Nat) : Nat := i % qm * (e / qm) + i / qm

/-- The transmitted bit that carries selected bit j: the inverse of deinter. -/
def inter (e qm j : Nat) : Nat := j % (e / qm) * qm + j / (e / qm)

/-- Columns and rows in use (R197). -/
def rowsUsed (g : Seg) (pmax : Nat) : Nat :=
  let kc := if g.bg2 then 10 else 22
  let nr := if g.bg2 then 42 else 46
  max 4 (min (kc + nr) (2 + cdiv pmax g.z) - kc)

/-- (Kc + Nr − 2) Z (R197). -/
def inputLen (g : Seg) (nr : Nat) : Nat := ((if g.bg2 then 10 else 22) + nr - 2) * g.z

/-! Bits. -/

/-- Bits of bytes, bit 7 of the lowest byte first. -/
def bitsOf (bs : List Byte) : List Bool := bs.flatMap (fun b => (List.range 8).map (fun i => b.getLsbD (7 - i)))

/-- n bits as bytes, the last one padded with zeros. -/
def packBits (bits : List Bool) : List Byte :=
  (List.range (cdiv bits.length 8)).map (fun i => BitVec.ofNat 8 ((List.range 8).foldl (fun a j => a * 2 + b1 (bits.getD (8 * i + j) false)) 0))

def bitsNat (bits : List Bool) : Nat := bits.foldl (fun a b => a * 2 + b1 b) 0
def natBits (n v : Nat) : List Bool := (List.range n).map (fun i => v / 2 ^ (n - 1 - i) % 2 = 1)

/-- The CRC of bits, polynomial of width w. -/
def bitsCrc (w poly : Nat) (bits : List Bool) : Nat := bits.foldl (crcBit w poly) 0

/-- A list cut or filled with zeros to n. -/
def fitBits (n : Nat) (bits : List Bool) : List Bool := (bits ++ List.replicate n false).take n

def int8 (b : Byte) : Int := b.toInt
def clip127 (v : Int) : Int := max (-127) (min 127 v)

/-! Polar lengths of TS 38.212 5.3.1 (PRESUMED), R198. -/

def log2Up (n : Nat) : Nat := if n ≤ 1 then 0 else Nat.log2 (n - 1) + 1

/-- Two segments of uplink control information. -/
def polarSegs (ws : List Word) : Nat :=
  if ccCrct ws = 0 && ((360 ≤ ccA ws && 1088 ≤ ccE ws) || 1013 ≤ ccA ws) then 2 else 1

def polarCrcLen (ws : List Word) : Nat := if ccCrct ws ≠ 0 then 24 else if ccA ws < 20 then 6 else 11

/-- N of one segment. -/
def polarN (ws : List Word) : Nat :=
  let n := polarSegs ws
  let k := cdiv (ccA ws) n + polarCrcLen ws
  let e := ccE ws / n
  let le := log2Up e
  let n1 := if 8 * e ≤ 9 * 2 ^ (le - 1) && 16 * k < 9 * e then le - 1 else le
  2 ^ (max 5 (min (min n1 (log2Up (8 * k))) (if ccCrct ws = 0 then 10 else 9)))

/-- Clocks of one segment (R198). -/
def polarClocks (ws : List Word) : Nat :=
  let e := ccE ws / polarSegs ws
  let n := polarN ws
  if ccOp ws = 3 then 24 + cdiv e 128 + cdiv (n * Nat.log2 n * ccList ws) 256 else 16 + cdiv n 64 + cdiv e 8192

/-! Records (R192). -/

/-- NCB of a record: code blocks of an LDPC command, segments of a polar one (R192). -/
def ccNcb (ws : List Word) : Nat :=
  if ccOp ws = 1 || ccOp ws = 2 then (segOf ws).c else if ccOp ws = 3 || ccOp ws = 4 then polarSegs ws else 0

/-- The command with this order of acceptance leaves the engine. -/
def State.dropCode (s : State) (g q : Nat) : State :=
  s.updGrove g (fun x => { x with ceQueue := x.ceQueue.filter (fun y => y.seq ≠ q), ceBusy := if x.ceBusy = some q then none else x.ceBusy })

/-- The record, posted to the issuing context's port; a late one is counted (R192, R244, R245). -/
def State.codeRecord (s : State) (g : Nat) (k : CodeCmd) (c : Code) (tbok : Bool) (ac : Nat) : State :=
  let ws := k.words
  let ncb := ccNcb ws
  let c1 := s.closeCode (fld (wAt ws 1) 23 0) c
  let r := [w32 (fld (wAt ws 0) 15 0 + codeVal c1 * 65536 + b1 tbok * 2 ^ 24 + k.itMax % 16 * 2 ^ 25), w32 ac, s.now32, w32 (k.cbErr % 65536 + ncb % 65536 * 65536)]
  let s1 := ((s.dropCode g k.seq).updLctx k.lane.val k.lctx.val (fun x => { x with arriving := x.arriving ++ [r] })).puschDecoded ws tbok k.cbErr
  if s.pastTag (fld (wAt ws 1) 23 0) then s1.missIssuer (g / 8) (.lane k.lane k.lctx) else s1

/-! Soft buffers (R199 to R204). -/

/-- Slot size S. -/
def sbSlotSize (d : List Word) : Nat := 4096 * ((dSbSz d - 32768) / (1024 * 4096))
def sbSlotAddr (d : List Word) (i : Nat) : Nat := dSbuf d + 32768 + i * sbSlotSize d

/-- A directory entry written by an engine. -/
def State.putDir (s : State) (d : List Word) (i : Nat) (ws : List Word) : State := s.putDev .dom0 (dSbuf d + 32 * i) (bytesOf ws)

/-- The key a command uses: none for polar commands. -/
def ccKey (ws : List Word) : Option Nat :=
  if ccOp ws = 1 then some (dirKey (ccRnti ws) (ccHarq ws) false) else if ccOp ws = 2 then some (dirKey (ccRnti ws) (ccHarq ws) true) else none

/-- Engines of a die. -/
def dieGroves (g : Nat) : List Nat := (List.range 8).map (g / 8 * 8 + ·)

/-- A LOCK stands on the entry of the command's key (R202). -/
def State.codeLocked (s : State) (k : CodeCmd) : Bool :=
  match ccKey k.words with
  | none => false
  | some key =>
    let d := (s.cell (ccCell k.words)).desc
    match s.dirFind d key with | some i => bitOf (wAt (s.dirEntry d i) 0) 22 | none => false

/-- The command waits: a LOCK stands on its key, or an engine of the die accepted one for the key before it (R202). -/
def State.codeWaits (s : State) (g : Nat) (k : CodeCmd) : Bool :=
  match ccKey k.words with
  | none => false
  | some key =>
    let c := ccCell k.words
    s.codeLocked k
    || (dieGroves g).any (fun h => (s.grove h).ceQueue.any (fun q => q.seq < k.seq && ccKey q.words = some key && ccCell q.words = c))

/-- An LENC whose input lies in the soft-buffer region encodes from the retransmission store and claims nothing (R208). -/
def fromStore (d ws : List Word) : Bool := ccOp ws = 2 && dSbuf d ≤ ccIn ws && ccIn ws < dSbuf d + dSbSz d

/-- The cell's engines accept no claim and no combining (R204). -/
def State.claimsShut (s : State) (c : Nat) : Bool :=
  let x := s.cell c
  x.phase = CellPhase.draining && (x.forced || x.endAt + dTslot x.desc + 1000 * dUlWin x.desc < s.now)

/-- The entry a claim takes (R200), and whether it evicts. -/
def State.claimEntry (s : State) (d : List Word) (key : Nat) : Option (Nat × Bool) :=
  match s.dirFind d key with
  | some i => some (i, false)
  | none =>
    match (List.range 1024).find? (fun i => !bitOf (wAt (s.dirEntry d i) 0) 21) with
    | some i => some (i, false)
    | none =>
      let age (i : Nat) : Nat := (s.now32 - wAt (s.dirEntry d i) 3).toNat
      (((List.range 1024).filter (fun i => !bitOf (wAt (s.dirEntry d i) 0) 22)).foldl
        (fun acc i => match acc with | none => some i | some j => if age j < age i then some i else some j) none).map (fun i => (i, true))

/-- An entry's words as an engine sets them: VALID and LOCK. -/
def dirWords (key : Nat) (ws : List Word) (g : Seg) (now : Word) : List Word :=
  [w32 (key + 2 ^ 21 + 2 ^ 22), w32 (ccTbs ws + b1 g.bg2 * 2 ^ 18), w32 (g.c % 512 + g.ncb % 32768 * 65536), now, 0, 0, 0, 0]

/-- An uplink or downlink claim: the entry, or CAPACITY_EXCEEDED with the entry left invalid; none when every entry is locked. -/
def State.claim (s : State) (ws : List Word) (need : Nat) : Option (Except State (Nat × State)) :=
  let c := ccCell ws
  let d := (s.cell c).desc
  let key := (ccKey ws).getD 0
  match s.claimEntry d key with
  | none => none
  | some (i, ev) =>
    let s1 := if ev then s.bump (pgSds 4) (cellIdx c 2) 1 else s
    if sbSlotSize d < need then some (.error (s1.putDir d i (List.replicate 8 0)))
    else some (.ok (i, s1.putDir d i (dirWords key ws (segOf ws) s.now32)))

/-- The soft bits of block r added into its part of the slot in the order of selection, with saturation (R201; DEDUCED for bits that wrap, log entry 33). -/
def combineBlock (g : Seg) (ws : List Word) (soft : List Byte) (r : Nat) (held : List Int) : List Int :=
  let e := blockE ws g.c r
  let off := blockOff ws g.c r
  let pos := selected g (ccRv ws) e
  ((List.range e).zip pos).foldl (fun v jp =>
    v.set jp.2 (clip127 (v.getD jp.2 0 + int8 (soft.getD (off + inter e (ccQm ws) jp.1) 0)))) held

def bytesInt8 (vs : List Int) : List Byte := vs.map (fun v => BitVec.ofInt 8 v)

/-- Every block combined into the slot. -/
def State.combineAll (s : State) (ws : List Word) (i : Nat) (soft : List Byte) : State :=
  let d := (s.cell (ccCell ws)).desc
  let g := segOf ws
  foldN g.c (fun r t =>
    let a := sbSlotAddr d i + r * g.ncb
    t.putDev .dom0 a (bytesInt8 (combineBlock g ws soft r ((t.peek .dom0 a g.ncb).map int8)))) s

/-! Which block is next (R193). -/

/-- Command a goes before command b. -/
def State.codeBefore (s : State) (a b : CodeCmd) : Bool :=
  let x := s.tagKey (fld (wAt a.words 1) 23 0) a.late
  let y := s.tagKey (fld (wAt b.words 1) 23 0) b.late
  x < y || (x = y && a.seq < b.seq)

/-- The first of some commands in the order of R193. -/
def State.codeFirst (s : State) (ks : List CodeCmd) : Option CodeCmd :=
  ks.foldl (fun acc k => match acc with | none => some k | some b => if s.codeBefore k b then some k else some b) none

/-- Every entry that the command could claim is locked (R200). -/
def State.noEntry (s : State) (k : CodeCmd) : Bool :=
  let d := (s.cell (ccCell k.words)).desc
  match ccKey k.words with
  | none => false
  | some key => !fromStore d k.words && (s.claimEntry d key).isNone

/-- The command whose block an idle engine takes: one that waits on a LOCK is passed over. -/
def State.codeNext (s : State) (g : Nat) : Option CodeCmd :=
  s.codeFirst ((s.grove g).ceQueue.filter (fun k => k.started || !(s.codeWaits g k || s.noEntry k)))

/-- At a block boundary the engine goes on with a command in progress when that is the next. -/
def State.codeTake (s : State) (g : Nat) : State :=
  match s.codeNext g with
  | some k => if k.started then s.updGrove g (fun x => { x with ceBusy := some k.seq }) else s
  | none => s

/-- A command that ends before it executes anything, for which the manual gives no clocks; the engine is free for the next one. -/
def State.codeRefuse (s : State) (g : Nat) (k : CodeCmd) (c : Code) : State :=
  let (ac, s1) := s.freeAc
  (s1.codeRecord g k c false ac).codeTake g

def State.putCode (s : State) (g : Nat) (k : CodeCmd) : State :=
  s.updGrove g (fun x => { x with ceQueue := x.ceQueue.map (fun y => if y.seq = k.seq then k else y) })

/-! Starting (R191, R196, R198, R200 to R204, R208). -/

/-- Bytes of input and output. -/
def ccInLen (ws : List Word) : Nat :=
  match ccOp ws with | 1 => ccG ws | 2 => tbBytes (ccTbs ws) | 3 => ccE ws | _ => cdiv (ccA ws) 8
def ccOutLen (ws : List Word) : Nat :=
  match ccOp ws with | 1 => tbBytes (ccTbs ws) | 2 => cdiv (ccG ws) 8 | 3 => cdiv (ccA ws) 8 | _ => cdiv (ccE ws) 8

/-- The code that refuses a command before it executes anything (R191, R204). -/
def State.codeCheck (s : State) (g : Nat) (k : CodeCmd) : Code :=
  let ws := k.words
  let x := s.cell (ccCell ws)
  let cfg := !ccFieldsOk ws || x.phase = CellPhase.free || dHome x.desc ≠ g / 8
  codePick [if cfg then .configInvalid else .ok,
            if !cfg && (half ≤ ccIn ws || s.accCode .dom0 (ccIn ws) (ccInLen ws) ≠ .ok) then .keyDenied else .ok,
            if !cfg && (half ≤ ccOut ws || s.storeCode .dom0 (ccOut ws) (ccOutLen ws) ≠ .ok) then .keyDenied else .ok,
            if !cfg && (ccOp ws = 1 || (ccOp ws = 2 && !fromStore x.desc ws)) && s.claimsShut (ccCell ws) then .aborted else .ok]

/-- The command's first block is in progress. -/
def State.beginCode (s : State) (g : Nat) (k : CodeCmd) (blocks : Nat) (entry : Option Nat) : State :=
  (s.putCode g { k with started := true, blocks := blocks, entry := entry }).updGrove g (fun x => { x with ceBusy := some k.seq })

/-- An LDPC decode: an entry is found or claimed, and the soft bits are combined into it. -/
def State.beginLdec (s : State) (g : Nat) (k : CodeCmd) (soft : List Byte) : State :=
  let ws := k.words
  let c := ccCell ws
  let d := (s.cell c).desc
  let seg := segOf ws
  let key := (ccKey ws).getD 0
  let found := if ccNdi ws then none else s.dirFind d key
  match found with
  | some i =>
    if s.dirMatch d i (ccTbs ws) (b1 seg.bg2) then
      if s.hasPoison .dom0 (sbSlotAddr d i) (seg.c * seg.ncb) then s.codeRefuse g k .tierError else
      ((s.putDir d i (dirWords key ws seg s.now32)).combineAll ws i soft).beginCode g k seg.c (some i)
    else fresh (s.bump (pgSds 4) (cellIdx c 4) 1) d seg
  | none => fresh (if ccNdi ws then s else s.bump (pgSds 4) (cellIdx c 3) 1) d seg
where
  fresh (t : State) (d : List Word) (seg : Seg) : State :=
    match t.claim k.words (seg.c * seg.ncb) with
    | none => s
    | some (.error u) => u.codeRefuse g k .capacityExceeded
    | some (.ok (i, u)) =>
      ((u.putDev .dom0 (sbSlotAddr d i) (List.replicate (sbSlotSize d) 0#8)).combineAll k.words i soft).beginCode g k seg.c (some i)

/-- The TB with the CRC that the ingress unit computed as it landed, where the cell has that TB in flight: LENC attaches the unit's value (R205). -/
def State.unitTb (s : State) (c : Nat) (tb : List Byte) : List Byte :=
  let ws := wordsOf (tb.length / 4) tb
  match ((s.cell c).slots.flatMap (·.tbs)).find? (fun p => setAt p.words 3 0 = setAt ws 3 0) with
  | some p => bytesOf (setAt ws 3 (wAt p.words 3))
  | none => tb

/-- An LDPC encode: its TB is stored in the retransmission store unless it comes from there: then the entry that holds the key is locked too, and where none holds it or its TBS or BG differs nothing is encoded (R202, R208; DESIGN CHOICE, log entry 115: NOT_READY). -/
def State.beginLenc (s : State) (g : Nat) (k : CodeCmd) (tb : List Byte) : State :=
  let d := (s.cell (ccCell k.words)).desc
  let seg := segOf k.words
  if fromStore d k.words then
    match s.dirFind d ((ccKey k.words).getD 0) with
    | none => s.codeRefuse g k .notReady
    | some i =>
      let w := s.dirEntry d i
      if !s.dirMatch d i (ccTbs k.words) (b1 seg.bg2) then s.codeRefuse g k .notReady else
      (s.putDir d i (setAt (setAt w 0 (setBitTo (wAt w 0) 22 true)) 3 s.now32)).beginCode g { k with coded := [bitsOf tb] } seg.c (some i)
  else
    match s.claim k.words (tbBytes (ccTbs k.words)) with
    | none => s
    | some (.error u) => u.codeRefuse g k .capacityExceeded
    | some (.ok (i, u)) =>
      let tb1 := s.unitTb (ccCell k.words) tb
      (u.putDev .dom0 (sbSlotAddr d i) tb1).beginCode g { k with coded := [bitsOf tb1] } seg.c (some i)

/-- The engine takes its next command when that is of this operation and has not started. -/
def State.startCode (s : State) (g op : Nat) (begin_ : State → CodeCmd → List Byte → State) : State :=
  if (s.grove g).ceBusy.isSome then s else
    match s.codeNext g with
    | none => s
    | some k =>
      if k.started || ccOp k.words ≠ op then s
      else
        match s.codeCheck g k with
        | .ok =>
          (match s.loadDev .dom0 (ccIn k.words) (ccInLen k.words) with
           | (.ok, bs, t) =>
             if (ccKey k.words).isSome && t.hasPoison .dom0 (dSbuf (t.cell (ccCell k.words)).desc) 32768 then t.codeRefuse g k .tierError
             else begin_ t k bs
           | (c, _, t) => t.codeRefuse g k c)
        | c => s.codeRefuse g k c

/-- A command whose OP is none of the four is refused by whichever start meets it (R190). -/
def State.dropUnknownCode (s : State) (g : Nat) : State :=
  if (s.grove g).ceBusy.isSome then s else
    match s.codeNext g with
    | some k => if !k.started && (ccOp k.words = 0 || 4 < ccOp k.words) then s.codeRefuse g k .configInvalid else s
    | none => s

/-- LDEC (R196). -/
def execLdec (g : GroveId) (s : State) : Ans := .next ((s.dropUnknownCode g.val).startCode g.val 1 (fun t k bs => t.beginLdec g.val k bs))

/-- LENC (R198). -/
def execLenc (g : GroveId) (s : State) : Ans := .next ((s.dropUnknownCode g.val).startCode g.val 2 (fun t k bs => t.beginLenc g.val k bs))

/-- PDEC (R198): the input is kept as one bit list of bytes until its segments are decoded. -/
def execPdec (g : GroveId) (s : State) : Ans :=
  .next ((s.dropUnknownCode g.val).startCode g.val 3 (fun t k bs => t.beginCode g.val { k with coded := [bitsOf bs] } (polarSegs k.words) none))

/-- PENC (R198). -/
def execPenc (g : GroveId) (s : State) : Ans :=
  .next ((s.dropUnknownCode g.val).startCode g.val 4 (fun t k bs => t.beginCode g.val { k with coded := [bitsOf bs] } (polarSegs k.words) none))

/-! Block ends (R193, R196 to R198). -/

/-- A decoded block: bits, iterations, clocks; decoding ends with the first iteration after which the checks hold, and when C > 1 the block CRC too, or after MAXIT (R196, R197). -/
def State.decodeBlock (s : State) (k : CodeCmd) : CodeCmd :=
  let ws := k.words
  let d := (s.cell (ccCell ws)).desc
  let g := segOf ws
  let r := k.next
  let held := (s.peek .dom0 (sbSlotAddr d (k.entry.getD 0) + r * g.ncb) g.ncb).map int8
  let top (l : List Nat) : Nat := l.foldl (fun a p => max a (p + 1)) 0
  let pmax := max (top (selected g (ccRv ws) (blockE ws g.c r))) (top ((List.range g.ncb).filter (fun p => held.getD p 0 ≠ 0)))
  let nr := rowsUsed g pmax
  let kc := if g.bg2 then 10 else 22
  -- the 2Z punctured positions and those without a value enter as 0, fillers as certain zeros
  let input : List (Option Int) := (List.range ((kc + nr) * g.z)).map (fun p =>
    if p < 2 * g.z then some 0 else if g.kp ≤ p && p < g.k then none else some (held.getD (p - 2 * g.z) 0))
  let after (n : Nat) : List Bool × Bool := let x := ldpcIter g.bg2 g.z nr input n; (fitBits g.kp x.1, x.2)
  let crcOk (bits : List Bool) : Bool := bitsCrc 24 0x800063 bits = 0
  let stops (n : Nat) : Bool := (after n).2 && (g.c = 1 || crcOk (after n).1)
  let it := (((List.range (ccMaxIt ws)).map (· + 1)).find? stops).getD (ccMaxIt ws)
  let bits := (after it).1
  let bad := 1 < g.c && !crcOk bits
  { k with next := r + 1, coded := k.coded ++ [if 1 < g.c then bits.take (g.kp - 24) else bits], itMax := max k.itMax it,
           cbErr := k.cbErr + b1 bad, ac := k.ac + cdiv (inputLen g nr) 128 + it * nr + 24 }

/-- An encoded block: coded bits after rate matching and interleaving. -/
def encodeBlock (k : CodeCmd) : CodeCmd :=
  let ws := k.words
  let g := segOf ws
  let r := k.next
  let tb := k.coded.headD []
  -- payload from byte 16, then the CRC that word 3 holds (R205, R206)
  let crc := bitsNat (((tb.drop 120).take 8) ++ ((tb.drop 112).take 8) ++ ((tb.drop 104).take 8) ++ ((tb.drop 96).take 8))
  let all := (tb.drop 128).take (8 * ccTbs ws) ++ natBits g.crcL crc
  let n := if 1 < g.c then g.kp - 24 else g.kp
  let part := fitBits n ((all.drop (r * n)).take n)
  let blk := if 1 < g.c then part ++ natBits 24 (bitsCrc 24 0x800063 part) else part
  let sys := fitBits g.k blk
  let nmax := (if g.bg2 then 50 else 66) * g.z
  let word := fitBits nmax (sys.drop (2 * g.z) ++ ldpcParity g.bg2 g.z sys)
  let e := blockE ws g.c r
  let pos := selected g (ccRv ws) e
  let sel := pos.map (fun p => word.getD p false)
  let out := (List.range e).map (fun i => sel.getD (deinter e (ccQm ws) i) false)
  let nr := rowsUsed g (pos.foldl (fun a p => max a (p + 1)) 0)
  { k with next := r + 1, coded := k.coded ++ [out], ac := k.ac + 16 + cdiv (inputLen g nr) 256 + cdiv e 8192 }

/-! Polar segments and their CRCs (R190, R198; the polynomials of TS 38.212 5.1, 6.3.1.2 and 7.3.2 are PRESUMED, log entry 56). -/

/-- CRC bits of a segment: CRC6 or CRC11 by A; CRC24C, for DCI over 24 leading ones and with its low 16 bits masked by the RNTI. -/
def polarCrc (ws : List Word) (bits : List Bool) : List Bool :=
  match ccCrct ws with
  | 0 => if polarCrcLen ws = 6 then natBits 6 (bitsCrc 6 0x21 bits) else natBits 11 (bitsCrc 11 0x621 bits)
  | 1 => natBits 24 (bitsCrc 24 0xB2B117 (List.replicate 24 true ++ bits) ^^^ ccRnti ws)
  | _ => natBits 24 (bitsCrc 24 0xB2B117 bits)

/-- Payload bits of a segment, filler zeros before the first. -/
def polarPart (ws : List Word) (bits : List Bool) (r : Nat) : List Bool :=
  let n := cdiv (ccA ws) (polarSegs ws)
  let all := List.replicate (n * polarSegs ws - ccA ws) false ++ fitBits (ccA ws) bits
  (all.drop (r * n)).take n

/-- The code of a command's segments. -/
def polarCodeOf (ws : List Word) : PolarCode :=
  { n := Nat.log2 (polarN ws), k := cdiv (ccA ws) (polarSegs ws) + polarCrcLen ws, e := ccE ws / polarSegs ws, uci := ccCrct ws = 0 }

/-- The rate-matched bits of a payload. -/
def polarCode (ws : List Word) (bits : List Bool) : List Bool :=
  (List.range (polarSegs ws)).flatMap (fun r =>
    let p := polarPart ws bits r
    let b := p ++ polarCrc ws p
    fitBits (ccE ws / polarSegs ws) (polarEncode (polarCodeOf ws) b))

/-- A segment decoded: the payload of the CRC-passing path of highest metric, or of the highest path with its CRC failed. -/
def polarSeg (ws : List Word) (soft : List Int) (r : Nat) : List Bool × Bool :=
  let n := cdiv (ccA ws) (polarSegs ws)
  let k := n + polarCrcLen ws
  let e := ccE ws / polarSegs ws
  let path (i : Nat) : List Bool := fitBits k (polarPath (polarCodeOf ws) (ccList ws) ((soft.drop (r * e)).take e) i)
  let pass (i : Nat) : Bool := polarCrc ws ((path i).take n) = (path i).drop n
  match (List.range (ccList ws)).find? pass with
  | some i => ((path i).take n, true)
  | none => ((path 0).take n, false)

/-- The payload of soft bits, and whether every segment's CRC passed. -/
def polarDecode (ws : List Word) (soft : List Int) : List Bool × Bool :=
  let rs := (List.range (polarSegs ws)).map (polarSeg ws soft)
  let all := (rs.map (·.1)).flatten
  (all.drop (all.length - ccA ws), rs.all (·.2))

/-- A polar segment: the result is formed with the last one. -/
def polarBlock (k : CodeCmd) : CodeCmd := { k with next := k.next + 1, ac := k.ac + polarClocks k.words }

/-- LDEC is done: the TB PDU is written, word 1 apart (R196, R205, R206). -/
def State.endLdec (s : State) (g : Nat) (k : CodeCmd) : State :=
  let ws := k.words
  let seg := segOf ws
  let bits := fitBits (8 * ccTbs ws + seg.crcL) k.coded.flatten
  let payload := packBits (bits.take (8 * ccTbs ws))
  let got := bitsNat (bits.drop (8 * ccTbs ws))
  let ok := tbCrc payload (ccTbs ws) = got
  let body := payload ++ List.replicate (tbBytes (ccTbs ws) - 16 - payload.length) 0#8
  let w0 := leBytes 4 (0x21 + tbBytes (ccTbs ws) % 65536 * 65536)
  let rest := leBytes 4 (ccTbs ws + b1 ok * 2 ^ 18) ++ leBytes 4 got ++ body
  match s.storeDev .dom0 (ccOut ws) w0 with
  | (.ok, t) =>
    (match t.storeDev .dom0 (ccOut ws + 8) rest with
     | (.ok, u) => u.codeRecord g k .ok ok (k.ac + cdiv (16 + ccTbs ws) 1024)
     | (c, u) => u.codeRecord g k c false (k.ac + cdiv (16 + ccTbs ws) 1024))
  | (c, t) => t.codeRecord g k c false (k.ac + cdiv (16 + ccTbs ws) 1024)

/-- Bits written to the output. -/
def State.endBits (s : State) (g : Nat) (k : CodeCmd) (bits : List Bool) (ok : Bool) : State :=
  match s.storeDev .dom0 (ccOut k.words) (packBits bits) with
  | (.ok, t) => t.codeRecord g k .ok ok k.ac
  | (c, t) => t.codeRecord g k c false k.ac

/-- The last block of a command has ended. -/
def State.endCode (s : State) (g : Nat) (k : CodeCmd) : State :=
  let ws := k.words
  match ccOp ws with
  | 1 => s.endLdec g k
  | 2 => s.endBits g k k.coded.tail.flatten false
  | 3 =>
    let (bits, ok) := polarDecode ws ((packBits (k.coded.headD [])).map int8)
    s.endBits g k (fitBits (ccA ws) bits) ok
  | _ => s.endBits g k (fitBits (ccE ws) (polarCode ws (k.coded.headD []))) false

/-- The slot of the block in progress holds a poisoned line (R191, R303). -/
def State.blockPoisoned (s : State) (k : CodeCmd) : Bool :=
  let g := segOf k.words
  ccOp k.words = 1 && s.hasPoison .dom0 (sbSlotAddr (s.cell (ccCell k.words)).desc (k.entry.getD 0) + k.next * g.ncb) g.ncb

/-- CODE_BLOCK_END: the block in progress ends; the engine takes the next by nearest deadline. -/
def execCodeBlockEnd (g : GroveId) (s : State) : Ans :=
  let x := s.grove g.val
  match x.ceQueue.find? (fun k => x.ceBusy = some k.seq) with
  | none => .next s
  | some k =>
    if s.blockPoisoned k then .next ((s.codeRecord g.val k .tierError false k.ac).codeTake g.val) else
    let k1 := if ccOp k.words = 1 then s.decodeBlock k else if ccOp k.words = 2 then encodeBlock k else polarBlock k
    let s1 := (s.putCode g.val k1).updGrove g.val (fun y => { y with ceBusy := none })
    let s2 := if k1.blocks ≤ k1.next then s1.endCode g.val k1 else s1
    .next (s2.codeTake g.val)

/-! Locks and release (R202, R204). -/

/-- A started command of the cell's die uses directory entry i. -/
def State.entryBusy (s : State) (c i : Nat) : Bool :=
  (List.range 8).any (fun j => (s.grove (8 * dHome (s.cell c).desc + j)).ceQueue.any (fun k => k.started && k.entry = some i && ccCell k.words = c))

/-- HARQ_LOCK_RELEASE: the write-back of an entry's user is done and its LOCK clears. -/
def execHarqLockRelease (c : CellId) (entry : Nat) (s : State) : Ans :=
  let x := s.cell c.val
  if x.phase = CellPhase.free || 1024 ≤ entry || s.entryBusy c.val entry then .next s
  else
    let ws := s.dirEntry x.desc entry
    if bitOf (wAt ws 0) 22 then .next (s.putDir x.desc entry (setAt ws 0 (setBitTo (wAt ws 0) 22 false))) else .next s

/-- SOFT_BUFFER_RELEASE: no claim is accepted any more and no entry is locked: every VALID bit clears. -/
def execSoftBufferRelease (c : CellId) (s : State) : Ans :=
  let x := s.cell c.val
  let due := x.phase = CellPhase.draining && !x.sbFree && ((x.forced && x.ended) || (!x.forced && s.claimsShut c.val))
  let locked := (List.range 1024).any (fun i => bitOf (wAt (s.dirEntry x.desc i) 0) 22)
  if !due || locked then .next s
  else
    .next ((foldN 1024 (fun i t =>
      let ws := s.dirEntry x.desc i
      if bitOf (wAt ws 0) 21 then t.putDir x.desc i (setAt ws 0 (setBitTo (wAt ws 0) 21 false)) else t) s).updCell c.val (fun y => { y with sbFree := true }))

end Sys2Proof.Machine
end

