-- ==== Sys2Proof/Machine/Tenancy.lean ====
section
/-! DEFINITION. Firebreak map and commits, instances and their life, mailboxes, shaping (09 R227; 12). -/

namespace Sys2Proof.Machine

/-! Staging (R320). -/

/-- A word of a staging entry at 0x140 of a page. -/
def State.stage (s : State) (p : Page) (i : Nat) : Word := s.reg p (0x140 + 4 * i)
def State.setStage (s : State) (p : Page) (ws : List Word) : State := foldN ws.length (fun i t => t.setReg p (0x140 + 4 * i) (wAt ws i)) s

/-! Pinned regions of instances (R322). -/

def granTiles (m : Memory) (d die : Nat) : Nat := 16 * ((List.range 16).filter (fun g => mapOwner m (die * 16 + g) = some d)).length

/-- Instances that are not FREE, by domain. -/
def State.instsOf (s : State) (d : Nat) : List Nat := (s.insts.filter (fun p => p.2.phase ≠ .free && p.2.domain = d)).map (·.1)

/-- The die of a domain's mailbox pages: die 0, or the lowest with a channel of the domain. -/
def State.mailDie (s : State) (d : Nat) : Option Nat := (List.range 4).find? (fun die => !(s.channels d die).isEmpty)

/-- Device pages of the domain's instances that are pinned on a die. -/
def State.devPages (s : State) (d die : Nat) : Nat :=
  (s.mems.homes.filter (fun p => 16384 ≤ pageSpace p.1 && p.2.tier = .t2 && frameDie p.2.frame = die && s.domainOfIdx (pageSpace p.1) = d)).length

/-- The pages R322 requires of a domain fit on every die, with extra instances counted; s holds the map in question (R279, R310). -/
def State.pinsFit (s : State) (d extra : Nat) : Bool :=
  let n := (s.instsOf d).length + extra
  n = 0 || (match s.mailDie d with
    | none => false
    | some md => (List.range 4).all (fun die =>
        let need := n * (8 * granTiles s.fbk.map d die + b1 (die = md))
        let more := need - s.devPages d die
        let frames := (s.channels d die).length * usableFrames
        need = 0 || (more ≤ s.freeFrames d die && frames ≤ 16 * (frames - (s.pinnedClaim d die + more)))))

/-- An instance's pages are pinned: its mailbox page, and 8 for each tile of its domain; those of tiles the domain has lost are freed. -/
def State.pinInst (s : State) (i : Nat) : State :=
  let d := (s.inst i).domain
  let s1 := { s with mems := { s.mems with homes := s.mems.homes.filter (fun p =>
    pageSpace p.1 ≠ 16384 + i || pageVpn p.1 = 2 ^ 20 || s.tileOwner (pageVpn p.1 / 8) = some d) } }
  let s2 := match s1.mailDie d with | some die => (s1.pinPage (mailPage i) d die 0).2 | none => s1
  foldS ((List.range 64).filter (fun g => s2.owner g = some d)) (fun g t =>
    foldN 16 (fun k u => foldN 8 (fun j v => (v.pinPage (spillPage i (16 * g + k) j) d (g / 16) (8 * ((16 * g + k) % 256) + j)).2) u) t) s2

/-- Spill and mailbox pages are unpinned and freed (R325). -/
def State.unpinInst (s : State) (i : Nat) : State :=
  { s with mems := { s.mems with homes := s.mems.homes.filter (fun p => pageSpace p.1 ≠ 16384 + i) } }

/-! Commits (R309 to R311, R227). -/

/-- What a commit would put in force: a map, and FBK_CFG of each domain. -/
structure Candidate where
  map : Memory
  cfg : List Word
deriving DecidableEq, Repr

def Candidate.lend (k : Candidate) (d : Nat) : Bool := bitOf (k.cfg.getD d 0) 0
def Candidate.cred (k : Candidate) (d : Nat) : Nat := fld (k.cfg.getD d 0) 14 8

/-- FBK_CFG with pending values of these domains. -/
def State.candidate (s : State) (m : Memory) (doms : List Nat) : Candidate :=
  { map := m, cfg := (List.range 64).map (fun d => if doms.contains d then s.reg (pgFbk d) 0x0C0 else s.inForce (pgFbk d) 0x0C0) }

/-- A map byte obeys R308. -/
def mapByteOk (a : Nat) (b : Byte) : Bool :=
  a < 704 && b.toNat / 128 = 1 && (b.toNat / 64 % 2 = 0 || (64 ≤ a && a < 448))

/-- Granules that a map gives to another owner. -/
def State.movedUnits (s : State) (m : Memory) (lo n : Nat) : List Nat := (List.range n).filter (fun u => mapOwner m (lo + u) ≠ s.owner (lo + u))

/-- A granule may not change owner now (R310). -/
def State.granuleHeld (s : State) (g : Nat) : Bool :=
  let d0 := s.owner g = some 0
  (List.range 16).any (fun k =>
    let x := s.tile (16 * g + k)
    !(x.sched = .none || (d0 && x.sched = .floor)) || (d0 && !(x.queue.isEmpty && x.flights.isEmpty)))
  || s.insts.any (fun p => p.2.jobs.any (fun j => j.2.isOpen && j.2.gmask / 2 ^ g % 2 = 1))

/-- A channel holds an allocated frame. -/
def State.channelUsed (s : State) (c : Nat) : Bool := s.usedFrames.any (fun f => frameCh f = c)

/-- A WAIT is pending on a counter of a block (R310). -/
def State.blockWaited (s : State) (b : Nat) : Bool :=
  s.tiles.any (fun p => p.2.flights.any (fun f => f.op = .wait && f.undone && fld (wAt f.cmd.words 3) 15 0 / 256 = b))
  || s.lanes.any (fun p => p.2.ctxs.any (fun c => match c.2.wait with | .counter a _ => a / 256 = b | _ => false))

/-- Every condition of R310, with the code of each that holds. -/
def State.commitCodes (s : State) (k : Candidate) (bad : Bool) : List Code :=
  let cfg (b : Bool) : Code := if b then .configInvalid else .ok
  let t := { s with fbk := { s.fbk with map := k.map } }
  [cfg bad,
   cfg (k.map.any (fun p => !mapByteOk p.1 p.2)),
   cfg (floorGranules.any (fun g => k.map.read g ≠ 0x80#8)),
   cfg ((s.movedUnits k.map 0 64).any s.granuleHeld),
   cfg ((s.movedUnits k.map 64 384).any s.channelUsed),
   cfg ((s.movedUnits k.map 576 128).any s.blockWaited),
   cfg (k.lend 0),
   cfg (decide (64 < ((List.range 64).map k.cred).sum)),
   cfg ((List.range 64).any (fun d => k.cred d = 0 && !(s.instsOf d).isEmpty)),
   if (List.range 4).any (fun die => s.capWith k.map k.lend die < s.cap die && s.capWith k.map k.lend die < s.loadMt die) then .capacityExceeded else .ok,
   if (List.range 64).any (fun d => d ≠ 0 && !t.pinsFit d 0) then .capacityExceeded else .ok]

/-- A changed granule is scrubbed; a granule of domain 0 is FLOOR to the scheduler (R236, R311). -/
def State.changeGranule (s : State) (g : Nat) : State :=
  foldN 16 (fun k t => (t.startScrub (16 * g + k)).updTile (16 * g + k) (fun x =>
    { x with sched := if s.owner g = some 0 then .floor else .none, live := none, holder := none, image := none })) s

/-- A changed way is written back and invalidated (R301, R311). -/
def State.changeWay (s : State) (u : Nat) (old : Option Nat) : State :=
  match old with
  | none => s
  | some d =>
    let mine (c : CLine) : Bool := c.die = u / 32 && c.way = u % 32
    let s1 := foldS (s.mems.canopy.filter (fun c => mine c && c.dirty)) (fun c t => t.heatUp c.page) s
    ({ s1 with mems := { s1.mems with canopy := s1.mems.canopy.filter (fun c => !mine c) } }).exactPressure d (u / 32)

/-- A changed counter block reads zero on every die (R311). -/
def State.changeBlock (s : State) (b : Nat) : State := { s with arr := s.arr.filter (fun p => p.1 % 65536 / 256 ≠ b) }

/-- Pages leave a channel that DRAIN is now set on (R308). -/
def State.drainChannel (s : State) (c : Nat) : State :=
  foldS (s.mems.homes.filter (fun p => p.2.tier = .t2 && frameCh p.2.frame = c)) (fun p t => t.startRehome p.1 p.2.frame) s

/-- The map comes into force (R311). -/
def State.applyMap (s : State) (m : Memory) : State :=
  let gs := s.movedUnits m 0 64
  let ws := s.movedUnits m 448 128
  let bs := s.movedUnits m 576 128
  let ds := (List.range 384).filter (fun c => mapDrain m (64 + c) && !mapDrain s.fbk.map (64 + c))
  let s1 := { s with fbk := { s.fbk with map := m, image := m } }
  let s2 := foldS gs (fun g t => t.changeGranule g) s1
  let s3 := foldS ws (fun w t => t.changeWay w (s.owner (448 + w))) s2
  let s4 := foldS bs (fun b t => t.changeBlock b) s3
  let s5 := foldS (s4.insts.filter (fun p => p.2.phase ≠ .free)) (fun p t => t.pinInst p.1) s4
  (foldS ds (fun c t => t.drainChannel c) s5).watchWater.overAll

/-- A domain's shadow registers come into force; a new RATE or BURST fills its buckets (R313). -/
def State.applyDomain (s : State) (d : Nat) : State :=
  let new := s.reg (pgFbk d) 0x0C4 ≠ s.inForce (pgFbk d) 0x0C4
  let s1 := s.applyShadow (pgFbk d)
  if new then { s1 with shape := s1.shape.filter (fun p => p.1 / 2 ^ 20 ≠ d) } else s1

/-- SDS_REPRO leaves reproducible mode: every exact-reduction entry ends (R415, R417). -/
def State.reproEnd (s old : State) : State :=
  if bitOf (old.inForce (pgSds 4) 0x0E8) 0 && !bitOf (s.inForce (pgSds 4) 0x0E8) 0 then
    { s with fabric := { s.fabric with agents := s.fabric.agents.map (fun (p : Nat × Agent) => (p.1, { p.2 with exact := [] })) } }
  else s

/-- A commit that nothing holds applies the values that are pending now.
DESIGN CHOICE (log entry 121): a commit that was held applies those pending when the hold ends; R15 does not say. -/
def State.commitNow (s : State) (h : HeldCommit) : State :=
  match h with
  | .mapPage =>
    let k := s.candidate s.fbk.image (List.range 64)
    let c := codePick (s.commitCodes k s.fbk.bad)
    let s1 := { s with fbk := { s.fbk with status := c } }
    if c = .ok then ((foldN 64 (fun d t => t.applyDomain d) s1).applyShadow pgMap).applyMap k.map else s1
  | .domPage d =>
    let k := s.candidate s.fbk.map [d]
    let c := codePick (s.commitCodes k s.fbk.bad)
    let s1 := { s with fbk := { s.fbk with status := c } }
    -- the pending image is again the map in force (R309)
    if c = .ok then (let s2 := s1.applyDomain d; { s2 with fbk := { s2.fbk with image := s2.fbk.map } }).overAll else s1
  | .group =>
    let k := s.candidate s.fbk.image (List.range 64)
    let c := codePick (s.commitCodes k s.fbk.bad)
    let s1 := { s with coord := { s.coord with gstatus := c } }
    if c = .ok then (foldN 5 (fun i t => t.applyShadow (pgSds i)) (((foldN 64 (fun d t => t.applyDomain d) s1).applyShadow pgMap).applyMap k.map)).reproEnd s else s1
  | .sdsPage i => (s.applyShadow (pgSds i)).reproEnd s

/-- The pending image gives the granule of a tile under test to another owner (R496). -/
def State.testHeld (s : State) : Bool := s.tiles.any (fun p => p.2.testing && mapOwner s.fbk.image (p.1 / 16) ≠ s.owner (p.1 / 16))

/-- The commit waits: admission is busy, a map copy is in progress, or it would move a tile under test (R162, R227, R309, R496, R511). -/
def State.commitHeld (s : State) (h : HeldCommit) : Bool :=
  s.coord.busy || (match h with | .sdsPage _ => false | .domPage _ => !s.fbk.loaded | _ => !s.fbk.loaded || s.testHeld)

/-- A commit of firebreak or scheduler registers: applied, or held behind what came before it. -/
def State.commitFbk (s : State) (h : HeldCommit) : State :=
  if s.commitHeld h || !s.fbk.held.isEmpty then { s with fbk := { s.fbk with held := s.fbk.held ++ [h] } } else s.commitNow h

/-- FIREBREAK_COMMIT: COMMIT of the map page (64) or of a domain page (R309, R310). -/
def hostFirebreakCommit (page : Fin 65) (s : State) : Ans := .next (s.commitFbk (if page.val = 64 then .mapPage else .domPage page.val))

/-- GROUP_COMMIT: SDS_GCOMMIT.GO (R227). -/
def hostGroupCommit (v : Word) (s : State) : Ans := .next (if bitOf v 0 then s.commitFbk .group else s)

/-- HELD_COMMIT_APPLY: the oldest held commit is applied once nothing holds it. -/
def execHeldCommitApply (s : State) : Ans :=
  match s.fbk.held with
  | [] => .next s
  | h :: rest => .next (if s.commitHeld h then s else ({ s with fbk := { s.fbk with held := rest } }).commitNow h)

/-- FBK_MAPADDR_WRITE: LOADED clears and a copy begins (R309). -/
def hostFbkMapaddrWrite (v : Word) (s : State) : Ans :=
  let s1 := s.setReg pgMap 0x0C0 (v &&& 0x0FFFFFFF)
  .next { s1 with fbk := { s1.fbk with loaded := false } }

/-- MAP_COPY_COMPLETE: the pending image is the map that was read, or is marked unreadable (R309). -/
def execMapCopyComplete (s : State) : Ans :=
  if s.fbk.loaded then .next s else
    match s.loadDev .dom0 (fld (s.reg pgMap 0x0C0) 27 0 * 4096) 1024 with
    | (.ok, bs, t) => .next { t with fbk := { t.fbk with loaded := true, bad := false, image := Memory.writeN 0 bs [] } }
    | (_, _, t) => .next { t with fbk := { t.fbk with loaded := true, bad := true } }

/-! Shaping (R313). -/

/-! The life of an instance (R320 to R328). -/

/-- The result of an instance command is posted (R321). -/
def State.instPost (s : State) (c : Code) : State := { s with fbk := { s.fbk with instBusy := false, instStat := c } }

/-- One command of FBK_INST_CMD: ignored while BUSY, refused in a state that does not accept it or on a locked interface (R321, R441). -/
def State.instCmd (s : State) (v : Word) (op : Nat) (okIn : InstPhase → Bool) (run : Nat → State → State) : State :=
  if fld v 3 0 ≠ op then s
  else if s.fbk.instBusy then s.bump pgMap 0 1
  else
    let i := fld v 15 4
    let s1 := { s with fbk := { s.fbk with lastInst := i } }
    let locked := (s.inst i).locked && op ≠ 4
    let code := codePick [if locked then .keyDenied else .ok, if okIn (s.inst i).phase then .ok else .configInvalid]
    if code ≠ .ok then s1.instPost code else run i s1

/-- The descriptor's fields (R320). -/
def instDescOk (ws : List Word) (i : Nat) : Bool :=
  fld (wAt ws 0) 11 0 = i && 1 ≤ fld (wAt ws 0) 21 16 && fld (wAt ws 0) 15 12 = 0 && fld (wAt ws 0) 23 22 = 0 && fld (wAt ws 0) 31 28 = 0
    && fld (wAt ws 1) 31 20 = 0 && fld (wAt ws 2) 31 19 = 0 && 1 ≤ fld (wAt ws 2) 18 0 && fld (wAt ws 2) 18 0 ≤ 262144
    && fld (wAt ws 3) 31 10 = 0 && fld (wAt ws 3) 9 0 ≤ 864 && wAt ws 4 = 0 && wAt ws 5 = 0 && wAt ws 6 = 0 && wAt ws 7 = 0

/-- CREATE (R322). -/
def hostCreate (v : Word) (s : State) : Ans :=
  .next (s.instCmd v 1 (· = .free) (fun i t =>
    let ws := (List.range 8).map (t.stage pgMap)
    let d := fld (wAt ws 0) 21 16
    let pasid := fld (wAt ws 1) 19 0
    if !instDescOk ws i || t.insts.any (fun p => p.2.phase ≠ .free && p.2.pasid = pasid) then t.instPost .configInvalid
    else if !t.pinsFit d 1 then t.instPost .capacityExceeded
    else
      let x : Inst := { Inst.free with
        phase := .created, domain := d, cls := fld (wAt ws 0) 26 24, keysrc := bitOf (wAt ws 0) 27, pasid := pasid, quota := fld (wAt ws 2) 18 0,
        dmem := fld (wAt ws 3) 9 0, locked := (t.inst i).locked }
      ((t.setInst i x).pinInst i).instPost .ok))

/-- A ring is disabled (R257). -/
def State.disableRing (s : State) (p : Page) (o : Nat) : State := s.setReg p (o + 8) (setBitTo (s.reg p (o + 8)) 8 false)

/-- The four queues of an instance are disabled. -/
def State.disableQueues (s : State) (i : Nat) : State :=
  foldS [0x100, 0x120, 0x400, 0x420] (fun o t => t.disableRing (pgMbx i) o) s

/-- Perturbations, their pending values and armed injections are cleared (R499). -/
def State.clearPerturb (s : State) : State :=
  let s1 := foldN 10 (fun k t => t.setReg pgBist (0x0C0 + 4 * k) 0) s
  let s2 := foldN 10 (fun k t => { t with regs := { t.regs with com := t.regs.com.set (regKey pgBist (0x0C0 + 4 * k)) 0 } }) s1
  { s2 with bist := { s2.bist with inj := [] } }

/-- ACTIVATE (R323, R499). -/
def hostActivate (v : Word) (s : State) : Ans :=
  .next (s.instCmd v 2 (· = .created) (fun i t =>
    let x := t.inst i
    if x.keysrc && x.key.isNone then t.instPost .keyDenied
    else
      let (k, t1) := if x.keysrc then (x.key, t) else (let (r, u) := t.takeKey; (some r, u))
      let t2 := t1.clearPerturb.disableQueues i
      (t2.setInst i { x with phase := .active, key := k, mailbox := [], seq := 0 }).instPost .ok))

/-- Regions of an instance are closed, their exact-reduction entries end, and its imports are dropped (R348, R417). -/
def State.closeFabric (s : State) (i : Nat) : State :=
  let gone := s.fabric.regions.filter (fun p => spaceIdx p.2.owner = i)
  let mine := gone.map (·.1)
  let t := foldS gone (fun p u => u.endExact i p.2.base (p.2.pages * 65536)) s
  { t with fabric := { t.fabric with
      regions := t.fabric.regions.filter (fun p => spaceIdx p.2.owner ≠ i)
      grants := t.fabric.grants.filter (fun p => !mine.contains p.2.region)
      imports := t.fabric.imports.filter (fun p => spaceIdx p.2.holder ≠ i) } }

/-- Contexts of an instance that are open. -/
def State.openOf (s : State) (i : Nat) : List Nat := (s.ctxs.filter (fun p => p.2.inst = i && p.2.state ≠ .free)).map (·.1)

/-- The reset decides the record of a context that ends, one that a fault had begun to tear down among them: ABORTED (R270, R328). -/
def State.byReset (s : State) (k : Nat) : State :=
  s.updCtx k (fun c => if c.state = .ending then { c with aborted := true, cause := none } else c)

/-- Both resets begin alike (R326): contexts end, sends are refused from here on. -/
def State.beginReset (s : State) (i : Nat) (ph : InstPhase) (timeout : Bool) : State :=
  let s1 := s.updInst i (fun x => { x with phase := ph, resetMode := ph = .squashing, byTimeout := timeout, drainAt := s.now, cqFrozen := false })
  foldS (s1.openOf i) (fun k t => (t.endCtx k none).byReset k) s1

/-- A squash: no further record; tiles of running contexts receive PREQ (R326). -/
def State.beginSquash (s : State) (i : Nat) (timeout : Bool) : State :=
  let s1 := s.beginReset i .squashing timeout
  let s2 := s1.updInst i (fun x => { x with rqWait := [] })
  foldS (s2.openOf i) (fun k t =>
    let c := t.ctx k
    foldS (c.foot ++ c.kept) (fun j u => u.preqTile j) (t.setCtx k { c with noRec := true, issue := [] })) s2

/-- Outstanding fabric operations of an instance. -/
def State.fabricBusy (s : State) (i : Nat) : Bool :=
  let f := s.fstream i
  !f.unacked.isEmpty || !f.ops.isEmpty || f.cur.isSome

/-- The end of a reset (R326): jobs closed without a record, images discarded, mailbox emptied, queues disabled, RESET_DONE. -/
def State.endReset (s : State) (i : Nat) (c : Code) : State :=
  let mode := b1 (s.inst i).resetMode
  let s1 := foldS (s.inst i).jobs (fun p t => if p.2.isOpen then t.scrubSlice p.2 else t) s
  let s2 := { s1 with tiles := s1.tiles.map (fun (p : Nat × Tile) => match p.2.image with
    | some g => if g.inst = i then (p.1, { p.2 with dropImage := true }) else p
    | none => p) }
  let s3 := ((s2.closeFabric i).updInst i (fun x => { x with jobs := [] })).emptyMail i
  let s4 := (s3.disableQueues i).cqPause i false
  let s5 := { s4 with fbk := { s4.fbk with pausedOrder := s4.fbk.pausedOrder.filter (· ≠ i) } }
  -- a message the instance sent to itself leaves no notice behind: RESET_DONE is first (R326)
  (s5.updInst i (fun x => { x with phase := .active, mailbox := [], seq := 0, byTimeout := false, resetMode := false })).notice i 0x03 c [w32 mode, 0, 0, 0]

/-- A tile of a squashed context is scrubbed; a lent one goes without its image. -/
def State.squashTile (s : State) (t : Nat) : State :=
  if (s.tile t).sched = .none then ((s.dropWaiters t).startScrub t).updTile t (fun x => { x with live := none, holder := none })
  else s.scrubTile t

/-- Commands of a context leave tiles and decks without a record. -/
def State.purgeCtx (s : State) (k : Nat) : State :=
  let s1 := { s with tiles := s.tiles.map (fun (p : Nat × Tile) => (p.1, { p.2 with
    queue := p.2.queue.filter (fun c => seqCtx c.issuer ≠ some k), flights := p.2.flights.filter (fun f => seqCtx f.cmd.issuer ≠ some k) })) }
  let keep (o : Option DeckCmd) : Option DeckCmd := match o with | some c => if c.ctx = k then none else some c | none => none
  { s1 with groves := s1.groves.map (fun (p : Nat × Grove) => (p.1, { p.2 with
    deck0 := keep p.2.deck0, deck1 := keep p.2.deck1, deckWait := p.2.deckWait.filter (fun c => c.ctx ≠ k) })) }

/-- Every open context of a squashed instance goes. -/
def State.squashCtxs (s : State) (i : Nat) : State :=
  foldS (s.openOf i) (fun k t =>
    let c := t.ctx k
    (foldS (c.foot ++ c.kept) (fun j u => if (u.tile j).holder = some k then u.squashTile j else u) (t.purgeCtx k)).freeCtx k) s

/-- Work of an instance outside its contexts stops (R326). -/
def State.stopSkidder (s : State) (i : Nat) : State :=
  let f := s.fstream i
  ((s.setFstream i { FStream.new with seq := f.seq, nextOp := f.nextOp }).updInst i (fun x =>
    { x with ecBusy := false, ecStat := if x.ecBusy then .aborted else x.ecStat, rqWait := [] }))

/-- Registers of a page return to their reset values. -/
def State.resetPage (s : State) (p : Page) : State :=
  { s with regs := { s.regs with
      raw := s.regs.raw.filter (fun q => q.1 / 4096 ≠ pageKey p), com := s.regs.com.filter (fun q => q.1 / 4096 ≠ pageKey p),
      evtRaw := s.regs.evtRaw.erase (pageKey p), evtPend := s.regs.evtPend.erase (pageKey p) } }

/-- DESTROY's first two steps: objects unregistered, every page released (R325); the instance's regions and imports end with its memory (R348). -/
def State.releaseInst (s : State) (i : Nat) : State :=
  let s0 := s.closeFabric i
  let s1 := { s0 with mems := { s0.mems with objects := s0.mems.objects.filter (fun p => spaceIdx p.2.space ≠ i) } }
  foldS ((s1.mems.homes.filter (fun p => pageSpace p.1 = i)).map (·.1)) (fun pk t => t.releasePage pk) s1

/-- The end of DESTROY: its graphs are unbound first (R472), then the steps of R325, of which a CREATED instance takes only the last three: spill and mailbox pages freed, key slot zeroised, FREE. -/
def State.endDestroy (s : State) (i : Nat) : State :=
  let s0 := foldS (s.seed.pkgs.filter (fun p => p.2.kind = 3 && p.2.inst = i)) (fun p t => t.unbindPkg p.1) s
  let s2 := if (s.inst i).phase = .created then s0 else s0.releaseInst i
  let s3 := (s2.unpinInst i).resetPage (pgMbx i)
  ((s3.setInst i { Inst.free with locked := (s.inst i).locked }).retryAll).instPost .ok

/-- RESET with MODE = 0 (R326). -/
def hostResetDrain (v : Word) (s : State) : Ans :=
  .next (if bitOf v 16 then s else s.instCmd v 3 (fun p => p = .active || p = .freezing || p = .frozen) (fun i t =>
    (t.beginReset i .draining false).instPost .ok))

/-- RESET with MODE = 1 (R326). -/
def hostResetSquash (v : Word) (s : State) : Ans :=
  .next (if !bitOf v 16 then s else s.instCmd v 3 (fun p => p = .active || p = .draining || p = .freezing || p = .frozen) (fun i t =>
    (t.beginSquash i false).instPost .ok))

/-- DRAIN_COMPLETE: no context is open, no record waits, nothing is outstanding (R326). -/
def execDrainComplete (i : InstId) (s : State) : Ans :=
  let x := s.inst i.val
  if x.phase = .draining && (s.openOf i.val).isEmpty && x.rqWait.isEmpty && !s.fabricBusy i.val && !x.ecBusy then .next (s.endReset i.val .ok)
  else .next s

/-- DRAIN_TIMEOUT (R327). -/
def execDrainTimeout (i : InstId) (s : State) : Ans :=
  let x := s.inst i.val
  if x.phase = .draining && x.drainAt + 1000 * max 1 (fld (s.reg pgMap 0x014) 19 0) ≤ s.now then .next (s.beginSquash i.val true) else .next s

/-- SQUASH_COMPLETE (R325, R326). -/
def execSquashComplete (i : InstId) (s : State) : Ans :=
  let x := s.inst i.val
  if x.phase ≠ .squashing then .next s
  else
    let s1 := ((s.squashCtxs i.val).stopSkidder i.val).endReset i.val (if x.byTimeout then .aborted else .ok)
    .next (if x.destroy then s1.endDestroy i.val else s1)

/-- DESTROY (R325): BUSY stands until a squash that it needs is done. -/
def hostDestroy (v : Word) (s : State) : Ans :=
  .next (s.instCmd v 4 (· ≠ .free) (fun i t =>
    match (t.inst i).phase with
    | .created => t.endDestroy i
    | .squashing => { (t.updInst i (fun x => { x with destroy := true })) with fbk := { t.fbk with instBusy := true } }
    | _ =>
      let u := (t.beginSquash i false).updInst i (fun x => { x with destroy := true })
      { u with fbk := { u.fbk with instBusy := true } }))

/-! The dirty log and freezing (R336 to R339). -/

/-- LOG_START: bitmaps A and B from staging words 0 to 3; a bitmap outside domain 0's memory or not 4 KiB aligned is refused. -/
def hostLogStart (v : Word) (s : State) : Ans :=
  .next (s.instCmd v 5 (· = .active) (fun i t =>
    let a := (t.stage pgMap 0).toNat + 2 ^ 32 * (t.stage pgMap 1).toNat
    let b := (t.stage pgMap 2).toNat + 2 ^ 32 * (t.stage pgMap 3).toNat
    let n := (t.inst i).dmem * 2048
    if a % 4096 ≠ 0 || b % 4096 ≠ 0 || laneLo < a + n || laneLo < b + n then t.instPost .configInvalid
    else (t.updInst i (fun x => { x with logOn := true, logA := a, logB := b, logSel := false })).instPost .ok))

def logPhase (p : InstPhase) : Bool := p ≠ .free && p ≠ .created

/-- LOG_SWAP (R338). -/
def hostLogSwap (v : Word) (s : State) : Ans :=
  .next (s.instCmd v 6 logPhase (fun i t => (t.updInst i (fun x => { x with logSel := if x.logOn then !x.logSel else x.logSel })).instPost .ok))

/-- LOG_STOP (R338). -/
def hostLogStop (v : Word) (s : State) : Ans :=
  .next (s.instCmd v 7 logPhase (fun i t => (t.updInst i (fun x => { x with logOn := false })).instPost .ok))

/-- FREEZE (R339). -/
def hostFreeze (v : Word) (s : State) : Ans :=
  .next (s.instCmd v 8 (· = .active) (fun i t => (t.updInst i (fun x => { x with phase := .freezing, cqFrozen := true })).instPost .ok))

/-- FREEZE_COMPLETE (R339). -/
def execFreezeComplete (i : InstId) (s : State) : Ans :=
  let x := s.inst i.val
  if x.phase = .freezing && (s.openOf i.val).isEmpty && !s.fabricBusy i.val && !x.ecBusy then .next (s.setInst i.val { x with phase := .frozen }) else .next s

/-- THAW (R339). -/
def hostThaw (v : Word) (s : State) : Ans :=
  .next (s.instCmd v 9 (fun p => p = .freezing || p = .frozen) (fun i t => (t.updInst i (fun x => { x with phase := .active, cqFrozen := false })).instPost .ok))

/-- Codes of FBK_INSTSTATEw (R321). -/
def phaseCode : InstPhase → Nat
  | .free => 0 | .created => 1 | .active => 2 | .draining => 3 | .squashing => 4 | .freezing => 5 | .frozen => 6

/-- READ (R322): the manual does not say where the state stands; word 4 [3:0] is taken. -/
def hostInstanceRead (v : Word) (s : State) : Ans :=
  .next (s.instCmd v 0xA (· ≠ .free) (fun i t =>
    let x := t.inst i
    (t.setStage pgMap [w32 (i + x.domain * 2 ^ 16 + x.cls * 2 ^ 24 + b1 x.keysrc * 2 ^ 27), w32 x.pasid, w32 x.quota, w32 x.dmem, w32 (phaseCode x.phase), 0, 0, 0]).instPost .ok))

/-- KEY_DELIVERY: a key under the trusted-security protocol into the slot of a locked interface with KEYSRC = 1 (R317, R441). -/
def execKeyDelivery (i : InstId) (key : BitVec 512) (s : State) : Ans :=
  let x := s.inst i.val
  if x.phase ≠ .free && x.keysrc && x.locked then .next (s.setInst i.val { x with key := some key }) else .next s

/-! Mailboxes (R329 to R334). -/

/-- The code of a send to an instance (R331). -/
def State.sendCode (s : State) (sender : Space) (t : Nat) : Code :=
  let x := s.inst t
  let own := (match sender with | .dom0 => true | .inst i => (s.inst i.val).domain = x.domain)
  match x.phase with
  | .free | .created => .keyDenied
  | .draining | .squashing => if own then .aborted else .keyDenied
  | _ => if !own then .keyDenied else if 64 ≤ x.mailbox.length then .overflow else .ok

/-- The result of a send is posted within 2 µs, at a time that a free value gives (R331; DESIGN CHOICE, log entry 106); a full target is watched until the sender's next send (R333, R519). -/
def State.sendDone (s : State) (sender : Space) (c : Code) (sid target : Nat) : State :=
  let (v, t) := s.takeFree
  let till := t.now + v % 2001
  match sender with
  | .dom0 => { t with fbk := { t.fbk with
      sendStat := c, sendSid := sid, sendUntil := till, ovfTarget := if c = .overflow then target else t.fbk.ovfTarget, watch := c = .overflow } }
  | .inst i => t.updInst i.val (fun x => { x with
      sendStat := c, sendSid := sid, sendUntil := till, ovfTarget := if c = .overflow then target else x.ovfTarget, watch := c = .overflow })

/-- A send of this page is in progress: BUSY of MBX_SEND_STAT (R331). -/
def State.sendBusy (s : State) (sender : Space) : Bool :=
  match sender with
  | .dom0 => s.now < s.fbk.sendUntil
  | .inst i => s.now < (s.inst i.val).sendUntil

/-- The page of a sender. -/
def sendPage : Space → Page
  | .dom0 => pgMap
  | .inst i => pgMbx i.val

/-- A send of four payload words. -/
def State.mailSend (s : State) (sender : Space) (v : Word) (data : List Word) : State :=
  let target := fld v 12 0
  let sid := fld v 31 16
  let (srck, srci) := (match sender with | .dom0 => (1, 0) | .inst i => (2, i.val))
  let s0 := if bitOf (s.evtRaw (sendPage sender)) 1 then s.evt (sendPage sender) (setBitTo (s.evtRaw (sendPage sender)) 1 false) 0 else s
  let s1 := s0.recLog 2 0x04 0 (spaceIdx sender) (bytesOf (v :: data))
  if target < 4096 then
    let c := s1.sendCode sender target
    ((if c = .ok then s1.place target 0x10 srck .ok srci data sid else s1).sendDone sender c sid target)
  else
    let l := target - 4096
    if sender ≠ .dom0 || 128 ≤ l then s1.sendDone sender .keyDenied sid target
    else if laneMbFull (s1.lane l) then s1.sendDone sender .overflow sid target
    else (s1.placeLane l 0x10 1 .ok data).sendDone sender .ok sid target

/-- MAILBOX_SEND: a write of MBX_SEND_CMD on the sender's page, ignored and counted while a send of that page is in progress (R331); a live one is discarded while its class is replayed (R427). -/
def hostMailboxSend (sender : Space) (v : Word) (s : State) : Ans :=
  let dead := (match sender with | .dom0 => false | .inst i => !logPhase (s.inst i.val).phase)
  .next (if dead then s.bump pgMap 0 1
    -- SEND_IGNORED of an MBX page; the map page has one counter for every write that it ignores (R331, R502)
    else if s.sendBusy sender then s.bump (sendPage sender) (match sender with | .dom0 => 0 | .inst _ => 3) 1
    else if s.replayed 2 then s.liveDrop
    else s.mailSend sender v ((List.range 4).map (fun i => s.reg (sendPage sender) (0x300 + 4 * i))))

/-- MAILBOX_ACK (R332). -/
def hostMailboxAck (i : InstId) (v : Word) (s : State) : Ans :=
  let x := s.inst i.val
  if !logPhase x.phase then .next (s.bump pgMap 0 1)
  else
    match x.mailbox with
    | m :: _ => .next (if wAt m 2 = v then s.popMail i.val else s.bump (pgMbx i.val) 1 1)
    | [] => .next (s.bump (pgMbx i.val) 1 1)

end Sys2Proof.Machine
end

