-- ==== Sys2Proof/Machine/Fabric.lean ====
section
/-! DEFINITION. The rack fabric (13; 16 R415 to R418): regions, grants and imports, fabric queues, segments, fences, the home's checks and arithmetic, duplicate windows, hot lines, exact reduction, Landing gateways, links. -/

namespace Sys2Proof.Machine

/-! The link layer (R364 to R366). -/

/-- The fabric stream that a payload belongs to (R355). -/
def payloadStream : LinkPayload → Option Nat
  | .seg x => some x.stream
  | .ack a => some (spaceIdx a.stream)
  | _ => none

/-- A payload leaves on a port with the port's next number; an armed CKX_LINK injection spoils its CRC (R364, R500). -/
def State.linkPut (s : State) (p : Nat) (body : LinkPayload) : State :=
  let x := s.port p
  let (inj, s1) := s.useInj 5 p
  let k : LinkPacket := { seq := x.txSeq, crcOk := inj.isNone, body := body }
  ((s1.setPort p { x with txSeq := (x.txSeq + 1) % 2 ^ 24, sent := x.sent ++ [{ k with crcOk := true }] }).emit (.ckxTx p k)).chkCkx p true (payloadStream body)

/-- A payload is sent, or waits for room in the retry buffer behind those of its channel (R364, R367). A module without an ID, or one that has fenced itself, sends no data packet (R341, R378). -/
def State.linkSend (s : State) (p : Nat) (body : LinkPayload) : State :=
  let x := s.port p
  if s.lv.cut || !s.modValid then s
  else if x.room body && !x.txWait.any (fun b => payloadChannel b = payloadChannel body) then s.linkPut p body
  else s.setPort p { x with txWait := x.txWait ++ [body] }

/-- Payloads that waited leave while the retry buffer has room. -/
def State.linkDrain (p : Nat) : Nat → State → State
  | 0, s => s
  | n + 1, s =>
    match (s.port p).nextTx with
    | none => s
    | some b =>
      if (s.port p).room b && !s.lv.cut then State.linkDrain p n ((s.updPort p (fun x => { x with txWait := x.txWait.erase b })).linkPut p b) else s

/-- Packets resent: each counts as a retry (R364). -/
def State.linkResend (s : State) (p : Nat) (ks : List LinkPacket) : State :=
  (foldS ks (fun k t => (t.emit (.ckxTx p k)).chkCkx p true (payloadStream k.body)) (s.updPort p (fun x => { x with retry := satAdd x.retry ks.length 0xFFFF }))).bump (pgCkx p) 0 ks.length

/-- A link control packet: it takes no number of its own. -/
def State.linkAck (s : State) (p seq : Nat) (ok : Bool) : State := s.emit (if ok then .ckxAck p seq else .ckxNak p seq)

/-! Landing gateways (R360, R361, R418). -/

/-- FP32 RED ADD of a fabric operation (R350). -/
def fpAdd (a b : Word) : Word := w32 (encodeFp fp32 .nearest false (Num.add (ofFp32 a) (ofFp32 b))).1

/-- MIN or MAX of FP32 words: a NaN gives the canonical NaN, −0 lies below +0 (R350). -/
def fpPick (isMax : Bool) (a b : Word) : Word :=
  if (ofFp32 a).isNan || (ofFp32 b).isNan then w32 (nanBits fp32)
  else
    let less := Num.lt (ofFp32 a) (ofFp32 b) || ((ofFp32 a).isZero && (ofFp32 b).isZero && bitOf a 31 && !bitOf b 31)
    if less = isMax then b else a

/-- One element of a RED (R350): ROP 0 ADD, 1 MIN, 2 MAX. -/
def redElem (fp : Bool) (rop : Nat) (held x : Word) : Word :=
  if fp then (if rop = 0 then fpAdd held x else fpPick (rop = 2) held x)
  else if rop = 0 then held + x
  else if BitVec.slt x held = decide (rop = 1) then x else held

/-- Reproducible mode (R415). -/
def State.repro (s : State) : Bool := bitOf (s.inForce (pgSds 4) 0x0E8) 0

/-- Two REDs of one kind with elements at common addresses: the older takes the newer one's elements there, in issue order, and the newer keeps the rest; where the rest would fall apart, the newer takes the older one's (R360). The older and the newer, each as (offset, elements). -/
def redMerge (fp : Bool) (rop : Nat) (a b : Nat × List Word) : (Nat × List Word) × (Nat × List Word) :=
  let endA := a.1 + 4 * a.2.length
  let endB := b.1 + 4 * b.2.length
  if a.2.isEmpty || b.2.isEmpty || a.1 % 4 ≠ b.1 % 4 || endA ≤ b.1 || endB ≤ a.1 then (a, b)
  else
    let inA (i : Nat) : Bool := a.1 ≤ b.1 + 4 * i && b.1 + 4 * i < endA
    let inB (i : Nat) : Bool := b.1 ≤ a.1 + 4 * i && a.1 + 4 * i < endB
    let sum (at_ : Nat) : Word := redElem fp rop (wAt a.2 ((at_ - a.1) / 4)) (wAt b.2 ((at_ - b.1) / 4))
    if b.1 < a.1 && endA < endB then
      ((a.1, []), (b.1, (List.range b.2.length).map (fun i => if inA i then sum (b.1 + 4 * i) else wAt b.2 i)))
    else
      ((a.1, (List.range a.2.length).map (fun i => if inB i then sum (a.1 + 4 * i) else wAt a.2 i)),
       (if a.1 ≤ b.1 then max b.1 (min endA endB) else b.1, ((List.range b.2.length).filter (fun i => !inA i)).map (wAt b.2)))

/-- Two segments carry one tag (R355). -/
def sameTag (x y : Segment) : Bool := x.src = y.src && x.stream = y.stream && x.seq = y.seq

/-- A RED as segments of one element each, all under its tag (R418). -/
def redSplit (x : Segment) : List Segment :=
  match x.op with
  | .red fp rop es => (List.range es.length).map (fun i => { x with offset := x.offset + 4 * i, op := .red fp rop [wAt es i] })
  | _ => [x]

/-- Segments of a bulk transfer as their home unpacks them: those that carry one tag are applied and answered as the one operation that they were, so that no element is lost to the duplicate window (R358, R418; DEDUCED, log entry 130). -/
def bulkJoin : List Segment → List Segment
  | [] => []
  | x :: t =>
    match x.op, bulkJoin t with
    | .red fp rop es, y :: r =>
      (match y.op with
       | .red _ _ es' => if sameTag x y then { x with op := .red fp rop (es ++ es') } :: r else x :: y :: r
       | _ => x :: y :: r)
    | _, r => x :: r

/-- A segment enters a gather buffer: RED elements at one address are combined in issue order; every tag remains (R360). In reproducible mode an FP32 RED ADD enters element by element (R418, R419). -/
def State.gatherAdd (s : State) (segs : List Segment) (x : Segment) : List Segment :=
  match x.op with
  | .red fp rop es =>
    if fp && rop = 0 && s.repro then segs ++ redSplit x
    else
      let (older, off, rest) := segs.foldl (fun (acc : List Segment × Nat × List Word) y =>
        match y.op with
        | .red fp' rop' es' =>
          if fp' = fp && rop' = rop then
            let (p, q) := redMerge fp rop (y.offset, es') acc.2
            (acc.1 ++ [{ y with offset := p.1, op := .red fp rop p.2 }], q)
          else (acc.1 ++ [y], acc.2)
        | _ => (acc.1 ++ [y], acc.2)) ([], x.offset, es)
      older ++ [{ x with offset := off, op := .red fp rop rest }]
  | _ => segs ++ [x]

/-- Gateways of a rack of modules are named by module and number. -/
def gwName (modId g : Nat) : Nat := modId * 4 + g

/-- The module's own segments among these are on this port now, or wait for a path (R357). -/
def State.carriedOn (s : State) (dest : Nat) (segs : List Segment) (p : Option Nat) : State :=
  foldS (segs.filter (fun x => x.src = s.modId)) (fun x t =>
    let f := t.fstream x.stream
    t.setFstream x.stream { f with unacked := f.unacked.map (fun u => if u.seg.seq = x.seq && u.home = dest then { u with port := p } else u) }) s

/-- A bulk transfer leaves gateway g on the port its route names (R361); with none there, its segments wait for a path (R357). -/
def State.bulkSend (s : State) (g dest : Nat) (crossed : List Nat) (segs : List Segment) : State :=
  match s.route g (dest / 256) with
  | some p => (s.linkSend p (.bulk { dest := dest, crossed := crossed ++ [gwName s.modId g], segs := segs })).carriedOn dest segs (some p)
  | none => s.carriedOn dest segs none

/-- A gather buffer is sent. -/
def State.gatherFlush (s : State) (b : GatherBuf) : State :=
  ({ s with fabric := { s.fabric with gather := s.fabric.gather.filter (· ≠ b) } }).bulkSend b.gw b.dest [] b.segs

/-- Segments that may be gathered: writes and reductions (R360). -/
def gathers (op : SegOp) : Bool := match op with | .write _ => true | .red _ _ _ => true | _ => false

/-- A LOAD of another stage becomes a GET of its aligned 512-byte segment (R360). -/
def widened (x : Segment) : Segment :=
  match x.op with
  | .read n => if n ≤ 16 && x.offset % 512 + n ≤ 512 then { x with offset := x.offset / 512 * 512, op := .read 512 } else x
  | _ => x

/-- The buffer takes the place of the one that gathers for the same stream, region and block (R360). -/
def State.setGather (s : State) (b : GatherBuf) : State :=
  { s with fabric := { s.fabric with gather := s.fabric.gather.filter (fun y =>
      !(y.gw = b.gw && y.stream = b.stream && y.dest = b.dest && y.region = b.region && y.block = b.block)) ++ [b] } }

/-- A segment passes through Landing gateway g (R360): one that is replayed while its first copy is still gathered is dropped, and a buffer with no room for it is full, and is sent first. -/
def State.landingIn (s : State) (g : Nat) (sp : Space) (dest : Nat) (x : Segment) : State :=
  if gathers x.op then
    let blk := x.offset / 4096
    let hit (b : GatherBuf) : Bool := b.gw = g && b.stream = sp && b.dest = dest && b.region = x.region && b.block = blk
    let new : GatherBuf := { gw := g, stream := sp, dest := dest, region := x.region, block := blk, segs := s.gatherAdd [] x, since := s.now }
    let put (t : State) (b : GatherBuf) : State := if 8 ≤ b.segs.length then (t.setGather b).gatherFlush b else t.setGather b
    match s.fabric.gather.find? hit with
    | none => put s new
    | some b =>
      let segs := s.gatherAdd b.segs x
      if b.segs.any (sameTag x) then s
      else if 8 < segs.length then put (s.gatherFlush b) new
      else put s { b with segs := segs }
  else s.bulkSend g dest [] [widened x]

/-! Sending segments (R342, R355, R357). -/

/-- A segment goes to its home: within the stage on a port, else through the gateway of the port (R342); the port's grant takes from the domain's bucket (R313). It is answered by the port chosen, none while no port reaches the home. -/
def State.segSend (s : State) (sp : Space) (dest : Nat) (x : Segment) : Option Nat × State :=
  if s.lv.cut then (none, s) else
  match s.pathPort dest (spaceIdx sp) with
  | none => (none, s)
  | some p =>
    let s := s.takeGrant (s.domainOf sp) (ckxPoint p)
    if s.sameStage dest then (some p, s.linkSend p (.seg x)) else (some ((s.route (p / 3) (dest / 256)).getD p), s.landingIn (p / 3) sp dest x)

/-- Segments of every stream that satisfy a condition are sent again under their tags, in SEQ order (R357). -/
def State.segReplay (s : State) (cond : Unacked → Bool) : State :=
  foldS (s.fabric.streams.map (·.1)) (fun k t =>
    let us := (t.fstream k).unacked
    let (us', t1) := us.foldl (fun (acc : List Unacked × State) u =>
      if cond u then
        let (p, t2) := acc.2.segSend (spaceOf k) u.home u.seg
        (acc.1 ++ [{ u with port := p, retry := false }], t2)
      else (acc.1 ++ [u], acc.2)) ([], t)
    t1.setFstream k { t1.fstream k with unacked := us' }) s

/-- Paths over port p have failed (R357). -/
def State.portFailed (s : State) (p : Nat) : State := s.segReplay (fun u => u.port = some p)

/-- A link goes DOWN, or HELD at the third time within 1 s (R364 to R366). -/
def State.linkDown (s : State) (p : Nat) : State :=
  let x := s.port p
  let recent := s.now :: x.downs.filter (fun t => s.now < t + 1000000000)
  let held : Bool := 3 ≤ recent.length
  let s1 := s.setPort p { x with state := if held then .held else .down, width := 0, downs := recent, heldAt := s.now, txSeq := 0, rxSeq := 0, sent := [], txWait := [], tries := 0, unreach := [] }
  (s1.bump (pgCkx p) 2 1).portFailed p

/-- The widest width that n good lanes allow (R365). -/
def widthOf (n : Nat) : Nat := if 4 ≤ n then 4 else if 2 ≤ n then 2 else n

/-- Bits set among the low n of a number. -/
def popN (n v : Nat) : Nat := ((List.range n).filter (fun i => v / 2 ^ i % 2 = 1)).length

/-- Packets are resent from the first of them on; where its eighth retry has failed too, the link goes DOWN (R364). A module that has fenced itself resends nothing (R378). -/
def State.linkRetry (s : State) (p : Nat) (ks : List LinkPacket) : State :=
  match ks with
  | [] => s
  | k :: _ =>
    let x := s.port p
    if s.lv.cut then s else
    let n := if x.tryOf = k.seq then x.tries else 0
    if 8 ≤ n then s.linkDown p
    else (s.updPort p (fun y => { y with tries := n + 1, tryOf := k.seq })).linkResend p ks

/-- LINK_RETRY_TIMEOUT: the oldest packet has waited 2 µs (R364). -/
def execLinkRetryTimeout (p : CkxPort) (s : State) : Ans :=
  let x := s.port p.val
  .next (if x.state = .up then s.linkRetry p.val x.sent else s)

/-- LANE_ERROR_LIMIT: lane ln of the port is disabled, and the link retrains (R365). -/
def execLaneErrorLimit (p : CkxPort) (ln : Fin 4) (s : State) : Ans :=
  let x := s.port p.val
  let bad := Nat.lor x.bad (2 ^ ln.val)
  let lanes := Nat.land x.lanes (15 - Nat.land bad 15)
  if x.state ≠ .up then .next (s.setPort p.val { x with bad := bad, lanes := lanes })
  else if lanes = 0 then .next ((s.setPort p.val { x with bad := bad, lanes := 0 }).linkDown p.val)
  else .next (((s.setPort p.val { x with bad := bad, lanes := lanes, state := .training }).bump (pgCkx p.val) 1 1))

/-- An UP port advertises its request credits, at most 224 (R367; DEDUCED, log entry 69: when the link comes up and when RXCRED is written). -/
def State.advertise (s : State) (p : Nat) : State :=
  if (s.port p).state = .up then s.emit (.ckxCredit p (min 224 (fld (s.reg (pgCkx p) 0x010) 15 8))) else s

/-- Segments that waited for a path leave where there is one (R357). -/
def State.pathFound (s : State) : State := s.segReplay (fun u => u.port = none)

/-- LINK_RETRAIN_COMPLETE: good lanes as training found them (R365); segments that waited for a path leave (R357). -/
def execLinkRetrainComplete (p : CkxPort) (good : Fin 16) (s : State) : Ans :=
  let x := s.port p.val
  let lanes := Nat.land good.val (15 - Nat.land x.bad 15)
  if !bitOf (s.reg (pgCkx p.val) 0x010) 0 || s.dieTested (4 + p.val / 6) || (x.state ≠ .training && x.state ≠ .down) then .next s
  else if lanes = 0 then .next (if x.state = .training then (s.setPort p.val { x with lanes := 0 }).linkDown p.val else s.setPort p.val { x with lanes := 0 })
  else .next <| ((s.setPort p.val { x with state := .up, lanes := lanes, bad := 15 - lanes, width := widthOf (popN 4 lanes), tries := 0, unreach := [] }).advertise p.val).pathFound

/-- PORT_HOLD_EXPIRE (R366). -/
def execPortHoldExpire (p : CkxPort) (s : State) : Ans :=
  let x := s.port p.val
  let hold := max 1 (fld (s.reg (pgCkx p.val) 0x010) 23 16)
  if x.state = .held && x.heldAt + hold * 1000000000 ≤ s.now then .next (s.setPort p.val { x with state := .training }) else .next s

/-- RETRAIN (R365): every lane is tried again. Nothing is carried while the link trains. -/
def hostRetrain (p : CkxPort) (s : State) : Ans :=
  let x := s.port p.val
  if bitOf (s.reg (pgCkx p.val) 0x010) 0 && x.state ≠ .held then .next (s.setPort p.val { x with state := .training, bad := 0 }) else .next s

/-- HOLD_CLR (R366). -/
def hostHoldClr (p : CkxPort) (s : State) : Ans :=
  let x := s.port p.val
  .next (if x.state = .held then s.setPort p.val { x with state := .training } else s)

/-- SWITCH_UNREACHABLE (R357). -/
def execSwitchUnreachable (p : CkxPort) (dest : Fin 65536) (s : State) : Ans :=
  let x := s.port p.val
  if x.state ≠ .up then .next s
  else .next (((s.bump (pgCkx p.val) 3 1).setPort p.val { x with unreach := if x.unreach.contains dest.val then x.unreach else dest.val :: x.unreach }).segReplay
    (fun u => u.port = some p.val && u.home = dest.val))

/-- ENABLE of a port is written (R341, R369): it trains, or goes down, and the port is reset (R489). -/
def State.portEnable (s : State) (p : Nat) (on : Bool) : State :=
  let x := s.port p
  if on then (if x.state = .down then s.setPort p { x with state := .training } else s)
  else (s.setPort p CkxPortSt.reset).portFailed p

/-! Fabric queues and completion rings (R351, R352). -/

def fqPage : Space → Page
  | .dom0 => pgMap
  | .inst i => pgMbx i.val

/-- FQ_PAUSED of an instance's page (R369). -/
def State.fqPaused (s : State) (sp : Space) (on : Bool) : State :=
  let k := spaceIdx sp
  let s1 := s.setFstream k { s.fstream k with paused := on }
  match sp with
  | .dom0 => s1
  | .inst i => s1.mbxLevel i.val 10 on

def State.fcRoom (s : State) (sp : Space) : Bool :=
  s.ringOn (fqPage sp) 0x420 && idxGap (s.ringIdx (fqPage sp) 0x420) (s.fstream (spaceIdx sp)).fcTail < s.ringLen (fqPage sp) 0x420

/-- A completion record is written: its PHASE is fixed now (R352). The one that fills the ring pauses the queue (R351). -/
def State.fcWrite (s : State) (sp : Space) (ws : List Word) : State :=
  let k := spaceIdx sp
  let f := s.fstream k
  let len := s.ringLen (fqPage sp) 0x420
  let r := setAt ws 0 (w32 ((wAt ws 0).toNat + phaseOf f.fcTail len * 2 ^ 24))
  let t := ((s.setFstream k { f with fcTail := (f.fcTail + 1) % 65536 }).storeDev sp (s.ringBase (fqPage sp) 0x420 + 32 * (f.fcTail % len)) (bytesOf r)).2
  if t.fcRoom sp then t else t.fqPaused sp true

/-- A completion is posted with the time of the completion, or waits for room and pauses the queue (R351, R352). -/
def State.fcPost (s : State) (sp : Space) (rec : List Word) : State :=
  let k := spaceIdx sp
  let ws := setAt rec 1 s.now32
  if (s.fstream k).fcWait.isEmpty && s.fcRoom sp then s.fcWrite sp ws
  else
    let f := s.fstream k
    (s.setFstream k { f with fcWait := f.fcWait ++ [ws] }).fqPaused sp true

/-- Waiting completions are written while there is room; then issue goes on. -/
def State.fcDrain (sp : Space) : Nat → State → State
  | 0, s => s
  | n + 1, s =>
    let f := s.fstream (spaceIdx sp)
    match f.fcWait with
    | [] => if f.paused && s.fcRoom sp then s.fqPaused sp false else s
    | r :: rest => if s.fcRoom sp then State.fcDrain sp n ((s.setFstream (spaceIdx sp) { f with fcWait := rest }).fcWrite sp r) else s

/-- Words of a completion record (R352). -/
def fcRec (ticket op : Nat) (c : Code) (result : DWord) (data : List Word) : List Word :=
  [w32 (ticket + codeVal c * 65536 + op * 2 ^ 25), 0, w32 result.toNat, w32 (result.toNat / 2 ^ 32)] ++ (List.range 4).map (wAt data)

/-- A completion past the operation's tag is a miss (R245); domain 0's fabric queue serves no cell (DESIGN CHOICE, log entry 113). -/
def State.fabricMiss (s : State) (sp : Space) (tag : Nat) : State :=
  if !s.pastTag tag then s else
    let d := (s.mailDie (s.domainOf sp)).getD 0
    match sp with
    | .inst i => s.missInst d i.val
    | .dom0 => (s.bump (pgSds d) 0 1).sdsEvent d 0

/-- An operation completes: past its tag with DEADLINE_MISSED under R19 (R244); QUIET leaves out an OK record; the code counts for the next fence (R351, R356). -/
def State.opDone (s : State) (sp : Space) (o : FabOp) : State :=
  let k := spaceIdx sp
  let f := s.fstream k
  let c := s.closeCode o.tag o.code
  let s1 := (s.setFstream k { f with ops := f.ops.filter (fun x => x.id ≠ o.id), codes := if o.fence then .ok else codeMin f.codes c }).fabricMiss sp o.tag
  if o.quiet && c = .ok then s1
  else s1.fcPost sp (fcRec o.ticket o.opc c o.result (wordsOf 4 (o.data ++ List.replicate 16 0)))

/-- Operations with no segment left complete; a fence completes when nothing before it is left (R356). -/
def State.opsCheck (s : State) (sp : Space) : State :=
  let k := spaceIdx sp
  let s1 := foldS ((s.fstream k).ops.filter (fun o => !o.fence && o.left = 0)) (fun o t => t.opDone sp o) s
  let f := s1.fstream k
  if f.unacked.isEmpty && f.cur.isNone then
    match f.ops.find? (·.fence) with
    | some o => if f.ops.any (fun x => !x.fence) then s1 else s1.opDone sp { o with code := codeMin o.code f.codes }
    | none => s1
  else s1

def State.updOp (s : State) (sp : Space) (id : Nat) (g : FabOp → FabOp) : State :=
  let f := s.fstream (spaceIdx sp)
  s.setFstream (spaceIdx sp) { f with ops := f.ops.map (fun o => if o.id = id then g o else o) }

/-! Descriptors (R351, R352). -/

def fqOp (ws : List Word) : Nat := fld (wAt ws 0) 4 0
def fqImport (ws : List Word) : Nat := fld (wAt ws 1) 15 0
def fqOffset (ws : List Word) : Nat := (wAt ws 2).toNat + 2 ^ 32 * fld (wAt ws 3) 7 0
def fqLva (ws : List Word) : Nat := (wAt ws 4).toNat + 2 ^ 32 * fld (wAt ws 5) 15 0
def fqLen (ws : List Word) : Nat := fld (wAt ws 6) 23 0
def fqCtr (ws : List Word) : Option Nat := if bitOf (wAt ws 1) 16 then some (fld (wAt ws 1) 27 17) else none
def fqRop (ws : List Word) : Nat := fld (wAt ws 0) 13 12
def fqW64 (ws : List Word) : Bool := bitOf (wAt ws 0) 14

/-- Bits that an operation uses, word by word (R351, R352). -/
def fqUsed (op : Nat) : List Nat :=
  let all := 0xFFFFFFFF
  let dat := List.replicate 8 all
  match op with
  | 0x01 => [0xFFFF003F, 0x0FFFFFFF, all, 0xFF, all, 0xFFFF, 0xFFFFFF]
  | 0x02 => [0xFFFF003F, 0xFFFF, all, 0xFF, all, 0xFFFF, 0xFFFFFF, 0x1FFFF]
  | 0x03 => [0xFFFF003F, 0x0FFFFFFF, all, 0xFF, 0, 0, 0xFFFFFF, 0] ++ dat
  | 0x04 => [0xFFFF003F, 0xFFFF, all, 0xFF, 0, 0, 0xFFFFFF]
  | 0x05 => [0xFFFF3F3F, 0x0FFFFFFF, all, 0xFF, 0, 0, 0xFFFFFF, 0] ++ dat
  | 0x06 => [0xFFFF003F, 0x0FFF0000, all, 0xFF, 0, 0, 0x0FFFFFFF, 0] ++ dat
  | 0x07 => [0xFFFF7F3F, 0xFFFF, all, 0xFF, 0, 0, 0, 0, all, all, all, all]
  | 0x10 => [0xFFFF003F, 1, all, 0xFF, 0, 0, 0xFFFFFF, 0x0FFFFFFF]
  | 0x11 => [0xFFFF003F, 0x3FFF]
  | 0x12 => [0xFFFF003F, 0x3FFF, 0, 0, 0, 0, 0xF, 0xFFFF]
  | 0x13 => [0xFFFF003F, 0xFFFF]
  | 0x14 => [0xFFFF003F, 0x3FFF, 0xFFFF, 0, 0, 0, 0xF, 0xFFFF, all, all]
  | 0x15 => [0xFFFF003F, 0xFFFF]
  | 0x16 => [0xFFFF003F, 0xFFFF]
  | _ => [0xFFFF003F]

/-- The descriptor's reserved bits are zero, and its fields in range (R351). -/
def fqDescOk (ws : List Word) : Bool :=
  let op := fqOp ws
  let used := fqUsed op
  let n := fqLen ws
  let off := fqOffset ws
  let fmt := fld (wAt ws 0) 11 8
  (List.range 16).all (fun i => (wAt ws i) &&& ~~~ (w32 (used.getD i 0)) = 0)
  && (match op with
      | 0x01 | 0x02 => 1 ≤ n
      | 0x03 => 1 ≤ n && n ≤ 32
      | 0x04 => 1 ≤ n && n ≤ 16
      | 0x05 => 4 ≤ n && n ≤ 32 && n % 4 = 0 && off % 4 = 0 && (fmt = 1 || fmt = 0xC) && fqRop ws ≠ 3
      | 0x06 => 1 ≤ n && n ≤ 16 && 1 ≤ fld (wAt ws 6) 27 24 && fld (wAt ws 6) 27 24 ≤ 8
      | 0x07 => fmt = 0xC && off % (if fqW64 ws then 8 else 4) = 0
      | 0x08 | 0x10 | 0x11 | 0x12 | 0x13 | 0x14 | 0x15 | 0x16 => true
      | _ => false)

/-- The channel of a queue may take a descriptor: there is one, nothing is being issued, no fence stands, the completion ring is not full (R351, R356). -/
def State.fqReady (s : State) (sp : Space) : Bool :=
  let p := fqPage sp
  let f := s.fstream (spaceIdx sp)
  let serves : Bool := match sp with
    | .dom0 => true
    | .inst i => (s.inst i.val).phase = .active || (s.inst i.val).phase = .freezing
  serves && s.ringOn p 0x400 && f.fqHead ≠ s.ringIdx p 0x400 && !f.paused && s.fcRoom sp && f.fcWait.isEmpty && f.cur.isNone && !f.ops.any (·.fence)

/-- The descriptor at the head of a queue, when the channel may take it (R351, R356). -/
def State.fqEntry (s : State) (sp : Space) : Option (List Word × State) :=
  let p := fqPage sp
  let f := s.fstream (spaceIdx sp)
  if s.fqReady sp then
    match s.loadDev sp (s.ringBase p 0x400 + 64 * (f.fqHead % s.ringLen p 0x400)) 64 with
    | (.ok, bs, t) => some (wordsOf 16 bs, t)
    | _ => none
  else none

/-- The tag of a space's fabric operations at their issue: DREL of the instance's class; class 7 for domain 0 (R219; DESIGN CHOICE, log entry 113). -/
def State.fabricTag (s : State) : Space → Nat
  | .dom0 => s.tag7
  | .inst i => (tagOf s.now + s.drel (s.inst i.val).cls) % 2 ^ 24

/-- The fetch of the descriptor at the head waits for its page (R276, R295). -/
def State.fqWait (s : State) (sp : Space) : Option State :=
  let p := fqPage sp
  if s.fqReady sp then
    s.unitWait (.fq sp) (s.fabricTag sp) [(sp, s.ringBase p 0x400 + 64 * ((s.fstream (spaceIdx sp)).fqHead % s.ringLen p 0x400), 64, false)]
  else none

/-- The operation that a descriptor begins. -/
def State.newOp (s : State) (sp : Space) (ws : List Word) (left : Nat) (c : Code) : FabOp × State :=
  let k := spaceIdx sp
  let f := s.fstream k
  let o : FabOp := { id := f.nextOp, opc := fqOp ws, ticket := fld (wAt ws 0) 31 16, quiet := bitOf (wAt ws 0) 5, fence := fqOp ws = 0x08,
                     left := left, code := c, result := 0, data := [],
                     lctr := if fqOp ws = 0x02 && bitOf (wAt ws 7) 16 then some (fld (wAt ws 7) 15 0) else none, issued := s.now,
                     tag := s.fabricTag sp }
  (o, s.setFstream k { f with nextOp := f.nextOp + 1, ops := f.ops ++ [o] })

/-- The descriptor completes at once. -/
def State.fqFinish (s : State) (sp : Space) (ws : List Word) (c : Code) (result : DWord) (data : List Word) : State :=
  let (o, s1) := s.newOp sp ws 0 c
  s1.opDone sp { o with result := result, data := bytesOf data }

/-- Permission bit of an operation (R344). -/
def opPerm (op : SegOp) : Nat := match op with | .read _ => 0 | .write _ => 1 | .red _ _ _ => 2 | .atomic _ _ _ _ => 3

/-- The source's checks of an import (R346). -/
def State.importCode (s : State) (sp : Space) (h perm : Nat) : Code :=
  match s.fabric.imports.find h with
  | none => .keyDenied
  | some m =>
    if m.holder ≠ sp then .keyDenied
    else codePick [if m.suspect then .pathLost else .ok, if m.perm / 2 ^ perm % 2 = 1 then .ok else .configInvalid]

/-- Permission bit of a data operation that names one import (R344). -/
def opcPerm : Nat → Option Nat
  | 0x01 => some 1 | 0x02 => some 0 | 0x03 => some 1 | 0x04 => some 0 | 0x05 => some 2 | 0x07 => some 3 | _ => none

/-- The region is open and the issuer's (R352). -/
def State.ownsRegion (s : State) (sp : Space) (r : Nat) : Bool := match s.fabric.regions.find r with | some x => x.owner = sp | none => false

/-- The grant stands and is of a region of the issuer's (R352). -/
def State.ownsGrant (s : State) (sp : Space) (g : Nat) : Bool := match s.fabric.grants.find g with | some x => s.ownsRegion sp x.region | none => false

/-- Imports that a data descriptor names (R349, R353). -/
def fqDests (ws : List Word) : List Nat :=
  if fqOp ws = 0x06 then (List.range (fld (wAt ws 6) 27 24)).map (fun i => fld (wAt ws (12 + i / 2)) (15 + 16 * (i % 2)) (16 * (i % 2)))
  else [fqImport ws]

/-- Segments that a descriptor issues as it is taken; a PUT or GET needs room for its first (R349, R355). -/
def fqSegs (ws : List Word) : Nat := if fqOp ws = 0x06 then (fqDests ws).length else 1

/-- The codes that a descriptor meets beside a breach of R351: the source's checks of R346, and who may close, grant and revoke (R352). -/
def State.descCodes (s : State) (sp : Space) (ws : List Word) : List Code :=
  let r := fld (wAt ws 1) 13 0
  let own (ok : Bool) : List Code := [if ok then .ok else .keyDenied]
  match fqOp ws with
  | 0x01 | 0x02 => (match opcPerm (fqOp ws) with | some p => [s.importCode sp (fqImport ws) p] | none => []) ++ [s.accCode sp (fqLva ws) (fqLen ws)]
  | 0x03 | 0x04 | 0x05 | 0x07 => (match opcPerm (fqOp ws) with | some p => [s.importCode sp (fqImport ws) p] | none => [])
  | 0x06 => ((fqDests ws).take 8).map (fun h => s.importCode sp h 1)
  | 0x11 | 0x12 => own (s.ownsRegion sp r)
  | 0x13 => own (s.ownsGrant sp (fld (wAt ws 1) 15 0))
  | 0x15 | 0x16 => own (match s.fabric.imports.find (fqImport ws) with | some m => m.holder = sp | none => false)
  | _ => []

/-- The code of a descriptor that breaks R351, among all that apply to it (R19). -/
def State.badDesc (s : State) (sp : Space) (ws : List Word) : Code := codePick (.configInvalid :: s.descCodes sp ws)

/-- The descriptor at the head is taken when it is of this kind; one with an OP outside R349 is refused by whichever row meets it. A module that has fenced itself and not been re-admitted completes it with FENCED_OUT (R378). -/
def State.fqTake (s : State) (sp : Space) (op : Nat) (run : List Word → State → State) : State :=
  match s.fqWait sp with
  | some t => t
  | none =>
  match s.fqEntry sp with
  | none => s
  | some (ws, t) =>
    let known := [0x01, 0x02, 0x03, 0x04, 0x05, 0x06, 0x07, 0x08, 0x10, 0x11, 0x12, 0x13, 0x14, 0x15, 0x16].contains (fqOp ws)
    if known && fqOp ws ≠ op then s
    else
      let k := spaceIdx sp
      let t1 := t.setFstream k { t.fstream k with fqHead := ((t.fstream k).fqHead + 1) % 65536 }
      if t1.lv.cut then t1.fqFinish sp ws .fencedOut 0 []
      else if !fqDescOk ws then t1.fqFinish sp ws (t1.badDesc sp ws) 0 []
      else run ws t1

/-! Data operations at the source (R346, R354, R355). -/

/-- One segment of an operation is issued under SEQ seq, with the operation's tag. -/
def State.segIssue (s : State) (sp : Space) (op h off lva seq : Nat) (so : SegOp) (ctr : Option Nat) (mst : Bool) : State :=
  match s.fabric.imports.find h with
  | none => s
  | some m =>
    let k := spaceIdx sp
    let x : Segment := { src := s.modId, stream := k, seq := seq, region := m.region, grant := m.grant, key := m.key, offset := off, op := so, ctr := ctr, mstore := mst,
                         tag := match (s.fstream k).ops.find? (fun o => o.id = op) with | some o => o.tag | none => s.fabricTag sp }
    let (p, s1) := s.segSend sp m.home x
    let f := s1.fstream k
    s1.setFstream k { f with unacked := f.unacked ++ [{ seg := x, import_ := h, home := m.home, port := p, op := op, lva := lva, retry := false }] }

/-- The stream's next SEQ is taken (R355). -/
def State.takeSeq (s : State) (sp : Space) : Nat × State :=
  let k := spaceIdx sp
  let f := s.fstream k
  (f.seq, s.setFstream k { f with seq := (f.seq + 1) % 2 ^ 24 })

/-- Segment j of the PUT or GET being issued (R346: segment by segment). -/
def State.pgSegment (s : State) (sp : Space) (c : Issuing) : State :=
  let ws := c.words
  let at_ := 512 * c.next
  let n := min 512 (fqLen ws - at_)
  let h := fqImport ws
  let put := fqOp ws = 0x01
  let bad (t : State) (e : Code) : State := t.updOp sp c.op (fun o => { o with left := o.left - 1, code := codeMin o.code e })
  if put then
    match codePick [s.importCode sp h 1, s.accCode sp (fqLva ws + at_) n] with
    | .ok =>
      (match s.loadDev sp (fqLva ws + at_) n with
       | (.ok, bs, t) => let (q, t1) := t.takeSeq sp; t1.segIssue sp c.op h (fqOffset ws + at_) 0 q (.write bs) (fqCtr ws) false
       | (e, _, t) => bad t e)
    | e => bad s e
  else
    match codePick [s.importCode sp h 0, s.accCode sp (fqLva ws + at_) n] with
    | .ok => let (q, t) := s.takeSeq sp; t.segIssue sp c.op h (fqOffset ws + at_) (fqLva ws + at_) q (.read n) none false
    | e => bad s e

/-- The port to the home of import h grants the stream's domain (R223, R313); without an import or a path there is no point to wait at. -/
def State.fqEligible (s : State) (sp : Space) (h : Nat) : Bool :=
  match s.fabric.imports.find h with
  | none => true
  | some m =>
    match s.pathPort m.home (spaceIdx sp) with
    | none => true
    | some p => s.eligible (s.domainOf sp) (ckxPoint p)

/-- Work of the stream's instance stops after the segment that is under way: the instance is being squashed (R326). -/
def State.squashes (s : State) (sp : Space) : Bool := match sp with | .inst i => (s.inst i.val).phase = .squashing | .dom0 => false

/-- The next segment of a PUT waits for its source's page (R276, R295). -/
def State.putWait (s : State) (sp : Space) (c : Issuing) : Option State :=
  if fqOp c.words = 0x01 && s.accCode sp (fqLva c.words + 512 * c.next) (min 512 (fqLen c.words - 512 * c.next)) = .ok then
    s.unitWait (.fq sp) (match (s.fstream (spaceIdx sp)).ops.find? (fun o => o.id = c.op) with | some o => o.tag | none => s.fabricTag sp)
      [(sp, fqLva c.words + 512 * c.next, min 512 (fqLen c.words - 512 * c.next), false)]
  else none

/-- Segments are issued while the stream has fewer than 1,024 not acknowledged (R355) and its domain is eligible at the port (R223). -/
def State.fqIssue (sp : Space) : Nat → State → State
  | 0, s => s
  | n + 1, s =>
    let k := spaceIdx sp
    let f := s.fstream k
    match f.cur with
    | none => s
    | some c =>
      if c.total ≤ c.next || s.squashes sp then s.setFstream k { f with cur := none }
      else if 1024 ≤ f.unacked.length || !s.fqEligible sp (fqImport c.words) then s
      else match s.putWait sp c with
      | some t => t
      | none => State.fqIssue sp n ((s.setFstream k { f with cur := some { c with next := c.next + 1 } }).pgSegment sp c)

/-- PUT and GET begin (R349). -/
def State.fqBulk (sp : Space) (ws : List Word) (s : State) : State :=
  let n := cdiv (fqLen ws) 512
  let lctrOk : Bool := fqOp ws ≠ 0x02 || !bitOf (wAt ws 7) 16 || s.ctrHeld (s.domainOf sp) (fld (wAt ws 7) 15 0)
  if !lctrOk then s.fqFinish sp ws (s.badDesc sp ws) 0 []
  else
    let (o, s1) := s.newOp sp ws n .ok
    let k := spaceIdx sp
    let s2 := s1.setFstream k { s1.fstream k with cur := some { words := ws, op := o.id, next := 0, total := n } }
    (State.fqIssue sp 32770 s2).opsCheck sp

/-- An operation of one segment. It waits while 1,024 are not acknowledged: the caller sees to that. -/
def State.fqOne (sp : Space) (so : SegOp) (ctr : Option Nat) (ws : List Word) (s : State) : State :=
  match s.importCode sp (fqImport ws) (opPerm so) with
  | .ok =>
    let (o, s1) := s.newOp sp ws 1 .ok
    let (q, s2) := s1.takeSeq sp
    s2.segIssue sp o.id (fqImport ws) (fqOffset ws) 0 q so ctr false
  | e => s.fqFinish sp ws e 0 []

/-- A data operation issues only while its stream has room below 1,024 segments (R355) and its ports grant its domain (R223, R313). -/
def State.fqTakeData (s : State) (sp : Space) (op : Nat) (run : List Word → State → State) : State :=
  let waits := match s.fqEntry sp with
    | some (ws, _) => fqDescOk ws && (1024 < (s.fstream (spaceIdx sp)).unacked.length + fqSegs ws || !(fqDests ws).all (s.fqEligible sp))
    | none => false
  if waits then s else s.fqTake sp op run

/-- The tag of the operation that a stream is issuing. -/
def FStream.curTag (f : FStream) (other : Nat) : Nat :=
  match f.cur with
  | some c => (match f.ops.find? (fun o => o.id = c.op) with | some o => o.tag | none => other)
  | none => other

/-- A stream takes its place among those of larger keys. -/
def State.insertStream (s : State) (k : Nat) : List Nat → List Nat
  | [] => [k]
  | j :: t => if s.tagKey ((s.fstream k).curTag s.tag7) false < s.tagKey ((s.fstream j).curTag s.tag7) false then k :: j :: t else j :: s.insertStream k t

/-- Instances of a domain whose streams have segments to issue, the smallest key first (R222). -/
def State.issuers (s : State) (d : Nat) : List Nat :=
  ((s.fabric.streams.filter (fun p => p.1 < 4096 && p.2.cur.isSome && (s.inst p.1).domain = d)).map (·.1)).foldl (fun acc k => s.insertStream k acc) []

/-- SHAPING_REFILL: a transfer time passes at arbitration point pt; at a fabric port, the domain's streams go on issuing, the nearest first (R222, R223, R313). -/
def execShapingRefill (d : Fin 64) (pt : Nat) (s : State) : Ans :=
  let w := s.inForce (pgFbk d.val) 0x0C4
  if d.val = 0 || shapeRate w = 0 then .next s
  else
    let p := pt % 2 ^ 20
    let s1 := { s with shape := s.shape.set (d.val * 2 ^ 20 + p) (min (1024 * shapeBurst w) (s.bucket d.val p + shapeRate w)) }
    if ckxPoint 0 ≤ p && p < ckxPoint 12 then
      .next (foldS (s1.issuers d.val) (fun i t => State.fqIssue (spaceOf i) 1026 t) s1)
    else .next s1

/-- DATA bytes of a descriptor. -/
def fqData (ws : List Word) (n : Nat) : List Byte := (bytesOf (ws.drop 8)).take n

/-- PUT (R349). -/
def execPut (sp : Space) (s : State) : Ans := .next (s.fqTakeData sp 0x01 (State.fqBulk sp))

/-- GET (R349). -/
def execGet (sp : Space) (s : State) : Ans := .next (s.fqTakeData sp 0x02 (State.fqBulk sp))

/-- STORE (R349). -/
def execFabricStore (sp : Space) (s : State) : Ans :=
  .next (s.fqTakeData sp 0x03 (fun ws t => t.fqOne sp (.write (fqData ws (fqLen ws))) (fqCtr ws) ws))

/-- LOAD (R349). -/
def execFabricLoad (sp : Space) (s : State) : Ans := .next (s.fqTakeData sp 0x04 (fun ws t => t.fqOne sp (.read (fqLen ws)) none ws))

/-- RED (R350). -/
def execRed (sp : Space) (s : State) : Ans :=
  .next (s.fqTakeData sp 0x05 (fun ws t =>
    t.fqOne sp (.red (fld (wAt ws 0) 11 8 = 1) (fqRop ws) ((List.range (fqLen ws / 4)).map (fun i => wAt ws (8 + i)))) (fqCtr ws) ws))

/-- ATOMIC (R350). -/
def execAtomic (sp : Space) (s : State) : Ans :=
  .next (s.fqTakeData sp 0x07 (fun ws t =>
    let dw (i : Nat) : DWord := BitVec.ofNat 64 ((wAt ws i).toNat + 2 ^ 32 * (wAt ws (i + 1)).toNat)
    t.fqOne sp (.atomic (fqW64 ws) (fqRop ws) (dw 8) (dw 10)) none ws))

/-- Destinations of an MSTORE are issued under its one SEQ (R355). Where two of them lie on one home die, that die's duplicate window takes the second for a copy of the first (R358; DEDUCED, log entry 131). -/
def State.mstoreGo (sp : Space) (ws : List Word) (op q : Nat) : List Nat → State → State
  | [], s => s
  | h :: hs, s =>
    match s.importCode sp h 1 with
    | .ok => State.mstoreGo sp ws op q hs (s.segIssue sp op h (fqOffset ws) 0 q (.write (fqData ws (fqLen ws))) (fqCtr ws) true)
    | e => State.mstoreGo sp ws op q hs (s.updOp sp op (fun o => { o with left := o.left - 1, code := codeMin o.code e }))

/-- MSTORE (R349, R353). -/
def execMstore (sp : Space) (s : State) : Ans :=
  .next (s.fqTakeData sp 0x06 (fun ws t =>
    let (o, t1) := t.newOp sp ws (fqSegs ws) .ok
    let (q, t2) := t1.takeSeq sp
    (State.mstoreGo sp ws o.id q (fqDests ws) t2).opsCheck sp))

/-- FENCE: gathered segments of the stream are sent, and later descriptors wait (R356, R360). -/
def execFence (sp : Space) (s : State) : Ans :=
  .next (s.fqTake sp 0x08 (fun ws t =>
    let (_, t1) := t.newOp sp ws 0 .ok
    (foldS (t1.fabric.gather.filter (fun b => b.stream = sp)) (fun b u => u.gatherFlush b) t1).opsCheck sp))

/-! Control operations (R343 to R345, R348, R352, R359). -/

/-- A free number below n; which one the manual leaves open (log entry 25). -/
def State.pickFree (s : State) (used : List Nat) (n : Nat) : Option (Nat × State) :=
  let (v, t) := s.takeFree
  (((List.range (min n (used.length + 1))).map (fun i => (v + i) % n)).find? (fun k => !used.contains k)).map (fun k => (k, t))

/-- The die of a region: where its first page lies (R343, R358). -/
def State.regionDie (s : State) (r : Region) : Nat :=
  match s.placeOf (pageKeyOf (spaceIdx r.owner) (r.base / 65536)) with | some (die, _) => die | none => 0

/-- REGION_OPEN (R343). -/
def execRegionOpen (sp : Space) (s : State) : Ans :=
  .next (s.fqTake sp 0x10 (fun ws t =>
    let base := fqOffset ws
    let n := fqLen ws
    let cb := fld (wAt ws 7) 15 0
    let cn := fld (wAt ws 7) 27 16
    let ok := base % 65536 = 0 && 1 ≤ n && t.inDevice sp base (n * 65536) && cn ≤ 2048 && cb + cn ≤ 65536
      && (List.range cn).all (fun j => t.ctrHeld (t.domainOf sp) (cb + j))
    if !ok then t.fqFinish sp ws .configInvalid 0 []
    else
      match (if t.fabric.regions.length < 16384 then t.pickFree (t.fabric.regions.map (·.1)) 16384 else none) with
      | none => t.fqFinish sp ws .capacityExceeded 0 []
      | some (id, u) =>
        let r : Region := { owner := sp, base := base, pages := n, atomic := bitOf (wAt ws 1) 0, ctrBase := cb, ctrN := cn }
        ({ u with fabric := { u.fabric with regions := u.fabric.regions.set id r } }).fqFinish sp ws .ok 0 [w32 id]))

/-- GRANT (R344). -/
def execGrant (sp : Space) (s : State) : Ans :=
  .next (s.fqTake sp 0x12 (fun ws t =>
    let r := fld (wAt ws 1) 13 0
    if !t.ownsRegion sp r then t.fqFinish sp ws .keyDenied 0 []
    else
      match (if t.fabric.grants.length < 65536 then t.pickFree (t.fabric.grants.map (·.1)) 65536 else none) with
      | none => t.fqFinish sp ws .capacityExceeded 0 []
      | some (id, u) =>
        let (k, u1) := u.takeKey
        let key : DWord := k.setWidth 64
        let g : Grant := { region := r, module_ := fld (wAt ws 7) 15 0, key := key, perm := fld (wAt ws 6) 3 0 }
        ({ u1 with fabric := { u1.fabric with grants := u1.fabric.grants.set id g } }).fqFinish sp ws .ok key [w32 id]))

/-- REVOKE (R352). -/
def execRevoke (sp : Space) (s : State) : Ans :=
  .next (s.fqTake sp 0x13 (fun ws t =>
    match t.fabric.grants.find (fld (wAt ws 1) 15 0) with
    | some _ =>
      if t.ownsGrant sp (fld (wAt ws 1) 15 0) then ({ t with fabric := { t.fabric with grants := t.fabric.grants.erase (fld (wAt ws 1) 15 0) } }).fqFinish sp ws .ok 0 []
      else t.fqFinish sp ws .keyDenied 0 []
    | none => t.fqFinish sp ws .keyDenied 0 []))

/-- IMPORT (R345). -/
def execImport (sp : Space) (s : State) : Ans :=
  .next (s.fqTake sp 0x14 (fun ws t =>
    match (if t.fabric.imports.length < 65536 then t.pickFree (t.fabric.imports.map (·.1)) 65536 else none) with
    | none => t.fqFinish sp ws .capacityExceeded 0 []
    | some (h, u) =>
      let m : Import := { holder := sp, home := fld (wAt ws 7) 15 0, region := fld (wAt ws 1) 13 0, grant := fld (wAt ws 2) 15 0,
                          key := BitVec.ofNat 64 ((wAt ws 8).toNat + 2 ^ 32 * (wAt ws 9).toNat), perm := fld (wAt ws 6) 3 0, suspect := false }
      ({ u with fabric := { u.fabric with imports := u.fabric.imports.set h m } }).fqFinish sp ws .ok 0 [w32 h]))

/-- UNIMPORT (R352). -/
def execUnimport (sp : Space) (s : State) : Ans :=
  .next (s.fqTake sp 0x15 (fun ws t =>
    match t.fabric.imports.find (fqImport ws) with
    | some m => if m.holder = sp then ({ t with fabric := { t.fabric with imports := t.fabric.imports.erase (fqImport ws) } }).fqFinish sp ws .ok 0 []
                else t.fqFinish sp ws .keyDenied 0 []
    | none => t.fqFinish sp ws .keyDenied 0 []))

/-- IMPORT_CLEAR (R359). -/
def execImportClear (sp : Space) (s : State) : Ans :=
  .next (s.fqTake sp 0x16 (fun ws t =>
    match t.fabric.imports.find (fqImport ws) with
    | some m => if m.holder = sp then ({ t with fabric := { t.fabric with imports := t.fabric.imports.set (fqImport ws) { m with suspect := false } } }).fqFinish sp ws .ok 0 []
                else t.fqFinish sp ws .keyDenied 0 []
    | none => t.fqFinish sp ws .keyDenied 0 []))

/-! Queue registers (R351, R369). -/

/-- A page that takes no write (R324). -/
def State.fqDead (s : State) (sp : Space) : Bool := match sp with | .dom0 => false | .inst i => pageDead (s.inst i.val).phase

/-- FQ_DOORBELL: a write of FQ_TAIL. -/
def hostFqDoorbell (sp : Space) (v : Word) (s : State) : Ans :=
  let p := fqPage sp
  let tail := fld v 15 0
  let head := (s.fstream (spaceIdx sp)).fqHead
  let shut : Bool := match sp with | .dom0 => false | .inst i => (s.inst i.val).phase ≠ .active
  if s.fqDead sp then .next (s.bump pgMap 0 1)
  else if shut || s.ringLen p 0x400 < idxGap head tail || idxGap head tail < idxGap head (s.ringIdx p 0x400) then .next (s.bump p 1 1)
  else .next (s.setReg p 0x40C (w32 tail))

/-- FC_HEAD_WRITE. -/
def hostFcHeadWrite (sp : Space) (v : Word) (s : State) : Ans :=
  let p := fqPage sp
  let head := fld v 15 0
  let cur := s.ringIdx p 0x420
  let f := s.fstream (spaceIdx sp)
  if s.fqDead sp then .next (s.bump pgMap 0 1)
  else if idxGap cur f.fcTail < idxGap cur head then .next (s.bump p 1 1)
  else .next (State.fcDrain sp (f.fcWait.length + 1) (s.setReg p 0x42C (w32 head)))

/-! Segments given up (R359, R379). -/

/-- Imports become SUSPECT, the segments that satisfy a condition are given up, and operations they belonged to report PATH_LOST. -/
def State.giveUp (s : State) (sp : Space) (cond : Unacked → Bool) : State :=
  let k := spaceIdx sp
  let f := s.fstream k
  let gone := f.unacked.filter cond
  let s1 := { s with fabric := { s.fabric with imports := s.fabric.imports.map (fun (p : Nat × Import) =>
    if gone.any (fun u => u.import_ = p.1) then (p.1, { p.2 with suspect := true }) else p) } }
  let s2 := s1.setFstream k { f with unacked := f.unacked.filter (fun u => !cond u) }
  let tag (u : Unacked) (g : Segment) : Bool := g.src = s.modId && g.stream = k && g.seq = u.seg.seq
  let s3 := { s2 with fabric := { s2.fabric with gather :=
    (s2.fabric.gather.map (fun b => { b with segs := b.segs.filter (fun g => !gone.any (fun u => tag u g)) })).filter (fun b => !b.segs.isEmpty) } }
  foldS gone (fun u t => t.updOp sp u.op (fun o => { o with left := o.left - 1, code := codeMin o.code .pathLost })) s3

/-- The fence of a stream completes: the code with the lowest rank of this one and of those that its operations reported (R19, R356). -/
def State.fenceDone (s : State) (sp : Space) (c : Code) : State :=
  match (s.fstream (spaceIdx sp)).ops.find? (·.fence) with
  | some o => s.opDone sp { o with code := codeMin (codeMin o.code (s.fstream (spaceIdx sp)).codes) c }
  | none => s

/-- Operations whose last segment was given up complete before the fence. -/
def State.opsEnd (s : State) (sp : Space) : State :=
  foldS ((s.fstream (spaceIdx sp)).ops.filter (fun o => !o.fence && o.left = 0)) (fun o t => t.opDone sp o) s

/-- FENCE_TIMEOUT (R359, R368). -/
def execFenceTimeout (sp : Space) (s : State) : Ans :=
  let k := spaceIdx sp
  let f := s.fstream k
  let fto := 1000 * max 1 (fld (s.reg (pgCkx 32) 0x014) 19 0)
  match f.ops.find? (·.fence) with
  | none => .next s
  | some o =>
    if s.now < o.issued + fto then .next s
    else
      let us := f.unacked
      let hs := (us.map (fun u => u.import_)).eraseDups
      let s1 := ((s.giveUp sp (fun _ => true)).opsEnd sp).fenceDone sp .pathLost
      .next (foldS hs (fun h t =>
        match sp with
        | .dom0 => t
        | .inst i => t.notice i.val 0x20 .pathLost [w32 h, w32 (us.filter (fun u => u.import_ = h)).length,
            w32 (match s.fabric.imports.find h with | some m => m.home | none => (((us.filter (fun u => u.import_ = h)).head?.map (fun u => u.home)).getD 0)), 0]) s1)

/-- WINDOW_RETRY (R358): segments refused for want of a window go again. -/
def execWindowRetry (sp : Space) (s : State) : Ans :=
  let k := spaceIdx sp
  let f := s.fstream k
  let go := f.unacked.filter (·.retry)
  let s1 := go.foldl (fun (t : State) u => match u.port with
    | some p => (t.updPort p (fun x => { x with retry := satAdd x.retry 1 0xFFFF })).bump (pgCkx p) 0 1
    | none => t) s
  let (us, s2) := f.unacked.foldl (fun (acc : List Unacked × State) u =>
    if u.retry then (let (p, t) := acc.2.segSend sp u.home u.seg; (acc.1 ++ [{ u with port := p, retry := false }], t)) else (acc.1 ++ [u], acc.2)) ([], s1)
  .next (s2.setFstream k { s2.fstream k with unacked := us })

/-! What a segment is in the recorder's log (log entry 28): a kind byte, the tag, what it names, the operation. -/

def segOpBytes : SegOp → List Byte
  | .write bs => 0 :: leBytes 2 bs.length ++ bs
  | .read n => 1 :: leBytes 2 n
  | .red fp rop es => 2 :: leBytes 2 es.length ++ [BitVec.ofNat 8 (b1 fp + 2 * rop)] ++ bytesOf es
  | .atomic w rop a c => 3 :: leBytes 2 0 ++ [BitVec.ofNat 8 (b1 w + 2 * rop)] ++ leBytes 8 a.toNat ++ leBytes 8 c.toNat

def segBytes (x : Segment) : List Byte :=
  0 :: leBytes 2 x.src ++ leBytes 2 x.stream ++ leBytes 3 x.seq ++ leBytes 2 x.region ++ leBytes 2 x.grant ++ leBytes 8 x.key.toNat
    ++ leBytes 8 x.offset ++ [BitVec.ofNat 8 (b1 x.mstore + 2 * b1 x.late)] ++ leBytes 2 (x.ctr.getD 0xFFFF) ++ leBytes 3 x.tag ++ segOpBytes x.op

/-- A segment read back from the log. -/
def segOfBytes (bs : List Byte) : Segment :=
  let n (at_ len : Nat) : Nat := leNat ((bs.drop at_).take len)
  let rest := bs.drop 34
  let cnt := leNat ((rest.drop 1).take 2)
  let m := (rest.getD 3 0).toNat
  { src := n 1 2, stream := n 3 2, seq := n 5 3, region := n 8 2, grant := n 10 2, key := BitVec.ofNat 64 (n 12 8), offset := n 20 8,
    mstore := n 28 1 % 2 = 1, late := n 28 1 / 2 % 2 = 1, tag := n 31 3, ctr := if n 29 2 = 0xFFFF then none else some (n 29 2),
    op := match (rest.getD 0 0).toNat with
      | 0 => .write ((rest.drop 3).take cnt)
      | 1 => .read cnt
      | 2 => .red (m % 2 = 1) (m / 2) (wordsOf cnt (rest.drop 4))
      | _ => .atomic (m % 2 = 1) (m / 2) (BitVec.ofNat 64 (leNat ((rest.drop 4).take 8))) (BitVec.ofNat 64 (leNat ((rest.drop 12).take 8))) }

/-! The home (R346, R350, R354, R358, R362, R416). -/

/-- Bytes of a segment's extent. -/
def segLen : SegOp → Nat
  | .write bs => bs.length
  | .read n => n
  | .red _ _ es => 4 * es.length
  | .atomic w _ _ _ => if w then 8 else 4

/-- The home's checks (R346, R349, R354). -/
def State.homeCode (s : State) (x : Segment) : Code :=
  let revoked := s.lv.revoke.any (fun r => r.module_ = x.src)
  let isRed : Bool := match x.op with | .red _ _ _ => true | _ => false
  let isAtomic : Bool := match x.op with | .atomic _ _ _ _ => true | _ => false
  if revoked then .fencedOut else
  match s.fabric.grants.find x.grant, s.fabric.regions.find x.region with
  | some g, some r =>
    if g.module_ ≠ x.src || g.region ≠ x.region || g.key ≠ x.key then .keyDenied
    else if g.perm / 2 ^ opPerm x.op % 2 = 0 || (r.atomic && (isRed || x.mstore)) || (!r.atomic && isAtomic)
        || r.pages * 65536 < x.offset + segLen x.op || (match x.ctr with | some c => r.ctrN ≤ c | none => false) then .configInvalid
    else .ok
  | _, _ => .keyDenied

/-- An element of an exact entry as it opens (R416). -/
def exactOpen (w : Word) : ExactElem :=
  match ofFp32 w with
  | .nan => { sum := 0, nan := true, pinf := false, ninf := false, negz := false }
  | .inf sg => { sum := 0, nan := false, pinf := !sg, ninf := sg, negz := false }
  | .fin sg m e => { sum := finUnits sg m e (-149), nan := false, pinf := false, ninf := false, negz := sg && m = 0 }

/-- A term is added exactly. -/
def ExactElem.add (x : ExactElem) (w : Word) : ExactElem :=
  let y := exactOpen w
  { sum := x.sum + y.sum, nan := x.nan || y.nan, pinf := x.pinf || y.pinf, ninf := x.ninf || y.ninf, negz := x.negz && y.negz }

/-- What memory holds of it (R416). -/
def ExactElem.val (x : ExactElem) : Word :=
  if x.nan || (x.pinf && x.ninf) then w32 (nanBits fp32)
  else if x.pinf then 0x7F800000 else if x.ninf then 0xFF800000
  else if x.sum = 0 then (if x.negz then 0x80000000 else 0)
  else w32 (encodeFp fp32 .nearest false (numOfInt x.sum (-149))).1

/-- Canopy lines of a domain leave, at most n, until one more entry of exact reduction fits (R301, R417). -/
def State.yieldLines (d die : Nat) : Nat → State → State
  | 0, s => s
  | n + 1, s =>
    let lines := s.mems.canopy.filter (fun c => c.die = die && c.domain = d)
    let held := ((s.agent die).exact.filter (fun e => e.domain = d)).length
    if lines.length + 10 * (held + 1) ≤ s.waysOf d die * 24576 then s
    else
      match victimOf lines with
      | none => s
      | some v =>
        let t := { s with mems := { s.mems with canopy := s.mems.canopy.filter (fun x => !x.isAt v.page v.line) } }
        State.yieldLines d die n (if v.dirty then t.heatUp v.page else t)

/-- FP32 RED ADD to one line through its exact-reduction entry, which opens where there is none (R416, R417). -/
def State.exactAdd (s : State) (die : Nat) (sp : Space) (va : Nat) (es : List Word) : State :=
  let k := spaceIdx sp
  let d := s.domainOf sp
  let line := va / 128
  let key := devKey k va / 128
  let held := wordsOf 32 (s.peek sp (line * 128) 128)
  let (e, s) : ExactEntry × State := match (s.agent die).exact.find? (fun x => x.key = key) with
    | some e => (e, s)
    | none => ({ key := key, domain := d, elems := held.map exactOpen }, State.yieldLines d die 10 s)
  let at_ := va % 128 / 4
  let elems := (List.range 32).map (fun i =>
    let x := e.elems.getD i (exactOpen 0)
    if at_ ≤ i && i < at_ + es.length then x.add (wAt es (i - at_)) else x)
  let s1 := s.putDev sp (line * 128) (bytesOf (elems.map ExactElem.val))
  let a := s1.agent die
  (s1.setAgent die { a with exact := { e with elems := elems } :: a.exact.filter (fun x => x.key ≠ key) }).exactPressure d die

/-- A RED is applied element by element (R350); what it reads must be readable. -/
def State.redPlain (s : State) (sp : Space) (va : Nat) (fp : Bool) (rop : Nat) (es : List Word) : Code × State :=
  match s.loadDev sp va (4 * es.length) with
  | (.ok, bs, t) => t.storeDev sp va (bytesOf (List.zipWith (redElem fp rop) (wordsOf es.length bs) es))
  | (c, _, t) => (c, t)

/-- The elements of a RED, line by line: (address, elements). -/
def redLines (va : Nat) (es : List Word) : List (Nat × List Word) :=
  let first := min es.length ((128 - va % 128) / 4)
  if es.length ≤ first then [(va, es)] else [(va, es.take first), (va + 4 * first, es.drop first)]

/-- A RED at its home. -/
def State.redAt (s : State) (die : Nat) (sp : Space) (va : Nat) (fp : Bool) (rop : Nat) (es : List Word) : Code × State :=
  if es.isEmpty then (.ok, s)
  else if fp && rop = 0 && s.repro then
    if s.waysOf (s.domainOf sp) die = 0 then
      let (c, t) := s.redPlain sp va fp rop es
      (c, (t.bump (pgCkx (16 + die)) 1 1).pulse (pgCkx (16 + die)) 4)
    else
      match s.loadDev sp va (4 * es.length) with
      | (.ok, _, t) => (.ok, foldS (redLines va es) (fun p u => u.exactAdd die sp p.1 p.2) t)
      | (c, _, t) => (c, t)
  else s.redPlain sp va fp rop es

/-- An ATOMIC at its home: the old value (R350). -/
def State.atomicAt (s : State) (sp : Space) (va : Nat) (w64 : Bool) (rop : Nat) (a c : DWord) : Code × List Byte × State :=
  let n := if w64 then 8 else 4
  match s.loadDev sp va n with
  | (.ok, bs, t) =>
    let b := 8 * n
    let old := leNat bs
    let x := a.toNat % 2 ^ b
    let new := match rop with
      | 0 => (old + x) % 2 ^ b
      | 1 => if signed b x < signed b old then x else old
      | 2 => if signed b old < signed b x then x else old
      | _ => if old = c.toNat % 2 ^ b then x else old
    let (e, u) := t.storeDev sp va (leBytes n new)
    (e, leBytes 8 old, u)
  | (e, _, t) => (e, [], t)

/-- Keys of the 128-byte lines that a segment touches at its home. -/
def segLines (r : Region) (x : Segment) : List Nat :=
  let va := r.base + x.offset
  let n := segLen x.op
  if n = 0 then [] else (List.range ((va + n - 1) / 128 + 1 - va / 128)).map (fun i => devKey (spaceIdx r.owner) va / 128 + i)

def hotThr (w : Word) : Nat := max 1 (fld w 7 0)

/-- A line of an agent's list takes a new form. -/
def Agent.setHot (a : Agent) (h : HotLine) : Agent := { a with hot := h :: a.hot.filter (fun x => x.key ≠ h.key) }

/-- An operation is counted for its line: with more than THR within 1 µs the line enters the combining buffer; with all 32 entries in use, a line that turns hot is counted in HOT_FULL (R362). A line that is not in the buffer is forgotten 1 µs after its last operation. -/
def State.hotCount (s : State) (die key : Nat) : State :=
  let thr := hotThr (s.inForce (pgCkx (16 + die)) 0x0C0)
  let late (d : Nat) (h : HotLine) : List Nat := h.times.filter (fun t => s.now < t + d)
  let a := s.agent die
  let a := { a with hot := a.hot.filter (fun h => h.buf.isSome || h.key = key || !(late 1000 h).isEmpty) }
  let h := (a.hot.find? (fun h => h.key = key)).getD { key := key, times := [], buf := none }
  if h.buf.isSome then s.setAgent die (a.setHot { h with times := s.now :: late 4000 h })
  else
    let before := (late 1000 h).length
    let h1 := { h with times := s.now :: late 1000 h }
    if before + 1 ≤ thr then s.setAgent die (a.setHot h1)
    else if (s.home (key / 512)).tier ≠ .t2 then s.setAgent die (a.setHot h1)
    else if (a.hot.filter (·.buf.isSome)).length < 32 then s.setAgent die (a.setHot { h1 with buf := some s.now })
    else
      let t := s.setAgent die (a.setHot h1)
      if before ≤ thr then t.bump (pgCkx (16 + die)) 0 1 else t

/-- HOT_LINE_COOL: where fewer than THR / 4 operations reached the line in the last 4 µs, it leaves the buffer (R362). -/
def execHotLineCool (d : DieId) (key : Nat) (s : State) : Ans :=
  let thr := hotThr (s.inForce (pgCkx (16 + d.val)) 0x0C0)
  let a := s.agent d.val
  match a.hot.find? (fun h => h.key = key) with
  | none => .next s
  | some h =>
    match h.buf with
    | none => .next s
    | some t0 =>
      if s.now < t0 + 4000 || thr ≤ 4 * (h.times.filter (fun t => s.now < t + 4000)).length || (a.queue ++ a.outside).any (fun q => (segLines q.2 q.1).contains key) then .next s
      else .next (s.setAgent d.val { a with hot := a.hot.filter (fun x => x.key ≠ key) })

/-- What the window says of a SEQ (R358): none, no window is free; some true, it is new. -/
def State.windowTake (s : State) (die src stream seq : Nat) : Option (Bool × State) :=
  let a := s.agent die
  match a.wins.find? (fun w => w.src = src && w.stream = stream) with
  | none =>
    if 4096 ≤ a.wins.length then none
    else some (true, s.setAgent die { a with wins := { src := src, stream := stream, base := (seq + 2 ^ 24 - 1023) % 2 ^ 24, bits := [1023], lastAt := s.now } :: a.wins })
  | some w =>
    let rel := (seq + 2 ^ 24 - w.base) % 2 ^ 24
    let rest := a.wins.filter (fun y => !(y.src = src && y.stream = stream))
    if rel < 1024 then
      if w.bits.contains rel then some (false, s.setAgent die { a with wins := { w with lastAt := s.now } :: rest })
      else some (true, s.setAgent die { a with wins := { w with bits := rel :: w.bits, lastAt := s.now } :: rest })
    else if 2 ^ 23 ≤ rel then some (false, s.setAgent die { a with wins := { w with lastAt := s.now } :: rest })
    else
      let by_ := rel - 1023
      some (true, s.setAgent die { a with wins := { w with base := (w.base + by_) % 2 ^ 24, bits := 1023 :: (w.bits.filter (by_ ≤ ·)).map (· - by_), lastAt := s.now } :: rest })

/-- The pair of a segment has sent something: its windows live on, whatever becomes of the segment (R358). -/
def State.windowTouch (s : State) (x : Segment) : State :=
  { s with fabric := { s.fabric with agents := s.fabric.agents.map (fun p =>
      (p.1, { p.2 with wins := p.2.wins.map (fun w => if w.src = x.src && w.stream = x.stream then { w with lastAt := s.now } else w) })) } }

/-- DUPLICATE_WINDOW_EXPIRE (R358). -/
def execDuplicateWindowExpire (d : DieId) (src stream : Fin 65536) (s : State) : Ans :=
  let fto := 1000 * max 1 (fld (s.reg (pgCkx 32) 0x014) 19 0)
  let a := s.agent d.val
  .next (s.setAgent d.val { a with wins := a.wins.filter (fun w => !(w.src = src.val && w.stream = stream.val && w.lastAt + 2 * fto ≤ s.now)) })

/-- An answer of the home. -/
def mkAck (home : Nat) (x : Segment) (c : Code) (retry : Bool) (data : List Byte) : SegAck :=
  { home := home, stream := spaceOf x.stream, seq := x.seq, status := BitVec.ofNat 8 (codeVal c), retry := retry, data := data, dest := x.src }

/-- A segment counts for each of its lines (R362). -/
def State.hotCounts (s : State) (r : Region) (x : Segment) : State := foldS (segLines r x) (fun key t => t.hotCount (s.regionDie r) key) s

/-- A segment's effect on memory and counters: code and data (R350, R354). -/
def State.segDo (s : State) (r : Region) (x : Segment) : Code × List Byte × State :=
  let va := r.base + x.offset
  let die := s.regionDie r
  let (c, data, s1) := match x.op with
    | .write bs => (let (c, t) := s.storeDev r.owner va bs; (c, ([] : List Byte), t))
    | .read m => s.loadDev r.owner va m
    | .red fp rop es => (let (c, t) := s.redAt die r.owner va fp rop es; (c, ([] : List Byte), t))
    | .atomic w rop a k => s.atomicAt r.owner va w rop a k
  if c = .ok then
    (match x.ctr with | some j => (c, data, s1.raiseCtr die (r.ctrBase + j) 1) | none => (c, data, s1))
  else (c, [], s1)

/-- A segment that passed the checks is applied: code and data (R346, R350, R354, R362). -/
def State.segApply (s : State) (r : Region) (x : Segment) : Code × List Byte × State := (s.hotCounts r x).segDo r x

/-- A segment that passed the checks is held against its window, applied by apply and logged; the answer (R358, R422). A duplicate read is answered with the data as they stand; the old value of a duplicate ATOMIC the manual leaves open. -/
def State.segServe (s : State) (r : Region) (x : Segment) (apply : State → Code × List Byte × State) : SegAck × State :=
  match s.windowTake (s.regionDie r) x.src x.stream x.seq with
  | none => (mkAck s.modId x .ok true [], s)
  | some (true, t) =>
    let (c, data, u) := apply (t.recLog 3 0x07 (s.regionDie r) x.src (segBytes x))
    (mkAck s.modId x c false data, u)
  | some (false, t) =>
    match x.op with
    | .read n => (let (c, data, u) := t.loadDev r.owner (r.base + x.offset) n; (mkAck s.modId x c false data, u))
    | .atomic _ _ _ _ => (let (v, u) := t.takeFree; (mkAck s.modId x .ok false (leBytes 8 v), u))
    | _ => (mkAck s.modId x .ok false [], t)

/-- A segment is checked and applied at once; the answer (R346). -/
def State.segNow (s : State) (x : Segment) : SegAck × State :=
  match s.homeCode x, s.fabric.regions.find x.region with
  | .ok, some r => s.segServe r x (fun t => t.segApply r x)
  | c, _ => (mkAck s.modId x c false [], s.windowTouch x)

/-- An answer leaves for the source, to another stage through the gateway of the port (R342). -/
def State.ackSend (s : State) (src stream : Nat) (a : SegAck) : State :=
  match s.pathPort src stream with
  | some p => s.linkSend (if s.sameStage src then p else (s.route (p / 3) (src / 256)).getD p) (.ack a)
  | none => s

/-! The combining buffer (R362, R363). -/

/-- The line is in the combining buffer. -/
def Agent.buffered (a : Agent) (key : Nat) : Bool := a.hot.any (fun h => h.buf.isSome && h.key = key)

/-- The line at which a queued operation takes its turn: the first of its lines that is in the buffer (DEDUCED, log entry 68). -/
def Agent.lineOf (a : Agent) (q : Segment × Region) : Nat :=
  let ks := segLines q.2 q.1
  (ks.find? a.buffered).getD (ks.getD 0 0)

/-- A segment queues where a line of its own is in the buffer, or is touched by an operation that is queued: an order on that line holds for both. -/
def Agent.queues (a : Agent) (r : Region) (x : Segment) : Bool :=
  (segLines r x).any (fun k => a.buffered k || (a.queue ++ a.outside).any (fun q => (segLines q.2 q.1).contains k))

/-- Queued operations with no older one of their own source on a line that they touch: a source's operations keep their issue order (R363). -/
def oldestOf : List (Segment × Region) → List (Segment × Region) → List (Segment × Region)
  | _, [] => []
  | before, q :: t =>
    let clear := before.all (fun p => p.1.src ≠ q.1.src || (segLines p.2 p.1).all (fun k => !(segLines q.2 q.1).contains k))
    if clear then q :: oldestOf (before ++ [q]) t else oldestOf (before ++ [q]) t

/-- The operation that a line takes next: sources go round by module ID, with at most cred operations each in a round (R363). -/
def Agent.nextAt (a : Agent) (cred key : Nat) : Option (Segment × Region) :=
  let qs := (oldestOf [] a.queue).filter (fun q => a.lineOf q = key)
  let (turn, took) := match a.hot.find? (fun h => h.key = key) with | some h => (h.turn, h.took) | none => (0, cred)
  match (if took < cred then qs.find? (fun q => q.1.src = turn) else none) with
  | some q => some q
  | none =>
    let gap (q : Segment × Region) : Nat := (q.1.src + 65535 - turn) % 65536
    qs.foldl (fun best q => match best with | some b => if gap q < gap b then some q else best | none => some q) none

/-- Queued operations of a source that a line takes in a round: CKX_HOT.CRED, 1 to 8 (R363, R369). -/
def hotCred (w : Word) : Nat := max 1 (min 8 (fld w 11 8))

/-- The operation's line has a credit of its source, and no older operation of the source that shares a line with it waits for one (R363). -/
def Agent.credit (a : Agent) (cred : Nat) (older : List (Segment × Region)) (q : Segment × Region) : Bool :=
  (a.queue.filter (fun p => p.1.src = q.1.src && a.lineOf p = a.lineOf q)).length < cred
  && !older.any (fun p => p.1.src = q.1.src && (segLines p.2 p.1).any (fun k => (segLines q.2 q.1).contains k))

/-- An operation queues at its line, or waits at its source's port for a credit (R363). -/
def State.hotEnter (s : State) (die : Nat) (q : Segment × Region) : State :=
  let a := s.agent die
  if a.credit (hotCred (s.inForce (pgCkx (16 + die)) 0x0C0)) a.outside q then s.setAgent die { a with queue := a.queue ++ [q] }
  else s.setAgent die { a with outside := a.outside ++ [q] }

/-- A credit has returned: operations that waited for one reach the home, in their order, where they are checked as on arrival (R346, R363). -/
def State.hotAdmit (s : State) (die : Nat) : State :=
  foldS (s.agent die).outside (fun q t =>
    let a := t.agent die
    if a.credit (hotCred (t.inForce (pgCkx (16 + die)) 0x0C0)) (a.outside.takeWhile (· ≠ q)) q then
      let u := t.setAgent die { a with outside := a.outside.erase q }
      let c := if u.fabric.regions.find q.1.region = some q.2 then u.homeCode q.1 else .keyDenied
      if c = .ok then u.setAgent die { u.agent die with queue := (u.agent die).queue ++ [q] }
      else u.ackSend q.1.src q.1.stream (mkAck u.modId q.1 c false [])
    else t) s

/-- The extent that a segment touches at its home. -/
def segExtent (r : Region) (x : Segment) : Space × Nat × Nat × Bool :=
  (r.owner, r.base + x.offset, segLen x.op, match x.op with | .read _ => false | _ => true)

/-- A line applies one queued operation and answers it; one whose region has closed is refused (R346, R363). -/
def State.hotStep (s : State) (die key : Nat) : State :=
  let a := s.agent die
  match a.nextAt (hotCred (s.inForce (pgCkx (16 + die)) 0x0C0)) key with
  | none => s
  | some (x, r) =>
    match s.unitWait (.seg x) x.tag [segExtent r x] with
    | some t => t
    | none =>
    let cred := hotCred (s.inForce (pgCkx (16 + die)) 0x0C0)
    let turned (h : HotLine) : HotLine := if h.key ≠ key then h else { h with turn := x.src, took := if h.turn = x.src && h.took < cred then h.took + 1 else 1 }
    let s1 := s.setAgent die { a with queue := a.queue.erase (x, r), hot := a.hot.map turned }
    let (ack, t) := if s1.fabric.regions.find x.region = some r then s1.segServe r x (fun u => u.segDo r x)
      else (mkAck s1.modId x .keyDenied false [], s1)
    (t.ackSend x.src x.stream ack).hotAdmit die

/-- An FP32 RED ADD (R350). -/
def isFpAdd (op : SegOp) : Bool := match op with | .red fp rop _ => fp && rop = 0 | _ => false

/-- The buffer of a die applies one operation, at the line of the oldest one (R363; DEDUCED, log entry 68); in reproducible mode an FP32 RED ADD takes two clocks (R419). -/
def State.hotClock (s : State) (die : Nat) : State :=
  let a := s.agent die
  match a.queue with
  | [] => s
  | q :: _ => if s.repro && isFpAdd q.1.op && s.ac % 2 = 1 then s else s.hotStep die (a.lineOf q)

/-- One arithmetic clock of the combining buffers (R363). -/
def State.hotTick (s : State) : State :=
  foldS ((s.fabric.agents.filter (fun p => !p.2.queue.isEmpty)).map (·.1)) (fun die t => t.hotClock die) s

/-- Operations of the buffer are applied, at most n, until a region has none there (R348). -/
def State.hotDrain (die : Nat) (r : Region) : Nat → State → State
  | 0, s => s
  | n + 1, s =>
    match (s.agent die).queue with
    | q :: _ => if (s.agent die).queue.any (fun p => p.2 = r) then State.hotDrain die r n (s.hotStep die ((s.agent die).lineOf q)) else s
    | [] => s

/-- REGION_CLOSE: it completes when no operation of the region is left in the combining buffer (R348, R417). -/
def execRegionClose (sp : Space) (s : State) : Ans :=
  .next (s.fqTake sp 0x11 (fun ws t =>
    let r := fld (wAt ws 1) 13 0
    if !t.ownsRegion sp r then t.fqFinish sp ws .keyDenied 0 []
    else
      match t.fabric.regions.find r with
      | none => t
      | some x =>
        let t0 := { t with fabric := { t.fabric with grants := t.fabric.grants.filter (fun g => g.2.region ≠ r) } }
        let die := t0.regionDie x
        let t1 := (State.hotDrain die x ((t0.agent die).queue.length + (t0.agent die).outside.length) t0).endExact (spaceIdx sp) x.base (x.pages * 65536)
        ({ t1 with fabric := { t1.fabric with regions := t1.fabric.regions.erase r } }).fqFinish sp ws .ok 0 []))

/-- Queued operations of a module that is revoked are discarded and answered FENCED_OUT (R347). -/
def State.hotDiscard (s : State) (m : Nat) : State :=
  foldS s.fabric.agents (fun p t =>
    foldS ((p.2.queue ++ p.2.outside).filter (fun q => q.1.src = m)) (fun q u => u.ackSend q.1.src q.1.stream (mkAck u.modId q.1 .fencedOut false []))
      (t.setAgent p.1 { p.2 with queue := p.2.queue.filter (fun q => q.1.src ≠ m), outside := p.2.outside.filter (fun q => q.1.src ≠ m) })) s

/-- The port by which a segment came in (DEDUCED, log entry 19: the one that its source's stream hashes to; 0 where there is none). -/
def State.segPort (s : State) (x : Segment) : Nat := (s.pathPort x.src x.stream).getD 0

/-- A segment at its home: refused, applied, or queued at a line of the combining buffer (R346, R363). It waits on a tier as any access does (R276, R295), and crosses the points from its port's die to the home (R27). -/
def State.segHome (s : State) (x : Segment) : State :=
  let s := s.windowTouch x
  match s.homeCode x, s.fabric.regions.find x.region with
  | .ok, some r =>
    let die := s.regionDie r
    (match s.unitWait (.seg x) x.tag [segExtent r x] with
     | some t => t
     | none =>
       let p := s.segPort x
       match s.portAsks { who := ckxReq p, work := .seg x, tag := x.tag, late := x.late } (s.domainOf r.owner)
           (s.accPoints (pageDie (pgCkx p)) r.owner (r.base + x.offset) (segLen x.op)) with
       | (false, t) => t
       | (true, s) =>
         if (s.agent die).queues r x then (s.hotCounts r x).hotEnter die (x, r)
         else
           let (a, t) := s.segServe r x (fun t => t.segApply r x)
           t.ackSend x.src x.stream a)
  | c, _ => s.ackSend x.src x.stream (mkAck s.modId x c false [])

/-- A segment reaches this module: a module that has fenced itself and not been re-admitted discards it; a live one of a replayed class is discarded and counted (R378, R427). -/
def State.segArrive (s : State) (x : Segment) : State :=
  if s.lv.cut || !s.modValid then s
  else if s.replayed 3 then s.liveDrop
  else s.segHome x

/-- SEGMENT_ARRIVE. -/
def execSegmentArrive (x : Segment) (s : State) : Ans := .next (s.segArrive x)

/-! Acknowledgements at the source (R354 to R356). -/

/-- The bytes a source asked for, out of a widened answer (R360). -/
def State.ackData (s : State) (u : Unacked) (a : SegAck) : List Byte :=
  match u.seg.op with
  | .read n => if s.sameStage u.home || widened u.seg = u.seg then a.data.take n else (a.data.drop (u.seg.offset % 512)).take n
  | _ => a.data

/-- The data of a GET waits for the page that it is to land in (R276, R295). -/
def State.ackWait (s : State) (a : SegAck) (u : Unacked) : Option State :=
  match (s.fstream (spaceIdx a.stream)).ops.find? (fun o => o.id = u.op) with
  | some o =>
    if o.opc = 0x02 && codeOf a.status.toNat = .ok && !a.retry && !s.squashes a.stream && !s.replayed 3 then
      s.unitWait (.ack a) o.tag [(a.stream, u.lva, (s.ackData u a).length, true)] else none
  | none => none

/-- A segment is acknowledged. -/
def State.segAcked (s : State) (a : SegAck) : State :=
  let sp := a.stream
  let k := spaceIdx sp
  let f := s.fstream k
  match f.unacked.find? (fun u => u.seg.seq = a.seq && u.home = a.home) with
  | none => s
  | some u =>
    match s.ackWait a u with
    | some t => t
    | none =>
    -- responses for an instance that is being squashed are discarded by tag (R326)
    if s.squashes sp then s.setFstream k { f with unacked := f.unacked.erase u }
    else if a.retry then s.setFstream k { f with unacked := f.unacked.map (fun y => if y.seg.seq = a.seq && y.home = a.home then { y with retry := true } else y) }
    else
      let c0 := codeOf a.status.toNat
      let data := s.ackData u a
      let s1 := s.setFstream k { f with unacked := f.unacked.erase u }
      match f.ops.find? (fun o => o.id = u.op) with
      | none => State.fqIssue sp 1026 s1
      | some o =>
        let (c, s2) := if o.opc = 0x02 && c0 = .ok then
            (if s1.replayed 3 then (.ok, s1.liveDrop) else
             let (e, t) := s1.storeDev sp u.lva data
             if e = .ok then
               let t1 := t.recLog 3 0x07 0 u.home (1 :: leBytes 2 k ++ leBytes 2 (o.lctr.getD 0xFFFF) ++ leBytes 8 u.lva ++ data)
               (e, match o.lctr with
                 | some j => t1.raiseCtr ((t1.mailDie (t1.domainOf sp)).getD 0) j 1
                 | none => t1)
             else (e, t))
          else (c0, s1)
        let o1 (x : FabOp) : FabOp := { x with left := x.left - 1, code := codeMin x.code c,
                                               data := if x.opc = 0x04 && c = .ok then data else x.data,
                                               result := if x.opc = 0x07 && c = .ok then BitVec.ofNat 64 (leNat data) else x.result }
        (State.fqIssue sp 1026 (s2.updOp sp o.id o1)).opsCheck sp

/-- SEGMENT_ACK. -/
def execSegmentAck (a : SegAck) (s : State) : Ans := .next (if s.lv.cut then s else s.segAcked a)

/-! Bulk transfers (R360, R361). -/

/-- GATHER_TIMEOUT: buffers of gateway g whose time has come are sent. -/
def execGatherTimeout (g : LndId) (s : State) : Ans :=
  let t := 1000 * max 1 (fld (s.reg (pgLnd g.val) 0x010) 7 0)
  .next (foldS (s.fabric.gather.filter (fun b => b.gw = g.val && b.since + t ≤ s.now)) (fun b u => u.gatherFlush b) s)

/-- Every tag of a transfer is answered with PATH_LOST. -/
def State.bulkLost (s : State) (b : BulkTransfer) : State :=
  foldS (bulkJoin b.segs) (fun x t => t.ackSend x.src x.stream (mkAck b.dest x .pathLost false [])) s

/-- A bulk transfer at gateway g: unpacked at its home, dropped as a loop, or forwarded. -/
def State.bulkArrive (s : State) (g : Nat) (b : BulkTransfer) : State :=
  if s.lv.cut || !s.modValid then s
  else if b.dest = s.modId then foldS (bulkJoin b.segs) (fun x t => t.segArrive x) s
  else if b.crossed.contains (gwName s.modId g) || 4 ≤ b.crossed.length then (s.bulkLost b).pulse (pgLnd g) 0
  else if s.sameStage b.dest then
    match s.pathPort b.dest ((b.segs.head?.map (fun x => x.stream)).getD 4096) with
    | some p => s.linkSend p (.bulk { b with crossed := b.crossed ++ [gwName s.modId g] })
    | none => s.bulkLost b
  else
    match s.route g (b.dest / 256) with
    | some _ => s.bulkSend g b.dest b.crossed b.segs
    | none => s.bulkLost b

/-- BULK_TRANSFER_ARRIVE. -/
def execBulkTransferArrive (g : LndId) (b : BulkTransfer) (s : State) : Ans := .next (s.bulkArrive g.val b)

/-! Packets received (R364). -/

/-- What a good packet carries reaches its engine, an answer to another module's segment the way to that module (R342); liveness messages have commands of their own. -/
def State.linkDeliver (s : State) (p : Nat) (body : LinkPayload) : State :=
  match body with
  | .seg x => s.segArrive x
  | .ack a => if a.dest = s.modId then s.segAcked a else s.ackSend a.dest (spaceIdx a.stream) a
  | .bulk b => s.bulkArrive (p / 3) b
  | .liveness _ | .linkAck _ | .linkNak _ => s

/-- A data packet of a link (R378). -/
def isData : LinkPayload → Bool
  | .seg _ | .ack _ | .bulk _ => true
  | .liveness _ | .linkAck _ | .linkNak _ => false

/-- LINK_PACKET_RECEIVE (R364): nothing is carried before the module has its ID, and a module that has fenced itself discards data packets without acknowledgement (R341, R378). -/
def execLinkPacketReceive (p : CkxPort) (k : LinkPacket) (s : State) : Ans :=
  let x := s.port p.val
  if x.state ≠ .up || !s.modValid then .next s else
  let s := s.chkCkx p.val false (payloadStream k.body)
  if s.lv.cut && isData k.body then .next s
  else if !k.crcOk then .next (s.linkAck p.val x.rxSeq false)
  else
    match k.body with
    | .linkAck n =>
      let left := x.sent.filter (fun y => (n + 2 ^ 24 - y.seq) % 2 ^ 24 ≥ 2 ^ 23)
      .next (State.linkDrain p.val x.txWait.length (s.setPort p.val { x with sent := left, tries := if left.any (fun y => y.seq = x.tryOf) then x.tries else 0 }))
    | .linkNak n => .next (s.linkRetry p.val (x.sent.filter (fun y => (y.seq + 2 ^ 24 - n) % 2 ^ 24 < 2 ^ 23)))
    | body =>
      if k.seq = x.rxSeq then .next (((s.setPort p.val { x with rxSeq := (x.rxSeq + 1) % 2 ^ 24 }).linkAck p.val k.seq true).linkDeliver p.val body)
      else if (x.rxSeq + 2 ^ 24 - k.seq) % 2 ^ 24 < 2 ^ 23 then .next (s.linkAck p.val k.seq true)
      else .next (s.linkAck p.val x.rxSeq false)

/-! Revocation (R347). -/

/-- The module is in the revoke list by this verdict or a later one: copies of one verdict carry one epoch (R376). -/
def LvSt.heardOf (l : LvSt) (m before : Nat) : Bool := l.revoke.any (fun r => r.module_ = m && before ≤ r.epoch)

/-- A snag enters the revoke list, anew on a later verdict; when it is full, the oldest entry that is swept leaves. -/
def State.revokeEnter (s : State) (m before : Nat) : State :=
  let l := s.lv
  if l.heardOf m before then s
  else
    let old := l.revoke.filter (fun r => r.module_ ≠ m)
    let list := if old.length < 256 then old else
      match old.find? (·.swept) with
      | some r => old.filter (· ≠ r)
      | none => old
    (s.setLv { l with revoke := list ++ [{ module_ := m, swept := false, epoch := before }] }).hotDiscard m

/-- GRANT_SWEEP_COMPLETE: grants that name the snag are cleared and their owners told (R347, R368). -/
def execGrantSweepComplete (m : Fin 65536) (s : State) : Ans :=
  let l := s.lv
  if !l.revoke.any (fun r => r.module_ = m.val && !r.swept) then .next s
  else
    let gs := s.fabric.grants.filter (fun g => g.2.module_ = m.val)
    let s1 := s.setLv { l with revoke := l.revoke.map (fun r => if r.module_ = m.val then { r with swept := true } else r) }
    let s2 := { s1 with fabric := { s1.fabric with grants := s1.fabric.grants.filter (fun g => g.2.module_ ≠ m.val) } }
    .next (foldS gs (fun g t =>
      match s.fabric.regions.find g.2.region with
      | some r => (match r.owner with | .inst i => t.notice i.val 0x21 .fencedOut [w32 g.1, w32 m.val, w32 g.2.region, 0] | .dom0 => t)
      | none => t) s2)

end Sys2Proof.Machine
end

