-- ==== Sys2Proof/Machine/Liveness.lean ====
section
/-! DEFINITION. Liveness groups, verdicts and fencing, mirrors and takeover, re-admission, erasure-coded shards (14). -/

namespace Sys2Proof.Machine

def pgLv : Page := pgCkx 32

/-! Configuration (R372, R373). -/

/-- PERIOD, TMISS in µs and SHADOWN in force, held in range (R373). -/
def State.lvPeriod (s : State) : Nat := max 50 (min 500 (fld (s.inForce pgLv 0x0C8) 8 0))
def State.lvTmiss (s : State) : Nat := max (2 * s.lvPeriod) (min 2900 (fld (s.inForce pgLv 0x0C8) 20 9))
def State.lvShadown (s : State) : Nat := max 8 (fld (s.inForce pgLv 0x0C8) 28 21)

/-- The round under way (R373). -/
def State.lvRound (s : State) : Nat := s.now / (1000 * s.lvPeriod)

/-- This module's position. -/
def State.myPos (s : State) : Nat := s.modId % 256

/-- Configured positions (R372, R392). -/
def State.configured (s : State) : List Nat := (List.range 256).filter (fun j => bitOf (s.reg pgLv (0x200 + 4 * (j / 32))) (j % 32))

def LvSt.posState (l : LvSt) (j : Nat) : PosState := l.posn.get .none j
def LvSt.members (l : LvSt) : List Nat := (l.posn.filter (fun p => p.2 = .member)).map (·.1)

/-- N (R372). -/
def LvSt.n (l : LvSt) : Nat := l.members.length

/-- The code of a position state (R372). -/
def posCode : PosState → Nat
  | .none => 0 | .member => 1 | .snag => 2 | .joining => 3 | .shadow => 4

def posOf : Nat → PosState
  | 1 => .member | 2 => .snag | 3 => .joining | 4 => .shadow | _ => .none

/-- Codes of the member table. -/
def LvSt.table (l : LvSt) : List Nat := (List.range 256).map (fun j => posCode (l.posState j))

/-- A digest of the view (R389). -/
def LvSt.digest (l : LvSt) : Word := w32 (crc32 (l.table.map (BitVec.ofNat 8) ++ leBytes 4 l.epoch))

/-- DEGRADED stands in a member of a group with fewer than three (R372); FENCED while fenced (R392). -/
def State.lvEvents (s : State) : State :=
  let l := s.lv
  let deg : Bool := l.state = .member && l.n < 3
  let fen : Bool := l.state = .fenced
  let s1 := if bitOf (s.evtRaw pgLv) 2 = deg then s else s.level pgLv 2 deg
  if bitOf (s1.evtRaw pgLv) 1 = fen then s1 else s1.level pgLv 1 fen

/-- The module ID of a position of this stage. -/
def State.modAt (s : State) (j : Nat) : Nat := s.modId / 256 * 256 + j

/-- A module of this stage whose position is held as SNAG: its messages are discarded (R374). -/
def State.snagAt (s : State) (m : Nat) : Bool := m / 256 = s.modId / 256 && s.lv.posState (m % 256) = .snag

/-- A message to every other member (R374). -/
def State.lvToMembers (s : State) (m : LvMsg) : State :=
  foldS (s.lv.members.filter (· ≠ s.myPos)) (fun j t => t.lvSend (t.modAt j) m) s

/-- A message to every other configured position. -/
def State.lvToAll (s : State) (m : LvMsg) : State :=
  foldS (s.configured.filter (· ≠ s.myPos)) (fun j t => t.lvSend (t.modAt j) m) s

/-- The UP port after p in ascending number (R374). -/
def State.nextUp (s : State) (p : Nat) : Nat := (((List.range 12).map (fun i => (p + 1 + i) % 12)).find? s.portUp).getD p

/-- A heartbeat to one position on two ports (R374). -/
def State.sendBeat (s : State) (j : Nat) (h : Heartbeat) : State :=
  match s.pathPort (s.modAt j) 4096 with
  | none => s
  | some p =>
    let t := s.lvTxOn p (s.modAt j) (.heartbeat h)
    if s.nextUp p = p then t else t.lvTxOn (s.nextUp p) (s.modAt j) (.heartbeat h)

/-! Mirror entries (R380 to R383). -/

/-- Registers of SDS_MIR staging. -/
def State.mirStage (s : State) (i : Nat) : Word := s.reg (pgSds 4) (0x240 + 4 * i)

/-- The result of a mirror command is held (R392). -/
def State.mirDone (s : State) (c : Code) : State := { s with coord := { s.coord with mirStat := c } }

/-- An entry returns to NONE: a partner's charges go, and what it held for the cell (R381). -/
def State.mirClear (s : State) (c : Nat) : State :=
  let e := s.mirror c
  let s1 := s.setMirror c MirrorEntry.none
  if e.role && (e.state = .wait || e.state = .armed) then
    (if (s1.cell c).phase = CellPhase.free then s1.setCell c { Cell.free with txSeq := (s1.cell c).txSeq } else s1).overCheck (dHome e.desc)
  else s1

/-- The staging entry's fields (R380). -/
def mirStageOk (ws : List Word) (c : Nat) : Bool :=
  fld (wAt ws 0) 8 0 = c && fld (wAt ws 0) 15 10 = 0 && fld (wAt ws 0) 31 25 = 0 && fld (wAt ws 1) 31 16 = 0 && fld (wAt ws 2) 31 28 = 0
    && wAt ws 3 = 0 && wAt ws 4 = 0 && wAt ws 5 = 0 && wAt ws 6 = 0 && wAt ws 7 = 0

/-- ARM (R380, R381): an origin's cell is ACCEPTED or ACTIVE; a partner's local descriptor passes every check of R160. -/
def hostArm (v : Word) (s : State) : Ans :=
  let c := fld v 12 4
  if fld v 1 0 ≠ 1 then .next s
  else
    let ws := (List.range 8).map s.mirStage
    let e := s.mirror c
    if !mirStageOk ws c || e.state ≠ .none then .next (s.mirDone .configInvalid)
    else
      let role := bitOf (wAt ws 0) 9
      let new : MirrorEntry := { MirrorEntry.none with state := .wait, role := role, pcell := fld (wAt ws 0) 24 16, pmod := fld (wAt ws 1) 15 0, daddr := fld (wAt ws 2) 27 0 }
      if !role then
        (match (s.cell c).phase with
         | .accepted | .active => .next ((s.setMirror c { new with desc := (s.cell c).desc }).mirDone .ok)
         | _ => .next (s.mirDone .configInvalid))
      else
        let (code, bs, s1) := s.loadDev .dom0 (new.daddr * 4096) 64
        let d := if code = .ok then wordsOf 16 bs else List.replicate 16 0
        let k := failsCode (s1.admitFails d c)
        if k ≠ .ok then .next (s1.mirDone k) else .next (((s1.setMirror c { new with desc := d }).mirDone .ok).overCheck (dHome d))

/-- DISARM (R381): a TAKEN entry stays until its cell is FREE (R384). -/
def hostDisarm (v : Word) (s : State) : Ans :=
  let c := fld v 12 4
  if fld v 1 0 ≠ 2 then .next s
  else if (s.mirror c).state = .taken then .next (s.mirDone .configInvalid)
  else .next ((s.mirClear c).mirDone .ok)

/-- READ into staging (R392). -/
def hostMirrorRead (v : Word) (s : State) : Ans :=
  let c := fld v 12 4
  if fld v 1 0 ≠ 3 then .next s
  else
    let e := s.mirror c
    let ws := [w32 (c + 2 ^ 9 * b1 e.role + 2 ^ 16 * e.pcell), w32 e.pmod, w32 e.daddr, 0, 0, 0, 0, 0]
    .next ((foldN 8 (fun i t => t.setReg (pgSds 4) (0x240 + 4 * i) (wAt ws i)) s).mirDone .ok)

/-- The digest of a bound package, zeros for none. -/
def State.pkgDigest (s : State) (h : Nat) : List Byte := match s.seed.pkgs.find h with | some p => p.digest | none => []

/-- The match failed (R382). -/
def State.mirFail (s : State) (c : Nat) : State := (s.mirClear c).pulse (pgSds 4) 5

/-- MIRROR_OPEN_REQUEST: the origin's request every 1 ms, with the partner's answer when one comes. -/
def execMirrorOpenRequest (c : CellId) (answer : Option Bool) (s : State) : Ans :=
  let e := s.mirror c.val
  if e.state ≠ .wait || e.role then .next s
  else
    let d := (s.cell c.val).desc
    let s1 := s.lvSend e.pmod (.mirrorOpen c.val e.pcell d (s.pkgDigest (dRpkg d)) (s.pkgDigest (dLpkg d)))
    match (if s.snagAt e.pmod then none else answer) with
    | none => .next s1
    | some true => .next (s1.setMirror c.val { e with state := .armed })
    | some false => .next (s1.mirFail c.val)

/-- Words 0 to 6 agree but for CELL, HOME, PORT, L2PATH and L2PORT (R382). -/
def mirMatch (a b : List Word) : Bool :=
  (wAt a 0) &&& 0xFFFFE600 = (wAt b 0) &&& 0xFFFFE600 && (wAt a 2) &&& 0xFFF80FFF = (wAt b 2) &&& 0xFFF80FFF
    && wAt a 1 = wAt b 1 && wAt a 3 = wAt b 3 && wAt a 4 = wAt b 4 && wAt a 5 = wAt b 5 && wAt a 6 = wAt b 6

/-- MIRROR_OPEN_RECEIVE: module src asks for its cell pcell to be mirrored into local cell c (R382). -/
def execMirrorOpenReceive (src : Fin 65536) (pcell c : CellId) (desc : List Word) (rdigest ldigest : List Byte) (s : State) : Ans :=
  let e := s.mirror c.val
  if e.state ≠ .wait || !e.role || e.pmod ≠ src.val || e.pcell ≠ pcell.val || s.snagAt src.val then .next s
  else
    let d := e.desc
    let ok : Bool := mirMatch desc d && rdigest = s.pkgDigest (dRpkg d) && ldigest = s.pkgDigest (dLpkg d)
    let s1 := s.lvSend src.val (.mirrorAnswer pcell.val ok)
    .next (if ok then s1.setMirror c.val { e with state := .armed } else s1.mirFail c.val)

/-- A mirrored message is held for the cell (R382, R383): its cell number is the origin's. -/
def State.mirrorMsg (s : State) (c : Nat) (d ws : List Word) : State :=
  let h := slotHead ws
  let start := s.slotStart (dMu d) h.sfn h.slot
  match splitPdus h.seq h.npdu (ws.drop 4) with
  | none => s
  | some ps =>
    let good := (judgePdus d h.type ps).1
    s.updCell c (fun x =>
      let y := { x with slots := x.slots.filter (fun m => s.now ≤ m.start + 2 * dTslot d) }
      let m0 := (y.slotOf h.sfn h.slot start).getD (SlotMsgs.empty h.sfn h.slot start)
      let keep := if h.type = 3 && m0.dlSeq.isSome then good.filter m0.wantsTb else good
      y.updSlot h.sfn h.slot start (fun m =>
        match h.type with
        | 1 => { m with ulSeq := some h.seq, ul := keep }
        | 2 => { m with dlSeq := some h.seq, dl := keep }
        | _ => { m with tbs := m.tbs ++ keep.map Pdu.withCrc }))

/-- MIRROR: an item of the stream for local cell c arrives (R382). -/
def execMirror (c : CellId) (item : MirrorItem) (s : State) : Ans :=
  let e := s.mirror c.val
  if e.state ≠ .armed || !e.role || s.snagAt e.pmod then .next s
  else
    match item with
    | .message ws => .next (s.mirrorMsg c.val e.desc ws)
    | .gains gs => .next (s.updCell c.val (fun x => { x with gains := (List.range gs.length).map (fun i =>
        let q := gs.getD i (0, none, none, 0)
        (i, { Gain.zero with g := q.1, frzEnd := q.2.1, holdEnd := q.2.2.1, rssi := q.2.2.2 })) }))
    | .area bs => .next (s.putDev .dom0 (dRing e.desc + dRingSz e.desc - s.mirSz e.desc) (bs.take (s.mirSz e.desc)))

/-- The first slot of a cell whose start is at or after tv + Tslot (R383). -/
def State.takeSlot (s : State) (d : List Word) : SlotId :=
  let t := s.now + dTslot d
  let x := s.slotAt (dMu d) t
  if x.start = t then x else s.slotAt (dMu d) (x.start + dTslot d)

/-- An ARMED partner entry becomes TAKEN, and its cell ACTIVE for slot m (R383). -/
def State.takeCell (s : State) (c : Nat) : State :=
  let e := s.mirror c
  let m := s.takeSlot e.desc
  let old := s.cell c
  let s1 := (s.setMirror c { e with state := .taken }).setCell c
    { old with phase := .active, desc := e.desc, startAt := m.start, startSfn := m.sfn, slots := old.slots.filter (fun y => m.start ≤ y.start) }
  let s2 := (s1.startStreams c).updCell c (fun x => { x with gains := if old.gains.isEmpty then x.gains else old.gains.map (fun p => (p.1, { p.2 with prev := p.2.g, cfg := s.reg (pgEth (dPort e.desc)) 0x010 })) })
  (s2.sendSlot c e.desc 0x17 m.sfn m.slot .ok [[w32 (0x0042 + 16 * 65536), 0, 2, w32 m.sfn]] s.now).pulse (pgSds 4) 6

/-- What a verdict on module x does to mirrors (R381, R383). -/
def State.mirrorVerdict (s : State) (x : Nat) : State :=
  foldS (s.mirrors.filter (fun p => p.2.state = .armed && p.2.pmod = x)) (fun p t =>
    if p.2.role then t.takeCell p.1 else t.setMirror p.1 { p.2 with state := .failed }) s

/-! Verdicts (R375, R376, R379). -/

/-- R347 and R379 for a module that has become a snag, by a verdict of a group at this epoch: it is revoked, what was in flight to it is given up and its streams go on, notices go out, its windows and gathered segments go. An instance hears of it once, however often the verdict comes: of the imports made SUSPECT by it and the epoch after it (R391). -/
def State.peerSnag (s : State) (x before : Nat) : State :=
  let again := s.lv.heardOf x before
  let s0 := s.revokeEnter x before
  let s1 := { s0 with fabric := { s0.fabric with
      agents := s0.fabric.agents.map (fun (p : Nat × Agent) => (p.1, { p.2 with wins := p.2.wins.filter (fun w => w.src ≠ x) }))
      gather := (s0.fabric.gather.map (fun (b : GatherBuf) => { b with segs := b.segs.filter (fun g => g.src ≠ x) })).filter (fun b => !b.segs.isEmpty) } }
  let fresh (h : Space) : List Nat := (s1.fabric.imports.filter (fun p => p.2.home = x && p.2.holder = h && !p.2.suspect)).map (·.1)
  let holders := if again then [] else ((s1.fabric.imports.filter (fun p => p.2.home = x)).map (fun p => p.2.holder)).eraseDups
  let s2 := { s1 with fabric := { s1.fabric with imports := s1.fabric.imports.map (fun (p : Nat × Import) =>
    if p.2.home = x then (p.1, { p.2 with suspect := true }) else p) } }
  let lost (k : Nat) : Nat := ((s1.fstream k).unacked.filter (fun u => u.home = x)).length
  let s3 := foldS (s2.fabric.streams.map (·.1)) (fun k t =>
    if lost k = 0 then t
    else State.fqIssue (spaceOf k) 1026 ((((t.giveUp (spaceOf k) (fun u => u.home = x)).opsEnd (spaceOf k)).fenceDone (spaceOf k) .pathLost))) s2
  foldS holders (fun h t =>
    match h with
    | .inst i => t.notice i.val 0x28 .pathLost [w32 x, w32 (fresh h).length, w32 (lost i.val), w32 (before + 1)]
    | .dom0 => t) s3

/-- A verdict is logged as an input of the fabric class (R422): kind 2, position, epoch. -/
def State.logVerdict (s : State) (x : Nat) : State := s.recLog 3 0x07 0 (s.modAt x) (2 :: leBytes 2 x ++ leBytes 4 s.lv.epoch)

/-- Stages whose modules hear of a verdict: this one, and those of CKX_LV_REACHw (R376). -/
def State.reachStages (s : State) : List Nat :=
  (List.range 256).filter (fun j => j = s.modId / 256 || bitOf (s.reg pgLv (0x240 + 4 * (j / 32))) (j % 32))

/-- A module of a stage that a message can reach, other than this one and m: the copies of a forwarded verdict to a stage's modules go its way (R376). -/
def State.stageWay (s : State) (st m : Nat) : Option Nat :=
  ((List.range 256).map (st * 256 + ·)).find? (fun d => d ≠ s.modId && d ≠ m && (s.pathPort d 4096).isSome)

/-- A verdict on position x is reached or adopted (R375, R376, R379, R383): every member hears of it, x among them (R377); one output stands for the copies to each module of a stage. -/
def State.adopt (s : State) (x : Nat) : State :=
  let before := w32 s.lv.epoch
  let l := s.lv
  let s1 := s.logVerdict x
  let s2 := s1.setLv { l with
    posn := l.posn.set x .snag, epoch := (l.epoch + 1) % 2 ^ 32, mine := l.mine.filter (· ≠ x)
    accused := l.accused.filter (fun p => p.1 ≠ x && p.2 ≠ x), entries := l.entries.filter (fun p => p.1 ≠ x) }
  let tell (t : State) : State := foldS (l.members.filter (· ≠ s.myPos)) (fun j u => u.lvSend (u.modAt j) (.verdict x before)) t
  let s3 := if l.state = .member then
      foldS s2.reachStages (fun st t => match t.stageWay st (t.modAt x) with
        | some d => t.lvSend d (.forward (t.modAt x) before)
        | none => t) (tell s2) else s2
  (((s3.peerSnag (s3.modAt x) l.epoch).mirrorVerdict (s3.modAt x)).pulse pgLv 0).lvEvents

/-- Accusations from more than N / 2 members stand against x (R372, R375). -/
def LvSt.guilty (l : LvSt) (x : Nat) : Bool :=
  3 ≤ l.n && l.posState x = .member && l.n < 2 * (l.accused.filter (fun p => p.1 = x && l.posState p.2 = .member && p.2 ≠ x)).length

/-- Verdicts that the accusations held call for, in ascending position (R375). -/
def State.verdicts : Nat → State → State
  | 0, s => s
  | n + 1, s =>
    if s.lv.state ≠ .member then s else
    match s.lv.members.find? s.lv.guilty with
    | none => s
    | some x => State.verdicts n (s.adopt x)

/-! Fencing (R377, R378). -/

/-- A stream's operations and its queued descriptors complete with FENCED_OUT (R378). -/
def State.fenceQueue (sp : Space) : Nat → State → State
  | 0, s => s
  | n + 1, s =>
    match s.fqEntry sp with
    | none => s
    | some (ws, t) =>
      let k := spaceIdx sp
      State.fenceQueue sp n ((t.setFstream k { t.fstream k with fqHead := ((t.fstream k).fqHead + 1) % 65536 }).fqFinish sp ws .fencedOut 0 [])

def State.fenceStream (s : State) (sp : Space) : State :=
  let k := spaceIdx sp
  let f := s.fstream k
  let s1 := s.setFstream k { f with unacked := [], cur := none }
  State.fenceQueue sp 32768 (foldS f.ops (fun o t => t.opDone sp { o with code := .fencedOut }) s1)

/-- A cell of a fencing module ends: the fence clock is its slot boundary (R165, R378). -/
def State.fenceCell (s : State) (c : Nat) : State :=
  let x := s.cell c
  match x.phase with
  | .free => s
  | .accepted => (s.abortFrom c 0).freeCell c
  | _ =>
    let s1 := (s.setCell c { x with phase := .draining, endAt := s.now, forced := true }).abortFrom c 0
    let s2 : State := if x.phase = .draining then s1 else s1.cellInd c x.desc 3 (s.sfnAt s.now)
    (s2.updCell c (fun y => { y with ended := true, slots := [] })).dropFrames c (dPort x.desc)

/-- Causes of a fence (R391): 0 VERDICT received, 1 module fault, 2 quorum loss, 3 LEAVE. -/
def State.selfFence (s : State) (cause : Nat) : State :=
  if s.lv.state = .fenced then s else
  let s0 := if s.lv.state = .member then s.lvToMembers (.verdict s.myPos (w32 s.lv.epoch)) else s
  let s1 : State := s0.setLv { s0.lv with state := .fenced, cut := true, cause := cause, admits := [], entry := none, entries := [], digests := [], mine := [], accused := [], rounds := 0, match_ := 0 }
  let s1 : State := { s1 with bist := { s1.bist with logicOk := 0, memOk := 0 } }
  let s2 : State := foldS ((4096 :: s1.insts.map (·.1)) ++ s1.fabric.streams.map (·.1)).eraseDups (fun k t => t.fenceStream (spaceOf k)) s1
  let s3 : State := { s2 with fabric := { s2.fabric with gather := [] } }
  let s4 : State := foldS (s3.cells.map (·.1)) (fun c t => t.fenceCell c) s3
  -- a running step ends first (R378)
  let s5 : State := foldS ((s4.ctxs.filter (fun p => p.2.state ≠ .free && p.2.state ≠ .run)).map (·.1)) (fun k t => t.endCtx k (some .fencedOut)) s4
  let s6 : State := { s5 with mirrors := s5.mirrors.map (fun (p : Nat × MirrorEntry) =>
    if !p.2.role && (p.2.state = .wait || p.2.state = .armed) then (p.1, { p.2 with state := .failed }) else p) }
  (foldS (s6.insts.filter (fun p => p.2.phase = .active)) (fun p t => t.notice p.1 0x29 .fencedOut [w32 cause, w32 t.lv.epoch, 0, 0]) s6).lvEvents

/-- A module fault (R371). -/
def State.moduleFault (s : State) : State := s.selfFence 1

/-- MODULE_FAULT: an error of the package links, the coherence protocol, the time base or the power stage of a running module; an armed PKG_LINK injection is used up by the error that it makes (R500). -/
def execModuleFault (s : State) : Ans :=
  let s1 := match s.bist.inj.find 7 with | some j => (s.useInj 7 j.target).2 | none => s
  .next (if s.running then s1.moduleFault else s)

/-- LEAVE (R377). -/
def hostLeave (s : State) : Ans := .next (if s.lv.state = .member then s.selfFence 3 else s)

/-- QUORUM_LOSS (R372, R377). -/
def execQuorumLoss (s : State) : Ans :=
  let l := s.lv
  let w := 1000 * (s.lvTmiss - s.lvPeriod)
  let near := (l.members.filter (fun j => j ≠ s.myPos && s.now < l.heard.get 0 j + w)).length + 1
  .next (if l.state = .member && 3 ≤ l.n && 2 * near ≤ l.n then s.selfFence 2 else s)

/-! Messages (R374, R375). -/

/-- A message that a module takes: its sender is no snag and its epoch no older (R374). -/
def LvSt.hears (l : LvSt) (from_ : Nat) (epoch : Word) : Bool := l.posState from_ ≠ .snag && l.epoch ≤ epoch.toNat

/-- HEARTBEAT (R374, R375, R389): an accusation of the sender is withdrawn. -/
def execHeartbeat (h : Heartbeat) (s : State) : Ans :=
  let l := s.lv
  let live : Bool := l.state = .member || l.state = .joining || l.state = .shadow
  if !live || !l.hears h.pos h.epoch then .next s
  else
    let l1 := { l with heard := l.heard.set h.pos s.now,
                       digests := if l.state = .shadow then (h.pos, h.round, h.digest) :: l.digests.filter (fun d => !(d.1 = h.pos && d.2.1 = h.round)) else l.digests }
    if l.state = .member && l.mine.contains h.pos then
      .next ((s.setLv { l1 with mine := l.mine.filter (· ≠ h.pos), accused := l.accused.filter (fun p => !(p.1 = h.pos && p.2 = s.myPos)) }).lvToMembers
        (.clear h.pos (w32 l.epoch)))
    else .next (s.setLv l1)

/-- PEER_ABSENT: no heartbeat for TMISS (R373, R374). -/
def execPeerAbsent (x : Fin 256) (s : State) : Ans :=
  let l := s.lv
  if l.state = .member && x.val ≠ s.myPos && l.posState x.val = .member && l.heard.get 0 x.val + 1000 * s.lvTmiss ≤ s.now && !l.mine.contains x.val then
    .next (State.verdicts 256 ((s.setLv { l with mine := x.val :: l.mine, accused := (x.val, s.myPos) :: l.accused }).lvToMembers (.accuse x.val (w32 l.epoch))))
  else .next s

/-- ACCUSE (R375): of its own position a module holds none; it learns of a verdict from VERDICT (R372, R377). -/
def execAccuse (x from_ : Fin 256) (epoch : Word) (s : State) : Ans :=
  let l := s.lv
  if l.state = .member && x.val ≠ s.myPos && l.hears from_.val epoch && l.posState from_.val = .member && !l.accused.contains (x.val, from_.val) then
    .next (State.verdicts 256 (s.setLv { l with accused := (x.val, from_.val) :: l.accused }))
  else .next s

/-- CLEAR (R375). -/
def execClear (x from_ : Fin 256) (epoch : Word) (s : State) : Ans :=
  let l := s.lv
  if l.state = .member && l.hears from_.val epoch then .next (s.setLv { l with accused := l.accused.filter (fun p => !(p.1 = x.val && p.2 = from_.val)) })
  else .next s

/-- VERDICT from a module of the group (R375, R377, R389). -/
def execVerdict (x from_ : Fin 256) (epoch : Word) (s : State) : Ans :=
  let l := s.lv
  if s.replayed 3 then .next s.liveDrop
  else if !l.hears from_.val epoch then .next s
  else if l.state = .member && x.val = s.myPos then .next (s.selfFence 0)
  else if (l.state = .member || l.state = .shadow) && epoch.toNat = l.epoch && l.posState x.val ≠ .snag then .next (State.verdicts 256 (s.adopt x.val))
  else .next s

/-- VERDICT_FORWARD: module x is a snag (R347, R376, R379); of the copies that the members send, the first counts. A fenced module takes nothing over (R384). -/
def execVerdictForward (x : Forward) (s : State) : Ans :=
  .next (if x.module_.val = s.modId || s.lv.heardOf x.module_.val x.epoch.toNat then s else
    let t := s.peerSnag x.module_.val x.epoch.toNat
    if t.lv.cut then t else t.mirrorVerdict x.module_.val)

/-! Membership (R388 to R390). -/

/-- CKX_LV_CTRL.FOUND (R392): nothing but re-admission clears FENCED (R378, R385). -/
def hostFound (s : State) : Ans :=
  if s.lv.state = .none then
    .next (s.setLv { LvSt.reset with state := .member, cause := s.lv.cause, posn := [(s.myPos, .member)], revoke := s.lv.revoke }).lvEvents
  else .next s

/-- BIST has passed since the module last fenced itself or was reset (R388). -/
def State.bistPassed (s : State) : Bool := s.bist.logicOk = 63 && s.bist.memOk = 63

/-- CKX_LV_CTRL.JOIN (R374, R388): the first JOIN leaves at once; an ignored one is counted. -/
def hostJoin (s : State) : Ans :=
  if (s.lv.state = .none || s.lv.state = .fenced) && s.bistPassed && s.cells.all (fun p => p.2.phase = CellPhase.free) then
    .next ((s.setLv { s.lv with state := .joining, rounds := 0, match_ := 0, admits := [], entry := none, entries := [], digests := [] }).lvEvents.lvToAll (.join s.myPos false s.bistPassed))
  else .next (s.bump pgLv 0 1)

/-- A configured position asks for entry: its state and the round at which it enters, as members and a SHADOW module keep them (R388, R389). -/
def LvSt.joins (l : LvSt) (x r : Nat) (shadow : Bool) : LvSt :=
  let direct := l.n ≤ 64
  let enters := direct || (shadow && l.posState x = .shadow)
  { l with posn := l.posn.set x (if direct then .joining else .shadow),
           entries := if enters && !l.entries.any (fun p => p.1 = x) then l.entries ++ [(x, r + 2)] else l.entries }

/-- JOIN_MESSAGE: position x, which is configured (R372), asks for entry (R388, R389): a member answers with ADMIT, a SHADOW module follows in its own table. A SHADOW module that has matched asks again. -/
def execJoinMessage (x : Fin 256) (shadow bistOk : Bool) (s : State) : Ans :=
  let l := s.lv
  if (l.state ≠ .member && l.state ≠ .shadow) || !bistOk || x.val = s.myPos || l.posState x.val = .member || !s.configured.contains x.val then .next s
  else
    let r := s.lvRound
    let t := s.setLv (l.joins x.val r shadow)
    let reply : AdmitMsg := { pos := s.myPos, epoch := w32 l.epoch, round := r, table := l.table }
    .next (if l.state = .member then t.lvSend (s.modAt x.val) (.admitMsg reply) else t)

/-- ADMIT_MESSAGE: more than N / 2 load the table, of configured positions (R372), and the epoch (R388). -/
def execAdmitMessage (a : AdmitMsg) (s : State) : Ans :=
  let l := s.lv
  if l.state ≠ .joining || l.entry.isSome || l.admits.any (fun b => b.pos = a.pos) then .next s
  else
    let admits := l.admits ++ [a]
    let n := (a.table.filter (· = 1)).length
    if 2 * admits.length ≤ n then .next (s.setLv { l with admits := admits })
    else
      let posn : Table PosState := (s.configured.filter (fun j => posOf (a.table.getD j 0) ≠ .none)).map (fun j => (j, posOf (a.table.getD j 0)))
      let first := (admits.head?.map (·.round)).getD a.round
      let me : PosState := if n ≤ 64 then .joining else .shadow
      let l1 := { l with admits := admits, posn := posn.set s.myPos me, epoch := a.epoch.toNat }
      .next (s.setLv (if n ≤ 64 then { l1 with entry := some (first + 2) } else { l1 with state := .shadow, rounds := 0, match_ := 0 }))

/-- Each ACTIVE instance is told of an entry (R390, R391). -/
def State.readmitted (s : State) (m : Nat) : State :=
  foldS (s.insts.filter (fun p => p.2.phase = .active)) (fun p t => t.notice p.1 0x2A .ok [w32 m, w32 t.lv.epoch, 0, 0]) s

/-- Position j enters in this module's table. -/
def State.seesEnter (s : State) (j : Nat) : State :=
  let l := s.lv
  s.setLv { l with posn := l.posn.set j .member, epoch := (l.epoch + 1) % 2 ^ 32, heard := l.heard.set j s.now,
                   entries := l.entries.filter (fun p => p.1 ≠ j), revoke := l.revoke.filter (fun r => r.module_ ≠ s.modAt j) }

/-- A member sees position j enter. -/
def State.peerEnter (s : State) (j : Nat) : State := (s.seesEnter j).readmitted (s.modAt j)

/-- This module enters (R388, R390). -/
def State.selfEnter (s : State) : State :=
  let l := s.lv
  let posn := l.posn.set s.myPos .member
  let s1 := s.setLv { l with
    state := .member, cut := false, posn := posn, epoch := (l.epoch + 1) % 2 ^ 32, rounds := 0, match_ := 0, admits := [], entry := none, digests := []
    heard := (posn.filter (fun p => p.2 = .member)).map (fun p => (p.1, s.now)), mine := [], accused := [] }
  let s2 := foldS (s1.mirrors.map (·.1)) (fun c t => t.mirClear c) { s1 with fabric := { s1.fabric with grants := [], imports := [] } }
  s2.readmitted s.modId

/-- MEMBER_ENTRY: entry rounds that have come (R388); a SHADOW module sees the others' first (R389). -/
def execMemberEntry (s : State) : Ans :=
  let r := s.lvRound
  let due := s.lv.entries.filter (fun p => p.2 ≤ r)
  let own (t : State) : State := match t.lv.entry with | some e => if e ≤ r then t.selfEnter.lvEvents else t | none => t
  match s.lv.state with
  | .member => .next (foldS due (fun p t => t.peerEnter p.1) s).lvEvents
  | .joining => .next (own s)
  | .shadow => .next (own (foldS due (fun p t => t.seesEnter p.1) s))
  | _ => .next s

/-- JOINING lasts at most 64 rounds, whatever entry was to come; SHADOW 4 × SHADOWN without one (R388, R389). -/
def execJoinTimeout (s : State) : Ans :=
  let l := s.lv
  let late : Bool := (l.state = .joining && 64 ≤ l.rounds) || (l.state = .shadow && 4 * s.lvShadown ≤ l.rounds)
  if late && (l.state = .joining || l.entry.isNone) then
    .next ((s.setLv { l with state := .fenced, cut := true, admits := [], entry := none, entries := [], digests := [], rounds := 0, match_ := 0 }).pulse pgLv 3).lvEvents
  else .next s

/-- The digest that more than N / 2 members carry for the last round equals this module's for it (R389). -/
def LvSt.agrees (l : LvSt) (r : Nat) : Bool :=
  l.n < 2 * (l.digests.filter (fun d => d.2.1 = r && d.2.2 = l.own && l.posState d.1 = .member)).length

/-- LIVENESS_ROUND: the round of the time base begins, once (R373 to R375, R388, R389). -/
def execLivenessRound (s : State) : Ans :=
  let r := s.lvRound
  if s.lv.began = some r then .next s else
  let s := s.setLv { s.lv with began := some r }
  let l := s.lv
  let beat (flag : Bool) : Heartbeat := { pos := s.myPos, epoch := w32 l.epoch, round := r, flagged := flag, digest := l.digest }
  match l.state with
  | .member =>
    let s1 := foldS (s.configured.filter (· ≠ s.myPos)) (fun j t => t.sendBeat j (beat false)) s
    .next (foldS l.mine (fun x t => t.lvToMembers (.accuse x (w32 l.epoch))) s1)
  | .joining =>
    let s1 := foldS (s.configured.filter (· ≠ s.myPos)) (fun j t => t.sendBeat j (beat true)) s
    .next ((s1.lvToAll (.join s.myPos false s.bistPassed)).setLv { s1.lv with rounds := l.rounds + 1 })
  | .shadow =>
    let s1 := foldS (s.configured.filter (· ≠ s.myPos)) (fun j t => t.sendBeat j (beat true)) s
    let m := if l.agrees (r - 1) then min 255 (l.match_ + 1) else 0
    let l1 := { s1.lv with match_ := m, own := l.digest, rounds := l.rounds + 1, digests := l.digests.filter (fun d => r ≤ d.2.1) }
    if s.lvShadown ≤ m && l.entry.isNone then .next ((s1.setLv { l1 with entry := some (r + 2) }).lvToMembers (.join s.myPos true s.bistPassed))
    else .next (s1.setLv l1)
  | _ => .next s

/-! Erasure-coded shards (R386, R387). -/

/-- Product in GF(2^8) with polynomial 0x11D. -/
def gfMul (a b : Nat) : Nat :=
  ((List.range 8).foldl (fun (acc : Nat × Nat) i =>
    let r := if b / 2 ^ i % 2 = 1 then Nat.xor acc.1 acc.2 else acc.1
    let d := 2 * acc.2
    (r, if 256 ≤ d then Nat.xor d 0x11D else d)) (0, a)).1

def gfPow (g : Nat) : Nat → Nat
  | 0 => 1
  | n + 1 => gfMul g (gfPow g n)

/-- The inverse of a non-zero element. -/
def gfInv (a : Nat) : Nat := gfPow a 254

def gfXor (a b : List Nat) : List Nat := List.zipWith Nat.xor a b
def gfScale (c : Nat) (a : List Nat) : List Nat := a.map (gfMul c)

/-- Sum of g^i·Di over the shards listed with their numbers; q chooses Q's weights. -/
def gfSum (n : Nat) (q : Bool) (ds : List (Nat × List Nat)) : List Nat :=
  ds.foldl (fun acc d => gfXor acc (if q then gfScale (gfPow 2 d.1) d.2 else d.2)) (List.replicate n 0)

/-- Every shard, from those present: data 0 to k − 1, then P and Q. -/
def gfRebuild (n k : Nat) (have_ : List (Nat × List Nat)) : List (List Nat) :=
  let get (i : Nat) : Option (List Nat) := (have_.find? (fun p => p.1 = i)).map (·.2)
  let known := (List.range k).filterMap (fun i => (get i).map (fun d => (i, d)))
  let gone := (List.range k).filter (fun i => (get i).isNone)
  let zeros := List.replicate n 0
  let found : List (Nat × List Nat) :=
    match gone with
    | [] => []
    | [x] =>
      (match get k with
       | some p => [(x, gfXor p (gfSum n false known))]
       | none => [(x, gfScale (gfInv (gfPow 2 x)) (gfXor ((get (k + 1)).getD zeros) (gfSum n true known)))])
    | x :: y :: _ =>
      let a := gfXor ((get k).getD zeros) (gfSum n false known)
      let b := gfXor ((get (k + 1)).getD zeros) (gfSum n true known)
      let dy := gfScale (gfInv (Nat.xor (gfPow 2 x) (gfPow 2 y))) (gfXor b (gfScale (gfPow 2 x) a))
      [(x, gfXor a dy), (y, dy)]
  let all := (List.range k).map (fun i => match get i with | some d => (i, d) | none => (i, ((found.find? (fun p => p.1 = i)).map (·.2)).getD zeros))
  all.map (·.2) ++ [gfSum n false all, gfSum n true all]

/-- The command's fields (R387). -/
def ecOk (ws : List Word) : Bool :=
  fld (wAt ws 0) 3 2 = 0 && fld (wAt ws 0) 15 8 = 0 && 1 ≤ fld (wAt ws 0) 7 4 && fld (wAt ws 0) 7 4 ≤ 14
    && 1 ≤ fld (wAt ws 1) 12 0 && fld (wAt ws 1) 12 0 ≤ 4096 && fld (wAt ws 1) 31 13 = 0 && fld (wAt ws 2) 2 0 = 0 && fld (wAt ws 3) 31 16 = 0
    && (fld (wAt ws 0) 1 0 = 1 || fld (wAt ws 0) 1 0 = 2)
    && wAt ws 4 = 0 && wAt ws 5 = 0 && wAt ws 6 = 0 && wAt ws 7 = 0

/-- Two of these extents of n bytes meet. -/
def vasMeet (n : Nat) : List Nat → Bool
  | [] => false
  | a :: t => t.any (fun b => a < b + n && b < a + n) || vasMeet n t

/-- Shards are loaded in order; the code of the first that cannot be read. -/
def State.ecLoad (sp : Space) (n : Nat) : List (Nat × Nat) → State → Code × List (Nat × List Nat) × State
  | [], s => (.ok, [], s)
  | (i, va) :: t, s =>
    match s.loadDev sp va n with
    | (.ok, bs, s1) =>
      let (c, rest, s2) := State.ecLoad sp n t s1
      (c, (i, bs.map (·.toNat)) :: rest, s2)
    | (c, _, s1) => (c, [], s1)

/-- An erasure-code command waits for the pages of its list, then of its shards: late tiers stall it (R295, R387). -/
def State.ecWait (s : State) (i : Nat) (ws : List Word) : Option State :=
  let sp := spaceOf i
  let k := fld (wAt ws 0) 7 4
  let n := fld (wAt ws 1) 12 0 * 4096
  let at_ := (wAt ws 2).toNat + 2 ^ 32 * fld (wAt ws 3) 15 0
  let tag := (tagOf s.now + s.drel (s.inst i).cls) % 2 ^ 24
  if !ecOk ws || s.accCode sp at_ (8 * (k + 2)) ≠ .ok then none else
  match s.unitWait (.ec i) tag [(sp, at_, 8 * (k + 2), false)] with
  | some t => some t
  | none =>
    let es := (List.range (k + 2)).map (fun j => leNat ((s.peek sp at_ (8 * (k + 2))).drop (8 * j) |>.take 8))
    let enc : Bool := fld (wAt ws 0) 1 0 = 1
    let writes (j : Nat) : Bool := if enc then k ≤ j else es.getD j 0 / 2 ^ 48 % 2 = 0
    s.unitWait (.ec i) tag (((List.range (k + 2)).filter (fun j => s.accCode sp (es.getD j 0 % 2 ^ 48) n = .ok)).map (fun j => (sp, es.getD j 0 % 2 ^ 48, n, writes j)))

/-- The work of an erasure-code command (R387). -/
def State.ecRun (s : State) (i : Nat) (ws : List Word) : Code × State :=
  let sp := spaceOf i
  if !ecOk ws then (.configInvalid, s) else
  let k := fld (wAt ws 0) 7 4
  let n := fld (wAt ws 1) 12 0 * 4096
  let enc : Bool := fld (wAt ws 0) 1 0 = 1
  match s.loadDev sp ((wAt ws 2).toNat + 2 ^ 32 * fld (wAt ws 3) 15 0) (8 * (k + 2)) with
  | (.ok, bs, s1) =>
    let es := (List.range (k + 2)).map (fun j => leNat ((bs.drop (8 * j)).take 8))
    let vas := es.map (· % 2 ^ 48)
    let pres (j : Nat) : Bool := es.getD j 0 / 2 ^ 48 % 2 = 1
    let num := (List.range (k + 2)).zip vas
    let reads := if enc then num.take k else (num.filter (fun p => pres p.1)).take k
    let writes := if enc then num.drop k else num.filter (fun p => !pres p.1)
    let shut := reads.any (fun p => s1.accCode sp p.2 n ≠ .ok) || writes.any (fun p => s1.storeCode sp p.2 n ≠ .ok)
    let code := codePick [if es.any (fun e => 2 ^ 49 ≤ e || e % 4096 ≠ 0) || vasMeet n vas || 2 < writes.length then .configInvalid else .ok,
      if writes.isEmpty then .empty else if shut then .keyDenied else .ok]
    if code ≠ .ok then (code, s1)
    else
      let (c, ds, s2) := State.ecLoad sp n reads s1
      if c ≠ .ok then (c, s2)
      else
        let all := gfRebuild n k ds
        (.ok, foldS writes (fun p t => t.putDev sp p.2 ((all.getD p.1 []).map (BitVec.ofNat 8))) s2)
  | (c, _, s1) => (c, s1)

/-- A write of MBX_EC_CMD of this kind starts the command in staging (R387). A code that is neither is refused by whichever row meets it. -/
def State.ecStart (s : State) (i : Nat) (v : Word) (op : Nat) : State :=
  let x := s.inst i
  let ws := (List.range 8).map (fun j => s.reg (pgMbx i) (0x540 + 4 * j))
  let code := fld (wAt ws 0) 1 0
  if pageDead x.phase then s.bump pgMap 0 1
  else if !bitOf v 0 || ((code = 1 || code = 2) && code ≠ op) then s
  else if x.ecBusy then s.bump (pgMbx i) 1 1
  else s.setInst i { x with ecBusy := true, ecWords := ws }

/-- ENCODE. -/
def hostEncode (i : InstId) (v : Word) (s : State) : Ans := .next (s.ecStart i.val v 1)

/-- REBUILD. -/
def hostRebuild (i : InstId) (v : Word) (s : State) : Ans := .next (s.ecStart i.val v 2)

/-- EC_DONE: the command completes (R387); in a squash it stops, and nothing more of it lands (R326). -/
def execEcDone (i : InstId) (s : State) : Ans :=
  let x := s.inst i.val
  if !x.ecBusy || x.phase = .squashing then .next s
  else
    match s.ecWait i.val x.ecWords with
    | some t => .next t
    | none =>
    let (c, s1) := s.ecRun i.val x.ecWords
    .next ((s1.updInst i.val (fun y => { y with ecBusy := false, ecStat := c })).evt (pgMbx i.val) (s1.evtRaw (pgMbx i.val)) (1#32 <<< 11))

end Sys2Proof.Machine
end

