-- ==== Sys2Proof/Machine/Moves.lean ====
section
/-! DEFINITION. Ends of moves, with the units that waited for their page; held requests of the ports (11, R27, R223). -/

namespace Sys2Proof.Machine

/-! Units go on (R276, R283, R295). -/

/-- The command queue of an instance fetches the entry that it waited for (R259). -/
def State.cqAny (s : State) (i : Nat) : State :=
  s.cqRow i (fun _ => true) (fun ws t =>
    match fld (wAt ws 0) 3 0 with
    | 1 => State.cqRun i ws t
    | 2 => State.cqCancel i ws t
    | 3 => State.cqOpenJob i ws t
    | 4 => State.jobEnd i 4 ws t
    | 5 => State.jobEnd i 5 ws t
    | _ => State.cqNop i ws t)

/-- The rows of R349 and R352 by OP. -/
def fqRows : List (Nat × (Space → State → Ans)) :=
  [(0x01, execPut), (0x02, execGet), (0x03, execFabricStore), (0x04, execFabricLoad), (0x05, execRed), (0x06, execMstore), (0x07, execAtomic),
   (0x08, execFence), (0x10, execRegionOpen), (0x11, execRegionClose), (0x12, execGrant), (0x13, execRevoke), (0x14, execImport),
   (0x15, execUnimport), (0x16, execImportClear)]

/-- A fabric queue goes on with the PUT that it was issuing, or takes the descriptor that it waited for. -/
def State.fqAny (s : State) (sp : Space) : State :=
  if (s.fstream (spaceIdx sp)).cur.isSome then (State.fqIssue sp 1026 s).opsCheck sp
  else
    match s.fqEntry sp with
    | none => s
    | some (ws, _) =>
      match fqRows.find? (fun r => r.1 = fqOp ws) with
      | some r => Ans.state s (r.2 sp s)
      | none => Ans.state s (execPut sp s)

/-- A unit goes on at the page it waited for. -/
def State.resumeUnit (s : State) : WaitUnit → State
  | .fq sp => s.fqAny sp
  | .seg x => s.segHome x
  | .ack a => s.segAcked a
  | .cq i => s.cqAny i
  | .ctx k => if h : k < 262144 then (if (s.runStep k 5).isSome then Ans.state s (execCkpt ⟨k, h⟩ s) else Ans.state s (execStepTile ⟨k, h⟩ s)) else s
  | .job i n => s.jobCheck i n
  | .ec i => if h : i < 4096 then Ans.state s (execEcDone ⟨i, h⟩ s) else s

/-- The units whose page has been served go on, in order; those of a page whose T3 read failed meet TIER_ERROR (R281, R283). -/
def State.resumeUnits (s : State) : State :=
  foldS s.mems.woken (fun w t =>
    let u := ({ t with mems := { t.mems with tierFail := w.2 } }).resumeUnit w.1
    { u with mems := { u.mems with tierFail := none } }) { s with mems := { s.mems with woken := [] } }

/-! Ends of moves (R280 to R284). -/

/-- MOVE_SWITCH (R280, R283): it waits while a line of the page is in a combining buffer (R362); a move whose host accesses fail aborts instead (R281, R438), and so does one that meets a chunk that is never written (R293; DESIGN CHOICE, log entry 136). -/
def execMoveSwitch (page : Nat) (s : State) : Ans :=
  if s.hotPage page then .next s else
  match s.mems.moves.find? (fun m => m.page = page) with
  | none => .next (if (s.home page).waiters.isEmpty || (s.home page).lock then s else (s.serveWaiters page).resumeUnits)
  | some m =>
    if s.moveFinds m then .next ((s.poisonPages [page]).moveGiveUp m).resumeUnits
    else if s.moveFails m then .next (s.moveGiveUp m).resumeUnits
    else .next ((if m.kind = .demotion || (s.home page).tier = .t3 then (s.chkCxl true).chkCxl false else s).moveDone m).resumeUnits

/-- MOVE_ABORT: a T3 read or write failed before the switch (R281). -/
def execMoveAbort (page : Nat) (s : State) : Ans :=
  match s.mems.moves.find? (fun m => m.page = page) with
  | none => .next s
  | some m =>
    match m.kind with
    | .promotion => .next (if (s.home page).tier = .t3 then (s.moveGiveUp m).resumeUnits else s)
    | .demotion => .next (s.moveGiveUp m).resumeUnits
    | .rehome | .release => .next s

/-! Requests of the ports (R27, R223). -/

/-- A port's request is made again. -/
def State.portServe (s : State) (q : PortReq) : State :=
  match q.work with
  | .seg x => s.segHome x
  | .window sp va op => s.windowStep sp va op q.tag q.late
  | .post sp va bs => s.portPost q.who q.tag sp va bs

/-- Requests of one port are made again in their order, at most n, until a point holds one. -/
def State.portRetry (who : Nat) : Nat → State → State
  | 0, s => s
  | n + 1, s =>
    match s.mems.held.filter (fun q => q.who = who) with
    | [] => s
    | q :: rest =>
      let t := ({ s with mems := { s.mems with held := s.mems.held.filter (fun r => r.who ≠ who) } }).portServe q
      if t.mems.held.any (fun r => r.who = who) then { t with mems := { t.mems with held := t.mems.held ++ rest } }
      else
        let u := t.leavePoints (.port who)
        State.portRetry who n { u with mems := { u.mems with held := u.mems.held ++ rest } }

/-- One arithmetic clock of the points that hold requests of ports (R222, R223). -/
def State.heldTick (s : State) : State :=
  foldS ((s.mems.held.map (·.who)).eraseDups) (fun who t => State.portRetry who t.mems.held.length t) s

end Sys2Proof.Machine
end

