-- ==== Sys2Proof/Machine/Time.lean ====
section
/-! DEFINITION. The time base, its reference, stamps, pulses, timing groups and the start barrier (15); check units (16 R431 to R434). -/

namespace Sys2Proof.Machine

def pulseAt (t : TimeSt) (p : Nat) : Pulse := t.pulses.getD p Pulse.off
def cascAt (t : TimeSt) (q : Nat) : Casc := t.cascs.getD q Casc.down

def State.setTime (s : State) (t : TimeSt) : State := { s with time := t }
def State.updPulse (s : State) (p : Nat) (f : Pulse → Pulse) : State := s.setTime { s.time with pulses := s.time.pulses.set p (f (pulseAt s.time p)) }
def State.updCasc (s : State) (q : Nat) (f : Casc → Casc) : State := s.setTime { s.time with cascs := s.time.cascs.set q (f (cascAt s.time q)) }

/-! TIME_CFG (R396, R408, R412). -/

/-- Role in effect: 0 standalone, 1 master, 2 member. -/
def State.timeRole (s : State) : Nat := let r := fld (s.reg pgTime 0x010) 5 4; if r = 3 then 0 else r
def State.isMember (s : State) : Bool := s.timeRole = 2
def State.upPort (s : State) : Nat := fld (s.reg pgTime 0x010) 7 6
/-- Downstream ports that are UP; a standalone module has none (R410, R411). -/
def State.downPorts (s : State) : List Nat := if s.timeRole = 0 then [] else (List.range 4).filter (fun q => bitOf (s.reg pgTime 0x010) (8 + q) && (cascAt s.time q).state = 1)
def State.refSrc (s : State) : Nat := let r := fld (s.reg pgTime 0x010) 1 0; if r = 3 then 0 else r

/-- A cell is charged (R145, R381). -/
def State.charged (s : State) : Bool := !s.chargedDescs.isEmpty

/-- A message down every UP downstream port. -/
def State.cascDown (s : State) (m : CascMsg) : State := foldS s.downPorts (fun q t => t.emit (.cascTx q m)) s

/-! The counter (R393, R394, R397, R398). -/

/-- TIME_INCR as it takes effect (R397). -/
def incrClamp (n : Nat) : Nat := max 0x0FFBE76D (min 0x10041893 n)

/-- Edge j of a pulse output (R406). -/
def State.pulseEdgeAt (s : State) (p j : Nat) : Nat :=
  let x := pulseAt s.time p
  let k := j / 2
  x.start + k * (s.reg pgTime (0x108 + 0x20 * p)).toNat + j % 2 * (s.reg pgTime (0x10C + 0x20 * p)).toNat

def State.pulsePeriodic (s : State) (p : Nat) : Bool := bitOf (s.reg pgTime (0x110 + 0x20 * p)) 1

/-- The pin shows the pulse or its rest, by POL. -/
def State.pulseOut (s : State) (p : Nat) (high : Bool) : State :=
  (s.updPulse p (fun x => { x with high := high })).emit (.pulse p (high != bitOf (s.reg pgTime (0x110 + 0x20 * p)) 3))

/-- EN of an output clears (R407): a pulse that is given ends at once. -/
def State.pulseStop (s : State) (p : Nat) : State :=
  let s1 := if (pulseAt s.time p).high then s.pulseOut p false else s
  (s1.updPulse p (fun x => { x with en := false, waitBar := false })).setReg pgTime (0x110 + 0x20 * p) (setBitTo (s.reg pgTime (0x110 + 0x20 * p)) 0 false)

/-- Edge j of an output is given (R406): a leading edge counts; the trailing edge of a one-shot completes it. -/
def State.pulseGive (s : State) (p j : Nat) : State :=
  if j % 2 = 0 then (s.pulseOut p true).updPulse p (fun x => { x with count := (x.count + 1) % 65536, edge := j + 1 })
  else
    let s1 := (s.pulseOut p false).updPulse p (fun x => { x with edge := j + 1 })
    if s.pulsePeriodic p then s1
    else ((s1.updPulse p (fun x => { x with status := .ok })).pulseStop p).pulse pgTime (8 + p)

/-- Edges after edge j that a step jumps over (R407): not given, counted in SKIPPED. A one-shot with no edge left clears EN, and so ends its pulse (DEDUCED, log entry 70). -/
def State.pulseSkip (s : State) (p : Nat) : State :=
  let x := pulseAt s.time p
  if !x.en || x.waitBar then s
  else
    let per := (s.reg pgTime (0x108 + 0x20 * p)).toNat
    -- first edge in the future
    let next := if s.pulsePeriodic p then
        (let k := if x.start ≤ s.now then (s.now - x.start) / per else 0
         let cand := (List.range 4).map (2 * k + ·)
         ((cand.find? (fun j => x.edge ≤ j && s.now < s.pulseEdgeAt p j)).getD x.edge))
      else (((List.range 2).find? (fun j => x.edge ≤ j && s.now < s.pulseEdgeAt p j)).getD 2)
    if next ≤ x.edge then s
    else
      let s1 := s.updPulse p (fun y => { y with skipped := satAdd y.skipped (next - x.edge) 0xFF, edge := next })
      if !s.pulsePeriodic p && 2 ≤ next then s1.pulseStop p else s1

/-- A step has moved the time base forward (R407): the first edge jumped over is given on this edge of the time clock. -/
def State.pulseJump (s : State) (p : Nat) : State :=
  let x := pulseAt s.time p
  if x.en && !x.waitBar && s.pulseEdgeAt p x.edge ≤ s.now then (s.pulseGive p x.edge).pulseSkip p else s

/-- A step of the time base. -/
def State.timeStep (s : State) (d : Int) : State :=
  let s1 := s.setTime { s.time with ns := (((s.time.ns : Int) + d).emod (2 ^ 64)).toNat }
  if 0 < d then foldN 4 (fun p t => t.pulseJump p) s1 else s1

/-- Announced settings whose time has come (R408). -/
def State.announceDue (s : State) : State :=
  let due := s.time.announce.filter (fun a => a.at_ ≤ s.now)
  if due.isEmpty then s else
    foldS due (fun a t => (t.setTime { t.time with foff := a.foff }).timeStep a.step)
      (s.setTime { s.time with announce := s.time.announce.filter (fun a => s.now < a.at_) })

/-- One edge of the time clock (R393, R394): committed settings apply, the increment is added, a member slews by 10 ns a ms (2,684 units of 2^−28 ns an edge), announced steps apply at their value. -/
def State.timeEdge (s : State) : State :=
  let t := s.time
  let s0 := match t.pend with
    | none => s
    | some q => (s.setTime { t with pend := none, incr := q.incr, foff := q.foff, barCfg := q.barCfg }).timeStep q.step
  let u := s0.time
  let slew : Int := max (-2684) (min 2684 u.slew)
  let total : Int := (u.ns : Int) * 2 ^ 28 + u.frac + u.incr + slew
  (s0.setTime { u with ns := (total / 2 ^ 28).toNat % 2 ^ 64, frac := (total.emod (2 ^ 28)).toNat, slew := u.slew - slew }).announceDue

/-- TIME_SETTING_APPLY: the first time-clock edge after a COMMIT. -/
def execTimeSettingApply (s : State) : Ans := .next (if s.time.pend.isSome then s.timeEdge else s)

/-- A signed 64-bit number from two words. -/
def signed64 (lo hi : Word) : Int := signed 64 (lo.toNat + 2 ^ 32 * hi.toNat)

/-- COMMIT of the TIME page (R394, R397 to R399, R408): held for the next edge. A master's step and FOFF go to all its members, and to itself, at one value 100 µs ahead. -/
def State.timeCommit (s : State) : State :=
  let cur : TimeSet := s.time.pend.getD { step := 0, incr := s.time.incr, foff := s.time.foff, barCfg := s.time.barCfg }
  let step := signed64 (s.reg pgTime 0x0C4) (s.reg pgTime 0x0C8)
  let foff := (s.reg pgTime 0x0CC).toNat + 2 ^ 32 * (s.reg pgTime 0x0D0).toNat
  let incr := incrClamp (s.reg pgTime 0x0C0).toNat
  -- FOFF as the last COMMIT left it: in force, held for the next edge, or announced
  let last := match s.time.announce.getLast? with | some a => a.foff | none => cur.foff
  let asks : Bool := step ≠ 0 || foff ≠ last
  let free : Bool := !s.cellsBusy && !s.isMember
  let inRange : Bool := foff ≤ 10239999999
  let step1 := if free then step else 0
  let foff1 := if free && inRange then foff else last
  let s1 := ((s.applyShadow pgTime).setReg pgTime 0x0C4 0).setReg pgTime 0x0C8 0
  let s2 := s1.setTime { s1.time with stepSt := if asks then (if free && inRange then .ok else .configInvalid) else s1.time.stepSt }
  let base : TimeSet := { cur with incr := if s.isMember then cur.incr else incr, barCfg := s.reg pgTime 0x0D4 }
  if s.timeRole = 1 && (step1 ≠ 0 || foff1 ≠ last) then
    let a : Announce := { at_ := s.now + 100000, step := step1, foff := foff1 }
    (s2.setTime { s2.time with pend := some base, announce := s2.time.announce ++ [a] }).cascDown (.announce a.at_ a.step a.foff)
  else s2.setTime { s2.time with pend := some { base with step := cur.step + step1, foff := if s.timeRole = 1 then cur.foff else foff1 } }

/-- SNAP (R395). -/
def hostSnap (s : State) : Ans := .next (s.setTime { s.time with snapNs := s.time.ns, snapFrac := s.time.frac })

/-! The reference (R396). -/

/-- The reference in use has a port that is UP: the upstream cascade port of a member, the SyncE port that SRC names; the module's own oscillator always. -/
def State.refUp (s : State) : Bool :=
  if s.isMember then (cascAt s.time s.upPort).state = 1 else s.refSrc = 0 || (s.ethp (s.refSrc - 1)).up ≠ 0

/-- The PLL enters HOLDOVER. -/
def State.pllHold (s : State) : State := (s.setTime { s.time with pll := .holdover }).pulse pgTime 1

/-- REFERENCE_LOST: the reference in use, SyncE from port 0 or 1 or the upstream cascade port. -/
def execReferenceLost (s : State) : Ans :=
  .next (if s.running && (s.isMember || s.refSrc ≠ 0) && s.time.pll ≠ .holdover then s.pllHold else s)

/-- REFERENCE_GOOD: good for 1 s, the PLL acquires; then it locks. A reference whose port is not UP is not good. -/
def execReferenceGood (s : State) : Ans :=
  if (!s.isMember && s.refSrc = 0) || !s.refUp then .next s
  else
    let t := s.time
    .next (s.setTime { t with pll := (match t.pll with | .acquiring => .locked | .locked => .locked | _ => .acquiring), srcAct := if s.isMember then 3 else s.refSrc })

/-- TIME_CFG is written (R396, R409, R412): refused for a master with an upstream port; ignored while a cell is charged. -/
def State.timeCfg (s : State) (v : Word) : State :=
  if s.charged then s.ignored pgTime
  else
    let bad : Bool := fld v 5 4 = 1 && fld v 7 6 ≠ 0
    let v1 := if bad then v &&& 0xFFFFFFCF else v
    let s1 := s.setReg pgTime 0x010 (v1 &&& 0xFF3)
    let roleNow := s1.timeRole
    let t := s1.time
    let same : Bool := roleNow = s.timeRole && s1.refSrc = s.refSrc
    let s2 := s1.setTime { t with
      stepSt := if bad then .configInvalid else if s.timeRole ≠ roleNow then .ok else t.stepSt
      srcAct := if roleNow = 2 then 3 else s1.refSrc
      pll := if roleNow ≠ 2 && s1.refSrc = 0 then .freerun else if same then t.pll else .acquiring
      casc := if roleNow = 2 then (if roleNow = s.timeRole then t.casc else .none) else .none
      slew := if roleNow = 2 then t.slew else 0
      hops := if roleNow = 2 then t.hops else 0
      nmem := if roleNow = 1 then 1 else 0
      oversize := if roleNow = 1 then t.oversize else false }
    -- a reference whose port is not UP is lost as it is selected
    if s2.refUp || same then s2 else s2.pllHold

/-! Stamps (R401 to R405). -/

/-- TSQ_NONEMPTY follows head ≠ tail. -/
def State.tsqEvent (s : State) (p : Nat) : State := s.level (pgEth p) 8 (fld (s.reg (pgEth p) 0x1C0) 15 0 ≠ (s.ethp p).tsqTail)

/-- A stamp word is written at the tail, or dropped and counted when the queue holds 64 (R403, R404). -/
def State.tsqWord (s : State) (p : Nat) (ws : List Word) : State :=
  let e := s.ethp p
  if idxGap (fld (s.reg (pgEth p) 0x1C0) 15 0) e.tsqTail = 64 then
    (s.setEth p { e with drops := satAdd e.drops 1 0xFFFF, lost := e.lost + 1 }).pulse (pgEth p) 9
  else
    ((s.setEth p { e with tsq := e.tsq.set (e.tsqTail % 64) ws, tsqTail := (e.tsqTail + 1) % 65536, lost := 0 }).recLog 4 0x08 p p (bytesOf ws)).tsqEvent p

/-- A transmit stamp (R402, R403). -/
def State.tsqPut (s : State) (p sub txid ns frac : Nat) (c : Code) : State :=
  s.tsqWord p [w32 ns, w32 (ns / 2 ^ 32), w32 (frac % 16 + (if p < 2 then 16 else 0) + sub % 8 * 32 + txid % 65536 * 65536), w32 (codeVal c + min (s.ethp p).lost 255 * 256)]

/-- ETHERNET_STAMP: the stamp point of the oldest frame that waits for one passes at ns and frac sixteenths; a MAC stamp has no fraction (R401 to R404). -/
def execEthernetStamp (p : EthPort) (ns : DWord) (frac : Fin 16) (s : State) : Ans :=
  let e := s.ethp p.val
  match e.tsWait with
  | [] => .next s
  | (sub, txid) :: rest =>
    let s1 := s.setEth p.val { e with tsWait := rest }
    .next (if s.replayed 4 then s1.liveDrop else s1.tsqPut p.val sub txid ns.toNat (if p.val < 2 then frac.val else 0) .ok)

/-- TSQ_HEAD_WRITE (R266, R403). -/
def hostTsqHeadWrite (p : EthPort) (v : Word) (s : State) : Ans :=
  let head := fld v 15 0
  let cur := fld (s.reg (pgEth p.val) 0x1C0) 15 0
  if idxGap cur (s.ethp p.val).tsqTail < idxGap cur head then .next (s.ignored (pgEth p.val))
  else .next ((s.setReg (pgEth p.val) 0x1C0 (w32 head)).tsqEvent p.val)

/-- A PPS capture (R405), logged as 8 bytes of the count and 4 of its fraction. -/
def State.ppsTake (s : State) (ns frac : Nat) : State :=
  let t := s.time
  ((s.setTime { t with ppsNs := ns, ppsFrac := frac, ppsSeq := (t.ppsSeq + 1) % 65536, ppsTaken := true }).recLog 4 0x08 0 0xFFFF (leBytes 8 ns ++ leBytes 4 frac)).pulse pgTime 0

/-- PPS_EDGE (R405). -/
def execPpsEdge (s : State) : Ans :=
  let t := s.time
  if !s.running then .next s
  else if s.replayed 4 then .next s.liveDrop
  else if t.ppsTaken && s.now < t.ppsNs + 500000000 then .next (s.setTime { t with glitch := satAdd t.glitch 1 0xFFFF })
  else .next (s.ppsTake t.ns t.frac)

/-! Pulse outputs (R406, R407). -/

/-- Pulse p is scheduled from a START (R406, R407); from the barrier's fire time its first pulse is given at once (R410). -/
def State.pulseStart (s : State) (p start : Nat) (fired : Bool) : State :=
  let per := (s.reg pgTime (0x108 + 0x20 * p)).toNat
  let s1 := s.updPulse p (fun x => { x with en := true, waitBar := false, start := start, edge := 0, status := .ok })
  if fired then s1
  else if s.pulsePeriodic p then
    (if start ≤ s.now then s1.updPulse p (fun x => { x with edge := 2 * ((s.now - start) / per + 1) }) else s1)
  else if start < s.now then (s1.updPulse p (fun x => { x with status := .deadlineMissed })).pulseStop p
  else s1

/-- PULSE_ENABLE: a write of TIME_PLSp_CTRL. -/
def hostPulseEnable (p : PulseId) (v : Word) (s : State) : Ans :=
  let o := 0x110 + 0x20 * p.val
  let per := (s.reg pgTime (0x108 + 0x20 * p.val)).toNat
  let width := (s.reg pgTime (0x10C + 0x20 * p.val)).toNat
  let bad : Bool := width = 0 || (bitOf v 1 && per ≤ width) || per < 100
  let s0 := if (pulseAt s.time p.val).high then s.pulseOut p.val false else s
  let s1 := s0.setReg pgTime o (v &&& 0xF)
  if !bitOf v 0 then .next (s1.pulseStop p.val)
  else if bad then .next ((s1.updPulse p.val (fun x => { x with status := .configInvalid })).pulseStop p.val)
  else if bitOf v 2 then .next (s1.updPulse p.val (fun x => { x with en := true, waitBar := true, edge := 0, status := .ok }))
  else .next (s1.pulseStart p.val (s.pair pgTime (0x100 + 0x20 * p.val) (0x104 + 0x20 * p.val)) false)

/-- PULSE_EDGE: the time base reaches the next edge. -/
def execPulseEdge (p : PulseId) (s : State) : Ans :=
  let x := pulseAt s.time p.val
  .next (if x.en && !x.waitBar && s.pulseEdgeAt p.val x.edge ≤ s.now then s.pulseGive p.val x.edge else s)

/-! The barrier (R410, R411). -/

def State.barGran (s : State) : Nat :=
  match fld s.time.barCfg 2 0 with
  | 0 => 1000 | 1 => 125000 | 2 => 1000000 | 4 => 10240000000 | _ => 10000000

/-- A barrier completes; on a fire, what waits for it starts at T (R410, R426). -/
def State.barDone (s : State) (c : Code) (fire : Option Nat) : State :=
  let t := s.time
  let s1 := (s.setTime { t with barState := .done, barStatus := c, barGen := (t.barGen + 1) % 256, barFire := none
                                barT := fire.getD t.barT, cascs := t.cascs.map (fun q => { q with ready := false }) }).pulse pgTime 2
  match fire with
  | none => s1
  | some f =>
    let s2 := foldN 4 (fun p u => if (pulseAt u.time p).en && (pulseAt u.time p).waitBar then u.pulseStart p f true else u) s1
    if s.recMode = 0 || s.recd.running then s2
    else { s2 with recd := { RecSt.reset with running := true, origin := f, cmpAt := [], head0 := s2.recHead } }

def State.barWaiting (s : State) : Bool := s.time.barState = .armed || s.time.barState = .ready

/-- Every downstream port that is UP has reported READY: a member reports upstream; the root fixes T (R410, R411). -/
def State.barCheck (s : State) : State :=
  let t := s.time
  if t.barState ≠ .armed || !s.downPorts.all (fun q => (cascAt t q).ready) then s
  else if s.isMember then (s.setTime { t with barState := .ready }).emit (.cascTx s.upPort .ready)
  else if t.oversize then (s.cascDown .abort).barDone .aborted none
  else
    let g := s.barGran
    let lead := 10000 * max 1 (fld t.barCfg 15 8)
    let d : Int := (s.now : Int) + lead - t.foff
    let at_ := ((d + g - 1) / g * g + t.foff).toNat
    (s.setTime { t with barState := .ready, barFire := some at_ }).cascDown (.fire at_)

/-- BAR_ARM (R410, R411, R426): an arm that would record or replay sections or slot messages needs GRAN = 4. -/
def hostBarArm (s : State) : Ans :=
  let t := s.time
  if s.barWaiting then .next (s.ignored pgTime)
  else if s.recMode ≠ 0 && (s.recClass 0 || s.recClass 1) && fld t.barCfg 2 0 ≠ 4 then .next (s.setTime { t with barStatus := .configInvalid })
  else .next (s.setTime { t with barState := .armed, armedAt := s.now, barFire := none }).barCheck

/-- READY from downstream port q. -/
def execReady (q : CascId) (s : State) : Ans := .next (if s.running then (s.updCasc q.val (fun x => { x with ready := true })).barCheck else s)

/-- FIRE(T) from upstream: forwarded; late, it fires on arrival (R411). -/
def execFire (at_ : DWord) (s : State) : Ans :=
  if !s.isMember || !s.barWaiting then .next s
  else
    let s1 := s.cascDown (.fire at_.toNat)
    if at_.toNat < s.now then .next (s1.barDone .deadlineMissed (some s.now))
    else .next (s1.setTime { s1.time with barFire := some at_.toNat })

/-- BARRIER_FIRE: the time base reaches T. -/
def execBarrierFire (s : State) : Ans :=
  match s.time.barFire with
  | some f => .next (if f ≤ s.now && s.barWaiting then s.barDone .ok (some f) else s)
  | none => .next s

/-- BARRIER_TIMEOUT (R411). -/
def execBarrierTimeout (s : State) : Ans :=
  let t := s.time
  let to_ := 1000000 * max 1 (fld t.barCfg 31 16)
  .next (if !s.isMember && s.barWaiting && t.armedAt + to_ ≤ s.now then (s.cascDown .abort).barDone .aborted none else s)

/-- ABORT from upstream: passed on, and every member that receives it completes with ABORTED, armed or not (R411). -/
def execAbort (s : State) : Ans := .next (if s.isMember then (s.cascDown .abort).barDone .aborted none else s)

/-! Timing groups (R408, R409). -/

/-- A master counts the modules that report to it (R409). -/
def State.countMembers (s : State) : State :=
  if s.timeRole ≠ 1 then s else
    let n := 1 + (s.downPorts.map (fun r => (cascAt s.time r).below)).sum
    s.setTime { s.time with nmem := min 31 n, oversize := decide (16 < n) }

/-- Cascade port q carries no time any more, DOWN or in CONFLICT: a member whose upstream port it is enters HOLDOVER and leaves its barrier; below, the barrier and the count go on without it (R408 to R411). -/
def State.cascLost (s : State) (q : Nat) (state : Nat) : State :=
  let s1 := (s.updCasc q (fun x => { x with state := state, ready := false, below := 0 })).countMembers
  if s.isMember && q = s.upPort then
    let s2 := (s1.setTime { s1.time with casc := .holdover }).pllHold
    if s2.barWaiting then (s2.cascDown .abort).barDone .aborted none else s2
  else s1.barCheck

/-- CASCADE_DELAY_MEASURE: port q has measured its delay in sixteenths of a ns; conflict: both ends claim one role; up: what the upstream end says of its count, FOFF and hops; below: modules that report through a downstream port. -/
def execCascadeDelayMeasure (q : CascId) (dly : Fin 65536) (conflict : Bool) (up : Option (Nat × Nat × Nat)) (below : Fin 32) (s : State) : Ans :=
  if !s.running || s.dieTested 4 then .next s
  else if conflict then .next (((s.updCasc q.val (fun x => { x with dly := dly.val })).cascLost q.val 2).pulse pgTime 3)
  else
    let s1 := s.updCasc q.val (fun x => { x with dly := dly.val, state := 1, below := below.val })
    let t := s1.time
    if s1.isMember && q.val = s1.upPort then
      match up with
      | none => .next s1
      | some (ns, foff, hops) =>
        let t1 := { t with foff := foff, hops := min 15 (hops + 1) }
        .next (if t.casc = .none || t.casc = .locked then
            s1.setTime { t1 with casc := .locked, srcAct := 3, ns := (ns + dly.val / 16) % 2 ^ 64, frac := dly.val % 16 * 2 ^ 24 }
          else s1.setTime t1)
    else .next s1.countMembers

/-- CASCADE_LINK_LOST (R408, R411). -/
def execCascadeLinkLost (q : CascId) (s : State) : Ans := .next (s.cascLost q.val 0)

/-- CASCADE_LINK_RETURN: the member is off by some 2^−28 ns and slews back (R408); its PLL acquires once the link has been good for 1 s (R396). -/
def execCascadeLinkReturn (q : CascId) (off : Int) (s : State) : Ans :=
  let s1 := s.updCasc q.val (fun x => { x with state := 1 })
  if !s.running || s.dieTested 4 then .next s
  else if s.isMember && q.val = s.upPort && s.time.casc = .holdover then .next (s1.setTime { s1.time with casc := .slewing, slew := off })
  else .next s1

/-- CASCADE_SLEW_COMPLETE: within ±(2 × h + 2) ns of the master (R409). -/
def execCascadeSlewComplete (s : State) : Ans :=
  let t := s.time
  .next (if t.casc = .slewing && t.slew.natAbs ≤ (2 * t.hops + 2) * 2 ^ 28 then s.setTime { t with casc := .locked, slew := 0 } else s)

/-- STEP_ANNOUNCE from the master: passed on, and applied at its value (R408). -/
def execStepAnnounce (at_ : DWord) (step : Int) (foff : Nat) (s : State) : Ans :=
  if !s.isMember then .next s
  else
    let s1 := s.setTime { s.time with announce := s.time.announce ++ [{ at_ := at_.toNat, step := step, foff := foff % 10240000000 }] }
    .next ((s1.cascDown (.announce at_.toNat step foff)).announceDue)

/-! Check units (R433, R434). -/

/-- CHK_CTRL.CLOSE: a continuous span ends; with CMP = 0 it is compared (with CMP = 1 the manual compares per-frame results alone); the next begins with INIT (R433). -/
def hostClose (k : ChkId) (s : State) : Ans :=
  let p := pgChk k.val
  let cfg := s.reg p 0x010
  if !bitOf cfg 9 then .next s
  else
    let w := chkWidth cfg
    let r := crcEnd w (s.reg p 0x01C).toNat (bitOf cfg 7) (s.chk k.val).crc
    let s1 := s.chkCompare k.val r (some (if bitOf cfg 10 then r else (s.reg p 0x020).toNat))
    .next ((s1.setChk k.val { s1.chk k.val with crc := s.chkInit k.val }).pulse p 1)

/-- CHK_CTRL.RESTART loads INIT (R431). -/
def hostChkRestart (k : ChkId) (s : State) : Ans := .next (s.setChk k.val { s.chk k.val with crc := s.chkInit k.val })

/-- A write of CHK_CFG: a unit that is enabled begins a span. -/
def State.chkCfg (s : State) (k : Nat) (v : Word) : State :=
  if s.chkHeld k then s.ignored (pgChk k)
  else
    let on : Bool := bitOf v 8 && !bitOf (s.reg (pgChk k) 0x010) 8
    let s1 := s.setReg (pgChk k) 0x010 (v &&& 0x001F0FFF)
    if on then s1.setChk k { s1.chk k with crc := s1.chkInit k } else s1

end Sys2Proof.Machine
end

