-- ==== Sys2Proof/Machine/Ports.lean ====
section
/-! DEFINITION. The host link, slot-message queue pairs, Ethernet ports, payload reassembly, management frames, egress wheels and the board-management target (17). -/

namespace Sys2Proof.Machine

def State.setCxl (s : State) (x : CxlSt) : State := { s with cxl := x }
def State.updCxl (s : State) (f : CxlSt → CxlSt) : State := s.setCxl (f s.cxl)

/-! The host link (R435 to R442). -/

/-- The space and address onto which the device window maps an address (R437, R459). -/
def State.windowMap (s : State) (addr : Nat) : Option (Space × Nat) :=
  let w := s.reg pgCxl (0x800 + 4 * (addr / 2 ^ 30 % 256))
  if bitOf w 0 then
    some (if bitOf w 1 then .dom0 else spaceOf (fld w 13 2), fld w 30 14 * 2 ^ 30 + addr % 2 ^ 30)
  else none

/-- Program memory of a lane, which the manager may write through the window alone (R316). -/
def progExtent (sp : Space) (va len : Nat) : Bool :=
  inLanes sp va len && (laneSpot va).2.1 = 3 && (laneSpot (va + len - 1)).2.1 = 3 && (laneSpot va).1 = (laneSpot (va + len - 1)).1

/-- A write through the window that has been mapped: logged, then stored, or waiting on its page (R276, R422, R437). -/
def State.windowWrite (s : State) (sp : Space) (va : Nat) (bs : List Byte) : State :=
  if s.accCode sp va bs.length ≠ .ok then s.winRefused
  else
    let s1 := s.recLog 2 0x05 0 (spaceIdx sp) (leBytes 8 va ++ bs)
    if progExtent sp va bs.length then s1.progWrite (laneSpot va).1 (laneSpot va).2.2 bs
    else s1.windowStep sp va (.write bs) s.tag7 false

/-- WINDOW_ACCESS: nothing is accepted while the CXL.mem stream is Insecure (R440). -/
def hostWindowAccess (addr : Fin 274877906944) (op : AccessOp) (s : State) : Ans :=
  if s.cxl.state ≠ .up || s.cxl.insecure.contains 4 then .next s
  else
    let s := (s.chkCxl false).chkCxl true
    match op, s.windowMap addr.val with
    | .read len, none => .next (s.winRefused.emit (.windowPoison len))
    | .read len, some (sp, va) => .next (s.windowStep sp va (.read len) s.tag7 false)
    | .write _, none => .next s.winRefused
    | .write bs, some (sp, va) => .next (if s.replayed 2 then s.liveDrop else s.windowWrite sp va bs)

/-- ATS_INVALIDATION: later requests translate again: the host refuses, or gives, a translation of the pages (R439). -/
def execAtsInvalidation (pasid : BitVec 20) (first pages : Nat) (refused : Bool) (s : State) : Ans :=
  let r := (pasid.toNat, first, pages)
  -- a range that is translated anew is cut out of what is refused
  let cut (x : Nat × Nat × Nat) : List (Nat × Nat × Nat) :=
    if x.1 ≠ pasid.toNat || !meets x.2.1 x.2.2 first pages then [x]
    else ([(x.1, x.2.1, first - x.2.1), (x.1, first + pages, x.2.1 + x.2.2 - (first + pages))]).filter (fun (y : Nat × Nat × Nat) => 0 < y.2.2)
  let kept := s.cxl.denied.flatMap cut
  .next ((s.updCxl (fun x => { x with denied := if refused && 0 < pages then r :: kept else kept })).emit (.atsDone pasid.toNat first pages))

/-- IDE_INTEGRITY_FAIL: stream 0 to 3 is a selective stream of CXL.io, stream 4 CXL.cache and CXL.mem (R440). -/
def execIdeIntegrityFail (stream : Fin 5) (s : State) : Ans :=
  .next (if !s.running then s else s.updCxl (fun x => { x with
    insecure := if x.insecure.contains stream.val then x.insecure else stream.val :: x.insecure
    ide := if stream.val < 4 && x.ide / 2 ^ stream.val % 2 = 1 then x.ide - 2 ^ stream.val else x.ide
    cmide := x.cmide && stream.val ≠ 4 }))

/-- TSP_LOCK and TSP_UNLOCK (R441). -/
def execTspLock (i : InstId) (s : State) : Ans := .next (if s.running then s.updInst i.val (fun x => { x with locked := true }) else s)
def execTspUnlock (i : InstId) (s : State) : Ans := .next (s.updInst i.val (fun x => { x with locked := false }))

/-- CXL_LINK_UP: the widest width and fastest rate of both ends, or FLITFAIL (R435). -/
def execCxlLinkUp (width rate : Nat) (flit256 : Bool) (s : State) : Ans :=
  if s.cxl.state ≠ .training || !([1, 2, 4, 8].contains width) || !([16, 32, 64].contains rate) then .next s
  else .next (s.updCxl (fun x => { x with state := if flit256 then .up else .flitfail, width := width, rate := rate }))

/-! Slot messages from the L2 host (R443). -/

/-- A message that has landed for a cell that this way serves; another is discarded (R152). -/
def State.landMessage (s : State) (mine : Bool) (ws : List Word) : State :=
  let h := slotHead ws
  if s.replayed 1 then s.liveDrop
  else if mine && 1 ≤ h.type && h.type ≤ 3 then s.landSlot ws
  else s.errorInd h.cell (s.cell h.cell).desc h.sfn h.slot 0 h.type .configInvalid h.seq 0

/-- One inbound entry of a queue pair: copied, or skipped and counted. -/
def State.l2qEntry (s : State) (q n : Nat) : State :=
  let o := l2qBase q
  let s := (s.chkCxl true).chkCxl false
  let (c, bs, s1) := s.loadDev .dom0 (hostVa (s.ringBase pgCxl o + 16 * (n % s.ringLen pgCxl o))) 16
  let ws := wordsOf 4 bs
  let len := fld (wAt ws 2) 23 0
  let (c2, msg, s2) := if c = .ok && len % 8 = 0 && 16 ≤ len then s1.loadDev .dom0 (hostVa ((wAt ws 0).toNat + 2 ^ 32 * fld (wAt ws 1) 15 0)) len else (.configInvalid, [], s1)
  let s3 := s2.setL2q q { s2.l2q q with inHead := (n + 1) % 65536 }
  if c2 ≠ .ok then s3.setL2q q { s3.l2q q with bad := satAdd (s3.l2q q).bad 1 0xFFFF }
  else
    let m := wordsOf (len / 4) msg
    let cell := (slotHead m).cell
    s3.landMessage (cell % 8 = q && !dL2Path (s3.cell cell).desc) m

/-- L2Q_INBOUND_TAIL_WRITE (R257, R443). -/
def hostL2qInboundTailWrite (q : Fin 8) (v : Word) (s : State) : Ans :=
  let o := l2qBase q.val
  let tail := fld v 15 0
  let head := (s.l2q q.val).inHead
  if s.ringLen pgCxl o < idxGap head tail || idxGap head tail < idxGap head (s.ringIdx pgCxl o) then .next (s.ignored pgCxl)
  else
    let s1 := s.setReg pgCxl (o + 0xC) (w32 tail)
    .next (if s1.ringOn pgCxl o then foldN (idxGap head tail) (fun i t => t.l2qEntry q.val ((head + i) % 65536)) s1 else s1)

/-- L2Q_DHEAD_WRITE (R443, R459). -/
def hostL2qDheadWrite (q : Fin 8) (v : Word) (s : State) : Ans :=
  let s1 := s.setReg pgCxl (l2qBase q.val + 0x34) (v &&& 0x3FFFFFFF)
  .next (s1.l2qDrain q.val (s1.l2q q.val).waiting.length)

/-! Ingress policing (R456). -/

/-- Tokens at a time of a bucket that held some at an earlier one. -/
def refill (b : Nat × Nat) (rate depth now : Nat) : Nat := min depth (b.1 + (now - b.2) * rate)

/-- A frame at a bucket: whether it passes, and the bucket after. -/
def police (b : Nat × Nat) (rate depth cost now : Nat) : Bool × (Nat × Nat) :=
  let t := refill b rate depth now
  if cost ≤ t then (true, (t - cost, now)) else (false, (t, now))

/-- Depth of a configured bucket in eightieths of a byte; its rate adds RATE of them a nanosecond (R459). -/
def cfgDepth (w : Word) : Nat := (let d := fld w 29 16; if d = 0 then 9 else d) * 1024 * 80
def cfgRate (w : Word) : Nat := fld w 13 0

/-- The uplink stream of a cell that a frame belongs to, and whether it carries section type 3. -/
def State.frameStream (s : State) (p : Nat) : FrameBody → Option (Nat × Nat)
  | .uplane _ _ e _ _ secs => (s.ulCell p e).map (fun c => (c.1, 2 * c.2 + b1 (secs.any (·.prach))))
  | .iq _ _ _ m => (s.ulCell p m.eaxc).map (fun c => (c.1, 2 * c.2))
  | _ => none

/-- The policer, at the frame's stamp as taken (R401, R456): passed or not. A stream's buckets are full until its cell is ACTIVE. -/
def State.policeFrame (s : State) (p : Nat) (f : EthFrame) : Bool × State :=
  match s.frameStream p f.body with
  | some (c, key) =>
    let x := s.cell c
    let d := x.desc
    let depth := polDepth d key
    let rate := if key % 2 = 0 then 14 * polS d else 65536
    let (ok, b) := police (x.buckets.get (depth, f.stamp.toNat) key) rate depth (f.len * dTslot d) f.stamp.toNat
    (ok, s.setCell c { x with buckets := x.buckets.set key b })
  | none =>
    let e := s.ethp p
    let pl : Bool := (match f.body with | .payload .. => s.role p f.sub = 2 | _ => false)
    let w := s.reg (pgEth p) (if pl then 0x034 else 0x038)
    let (ok, b) := police (if pl then e.plTok.get (0, 0) f.sub else e.mgTok) (cfgRate w) (cfgDepth w) (80 * f.len) f.stamp.toNat
    let pass : Bool := ok && cfgRate w ≠ 0
    let b1 := if ok && !pass then (b.1 + 80 * f.len, b.2) else b
    (pass, s.setEth p (if pl then { e with plTok := e.plTok.set f.sub b1 } else { e with mgTok := b1 }))

/-! Payload datagrams (R451, R452). -/

/-- Fragments cover bytes 0 to total − 1. -/
def coversAll (got : List (Nat × Nat)) (total : Nat) : Bool :=
  (0 :: got.map (fun r => r.1 + r.2)).all (fun a => total ≤ a || got.any (fun r => r.1 ≤ a && a < r.1 + r.2))

/-- A complete message. -/
def State.landReasm (s : State) (r : Reasm) : State :=
  let ws := wordsOf (r.total / 4) (r.bytes.readN 0 r.total)
  s.landMessage ((slotHead ws).cell = r.cell) ws

/-- The header of an incomplete message, as far as it has come. -/
def Reasm.head (r : Reasm) : SlotHead := slotHead (wordsOf 4 (r.bytes.readN 0 16))

/-- A datagram at a payload port. -/
def State.datagram (s : State) (p srcIp : Nat) (ipFragment : Bool) (ver cell : Nat) (msgid : Word) (offset total : Nat) (bs : List Byte) : State :=
  let d := (s.cell cell).desc
  if ipFragment || ver ≠ 1 || total < offset + bs.length || total < 16 || total % 8 ≠ 0 then s.ethDrop p 9
  else if (s.peer p 2 cell).isNone || !dL2Path d || dL2Port d ≠ p then s.ethDrop p 10
  else
    let e := s.ethp p
    let same (r : Reasm) : Bool := r.src = srcIp && r.cell = cell && r.msgid = msgid
    let old := e.reasm.find? same
    if old.isNone && 64 ≤ e.reasm.length then s.ethDrop p 11
    else
      let r0 := old.getD { src := srcIp, cell := cell, msgid := msgid, total := total, since := s.now, first := false, got := [], bytes := [] }
      if r0.total ≠ total then s.ethDrop p 9
      else
        let r := { r0 with first := r0.first || offset = 0, got := (offset, bs.length) :: r0.got, bytes := Memory.writeN offset bs r0.bytes }
        if coversAll r.got total then (s.setEth p { e with reasm := e.reasm.filter (fun x => !same x) }).landReasm r
        else s.setEth p { e with reasm := if old.isSome then e.reasm.map (fun x => if same x then r else x) else e.reasm ++ [r] }

/-- PAYLOAD_DATAGRAM: a datagram that has passed the policer. -/
def execPayloadDatagram (p : EthPort) (srcIp : Nat) (ipFragment : Bool) (ver : Nat) (cell : CellId) (msgid : Word) (offset total : Nat) (bytes : List Byte) (s : State) : Ans :=
  .next (if !s.running then s else s.datagram p.val srcIp ipFragment ver cell.val msgid offset total bytes)

/-- A reassembly that has run out of time. -/
def State.reasmOut (s : State) (p : Nat) (r : Reasm) : State :=
  let s1 := s.ethDrop p 11
  if r.first then s1.errorInd r.cell (s.cell r.cell).desc r.head.sfn r.head.slot 0 r.head.type .configInvalid r.head.seq 0 else s1

/-- REASSEMBLY_TIMEOUT: 2 × Tslot after the first fragment (R452). -/
def execReassemblyTimeout (p : EthPort) (s : State) : Ans :=
  let e := s.ethp p.val
  let late (r : Reasm) : Bool := r.since + 2 * dTslot (s.cell r.cell).desc ≤ s.now
  .next (foldS (e.reasm.filter late) (fun r t => t.reasmOut p.val r) (s.setEth p.val { e with reasm := e.reasm.filter (fun r => !late r) }))

/-! Frames received (R445 to R449, R453). -/

/-- A stamp word of a received frame (R402): only the timing ports stamp at the medium. -/
def rxStamp (p : Nat) (f : EthFrame) : List Word :=
  if p < 2 then [w32 f.stamp.toNat, w32 (f.stamp.toNat / 2 ^ 32), w32 (f.frac % 16 + 16 + f.sub % 8 * 32), 0] else [0, 0, 0, 0]

/-- A frame for host software: into the management receive ring, or dropped when it is full (R453). -/
def State.mgmtReceive (s : State) (p : Nat) (f : EthFrame) (bs : List Byte) : State :=
  let g := pgEth p
  let n := (s.ethp p).mrxTail
  if !s.ringOn g 0x620 || s.ringLen g 0x620 ≤ idxGap (s.ringIdx g 0x620) n then s.ethDrop p 12
  else
    let at_ := s.ringBase g 0x620 + 32 * (n % s.ringLen g 0x620)
    let (_, e, s1) := s.loadDev .dom0 (hostVa at_) 32
    let ws := wordsOf 8 e
    let s2 := s1.putHost ((wAt ws 0).toNat + 2 ^ 32 * fld (wAt ws 1) 15 0) bs
    let s3 := s2.putHost (at_ + 8) (bytesOf ([w32 (bs.length % 16384 + f.sub % 8 * 65536), 0] ++ rxStamp p f))
    let s4 := if p < 2 then s3.recLog 4 0x08 p (p + 256) (bytesOf (rxStamp p f)) else s3
    s4.updEth p (fun x => { x with mrxTail := (n + 1) % 65536 })

/-- The frame's addresses and tag are those its sub-port accepts (R445). -/
def State.addressOk (s : State) (p : Nat) (f : EthFrame) : Bool :=
  let g := pgEth p
  let alt := (s.reg g 0x024).toNat + 2 ^ 32 * fld (s.reg g 0x028) 15 0
  let v := s.reg g 0x02C
  (f.dst = s.ownMac p f.sub || (bitOf (s.reg g 0x028) 16 && f.dst = alt)) && !f.doubleTag
    && (match f.vlan with | none => !bitOf v 15 | some id => bitOf v 15 && id = fld v 11 0)

/-- The source and the eAxC ID stand in one RU entry (R445, R448). -/
def State.ruOk (s : State) (p src eaxc : Nat) : Bool :=
  (List.range 32).any (fun e =>
    fld (s.reg (pgEth p) (0x204 + 0x20 * e)) 20 19 = 1 && s.peerMac p e = src
      && inRange eaxc (fld (s.reg (pgEth p) (0x208 + 0x20 * e)) 15 0) (fld (s.reg (pgEth p) (0x208 + 0x20 * e)) 31 16))

/-- SeqId of a stream (R449): a number ahead of the one expected is a gap; one behind has come out of order. -/
def State.seqCheck (s : State) (p eaxc seqId : Nat) : State :=
  match s.ulCell p eaxc with
  | none => s
  | some (c, st) =>
    let x := s.cell c
    let s1 := s.setCell c { x with rxSeq := x.rxSeq.set st ((seqId + 1) % 256) }
    match x.rxSeq.find st with
    | none => s1
    | some want =>
      let k := (seqId + 256 - want) % 256
      if k = 0 then s1 else if k < 128 then s1.ethDrop p 6 else s

/-- A one-way delay Response at once (R446): the measurement's ID, action 2, the stamp in seconds and nanoseconds, no compensation (layout PRESUMED, log entry 27). -/
def State.delayResponse (s : State) (p : Nat) (f : EthFrame) (id : Nat) : State :=
  let body := [0x10#8, 5#8] ++ beBytes 2 20 ++ [BitVec.ofNat 8 id, 2#8] ++ beBytes 6 (f.stamp.toNat / 1000000000) ++ beBytes 4 (f.stamp.toNat % 1000000000) ++ beBytes 8 0
  s.queueFrame p { sub := f.sub, launch := s.now, deadline := s.now, eaxc := none, kind := .delay,
                   bytes := s.ethHeader p f.sub f.src 0xAEFE ++ body, tsreq := false, txid := 0, close := none }

/-- Bytes of a frame that follow its eCPRI common header, the FCS apart (R448). -/
def frameEcpriBytes (f : EthFrame) : Nat := f.len - (14 + (if f.vlan.isSome then 4 else 0) + 4 + 4)

/-- An eCPRI header that the device supports: revision 1, no concatenation (R446). -/
def ecpriHeadOk (h : EcpriHead) : Bool := h.rev = 1 && !h.concat

/-- dataDirection 0, payloadVersion 1 and the filterIndex of the sections' type: 0 for type 1 and 1 for type 3, as the C-plane of R166 sends them (R448). -/
def radioHeadOk (r : RadioHead) (secs : List USection) : Bool := r.dir = 0 && r.ver = 1 && secs.all (fun x => r.filter = b1 x.prach)

/-- A section's udCompHdr is not that of its stream's cell. -/
def State.compBad (s : State) (p eaxc : Nat) (secs : List USection) : Bool :=
  match s.ulCell p eaxc with
  | some (c, _) => secs.any (fun x => x.comp ≠ compHdr (dUlComp (s.cell c).desc))
  | none => false

/-- The checks of R448 on a U-plane frame, in order: the counter it is dropped under. A time-domain message has no application header. -/
def State.uplaneBad (s : State) (p : Nat) (f : EthFrame) (h : EcpriHead) (r : Option RadioHead) (eaxc : Nat) (eBit : Bool) (secs : List USection) : Option Nat :=
  if !ecpriHeadOk h || !s.ruOk p f.src eaxc then some 0
  else if h.size ≠ frameEcpriBytes f || r.any (fun x => !radioHeadOk x secs) then some 4
  else if s.compBad p eaxc secs then some 5
  else if !eBit then some 4
  else none

/-- A frame that its addresses admit. -/
def State.deliverFrame (s : State) (p : Nat) (f : EthFrame) : State :=
  match f.body with
  | .uplane h r e eBit q secs =>
    (match s.uplaneBad p f h (some r) e eBit secs with
     | some i => s.ethDrop p i
     | none =>
       foldS secs (fun x t => if t.replayed 0 then t.liveDrop else t.uplane p { x with eaxc := e, stamp := f.stamp, frac := f.frac }) (s.seqCheck p e q.toNat))
  | .iq h eBit q m =>
    (match s.uplaneBad p f h none m.eaxc eBit [] with
     | some i => s.ethDrop p i
     | none =>
       let s1 := s.seqCheck p m.eaxc q.toNat
       if s1.replayed 0 then s1.liveDrop else s1.iqMessage p { m with stamp := f.stamp, frac := f.frac })
  | .ecpriOther h t =>
    if !ecpriHeadOk h then s.ethDrop p 0
    else if [1, 3, 4, 6, 7].contains t then s.updEth p (fun x => { x with unsup := satAdd x.unsup 1 0xFFFF })
    else s.mgmtReceive p f (f.raw.take (f.raw.length - 4))
  | .delayRequest h id => if ecpriHeadOk h then s.delayResponse p f id else s.ethDrop p 0
  | .payload ip frag ver cell msgid off total bs =>
    if s.role p f.sub = 2 then s.datagram p ip frag ver (cell % 512) msgid off total bs else s.mgmtReceive p f (f.raw.take (f.raw.length - 4))
  | .other bs => s.mgmtReceive p f bs

/-- eAxC ID of a frame, for the check units (R432). -/
def frameEaxc : FrameBody → Option Nat
  | .uplane _ _ e _ _ _ => some e
  | .iq _ _ _ m => some m.eaxc
  | _ => none

/-- ETH_FRAME_RECEIVE (R448): the policer, then the checks, then delivery. A frame with a bad FCS, injected (R500), or longer than 9,216 bytes goes no further (R444). -/
def execEthFrameReceive (p : EthPort) (f : EthFrame) (s : State) : Ans :=
  if (s.ethp p.val).up / 2 ^ f.sub % 2 ≠ 1 then .next s
  else
    match (match s.bist.inj.find 6 with | some j => if j.arg % 8 = f.sub then s.useInj 6 p.val else (none, s) | none => (none, s)) with
    | (some _, s1) => .next (s1.ethDrop p.val 15)
    | (none, s1) =>
      let s2 := s1.chkEth p.val false (frameEaxc f.body) f.raw
      if 9216 < f.len then .next s2
      else
        let (pass, s3) := s2.policeFrame p.val f
        if !pass then .next ((s3.ethDrop p.val 13).updEth p.val (fun x => { x with polDrop := satAdd x.polDrop 1 0xFFFF }))
        else if !s3.addressOk p.val f then .next (s3.ethDrop p.val 0)
        else .next (s3.deliverFrame p.val f)

/-! Egress (R453 to R455). -/

/-- One management frame to send: one that cannot go still gets its stamp (R403). -/
def State.mtxEntry (s : State) (p n : Nat) : State :=
  let g := pgEth p
  let (_, e, s1) := s.loadDev .dom0 (hostVa (s.ringBase g 0x600 + 32 * (n % s.ringLen g 0x600))) 32
  let ws := wordsOf 8 e
  let len := fld (wAt ws 2) 13 0
  let sub := fld (wAt ws 2) 18 16
  let ts := bitOf (wAt ws 2) 14
  let txid := fld (wAt ws 3) 15 0
  let (c, bs, s2) := s1.loadDev .dom0 (hostVa ((wAt ws 0).toNat + 2 ^ 32 * fld (wAt ws 1) 15 0)) len
  let s3 := s2.updEth p (fun x => { x with mtxHead := (n + 1) % 65536 })
  if c = .ok && len ≤ 9212 && (s3.ethp p).up / 2 ^ sub % 2 = 1 then
    s3.queueFrame p { sub := sub, launch := s3.now, deadline := s3.now, eaxc := none, kind := .mgmt, bytes := bs, tsreq := ts, txid := txid, close := none }
  else if ts then s3.tsqPut p sub txid 0 0 .aborted
  else s3

/-- MANAGEMENT_TX_TAIL_WRITE. -/
def hostManagementTxTailWrite (p : EthPort) (v : Word) (s : State) : Ans :=
  let g := pgEth p.val
  let tail := fld v 15 0
  let head := (s.ethp p.val).mtxHead
  if s.ringLen g 0x600 < idxGap head tail || idxGap head tail < idxGap head (s.ringIdx g 0x600) then .next (s.ignored g)
  else
    let s1 := s.setReg g 0x60C (w32 tail)
    .next (if s1.ringOn g 0x600 then foldN (idxGap head tail) (fun i t => t.mtxEntry p.val ((head + i) % 65536)) s1 else s1)

/-- Key of a frame that waits: its deadline as a tag, and its LATE bit (R216 to R219). -/
def State.frameKey (s : State) (f : EgressFrame) : Int := s.tagKey (tagOf f.deadline) f.late

/-- Frames put in order of their keys; equal ones keep theirs (R222, R454). -/
def State.insertFrame (s : State) (f : EgressFrame) : List EgressFrame → List EgressFrame
  | [] => [f]
  | g :: t => if s.frameKey f < s.frameKey g then f :: g :: t else g :: s.insertFrame f t

/-- A frame leaves: its FCS is added, the check units see it, a stamp is awaited (R403, R432, R455). -/
def State.sendFrame (s : State) (p : Nat) (f : EgressFrame) : State :=
  let s1 := (s.emit (.ethTx p f)).chkEth p true f.eaxc (f.bytes ++ leBytes 4 (crc32 f.bytes))
  let s2 := if f.tsreq then s1.updEth p (fun x => { x with tsWait := x.tsWait ++ [(f.sub, f.txid)] }) else s1
  match f.close with
  | some e => if f.launch < e && e < s.now then s2.ethDrop p 14 else s2
  | none => s2

/-- WHEEL_BUCKET_DUE: the frames of a sub-port whose launch time has come leave, nearest deadline first (R454). -/
def execWheelBucketDue (p : EthPort) (sub : Fin 8) (s : State) : Ans :=
  let e := s.ethp p.val
  let due (f : EgressFrame) : Bool := f.sub = sub.val && f.launch / 128 * 128 ≤ s.now
  let ready := (e.wheel.filter due).foldl (fun acc f => s.insertFrame f acc) []
  .next (foldS ready (fun f t => t.sendFrame p.val f) (s.setEth p.val { e with wheel := e.wheel.filter (fun f => !due f) }))

/-- A sub-port goes DOWN (R396, R403, R455). -/
def State.subDown (s : State) (p sub : Nat) : State :=
  let e := s.ethp p
  if e.up / 2 ^ sub % 2 ≠ 1 then s
  else
    let gone := e.wheel.filter (fun f => f.sub = sub)
    let s1 := s.setEth p { e with up := e.up - 2 ^ sub, wheel := e.wheel.filter (fun f => f.sub ≠ sub) }
    let s2 := foldS gone (fun f t => if f.tsreq then t.tsqPut p sub f.txid 0 0 .aborted else t) s1
    if (s2.ethp p).up = 0 && !s2.isMember && s2.refSrc = p + 1 && s2.time.pll ≠ .holdover then s2.pllHold else s2

/-- ETHERNET_LINK_DOWN. -/
def execEthernetLinkDown (p : EthPort) (sub : Fin 8) (s : State) : Ans := .next (s.subDown p.val sub.val)

/-- ETHERNET_LINK_UP: an enabled sub-port of the port's mode, with a role (R444, R459). -/
def execEthernetLinkUp (p : EthPort) (sub : Fin 8) (s : State) : Ans :=
  let e := s.ethp p.val
  if bitOf (s.reg (pgEth p.val) 0x014) 0 && !s.dieTested (4 + p.val / 4) && sub.val < s.subCount p.val && s.role p.val sub.val ≠ 0 && e.up / 2 ^ sub.val % 2 = 0 then
    .next (s.setEth p.val { e with up := e.up + 2 ^ sub.val })
  else .next s

/-! Board management (R457, R458). -/

def State.setI3c (s : State) (x : I3cSt) : State := { s with i3c := x }

/-- The provisional ID (R457). -/
def provisionalId : Nat := Sys2Proof.Config.mipiCode % 2 ^ 15 * 2 ^ 33 + 0x9624 * 2 ^ 16 + 0xB * 2 ^ 12 + Sys2Proof.Config.slotId % 16

/-- I3C_CCC: arg is the address given, or the events byte. A target without an address answers no direct CCC. -/
def execI3cCcc (c : I3cCcc) (arg : Nat) (s : State) : Ans :=
  let x := s.i3c
  let read (bs : List Byte) : State := if x.addr.isSome then s.emit (.i3cData bs) else s.emit .i3cNack
  .next (match c with
    | .entdaa => if x.addr.isNone then (s.setI3c { x with addr := some (arg % 128) }).emit (.i3cData (beBytes 6 provisionalId)) else s.emit .i3cNack
    | .setnewda => if x.addr.isSome then (s.setI3c { x with addr := some (arg % 128) }).emit .i3cAck else s.emit .i3cNack
    | .rstdaa => (s.setI3c { x with addr := none }).emit .i3cAck
    | .enec => (s.setI3c { x with ibi := x.ibi || arg % 2 = 1 }).emit .i3cAck
    | .disec => (s.setI3c { x with ibi := x.ibi && arg % 2 = 0 }).emit .i3cAck
    | .getpid => read (beBytes 6 provisionalId)
    | .getbcr => read (Sys2Proof.Config.i3cAnswer 0)
    | .getdcr => read (Sys2Proof.Config.i3cAnswer 1)
    | .getstatus => read (Sys2Proof.Config.i3cAnswer 2)
    | .getmxds => read (Sys2Proof.Config.i3cAnswer 3)
    | .other _ => s.emit .i3cNack)

/-- I3C_PRIVATE_WRITE: one byte sets the pointer, from 0x00 to 0x1F; another write is not taken. -/
def execI3cPrivateWrite (bytes : List Byte) (s : State) : Ans :=
  match s.i3c.addr, bytes with
  | some _, [b] => .next (if b.toNat < 32 then (s.setI3c { s.i3c with ptr := b.toNat }).emit .i3cAck else s.emit .i3cNack)
  | _, _ => .next (s.emit .i3cNack)

/-- I3C_PRIVATE_READ: n bytes of the snapshot from the pointer on. -/
def execI3cPrivateRead (n : Nat) (s : State) : Ans :=
  let x := s.i3c
  match x.addr with
  | none => .next (s.emit .i3cNack)
  | some _ => .next ((s.setI3c { x with ptr := (x.ptr + n) % 32 }).emit (.i3cData ((List.range n).map (fun i => x.snap.getD ((x.ptr + i) % 32) 0))))

/-- Groves outside the floor that are parked. -/
def State.parkedGroves (s : State) : Nat := ((List.range 32).filter (fun g => (s.grove g).parked)).length

/-- Code of the power state (R480). -/
def State.powerCode (s : State) : Nat :=
  match s.pwr.phase with
  | .standby => 1
  | .starting => 2
  | .running => if s.parkedGroves = 0 then 3 else if s.parkedGroves < 28 then 4 else 5
  | .tripped => 6

/-- The module is fenced (R458). -/
def State.fencedNow (s : State) : Bool := s.lv.state = .fenced

def le16 (v : Int) : List Byte := leBytes 2 (v.emod 65536).toNat

/-- TELEMETRY_SNAPSHOT (R458, R522): an in-band interrupt when FLAGS changed and ENEC allows it. -/
def execTelemetrySnapshot (r : Readings) (s : State) : Ans :=
  let x := s.i3c
  let flags := b1 s.pwr.overTemp + 2 * b1 (decide (r.voltage < 4800) || decide (6000 < r.voltage)) + 4 * b1 s.fencedNow + 8 * b1 (decide (s.pwr.throt ≠ 0))
  let seq := (x.seq + 1) % 2 ^ 32
  let snap := leBytes 2 r.voltage ++ leBytes 2 r.current ++ leBytes 2 r.power ++ [BitVec.ofNat 8 s.powerCode, BitVec.ofNat 8 flags]
    ++ (List.range 6).flatMap (fun i => le16 (r.dies.getD i 0)) ++ le16 r.hbm ++ le16 r.stage ++ leBytes 4 seq ++ leBytes 4 0
  let s1 := s.setI3c { x with snap := snap, seq := seq, flags := flags }
  .next (if x.ibi && flags ≠ x.flags then s1.emit (.i3cIbi (BitVec.ofNat 8 flags)) else s1)

end Sys2Proof.Machine
end

