-- ==== Sys2Proof/Machine/Shake.lean ====
section
/-! DEFINITION. The digest that the manual names: the first 32 bytes of SHAKE256 (18 R462, R478). The function stands in FIPS 202, outside the manual (PRESUMED, log entry 29); its constants are computed from their rules, not tabled. -/

namespace Sys2Proof.Machine

/-- The sponge's 25 words of 64 bits: word x + 5 y stands at column x, row y, both taken modulo 5. -/
abbrev Sponge := List DWord

def wordAt (a : Sponge) (x y : Nat) : DWord := a.getD (x % 5 + y % 5 * 5) 0

/-- The feedback register of the round constants after n clocks. -/
def roundReg (n : Nat) : Nat := (List.range n).foldl (fun r _ => if r < 128 then 2 * r else (2 * r % 256) ^^^ 0x71) 1

/-- What round n adds to word 0: clocks 7n to 7n + 6 of the register give the bits at places 2^j − 1. -/
def roundWord (n : Nat) : DWord := BitVec.ofNat 64 ((List.range 7).map (fun j => roundReg (7 * n + j) % 2 * 2 ^ (2 ^ j - 1))).sum

/-- The tour of the 24 places beside (0, 0): from (x, y) it goes on to (y, 2x + 3y). -/
def tour : Nat → Nat × Nat
  | 0 => (1, 0)
  | n + 1 => ((tour n).2, (2 * (tour n).1 + 3 * (tour n).2) % 5)

/-- Every word takes up the parities of the column before it and, turned by one, of the column after it. -/
def mixColumns (a : Sponge) : Sponge :=
  let parity (x : Nat) : DWord := wordAt a x 0 ^^^ wordAt a x 1 ^^^ wordAt a x 2 ^^^ wordAt a x 3 ^^^ wordAt a x 4
  let add := (List.range 5).map (fun x => parity (x + 4) ^^^ (parity (x + 1)).rotateLeft 1)
  a.mapIdx (fun i w => w ^^^ add.getD (i % 5) 0)

/-- Each word moves one place on along the tour, turned by the number of that step's triangle. -/
def moveWords (a : Sponge) : Sponge :=
  (List.range 24).foldl (fun b n =>
    let (x, y) := tour (n + 1)
    b.set (x + 5 * y) ((wordAt a (tour n).1 (tour n).2).rotateLeft ((n + 1) * (n + 2) / 2 % 64))) a

/-- Within a row, each word is flipped where the next is 0 and the one after it is 1; word 0 takes up the round's word. -/
def bendRows (n : Nat) (a : Sponge) : Sponge :=
  a.mapIdx (fun i w => w ^^^ (wordAt a (i + 2) (i / 5) &&& ~~~(wordAt a (i + 1) (i / 5))) ^^^ (if i = 0 then roundWord n else 0))

/-- The 24 rounds. -/
def spongeMix (a : Sponge) : Sponge := (List.range 24).foldl (fun b n => bendRows n (moveWords (mixColumns b))) a

/-- A message, its suffix 1111, and the padding to whole blocks of 136 bytes, as words of 64 bits. -/
def spongeWords (m : List Byte) : List DWord :=
  let n := 17 * (m.length / 136 + 1)
  let bs := m ++ [0x1F#8]
  (List.range n).map (fun i => BitVec.ofNat 64 (leNat ((bs.drop (8 * i)).take 8) + (if i + 1 = n then 2 ^ 63 else 0)))

/-- A block's words enter the first 17 and the rounds follow. -/
def spongeTake (a : Sponge) (ws : List DWord) : Sponge := spongeMix (a.mapIdx (fun i w => w ^^^ (ws.take 17).getD i 0))

/-- The first 32 bytes of SHAKE256. -/
def shake256 (m : List Byte) : List Byte :=
  let a := (List.range (m.length / 136 + 1)).foldl (fun a i => spongeTake a ((spongeWords m).drop (17 * i))) (List.replicate 25 0)
  (a.take 4).flatMap (fun w => leBytes 8 w.toNat)

end Sys2Proof.Machine
end

