-- ==== Sys2Proof/Machine/Trust.lean ====
section
/-! DEFINITION. Packages and the binder, trust anchors and monotonic counters, the signer and attestation (18). -/

namespace Sys2Proof.Machine

def State.setSeed (s : State) (x : SeedSt) : State := { s with seed := x }
def State.updSeed (s : State) (f : SeedSt → SeedSt) : State := s.setSeed (f s.seed)

/-! Packages as bytes (R461 to R464). -/

/-- Little-endian number of n bytes at an offset. -/
def numAt (bs : List Byte) (off n : Nat) : Nat := leNat ((bs.drop off).take n)

/-- A section (R461): its type, flags, word 1, offset and length. -/
structure Section where
  type  : Nat
  flags : Nat
  w1    : Nat
  off   : Nat
  len   : Nat
deriving DecidableEq, Repr

/-- The sections of a package's table, in its order. -/
def pkgSections (bs : List Byte) : List Section :=
  (List.range (numAt bs 7 1)).map (fun i =>
    let o := 64 + 32 * i
    { type := numAt bs o 1, flags := numAt bs (o + 1) 1, w1 := numAt bs (o + 4) 4, off := numAt bs (o + 8) 8, len := numAt bs (o + 16) 8 })

def pkgKind (bs : List Byte) : Nat := numAt bs 5 1 % 16
def pkgAnchor (bs : List Byte) : Nat := numAt bs 5 1 / 16
def pkgLvlMin (bs : List Byte) : Nat := numAt bs 6 1 % 16
def pkgLvlMax (bs : List Byte) : Nat := numAt bs 6 1 / 16
def pkgAbi (bs : List Byte) : Nat := numAt bs 8 2
def pkgSvn (bs : List Byte) : Nat := numAt bs 10 2
def pkgCtr (bs : List Byte) : Nat := numAt bs 12 1 % 32
def pkgSigoff (bs : List Byte) : Nat := numAt bs 16 8

/-- Bytes of a section. -/
def secBytes (bs : List Byte) (x : Section) : List Byte := (bs.drop x.off).take x.len

/-- Bytes of the sections of a type. -/
def secOf (bs : List Byte) (type : Nat) : List Byte := (((pkgSections bs).filter (fun x => x.type = type)).map (secBytes bs)).flatten

/-- Types that a kind must carry, and all that it may (R460). -/
def kindNeeds : Nat → List Nat
  | 1 => [1, 4] | 2 => [2, 4] | _ => [5, 6, 4]
def kindMay : Nat → List Nat
  | 1 => [1, 4, 2, 3] | 2 => [2, 4, 7, 3] | _ => [5, 6, 4, 7, 8, 3]

/-- The table's reserved bits are 0 and word 1 is 0 but for a weight segment. -/
def sectionOk (bs : List Byte) (i : Nat) : Bool :=
  let o := 64 + 32 * i
  numAt bs (o + 2) 2 = 0 && numAt bs (o + 24) 8 = 0
    && (numAt bs o 1 = 7 || (numAt bs (o + 4) 4 = 0 && numAt bs (o + 1) 1 = 0)) && numAt bs (o + 1) 1 < 4

/-- Check 1 of R468: header, section table and sections under R460 and R461. A type other than WGT stands at most once (DEDUCED). -/
def pkgForm (bs : List Byte) (len : Nat) : Bool :=
  let xs := pkgSections bs
  let k := pkgKind bs
  let tableEnd := 64 + 32 * xs.length
  64 ≤ bs.length && numAt bs 0 4 = 0x4B504B41 && numAt bs 4 1 = 1 && 1 ≤ k && k ≤ 3
    && 1 ≤ pkgLvlMin bs && pkgLvlMin bs ≤ pkgLvlMax bs && 1 ≤ xs.length && xs.length ≤ 32
    && numAt bs 12 4 < 31 && pkgSigoff bs % 8 = 0 && pkgSigoff bs < numAt bs 24 8 && numAt bs 24 8 = len
    && numAt bs 32 4 < 8192 && numAt bs 36 28 = 0
    && (List.range xs.length).all (sectionOk bs)
    && xs.all (fun x => x.off % 8 = 0 && tableEnd ≤ x.off && x.off + x.len ≤ pkgSigoff bs && (kindMay k).contains x.type)
    && (List.range xs.length).all (fun i => (List.range i).all (fun j =>
      match xs[i]?, xs[j]? with
      | some a, some b => !meets a.off a.len b.off b.len && (a.type = 7 || a.type ≠ b.type)
      | _, _ => true))
    && (kindNeeds k).all (fun t => xs.any (fun x => x.type = t))

/-- Interface levels of stepping B0 (R8) that the package supports. -/
def pkgLevels (bs : List Byte) : List Nat := [1, 2].filter (fun l => pkgLvlMin bs ≤ l && l ≤ pkgLvlMax bs)

/-- OID of a stored key: its first 4 bytes, most significant first. -/
def keyOid (key : List Word) : Nat := beNat ((bytesOf key).take 4)

/-- Signature bytes of a parameter set (R464); the OIDs are those of SP 800-208 (PRESUMED, log entry 30). -/
def sigLen (oid : Nat) : Option Nat :=
  let mt (h d : Nat) : Option Nat := some (cdiv h 8 + 32 + 32 * h + 2144 * d)
  match oid with
  | 0x10 => some 2500 | 0x11 => some 2692 | 0x12 => some 2820
  | 0x29 => mt 20 2 | 0x2A => mt 20 4 | 0x2B => mt 40 2 | 0x2C => mt 40 4 | 0x2D => mt 40 8
  | 0x2E => mt 60 3 | 0x2F => mt 60 6 | 0x30 => mt 60 12
  | _ => none

/-- A signature of a slot's key over a message. -/
def sigOk (a : Anchor) (msg sig : List Byte) : Bool :=
  sigLen (keyOid a.key) = some sig.length && Sys2Proof.Config.xmssVerify (bytesOf a.key) msg sig

/-- DECL records (R463). -/
def declRecords (bs : List Byte) : List (List Word) :=
  let d := secOf bs 4
  (List.range (numAt d 0 2)).map (fun i => wordsOf 8 ((d.drop (16 + 32 * i)).take 32))

/-- DECL is well formed: preamble and records, reserved bits 0; a learned receiver's CODE and areas 0; a graph has no records. -/
def declOk (bs : List Byte) : Bool :=
  let d := secOf bs 4
  16 ≤ d.length && numAt d 2 14 = 0 && d.length = 16 + 32 * numAt d 0 2
    && (declRecords bs).all (fun r => fld (wAt r 0) 31 30 = 0 && fld (wAt r 1) 31 10 = 0 && fld (wAt r 2) 31 18 = 0 && fld (wAt r 3) 31 18 = 0
      && fld (wAt r 6) 31 18 = 0 && fld (wAt r 7) 31 16 = 0 && (pkgKind bs ≠ 2 || (wAt r 3 = 0 && wAt r 4 = 0 && wAt r 5 = 0)))
    && (pkgKind bs ≠ 3 || numAt d 0 2 = 0)

/-- Step descriptors of STEPS (R252). -/
def pkgSteps (bs : List Byte) : List (List Word) :=
  let d := secOf bs 5
  (List.range (d.length / 32)).map (fun i => wordsOf 8 ((d.drop (32 * i)).take 32))

/-- The step-table rules checked at a bind (R252). -/
def stepsOk (bs : List Byte) : Bool :=
  let d := secOf bs 5
  let xs := pkgSteps bs
  let ends (e : List Word) : Bool := fld (wAt e 0) 3 0 = 4 || fld (wAt e 0) 3 0 = 6
  d.length % 32 = 0 && (match xs.getLast? with | some e => decide (fld (wAt e 0) 3 0 = 6) | none => false)
    && xs.all (fun e => !(ends e && bitOf (wAt e 0) 4))
    && (xs.zip (xs.drop 1)).all (fun p => !(bitOf (wAt p.1 0) 4 && ends p.2))

/-! Where a package goes (R470). -/

/-- Sections placed at PADDR, with their offsets from it. -/
def paddrPlan (bs : List Byte) : List (Nat × Section) × Nat :=
  ((pkgSections bs).filter (fun x => !(pkgKind bs = 1 && x.type = 1))).foldl
    (fun acc x => let a := cdiv acc.2 8 * 8; (acc.1 ++ [(a, x)], a + x.len)) (([] : List (Nat × Section)), 0)

/-- A registered object meets pages of a space. -/
def State.objMeets (s : State) (sp : Space) (vpn n : Nat) : Bool :=
  s.mems.objects.any (fun p => p.2.space = sp && meets p.2.vpn p.2.npages vpn n)

def stLmask (st : List Word) : Nat := leNat (bytesOf (st.take 4))
def stInst (st : List Word) : Nat := fld (wAt st 0) 11 0
def stWbase (st : List Word) : Nat := (wAt st 1).toNat + 2 ^ 32 * fld (wAt st 2) 15 0
def stPbase (st : List Word) : Nat := fld (wAt st 4) 11 0
def stPaddr (st : List Word) : Nat := (wAt st 5).toNat + 2 ^ 32 * fld (wAt st 6) 7 0

/-- Lanes of LMASK. -/
def stLanes (st : List Word) : List Nat := (List.range 128).filter (fun l => stLmask st / 2 ^ l % 2 = 1)

/-- First page and pages of the range at PADDR. -/
def paddrPages (bs : List Byte) (st : List Word) : Nat × Nat := (stPaddr st / 65536, cdiv (paddrPlan bs).2 65536)

def State.paddrOk (s : State) (bs : List Byte) (st : List Word) : Bool :=
  let (v, n) := paddrPages bs st
  stPaddr st % 65536 = 0 && (v + n) * 65536 ≤ laneLo && !s.objMeets .dom0 v n

/-- Weight segments that hold bytes: first page, pages. -/
def wgtSegs (bs : List Byte) (st : List Word) : List (Nat × Nat × Section) :=
  ((pkgSections bs).filter (fun x => x.type = 7 && 0 < x.len)).map (fun x =>
    let a := stWbase st + x.w1
    (a / 65536, (a + x.len - 1) / 65536 + 1 - a / 65536, x))

/-- Check 7: the target. -/
def State.targetOk (s : State) (bs : List Byte) (st : List Word) : Bool :=
  match pkgKind bs with
  | 1 =>
    let n := (secOf bs 1).length / 8
    stLmask st ≠ 0 && stPbase st + n ≤ 4096 && fld (wAt st 4) 31 12 = 0 && fld (wAt st 6) 31 8 = 0 && wAt st 7 = 0
      && (stLanes st).all (fun l => !s.rangeEnabled l (stPbase st) n && (s.lane l).seals.all (fun r => !meets r.1 r.2.1 (stPbase st) n))
      && s.paddrOk bs st
  | 2 => (st.take 5).all (· = 0) && fld (wAt st 6) 31 8 = 0 && wAt st 7 = 0 && s.paddrOk bs st
  | _ =>
    let i := stInst st
    let segs := wgtSegs bs st
    fld (wAt st 0) 31 12 = 0 && fld (wAt st 2) 31 16 = 0 && (st.drop 3).all (· = 0)
      && (s.inst i).phase = .active && stWbase st % 65536 = 0
      && segs.all (fun g => g.1 + g.2.1 ≤ s.pagesOf i && !s.objMeets (spaceOf i) g.1 g.2.1)
      && (List.range segs.length).all (fun a => (List.range a).all (fun b =>
        match segs[a]?, segs[b]? with
        | some x, some y => !meets x.1 x.2.1 y.1 y.2.1
        | _, _ => true))

/-- Lowest object IDs from 4,096 upward that name no object. -/
def State.freeOids (s : State) (n : Nat) : List Nat :=
  let used := s.mems.objects.map (·.1)
  (((List.range (n + used.length)).map (4096 + ·)).filter (fun o => !used.contains o && o < 262144)).take n

/-- The die on which the binder registers objects of a domain: the lowest on which it holds a channel (DESIGN CHOICE, log entry 24). -/
def State.bindDie (s : State) (d : Nat) : Nat := (s.lowDie d).getD 0

/-- The object of a weight segment. -/
def State.wgtObj (s : State) (i : Nat) (g : Nat × Nat × Section) : Obj :=
  { space := spaceOf i, die := s.bindDie (s.inst i).domain, vpn := g.1, npages := g.2.1, pinned := g.2.2.flags % 2 = 1, cmpt2 := g.2.2.flags / 2 % 2 = 1,
    base := 0, stalls := Stalls.zero }

/-- Check 9: a handle, frames and object IDs are free. -/
def State.roomOk (s : State) (bs : List Byte) (st : List Word) : Bool :=
  s.seed.pkgs.length < 1024
    && (if pkgKind bs = 3 then
      let i := stInst st
      let segs := wgtSegs bs st
      let d := (s.inst i).domain
      let pins := ((segs.filter (fun g => g.2.2.flags % 2 = 1)).map (fun g => g.2.1)).sum
      let frames := (s.channels d (s.bindDie d)).length * usableFrames
      (s.freeOids segs.length).length = segs.length && segs.all (fun g => g.2.1 ≤ 16384) && (segs.isEmpty || (s.lowDie d).isSome)
        && (pins = 0 || frames ≤ (frames - (s.pinnedClaim d (s.bindDie d) + pins)) * 16)
    else
      let (v, n) := paddrPages bs st
      let new := ((List.range n).filter (fun j => (s.home (pageKeyOf 4096 (v + j))).tier ≠ .t2)).length
      (s.freeOids 1).length = 1 && n ≤ 16384 && new ≤ s.freeFrames 0 (s.bindDie 0))

/-- The checks of R468 in order: the number and code of the first that fails. -/
def State.bindCheck (s : State) (bs : List Byte) (len : Nat) (st : List Word) : Option (Nat × Code) :=
  let k := pkgKind bs
  let a := s.seed.anchors.find (pkgAnchor bs)
  let dom := (s.inst (stInst st)).domain
  if !pkgForm bs len then some (1, .configInvalid)
  else if (pkgLevels bs).isEmpty then some (2, .levelUnsupported)
  else if (match a with | some x => !(x.rights / 2 ^ (k - 1) % 2 = 1 && (x.domain = 0 || (k = 3 && x.domain = dom))) | none => true) then some (3, .signatureInvalid)
  else if (match a with | some x => !sigOk x (bs.take (pkgSigoff bs)) (bs.drop (pkgSigoff bs)) | none => true) then some (4, .signatureInvalid)
  else if pkgSvn bs < s.seed.ctrs.get 0 (pkgCtr bs) then some (5, .configInvalid)
  else if 4096 < numAt bs 32 4 || !declOk bs || (k = 3 && !stepsOk bs) || (secOf bs 1).length % 8 ≠ 0 then some (6, .configInvalid)
  else if !s.targetOk bs st then some (7, .configInvalid)
  else if k = 3 && s.seed.pkgs.any (fun p => p.2.kind = 3 && p.2.inst = stInst st && p.2.abi ≠ pkgAbi bs) then some (8, .generationMismatch)
  else if !s.roomOk bs st then some (9, .capacityExceeded)
  else none

/-- The lowest free handle (R472). -/
def State.freeHandle (s : State) : Nat := (((List.range 1024).map (· + 1)).find? (fun h => (s.seed.pkgs.find h).isNone)).getD 0

/-- CKPT entries (R461). -/
def ckptList (d : List Byte) : List (Nat × Nat) := (List.range ((d.length - 8) / 16)).map (fun i => (numAt d (8 + 16 * i) 8, numAt d (16 + 16 * i) 8))

/-- A package that has passed is placed and entered (R469, R470). -/
def State.place_ (s : State) (bs : List Byte) (st : List Word) (h : Nat) : State :=
  let k := pkgKind bs
  let i := stInst st
  let code := secOf bs 1
  let level := ((pkgLevels bs).getLast?).getD 0
  let n := code.length / 8
  let base : Pkg := {
    kind := k, anchor := pkgAnchor bs, level := level, abi := pkgAbi bs, svn := pkgSvn bs, npspan := numAt bs 32 4,
    padr := if k = 3 then 0 else stPaddr st, size := (paddrPlan bs).2, digest := shake256 (bs.take (pkgSigoff bs)),
    inst := if k = 3 then i else 0, wbase := if k = 3 then stWbase st else 0, lmask := if k = 1 then stLmask st else 0,
    pbase := if k = 1 then stPbase st else 0, pinst := n, oid := 0, records := declRecords bs, steps := pkgSteps bs, cmds := secOf bs 6,
    wgts := [], ckptsz := numAt (secOf bs 8) 0 8, ckpt := ckptList (secOf bs 8) }
  let enter (p : Pkg) (t : State) : State := t.updSeed (fun x => { x with pkgs := x.pkgs.set h p })
  if k = 3 then
    let segs := wgtSegs bs st
    let oids := s.freeOids segs.length
    let s1 := foldS (segs.zip oids) (fun g t => (t.addObj g.2 (s.wgtObj i g.1)).putDev (spaceOf i) (stWbase st + g.1.2.2.w1) (secBytes bs g.1.2.2)) s
    enter { base with wgts := (segs.zip oids).map (fun g => { oid := g.2, vpn := g.1.1, npages := g.1.2.1 }) } s1
  else
    let oid := (s.freeOids 1).getD 0 0
    let (v, np) := paddrPages bs st
    let s0 := if k = 1 then foldS (stLanes st) (fun l t => t.updLane l (fun y =>
      { y with prog := Memory.writeN (8 * stPbase st) code y.prog, seals := y.seals ++ [(stPbase st, n, h)] })) s else s
    let s1 := s0.addObj oid { space := .dom0, die := s.bindDie 0, vpn := v, npages := np, pinned := true, cmpt2 := false, base := 0, stalls := Stalls.zero }
    let s2 := foldS (paddrPlan bs).1 (fun p t => t.putDev .dom0 (stPaddr st + p.1) (secBytes bs p.2)) s1
    enter { base with oid := oid } s2

/-- A bind has run: its result. What the checks refuse leaves nothing placed. -/
def State.bindNow (s : State) (addr len : Nat) (st : List Word) : State :=
  let (c, bs, s1) := s.loadDev .dom0 addr len
  let done (x : SeedSt) : SeedSt := { x with job := none, jobHeld := false }
  let s2 := match (if c = .ok then s1.bindCheck bs len st else some (1, .configInvalid)) with
    | some (n, code) => s1.updSeed (fun x => { done x with status := code, reason := n })
    | none =>
      let h := s1.freeHandle
      (s1.place_ bs st h).updSeed (fun x => { done x with status := .ok, reason := 0, handle := h, level := ((pkgLevels bs).getLast?).getD 0 })
  s2.pulse pgSeed 0

/-- Words of the bind staging entry. -/
def State.bindStage (s : State) : List Word := (List.range 8).map (fun i => s.reg pgSeed (0x140 + 4 * i))

/-- An address held as bits [31:12] and [39:32] (R479). -/
def State.seedAddr (s : State) (lo hi : Nat) : Nat := fld (s.reg pgSeed lo) 31 12 * 4096 + fld (s.reg pgSeed hi) 7 0 * 2 ^ 32

/-- BIND: address, length and staging are taken together at the write; held behind admission (R467, R472). -/
def hostBind (v : Word) (s : State) : Ans :=
  if fld v 1 0 ≠ 1 then .next s
  else if s.seed.job.isSome then .next (s.ignored pgSeed)
  else .next (s.updSeed (fun x => { x with
    job := some (.bind (s.seedAddr 0x100 0x104) ((s.reg pgSeed 0x108).toNat + 2 ^ 32 * fld (s.reg pgSeed 0x11C) 7 0) s.bindStage)
    jobHeld := s.coord.busy }))

/-- BIND_COMPLETE. -/
def execBindComplete (s : State) : Ans :=
  match s.seed.job, s.seed.jobHeld with
  | some (.bind a n st), false => .next (s.bindNow a n st)
  | _, _ => .next s

/-- UNBIND: held behind admission (R472). -/
def hostUnbind (v : Word) (s : State) : Ans :=
  if fld v 1 0 ≠ 2 then .next s
  else if s.seed.job.isSome then .next (s.ignored pgSeed)
  else if s.coord.busy then .next (s.updSeed (fun x => { x with job := some (.unbind (fld v 14 4)), jobHeld := true }))
  else .next (s.unbindNow (fld v 14 4))

/-- PACKAGE_READ (R470, R479). -/
def hostPackageRead (v : Word) (s : State) : Ans :=
  if fld v 1 0 ≠ 3 then .next s
  else if s.seed.job.isSome then .next (s.ignored pgSeed)
  else
    match s.seed.pkgs.find (fld v 14 4) with
    | none => .next (s.updSeed (fun x => { x with status := .configInvalid, reason := 0 }))
    | some p => .next (s.updSeed (fun x => { x with status := .ok, reason := 0
                                                    read := [w32 (p.kind + p.level * 16 + p.abi * 65536), w32 p.svn, w32 p.padr, w32 (p.padr / 2 ^ 32), 0, 0, 0, 0] ++ wordsOf 8 p.digest }))

/-! Trust anchors and counters (R465, R466, R473). -/

/-- Slots that hold RIGHTS [3]. -/
def managers (a : Table Anchor) : Bool := a.any (fun p => 8 ≤ p.2.rights % 16)

/-- The anchor bank after a command. -/
def anchorsAfter (a : Table Anchor) (ws : List Word) : Table Anchor :=
  let slot := fld (wAt ws 0) 7 4
  match fld (wAt ws 0) 3 0 with
  | 1 => a.set slot { key := (ws.drop 3).take 17, rights := fld (wAt ws 0) 15 12, domain := fld (wAt ws 0) 21 16 }
  | 2 => a.erase slot
  | _ => a

/-- The code of an anchor command: its block's words, what it was signed over and its signature. -/
def State.anchorCode (s : State) (ws : List Word) (block sig : List Byte) : Code :=
  let x := s.seed
  let w := wAt ws 0
  let op := fld w 3 0
  let n := fld w 26 22
  let first : Bool := x.anchors.isEmpty && op = 1 && fld w 7 4 = 0 && bitOf w 15
  let signed : Bool := match x.anchors.find (fld w 11 8) with | some a => decide (8 ≤ a.rights % 16) && sigOk a block sig | none => false
  let form : Bool := 1 ≤ op && op ≤ 3 && fld w 31 27 = 0 && (List.range 4).all (fun i => wAt ws (20 + i) = 0)
    && (wAt ws 1).toNat = x.ctrs.get 0 31 && x.ctrs.get 0 31 < 2 ^ 32 - 1
    && (op ≠ 3 || (n ≤ 30 && x.ctrs.get 0 n < (wAt ws 2).toNat))
    && (op ≠ 1 || fld w 21 16 = 0 || (!bitOf w 12 && !bitOf w 13 && !bitOf w 15))
    && managers (anchorsAfter x.anchors ws)
  codePick [if first || signed then .ok else .signatureInvalid, if form then .ok else .configInvalid]

/-- An anchor command of one OP; a block whose OP is none of the three is refused. -/
def State.anchorCmd (s : State) (v : Word) (op : Nat) : State :=
  if !bitOf v 0 then s
  else
    let a := s.seedAddr 0x10C 0x110
    let (c, block, s1) := s.loadDev .dom0 a 96
    let ws := wordsOf 24 block
    let got := fld (wAt ws 0) 3 0
    if c = .ok && got ≠ op && 1 ≤ got && got ≤ 3 then s
    else
      let n := match s.seed.anchors.find (fld (wAt ws 0) 11 8) with | some k => (sigLen (keyOid k.key)).getD 0 | none => 0
      let (c2, sig, s2) := s1.loadDev .dom0 (a + 96) n
      let code := if c ≠ .ok then .configInvalid else s1.anchorCode ws block (if c2 = .ok then sig else [])
      let s3 := s2.updSeed (fun x => { x with ancStat := code })
      let s4 := if code ≠ .ok then s3 else s3.updSeed (fun x =>
        let ctrs := if got = 3 then x.ctrs.set (fld (wAt ws 0) 26 22) (wAt ws 2).toNat else x.ctrs
        { x with anchors := anchorsAfter x.anchors ws, ctrs := ctrs.set 31 (x.ctrs.get 0 31 + 1) })
      s4.pulse pgSeed 1

/-- INSTALL, ANCHOR_CLEAR and RAISE: a write of SEED_ANC_CMD (R466). -/
def hostInstall (v : Word) (s : State) : Ans := .next (s.anchorCmd v 1)
def hostAnchorClear (v : Word) (s : State) : Ans := .next (s.anchorCmd v 2)
def hostRaise (v : Word) (s : State) : Ans := .next (s.anchorCmd v 3)

/-! The signer (R474 to R478). -/

/-- A request for a report of the instance is pending. -/
def State.attPending (s : State) (i : Nat) : Bool :=
  let isFor (r : SignReq) : Bool := r.who = .tenant i || r.who = .manager i
  s.seed.queue.any isFor || (match s.seed.signing with | some g => isFor g.req | none => false)

/-- TENANT_ATTESTATION_REQUEST (R324, R477): nonce in the first eight staging words, destination in the next two. -/
def hostTenantAttestationRequest (i : InstId) (v : Word) (s : State) : Ans :=
  let p := pgMbx i.val
  if pageDead (s.inst i.val).phase then .next (s.ignored pgMap)
  else if !bitOf v 0 then .next s
  else if s.attPending i.val then .next (s.ignored p)
  else
    let st := (List.range 12).map (fun k => s.reg p (0x5A0 + 4 * k))
    let r : SignReq := { who := .tenant i.val, nonce := bytesOf (st.take 8), dest := ((wAt st 8).toNat + 2 ^ 32 * fld (wAt st 9) 15 0) / 64 * 64 }
    .next ((s.updInst i.val (fun x => { x with attBusy := true })).updSeed (fun x => { x with queue := x.queue ++ [r] }))

/-- MANAGER_ATTESTATION_REQUEST. -/
def hostManagerAttestationRequest (v : Word) (s : State) : Ans :=
  let i := fld v 15 4
  if !bitOf v 0 then .next s
  else if s.seed.attBusy || s.attPending i then .next (s.ignored pgSeed)
  else
    let r : SignReq := { who := .manager i, nonce := (List.range 8).flatMap (fun k => leBytes 4 (s.reg pgSeed (0x160 + 4 * k)).toNat), dest := s.seedAddr 0x114 0x118 }
    .next (s.updSeed (fun x => { x with attBusy := true, queue := x.queue ++ [r] }))

/-- SPDM_REQUEST (R440, R474): what is to be signed waits for the signer. -/
def execSpdmRequest (x : SpdmRequest) (s : State) : Ans :=
  .next (if s.running then s.updSeed (fun y => { y with queue := y.queue ++ [{ who := .spdm x.ide, nonce := x.msg, dest := 0 }] }) else s)

/-- The keys of an IDE stream are programmed: it is secure, and the device accepts requests on it again (R440). The IDE_KM messages are not laid out; here they follow the release of the signature that authenticates their session (DESIGN CHOICE, log entry 74). -/
def State.ideKeys (s : State) (k : Fin 5) : State :=
  s.updCxl (fun x => { x with insecure := x.insecure.filter (· ≠ k.val), ide := if k.val < 4 then Nat.lor x.ide (2 ^ k.val) else x.ide, cmide := x.cmide || k.val = 4 })

/-- The identity public key, 68 bytes. -/
def identityKey : List Byte := bytesOf ((List.range 17).map Sys2Proof.Config.identityKeyWord)

/-- Units lo to hi − 1 that a domain holds, as a bit map (R478). -/
def State.unitMap (s : State) (d lo n : Nat) : List Byte :=
  (List.range n).map (fun b => BitVec.ofNat 8 ((List.range 8).foldl (fun a j => a + b1 (s.owner (lo + 8 * b + j) = some d) * 2 ^ j) 0))

/-- PAGE_VER (R508): stepping B0, block version 2, levels 1 and 2. -/
def pageVer : Word := 0x302B0

/-- A report of an instance as it stands, signature excluded (R478). -/
def State.report (s : State) (i : Nat) (nonce : List Byte) : List Byte :=
  let x := s.inst i
  let d := x.domain
  let all := s.seed.pkgs.filter (fun p => p.2.kind = 3 && p.2.inst = i)
  let gs := all.take 16
  let flags := b1 (bitOf (s.inForce (pgSds 4) 0x0E8) 0) + 2 * b1 x.logOn + 4 * b1 x.locked + 8 * b1 x.keysrc + 16 * b1 (s.lendable d) + 128 * b1 (decide (16 < all.length))
  leBytes 4 0x54544141 ++ leBytes 2 1 ++ leBytes 2 gs.length ++ leBytes 4 (352 + 48 * gs.length + 5605) ++ leBytes 4 pageVer.toNat
    ++ shake256 identityKey ++ (nonce ++ List.replicate 32 0#8).take 32 ++ leBytes 8 s.now ++ leBytes 2 s.modId ++ leBytes 2 flags ++ leBytes 4 0
    ++ shake256 (s.fbk.map.readN 0 1024)
    ++ (List.range 32).flatMap (fun c => leBytes 2 (s.seed.ctrs.get 0 c))
    ++ leBytes 2 i ++ leBytes 1 d ++ leBytes 1 (phaseCode x.phase) ++ leBytes 1 x.cls ++ leBytes 3 0 ++ leBytes 4 x.pasid ++ leBytes 4 x.quota ++ leBytes 2 x.dmem ++ leBytes 14 0
    ++ s.unitMap d 0 8 ++ s.unitMap d 64 48 ++ s.unitMap d 448 16 ++ s.unitMap d 576 16
    ++ leBytes 4 (s.inForce (pgFbk d) 0x0C0).toNat ++ leBytes 4 (s.inForce (pgFbk d) 0x0C4).toNat
    ++ leBytes 2 (s.insts.filter (fun q => q.2.phase ≠ .free && q.2.domain = d)).length ++ leBytes 30 0
    ++ gs.flatMap (fun p => p.2.digest ++ leBytes 2 p.1 ++ leBytes 1 p.2.level ++ leBytes 1 p.2.anchor ++ leBytes 2 p.2.abi ++ leBytes 2 p.2.svn ++ leBytes 8 0)

/-- INDEX_LOW stands while fewer than 2^20 indices remain (R476). -/
def State.indexLow (s : State) : State :=
  let x := s.seed
  let on : Bool := 2 ^ 40 - x.top + (x.block.2 - x.block.1) < 2 ^ 20
  if bitOf (s.evtRaw pgSeed) 2 = on then s else s.level pgSeed 2 on

/-- A request is answered with a code; a tenant's event rises (R477). -/
def State.signDone (s : State) (who : SignFor) (c : Code) : State :=
  match who with
  | .tenant i => (s.updInst i (fun x => { x with attBusy := false, attStat := c })).evt (pgMbx i) (s.evtRaw (pgMbx i)) (1#32 <<< 12)
  | .manager _ => s.updSeed (fun x => { x with attBusy := false, attStat := c })
  | .spdm _ => s

/-- SIGNER_TAKE_REQUEST: the oldest request is taken up: its report is captured, its index fixed; without an index it ends (R475 to R477). -/
def execSignerTakeRequest (s : State) : Ans :=
  let x := s.seed
  match x.signing, x.queue with
  | none, r :: rest =>
    let s1 := s.updSeed (fun y => { y with queue := rest })
    if x.block.1 = x.block.2 && 2 ^ 40 ≤ x.top then
      let s2 := (s1.updSeed (fun y => { y with exh := true })).signDone r.who .indexExhausted
      .next (match r.who with | .spdm _ => s2.emit (.spdm none) | _ => s2)
    else
      let fresh : Bool := x.block.1 = x.block.2
      let rep := match r.who with | .tenant i => s.report i r.nonce | .manager i => s.report i r.nonce | .spdm _ => r.nonce
      .next (s1.updSeed (fun y => { y with signing := some { req := r, report := rep, index := if fresh then x.top else x.block.1, made := false, held := fresh }
                                           block := if fresh then y.block else (y.block.1 + 1, y.block.2) }))
  | _, _ => .next s

/-- The signature leaves: the report is written to its destination (R477). -/
def State.signRelease (s : State) (g : Signing) : State :=
  let s1 := s.updSeed (fun y => { y with signing := none })
  let sig := beBytes 5 g.index ++ (List.range 5600).map (Sys2Proof.Config.identitySign g.index g.report)
  let s2 := match g.req.who with
    | .spdm k => (match k with | some n => s1.ideKeys n | none => s1).emit (.spdm (some g.index))
    | .tenant i => let (c, t) := s1.storeDev (spaceOf i) g.req.dest (g.report ++ sig); t.signDone g.req.who c
    | .manager _ => let (c, t) := s1.storeDev .dom0 g.req.dest (g.report ++ sig); t.signDone g.req.who c
  let s3 := s2.updSeed (fun y => { y with exh := decide (2 ^ 40 ≤ y.top) && decide (y.block.1 = y.block.2) })
  s3.indexLow

/-- SIGNATURE_COMPLETE: released, or held until TOP is written. -/
def execSignatureComplete (s : State) : Ans :=
  match s.seed.signing with
  | some g => .next (if g.made then s else if g.held then s.updSeed (fun y => { y with signing := some { g with made := true } }) else s.signRelease g)
  | none => .next s

/-- TOP_WRITE_COMPLETE (R475). -/
def execTopWriteComplete (s : State) : Ans :=
  match s.seed.signing with
  | some g =>
    if g.made && g.held then .next ((s.updSeed (fun y => { y with top := g.index + 1024, block := (g.index + 1, g.index + 1024) })).signRelease g) else .next s
  | none => .next s

end Sys2Proof.Machine
end

