-- ==== Sys2Proof/Machine/Power.lean ====
section
/-! DEFINITION. Power states, parking, thermal and supply response, resets and the start-up sequence (19; 22 R522). -/

namespace Sys2Proof.Machine

def State.setPwr (s : State) (x : PwrSt) : State := { s with pwr := x }

/-! Resets (R489). -/

/-- The seed bank as start-up reads it: anchors, counters and TOP survive; the block in hand is lost (R473, R475). -/
def SeedSt.kept (x : SeedSt) : SeedSt := { SeedSt.reset with anchors := x.anchors, ctrs := x.ctrs, top := x.top }

/-- Everything outside the seed bank at its reset value, no key in any slot. Commands that wait, what has left the module, the host's memory and the host's translations are not the module's. -/
def State.wipe (s : State) (p : PwrSt) (i : I3cSt) : State :=
  { State.reset with
    pending := s.pending, fresh := s.fresh, out := s.out, mem := s.mem.filter (fun c => hostKey 0 0 ≤ c.1)
    fbk := { State.reset.fbk with d0key := none, map := [], image := [] }
    seed := s.seed.kept, pwr := p, i3c := i, cxl := { CxlSt.reset with state := .down, denied := s.cxl.denied } }

/-- The module at a step of the start-up sequence. -/
def PwrSt.at_ (step : Nat) (modTest : Bool) : PwrSt := { PwrSt.running with phase := .starting, step := step, modTest := modTest }

/-- A module reset: start-up from step 4 with the rails held; the I3C address is kept (R489). -/
def State.moduleReset (s : State) : State := s.wipe (PwrSt.at_ 4 s.pwr.modTest) { I3cSt.reset with addr := s.i3c.addr }

/-- The main rails are removed. -/
def State.railsOff (s : State) (phase : PwrPhase) (hot : Bool) : State :=
  s.wipe { PwrSt.running with phase := phase, step := 0, overTemp := hot } { I3cSt.reset with addr := s.i3c.addr }

/-- MODULE_RESET: PWR_CTRL.RESET with KEY 0xA5; another KEY is ignored and counted. -/
def hostModuleReset (v : Word) (s : State) : Ans :=
  if !bitOf v 0 then .next s
  else if fld v 15 8 ≠ 0xA5 then .next (s.ignored pgPwr)
  else .next s.moduleReset

/-- SLEEP (R481). -/
def hostSleep (v : Word) (s : State) : Ans :=
  if !bitOf v 1 then .next s
  else if s.cellsBusy || s.insts.any (fun p => p.2.phase ≠ .free) then .next (s.ignored pgPwr)
  else .next (s.moduleReset.railsOff .standby false)

/-- MOD_WAKE (R481). -/
def execModWake (s : State) : Ans := .next (if s.pwr.phase = .standby then s.wipe (PwrSt.at_ 1 false) I3cSt.reset else s)

/-- POWER_ON: the input rises above 44 V; a dip that the module rode through changes nothing (R489, R522). MOD_TEST is sampled here (R503). -/
def execPowerOn (modTest : Bool) (s : State) : Ans := .next (if s.running then s else s.wipe (PwrSt.at_ 1 modTest) I3cSt.reset)

/-- Step 7 is done and module reset released (R490): domain 0 has its key and the floor; the time base starts at 0 and the host link trains. -/
def State.release (s : State) : State :=
  let (k, s1) := s.takeKey
  { s1 with fbk := FbkSt.reset k, cxl := { s1.cxl with state := .training }, time := TimeSt.reset, pwr := { PwrSt.running with modTest := s.pwr.modTest } }

/-- STARTUP_STEP_COMPLETE: the step's check passed or not (R490); MOD_TEST stops the sequence after step 3 (R503). -/
def execStartupStepComplete (ok : Bool) (s : State) : Ans :=
  let p := s.pwr
  if p.phase ≠ .starting || p.fail ≠ 0 then .next s
  else if !ok then .next (s.setPwr { p with fail := p.step })
  else if p.step = 3 && p.modTest then .next s
  else if p.step < 7 then .next (s.setPwr { p with step := p.step + 1 })
  else .next s.release

/-- PERST: CXL PERST# is asserted (R489). -/
def execPerst (s : State) : Ans := .next (if s.running || (s.pwr.phase = .starting && 4 ≤ s.pwr.step) then s.moduleReset else s)

/-- TEST_RESET: the TRST pin. -/
def execTestReset (s : State) : Ans := .next { s with jtag := JtagSt.reset }

/-- A transfer under way to or from the host ends with TIER_ERROR. -/
def State.hostTransferLost (s : State) (t : Nat) : State :=
  let x := s.tile t
  match x.flightIdx (fun f => f.undone && f.op.engine = 1) with
  | none => s
  | some i =>
    match x.flights[i]? with
    | none => s
    | some f =>
      let q := decodeXfer f.cmd.words
      if half ≤ q.addr + f.block * q.mp + f.off && !x.held then s.endTransfer t i f .tierError else s

/-- Registers of a page go back to their reset values. -/
def State.resetRegs (s : State) (p : Page) : State :=
  let lo := regKey p 0
  { s with regs := { s.regs with raw := s.regs.raw.filter (fun r => r.1 < lo || lo + 4096 ≤ r.1), com := s.regs.com.filter (fun r => r.1 < lo || lo + 4096 ≤ r.1) } }

/-- The host port resets; every request in flight to the host completes with TIER_ERROR (R281, R489). -/
def State.cxlReset (s : State) : State :=
  let s1 := (s.resetRegs pgCxl).setCxl { CxlSt.reset with denied := s.cxl.denied }
  let moves := s.mems.moves.filter (fun m => m.kind = .demotion || (m.kind = .promotion && (s.home m.page).tier = .t3))
  let s2 := foldS moves (fun m t => Ans.state t (execMoveAbort m.page t)) s1
  foldS (s2.tiles.map (·.1)) (fun k t => t.hostTransferLost k) s2

/-- CXL_LINK_RESET: hot reset or link down on the host port. -/
def execCxlLinkReset (s : State) : Ans := .next (if s.running then s.cxlReset else s)

/-! Parking (R482 to R484). -/

/-- A park command of one OP: ignored while BUSY, held while admission is busy. -/
def State.parkCmd (s : State) (v : Word) (op : Nat) : State :=
  if fld v 1 0 ≠ op then s
  else if s.pwr.parkBusy then s.ignored pgPwr
  else if s.coord.busy then s.setPwr { s.pwr with parkBusy := true, parkHeld := some v }
  else s.parkApply v

/-- PARK and UNPARK. -/
def hostPark (v : Word) (s : State) : Ans := .next (s.parkCmd v 1)
def hostUnpark (v : Word) (s : State) : Ans := .next (s.parkCmd v 2)

/-- A tile that is idle to the scheduler and holds no command. -/
def Tile.quiet (x : Tile) : Bool := x.sched = .none && x.queue.isEmpty && x.flights.isEmpty

def groveTiles (g : Nat) : List Nat := (List.range 32).map (g * 32 + ·)

/-- A tile as a scrub leaves it: zeros, its SUSPECT history kept (R59). -/
def Tile.cleared (x : Tile) : Tile := { Tile.idle with suspect := x.suspect, faultRun := x.faultRun, testPass := x.testPass, sched := x.sched }

/-- PARK_COMPLETE (R483). -/
def execParkComplete (g : GroveId) (s : State) : Ans :=
  let x := s.grove g.val
  if !x.parkPending || !(groveTiles g.val).all (fun t => (s.tile t).quiet) || x.deck0.isSome || x.deck1.isSome || !x.deckWait.isEmpty then .next s
  else
    let s1 := foldS (groveTiles g.val) (fun t u => u.updTile t Tile.cleared) s
    .next (((s1.setGrove g.val { x with parked := true, parkPending := false }).parkResult .ok).pulse pgPwr 1)

/-- UNPARK_COMPLETE (R484). -/
def execUnparkComplete (g : GroveId) (s : State) : Ans :=
  let x := s.grove g.val
  if !x.unparking then .next s
  else
    let s1 := foldS (groveTiles g.val) (fun t u => u.updTile t Tile.cleared) s
    .next ((((s1.setGrove g.val { x with parked := false, unparking := false }).parkResult .ok).pulse pgPwr 1).overCheck (g.val / 8))

/-! Heat and supply (R485, R486, R522). -/

/-- Thresholds in effect, in degrees (R492). -/
def State.tripAt (s : State) : Nat := max 90 (min 115 (fld (s.reg pgPwr 0x010) 15 8))
def State.throtAt (s : State) : Nat := min (fld (s.reg pgPwr 0x010) 7 0) (s.tripAt - 5)

/-- A module fault, then the rails go (R486). -/
def State.tripped (s : State) (hot : Bool) : State := s.moduleFault.railsOff .tripped hot

/-- Throttled dies, the time since which all are cool, after a sample. -/
def State.throttle (s : State) (r : Readings) : State :=
  let p := s.pwr
  let die (d : Nat) : Int := r.dies.getD d 0
  let hotDies := ((List.range 4).filter (fun d => (10 * s.throtAt : Int) < die d)).foldl (fun a d => a ||| 2 ^ d) 0
  let cool : Bool := (List.range 4).all (fun d => die d < 10 * ((s.throtAt : Int) - 5))
  let mask := p.throt ||| hotDies
  if !cool then (s.setPwr { p with throt := mask, coolAt := none }).level pgPwr 0 (mask ≠ 0)
  else
    match p.coolAt with
    | some t => if t + 10000000 ≤ s.now then (s.setPwr { p with throt := 0 }).level pgPwr 0 false else s.setPwr { p with throt := mask }
    | none => s.setPwr { p with throt := mask, coolAt := some s.now }

/-- THERMAL_SAMPLE (R485, R486). -/
def execThermalSample (r : Readings) (s : State) : Ans :=
  let hot : Bool := (r.dies ++ [r.hbm, r.stage]).any (fun x => (10 * s.tripAt : Int) < x)
  match s.pwr.phase with
  | .running => .next (if hot then s.tripped true else s.throttle r)
  | .starting => .next (if hot then s.tripped true else s)
  | .standby | .tripped => .next s

/-- INPUT_FAULT: below 44 V for more than 1 ms (R486); in STANDBY or STARTING the main rails go and the next rise is a power-on (R522). -/
def execInputFault (s : State) : Ans :=
  match s.pwr.phase with
  | .running => .next (s.tripped false)
  | .starting | .standby => .next (s.railsOff .standby false)
  | .tripped => .next s

/-- POWER_STAGE_FAULT (R371, R522). -/
def execPowerStageFault (s : State) : Ans :=
  match s.pwr.phase with
  | .running | .starting => .next (s.tripped false)
  | .standby | .tripped => .next s

/-- PLL_LOCK_LOSS (R371, R488). -/
def execPllLockLoss (p : Pll) (s : State) : Ans :=
  if !s.running then .next s
  else
    match p with
    | .arith | .hbm | .time => .next s.moduleFault
    | .eth e => .next (foldN 8 (fun sub t => t.subDown e.val sub) s)
    | .ckx k => .next (if (s.port k.val).state = .up || (s.port k.val).state = .training then s.linkDown k.val else s)
    | .cxl => .next s.cxlReset

end Sys2Proof.Machine
end

