-- ==== Sys2Proof/Machine/Bist.lean ====
section
/-! DEFINITION. Built-in test, perturbation, error injection, scaler counters and JTAG (20). -/

namespace Sys2Proof.Machine

def State.setBist (s : State) (x : BistSt) : State := { s with bist := x }

/-! Built-in test (R493 to R497). -/

/-- LOGIC and MEMORY may run (R494). -/
def State.bistAllowed (s : State) : Bool :=
  !s.cellsBusy && s.insts.all (fun p => p.2.phase = .free) && s.seed.pkgs.isEmpty && (s.lv.state = .none || s.lv.state = .fenced)

def dieIn (mask d : Nat) : Bool := mask / 2 ^ d % 2 = 1

/-- The ports of the tested port dies go DOWN until the test ends (R494). -/
def State.bistPorts (s : State) (mask : Nat) : State :=
  let s1 := foldS ((List.range 8).filter (fun p => dieIn mask (4 + p / 4))) (fun p t => foldN 8 (fun k u => u.subDown p k) t) s
  let s2 := foldS ((List.range 12).filter (fun p => dieIn mask (4 + p / 6) && (s.port p).state ≠ .down)) (fun p t =>
    (t.setPort p { t.port p with state := .down, width := 0, txSeq := 0, rxSeq := 0, sent := [], txWait := [], tries := 0, unreach := [] }).portFailed p) s1
  if dieIn mask 4 then foldN 4 (fun q t => if (cascAt t.time q).state = 0 then t else if h : q < 4 then Ans.state t (execCascadeLinkLost ⟨q, h⟩ t) else t) s2 else s2

/-- LOGIC or MEMORY starts: canopy caches of the dies are written back and invalidated (R494, R495). -/
def State.bistStart (s : State) (v : Word) (op : Nat) : State :=
  if fld v 1 0 ≠ op then s
  else if s.bist.test.isSome then s.ignored pgBist
  else if !s.bistAllowed then s.setBist { s.bist with status := .configInvalid }
  else
    let mask := fld v 7 2
    let s0 := foldS (s.mems.canopy.filter (fun c => dieIn mask c.die && c.dirty)) (fun c t => t.heatUp c.page) s
    let s1 := { s0 with mems := { s0.mems with canopy := s0.mems.canopy.filter (fun c => !dieIn mask c.die) } }
    (s1.setBist { s1.bist with status := .ok, pass := false, test := some (if op = 1 then .logic mask else .memory mask) }).bistPorts mask

/-- LOGIC and MEMORY. -/
def hostLogic (v : Word) (s : State) : Ans := .next (s.bistStart v 1)
def hostMemory (v : Word) (s : State) : Ans := .next (s.bistStart v 2)

/-- TILE_BIST: one SUSPECT tile that is at rest (R496). -/
def hostTileBist (v : Word) (s : State) : Ans :=
  let t := fld v 17 8
  let x := s.tile t
  if fld v 1 0 ≠ 3 then .next s
  else if s.bist.test.isSome then .next (s.ignored pgBist)
  else if x.suspect && x.queue.isEmpty && !x.held && (x.sched = .none || x.sched = .floor) then
    .next ((s.setBist { s.bist with status := .ok, pass := false, test := some (.tile t) }).setTile t { x with testing := true, testPass := false })
  else .next (s.setBist { s.bist with status := .configInvalid })

/-- Signature that a die's LOGIC test gives (R497). -/
def expectSig (d : Nat) : Word := if d < 4 then 0x7A31C05E else if d = 4 then 0x1D94E2B7 else 0x6C08F3A1
def expectTile : Word := 0x3E5D9B12

/-- What a test leaves on a compute die (R495): stores scrubbed, lane memories and arrival counters zero, queues empty. -/
def State.bistScrub (s : State) (d : Nat) : State :=
  let s1 := foldS ((s.tiles.filter (fun p => p.1 / 256 = d)).map (·.1)) (fun t u => u.updTile t Tile.cleared) s
  let s2 := foldS ((s1.lanes.filter (fun p => p.1 / 32 = d)).map (·.1)) (fun l u =>
    (u.updLane l (fun y => { y with x := [], y := [], c := [], prog := [], mbTail := 0 })).laneMbEvt l) s1
  let s3 := foldS ((s2.groves.filter (fun p => p.1 / 8 = d)).map (·.1)) (fun g u =>
    u.updGrove g (fun y => { y with deck0 := none, deck1 := none, deckWait := [], ceQueue := [], ceBusy := none })) s2
  let s4 : State := if (s3.agent d).queue.isEmpty then s3 else s3.setAgent d { s3.agent d with queue := [] }
  { s4 with arr := s4.arr.filter (fun p => p.1 / 65536 ≠ d) }

/-- What a test leaves on a port die (R494, R495): its Ethernet queues and its gather buffers empty, its enabled Caerkuix ports training. -/
def State.bistPortsEnd (s : State) (mask : Nat) : State :=
  let s1 := foldS ((List.range 8).filter (fun p => dieIn mask (4 + p / 4))) (fun p t =>
    ((t.updEth p (fun e => { e with reasm := [], wheel := [], tsWait := [] })).setReg (pgEth p) 0x1C0 (w32 (t.ethp p).tsqTail)).tsqEvent p) s
  foldS ((List.range 12).filter (fun p => dieIn mask (4 + p / 6) && bitOf (s.reg (pgCkx p) 0x010) 0)) (fun p t =>
    t.updPort p (fun x => if x.state = .down then { x with state := .training } else x))
    { s1 with fabric := { s1.fabric with gather := s1.fabric.gather.filter (fun b => !dieIn mask (4 + b.gw / 2)) } }

/-- The dies of a test that passed. -/
def passed (mask : Nat) (bad : Nat → Bool) : Nat := ((List.range 6).filter (fun d => dieIn mask d && !bad d)).foldl (fun a d => a ||| 2 ^ d) 0

/-- MODOK (R497). -/
def State.modOk (s : State) : Bool := s.bistPassed

/-- A test of dies ends. -/
def State.bistEnd (s : State) (mask good array word : Nat) (logic : Bool) : State :=
  let s1 := (foldS ((List.range 4).filter (dieIn mask)) (fun d t => t.bistScrub d) s).bistPortsEnd mask
  let b := s1.bist
  (s1.setBist { b with
    test := none, pass := decide (good = mask % 64), dieFail := mask % 64 - good
    failArray := if logic then b.failArray else array % 4096, failWord := if logic then b.failWord else word % 2 ^ 20
    logicOk := if logic then b.logicOk ||| good else b.logicOk, memOk := if logic then b.memOk else b.memOk ||| good }).pulse pgBist 0

/-- A tile whose store failed is SUSPECT (R71, R495). -/
def State.bistSuspect (s : State) (mask t : Nat) : State :=
  if t < 1024 && dieIn mask (t / 256) then (((s.updTile t (fun x => { x with suspect := true, testPass := false })).level (pgTile t) 1 true).overCheck (t / 256)) else s

/-- BIST_DONE: what the silicon gave. -/
def execBistDone (r : BistResult) (s : State) : Ans :=
  match s.bist.test with
  | none => .next s
  | some (.logic mask) =>
    let sigs := (List.range 6).map (fun d => if dieIn mask d then wAt r.sigs d else wAt s.bist.sigs d)
    .next ((s.setBist { s.bist with sigs := sigs }).bistEnd mask (passed mask (fun d => wAt r.sigs d ≠ expectSig d)) 0 0 true)
  | some (.memory mask) =>
    .next (foldS r.tileFail (fun t u => u.bistSuspect mask t) (s.bistEnd mask (passed mask (fun d => r.dieFail.contains d)) r.array r.word false))
  | some (.tile t) =>
    let sig := wAt r.sigs 0
    let ok : Bool := sig = expectTile
    let s1 := s.updTile t (fun x => { x.cleared with testPass := ok })
    .next ((s1.setBist { s1.bist with test := none, pass := ok, tsig := sig }).pulse pgBist 0)

/-! Perturbation and injection (R498 to R500, R531). -/

/-- An instance is in a state other than FREE or CREATED (R499). -/
def State.tenantsLive (s : State) : Bool := s.insts.any (fun p => p.2.phase ≠ .free && p.2.phase ≠ .created)

/-- COMMIT of the BIST page: nothing applies where a perturbation would be non-zero beside a tenant (R499). -/
def State.bistCommit (s : State) : State :=
  let on : Bool := (List.range 10).any (fun k => fld (s.reg pgBist (0x0C0 + 4 * k)) 19 0 ≠ 0)
  if on && s.tenantsLive then s.setBist { s.bist with pertStat := .configInvalid }
  else (s.applyShadow pgBist).setBist { s.bist with pertStat := .ok, pertAt := s.ac }

/-- An injection's target and argument are in range (R500). -/
def injOk (point target arg : Nat) : Bool :=
  match point with
  | 1 => target < 1024 && arg < 2 ^ 18
  | 2 => target < 128 && arg < 2 ^ 16 && (arg % 4 < 3 || arg / 4 % 8192 < 4096)
  | 3 => target < 24 && arg < 2
  | 4 => target < 4 && arg < 2
  | 5 => target < 12
  | 6 => target < 8 && arg < 8
  | 7 => target < 16 && arg = 0xA5
  | _ => false

/-- INJECTION_ARM. -/
def hostInjectionArm (v : Word) (s : State) : Ans :=
  let point := fld v 3 0
  let arg := (s.reg pgBist 0x114).toNat
  if bitOf v 5 then .next s
  else if s.tenantsLive || !injOk point (fld v 17 8) arg then .next (s.setBist { s.bist with injStat := .configInvalid })
  else .next (s.setBist { s.bist with injStat := .ok, inj := s.bist.inj.set point { every := bitOf v 4, target := fld v 17 8, arg := arg } })

/-- INJECTION_DISARM. -/
def hostInjectionDisarm (v : Word) (s : State) : Ans :=
  if !bitOf v 5 then .next s else .next (s.setBist { s.bist with inj := s.bist.inj.erase (fld v 3 0) })

/-! Scaler counters (R501, R502). -/

/-- The page with an identity in the format of PAGE_ID. -/
def pageOfId (v : Word) : Option Page :=
  let kinds : List PageKind := [.tile, .lane, .grv, .srt, .sds, .hbm, .cnp, .skd, .chp, .cru, .ckx, .lnd, .eth, .cxl, .time, .mbx, .fbk, .chk, .seed, .pwr, .bist]
  match kinds.find? (fun k => kindCode k = fld v 31 16) with
  | some k => let p : Page := { kind := k, inst := fld v 12 0 }; if pageExists p && pageId p = v then some p else none
  | none => none

/-- Counters that a page defines, from index 0. -/
def scalCount (p : Page) : Nat :=
  match p.kind with
  | .tile => 12 | .lane => 8 | .grv => 3 | .sds => if p.inst < 4 then 4 else 64 + 8 * 512
  | .eth => 16 | .chk => 2 | .ckx => if p.inst < 12 then 4 else if p.inst < 20 then 2 else 0
  | .cru => 1 | .mbx => 4 | _ => 0

/-- Counter idx of a page; an index that the page does not define reads 0. -/
def State.scalRead (s : State) (p : Page) (idx : Nat) : Nat :=
  if p.kind = .sds && p.inst = 4 && 1 ≤ idx && idx < 64 then 0 else if idx < scalCount p then s.scaler p idx else 0

/-- SCALER_SELECT: a write of BIST_SCL_IDX. -/
def hostScalerSelect (v : Word) (s : State) : Ans :=
  let id := s.reg pgBist 0x118
  let val := match pageOfId id with | some p => s.scalRead p (fld v 12 0) | none => 0
  .next ((s.setReg pgBist 0x11C (v &&& 0x1FFF)).setBist { s.bist with selPage := id, selIdx := fld v 12 0, ready := true, val := w32 val })

/-- A write of BIST_SCL_CTRL: the dump is taken before the clear. -/
def State.sclCtrl (s : State) (dump clr : Bool) : State :=
  match pageOfId (s.reg pgBist 0x118) with
  | none => if dump then s.pulse pgBist 1 else s
  | some p =>
    let ws := (List.range (scalCount p)).map (fun i => w32 (s.scalRead p i))
    let s1 := if dump then ((s.storeDev .dom0 (fld (s.reg pgBist 0x120) 31 2 * 4 + 2 ^ 32 * fld (s.reg pgBist 0x124) 15 0) (bytesOf ws)).2).pulse pgBist 1 else s
    let lo := scalKey p 0
    if clr then { s1 with regs := { s1.regs with scal := s1.regs.scal.filter (fun q => q.1 < lo || lo + 65536 ≤ q.1) } } else s1

/-- DUMP and CLR. -/
def hostDump (v : Word) (s : State) : Ans := .next (if bitOf v 0 then s.sclCtrl true (bitOf v 1) else s)
def hostClr (v : Word) (s : State) : Ans := .next (if bitOf v 1 then s.sclCtrl (bitOf v 0) true else s)

/-! JTAG (R503). -/

/-- JTAG_INSTRUCTION: loaded into one TAP of the chain. -/
def execJtagInstruction (tap : Fin 6) (ir : JtagIr) (s : State) : Ans :=
  let eff : JtagIr := match ir with
    | .extest | .clamp | .highz => if s.pwr.modTest then ir else .bypass
    | _ => ir
  .next { s with jtag := { irs := s.jtag.irs.set tap.val eff } }

/-- What IDCODE reads on every TAP. -/
def jtagId : Word := 0xB96249AB

end Sys2Proof.Machine
end

