-- ==== Sys2Proof/Machine/Regs.lean ====
section
/-! DEFINITION. Register writes: what a write to each offset of each page does (01 R9 to R16; 21; the register sections of every chapter). -/

namespace Sys2Proof.Machine

/-- One effect after another. -/
def Ans.after (a : Ans) (f : State → Ans) : Ans :=
  match a with
  | .next s => f s
  | x => x

/-- An effect on unit k of n. -/
def onUnit (n k : Nat) (f : Fin n → State → Ans) (s : State) : Ans := if h : k < n then f ⟨k, h⟩ s else .next s

/-- An effect where a bit is set. -/
def whenBit (v : Word) (b : Nat) (f : State → Ans) (s : State) : Ans := if bitOf v b then f s else .next s

/-! Events (R16, R510, R514). -/

/-- After a write to EVT_PEND or EVT_MASK that leaves I at 1, the page's message is sent again. -/
def State.evtAfter (s : State) (p : Page) : State := if s.irq p then s.notify p else s

/-- The MBX page of an instance that is FREE or CREATED (R324). -/
def State.deadPage (s : State) (p : Page) : Bool := p.kind = .mbx && pageDead (s.inst p.inst).phase

/-- A W1C write to EVT_PEND; what EVT_RAW still holds is set again. -/
def hostEvtPendClear (p : Page) (v : Word) (s : State) : Ans :=
  if s.deadPage p then .next (s.ignored pgMap) else
  .next (({ s with regs := { s.regs with evtPend := s.regs.evtPend.set (pageKey p) ((s.evtPend p &&& ~~~ v) ||| s.evtRaw p) } }).evtAfter p)

/-- A write to EVT_MASK. -/
def hostEvtMaskWrite (p : Page) (v : Word) (s : State) : Ans :=
  if s.deadPage p then .next (s.ignored pgMap) else .next ((s.setReg p 0x084 (v &&& evtBits p)).evtAfter p)

/-! COMMIT (R15, R509, R511). -/

/-- A write to COMMIT: all shadow registers of the page come into force, on pages that have some. -/
def hostCommit (p : Page) (s : State) : Ans :=
  if s.deadPage p then .next (s.ignored pgMap)
  else if !pageExists p || !hasShadow p then .next s
  else match p.kind with
    | .fbk => onUnit 65 p.inst hostFirebreakCommit s
    | .sds => .next (s.commitFbk (.sdsPage p.inst))
    | .time => .next s.timeCommit
    | .bist => .next s.bistCommit
    | .cru => .next (s.applyShadow p).watchWater
    | _ => .next (s.applyShadow p)

/-! Registers that hold what is written. -/

/-- A write to a register with no rule of its own: its writable bits take the value; elsewhere it is ignored (R14, R506). -/
def State.plainWrite (s : State) (p : Page) (off : Nat) (v : Word) : State :=
  match findReg p off with
  | some d => s.setReg p off (v &&& d.mask)
  | none => s

/-- A ring's base and configuration (R257, R443, R453): every write is ignored and counted while ENABLE is 1, so that only a reset of the instance or of the module disables a ring; setting ENABLE sets head and tail to 0. -/
def State.ringWrite (s : State) (p : Page) (o off : Nat) (v : Word) (zero : State → State) : State :=
  if s.ringOn p o then s.ignored p
  else if off = o + 8 && bitOf v 8 then zero ((s.plainWrite p off v).setReg p (o + 0xC) 0)
  else s.plainWrite p off v

/-- The rings of a tenant's page, and of the map page. -/
def State.cqZero (i : Nat) (s : State) : State := s.updInst i (fun x => { x with cqHead := 0 })
def State.rqZero (i : Nat) (s : State) : State :=
  let s1 := s.updInst i (fun x => { x with rqTail := 0 })
  (s1.rqEvent i).rqDrain i ((s1.inst i).rqWait.length + 1)
def State.fqZero (k : Nat) (s : State) : State := s.setFstream k { s.fstream k with fqHead := 0 }
def State.fcZero (k : Nat) (s : State) : State :=
  State.fcDrain (spaceOf k) ((s.fstream k).fcWait.length + 1) (s.setFstream k { s.fstream k with fcTail := 0 })

/-- FQ and FC of a page, at 0x400 to 0x42F. -/
def State.fabricRegs (s : State) (p : Page) (k off : Nat) (v : Word) : Ans :=
  if off = 0x40C then hostFqDoorbell (spaceOf k) v s
  else if off = 0x42C then hostFcHeadWrite (spaceOf k) v s
  else if off < 0x40C then .next (s.ringWrite p 0x400 off v (State.fqZero k))
  else if 0x420 ≤ off && off < 0x42C then .next (s.ringWrite p 0x420 off v (State.fcZero k))
  else .next s

/-- MBX page of instance i (R273, R340, R369, R387, R479, R514, R519). -/
def State.mbxRegs (s : State) (i : InstId) (off : Nat) (v : Word) : Ans :=
  let p := pgMbx i.val
  if pageDead (s.inst i.val).phase then .next (s.ignored pgMap)
  else if off = 0x084 then hostEvtMaskWrite p v s
  else if off = 0x088 then hostEvtPendClear p v s
  else if off = 0x10C then hostCqDoorbell i v s
  else if off = 0x12C then hostRqHeadWrite i v s
  else if 0x100 ≤ off && off < 0x10C then .next (s.ringWrite p 0x100 off v (State.cqZero i.val))
  else if 0x120 ≤ off && off < 0x12C then .next (s.ringWrite p 0x120 off v (State.rqZero i.val))
  else if off = 0x204 then hostMailboxAck i v s
  else if off = 0x310 then hostMailboxSend (.inst i) v s
  else if 0x400 ≤ off && off < 0x430 then s.fabricRegs p i.val off v
  else if off = 0x510 then (if fld (s.reg (pgMbx i.val) 0x540) 1 0 = 2 then hostRebuild i v s else hostEncode i v s)
  else if off = 0x580 then hostTenantAttestationRequest i v s
  else .next (s.plainWrite p off v)

/-- The map page (R309, R340, R519). -/
def State.mapRegs (s : State) (off : Nat) (v : Word) : Ans :=
  if off = 0x0C0 then hostFbkMapaddrWrite v s
  else if off = 0x120 then
    match fld v 3 0 with
    | 1 => hostCreate v s
    | 2 => hostActivate v s
    | 3 => if bitOf v 16 then hostResetSquash v s else hostResetDrain v s
    | 4 => hostDestroy v s
    | 5 => hostLogStart v s
    | 6 => hostLogSwap v s
    | 7 => hostLogStop v s
    | 8 => hostFreeze v s
    | 9 => hostThaw v s
    | 10 => hostInstanceRead v s
    -- another OP is ignored, and counted while BUSY as every write of the register is (R321)
    | _ => .next (if s.fbk.instBusy then s.bump pgMap 0 1 else s)
  else if off = 0x310 then hostMailboxSend .dom0 v s
  else if 0x400 ≤ off && off < 0x430 then s.fabricRegs pgMap 4096 off v
  else .next (s.plainWrite pgMap off v)

/-- A lane page (R144, R249, R516): CODE and WIN of an enabled context are ignored and counted. -/
def State.laneRegs (s : State) (l : LaneId) (off : Nat) (v : Word) : Ans :=
  let p := pgLane l.val
  if off = 0x010 then whenBit v 0 (hostMbclr l) s
  else if 0x100 ≤ off && off < 0x200 then
    let c := (off - 0x100) / 0x20
    if off % 0x20 = 0 then .next (s.ctxCfgWrite l.val c v)
    else if (off % 0x20 = 4 || off % 0x20 = 8) && bitOf (s.reg p (0x100 + 0x20 * c)) 0 then .next (s.ignored p)
    else .next (s.plainWrite p off v)
  else .next (s.plainWrite p off v)

/-- The coordinator's page (R159, R227, R249, R392). -/
def State.coordRegs (s : State) (off : Nat) (v : Word) : Ans :=
  if off = 0x010 then .next (if s.coord.busy then s.admIgnored else s.plainWrite (pgSds 4) off v)
  else if off = 0x014 then
    match fld v 1 0 with
    | 1 => hostAdmit v s
    | 2 => hostRemove v s
    | 3 => hostRemoveForce v s
    | _ => .next (if s.coord.busy then s.admIgnored else s)
  else if off = 0x200 then hostGroupCommit v s
  else if off = 0x210 then
    match fld v 1 0 with
    | 1 => hostArm v s
    | 2 => hostDisarm v s
    | 3 => hostMirrorRead v s
    | _ => .next s
  else .next (s.plainWrite (pgSds 4) off v)

/-- A Cruiser page (R279, R306): the T3 range is fixed while a move of the die is in flight. -/
def State.cruRegs (s : State) (d : DieId) (off : Nat) (v : Word) : Ans :=
  if off = 0x120 then
    match fld v 1 0 with
    | 1 => hostRegister d v s
    | 2 => hostUnregister d v s
    | 3 => hostObjectRead d v s
    | _ => .next s
  else if 0x100 ≤ off && off ≤ 0x108 && s.mems.moves.any (fun m => s.moveDie m = d.val) then .next s
  else .next (s.plainWrite (pgCru d.val) off v)

/-- A Caerkuix page (R365 to R369, R392). -/
def State.ckxRegs (s : State) (k off : Nat) (v : Word) : Ans :=
  let p := pgCkx k
  if k < 12 && off = 0x010 then
    let s1 := s.plainWrite p off v
    .next (if bitOf (s.reg p off) 0 = bitOf v 0 then s1.advertise k else s1.portEnable k (bitOf v 0))
  else if k < 12 && off = 0x018 then
    (whenBit v 1 (onUnit 12 k hostHoldClr) s).after (whenBit v 0 (onUnit 12 k hostRetrain))
  else if k = 32 && off = 0x010 then
    .next (if (List.range 12).all (fun q => (s.port q).state = .down) then s.plainWrite p off v else s)
  else if k = 32 && off = 0x01C then
    ((whenBit v 0 hostFound s).after (whenBit v 1 hostJoin)).after (whenBit v 2 hostLeave)
  else if k = 32 && 0x200 ≤ off && off < 0x220 then
    .next (if s.lv.state = .none || s.lv.state = .fenced then s.plainWrite p off v else s)
  else .next (s.plainWrite p off v)

/-- The buckets of a port settle at the old rate before a new one (R456). -/
def State.settleBuckets (s : State) (p off : Nat) : State :=
  let w := s.reg (pgEth p) off
  let b (x : Nat × Nat) : Nat × Nat := (refill x (cfgRate w) (cfgDepth w) s.now, s.now)
  if off = 0x034 then s.updEth p (fun e => { e with plTok := (List.range 8).foldl (fun t k => t.set k (b (e.plTok.get (0, 0) k))) e.plTok })
  else s.updEth p (fun e => { e with mgTok := b e.mgTok })

/-- An Ethernet page (R412, R444, R453, R459): BRK is fixed while ENABLE is 1; clearing ENABLE takes the sub-ports down and resets the port's reassemblies and buckets (R489). -/
def State.ethRegs (s : State) (p : EthPort) (off : Nat) (v : Word) : Ans :=
  let g := pgEth p.val
  let k := p.val
  if off = 0x014 then
    let old := s.reg g off
    let s1 := if bitOf old 0 && fld old 2 1 ≠ fld v 2 1 then s.ignored g else s
    let s2 := s1.setReg g off (if bitOf old 0 then (old &&& 6) ||| (v &&& 1) else v &&& 7)
    .next (if bitOf old 0 && !bitOf v 0 then (foldN 8 (fun q t => t.subDown k q) s2).updEth k (fun e => { e with reasm := [], plTok := [], mgTok := (0, 0) }) else s2)
  else if off = 0x034 || off = 0x038 then .next ((s.settleBuckets k off).plainWrite g off v)
  else if off = 0x1C0 then hostTsqHeadWrite p v s
  else if off = 0x60C then hostManagementTxTailWrite p v s
  else if off = 0x62C then
    .next (if idxGap (s.ringIdx g 0x620) (s.ethp k).mrxTail < idxGap (s.ringIdx g 0x620) (fld v 15 0) then s.ignored g else s.plainWrite g off v)
  else if 0x600 ≤ off && off < 0x60C then .next (s.ringWrite g 0x600 off v (fun t => t.updEth k (fun e => { e with mtxHead := 0 })))
  else if 0x620 ≤ off && off < 0x62C then .next (s.ringWrite g 0x620 off v (fun t => t.updEth k (fun e => { e with mrxTail := 0 })))
  else .next (s.plainWrite g off v)

/-- A window segment maps an instance whose interface is locked (R441). -/
def State.winLocked (s : State) (w : Word) : Bool := bitOf w 0 && !bitOf w 1 && (s.inst (fld w 13 2)).locked

/-- The CXL page (R437, R441, R443, R459). -/
def State.cxlRegs (s : State) (off : Nat) (v : Word) : Ans :=
  let p := pgCxl
  if 0x100 ≤ off && off < 0x300 then
    let q := (off - 0x100) / 0x40
    let o := l2qBase q
    let r := off % 0x40
    if r = 0x0C then onUnit 8 q (fun k => hostL2qInboundTailWrite k v) s
    else if r = 0x34 then onUnit 8 q (fun k => hostL2qDheadWrite k v) s
    else if r = 0x2C then
      .next (if idxGap (s.ringIdx p (o + 0x20)) (s.l2q q).outTail < idxGap (s.ringIdx p (o + 0x20)) (fld v 15 0) then s.ignored p
        else (let s1 := s.plainWrite p off v; s1.l2qDrain q (s1.l2q q).waiting.length))
    else if r < 0x0C then .next (s.ringWrite p o off v (fun t => t.setL2q q { t.l2q q with inHead := 0 }))
    else if 0x20 ≤ r && r < 0x2C then
      .next (s.ringWrite p (o + 0x20) off v (fun t => (let t1 := t.setL2q q { t.l2q q with outTail := 0 }; t1.l2qDrain q (t1.l2q q).waiting.length)))
    else .next (s.plainWrite p off v)
  -- a segment that maps a locked interface is not written (R441)
  else if 0x800 ≤ off && off < 0xC00 then .next (if s.winLocked (s.reg p off) || s.winLocked v then s.emit (.refused p off .keyDenied) else s.plainWrite p off v)
  else .next (s.plainWrite p off v)

/-- The TIME page (R395 to R412, R426, R428, R434). -/
def State.timeRegs (s : State) (off : Nat) (v : Word) : Ans :=
  let p := pgTime
  if off = 0x010 then .next (s.timeCfg v)
  else if off = 0x014 then (whenBit v 0 hostSnap s).after (whenBit v 1 hostBarArm)
  else if 0x0C0 ≤ off && off ≤ 0x0D0 && s.isMember then .next (s.ignored p)
  else if 0x100 ≤ off && off < 0x180 && off % 0x20 = 0x10 then onUnit 4 ((off - 0x100) / 0x20) (fun k => hostPulseEnable k v) s
  else if off = 0x300 then
    if s.barWaiting then .next (s.ignored p)
    else
      let s1 := s.plainWrite p off v
      .next (if s1.recMode = 0 then { s1 with recd := { s1.recd with running := false, stopped := false } } else s1)
  else if off = 0x308 || off = 0x30C || off = 0x310 then .next (if s.recMode = 0 then s.plainWrite p off v else s.ignored p)
  else if off = 0x314 then .next (if s.recMode = 2 then s.ignored p else s.plainWrite p off v)
  else if off = 0x318 then .next (if s.recMode = 1 then s.ignored p else s.plainWrite p off v)
  else .next (s.plainWrite p off v)

/-- A check unit's page (R205, R431, R433, R434). -/
def State.chkRegs (s : State) (k : ChkId) (off : Nat) (v : Word) : Ans :=
  if off = 0x010 then .next (s.chkCfg k.val v)
  else if off = 0x02C then (whenBit v 0 (hostClose k) s).after (whenBit v 1 (hostChkRestart k))
  else if 0x014 ≤ off && off ≤ 0x028 && s.chkHeld k.val then .next (s.ignored (pgChk k.val))
  else .next (s.plainWrite (pgChk k.val) off v)

/-- The SEED page (R479). -/
def State.seedRegs (s : State) (off : Nat) (v : Word) : Ans :=
  if off = 0x120 then
    match fld v 1 0 with
    | 1 => hostBind v s
    | 2 => hostUnbind v s
    | 3 => hostPackageRead v s
    | _ => .next (if s.seed.job.isSome then s.ignored pgSeed else s)
  else if off = 0x124 then
    let a := s.seedAddr 0x10C 0x110
    match fld (wAt (wordsOf 24 (s.loadDev .dom0 a 96).2.1) 0) 3 0 with
    | 2 => hostAnchorClear v s
    | 3 => hostRaise v s
    | _ => hostInstall v s
  else if off = 0x128 then hostManagerAttestationRequest v s
  else .next (s.plainWrite pgSeed off v)

/-- The PWR page (R481 to R484, R489, R492). -/
def State.pwrRegs (s : State) (off : Nat) (v : Word) : Ans :=
  if off = 0x014 then (if bitOf v 0 then hostModuleReset v s else .next s).after (fun t => if t.running then hostSleep v t else .next t)
  else if off = 0x100 then 
    match fld v 1 0 with
    | 1 => hostPark v s
    | 2 => hostUnpark v s
    | _ => .next (if s.pwr.parkBusy then s.ignored pgPwr else s)
  else .next (s.plainWrite pgPwr off v)

/-- The BIST page (R493 to R504). -/
def State.bistRegs (s : State) (off : Nat) (v : Word) : Ans :=
  if off = 0x100 then
    match fld v 1 0 with
    | 1 => hostLogic v s
    | 2 => hostMemory v s
    | 3 => hostTileBist v s
    | _ => .next (if s.bist.test.isSome then s.ignored pgBist else s)
  else if off = 0x110 then (if bitOf v 5 then hostInjectionDisarm v s else hostInjectionArm v s)
  else if off = 0x11C then hostScalerSelect v s
  else if off = 0x128 then (if bitOf v 0 then hostDump v s else hostClr v s)
  else .next (s.plainWrite pgBist off v)

/-- The MSI-X table (R510): a vector that is pending and no longer masked sends its message. -/
def State.msixRegs (s : State) (off : Nat) (v : Word) : State :=
  if 0x400 ≤ off then s
  else
    let s1 := { s with regs := { s.regs with msixTab := s.regs.msixTab.set (off / 4) v } }
    let vec := off / 16
    if off % 16 = 12 && !bitOf v 0 && s.regs.pba.getLsbD vec then
      ({ s1 with regs := { s1.regs with pba := s1.regs.pba &&& ~~~ (1#64 <<< vec) } }).sendVector vec
    else s1

/-- What a write of v to an offset of a page does. -/
def regEffect (p : Page) (off : Nat) (v : Word) (s : State) : Ans :=
  if !pageExists p then .next s
  else if p.kind = .mbx then onUnit 4096 p.inst (fun i t => t.mbxRegs i off v) s
  else if p.kind = .msix then .next (s.msixRegs off v)
  else if off = 0x084 then hostEvtMaskWrite p v s
  else if off = 0x088 then hostEvtPendClear p v s
  else if off = 0x0FC then hostCommit p s
  else match p.kind with
    | .tile => if off = 0x010 then onUnit 1024 p.inst (fun t u => (hostTileCtrlHostWrite t v u).after (whenBit v 2 (hostSuspectClr t))) s else .next (s.plainWrite p off v)
    | .lane => onUnit 128 p.inst (fun l t => t.laneRegs l off v) s
    | .sds => if p.inst = 4 then s.coordRegs off v else .next (s.plainWrite p off v)
    | .hbm => if off = 0x100 then onUnit 24 p.inst (fun c => hostHbmRetireLogWrite c v) s else .next (s.plainWrite p off v)
    | .cru => onUnit 4 p.inst (fun d t => t.cruRegs d off v) s
    | .ckx => s.ckxRegs p.inst off v
    | .lnd => .next (s.plainWrite p off v).pathFound
    | .eth => onUnit 8 p.inst (fun e t => t.ethRegs e off v) s
    | .cxl => s.cxlRegs off v
    | .time => s.timeRegs off v
    | .fbk => if p.inst = 64 then s.mapRegs off v else .next (s.plainWrite p off v)
    | .chk => onUnit 64 p.inst (fun k t => t.chkRegs k off v) s
    | .seed => s.seedRegs off v
    | .pwr => s.pwrRegs off v
    | .bist => s.bistRegs off v
    | _ => .next (s.plainWrite p off v)

/-! Accesses from the host (R436, R489) and their record (R422, R427). -/

/-- Address of a register in its BAR (R505, R510). -/
def regAddr (p : Page) (off : Nat) : Nat :=
  match p.kind with
  | .mbx => p.inst * 0x1000 + off
  | .msix => 0x1FFF0000 + off
  | _ => kindCode p.kind * 0x400000 + p.inst * 0x1000 + off

/-- The page and offset of a BAR0 address. -/
def pageOfAddr (a : Nat) : Option (Page × Nat) :=
  let kinds : List PageKind := [.tile, .lane, .grv, .srt, .sds, .hbm, .cnp, .skd, .chp, .cru, .ckx, .lnd, .eth, .cxl, .time, .fbk, .chk, .seed, .pwr, .bist]
  match kinds.find? (fun k => kindCode k = a / 0x400000) with
  | some k => some ({ kind := k, inst := a / 0x1000 % 0x400 }, a % 0x1000)
  | none => none

/-- A write of the manager that the recorder logs as a register write: not to the TIME and CHK pages; a tenant's page is not the manager's; a send is logged as a send. -/
def managerWrite (p : Page) (off : Nat) : Bool :=
  match p.kind with
  | .mbx | .time | .chk | .msix => false
  | .fbk => !(p.inst = 64 && off = 0x310)
  | _ => true

/-- A register write that reaches the module: none during a reset; a manager's is logged, or discarded while the recorder replays such writes. It comes in as a flit of the CXL port, which check units may snoop (R26, R435). -/
def State.hostWrite (s : State) (p : Page) (off : Nat) (v : Word) (k : State → Ans) : Ans :=
  if !s.running then .next (s.emit .noService)
  else
  let s := s.chkCxl false
  if managerWrite p off then
    if s.replayed 2 then .next s.liveDrop
    else k (s.recLog 2 0x06 0 p.inst (leBytes 8 (regAddr p off) ++ leBytes 4 v.toNat))
  else k s

/-- The instance with a PASID. -/
def State.pasidInst (s : State) (pasid : BitVec 20) : Option Nat :=
  (s.insts.find? (fun p => p.2.phase ≠ .free && p.2.pasid = pasid.toNat)).map (·.1)

/-- A BAR access with this requester is accepted (R436): on the page of a locked interface only inside the IDE stream bound to it (R441). -/
def State.reqOk (s : State) (req : Requester) (p : Page) : Bool :=
  if p.kind = .mbx then
    let x := s.inst p.inst
    (match req.pasid with | none => false | some q => x.phase ≠ .free && x.pasid = q.toNat)
      && (!x.locked || req.stream.map (fun k => k.val) = some (Sys2Proof.Config.tspStream p.inst % 4))
  else match req.pasid with
    | none => true
    | some q => fld (s.reg pgMap 0x010) 19 0 = q.toNat

/-- The request comes on a stream that is Insecure: the device drops it, and its completion times out at the host (R440). -/
def State.reqDropped (s : State) (req : Requester) : Bool := match req.stream with | some k => s.cxl.insecure.contains k.val | none => false

/-- A request that a BAR does not accept is counted: on BAR0 against the tenant that made it, on BAR2 against the instance whose page it names (R9, R436), however wide or aligned it is. -/
def State.reqRefused (s : State) (req : Requester) (p : Page) : State :=
  if p.kind = .mbx then s.bump p 0 1
  else match req.pasid.bind s.pasidInst with
    | some i => s.bump (pgMbx i) 0 1
    | none => s

/-- A write that reaches the page of a FREE instance is refused and counts on the map page too: no request carries that instance's PASID (R324, R436). -/
def State.freePageWrite (s : State) (p : Page) : State :=
  if p.kind = .mbx && (s.inst p.inst).phase = .free then s.ignored pgMap else s

/-- REGISTER_WRITE: a write to a register. -/
def execRegisterWrite (req : Requester) (p : Page) (off : Nat) (v : Word) (s : State) : Ans :=
  if s.running && s.reqDropped req then .next s
  else if s.running && !s.reqOk req p then .next (((s.reqRefused req p).freePageWrite p).emit (.unsupported req p off))
  else if s.running && off % 4 ≠ 0 then .next (s.emit (.unsupported req p off))
  else s.hostWrite p off v (regEffect p off v)

/-- UNSUPPORTED_REGISTER_ACCESS: narrower, wider or unaligned (R11), or one that its BAR does not accept, a read among them, which is counted as well (R9, R436). -/
def execUnsupportedRegisterAccess (p : PageReq) (off size : Nat) (s : State) : Ans :=
  if s.running && (s.reqDropped p.req || (size = 4 && off % 4 = 0 && s.reqOk p.req p.page)) then .next s
  else if !s.running then .next (s.emit .noService)
  else .next ((if s.reqOk p.req p.page then s else s.reqRefused p.req p.page).emit (.unsupported p.req p.page off))

/-- TENANT_MANAGEMENT_ACCESS: a tenant's access to a management page, or to another instance's page (R9, R436). -/
def execTenantManagementAccess (pasid : BitVec 20) (p : Page) (s : State) : Ans :=
  let req : Requester := { pasid := some pasid }
  if s.running && s.reqOk req p then .next s
  else if !s.running then .next (s.emit .noService)
  else .next ((s.reqRefused req p).emit (.unsupported req p 0))

end Sys2Proof.Machine
end

