-- ==== Sys2Proof/Machine/Host.lean ====
section
/-! DEFINITION. Commands that are host accesses: each is a write of one register (R505), or a write or read through the device window, that reaches a running module and is recorded (R422, R427, R489). -/

namespace Sys2Proof.Machine

/-! The registers every page has. -/

def execCommit (p : Page) (s : State) : Ans := s.hostWrite p 0x0FC 1 (hostCommit p)
def execEvtPendClear (p : Page) (v : Word) (s : State) : Ans :=
  s.hostWrite p 0x088 v (fun t => if !pageExists p then .next t else if p.kind = .mbx && pageDead (t.inst p.inst).phase then .next (t.ignored pgMap) else hostEvtPendClear p v t)
def execEvtMaskWrite (p : Page) (v : Word) (s : State) : Ans :=
  s.hostWrite p 0x084 v (fun t => if !pageExists p then .next t else if p.kind = .mbx && pageDead (t.inst p.inst).phase then .next (t.ignored pgMap) else hostEvtMaskWrite p v t)

/-! TILE and LANE pages. -/

def execSuspectClr (t : TileId) (s : State) : Ans := s.hostWrite (pgTile t.val) 0x010 4 (hostSuspectClr t)
def execTileCtrlHostWrite (t : TileId) (v : Word) (s : State) : Ans := s.hostWrite (pgTile t.val) 0x010 v (hostTileCtrlHostWrite t v)
def execEnable (l : LaneId) (c : LaneCtxId) (v : Word) (s : State) : Ans := s.hostWrite (pgLane l.val) (0x100 + 0x20 * c.val) v (hostEnable l c v)
def execLaneContextDisable (l : LaneId) (c : LaneCtxId) (v : Word) (s : State) : Ans :=
  s.hostWrite (pgLane l.val) (0x100 + 0x20 * c.val) v (hostLaneContextDisable l c v)
def execMbclr (l : LaneId) (s : State) : Ans := s.hostWrite (pgLane l.val) 0x010 1 (hostMbclr l)

/-! The coordinator's page. -/

def execAdmit (v : Word) (s : State) : Ans := s.hostWrite (pgSds 4) 0x014 v (hostAdmit v)
def execRemove (v : Word) (s : State) : Ans := s.hostWrite (pgSds 4) 0x014 v (hostRemove v)
def execRemoveForce (v : Word) (s : State) : Ans := s.hostWrite (pgSds 4) 0x014 v (hostRemoveForce v)
def execGroupCommit (v : Word) (s : State) : Ans := s.hostWrite (pgSds 4) 0x200 v (hostGroupCommit v)
def execArm (v : Word) (s : State) : Ans := s.hostWrite (pgSds 4) 0x210 v (hostArm v)
def execDisarm (v : Word) (s : State) : Ans := s.hostWrite (pgSds 4) 0x210 v (hostDisarm v)
def execMirrorRead (v : Word) (s : State) : Ans := s.hostWrite (pgSds 4) 0x210 v (hostMirrorRead v)

/-! Tenants' pages. -/

def execCqDoorbell (i : InstId) (v : Word) (s : State) : Ans := s.hostWrite (pgMbx i.val) 0x10C v (hostCqDoorbell i v)
def execRqHeadWrite (i : InstId) (v : Word) (s : State) : Ans := s.hostWrite (pgMbx i.val) 0x12C v (hostRqHeadWrite i v)
def execMailboxAck (i : InstId) (v : Word) (s : State) : Ans := s.hostWrite (pgMbx i.val) 0x204 v (hostMailboxAck i v)
def execEncode (i : InstId) (v : Word) (s : State) : Ans := s.hostWrite (pgMbx i.val) 0x510 v (hostEncode i v)
def execRebuild (i : InstId) (v : Word) (s : State) : Ans := s.hostWrite (pgMbx i.val) 0x510 v (hostRebuild i v)
def execTenantAttestationRequest (i : InstId) (v : Word) (s : State) : Ans := s.hostWrite (pgMbx i.val) 0x580 v (hostTenantAttestationRequest i v)

/-- A send's write of MBX_SEND_CMD is logged as the send that it is (R422). -/
def execMailboxSend (sender : Space) (v : Word) (s : State) : Ans :=
  if s.running then hostMailboxSend sender v s else .next (s.emit .noService)

/-- FQ and FC of an instance's page, or of the map page. -/
def execFqDoorbell (sp : Space) (v : Word) (s : State) : Ans := s.hostWrite (fqPage sp) 0x40C v (hostFqDoorbell sp v)
def execFcHeadWrite (sp : Space) (v : Word) (s : State) : Ans := s.hostWrite (fqPage sp) 0x42C v (hostFcHeadWrite sp v)

/-! CRU, HBM and FBK pages. -/

def execRegister (d : DieId) (v : Word) (s : State) : Ans := s.hostWrite (pgCru d.val) 0x120 v (hostRegister d v)
def execUnregister (d : DieId) (v : Word) (s : State) : Ans := s.hostWrite (pgCru d.val) 0x120 v (hostUnregister d v)
def execObjectRead (d : DieId) (v : Word) (s : State) : Ans := s.hostWrite (pgCru d.val) 0x120 v (hostObjectRead d v)
def execHbmRetireLogWrite (ctl : HbmId) (v : Word) (s : State) : Ans := s.hostWrite (pgHbm ctl.val) 0x100 v (hostHbmRetireLogWrite ctl v)
def execFbkMapaddrWrite (v : Word) (s : State) : Ans := s.hostWrite pgMap 0x0C0 v (hostFbkMapaddrWrite v)
def execFirebreakCommit (page : Fin 65) (s : State) : Ans := s.hostWrite (pgFbk page.val) 0x0FC 1 (hostFirebreakCommit page)
def execCreate (v : Word) (s : State) : Ans := s.hostWrite pgMap 0x120 v (hostCreate v)
def execActivate (v : Word) (s : State) : Ans := s.hostWrite pgMap 0x120 v (hostActivate v)
def execResetDrain (v : Word) (s : State) : Ans := s.hostWrite pgMap 0x120 v (hostResetDrain v)
def execResetSquash (v : Word) (s : State) : Ans := s.hostWrite pgMap 0x120 v (hostResetSquash v)
def execDestroy (v : Word) (s : State) : Ans := s.hostWrite pgMap 0x120 v (hostDestroy v)
def execLogStart (v : Word) (s : State) : Ans := s.hostWrite pgMap 0x120 v (hostLogStart v)
def execLogSwap (v : Word) (s : State) : Ans := s.hostWrite pgMap 0x120 v (hostLogSwap v)
def execLogStop (v : Word) (s : State) : Ans := s.hostWrite pgMap 0x120 v (hostLogStop v)
def execFreeze (v : Word) (s : State) : Ans := s.hostWrite pgMap 0x120 v (hostFreeze v)
def execThaw (v : Word) (s : State) : Ans := s.hostWrite pgMap 0x120 v (hostThaw v)
def execInstanceRead (v : Word) (s : State) : Ans := s.hostWrite pgMap 0x120 v (hostInstanceRead v)

/-! CKX pages. -/

def execRetrain (p : CkxPort) (s : State) : Ans := s.hostWrite (pgCkx p.val) 0x018 1 (hostRetrain p)
def execHoldClr (p : CkxPort) (s : State) : Ans := s.hostWrite (pgCkx p.val) 0x018 2 (hostHoldClr p)
def execFound (s : State) : Ans := s.hostWrite (pgCkx 32) 0x01C 1 hostFound
def execJoin (s : State) : Ans := s.hostWrite (pgCkx 32) 0x01C 2 hostJoin
def execLeave (s : State) : Ans := s.hostWrite (pgCkx 32) 0x01C 4 hostLeave

/-! ETH, TIME, CHK and CXL pages. -/

def execSnap (s : State) : Ans := s.hostWrite pgTime 0x014 1 hostSnap
def execBarArm (s : State) : Ans := s.hostWrite pgTime 0x014 2 hostBarArm
def execPulseEnable (p : PulseId) (v : Word) (s : State) : Ans := s.hostWrite pgTime (0x110 + 0x20 * p.val) v (hostPulseEnable p v)
def execTsqHeadWrite (p : EthPort) (v : Word) (s : State) : Ans := s.hostWrite (pgEth p.val) 0x1C0 v (hostTsqHeadWrite p v)
def execManagementTxTailWrite (p : EthPort) (v : Word) (s : State) : Ans := s.hostWrite (pgEth p.val) 0x60C v (hostManagementTxTailWrite p v)
def execClose (k : ChkId) (s : State) : Ans := s.hostWrite (pgChk k.val) 0x02C 1 (hostClose k)
def execChkRestart (k : ChkId) (s : State) : Ans := s.hostWrite (pgChk k.val) 0x02C 2 (hostChkRestart k)
def execL2qInboundTailWrite (q : Fin 8) (v : Word) (s : State) : Ans := s.hostWrite pgCxl (0x10C + 0x40 * q.val) v (hostL2qInboundTailWrite q v)
def execL2qDheadWrite (q : Fin 8) (v : Word) (s : State) : Ans := s.hostWrite pgCxl (0x134 + 0x40 * q.val) v (hostL2qDheadWrite q v)

/-! SEED, PWR and BIST pages. -/

def execBind (v : Word) (s : State) : Ans := s.hostWrite pgSeed 0x120 v (hostBind v)
def execUnbind (v : Word) (s : State) : Ans := s.hostWrite pgSeed 0x120 v (hostUnbind v)
def execPackageRead (v : Word) (s : State) : Ans := s.hostWrite pgSeed 0x120 v (hostPackageRead v)
def execInstall (v : Word) (s : State) : Ans := s.hostWrite pgSeed 0x124 v (hostInstall v)
def execAnchorClear (v : Word) (s : State) : Ans := s.hostWrite pgSeed 0x124 v (hostAnchorClear v)
def execRaise (v : Word) (s : State) : Ans := s.hostWrite pgSeed 0x124 v (hostRaise v)
def execManagerAttestationRequest (v : Word) (s : State) : Ans := s.hostWrite pgSeed 0x128 v (hostManagerAttestationRequest v)
def execModuleReset (v : Word) (s : State) : Ans := s.hostWrite pgPwr 0x014 v (hostModuleReset v)
def execSleep (v : Word) (s : State) : Ans := s.hostWrite pgPwr 0x014 v (hostSleep v)
def execPark (v : Word) (s : State) : Ans := s.hostWrite pgPwr 0x100 v (hostPark v)
def execUnpark (v : Word) (s : State) : Ans := s.hostWrite pgPwr 0x100 v (hostUnpark v)
def execLogic (v : Word) (s : State) : Ans := s.hostWrite pgBist 0x100 v (hostLogic v)
def execMemory (v : Word) (s : State) : Ans := s.hostWrite pgBist 0x100 v (hostMemory v)
def execTileBist (v : Word) (s : State) : Ans := s.hostWrite pgBist 0x100 v (hostTileBist v)
def execInjectionArm (v : Word) (s : State) : Ans := s.hostWrite pgBist 0x110 v (hostInjectionArm v)
def execInjectionDisarm (v : Word) (s : State) : Ans := s.hostWrite pgBist 0x110 v (hostInjectionDisarm v)
def execScalerSelect (v : Word) (s : State) : Ans := s.hostWrite pgBist 0x11C v (hostScalerSelect v)
def execDump (v : Word) (s : State) : Ans := s.hostWrite pgBist 0x128 v (hostDump v)
def execClr (v : Word) (s : State) : Ans := s.hostWrite pgBist 0x128 v (hostClr v)

/-! Memory. -/

/-- WINDOW_ACCESS (R437). -/
def execWindowAccess (addr : Fin 274877906944) (op : AccessOp) (s : State) : Ans :=
  if s.running then hostWindowAccess addr op s else .next (s.emit .noService)

/-- PROGRAM_MEMORY_WRITE: the manager writes a lane's program memory at its place in domain 0's device space (R119, R316). -/
def execProgramMemoryWrite (l : LaneId) (off : Nat) (bytes : List Byte) (s : State) : Ans :=
  if !s.running then .next (s.emit .noService)
  else if s.replayed 2 then .next s.liveDrop
  else hostProgramMemoryWrite l off bytes (s.recLog 2 0x05 0 4096 (leBytes 8 (laneLo + l.val * 0x40000 + 0x30000 + off) ++ bytes))

end Sys2Proof.Machine
end

