-- ==== Sys2Proof/Machine/Replay.lean ====
section
/-! DEFINITION. Replay: the recorder injects what it logged (16 R427 to R429); payload layouts are those of the model's own log (log entry 28). -/

namespace Sys2Proof.Machine

/-- n bytes of a payload as a number. -/
def plNat (pl : List Byte) (at_ n : Nat) : Nat := leNat ((pl.drop at_).take n)

/-- A logged section, with the stamp it is injected with. -/
def sectionOf (eaxc stamp : Nat) (pl : List Byte) : USection :=
  let n := plNat pl 14 2
  let body := pl.drop 17
  let b := body.length / max 1 n
  { eaxc := eaxc, sfn := plNat pl 8 2, slot := plNat pl 10 1, sym := plNat pl 11 1, startPrb := plNat pl 12 2,
    prbs := (List.range n).map (fun i => (body.drop (i * b)).take b), stamp := BitVec.ofNat 64 stamp,
    prach := plNat pl 16 1 % 2 = 1, lastOfOccasion := plNat pl 16 1 / 2 % 2 = 1, frac := plNat pl 16 1 / 16 }

/-- A logged time-domain message, with the stamp it is injected with. -/
def iqOf (eaxc stamp : Nat) (pl : List Byte) : IqMessage :=
  { eaxc := eaxc, sfn := plNat pl 8 2, slot := plNat pl 10 1, sym := plNat pl 11 1 % 16, off := plNat pl 12 2,
    samples := (List.range (plNat pl 14 2)).map (fun i => (signed 16 (plNat pl (16 + 4 * i) 2), signed 16 (plNat pl (18 + 4 * i) 2))), stamp := BitVec.ofNat 64 stamp, frac := plNat pl 11 1 / 16 }

/-- A logged queue entry is fetched (R258); none while it would make fetching pause. -/
def State.injectCq (s : State) (i : Nat) (ws : List Word) : Option State :=
  if (s.inst i).phase ≠ .active then some s
  else
    let t := match fld (wAt ws 0) 3 0 with
      | 1 => s.cqRun i ws
      | 2 => s.cqCancel i ws
      | 3 => s.cqOpenJob i ws
      | 4 => State.jobEnd i 4 ws s
      | 5 => State.jobEnd i 5 ws s
      | _ => s.cqNop i ws
    let head := (s.inst i).cqHead
    if (t.inst i).cqHead = head then none else some (t.updInst i (fun x => { x with cqHead := head }))

/-- A logged fabric input (R422): a segment applied here, a GET segment that landed, or a verdict adopted. -/
def State.injectFabric (s : State) (pl : List Byte) : State :=
  match plNat pl 0 1 with
  -- what was applied when it was logged is applied again, with no check of its own (R427)
  | 0 => let x := segOfBytes pl; (match s.fabric.regions.find x.region with | some r => (s.segApply r x).2.2 | none => s)
  | 1 =>
    let sp := spaceOf (plNat pl 1 2)
    let (c, t) := s.storeDev sp (plNat pl 5 8) (pl.drop 13)
    if c = .ok && plNat pl 3 2 ≠ 0xFFFF then t.raiseCtr ((t.mailDie (t.domainOf sp)).getD 0) (plNat pl 3 2) 1 else t
  | _ => s.adopt (plNat pl 1 2)

/-- A logged stamp is delivered (R427): a PPS capture, or a stamp word; a receive stamp went with its frame. -/
def State.injectTime (s : State) (id : Nat) (pl : List Byte) : State :=
  if id = 0xFFFF then s.ppsTake (plNat pl 0 8) (plNat pl 8 4)
  else if id < 8 then s.tsqWord id (wordsOf 4 pl)
  else s

/-- Class of an entry's TYPE (R422); blazes are compared, not injected. -/
def typeClass (ty : Nat) : Option Nat :=
  match ty with
  | 0x01 => some 0 | 0x02 => some 1 | 0x03 => some 2 | 0x04 => some 2 | 0x05 => some 2 | 0x06 => some 2 | 0x07 => some 3 | 0x08 => some 4
  | _ => none

/-- One entry is injected where it was recorded. -/
def State.inject (s : State) (ty src id stamp : Nat) (pl : List Byte) : Option State :=
  match ty with
  | 0x01 => some (match s.ulCell src id with
      | some (c, _) => if dTimeDomain (s.cell c).desc then s.iqMessage src (iqOf id stamp pl) else s.uplane src (sectionOf id stamp pl)
      | none => s.ethDrop src 0)
  | 0x02 => some (s.landSlot (wordsOf (pl.length / 4) pl))
  | 0x03 => s.injectCq id (wordsOf 16 pl)
  | 0x04 => some (s.mailSend (spaceOf id) (wAt (wordsOf 5 pl) 0) ((wordsOf 5 pl).drop 1))
  | 0x05 => some (s.windowWrite (spaceOf id) (plNat pl 0 8) (pl.drop 8))
  | 0x06 => some (match pageOfAddr (plNat pl 0 8) with
      | some (p, off) => Ans.state s (regEffect p off (w32 (plNat pl 8 4)) s)
      | none => s)
  | 0x07 => some (s.injectFabric pl)
  | _ => some (s.injectTime id pl)

/-- Replay stops (R428). -/
def State.replayStop (s : State) (c : Code) : State := { s with recd := { s.recd with stopped := true, status := c } }

/-- Byte SRC of the entry at a position (R423). -/
def State.recSrc (s : State) (pos : Nat) : Nat := ((s.peek .dom0 (s.recBase + pos % s.recUnits * 16) 16).getD 1 0).toNat

/-- The entry at a position has a poisoned line (R303). -/
def State.recPoisoned (s : State) (pos nx : Nat) : Bool :=
  (List.range ((nx + s.recUnits - pos % s.recUnits) % s.recUnits)).any (fun i => s.hasPoison .dom0 (s.recBase + (pos + i) % s.recUnits * 16) 16)

/-- REPLAY_INJECT: the entry at HEAD is injected once F + T has come; an entry that is not there, or a GAP, stops replay, and so does one that cannot be read (R303; DESIGN CHOICE, log entry 134: R428 names no code for it). -/
def execReplayInject (s : State) : Ans :=
  if !s.running || s.recMode ≠ 2 || !s.recd.running || s.recd.stopped || s.recUnits = 0 then .next s
  else if s.recHead % s.recUnits = s.recTail % s.recUnits then .next (s.replayStop .notReady)
  else
    let (ty, id, t, pl, nx) := s.recAt s.recHead
    if s.recPoisoned s.recHead nx then .next (s.replayStop .tierError)
    else if ty = 0x1F then .next (s.replayStop .overflow)
    else
      let step (u : State) : State := u.setReg pgTime 0x314 (w32 nx)
      match typeClass ty with
      | none => .next (step s)
      | some c =>
        let due := (s.recd.origin + t) % 2 ^ 64
        if !s.recClass c then .next (step s)
        else if s.now < due then .next s
        else
          match s.inject ty (s.recSrc s.recHead) id due pl with
          | none => .next s
          | some u =>
            .next (if !u.running then u else if due + 1000 < s.now then step { u with recd := { u.recd with drops := satAdd u.recd.drops 1 0xFFFF } } else step u)

end Sys2Proof.Machine
end

