-- ==== Sys2Proof/Machine/Tick.lean ====
section
/-! DEFINITION. One arithmetic clock of a running module (log entry 1): lane budgets, sort-deck time, the combining buffers, and the time base, whose clock has seven edges to the arithmetic clock's four (R487); and the LATE mark, which every holding point sets as time passes (R218). -/

namespace Sys2Proof.Machine

/-- The time clock moves four sevenths of an edge on. -/
def State.timeTick (s : State) : State :=
  let ph := s.time.phase + 4
  if 7 ≤ ph then (s.setTime { s.time with phase := ph - 7 }).timeEdge else s.setTime { s.time with phase := ph }

/-- One arithmetic clock: none passes for a module that is not running. -/
def State.tick (s : State) : State :=
  if s.running then (({ s with ac := s.ac + 1 }).laneTick.deckTick.hotTick.heldTick).timeTick else s

/-! Late requests (R218). -/

def markCmds (s : State) (n : Nat) (q : List TileCmd) : List TileCmd :=
  match q[n]? with
  | some c => if s.tooLate (cmdDeadline c.words) then q.set n { c with late := true } else q
  | none => q

/-- A segment that has become late. -/
def State.lateSeg (s : State) (x : Segment) : Segment := if s.tooLate x.tag then { x with late := true } else x

/-- Item n of a list takes a new form. -/
def markNth {α : Type} (l : List α) (n : Nat) (f : α → α) : List α := l.modify n f

/-- A queued operation that has become late. -/
def State.lateOps (s : State) (l : List (Segment × Region)) (n : Nat) : List (Segment × Region) := markNth l n (fun q => (s.lateSeg q.1, q.2))

/-- REQUEST_LATE: the holding point sets the request's LATE bit. -/
def execRequestLate (pt : HoldPoint) (s : State) : Ans :=
  match pt with
  | .tile t n => .next (s.updTile t.val (fun x => { x with queue := markCmds s n x.queue }))
  | .deck g n => .next (s.updGrove g.val (fun x => { x with deckWait := match x.deckWait[n]? with
      | some c => if s.tooLate (cmdDeadline c.words) then x.deckWait.set n { c with late := true } else x.deckWait
      | none => x.deckWait }))
  | .code g n => .next (s.updGrove g.val (fun x => { x with ceQueue := match x.ceQueue[n]? with
      | some c => if s.tooLate (cmdDeadline c.words) then x.ceQueue.set n { c with late := true } else x.ceQueue
      | none => x.ceQueue }))
  | .lane l c =>
    let s1 := if (s.lctx l.val c.val).wait = .issue && s.tooLate (s.issueTag l.val c.val) then s.updLctx l.val c.val (fun x => { x with issueLate := true }) else s
    .next (if s.tooLate (s.lctx l.val c.val).cdl then s1.updLctx l.val c.val (fun x => { x with late := true }) else s1)
  | .waiter pk n => .next (s.updHome pk (fun h => { h with waiters := match h.waiters[n]? with
      | some w => if s.tooLate w.tag then h.waiters.set n { w with late := true } else h.waiters
      | none => h.waiters }))
  | .slot pt n => .next { s with arb := s.arb.set pt (match (s.arb.get [] pt)[n]? with
      | some r => if s.tooLate r.tag then (s.arb.get [] pt).set n { r with late := true } else s.arb.get [] pt
      | none => s.arb.get [] pt) }
  | .frame p n => .next (s.updEth p.val (fun x => { x with wheel := match x.wheel[n]? with
      | some f => if s.tooLate (tagOf f.deadline) then x.wheel.set n { f with late := true } else x.wheel
      | none => x.wheel }))
  | .unacked sp n =>
    let f := s.fstream (spaceIdx sp)
    .next (s.setFstream (spaceIdx sp) { f with unacked := markNth f.unacked n (fun u => { u with seg := s.lateSeg u.seg }) })
  | .gather b n => .next { s with fabric := { s.fabric with gather := markNth s.fabric.gather b (fun x => { x with segs := markNth x.segs n s.lateSeg }) } }
  | .combining d outside n =>
    let a := s.agent d.val
    .next (s.setAgent d.val (if outside then { a with outside := s.lateOps a.outside n } else { a with queue := s.lateOps a.queue n }))
  | .move n => .next { s with mems := { s.mems with moves := markNth s.mems.moves n (fun m => if s.tooLate m.tag then { m with late := true } else m) } }
  | .port n => .next { s with mems := { s.mems with held := markNth s.mems.held n (fun q => if s.tooLate q.tag then { q with late := true } else q) } }
  | .req k => .next (if (s.ctx k.val).state ≠ .free && s.tooLate (s.ctx k.val).tag then s.updCtx k.val (fun x => { x with late := true }) else s)

end Sys2Proof.Machine
end

