-- ==== Sys2Proof/Machine/Dispatch.lean ====
section
/-! DEFINITION. Which meaning each command has. -/

namespace Sys2Proof.Machine

def exec (i : Instr) (s : State) : Host.Outcome State Fault Refusal :=
  match i with
  | .registerWrite req p off v => Sys2Proof.Machine.execRegisterWrite req p off v s
  | .unsupportedRegisterAccess p off size => Sys2Proof.Machine.execUnsupportedRegisterAccess p off size s
  | .tenantManagementAccess pasid p => Sys2Proof.Machine.execTenantManagementAccess pasid p s
  | .commit p => Sys2Proof.Machine.execCommit p s
  | .evtPendClear p v => Sys2Proof.Machine.execEvtPendClear p v s
  | .evtMaskWrite p v => Sys2Proof.Machine.execEvtMaskWrite p v s
  | .matmul t => Sys2Proof.Machine.execMatmul t s
  | .conv t => Sys2Proof.Machine.execConv t s
  | .dft t => Sys2Proof.Machine.execDft t s
  | .load t => Sys2Proof.Machine.execLoad t s
  | .store t => Sys2Proof.Machine.execStore t s
  | .wait t => Sys2Proof.Machine.execWait t s
  | .signal t => Sys2Proof.Machine.execSignal t s
  | .gate t => Sys2Proof.Machine.execGate t s
  | .tileWaitSatisfied t => Sys2Proof.Machine.execTileWaitSatisfied t s
  | .signalApply t => Sys2Proof.Machine.execSignalApply t s
  | .tileQueueEntryFree t => Sys2Proof.Machine.execTileQueueEntryFree t s
  | .outputBlockEnd t fault => Sys2Proof.Machine.execOutputBlockEnd t fault s
  | .tileRecordPost t => Sys2Proof.Machine.execTileRecordPost t s
  | .preq t => Sys2Proof.Machine.execPreq t s
  | .preemptionPointReached t => Sys2Proof.Machine.execPreemptionPointReached t s
  | .transferPreemptTimeout t => Sys2Proof.Machine.execTransferPreemptTimeout t s
  | .tileSaveComplete t => Sys2Proof.Machine.execTileSaveComplete t s
  | .resume t => Sys2Proof.Machine.execResume t s
  | .suspectClr t => Sys2Proof.Machine.execSuspectClr t s
  | .tileCtrlHostWrite t v => Sys2Proof.Machine.execTileCtrlHostWrite t v s
  | .tileScrubComplete t => Sys2Proof.Machine.execTileScrubComplete t s
  | .sortDeckCommand g => Sys2Proof.Machine.execSortDeckCommand g s
  | .sortDeckComplete g second => Sys2Proof.Machine.execSortDeckComplete g second s
  | .nop l => Sys2Proof.Machine.execNop l s
  | .br l => Sys2Proof.Machine.execBr l s
  | .call l => Sys2Proof.Machine.execCall l s
  | .ret l => Sys2Proof.Machine.execRet l s
  | .loop l => Sys2Proof.Machine.execLoop l s
  | .repeat_ l => Sys2Proof.Machine.execRepeat l s
  | .laneWait l => Sys2Proof.Machine.execLaneWait l s
  | .laneWaitWake l c => Sys2Proof.Machine.execLaneWaitWake l c s
  | .setdl l => Sys2Proof.Machine.execSetdl l s
  | .halt l => Sys2Proof.Machine.execHalt l s
  | .tiss l => Sys2Proof.Machine.execTiss l s
  | .ciss l => Sys2Proof.Machine.execCiss l s
  | .laneIssueUnblock l c => Sys2Proof.Machine.execLaneIssueUnblock l c s
  | .rdc l => Sys2Proof.Machine.execRdc l s
  | .advc l => Sys2Proof.Machine.execAdvc l s
  | .sigc l => Sys2Proof.Machine.execSigc l s
  | .salu l => Sys2Proof.Machine.execSalu l s
  | .movi l => Sys2Proof.Machine.execMovi l s
  | .cmp l => Sys2Proof.Machine.execCmp l s
  | .gett l => Sys2Proof.Machine.execGett l s
  | .seta l => Sys2Proof.Machine.execSeta l s
  | .geta l => Sys2Proof.Machine.execGeta l s
  | .valu l => Sys2Proof.Machine.execValu l s
  | .vcmul l => Sys2Proof.Machine.execVcmul l s
  | .vmac l => Sys2Proof.Machine.execVmac l s
  | .vmacs l => Sys2Proof.Machine.execVmacs l s
  | .vcmac l => Sys2Proof.Machine.execVcmac l s
  | .vrdac l => Sys2Proof.Machine.execVrdac l s
  | .vsclac l => Sys2Proof.Machine.execVsclac l s
  | .vmag2 l => Sys2Proof.Machine.execVmag2 l s
  | .vrcp l => Sys2Proof.Machine.execVrcp l s
  | .vcvt l => Sys2Proof.Machine.execVcvt l s
  | .vsplat l => Sys2Proof.Machine.execVsplat l s
  | .completionRecordArrive l c => Sys2Proof.Machine.execCompletionRecordArrive l c s
  | .laneContextSwitch l => Sys2Proof.Machine.execLaneContextSwitch l s
  | .standbyLoadComplete l c => Sys2Proof.Machine.execStandbyLoadComplete l c s
  | .sliceExhausted l c => Sys2Proof.Machine.execSliceExhausted l c s
  | .laneDeadlinePassed l c => Sys2Proof.Machine.execLaneDeadlinePassed l c s
  | .laneExternalAccess l mem addr op => Sys2Proof.Machine.execLaneExternalAccess l mem addr op s
  | .programMemoryWrite l off bytes => Sys2Proof.Machine.execProgramMemoryWrite l off bytes s
  | .enable l c v => Sys2Proof.Machine.execEnable l c v s
  | .laneContextDisable l c v => Sys2Proof.Machine.execLaneContextDisable l c v s
  | .laneContextStopped l c => Sys2Proof.Machine.execLaneContextStopped l c s
  | .mbclr l => Sys2Proof.Machine.execMbclr l s
  | .cellSlotStart c => Sys2Proof.Machine.execCellSlotStart c s
  | .ulConfig msg => Sys2Proof.Machine.execUlConfig msg s
  | .dlConfig msg => Sys2Proof.Machine.execDlConfig msg s
  | .txData msg => Sys2Proof.Machine.execTxData msg s
  | .messageDeadline c => Sys2Proof.Machine.execMessageDeadline c s
  | .admitCell v => Sys2Proof.Machine.execAdmit v s
  | .admitChecksComplete => Sys2Proof.Machine.execAdmitChecksComplete s
  | .remove v => Sys2Proof.Machine.execRemove v s
  | .removeForce v => Sys2Proof.Machine.execRemoveForce v s
  | .cellActivate c => Sys2Proof.Machine.execCellActivate c s
  | .cellEndBoundary c => Sys2Proof.Machine.execCellEndBoundary c s
  | .cellFree c => Sys2Proof.Machine.execCellFree c s
  | .uplinkCplaneSend c sfn slot => Sys2Proof.Machine.execUplinkCplaneSend c sfn slot s
  | .uplaneSection port sec => Sys2Proof.Machine.execUplaneSection port sec s
  | .timeDomainIqMessage port msg => Sys2Proof.Machine.execTimeDomainIqMessage port msg s
  | .ulSymbolClose c sfn slot sym => Sys2Proof.Machine.execUlSymbolClose c sfn slot sym s
  | .gainSlotEnd c sfn slot => Sys2Proof.Machine.execGainSlotEnd c sfn slot s
  | .ldec g => Sys2Proof.Machine.execLdec g s
  | .lenc g => Sys2Proof.Machine.execLenc g s
  | .pdec g => Sys2Proof.Machine.execPdec g s
  | .penc g => Sys2Proof.Machine.execPenc g s
  | .codeBlockEnd g => Sys2Proof.Machine.execCodeBlockEnd g s
  | .harqLockRelease c entry => Sys2Proof.Machine.execHarqLockRelease c entry s
  | .softBufferRelease c => Sys2Proof.Machine.execSoftBufferRelease c s
  | .rxDataEgress c sfn slot tbs crcs others => Sys2Proof.Machine.execRxDataEgress c sfn slot tbs crcs others s
  | .dlSymbolSend c sfn slot k => Sys2Proof.Machine.execDlSymbolSend c sfn slot k s
  | .dlSymbolClose c sfn slot k => Sys2Proof.Machine.execDlSymbolClose c sfn slot k s
  | .planPeriodBoundary d => Sys2Proof.Machine.execPlanPeriodBoundary d s
  | .spillComplete t tierErr => Sys2Proof.Machine.execSpillComplete t tierErr s
  | .tileReturnStart t => Sys2Proof.Machine.execTileReturnStart t s
  | .restoreComplete t => Sys2Proof.Machine.execRestoreComplete t s
  | .groupCommit v => Sys2Proof.Machine.execGroupCommit v s
  | .heldCommitApply => Sys2Proof.Machine.execHeldCommitApply s
  | .shapingRefill d pt => Sys2Proof.Machine.execShapingRefill d pt s
  | .requestLate pt => Sys2Proof.Machine.execRequestLate pt s
  | .cqDoorbell inst v => Sys2Proof.Machine.execCqDoorbell inst v s
  | .cqNop inst => Sys2Proof.Machine.execCqNop inst s
  | .run inst => Sys2Proof.Machine.execRun inst s
  | .cancel inst => Sys2Proof.Machine.execCancel inst s
  | .openJob inst => Sys2Proof.Machine.execOpenJob inst s
  | .closeJob inst => Sys2Proof.Machine.execCloseJob inst s
  | .restart inst => Sys2Proof.Machine.execRestart inst s
  | .cqFetchResume inst => Sys2Proof.Machine.execCqFetchResume inst s
  | .stepStart id => Sys2Proof.Machine.execStepStart id s
  | .stepTile id => Sys2Proof.Machine.execStepTile id s
  | .stepSort id => Sys2Proof.Machine.execStepSort id s
  | .jumpc id => Sys2Proof.Machine.execJumpc id s
  | .emit id => Sys2Proof.Machine.execEmit id s
  | .ckpt id => Sys2Proof.Machine.execCkpt id s
  | .stepEnd id => Sys2Proof.Machine.execStepEnd id s
  | .sequencerRecord id => Sys2Proof.Machine.execSequencerRecord id s
  | .teardownFinish id => Sys2Proof.Machine.execTeardownFinish id s
  | .rqHeadWrite inst v => Sys2Proof.Machine.execRqHeadWrite inst v s
  | .deviceMemoryAccess a => Sys2Proof.Machine.execDeviceMemoryAccess a s
  | .moveSwitch page => Sys2Proof.Machine.execMoveSwitch page s
  | .moveAbort page => Sys2Proof.Machine.execMoveAbort page s
  | .epochEnd d => Sys2Proof.Machine.execEpochEnd d s
  | .tierStallLimit k => Sys2Proof.Machine.execTierStallLimit k s
  | .patrolScrub ctl frame line err => Sys2Proof.Machine.execPatrolScrub ctl frame line err s
  | .register d v => Sys2Proof.Machine.execRegister d v s
  | .unregister d v => Sys2Proof.Machine.execUnregister d v s
  | .objectRead d v => Sys2Proof.Machine.execObjectRead d v s
  | .hbmRetireLogWrite ctl v => Sys2Proof.Machine.execHbmRetireLogWrite ctl v s
  | .fbkMapaddrWrite v => Sys2Proof.Machine.execFbkMapaddrWrite v s
  | .mapCopyComplete => Sys2Proof.Machine.execMapCopyComplete s
  | .firebreakCommit page => Sys2Proof.Machine.execFirebreakCommit page s
  | .create v => Sys2Proof.Machine.execCreate v s
  | .activate v => Sys2Proof.Machine.execActivate v s
  | .resetDrain v => Sys2Proof.Machine.execResetDrain v s
  | .resetSquash v => Sys2Proof.Machine.execResetSquash v s
  | .drainComplete inst => Sys2Proof.Machine.execDrainComplete inst s
  | .drainTimeout inst => Sys2Proof.Machine.execDrainTimeout inst s
  | .squashComplete inst => Sys2Proof.Machine.execSquashComplete inst s
  | .destroy v => Sys2Proof.Machine.execDestroy v s
  | .logStart v => Sys2Proof.Machine.execLogStart v s
  | .logSwap v => Sys2Proof.Machine.execLogSwap v s
  | .logStop v => Sys2Proof.Machine.execLogStop v s
  | .freeze v => Sys2Proof.Machine.execFreeze v s
  | .freezeComplete inst => Sys2Proof.Machine.execFreezeComplete inst s
  | .thaw v => Sys2Proof.Machine.execThaw v s
  | .instanceRead v => Sys2Proof.Machine.execInstanceRead v s
  | .keyDelivery inst key => Sys2Proof.Machine.execKeyDelivery inst key s
  | .mailboxSend sender v => Sys2Proof.Machine.execMailboxSend sender v s
  | .mailboxAck inst v => Sys2Proof.Machine.execMailboxAck inst v s
  | .fqDoorbell sp v => Sys2Proof.Machine.execFqDoorbell sp v s
  | .fcHeadWrite sp v => Sys2Proof.Machine.execFcHeadWrite sp v s
  | .put sp => Sys2Proof.Machine.execPut sp s
  | .get sp => Sys2Proof.Machine.execGet sp s
  | .fabricStore sp => Sys2Proof.Machine.execFabricStore sp s
  | .fabricLoad sp => Sys2Proof.Machine.execFabricLoad sp s
  | .red sp => Sys2Proof.Machine.execRed sp s
  | .mstore sp => Sys2Proof.Machine.execMstore sp s
  | .atomic sp => Sys2Proof.Machine.execAtomic sp s
  | .fence sp => Sys2Proof.Machine.execFence sp s
  | .regionOpen sp => Sys2Proof.Machine.execRegionOpen sp s
  | .regionClose sp => Sys2Proof.Machine.execRegionClose sp s
  | .grant sp => Sys2Proof.Machine.execGrant sp s
  | .revoke sp => Sys2Proof.Machine.execRevoke sp s
  | .import_ sp => Sys2Proof.Machine.execImport sp s
  | .unimport sp => Sys2Proof.Machine.execUnimport sp s
  | .importClear sp => Sys2Proof.Machine.execImportClear sp s
  | .segmentArrive x => Sys2Proof.Machine.execSegmentArrive x s
  | .hotLineCool d key => Sys2Proof.Machine.execHotLineCool d key s
  | .segmentAck a => Sys2Proof.Machine.execSegmentAck a s
  | .fenceTimeout sp => Sys2Proof.Machine.execFenceTimeout sp s
  | .windowRetry sp => Sys2Proof.Machine.execWindowRetry sp s
  | .duplicateWindowExpire d src stream => Sys2Proof.Machine.execDuplicateWindowExpire d src stream s
  | .gatherTimeout g => Sys2Proof.Machine.execGatherTimeout g s
  | .bulkTransferArrive g b => Sys2Proof.Machine.execBulkTransferArrive g b s
  | .linkPacketReceive p k => Sys2Proof.Machine.execLinkPacketReceive p k s
  | .linkRetryTimeout p => Sys2Proof.Machine.execLinkRetryTimeout p s
  | .laneErrorLimit p ln => Sys2Proof.Machine.execLaneErrorLimit p ln s
  | .linkRetrainComplete p good => Sys2Proof.Machine.execLinkRetrainComplete p good s
  | .portHoldExpire p => Sys2Proof.Machine.execPortHoldExpire p s
  | .retrain p => Sys2Proof.Machine.execRetrain p s
  | .holdClr p => Sys2Proof.Machine.execHoldClr p s
  | .grantSweepComplete m => Sys2Proof.Machine.execGrantSweepComplete m s
  | .moduleFault => Sys2Proof.Machine.execModuleFault s
  | .livenessRound => Sys2Proof.Machine.execLivenessRound s
  | .heartbeat h => Sys2Proof.Machine.execHeartbeat h s
  | .peerAbsent x => Sys2Proof.Machine.execPeerAbsent x s
  | .accuse x from_ epoch => Sys2Proof.Machine.execAccuse x from_ epoch s
  | .clear x from_ epoch => Sys2Proof.Machine.execClear x from_ epoch s
  | .verdict x from_ epoch => Sys2Proof.Machine.execVerdict x from_ epoch s
  | .verdictForward x => Sys2Proof.Machine.execVerdictForward x s
  | .quorumLoss => Sys2Proof.Machine.execQuorumLoss s
  | .found => Sys2Proof.Machine.execFound s
  | .join => Sys2Proof.Machine.execJoin s
  | .leave => Sys2Proof.Machine.execLeave s
  | .joinMessage x shadow bistOk => Sys2Proof.Machine.execJoinMessage x shadow bistOk s
  | .admitMessage a => Sys2Proof.Machine.execAdmitMessage a s
  | .memberEntry => Sys2Proof.Machine.execMemberEntry s
  | .joinTimeout => Sys2Proof.Machine.execJoinTimeout s
  | .arm v => Sys2Proof.Machine.execArm v s
  | .disarm v => Sys2Proof.Machine.execDisarm v s
  | .mirrorRead v => Sys2Proof.Machine.execMirrorRead v s
  | .mirrorOpenRequest c answer => Sys2Proof.Machine.execMirrorOpenRequest c answer s
  | .mirrorOpenReceive src pcell c desc rdigest ldigest => Sys2Proof.Machine.execMirrorOpenReceive src pcell c desc rdigest ldigest s
  | .mirror c item => Sys2Proof.Machine.execMirror c item s
  | .encode inst v => Sys2Proof.Machine.execEncode inst v s
  | .rebuild inst v => Sys2Proof.Machine.execRebuild inst v s
  | .ecDone inst => Sys2Proof.Machine.execEcDone inst s
  | .timeSettingApply => Sys2Proof.Machine.execTimeSettingApply s
  | .snap => Sys2Proof.Machine.execSnap s
  | .referenceLost => Sys2Proof.Machine.execReferenceLost s
  | .referenceGood => Sys2Proof.Machine.execReferenceGood s
  | .ethernetStamp p ns frac => Sys2Proof.Machine.execEthernetStamp p ns frac s
  | .tsqHeadWrite p v => Sys2Proof.Machine.execTsqHeadWrite p v s
  | .ppsEdge => Sys2Proof.Machine.execPpsEdge s
  | .pulseEnable p v => Sys2Proof.Machine.execPulseEnable p v s
  | .pulseEdge p => Sys2Proof.Machine.execPulseEdge p s
  | .cascadeDelayMeasure q dly conflict up below => Sys2Proof.Machine.execCascadeDelayMeasure q dly conflict up below s
  | .cascadeLinkLost q => Sys2Proof.Machine.execCascadeLinkLost q s
  | .cascadeLinkReturn q off => Sys2Proof.Machine.execCascadeLinkReturn q off s
  | .stepAnnounce at_ step foff => Sys2Proof.Machine.execStepAnnounce at_ step foff s
  | .barArm => Sys2Proof.Machine.execBarArm s
  | .ready q => Sys2Proof.Machine.execReady q s
  | .fire at_ => Sys2Proof.Machine.execFire at_ s
  | .barrierFire => Sys2Proof.Machine.execBarrierFire s
  | .barrierTimeout => Sys2Proof.Machine.execBarrierTimeout s
  | .abort => Sys2Proof.Machine.execAbort s
  | .replayInject => Sys2Proof.Machine.execReplayInject s
  | .close k => Sys2Proof.Machine.execClose k s
  | .chkRestart k => Sys2Proof.Machine.execChkRestart k s
  | .windowAccess addr op => Sys2Proof.Machine.execWindowAccess addr op s
  | .atsInvalidation pasid first pages refused => Sys2Proof.Machine.execAtsInvalidation pasid first pages refused s
  | .ideIntegrityFail stream => Sys2Proof.Machine.execIdeIntegrityFail stream s
  | .tspLock inst => Sys2Proof.Machine.execTspLock inst s
  | .tspUnlock inst => Sys2Proof.Machine.execTspUnlock inst s
  | .l2qInboundTailWrite q v => Sys2Proof.Machine.execL2qInboundTailWrite q v s
  | .l2qDheadWrite q v => Sys2Proof.Machine.execL2qDheadWrite q v s
  | .ethFrameReceive p f => Sys2Proof.Machine.execEthFrameReceive p f s
  | .payloadDatagram p srcIp ipFragment ver cell msgid offset total bytes => Sys2Proof.Machine.execPayloadDatagram p srcIp ipFragment ver cell msgid offset total bytes s
  | .reassemblyTimeout p => Sys2Proof.Machine.execReassemblyTimeout p s
  | .managementTxTailWrite p v => Sys2Proof.Machine.execManagementTxTailWrite p v s
  | .wheelBucketDue p sub => Sys2Proof.Machine.execWheelBucketDue p sub s
  | .i3cCcc c arg => Sys2Proof.Machine.execI3cCcc c arg s
  | .i3cPrivateWrite bytes => Sys2Proof.Machine.execI3cPrivateWrite bytes s
  | .i3cPrivateRead n => Sys2Proof.Machine.execI3cPrivateRead n s
  | .telemetrySnapshot r => Sys2Proof.Machine.execTelemetrySnapshot r s
  | .bind v => Sys2Proof.Machine.execBind v s
  | .bindComplete => Sys2Proof.Machine.execBindComplete s
  | .unbind v => Sys2Proof.Machine.execUnbind v s
  | .packageRead v => Sys2Proof.Machine.execPackageRead v s
  | .install v => Sys2Proof.Machine.execInstall v s
  | .anchorClear v => Sys2Proof.Machine.execAnchorClear v s
  | .raise v => Sys2Proof.Machine.execRaise v s
  | .tenantAttestationRequest inst v => Sys2Proof.Machine.execTenantAttestationRequest inst v s
  | .managerAttestationRequest v => Sys2Proof.Machine.execManagerAttestationRequest v s
  | .signerTakeRequest => Sys2Proof.Machine.execSignerTakeRequest s
  | .signatureComplete => Sys2Proof.Machine.execSignatureComplete s
  | .topWriteComplete => Sys2Proof.Machine.execTopWriteComplete s
  | .spdmRequest x => Sys2Proof.Machine.execSpdmRequest x s
  | .park v => Sys2Proof.Machine.execPark v s
  | .parkComplete g => Sys2Proof.Machine.execParkComplete g s
  | .unpark v => Sys2Proof.Machine.execUnpark v s
  | .unparkComplete g => Sys2Proof.Machine.execUnparkComplete g s
  | .moduleReset v => Sys2Proof.Machine.execModuleReset v s
  | .sleep v => Sys2Proof.Machine.execSleep v s
  | .modWake => Sys2Proof.Machine.execModWake s
  | .powerOn modTest => Sys2Proof.Machine.execPowerOn modTest s
  | .startupStepComplete ok => Sys2Proof.Machine.execStartupStepComplete ok s
  | .perst => Sys2Proof.Machine.execPerst s
  | .cxlLinkReset => Sys2Proof.Machine.execCxlLinkReset s
  | .testReset => Sys2Proof.Machine.execTestReset s
  | .thermalSample r => Sys2Proof.Machine.execThermalSample r s
  | .inputFault => Sys2Proof.Machine.execInputFault s
  | .powerStageFault => Sys2Proof.Machine.execPowerStageFault s
  | .pllLockLoss p => Sys2Proof.Machine.execPllLockLoss p s
  | .logic v => Sys2Proof.Machine.execLogic v s
  | .memory v => Sys2Proof.Machine.execMemory v s
  | .tileBist v => Sys2Proof.Machine.execTileBist v s
  | .bistDone r => Sys2Proof.Machine.execBistDone r s
  | .injectionArm v => Sys2Proof.Machine.execInjectionArm v s
  | .injectionDisarm v => Sys2Proof.Machine.execInjectionDisarm v s
  | .scalerSelect v => Sys2Proof.Machine.execScalerSelect v s
  | .dump v => Sys2Proof.Machine.execDump v s
  | .clr v => Sys2Proof.Machine.execClr v s
  | .jtagInstruction tap ir => Sys2Proof.Machine.execJtagInstruction tap ir s
  | .ethernetLinkDown p sub => Sys2Proof.Machine.execEthernetLinkDown p sub s
  | .ethernetLinkUp p sub => Sys2Proof.Machine.execEthernetLinkUp p sub s
  | .cxlLinkUp width rate flit256 => Sys2Proof.Machine.execCxlLinkUp width rate flit256 s
  | .switchUnreachable p dest => Sys2Proof.Machine.execSwitchUnreachable p dest s
  | .downlinkCplaneSend c sfn slot weights => Sys2Proof.Machine.execDownlinkCplaneSend c sfn slot weights s
  | .cascadeSlewComplete => Sys2Proof.Machine.execCascadeSlewComplete s

end Sys2Proof.Machine
end

