-- ==== Sys2Proof/Machine/Readout.lean ====
section
/-! DEFINITION. What every register reads: a read changes no state (R13), so it is a function of the state (R12 to R14, R506 to R511 and the register sections of every chapter). -/

namespace Sys2Proof.Machine

/-- Eight 4-bit codes in one register: those of units 8w to 8w + 7. -/
def nibbles (w : Nat) (code : Nat → Nat) : Word := w32 ((List.range 8).map (fun j => code (8 * w + j) % 16 * 16 ^ j)).sum

/-- A busy flag and a status code, as the command registers report them. -/
def busyStat (busy : Bool) (c : Code) (hi : Nat) : Word := w32 (b1 busy + put (codeVal c) 8 8 + putW hi 16 16)

/-- The halves of a 64-bit value. -/
def loWord (n : Nat) : Word := w32 n
def hiWord (n : Nat) : Word := w32 (n / 2 ^ 32)

/-! Codes of states (R140, R165, R236, R365, R381, R392, R396, R408, R410, R459). -/

def laneCode : LaneCtxState → Nat
  | .off => 0 | .sleep => 1 | .ready => 2 | .run => 3 | .faulted => 4 | .stopping => 5

def laneFaultCode : LaneFault → Nat
  | .none => 0 | .illegal => 1 | .addr => 2 | .stack => 3 | .count => 4 | .ctr => 5 | .code => 6 | .ecc => 7 | .cfg => 8 | .qfull => 9

def cellCode : CellPhase → Nat
  | .free => 0 | .accepted => 1 | .active => 2 | .draining => 3

def schedCode : TSched → Nat
  | .none => 0 | .floor => 1 | .preempt => 2 | .spill => 3 | .scrubIn => 4 | .standby => 5 | .lent => 6 | .drain => 7
  | .scrubOut => 8 | .restore => 9

def mirCode : MirState → Nat
  | .none => 0 | .wait => 1 | .armed => 2 | .taken => 3 | .failed => 4

def linkCode : LinkState → Nat
  | .down => 0 | .training => 1 | .up => 2 | .held => 3

def lvCode : LvState → Nat
  | .none => 0 | .joining => 1 | .shadow => 2 | .member => 3 | .fenced => 4

def pllCode : PllState → Nat
  | .freerun => 0 | .acquiring => 1 | .locked => 2 | .holdover => 3

def cascCode : CascRole → Nat
  | .none => 0 | .locked => 1 | .holdover => 2 | .slewing => 3

def barCode : BarState → Nat
  | .idle => 0 | .armed => 1 | .ready => 2 | .done => 3

def cxlCode : CxlState → Nat
  | .down => 0 | .training => 1 | .up => 2 | .flitfail => 3

/-- Width of a link as its registers code it: 1, 2, 4 or 8 lanes. -/
def widthCode (n : Nat) : Nat := if n ≤ 1 then 0 else if n ≤ 2 then 1 else if n ≤ 4 then 2 else 3

/-! Status registers, page by page. A register that is not named is left to the caller: none. -/

/-- TILE_STATUS (R84). -/
def State.tileStatus (s : State) (t : Nat) : Word :=
  let x := s.tile t
  let runs (e : Nat) : Bool := !x.held && x.flights.any (fun f => f.undone && f.ran && f.op.engine = e)
  w32 (b1 (runs 0) + 2 * b1 (runs 1) + 4 * b1 x.held + 8 * b1 x.suspect + 16 * b1 x.scrub + put x.queue.length 5 5
    + putW ((s.tileOwner t).getD 0) 6 16 + (if x.held then 3 * 2 ^ 24 else 0))

/-- LANE_STATUS and the contexts' registers (R144, R249, R516). -/
def State.laneRead_ (s : State) (l off : Nat) : Option Word :=
  let x := s.lane l
  let bits (f : LaneCtx → Bool) : Nat := ((List.range 8).map (fun c => b1 (f (x.ctx c)) * 2 ^ c)).sum
  if off = 0x040 then
    some (w32 (putW x.runCtx 3 0 + 8 * b1 x.running + putW x.stbyCtx 3 4 + 128 * b1 x.stbyValid
      + 2 ^ 8 * bits (fun c => c.state = .ready) + 2 ^ 16 * bits (fun c => c.state = .faulted)))
  else if 0x100 ≤ off && off < 0x200 then
    let c := x.ctx ((off - 0x100) / 0x20)
    match off % 0x20 with
    | 0x10 => some (w32 (laneCode c.state + 16 * laneFaultCode c.fault + 256 * c.flagBits + put c.outst 6 14 + put c.port.length 6 20))
    | 0x14 => some (w32 (putW (if c.state = .faulted then c.faultPc else c.pc) 12 0))
    | 0x18 => some (w32 (put c.left 22 0 + 2 ^ 22 * b1 c.exh))
    | 0x1C => some (w32 (put c.ovr 13 0))
    | _ => none
  else none

/-- The context's current step lies on grove g (R252, R256): one without a footprint on the grove that holds slice tile FTILE0, or the slice's first where there is none (DESIGN CHOICE, log entry 132). -/
def State.stepOn (s : State) (c : ReqCtx) (g : Nat) : Bool :=
  match s.stepAt c c.pc with
  | some e =>
    let slice := sliceTiles (s.job c.inst c.job)
    let foot := s.footOf c e
    if foot.isEmpty then (match (slice.drop (stTile0 e)).head?.orElse (fun _ => slice.head?) with | some t => t / 32 = g | none => false)
    else foot.any (fun t => t / 32 = g)
  | none => false

/-- GRV_SEQ_STAT (R273) and GRV_CE_STAT (R215). -/
def State.groveRead (s : State) (g off : Nat) : Option Word :=
  let v := s.grove g
  let count (st : CtxState) : Nat := (s.ctxs.filter (fun p => p.2.state = st && s.stepOn p.2 g)).length
  if off = 0x044 then
    let scrubs : Bool := (List.range 32).any (fun i => let x := s.tile (g * 32 + i); x.scrub && x.sched ≠ .scrubIn && x.sched ≠ .scrubOut && x.holder.isSome)
    let ckpt : Bool := s.ctxs.any (fun p => p.2.state = .run && s.stepOn p.2 g && (match s.stepAt p.2 p.2.pc with | some e => stKind e = 5 | none => false))
    some (w32 (put (count .ready) 10 0 + put (count .run) 10 10 + 2 ^ 20 * b1 ckpt + 2 ^ 21 * b1 scrubs))
  else if off = 0x060 then
    let busy := v.ceBusy.bind (fun q => v.ceQueue.find? (fun k => k.seq = q))
    let queued := v.ceQueue.filter (fun k => !k.started)
    let lockWait : Bool := match s.codeFirst queued with | some k => s.codeLocked k | none => false
    some (w32 (put queued.length 5 0 + (match busy with | some k => 32 + 2 ^ 8 * ccOp k.words + 2 ^ 16 * ccCell k.words | none => 0)
      + 2 ^ 25 * b1 lockWait))
  else none

/-- SRT_STATUS (R110). -/
def State.deckStatus (s : State) (g : Nat) : Word :=
  let v := s.grove g
  let waits (c : Option DeckCmd) : Nat := match c with | some c => b1 (s.deckWaits g (decodeDeck c.words)) | none => 0
  let dom (c : Option DeckCmd) : Nat := match c with | some c => c.domain | none => 0
  w32 (b1 v.deck0.isSome + 2 * b1 v.deck1.isSome + 4 * waits v.deck0 + 8 * waits v.deck1 + putW (dom v.deck0) 6 8 + putW (dom v.deck1) 6 16)

/-- SDS pages (R249, R392, "Coordinator registers" of 06). -/
def State.sdsRead (s : State) (d off : Nat) : Option Word :=
  if d < 4 then
    let x := s.sched d
    if off = 0x040 then
      some (w32 (put x.need 9 0 + put x.borrow 9 9 + put ((dieTiles d).filter (fun t => (s.tile t).sched = .lent)).length 9 18 + putW x.pmu 2 27))
    else if 0x100 ≤ off && off < 0x180 then some (nibbles ((off - 0x100) / 4) (fun i => schedCode (s.tile (d * 256 + i)).sched))
    else none
  else
    let c := s.coord
    if off = 0x040 then some (w32 (b1 c.busy + 2 * b1 c.doneBit + put (codeVal c.status) 8 8 + putW c.sfn 10 16))
    else if 0x044 ≤ off && off < 0x054 then some (w32 (put (s.loadMt ((off - 0x044) / 4)) 18 0))
    else if 0x054 ≤ off && off < 0x064 then some (w32 (put (s.cap ((off - 0x054) / 4)) 18 0))
    else if 0x064 ≤ off && off < 0x074 then some (w32 (put (s.loadCode ((off - 0x064) / 4)) 18 0))
    else if off = 0x074 then some (w32 (put s.loadUl 12 0 + put s.loadDl 12 16))
    else if off = 0x078 then some (w32 (putW c.fails 11 0))
    else if 0x100 ≤ off && off < 0x200 then some (nibbles ((off - 0x100) / 4) (fun i => cellCode (s.cell i).phase))
    else if off = 0x204 then some (busyStat (s.fbk.held.contains .group) c.gstatus 0)
    else if off = 0x208 then some (busyStat false c.mirStat 0)
    else if 0x300 ≤ off && off < 0x400 then some (nibbles ((off - 0x300) / 4) (fun i => mirCode (s.mirror i).state))
    else none

/-- HBM_ECC_STAT and HBM_RETIRE_LOG: the oldest retirement stays until it is written away (R306). -/
def State.hbmRead_ (s : State) (k off : Nat) : Option Word :=
  if off = 0x040 then some (w32 (put (s.mems.ce.get 0 k) 16 0 + put (s.mems.ue.get 0 k) 12 16))
  else if off = 0x100 then
    some (match s.mems.retireLog.get [] k with
      | [] => 0
      | f :: rest => w32 (putW f 24 0 + 2 ^ 24 + 2 ^ 25 * b1 (!rest.isEmpty)))
  else none

/-- CRU_STATUS (R306). -/
def State.cruRead (s : State) (d off : Nat) : Option Word :=
  if off = 0x040 then
    some (w32 (put (s.mems.moves.filter (fun m => s.moveDie m = d)).length 8 0
      + put (s.mems.homes.filter (fun p => s.waitDie p.1 = d && !p.2.waiters.isEmpty)).length 8 8 + put (codeVal (s.mems.objStat.get .ok d)) 8 24))
  else none

/-- CKX pages (R369, R392). -/
def State.ckxRead (s : State) (k off : Nat) : Option Word :=
  if k < 12 then
    let x := s.port k
    if off = 0x040 then
      some (w32 (linkCode x.state + 4 * widthCode x.width + putW x.lanes 4 4
        + put (x.downs.filter (fun t => s.now < t + 1000000000)).length 8 8 + put x.retry 16 16))
    else none
  else if k = 32 then
    let l := s.lv
    if off = 0x040 then some (w32 (lvCode l.state + 8 * b1 (bitOf (s.evtRaw pgLv) 2) + put l.n 9 4 + put l.match_ 8 13 + putW l.cause 2 21))
    else if off = 0x044 then some (w32 l.epoch)
    else if 0x300 ≤ off && off < 0x380 then some (nibbles ((off - 0x300) / 4) (fun j => posCode (l.posState j)))
    else none
  else none

/-- The time-domain stream of a port with eAxC ID bits [7:0]: its cell and stream (R171). -/
def State.gainOf (s : State) (p e : Nat) : Option (Nat × Nat) :=
  (s.cells.filterMap (fun q =>
    if q.2.phase ≠ CellPhase.free && dTimeDomain q.2.desc && dPort q.2.desc = p then
      ((List.range (dStrUl q.2.desc)).find? (fun st => (dEaxUl q.2.desc + st) % 256 = e)).map (fun st => (q.1, st))
    else none)).head?

/-- ETH_TDG_GAINs (07, "Time-domain front end"). -/
def State.gainRead (s : State) (p e : Nat) : Word :=
  match s.gainOf p e with
  | none => 0
  | some (c, st) =>
    let x := s.cell c
    let g := x.gains.get Gain.zero st
    let start := (s.slotAt (dMu x.desc) s.now).start
    let on (e : Option Nat) : Bool := match e with | some t => decide (start ≤ t) | none => false
    w32 ((g.g % 256).toNat + 2 ^ 8 * b1 (on (laterOf g.frzEnd (x.frozenTo start)) || on g.holdEnd) + 2 ^ 9 * b1 (on g.holdEnd) + 2 ^ 16 * (g.rssi % 65536).toNat)

/-- ETH pages (R403, R404, R412, R459). -/
def State.ethRead (s : State) (p off : Nat) : Option Word :=
  let e := s.ethp p
  if off = 0x040 then some (w32 (put e.polDrop 16 0 + put e.unsup 16 16))
  else if off = 0x1C4 then some (w32 (putW e.tsqTail 16 0 + put e.drops 16 16))
  else if off = 0x610 then some (w32 e.mtxHead)
  else if off = 0x630 then some (w32 e.mrxTail)
  else if 0x800 ≤ off && off < 0xC00 then some (s.gainRead p ((off - 0x800) / 4))
  else if 0xC00 ≤ off then some (wAt (e.tsq.get [] ((off - 0xC00) / 16)) ((off - 0xC00) % 16 / 4))
  else none

/-- The CXL page (R443, R459). -/
def State.cxlRead (s : State) (off : Nat) : Option Word :=
  let c := s.cxl
  if off = 0x040 then
    some (w32 (cxlCode c.state + 4 * widthCode c.width + 16 * (if c.rate ≤ 16 then 0 else if c.rate ≤ 32 then 1 else 2)
      + putW c.ide 4 6 + 2 ^ 10 * b1 c.cmide + put c.winref 16 16))
  else if 0x100 ≤ off && off < 0x300 then
    let q := s.l2q ((off - 0x100) / 0x40)
    match off % 0x40 with
    | 0x10 => some (w32 q.inHead)
    | 0x30 => some (w32 q.outTail)
    | 0x38 => some (w32 (put q.held 16 0 + put q.bad 16 16))
    | _ => none
  else none

/-- The TIME page (R412, R434). -/
def State.timeRead (s : State) (off : Nat) : Option Word :=
  let t := s.time
  let r := s.recd
  match off with
  | 0x040 => some (loWord t.ns)
  | 0x044 => some (hiWord t.ns)
  | 0x048 => some (loWord t.snapNs)
  | 0x04C => some (hiWord t.snapNs)
  | 0x050 => some (w32 (putW t.snapFrac 28 0))
  | 0x054 => some (w32 (pllCode t.pll + putW t.srcAct 2 2 + put (codeVal t.stepSt) 8 8 + 2 ^ 16 * cascCode t.casc + put t.nmem 5 19
      + 2 ^ 24 * b1 t.oversize + put t.hops 4 25))
  | 0x058 => some (loWord t.ppsNs)
  | 0x05C => some (hiWord t.ppsNs)
  | 0x060 => some (w32 (putW t.ppsSeq 16 0 + put t.glitch 16 16))
  | 0x064 => some (w32 (barCode t.barState + put (codeVal t.barStatus) 8 8 + putW t.barGen 8 16))
  | 0x068 => some (loWord t.barT)
  | 0x06C => some (hiWord t.barT)
  | 0x070 => some (w32 (putW t.ppsFrac 28 0))
  | 0x31C => some (w32 (codeVal r.status + put r.mismatch 8 8 + put r.drops 16 16))
  | 0x320 => some (w32 (putW r.badType 8 0))
  | 0x324 => some (w32 r.badId)
  | 0x328 => some (w32 r.badT)
  | _ =>
    if 0x200 ≤ off && off < 0x210 then let c := cascAt t ((off - 0x200) / 4); some (w32 (put c.dly 16 0 + putW c.state 2 16))
    else if 0x100 ≤ off && off < 0x180 && off % 0x20 = 0x14 then
      let p := pulseAt t ((off - 0x100) / 0x20)
      some (w32 (codeVal p.status + put p.skipped 8 8 + putW p.count 16 16))
    else none

/-- The result window: the record of a ring entry between head and tail as it stands in memory, else NOT_READY (R267). -/
def State.windowRead (s : State) (i off : Nat) : Word :=
  let p := pgMbx i
  let slot := (off - 0x800) / 64
  let len := s.ringLen p 0x120
  let head := s.ringIdx p 0x120
  let n := idxGap head (s.inst i).rqTail
  let w := off % 64 / 4
  match (List.range n).find? (fun j => (head + j) % 65536 % len = slot) with
  | some _ =>
    if slot < len && s.ringOn p 0x120 then w32 (leNat (s.peek (spaceOf i) (s.ringBase p 0x120 + 64 * slot + 4 * w) 4))
    else if w = 0 then 0x00020000 else 0
  | none => if w = 0 then 0x00020000 else 0

/-- MBX pages (R267, R273, R329, R332, R340, R369, R387, R479, R502, R519). -/
def State.mbxRead (s : State) (i off : Nat) : Option Word :=
  let x := s.inst i
  let f := s.fstream i
  match off with
  | 0x110 => some (w32 (putW x.cqHead 16 0 + 2 ^ 16 * b1 x.cqPaused))
  | 0x130 => some (w32 (putW x.rqTail 16 0 + put x.rqWait.length 16 16))
  | 0x134 => some (w32 (put (s.openCtxs i) 18 0))
  | 0x200 => some (w32 (put x.mailbox.length 7 0 + put x.dropped 16 16))
  | 0x314 => some (busyStat (s.now < x.sendUntil) x.sendStat x.sendSid)
  | 0x318 => some (w32 (putW x.ovfTarget 13 0 + 2 ^ 15 * b1 x.watch))
  | 0x410 => some (w32 (putW f.fqHead 16 0 + 2 ^ 16 * b1 f.paused))
  | 0x430 => some (w32 (putW f.fcTail 16 0 + put f.fcWait.length 16 16))
  | 0x514 => some (busyStat x.ecBusy x.ecStat (fld (wAt x.ecWords 0) 31 16))
  | 0x584 => some (busyStat x.attBusy x.attStat 0)
  | _ =>
    if 0x220 ≤ off && off < 0x240 then
      some (match x.mailbox with
        | m :: _ => wAt m ((off - 0x220) / 4)
        | [] => if off = 0x220 then 0x00020000 else 0)
    else if 0x600 ≤ off && off < 0x610 then some (w32 (s.scalRead (pgMbx i) ((off - 0x600) / 4)))
    else if 0x800 ≤ off then some (s.windowRead i off)
    else none

/-- FBK pages (R340, R369, R519). -/
def State.fbkRead (s : State) (k off : Nat) : Option Word :=
  let b := s.fbk
  let f := s.fstream 4096
  if k < 64 then
    if off = 0x040 then
      let mine (t : Nat) : Bool := s.tileOwner t = some k
      let lending : Bool := s.tiles.any (fun p => mine p.1 && 2 ≤ schedCode p.2.sched)
      some (w32 (put (s.instsOf k).length 13 0 + put ((List.range 64).filter (fun g => s.owner g = some k)).length 7 16 + 2 ^ 23 * b1 lending))
    else none
  else match off with
    | 0x040 => some (w32 (b1 b.loaded + 2 * b1 (!b.held.isEmpty) + put (codeVal b.status) 8 8
        + put ((List.range 384).filter (fun c => mapDrain b.map (64 + c) && s.channelUsed c)).length 9 16 + put b.mabort 7 25))
    | 0x044 => some (w32 (b1 b.instBusy + 2 * b1 (s.inst b.lastInst).logSel + put (codeVal b.instStat) 8 8))
    | 0x314 => some (busyStat (s.now < b.sendUntil) b.sendStat b.sendSid)
    | 0x318 => some (w32 (putW b.ovfTarget 13 0 + 2 ^ 15 * b1 b.watch))
    | 0x410 => some (w32 (putW f.fqHead 16 0 + 2 ^ 16 * b1 f.paused))
    | 0x430 => some (w32 (putW f.fcTail 16 0 + put f.fcWait.length 16 16))
    | _ => if 0x800 ≤ off then some (nibbles ((off - 0x800) / 4) (fun i => phaseCode (s.inst i).phase)) else none

/-- CHK pages (R434). -/
def State.chkRead (s : State) (k off : Nat) : Option Word :=
  let c := s.chk k
  if off = 0x040 then some (w32 c.result)
  else if off = 0x044 then some (w32 (putW c.spans 16 0 + put c.short 8 16 + put c.mismatch 8 24))
  else none

/-- The SEED page (R479). -/
def State.seedRead (s : State) (off : Nat) : Option Word :=
  let x := s.seed
  match off with
  | 0x040 => some (w32 (b1 x.job.isSome + putW x.reason 4 1 + put (codeVal x.status) 8 8 + putW x.handle 11 16 + putW x.level 4 27))
  | 0x044 => some (w32 (((List.range 16).map (fun k => b1 (x.anchors.find k).isSome * 2 ^ k)).sum + put (x.queue.length + b1 x.signing.isSome) 12 16 + 2 ^ 28 * b1 x.exh))
  | 0x04C => some (busyStat false x.ancStat 0)
  | 0x050 => some (loWord x.top)
  | 0x054 => some (w32 (putW (x.top / 2 ^ 32) 8 0))
  | 0x058 => some (busyStat x.attBusy x.attStat 0)
  | _ =>
    if 0x180 ≤ off && off < 0x1C0 then some (wAt x.read ((off - 0x180) / 4))
    else if 0x200 ≤ off && off < 0x280 then some (w32 (x.ctrs.get 0 ((off - 0x200) / 4)))
    else if 0x300 ≤ off && off < 0x344 then some (Sys2Proof.Config.identityKeyWord ((off - 0x300) / 4))
    else none

/-- The PWR page (R492). -/
def State.pwrRead (s : State) (off : Nat) : Option Word :=
  let x := s.pwr
  match off with
  | 0x040 => some (w32 (s.powerCode + 8 * b1 (x.throt ≠ 0) + putW x.step 4 4 + putW x.fail 4 8 + put s.parkedGroves 5 12))
  | 0x044 => some (busyStat x.parkBusy x.parkStat 0)
  | 0x048 => some (w32 ((List.range 32).map (fun g => b1 (s.grove g).parked * 2 ^ g)).sum)
  | _ => none

/-- The BIST page (R497, R504). -/
def State.bistRead (s : State) (off : Nat) : Option Word :=
  let x := s.bist
  match off with
  | 0x040 => some (w32 (b1 x.test.isSome + 2 * b1 x.pass + 4 * b1 s.modOk + put (codeVal x.status) 8 8 + putW x.dieFail 6 16))
  | 0x044 => some (w32 (putW x.failArray 12 0 + putW x.failWord 20 12))
  | 0x048 => some (w32 (put (codeVal x.pertStat) 8 8))
  | 0x04C => some (w32 (((List.range 8).map (fun p => b1 (x.inj.find p).isSome * 2 ^ p)).sum + put (codeVal x.injStat) 8 8 + put x.uses 16 16))
  | 0x050 => some (w32 (b1 x.ready))
  | 0x058 => some x.val
  | 0x060 => some (expectSig 0)
  | 0x064 => some (expectSig 4)
  | 0x068 => some (expectSig 5)
  | 0x06C => some expectTile
  | 0x158 => some x.tsig
  | _ => if 0x140 ≤ off && off < 0x158 then some (x.sigs.getD ((off - 0x140) / 4) 0) else none

/-- Registers of a page that the device writes. -/
def State.statusRead (s : State) (p : Page) (off : Nat) : Option Word :=
  match p.kind with
  | .tile => if off = 0x040 then some (s.tileStatus p.inst) else none
  | .lane => s.laneRead_ p.inst off
  | .grv => s.groveRead p.inst off
  | .srt => if off = 0x040 then some (s.deckStatus p.inst) else none
  | .sds => s.sdsRead p.inst off
  | .hbm => s.hbmRead_ p.inst off
  | .cru => s.cruRead p.inst off
  | .ckx => s.ckxRead p.inst off
  | .eth => s.ethRead p.inst off
  | .cxl => s.cxlRead off
  | .time => s.timeRead off
  | .mbx => s.mbxRead p.inst off
  | .fbk => s.fbkRead p.inst off
  | .chk => s.chkRead p.inst off
  | .seed => s.seedRead off
  | .pwr => s.pwrRead off
  | .bist => s.bistRead off
  | _ => none

/-- PAGE_CAP (R509). -/
def pageCap (p : Page) : Word := w32 (b1 (hasShadow p) + 2 * b1 (evtBits p ≠ 0) + 4 * b1 (p.kind = .mbx))

/-- What a register reads. An absent page, an unassigned offset and a WO or W1S register read 0 (R13, R14, R506); the page of an instance that is FREE or CREATED reads 0 but for PAGE_ID, PAGE_VER and PAGE_CAP (R324). -/
def State.readReg (s : State) (p : Page) (off : Nat) : Word :=
  if !pageExists p || off % 4 ≠ 0 then 0
  else if p.kind = .msix then
    (if off < 0x400 then s.msix (off / 4) else if off = 0x8000 then loWord s.regs.pba.toNat else if off = 0x8004 then hiWord s.regs.pba.toNat else 0)
  else if 0x1000 ≤ off then 0
  else if off = 0x000 then pageId p
  else if off = 0x004 then pageVer
  else if off = 0x008 then pageCap p
  else if p.kind = .mbx && pageDead (s.inst p.inst).phase then 0
  else if off = 0x080 then s.evtRaw p
  else if off = 0x088 then s.evtPend p
  else match s.statusRead p off with
    | some w => w
    | none => if (findReg p off).isSome then s.reg p off else 0

end Sys2Proof.Machine
end

