-- ==== Sys2Proof/Safety.lean ====
section
/-! DEFINITION. What claims take as a sound state, and when a step completes. -/

namespace Sys2Proof.Machine

/-- Device memory and host memory are in canonical form. -/
def State.memOk (s : State) : Prop := Memory.wf s.mem = true

/-- A step or a command answers a next state. -/
def Completes (a : Ans) : Prop := ∃ t, a = .next t

/-- The row of the table that starts an operation of R63 on a tile. -/
def rowOf (t : TileId) : TileOp → Instr
  | .matmul => .matmul t | .conv => .conv t | .dft => .dft t | .load => .load t
  | .store => .store t | .wait => .wait t | .signal => .signal t | .gate => .gate t

/-! Lanes. -/

/-- Running context c of lane l stands, enabled, at an index of its code segment whose word, as the loop cache or program memory gives it, is the well-formed instruction i; no lane-memory injection is armed (R118, R122, R144). -/
def State.laneAt (s : State) (l c : Nat) (i : LIns) : Bool :=
  (s.lane l).running && (s.lane l).runCtx = c && (s.lctx l c).state = .run && (s.bist.inj.find 2).isNone
  && bitOf (s.reg (pgLane l) (0x100 + 0x20 * c)) 0 && (s.lctx l c).pc < s.psize l c
  && (match s.fetchWord l with | some r => decide (decodeLane r.1 = i) | none => false) && laneFieldsOk i

/-- The instruction's move slots are the moves ms: none of them clashes with the result e or another, and each is aligned and ends within its window (R116, R123, R124). -/
def State.laneMoves (s : State) (l c : Nat) (i : LIns) (e : LEff) (ms : List Move1) : Bool :=
  (match (if slotsAllowed i.op then (s.lctx l c).moves i else .ok []) with | .ok r => decide (r = ms) | .error _ => false)
  && !movesClash e ms && ms.all (fun m => m.inWindow (s.window l c m.mem).2)

/-- What the load slots bring: register and bytes of each (R124). -/
def State.laneLoaded (s : State) (l c : Nat) (ms : List Move1) : List (Nat × List Byte) :=
  (ms.filter (fun m => !m.store)).map (fun m => (m.reg, ((s.lane l).memOf m.mem).readN ((s.window l c m.mem).1 + m.addr) m.size))

/-- The state after a data instruction with result e and moves ms: the stores of registers as read at the start, then the result, the loads and the pointer updates, and the next PC; the flags are counted (R124, R130). -/
def State.laneResult (s : State) (l c : Nat) (e : LEff) (ms : List Move1) : State :=
  ((s.laneStores l c (s.lctx l c) ms).updLctx l c (fun y => (y.apply e ms (s.laneLoaded l c ms)).advance)).bumpLane l e.flags

/-- The context with its PC at the next instruction, loops ended or gone back (R131, R133). -/
def State.laneNext (s : State) (l c : Nat) (x : LaneCtx) : State := s.setLctx l c x.advance

/-- The instruction is fetched, from the loop cache where that keeps it, and issues once the registers it reads are ready (R125, R126, R131, R133). -/
def State.laneBegun (s : State) (l c : Nat) (i : LIns) : State :=
  (match s.fetchWord l with | some r => r.2 | none => s).laneIssueAt l c i

/-- The clocks of the instruction pass after its effect u (R125, R133); a TISS of 128 bytes is told by bit EXT of its command. -/
def State.laneDone (s : State) (l c : Nat) (i : LIns) (u : State) : State :=
  u.laneSpend l c i (bitOf (w32 (leNat ((s.lane l).x.readN ((s.window l c 0).1 + ((s.lctx l c).getS i.rb).toNat) 4))) 27) (s.lctx l c)

end Sys2Proof.Machine
end

