-- ==== Sys2Proof/WellFormed.lean ====
section
/-! DEFINITION. Which commands can be sent: a written word has the OP or bit that makes it that command, a page exists, numbers lie in the ranges that the wire or the manual gives them. No meaning relies on it: every command has an outcome in every state. -/

namespace Sys2Proof

open Sys2Proof.Machine

/-- Bytes of a page; the MSI-X structures take 64 KiB (R505, R510). -/
def pageSize (p : Page) : Nat := if p.kind = .msix then 65536 else 4096

/-- Bytes of an access. -/
def opLen : AccessOp → Nat
  | .read len => len
  | .write bytes => bytes.length

/-- A frame, slot and symbol that some numerology has (R399); PRACH occasions have up to 14 symbols. -/
def gridOk (sfn slot sym : Nat) : Bool := sfn < 1024 && slot < 80 && sym < 14

/-- A slot message of a type has its header (R150). -/
def slotMsgOk (type : Nat) (msg : List Word) : Bool := 4 ≤ msg.length && fld (msg.getD 0 0) 7 0 = type

/-- Fields of a segment's tag are as wide as R355 makes them. -/
def segOk (x : Segment) : Bool := x.src < 65536 && x.stream < 65536 && x.seq < 16777216 && x.region < 65536 && x.grant < 65536 && x.tag < 16777216

/-- An access names some bytes. -/
def memAccessOk : MemAccess → Bool
  | .transfer _ => true
  | .agent _ _ op tag _ => opLen op ≠ 0 && tag < 16777216

/-- Fields of an eCPRI common header and of an O-RAN application header are as wide as their standards make them (R446, R448). -/
def ecpriHeadFits (h : EcpriHead) : Bool := h.rev < 16 && h.size < 65536
def radioHeadFits (r : RadioHead) : Bool := r.dir < 2 && r.ver < 8 && r.filter < 16

/-- The headers of a frame's body fit their fields. -/
def frameOk : FrameBody → Bool
  | .uplane h r eaxc _ _ secs => ecpriHeadFits h && radioHeadFits r && eaxc < 65536 && !secs.isEmpty
  | .iq h _ _ m => ecpriHeadFits h && m.eaxc < 65536
  | .ecpriOther h t => ecpriHeadFits h && t < 256
  | .delayRequest h id => ecpriHeadFits h && id < 256
  | .payload _ _ _ _ _ _ _ _ | .other _ => true

/-- The command can be sent. -/
def wellFormed (i : Instr) : Bool :=
  match i with
  | .registerWrite _ p off _ => pageExists p && off % 4 = 0 && off < pageSize p
  | .unsupportedRegisterAccess p off size => pageExists p.page && off < pageSize p.page && 0 < size && !(size = 4 && off % 4 = 0)
  | .tenantManagementAccess _ p => pageExists p && p.kind ≠ .mbx
  | .commit p => pageExists p && p.kind ≠ .msix
  | .evtPendClear p _ => pageExists p && p.kind ≠ .msix
  | .evtMaskWrite p _ => pageExists p && p.kind ≠ .msix
  | .tileCtrlHostWrite _ v => bitOf v 0 || bitOf v 1
  | .laneExternalAccess _ mem addr op => addr + opLen op ≤ (if mem = .prog then 32768 else 65536) && opLen op ≠ 0
  | .programMemoryWrite _ off bytes => !bytes.isEmpty && off + bytes.length ≤ 32768
  | .enable _ _ v => bitOf v 0
  | .laneContextDisable _ _ v => !bitOf v 0
  | .ulConfig msg => slotMsgOk 1 msg
  | .dlConfig msg => slotMsgOk 2 msg
  | .txData msg => slotMsgOk 3 msg
  | .admitCell v => fld v 1 0 = 1
  | .remove v => fld v 1 0 = 2
  | .removeForce v => fld v 1 0 = 3
  | .uplinkCplaneSend _ sfn slot => gridOk sfn slot 0
  | .uplaneSection _ sec => gridOk sec.sfn sec.slot sec.sym && sec.eaxc < 65536 && sec.startPrb < 1024 && !sec.prbs.isEmpty && sec.frac < 16
  | .timeDomainIqMessage _ msg => gridOk msg.sfn msg.slot msg.sym && msg.eaxc < 65536 && !msg.samples.isEmpty && msg.frac < 16
  | .ulSymbolClose _ sfn slot sym => gridOk sfn slot sym
  | .gainSlotEnd _ sfn slot => gridOk sfn slot 0
  | .harqLockRelease _ entry => entry < 1024
  | .rxDataEgress _ sfn slot _ _ _ => gridOk sfn slot 0
  | .dlSymbolSend _ sfn slot k => gridOk sfn slot k
  | .dlSymbolClose _ sfn slot k => gridOk sfn slot k
  | .groupCommit v => bitOf v 0
  | .shapingRefill _ pt => pt < 1048576
  | .deviceMemoryAccess a => memAccessOk a
  | .patrolScrub _ _ line err => line < 32768 && err < 3
  | .register _ v => fld v 1 0 = 1
  | .unregister _ v => fld v 1 0 = 2
  | .objectRead _ v => fld v 1 0 = 3
  | .create v => fld v 3 0 = 1
  | .activate v => fld v 3 0 = 2
  | .resetDrain v => fld v 3 0 = 3 && !bitOf v 16
  | .resetSquash v => fld v 3 0 = 3 && bitOf v 16
  | .destroy v => fld v 3 0 = 4
  | .logStart v => fld v 3 0 = 5
  | .logSwap v => fld v 3 0 = 6
  | .logStop v => fld v 3 0 = 7
  | .freeze v => fld v 3 0 = 8
  | .thaw v => fld v 3 0 = 9
  | .instanceRead v => fld v 3 0 = 10
  | .segmentArrive x => segOk x
  | .segmentAck a => a.home < 65536 && a.seq < 16777216 && a.dest < 65536
  | .bulkTransferArrive _ b => b.dest < 65536 && !b.segs.isEmpty && b.segs.all segOk
  | .linkPacketReceive _ k => k.seq < 16777216
  | .heartbeat h => h.pos < 256
  | .admitMessage a => a.pos < 256
  | .arm v => fld v 1 0 = 1
  | .disarm v => fld v 1 0 = 2
  | .mirrorRead v => fld v 1 0 = 3
  | .mirrorOpenReceive _ _ _ desc rdigest ldigest => desc.length = 16 && rdigest.length = 32 && ldigest.length = 32
  | .encode _ v => bitOf v 0
  | .rebuild _ v => bitOf v 0
  | .stepAnnounce _ _ foff => foff < 10240000000
  | .windowAccess addr op => opLen op ≠ 0 && addr.val % 64 + opLen op ≤ 64
  | .atsInvalidation _ _ pages _ => 0 < pages
  | .ethFrameReceive _ f => f.sub < 8 && f.dst < 2 ^ 48 && f.src < 2 ^ 48 && f.frac < 16 && frameOk f.body
  | .payloadDatagram _ _ _ _ _ _ offset _ bytes => offset + bytes.length ≤ 2 ^ 32 && !bytes.isEmpty
  | .i3cPrivateWrite bytes => !bytes.isEmpty
  | .i3cPrivateRead n => 0 < n
  | .telemetrySnapshot r => r.dies.length = 6
  | .bind v => fld v 1 0 = 1
  | .unbind v => fld v 1 0 = 2
  | .packageRead v => fld v 1 0 = 3
  | .install v => bitOf v 0
  | .anchorClear v => bitOf v 0
  | .raise v => bitOf v 0
  | .tenantAttestationRequest _ v => bitOf v 0
  | .managerAttestationRequest v => bitOf v 0
  | .park v => fld v 1 0 = 1
  | .unpark v => fld v 1 0 = 2
  | .moduleReset v => bitOf v 0
  | .sleep v => bitOf v 1
  | .thermalSample r => r.dies.length = 6
  | .logic v => fld v 1 0 = 1
  | .memory v => fld v 1 0 = 2
  | .tileBist v => fld v 1 0 = 3
  | .bistDone r => r.dieFail.all (· < 6) && r.tileFail.all (· < 1024)
  | .injectionArm v => !bitOf v 5
  | .injectionDisarm v => bitOf v 5
  | .dump v => bitOf v 0
  | .clr v => bitOf v 1
  | .cxlLinkUp width rate _ => [1, 2, 4, 8].contains width && [16, 32, 64].contains rate
  | .downlinkCplaneSend _ sfn slot _ => gridOk sfn slot 0
  | .matmul _ | .conv _ | .dft _ | .load _ | .store _ | .wait _ | .signal _ | .gate _ => true
  | .tileWaitSatisfied _ | .signalApply _ | .tileQueueEntryFree _ | .outputBlockEnd _ _ | .tileRecordPost _ | .preq _ | .preemptionPointReached _ | .transferPreemptTimeout _ => true
  | .tileSaveComplete _ | .resume _ | .suspectClr _ | .tileScrubComplete _ | .sortDeckCommand _ | .sortDeckComplete _ _ | .nop _ | .br _ => true
  | .call _ | .ret _ | .loop _ | .repeat_ _ | .laneWait _ | .laneWaitWake _ _ | .setdl _ | .halt _ => true
  | .tiss _ | .ciss _ | .laneIssueUnblock _ _ | .rdc _ | .advc _ | .sigc _ | .salu _ | .movi _ => true
  | .cmp _ | .gett _ | .seta _ | .geta _ | .valu _ | .vcmul _ | .vmac _ | .vmacs _ => true
  | .vcmac _ | .vrdac _ | .vsclac _ | .vmag2 _ | .vrcp _ | .vcvt _ | .vsplat _ | .completionRecordArrive _ _ => true
  | .laneContextSwitch _ | .standbyLoadComplete _ _ | .sliceExhausted _ _ | .laneDeadlinePassed _ _ | .laneContextStopped _ _ | .mbclr _ | .cellSlotStart _ | .messageDeadline _ => true
  | .admitChecksComplete | .cellActivate _ | .cellEndBoundary _ | .cellFree _ | .ldec _ | .lenc _ | .pdec _ | .penc _ => true
  | .codeBlockEnd _ | .softBufferRelease _ | .planPeriodBoundary _ | .spillComplete _ _ | .tileReturnStart _ | .restoreComplete _ | .heldCommitApply | .requestLate _ => true
  | .cqDoorbell _ _ | .cqNop _ | .run _ | .cancel _ | .openJob _ | .closeJob _ | .restart _ | .cqFetchResume _ => true
  | .stepStart _ | .stepTile _ | .stepSort _ | .jumpc _ | .emit _ | .ckpt _ | .stepEnd _ | .sequencerRecord _ => true
  | .teardownFinish _ | .rqHeadWrite _ _ | .moveSwitch _ | .moveAbort _ | .epochEnd _ | .tierStallLimit _ | .hbmRetireLogWrite _ _ | .fbkMapaddrWrite _ => true
  | .mapCopyComplete | .firebreakCommit _ | .drainComplete _ | .drainTimeout _ | .squashComplete _ | .freezeComplete _ | .keyDelivery _ _ | .mailboxSend _ _ => true
  | .mailboxAck _ _ | .fqDoorbell _ _ | .fcHeadWrite _ _ | .put _ | .get _ | .fabricStore _ | .fabricLoad _ | .red _ => true
  | .mstore _ | .atomic _ | .fence _ | .regionOpen _ | .regionClose _ | .grant _ | .revoke _ | .import_ _ => true
  | .unimport _ | .importClear _ | .hotLineCool _ _ | .fenceTimeout _ | .windowRetry _ | .duplicateWindowExpire _ _ _ | .gatherTimeout _ | .linkRetryTimeout _ => true
  | .laneErrorLimit _ _ | .linkRetrainComplete _ _ | .portHoldExpire _ | .retrain _ | .holdClr _ | .grantSweepComplete _ | .moduleFault | .livenessRound => true
  | .peerAbsent _ | .accuse _ _ _ | .clear _ _ _ | .verdict _ _ _ | .verdictForward _ | .quorumLoss | .found | .join => true
  | .leave | .joinMessage _ _ _ | .memberEntry | .joinTimeout | .mirrorOpenRequest _ _ | .mirror _ _ | .ecDone _ | .timeSettingApply => true
  | .snap | .referenceLost | .referenceGood | .ethernetStamp _ _ _ | .tsqHeadWrite _ _ | .ppsEdge | .pulseEnable _ _ | .pulseEdge _ => true
  | .cascadeDelayMeasure _ _ _ _ _ | .cascadeLinkLost _ | .cascadeLinkReturn _ _ | .barArm | .ready _ | .fire _ | .barrierFire | .barrierTimeout => true
  | .abort | .replayInject | .close _ | .chkRestart _ | .ideIntegrityFail _ | .tspLock _ | .tspUnlock _ | .l2qInboundTailWrite _ _ => true
  | .l2qDheadWrite _ _ | .reassemblyTimeout _ | .managementTxTailWrite _ _ | .wheelBucketDue _ _ | .i3cCcc _ _ | .bindComplete | .signerTakeRequest | .signatureComplete => true
  | .topWriteComplete | .spdmRequest _ | .parkComplete _ | .unparkComplete _ | .modWake | .powerOn _ | .startupStepComplete _ | .perst => true
  | .cxlLinkReset | .testReset | .inputFault | .powerStageFault | .pllLockLoss _ | .scalerSelect _ | .jtagInstruction _ _ | .ethernetLinkDown _ _ => true
  | .ethernetLinkUp _ _ | .switchUnreachable _ _ | .cascadeSlewComplete => true

end Sys2Proof
end

