-- ==== Sys2Proof/Certificates/Slice0/Obligations.lean ====
section
/-! DEFINITION. Statements for the provers: what each command of the module does, what it leaves alone, and what holds of every step. -/

open Sys2Proof Sys2Proof.Machine

/-- A step of a queue with a command in front is that command's effect on the state with the rest of the queue; the queue is the model's own (log entries 1 and 2). -/
def Obligations.StepRunsCommand : Prop :=
  ∀ (c : Instr) (rest : List Instr) (s : State), s.pending = c :: rest → step s = exec c { s with pending := rest }

/-- While the module runs, an access to a register of any size other than 4 bytes or at an offset that is no multiple of 4, and a 32-bit write at such an offset, completes as an unsupported request: the completion is the only thing that leaves, and the state is otherwise as before; a tenant's such access to a page that is not its own also raises the counter REFUSED of its instance by one. -/
def Obligations.UnsupportedAccessChangesNothing : Prop :=
  (∀ (s : State) (req : Requester) (p : Page) (off size : Nat), s.pwr.phase = .running → (size ≠ 4 ∨ off % 4 ≠ 0) → s.reqDropped req = false → s.reqOk req p = true → Sys2Proof.Machine.exec (.unsupportedRegisterAccess ⟨req, p⟩ off size) s = .next { s with out := .unsupported req p off :: s.out }) ∧
  (∀ (s : State) (pasid : BitVec 20) (p : Page) (off size i : Nat), s.pwr.phase = .running → (size ≠ 4 ∨ off % 4 ≠ 0) → s.reqDropped { pasid := some pasid } = false → p.kind ≠ .mbx → fld (s.reg pgMap 0x010) 19 0 ≠ pasid.toNat → s.pasidInst pasid = some i → s.scaler (pgMbx i) 0 < 0xFFFFFFFF → Sys2Proof.Machine.exec (.unsupportedRegisterAccess ⟨{ pasid := some pasid }, p⟩ off size) s = .next { s with regs := { s.regs with scal := s.regs.scal.set (scalKey (pgMbx i) 0) (s.scaler (pgMbx i) 0 + 1) }, out := .unsupported { pasid := some pasid } p off :: s.out }) ∧
  (∀ (s : State) (req : Requester) (p : Page) (off : Nat) (v : Word), s.pwr.phase = .running → off % 4 ≠ 0 → s.reqDropped req = false → s.reqOk req p = true → Sys2Proof.Machine.exec (.registerWrite req p off v) s = .next { s with out := .unsupported req p off :: s.out })

/-- An access to a page that is not a tenant's, with the PASID of instance i and not that of the manager, completes as an unsupported request and raises counter REFUSED of instance i by one, saturating; registers, memory, events and every other counter are as before. -/
def Obligations.TenantAccessToManagementIsCounted : Prop :=
  ∀ (s : State) (pasid : BitVec 20) (p : Page) (i : Nat), s.pwr.phase = .running → p.kind ≠ .mbx → fld (s.reg pgMap 0x010) 19 0 ≠ pasid.toNat → s.pasidInst pasid = some i → s.scaler (pgMbx i) 0 < 0xFFFFFFFF → Sys2Proof.Machine.exec (.tenantManagementAccess pasid p) s = .next { s with regs := { s.regs with scal := s.regs.scal.set (scalKey (pgMbx i) 0) (s.scaler (pgMbx i) 0 + 1) }, out := .unsupported { pasid := some pasid } p 0 :: s.out }

/-- On the HBM pages a write by the manager to a register with no rule of its own stores exactly the writable bits of the value; reserved bits are dropped and an unassigned offset ignores the write. A write of a shadow register of a scheduler page changes the pending value, which a read returns, and leaves the value in force. -/
def Obligations.RegisterWriteHoldsWritableBits : Prop :=
  (∀ (s : State) (k off : Nat) (v : Word) (d : RegDesc), s.pwr.phase = .running → s.recMode = 0 → k < 24 → off % 4 = 0 → off ≠ 0x084 ∧ off ≠ 0x088 ∧ off ≠ 0x0FC ∧ off ≠ 0x100 → findReg (pgHbm k) off = some d → Sys2Proof.Machine.exec (.registerWrite {} (pgHbm k) off v) s = .next { s with regs := { s.regs with raw := s.regs.raw.set (regKey (pgHbm k) off) (v &&& d.mask) } }) ∧
  (∀ (s : State) (k off : Nat) (v : Word), s.pwr.phase = .running → s.recMode = 0 → k < 24 → off % 4 = 0 → off ≠ 0x084 ∧ off ≠ 0x088 ∧ off ≠ 0x0FC ∧ off ≠ 0x100 → findReg (pgHbm k) off = none → Sys2Proof.Machine.exec (.registerWrite {} (pgHbm k) off v) s = .next s) ∧
  (∀ (s : State) (d : DieId) (v : Word), s.pwr.phase = .running → s.recMode = 0 → ∃ u, Sys2Proof.Machine.exec (.registerWrite {} (pgSds d.val) 0x0C0 v) s = .next u ∧ (u.readReg (pgSds d.val) 0x0C0 = v &&& 0x3F) ∧ (u.inForce (pgSds d.val) 0x0C0 = s.inForce (pgSds d.val) 0x0C0) ∧ (u = { s with regs := { s.regs with raw := s.regs.raw.set (regKey (pgSds d.val) 0x0C0) (v &&& 0x3F) } }))

/-- On a lane, Cruiser or Caerkuix page that has shadow registers, COMMIT gives each of them in force its pending value; pending values, every other page's registers in force, events and the rest of the state are as before. -/
def Obligations.CommitAppliesShadowRegisters : Prop :=
  ∀ (s : State) (p : Page), s.pwr.phase = .running → s.recMode = 0 → pageExists p = true → hasShadow p = true → p.kind = .lane ∨ p.kind = .cru ∨ p.kind = .ckx → ∃ u, Sys2Proof.Machine.exec (.commit p) s = .next u ∧ (∀ off ∈ shadowOffs p, u.inForce p off = s.reg p off) ∧ (u = { s with regs := { s.regs with com := u.regs.com } }) ∧ (∀ q off, pageKey q ≠ pageKey p → off < 4096 → u.inForce q off = s.inForce q off)

/-- On a page that exists and is not that of an instance that is FREE or CREATED, a write v to EVT_PEND leaves (EVT_PEND AND NOT v) OR EVT_RAW, and a write v to EVT_MASK stores the defined bits of v. After either, the page's notification leaves exactly when EVT_PEND AND EVT_MASK is not 0: on a BAR0 page the message of its vector, which, masked, stays pending in the pending-bit array; on a tenant's page the notification line. Nothing else changes. On the page of an instance that is FREE or CREATED the write is ignored and counted on the map page. -/
def Obligations.EventRegistersOfAPage : Prop :=
  (∀ (s : State) (p : Page) (v : Word), s.pwr.phase = .running → s.recMode = 0 → pageExists p = true → p.kind ≠ .mbx → ∃ u, Sys2Proof.Machine.exec (.evtPendClear p v) s = .next u ∧ (u.evtPend p = (s.evtPend p &&& ~~~ v) ||| s.evtRaw p) ∧ (u = { s with regs := { s.regs with evtPend := s.regs.evtPend.set (pageKey p) (u.evtPend p), pba := u.regs.pba }, out := u.out }) ∧ (u.evtPend p &&& s.reg p 0x084 = 0 → u.out = s.out ∧ u.regs.pba = s.regs.pba) ∧ (u.evtPend p &&& s.reg p 0x084 ≠ 0 → bitOf (s.msix (4 * fld (s.reg p 0x08C) 5 0 + 3)) 0 = false → u.out.length = s.out.length + 1 ∧ u.regs.pba = s.regs.pba) ∧ (u.evtPend p &&& s.reg p 0x084 ≠ 0 → bitOf (s.msix (4 * fld (s.reg p 0x08C) 5 0 + 3)) 0 = true → u.out = s.out ∧ u.regs.pba.getLsbD (fld (s.reg p 0x08C) 5 0) = true)) ∧
  (∀ (s : State) (p : Page) (v : Word), s.pwr.phase = .running → pageExists p = true → p.kind = .mbx → pageDead (s.inst p.inst).phase = false → Sys2Proof.Machine.exec (.evtPendClear p v) s = .next (let t : State := { s with regs := { s.regs with evtPend := s.regs.evtPend.set (pageKey p) ((s.evtPend p &&& ~~~ v) ||| s.evtRaw p) } }; if ((s.evtPend p &&& ~~~ v) ||| s.evtRaw p) &&& s.reg p 0x084 = 0 then t else t.irqLine p.inst)) ∧
  (∀ (s : State) (p : Page) (v : Word), s.pwr.phase = .running → s.recMode = 0 → pageExists p = true → p.kind ≠ .mbx → ∃ u, Sys2Proof.Machine.exec (.evtMaskWrite p v) s = .next u ∧ (u.reg p 0x084 = v &&& evtBits p) ∧ (u = { s with regs := { s.regs with raw := s.regs.raw.set (regKey p 0x084) (v &&& evtBits p), pba := u.regs.pba }, out := u.out }) ∧ (s.evtPend p &&& v &&& evtBits p = 0 → u.out = s.out ∧ u.regs.pba = s.regs.pba) ∧ (s.evtPend p &&& v &&& evtBits p ≠ 0 → bitOf (s.msix (4 * fld (s.reg p 0x08C) 5 0 + 3)) 0 = false → u.out.length = s.out.length + 1 ∧ u.regs.pba = s.regs.pba) ∧ (s.evtPend p &&& v &&& evtBits p ≠ 0 → bitOf (s.msix (4 * fld (s.reg p 0x08C) 5 0 + 3)) 0 = true → u.out = s.out ∧ u.regs.pba.getLsbD (fld (s.reg p 0x08C) 5 0) = true)) ∧
  (∀ (s : State) (p : Page) (v : Word), s.pwr.phase = .running → pageExists p = true → p.kind = .mbx → pageDead (s.inst p.inst).phase = false → Sys2Proof.Machine.exec (.evtMaskWrite p v) s = .next (let t : State := { s with regs := { s.regs with raw := s.regs.raw.set (regKey p 0x084) (v &&& evtBits p) } }; if s.evtPend p &&& (v &&& evtBits p) = 0 then t else t.irqLine p.inst)) ∧
  (∀ (s : State) (p : Page) (v : Word), s.pwr.phase = .running → pageExists p = true → p.kind = .mbx → pageDead (s.inst p.inst).phase = true → s.scaler pgMap 0 < 0xFFFFFFFF → Sys2Proof.Machine.exec (.evtPendClear p v) s = .next { s with regs := { s.regs with scal := s.regs.scal.set (scalKey pgMap 0) (s.scaler pgMap 0 + 1) } }) ∧
  (∀ (s : State) (p : Page) (v : Word), s.pwr.phase = .running → pageExists p = true → p.kind = .mbx → pageDead (s.inst p.inst).phase = true → s.scaler pgMap 0 < 0xFFFFFFFF → Sys2Proof.Machine.exec (.evtMaskWrite p v) s = .next { s with regs := { s.regs with scal := s.regs.scal.set (scalKey pgMap 0) (s.scaler pgMap 0 + 1) } })

/-- When the head of a tile's queue is a MATMUL, CONV or DFT that may leave, passes its checks and has an output, the command starts: it becomes the youngest flight of the tile with block 0, no flags and no record, the queue loses it, and its M is fixed at decode. The store, every other tile and the rest of the state are as before; only counter IDX_RANGE may rise, by the rows of the index list that name no row. -/
def Obligations.ArrayCommandStarts : Prop :=
  (∀ (s : State) (t : TileId) (c : TileCmd) (rest : List TileCmd), (s.tile t.val).queue = c :: rest → cmdOp c.words = 1 → (s.tile t.val).suspect = false → (s.tile t.val).headReady c .matmul = true → matOk (decodeMat c.words (s.tile t.val).store) c.words (s.tile t.val).store = true → (decodeMat c.words (s.tile t.val).store).m ≠ 0 ∧ (decodeMat c.words (s.tile t.val).store).n ≠ 0 → (s.domainOf c.space ≠ 0 ∨ s.bist.inj = []) → ∃ u, Sys2Proof.Machine.exec (.matmul t) s = .next u ∧ (u.tile t.val = { s.tile t.val with queue := rest, flights := (s.tile t.val).flights ++ [{ newFlight c .matmul (matStartAc (decodeMat c.words (s.tile t.val).store) (s.tile t.val).store) with m := (decodeMat c.words (s.tile t.val).store).m }] }) ∧ (u = { s with tiles := s.tiles.set t.val (u.tile t.val), regs := { s.regs with scal := u.regs.scal } }) ∧ (badIndices (decodeMat c.words (s.tile t.val).store) (s.tile t.val).store = 0 → u.regs = s.regs)) ∧
  (∀ (s : State) (t : TileId) (c : TileCmd) (rest : List TileCmd), (s.tile t.val).queue = c :: rest → cmdOp c.words = 2 → (s.tile t.val).suspect = false → (s.tile t.val).headReady c .conv = true → matOk (decodeMat c.words (s.tile t.val).store) c.words (s.tile t.val).store = true → (decodeMat c.words (s.tile t.val).store).m ≠ 0 ∧ (decodeMat c.words (s.tile t.val).store).n ≠ 0 → (s.domainOf c.space ≠ 0 ∨ s.bist.inj = []) → ∃ u, Sys2Proof.Machine.exec (.conv t) s = .next u ∧ (u.tile t.val = { s.tile t.val with queue := rest, flights := (s.tile t.val).flights ++ [{ newFlight c .conv (matStartAc (decodeMat c.words (s.tile t.val).store) (s.tile t.val).store) with m := (decodeMat c.words (s.tile t.val).store).m }] }) ∧ (u = { s with tiles := s.tiles.set t.val (u.tile t.val), regs := { s.regs with scal := u.regs.scal } }) ∧ (badIndices (decodeMat c.words (s.tile t.val).store) (s.tile t.val).store = 0 → u.regs = s.regs)) ∧
  (∀ (s : State) (t : TileId) (c : TileCmd) (rest : List TileCmd), (s.tile t.val).queue = c :: rest → cmdOp c.words = 3 → (s.tile t.val).suspect = false → (s.tile t.val).headReady c .dft = true → dftOk (decodeDft c.words) c.words = true → (decodeDft c.words).nb ≠ 0 → (s.domainOf c.space ≠ 0 ∨ s.bist.inj = []) → Sys2Proof.Machine.exec (.dft t) s = .next { s with tiles := s.tiles.set t.val { s.tile t.val with queue := rest, flights := (s.tile t.val).flights ++ [newFlight c .dft 0] } })

/-- A LOAD or STORE whose every page translates, a WAIT or a SIGNAL with INC ≠ 0 on a counter of the issuer's domain, at the head of the queue and free to leave, becomes the tile's youngest flight; its clock count is the next free value (log entry 23). A GATE writes its mask and summary into the store at once and is complete with OK, or DEADLINE_MISSED when its tag has passed. Nothing else changes but the counters of the flags that a GATE raises. A pending WAIT, the only flight without a record, completes when (counter − THRESH) mod 2^32 < 2^31, and stays as it is otherwise, whatever its deadline. A SIGNAL whose predecessors have completed adds INC to the counter of the tile's die and completes, whichever counter that is; a counter from 0x8000 up is radio's own and may also hold the gains of its cell or end the lending of the tile, and with any other nothing but the counter and the flight changes. A context that waits for room in the tile's queue goes on when there is none to wait: with no such context TILE_QUEUE_ENTRY_FREE changes nothing. -/
def Obligations.TransferAndCounterCommandsStart : Prop :=
  (∀ (s : State) (t : TileId) (c : TileCmd) (rest : List TileCmd), (s.tile t.val).queue = c :: rest → cmdOp c.words = 4 → (s.tile t.val).suspect = false → (s.tile t.val).headReady c .load = true → xferOk (decodeXfer c.words) c.words true = true → (decodeXfer c.words).rows ≠ 0 ∧ (decodeXfer c.words).cols ≠ 0 → s.xferCode c.space (decodeXfer c.words) true = .ok → Sys2Proof.Machine.exec (.load t) s = .next { s with fresh := s.fresh + 1, tiles := s.tiles.set t.val { s.tile t.val with queue := rest, flights := (s.tile t.val).flights ++ [newFlight c .load (Sys2Proof.Config.activeAc s.fresh)] } }) ∧
  (∀ (s : State) (t : TileId) (c : TileCmd) (rest : List TileCmd), (s.tile t.val).queue = c :: rest → cmdOp c.words = 5 → (s.tile t.val).suspect = false → (s.tile t.val).headReady c .store = true → xferOk (decodeXfer c.words) c.words false = true → (decodeXfer c.words).rows ≠ 0 ∧ (decodeXfer c.words).cols ≠ 0 → s.xferCode c.space (decodeXfer c.words) false = .ok → Sys2Proof.Machine.exec (.store t) s = .next { s with fresh := s.fresh + 1, tiles := s.tiles.set t.val { s.tile t.val with queue := rest, flights := (s.tile t.val).flights ++ [newFlight c .store (Sys2Proof.Config.activeAc s.fresh)] } }) ∧
  (∀ (s : State) (t : TileId) (c : TileCmd) (rest : List TileCmd), (s.tile t.val).queue = c :: rest → cmdOp c.words = 6 → (s.tile t.val).suspect = false → (s.tile t.val).headReady c .wait = true → ctrCmdOk c.words = true → s.ctrHeld (s.domainOf c.space) (fld (wAt c.words 3) 15 0) = true → Sys2Proof.Machine.exec (.wait t) s = .next { s with fresh := s.fresh + 1, tiles := s.tiles.set t.val { s.tile t.val with queue := rest, flights := (s.tile t.val).flights ++ [newFlight c .wait (Sys2Proof.Config.activeAc s.fresh)] } }) ∧
  (∀ (s : State) (t : TileId) (c : TileCmd) (rest : List TileCmd), (s.tile t.val).queue = c :: rest → cmdOp c.words = 7 → (s.tile t.val).suspect = false → (s.tile t.val).headReady c .signal = true → ctrCmdOk c.words = true → s.ctrHeld (s.domainOf c.space) (fld (wAt c.words 3) 15 0) = true → wAt c.words 4 ≠ 0 → Sys2Proof.Machine.exec (.signal t) s = .next { s with fresh := s.fresh + 1, tiles := s.tiles.set t.val { s.tile t.val with queue := rest, flights := (s.tile t.val).flights ++ [newFlight c .signal (Sys2Proof.Config.activeAc s.fresh)] } }) ∧
  (∀ (s : State) (t : TileId) (c : TileCmd) (rest : List TileCmd), (s.tile t.val).queue = c :: rest → cmdOp c.words = 8 → (s.tile t.val).suspect = false → (s.tile t.val).headReady c .gate = true → gateOk (decodeGate c.words) c.words = true → (decodeGate c.words).m ≠ 0 → ∃ u, Sys2Proof.Machine.exec (.gate t) s = .next u ∧ ((u.tile t.val).store = (gateRun (decodeGate c.words) (s.tile t.val).store).1) ∧ ((u.tile t.val).queue = rest) ∧ ((u.tile t.val).flights.map (fun f => f.cmd) = (s.tile t.val).flights.map (fun f => f.cmd) ++ [c]) ∧ (((u.tile t.val).flights.getLast?.bind (fun f => f.done)).map (fun b => (b.status, b.ac, b.endNs)) = some (s.closeCode (cmdDeadline c.words) .ok, gateAc (decodeGate c.words), s.now32)) ∧ (u = { s with tiles := s.tiles.set t.val (u.tile t.val), regs := { s.regs with scal := u.regs.scal } })) ∧
  (∀ (s : State) (t : TileId) (f : Flight), (s.tile t.val).flights = [f] → f.op = .wait ∧ f.done = none → (s.tile t.val).open_ = true → (s.ctr (t.val / 256) (fld (wAt f.cmd.words 3) 15 0) - wAt f.cmd.words 4).toNat < 2 ^ 31 → Sys2Proof.Machine.exec (.tileWaitSatisfied t) s = .next { s with tiles := s.tiles.set t.val { s.tile t.val with flights := [{ f with done := some (s.plainBody f.cmd.words .ok f.ac) }] } }) ∧
  (∀ (s : State) (t : TileId) (f : Flight), (s.tile t.val).flights = [f] → f.op = .wait ∧ f.done = none → 2 ^ 31 ≤ (s.ctr (t.val / 256) (fld (wAt f.cmd.words 3) 15 0) - wAt f.cmd.words 4).toNat → Sys2Proof.Machine.exec (.tileWaitSatisfied t) s = .next s) ∧
  (∀ (s : State) (t : TileId) (f : Flight), (s.tile t.val).flights = [f] → f.op = .signal ∧ f.done = none → (s.tile t.val).open_ = true → ∃ u, Sys2Proof.Machine.exec (.signalApply t) s = .next u ∧ (u.ctr (t.val / 256) (fld (wAt f.cmd.words 3) 15 0) = s.ctr (t.val / 256) (fld (wAt f.cmd.words 3) 15 0) + wAt f.cmd.words 4) ∧ ((u.tile t.val).flights = [{ f with done := some (s.plainBody f.cmd.words .ok f.ac) }]) ∧ ((u.tile t.val).store = (s.tile t.val).store ∧ (u.tile t.val).queue = (s.tile t.val).queue) ∧ (u = { s with arr := s.arr.set (t.val / 256 * 65536 + fld (wAt f.cmd.words 3) 15 0) (u.ctr (t.val / 256) (fld (wAt f.cmd.words 3) 15 0)), tiles := s.tiles.set t.val (u.tile t.val), cells := u.cells, ctxs := u.ctxs }) ∧ (fld (wAt f.cmd.words 3) 15 0 < 0x8000 → u.cells = s.cells ∧ u.ctxs = s.ctxs ∧ (u.tile t.val).sched = (s.tile t.val).sched)) ∧
  (∀ (s : State) (t : TileId), (∀ p ∈ s.ctxs, p.2.state ≠ .run) → Sys2Proof.Machine.exec (.tileQueueEntryFree t) s = .next s)

/-- At the head of the queue, free to leave: on a SUSPECT tile every operation completes with CHECKSUM_FAULT; a MATMUL or CONV that fails a check completes with CONFIG_INVALID, and one with no rows or no columns with EMPTY; a LOAD with an empty shape and a SIGNAL with INC = 0 complete with EMPTY; a LOAD that meets a page outside the mapping completes with KEY_DENIED. One clock is charged, but for the LOAD that was denied, whose translation takes a free number of clocks (log entries 23 and 102); in each case the record stands ready, the store, memory and arrival counters are as before, and the flight is marked as not executed. -/
def Obligations.RefusedOrEmptyAtDecode : Prop :=
  (∀ (s : State) (t : TileId) (c : TileCmd) (rest : List TileCmd) (op : TileOp), (s.tile t.val).queue = c :: rest → opOf (cmdOp c.words) = some op → (s.tile t.val).suspect = true → (s.tile t.val).headReady c op = true → Sys2Proof.Machine.exec (rowOf t op) s = .next { s with tiles := s.tiles.set t.val { s.tile t.val with queue := rest, flights := (s.tile t.val).flights ++ [{ newFlight c op 1 with ran := false, done := some (s.plainBody c.words .checksumFault 1) }] } }) ∧
  (∀ (s : State) (t : TileId) (c : TileCmd) (rest : List TileCmd), (s.tile t.val).queue = c :: rest → cmdOp c.words = 1 → (s.tile t.val).suspect = false → (s.tile t.val).headReady c .matmul = true → matOk (decodeMat c.words (s.tile t.val).store) c.words (s.tile t.val).store = false → ∃ u, Sys2Proof.Machine.exec (.matmul t) s = .next u ∧ (u.tile t.val = { s.tile t.val with queue := rest, flights := (s.tile t.val).flights ++ [{ newFlight c .matmul 1 with ran := false, done := some (s.plainBody c.words .configInvalid 1) }] }) ∧ (u = { s with tiles := s.tiles.set t.val (u.tile t.val), regs := { s.regs with scal := u.regs.scal } })) ∧
  (∀ (s : State) (t : TileId) (c : TileCmd) (rest : List TileCmd), (s.tile t.val).queue = c :: rest → cmdOp c.words = 1 → (s.tile t.val).suspect = false → (s.tile t.val).headReady c .matmul = true → matOk (decodeMat c.words (s.tile t.val).store) c.words (s.tile t.val).store = true → (decodeMat c.words (s.tile t.val).store).m = 0 ∨ (decodeMat c.words (s.tile t.val).store).n = 0 → Sys2Proof.Machine.exec (.matmul t) s = .next { s with tiles := s.tiles.set t.val { s.tile t.val with queue := rest, flights := (s.tile t.val).flights ++ [{ newFlight c .matmul 1 with ran := false, done := some (s.plainBody c.words .empty 1) }] } }) ∧
  (∀ (s : State) (t : TileId) (c : TileCmd) (rest : List TileCmd), (s.tile t.val).queue = c :: rest → cmdOp c.words = 4 → (s.tile t.val).suspect = false → (s.tile t.val).headReady c .load = true → xferOk (decodeXfer c.words) c.words true = true → (decodeXfer c.words).rows = 0 ∨ (decodeXfer c.words).cols = 0 → Sys2Proof.Machine.exec (.load t) s = .next { s with tiles := s.tiles.set t.val { s.tile t.val with queue := rest, flights := (s.tile t.val).flights ++ [{ newFlight c .load 1 with ran := false, done := some (s.plainBody c.words .empty 1) }] } }) ∧
  (∀ (s : State) (t : TileId) (c : TileCmd) (rest : List TileCmd), (s.tile t.val).queue = c :: rest → cmdOp c.words = 4 → (s.tile t.val).suspect = false → (s.tile t.val).headReady c .load = true → xferOk (decodeXfer c.words) c.words true = true → (decodeXfer c.words).rows ≠ 0 ∧ (decodeXfer c.words).cols ≠ 0 → s.xferCode c.space (decodeXfer c.words) true = .keyDenied → Sys2Proof.Machine.exec (.load t) s = .next { s with fresh := s.fresh + 1, tiles := s.tiles.set t.val { s.tile t.val with queue := rest, flights := (s.tile t.val).flights ++ [{ newFlight c .load (Sys2Proof.Config.activeAc s.fresh) with ran := false, done := some (s.plainBody c.words .keyDenied (Sys2Proof.Config.activeAc s.fresh)) }] } }) ∧
  (∀ (s : State) (t : TileId) (c : TileCmd) (rest : List TileCmd), (s.tile t.val).queue = c :: rest → cmdOp c.words = 7 → (s.tile t.val).suspect = false → (s.tile t.val).headReady c .signal = true → ctrCmdOk c.words = true → s.ctrHeld (s.domainOf c.space) (fld (wAt c.words 3) 15 0) = true → wAt c.words 4 = 0 → Sys2Proof.Machine.exec (.signal t) s = .next { s with tiles := s.tiles.set t.val { s.tile t.val with queue := rest, flights := (s.tile t.val).flights ++ [{ newFlight c .signal 1 with ran := false, done := some (s.plainBody c.words .empty 1) }] } })

/-- For the running array command of a tile that is not stopped: a failed comparison leaves the store as it was, ends the command with CHECKSUM_FAULT and the block's indices in its record, and raises counter CHECKSUM by one; a passing block leaves the store that the block computes and goes on to the next block, and the last block completes the command with OK, or DEADLINE_MISSED when its tag has passed. No other tile, no memory and no arrival counter changes. -/
def Obligations.OutputBlockEnds : Prop :=
  (∀ (s : State) (t : TileId) (f : Flight) (fault : Bool), (s.tile t.val).flights = [f] → f.done = none ∧ f.op.engine = 0 → (s.tile t.val).held = false ∧ (s.tile t.val).scrub = false ∧ (s.tile t.val).saving = false → (f.blockEnd (s.tile t.val).store (s.tile t.val).bank fault).fails = true → s.scaler (pgTile t.val) 0 < 0xFFFFFFFF → ∃ u, Sys2Proof.Machine.exec (.outputBlockEnd t fault) s = .next u ∧ ((u.tile t.val).store = (s.tile t.val).store) ∧ (((u.tile t.val).flights.map (fun g => g.done.map (fun b => (b.status, b.ckM, b.ckN)))) = [some (.checksumFault, (f.blockEnd (s.tile t.val).store (s.tile t.val).bank fault).bm, (f.blockEnd (s.tile t.val).store (s.tile t.val).bank fault).bn)]) ∧ (u.scaler (pgTile t.val) 0 = s.scaler (pgTile t.val) 0 + 1) ∧ (u = { s with tiles := s.tiles.set t.val (u.tile t.val), regs := { s.regs with scal := u.regs.scal } })) ∧
  (∀ (s : State) (t : TileId) (f : Flight) (fault : Bool), (s.tile t.val).flights = [f] → f.done = none ∧ f.op.engine = 0 → (s.tile t.val).held = false ∧ (s.tile t.val).scrub = false ∧ (s.tile t.val).saving = false → (f.blockEnd (s.tile t.val).store (s.tile t.val).bank fault).fails = false → ∃ u, Sys2Proof.Machine.exec (.outputBlockEnd t fault) s = .next u ∧ ((u.tile t.val).store = (f.blockEnd (s.tile t.val).store (s.tile t.val).bank fault).store) ∧ ((u.tile t.val).flights.map (fun g => (g.block, g.cmd)) = [(f.block + 1, f.cmd)]) ∧ ((u.tile t.val).flights.map (fun g => g.done.map (fun b => b.status)) = [if (f.blockEnd (s.tile t.val).store (s.tile t.val).bank fault).last then some (s.closeCode (cmdDeadline f.cmd.words) .ok) else none]) ∧ (u = { s with tiles := s.tiles.set t.val (u.tile t.val), regs := { s.regs with scal := u.regs.scal } }))

/-- When the oldest flight of a tile that is not stopped has its record, the record with the command's tag reaches the issuer, a lane context's completion port or a request context of a sequencer, and the flight is gone. On an executed array command with CHECKSUM_FAULT the run of faults counts one more, and at 2 SUSPECT is set with its event; any other outcome of an executed array command ends the run. Queue and store of the tile are as before. -/
def Obligations.TileRecordIsPosted : Prop :=
  (∀ (s : State) (t : TileId) (f : Flight) (rest : List Flight) (b : RecBody) (l : LaneId) (c : LaneCtxId), (s.tile t.val).flights = f :: rest → f.done = some b → f.cmd.issuer = .lane l c → (s.tile t.val).held = false ∧ (s.tile t.val).scrub = false ∧ (s.tile t.val).saving = false → b.late = false → ∃ u, Sys2Proof.Machine.exec (.tileRecordPost t) s = .next u ∧ ((u.lctx l.val c.val).arriving = (s.lctx l.val c.val).arriving ++ [recordWords (cmdTag f.cmd.words) b]) ∧ ((u.tile t.val).flights = rest) ∧ ((u.tile t.val).queue = (s.tile t.val).queue ∧ (u.tile t.val).store = (s.tile t.val).store) ∧ (bitOf (wAt f.cmd.words 0) 26 = true → bitOf (u.evtPend (pgTile t.val)) 0 = true) ∧ (f.ran = true → f.op = .matmul ∨ f.op = .conv ∨ f.op = .dft → (u.tile t.val).faultRun = if b.status = .checksumFault then (s.tile t.val).faultRun + 1 else 0) ∧ ((u.tile t.val).suspect = ((s.tile t.val).suspect || (f.ran && (f.op = .matmul || f.op = .conv || f.op = .dft) && b.status = .checksumFault && 1 ≤ (s.tile t.val).faultRun))) ∧ (u = { s with tiles := s.tiles.set t.val (u.tile t.val), lanes := s.lanes.set l.val (u.lane l.val), regs := { s.regs with evtRaw := u.regs.evtRaw, evtPend := u.regs.evtPend, pba := u.regs.pba }, out := u.out })) ∧
  (∀ (s : State) (t : TileId) (f : Flight) (rest : List Flight) (b : RecBody) (g : GroveId) (k : Nat), (s.tile t.val).flights = f :: rest → f.done = some b → f.cmd.issuer = .seq g k → (s.tile t.val).held = false ∧ (s.tile t.val).scrub = false ∧ (s.tile t.val).saving = false → b.status = .ok → b.late = false → bitOf (wAt f.cmd.words 0) 26 = false → ∃ u, Sys2Proof.Machine.exec (.tileRecordPost t) s = .next u ∧ ((u.ctx k).recs = (s.ctx k).recs ++ [recordWords (cmdTag f.cmd.words) b]) ∧ ((u.tile t.val).flights = rest) ∧ (u = { s with tiles := s.tiles.set t.val (u.tile t.val), ctxs := s.ctxs.set k (u.ctx k) }))

/-- PREQ on a tile that is neither held, saving nor scrubbed is pending, but is ignored on a tile with a tenant's work outside a borrow or a squash; at a pre-emption point the save begins, between the blocks of the array command or at a K-block boundary of its block that is a free value (log entry 103), where the cells stand as the indices up to it left them; when it completes HELD stands, with its event, and the save area holds the queue, the flights and those cells; RESUME clears HELD and its event and keeps queue, flights and store. A transfer in progress stops at its present line when its time-out passes. The end of a scrub of a tile that no plan holds leaves a store of zeros. In each case only this tile and, for HELD, the page's event registers and the message they send change. While the module runs and the recorder is off: SUSPECT_CLR on a SUSPECT tile whose last TILE test passed clears SUSPECT, its event and the run of faults; on any other tile it raises counter BIST_IGNORED by one and changes nothing else. A host write with 1 in PREQ or RESUME raises counter REFUSED by the number of those bits and changes nothing else. -/
def Obligations.TilePreemptionAndScrub : Prop :=
  (∀ (s : State) (t : TileId), (s.tile t.val).held = false ∧ (s.tile t.val).saving = false ∧ (s.tile t.val).scrub = false → s.preqAllowed t.val = true → Sys2Proof.Machine.exec (.preq t) s = .next { s with tiles := s.tiles.set t.val { s.tile t.val with preq := true, xferPoint := false } }) ∧
  (∀ (s : State) (t : TileId), (s.tile t.val).live.isSome = true → (s.tile t.val).sched ≠ .preempt → (s.tile t.val).holder = none → Sys2Proof.Machine.exec (.preq t) s = .next s) ∧
  (∀ (s : State) (t : TileId), (s.tile t.val).preq = true ∧ (s.tile t.val).saving = false → (s.tile t.val).xferStops = true → (s.tile t.val).running = none → Sys2Proof.Machine.exec (.preemptionPointReached t) s = .next { s with tiles := s.tiles.set t.val { s.tile t.val with saving := true } }) ∧
  (∀ (s : State) (t : TileId) (f : Flight) (d : Mat) (n : Nat), (s.tile t.val).preq = true ∧ (s.tile t.val).saving = false → (s.tile t.val).xferStops = true → (s.tile t.val).running = some (f, d, n) → ∃ u, Sys2Proof.Machine.exec (.preemptionPointReached t) s = .next u ∧ ((u.tile t.val).saving = true) ∧ ((u.tile t.val).store = (s.tile t.val).store ∧ (u.tile t.val).queue = (s.tile t.val).queue) ∧ ((u.tile t.val).flights.map (fun y => (y.cmd, y.block, y.flags, y.ac, y.done)) = (s.tile t.val).flights.map (fun y => (y.cmd, y.block, y.flags, y.ac, y.done))) ∧ ((u.tile t.val).bank = (s.tile t.val).bank ∨ ∃ q, q ≤ n ∧ (u.tile t.val).bank = some (q, bankUntil d (s.tile t.val).store (f.block % blocksM d) (f.block / blocksM d) f.inject (s.tile t.val).bank q)) ∧ (u = { s with tiles := s.tiles.set t.val (u.tile t.val), fresh := u.fresh })) ∧
  (∀ (s : State) (t : TileId), (s.tile t.val).preq = true → (s.tile t.val).flights.any (fun f => f.done.isNone && f.op.engine = 1) = true → Sys2Proof.Machine.exec (.transferPreemptTimeout t) s = .next { s with tiles := s.tiles.set t.val { s.tile t.val with xferPoint := true } }) ∧
  (∀ (s : State) (t : TileId), (s.tile t.val).saving = true → (s.tile t.val).sched ≠ .preempt → ∃ u, Sys2Proof.Machine.exec (.tileSaveComplete t) s = .next u ∧ (u.tile t.val = { s.tile t.val with saving := false, preq := false, held := true, saved := some { queue := (s.tile t.val).queue, flights := (s.tile t.val).flights, bank := (s.tile t.val).bank } }) ∧ (bitOf (u.evtRaw (pgTile t.val)) 2 = true) ∧ (u = { s with tiles := s.tiles.set t.val (u.tile t.val), regs := { s.regs with evtRaw := u.regs.evtRaw, evtPend := u.regs.evtPend, pba := u.regs.pba }, out := u.out })) ∧
  (∀ (s : State) (t : TileId), (s.tile t.val).held = true → ∃ u, Sys2Proof.Machine.exec (.resume t) s = .next u ∧ (u.tile t.val = { s.tile t.val with held := false, saved := none, preq := false, xferPoint := false }) ∧ (bitOf (u.evtRaw (pgTile t.val)) 2 = false) ∧ (u = { s with tiles := s.tiles.set t.val (u.tile t.val), regs := { s.regs with evtRaw := u.regs.evtRaw, evtPend := u.regs.evtPend, pba := u.regs.pba }, out := u.out })) ∧
  (∀ (s : State) (t : TileId), (s.tile t.val).scrub = true → (s.tile t.val).sched = .none ∨ (s.tile t.val).sched = .floor → Sys2Proof.Machine.exec (.tileScrubComplete t) s = .next { s with tiles := s.tiles.set t.val { s.tile t.val with store := [], scrub := false, lastInst := none } }) ∧
  (∀ (s : State) (t : TileId), s.pwr.phase = .running → s.recMode = 0 → (s.tile t.val).suspect = true ∧ (s.tile t.val).testPass = true ∧ (s.tile t.val).testing = false → ∃ u, Sys2Proof.Machine.exec (.suspectClr t) s = .next u ∧ (u.tile t.val = { s.tile t.val with suspect := false, testPass := false, faultRun := 0 }) ∧ (bitOf (u.evtRaw (pgTile t.val)) 1 = false) ∧ (u = { s with tiles := s.tiles.set t.val (u.tile t.val), regs := { s.regs with evtRaw := u.regs.evtRaw, evtPend := u.regs.evtPend, pba := u.regs.pba }, out := u.out })) ∧
  (∀ (s : State) (t : TileId), s.pwr.phase = .running → s.recMode = 0 → (s.tile t.val).suspect = false ∨ (s.tile t.val).testPass = false ∨ (s.tile t.val).testing = true → s.scaler (pgTile t.val) 11 < 0xFFFFFFFF → Sys2Proof.Machine.exec (.suspectClr t) s = .next { s with regs := { s.regs with scal := s.regs.scal.set (scalKey (pgTile t.val) 11) (s.scaler (pgTile t.val) 11 + 1) } }) ∧
  (∀ (s : State) (t : TileId) (v : Word), s.pwr.phase = .running → s.recMode = 0 → s.scaler (pgTile t.val) 6 + 2 ≤ 0xFFFFFFFF → ∃ u, Sys2Proof.Machine.exec (.tileCtrlHostWrite t v) s = .next u ∧ (u.scaler (pgTile t.val) 6 = s.scaler (pgTile t.val) 6 + (if bitOf v 0 then 1 else 0) + (if bitOf v 1 then 1 else 0)) ∧ (u = { s with regs := { s.regs with scal := u.regs.scal } }))

/-- For each data operation of R125, when the running context of a lane stands, enabled, at a well-formed instruction of that operation whose operands name registers that exist, and its move slots are legal, aligned and within their windows, the command issues it once the registers it reads are ready and leads to the state in which the result, the moves and the next PC stand, the flags are counted and its clocks have passed. GETT writes the low 32 bits of the time base, and RDC the head record of the completion port, or word 0 = 0x00020000 when the port is empty; RDC removes nothing. -/
def Obligations.LaneDataInstructionsComplete : Prop :=
  (∀ (s : State) (l : LaneId) (c : Nat) (i : LIns) (e : LEff) (ms : List Move1), s.laneAt l.val c i = true → i.op = 0x00 → (nopEff i (s.lctx l.val c)).toOption = some e → s.laneMoves l.val c i e ms = true → Sys2Proof.Machine.exec (.nop l) s = .next (s.laneDone l.val c i (let b := s.laneBegun l.val c i; b.laneResult l.val c e ms))) ∧
  (∀ (s : State) (l : LaneId) (c : Nat) (i : LIns) (e : LEff) (ms : List Move1), s.laneAt l.val c i = true → i.op = 0x10 → (saluEff i (s.lctx l.val c)).toOption = some e → s.laneMoves l.val c i e ms = true → Sys2Proof.Machine.exec (.salu l) s = .next (s.laneDone l.val c i (let b := s.laneBegun l.val c i; b.laneResult l.val c e ms))) ∧
  (∀ (s : State) (l : LaneId) (c : Nat) (i : LIns) (e : LEff) (ms : List Move1), s.laneAt l.val c i = true → i.op = 0x11 → (moviEff i (s.lctx l.val c)).toOption = some e → s.laneMoves l.val c i e ms = true → Sys2Proof.Machine.exec (.movi l) s = .next (s.laneDone l.val c i (let b := s.laneBegun l.val c i; b.laneResult l.val c e ms))) ∧
  (∀ (s : State) (l : LaneId) (c : Nat) (i : LIns) (e : LEff) (ms : List Move1), s.laneAt l.val c i = true → i.op = 0x12 → (cmpEff i (s.lctx l.val c)).toOption = some e → s.laneMoves l.val c i e ms = true → Sys2Proof.Machine.exec (.cmp l) s = .next (s.laneDone l.val c i (let b := s.laneBegun l.val c i; b.laneResult l.val c e ms))) ∧
  (∀ (s : State) (l : LaneId) (c : Nat) (i : LIns) (e : LEff) (ms : List Move1), s.laneAt l.val c i = true → i.op = 0x21 → (getaEff i (s.lctx l.val c)).toOption = some e → s.laneMoves l.val c i e ms = true → Sys2Proof.Machine.exec (.geta l) s = .next (s.laneDone l.val c i (let b := s.laneBegun l.val c i; b.laneResult l.val c e ms))) ∧
  (∀ (s : State) (l : LaneId) (c : Nat) (i : LIns) (e : LEff) (ms : List Move1), s.laneAt l.val c i = true → i.op = 0x30 → (valuEff i (s.lctx l.val c)).toOption = some e → s.laneMoves l.val c i e ms = true → Sys2Proof.Machine.exec (.valu l) s = .next (s.laneDone l.val c i (let b := s.laneBegun l.val c i; b.laneResult l.val c e ms))) ∧
  (∀ (s : State) (l : LaneId) (c : Nat) (i : LIns) (e : LEff) (ms : List Move1), s.laneAt l.val c i = true → i.op = 0x31 → (vcmulEff i (s.lctx l.val c)).toOption = some e → s.laneMoves l.val c i e ms = true → Sys2Proof.Machine.exec (.vcmul l) s = .next (s.laneDone l.val c i (let b := s.laneBegun l.val c i; b.laneResult l.val c e ms))) ∧
  (∀ (s : State) (l : LaneId) (c : Nat) (i : LIns) (e : LEff) (ms : List Move1), s.laneAt l.val c i = true → i.op = 0x32 → (vmacEff i (s.lctx l.val c)).toOption = some e → s.laneMoves l.val c i e ms = true → Sys2Proof.Machine.exec (.vmac l) s = .next (s.laneDone l.val c i (let b := s.laneBegun l.val c i; b.laneResult l.val c e ms))) ∧
  (∀ (s : State) (l : LaneId) (c : Nat) (i : LIns) (e : LEff) (ms : List Move1), s.laneAt l.val c i = true → i.op = 0x33 → (vmacsEff i (s.lctx l.val c)).toOption = some e → s.laneMoves l.val c i e ms = true → Sys2Proof.Machine.exec (.vmacs l) s = .next (s.laneDone l.val c i (let b := s.laneBegun l.val c i; b.laneResult l.val c e ms))) ∧
  (∀ (s : State) (l : LaneId) (c : Nat) (i : LIns) (e : LEff) (ms : List Move1), s.laneAt l.val c i = true → i.op = 0x34 → (vcmacEff i (s.lctx l.val c)).toOption = some e → s.laneMoves l.val c i e ms = true → Sys2Proof.Machine.exec (.vcmac l) s = .next (s.laneDone l.val c i (let b := s.laneBegun l.val c i; b.laneResult l.val c e ms))) ∧
  (∀ (s : State) (l : LaneId) (c : Nat) (i : LIns) (e : LEff) (ms : List Move1), s.laneAt l.val c i = true → i.op = 0x35 → (vrdacEff i (s.lctx l.val c)).toOption = some e → s.laneMoves l.val c i e ms = true → Sys2Proof.Machine.exec (.vrdac l) s = .next (s.laneDone l.val c i (let b := s.laneBegun l.val c i; b.laneResult l.val c e ms))) ∧
  (∀ (s : State) (l : LaneId) (c : Nat) (i : LIns) (e : LEff) (ms : List Move1), s.laneAt l.val c i = true → i.op = 0x36 → (vsclacEff i (s.lctx l.val c)).toOption = some e → s.laneMoves l.val c i e ms = true → Sys2Proof.Machine.exec (.vsclac l) s = .next (s.laneDone l.val c i (let b := s.laneBegun l.val c i; b.laneResult l.val c e ms))) ∧
  (∀ (s : State) (l : LaneId) (c : Nat) (i : LIns) (e : LEff) (ms : List Move1), s.laneAt l.val c i = true → i.op = 0x37 → (vmag2Eff i (s.lctx l.val c)).toOption = some e → s.laneMoves l.val c i e ms = true → Sys2Proof.Machine.exec (.vmag2 l) s = .next (s.laneDone l.val c i (let b := s.laneBegun l.val c i; b.laneResult l.val c e ms))) ∧
  (∀ (s : State) (l : LaneId) (c : Nat) (i : LIns) (e : LEff) (ms : List Move1), s.laneAt l.val c i = true → i.op = 0x38 → (vrcpEff i (s.lctx l.val c)).toOption = some e → s.laneMoves l.val c i e ms = true → Sys2Proof.Machine.exec (.vrcp l) s = .next (s.laneDone l.val c i (let b := s.laneBegun l.val c i; b.laneResult l.val c e ms))) ∧
  (∀ (s : State) (l : LaneId) (c : Nat) (i : LIns) (e : LEff) (ms : List Move1), s.laneAt l.val c i = true → i.op = 0x39 → (vcvtEff i (s.lctx l.val c)).toOption = some e → s.laneMoves l.val c i e ms = true → Sys2Proof.Machine.exec (.vcvt l) s = .next (s.laneDone l.val c i (let b := s.laneBegun l.val c i; b.laneResult l.val c e ms))) ∧
  (∀ (s : State) (l : LaneId) (c : Nat) (i : LIns) (e : LEff) (ms : List Move1), s.laneAt l.val c i = true → i.op = 0x3A → (vsplatEff i (s.lctx l.val c)).toOption = some e → s.laneMoves l.val c i e ms = true → Sys2Proof.Machine.exec (.vsplat l) s = .next (s.laneDone l.val c i (let b := s.laneBegun l.val c i; b.laneResult l.val c e ms))) ∧
  (∀ (s : State) (l : LaneId) (c : Nat) (i : LIns), s.laneAt l.val c i = true → i.op = 0x13 → Sys2Proof.Machine.exec (.gett l) s = .next (s.laneDone l.val c i (let b := s.laneBegun l.val c i; b.laneResult l.val c { sreg := some (i.rd, s.now32) } []))) ∧
  (∀ (s : State) (l : LaneId) (c : Nat) (i : LIns), s.laneAt l.val c i = true → i.op = 0x0B → i.rd < 8 → Sys2Proof.Machine.exec (.rdc l) s = .next (s.laneDone l.val c i (let b := s.laneBegun l.val c i; b.laneResult l.val c { vreg := some (i.rd, match (s.lctx l.val c).port with | r :: _ => vOf 32 ((List.range 4).map (fun k => (wAt r k).toNat)) | [] => 0x00020000) } [])))

/-- The state after a data instruction differs from the state before in its own lane, in the scaler counters of the lane's page and, when a store slot writes X memory, in the event registers of the lane's page and the message they send; no other lane, no tile, no device memory, no arrival counter. Within the lane the program memory, the seals, which context runs and every other context are as before; without store slots, X, Y and C memory are as before too, and S0 reads 0. An instruction issues no earlier than the lane's next issue and the clock, and waits, each clock counted in INTERLOCK, for the accumulators and VRCP results that it reads; issuing it changes nothing but the loop cache, that clock and the results in flight. Its own clocks are those of the latency column: 2 for a taken branch, CALL, RET, WAIT and SIGC, 4 or 8 for TISS, 4 for CISS. A page that watches this lane's mailbox is left out of the frame: its notification line is a write of memory. -/
def Obligations.LaneResultFrame : Prop :=
  (∀ (s : State) (l c : Nat) (e : LEff) (ms : List Move1), ms.all (fun m => decide (m.mem < 3)) = true → (∀ p ∈ s.insts, p.2.watch = true → p.2.ovfTarget ≠ 0x1000 + l) → (let u := s.laneResult l c e ms; u = { s with lanes := s.lanes.set l (u.lane l), regs := { s.regs with scal := u.regs.scal, evtRaw := u.regs.evtRaw, evtPend := u.regs.evtPend, pba := u.regs.pba }, out := u.out } ∧ (u.lane l).prog = (s.lane l).prog ∧ (u.lane l).seals = (s.lane l).seals ∧ (u.lane l).running = (s.lane l).running ∧ (u.lane l).runCtx = (s.lane l).runCtx ∧ (∀ k, k ≠ c → u.lctx l k = s.lctx l k) ∧ (u.lctx l c).getS 0 = 0)) ∧
  (∀ (s : State) (l : LaneId) (c : Nat) (i : LIns), s.laneAt l.val c i = true → (let b := s.laneBegun l.val c i; b = { s with lanes := s.lanes.set l.val (b.lane l.val), regs := { s.regs with scal := b.regs.scal } } ∧ b.lane l.val = { s.lane l.val with cache := (b.lane l.val).cache, free := (b.lane l.val).free, ctxs := (b.lane l.val).ctxs } ∧ b.lctx l.val c = { s.lctx l.val c with due := (b.lctx l.val c).due } ∧ (∀ k, k ≠ c → b.lctx l.val k = s.lctx l.val k) ∧ (i.op ≠ 0x05 → (b.lane l.val).free = max (s.lane l.val).free s.ac + (s.lctx l.val c).stall (max (s.lane l.val).free s.ac) (insSources i)))) ∧
  (∀ (s : State) (l : LaneId) (c : Nat) (i : LIns), s.laneAt l.val c i = true → i.op ≠ 0x05 → s.scaler (pgLane l.val) 1 + (s.lctx l.val c).stall (max (s.lane l.val).free s.ac) (insSources i) ≤ 0xFFFFFFFF → (s.laneBegun l.val c i).scaler (pgLane l.val) 1 = s.scaler (pgLane l.val) 1 + (s.lctx l.val c).stall (max (s.lane l.val).free s.ac) (insSources i)) ∧
  (∀ (i : LIns) (ext : Bool) (x y : LaneCtx) (k : List (Nat × Nat)), (i.op = 0x01 → x.condition i.mod = some true → insClocks i ext x y k = 2) ∧ (i.op = 0x02 ∨ i.op = 0x03 ∨ i.op = 0x06 ∨ i.op = 0x0D → insClocks i ext x y k = 2) ∧ (i.op = 0x09 → insClocks i ext x y k = if ext then 8 else 4) ∧ (i.op = 0x0A → insClocks i ext x y k = 4) ∧ (i.op = 0x38 → insLatency i = 4) ∧ (i.op = 0x32 ∨ i.op = 0x33 ∨ i.op = 0x34 → insLatency i = 2)) ∧
  (∀ (s : State) (l c : Nat) (e : LEff) (ms : List Move1), ms.all (fun m => !m.store) = true → (let u := s.laneResult l c e ms; (u.lane l).x = (s.lane l).x ∧ (u.lane l).y = (s.lane l).y ∧ (u.lane l).c = (s.lane l).c ∧ u = { s with lanes := s.lanes.set l (u.lane l), regs := { s.regs with scal := u.regs.scal } })) ∧
  (∀ (s : State) (l c : Nat) (e : LEff) (ms : List Move1) (m : Move1) (k : Nat), ms = [m] ∧ m.store = true ∧ m.mem < 3 → Memory.wf ((s.lane l).memOf m.mem) = true → (k < (s.window l c m.mem).1 + m.addr ∨ (s.window l c m.mem).1 + m.addr + ((s.lctx l c).regBytes m.reg).length ≤ k) → (((s.laneResult l c e ms).lane l).memOf m.mem).read k = ((s.lane l).memOf m.mem).read k)

/-- Adding an exact term t to a slot that lies in range: without saturation so far, the new value is the sum clamped to −2^47 to 2^47 − 1, and the slot is marked saturated and sets SAT_ACC exactly when the sum lies outside; a slot already saturated keeps its value; a clearing instruction starts from 0. In every case the value lies between −2^47 and 2^47 − 1. -/
def Obligations.AccumulatorSlotsNeverWrap : Prop :=
  (∀ (a : AcSlot) (t : Int), a.sat = false → (-(2 ^ 47) ≤ a.val ∧ a.val ≤ 2 ^ 47 - 1) → ((slotAdd a false t).1.val = max (-(2 ^ 47)) (min (2 ^ 47 - 1) (a.val + t)) ∧ ((slotAdd a false t).1.sat = decide (a.val + t < -(2 ^ 47) ∨ 2 ^ 47 - 1 < a.val + t)) ∧ (slotAdd a false t).2.satAcc = (slotAdd a false t).1.sat)) ∧
  (∀ (a : AcSlot) (t : Int), a.sat = true → (-(2 ^ 47) ≤ a.val ∧ a.val ≤ 2 ^ 47 - 1) → (slotAdd a false t).1 = a) ∧
  (∀ (a : AcSlot) (t : Int), (slotAdd a true t).1.val = max (-(2 ^ 47)) (min (2 ^ 47 - 1) t))

/-- VALU ADD16 and SUB16 give each of the eight sums or differences clamped to −32,768 to 32,767, with SAT_OUT when one was clamped. VMAC, VMACS and VCMAC add to slot i of AC_RD the exact product of element i, negated when MOD says so. VSPLAT replicates S_RA. VCMUL, VRDAC, VSCLAC, VMAG2, VRCP and VCVT refuse a register that does not exist as ILLEGAL. SALU gives, by MOD, the sum, the difference, AND, OR, XOR, the left, right and arithmetic shift by the whole unsigned value of S_RB, and the signed minimum and maximum; an amount of 32 or more shifts everything out, leaving 0 or copies of the sign. MOD 10 to 15 is ILLEGAL. MOVI gives IMM. CMP sets Z, LT and LTU of S_RA and S_RB and no other field of the context. GETA gives the selected pointer register, Nn sign-extended. -/
def Obligations.VectorLaneResults : Prop :=
  (∀ (i : LIns) (x : LaneCtx), i.ra < 8 ∧ i.rb < 8 ∧ i.rd < 8 → i.mod < 2 → ∃ e, valuEff i x = .ok e ∧ e.vreg = some (i.rd, vOf 16 ((List.range 8).map (fun k => twos 16 (max (-32768) (min 32767 (if i.mod = 0 then v16 (x.getV i.ra) k + v16 (x.getV i.rb) k else v16 (x.getV i.ra) k - v16 (x.getV i.rb) k)))))) ∧ e.flags.satOut = (List.range 8).any (fun k => let v := if i.mod = 0 then v16 (x.getV i.ra) k + v16 (x.getV i.rb) k else v16 (x.getV i.ra) k - v16 (x.getV i.rb) k; decide (v < -32768 ∨ 32767 < v)) ∧ e.sreg = none ∧ e.areg = none) ∧
  (∀ (i : LIns) (x : LaneCtx), i.ra < 8 ∧ i.rb < 8 ∧ i.rd < 4 → ∃ e, vmacEff i x = .ok e ∧ e.areg = some (i.rd, (List.range 8).map (fun k => (slotAdd ((x.getAc i.rd).getD k { val := 0, sat := false }) (decide (i.mod % 2 = 1)) (if i.mod / 2 % 2 = 1 then -(v16 (x.getV i.ra) k * v16 (x.getV i.rb) k) else v16 (x.getV i.ra) k * v16 (x.getV i.rb) k)).1)) ∧ e.vreg = none ∧ e.sreg = none) ∧
  (∀ (i : LIns) (x : LaneCtx), i.ra < 8 ∧ i.rd < 4 → ∃ e, vmacsEff i x = .ok e ∧ e.areg = some (i.rd, (List.range 8).map (fun k => (slotAdd ((x.getAc i.rd).getD k { val := 0, sat := false }) (decide (i.mod % 2 = 1)) (if i.mod / 2 % 2 = 1 then -(v16 (x.getV i.ra) k * signed 16 (x.getS i.rb).toNat) else v16 (x.getV i.ra) k * signed 16 (x.getS i.rb).toNat)).1)) ∧ e.vreg = none ∧ e.sreg = none) ∧
  (∀ (i : LIns) (x : LaneCtx), i.ra < 8 ∧ i.rb < 8 ∧ i.rd < 4 → ∃ e, vcmacEff i x = .ok e ∧ e.areg = some (i.rd, (List.range 8).map (fun k => let ai := v16 (x.getV i.ra) (k / 2 * 2); let aq := v16 (x.getV i.ra) (k / 2 * 2 + 1); let bi := v16 (x.getV i.rb) (k / 2 * 2); let bq := if i.mod / 2 % 2 = 1 then -(v16 (x.getV i.rb) (k / 2 * 2 + 1)) else v16 (x.getV i.rb) (k / 2 * 2 + 1); let p := if k % 2 = 0 then ai * bi - aq * bq else ai * bq + aq * bi; (slotAdd ((x.getAc i.rd).getD k { val := 0, sat := false }) (decide (i.mod % 2 = 1)) (if i.mod / 4 % 2 = 1 then -p else p)).1)) ∧ e.vreg = none) ∧
  (∀ (i : LIns) (x : LaneCtx), i.rd < 8 → i.mod < 2 → ∃ e, vsplatEff i x = .ok e ∧ e.vreg = some (i.rd, if i.mod = 0 then vOf 16 (List.replicate 8 ((x.getS i.ra).toNat % 65536)) else vOf 32 (List.replicate 4 (x.getS i.ra).toNat))) ∧
  (∀ (i : LIns) (x : LaneCtx), 8 ≤ i.ra → vcmulEff i x = .error .illegal ∧ vrdacEff i x = .error .illegal ∧ vsclacEff i x = .error .illegal ∧ vmag2Eff i x = .error .illegal ∧ vrcpEff i x = .error .illegal ∧ vcvtEff i x = .error .illegal) ∧
  (∀ (i : LIns) (x : LaneCtx), saluEff i x = (let a := x.getS i.ra; let b := x.getS i.rb; if i.mod = 0 then .ok { sreg := some (i.rd, a + b) } else if i.mod = 1 then .ok { sreg := some (i.rd, a - b) } else if i.mod = 2 then .ok { sreg := some (i.rd, a &&& b) } else if i.mod = 3 then .ok { sreg := some (i.rd, a ||| b) } else if i.mod = 4 then .ok { sreg := some (i.rd, a ^^^ b) } else if i.mod = 5 then .ok { sreg := some (i.rd, if 32 ≤ b.toNat then 0 else a <<< b.toNat) } else if i.mod = 6 then .ok { sreg := some (i.rd, if 32 ≤ b.toNat then 0 else a >>> b.toNat) } else if i.mod = 7 then .ok { sreg := some (i.rd, if 32 ≤ b.toNat then (if a.msb then 0xFFFFFFFF else 0) else a.sshiftRight b.toNat) } else if i.mod = 8 then .ok { sreg := some (i.rd, if a.toInt < b.toInt then a else b) } else if i.mod = 9 then .ok { sreg := some (i.rd, if a.toInt < b.toInt then b else a) } else .error .illegal)) ∧
  (∀ (i : LIns) (x : LaneCtx), moviEff i x = .ok { sreg := some (i.rd, i.imm) } ∧ cmpEff i x = .ok { cmp := some (x.getS i.ra, x.getS i.rb) }) ∧
  (∀ (x : LaneCtx) (a b : Word), x.compare a b = { x with z := decide (a = b), lt := decide (a.toInt < b.toInt), ltu := decide (a.toNat < b.toNat) }) ∧
  (∀ (i : LIns) (x : LaneCtx), getaEff i x = .ok { sreg := some (i.rd, if i.mod % 4 = 0 then (x.p.getD (i.ra % 8) 0).setWidth 32 else if i.mod % 4 = 1 then (x.n.getD (i.ra % 8) 0).signExtend 32 else if i.mod % 4 = 2 then (x.base.getD (i.ra % 8) 0).setWidth 32 else w32 (x.len.getD (i.ra % 8) 0)) })

/-- At the running context's PC: BR goes to IMM[11:0] when its condition holds, ending the loops whose body does not hold the target, and to the next instruction otherwise; CALL pushes PC + 1 on a stack of 8 and RET pops it; a target at or past PSIZE faults CODE, a ninth CALL and a RET on an empty stack fault STACK. LOOP with a count from 1 to 65,535 opens a loop on the IMM[19:16] + 1 instructions that follow, a count of 0 skips them, a third loop faults ILLEGAL and a larger count COUNT. REPEAT holds the PC on the next instruction for its count of runs. SETA writes a pointer register or faults ILLEGAL, SETDL the deadline. Each changes only the context, beside the issue and the clocks of every instruction, and a fault also the cell and the fault event. SETA writes the register that MOD[1:0] and RD[2:0] select with bits [15:0] of the source, or [16:0] for LENn; a BASEn or LENn that is no multiple of 16 and a LENn above 65,536 change nothing. No other register of the context is written. -/
def Obligations.LaneControlInstructions : Prop :=
  (∀ (s : State) (l : LaneId) (c : Nat) (i : LIns), s.laneAt l.val c i = true → i.op = 0x01 → (s.lctx l.val c).condition i.mod = some true → fld i.imm 11 0 < s.psize l.val c → Sys2Proof.Machine.exec (.br l) s = .next (s.laneDone l.val c i (let b := s.laneBegun l.val c i; b.setLctx l.val c { (b.lctx l.val c) with pc := fld i.imm 11 0, loops := (s.lctx l.val c).loops.filter (fun v => v.start ≤ fld i.imm 11 0 && fld i.imm 11 0 < v.start + v.len) }))) ∧
  (∀ (s : State) (l : LaneId) (c : Nat) (i : LIns), s.laneAt l.val c i = true → i.op = 0x01 → (s.lctx l.val c).condition i.mod = some false → Sys2Proof.Machine.exec (.br l) s = .next (s.laneDone l.val c i (let b := s.laneBegun l.val c i; b.laneNext l.val c (b.lctx l.val c)))) ∧
  (∀ (s : State) (l : LaneId) (c : Nat) (i : LIns), s.laneAt l.val c i = true → i.op = 0x01 → (s.lctx l.val c).condition i.mod = some true → s.psize l.val c ≤ fld i.imm 11 0 → Sys2Proof.Machine.exec (.br l) s = .next (s.laneDone l.val c i (let b := s.laneBegun l.val c i; b.laneFault l.val c .code))) ∧
  (∀ (s : State) (l : LaneId) (c : Nat) (i : LIns), s.laneAt l.val c i = true → i.op = 0x02 → (s.lctx l.val c).stack.length < 8 → fld i.imm 11 0 < s.psize l.val c → Sys2Proof.Machine.exec (.call l) s = .next (s.laneDone l.val c i (let b := s.laneBegun l.val c i; b.setLctx l.val c { (b.lctx l.val c) with stack := ((s.lctx l.val c).pc + 1) :: (s.lctx l.val c).stack, pc := fld i.imm 11 0, loops := (s.lctx l.val c).loops.filter (fun v => v.start ≤ fld i.imm 11 0 && fld i.imm 11 0 < v.start + v.len) }))) ∧
  (∀ (s : State) (l : LaneId) (c : Nat) (i : LIns), s.laneAt l.val c i = true → i.op = 0x02 → 8 ≤ (s.lctx l.val c).stack.length → Sys2Proof.Machine.exec (.call l) s = .next (s.laneDone l.val c i (let b := s.laneBegun l.val c i; b.laneFault l.val c .stack))) ∧
  (∀ (s : State) (l : LaneId) (c : Nat) (i : LIns) (a : Nat) (rest : List Nat), s.laneAt l.val c i = true → i.op = 0x03 → (s.lctx l.val c).stack = a :: rest → a < s.psize l.val c → Sys2Proof.Machine.exec (.ret l) s = .next (s.laneDone l.val c i (let b := s.laneBegun l.val c i; b.setLctx l.val c { (b.lctx l.val c) with stack := rest, pc := a }))) ∧
  (∀ (s : State) (l : LaneId) (c : Nat) (i : LIns), s.laneAt l.val c i = true → i.op = 0x03 → (s.lctx l.val c).stack = [] → Sys2Proof.Machine.exec (.ret l) s = .next (s.laneDone l.val c i (let b := s.laneBegun l.val c i; b.laneFault l.val c .stack))) ∧
  (∀ (s : State) (l : LaneId) (c : Nat) (i : LIns) (n : Nat), s.laneAt l.val c i = true → i.op = 0x04 → (n = (if i.mod % 2 = 1 then ((s.lctx l.val c).getS i.ra).toNat else fld i.imm 15 0)) → 1 ≤ n ∧ n ≤ 65535 → (s.lctx l.val c).loops.length < 2 → Sys2Proof.Machine.exec (.loop l) s = .next (s.laneDone l.val c i (let b := s.laneBegun l.val c i; b.setLctx l.val c { (b.lctx l.val c) with pc := (s.lctx l.val c).pc + 1, loops := { left := n, start := (s.lctx l.val c).pc + 1, len := fld i.imm 19 16 + 1 } :: (s.lctx l.val c).loops }))) ∧
  (∀ (s : State) (l : LaneId) (c : Nat) (i : LIns), s.laneAt l.val c i = true → i.op = 0x04 → ((if i.mod % 2 = 1 then ((s.lctx l.val c).getS i.ra).toNat else fld i.imm 15 0) = 0) → (s.lctx l.val c).loops.length < 2 → Sys2Proof.Machine.exec (.loop l) s = .next (s.laneDone l.val c i (let b := s.laneBegun l.val c i; b.setLctx l.val c { (b.lctx l.val c) with pc := (nextPc ((s.lctx l.val c).pc + (fld i.imm 19 16 + 1)) (s.lctx l.val c).loops).1, loops := (nextPc ((s.lctx l.val c).pc + (fld i.imm 19 16 + 1)) (s.lctx l.val c).loops).2 }))) ∧
  (∀ (s : State) (l : LaneId) (c : Nat) (i : LIns), s.laneAt l.val c i = true → i.op = 0x04 → 2 ≤ (s.lctx l.val c).loops.length → Sys2Proof.Machine.exec (.loop l) s = .next (s.laneDone l.val c i (let b := s.laneBegun l.val c i; b.laneFault l.val c .illegal))) ∧
  (∀ (s : State) (l : LaneId) (c : Nat) (i : LIns), s.laneAt l.val c i = true → i.op = 0x04 → (65535 < (if i.mod % 2 = 1 then ((s.lctx l.val c).getS i.ra).toNat else fld i.imm 15 0)) → (s.lctx l.val c).loops.length < 2 → Sys2Proof.Machine.exec (.loop l) s = .next (s.laneDone l.val c i (let b := s.laneBegun l.val c i; b.laneFault l.val c .count))) ∧
  (∀ (s : State) (l : LaneId) (c : Nat) (i : LIns) (n : Nat), s.laneAt l.val c i = true → i.op = 0x05 → (n = (if i.mod % 2 = 1 then ((s.lctx l.val c).getS i.ra).toNat else fld i.imm 11 0)) → 1 ≤ n ∧ n ≤ 4095 → (s.lctx l.val c).loops.any (fun v => decide ((s.lctx l.val c).pc + 1 = v.start + v.len)) = false → (s.lctx l.val c).pc + 1 < s.psize l.val c → repeatable (decodeLane (s.laneWord l.val c ((s.lctx l.val c).pc + 1))).op = true → Sys2Proof.Machine.exec (.repeat_ l) s = .next (s.laneDone l.val c i (let b := s.laneBegun l.val c i; b.setLctx l.val c { (b.lctx l.val c) with pc := (s.lctx l.val c).pc + 1, rep := some n }))) ∧
  (∀ (s : State) (l : LaneId) (c : Nat) (i : LIns) (y : LaneCtx), s.laneAt l.val c i = true → i.op = 0x20 → (s.lctx l.val c).seta i = some y → Sys2Proof.Machine.exec (.seta l) s = .next (s.laneDone l.val c i (let b := s.laneBegun l.val c i; b.laneNext l.val c { y with due := (b.lctx l.val c).due }))) ∧
  (∀ (s : State) (l : LaneId) (c : Nat) (i : LIns), s.laneAt l.val c i = true → i.op = 0x20 → (s.lctx l.val c).seta i = none → Sys2Proof.Machine.exec (.seta l) s = .next (s.laneDone l.val c i (let b := s.laneBegun l.val c i; b.laneFault l.val c .illegal))) ∧
  (∀ (s : State) (l : LaneId) (c : Nat) (i : LIns), s.laneAt l.val c i = true → i.op = 0x07 → Sys2Proof.Machine.exec (.setdl l) s = .next (s.laneDone l.val c i (let b := s.laneBegun l.val c i; b.laneNext l.val c { (b.lctx l.val c) with cdl := fld ((s.lctx l.val c).getS i.ra) 23 0, cdlSet := true, late := false }))) ∧
  (∀ (i : LIns) (x : LaneCtx) (v : Nat), (v = (if i.mod / 4 % 2 = 1 then i.imm.toNat % 2 ^ 17 else (x.getS i.ra).toNat)) → i.mod % 4 = 0 → x.seta i = some { x with p := x.p.set (i.rd % 8) (BitVec.ofNat 16 v) }) ∧
  (∀ (i : LIns) (x : LaneCtx) (v : Nat), (v = (if i.mod / 4 % 2 = 1 then i.imm.toNat % 2 ^ 17 else (x.getS i.ra).toNat)) → i.mod % 4 = 1 → x.seta i = some { x with n := x.n.set (i.rd % 8) (BitVec.ofNat 16 v) }) ∧
  (∀ (i : LIns) (x : LaneCtx) (v : Nat), (v = (if i.mod / 4 % 2 = 1 then i.imm.toNat % 2 ^ 17 else (x.getS i.ra).toNat)) → i.mod % 4 = 2 → x.seta i = if v % 16 = 0 then some { x with base := x.base.set (i.rd % 8) (BitVec.ofNat 16 v) } else none) ∧
  (∀ (i : LIns) (x : LaneCtx) (v : Nat), (v = (if i.mod / 4 % 2 = 1 then i.imm.toNat % 2 ^ 17 else (x.getS i.ra).toNat % 2 ^ 17)) → i.mod % 4 = 3 → x.seta i = if v % 16 = 0 ∧ v ≤ 65536 then some { x with len := x.len.set (i.rd % 8) v } else none)

/-- HALT leaves the context asleep until the next slot start, with no deadline to miss. WAIT MOD 0, 1, 2 and 3 test the arrival counter S_RA against S_RB, the completion port, the time base against S_RA and the lane's mailbox: satisfied at issue the context goes on, otherwise it sleeps with its condition and leaves the active bank. MOD 0 with S_RA above 65,535 faults CTR. A sleeping context whose condition holds becomes READY past its WAIT, the last in the order of readiness; one whose condition does not hold stays. -/
def Obligations.LaneWaitsSleepAndWake : Prop :=
  (∀ (s : State) (l : LaneId) (c : Nat) (i : LIns), s.laneAt l.val c i = true → i.op = 0x08 → ∃ u, Sys2Proof.Machine.exec (.halt l) s = .next u ∧ (u.lctx l.val c = { (s.laneBegun l.val c i).lctx l.val c with state := .sleep, halted := true, cdlSet := false }) ∧ ((u.lane l.val).running = false) ∧ (u = { s with lanes := s.lanes.set l.val (u.lane l.val), regs := { s.regs with scal := u.regs.scal } })) ∧
  (∀ (s : State) (l : LaneId) (c : Nat) (i : LIns), s.laneAt l.val c i = true → i.op = 0x06 ∧ i.mod = 0 → ((s.lctx l.val c).getS i.ra).toNat ≤ 65535 → (s.ctr (l.val / 32) ((s.lctx l.val c).getS i.ra).toNat - (s.lctx l.val c).getS i.rb).toNat < 2 ^ 31 → Sys2Proof.Machine.exec (.laneWait l) s = .next (s.laneDone l.val c i (let b := s.laneBegun l.val c i; b.laneNext l.val c (b.lctx l.val c)))) ∧
  (∀ (s : State) (l : LaneId) (c : Nat) (i : LIns), s.laneAt l.val c i = true → i.op = 0x06 ∧ i.mod = 0 → ((s.lctx l.val c).getS i.ra).toNat ≤ 65535 → 2 ^ 31 ≤ (s.ctr (l.val / 32) ((s.lctx l.val c).getS i.ra).toNat - (s.lctx l.val c).getS i.rb).toNat → ∃ u, Sys2Proof.Machine.exec (.laneWait l) s = .next u ∧ (u.lctx l.val c = { (s.laneBegun l.val c i).lctx l.val c with state := .sleep, wait := .counter ((s.lctx l.val c).getS i.ra).toNat ((s.lctx l.val c).getS i.rb) }) ∧ ((u.lane l.val).running = false) ∧ (u = { s with lanes := s.lanes.set l.val (u.lane l.val), regs := { s.regs with scal := u.regs.scal } })) ∧
  (∀ (s : State) (l : LaneId) (c : Nat) (i : LIns), s.laneAt l.val c i = true → i.op = 0x06 ∧ i.mod = 1 → (s.lctx l.val c).port = [] → ∃ u, Sys2Proof.Machine.exec (.laneWait l) s = .next u ∧ (u.lctx l.val c = { (s.laneBegun l.val c i).lctx l.val c with state := .sleep, wait := .record }) ∧ ((u.lane l.val).running = false) ∧ (u = { s with lanes := s.lanes.set l.val (u.lane l.val), regs := { s.regs with scal := u.regs.scal } })) ∧
  (∀ (s : State) (l : LaneId) (c : Nat) (i : LIns), s.laneAt l.val c i = true → i.op = 0x06 ∧ i.mod = 2 → (s.now32 - (s.lctx l.val c).getS i.ra).toNat < 2 ^ 31 → Sys2Proof.Machine.exec (.laneWait l) s = .next (s.laneDone l.val c i (let b := s.laneBegun l.val c i; b.laneNext l.val c (b.lctx l.val c)))) ∧
  (∀ (s : State) (l : LaneId) (c : Nat) (i : LIns), s.laneAt l.val c i = true → i.op = 0x06 ∧ i.mod = 0 → 65535 < ((s.lctx l.val c).getS i.ra).toNat → Sys2Proof.Machine.exec (.laneWait l) s = .next (s.laneDone l.val c i (let b := s.laneBegun l.val c i; b.laneFault l.val c .ctr))) ∧
  (∀ (s : State) (l : LaneId) (c : LaneCtxId), (s.lctx l.val c.val).state = .sleep → s.laneWaitHolds l.val c.val = true → ∃ u, Sys2Proof.Machine.exec (.laneWaitWake l c) s = .next u ∧ ((u.lctx l.val c.val).state = .ready ∧ (u.lctx l.val c.val).wait = .nothing ∧ (u.lctx l.val c.val).seq = (s.lane l.val).ticks) ∧ ((u.lctx l.val c.val).pc = ((s.lctx l.val c.val).advance).pc) ∧ (u = { s with lanes := s.lanes.set l.val (u.lane l.val) })) ∧
  (∀ (s : State) (l : LaneId) (c : LaneCtxId), s.laneWaitHolds l.val c.val = false → Sys2Proof.Machine.exec (.laneWaitWake l c) s = .next s)

/-- TISS with a 64-byte command at an aligned address within the X window and a tile of the lane's die that radio holds appends the command, with the context as issuer and domain 0's space, to the tile's queue and counts it in OUTST; a full queue puts the context to sleep on the issue. A TISS to a tile that radio does not hold counts in REFUSED of lane and tile and sends the context a record with CONFIG_INVALID. CISS appends its command to the engine of the grove that it names on its die, in the order of acceptance. A blocked issue proceeds when there is room and no other blocked context of the die goes before it to that queue, which the nearer deadline and then the earlier block decide. ADVC removes the head record, SIGC adds S_RB to a counter that domain 0 holds, and a record on its way enters the port and leaves OUTST. -/
def Obligations.LaneIssuesCommands : Prop :=
  (∀ (s : State) (l : LaneId) (c : Nat) (i : LIns), s.laneAt l.val c i = true → i.op = 0x09 → ((s.lctx l.val c).getS i.rb).toNat % 32 = 0 ∧ ((s.lctx l.val c).getS i.rb).toNat + 64 ≤ (s.window l.val c 0).2 → bitOf (wAt (wordsOf 16 ((s.lane l.val).x.readN ((s.window l.val c 0).1 + ((s.lctx l.val c).getS i.rb).toNat) 64)) 0) 27 = false → ((s.lctx l.val c).getS i.ra).toNat / 256 = l.val / 32 ∧ ((s.lctx l.val c).getS i.ra).toNat < 1024 → s.tileHeldBy ((s.lctx l.val c).getS i.ra).toNat 0 = true → (s.tile ((s.lctx l.val c).getS i.ra).toNat).queue.length < 16 → (s.lctx l.val c).outst + (s.lctx l.val c).port.length < 32 → c < 8 → ∃ u, Sys2Proof.Machine.exec (.tiss l) s = .next u ∧ ((u.tile ((s.lctx l.val c).getS i.ra).toNat).queue.map (fun q => (q.words, q.space)) = (s.tile ((s.lctx l.val c).getS i.ra).toNat).queue.map (fun q => (q.words, q.space)) ++ [((wordsOf 16 ((s.lane l.val).x.readN ((s.window l.val c 0).1 + ((s.lctx l.val c).getS i.rb).toNat) 64)), .dom0)]) ∧ (u.lctx l.val c = ({ (s.laneBegun l.val c i).lctx l.val c with outst := (s.lctx l.val c).outst + 1 } : LaneCtx).advance) ∧ (u = { s with lanes := s.lanes.set l.val (u.lane l.val), tiles := s.tiles.set ((s.lctx l.val c).getS i.ra).toNat (u.tile ((s.lctx l.val c).getS i.ra).toNat), regs := { s.regs with scal := u.regs.scal } })) ∧
  (∀ (s : State) (l : LaneId) (c : Nat) (i : LIns), s.laneAt l.val c i = true → i.op = 0x09 → ((s.lctx l.val c).getS i.rb).toNat % 32 = 0 ∧ ((s.lctx l.val c).getS i.rb).toNat + 64 ≤ (s.window l.val c 0).2 → bitOf (wAt (wordsOf 16 ((s.lane l.val).x.readN ((s.window l.val c 0).1 + ((s.lctx l.val c).getS i.rb).toNat) 64)) 0) 27 = false → ((s.lctx l.val c).getS i.ra).toNat / 256 = l.val / 32 ∧ ((s.lctx l.val c).getS i.ra).toNat < 1024 → s.tileHeldBy ((s.lctx l.val c).getS i.ra).toNat 0 = true → 16 ≤ (s.tile ((s.lctx l.val c).getS i.ra).toNat).queue.length → (s.lctx l.val c).outst + (s.lctx l.val c).port.length < 32 → ∃ u, Sys2Proof.Machine.exec (.tiss l) s = .next u ∧ (u.lctx l.val c = { (s.laneBegun l.val c i).lctx l.val c with state := .sleep, wait := .issue, seq := s.codeSeq }) ∧ (u = { s with lanes := s.lanes.set l.val (u.lane l.val), codeSeq := s.codeSeq + 1, regs := { s.regs with scal := u.regs.scal } })) ∧
  (∀ (s : State) (l : LaneId) (c : Nat) (i : LIns), s.laneAt l.val c i = true → i.op = 0x09 → ((s.lctx l.val c).getS i.rb).toNat % 32 = 0 ∧ ((s.lctx l.val c).getS i.rb).toNat + 64 ≤ (s.window l.val c 0).2 → bitOf (wAt (wordsOf 16 ((s.lane l.val).x.readN ((s.window l.val c 0).1 + ((s.lctx l.val c).getS i.rb).toNat) 64)) 0) 27 = false → 1024 ≤ ((s.lctx l.val c).getS i.ra).toNat ∨ ((s.lctx l.val c).getS i.ra).toNat / 256 ≠ l.val / 32 ∨ s.tileHeldBy ((s.lctx l.val c).getS i.ra).toNat 0 = false → (s.lctx l.val c).outst + (s.lctx l.val c).port.length < 32 → s.scaler (pgLane l.val) 2 < 0xFFFFFFFF → ∃ u, Sys2Proof.Machine.exec (.tiss l) s = .next u ∧ (u.scaler (pgLane l.val) 2 = s.scaler (pgLane l.val) 2 + 1) ∧ ((u.lctx l.val c).outst = (s.lctx l.val c).outst + 1) ∧ ((u.lctx l.val c).arriving.map (fun r => fld (wAt r 0) 15 0) = (s.lctx l.val c).arriving.map (fun r => fld (wAt r 0) 15 0) ++ [cmdTag (wordsOf 16 ((s.lane l.val).x.readN ((s.window l.val c 0).1 + ((s.lctx l.val c).getS i.rb).toNat) 64))]) ∧ (((u.lctx l.val c).arriving.getLast?.map (fun r => fld (wAt r 0) 23 16)) = some (codeVal (s.closeCode (cmdDeadline (wordsOf 16 ((s.lane l.val).x.readN ((s.window l.val c 0).1 + ((s.lctx l.val c).getS i.rb).toNat) 64))) .configInvalid))) ∧ (u = { s with lanes := s.lanes.set l.val (u.lane l.val), scheds := u.scheds, regs := { s.regs with scal := u.regs.scal } }) ∧ (s.pastTag (cmdDeadline (wordsOf 16 ((s.lane l.val).x.readN ((s.window l.val c 0).1 + ((s.lctx l.val c).getS i.rb).toNat) 64))) = false → u.scheds = s.scheds)) ∧
  (∀ (s : State) (l : LaneId) (c : Nat) (i : LIns), s.laneAt l.val c i = true → i.op = 0x0A → ((s.lctx l.val c).getS i.rb).toNat % 32 = 0 ∧ ((s.lctx l.val c).getS i.rb).toNat + 64 ≤ (s.window l.val c 0).2 → ((s.lctx l.val c).getS i.ra).toNat < 32 ∧ ((s.lctx l.val c).getS i.ra).toNat / 8 = l.val / 32 → ((s.grove ((s.lctx l.val c).getS i.ra).toNat).ceQueue.filter (fun q => !q.started)).length < 16 → (s.lctx l.val c).outst + (s.lctx l.val c).port.length < 32 → c < 8 → ∃ u, Sys2Proof.Machine.exec (.ciss l) s = .next u ∧ ((u.grove ((s.lctx l.val c).getS i.ra).toNat).ceQueue.map (fun q => (q.words, q.seq)) = (s.grove ((s.lctx l.val c).getS i.ra).toNat).ceQueue.map (fun q => (q.words, q.seq)) ++ [((wordsOf 16 ((s.lane l.val).x.readN ((s.window l.val c 0).1 + ((s.lctx l.val c).getS i.rb).toNat) 64)), s.codeSeq)]) ∧ (u.lctx l.val c = ({ (s.laneBegun l.val c i).lctx l.val c with outst := (s.lctx l.val c).outst + 1 } : LaneCtx).advance) ∧ (u = { s with codeSeq := s.codeSeq + 1, lanes := s.lanes.set l.val (u.lane l.val), groves := s.groves.set ((s.lctx l.val c).getS i.ra).toNat (u.grove ((s.lctx l.val c).getS i.ra).toNat), cells := u.cells, regs := { s.regs with scal := u.regs.scal } }) ∧ (fld (wAt (wordsOf 16 ((s.lane l.val).x.readN ((s.window l.val c 0).1 + ((s.lctx l.val c).getS i.rb).toNat) 64)) 0) 31 28 ≠ 1 → u.cells = s.cells)) ∧
  (∀ (s : State) (l : LaneId) (c : LaneCtxId) (i : LIns), (s.lctx l.val c.val).state = .sleep ∧ (s.lctx l.val c.val).wait = .issue → s.issueBehind l.val c.val = false → (s.bist.inj.find 2).isNone = true → i = decodeLane (s.laneWord l.val c.val (s.lctx l.val c.val).pc) ∧ i.op = 0x09 → ((s.lctx l.val c.val).getS i.rb).toNat % 32 = 0 ∧ ((s.lctx l.val c.val).getS i.rb).toNat + 64 ≤ (s.window l.val c.val 0).2 → bitOf (wAt (wordsOf 16 ((s.lane l.val).x.readN ((s.window l.val c.val 0).1 + ((s.lctx l.val c.val).getS i.rb).toNat) 64)) 0) 27 = false → ((s.lctx l.val c.val).getS i.ra).toNat / 256 = l.val / 32 ∧ ((s.lctx l.val c.val).getS i.ra).toNat < 1024 → s.tileHeldBy ((s.lctx l.val c.val).getS i.ra).toNat 0 = true → (s.tile ((s.lctx l.val c.val).getS i.ra).toNat).queue.length < 16 → (s.lctx l.val c.val).outst + (s.lctx l.val c.val).port.length < 32 → ∃ u, Sys2Proof.Machine.exec (.laneIssueUnblock l c) s = .next u ∧ ((u.tile ((s.lctx l.val c.val).getS i.ra).toNat).queue.map (fun q => (q.words, q.space)) = (s.tile ((s.lctx l.val c.val).getS i.ra).toNat).queue.map (fun q => (q.words, q.space)) ++ [((wordsOf 16 ((s.lane l.val).x.readN ((s.window l.val c.val 0).1 + ((s.lctx l.val c.val).getS i.rb).toNat) 64)), .dom0)]) ∧ ((u.lctx l.val c.val).state = .ready ∧ (u.lctx l.val c.val).wait = .nothing ∧ (u.lctx l.val c.val).outst = (s.lctx l.val c.val).outst + 1 ∧ (u.lctx l.val c.val).pc = ((s.lctx l.val c.val).advance).pc) ∧ (u = { s with lanes := s.lanes.set l.val (u.lane l.val), tiles := s.tiles.set ((s.lctx l.val c.val).getS i.ra).toNat (u.tile ((s.lctx l.val c.val).getS i.ra).toNat) })) ∧
  (∀ (s : State) (l : LaneId) (c : Nat) (i : LIns), s.laneAt l.val c i = true → i.op = 0x0C → Sys2Proof.Machine.exec (.advc l) s = .next (s.laneDone l.val c i (let b := s.laneBegun l.val c i; b.laneNext l.val c { (b.lctx l.val c) with port := (s.lctx l.val c).port.tail }))) ∧
  (∀ (s : State) (l : LaneId) (c : Nat) (i : LIns), s.laneAt l.val c i = true → i.op = 0x0D → ((s.lctx l.val c).getS i.ra).toNat < 0x8000 → s.ctrHeld 0 ((s.lctx l.val c).getS i.ra).toNat = true → Sys2Proof.Machine.exec (.sigc l) s = .next (s.laneDone l.val c i (let b := s.laneBegun l.val c i; ({ b with arr := s.arr.set (l.val / 32 * 65536 + ((s.lctx l.val c).getS i.ra).toNat) (s.ctr (l.val / 32) ((s.lctx l.val c).getS i.ra).toNat + (s.lctx l.val c).getS i.rb) } : State).laneNext l.val c (b.lctx l.val c)))) ∧
  (∀ (s : State) (l : LaneId) (c : Nat) (i : LIns), s.laneAt l.val c i = true → i.op = 0x0D → s.ctrHeld 0 ((s.lctx l.val c).getS i.ra).toNat = false → Sys2Proof.Machine.exec (.sigc l) s = .next (s.laneDone l.val c i (let b := s.laneBegun l.val c i; b.laneFault l.val c .ctr))) ∧
  (∀ (s : State) (l : LaneId) (c : LaneCtxId) (r : List Word) (rest : List (List Word)), (s.lctx l.val c.val).arriving = r :: rest → (s.lctx l.val c.val).state ≠ .faulted ∧ (s.lctx l.val c.val).state ≠ .stopping ∧ (s.lctx l.val c.val).state ≠ .off → (s.cell (s.ctxCell l.val c.val)).forced = false → Sys2Proof.Machine.exec (.completionRecordArrive l c) s = .next (s.setLctx l.val c.val { s.lctx l.val c.val with arriving := rest, outst := (s.lctx l.val c.val).outst - 1, port := (s.lctx l.val c.val).port ++ [r] }))

/-- SORT_DECK_COMMAND: with a free context, the waiting command with the nearest deadline, among those whose domain the deck's shaping admits, leaves the wait list and charges its domain's bucket; legal, with its tiles held by its domain and T not 0, it occupies the free context; with T = 0 it ends with EMPTY and a refused one with CONFIG_INVALID, writing nothing. SORT_DECK_COMPLETE: once the clocks of R109 have been granted to it, and unless a tile it uses is stopped, every destination tile holds the summary and the bins at BBASE, all other tiles are as before, the context is free, and the request context gets one record: OK, or OVERFLOW when a choice was dropped, with NAN_SEEN when a score was NaN. -/
def Obligations.SortDeckRunsACommand : Prop :=
  (∀ (s : State) (g : GroveId) (i : Nat) (c : DeckCmd), (s.grove g.val).parked = false → (s.grove g.val).deck0 = none ∨ (s.grove g.val).deck1 = none → s.nearest (deckPoint g.val) (s.grove g.val).deckWait = some i → (s.grove g.val).deckWait[i]? = some c → deckOk (decodeDeck c.words) c.words = true → (((decodeDeck c.words).stile :: (decodeDeck c.words).dests).map (groveTile g.val)).all (fun t => s.tileHeldBy t c.domain) = true → (decodeDeck c.words).t ≠ 0 → Sys2Proof.Machine.exec (.sortDeckCommand g) s = .next (({ s with groves := s.groves.set g.val (if (s.grove g.val).deck0.isNone then { s.grove g.val with deckWait := (s.grove g.val).deckWait.eraseIdx i, deck0 := some c } else { s.grove g.val with deckWait := (s.grove g.val).deckWait.eraseIdx i, deck1 := some c }) } : State).takeGrant c.domain (deckPoint g.val))) ∧
  (∀ (s : State) (g : GroveId) (i : Nat) (c : DeckCmd), (s.grove g.val).parked = false → (s.grove g.val).deck0 = none ∨ (s.grove g.val).deck1 = none → s.nearest (deckPoint g.val) (s.grove g.val).deckWait = some i → (s.grove g.val).deckWait[i]? = some c → deckOk (decodeDeck c.words) c.words = false ∨ (decodeDeck c.words).t = 0 ∨ (((decodeDeck c.words).stile :: (decodeDeck c.words).dests).map (groveTile g.val)).all (fun t => s.tileHeldBy t c.domain) = false → s.pastTag (cmdDeadline c.words) = false → Sys2Proof.Machine.exec (.sortDeckCommand g) s = .next (({ s with groves := s.groves.set g.val { s.grove g.val with deckWait := (s.grove g.val).deckWait.eraseIdx i }, ctxs := s.ctxs.set c.ctx { s.ctx c.ctx with recs := (s.ctx c.ctx).recs ++ [recordWords (cmdTag c.words) { status := if deckOk (decodeDeck c.words) c.words && (((decodeDeck c.words).stile :: (decodeDeck c.words).dests).map (groveTile g.val)).all (fun t => s.tileHeldBy t c.domain) then .empty else .configInvalid, flags := {}, ckM := 0x7FFFF, ckN := 0xFFFF, ac := 0, endNs := s.now32, late := false }] } } : State).takeGrant c.domain (deckPoint g.val))) ∧
  (∀ (s : State) (g : GroveId) (second : Bool) (c : DeckCmd) (r : Placed × List Byte), ((if second then (s.grove g.val).deck1 else (s.grove g.val).deck0) = some c) → (s.grove g.val).parked = false → s.deckWaits g.val (decodeDeck c.words) = false → r = deckRun (decodeDeck c.words) (s.tile (groveTile g.val (decodeDeck c.words).stile)).store → (decodeDeck c.words).ac ≤ c.spent → s.pastTag (cmdDeadline c.words) = false → ∃ u, Sys2Proof.Machine.exec (.sortDeckComplete g second) s = .next u ∧ (∀ i ∈ (decodeDeck c.words).dests, (u.tile (groveTile g.val i)).store = Memory.writeN (decodeDeck c.words).bbase r.2 (s.tile (groveTile g.val i)).store) ∧ (∀ t, (∀ i ∈ (decodeDeck c.words).dests, t ≠ groveTile g.val i) → u.tile t = s.tile t) ∧ (u.grove g.val = (if second then { s.grove g.val with deck1 := none } else { s.grove g.val with deck0 := none })) ∧ (u = { s with tiles := u.tiles, groves := s.groves.set g.val (u.grove g.val), ctxs := s.ctxs.set c.ctx { s.ctx c.ctx with recs := (s.ctx c.ctx).recs ++ [recordWords (cmdTag c.words) { status := if r.1.drops = 0 then .ok else .overflow, flags := { nanSeen := decide (r.1.nans ≠ 0) }, ckM := 0x7FFFF, ckN := 0xFFFF, ac := (decodeDeck c.words).ac, endNs := s.now32, late := false }] } })) ∧
  (∀ (s : State) (g : GroveId) (second : Bool) (c : DeckCmd), ((if second then (s.grove g.val).deck1 else (s.grove g.val).deck0) = some c) → c.spent < (decodeDeck c.words).ac → Sys2Proof.Machine.exec (.sortDeckComplete g second) s = .next s)

/-- LANE_CONTEXT_SWITCH gives the lane to the preferred context among the READY ones and the running one: the running context becomes READY, the other RUN. STANDBY_LOAD_COMPLETE puts the preferred READY context in the standby bank. SLICE_EXHAUSTED marks a context whose LEFT is 0 under a budget. LANE_DEADLINE_PASSED counts one miss for a CDL and no second one. ENABLE of a context that is OFF over a sealed segment with valid windows makes it SLEEP until the next slot start, and otherwise leaves ENABLE 0 with fault CFG. A disable makes a context STOPPING, its port empty; with OUTST at 0 it is OFF. -/
def Obligations.LaneContextsAreScheduled : Prop :=
  (∀ (s : State) (l : LaneId) (b : Nat), (s.lane l.val).running = true → ((s.lane l.val).ctx (s.lane l.val).runCtx).rep = none → s.laneBest l.val (fun c => ((s.lane l.val).ctx c).state = .ready || ((s.lane l.val).running && c = (s.lane l.val).runCtx)) = some b → b ≠ (s.lane l.val).runCtx → ∃ u, Sys2Proof.Machine.exec (.laneContextSwitch l) s = .next u ∧ ((u.lane l.val).runCtx = b ∧ (u.lane l.val).running = true) ∧ (u.lctx l.val b = { s.lctx l.val b with state := .run, ranSlot := true }) ∧ (u.lctx l.val (s.lane l.val).runCtx = { s.lctx l.val (s.lane l.val).runCtx with state := .ready, seq := (s.lane l.val).ticks }) ∧ (∀ k, k ≠ b → k ≠ (s.lane l.val).runCtx → u.lctx l.val k = s.lctx l.val k) ∧ (u = { s with lanes := s.lanes.set l.val (u.lane l.val) })) ∧
  (∀ (s : State) (l : LaneId) (b : Nat), (s.lane l.val).running = false → s.laneBest l.val (fun c => ((s.lane l.val).ctx c).state = .ready || ((s.lane l.val).running && c = (s.lane l.val).runCtx)) = some b → ∃ u, Sys2Proof.Machine.exec (.laneContextSwitch l) s = .next u ∧ ((u.lane l.val).runCtx = b ∧ (u.lane l.val).running = true) ∧ (u.lctx l.val b = { s.lctx l.val b with state := .run, ranSlot := true }) ∧ (∀ k, k ≠ b → u.lctx l.val k = s.lctx l.val k) ∧ (u = { s with lanes := s.lanes.set l.val (u.lane l.val) })) ∧
  (∀ (s : State) (l : LaneId) (c : LaneCtxId), s.laneBest l.val (fun k => ((s.lane l.val).ctx k).state = .ready) = some c.val → Sys2Proof.Machine.exec (.standbyLoadComplete l c) s = .next { s with lanes := s.lanes.set l.val { s.lane l.val with stbyCtx := c.val, stbyValid := true } }) ∧
  (∀ (s : State) (l : LaneId) (c : LaneCtxId), (s.lctx l.val c.val).left = 0 → (s.lctx l.val c.val).state ≠ .off → fld (s.inForce (pgLane l.val) (0x0C0 + 4 * c.val)) 21 0 ≠ 0 → Sys2Proof.Machine.exec (.sliceExhausted l c) s = .next (s.setLctx l.val c.val { (s.lctx l.val c.val) with exh := true })) ∧
  (∀ (s : State) (l : LaneId) (c : LaneCtxId), (s.lctx l.val c.val).cdlSet = true → (s.lctx l.val c.val).state = .ready ∨ (s.lctx l.val c.val).state = .run ∨ (s.lctx l.val c.val).state = .sleep → tagLater (tagOf s.now) (s.lctx l.val c.val).cdl = true → s.scaler (pgSds (l.val / 32)) 0 < 0xFFFFFFFF ∧ s.scaler (pgSds 4) (cellIdx (s.ctxCell l.val c.val) 6) < 0xFFFFFFFF → ∃ u, Sys2Proof.Machine.exec (.laneDeadlinePassed l c) s = .next u ∧ (u.lctx l.val c.val = { (s.lctx l.val c.val) with cdlSet := false }) ∧ (u.scaler (pgSds (l.val / 32)) 0 = s.scaler (pgSds (l.val / 32)) 0 + 1 ∧ u.scaler (pgSds 4) (cellIdx (s.ctxCell l.val c.val) 6) = s.scaler (pgSds 4) (cellIdx (s.ctxCell l.val c.val) 6) + 1) ∧ (u = { s with lanes := s.lanes.set l.val (u.lane l.val), scheds := s.scheds.set (l.val / 32) { s.sched (l.val / 32) with raisedNow := (s.sched (l.val / 32)).raisedNow ||| 1 }, regs := { s.regs with scal := u.regs.scal } })) ∧
  (∀ (s : State) (l : LaneId) (c : LaneCtxId), (s.lctx l.val c.val).cdlSet = false → Sys2Proof.Machine.exec (.laneDeadlinePassed l c) s = .next s) ∧
  (∀ (s : State) (l : LaneId) (c : LaneCtxId) (v : Word), s.pwr.phase = .running → s.recMode = 0 → bitOf v 0 = true → bitOf (s.reg (pgLane l.val) (0x100 + 0x20 * c.val)) 0 = false → s.canEnable l.val c.val = true → ∃ u, Sys2Proof.Machine.exec (.enable l c v) s = .next u ∧ ((u.lctx l.val c.val).state = .sleep ∧ (u.lctx l.val c.val).fresh = true ∧ (u.lctx l.val c.val).exh = false ∧ (u.lctx l.val c.val).left = 0) ∧ (u.reg (pgLane l.val) (0x100 + 0x20 * c.val) = v &&& 0x0FFF1FF1) ∧ (u = { s with lanes := s.lanes.set l.val (u.lane l.val), regs := { s.regs with raw := s.regs.raw.set (regKey (pgLane l.val) (0x100 + 0x20 * c.val)) (v &&& 0x0FFF1FF1) } })) ∧
  (∀ (s : State) (l : LaneId) (c : LaneCtxId) (v : Word), s.pwr.phase = .running → s.recMode = 0 → bitOf v 0 = true → bitOf (s.reg (pgLane l.val) (0x100 + 0x20 * c.val)) 0 = false → s.canEnable l.val c.val = false → Sys2Proof.Machine.exec (.enable l c v) s = .next { s with lanes := s.lanes.set l.val ((s.lane l.val).setCtx c.val { s.lctx l.val c.val with fault := .cfg }), regs := { s.regs with raw := s.regs.raw.set (regKey (pgLane l.val) (0x100 + 0x20 * c.val)) (v &&& 0x0FFF1FF0) } }) ∧
  (∀ (s : State) (l : LaneId) (c : LaneCtxId) (v : Word), s.pwr.phase = .running → s.recMode = 0 → bitOf v 0 = false → bitOf (s.reg (pgLane l.val) (0x100 + 0x20 * c.val)) 0 = true → (s.lctx l.val c.val).state ≠ .off ∧ (s.lctx l.val c.val).state ≠ .stopping → (s.lctx l.val c.val).rep = none → ∃ u, Sys2Proof.Machine.exec (.laneContextDisable l c v) s = .next u ∧ ((u.lctx l.val c.val).state = .stopping ∧ (u.lctx l.val c.val).port = []) ∧ (u.reg (pgLane l.val) (0x100 + 0x20 * c.val) = s.reg (pgLane l.val) (0x100 + 0x20 * c.val) &&& 0xFFFFFFFE) ∧ (u.lctx l.val c.val = { (s.lctx l.val c.val) with state := .stopping, wait := .nothing, port := [] }) ∧ (u = { s with lanes := s.lanes.set l.val (u.lane l.val), regs := { s.regs with raw := s.regs.raw.set (regKey (pgLane l.val) (0x100 + 0x20 * c.val)) (u.reg (pgLane l.val) (0x100 + 0x20 * c.val)), scal := u.regs.scal, evtRaw := u.regs.evtRaw, evtPend := u.regs.evtPend, pba := u.regs.pba }, out := u.out }) ∧ ((s.lctx l.val c.val).state ≠ .faulted → u.regs.evtRaw = s.regs.evtRaw ∧ u.out = s.out) ∧ ((s.lctx l.val c.val).state = .faulted → bitOf (u.evtRaw (pgLane l.val)) c.val = false)) ∧
  (∀ (s : State) (l : LaneId) (c : LaneCtxId), (s.lctx l.val c.val).state = .stopping → (s.lctx l.val c.val).outst = 0 → Sys2Proof.Machine.exec (.laneContextStopped l c) s = .next (s.setLctx l.val c.val { (s.lctx l.val c.val) with state := .off, port := [] }))

/-- An external write of X, Y or C memory stores its bytes and nothing else; a write of X also refreshes the mailbox event, and tells the pages that watch for an empty mailbox, which these statements leave out; program memory takes no write that way. A manager's write of program memory outside every enabled segment stores its bytes and unseals each sealed range that it meets; a byte inside an enabled segment is not written. MBCLR with an empty mailbox sets HEAD to TAIL. -/
def Obligations.LaneMemoriesFromOutside : Prop :=
  (∀ (s : State) (l : LaneId) (a : Nat) (bytes : List Byte), a + bytes.length ≤ 65536 → Sys2Proof.Machine.exec (.laneExternalAccess l .y a (.write bytes)) s = .next { s with lanes := s.lanes.set l.val { s.lane l.val with y := Memory.writeN a bytes (s.lane l.val).y } }) ∧
  (∀ (s : State) (l : LaneId) (a : Nat) (bytes : List Byte), a + bytes.length ≤ 65536 → (∀ p ∈ s.insts, p.2.watch = true → p.2.ovfTarget ≠ 0x1000 + l.val) → s.fbk.watch = false → ∃ u, Sys2Proof.Machine.exec (.laneExternalAccess l .x a (.write bytes)) s = .next u ∧ (u.lane l.val = { s.lane l.val with x := Memory.writeN a bytes (s.lane l.val).x }) ∧ (bitOf (u.evtRaw (pgLane l.val)) 8 = decide (laneHead (u.lane l.val) ≠ (u.lane l.val).mbTail)) ∧ (u = { s with lanes := s.lanes.set l.val (u.lane l.val), regs := { s.regs with evtRaw := u.regs.evtRaw, evtPend := u.regs.evtPend, pba := u.regs.pba }, out := u.out }) ∧ (∀ q, pageKey q ≠ pageKey (pgLane l.val) → u.evtRaw q = s.evtRaw q ∧ u.evtPend q = s.evtPend q)) ∧
  (∀ (s : State) (l : LaneId) (a : Nat) (bytes : List Byte), Sys2Proof.Machine.exec (.laneExternalAccess l .prog a (.write bytes)) s = .next s) ∧
  (∀ (s : State) (l : LaneId) (m : LaneMem) (a n : Nat), (s.bist.inj.find 2).isNone = true → Sys2Proof.Machine.exec (.laneExternalAccess l m a (.read n)) s = .next s) ∧
  (∀ (s : State) (l : LaneId) (off : Nat) (bs : List Byte), s.pwr.phase = .running → s.recMode = 0 → off + bs.length ≤ 32768 → (List.range (bs.length / 8 + 2)).all (fun j => !s.inSegment l.val (off / 8 + j)) = true → ∃ u, Sys2Proof.Machine.exec (.programMemoryWrite l off bs) s = .next u ∧ ((u.lane l.val).prog = Memory.writeN off bs (s.lane l.val).prog) ∧ ((u.lane l.val).seals = (s.lane l.val).seals.filter (fun r => bs = [] ∨ (off + bs.length - 1) / 8 < r.1 ∨ r.1 + r.2.1 ≤ off / 8)) ∧ (u.lane l.val = { s.lane l.val with prog := (u.lane l.val).prog, seals := (u.lane l.val).seals }) ∧ (u = { s with lanes := u.lanes }) ∧ (∀ k, k ≠ l.val → u.lane k = s.lane k)) ∧
  (∀ (s : State) (l : LaneId) (off : Nat) (b : Byte), s.pwr.phase = .running → s.recMode = 0 → off < 32768 → s.inSegment l.val (off / 8) = true → s.scaler (pgLane l.val) 7 < 0xFFFFFFFF → Sys2Proof.Machine.exec (.programMemoryWrite l off [b]) s = .next { s with regs := { s.regs with scal := s.regs.scal.set (scalKey (pgLane l.val) 7) (s.scaler (pgLane l.val) 7 + 1) } }) ∧
  (∀ (s : State) (l : LaneId), s.pwr.phase = .running → s.recMode = 0 → (laneHead (s.lane l.val)) = (s.lane l.val).mbTail → (∀ p ∈ s.insts, p.2.watch = true → p.2.ovfTarget ≠ 0x1000 + l.val) → s.fbk.watch = false → ∃ u, Sys2Proof.Machine.exec (.mbclr l) s = .next u ∧ (laneHead (u.lane l.val) = (s.lane l.val).mbTail) ∧ ((u.lane l.val).x = Memory.writeN 0xFE04 (leBytes 4 (s.lane l.val).mbTail.toNat) (s.lane l.val).x) ∧ (bitOf (u.evtRaw (pgLane l.val)) 8 = false) ∧ (u = { s with lanes := s.lanes.set l.val { s.lane l.val with x := (u.lane l.val).x }, regs := { s.regs with evtRaw := u.regs.evtRaw, evtPend := u.regs.evtPend, pba := u.regs.pba }, out := u.out }) ∧ (∀ q, pageKey q ≠ pageKey (pgLane l.val) → u.evtRaw q = s.evtRaw q ∧ u.evtPend q = s.evtPend q))

/-- ADMIT while BUSY is clear takes the 64 bytes at the descriptor address (zeros when they cannot be read), the cell number, the SFN and ASAP, and sets BUSY; while BUSY it is ignored and counted. When the checks end, FAILS has bit i set when check i fails and BUSY clears. With no failure the cell is ACCEPTED with the descriptor, its activation boundary is the first frame boundary with the requested SFN (or any, for ASAP) at least 20 ms away, and DONE, OK and that SFN are held; with a failure the code ranked first is held and no cell changes. -/
def Obligations.CellAdmission : Prop :=
  (∀ (s : State) (v : Word), s.pwr.phase = .running → s.recMode = 0 → fld v 1 0 = 1 → s.coord.busy = false → ∃ u, Sys2Proof.Machine.exec (.admitCell v) s = .next u ∧ (u.coord = { s.coord with busy := true, cmdCell := fld v 12 4, cmdSfn := fld v 22 13, asap := bitOf v 23, desc := if (s.loadDev .dom0 (fld (s.reg (pgSds 4) 0x010) 27 0 * 4096) 64).1 = .ok then wordsOf 16 (s.loadDev .dom0 (fld (s.reg (pgSds 4) 0x010) 27 0 * 4096) 64).2.1 else List.replicate 16 0 }) ∧ (bitOf (u.evtRaw (pgSds 4)) 0 = false) ∧ (u.cells = (s.loadDev .dom0 (fld (s.reg (pgSds 4) 0x010) 27 0 * 4096) 64).2.2.cells)) ∧
  (∀ (s : State) (v : Word), s.pwr.phase = .running → s.recMode = 0 → fld v 1 0 = 1 → s.coord.busy = true → s.scaler (pgSds 4) 0 < 0xFFFFFFFF → Sys2Proof.Machine.exec (.admitCell v) s = .next { s with regs := { s.regs with scal := s.regs.scal.set (scalKey (pgSds 4) 0) (s.scaler (pgSds 4) 0 + 1) } }) ∧
  (∀ (s : State) (k : Coord) (at0 sfn : Nat), k = s.coord → k.busy = true → s.seed.job = none → s.pwr.parkHeld = none ∧ s.seed.jobHeld = false → failsCode (s.admitFails k.desc k.cmdCell) = .ok → (at0, sfn) = s.frameAfter (s.now + 20000000) k.cmdSfn k.asap → ∃ u, Sys2Proof.Machine.exec (.admitChecksComplete) s = .next u ∧ (u.cell k.cmdCell = { Cell.free with phase := .accepted, desc := k.desc, startAt := at0, startSfn := sfn, txSeq := (s.cell k.cmdCell).txSeq }) ∧ (u.coord = { k with busy := false, doneBit := true, status := .ok, sfn := sfn, fails := failsWord (s.admitFails k.desc k.cmdCell) }) ∧ (bitOf (u.evtRaw (pgSds 4)) 0 = true) ∧ (u = { s with coord := u.coord, cells := s.cells.set k.cmdCell (u.cell k.cmdCell), regs := { s.regs with evtRaw := u.regs.evtRaw, evtPend := u.regs.evtPend, pba := u.regs.pba }, out := u.out }) ∧ (∀ q, pageKey q ≠ pageKey (pgSds 4) → u.evtRaw q = s.evtRaw q ∧ u.evtPend q = s.evtPend q)) ∧
  (∀ (s : State) (k : Coord), k = s.coord → k.busy = true → s.seed.job = none → s.pwr.parkHeld = none ∧ s.seed.jobHeld = false → failsCode (s.admitFails k.desc k.cmdCell) ≠ .ok → ∃ u, Sys2Proof.Machine.exec (.admitChecksComplete) s = .next u ∧ (u.coord = { k with busy := false, doneBit := true, status := failsCode (s.admitFails k.desc k.cmdCell), fails := failsWord (s.admitFails k.desc k.cmdCell) }) ∧ (u = { s with coord := u.coord, regs := { s.regs with evtRaw := u.regs.evtRaw, evtPend := u.regs.evtPend, pba := u.regs.pba }, out := u.out }) ∧ (∀ q, pageKey q ≠ pageKey (pgSds 4) → u.evtRaw q = s.evtRaw q ∧ u.evtPend q = s.evtPend q))

/-- REMOVE of an ACCEPTED cell frees it at once; of an ACTIVE one, it DRAINS until the first frame boundary with the requested SFN at least 1 ms away, and REMOVE_FORCE lets a cell drain to the next slot boundary only. A REMOVE of a FREE or DRAINING cell, and a REMOVE_FORCE of a FREE one, is refused with CONFIG_INVALID. At the end boundary the cell has ended, after a forced removal with no message left and nothing of it on the wheels of its port. It is FREE once its indications have left, its soft buffers are free and its lane contexts have no command outstanding. -/
def Obligations.CellRemoval : Prop :=
  (∀ (s : State) (v : Word), s.pwr.phase = .running → s.recMode = 0 → fld v 1 0 = 2 → s.coord.busy = false → (s.cell (fld v 12 4)).phase = .accepted → Sys2Proof.Machine.exec (.remove v) s = .next ((s.freeCell (fld v 12 4)).admDone .ok (some (s.sfnAt s.now)))) ∧
  (∀ (s : State) (v : Word) (at0 sfn : Nat), s.pwr.phase = .running → s.recMode = 0 → fld v 1 0 = 2 → s.coord.busy = false → (s.cell (fld v 12 4)).phase = .active → (s.cell (fld v 12 4)).ended = false → (s.cell (fld v 12 4)).slots.all (fun m => decide (m.start < at0)) = true → (at0, sfn) = s.frameAfter (s.now + 1000000) (fld v 22 13) (bitOf v 23) → Sys2Proof.Machine.exec (.remove v) s = .next ((({ s with cells := s.cells.set (fld v 12 4) { s.cell (fld v 12 4) with phase := .draining, endAt := at0 } } : State).cellInd (fld v 12 4) (s.cell (fld v 12 4)).desc 3 (s.sfnAt s.now)).admDone .ok (some sfn))) ∧
  (∀ (s : State) (v : Word), s.pwr.phase = .running → s.recMode = 0 → fld v 1 0 = 2 → s.coord.busy = false → (s.cell (fld v 12 4)).phase = .free ∨ (s.cell (fld v 12 4)).phase = .draining → Sys2Proof.Machine.exec (.remove v) s = .next { s with coord := { s.coord with doneBit := true, status := .configInvalid } }) ∧
  (∀ (s : State) (v : Word) (at0 : Nat), s.pwr.phase = .running → s.recMode = 0 → fld v 1 0 = 3 → s.coord.busy = false → (s.cell (fld v 12 4)).phase = .active → (s.cell (fld v 12 4)).ended = false → at0 = (s.slotAt (dMu (s.cell (fld v 12 4)).desc) s.now).start + dTslot (s.cell (fld v 12 4)).desc → (s.cell (fld v 12 4)).slots.all (fun m => decide (m.start < at0)) = true → Sys2Proof.Machine.exec (.removeForce v) s = .next ((({ s with cells := s.cells.set (fld v 12 4) { s.cell (fld v 12 4) with phase := .draining, endAt := at0, forced := true } } : State).cellInd (fld v 12 4) (s.cell (fld v 12 4)).desc 3 (s.sfnAt s.now)).admDone .ok (some (s.sfnAt at0)))) ∧
  (∀ (s : State) (c : CellId), (s.cell c.val).phase = .accepted → (s.cell c.val).startAt ≤ s.now → Sys2Proof.Machine.exec (.cellActivate c) s = .next ((({ s with cells := s.cells.set c.val { (s.cell c.val) with phase := .active } } : State).startStreams c.val).cellInd c.val (s.cell c.val).desc 2 (s.cell c.val).startSfn)) ∧
  (∀ (s : State) (c : CellId), (s.cell c.val).phase ≠ .accepted ∨ s.now < (s.cell c.val).startAt → Sys2Proof.Machine.exec (.cellActivate c) s = .next s) ∧
  (∀ (s : State) (c : CellId), (s.cell c.val).phase = .draining → (s.cell c.val).ended = false → (s.cell c.val).endAt ≤ s.now → (s.cell c.val).forced = false → Sys2Proof.Machine.exec (.cellEndBoundary c) s = .next { s with cells := s.cells.set c.val { (s.cell c.val) with ended := true } }) ∧
  (∀ (s : State) (c : CellId), (s.cell c.val).phase = .draining → (s.cell c.val).ended = false → (s.cell c.val).endAt ≤ s.now → (s.cell c.val).forced = true → ∃ u, Sys2Proof.Machine.exec (.cellEndBoundary c) s = .next u ∧ (u.cell c.val = { (s.cell c.val) with ended := true, slots := [] }) ∧ ((u.ethp (dPort (s.cell c.val).desc)).wheel.all (fun f => f.kind ≠ .uplane c.val && f.kind ≠ .cplane c.val) = true) ∧ (u = { s with cells := s.cells.set c.val (u.cell c.val), eth := s.eth.set (dPort (s.cell c.val).desc) (u.ethp (dPort (s.cell c.val).desc)) })) ∧
  (∀ (s : State) (c : CellId), (s.cell c.val).phase = .draining ∧ (s.cell c.val).ended = true → (s.cell c.val).indDone = true ∧ (s.cell c.val).sbFree = true → s.lanesQuiet c.val = true → Sys2Proof.Machine.exec (.cellFree c) s = .next (s.freeCell c.val)) ∧
  (∀ (s : State) (c : Nat), (s.freeCell c).cell c = { Cell.free with txSeq := ((s.freeCell c).cell c).txSeq } ∧ ((s.mirror c).state = .taken → (s.freeCell c).mirror c = MirrorEntry.none) ∧ (∀ k, k ≠ c → (s.freeCell c).cell k = s.cell k))

/-- UL_CONFIG, DL_CONFIG and TX_DATA that are well formed, for an ACTIVE or ACCEPTED cell, for a slot that starts more than one slot and at most 16 slots from now, and the first of their kind for the slot, are accepted: their legal PDUs are held in order and each refused PDU draws an ERROR PDU with CONFIG_INVALID. A message that fails one of these is discarded whole, with one error. At the message deadline a slot becomes late, once; a PDSCH PDU that waits for a TB that has not come transmits nothing and draws NOT_READY, and presence bits of the slot's position that stand already are noted as stale. A TB of a TX_DATA that follows its DL_CONFIG and that no PDSCH PDU waits for is refused. -/
def Obligations.SlotMessagesAreTakenOrRefused : Prop :=
  (∀ (s : State) (ws : List Word) (ps : List Pdu), s.pwr.phase = .running → s.recMode = 0 → (slotHead ws).type = 1 → headOk ws = true → s.msgOk (slotHead ws) (s.slotStart (dMu (s.cell (slotHead ws).cell).desc) (slotHead ws).sfn (slotHead ws).slot) = true → splitPdus (slotHead ws).seq (slotHead ws).npdu (ws.drop 4) = some ps → (s.mirror (slotHead ws).cell).state ≠ .armed → Sys2Proof.Machine.exec (.ulConfig ws) s = .next ((s.updCell (slotHead ws).cell (fun x => x.updSlot (slotHead ws).sfn (slotHead ws).slot (s.slotStart (dMu (s.cell (slotHead ws).cell).desc) (slotHead ws).sfn (slotHead ws).slot) (fun m => { m with ulSeq := some (slotHead ws).seq, ul := (judgePdus (s.cell (slotHead ws).cell).desc 1 ps).1 }))).refusePdus (slotHead ws).cell (slotHead ws) .configInvalid ((judgePdus (s.cell (slotHead ws).cell).desc 1 ps).2))) ∧
  (∀ (s : State) (ws : List Word) (ps : List Pdu), s.pwr.phase = .running → s.recMode = 0 → (slotHead ws).type = 2 → headOk ws = true → s.msgOk (slotHead ws) (s.slotStart (dMu (s.cell (slotHead ws).cell).desc) (slotHead ws).sfn (slotHead ws).slot) = true → splitPdus (slotHead ws).seq (slotHead ws).npdu (ws.drop 4) = some ps → (s.mirror (slotHead ws).cell).state ≠ .armed → Sys2Proof.Machine.exec (.dlConfig ws) s = .next ((s.updCell (slotHead ws).cell (fun x => x.updSlot (slotHead ws).sfn (slotHead ws).slot (s.slotStart (dMu (s.cell (slotHead ws).cell).desc) (slotHead ws).sfn (slotHead ws).slot) (fun m => { m with dlSeq := some (slotHead ws).seq, dl := (judgePdus (s.cell (slotHead ws).cell).desc 2 ps).1 }))).refusePdus (slotHead ws).cell (slotHead ws) .configInvalid ((judgePdus (s.cell (slotHead ws).cell).desc 2 ps).2))) ∧
  (∀ (s : State) (ws : List Word) (ps : List Pdu), s.pwr.phase = .running → s.recMode = 0 → (slotHead ws).type = 3 → headOk ws = true → s.msgOk (slotHead ws) (s.slotStart (dMu (s.cell (slotHead ws).cell).desc) (slotHead ws).sfn (slotHead ws).slot) = true → splitPdus (slotHead ws).seq (slotHead ws).npdu (ws.drop 4) = some ps → (s.mirror (slotHead ws).cell).state ≠ .armed → Sys2Proof.Machine.exec (.txData ws) s = .next ((s.updCell (slotHead ws).cell (fun x => x.updSlot (slotHead ws).sfn (slotHead ws).slot (s.slotStart (dMu (s.cell (slotHead ws).cell).desc) (slotHead ws).sfn (slotHead ws).slot) (fun m => { m with tbs := m.tbs ++ ((judgePdus (s.cell (slotHead ws).cell).desc 3 ps).1.filter (fun p => (((s.cell (slotHead ws).cell).slotOf (slotHead ws).sfn (slotHead ws).slot (s.slotStart (dMu (s.cell (slotHead ws).cell).desc) (slotHead ws).sfn (slotHead ws).slot)).getD (SlotMsgs.empty (slotHead ws).sfn (slotHead ws).slot (s.slotStart (dMu (s.cell (slotHead ws).cell).desc) (slotHead ws).sfn (slotHead ws).slot))).dlSeq.isNone || (((s.cell (slotHead ws).cell).slotOf (slotHead ws).sfn (slotHead ws).slot (s.slotStart (dMu (s.cell (slotHead ws).cell).desc) (slotHead ws).sfn (slotHead ws).slot)).getD (SlotMsgs.empty (slotHead ws).sfn (slotHead ws).slot (s.slotStart (dMu (s.cell (slotHead ws).cell).desc) (slotHead ws).sfn (slotHead ws).slot))).wantsTb p)).map Pdu.withCrc }))).refusePdus (slotHead ws).cell (slotHead ws) .configInvalid ((judgePdus (s.cell (slotHead ws).cell).desc 3 ps).2 ++ (judgePdus (s.cell (slotHead ws).cell).desc 3 ps).1.filter (fun p => (((s.cell (slotHead ws).cell).slotOf (slotHead ws).sfn (slotHead ws).slot (s.slotStart (dMu (s.cell (slotHead ws).cell).desc) (slotHead ws).sfn (slotHead ws).slot)).getD (SlotMsgs.empty (slotHead ws).sfn (slotHead ws).slot (s.slotStart (dMu (s.cell (slotHead ws).cell).desc) (slotHead ws).sfn (slotHead ws).slot))).dlSeq.isSome && !(((s.cell (slotHead ws).cell).slotOf (slotHead ws).sfn (slotHead ws).slot (s.slotStart (dMu (s.cell (slotHead ws).cell).desc) (slotHead ws).sfn (slotHead ws).slot)).getD (SlotMsgs.empty (slotHead ws).sfn (slotHead ws).slot (s.slotStart (dMu (s.cell (slotHead ws).cell).desc) (slotHead ws).sfn (slotHead ws).slot))).wantsTb p)))) ∧
  (∀ (s : State) (ws : List Word), s.pwr.phase = .running → s.recMode = 0 → (slotHead ws).type = 1 → headOk ws = false ∨ s.msgOk (slotHead ws) (s.slotStart (dMu (s.cell (slotHead ws).cell).desc) (slotHead ws).sfn (slotHead ws).slot) = false ∨ splitPdus (slotHead ws).seq (slotHead ws).npdu (ws.drop 4) = none → Sys2Proof.Machine.exec (.ulConfig ws) s = .next (s.errorInd (slotHead ws).cell (s.cell (slotHead ws).cell).desc (slotHead ws).sfn (slotHead ws).slot 0 1 .configInvalid (slotHead ws).seq 0)) ∧
  (∀ (s : State) (ws : List Word), s.pwr.phase = .running → s.recMode = 0 → (slotHead ws).type = 2 → headOk ws = false ∨ s.msgOk (slotHead ws) (s.slotStart (dMu (s.cell (slotHead ws).cell).desc) (slotHead ws).sfn (slotHead ws).slot) = false ∨ splitPdus (slotHead ws).seq (slotHead ws).npdu (ws.drop 4) = none → Sys2Proof.Machine.exec (.dlConfig ws) s = .next (s.errorInd (slotHead ws).cell (s.cell (slotHead ws).cell).desc (slotHead ws).sfn (slotHead ws).slot 0 2 .configInvalid (slotHead ws).seq 0)) ∧
  (∀ (s : State) (ws : List Word), s.pwr.phase = .running → s.recMode = 0 → (slotHead ws).type = 3 → headOk ws = false ∨ s.msgOk (slotHead ws) (s.slotStart (dMu (s.cell (slotHead ws).cell).desc) (slotHead ws).sfn (slotHead ws).slot) = false ∨ splitPdus (slotHead ws).seq (slotHead ws).npdu (ws.drop 4) = none → Sys2Proof.Machine.exec (.txData ws) s = .next (s.errorInd (slotHead ws).cell (s.cell (slotHead ws).cell).desc (slotHead ws).sfn (slotHead ws).slot 0 3 .configInvalid (slotHead ws).seq 0)) ∧
  (∀ (s : State) (c : CellId) (m : SlotMsgs), (s.cell c.val).slots.filter (fun m => !m.late && m.start ≤ s.now + dTslot (s.cell c.val).desc) = [m] → m.tbs = [] ∧ m.dl = [] → Sys2Proof.Machine.exec (.messageDeadline c) s = .next ((s.updCell c.val (fun x => x.updSlot m.sfn m.slot m.start (fun y => { y with late := true, tbs := y.tbs.filter (m.wantsTb ·) }))).markStale c.val m)) ∧
  (∀ (s : State) (c : CellId) (m : SlotMsgs) (p : Pdu), (s.cell c.val).slots.filter (fun m => !m.late && m.start ≤ s.now + dTslot (s.cell c.val).desc) = [m] → m.tbs = [] ∧ m.dl = [p] → p.kind = 0x11 ∧ p.f 8 1 1 = 0 → Sys2Proof.Machine.exec (.messageDeadline c) s = .next (((s.updCell c.val (fun x => x.updSlot m.sfn m.slot m.start (fun y => { y with late := true, tbs := y.tbs.filter (m.wantsTb ·) }))).noTb c.val m p).markStale c.val m)) ∧
  (∀ (s : State) (c : CellId), (s.cell c.val).slots.all (fun m => m.late || decide (s.now + dTslot (s.cell c.val).desc < m.start)) = true → Sys2Proof.Machine.exec (.messageDeadline c) s = .next s)

/-- At the start of a slot of a cell that is ACTIVE, or DRAINING before its end boundary, and that has not been acted on, the cell's seed is the module radio seed XOR the cell number, its step counter the slot's number, messages more than four slots old (twenty with a PRACH occasion) whose work is done are dropped, each enabled lane context of the cell passes its slot start, and SLOT_IND leaves with the slot. A context that was enabled since the last slot start, or that is FAULTED with no command outstanding and fewer than 4 faulted slots in a row, starts from ENTRY with zero registers; one that ended with HALT goes on from ENTRY with its registers; any other context is only given its new deadline, budget, seed and step. -/
def Obligations.CellSlotStarts : Prop :=
  (∀ (s : State) (c : CellId), ((s.cell c.val).phase = .active ∧ (s.cell c.val).startAt ≤ (s.slotAt (dMu (s.cell c.val).desc) s.now).start) ∨ ((s.cell c.val).phase = .draining ∧ (s.cell c.val).startAt ≤ (s.slotAt (dMu (s.cell c.val).desc) s.now).start ∧ (s.slotAt (dMu (s.cell c.val).desc) s.now).start < (s.cell c.val).endAt) → (s.cell c.val).lastStart ≠ some (s.slotAt (dMu (s.cell c.val).desc) s.now).start → s.recMode = 0 → Sys2Proof.Machine.exec (.cellSlotStart c) s = .next ((foldS (s.cellCtxs c.val) (fun p t => t.slotCtx (s.slotAt (dMu (s.cell c.val).desc) s.now).start c.val p.1 p.2) ({ s with cells := s.cells.set c.val { (s.cell c.val) with lastStart := some (s.slotAt (dMu (s.cell c.val).desc) s.now).start, seed := BitVec.ofNat 64 ((s.inForce (pgSds 4) 0x0E0).toNat + 2 ^ 32 * (s.inForce (pgSds 4) 0x0E4).toNat) ^^^ BitVec.ofNat 64 c.val, stepCtr := BitVec.ofNat 64 (slotNum (dMu (s.cell c.val).desc) (s.slotAt (dMu (s.cell c.val).desc) s.now).sfn (s.slotAt (dMu (s.cell c.val).desc) s.now).slot), ind := [], slots := (s.cell c.val).slots.filter (fun y => s.now < y.start + (if y.ul.any (fun p => p.kind = 3) then 20 else 4) * dTslot (s.cell c.val).desc || (y.ulSeq.isSome && !y.indSent)), syms := (s.cell c.val).syms.filter (fun y => (y.slot + 1024 * slotsPerFrame (dMu (s.cell c.val).desc) - slotNum (dMu (s.cell c.val).desc) (s.slotAt (dMu (s.cell c.val).desc) s.now).sfn (s.slotAt (dMu (s.cell c.val).desc) s.now).slot) % (1024 * slotsPerFrame (dMu (s.cell c.val).desc)) < 16 ∨ 1024 * slotsPerFrame (dMu (s.cell c.val).desc) < (y.slot + 1024 * slotsPerFrame (dMu (s.cell c.val).desc) - slotNum (dMu (s.cell c.val).desc) (s.slotAt (dMu (s.cell c.val).desc) s.now).sfn (s.slotAt (dMu (s.cell c.val).desc) s.now).slot) % (1024 * slotsPerFrame (dMu (s.cell c.val).desc)) + 4) } } : State)).sendSlot c.val (s.cell c.val).desc 0x10 (s.slotAt (dMu (s.cell c.val).desc) s.now).sfn (s.slotAt (dMu (s.cell c.val).desc) s.now).slot .ok [] s.now)) ∧
  (∀ (s : State) (c : CellId), (s.cell c.val).lastStart = some (s.slotAt (dMu (s.cell c.val).desc) s.now).start → Sys2Proof.Machine.exec (.cellSlotStart c) s = .next s) ∧
  (∀ (x : LaneCtx) (e b d : Nat) (seed step : DWord), x.fresh = true → x.slotStart e b d seed step = { LaneCtx.zero with pc := e, state := .ready, fault := x.fault, faultPc := x.faultPc, outst := x.outst, port := x.port, arriving := x.arriving, cdl := d, cdlSet := true, left := b - x.newOvr, ovr := x.newOvr, ranSlot := decide (x.state = .run), faultSlots := (if x.ranSlot && x.state ≠ .faulted then 0 else x.faultSlots), seed := seed, step := step }) ∧
  (∀ (x : LaneCtx) (e b d : Nat) (seed step : DWord), x.fresh = false ∧ x.halted = false → x.state = .faulted → x.outst ≠ 0 ∨ 4 ≤ x.faultSlots → (x.slotStart e b d seed step).state = .faulted ∧ (x.slotStart e b d seed step).pc = x.pc) ∧
  (∀ (x : LaneCtx) (e b d : Nat) (seed step : DWord), x.fresh = false ∧ x.halted = true ∧ x.state ≠ .faulted → (x.slotStart e b d seed step).state = .ready ∧ (x.slotStart e b d seed step).pc = e ∧ (x.slotStart e b d seed step).s = x.s ∧ (x.slotStart e b d seed step).v = x.v ∧ (x.slotStart e b d seed step).ac = x.ac ∧ (x.slotStart e b d seed step).cdl = d ∧ (x.slotStart e b d seed step).left = b - x.newOvr) ∧
  (∀ (x : LaneCtx) (e b d : Nat) (seed step : DWord), x.fresh = false ∧ x.halted = false ∧ x.state ≠ .faulted → x.slotStart e b d seed step = { x with cdl := d, cdlSet := true, left := b - x.newOvr, exh := false, ovr := x.newOvr, newOvr := 0, ovrOpen := x.rep.isSome && decide (b - x.newOvr = 0), late := false, ranSlot := decide (x.state = .run), faultSlots := (if x.ranSlot then 0 else x.faultSlots), seed := seed, step := step })

/-- When a slot with an accepted UL_CONFIG, or in which a PRACH occasion ends, has its indications ready they leave once: RX_DATA with the TBs, CRC_IND with a PDU for every accepted PUSCH PDU, TBOK set where the coding engine decoded the block and the TB that leaves agrees, then the other messages, RACH_IND exactly when an occasion ends in the slot; each with OK or, past the slot's indication deadline and for RX_DATA and CRC_IND after a late handover, DEADLINE_MISSED; a TB that disagrees is counted by the check unit, and a fallback of the learned receiver by its cell. A message to the L2 host carries the cell's next sequence number. On the host path it is written to the queue of the cell modulo 8 when nothing waits there and there is room, and otherwise it waits behind the earlier ones. -/
def Obligations.IndicationsLeave : Prop :=
  (∀ (s : State) (c : CellId) (sfn slot : Nat) (tbs crcs : List (List Word)) (others : List (Nat × List (List Word))) (m : SlotMsgs) (tb : List (List Word)) (dl : Nat), (s.cell c.val).phase ≠ .free → m = ((s.cell c.val).slotOf sfn slot (s.slotStart (dMu (s.cell c.val).desc) sfn slot)).getD (SlotMsgs.empty sfn slot (s.slotStart (dMu (s.cell c.val).desc) sfn slot)) → m.indSent = false ∧ (m.ulSeq.isSome = true ∨ (s.cell c.val).occEnds (s.slotStart (dMu (s.cell c.val).desc) sfn slot) ≠ []) → (tb = (if m.ulSeq.isSome then tbs else [])) → dl = (s.slotStart (dMu (s.cell c.val).desc) sfn slot) + 2 * dTslot (s.cell c.val).desc + 1000 * dUlWin (s.cell c.val).desc → Sys2Proof.Machine.exec (.rxDataEgress c sfn slot tbs crcs others) s = .next (let st (k : Nat) : Code := if dl < s.now ∨ (m.lateHand = true ∧ (k = 0x11 ∨ k = 0x12)) then .deadlineMissed else .ok; foldS ((s.cell c.val).indications m (s.slotStart (dMu (s.cell c.val).desc) sfn slot) tb crcs others) (fun p t => (t.sendSlot c.val (s.cell c.val).desc p.1 sfn slot (st p.1) p.2 dl).updCell c.val (fun y => { y with ind := y.ind ++ bytesOf (slotMsg p.1 c.val sfn slot (t.cell c.val).txSeq (st p.1) p.2) })) (((s.bump (pgChk (tbUnit (s.cell c.val).desc)) 0 (tb.filter (fun t => !tbAgrees t)).length).bump (pgSds 4) (cellIdx c.val 1) ((foundFor ((s.cell c.val).indications m (s.slotStart (dMu (s.cell c.val).desc) sfn slot) tb crcs others) 0x12).filter (fun w => fld (wAt w 2) 10 9 = 2)).length).updCell c.val (fun y => y.updSlot sfn slot (s.slotStart (dMu (s.cell c.val).desc) sfn slot) (fun m => { m with indSent := true }))))) ∧
  (∀ (x : Cell) (m : SlotMsgs) (start : Nat) (tbs crcs : List (List Word)) (others : List (Nat × List (List Word))), (foundFor (x.indications m start tbs crcs others) 0x11 = tbs ∧ foundFor (x.indications m start tbs crcs others) 0x12 = (m.ul.filter (fun p => p.kind = 1)).map (crcPdu m tbs crcs) ∧ ((x.indications m start tbs crcs others).any (fun p => decide (p.1 = 0x14)) = !(x.occEnds start).isEmpty))) ∧
  (∀ (m : SlotMsgs) (tbs crcs : List (List Word)) (p : Pdu) (t : List Word) (ok : Bool) (n : Nat), m.decoded.find? (fun r => r.1 = p.handle) = some (p.handle, ok, n) → tbs.find? (fun t => wAt t 1 = p.handle) = some t → wAt (crcPdu m tbs crcs p) 1 = p.handle ∧ bitOf (wAt (crcPdu m tbs crcs p) 2) 8 = (ok && bitOf (wAt t 2) 18 && tbAgrees t)) ∧
  (∀ (s : State) (c : CellId) (sfn slot : Nat) (tbs crcs : List (List Word)) (others : List (Nat × List (List Word))) (m : SlotMsgs), (s.cell c.val).slotOf sfn slot (s.slotStart (dMu (s.cell c.val).desc) sfn slot) = some m → m.indSent = true → Sys2Proof.Machine.exec (.rxDataEgress c sfn slot tbs crcs others) s = .next s) ∧
  (∀ (s : State) (c : Nat) (d : List Word) (type sfn slot : Nat) (st : Code) (ps : List (List Word)) (dl : Nat), dL2Path d = false → (s.l2q (c % 8)).waiting ≠ [] ∨ s.l2qRoom (c % 8) (4 * (slotMsg type c sfn slot (s.cell c).txSeq st ps).length) = false → s.sendSlot c d type sfn slot st ps dl = { s with cells := s.cells.set c { s.cell c with txSeq := ((s.cell c).txSeq + 1) % 2 ^ 32 }, cxl := { s.cxl with l2q := s.cxl.l2q.set (c % 8) { s.l2q (c % 8) with waiting := (s.l2q (c % 8)).waiting ++ [(c, slotMsg type c sfn slot (s.cell c).txSeq st ps)], held := satAdd (s.l2q (c % 8)).held 1 0xFFFF } } }) ∧
  (∀ (s : State) (c : Nat) (d : List Word) (type sfn slot : Nat) (st : Code) (ps : List (List Word)) (dl : Nat), dL2Path d = false → (s.l2q (c % 8)).waiting = [] → s.l2qRoom (c % 8) (4 * (slotMsg type c sfn slot (s.cell c).txSeq st ps).length) = true → (let u := s.sendSlot c d type sfn slot st ps dl; u.out = .slotMsg c (slotMsg type c sfn slot (s.cell c).txSeq st ps) :: s.out ∧ (u.l2q (c % 8)).outTail = ((s.l2q (c % 8)).outTail + 1) % 65536 ∧ (u.cell c).txSeq = ((s.cell c).txSeq + 1) % 2 ^ 32 ∧ u = { s with cells := s.cells.set c (u.cell c), cxl := { s.cxl with l2q := s.cxl.l2q.set (c % 8) (u.l2q (c % 8)) }, mem := u.mem, out := u.out }))

/-- A U-plane section for a stream of a cell, in its window, within the carrier, on an open symbol and overlapping nothing received is written to the ring, its PRBs are marked present and counter k of the cell rises by their number; a PRACH section goes to the PRACH area. A section that no cell takes is dropped and counted as UL_UNKNOWN; an early or late one, one on a closed symbol and an overlapping one under their own counters. A time-domain message lands through the gain stage. Nothing else changes. -/
def Obligations.UplinkFronthaulLands : Prop :=
  (∀ (s : State) (p : EthPort) (x : USection) (c st sm : Nat) (z : Cell), s.pwr.phase = .running → s.recMode = 0 → s.ulCell p.val x.eaxc = some (c, st) → z = s.cell c → (s.windowCheck z.desc x.sfn x.slot x.sym x.stamp.toNat x.frac).toOption = some sm → dTimeDomain z.desc = false ∧ x.prach = false → x.startPrb + x.prbs.length ≤ dNprb z.desc → (z.symOf (slotNum (dMu z.desc) x.sfn x.slot) x.sym st).closed = false → (z.symOf (slotNum (dMu z.desc) x.sfn x.slot) x.sym st).overlaps x.startPrb x.prbs.length = false → Sys2Proof.Machine.exec (.uplaneSection p x) s = .next (s.landSection p.val c st sm x)) ∧
  (∀ (s : State) (p : EthPort) (x : USection) (c st sm : Nat) (z : Cell), s.pwr.phase = .running → s.recMode = 0 → s.ulCell p.val x.eaxc = some (c, st) → z = s.cell c → (s.windowCheck z.desc x.sfn x.slot x.sym x.stamp.toNat x.frac).toOption = some sm → dTimeDomain z.desc = false ∧ x.prach = true → (z.symOf (slotNum (dMu z.desc) x.sfn x.slot) (14 + x.sym) st).closed = false → (z.symOf (slotNum (dMu z.desc) x.sfn x.slot) (14 + x.sym) st).overlaps x.startPrb x.prbs.length = false → Sys2Proof.Machine.exec (.uplaneSection p x) s = .next (s.landPrach p.val c st sm x)) ∧
  (∀ (s : State) (p : EthPort) (x : USection), s.pwr.phase = .running → s.recMode = 0 → s.ulCell p.val x.eaxc = none → s.mirrored p.val x.eaxc = false → Sys2Proof.Machine.exec (.uplaneSection p x) s = .next (s.bump (pgEth p.val) 0 1)) ∧
  (∀ (s : State) (p : EthPort) (x : USection) (c st i : Nat), s.pwr.phase = .running → s.recMode = 0 → s.ulCell p.val x.eaxc = some (c, st) → ((match s.windowCheck (s.cell c).desc x.sfn x.slot x.sym x.stamp.toNat x.frac with | .error k => some k | .ok _ => none) = some i) → Sys2Proof.Machine.exec (.uplaneSection p x) s = .next (s.bump (pgEth p.val) i 1)) ∧
  (∀ (s : State) (p : EthPort) (x : USection) (c st sm : Nat) (z : Cell), s.pwr.phase = .running → s.recMode = 0 → s.ulCell p.val x.eaxc = some (c, st) → z = s.cell c → (s.windowCheck z.desc x.sfn x.slot x.sym x.stamp.toNat x.frac).toOption = some sm → dTimeDomain z.desc = false ∧ x.prach = false → x.startPrb + x.prbs.length ≤ dNprb z.desc → (z.symOf (slotNum (dMu z.desc) x.sfn x.slot) x.sym st).closed = false → (z.symOf (slotNum (dMu z.desc) x.sfn x.slot) x.sym st).overlaps x.startPrb x.prbs.length = true → Sys2Proof.Machine.exec (.uplaneSection p x) s = .next (s.bump (pgEth p.val) 3 1)) ∧
  (∀ (s : State) (port c st sm : Nat) (x : USection) (d : List Word) (u : UlSymbol), d = (s.cell c).desc → u = (s.cell c).symOf (slotNum (dMu d) x.sfn x.slot) x.sym st → s.landSection port c st sm x = (((s.portPost port (symTag d sm x.sym) .dom0 (ulPrbAt d (ringPos d x.sfn x.slot) x.sym st x.startPrb) (x.prbs.flatMap (storedPrb d))).portPost port (symTag d sm x.sym) .dom0 (ulPresAt d (ringPos d x.sfn x.slot) x.sym st) (presBytes (dNprb d) (fun i => u.has i || (decide (x.startPrb ≤ i) && decide (i < x.startPrb + x.prbs.length))))).updCell c (fun y => y.putSym { u with got := u.got ++ [(x.startPrb, x.prbs.length)] })).cellCtr c x.sym x.prbs.length) ∧
  (∀ (s : State) (p : EthPort) (x : IqMessage) (c st sm : Nat) (z : Cell) (f : Nat), s.pwr.phase = .running → s.recMode = 0 → s.ulCell p.val x.eaxc = some (c, st) → z = s.cell c → (s.windowCheck z.desc x.sfn x.slot x.sym x.stamp.toNat x.frac).toOption = some sm → dTimeDomain z.desc = true → f = cpLen (dMu z.desc) (nfft (dNprb z.desc)) x.slot x.sym - nfft (dNprb z.desc) / 32 → (z.symOf (slotNum (dMu z.desc) x.sfn x.slot) x.sym st).closed = false → (z.symOf (slotNum (dMu z.desc) x.sfn x.slot) x.sym st).overlaps ((overlap x.off x.samples.length f (nfft (dNprb z.desc))).1 - f) (overlap x.off x.samples.length f (nfft (dNprb z.desc))).2 = false → Sys2Proof.Machine.exec (.timeDomainIqMessage p x) s = .next (s.landIq p.val c st sm x)) ∧
  (∀ (s : State) (p : EthPort) (x : IqMessage), s.pwr.phase = .running → s.recMode = 0 → s.ulCell p.val x.eaxc = none → s.mirrored p.val x.eaxc = false → Sys2Proof.Machine.exec (.timeDomainIqMessage p x) s = .next (s.bump (pgEth p.val) 0 1)) ∧
  (∀ (f : Nat) (v : Int), (-32768 ≤ (gainMul f v).1 ∧ (gainMul f v).1 ≤ 32767) ∧ ((gainMul f v).2 = false → 2 * (65536 * (gainMul f v).1 - v * f) ≤ 65536 ∧ -65536 ≤ 2 * (65536 * (gainMul f v).1 - v * f)) ∧ ((gainMul f v).2 = true → (gainMul f v).1 = 32767 ∨ (gainMul f v).1 = -32768))

/-- At U(k) every stream of the cell closes: an O-RAN stream's missing PRBs are written as zeros, its presence says what came, the missing ones are counted in UL_ERASED and in counter k. At the end of a slot a time-domain cell's gain of each stream moves by at most MAXSTEP towards its target, stays within ±24 dB, and stays as it is while frozen or held; samples that are all zero raise it by MAXSTEP; the configuration that a step uses is the one that stood at the slot's start. For a slot with an accepted UL_CONFIG the C-plane of every stream leaves once, with one type 1 section and a type 3 section for each PRACH PDU. -/
def Obligations.UplinkSymbolAndSlotEnd : Prop :=
  (∀ (s : State) (c : CellId) (sfn slot : Nat) (k : Nat) (m : SlotMsgs) (r : Nat × State), (s.cell c.val).phase ≠ .free ∧ dTimeDomain (s.cell c.val).desc = false → (s.cell c.val).slotOf sfn slot (s.slotStart (dMu (s.cell c.val).desc) sfn slot) = some m ∧ m.ulSeq.isSome = true → k < 14 ∧ uClose (s.cell c.val).desc (s.slotStart (dMu (s.cell c.val).desc) sfn slot) k ≤ 14 * s.now → ((s.cell c.val).symOf (slotNum (dMu (s.cell c.val).desc) sfn slot) k 0).closed = false → r.1 = (foldN (dStrUl (s.cell c.val).desc) (fun st (acc : Nat × State) => (acc.1 + (acc.2.closePrbs c.val st sfn slot k).1, (acc.2.closePrbs c.val st sfn slot k).2)) (0, s)).1 → Sys2Proof.Machine.exec (.ulSymbolClose c sfn slot k) s = .next (((foldN (dStrUl (s.cell c.val).desc) (fun st (acc : Nat × State) => (acc.1 + (acc.2.closePrbs c.val st sfn slot k).1, (acc.2.closePrbs c.val st sfn slot k).2)) (0, s)).2.bump (pgSds 4) (cellIdx c.val 0) r.1).cellCtr c.val k r.1)) ∧
  (∀ (s : State) (c : CellId) (sfn slot : Nat) (k : Nat) (m : SlotMsgs), (s.cell c.val).phase ≠ .free ∧ dTimeDomain (s.cell c.val).desc = true → (s.cell c.val).slotOf sfn slot (s.slotStart (dMu (s.cell c.val).desc) sfn slot) = some m ∧ m.ulSeq.isSome = true → k < 14 ∧ uClose (s.cell c.val).desc (s.slotStart (dMu (s.cell c.val).desc) sfn slot) k ≤ 14 * s.now → ((s.cell c.val).symOf (slotNum (dMu (s.cell c.val).desc) sfn slot) k 0).closed = false → Sys2Proof.Machine.exec (.ulSymbolClose c sfn slot k) s = .next (foldN (dStrUl (s.cell c.val).desc) (fun st t => (t.closeSamples c.val st sfn slot k).latchDue c.val st) s)) ∧
  (∀ (s : State) (c : CellId) (sfn slot : Nat) (k : Nat), 14 * s.now < uClose (s.cell c.val).desc (s.slotStart (dMu (s.cell c.val).desc) sfn slot) k → Sys2Proof.Machine.exec (.ulSymbolClose c sfn slot k) s = .next s) ∧
  (∀ (s : State) (c st sfn slot k : Nat) (d : List Word) (u : UlSymbol), d = (s.cell c).desc → u = (s.cell c).symOf (slotNum (dMu d) sfn slot) k st → (s.closePrbs c st sfn slot k).1 = ((List.range (dNprb d)).filter (fun p => !u.has p)).length ∧ (s.closePrbs c st sfn slot k).2.cells = s.cells.set c ((s.cell c).putSym { u with closed := true })) ∧
  (∀ (s : State) (c : CellId) (sfn slot : Nat), (s.cell c.val).phase ≠ .free ∧ dTimeDomain (s.cell c.val).desc = true → (s.slotStart (dMu (s.cell c.val).desc) sfn slot) + dTslot (s.cell c.val).desc ≤ s.now → (s.mirror c.val).state ≠ .armed → Sys2Proof.Machine.exec (.gainSlotEnd c sfn slot) s = .next ((foldN (dStrUl (s.cell c.val).desc) (fun st t => t.latchDue c.val st) s).updCell c.val (fun y => { y with gains := (List.range (dStrUl (s.cell c.val).desc)).map (fun st => (st, (y.gains.get Gain.zero st).slotEnd (s.slotStart (dMu (s.cell c.val).desc) sfn slot) ((s.slotStart (dMu (s.cell c.val).desc) sfn slot) + dTslot (s.cell c.val).desc) ((s.cell c.val).frozenTo (s.slotStart (dMu (s.cell c.val).desc) sfn slot)) (s.reg (pgEth (dPort (s.cell c.val).desc)) 0x010))) }))) ∧
  (∀ (s : State) (c : CellId) (sfn slot : Nat), dTimeDomain (s.cell c.val).desc = false → (s.mirror c.val).state ≠ .armed → Sys2Proof.Machine.exec (.gainSlotEnd c sfn slot) s = .next s) ∧
  (∀ (g : Gain) (start next : Nat) (frz : Option Nat) (w : Word), -96 ≤ g.g ∧ g.g ≤ 96 → (let r := g.slotEnd start next frz w; (-96 ≤ r.g ∧ r.g ≤ 96) ∧ (r.g - g.g ≤ fld g.cfg 11 8 ∧ g.g - r.g ≤ fld g.cfg 11 8) ∧ r.gsum = 0 ∧ r.gcount = 0 ∧ r.cfg = w ∧ r.prev = g.g ∧ r.since = next)) ∧
  (∀ (g : Gain) (start next e : Nat) (w : Word), start ≤ e → (g.slotEnd start next (some e) w).g = g.g ∧ (({ g with holdEnd := some e } : Gain).slotEnd start next none w).g = g.g) ∧
  (∀ (target maxStep count : Nat), 0 < count → gainStep target maxStep 0 count = maxStep) ∧
  (∀ (s : State) (c : CellId) (sfn slot : Nat) (m : SlotMsgs), (s.cell c.val).slotOf sfn slot (s.slotStart (dMu (s.cell c.val).desc) sfn slot) = some m → m.ulSeq.isSome = true ∧ m.ulCplane = false → (s.cell c.val).maySend (s.slotStart (dMu (s.cell c.val).desc) sfn slot) = true → Sys2Proof.Machine.exec (.uplinkCplaneSend c sfn slot) s = .next (foldN (dStrUl (s.cell c.val).desc) (fun st t => foldS (m.ul.filter (fun p => p.kind = 3)) (fun p u => u.takeFree.2.cFrame c.val st false (s.slotStart (dMu (s.cell c.val).desc) sfn slot) (cType3 (s.cell c.val).desc sfn slot p u.takeFree.1)) (t.cFrame c.val st false (s.slotStart (dMu (s.cell c.val).desc) sfn slot) (cType1 (s.cell c.val).desc false sfn slot []))) (s.updCell c.val (fun y => y.updSlot sfn slot (s.slotStart (dMu (s.cell c.val).desc) sfn slot) (fun z => { z with ulCplane := true }))))) ∧
  (∀ (s : State) (c : CellId) (sfn slot : Nat) (m : SlotMsgs), (s.cell c.val).slotOf sfn slot (s.slotStart (dMu (s.cell c.val).desc) sfn slot) = some m → m.ulCplane = true → Sys2Proof.Machine.exec (.uplinkCplaneSend c sfn slot) s = .next s)

/-- For a slot with an accepted DL_CONFIG, the C-plane of every stream leaves once. From E(k) − Tsym on and before E(k), the PRBs of the symbol that are present and not yet sent leave for every stream of an open slot and are noted as sent; with nothing new present, and once the symbol is closed, nothing changes. At E(k) what has become present since is sent in a further section, and the presence of the symbol is cleared; bits set after the position's last close, and those of a slot without a DL_CONFIG, are never sent and are counted as DL_LATE (log entry 111); PRBs of a PDU that transmits nothing are not sent. -/
def Obligations.DownlinkFronthaulLeaves : Prop :=
  (∀ (s : State) (c : CellId) (sfn slot : Nat) (ws : List (List (Nat × Nat × List (Int × Int)))) (m : SlotMsgs), (s.cell c.val).slotOf sfn slot (s.slotStart (dMu (s.cell c.val).desc) sfn slot) = some m → m.dlSeq.isSome = true ∧ m.dlCplane = false → (s.cell c.val).maySend (s.slotStart (dMu (s.cell c.val).desc) sfn slot) = true → Sys2Proof.Machine.exec (.downlinkCplaneSend c sfn slot ws) s = .next (foldN (dStrDl (s.cell c.val).desc) (fun st t => t.cFrame c.val st true (s.slotStart (dMu (s.cell c.val).desc) sfn slot) (cType1 (s.cell c.val).desc true sfn slot (if dMode (s.cell c.val).desc = 1 then ws.getD st [] else []))) (s.updCell c.val (fun y => y.updSlot sfn slot (s.slotStart (dMu (s.cell c.val).desc) sfn slot) (fun z => { z with dlCplane := true }))))) ∧
  (∀ (s : State) (c : CellId) (sfn slot : Nat) (k : Nat), k < 14 → (s.cell c.val).dlShut.contains (slotNum (dMu (s.cell c.val).desc) sfn slot, k) = false → 14 * (s.now : Int) < eClose (s.cell c.val).desc (s.slotStart (dMu (s.cell c.val).desc) sfn slot) k → (s.cell c.val).dlOpen sfn slot (s.slotStart (dMu (s.cell c.val).desc) sfn slot) = true → ((eClose (s.cell c.val).desc (s.slotStart (dMu (s.cell c.val).desc) sfn slot) k - dTslot (s.cell c.val).desc) / 14).toNat ≤ s.now → Sys2Proof.Machine.exec (.dlSymbolSend c sfn slot k) s = .next (foldN (dStrDl (s.cell c.val).desc) (fun st t => t.sendSymbol c.val st sfn slot k (s.slotStart (dMu (s.cell c.val).desc) sfn slot) ((eClose (s.cell c.val).desc (s.slotStart (dMu (s.cell c.val).desc) sfn slot) k - dTslot (s.cell c.val).desc) / 14).toNat true) s)) ∧
  (∀ (s : State) (c : CellId) (sfn slot : Nat) (k : Nat), (s.cell c.val).dlShut.contains (slotNum (dMu (s.cell c.val).desc) sfn slot, k) = true ∨ eClose (s.cell c.val).desc (s.slotStart (dMu (s.cell c.val).desc) sfn slot) k ≤ 14 * (s.now : Int) → Sys2Proof.Machine.exec (.dlSymbolSend c sfn slot k) s = .next s) ∧
  (∀ (s : State) (c : CellId) (sfn slot : Nat) (k : Nat), s.now < ((eClose (s.cell c.val).desc (s.slotStart (dMu (s.cell c.val).desc) sfn slot) k - dTslot (s.cell c.val).desc) / 14).toNat → Sys2Proof.Machine.exec (.dlSymbolSend c sfn slot k) s = .next s) ∧
  (∀ (s : State) (c : CellId) (sfn slot : Nat) (k : Nat), k < 14 → (s.cell c.val).dlShut.contains (slotNum (dMu (s.cell c.val).desc) sfn slot, k) = false → (s.cell c.val).phase ≠ .free → (s.cell c.val).dlOpen sfn slot (s.slotStart (dMu (s.cell c.val).desc) sfn slot) = false → eClose (s.cell c.val).desc (s.slotStart (dMu (s.cell c.val).desc) sfn slot) k ≤ 14 * (s.now : Int) → Sys2Proof.Machine.exec (.dlSymbolClose c sfn slot k) s = .next ((foldN (dStrDl (s.cell c.val).desc) (fun st t => t.clearSymbol c.val st sfn slot k (s.slotStart (dMu (s.cell c.val).desc) sfn slot)) s).updCell c.val (fun y => { y with dlShut := (slotNum (dMu (s.cell c.val).desc) sfn slot, k) :: y.dlShut }))) ∧
  (∀ (s : State) (c : CellId) (sfn slot : Nat) (k : Nat), k < 14 → (s.cell c.val).dlShut.contains (slotNum (dMu (s.cell c.val).desc) sfn slot, k) = false → (s.cell c.val).phase ≠ .free → (s.cell c.val).dlOpen sfn slot (s.slotStart (dMu (s.cell c.val).desc) sfn slot) = true → eClose (s.cell c.val).desc (s.slotStart (dMu (s.cell c.val).desc) sfn slot) k ≤ 14 * (s.now : Int) → Sys2Proof.Machine.exec (.dlSymbolClose c sfn slot k) s = .next ((foldN (dStrDl (s.cell c.val).desc) (fun st t => t.clearSymbol c.val st sfn slot k (s.slotStart (dMu (s.cell c.val).desc) sfn slot)) (foldN (dStrDl (s.cell c.val).desc) (fun st t => t.sendSymbol c.val st sfn slot k (s.slotStart (dMu (s.cell c.val).desc) sfn slot) t.now false) s)).updCell c.val (fun y => { y with dlShut := (slotNum (dMu (s.cell c.val).desc) sfn slot, k) :: y.dlShut }))) ∧
  (∀ (s : State) (c : CellId) (sfn slot : Nat) (k : Nat), (s.cell c.val).dlShut.contains (slotNum (dMu (s.cell c.val).desc) sfn slot, k) = true → Sys2Proof.Machine.exec (.dlSymbolClose c sfn slot k) s = .next s) ∧
  (∀ (s : State) (c st sfn slot k sm first : Nat) (pace : Bool), (∀ p ∈ presList (dNprb (s.cell c).desc) (s.peek .dom0 (dlPresAt s (s.cell c).desc (ringPos (s.cell c).desc sfn slot) k st) 64), (s.cell c).dlSent.contains (slotNum (dMu (s.cell c).desc) sfn slot, k, st, p) = true ∨ (s.cell c).dlStale.contains (slotNum (dMu (s.cell c).desc) sfn slot, k, st, p) = true ∨ (((s.cell c).slotOf sfn slot sm).getD (SlotMsgs.empty sfn slot sm)).blank k p = true) → s.sendSymbol c st sfn slot k sm first pace = s) ∧
  (∀ (s : State) (c st sfn slot k sm first : Nat) (pace : Bool) (p : Nat), p ∈ s.dlPresent c st (ringPos (s.cell c).desc sfn slot) k → (s.cell c).dlStale.contains (slotNum (dMu (s.cell c).desc) sfn slot, k, st, p) = false → (((s.cell c).slotOf sfn slot sm).getD (SlotMsgs.empty sfn slot sm)).blank k p = false → s.hasPoison .dom0 (dlPrbAt s (s.cell c).desc (ringPos (s.cell c).desc sfn slot) k st p) (dlB (s.cell c).desc) = false → ((s.sendSymbol c st sfn slot k sm first pace).cell c).dlSent.contains (slotNum (dMu (s.cell c).desc) sfn slot, k, st, p) = true) ∧
  (∀ (s : State) (c st sfn slot k sm : Nat), s.clearSymbol c st sfn slot k sm = ((s.bump (pgSds 4) (cellIdx c 5) ((s.dlPresent c st (ringPos (s.cell c).desc sfn slot) k).filter (fun p => (match (s.cell c).slotOf sfn slot sm with | some m => m.dlSeq.isNone | none => true) || (s.cell c).dlStale.contains (slotNum (dMu (s.cell c).desc) sfn slot, k, st, p))).length).putDev .dom0 (dlPresAt s (s.cell c).desc (ringPos (s.cell c).desc sfn slot) k st) (List.replicate 64 0#8)).updCell c (fun y => { y with dlSent := y.dlSent.filter (fun e => !(e.1 = slotNum (dMu (s.cell c).desc) sfn slot && e.2.1 = k && e.2.2.1 = st)), dlStale := y.dlStale.filter (fun e => !(e.1 = slotNum (dMu (s.cell c).desc) sfn slot && e.2.1 = k && e.2.2.1 = st)) }))

/-- With no block in progress, the command that the engine's order puts first, if it is of the row's operation, passes its checks and can read its input, starts with its first block in progress: LDEC combines its soft bits into its directory entry, LENC keeps its transport block, PDEC and PENC keep their input. A command that fails a check, or meets an uncorrectable error in its input or its directory, leaves the engine with that code in one record and executes nothing, and the engine goes on with its next command; one that is not of the row's operation is left where it is. -/
def Obligations.CodingCommandsStart : Prop :=
  (∀ (s : State) (g : GroveId) (k : CodeCmd), (s.grove g.val).ceBusy = none → s.codeNext g.val = some k → k.started = false ∧ ccOp k.words = 1 → s.codeCheck g.val k = .ok → (s.loadDev .dom0 (ccIn k.words) (ccInLen k.words)).1 = .ok → (s.loadDev .dom0 (ccIn k.words) (ccInLen k.words)).2.2.hasPoison .dom0 (dSbuf ((s.loadDev .dom0 (ccIn k.words) (ccInLen k.words)).2.2.cell (ccCell k.words)).desc) 32768 = false → Sys2Proof.Machine.exec (.ldec g) s = .next ((s.loadDev .dom0 (ccIn k.words) (ccInLen k.words)).2.2.beginLdec g.val k (s.loadDev .dom0 (ccIn k.words) (ccInLen k.words)).2.1)) ∧
  (∀ (s : State) (g : GroveId) (k : CodeCmd), (s.grove g.val).ceBusy = none → s.codeNext g.val = some k → k.started = false ∧ ccOp k.words = 2 → s.codeCheck g.val k = .ok → (s.loadDev .dom0 (ccIn k.words) (ccInLen k.words)).1 = .ok → (s.loadDev .dom0 (ccIn k.words) (ccInLen k.words)).2.2.hasPoison .dom0 (dSbuf ((s.loadDev .dom0 (ccIn k.words) (ccInLen k.words)).2.2.cell (ccCell k.words)).desc) 32768 = false → Sys2Proof.Machine.exec (.lenc g) s = .next ((s.loadDev .dom0 (ccIn k.words) (ccInLen k.words)).2.2.beginLenc g.val k (s.loadDev .dom0 (ccIn k.words) (ccInLen k.words)).2.1)) ∧
  (∀ (s : State) (g : GroveId) (k : CodeCmd), (s.grove g.val).ceBusy = none → s.codeNext g.val = some k → k.started = false ∧ ccOp k.words = 3 → s.codeCheck g.val k = .ok → (s.loadDev .dom0 (ccIn k.words) (ccInLen k.words)).1 = .ok → Sys2Proof.Machine.exec (.pdec g) s = .next ((s.loadDev .dom0 (ccIn k.words) (ccInLen k.words)).2.2.beginCode g.val { k with coded := [bitsOf (s.loadDev .dom0 (ccIn k.words) (ccInLen k.words)).2.1] } (polarSegs k.words) none)) ∧
  (∀ (s : State) (g : GroveId) (k : CodeCmd), (s.grove g.val).ceBusy = none → s.codeNext g.val = some k → k.started = false ∧ ccOp k.words = 4 → s.codeCheck g.val k = .ok → (s.loadDev .dom0 (ccIn k.words) (ccInLen k.words)).1 = .ok → Sys2Proof.Machine.exec (.penc g) s = .next ((s.loadDev .dom0 (ccIn k.words) (ccInLen k.words)).2.2.beginCode g.val { k with coded := [bitsOf (s.loadDev .dom0 (ccIn k.words) (ccInLen k.words)).2.1] } (polarSegs k.words) none)) ∧
  (∀ (s : State) (g : GroveId) (k : CodeCmd) (c : Code), (s.grove g.val).ceBusy = none → s.codeNext g.val = some k → k.started = false ∧ ccOp k.words = 1 → s.codeCheck g.val k = c ∧ c ≠ .ok → Sys2Proof.Machine.exec (.ldec g) s = .next (s.codeRefuse g.val k c)) ∧
  (∀ (s : State) (g : GroveId) (k : CodeCmd), (s.grove g.val).ceBusy = none → s.codeNext g.val = some k → 2 ≤ ccOp k.words ∧ ccOp k.words ≤ 4 → Sys2Proof.Machine.exec (.ldec g) s = .next s) ∧
  (∀ (s : State) (g : Nat) (k : CodeCmd) (soft : List Byte) (i : Nat) (d : List Word) (sg : Seg), d = (s.cell (ccCell k.words)).desc ∧ sg = segOf k.words → ccNdi k.words = true → s.claimEntry d ((ccKey k.words).getD 0) = some (i, false) → sg.c * sg.ncb ≤ sbSlotSize d → s.beginLdec g k soft = ((((s.putDir d i (dirWords ((ccKey k.words).getD 0) k.words sg s.now32)).putDev .dom0 (sbSlotAddr d i) (List.replicate (sbSlotSize d) 0#8)).combineAll k.words i soft).beginCode g k sg.c (some i))) ∧
  (∀ (s : State) (g : GroveId) (k : CodeCmd), (s.grove g.val).ceBusy = none → s.codeNext g.val = some k → k.started = false ∧ ccOp k.words = 1 → s.codeCheck g.val k = .ok → (s.loadDev .dom0 (ccIn k.words) (ccInLen k.words)).1 = .ok → (s.loadDev .dom0 (ccIn k.words) (ccInLen k.words)).2.2.hasPoison .dom0 (dSbuf ((s.loadDev .dom0 (ccIn k.words) (ccInLen k.words)).2.2.cell (ccCell k.words)).desc) 32768 = true → Sys2Proof.Machine.exec (.ldec g) s = .next ((s.loadDev .dom0 (ccIn k.words) (ccInLen k.words)).2.2.codeRefuse g.val k .tierError)) ∧
  (∀ (s : State) (g : Nat) (k : CodeCmd) (c : Code), s.pastTag (fld (wAt k.words 1) 23 0) = false → (let u := s.codeRefuse g k c; (u.grove g).ceQueue = (s.grove g).ceQueue.filter (fun y => y.seq ≠ k.seq) ∧ (u.lctx k.lane.val k.lctx.val).arriving.length = (s.lctx k.lane.val k.lctx.val).arriving.length + 1 ∧ ((u.lctx k.lane.val k.lctx.val).arriving.getLast?.map (fun r => (fld (wAt r 0) 15 0, fld (wAt r 0) 23 16, fld (wAt r 3) 31 16))) = some (fld (wAt k.words 0) 15 0, codeVal c % 256, ccNcb k.words % 65536) ∧ u = { s with fresh := s.fresh + 1, groves := s.groves.set g (u.grove g), lanes := s.lanes.set k.lane.val (u.lane k.lane.val), cells := u.cells }))

/-- CODE_BLOCK_END stores the finished block in its command, frees the engine, and, after the last block, writes the output and posts the one record of the command; a block whose soft bits hold an uncorrectable error ends the command with TIER_ERROR; the engine then goes on with a command in progress if that is next. HARQ_LOCK_RELEASE clears the LOCK of an entry whose user is done. SOFT_BUFFER_RELEASE of a draining cell, when no claim is accepted and no entry is locked, marks its soft buffers released. -/
def Obligations.CodeBlocksEnd : Prop :=
  (∀ (s : State) (g : GroveId) (k : CodeCmd), (s.grove g.val).ceQueue.find? (fun y => decide ((s.grove g.val).ceBusy = some y.seq)) = some k → s.blockPoisoned k = false → ((if ccOp k.words = 1 then s.decodeBlock k else if ccOp k.words = 2 then encodeBlock k else polarBlock k).next < (if ccOp k.words = 1 then s.decodeBlock k else if ccOp k.words = 2 then encodeBlock k else polarBlock k).blocks) → Sys2Proof.Machine.exec (.codeBlockEnd g) s = .next (({ s with groves := s.groves.set g.val { s.grove g.val with ceQueue := (s.grove g.val).ceQueue.map (fun y => if y.seq = (if ccOp k.words = 1 then s.decodeBlock k else if ccOp k.words = 2 then encodeBlock k else polarBlock k).seq then (if ccOp k.words = 1 then s.decodeBlock k else if ccOp k.words = 2 then encodeBlock k else polarBlock k) else y), ceBusy := none } } : State).codeTake g.val)) ∧
  (∀ (s : State) (g : GroveId) (k : CodeCmd), (s.grove g.val).ceQueue.find? (fun y => decide ((s.grove g.val).ceBusy = some y.seq)) = some k → s.blockPoisoned k = false → ((if ccOp k.words = 1 then s.decodeBlock k else if ccOp k.words = 2 then encodeBlock k else polarBlock k).blocks ≤ (if ccOp k.words = 1 then s.decodeBlock k else if ccOp k.words = 2 then encodeBlock k else polarBlock k).next) → Sys2Proof.Machine.exec (.codeBlockEnd g) s = .next ((({ s with groves := s.groves.set g.val { s.grove g.val with ceQueue := (s.grove g.val).ceQueue.map (fun y => if y.seq = (if ccOp k.words = 1 then s.decodeBlock k else if ccOp k.words = 2 then encodeBlock k else polarBlock k).seq then (if ccOp k.words = 1 then s.decodeBlock k else if ccOp k.words = 2 then encodeBlock k else polarBlock k) else y), ceBusy := none } } : State).endCode g.val (if ccOp k.words = 1 then s.decodeBlock k else if ccOp k.words = 2 then encodeBlock k else polarBlock k)).codeTake g.val)) ∧
  (∀ (s : State) (g : GroveId) (k : CodeCmd), (s.grove g.val).ceQueue.find? (fun y => decide ((s.grove g.val).ceBusy = some y.seq)) = some k → s.blockPoisoned k = true → Sys2Proof.Machine.exec (.codeBlockEnd g) s = .next ((s.codeRecord g.val k .tierError false k.ac).codeTake g.val)) ∧
  (∀ (s : State) (g : GroveId), (s.grove g.val).ceBusy = none → Sys2Proof.Machine.exec (.codeBlockEnd g) s = .next s) ∧
  (∀ (s : State) (c : CellId) (e : Nat), (s.cell c.val).phase ≠ .free ∧ e < 1024 → s.entryBusy c.val e = false → bitOf (wAt (s.dirEntry (s.cell c.val).desc e) 0) 22 = true → Sys2Proof.Machine.exec (.harqLockRelease c e) s = .next (s.putDir (s.cell c.val).desc e (setAt (s.dirEntry (s.cell c.val).desc e) 0 (setBitTo (wAt (s.dirEntry (s.cell c.val).desc e) 0) 22 false)))) ∧
  (∀ (s : State) (c : CellId) (e : Nat), s.entryBusy c.val e = true → Sys2Proof.Machine.exec (.harqLockRelease c e) s = .next s) ∧
  (∀ (s : State) (c : CellId), (s.cell c.val).phase = .draining ∧ (s.cell c.val).sbFree = false → (s.cell c.val).forced = false ∧ s.claimsShut c.val = true → (List.range 1024).all (fun i => !bitOf (wAt (s.dirEntry (s.cell c.val).desc i) 0) 22) = true → ∃ u, Sys2Proof.Machine.exec (.softBufferRelease c) s = .next u ∧ ((u.cell c.val).sbFree = true) ∧ (u.cells = s.cells.set c.val { (s.cell c.val) with sbFree := true }) ∧ (u.tiles = s.tiles ∧ u.groves = s.groves ∧ u.lanes.length = s.lanes.length))

/-- The coded bits Er of the C blocks of a transport block add up to G whenever G is a multiple of the layers times the modulation order, and block r begins where the blocks before it end. Adding soft bits into a slot keeps every value within −127 to 127 and keeps the number of values. -/
def Obligations.RateMatchingAndCombining : Prop :=
  (∀ (ws : List Word) (n : Nat), 0 < n → 0 < ccNl ws ∧ 0 < ccQm ws → ccG ws % (ccNl ws * ccQm ws) = 0 → ((List.range n).map (blockE ws n)).sum = ccG ws) ∧
  (∀ (ws : List Word) (n r : Nat), blockOff ws n (r + 1) = blockOff ws n r + blockE ws n r ∧ blockOff ws n 0 = 0) ∧
  (∀ (g : Seg) (ws : List Word) (soft : List Byte) (r : Nat) (held : List Int), (∀ v ∈ held, -127 ≤ v ∧ v ≤ 127) → (combineBlock g ws soft r held).length = held.length ∧ ∀ v ∈ combineBlock g ws soft r held, -127 ≤ v ∧ v ≤ 127)

/-- At a plan period boundary, and once in each plan period, the drains that lasted through the ended period are charged, its events stand for the next one, the plan that was fixed comes into force: a STANDBY tile of it is LENT, a STANDBY or LENT tile outside it drains, and no other state of a tile changes hands; the next plan has NEED = the demand of the next period over 900 mt, rounded up, and borrows, in the order of selection, as many tiles as NEED exceeds what domain 0 holds, as far as there are any. REQUEST_LATE marks the request at the holding point, be it a tile or deck or coding queue, a lane, a request context, a page's waiters, an arbitration point or a transmit wheel, when its key has reached −2^22 and changes nothing else; the key of a LATE request is −2^22, and no key is lower. -/
def Obligations.PlanPeriodsHandTilesOver : Prop :=
  (∀ (s : State) (d : DieId), (s.slotAt (s.sched d.val).pmu s.now).start ≠ (s.sched d.val).boundary → Sys2Proof.Machine.exec (.planPeriodBoundary d) s = .next ((((s.overrunPeriod d.val).sdsPeriod d.val).handOver d.val).fixPlan d.val)) ∧
  (∀ (s : State) (d : DieId), (s.slotAt (s.sched d.val).pmu s.now).start = (s.sched d.val).boundary → Sys2Proof.Machine.exec (.planPeriodBoundary d) s = .next s) ∧
  (∀ (s : State) (d t : Nat), d < 4 ∧ t / 256 = d → (s.handOver d).tile t = (if (s.tile t).sched = .standby then { s.tile t with sched := if (s.sched d).plan.contains t then .lent else .drain } else if (s.tile t).sched = .lent ∧ (s.sched d).plan.contains t = false then { s.tile t with sched := .drain } else s.tile t)) ∧
  (∀ (s : State) (d : Nat), (let u := s.handOver d; (u.sched d).cur = (s.sched d).plan ∧ u = { s with tiles := u.tiles, ctxs := u.ctxs, scheds := s.scheds.set d { s.sched d with cur := (s.sched d).plan } } ∧ ∀ t, t / 256 ≠ d → u.tile t = s.tile t)) ∧
  (∀ (s : State) (d : Nat), (let u := s.sdsPeriod d; u.evtRaw (pgSds d) = w32 (s.sched d).raisedNow ∧ (u.sched d).raisedNow = 0)) ∧
  (∀ (s : State) (d : Nat) (mu start : Nat), (mu = (if (s.slotAt (s.sched d).pmu s.now).slot = 0 then s.dieMu d else (s.sched d).pmu)) → start = (s.slotAt mu s.now).start → (let u := s.fixPlan d; (u.sched d).need = cdiv (s.demand d (start + tSlot mu)) 900 ∧ (u.sched d).plan = (s.borrowList d).take (cdiv (s.demand d (start + tSlot mu)) 900 - s.ownTiles d) ∧ (u.sched d).borrow = (u.sched d).plan.length ∧ (u.sched d).boundary = start ∧ (u.sched d).pmu = mu ∧ (u.sched d).cur = (s.sched d).cur)) ∧
  (∀ (s : State) (t : TileId) (n : Nat) (c : TileCmd), (s.tile t.val).queue[n]? = some c → s.tooLate (cmdDeadline c.words) = true → Sys2Proof.Machine.exec (.requestLate (.tile t n)) s = .next { s with tiles := s.tiles.set t.val { s.tile t.val with queue := (s.tile t.val).queue.set n { c with late := true } } }) ∧
  (∀ (s : State) (l : LaneId) (c : LaneCtxId), s.tooLate (s.lctx l.val c.val).cdl = true → (s.lctx l.val c.val).wait ≠ .issue → Sys2Proof.Machine.exec (.requestLate (.lane l c)) s = .next (s.setLctx l.val c.val { s.lctx l.val c.val with late := true })) ∧
  (∀ (s : State) (g : GroveId) (n : Nat) (c : DeckCmd), (s.grove g.val).deckWait[n]? = some c → s.tooLate (cmdDeadline c.words) = true → Sys2Proof.Machine.exec (.requestLate (.deck g n)) s = .next { s with groves := s.groves.set g.val { s.grove g.val with deckWait := (s.grove g.val).deckWait.set n { c with late := true } } }) ∧
  (∀ (s : State) (g : GroveId) (n : Nat) (c : CodeCmd), (s.grove g.val).ceQueue[n]? = some c → s.tooLate (cmdDeadline c.words) = true → Sys2Proof.Machine.exec (.requestLate (.code g n)) s = .next { s with groves := s.groves.set g.val { s.grove g.val with ceQueue := (s.grove g.val).ceQueue.set n { c with late := true } } }) ∧
  (∀ (s : State) (pt n : Nat) (r : ArbReq), (s.arb.get [] pt)[n]? = some r → s.tooLate r.tag = true → Sys2Proof.Machine.exec (.requestLate (.slot pt n)) s = .next { s with arb := s.arb.set pt ((s.arb.get [] pt).set n { r with late := true }) }) ∧
  (∀ (s : State) (pk n : Nat) (w : Waiter), (s.home pk).waiters[n]? = some w → s.tooLate w.tag = true → Sys2Proof.Machine.exec (.requestLate (.waiter pk n)) s = .next { s with mems := { s.mems with homes := s.mems.homes.set pk { s.home pk with waiters := (s.home pk).waiters.set n { w with late := true } } } }) ∧
  (∀ (s : State) (p : EthPort) (n : Nat) (f : EgressFrame), (s.ethp p.val).wheel[n]? = some f → s.tooLate (tagOf f.deadline) = true → Sys2Proof.Machine.exec (.requestLate (.frame p n)) s = .next { s with eth := s.eth.set p.val { s.ethp p.val with wheel := (s.ethp p.val).wheel.set n { f with late := true } } }) ∧
  (∀ (s : State) (k : ReqId), (s.ctx k.val).state ≠ .free → s.tooLate (s.ctx k.val).tag = true → Sys2Proof.Machine.exec (.requestLate (.req k)) s = .next { s with ctxs := s.ctxs.set k.val { s.ctx k.val with late := true } }) ∧
  (∀ (s : State) (l : LaneId) (c : LaneCtxId), s.tooLate (s.lctx l.val c.val).cdl = false → (s.lctx l.val c.val).wait ≠ .issue → Sys2Proof.Machine.exec (.requestLate (.lane l c)) s = .next s) ∧
  (∀ (s : State) (l : LaneId) (c : LaneCtxId), (s.lctx l.val c.val).wait = .issue → s.tooLate (s.issueTag l.val c.val) = true ∧ s.tooLate (s.lctx l.val c.val).cdl = false → ∃ u, Sys2Proof.Machine.exec (.requestLate (.lane l c)) s = .next u ∧ ((u.lctx l.val c.val) = { s.lctx l.val c.val with issueLate := true }) ∧ (u = s.setLctx l.val c.val (u.lctx l.val c.val))) ∧
  (∀ (s : State) (n : Nat) (m : Move), s.mems.moves[n]? = some m → s.tooLate m.tag = true → Sys2Proof.Machine.exec (.requestLate (.move n)) s = .next { s with mems := { s.mems with moves := s.mems.moves.set n { m with late := true } } }) ∧
  (∀ (s : State) (n : Nat) (q : PortReq), s.mems.held[n]? = some q → s.tooLate q.tag = true → Sys2Proof.Machine.exec (.requestLate (.port n)) s = .next { s with mems := { s.mems with held := s.mems.held.set n { q with late := true } } }) ∧
  (∀ (s : State) (sp : Space) (n : Nat) (u0 : Unacked), (s.fstream (spaceIdx sp)).unacked[n]? = some u0 → s.tooLate u0.seg.tag = true → Sys2Proof.Machine.exec (.requestLate (.unacked sp n)) s = .next (s.setFstream (spaceIdx sp) { s.fstream (spaceIdx sp) with unacked := (s.fstream (spaceIdx sp)).unacked.set n { u0 with seg := { u0.seg with late := true } } })) ∧
  (∀ (s : State) (a b : Nat) (l : Bool), s.tagKey a true = -(2 ^ 22) ∧ -(2 ^ 22) ≤ s.tagKey b l ∧ s.tagKey b l < 2 ^ 23)

/-- SPILL_COMPLETE of a tile that was last written by an instance keeps store, queue, flights and a bank stopped inside a block as that instance's image, and scrubs the tile; with a key that is gone or a tier error the image is lost. A tile that no instance wrote is only scrubbed. TILE_RETURN_START of a draining tile with no command left scrubs it. RESTORE_COMPLETE gives the tile its image back, with HELD standing until RESUME, or, where the image was dropped, leaves the tile scrubbed. -/
def Obligations.SpillReturnRestore : Prop :=
  (∀ (s : State) (t : TileId) (e : Bool), (s.tile t.val).sched = .spill → (s.tile t.val).lastInst = none → (s.tile t.val).holder = none → bitOf (s.evtRaw (pgTile t.val)) 2 = false → Sys2Proof.Machine.exec (.spillComplete t e) s = .next { s with tiles := s.tiles.set t.val { (s.tile t.val) with scrub := true, held := false, preq := false, saving := false, xferPoint := false, bank := none, queue := [], flights := [], saved := none, sched := .scrubIn } }) ∧
  (∀ (s : State) (t : TileId) (i : Nat), (s.tile t.val).sched = .spill → (s.tile t.val).lastInst = some i → s.issuerOk (spaceOf i) = true → bitOf (s.evtRaw (pgTile t.val)) 2 = false → ∃ u, Sys2Proof.Machine.exec (.spillComplete t false) s = .next u ∧ (u.tile t.val = { (s.tile t.val) with scrub := true, held := false, preq := false, saving := false, xferPoint := false, bank := none, queue := [], flights := [], saved := none, sched := .scrubIn, image := some { store := (s.tile t.val).store, save := { queue := (s.tile t.val).queue, flights := (s.tile t.val).flights.map (fun f => { f with waits := false }), bank := (s.tile t.val).bank }, inst := i }, imageLost := false }) ∧ (u = { s with tiles := s.tiles.set t.val (u.tile t.val), ctxs := u.ctxs, mems := { s.mems with homes := u.mems.homes, objects := u.mems.objects, dstalls := u.mems.dstalls }, out := u.out }) ∧ (.spillWrite i t.val (s.spillCipher i t.val ((s.tile t.val).store.readN 0 524288)) ∈ u.out) ∧ ((s.tile t.val).holder = none ∧ (s.tile t.val).queue = [] ∧ (s.tile t.val).flights = [] → u.ctxs = s.ctxs)) ∧
  (∀ (s : State) (t : TileId) (i : Nat) (e : Bool), (s.tile t.val).sched = .spill → (s.tile t.val).lastInst = some i → s.issuerOk (spaceOf i) = false ∨ e = true → (s.tile t.val).live = none → bitOf (s.evtRaw (pgTile t.val)) 2 = false → ∃ u, Sys2Proof.Machine.exec (.spillComplete t e) s = .next u ∧ ((u.tile t.val).image = none ∧ (u.tile t.val).imageLost = true ∧ (u.tile t.val).sched = .scrubIn) ∧ (u = { s with tiles := s.tiles.set t.val (u.tile t.val), ctxs := u.ctxs, mems := { s.mems with homes := u.mems.homes, objects := u.mems.objects, dstalls := u.mems.dstalls } })) ∧
  (∀ (s : State) (t : TileId), (s.tile t.val).sched = .drain ∧ (s.tile t.val).queue = [] ∧ (s.tile t.val).flights = [] → (s.sched (t.val / 256)).cur.contains t.val = true → (s.tile t.val).suspect = false → (s.tile t.val).holder = none → bitOf (s.evtRaw (pgTile t.val)) 2 = false → Sys2Proof.Machine.exec (.tileReturnStart t) s = .next { s with tiles := s.tiles.set t.val { (s.tile t.val) with scrub := true, held := false, preq := false, saving := false, xferPoint := false, bank := none, saved := none, sched := .scrubOut } }) ∧
  (∀ (s : State) (t : TileId), (s.tile t.val).sched = .drain ∧ (s.tile t.val).queue ≠ [] → Sys2Proof.Machine.exec (.tileReturnStart t) s = .next s) ∧
  (∀ (s : State) (t : TileId) (g : SpillImage), (s.tile t.val).sched = .restore ∧ (s.tile t.val).image = some g → (s.tile t.val).dropImage = false → ∃ u, Sys2Proof.Machine.exec (.restoreComplete t) s = .next u ∧ (u.tile t.val = { (s.tile t.val) with sched := .none, image := none, imageLost := false, held := true, saved := some g.save, store := g.store, queue := g.save.queue, flights := g.save.flights, bank := g.save.bank, lastInst := some g.inst }) ∧ (bitOf (u.evtRaw (pgTile t.val)) 2 = true) ∧ (u = { s with tiles := s.tiles.set t.val (u.tile t.val), ctxs := u.ctxs, regs := { s.regs with evtRaw := u.regs.evtRaw, evtPend := u.regs.evtPend, pba := u.regs.pba }, out := u.out }) ∧ ((s.tile t.val).holder = none → u.ctxs = s.ctxs) ∧ (∀ q, pageKey q ≠ pageKey (pgTile t.val) → u.evtRaw q = s.evtRaw q ∧ u.evtPend q = s.evtPend q)) ∧
  (∀ (s : State) (t : TileId) (g : SpillImage), (s.tile t.val).sched = .restore ∧ (s.tile t.val).image = some g → (s.tile t.val).dropImage = true → ∃ u, Sys2Proof.Machine.exec (.restoreComplete t) s = .next u ∧ (u.tile t.val = { (s.tile t.val) with sched := .none, image := none, dropImage := false }) ∧ (u = { s with tiles := s.tiles.set t.val (u.tile t.val), ctxs := u.ctxs }) ∧ ((s.tile t.val).holder = none → u.ctxs = s.ctxs))

/-- A write of FBK_MAPADDR clears LOADED, and the copy's end sets it with the map read as the pending image, or marks the image unreadable. A commit of the map page, a domain page or the group register while admission is busy, a map copy is in progress or another commit waits is held behind those before it. One that nothing holds is checked: if a condition of R310 fails, the code that ranks first is its status and nothing else changes; otherwise the map and the registers come into force together. HELD_COMMIT_APPLY applies the oldest held commit once nothing holds it. -/
def Obligations.FirebreakMapAndCommits : Prop :=
  (∀ (s : State) (v : Word), s.pwr.phase = .running → s.recMode = 0 → Sys2Proof.Machine.exec (.fbkMapaddrWrite v) s = .next { s with regs := { s.regs with raw := s.regs.raw.set (regKey pgMap 0x0C0) (v &&& 0x0FFFFFFF) }, fbk := { s.fbk with loaded := false } }) ∧
  (∀ (s : State) (r : Code × List Byte), s.fbk.loaded = false → r = ((s.loadDev .dom0 (fld (s.reg pgMap 0x0C0) 27 0 * 4096) 1024).1, (s.loadDev .dom0 (fld (s.reg pgMap 0x0C0) 27 0 * 4096) 1024).2.1) → r.1 = .ok → ∃ u, Sys2Proof.Machine.exec (.mapCopyComplete) s = .next u ∧ u.fbk = { s.fbk with loaded := true, bad := false, image := Memory.writeN 0 r.2 [] }) ∧
  (∀ (s : State) (p : Fin 65), s.pwr.phase = .running → s.recMode = 0 → s.coord.busy = true ∨ s.fbk.held ≠ [] → Sys2Proof.Machine.exec (.firebreakCommit p) s = .next { s with fbk := { s.fbk with held := s.fbk.held ++ [if p.val = 64 then .mapPage else .domPage p.val] } }) ∧
  (∀ (s : State)  (c : Code), s.pwr.phase = .running → s.recMode = 0 → s.coord.busy = false ∧ s.fbk.held = [] ∧ s.fbk.loaded = true ∧ s.testHeld = false → c = codePick (s.commitCodes (s.candidate s.fbk.image (List.range 64)) s.fbk.bad) → c ≠ .ok → Sys2Proof.Machine.exec (.firebreakCommit 64) s = .next { s with fbk := { s.fbk with status := c } }) ∧
  (∀ (s : State), s.pwr.phase = .running → s.recMode = 0 → s.coord.busy = false ∧ s.fbk.held = [] ∧ s.fbk.loaded = true ∧ s.testHeld = false → codePick (s.commitCodes (s.candidate s.fbk.image (List.range 64)) s.fbk.bad) = .ok → Sys2Proof.Machine.exec (.firebreakCommit 64) s = .next (((foldN 64 (fun d t => t.applyDomain d) ({ s with fbk := { s.fbk with status := .ok } } : State)).applyShadow pgMap).applyMap s.fbk.image)) ∧
  (∀ (s : State) (p : Fin 65), s.pwr.phase = .running → s.recMode = 0 → p.val < 64 → s.coord.busy = false ∧ s.fbk.held = [] ∧ s.fbk.loaded = true → codePick (s.commitCodes (s.candidate s.fbk.map [p.val]) s.fbk.bad) = .ok → Sys2Proof.Machine.exec (.firebreakCommit p) s = .next ((let t := ({ s with fbk := { s.fbk with status := .ok } } : State).applyDomain p.val; ({ t with fbk := { t.fbk with image := t.fbk.map } } : State)).overAll)) ∧
  (∀ (s : State) (v : Word), s.pwr.phase = .running → s.recMode = 0 → bitOf v 0 = true → s.coord.busy = false ∧ s.fbk.held = [] ∧ s.fbk.loaded = true ∧ s.testHeld = false → codePick (s.commitCodes (s.candidate s.fbk.image (List.range 64)) s.fbk.bad) = .ok → Sys2Proof.Machine.exec (.groupCommit v) s = .next ((foldN 5 (fun i t => t.applyShadow (pgSds i)) (((foldN 64 (fun d t => t.applyDomain d) ({ s with coord := { s.coord with gstatus := .ok } } : State)).applyShadow pgMap).applyMap s.fbk.image)).reproEnd s)) ∧
  (∀ (s : State) (h : HeldCommit) (rest : List HeldCommit), s.fbk.held = h :: rest → s.commitHeld h = false → Sys2Proof.Machine.exec (.heldCommitApply) s = .next (({ s with fbk := { s.fbk with held := rest } } : State).commitNow h)) ∧
  (∀ (s : State) (h : HeldCommit) (rest : List HeldCommit), s.fbk.held = h :: rest → s.commitHeld h = true → Sys2Proof.Machine.exec (.heldCommitApply) s = .next s) ∧
  (∀ (s : State) (m : Memory), (s.applyMap m).fbk.map = m ∧ (s.applyMap m).fbk.image = m) ∧
  (∀ (s : State) (d : Fin 64) (pt : Nat), d.val ≠ 0 → shapeRate (s.inForce (pgFbk d.val) 0x0C4) ≠ 0 → pt < ckxPoint 0 ∨ (ckxPoint 12 ≤ pt ∧ pt < 2 ^ 20) → ∃ u, Sys2Proof.Machine.exec (.shapingRefill d pt) s = .next u ∧ (u.bucket d.val pt = min (1024 * shapeBurst (s.inForce (pgFbk d.val) 0x0C4)) (s.bucket d.val pt + shapeRate (s.inForce (pgFbk d.val) 0x0C4))) ∧ (u = { s with shape := s.shape.set (d.val * 2 ^ 20 + pt) (u.bucket d.val pt) })) ∧
  (∀ (s : State) (d : Fin 64) (pt : Nat), d.val ≠ 0 → shapeRate (s.inForce (pgFbk d.val) 0x0C4) ≠ 0 → ckxPoint 0 ≤ pt ∧ pt < ckxPoint 12 → Sys2Proof.Machine.exec (.shapingRefill d pt) s = .next (foldN 4096 (fun i t => if h : i < 4096 then (if (t.inst i).domain = d.val then State.fqIssue (.inst ⟨i, h⟩) 1026 t else t) else t) ({ s with shape := s.shape.set (d.val * 2 ^ 20 + pt) (min (1024 * shapeBurst (s.inForce (pgFbk d.val) 0x0C4)) (s.bucket d.val pt + shapeRate (s.inForce (pgFbk d.val) 0x0C4))) } : State)))

/-- A doorbell within the ring moves the tail, one outside is ignored and counted. While fetching goes on, the entry at the head is copied, the head advances and the command runs: NOP draws EMPTY; RUN for an open job with quota and a free context opens that context READY with its tag, order, arguments, seed and step; without quota, fetching pauses and the entry stays; OPEN_JOB that passes its checks opens the job; CANCEL ends the oldest matching context, or draws EMPTY; CLOSE_JOB and RESTART end the contexts of an open job. A refused entry draws CONFIG_INVALID. Fetching resumes when nothing holds it. A head write of the result queue frees entries for waiting records. -/
def Obligations.CommandQueuesAndJobs : Prop :=
  (∀ (s : State) (i : InstId) (v : Word), s.pwr.phase = .running → (s.inst i.val).phase = .active → idxGap (s.inst i.val).cqHead (fld v 15 0) ≤ s.ringLen (pgMbx i.val) 0x100 → idxGap (s.inst i.val).cqHead (s.ringIdx (pgMbx i.val) 0x100) ≤ idxGap (s.inst i.val).cqHead (fld v 15 0) → Sys2Proof.Machine.exec (.cqDoorbell i v) s = .next { s with regs := { s.regs with raw := s.regs.raw.set (regKey (pgMbx i.val) 0x10C) (w32 (fld v 15 0)) } }) ∧
  (∀ (s : State) (i : InstId) (v : Word), s.pwr.phase = .running → (s.inst i.val).phase = .active → s.ringLen (pgMbx i.val) 0x100 < idxGap (s.inst i.val).cqHead (fld v 15 0) → Sys2Proof.Machine.exec (.cqDoorbell i v) s = .next (s.bump (pgMbx i.val) 1 1)) ∧
  (∀ (s : State) (i : InstId) (ws : List Word), (s.cqEntry i.val).map (·.1) = some ws → s.replayed 2 = false → fld (wAt ws 0) 3 0 = 0 → cqOk0 ws = true ∧ zeroFrom ws 1 = true → Sys2Proof.Machine.exec (.cqNop i) s = .next (((((s.cqEntry i.val).map (·.2)).getD s).cqTake i.val ws).simpleRec i.val 0 (cqTicket ws) .empty 0 0)) ∧
  (∀ (s : State) (i : InstId) (ws : List Word) (o : Nat), (s.cqEntry i.val).map (·.1) = some ws → s.replayed 2 = false → fld (wAt ws 0) 3 0 = o ∧ 6 ≤ o → Sys2Proof.Machine.exec (.cqNop i) s = .next (((((s.cqEntry i.val).map (·.2)).getD s).cqTake i.val ws).simpleRec i.val o (cqTicket ws) .configInvalid 0 0)) ∧
  (∀ (s : State) (i : InstId) (ws : List Word), (s.cqEntry i.val).map (·.1) = some ws → s.replayed 2 = true → fld (wAt ws 0) 3 0 = 1 → Sys2Proof.Machine.exec (.run i) s = .next (((((s.cqEntry i.val).map (·.2)).getD s).cqTake i.val ws).liveDrop)) ∧
  (∀ (s : State) (i : InstId) (ws : List Word) (j : Job), (s.cqEntry i.val).map (·.1) = some ws → s.replayed 2 = false → fld (wAt ws 0) 3 0 = 1 → s.recMode = 0 → j = (((s.cqEntry i.val).map (·.2)).getD s).job i.val (cqJob ws) → cqOk0 ws = true ∧ fld (wAt ws 1) 15 4 = 0 ∧ fld (wAt ws 6) 31 16 = 0 ∧ zeroFrom ws 12 = true → j.isOpen = true ∧ j.closing = none ∧ j.restart = none → (((s.cqEntry i.val).map (·.2)).getD s).openCtxs i.val < ((((s.cqEntry i.val).map (·.2)).getD s).inst i.val).quota → (((s.cqEntry i.val).map (·.2)).getD s).poolTurn i.val = true ∧ (((s.cqEntry i.val).map (·.2)).getD s).pickCtx.isSome = true → ∃ u, Sys2Proof.Machine.exec (.run i) s = .next u ∧ (u.ctx (((((s.cqEntry i.val).map (·.2)).getD s).pickCtx.map (·.1)).getD 0) = { ReqCtx.free with state := .ready, inst := i.val, job := cqJob ws, ticket := cqTicket ws, tag := (tagOf (((s.cqEntry i.val).map (·.2)).getD s).now + (((s.cqEntry i.val).map (·.2)).getD s).drel ((((s.cqEntry i.val).map (·.2)).getD s).inst i.val).cls) % 2 ^ 24, order := (((s.cqEntry i.val).map (·.2)).getD s).fbk.accepted, arg := (wAt ws 2).toNat + 2 ^ 32 * (wAt ws 3).toNat, kvlist := (wAt ws 4).toNat + 2 ^ 32 * (wAt ws 5).toNat, kvlen := fld (wAt ws 6) 15 0, limit := (wAt ws 7).toNat, seed := BitVec.ofNat 64 ((wAt ws 8).toNat + 2 ^ 32 * (wAt ws 9).toNat), step := BitVec.ofNat 64 ((wAt ws 10).toNat + 2 ^ 32 * (wAt ws 11).toNat), pc := fld (wAt ws 1) 31 16, openedAt := (((s.cqEntry i.val).map (·.2)).getD s).now }) ∧ ((s.ctx (((((s.cqEntry i.val).map (·.2)).getD s).pickCtx.map (·.1)).getD 0)).state = .free) ∧ (u = { (((s.cqEntry i.val).map (·.2)).getD s) with fresh := (((s.cqEntry i.val).map (·.2)).getD s).fresh + 1, insts := (((s.cqEntry i.val).map (·.2)).getD s).insts.set i.val { (((s.cqEntry i.val).map (·.2)).getD s).inst i.val with cqHead := (((((s.cqEntry i.val).map (·.2)).getD s).inst i.val).cqHead + 1) % 65536 }, ctxs := (((s.cqEntry i.val).map (·.2)).getD s).ctxs.set (((((s.cqEntry i.val).map (·.2)).getD s).pickCtx.map (·.1)).getD 0) (u.ctx (((((s.cqEntry i.val).map (·.2)).getD s).pickCtx.map (·.1)).getD 0)), fbk := { (((s.cqEntry i.val).map (·.2)).getD s).fbk with accepted := (((s.cqEntry i.val).map (·.2)).getD s).fbk.accepted + 1 } })) ∧
  (∀ (s : State) (i : InstId) (ws : List Word) (j : Job), (s.cqEntry i.val).map (·.1) = some ws → s.replayed 2 = false → fld (wAt ws 0) 3 0 = 1 → j = (((s.cqEntry i.val).map (·.2)).getD s).job i.val (cqJob ws) → cqOk0 ws = true ∧ fld (wAt ws 1) 15 4 = 0 ∧ fld (wAt ws 6) 31 16 = 0 ∧ zeroFrom ws 12 = true → j.isOpen = true ∧ j.closing = none → ((((s.cqEntry i.val).map (·.2)).getD s).inst i.val).quota ≤ (((s.cqEntry i.val).map (·.2)).getD s).openCtxs i.val → Sys2Proof.Machine.exec (.run i) s = .next (((((s.cqEntry i.val).map (·.2)).getD s).setInst i.val { (((s.cqEntry i.val).map (·.2)).getD s).inst i.val with runHeld := true }).cqPause i.val true)) ∧
  (∀ (s : State) (i : InstId) (ws : List Word) (j : Job), (s.cqEntry i.val).map (·.1) = some ws → s.replayed 2 = false → fld (wAt ws 0) 3 0 = 1 → j = (((s.cqEntry i.val).map (·.2)).getD s).job i.val (cqJob ws) → cqOk0 ws = true ∧ fld (wAt ws 1) 15 4 = 0 ∧ fld (wAt ws 6) 31 16 = 0 ∧ zeroFrom ws 12 = true → j.isOpen = true ∧ j.closing = none → (((s.cqEntry i.val).map (·.2)).getD s).openCtxs i.val < ((((s.cqEntry i.val).map (·.2)).getD s).inst i.val).quota → (((s.cqEntry i.val).map (·.2)).getD s).poolTurn i.val = false ∨ (((s.cqEntry i.val).map (·.2)).getD s).pickCtx = none → (((s.cqEntry i.val).map (·.2)).getD s).fbk.pausedOrder.contains i.val = false → Sys2Proof.Machine.exec (.run i) s = .next ((({ (((s.cqEntry i.val).map (·.2)).getD s) with fbk := { (((s.cqEntry i.val).map (·.2)).getD s).fbk with pausedOrder := (((s.cqEntry i.val).map (·.2)).getD s).fbk.pausedOrder ++ [i.val] } } : State).setInst i.val { (((s.cqEntry i.val).map (·.2)).getD s).inst i.val with runHeld := true }).cqPause i.val true)) ∧
  (∀ (s : State) (i : InstId) (ws : List Word), (s.cqEntry i.val).map (·.1) = some ws → s.replayed 2 = false → fld (wAt ws 0) 3 0 = 1 → ((((s.cqEntry i.val).map (·.2)).getD s).job i.val (cqJob ws)).isOpen = false → Sys2Proof.Machine.exec (.run i) s = .next (((((s.cqEntry i.val).map (·.2)).getD s).cqTake i.val ws).simpleRec i.val 1 (cqTicket ws) .configInvalid (cqJob ws) 0)) ∧
  (∀ (s : State) (i : InstId) (ws : List Word) (k : Nat) (c : ReqCtx), (s.cqEntry i.val).map (·.1) = some ws → s.replayed 2 = false → fld (wAt ws 0) 3 0 = 2 → cqOk0 ws = true ∧ fld (wAt ws 1) 31 16 = 0 ∧ zeroFrom ws 2 = true → (((s.cqEntry i.val).map (·.2)).getD s).ctxs.filter (fun p => p.2.inst = i.val && p.2.ticket = fld (wAt ws 1) 15 0 && (p.2.state = .queued || p.2.state = .ready || p.2.state = .run)) = [(k, c)] → Sys2Proof.Machine.exec (.cancel i) s = .next ((((((s.cqEntry i.val).map (·.2)).getD s).cqTake i.val ws).endCtx k none).simpleRec i.val 2 (cqTicket ws) .ok 0 0)) ∧
  (∀ (s : State) (i : InstId) (ws : List Word), (s.cqEntry i.val).map (·.1) = some ws → s.replayed 2 = false → fld (wAt ws 0) 3 0 = 2 → cqOk0 ws = true ∧ fld (wAt ws 1) 31 16 = 0 ∧ zeroFrom ws 2 = true → (((s.cqEntry i.val).map (·.2)).getD s).ctxs.filter (fun p => p.2.inst = i.val && p.2.ticket = fld (wAt ws 1) 15 0 && (p.2.state = .queued || p.2.state = .ready || p.2.state = .run)) = [] → Sys2Proof.Machine.exec (.cancel i) s = .next (((((s.cqEntry i.val).map (·.2)).getD s).cqTake i.val ws).simpleRec i.val 2 (cqTicket ws) .empty 0 0)) ∧
  (∀ (s : State) (i : InstId) (ws : List Word), (s.cqEntry i.val).map (·.1) = some ws → s.replayed 2 = false → fld (wAt ws 0) 3 0 = 3 → (((s.cqEntry i.val).map (·.2)).getD s).jobRefused i.val ws = false → Sys2Proof.Machine.exec (.openJob i) s = .next (((((s.cqEntry i.val).map (·.2)).getD s).cqTake i.val ws).jobRec i.val 3 (cqTicket ws) .ok (cqJob ws) 0 (.opens (cqJob ws) { Job.closed with isOpen := true, pkg := fld (wAt ws 1) 31 16, gmask := (wAt ws 2).toNat + 2 ^ 32 * (wAt ws 3).toNat, ckptva := (wAt ws 4).toNat + 2 ^ 32 * (wAt ws 5).toNat }))) ∧
  (∀ (s : State) (i : InstId) (ws : List Word), (s.cqEntry i.val).map (·.1) = some ws → s.replayed 2 = false → fld (wAt ws 0) 3 0 = 3 → (((s.cqEntry i.val).map (·.2)).getD s).jobRefused i.val ws = true → Sys2Proof.Machine.exec (.openJob i) s = .next (((((s.cqEntry i.val).map (·.2)).getD s).cqTake i.val ws).simpleRec i.val 3 (cqTicket ws) .configInvalid (cqJob ws) 0)) ∧
  (∀ (s : State) (i : InstId) (ws : List Word), (s.cqEntry i.val).map (·.1) = some ws → s.replayed 2 = false → fld (wAt ws 0) 3 0 = 4 → cqOk0 ws = true ∧ fld (wAt ws 1) 31 4 = 0 ∧ zeroFrom ws 2 = true → ((((s.cqEntry i.val).map (·.2)).getD s).job i.val (cqJob ws)).isOpen = true ∧ ((((s.cqEntry i.val).map (·.2)).getD s).job i.val (cqJob ws)).closing = none ∧ ((((s.cqEntry i.val).map (·.2)).getD s).job i.val (cqJob ws)).restart = none → Sys2Proof.Machine.exec (.closeJob i) s = .next (((((((s.cqEntry i.val).map (·.2)).getD s).cqTake i.val ws).setJob i.val (cqJob ws) { (((s.cqEntry i.val).map (·.2)).getD s).job i.val (cqJob ws) with closing := some (cqTicket ws) }).endJobCtxs i.val (cqJob ws)).jobCheck i.val (cqJob ws))) ∧
  (∀ (s : State) (i : InstId) (ws : List Word), (s.cqEntry i.val).map (·.1) = some ws → s.replayed 2 = false → fld (wAt ws 0) 3 0 = 5 → cqOk0 ws = true ∧ fld (wAt ws 1) 31 4 = 0 ∧ zeroFrom ws 2 = true → ((((s.cqEntry i.val).map (·.2)).getD s).job i.val (cqJob ws)).isOpen = true ∧ ((((s.cqEntry i.val).map (·.2)).getD s).job i.val (cqJob ws)).closing = none ∧ ((((s.cqEntry i.val).map (·.2)).getD s).job i.val (cqJob ws)).restart = none → Sys2Proof.Machine.exec (.restart i) s = .next (((((((s.cqEntry i.val).map (·.2)).getD s).cqTake i.val ws).setJob i.val (cqJob ws) { (((s.cqEntry i.val).map (·.2)).getD s).job i.val (cqJob ws) with restart := some (cqTicket ws) }).endJobCtxs i.val (cqJob ws)).jobCheck i.val (cqJob ws))) ∧
  (∀ (s : State) (i : InstId), s.cqEntry i.val = none → Sys2Proof.Machine.exec (.run i) s = .next s) ∧
  (∀ (s : State) (i n ticket : Nat), (s.job i n).closing = some ticket → s.jobPosted i n = false → s.ctxs.all (fun p => decide (p.2.inst ≠ i) || decide (p.2.job ≠ n)) = true → s.jobCheck i n = ((s.scrubSlice (s.job i n)).jobRec i 4 ticket .ok n 0 (.closes n))) ∧
  (∀ (s : State) (i n : Nat) (j : Job), s.recEffect i (.opens n j) = (if s.granulesHeld j.gmask then s else s.setInst i { s.inst i with jobs := (s.inst i).jobs.set n j })) ∧
  (∀ (s : State) (i n : Nat), s.recEffect i (.closes n) = s.setInst i { s.inst i with jobs := (s.inst i).jobs.erase n }) ∧
  (∀ (s : State) (i n seq k : Nat), (s.ctx k).state = .queued → (s.ctx k).inst = i ∧ (s.ctx k).job = n → ((s.recEffect i (.restarted n seq)).ctx k).state = .ready ∧ (s.recEffect i (.restarted n seq)).job i n = { s.job i n with restart := none, seq := seq }) ∧
  (∀ (s : State) (i : InstId), (s.inst i.val).cqPaused = true → s.mayFetch i.val = true → Sys2Proof.Machine.exec (.cqFetchResume i) s = .next (let t := ((({ s with fbk := { s.fbk with pausedOrder := s.fbk.pausedOrder.filter (· ≠ i.val) } } : State)).setInst i.val { s.inst i.val with runHeld := false }).cqPause i.val false; if (s.inst i.val).runHeld then t.cqRow i.val (· = 1) (State.cqRun i.val) else t)) ∧
  (∀ (s : State) (i : InstId) (v : Word), s.pwr.phase = .running → pageDead (s.inst i.val).phase = false → idxGap (s.ringIdx (pgMbx i.val) 0x120) (fld v 15 0) ≤ idxGap (s.ringIdx (pgMbx i.val) 0x120) (s.inst i.val).rqTail → (s.inst i.val).rqWait = [] → Sys2Proof.Machine.exec (.rqHeadWrite i v) s = .next (let t := (({ s with regs := { s.regs with raw := s.regs.raw.set (regKey (pgMbx i.val) 0x12C) (w32 (fld v 15 0)) } } : State).rqEvent i.val); if (t.inst i.val).cqPaused && (t.inst i.val).rqWait.isEmpty && !(t.inst i.val).runHeld then t.cqPause i.val false else t)) ∧
  (∀ (s : State) (i : Nat) (r : ReadyRec), r.ctx = none → (s.inst i).phase ≠ .squashing → (s.inst i).rqWait ≠ [] ∨ s.rqRoom i = false → s.postRec i r = (s.updInst i (fun x => { x with rqWait := x.rqWait ++ [r] })).cqPause i true) ∧
  (∀ (s : State) (i : Nat) (r : ReadyRec), r.ctx = none → (s.inst i).phase ≠ .squashing → (s.inst i).rqWait = [] → s.rqRoom i = true → s.postRec i r = (((s.storeDev (spaceOf i) (s.ringBase (pgMbx i) 0x120 + 64 * ((s.inst i).rqTail % s.ringLen (pgMbx i) 0x120)) (bytesOf (setAt (setAt r.words 2 s.now32) 0 (w32 ((wAt r.words 0).toNat + codeVal (s.recCode r) * 65536 + phaseOf (s.inst i).rqTail (s.ringLen (pgMbx i) 0x120) * 2 ^ 24))))).2.updInst i (fun y => { y with rqTail := (y.rqTail + 1) % 65536 })).rqEvent i).recEffect i r.effect)

/-- A READY context whose step is well formed starts it when its footprint is free, not SUSPECT and not claimed by a higher-ranked context: it runs, holds the footprint and has the step's commands to issue; a step the table does not hold tears it down with CONFIG_INVALID, and a SUSPECT tile is counted and waited for. STEP_TILE issues a command to its tile with the sequencer's tag and the context's deadline; with its queue full, it waits, and goes on when an entry frees. STEP_SORT hands its one command to the deck of the footprint's grove. JUMPC goes to its target while LC + 1 < LIMIT and to the next step otherwise; EMIT writes a record with MORE and goes on; CKPT writes the checkpoint slot and advances SEQ; END releases every tile and writes the last record. A step record is folded in once. A teardown finishes when every issued command has its record. -/
def Obligations.SequencerSteps : Prop :=
  (∀ (s : State) (id : ReqId) (e : List Word), (s.ctx id.val).state = .ready → s.throttled (jobDie (s.job (s.ctx id.val).inst (s.ctx id.val).job)) = false → s.stepAt (s.ctx id.val) (s.ctx id.val).pc = some e → (stKind e = 5 → ∀ q ∈ s.ctxs, q.2.state ≠ .run) → (s.topReady (s.ctx id.val).inst (s.ctx id.val).job).getD id.val = id.val → (s.footOf (s.ctx id.val) e).all (fun t => s.tileFree id.val t && !(s.tile t).suspect && ((s.tile t).lastInst = none || (s.tile t).lastInst = some (s.ctx id.val).inst)) = true → Sys2Proof.Machine.exec (.stepStart id) s = .next (let u := ((foldS (s.footOf (s.ctx id.val) e) (fun t u => u.setTile t { u.tile t with holder := some id.val }) (s.setCtx id.val { (s.ctx id.val) with state := .run, foot := s.footOf (s.ctx id.val) e, issue := s.stepCmds (s.ctx id.val) e, started := true, folded := [], qTime := if (s.ctx id.val).started then (s.ctx id.val).qTime else (s.now - (s.ctx id.val).openedAt) / 32 })).prefetchWalk id.val); if stKind e ≠ 5 then u else (match u.ckptClear id.val with | (.ok, v) => v | (c, v) => v.endCtx id.val (some c)))) ∧
  (∀ (s : State) (id : ReqId), (s.ctx id.val).state = .ready → s.throttled (jobDie (s.job (s.ctx id.val).inst (s.ctx id.val).job)) = false → s.stepAt (s.ctx id.val) (s.ctx id.val).pc = none → Sys2Proof.Machine.exec (.stepStart id) s = .next (s.setCtx id.val { (s.ctx id.val) with state := .ending, issue := [], aborted := false, cause := some .configInvalid })) ∧
  (∀ (s : State) (id : ReqId) (e : List Word) (t : Nat), (s.ctx id.val).state = .ready → s.throttled (jobDie (s.job (s.ctx id.val).inst (s.ctx id.val).job)) = false → s.stepAt (s.ctx id.val) (s.ctx id.val).pc = some e → (s.footOf (s.ctx id.val) e).find? (fun t => (s.tile t).suspect) = some t → Sys2Proof.Machine.exec (.stepStart id) s = .next (s.bump (pgGrv (t / 32)) 0 1)) ∧
  (∀ (s : State) (id : ReqId) (e : List Word) (p : PendCmd), s.runStep id.val 1 = some e → (s.ctx id.val).issue = [p] → headerOk p = true → stTile0 e ≤ fld p.header 9 0 ∧ fld p.header 9 0 < stTile0 e + stTileN e → cmdOp p.words ≠ 4 ∧ cmdOp p.words ≠ 5 → (s.tile ((sliceTiles (s.job (s.ctx id.val).inst (s.ctx id.val).job)).getD (fld p.header 9 0) 0)).sched = .none ∧ s.queueFull ((sliceTiles (s.job (s.ctx id.val).inst (s.ctx id.val).job)).getD (fld p.header 9 0) 0) = false → s.tileHeldBy ((sliceTiles (s.job (s.ctx id.val).inst (s.ctx id.val).job)).getD (fld p.header 9 0) 0) (s.domainOf (spaceOf (s.ctx id.val).inst)) = true ∧ s.eligible (s.domainOf (spaceOf (s.ctx id.val).inst)) (tilePoint ((sliceTiles (s.job (s.ctx id.val).inst (s.ctx id.val).job)).getD (fld p.header 9 0) 0)) = true → Sys2Proof.Machine.exec (.stepTile id) s = .next ((((s.setCtx id.val { (s.ctx id.val) with issue := [], outst := (s.ctx id.val).outst + 1 }).takeGrant (s.domainOf (spaceOf (s.ctx id.val).inst)) (tilePoint ((sliceTiles (s.job (s.ctx id.val).inst (s.ctx id.val).job)).getD (fld p.header 9 0) 0))).enqueue ((sliceTiles (s.job (s.ctx id.val).inst (s.ctx id.val).job)).getD (fld p.header 9 0) 0) { words := issuedWords id.val (s.ctx id.val).tag p.words none, issuer := .seq ⟨((sliceTiles (s.job (s.ctx id.val).inst (s.ctx id.val).job)).getD (fld p.header 9 0) 0) / 32 % 32, Nat.mod_lt _ (by decide)⟩ id.val, space := spaceOf (s.ctx id.val).inst, seed := (s.ctx id.val).seed, step := w32 (s.ctx id.val).step.toNat, late := (s.ctx id.val).late }).updTile ((sliceTiles (s.job (s.ctx id.val).inst (s.ctx id.val).job)).getD (fld p.header 9 0) 0) (fun y => { y with live := some ((s.ctx id.val).inst, id.val), lastInst := some (s.ctx id.val).inst }))) ∧
  (∀ (s : State) (id : ReqId) (e : List Word) (p : PendCmd), s.runStep id.val 1 = some e → (s.ctx id.val).issue = [p] → headerOk p = true → stTile0 e ≤ fld p.header 9 0 ∧ fld p.header 9 0 < stTile0 e + stTileN e → ((s.tile ((sliceTiles (s.job (s.ctx id.val).inst (s.ctx id.val).job)).getD (fld p.header 9 0) 0)).sched ≠ .none ∧ (s.tile ((sliceTiles (s.job (s.ctx id.val).inst (s.ctx id.val).job)).getD (fld p.header 9 0) 0)).sched ≠ .floor) ∨ (s.tileHeldBy ((sliceTiles (s.job (s.ctx id.val).inst (s.ctx id.val).job)).getD (fld p.header 9 0) 0) (s.domainOf (spaceOf (s.ctx id.val).inst)) = true ∧ (s.queueFull ((sliceTiles (s.job (s.ctx id.val).inst (s.ctx id.val).job)).getD (fld p.header 9 0) 0) = true ∨ s.eligible (s.domainOf (spaceOf (s.ctx id.val).inst)) (tilePoint ((sliceTiles (s.job (s.ctx id.val).inst (s.ctx id.val).job)).getD (fld p.header 9 0) 0)) = false)) → Sys2Proof.Machine.exec (.stepTile id) s = .next s) ∧
  (∀ (s : State) (id : ReqId) (e : List Word) (p : PendCmd), s.runStep id.val 1 = some e → (s.ctx id.val).issue = [p] → headerOk p = true → stTile0 e ≤ fld p.header 9 0 ∧ fld p.header 9 0 < stTile0 e + stTileN e → cmdOp p.words ≠ 4 ∧ cmdOp p.words ≠ 5 → (s.tile ((sliceTiles (s.job (s.ctx id.val).inst (s.ctx id.val).job)).getD (fld p.header 9 0) 0)).sched = .none ∨ (s.tile ((sliceTiles (s.job (s.ctx id.val).inst (s.ctx id.val).job)).getD (fld p.header 9 0) 0)).sched = .floor → s.tileHeldBy ((sliceTiles (s.job (s.ctx id.val).inst (s.ctx id.val).job)).getD (fld p.header 9 0) 0) (s.domainOf (spaceOf (s.ctx id.val).inst)) = false → Sys2Proof.Machine.exec (.stepTile id) s = .next (((s.setCtx id.val { (s.ctx id.val) with issue := [], outst := (s.ctx id.val).outst + 1 }).refuseAtQueue ((sliceTiles (s.job (s.ctx id.val).inst (s.ctx id.val).job)).getD (fld p.header 9 0) 0) { words := issuedWords id.val (s.ctx id.val).tag p.words none, issuer := .seq ⟨((sliceTiles (s.job (s.ctx id.val).inst (s.ctx id.val).job)).getD (fld p.header 9 0) 0) / 32 % 32, Nat.mod_lt _ (by decide)⟩ id.val, space := spaceOf (s.ctx id.val).inst, seed := (s.ctx id.val).seed, step := w32 (s.ctx id.val).step.toNat, late := (s.ctx id.val).late }).stepDone id.val)) ∧
  (∀ (s : State) (t : TileId) (k : Nat) (e : List Word) (p : PendCmd), ((s.ctxs.filter (fun p => p.2.state = .run && (match p.2.issue with | [] => false | q :: _ => (sliceTiles (s.job p.2.inst p.2.job)).getD (fld q.header 9 0) 1024 = t.val))).foldl (fun acc p => match acc with | none => some p.1 | some b => if s.ranksBefore p.1 b then some p.1 else some b) (none : Option Nat) = some k) → s.runStep k 1 = some e → (s.ctx k).issue = [p] → headerOk p = true → stTile0 e ≤ fld p.header 9 0 ∧ fld p.header 9 0 < stTile0 e + stTileN e → cmdOp p.words ≠ 4 ∧ cmdOp p.words ≠ 5 → (s.tile ((sliceTiles (s.job (s.ctx k).inst (s.ctx k).job)).getD (fld p.header 9 0) 0)).sched = .none ∧ s.queueFull ((sliceTiles (s.job (s.ctx k).inst (s.ctx k).job)).getD (fld p.header 9 0) 0) = false → s.tileHeldBy ((sliceTiles (s.job (s.ctx k).inst (s.ctx k).job)).getD (fld p.header 9 0) 0) (s.domainOf (spaceOf (s.ctx k).inst)) = true ∧ s.eligible (s.domainOf (spaceOf (s.ctx k).inst)) (tilePoint ((sliceTiles (s.job (s.ctx k).inst (s.ctx k).job)).getD (fld p.header 9 0) 0)) = true → Sys2Proof.Machine.exec (.tileQueueEntryFree t) s = .next ((((s.setCtx k { (s.ctx k) with issue := [], outst := (s.ctx k).outst + 1 }).takeGrant (s.domainOf (spaceOf (s.ctx k).inst)) (tilePoint ((sliceTiles (s.job (s.ctx k).inst (s.ctx k).job)).getD (fld p.header 9 0) 0))).enqueue ((sliceTiles (s.job (s.ctx k).inst (s.ctx k).job)).getD (fld p.header 9 0) 0) { words := issuedWords k (s.ctx k).tag p.words none, issuer := .seq ⟨((sliceTiles (s.job (s.ctx k).inst (s.ctx k).job)).getD (fld p.header 9 0) 0) / 32 % 32, Nat.mod_lt _ (by decide)⟩ k, space := spaceOf (s.ctx k).inst, seed := (s.ctx k).seed, step := w32 (s.ctx k).step.toNat, late := (s.ctx k).late }).updTile ((sliceTiles (s.job (s.ctx k).inst (s.ctx k).job)).getD (fld p.header 9 0) 0) (fun y => { y with live := some ((s.ctx k).inst, k), lastInst := some (s.ctx k).inst }))) ∧
  (∀ (s : State) (id : ReqId) (e : List Word) (p : PendCmd) (slice : List Nat), s.runStep id.val 2 = some e → stNcmd e = 1 → (s.ctx id.val).issue = [p] → slice = sliceTiles (s.job (s.ctx id.val).inst (s.ctx id.val).job) → s.footOf (s.ctx id.val) e ≠ [] → (s.footOf (s.ctx id.val) e).all (fun t => t / 32 = slice.getD (stTile0 e) 0 / 32 && (s.tile t).sched = .none) = true → p.header1 = 0#32 ∧ fld p.header 31 10 = 0 → (fld (wAt p.words 4) 23 19 :: (List.range 32).filter (fun i => bitOf (wAt p.words 7) i)).all (fun i => stTile0 e ≤ i && i < stTile0 e + stTileN e) = true → ∃ u, Sys2Proof.Machine.exec (.stepSort id) s = .next u ∧ ((u.grove (slice.getD (stTile0 e) 0 / 32)).deckWait.map (fun d => (d.ctx, d.domain, d.late)) = (s.grove (slice.getD (stTile0 e) 0 / 32)).deckWait.map (fun d => (d.ctx, d.domain, d.late)) ++ [(id.val, s.domainOf (spaceOf (s.ctx id.val).inst), (s.ctx id.val).late)]) ∧ (u.ctx id.val = { (s.ctx id.val) with issue := [], outst := (s.ctx id.val).outst + 1 }) ∧ (∀ t ∈ s.footOf (s.ctx id.val) e, (u.tile t).live = some ((s.ctx id.val).inst, id.val)) ∧ (u = { s with tiles := u.tiles, ctxs := s.ctxs.set id.val (u.ctx id.val), groves := s.groves.set (slice.getD (stTile0 e) 0 / 32) (u.grove (slice.getD (stTile0 e) 0 / 32)) })) ∧
  (∀ (s : State) (id : ReqId) (e : List Word), s.runStep id.val 3 = some e → (s.ctx id.val).lc + 1 < (s.ctx id.val).limit → Sys2Proof.Machine.exec (.jumpc id) s = .next (((s.endFoot id.val (stKeep e)).updCtx id.val (fun y => { y with lc := y.lc + 1 })).boundary id.val (stTarget e))) ∧
  (∀ (s : State) (id : ReqId) (e : List Word), s.runStep id.val 3 = some e → (s.ctx id.val).limit ≤ (s.ctx id.val).lc + 1 → Sys2Proof.Machine.exec (.jumpc id) s = .next ((s.endFoot id.val (stKeep e)).boundary id.val ((s.ctx id.val).pc + 1))) ∧
  (∀ (s : State) (id : ReqId) (e : List Word), s.runStep id.val 4 = some e → s.inlineAway (s.ctx id.val) e = false → Sys2Proof.Machine.exec (.emit id) s = .next ((((s.endFoot id.val false).boundary id.val ((s.ctx id.val).pc + 1)).updCtx id.val (fun x => { x with step := (s.ctx id.val).step, cause := (s.ctx id.val).cause }) |>.ctxRec id.val true .ok (s.inlineOf (s.ctx id.val) e)) |>.updCtx id.val (fun x => { x with step := (s.ctx id.val).step + 1 }))) ∧
  (∀ (s : State) (id : ReqId) (e : List Word) (p : Pkg), s.runStep id.val 5 = some e → s.unitWait (.ctx id.val) (s.ctx id.val).tag (copyExtents (spaceOf (s.ctx id.val).inst) (ckptPlan p (nextSlot (s.job (s.ctx id.val).inst (s.ctx id.val).job) p).1) ++ [(spaceOf (s.ctx id.val).inst, (nextSlot (s.job (s.ctx id.val).inst (s.ctx id.val).job) p).1, 64, true)]) = none → s.pkgOf (s.ctx id.val).inst (s.ctx id.val).job = some p → (s.writeCkpt (s.ctx id.val).inst (s.ctx id.val) (s.job (s.ctx id.val).inst (s.ctx id.val).job) p).1 = .ok → Sys2Proof.Machine.exec (.ckpt id) s = .next ((((s.writeCkpt (s.ctx id.val).inst (s.ctx id.val) (s.job (s.ctx id.val).inst (s.ctx id.val).job) p).2.setJob (s.ctx id.val).inst (s.ctx id.val).job { s.job (s.ctx id.val).inst (s.ctx id.val).job with seq := ((s.job (s.ctx id.val).inst (s.ctx id.val).job).seq + 1) % 2 ^ 32 }).endFoot id.val (stKeep e)).boundary id.val ((s.ctx id.val).pc + 1))) ∧
  (∀ (s : State) (id : ReqId) (e : List Word), s.runStep id.val 4 = some e → s.inlineAway (s.ctx id.val) e = true → Sys2Proof.Machine.exec (.emit id) s = .next s) ∧
  (∀ (s : State) (id : ReqId) (e : List Word), s.runStep id.val 6 = some e → s.inlineAway (s.ctx id.val) e = true → Sys2Proof.Machine.exec (.stepEnd id) s = .next s) ∧
  (∀ (s : State) (id : ReqId) (e : List Word), s.runStep id.val 6 = some e → s.inlineAway (s.ctx id.val) e = false → s.lv.cut = false → Sys2Proof.Machine.exec (.stepEnd id) s = .next ((s.releaseAll id.val).ctxRec id.val false .ok (s.inlineOf (s.ctx id.val) e))) ∧
  (∀ (s : State) (id : ReqId) (e : List Word), s.runStep id.val 6 = some e → s.inlineAway (s.ctx id.val) e = false → s.lv.cut = true → Sys2Proof.Machine.exec (.stepEnd id) s = .next ((s.releaseAll id.val).ctxRec id.val false .fencedOut (s.inlineOf (s.ctx id.val) e))) ∧
  (∀ (s : State) (k pc : Nat), s.recMode = 0 ∧ s.lv.cut = false → (s.ctx k).state = .run → s.boundary k pc = s.setCtx k { s.ctx k with step := (s.ctx k).step + 1, pc := pc, state := .ready, folded := [] }) ∧
  (∀ (s : State) (id : ReqId) (r : List Word) (rest : List (List Word)), (s.ctx id.val).recs = r :: rest → (s.ctx id.val).state = .run → fld (wAt r 0) 23 16 = 0 → 2 ≤ (s.ctx id.val).outst → ∃ u, Sys2Proof.Machine.exec (.sequencerRecord id) s = .next u ∧ (u.ctx id.val = { (s.ctx id.val) with recs := rest, outst := (s.ctx id.val).outst - 1, flags := (s.ctx id.val).flags.or { nanSeen := bitOf (wAt r 0) 24, infSeen := bitOf (wAt r 0) 25, satOut := bitOf (wAt r 0) 26, satAcc := bitOf (wAt r 0) 27, fmtErr := bitOf (wAt r 0) 28 }, folded := (s.ctx id.val).folded ++ [0, BitVec.ofNat 8 (fld (wAt r 0) 28 24)] }) ∧ (u = { s with ctxs := s.ctxs.set id.val (u.ctx id.val) })) ∧
  (∀ (s : State) (id : ReqId), (s.ctx id.val).state = .ending → s.cmdsOut id.val (s.dropsImages (s.ctx id.val)) = 0 → s.dropsImages (s.ctx id.val) = false → (s.heldTiles id.val).any (fun t => (s.tile t).scrub) = false → Sys2Proof.Machine.exec (.teardownFinish id) s = .next ((((s.releaseAll id.val).updCtx id.val (fun x => { x with aborted := false, tierWait := false, outst := 0 })).ctxRec id.val false (endCode (s.ctx id.val)) []).jobCheck (s.ctx id.val).inst (s.ctx id.val).job)) ∧
  (∀ (s : State) (id : ReqId), (s.ctx id.val).state = .ending → s.cmdsOut id.val (s.dropsImages (s.ctx id.val)) = 0 → (s.ctx id.val).cause ≠ none ∨ (s.ctx id.val).noRec = true → (s.ctx id.val).scrubbing = false → s.heldTiles id.val ≠ [] → Sys2Proof.Machine.exec (.teardownFinish id) s = .next (foldS (s.heldTiles id.val) (fun t u => u.tearTile t) (s.setCtx id.val { (s.ctx id.val) with scrubbing := true }))) ∧
  (∀ (s : State) (id : ReqId), (s.ctx id.val).state = .ending → s.cmdsOut id.val (s.dropsImages (s.ctx id.val)) ≠ 0 → Sys2Proof.Machine.exec (.teardownFinish id) s = .next s)

/-- An access by an agent that its checks refuse changes nothing; one whose pages can all be served is served: a write stores exactly its bytes, a read only counts; one that meets a page in T3, a page to be backed, or a locked page joins the waiters of the first such page. An arbitration point grants a request when its domain has an entry and shaping credit there, no perturbation holds it back, and no other eligible request that it holds goes before it by key, then by arrival; a perturbation holds it back for DELAY clocks and at most 64 more. A posted write of the device lands when its pages are in T2 and not locked, and waits at a page in T3; one of data that an Ethernet port received crosses its points first, behind what that port already has waiting. In a space of canonical memory a byte written reads back, and every other byte reads as before. -/
def Obligations.DeviceMemoryAccesses : Prop :=
  (∀ (s : State) (pt d : Nat) (a : ArbWhat) (tag : Nat) (late : Bool), s.heldAt pt = [] → s.grants pt d a tag late = (decide (0 < s.credOf d) && s.eligible d pt && !s.perturbed pt s.ac)) ∧
  (∀ (s : State) (pt k die since : Nat), pointKind pt = some (k, die) → bitOf (s.inForce pgBist (0x0C0 + 4 * k)) (20 + die) = true → s.ac < since + fld (s.inForce pgBist (0x0C0 + 4 * k)) 11 0 → s.perturbed pt since = true) ∧
  (∀ (s : State) (pt k die since : Nat), pointKind pt = some (k, die) → since + fld (s.inForce pgBist (0x0C0 + 4 * k)) 11 0 + 64 ≤ s.ac → s.perturbed pt since = false) ∧
  (∀ (s : State) (pt d : Nat) (a : ArbWhat) (tag : Nat) (late : Bool) (r : ArbReq) (rest : List ArbReq), s.heldAt pt = r :: rest ∧ r.what ≠ a → s.eligible r.domain pt = true → s.tagKey r.tag r.late < s.tagKey tag late ∨ (s.tagKey r.tag r.late = s.tagKey tag late ∧ r.since < s.sinceAt pt a) → s.grants pt d a tag late = false) ∧
  (∀ (s : State) (pt d : Nat) (a : ArbWhat) (tag : Nat) (late : Bool), s.entryFree pt d a = true → s.eligible d pt = true → s.perturbed pt (s.sinceAt pt a) = false → (s.heldAt pt).all (fun r => decide (r.what = a) || decide (s.tagKey tag late < s.tagKey r.tag r.late)) = true → s.grants pt d a tag late = true) ∧
  (∀ (s : State) (pt d : Nat) (a : ArbWhat) (tag : Nat) (late : Bool), s.entryFree pt d a = false → s.grants pt d a tag late = false) ∧
  (∀ (s : State) (pt d : Nat) (a : ArbWhat) (tag : Nat) (late : Bool), (s.heldAt pt).any (fun r => decide (r.what = a)) = false → ((s.heldAt pt).filter (fun r => decide (r.domain = d))).length < s.credOf d ∧ (s.heldAt pt).length < 68 → s.holdAt pt d a tag late = { s.leavePoints a with arb := (s.leavePoints a).arb.set pt ((s.leavePoints a).arb.get [] pt ++ [{ domain := d, what := a, tag := tag, late := late, since := s.ac }]) }) ∧
  (∀ (s : State) (pt d : Nat) (a : ArbWhat) (tag : Nat) (late : Bool), s.credOf d ≤ ((s.heldAt pt).filter (fun r => decide (r.domain = d))).length ∨ 68 ≤ (s.heldAt pt).length → s.holdAt pt d a tag late = s) ∧
  (∀ (s : State) (d : Nat), d ≠ 0 → s.credOf d ≤ 64 ∧ 4 ≤ s.credOf 0) ∧
  (∀ (s : State) (sp : Space) (va : Nat) (bs : List Byte) (tag : Nat) (from_ : Fin 6), s.storeCode sp va bs.length = .ok → s.firstWait sp va bs.length true = none → (s.arbitrate (s.domainOf sp) (.access (.agent sp va (.write bs) tag from_)) tag false (s.accPoints from_.val sp va bs.length)).1 = true → inLanes sp va bs.length = false → Sys2Proof.Machine.exec (.deviceMemoryAccess (.agent sp va (.write bs) tag from_)) s = .next (((s.arbitrate (s.domainOf sp) (.access (.agent sp va (.write bs) tag from_)) tag false (s.accPoints from_.val sp va bs.length)).2.putDev sp va bs).emit (.accessDone sp va .ok []))) ∧
  (∀ (s : State) (va : Nat) (bs : List Byte) (tag : Nat) (from_ : Fin 6), s.storeCode .dom0 va bs.length = .ok → (s.arbitrate 0 (.access (.agent .dom0 va (.write bs) tag from_)) tag false (s.accPoints from_.val .dom0 va bs.length)).1 = true → inLanes .dom0 va bs.length = true ∧ bs ≠ [] → Sys2Proof.Machine.exec (.deviceMemoryAccess (.agent .dom0 va (.write bs) tag from_)) s = .next ((((s.arbitrate 0 (.access (.agent .dom0 va (.write bs) tag from_)) tag false (s.accPoints from_.val .dom0 va bs.length)).2.putDev .dom0 va bs).laneMbEvt (laneSpot va).1).emit (.accessDone .dom0 va .ok []))) ∧
  (∀ (s : State) (sp : Space) (va : Nat) (n tag : Nat) (from_ : Fin 6), s.accCode sp va n = .ok → s.firstWait sp va n false = none → (s.arbitrate (s.domainOf sp) (.access (.agent sp va (.read n) tag from_)) tag false (s.accPoints from_.val sp va n)).1 = true → inLanes sp va n = false → (((s.arbitrate (s.domainOf sp) (.access (.agent sp va (.read n) tag from_)) tag false (s.accPoints from_.val sp va n)).2.touchRead sp va n).tierBad sp va n).1 = false → Sys2Proof.Machine.exec (.deviceMemoryAccess (.agent sp va (.read n) tag from_)) s = .next ((((s.arbitrate (s.domainOf sp) (.access (.agent sp va (.read n) tag from_)) tag false (s.accPoints from_.val sp va n)).2.touchRead sp va n).tierBad sp va n).2.emit (.accessDone sp va .ok ((((s.arbitrate (s.domainOf sp) (.access (.agent sp va (.read n) tag from_)) tag false (s.accPoints from_.val sp va n)).2.touchRead sp va n).tierBad sp va n).2.peek sp va n)))) ∧
  (∀ (s : State) (sp : Space) (va : Nat) (n tag : Nat) (from_ : Fin 6), s.accCode sp va n = .ok → s.firstWait sp va n false = none → (s.arbitrate (s.domainOf sp) (.access (.agent sp va (.read n) tag from_)) tag false (s.accPoints from_.val sp va n)).1 = true → inLanes sp va n = false → (((s.arbitrate (s.domainOf sp) (.access (.agent sp va (.read n) tag from_)) tag false (s.accPoints from_.val sp va n)).2.touchRead sp va n).tierBad sp va n).1 = true → Sys2Proof.Machine.exec (.deviceMemoryAccess (.agent sp va (.read n) tag from_)) s = .next ((((s.arbitrate (s.domainOf sp) (.access (.agent sp va (.read n) tag from_)) tag false (s.accPoints from_.val sp va n)).2.touchRead sp va n).tierBad sp va n).2.emit (.accessDone sp va .tierError []))) ∧
  (∀ (s : State) (sp : Space) (va : Nat) (bs : List Byte) (tag : Nat) (from_ : Fin 6), s.storeCode sp va bs.length = .ok → s.firstWait sp va bs.length true = none → (s.arbitrate (s.domainOf sp) (.access (.agent sp va (.write bs) tag from_)) tag false (s.accPoints from_.val sp va bs.length)).1 = false → Sys2Proof.Machine.exec (.deviceMemoryAccess (.agent sp va (.write bs) tag from_)) s = .next (s.arbitrate (s.domainOf sp) (.access (.agent sp va (.write bs) tag from_)) tag false (s.accPoints from_.val sp va bs.length)).2) ∧
  (∀ (s : State) (sp : Space) (va : Nat) (n tag pk : Nat) (from_ : Fin 6) (t3 : Bool), s.accCode sp va n = .ok → s.firstWait sp va n false = some (pk, t3) → Sys2Proof.Machine.exec (.deviceMemoryAccess (.agent sp va (.read n) tag from_)) s = .next (s.waitOn pk (.agent sp va (.read n) from_) t3 tag false)) ∧
  (∀ (s : State) (sp : Space) (va : Nat) (bs : List Byte) (tag : Nat) (from_ : Fin 6), s.storeCode sp va bs.length ≠ .ok → Sys2Proof.Machine.exec (.deviceMemoryAccess (.agent sp va (.write bs) tag from_)) s = .next (s.emit (.accessDone sp va (s.storeCode sp va bs.length) []))) ∧
  (∀ (s : State) (sp : Space) (va : Nat) (bs : List Byte), half ≤ va ∧ bs ≠ [] → s.putDev sp va bs = { s with mem := Memory.writeN (hostKey (s.pasidOf sp) va) bs s.mem }) ∧
  (∀ (s : State) (va : Nat) (bs : List Byte), va + bs.length ≤ laneLo → (pagesIn 4096 va bs.length).all s.lands = true → (let u := s.putDev .dom0 va bs; u.mem = Memory.writeN (devKey 4096 va) bs s.mem ∧ u.tiles = s.tiles ∧ u.lanes = s.lanes ∧ u.cells = s.cells ∧ u.insts = s.insts ∧ u.ctxs = s.ctxs ∧ u.arr = s.arr ∧ u.pending = s.pending)) ∧
  (∀ (s : State) (sp : Space) (va tag pk : Nat) (bs : List Byte), bs ≠ [] → inLanes sp va bs.length = false ∧ va < half → pagesIn (spaceIdx sp) va bs.length = [pk] → (s.home pk).tier = .t3 → s.putDevTag tag sp va bs = s.waitOn pk (.store sp va bs) true tag false) ∧
  (∀ (s : State) (p tag : Nat) (sp : Space) (va : Nat) (bs : List Byte), bs ≠ [] → s.mems.held = [] → (s.arbitrate (s.domainOf sp) (.port (ethReq p)) tag false (s.accPoints (pageDie (pgEth p)) sp va bs.length)).1 = true → s.portPost p tag sp va bs = (s.arbitrate (s.domainOf sp) (.port (ethReq p)) tag false (s.accPoints (pageDie (pgEth p)) sp va bs.length)).2.putDevTag tag sp va bs) ∧
  (∀ (s : State) (p tag : Nat) (sp : Space) (va : Nat) (bs : List Byte), bs ≠ [] → s.mems.held.any (fun q => decide (q.who = ethReq p)) = true → s.portPost p tag sp va bs = { s with mems := { s.mems with held := s.mems.held ++ [{ who := ethReq p, work := .post sp va bs, tag := tag, late := false }] } }) ∧
  (∀ (m : Memory) (a c : Nat) (bs : List Byte), Memory.wf m = true → (∀ k, k < bs.length → (Memory.writeN a bs m).read (a + k) = bs.getD k 0) ∧ ((c < a ∨ a + bs.length ≤ c) → (Memory.writeN a bs m).read c = m.read c) ∧ Memory.wf (Memory.writeN a bs m) = true) ∧
  (∀ (s : State) (pk : Nat) (a : WaitWhat) (tag : Nat) (late : Bool), s.waitOn pk a false tag late = { s with mems := { s.mems with homes := s.mems.homes.set pk { s.home pk with waiters := (s.home pk).waiters ++ [{ what := a, t3 := false, since := s.now, tag := tag, late := late }] } } }) ∧
  (∀ (s : State) (pk : Nat) (a : WaitWhat) (tag : Nat) (late : Bool), s.waitOn pk a true tag late = ({ s with mems := { s.mems with homes := s.mems.homes.set pk { s.home pk with waiters := (s.home pk).waiters ++ [{ what := a, t3 := true, since := s.now, tag := tag, late := late }] } } } : State).startPromotion pk tag)

/-- MOVE_SWITCH writes the new home of a page whose lines no agent combines, serves its waiters in order and looks for further moves. MOVE_ABORT of a promotion without waiters only clears the lock and the move. EPOCH_END ages the heat of the pages of its die. A stall episode past its limit sends its instance one TIER_LATE notice. A patrol read is due once per SCRUB_HOURS and waits its turn at its pseudo-channel; it counts a corrected error on its frame, and poisons the line of an uncorrectable one; with no error, line 0 only opens the frame's next period. An object that passes its checks is registered, unregistered and read through staging; a refused one changes only the status. A retire log entry is removed by writing its frame. -/
def Obligations.TiersMovesAndErrors : Prop :=
  (∀ (s : State) (page : Nat) (m : Move), s.mems.moves.find? (fun m => decide (m.page = page)) = some m → s.hotPage page = false → Sys2Proof.Machine.exec (.moveSwitch page) s = .next ((((s.switchMove m).serveWaiters page).waterCheck (s.domainOfIdx (pageSpace page)) (s.moveDie m) (decide (m.kind = .demotion))).retryMoves (s.moveDie m))) ∧
  (∀ (s : State) (page : Nat), s.hotPage page = false → s.mems.moves.find? (fun m => decide (m.page = page)) = none → (s.home page).waiters ≠ [] ∧ (s.home page).lock = false → Sys2Proof.Machine.exec (.moveSwitch page) s = .next (s.serveWaiters page)) ∧
  (∀ (s : State) (page : Nat), s.hotPage page = true → Sys2Proof.Machine.exec (.moveSwitch page) s = .next s) ∧
  (∀ (s : State) (m : Move), m.kind = .rehome → s.mustLeave m.frame = false → s.switchMove m = (((({ s with mems := { s.mems with moves := s.mems.moves.filter (fun x => x.page ≠ m.page) } } : State).dropLines m.page).setHome m.page { s.home m.page with lock := false, frame := m.frame }).emit (.hbmWrite m.frame ((({ s with mems := { s.mems with moves := s.mems.moves.filter (fun x => x.page ≠ m.page) } } : State).dropLines m.page).t2Cipher m.page)))) ∧
  (∀ (s : State) (page : Nat) (m : Move), s.mems.moves.find? (fun m => decide (m.page = page)) = some m → m.kind = .promotion → (s.home page).tier = .t3 ∧ (s.home page).waiters = [] → Sys2Proof.Machine.exec (.moveAbort page) s = .next { s with mems := { s.mems with moves := s.mems.moves.filter (fun x => x.page ≠ page), homes := s.mems.homes.set page { s.home page with lock := false } } }) ∧
  (∀ (s : State) (d : DieId), s.mems.epochAt.get 0 d.val ≤ s.now ∧ s.now < s.mems.epochAt.get 0 d.val + s.epochLen d.val → Sys2Proof.Machine.exec (.epochEnd d) s = .next s) ∧
  (∀ (s : State) (d : DieId), s.mems.epochAt.get 0 d.val + s.epochLen d.val ≤ s.now → ∃ u, Sys2Proof.Machine.exec (.epochEnd d) s = .next u ∧ (u.mems.epoch.get 0 d.val = s.mems.epoch.get 0 d.val + 1) ∧ (∀ pk h, Table.sorted s.mems.homes = true → s.mems.homes.find pk = some h → h.tier ≠ .unbacked → (match s.placeOf pk with | some (die, _) => decide (die = d.val) | none => decide (h.die = d.val)) = true → (u.home pk).heat = min 0xFFFF (h.heat - h.heat / 2 ^ (min 8 (max 1 (fld (s.reg (pgCru d.val) 0x010) 11 8))) + h.acc) ∧ (u.home pk).acc = 0 ∧ (u.home pk).tier = h.tier ∧ (u.home pk).frame = h.frame) ∧ (u = { s with mems := { s.mems with homes := u.mems.homes, epoch := u.mems.epoch, epochAt := s.mems.epochAt.set d.val s.now } })) ∧
  (∀ (s : State) (k : ReqId) (c : ReqCtx) (lim : Nat), c = s.ctx k.val → lim = fld (s.inForce (pgCru (s.waitDie c.epPage)) 0x0C4) 19 0 → c.tierWait = true ∧ c.noticed = false → lim ≠ 0 ∧ (s.inst c.inst).domain ≠ 0 ∧ lim * 1000 ≤ s.now - c.tierAt → Sys2Proof.Machine.exec (.tierStallLimit k) s = .next ((s.setCtx k.val { c with noticed := true }).notice c.inst 0x01 .tierLate [w32 (k.val + (if c.epT3 then 3 else 2) * 2 ^ 20), w32 c.ticket, w32 (s.oidOf c.epPage), w32 ((s.now - c.tierAt) / 32)])) ∧
  (∀ (s : State) (k : ReqId), (s.ctx k.val).noticed = true → Sys2Proof.Machine.exec (.tierStallLimit k) s = .next s) ∧
  (∀ (s : State) (h : HbmId) (frame line : Nat), s.pwr.phase = .running → s.mems.patrolled.find ((h.val * 16 * framesPerCh + frame % (16 * framesPerCh)) * 512 + line % 512) = none → (s.arbitrate 0 (.patrol (h.val * 16 * framesPerCh + frame % (16 * framesPerCh)) (line % 512)) s.tag7 false [hbmPoint (h.val * 16 * framesPerCh + frame % (16 * framesPerCh)) (line % 512)]).1 = true → line ≠ 0 → Sys2Proof.Machine.exec (.patrolScrub h frame line 1) s = .next (({ (s.arbitrate 0 (.patrol (h.val * 16 * framesPerCh + frame % (16 * framesPerCh)) (line % 512)) s.tag7 false [hbmPoint (h.val * 16 * framesPerCh + frame % (16 * framesPerCh)) (line % 512)]).2 with mems := { (s.arbitrate 0 (.patrol (h.val * 16 * framesPerCh + frame % (16 * framesPerCh)) (line % 512)) s.tag7 false [hbmPoint (h.val * 16 * framesPerCh + frame % (16 * framesPerCh)) (line % 512)]).2.mems with patrolled := (s.arbitrate 0 (.patrol (h.val * 16 * framesPerCh + frame % (16 * framesPerCh)) (line % 512)) s.tag7 false [hbmPoint (h.val * 16 * framesPerCh + frame % (16 * framesPerCh)) (line % 512)]).2.mems.patrolled.set ((h.val * 16 * framesPerCh + frame % (16 * framesPerCh)) * 512 + line % 512) s.now } } : State).correctedAt (h.val * 16 * framesPerCh + frame % (16 * framesPerCh)))) ∧
  (∀ (s : State) (h : HbmId) (frame : Nat), s.pwr.phase = .running → s.mems.patrolled.find ((h.val * 16 * framesPerCh + frame % (16 * framesPerCh)) * 512 + 0 % 512) = none → (s.arbitrate 0 (.patrol (h.val * 16 * framesPerCh + frame % (16 * framesPerCh)) (0 % 512)) s.tag7 false [hbmPoint (h.val * 16 * framesPerCh + frame % (16 * framesPerCh)) (0 % 512)]).1 = true → Sys2Proof.Machine.exec (.patrolScrub h frame 0 0) s = .next { ({ (s.arbitrate 0 (.patrol (h.val * 16 * framesPerCh + frame % (16 * framesPerCh)) (0 % 512)) s.tag7 false [hbmPoint (h.val * 16 * framesPerCh + frame % (16 * framesPerCh)) (0 % 512)]).2 with mems := { (s.arbitrate 0 (.patrol (h.val * 16 * framesPerCh + frame % (16 * framesPerCh)) (0 % 512)) s.tag7 false [hbmPoint (h.val * 16 * framesPerCh + frame % (16 * framesPerCh)) (0 % 512)]).2.mems with patrolled := (s.arbitrate 0 (.patrol (h.val * 16 * framesPerCh + frame % (16 * framesPerCh)) (0 % 512)) s.tag7 false [hbmPoint (h.val * 16 * framesPerCh + frame % (16 * framesPerCh)) (0 % 512)]).2.mems.patrolled.set ((h.val * 16 * framesPerCh + frame % (16 * framesPerCh)) * 512 + 0 % 512) s.now } } : State) with mems := { ({ (s.arbitrate 0 (.patrol (h.val * 16 * framesPerCh + frame % (16 * framesPerCh)) (0 % 512)) s.tag7 false [hbmPoint (h.val * 16 * framesPerCh + frame % (16 * framesPerCh)) (0 % 512)]).2 with mems := { (s.arbitrate 0 (.patrol (h.val * 16 * framesPerCh + frame % (16 * framesPerCh)) (0 % 512)) s.tag7 false [hbmPoint (h.val * 16 * framesPerCh + frame % (16 * framesPerCh)) (0 % 512)]).2.mems with patrolled := (s.arbitrate 0 (.patrol (h.val * 16 * framesPerCh + frame % (16 * framesPerCh)) (0 % 512)) s.tag7 false [hbmPoint (h.val * 16 * framesPerCh + frame % (16 * framesPerCh)) (0 % 512)]).2.mems.patrolled.set ((h.val * 16 * framesPerCh + frame % (16 * framesPerCh)) * 512 + 0 % 512) s.now } } : State).mems with frameCe := s.mems.frameCe.erase (h.val * 16 * framesPerCh + frame % (16 * framesPerCh)) } }) ∧
  (∀ (s : State) (h : HbmId) (frame line pk : Nat) (x : Home), s.pwr.phase = .running → s.mems.patrolled.find ((h.val * 16 * framesPerCh + frame % (16 * framesPerCh)) * 512 + line % 512) = none → (s.arbitrate 0 (.patrol (h.val * 16 * framesPerCh + frame % (16 * framesPerCh)) (line % 512)) s.tag7 false [hbmPoint (h.val * 16 * framesPerCh + frame % (16 * framesPerCh)) (line % 512)]).1 = true → line ≠ 0 → s.pageIn (h.val * 16 * framesPerCh + frame % (16 * framesPerCh)) = some (pk, x) → Sys2Proof.Machine.exec (.patrolScrub h frame line 2) s = .next (({ (s.arbitrate 0 (.patrol (h.val * 16 * framesPerCh + frame % (16 * framesPerCh)) (line % 512)) s.tag7 false [hbmPoint (h.val * 16 * framesPerCh + frame % (16 * framesPerCh)) (line % 512)]).2 with mems := { (s.arbitrate 0 (.patrol (h.val * 16 * framesPerCh + frame % (16 * framesPerCh)) (line % 512)) s.tag7 false [hbmPoint (h.val * 16 * framesPerCh + frame % (16 * framesPerCh)) (line % 512)]).2.mems with patrolled := (s.arbitrate 0 (.patrol (h.val * 16 * framesPerCh + frame % (16 * framesPerCh)) (line % 512)) s.tag7 false [hbmPoint (h.val * 16 * framesPerCh + frame % (16 * framesPerCh)) (line % 512)]).2.mems.patrolled.set ((h.val * 16 * framesPerCh + frame % (16 * framesPerCh)) * 512 + line % 512) s.now } } : State).uncorrectedAt (h.val * 16 * framesPerCh + frame % (16 * framesPerCh)) pk (line % 512))) ∧
  (∀ (s : State) (h : HbmId) (frame line err t0 : Nat), s.pwr.phase = .running → s.mems.patrolled.find ((h.val * 16 * framesPerCh + frame % (16 * framesPerCh)) * 512 + line % 512) = some t0 → s.now < t0 + max 1 (fld (s.reg (pgHbm h.val) 0x010) 7 0) * 3600000000000 → Sys2Proof.Machine.exec (.patrolScrub h frame line err) s = .next s) ∧
  (∀ (s : State) (f : Nat), s.mems.frameCe.get 0 f + 1 < max 1 (fld (s.reg (pgHbm (frameHbm f)) 0x010) 15 8) → s.correctedAt f = { s with mems := { s.mems with ce := s.mems.ce.set (frameHbm f) (satAdd (s.mems.ce.get 0 (frameHbm f)) 1 0xFFFF), frameCe := s.mems.frameCe.set f (s.mems.frameCe.get 0 f + 1) } }) ∧
  (∀ (s : State) (d : DieId) (v : Word) (o : Obj), s.pwr.phase = .running → s.recMode = 0 → o = s.stagedObj d.val → s.objRefused (objOid v) o = false → Sys2Proof.Machine.exec (.register d v) s = .next ((s.addObj (objOid v) o).objStatus d.val .ok)) ∧
  (∀ (s : State) (d : DieId) (v : Word), s.pwr.phase = .running → s.recMode = 0 → s.objRefused (objOid v) (s.stagedObj d.val) = true → Sys2Proof.Machine.exec (.register d v) s = .next { s with mems := { s.mems with objStat := s.mems.objStat.set d.val .configInvalid } }) ∧
  (∀ (s : State) (d : DieId) (v : Word) (o : Obj), s.pwr.phase = .running → s.recMode = 0 → 4096 ≤ objOid v → s.mems.objects.find (objOid v) = some o → Sys2Proof.Machine.exec (.unregister d v) s = .next { s with mems := { s.mems with objects := s.mems.objects.erase (objOid v), objStat := s.mems.objStat.set d.val .ok } }) ∧
  (∀ (s : State) (d : DieId) (v : Word) (o : Obj), s.pwr.phase = .running → s.recMode = 0 → 4096 ≤ objOid v → s.mems.objects.find (objOid v) = some o → ∃ u, Sys2Proof.Machine.exec (.objectRead d v) s = .next u ∧ (u.reg (pgCru d.val) 0x144 = w32 o.vpn ∧ u.reg (pgCru d.val) 0x148 = w32 o.npages ∧ u.reg (pgCru d.val) 0x14C = w32 o.base) ∧ (u.mems = { s.mems with objStat := s.mems.objStat.set d.val .ok }) ∧ (u = { s with mems := u.mems, regs := { s.regs with raw := u.regs.raw } })) ∧
  (∀ (s : State) (h : HbmId) (v : Word) (rest : List Nat), s.pwr.phase = .running → s.recMode = 0 → bitOf v 24 = false → s.mems.retireLog.get [] h.val = fld v 23 0 :: rest → Sys2Proof.Machine.exec (.hbmRetireLogWrite h v) s = .next { s with mems := { s.mems with retireLog := s.mems.retireLog.set h.val rest } }) ∧
  (∀ (s : State) (h : HbmId) (v : Word), s.pwr.phase = .running → s.recMode = 0 → bitOf v 24 = true → frameHbm (fld v 23 0) = h.val → Sys2Proof.Machine.exec (.hbmRetireLogWrite h v) s = .next (s.retire (fld v 23 0)))

/-- While FBK_INST_STAT.BUSY is set a command is ignored and counted. CREATE from a legal descriptor with a free PASID and room for its pinned pages makes the instance CREATED with that descriptor. ACTIVATE makes it ACTIVE with the delivered or a random key, an empty mailbox and disabled queues, and clears every perturbation and armed injection. RESET begins a drain or a squash. DESTROY of a CREATED instance ends it; of another it squashes it first. LOG_START, LOG_SWAP and LOG_STOP set the dirty log, FREEZE and THAW the phase. INSTANCE_READ fills staging. A key is delivered into the slot of a locked interface with KEYSRC. A command in a state that does not accept it posts CONFIG_INVALID and changes nothing else. -/
def Obligations.InstanceCommands : Prop :=
  (∀ (s : State) (v : Word), s.pwr.phase = .running → s.recMode = 0 → fld v 3 0 = 1 → s.fbk.instBusy = true → s.scaler pgMap 0 < 0xFFFFFFFF → Sys2Proof.Machine.exec (.create v) s = .next { s with regs := { s.regs with scal := s.regs.scal.set (scalKey pgMap 0) (s.scaler pgMap 0 + 1) } }) ∧
  (∀ (s : State) (v : Word), s.pwr.phase = .running → s.recMode = 0 → fld v 3 0 = 2 → s.fbk.instBusy = false → (s.inst (fld v 15 4)).locked = false → (s.inst (fld v 15 4)).phase ≠ .created → Sys2Proof.Machine.exec (.activate v) s = .next { s with fbk := { s.fbk with lastInst := (fld v 15 4), instStat := .configInvalid } }) ∧
  (∀ (s : State) (v : Word) (ws : List Word), s.pwr.phase = .running → s.recMode = 0 → fld v 3 0 = 1 → s.fbk.instBusy = false → (s.inst (fld v 15 4)).locked = false → (s.inst (fld v 15 4)).phase = .free → ws = (List.range 8).map (s.stage pgMap) → instDescOk ws (fld v 15 4) = true → s.insts.all (fun p => p.2.phase = .free || p.2.pasid ≠ fld (wAt ws 1) 19 0) = true → s.pinsFit (fld (wAt ws 0) 21 16) 1 = true → Sys2Proof.Machine.exec (.create v) s = .next (((((({ s with fbk := { s.fbk with lastInst := (fld v 15 4) } } : State))).setInst (fld v 15 4) { Inst.free with phase := .created, domain := fld (wAt ws 0) 21 16, cls := fld (wAt ws 0) 26 24, keysrc := bitOf (wAt ws 0) 27, pasid := fld (wAt ws 1) 19 0, quota := fld (wAt ws 2) 18 0, dmem := fld (wAt ws 3) 9 0 }).pinInst (fld v 15 4)).instPost .ok)) ∧
  (∀ (s : State) (v : Word), s.pwr.phase = .running → s.recMode = 0 → fld v 3 0 = 1 → s.fbk.instBusy = false → (s.inst (fld v 15 4)).locked = false → (s.inst (fld v 15 4)).phase = .free → instDescOk ((List.range 8).map (s.stage pgMap)) (fld v 15 4) = true → s.insts.all (fun p => p.2.phase = .free || p.2.pasid ≠ fld (wAt ((List.range 8).map (s.stage pgMap)) 1) 19 0) = true → s.pinsFit (fld (wAt ((List.range 8).map (s.stage pgMap)) 0) 21 16) 1 = false → Sys2Proof.Machine.exec (.create v) s = .next { s with fbk := { s.fbk with lastInst := (fld v 15 4), instStat := .capacityExceeded } }) ∧
  (∀ (s : State) (v : Word), s.pwr.phase = .running → s.recMode = 0 → fld v 3 0 = 2 → s.fbk.instBusy = false → (s.inst (fld v 15 4)).locked = false → (s.inst (fld v 15 4)).phase = .created → (s.inst (fld v 15 4)).keysrc = false → ∃ u, Sys2Proof.Machine.exec (.activate v) s = .next u ∧ (u.inst (fld v 15 4) = { (s.inst (fld v 15 4)) with phase := .active, key := some (Sys2Proof.Config.randomKey s.fresh), mailbox := [], seq := 0 }) ∧ (u.bist = { s.bist with inj := [] }) ∧ (∀ k ∈ List.range 10, u.reg pgBist (0x0C0 + 4 * k) = 0 ∧ u.inForce pgBist (0x0C0 + 4 * k) = 0) ∧ (([0x100, 0x120, 0x400, 0x420].all (fun o => !u.ringOn (pgMbx (fld v 15 4)) o)) = true) ∧ (u = { s with fresh := s.fresh + 1, insts := s.insts.set (fld v 15 4) (u.inst (fld v 15 4)), bist := u.bist, regs := { s.regs with raw := u.regs.raw, com := u.regs.com }, fbk := { s.fbk with lastInst := (fld v 15 4), instStat := .ok } })) ∧
  (∀ (s : State) (v : Word), s.pwr.phase = .running → s.recMode = 0 → fld v 3 0 = 2 → s.fbk.instBusy = false → (s.inst (fld v 15 4)).locked = false → (s.inst (fld v 15 4)).phase = .created → (s.inst (fld v 15 4)).keysrc = true ∧ (s.inst (fld v 15 4)).key = none → Sys2Proof.Machine.exec (.activate v) s = .next { s with fbk := { s.fbk with lastInst := (fld v 15 4), instStat := .keyDenied } }) ∧
  (∀ (s : State) (v : Word), s.pwr.phase = .running → s.recMode = 0 → fld v 3 0 = 3 → s.fbk.instBusy = false → (s.inst (fld v 15 4)).locked = false → (s.inst (fld v 15 4)).phase = .active ∨ (s.inst (fld v 15 4)).phase = .freezing ∨ (s.inst (fld v 15 4)).phase = .frozen → bitOf v 16 = false → Sys2Proof.Machine.exec (.resetDrain v) s = .next ((((({ s with fbk := { s.fbk with lastInst := (fld v 15 4) } } : State))).beginReset (fld v 15 4) .draining false).instPost .ok)) ∧
  (∀ (s : State) (v : Word), s.pwr.phase = .running → s.recMode = 0 → fld v 3 0 = 3 → s.fbk.instBusy = false → (s.inst (fld v 15 4)).locked = false → (s.inst (fld v 15 4)).phase = .active ∨ (s.inst (fld v 15 4)).phase = .draining ∨ (s.inst (fld v 15 4)).phase = .freezing ∨ (s.inst (fld v 15 4)).phase = .frozen → bitOf v 16 = true → Sys2Proof.Machine.exec (.resetSquash v) s = .next ((((({ s with fbk := { s.fbk with lastInst := (fld v 15 4) } } : State))).beginSquash (fld v 15 4) false).instPost .ok)) ∧
  (∀ (s : State) (v : Word), s.pwr.phase = .running → s.recMode = 0 → fld v 3 0 = 4 → s.fbk.instBusy = false → (s.inst (fld v 15 4)).locked = false → (s.inst (fld v 15 4)).phase = .created → Sys2Proof.Machine.exec (.destroy v) s = .next (((({ s with fbk := { s.fbk with lastInst := (fld v 15 4) } } : State))).endDestroy (fld v 15 4))) ∧
  (∀ (s : State) (v : Word), s.pwr.phase = .running → s.recMode = 0 → fld v 3 0 = 4 → s.fbk.instBusy = false → (s.inst (fld v 15 4)).locked = false → (s.inst (fld v 15 4)).phase = .active → ∃ u, Sys2Proof.Machine.exec (.destroy v) s = .next u ∧ (u.inst (fld v 15 4)).phase = .squashing ∧ (u.inst (fld v 15 4)).destroy = true ∧ u.fbk.instBusy = true ∧ u.fbk.lastInst = (fld v 15 4)) ∧
  (∀ (s : State) (v : Word) (a b : Nat), s.pwr.phase = .running → s.recMode = 0 → fld v 3 0 = 5 → s.fbk.instBusy = false → (s.inst (fld v 15 4)).locked = false → (s.inst (fld v 15 4)).phase = .active → a = (s.stage pgMap 0).toNat + 2 ^ 32 * (s.stage pgMap 1).toNat ∧ b = (s.stage pgMap 2).toNat + 2 ^ 32 * (s.stage pgMap 3).toNat → a % 4096 = 0 ∧ b % 4096 = 0 → a + (s.inst (fld v 15 4)).dmem * 2048 ≤ laneLo ∧ b + (s.inst (fld v 15 4)).dmem * 2048 ≤ laneLo → Sys2Proof.Machine.exec (.logStart v) s = .next { s with insts := s.insts.set (fld v 15 4) { (s.inst (fld v 15 4)) with logOn := true, logA := a, logB := b, logSel := false }, fbk := { s.fbk with lastInst := (fld v 15 4), instStat := .ok } }) ∧
  (∀ (s : State) (v : Word), s.pwr.phase = .running → s.recMode = 0 → fld v 3 0 = 6 → s.fbk.instBusy = false → (s.inst (fld v 15 4)).locked = false → (s.inst (fld v 15 4)).phase ≠ .free ∧ (s.inst (fld v 15 4)).phase ≠ .created → Sys2Proof.Machine.exec (.logSwap v) s = .next { s with insts := s.insts.set (fld v 15 4) { (s.inst (fld v 15 4)) with logSel := if (s.inst (fld v 15 4)).logOn then !(s.inst (fld v 15 4)).logSel else (s.inst (fld v 15 4)).logSel }, fbk := { s.fbk with lastInst := (fld v 15 4), instStat := .ok } }) ∧
  (∀ (s : State) (v : Word), s.pwr.phase = .running → s.recMode = 0 → fld v 3 0 = 7 → s.fbk.instBusy = false → (s.inst (fld v 15 4)).locked = false → (s.inst (fld v 15 4)).phase ≠ .free ∧ (s.inst (fld v 15 4)).phase ≠ .created → Sys2Proof.Machine.exec (.logStop v) s = .next { s with insts := s.insts.set (fld v 15 4) { (s.inst (fld v 15 4)) with logOn := false }, fbk := { s.fbk with lastInst := (fld v 15 4), instStat := .ok } }) ∧
  (∀ (s : State) (v : Word), s.pwr.phase = .running → s.recMode = 0 → fld v 3 0 = 8 → s.fbk.instBusy = false → (s.inst (fld v 15 4)).locked = false → (s.inst (fld v 15 4)).phase = .active → Sys2Proof.Machine.exec (.freeze v) s = .next { s with insts := s.insts.set (fld v 15 4) { (s.inst (fld v 15 4)) with phase := .freezing, cqFrozen := true }, fbk := { s.fbk with lastInst := (fld v 15 4), instStat := .ok } }) ∧
  (∀ (s : State) (v : Word), s.pwr.phase = .running → s.recMode = 0 → fld v 3 0 = 9 → s.fbk.instBusy = false → (s.inst (fld v 15 4)).locked = false → (s.inst (fld v 15 4)).phase = .freezing ∨ (s.inst (fld v 15 4)).phase = .frozen → Sys2Proof.Machine.exec (.thaw v) s = .next { s with insts := s.insts.set (fld v 15 4) { (s.inst (fld v 15 4)) with phase := .active, cqFrozen := false }, fbk := { s.fbk with lastInst := (fld v 15 4), instStat := .ok } }) ∧
  (∀ (s : State) (v : Word), s.pwr.phase = .running → s.recMode = 0 → fld v 3 0 = 10 → s.fbk.instBusy = false → (s.inst (fld v 15 4)).locked = false → (s.inst (fld v 15 4)).phase ≠ .free → ∃ u, Sys2Proof.Machine.exec (.instanceRead v) s = .next u ∧ (u.stage pgMap 0 = w32 ((fld v 15 4) + (s.inst (fld v 15 4)).domain * 2 ^ 16 + (s.inst (fld v 15 4)).cls * 2 ^ 24 + b1 (s.inst (fld v 15 4)).keysrc * 2 ^ 27) ∧ u.stage pgMap 1 = w32 (s.inst (fld v 15 4)).pasid ∧ u.stage pgMap 2 = w32 (s.inst (fld v 15 4)).quota ∧ u.stage pgMap 3 = w32 (s.inst (fld v 15 4)).dmem) ∧ (u = { s with regs := { s.regs with raw := u.regs.raw }, fbk := { s.fbk with lastInst := (fld v 15 4), instStat := .ok } })) ∧
  (∀ (s : State) (i : InstId) (key : BitVec 512), (s.inst i.val).phase ≠ .free → (s.inst i.val).keysrc = true ∧ (s.inst i.val).locked = true → Sys2Proof.Machine.exec (.keyDelivery i key) s = .next { s with insts := s.insts.set i.val { s.inst i.val with key := some key } }) ∧
  (∀ (s : State) (i : InstId) (key : BitVec 512), (s.inst i.val).phase = .free ∨ (s.inst i.val).keysrc = false ∨ (s.inst i.val).locked = false → Sys2Proof.Machine.exec (.keyDelivery i key) s = .next s)

/-- A drain completes when no context is open, no record waits and nothing is outstanding, and ends ACTIVE with RESET_DONE; past its limit it becomes a squash. A squash ends every context, stops the instance's other work and ends the same way, and a pending DESTROY then ends the instance. A freezing instance with nothing open or outstanding is FROZEN. After the end of a reset the instance is ACTIVE, has no job, and its mailbox holds at most RESET_DONE. A manager's send to an instance that is ACTIVE, FREEZING or FROZEN with room is placed and posts OK; otherwise nothing is placed and the code the table gives is posted. -/
def Obligations.InstanceResetsAndMail : Prop :=
  (∀ (s : State) (i : InstId), (s.inst i.val).phase = .draining → s.openOf i.val = [] ∧ s.fabricBusy i.val = false ∧ (s.inst i.val).ecBusy = false → (s.inst i.val).rqWait = [] → Sys2Proof.Machine.exec (.drainComplete i) s = .next (s.endReset i.val .ok)) ∧
  (∀ (s : State) (i : InstId), (s.inst i.val).rqWait ≠ [] ∨ s.openOf i.val ≠ [] → Sys2Proof.Machine.exec (.drainComplete i) s = .next s) ∧
  (∀ (s : State) (i : InstId), (s.inst i.val).phase = .draining → (s.inst i.val).drainAt + 1000 * max 1 (fld (s.reg pgMap 0x014) 19 0) ≤ s.now → Sys2Proof.Machine.exec (.drainTimeout i) s = .next (s.beginSquash i.val true)) ∧
  (∀ (s : State) (i : InstId), s.now < (s.inst i.val).drainAt + 1000 * max 1 (fld (s.reg pgMap 0x014) 19 0) → Sys2Proof.Machine.exec (.drainTimeout i) s = .next s) ∧
  (∀ (s : State) (i : InstId), (s.inst i.val).phase = .squashing → (s.inst i.val).destroy = false → Sys2Proof.Machine.exec (.squashComplete i) s = .next (((s.squashCtxs i.val).stopSkidder i.val).endReset i.val (if (s.inst i.val).byTimeout then .aborted else .ok))) ∧
  (∀ (s : State) (i : InstId), (s.inst i.val).phase = .squashing → (s.inst i.val).destroy = true → Sys2Proof.Machine.exec (.squashComplete i) s = .next ((((s.squashCtxs i.val).stopSkidder i.val).endReset i.val (if (s.inst i.val).byTimeout then .aborted else .ok)).endDestroy i.val)) ∧
  (∀ (s : State) (i : InstId), (s.inst i.val).phase = .freezing → s.openOf i.val = [] ∧ s.fabricBusy i.val = false ∧ (s.inst i.val).ecBusy = false → Sys2Proof.Machine.exec (.freezeComplete i) s = .next { s with insts := s.insts.set i.val { s.inst i.val with phase := .frozen } }) ∧
  (∀ (s : State) (i : Nat) (c : Code), (let x := (s.endReset i c).inst i; x.phase = .active ∧ x.jobs = [] ∧ x.mailbox.length = 1 ∧ x.seq = 1 ∧ x.resetMode = false ∧ x.byTimeout = false)) ∧
  (∀ (s : State) (v : Word), s.pwr.phase = .running → s.recMode = 0 → s.sendBusy .dom0 = false ∧ bitOf (s.evtRaw pgMap) 1 = false → fld v 12 0 < 4096 → (s.inst (fld v 12 0)).phase = .active ∨ (s.inst (fld v 12 0)).phase = .freezing ∨ (s.inst (fld v 12 0)).phase = .frozen → (s.inst (fld v 12 0)).mailbox.length < 64 → ∃ u, Sys2Proof.Machine.exec (.mailboxSend .dom0 v) s = .next u ∧ ((u.inst (fld v 12 0)).mailbox = (s.inst (fld v 12 0)).mailbox ++ [message 0x10 1 .ok 0 ((s.inst (fld v 12 0)).seq + 1) s.now32 ((List.range 4).map (fun i => s.reg pgMap (0x300 + 4 * i))) (fld v 31 16)]) ∧ (u.fbk = { s.fbk with sendStat := .ok, sendSid := fld v 31 16, sendUntil := u.fbk.sendUntil, watch := false } ∧ s.now ≤ u.fbk.sendUntil ∧ u.fbk.sendUntil ≤ s.now + 2000) ∧ (u = { s with insts := s.insts.set (fld v 12 0) (u.inst (fld v 12 0)), fbk := u.fbk, fresh := u.fresh, regs := u.regs, mem := u.mem, mems := u.mems, shape := u.shape, bist := u.bist, fabric := u.fabric, out := u.out })) ∧
  (∀ (s : State) (v : Word), s.pwr.phase = .running → s.recMode = 0 → s.sendBusy .dom0 = false ∧ bitOf (s.evtRaw pgMap) 1 = false → fld v 12 0 < 4096 → (s.inst (fld v 12 0)).phase = .free ∨ (s.inst (fld v 12 0)).phase = .created → ∃ u, Sys2Proof.Machine.exec (.mailboxSend .dom0 v) s = .next u ∧ (u.fbk = { s.fbk with sendStat := .keyDenied, sendSid := fld v 31 16, sendUntil := u.fbk.sendUntil, watch := false } ∧ s.now ≤ u.fbk.sendUntil ∧ u.fbk.sendUntil ≤ s.now + 2000) ∧ (u = { s with fresh := s.fresh + 1, fbk := u.fbk })) ∧
  (∀ (s : State) (v : Word), s.pwr.phase = .running → s.recMode = 0 → s.sendBusy .dom0 = false ∧ bitOf (s.evtRaw pgMap) 1 = false → fld v 12 0 < 4096 → (s.inst (fld v 12 0)).phase = .active → 64 ≤ (s.inst (fld v 12 0)).mailbox.length → ∃ u, Sys2Proof.Machine.exec (.mailboxSend .dom0 v) s = .next u ∧ (u.fbk = { s.fbk with sendStat := .overflow, sendSid := fld v 31 16, sendUntil := u.fbk.sendUntil, ovfTarget := fld v 12 0, watch := true } ∧ s.now ≤ u.fbk.sendUntil ∧ u.fbk.sendUntil ≤ s.now + 2000) ∧ (u = { s with fresh := s.fresh + 1, fbk := u.fbk })) ∧
  (∀ (s : State) (v : Word), s.pwr.phase = .running → s.sendBusy .dom0 = true → Sys2Proof.Machine.exec (.mailboxSend .dom0 v) s = .next (s.bump pgMap 0 1)) ∧
  (∀ (s : State) (i : InstId) (v : Word), s.pwr.phase = .running → pageDead (s.inst i.val).phase = false → s.sendBusy (.inst i) = true → Sys2Proof.Machine.exec (.mailboxSend (.inst i) v) s = .next (s.bump (pgMbx i.val) 3 1)) ∧
  (∀ (s : State) (i : InstId) (v : Word), s.pwr.phase = .running → s.recMode = 0 → pageDead (s.inst i.val).phase = false → s.sendBusy (.inst i) = false ∧ bitOf (s.evtRaw (pgMbx i.val)) 1 = false → fld v 12 0 < 4096 → (s.inst (fld v 12 0)).domain ≠ (s.inst i.val).domain → (s.inst (fld v 12 0)).phase = .active → ∃ u, Sys2Proof.Machine.exec (.mailboxSend (.inst i) v) s = .next u ∧ (u.inst i.val = { s.inst i.val with sendStat := .keyDenied, sendSid := fld v 31 16, sendUntil := (u.inst i.val).sendUntil, watch := false }) ∧ (u = { s with fresh := s.fresh + 1, insts := s.insts.set i.val (u.inst i.val) }))

/-- MBX_MB_HEAD0–7 read the eight words of the oldest message, or, with an empty mailbox, 0x00020000 in word 0 and zeros in the others; a read is a function of the state and so consumes nothing. Writing the oldest message's SEQ to MBX_MB_ACK removes that message and no other; any other value, and any value with an empty mailbox, removes nothing and raises the page's counter of ignored writes. -/
def Obligations.MailboxHeadAndAck : Prop :=
  (∀ (s : State) (i : InstId) (k : Fin 8) (m : List Word) (rest : List (List Word)), (s.inst i.val).mailbox = m :: rest → pageDead (s.inst i.val).phase = false → s.readReg (pgMbx i.val) (0x220 + 4 * k.val) = wAt m k.val) ∧
  (∀ (s : State) (i : InstId) (k : Fin 8), (s.inst i.val).mailbox = [] → pageDead (s.inst i.val).phase = false → s.readReg (pgMbx i.val) (0x220 + 4 * k.val) = if k.val = 0 then 0x00020000 else 0) ∧
  (∀ (s : State) (i : InstId) (v : Word) (m : List Word) (rest : List (List Word)), s.pwr.phase = .running → pageDead (s.inst i.val).phase = false → (s.inst i.val).mailbox = m :: rest → wAt m 2 = v → ∃ u, Sys2Proof.Machine.exec (.mailboxAck i v) s = .next u ∧ (u.inst i.val = { s.inst i.val with mailbox := rest }) ∧ (∀ k, k ≠ i.val → u.inst k = s.inst k) ∧ (u = { s with insts := s.insts.set i.val (u.inst i.val), fresh := u.fresh, regs := u.regs, mem := u.mem, mems := u.mems, shape := u.shape, bist := u.bist, fabric := u.fabric, out := u.out })) ∧
  (∀ (s : State) (i : InstId) (v : Word), s.pwr.phase = .running → pageDead (s.inst i.val).phase = false → (s.inst i.val).mailbox = [] ∨ wAt ((s.inst i.val).mailbox.headD []) 2 ≠ v → s.scaler (pgMbx i.val) 1 < 0xFFFFFFFF → Sys2Proof.Machine.exec (.mailboxAck i v) s = .next { s with regs := { s.regs with scal := s.regs.scal.set (scalKey (pgMbx i.val) 1) (s.scaler (pgMbx i.val) 1 + 1) } })

/-- A descriptor stands at the head of an enabled queue that serves its page, is not paused, has no fence before it and no descriptor being issued. A data operation whose import is valid takes the stream's next SEQ and sends one segment with the import's names; one refused at the source completes at once with the code. PUT and GET issue segment by segment of 512 bytes, below 1,024 unacknowledged. A FENCE sends what is gathered, holds later descriptors, and completes when nothing of the stream is unacknowledged. REGION_OPEN, GRANT and IMPORT take a free number and return it; REGION_CLOSE ends the region's grants; REVOKE, UNIMPORT and IMPORT_CLEAR act for the holder only, others get KEY_DENIED. A FENCED module completes every descriptor with FENCED_OUT. Doorbell and head writes outside their rings are ignored and counted. Numbers of regions, grants and imports are free picks (log entry 25). -/
def Obligations.FabricCommands : Prop :=
  (∀ (s : State) (i : InstId), (s.inst i.val).phase = .active → s.ringOn (pgMbx i.val) 0x400 = true → (s.fstream i.val).fqHead ≠ s.ringIdx (pgMbx i.val) 0x400 → (s.fstream i.val).paused = false ∧ (s.fstream i.val).fcWait = [] ∧ (s.fstream i.val).cur = none → (s.fstream i.val).ops.any (·.fence) = false ∧ s.fcRoom (.inst i) = true → (s.loadDev (.inst i) (s.ringBase (pgMbx i.val) 0x400 + 64 * ((s.fstream i.val).fqHead % s.ringLen (pgMbx i.val) 0x400)) 64).1 = .ok → (s.fqEntry (.inst i)).map (·.1) = some (wordsOf 16 (s.loadDev (.inst i) (s.ringBase (pgMbx i.val) 0x400 + 64 * ((s.fstream i.val).fqHead % s.ringLen (pgMbx i.val) 0x400)) 64).2.1)) ∧
  (∀ (s : State) (sp : Space) (ws : List Word), (s.fqEntry sp).map (·.1) = some ws → fqOp ws = 3 → (((s.fqEntry sp).map (·.2)).getD s).lv.cut = false → fqDescOk ws = true → (s.fstream (spaceIdx sp)).unacked.length < 1024 ∧ (fqDests ws).all (s.fqEligible sp) = true → Sys2Proof.Machine.exec (.fabricStore sp) s = .next (((((s.fqEntry sp).map (·.2)).getD s).setFstream (spaceIdx sp) { (((s.fqEntry sp).map (·.2)).getD s).fstream (spaceIdx sp) with fqHead := (((((s.fqEntry sp).map (·.2)).getD s).fstream (spaceIdx sp)).fqHead + 1) % 65536 }).fqOne sp (.write (fqData ws (fqLen ws))) (fqCtr ws) ws)) ∧
  (∀ (s : State) (sp : Space) (ws : List Word), (s.fqEntry sp).map (·.1) = some ws → fqOp ws = 4 → (((s.fqEntry sp).map (·.2)).getD s).lv.cut = false → fqDescOk ws = true → (s.fstream (spaceIdx sp)).unacked.length < 1024 ∧ (fqDests ws).all (s.fqEligible sp) = true → Sys2Proof.Machine.exec (.fabricLoad sp) s = .next (((((s.fqEntry sp).map (·.2)).getD s).setFstream (spaceIdx sp) { (((s.fqEntry sp).map (·.2)).getD s).fstream (spaceIdx sp) with fqHead := (((((s.fqEntry sp).map (·.2)).getD s).fstream (spaceIdx sp)).fqHead + 1) % 65536 }).fqOne sp (.read (fqLen ws)) none ws)) ∧
  (∀ (s : State) (sp : Space) (ws : List Word), (s.fqEntry sp).map (·.1) = some ws → fqOp ws = 5 → (((s.fqEntry sp).map (·.2)).getD s).lv.cut = false → fqDescOk ws = true → (s.fstream (spaceIdx sp)).unacked.length < 1024 ∧ (fqDests ws).all (s.fqEligible sp) = true → Sys2Proof.Machine.exec (.red sp) s = .next (((((s.fqEntry sp).map (·.2)).getD s).setFstream (spaceIdx sp) { (((s.fqEntry sp).map (·.2)).getD s).fstream (spaceIdx sp) with fqHead := (((((s.fqEntry sp).map (·.2)).getD s).fstream (spaceIdx sp)).fqHead + 1) % 65536 }).fqOne sp (.red (fld (wAt ws 0) 11 8 = 1) (fqRop ws) ((List.range (fqLen ws / 4)).map (fun i => wAt ws (8 + i)))) (fqCtr ws) ws)) ∧
  (∀ (s : State) (sp : Space) (ws : List Word), (s.fqEntry sp).map (·.1) = some ws → fqOp ws = 7 → (((s.fqEntry sp).map (·.2)).getD s).lv.cut = false → fqDescOk ws = true → (s.fstream (spaceIdx sp)).unacked.length < 1024 ∧ (fqDests ws).all (s.fqEligible sp) = true → Sys2Proof.Machine.exec (.atomic sp) s = .next (((((s.fqEntry sp).map (·.2)).getD s).setFstream (spaceIdx sp) { (((s.fqEntry sp).map (·.2)).getD s).fstream (spaceIdx sp) with fqHead := (((((s.fqEntry sp).map (·.2)).getD s).fstream (spaceIdx sp)).fqHead + 1) % 65536 }).fqOne sp (.atomic (bitOf (wAt ws 0) 14) (fqRop ws) (BitVec.ofNat 64 ((wAt ws 8).toNat + 2 ^ 32 * (wAt ws 9).toNat)) (BitVec.ofNat 64 ((wAt ws 10).toNat + 2 ^ 32 * (wAt ws 11).toNat))) none ws)) ∧
  (∀ (s : State) (sp : Space), (s.fstream (spaceIdx sp)).fqHead = s.ringIdx (fqPage sp) 0x400 → Sys2Proof.Machine.exec (.fabricStore sp) s = .next s) ∧
  (∀ (s : State) (sp : Space) (ws : List Word), (s.fqEntry sp).map (·.1) = some ws → fqOp ws = 1 → (((s.fqEntry sp).map (·.2)).getD s).lv.cut = false → fqDescOk ws = true → (s.fstream (spaceIdx sp)).unacked.length < 1024 ∧ (fqDests ws).all (s.fqEligible sp) = true → Sys2Proof.Machine.exec (.put sp) s = .next (State.fqBulk sp ws ((((s.fqEntry sp).map (·.2)).getD s).setFstream (spaceIdx sp) { (((s.fqEntry sp).map (·.2)).getD s).fstream (spaceIdx sp) with fqHead := (((((s.fqEntry sp).map (·.2)).getD s).fstream (spaceIdx sp)).fqHead + 1) % 65536 }))) ∧
  (∀ (s : State) (sp : Space) (ws : List Word), (s.fqEntry sp).map (·.1) = some ws → fqOp ws = 2 → (((s.fqEntry sp).map (·.2)).getD s).lv.cut = false → fqDescOk ws = true → (s.fstream (spaceIdx sp)).unacked.length < 1024 ∧ (fqDests ws).all (s.fqEligible sp) = true → Sys2Proof.Machine.exec (.get sp) s = .next (State.fqBulk sp ws ((((s.fqEntry sp).map (·.2)).getD s).setFstream (spaceIdx sp) { (((s.fqEntry sp).map (·.2)).getD s).fstream (spaceIdx sp) with fqHead := (((((s.fqEntry sp).map (·.2)).getD s).fstream (spaceIdx sp)).fqHead + 1) % 65536 }))) ∧
  (∀ (s : State) (sp : Space) (ws : List Word) (h : Nat), (s.fqEntry sp).map (·.1) = some ws → fqOp ws = 6 → (((s.fqEntry sp).map (·.2)).getD s).lv.cut = false → fqDescOk ws = true → (s.fstream (spaceIdx sp)).unacked.length + 8 ≤ 1024 ∧ (fqDests ws).all (s.fqEligible sp) = true → fld (wAt ws 6) 27 24 = 1 ∧ fld (wAt ws 12) 15 0 = h → (((s.fqEntry sp).map (·.2)).getD s).importCode sp h 1 = .ok → ∃ u, Sys2Proof.Machine.exec (.mstore sp) s = .next u ∧ ((u.fstream (spaceIdx sp)).seq = (((((s.fqEntry sp).map (·.2)).getD s).fstream (spaceIdx sp)).seq + 1) % 2 ^ 24) ∧ (((u.fstream (spaceIdx sp)).unacked.drop ((((s.fqEntry sp).map (·.2)).getD s).fstream (spaceIdx sp)).unacked.length).map (fun x => (x.seg.seq, x.seg.op, x.seg.offset, x.seg.mstore, x.import_)) = [(((((s.fqEntry sp).map (·.2)).getD s).fstream (spaceIdx sp)).seq, SegOp.write (fqData ws (fqLen ws)), fqOffset ws, true, h)]) ∧ (u.cells = s.cells ∧ u.tiles = s.tiles ∧ u.ctxs = s.ctxs ∧ u.groves = s.groves ∧ u.time = s.time ∧ u.seed = s.seed)) ∧
  (∀ (s : State) (sp : Space) (ws : List Word), (s.fqEntry sp).map (·.1) = some ws → fqOp ws = 8 → (((s.fqEntry sp).map (·.2)).getD s).lv.cut = false → fqDescOk ws = true → Sys2Proof.Machine.exec (.fence sp) s = .next ((foldS ((((((s.fqEntry sp).map (·.2)).getD s).setFstream (spaceIdx sp) { (((s.fqEntry sp).map (·.2)).getD s).fstream (spaceIdx sp) with fqHead := (((((s.fqEntry sp).map (·.2)).getD s).fstream (spaceIdx sp)).fqHead + 1) % 65536 }).newOp sp ws 0 .ok).2.fabric.gather.filter (fun b => b.stream = sp)) (fun b u => u.gatherFlush b) (((((s.fqEntry sp).map (·.2)).getD s).setFstream (spaceIdx sp) { (((s.fqEntry sp).map (·.2)).getD s).fstream (spaceIdx sp) with fqHead := (((((s.fqEntry sp).map (·.2)).getD s).fstream (spaceIdx sp)).fqHead + 1) % 65536 }).newOp sp ws 0 .ok).2).opsCheck sp)) ∧
  (∀ (s : State) (sp : Space) (ws : List Word), (s.fqEntry sp).map (·.1) = some ws → fqOp ws = 8 → (((s.fqEntry sp).map (·.2)).getD s).lv.cut = true → Sys2Proof.Machine.exec (.fence sp) s = .next (((((s.fqEntry sp).map (·.2)).getD s).setFstream (spaceIdx sp) { (((s.fqEntry sp).map (·.2)).getD s).fstream (spaceIdx sp) with fqHead := (((((s.fqEntry sp).map (·.2)).getD s).fstream (spaceIdx sp)).fqHead + 1) % 65536 }).fqFinish sp ws .fencedOut 0 [])) ∧
  (∀ (s : State) (sp : Space) (ws : List Word), (s.fqEntry sp).map (·.1) = some ws → fqOp ws = 8 → (((s.fqEntry sp).map (·.2)).getD s).lv.cut = false → fqDescOk ws = false → Sys2Proof.Machine.exec (.fence sp) s = .next (((((s.fqEntry sp).map (·.2)).getD s).setFstream (spaceIdx sp) { (((s.fqEntry sp).map (·.2)).getD s).fstream (spaceIdx sp) with fqHead := (((((s.fqEntry sp).map (·.2)).getD s).fstream (spaceIdx sp)).fqHead + 1) % 65536 }).fqFinish sp ws .configInvalid 0 [])) ∧
  (∀ (s : State) (sp : Space) (so : SegOp) (ctr : Option Nat) (ws : List Word) (m : Import), s.fabric.imports.find (fqImport ws) = some m → m.holder = sp ∧ m.suspect = false ∧ m.perm / 2 ^ opPerm so % 2 = 1 → (s.fstream (spaceIdx sp)).ops.all (fun o => decide (o.id ≠ (s.fstream (spaceIdx sp)).nextOp)) = true → (let f := s.fstream (spaceIdx sp); let g := (s.fqOne sp so ctr ws).fstream (spaceIdx sp); g.seq = (f.seq + 1) % 2 ^ 24 ∧ g.unacked.length = f.unacked.length + 1 ∧ (g.unacked.drop f.unacked.length).map (fun x => (x.seg, x.import_, x.home, x.op)) = [({ src := s.modId, stream := (spaceIdx sp), seq := f.seq, region := m.region, grant := m.grant, key := m.key, offset := fqOffset ws, op := so, ctr := ctr, mstore := false, tag := s.fabricTag sp }, fqImport ws, m.home, f.nextOp)])) ∧
  (∀ (s : State) (sp : Space) (so : SegOp) (ctr : Option Nat) (ws : List Word), s.fabric.imports.find (fqImport ws) = none → s.fqOne sp so ctr ws = s.fqFinish sp ws .keyDenied 0 []) ∧
  (∀ (s : State) (sp : Space) (h p : Nat) (m : Import), s.fabric.imports.find h = some m → m.holder = sp ∧ m.suspect = true ∧ m.perm / 2 ^ p % 2 = 1 → s.importCode sp h p = .pathLost) ∧
  (∀ (s : State) (sp : Space) (c : Issuing), fqOp c.words = 0x01 → s.importCode sp (fqImport c.words) 1 = .ok → (s.loadDev sp (fqLva c.words + 512 * c.next) (min 512 (fqLen c.words - 512 * c.next))).1 = .ok → (let l := s.loadDev sp (fqLva c.words + 512 * c.next) (min 512 (fqLen c.words - 512 * c.next)); s.pgSegment sp c = (l.2.2.takeSeq sp).2.segIssue sp c.op (fqImport c.words) (fqOffset c.words + 512 * c.next) 0 (l.2.2.takeSeq sp).1 (.write l.2.1) (fqCtr c.words) false)) ∧
  (∀ (s : State) (sp : Space) (c : Issuing), fqOp c.words = 0x02 → s.importCode sp (fqImport c.words) 0 = .ok → s.accCode sp (fqLva c.words + 512 * c.next) (min 512 (fqLen c.words - 512 * c.next)) = .ok → s.pgSegment sp c = (s.takeSeq sp).2.segIssue sp c.op (fqImport c.words) (fqOffset c.words + 512 * c.next) (fqLva c.words + 512 * c.next) (s.takeSeq sp).1 (.read (min 512 (fqLen c.words - 512 * c.next))) none false) ∧
  (∀ (s : State) (sp : Space) (n : Nat) (c : Issuing), (s.fstream (spaceIdx sp)).cur = some c ∧ c.next < c.total → 1024 ≤ (s.fstream (spaceIdx sp)).unacked.length → s.squashes sp = false → State.fqIssue sp n s = s) ∧
  (∀ (s : State) (sp : Space) (n : Nat) (c : Issuing), (s.fstream (spaceIdx sp)).cur = some c → s.squashes sp = true → State.fqIssue sp (n + 1) s = s.setFstream (spaceIdx sp) { s.fstream (spaceIdx sp) with cur := none }) ∧
  (∀ (s : State) (sp : Space), (s.fstream (spaceIdx sp)).unacked ≠ [] → (s.fstream (spaceIdx sp)).ops.all (fun o => o.fence || decide (o.left ≠ 0)) = true → s.opsCheck sp = s) ∧
  (∀ (s : State) (sp : Space) (o : FabOp), (s.fstream (spaceIdx sp)).unacked = [] ∧ (s.fstream (spaceIdx sp)).cur = none ∧ (s.fstream (spaceIdx sp)).ops = [o] ∧ o.fence = true → s.opsCheck sp = s.opDone sp { o with code := codeMin o.code (s.fstream (spaceIdx sp)).codes }) ∧
  (∀ (s : State) (sp : Space) (a b : Word) (r : List Word), (s.fstream (spaceIdx sp)).fcWait = [] → s.fcRoom sp = true → s.fcPost sp (a :: b :: r) = (let t := ((s.setFstream (spaceIdx sp) { s.fstream (spaceIdx sp) with fcTail := ((s.fstream (spaceIdx sp)).fcTail + 1) % 65536 }).storeDev sp (s.ringBase (fqPage sp) 0x420 + 32 * ((s.fstream (spaceIdx sp)).fcTail % s.ringLen (fqPage sp) 0x420)) (bytesOf (w32 (a.toNat + phaseOf (s.fstream (spaceIdx sp)).fcTail (s.ringLen (fqPage sp) 0x420) * 2 ^ 24) :: s.now32 :: r))).2; if t.fcRoom sp then t else t.fqPaused sp true)) ∧
  (∀ (s : State) (sp : Space) (ws : List Word), s.fcRoom sp = false → (let u := s.fcPost sp ws; u.fstream (spaceIdx sp) = { s.fstream (spaceIdx sp) with fcWait := (s.fstream (spaceIdx sp)).fcWait ++ [setAt ws 1 s.now32], paused := true })) ∧
  (∀ (s : State) (sp : Space) (ws : List Word), (s.fqEntry sp).map (·.1) = some ws → fqOp ws = 16 → (((s.fqEntry sp).map (·.2)).getD s).lv.cut = false → fqDescOk ws = true → fqOffset ws % 65536 = 0 ∧ 1 ≤ fqLen ws ∧ (((s.fqEntry sp).map (·.2)).getD s).inDevice sp (fqOffset ws) (fqLen ws * 65536) = true → fld (wAt ws 7) 27 16 ≤ 2048 ∧ fld (wAt ws 7) 15 0 + fld (wAt ws 7) 27 16 ≤ 65536 → (List.range (fld (wAt ws 7) 27 16)).all (fun j => (((s.fqEntry sp).map (·.2)).getD s).ctrHeld ((((s.fqEntry sp).map (·.2)).getD s).domainOf sp) (fld (wAt ws 7) 15 0 + j)) = true → (((s.fqEntry sp).map (·.2)).getD s).fabric.regions.length < 16384 → Sys2Proof.Machine.exec (.regionOpen sp) s = .next (({ (((((((s.fqEntry sp).map (·.2)).getD s).setFstream (spaceIdx sp) { (((s.fqEntry sp).map (·.2)).getD s).fstream (spaceIdx sp) with fqHead := (((((s.fqEntry sp).map (·.2)).getD s).fstream (spaceIdx sp)).fqHead + 1) % 65536 }).pickFree (((((s.fqEntry sp).map (·.2)).getD s).setFstream (spaceIdx sp) { (((s.fqEntry sp).map (·.2)).getD s).fstream (spaceIdx sp) with fqHead := (((((s.fqEntry sp).map (·.2)).getD s).fstream (spaceIdx sp)).fqHead + 1) % 65536 }).fabric.regions.map (·.1)) 16384).map (·.2)).getD ((((s.fqEntry sp).map (·.2)).getD s).setFstream (spaceIdx sp) { (((s.fqEntry sp).map (·.2)).getD s).fstream (spaceIdx sp) with fqHead := (((((s.fqEntry sp).map (·.2)).getD s).fstream (spaceIdx sp)).fqHead + 1) % 65536 })) with fabric := { (((((((s.fqEntry sp).map (·.2)).getD s).setFstream (spaceIdx sp) { (((s.fqEntry sp).map (·.2)).getD s).fstream (spaceIdx sp) with fqHead := (((((s.fqEntry sp).map (·.2)).getD s).fstream (spaceIdx sp)).fqHead + 1) % 65536 }).pickFree (((((s.fqEntry sp).map (·.2)).getD s).setFstream (spaceIdx sp) { (((s.fqEntry sp).map (·.2)).getD s).fstream (spaceIdx sp) with fqHead := (((((s.fqEntry sp).map (·.2)).getD s).fstream (spaceIdx sp)).fqHead + 1) % 65536 }).fabric.regions.map (·.1)) 16384).map (·.2)).getD ((((s.fqEntry sp).map (·.2)).getD s).setFstream (spaceIdx sp) { (((s.fqEntry sp).map (·.2)).getD s).fstream (spaceIdx sp) with fqHead := (((((s.fqEntry sp).map (·.2)).getD s).fstream (spaceIdx sp)).fqHead + 1) % 65536 })).fabric with regions := (((((((s.fqEntry sp).map (·.2)).getD s).setFstream (spaceIdx sp) { (((s.fqEntry sp).map (·.2)).getD s).fstream (spaceIdx sp) with fqHead := (((((s.fqEntry sp).map (·.2)).getD s).fstream (spaceIdx sp)).fqHead + 1) % 65536 }).pickFree (((((s.fqEntry sp).map (·.2)).getD s).setFstream (spaceIdx sp) { (((s.fqEntry sp).map (·.2)).getD s).fstream (spaceIdx sp) with fqHead := (((((s.fqEntry sp).map (·.2)).getD s).fstream (spaceIdx sp)).fqHead + 1) % 65536 }).fabric.regions.map (·.1)) 16384).map (·.2)).getD ((((s.fqEntry sp).map (·.2)).getD s).setFstream (spaceIdx sp) { (((s.fqEntry sp).map (·.2)).getD s).fstream (spaceIdx sp) with fqHead := (((((s.fqEntry sp).map (·.2)).getD s).fstream (spaceIdx sp)).fqHead + 1) % 65536 })).fabric.regions.set (((((((s.fqEntry sp).map (·.2)).getD s).setFstream (spaceIdx sp) { (((s.fqEntry sp).map (·.2)).getD s).fstream (spaceIdx sp) with fqHead := (((((s.fqEntry sp).map (·.2)).getD s).fstream (spaceIdx sp)).fqHead + 1) % 65536 }).pickFree (((((s.fqEntry sp).map (·.2)).getD s).setFstream (spaceIdx sp) { (((s.fqEntry sp).map (·.2)).getD s).fstream (spaceIdx sp) with fqHead := (((((s.fqEntry sp).map (·.2)).getD s).fstream (spaceIdx sp)).fqHead + 1) % 65536 }).fabric.regions.map (·.1)) 16384).map (·.1)).getD 0) { owner := sp, base := fqOffset ws, pages := fqLen ws, atomic := bitOf (wAt ws 1) 0, ctrBase := fld (wAt ws 7) 15 0, ctrN := fld (wAt ws 7) 27 16 } } } : State).fqFinish sp ws .ok 0 [w32 (((((((s.fqEntry sp).map (·.2)).getD s).setFstream (spaceIdx sp) { (((s.fqEntry sp).map (·.2)).getD s).fstream (spaceIdx sp) with fqHead := (((((s.fqEntry sp).map (·.2)).getD s).fstream (spaceIdx sp)).fqHead + 1) % 65536 }).pickFree (((((s.fqEntry sp).map (·.2)).getD s).setFstream (spaceIdx sp) { (((s.fqEntry sp).map (·.2)).getD s).fstream (spaceIdx sp) with fqHead := (((((s.fqEntry sp).map (·.2)).getD s).fstream (spaceIdx sp)).fqHead + 1) % 65536 }).fabric.regions.map (·.1)) 16384).map (·.1)).getD 0)])) ∧
  (∀ (s : State) (sp : Space) (ws : List Word), (s.fqEntry sp).map (·.1) = some ws → fqOp ws = 16 → (((s.fqEntry sp).map (·.2)).getD s).lv.cut = false → fqDescOk ws = true → fqOffset ws % 65536 ≠ 0 ∨ fqLen ws = 0 ∨ 2048 < fld (wAt ws 7) 27 16 → Sys2Proof.Machine.exec (.regionOpen sp) s = .next (((((s.fqEntry sp).map (·.2)).getD s).setFstream (spaceIdx sp) { (((s.fqEntry sp).map (·.2)).getD s).fstream (spaceIdx sp) with fqHead := (((((s.fqEntry sp).map (·.2)).getD s).fstream (spaceIdx sp)).fqHead + 1) % 65536 }).fqFinish sp ws .configInvalid 0 [])) ∧
  (∀ (s : State) (used : List Nat) (n : Nat), used.length < n → ∃ k t, s.pickFree used n = some (k, t) ∧ k < n ∧ k ∉ used ∧ t = { s with fresh := s.fresh + 1 }) ∧
  (∀ (s : State) (sp : Space) (ws : List Word) (x : Region), (s.fqEntry sp).map (·.1) = some ws → fqOp ws = 17 → (((s.fqEntry sp).map (·.2)).getD s).lv.cut = false → fqDescOk ws = true → (((s.fqEntry sp).map (·.2)).getD s).fabric.regions.find (fld (wAt ws 1) 13 0) = some x ∧ x.owner = sp → ∃ u, Sys2Proof.Machine.exec (.regionClose sp) s = .next u ∧ (let t0 : State := { ((((s.fqEntry sp).map (·.2)).getD s).setFstream (spaceIdx sp) { (((s.fqEntry sp).map (·.2)).getD s).fstream (spaceIdx sp) with fqHead := (((((s.fqEntry sp).map (·.2)).getD s).fstream (spaceIdx sp)).fqHead + 1) % 65536 }) with fabric := { ((((s.fqEntry sp).map (·.2)).getD s).setFstream (spaceIdx sp) { (((s.fqEntry sp).map (·.2)).getD s).fstream (spaceIdx sp) with fqHead := (((((s.fqEntry sp).map (·.2)).getD s).fstream (spaceIdx sp)).fqHead + 1) % 65536 }).fabric with grants := (((s.fqEntry sp).map (·.2)).getD s).fabric.grants.filter (fun g => g.2.region ≠ fld (wAt ws 1) 13 0) } }; let t1 := (State.hotDrain (t0.regionDie x) x ((t0.agent (t0.regionDie x)).queue.length + (t0.agent (t0.regionDie x)).outside.length) t0).endExact (spaceIdx sp) x.base (x.pages * 65536); u = ({ t1 with fabric := { t1.fabric with regions := t1.fabric.regions.erase (fld (wAt ws 1) 13 0) } } : State).fqFinish sp ws .ok 0 [])) ∧
  (∀ (s : State) (sp : Space) (ws : List Word), (s.fqEntry sp).map (·.1) = some ws → fqOp ws = 17 → (((s.fqEntry sp).map (·.2)).getD s).lv.cut = false → fqDescOk ws = true → (((s.fqEntry sp).map (·.2)).getD s).ownsRegion sp (fld (wAt ws 1) 13 0) = false → Sys2Proof.Machine.exec (.regionClose sp) s = .next (((((s.fqEntry sp).map (·.2)).getD s).setFstream (spaceIdx sp) { (((s.fqEntry sp).map (·.2)).getD s).fstream (spaceIdx sp) with fqHead := (((((s.fqEntry sp).map (·.2)).getD s).fstream (spaceIdx sp)).fqHead + 1) % 65536 }).fqFinish sp ws .keyDenied 0 [])) ∧
  (∀ (s : State) (sp : Space) (ws : List Word), (s.fqEntry sp).map (·.1) = some ws → fqOp ws = 18 → (((s.fqEntry sp).map (·.2)).getD s).lv.cut = false → fqDescOk ws = true → (((s.fqEntry sp).map (·.2)).getD s).ownsRegion sp (fld (wAt ws 1) 13 0) = true → (((s.fqEntry sp).map (·.2)).getD s).fabric.grants.length < 65536 → Sys2Proof.Machine.exec (.grant sp) s = .next (({ (((((((s.fqEntry sp).map (·.2)).getD s).setFstream (spaceIdx sp) { (((s.fqEntry sp).map (·.2)).getD s).fstream (spaceIdx sp) with fqHead := (((((s.fqEntry sp).map (·.2)).getD s).fstream (spaceIdx sp)).fqHead + 1) % 65536 }).pickFree (((((s.fqEntry sp).map (·.2)).getD s).setFstream (spaceIdx sp) { (((s.fqEntry sp).map (·.2)).getD s).fstream (spaceIdx sp) with fqHead := (((((s.fqEntry sp).map (·.2)).getD s).fstream (spaceIdx sp)).fqHead + 1) % 65536 }).fabric.grants.map (·.1)) 65536).map (·.2)).getD ((((s.fqEntry sp).map (·.2)).getD s).setFstream (spaceIdx sp) { (((s.fqEntry sp).map (·.2)).getD s).fstream (spaceIdx sp) with fqHead := (((((s.fqEntry sp).map (·.2)).getD s).fstream (spaceIdx sp)).fqHead + 1) % 65536 })) with fresh := (((((((s.fqEntry sp).map (·.2)).getD s).setFstream (spaceIdx sp) { (((s.fqEntry sp).map (·.2)).getD s).fstream (spaceIdx sp) with fqHead := (((((s.fqEntry sp).map (·.2)).getD s).fstream (spaceIdx sp)).fqHead + 1) % 65536 }).pickFree (((((s.fqEntry sp).map (·.2)).getD s).setFstream (spaceIdx sp) { (((s.fqEntry sp).map (·.2)).getD s).fstream (spaceIdx sp) with fqHead := (((((s.fqEntry sp).map (·.2)).getD s).fstream (spaceIdx sp)).fqHead + 1) % 65536 }).fabric.grants.map (·.1)) 65536).map (·.2)).getD ((((s.fqEntry sp).map (·.2)).getD s).setFstream (spaceIdx sp) { (((s.fqEntry sp).map (·.2)).getD s).fstream (spaceIdx sp) with fqHead := (((((s.fqEntry sp).map (·.2)).getD s).fstream (spaceIdx sp)).fqHead + 1) % 65536 })).fresh + 1, fabric := { (((((((s.fqEntry sp).map (·.2)).getD s).setFstream (spaceIdx sp) { (((s.fqEntry sp).map (·.2)).getD s).fstream (spaceIdx sp) with fqHead := (((((s.fqEntry sp).map (·.2)).getD s).fstream (spaceIdx sp)).fqHead + 1) % 65536 }).pickFree (((((s.fqEntry sp).map (·.2)).getD s).setFstream (spaceIdx sp) { (((s.fqEntry sp).map (·.2)).getD s).fstream (spaceIdx sp) with fqHead := (((((s.fqEntry sp).map (·.2)).getD s).fstream (spaceIdx sp)).fqHead + 1) % 65536 }).fabric.grants.map (·.1)) 65536).map (·.2)).getD ((((s.fqEntry sp).map (·.2)).getD s).setFstream (spaceIdx sp) { (((s.fqEntry sp).map (·.2)).getD s).fstream (spaceIdx sp) with fqHead := (((((s.fqEntry sp).map (·.2)).getD s).fstream (spaceIdx sp)).fqHead + 1) % 65536 })).fabric with grants := (((((((s.fqEntry sp).map (·.2)).getD s).setFstream (spaceIdx sp) { (((s.fqEntry sp).map (·.2)).getD s).fstream (spaceIdx sp) with fqHead := (((((s.fqEntry sp).map (·.2)).getD s).fstream (spaceIdx sp)).fqHead + 1) % 65536 }).pickFree (((((s.fqEntry sp).map (·.2)).getD s).setFstream (spaceIdx sp) { (((s.fqEntry sp).map (·.2)).getD s).fstream (spaceIdx sp) with fqHead := (((((s.fqEntry sp).map (·.2)).getD s).fstream (spaceIdx sp)).fqHead + 1) % 65536 }).fabric.grants.map (·.1)) 65536).map (·.2)).getD ((((s.fqEntry sp).map (·.2)).getD s).setFstream (spaceIdx sp) { (((s.fqEntry sp).map (·.2)).getD s).fstream (spaceIdx sp) with fqHead := (((((s.fqEntry sp).map (·.2)).getD s).fstream (spaceIdx sp)).fqHead + 1) % 65536 })).fabric.grants.set (((((((s.fqEntry sp).map (·.2)).getD s).setFstream (spaceIdx sp) { (((s.fqEntry sp).map (·.2)).getD s).fstream (spaceIdx sp) with fqHead := (((((s.fqEntry sp).map (·.2)).getD s).fstream (spaceIdx sp)).fqHead + 1) % 65536 }).pickFree (((((s.fqEntry sp).map (·.2)).getD s).setFstream (spaceIdx sp) { (((s.fqEntry sp).map (·.2)).getD s).fstream (spaceIdx sp) with fqHead := (((((s.fqEntry sp).map (·.2)).getD s).fstream (spaceIdx sp)).fqHead + 1) % 65536 }).fabric.grants.map (·.1)) 65536).map (·.1)).getD 0) { region := fld (wAt ws 1) 13 0, module_ := fld (wAt ws 7) 15 0, key := (Sys2Proof.Config.randomKey (((((((s.fqEntry sp).map (·.2)).getD s).setFstream (spaceIdx sp) { (((s.fqEntry sp).map (·.2)).getD s).fstream (spaceIdx sp) with fqHead := (((((s.fqEntry sp).map (·.2)).getD s).fstream (spaceIdx sp)).fqHead + 1) % 65536 }).pickFree (((((s.fqEntry sp).map (·.2)).getD s).setFstream (spaceIdx sp) { (((s.fqEntry sp).map (·.2)).getD s).fstream (spaceIdx sp) with fqHead := (((((s.fqEntry sp).map (·.2)).getD s).fstream (spaceIdx sp)).fqHead + 1) % 65536 }).fabric.grants.map (·.1)) 65536).map (·.2)).getD ((((s.fqEntry sp).map (·.2)).getD s).setFstream (spaceIdx sp) { (((s.fqEntry sp).map (·.2)).getD s).fstream (spaceIdx sp) with fqHead := (((((s.fqEntry sp).map (·.2)).getD s).fstream (spaceIdx sp)).fqHead + 1) % 65536 })).fresh).setWidth 64, perm := fld (wAt ws 6) 3 0 } } } : State).fqFinish sp ws .ok ((Sys2Proof.Config.randomKey (((((((s.fqEntry sp).map (·.2)).getD s).setFstream (spaceIdx sp) { (((s.fqEntry sp).map (·.2)).getD s).fstream (spaceIdx sp) with fqHead := (((((s.fqEntry sp).map (·.2)).getD s).fstream (spaceIdx sp)).fqHead + 1) % 65536 }).pickFree (((((s.fqEntry sp).map (·.2)).getD s).setFstream (spaceIdx sp) { (((s.fqEntry sp).map (·.2)).getD s).fstream (spaceIdx sp) with fqHead := (((((s.fqEntry sp).map (·.2)).getD s).fstream (spaceIdx sp)).fqHead + 1) % 65536 }).fabric.grants.map (·.1)) 65536).map (·.2)).getD ((((s.fqEntry sp).map (·.2)).getD s).setFstream (spaceIdx sp) { (((s.fqEntry sp).map (·.2)).getD s).fstream (spaceIdx sp) with fqHead := (((((s.fqEntry sp).map (·.2)).getD s).fstream (spaceIdx sp)).fqHead + 1) % 65536 })).fresh).setWidth 64) [w32 (((((((s.fqEntry sp).map (·.2)).getD s).setFstream (spaceIdx sp) { (((s.fqEntry sp).map (·.2)).getD s).fstream (spaceIdx sp) with fqHead := (((((s.fqEntry sp).map (·.2)).getD s).fstream (spaceIdx sp)).fqHead + 1) % 65536 }).pickFree (((((s.fqEntry sp).map (·.2)).getD s).setFstream (spaceIdx sp) { (((s.fqEntry sp).map (·.2)).getD s).fstream (spaceIdx sp) with fqHead := (((((s.fqEntry sp).map (·.2)).getD s).fstream (spaceIdx sp)).fqHead + 1) % 65536 }).fabric.grants.map (·.1)) 65536).map (·.1)).getD 0)])) ∧
  (∀ (s : State) (sp : Space) (ws : List Word), (s.fqEntry sp).map (·.1) = some ws → fqOp ws = 18 → (((s.fqEntry sp).map (·.2)).getD s).lv.cut = false → fqDescOk ws = true → (((s.fqEntry sp).map (·.2)).getD s).ownsRegion sp (fld (wAt ws 1) 13 0) = false → Sys2Proof.Machine.exec (.grant sp) s = .next (((((s.fqEntry sp).map (·.2)).getD s).setFstream (spaceIdx sp) { (((s.fqEntry sp).map (·.2)).getD s).fstream (spaceIdx sp) with fqHead := (((((s.fqEntry sp).map (·.2)).getD s).fstream (spaceIdx sp)).fqHead + 1) % 65536 }).fqFinish sp ws .keyDenied 0 [])) ∧
  (∀ (s : State) (sp : Space) (ws : List Word) (g : Grant), (s.fqEntry sp).map (·.1) = some ws → fqOp ws = 19 → (((s.fqEntry sp).map (·.2)).getD s).lv.cut = false → fqDescOk ws = true → (((s.fqEntry sp).map (·.2)).getD s).fabric.grants.find (fld (wAt ws 1) 15 0) = some g ∧ (((s.fqEntry sp).map (·.2)).getD s).ownsRegion sp g.region = true → Sys2Proof.Machine.exec (.revoke sp) s = .next (({ ((((s.fqEntry sp).map (·.2)).getD s).setFstream (spaceIdx sp) { (((s.fqEntry sp).map (·.2)).getD s).fstream (spaceIdx sp) with fqHead := (((((s.fqEntry sp).map (·.2)).getD s).fstream (spaceIdx sp)).fqHead + 1) % 65536 }) with fabric := { ((((s.fqEntry sp).map (·.2)).getD s).setFstream (spaceIdx sp) { (((s.fqEntry sp).map (·.2)).getD s).fstream (spaceIdx sp) with fqHead := (((((s.fqEntry sp).map (·.2)).getD s).fstream (spaceIdx sp)).fqHead + 1) % 65536 }).fabric with grants := ((((s.fqEntry sp).map (·.2)).getD s).setFstream (spaceIdx sp) { (((s.fqEntry sp).map (·.2)).getD s).fstream (spaceIdx sp) with fqHead := (((((s.fqEntry sp).map (·.2)).getD s).fstream (spaceIdx sp)).fqHead + 1) % 65536 }).fabric.grants.erase (fld (wAt ws 1) 15 0) } } : State).fqFinish sp ws .ok 0 [])) ∧
  (∀ (s : State) (sp : Space) (ws : List Word), (s.fqEntry sp).map (·.1) = some ws → fqOp ws = 19 → (((s.fqEntry sp).map (·.2)).getD s).lv.cut = false → fqDescOk ws = true → (((s.fqEntry sp).map (·.2)).getD s).fabric.grants.find (fld (wAt ws 1) 15 0) = none → Sys2Proof.Machine.exec (.revoke sp) s = .next (((((s.fqEntry sp).map (·.2)).getD s).setFstream (spaceIdx sp) { (((s.fqEntry sp).map (·.2)).getD s).fstream (spaceIdx sp) with fqHead := (((((s.fqEntry sp).map (·.2)).getD s).fstream (spaceIdx sp)).fqHead + 1) % 65536 }).fqFinish sp ws .keyDenied 0 [])) ∧
  (∀ (s : State) (sp : Space) (ws : List Word), (s.fqEntry sp).map (·.1) = some ws → fqOp ws = 20 → (((s.fqEntry sp).map (·.2)).getD s).lv.cut = false → fqDescOk ws = true → (((s.fqEntry sp).map (·.2)).getD s).fabric.imports.length < 65536 → Sys2Proof.Machine.exec (.import_ sp) s = .next (({ (((((((s.fqEntry sp).map (·.2)).getD s).setFstream (spaceIdx sp) { (((s.fqEntry sp).map (·.2)).getD s).fstream (spaceIdx sp) with fqHead := (((((s.fqEntry sp).map (·.2)).getD s).fstream (spaceIdx sp)).fqHead + 1) % 65536 }).pickFree (((((s.fqEntry sp).map (·.2)).getD s).setFstream (spaceIdx sp) { (((s.fqEntry sp).map (·.2)).getD s).fstream (spaceIdx sp) with fqHead := (((((s.fqEntry sp).map (·.2)).getD s).fstream (spaceIdx sp)).fqHead + 1) % 65536 }).fabric.imports.map (·.1)) 65536).map (·.2)).getD ((((s.fqEntry sp).map (·.2)).getD s).setFstream (spaceIdx sp) { (((s.fqEntry sp).map (·.2)).getD s).fstream (spaceIdx sp) with fqHead := (((((s.fqEntry sp).map (·.2)).getD s).fstream (spaceIdx sp)).fqHead + 1) % 65536 })) with fabric := { (((((((s.fqEntry sp).map (·.2)).getD s).setFstream (spaceIdx sp) { (((s.fqEntry sp).map (·.2)).getD s).fstream (spaceIdx sp) with fqHead := (((((s.fqEntry sp).map (·.2)).getD s).fstream (spaceIdx sp)).fqHead + 1) % 65536 }).pickFree (((((s.fqEntry sp).map (·.2)).getD s).setFstream (spaceIdx sp) { (((s.fqEntry sp).map (·.2)).getD s).fstream (spaceIdx sp) with fqHead := (((((s.fqEntry sp).map (·.2)).getD s).fstream (spaceIdx sp)).fqHead + 1) % 65536 }).fabric.imports.map (·.1)) 65536).map (·.2)).getD ((((s.fqEntry sp).map (·.2)).getD s).setFstream (spaceIdx sp) { (((s.fqEntry sp).map (·.2)).getD s).fstream (spaceIdx sp) with fqHead := (((((s.fqEntry sp).map (·.2)).getD s).fstream (spaceIdx sp)).fqHead + 1) % 65536 })).fabric with imports := (((((((s.fqEntry sp).map (·.2)).getD s).setFstream (spaceIdx sp) { (((s.fqEntry sp).map (·.2)).getD s).fstream (spaceIdx sp) with fqHead := (((((s.fqEntry sp).map (·.2)).getD s).fstream (spaceIdx sp)).fqHead + 1) % 65536 }).pickFree (((((s.fqEntry sp).map (·.2)).getD s).setFstream (spaceIdx sp) { (((s.fqEntry sp).map (·.2)).getD s).fstream (spaceIdx sp) with fqHead := (((((s.fqEntry sp).map (·.2)).getD s).fstream (spaceIdx sp)).fqHead + 1) % 65536 }).fabric.imports.map (·.1)) 65536).map (·.2)).getD ((((s.fqEntry sp).map (·.2)).getD s).setFstream (spaceIdx sp) { (((s.fqEntry sp).map (·.2)).getD s).fstream (spaceIdx sp) with fqHead := (((((s.fqEntry sp).map (·.2)).getD s).fstream (spaceIdx sp)).fqHead + 1) % 65536 })).fabric.imports.set (((((((s.fqEntry sp).map (·.2)).getD s).setFstream (spaceIdx sp) { (((s.fqEntry sp).map (·.2)).getD s).fstream (spaceIdx sp) with fqHead := (((((s.fqEntry sp).map (·.2)).getD s).fstream (spaceIdx sp)).fqHead + 1) % 65536 }).pickFree (((((s.fqEntry sp).map (·.2)).getD s).setFstream (spaceIdx sp) { (((s.fqEntry sp).map (·.2)).getD s).fstream (spaceIdx sp) with fqHead := (((((s.fqEntry sp).map (·.2)).getD s).fstream (spaceIdx sp)).fqHead + 1) % 65536 }).fabric.imports.map (·.1)) 65536).map (·.1)).getD 0) { holder := sp, home := fld (wAt ws 7) 15 0, region := fld (wAt ws 1) 13 0, grant := fld (wAt ws 2) 15 0, key := BitVec.ofNat 64 ((wAt ws 8).toNat + 2 ^ 32 * (wAt ws 9).toNat), perm := fld (wAt ws 6) 3 0, suspect := false } } } : State).fqFinish sp ws .ok 0 [w32 (((((((s.fqEntry sp).map (·.2)).getD s).setFstream (spaceIdx sp) { (((s.fqEntry sp).map (·.2)).getD s).fstream (spaceIdx sp) with fqHead := (((((s.fqEntry sp).map (·.2)).getD s).fstream (spaceIdx sp)).fqHead + 1) % 65536 }).pickFree (((((s.fqEntry sp).map (·.2)).getD s).setFstream (spaceIdx sp) { (((s.fqEntry sp).map (·.2)).getD s).fstream (spaceIdx sp) with fqHead := (((((s.fqEntry sp).map (·.2)).getD s).fstream (spaceIdx sp)).fqHead + 1) % 65536 }).fabric.imports.map (·.1)) 65536).map (·.1)).getD 0)])) ∧
  (∀ (s : State) (sp : Space) (ws : List Word) (m : Import), (s.fqEntry sp).map (·.1) = some ws → fqOp ws = 21 → (((s.fqEntry sp).map (·.2)).getD s).lv.cut = false → fqDescOk ws = true → (((s.fqEntry sp).map (·.2)).getD s).fabric.imports.find (fqImport ws) = some m ∧ m.holder = sp → Sys2Proof.Machine.exec (.unimport sp) s = .next (({ ((((s.fqEntry sp).map (·.2)).getD s).setFstream (spaceIdx sp) { (((s.fqEntry sp).map (·.2)).getD s).fstream (spaceIdx sp) with fqHead := (((((s.fqEntry sp).map (·.2)).getD s).fstream (spaceIdx sp)).fqHead + 1) % 65536 }) with fabric := { ((((s.fqEntry sp).map (·.2)).getD s).setFstream (spaceIdx sp) { (((s.fqEntry sp).map (·.2)).getD s).fstream (spaceIdx sp) with fqHead := (((((s.fqEntry sp).map (·.2)).getD s).fstream (spaceIdx sp)).fqHead + 1) % 65536 }).fabric with imports := ((((s.fqEntry sp).map (·.2)).getD s).setFstream (spaceIdx sp) { (((s.fqEntry sp).map (·.2)).getD s).fstream (spaceIdx sp) with fqHead := (((((s.fqEntry sp).map (·.2)).getD s).fstream (spaceIdx sp)).fqHead + 1) % 65536 }).fabric.imports.erase (fqImport ws) } } : State).fqFinish sp ws .ok 0 [])) ∧
  (∀ (s : State) (sp : Space) (ws : List Word) (m : Import), (s.fqEntry sp).map (·.1) = some ws → fqOp ws = 21 → (((s.fqEntry sp).map (·.2)).getD s).lv.cut = false → fqDescOk ws = true → (((s.fqEntry sp).map (·.2)).getD s).fabric.imports.find (fqImport ws) = some m ∧ m.holder ≠ sp → Sys2Proof.Machine.exec (.unimport sp) s = .next (((((s.fqEntry sp).map (·.2)).getD s).setFstream (spaceIdx sp) { (((s.fqEntry sp).map (·.2)).getD s).fstream (spaceIdx sp) with fqHead := (((((s.fqEntry sp).map (·.2)).getD s).fstream (spaceIdx sp)).fqHead + 1) % 65536 }).fqFinish sp ws .keyDenied 0 [])) ∧
  (∀ (s : State) (sp : Space) (ws : List Word) (m : Import), (s.fqEntry sp).map (·.1) = some ws → fqOp ws = 22 → (((s.fqEntry sp).map (·.2)).getD s).lv.cut = false → fqDescOk ws = true → (((s.fqEntry sp).map (·.2)).getD s).fabric.imports.find (fqImport ws) = some m ∧ m.holder = sp → Sys2Proof.Machine.exec (.importClear sp) s = .next (({ ((((s.fqEntry sp).map (·.2)).getD s).setFstream (spaceIdx sp) { (((s.fqEntry sp).map (·.2)).getD s).fstream (spaceIdx sp) with fqHead := (((((s.fqEntry sp).map (·.2)).getD s).fstream (spaceIdx sp)).fqHead + 1) % 65536 }) with fabric := { ((((s.fqEntry sp).map (·.2)).getD s).setFstream (spaceIdx sp) { (((s.fqEntry sp).map (·.2)).getD s).fstream (spaceIdx sp) with fqHead := (((((s.fqEntry sp).map (·.2)).getD s).fstream (spaceIdx sp)).fqHead + 1) % 65536 }).fabric with imports := ((((s.fqEntry sp).map (·.2)).getD s).setFstream (spaceIdx sp) { (((s.fqEntry sp).map (·.2)).getD s).fstream (spaceIdx sp) with fqHead := (((((s.fqEntry sp).map (·.2)).getD s).fstream (spaceIdx sp)).fqHead + 1) % 65536 }).fabric.imports.set (fqImport ws) { m with suspect := false } } } : State).fqFinish sp ws .ok 0 [])) ∧
  (∀ (s : State) (i : InstId) (v : Word), s.pwr.phase = .running → (s.inst i.val).phase = .active → idxGap (s.fstream i.val).fqHead (fld v 15 0) ≤ s.ringLen (pgMbx i.val) 0x400 → idxGap (s.fstream i.val).fqHead (s.ringIdx (pgMbx i.val) 0x400) ≤ idxGap (s.fstream i.val).fqHead (fld v 15 0) → Sys2Proof.Machine.exec (.fqDoorbell (.inst i) v) s = .next { s with regs := { s.regs with raw := s.regs.raw.set (regKey (pgMbx i.val) 0x40C) (w32 (fld v 15 0)) } }) ∧
  (∀ (s : State) (i : InstId) (v : Word), s.pwr.phase = .running → (s.inst i.val).phase = .active → s.ringLen (pgMbx i.val) 0x400 < idxGap (s.fstream i.val).fqHead (fld v 15 0) → Sys2Proof.Machine.exec (.fqDoorbell (.inst i) v) s = .next (s.bump (pgMbx i.val) 1 1)) ∧
  (∀ (s : State) (i : InstId) (v : Word), s.pwr.phase = .running → (s.inst i.val).phase = .active → idxGap (s.ringIdx (pgMbx i.val) 0x420) (fld v 15 0) ≤ idxGap (s.ringIdx (pgMbx i.val) 0x420) (s.fstream i.val).fcTail → (s.fstream i.val).fcWait = [] ∧ (s.fstream i.val).paused = false → Sys2Proof.Machine.exec (.fcHeadWrite (.inst i) v) s = .next { s with regs := { s.regs with raw := s.regs.raw.set (regKey (pgMbx i.val) 0x42C) (w32 (fld v 15 0)) } }) ∧
  (∀ (s : State) (i : InstId) (v : Word), s.pwr.phase = .running → (s.inst i.val).phase = .active → idxGap (s.ringIdx (pgMbx i.val) 0x420) (s.fstream i.val).fcTail < idxGap (s.ringIdx (pgMbx i.val) 0x420) (fld v 15 0) → Sys2Proof.Machine.exec (.fcHeadWrite (.inst i) v) s = .next (s.bump (pgMbx i.val) 1 1))

/-- A segment from a module on the revoke list is answered FENCED_OUT; one whose grant, region or key does not fit KEY_DENIED; one outside permission, mode or extent CONFIG_INVALID; none of them changes anything. A segment whose checks pass and whose SEQ is new to its window is applied and answered, or queued where it touches a line of the combining buffer, whose operations are taken one an arithmetic clock; one seen before is not applied again and is answered; one without a window when none is free gets a retry answer. A segment to a page in T3 waits for its promotion, one that an arbitration point does not grant is held at its port, and one past the credits of its source at a line waits for a credit. An acknowledgement removes the segment and counts its operation down; for an instance that is being squashed it removes the segment and does nothing else. A fence past CKX_FTO gives up the stream's segments, makes their imports SUSPECT and completes PATH_LOST. Windows idle for twice CKX_FTO are freed; gather buffers past their time are sent; a bulk transfer at its home is unpacked, and one that has crossed this gateway or four is dropped with LOOP; a sweep clears the snag's grants. -/
def Obligations.FabricDelivery : Prop :=
  (∀ (s : State) (x : Segment) (r : Region), s.lv.cut = false → s.modValid = true → s.replayed 3 = false → (s.windowTouch x).homeCode x = .ok → (s.windowTouch x).fabric.regions.find x.region = some r → (s.windowTouch x).unitWait (.seg x) x.tag [segExtent r x] = none → ((s.windowTouch x).portAsks { who := ckxReq ((s.windowTouch x).segPort x), work := .seg x, tag := x.tag, late := x.late } ((s.windowTouch x).domainOf r.owner) ((s.windowTouch x).accPoints (pageDie (pgCkx ((s.windowTouch x).segPort x))) r.owner (r.base + x.offset) (segLen x.op))).1 = true → (((s.windowTouch x).portAsks { who := ckxReq ((s.windowTouch x).segPort x), work := .seg x, tag := x.tag, late := x.late } ((s.windowTouch x).domainOf r.owner) ((s.windowTouch x).accPoints (pageDie (pgCkx ((s.windowTouch x).segPort x))) r.owner (r.base + x.offset) (segLen x.op))).2.agent ((s.windowTouch x).regionDie r)).queues r x = false → (((s.windowTouch x).portAsks { who := ckxReq ((s.windowTouch x).segPort x), work := .seg x, tag := x.tag, late := x.late } ((s.windowTouch x).domainOf r.owner) ((s.windowTouch x).accPoints (pageDie (pgCkx ((s.windowTouch x).segPort x))) r.owner (r.base + x.offset) (segLen x.op))).2.windowTake (((s.windowTouch x).portAsks { who := ckxReq ((s.windowTouch x).segPort x), work := .seg x, tag := x.tag, late := x.late } ((s.windowTouch x).domainOf r.owner) ((s.windowTouch x).accPoints (pageDie (pgCkx ((s.windowTouch x).segPort x))) r.owner (r.base + x.offset) (segLen x.op))).2.regionDie r) x.src x.stream x.seq).map (·.1) = some true → Sys2Proof.Machine.exec (.segmentArrive x) s = .next (((((((((s.windowTouch x).portAsks { who := ckxReq ((s.windowTouch x).segPort x), work := .seg x, tag := x.tag, late := x.late } ((s.windowTouch x).domainOf r.owner) ((s.windowTouch x).accPoints (pageDie (pgCkx ((s.windowTouch x).segPort x))) r.owner (r.base + x.offset) (segLen x.op))).2.windowTake (((s.windowTouch x).portAsks { who := ckxReq ((s.windowTouch x).segPort x), work := .seg x, tag := x.tag, late := x.late } ((s.windowTouch x).domainOf r.owner) ((s.windowTouch x).accPoints (pageDie (pgCkx ((s.windowTouch x).segPort x))) r.owner (r.base + x.offset) (segLen x.op))).2.regionDie r) x.src x.stream x.seq).map (·.2)).getD ((s.windowTouch x).portAsks { who := ckxReq ((s.windowTouch x).segPort x), work := .seg x, tag := x.tag, late := x.late } ((s.windowTouch x).domainOf r.owner) ((s.windowTouch x).accPoints (pageDie (pgCkx ((s.windowTouch x).segPort x))) r.owner (r.base + x.offset) (segLen x.op))).2).recLog 3 0x07 (((s.windowTouch x).portAsks { who := ckxReq ((s.windowTouch x).segPort x), work := .seg x, tag := x.tag, late := x.late } ((s.windowTouch x).domainOf r.owner) ((s.windowTouch x).accPoints (pageDie (pgCkx ((s.windowTouch x).segPort x))) r.owner (r.base + x.offset) (segLen x.op))).2.regionDie r) x.src (segBytes x)).segApply r x)).2.2.ackSend x.src x.stream (mkAck ((s.windowTouch x).portAsks { who := ckxReq ((s.windowTouch x).segPort x), work := .seg x, tag := x.tag, late := x.late } ((s.windowTouch x).domainOf r.owner) ((s.windowTouch x).accPoints (pageDie (pgCkx ((s.windowTouch x).segPort x))) r.owner (r.base + x.offset) (segLen x.op))).2.modId x ((((((((s.windowTouch x).portAsks { who := ckxReq ((s.windowTouch x).segPort x), work := .seg x, tag := x.tag, late := x.late } ((s.windowTouch x).domainOf r.owner) ((s.windowTouch x).accPoints (pageDie (pgCkx ((s.windowTouch x).segPort x))) r.owner (r.base + x.offset) (segLen x.op))).2.windowTake (((s.windowTouch x).portAsks { who := ckxReq ((s.windowTouch x).segPort x), work := .seg x, tag := x.tag, late := x.late } ((s.windowTouch x).domainOf r.owner) ((s.windowTouch x).accPoints (pageDie (pgCkx ((s.windowTouch x).segPort x))) r.owner (r.base + x.offset) (segLen x.op))).2.regionDie r) x.src x.stream x.seq).map (·.2)).getD ((s.windowTouch x).portAsks { who := ckxReq ((s.windowTouch x).segPort x), work := .seg x, tag := x.tag, late := x.late } ((s.windowTouch x).domainOf r.owner) ((s.windowTouch x).accPoints (pageDie (pgCkx ((s.windowTouch x).segPort x))) r.owner (r.base + x.offset) (segLen x.op))).2).recLog 3 0x07 (((s.windowTouch x).portAsks { who := ckxReq ((s.windowTouch x).segPort x), work := .seg x, tag := x.tag, late := x.late } ((s.windowTouch x).domainOf r.owner) ((s.windowTouch x).accPoints (pageDie (pgCkx ((s.windowTouch x).segPort x))) r.owner (r.base + x.offset) (segLen x.op))).2.regionDie r) x.src (segBytes x)).segApply r x)).1 false ((((((((s.windowTouch x).portAsks { who := ckxReq ((s.windowTouch x).segPort x), work := .seg x, tag := x.tag, late := x.late } ((s.windowTouch x).domainOf r.owner) ((s.windowTouch x).accPoints (pageDie (pgCkx ((s.windowTouch x).segPort x))) r.owner (r.base + x.offset) (segLen x.op))).2.windowTake (((s.windowTouch x).portAsks { who := ckxReq ((s.windowTouch x).segPort x), work := .seg x, tag := x.tag, late := x.late } ((s.windowTouch x).domainOf r.owner) ((s.windowTouch x).accPoints (pageDie (pgCkx ((s.windowTouch x).segPort x))) r.owner (r.base + x.offset) (segLen x.op))).2.regionDie r) x.src x.stream x.seq).map (·.2)).getD ((s.windowTouch x).portAsks { who := ckxReq ((s.windowTouch x).segPort x), work := .seg x, tag := x.tag, late := x.late } ((s.windowTouch x).domainOf r.owner) ((s.windowTouch x).accPoints (pageDie (pgCkx ((s.windowTouch x).segPort x))) r.owner (r.base + x.offset) (segLen x.op))).2).recLog 3 0x07 (((s.windowTouch x).portAsks { who := ckxReq ((s.windowTouch x).segPort x), work := .seg x, tag := x.tag, late := x.late } ((s.windowTouch x).domainOf r.owner) ((s.windowTouch x).accPoints (pageDie (pgCkx ((s.windowTouch x).segPort x))) r.owner (r.base + x.offset) (segLen x.op))).2.regionDie r) x.src (segBytes x)).segApply r x)).2.1))) ∧
  (∀ (s : State) (x : Segment) (r : Region), s.lv.cut = false → s.modValid = true → s.replayed 3 = false → (s.windowTouch x).homeCode x = .ok → (s.windowTouch x).fabric.regions.find x.region = some r → (s.windowTouch x).unitWait (.seg x) x.tag [segExtent r x] = none → ((s.windowTouch x).portAsks { who := ckxReq ((s.windowTouch x).segPort x), work := .seg x, tag := x.tag, late := x.late } ((s.windowTouch x).domainOf r.owner) ((s.windowTouch x).accPoints (pageDie (pgCkx ((s.windowTouch x).segPort x))) r.owner (r.base + x.offset) (segLen x.op))).1 = true → (((s.windowTouch x).portAsks { who := ckxReq ((s.windowTouch x).segPort x), work := .seg x, tag := x.tag, late := x.late } ((s.windowTouch x).domainOf r.owner) ((s.windowTouch x).accPoints (pageDie (pgCkx ((s.windowTouch x).segPort x))) r.owner (r.base + x.offset) (segLen x.op))).2.agent ((s.windowTouch x).regionDie r)).queues r x = false → (((s.windowTouch x).portAsks { who := ckxReq ((s.windowTouch x).segPort x), work := .seg x, tag := x.tag, late := x.late } ((s.windowTouch x).domainOf r.owner) ((s.windowTouch x).accPoints (pageDie (pgCkx ((s.windowTouch x).segPort x))) r.owner (r.base + x.offset) (segLen x.op))).2.windowTake (((s.windowTouch x).portAsks { who := ckxReq ((s.windowTouch x).segPort x), work := .seg x, tag := x.tag, late := x.late } ((s.windowTouch x).domainOf r.owner) ((s.windowTouch x).accPoints (pageDie (pgCkx ((s.windowTouch x).segPort x))) r.owner (r.base + x.offset) (segLen x.op))).2.regionDie r) x.src x.stream x.seq).map (·.1) = some false → opPerm x.op = 1 ∨ opPerm x.op = 2 → Sys2Proof.Machine.exec (.segmentArrive x) s = .next ((((((s.windowTouch x).portAsks { who := ckxReq ((s.windowTouch x).segPort x), work := .seg x, tag := x.tag, late := x.late } ((s.windowTouch x).domainOf r.owner) ((s.windowTouch x).accPoints (pageDie (pgCkx ((s.windowTouch x).segPort x))) r.owner (r.base + x.offset) (segLen x.op))).2.windowTake (((s.windowTouch x).portAsks { who := ckxReq ((s.windowTouch x).segPort x), work := .seg x, tag := x.tag, late := x.late } ((s.windowTouch x).domainOf r.owner) ((s.windowTouch x).accPoints (pageDie (pgCkx ((s.windowTouch x).segPort x))) r.owner (r.base + x.offset) (segLen x.op))).2.regionDie r) x.src x.stream x.seq).map (·.2)).getD ((s.windowTouch x).portAsks { who := ckxReq ((s.windowTouch x).segPort x), work := .seg x, tag := x.tag, late := x.late } ((s.windowTouch x).domainOf r.owner) ((s.windowTouch x).accPoints (pageDie (pgCkx ((s.windowTouch x).segPort x))) r.owner (r.base + x.offset) (segLen x.op))).2).ackSend x.src x.stream (mkAck ((s.windowTouch x).portAsks { who := ckxReq ((s.windowTouch x).segPort x), work := .seg x, tag := x.tag, late := x.late } ((s.windowTouch x).domainOf r.owner) ((s.windowTouch x).accPoints (pageDie (pgCkx ((s.windowTouch x).segPort x))) r.owner (r.base + x.offset) (segLen x.op))).2.modId x .ok false []))) ∧
  (∀ (s : State) (x : Segment) (r : Region) (n : Nat), s.lv.cut = false → s.modValid = true → s.replayed 3 = false → (s.windowTouch x).homeCode x = .ok → (s.windowTouch x).fabric.regions.find x.region = some r → (s.windowTouch x).unitWait (.seg x) x.tag [segExtent r x] = none → ((s.windowTouch x).portAsks { who := ckxReq ((s.windowTouch x).segPort x), work := .seg x, tag := x.tag, late := x.late } ((s.windowTouch x).domainOf r.owner) ((s.windowTouch x).accPoints (pageDie (pgCkx ((s.windowTouch x).segPort x))) r.owner (r.base + x.offset) (segLen x.op))).1 = true → (((s.windowTouch x).portAsks { who := ckxReq ((s.windowTouch x).segPort x), work := .seg x, tag := x.tag, late := x.late } ((s.windowTouch x).domainOf r.owner) ((s.windowTouch x).accPoints (pageDie (pgCkx ((s.windowTouch x).segPort x))) r.owner (r.base + x.offset) (segLen x.op))).2.agent ((s.windowTouch x).regionDie r)).queues r x = false → (((s.windowTouch x).portAsks { who := ckxReq ((s.windowTouch x).segPort x), work := .seg x, tag := x.tag, late := x.late } ((s.windowTouch x).domainOf r.owner) ((s.windowTouch x).accPoints (pageDie (pgCkx ((s.windowTouch x).segPort x))) r.owner (r.base + x.offset) (segLen x.op))).2.windowTake (((s.windowTouch x).portAsks { who := ckxReq ((s.windowTouch x).segPort x), work := .seg x, tag := x.tag, late := x.late } ((s.windowTouch x).domainOf r.owner) ((s.windowTouch x).accPoints (pageDie (pgCkx ((s.windowTouch x).segPort x))) r.owner (r.base + x.offset) (segLen x.op))).2.regionDie r) x.src x.stream x.seq).map (·.1) = some false → x.op = .read n → Sys2Proof.Machine.exec (.segmentArrive x) s = .next (let l := (((((s.windowTouch x).portAsks { who := ckxReq ((s.windowTouch x).segPort x), work := .seg x, tag := x.tag, late := x.late } ((s.windowTouch x).domainOf r.owner) ((s.windowTouch x).accPoints (pageDie (pgCkx ((s.windowTouch x).segPort x))) r.owner (r.base + x.offset) (segLen x.op))).2.windowTake (((s.windowTouch x).portAsks { who := ckxReq ((s.windowTouch x).segPort x), work := .seg x, tag := x.tag, late := x.late } ((s.windowTouch x).domainOf r.owner) ((s.windowTouch x).accPoints (pageDie (pgCkx ((s.windowTouch x).segPort x))) r.owner (r.base + x.offset) (segLen x.op))).2.regionDie r) x.src x.stream x.seq).map (·.2)).getD ((s.windowTouch x).portAsks { who := ckxReq ((s.windowTouch x).segPort x), work := .seg x, tag := x.tag, late := x.late } ((s.windowTouch x).domainOf r.owner) ((s.windowTouch x).accPoints (pageDie (pgCkx ((s.windowTouch x).segPort x))) r.owner (r.base + x.offset) (segLen x.op))).2).loadDev r.owner (r.base + x.offset) n; l.2.2.ackSend x.src x.stream (mkAck ((s.windowTouch x).portAsks { who := ckxReq ((s.windowTouch x).segPort x), work := .seg x, tag := x.tag, late := x.late } ((s.windowTouch x).domainOf r.owner) ((s.windowTouch x).accPoints (pageDie (pgCkx ((s.windowTouch x).segPort x))) r.owner (r.base + x.offset) (segLen x.op))).2.modId x l.1 false l.2.1))) ∧
  (∀ (s : State) (x : Segment) (r : Region), s.lv.cut = false → s.modValid = true → s.replayed 3 = false → (s.windowTouch x).homeCode x = .ok → (s.windowTouch x).fabric.regions.find x.region = some r → (s.windowTouch x).unitWait (.seg x) x.tag [segExtent r x] = none → ((s.windowTouch x).portAsks { who := ckxReq ((s.windowTouch x).segPort x), work := .seg x, tag := x.tag, late := x.late } ((s.windowTouch x).domainOf r.owner) ((s.windowTouch x).accPoints (pageDie (pgCkx ((s.windowTouch x).segPort x))) r.owner (r.base + x.offset) (segLen x.op))).1 = true → (((s.windowTouch x).portAsks { who := ckxReq ((s.windowTouch x).segPort x), work := .seg x, tag := x.tag, late := x.late } ((s.windowTouch x).domainOf r.owner) ((s.windowTouch x).accPoints (pageDie (pgCkx ((s.windowTouch x).segPort x))) r.owner (r.base + x.offset) (segLen x.op))).2.agent ((s.windowTouch x).regionDie r)).queues r x = false → (((s.windowTouch x).portAsks { who := ckxReq ((s.windowTouch x).segPort x), work := .seg x, tag := x.tag, late := x.late } ((s.windowTouch x).domainOf r.owner) ((s.windowTouch x).accPoints (pageDie (pgCkx ((s.windowTouch x).segPort x))) r.owner (r.base + x.offset) (segLen x.op))).2.windowTake (((s.windowTouch x).portAsks { who := ckxReq ((s.windowTouch x).segPort x), work := .seg x, tag := x.tag, late := x.late } ((s.windowTouch x).domainOf r.owner) ((s.windowTouch x).accPoints (pageDie (pgCkx ((s.windowTouch x).segPort x))) r.owner (r.base + x.offset) (segLen x.op))).2.regionDie r) x.src x.stream x.seq).map (·.1) = none → Sys2Proof.Machine.exec (.segmentArrive x) s = .next (((s.windowTouch x).portAsks { who := ckxReq ((s.windowTouch x).segPort x), work := .seg x, tag := x.tag, late := x.late } ((s.windowTouch x).domainOf r.owner) ((s.windowTouch x).accPoints (pageDie (pgCkx ((s.windowTouch x).segPort x))) r.owner (r.base + x.offset) (segLen x.op))).2.ackSend x.src x.stream (mkAck ((s.windowTouch x).portAsks { who := ckxReq ((s.windowTouch x).segPort x), work := .seg x, tag := x.tag, late := x.late } ((s.windowTouch x).domainOf r.owner) ((s.windowTouch x).accPoints (pageDie (pgCkx ((s.windowTouch x).segPort x))) r.owner (r.base + x.offset) (segLen x.op))).2.modId x .ok true []))) ∧
  (∀ (s : State) (x : Segment) (r : Region), s.lv.cut = false → s.modValid = true → s.replayed 3 = false → (s.windowTouch x).homeCode x = .ok → (s.windowTouch x).fabric.regions.find x.region = some r → (s.windowTouch x).unitWait (.seg x) x.tag [segExtent r x] = none → ((s.windowTouch x).portAsks { who := ckxReq ((s.windowTouch x).segPort x), work := .seg x, tag := x.tag, late := x.late } ((s.windowTouch x).domainOf r.owner) ((s.windowTouch x).accPoints (pageDie (pgCkx ((s.windowTouch x).segPort x))) r.owner (r.base + x.offset) (segLen x.op))).1 = true → (((s.windowTouch x).portAsks { who := ckxReq ((s.windowTouch x).segPort x), work := .seg x, tag := x.tag, late := x.late } ((s.windowTouch x).domainOf r.owner) ((s.windowTouch x).accPoints (pageDie (pgCkx ((s.windowTouch x).segPort x))) r.owner (r.base + x.offset) (segLen x.op))).2.agent ((s.windowTouch x).regionDie r)).queues r x = true → Sys2Proof.Machine.exec (.segmentArrive x) s = .next ((((s.windowTouch x).portAsks { who := ckxReq ((s.windowTouch x).segPort x), work := .seg x, tag := x.tag, late := x.late } ((s.windowTouch x).domainOf r.owner) ((s.windowTouch x).accPoints (pageDie (pgCkx ((s.windowTouch x).segPort x))) r.owner (r.base + x.offset) (segLen x.op))).2.hotCounts r x).hotEnter ((s.windowTouch x).regionDie r) (x, r))) ∧
  (∀ (s : State) (die key : Nat) (q : Segment × Region), (s.agent die).nextAt (hotCred (s.inForce (pgCkx (16 + die)) 0x0C0)) key = some q → s.unitWait (.seg q.1) q.1.tag [segExtent q.2 q.1] = none → s.fabric.regions.find q.1.region = some q.2 → (let t := s.setAgent die { s.agent die with queue := (s.agent die).queue.erase q, hot := (s.agent die).hot.map (fun h => if h.key ≠ key then h else { h with turn := q.1.src, took := if h.turn = q.1.src && h.took < hotCred (s.inForce (pgCkx (16 + die)) 0x0C0) then h.took + 1 else 1 }) }; let w := t.segServe q.2 q.1 (fun v => v.segDo q.2 q.1); s.hotStep die key = (w.2.ackSend q.1.src q.1.stream w.1).hotAdmit die)) ∧
  (∀ (s : State) (x : Segment) (r : Region) (pk : Nat) (bs : List Byte), s.lv.cut = false → s.modValid = true → s.replayed 3 = false → (s.windowTouch x).homeCode x = .ok → (s.windowTouch x).fabric.regions.find x.region = some r → (s.windowTouch x).firstWait r.owner (r.base + x.offset) (segLen x.op) true = some (pk, true) → x.op = .write bs → (s.windowTouch x).mems.homes.all (fun p => p.2.waiters.isEmpty) = true → Sys2Proof.Machine.exec (.segmentArrive x) s = .next ((s.windowTouch x).waitOn pk (.unit (.seg x) true) true x.tag false)) ∧
  (∀ (s : State) (x : Segment) (r : Region), s.lv.cut = false → s.modValid = true → s.replayed 3 = false → (s.windowTouch x).homeCode x = .ok → (s.windowTouch x).fabric.regions.find x.region = some r → (s.windowTouch x).unitWait (.seg x) x.tag [segExtent r x] = none → ((s.windowTouch x).portAsks { who := ckxReq ((s.windowTouch x).segPort x), work := .seg x, tag := x.tag, late := x.late } ((s.windowTouch x).domainOf r.owner) ((s.windowTouch x).accPoints (pageDie (pgCkx ((s.windowTouch x).segPort x))) r.owner (r.base + x.offset) (segLen x.op))).1 = false → Sys2Proof.Machine.exec (.segmentArrive x) s = .next ((s.windowTouch x).portAsks { who := ckxReq ((s.windowTouch x).segPort x), work := .seg x, tag := x.tag, late := x.late } ((s.windowTouch x).domainOf r.owner) ((s.windowTouch x).accPoints (pageDie (pgCkx ((s.windowTouch x).segPort x))) r.owner (r.base + x.offset) (segLen x.op))).2) ∧
  (∀ (s : State) (die : Nat) (q : Segment × Region), (s.agent die).credit (hotCred (s.inForce (pgCkx (16 + die)) 0x0C0)) (s.agent die).outside q = true → s.hotEnter die q = s.setAgent die { s.agent die with queue := (s.agent die).queue ++ [q] }) ∧
  (∀ (s : State) (die : Nat) (q : Segment × Region), (s.agent die).credit (hotCred (s.inForce (pgCkx (16 + die)) 0x0C0)) (s.agent die).outside q = false → s.hotEnter die q = s.setAgent die { s.agent die with outside := (s.agent die).outside ++ [q] }) ∧
  (∀ (s : State) (x : Segment), s.lv.cut = false → s.modValid = true → s.replayed 3 = false → (s.windowTouch x).homeCode x ≠ .ok → Sys2Proof.Machine.exec (.segmentArrive x) s = .next ((s.windowTouch x).ackSend x.src x.stream (mkAck (s.windowTouch x).modId x ((s.windowTouch x).homeCode x) false []))) ∧
  (∀ (s : State) (x : Segment), s.lv.cut = true → Sys2Proof.Machine.exec (.segmentArrive x) s = .next s) ∧
  (∀ (s : State) (x : Segment), s.lv.revoke.any (fun e => decide (e.module_ = x.src)) = true → s.homeCode x = .fencedOut) ∧
  (∀ (s : State) (x : Segment) (g : Grant), s.lv.revoke = [] → s.fabric.grants.find x.grant = some g → g.module_ ≠ x.src ∨ g.region ≠ x.region ∨ g.key ≠ x.key → s.homeCode x = .keyDenied) ∧
  (∀ (s : State) (x : Segment) (g : Grant) (r : Region), s.lv.revoke = [] → s.fabric.grants.find x.grant = some g → s.fabric.regions.find x.region = some r → g.module_ = x.src ∧ g.region = x.region ∧ g.key = x.key → r.pages * 65536 < x.offset + segLen x.op → s.homeCode x = .configInvalid) ∧
  (∀ (s : State) (x : Segment) (g : Grant) (r : Region), s.lv.revoke = [] → s.fabric.grants.find x.grant = some g → s.fabric.regions.find x.region = some r → g.module_ = x.src ∧ g.region = x.region ∧ g.key = x.key → x.offset + segLen x.op ≤ r.pages * 65536 → g.perm = 15 ∧ r.atomic = false ∧ opPerm x.op ≠ 3 ∧ x.ctr = none → s.homeCode x = .ok) ∧
  (∀ (s : State) (die src stream seq : Nat), (s.agent die).wins.find? (fun w => decide (w.src = src) && decide (w.stream = stream)) = none → (s.agent die).wins.length < 4096 → s.windowTake die src stream seq = some (true, s.setAgent die { s.agent die with wins := { src := src, stream := stream, base := (seq + 2 ^ 24 - 1023) % 2 ^ 24, bits := [1023], lastAt := s.now } :: (s.agent die).wins })) ∧
  (∀ (s : State) (die src stream seq : Nat) (w : DupWin), (s.agent die).wins.find? (fun w => decide (w.src = src) && decide (w.stream = stream)) = some w → (let rel := (seq + 2 ^ 24 - w.base) % 2 ^ 24; (rel < 1024 ∧ rel ∈ w.bits) ∨ 2 ^ 23 ≤ rel) → (s.windowTake die src stream seq).map (·.1) = some false) ∧
  (∀ (s : State) (die src stream seq : Nat) (w : DupWin), (s.agent die).wins.find? (fun w => decide (w.src = src) && decide (w.stream = stream)) = some w → (seq + 2 ^ 24 - w.base) % 2 ^ 24 < 2 ^ 23 ∧ w.bits.all (fun b => decide (b ≠ (seq + 2 ^ 24 - w.base) % 2 ^ 24)) = true → (s.windowTake die src stream seq).map (·.1) = some true) ∧
  (∀ (a b : Word), redElem false 0 a b = a + b ∧ redElem false 1 a b = (if BitVec.slt b a then b else a) ∧ redElem false 2 a b = (if BitVec.slt b a then a else b)) ∧
  (∀ (s : State) (a : SegAck) (x : Unacked) (o : FabOp), s.lv.cut = false → s.squashes a.stream = false → (s.fstream (spaceIdx a.stream)).unacked = [x] ∧ x.seg.seq = a.seq ∧ x.home = a.home → a.retry = false ∧ a.status = 0 → (s.fstream (spaceIdx a.stream)).ops = [o] ∧ o.id = x.op ∧ o.fence = false ∧ o.left = 1 ∧ o.quiet = true ∧ o.code = .ok ∧ o.opc = 3 ∧ s.pastTag o.tag = false → (s.fstream (spaceIdx a.stream)).cur = none → ∃ u, Sys2Proof.Machine.exec (.segmentAck a) s = .next u ∧ ((u.fstream (spaceIdx a.stream)).unacked = [] ∧ (u.fstream (spaceIdx a.stream)).ops = []) ∧ (u = { s with fabric := { s.fabric with streams := u.fabric.streams } })) ∧
  (∀ (s : State) (a : SegAck), s.lv.cut = false → s.squashes a.stream = false → a.retry = true → (s.fstream (spaceIdx a.stream)).unacked.any (fun x => decide (x.seg.seq = a.seq) && decide (x.home = a.home)) = true → Sys2Proof.Machine.exec (.segmentAck a) s = .next (s.setFstream (spaceIdx a.stream) { s.fstream (spaceIdx a.stream) with unacked := (s.fstream (spaceIdx a.stream)).unacked.map (fun y => if y.seg.seq = a.seq ∧ y.home = a.home then { y with retry := true } else y) })) ∧
  (∀ (s : State) (a : SegAck) (x : Unacked), s.lv.cut = false → s.squashes a.stream = true → (s.fstream (spaceIdx a.stream)).unacked = [x] ∧ x.seg.seq = a.seq ∧ x.home = a.home → Sys2Proof.Machine.exec (.segmentAck a) s = .next (s.setFstream (spaceIdx a.stream) { s.fstream (spaceIdx a.stream) with unacked := [] })) ∧
  (∀ (s : State) (a : SegAck), (s.fstream (spaceIdx a.stream)).unacked = [] → Sys2Proof.Machine.exec (.segmentAck a) s = .next s) ∧
  (∀ (s : State) (sp : Space) (o : FabOp), (s.fstream (spaceIdx sp)).ops.find? (·.fence) = some o → o.issued + 1000 * max 1 (fld (s.reg (pgCkx 32) 0x014) 19 0) ≤ s.now → ∃ u, Sys2Proof.Machine.exec (.fenceTimeout sp) s = .next u ∧ ((u.fstream (spaceIdx sp)).unacked = []) ∧ (u.fabric.imports = s.fabric.imports.map (fun p => if (s.fstream (spaceIdx sp)).unacked.any (fun x => decide (x.import_ = p.1)) then (p.1, { p.2 with suspect := true }) else p)) ∧ (u.cells = s.cells ∧ u.tiles = s.tiles ∧ u.ctxs = s.ctxs ∧ u.groves = s.groves ∧ u.time = s.time ∧ u.seed = s.seed)) ∧
  (∀ (s : State) (sp : Space), (s.fstream (spaceIdx sp)).ops.all (fun o => !o.fence || decide (s.now < o.issued + 1000 * max 1 (fld (s.reg (pgCkx 32) 0x014) 19 0))) = true → Sys2Proof.Machine.exec (.fenceTimeout sp) s = .next s) ∧
  (∀ (s : State) (sp : Space), ∃ u, Sys2Proof.Machine.exec (.windowRetry sp) s = .next u ∧ ((u.fstream (spaceIdx sp)).unacked.map (fun x => (x.seg, x.home, x.op, x.retry)) = (s.fstream (spaceIdx sp)).unacked.map (fun x => (x.seg, x.home, x.op, false))) ∧ (u.mem = s.mem ∧ u.insts = s.insts ∧ u.cells = s.cells ∧ u.tiles = s.tiles ∧ u.ctxs = s.ctxs ∧ u.groves = s.groves ∧ u.time = s.time ∧ u.seed = s.seed)) ∧
  (∀ (s : State) (d : DieId) (src stream : Fin 65536), Sys2Proof.Machine.exec (.duplicateWindowExpire d src stream) s = .next (s.setAgent d.val { s.agent d.val with wins := (s.agent d.val).wins.filter (fun w => !(w.src = src.val && w.stream = stream.val && w.lastAt + 2 * (1000 * max 1 (fld (s.reg (pgCkx 32) 0x014) 19 0)) ≤ s.now)) })) ∧
  (∀ (s : State) (d : DieId) (key t0 : Nat) (h : HotLine), (s.agent d.val).hot.find? (fun h => decide (h.key = key)) = some h → h.buf = some t0 ∧ t0 + 4000 ≤ s.now → 4 * (h.times.filter (fun t => decide (s.now < t + 4000))).length < max 1 (fld (s.inForce (pgCkx (16 + d.val)) 0x0C0) 7 0) → (s.agent d.val).queue.all (fun q => !(segLines q.2 q.1).contains key) = true → Sys2Proof.Machine.exec (.hotLineCool d key) s = .next (s.setAgent d.val { s.agent d.val with hot := (s.agent d.val).hot.filter (fun x => x.key ≠ key) })) ∧
  (∀ (s : State) (d : DieId) (key t0 : Nat) (h : HotLine), (s.agent d.val).hot.find? (fun h => decide (h.key = key)) = some h → h.buf = some t0 → s.now < t0 + 4000 ∨ max 1 (fld (s.inForce (pgCkx (16 + d.val)) 0x0C0) 7 0) ≤ 4 * (h.times.filter (fun t => decide (s.now < t + 4000))).length → Sys2Proof.Machine.exec (.hotLineCool d key) s = .next s) ∧
  (∀ (s : State) (d : DieId) (key : Nat), ((s.agent d.val).hot.find? (fun h => decide (h.key = key))).all (fun h => h.buf.isNone) = true → Sys2Proof.Machine.exec (.hotLineCool d key) s = .next s) ∧
  (∀ (s : State) (die key : Nat), (s.agent die).hot = [{ key := key, times := List.replicate (max 1 (fld (s.inForce (pgCkx (16 + die)) 0x0C0) 7 0)) s.now, buf := none }] → (s.home (key / 512)).tier = .t2 → ((s.hotCount die key).agent die).hot = [{ key := key, times := List.replicate (max 1 (fld (s.inForce (pgCkx (16 + die)) 0x0C0) 7 0) + 1) s.now, buf := some s.now }]) ∧
  (∀ (s : State) (g : LndId), Sys2Proof.Machine.exec (.gatherTimeout g) s = .next (foldS (s.fabric.gather.filter (fun b => b.gw = g.val && b.since + 1000 * max 1 (fld (s.reg (pgLnd g.val) 0x010) 7 0) ≤ s.now)) (fun b u => u.gatherFlush b) s)) ∧
  (∀ (s : State) (g : LndId) (b : BulkTransfer), s.lv.cut = false → s.modValid = true → b.dest = s.modId → Sys2Proof.Machine.exec (.bulkTransferArrive g b) s = .next (foldS b.segs (fun x t => t.segArrive x) s)) ∧
  (∀ (s : State) (g : LndId) (b : BulkTransfer), s.lv.cut = false → s.modValid = true → b.dest ≠ s.modId → gwName s.modId g.val ∈ b.crossed ∨ 4 ≤ b.crossed.length → Sys2Proof.Machine.exec (.bulkTransferArrive g b) s = .next ((s.bulkLost b).pulse (pgLnd g.val) 0)) ∧
  (∀ (s : State) (m : Fin 65536), s.lv.revoke.any (fun r => decide (r.module_ = m.val) && !r.swept) = true → ∃ u, Sys2Proof.Machine.exec (.grantSweepComplete m) s = .next u ∧ (u.fabric.grants = s.fabric.grants.filter (fun g => g.2.module_ ≠ m.val)) ∧ (u.lv = { s.lv with revoke := s.lv.revoke.map (fun r => if r.module_ = m.val then { r with swept := true } else r) }) ∧ (u.fabric.regions = s.fabric.regions ∧ u.fabric.imports = s.fabric.imports ∧ u.fabric.streams = s.fabric.streams ∧ u.fabric.ports = s.fabric.ports) ∧ (u = { s with insts := u.insts, fresh := u.fresh, regs := u.regs, mem := u.mem, mems := u.mems, shape := u.shape, bist := u.bist, fabric := u.fabric, out := u.out })) ∧
  (∀ (s : State) (m : Fin 65536), s.lv.revoke.all (fun r => decide (r.module_ ≠ m.val) || r.swept) = true → Sys2Proof.Machine.exec (.grantSweepComplete m) s = .next s)

/-- A good packet with the expected number is acknowledged and delivered once; one with an earlier number is acknowledged and not delivered; a bad one or a gap is answered with a NAK and not delivered. A module without an ID takes no packet, and one that has fenced itself no data packet. An acknowledgement drops what it covers from the packets kept; a NAK or 2 µs without an acknowledgement resends them and counts retries; after eight failed retries the link goes DOWN. A lane past its error limit is disabled and the link trains; with no lane left it goes DOWN. Training ends UP at the widest of 4, 2 or 1 lanes. A third DOWN within a second holds the port for HOLD seconds, after which, or on HOLD_CLR, it trains. RETRAIN tries every lane again. UNREACHABLE moves the destination's segments to another port. -/
def Obligations.Links : Prop :=
  (∀ (s : State) (p : CkxPort) (k : LinkPacket) (x : Segment), (s.port p.val).state = .up → s.modValid = true ∧ s.lv.cut = false → k.crcOk = true → k.body = .seg x → k.seq = (s.port p.val).rxSeq → Sys2Proof.Machine.exec (.linkPacketReceive p k) s = .next ((((s.chkCkx p.val false (payloadStream k.body)).setPort p.val { (s.port p.val) with rxSeq := ((s.port p.val).rxSeq + 1) % 2 ^ 24 }).emit (.ckxAck p.val k.seq)).segArrive x)) ∧
  (∀ (s : State) (p : CkxPort) (k : LinkPacket) (x : Segment), (s.port p.val).state = .up → s.modValid = true ∧ s.lv.cut = false → k.crcOk = true → k.body = .seg x → k.seq ≠ (s.port p.val).rxSeq → ((s.port p.val).rxSeq + 2 ^ 24 - k.seq) % 2 ^ 24 < 2 ^ 23 → Sys2Proof.Machine.exec (.linkPacketReceive p k) s = .next ((s.chkCkx p.val false (payloadStream k.body)).emit (.ckxAck p.val k.seq))) ∧
  (∀ (s : State) (p : CkxPort) (k : LinkPacket) (x : Segment), (s.port p.val).state = .up → s.modValid = true ∧ s.lv.cut = false → k.crcOk = true → k.body = .seg x → k.seq ≠ (s.port p.val).rxSeq → 2 ^ 23 ≤ ((s.port p.val).rxSeq + 2 ^ 24 - k.seq) % 2 ^ 24 → Sys2Proof.Machine.exec (.linkPacketReceive p k) s = .next ((s.chkCkx p.val false (payloadStream k.body)).emit (.ckxNak p.val (s.port p.val).rxSeq))) ∧
  (∀ (s : State) (p : CkxPort) (k : LinkPacket), (s.port p.val).state = .up → s.modValid = true ∧ s.lv.cut = false → k.crcOk = false → Sys2Proof.Machine.exec (.linkPacketReceive p k) s = .next ((s.chkCkx p.val false (payloadStream k.body)).emit (.ckxNak p.val (s.port p.val).rxSeq))) ∧
  (∀ (s : State) (p : CkxPort) (k : LinkPacket), (s.port p.val).state ≠ .up → Sys2Proof.Machine.exec (.linkPacketReceive p k) s = .next s) ∧
  (∀ (s : State) (p : CkxPort) (k : LinkPacket) (n : Nat), (s.port p.val).state = .up → s.modValid = true → k.crcOk = true → k.body = .linkAck n → (s.port p.val).txWait = [] → Sys2Proof.Machine.exec (.linkPacketReceive p k) s = .next (let left := (s.port p.val).sent.filter (fun y => 2 ^ 23 ≤ (n + 2 ^ 24 - y.seq) % 2 ^ 24); (s.chkCkx p.val false (payloadStream k.body)).setPort p.val { (s.port p.val) with sent := left, tries := if left.any (fun y => decide (y.seq = (s.port p.val).tryOf)) then (s.port p.val).tries else 0 })) ∧
  (∀ (s : State) (p : CkxPort) (k : LinkPacket) (n : Nat), (s.port p.val).state = .up → s.modValid = true → k.crcOk = true → k.body = .linkNak n → Sys2Proof.Machine.exec (.linkPacketReceive p k) s = .next ((s.chkCkx p.val false (payloadStream k.body)).linkRetry p.val ((s.port p.val).sent.filter (fun y => (y.seq + 2 ^ 24 - n) % 2 ^ 24 < 2 ^ 23)))) ∧
  (∀ (s : State) (p : CkxPort) (k : LinkPacket), (s.port p.val).state = .up → s.modValid = true ∧ s.lv.cut = true → isData k.body = true → Sys2Proof.Machine.exec (.linkPacketReceive p k) s = .next (s.chkCkx p.val false (payloadStream k.body))) ∧
  (∀ (s : State) (p : CkxPort) (k : LinkPacket), s.modValid = false → Sys2Proof.Machine.exec (.linkPacketReceive p k) s = .next s) ∧
  (∀ (s : State) (p : CkxPort), (s.port p.val).state = .up → Sys2Proof.Machine.exec (.linkRetryTimeout p) s = .next (s.linkRetry p.val (s.port p.val).sent)) ∧
  (∀ (s : State) (p : Nat) (k : LinkPacket) (ks : List LinkPacket), s.lv.cut = false → (s.port p).tryOf ≠ k.seq → s.linkRetry p (k :: ks) = (s.setPort p { s.port p with tries := 1, tryOf := k.seq }).linkResend p (k :: ks)) ∧
  (∀ (s : State) (p : Nat) (k : LinkPacket) (ks : List LinkPacket), s.lv.cut = false → (s.port p).tryOf = k.seq → (s.port p).tries < 8 → s.linkRetry p (k :: ks) = (s.setPort p { s.port p with tries := (s.port p).tries + 1 }).linkResend p (k :: ks)) ∧
  (∀ (s : State) (p : Nat) (k : LinkPacket) (ks : List LinkPacket), s.lv.cut = false → (s.port p).tryOf = k.seq → 8 ≤ (s.port p).tries → s.linkRetry p (k :: ks) = s.linkDown p) ∧
  (∀ (s : State) (p : Nat) (ks : List LinkPacket), s.lv.cut = true → s.linkRetry p ks = s) ∧
  (∀ (s : State) (p : Nat) (k : LinkPacket), p < 12 → s.scaler (pgCkx p) 0 < 0xFFFFFFFF → (let u := s.linkResend p [k]; u.port p = { s.port p with retry := satAdd (s.port p).retry 1 0xFFFF } ∧ u.scaler (pgCkx p) 0 = s.scaler (pgCkx p) 0 + 1 ∧ Output.ckxTx p k ∈ u.out)) ∧
  (∀ (s : State) (p : Nat), ((s.port p).downs.filter (fun t => s.now < t + 1000000000)).length < 2 → ((s.linkDown p).port p).state = .down ∧ ((s.linkDown p).port p).sent = [] ∧ ((s.linkDown p).port p).width = 0) ∧
  (∀ (s : State) (p : Nat), 2 ≤ ((s.port p).downs.filter (fun t => s.now < t + 1000000000)).length → ((s.linkDown p).port p).state = .held ∧ ((s.linkDown p).port p).heldAt = s.now) ∧
  (∀ (s : State) (p : CkxPort) (ln : Fin 4), (s.port p.val).state = .up → Nat.land (s.port p.val).lanes (15 - Nat.land (Nat.lor (s.port p.val).bad (2 ^ ln.val)) 15) ≠ 0 → ∃ u, Sys2Proof.Machine.exec (.laneErrorLimit p ln) s = .next u ∧ (u.port p.val = { (s.port p.val) with bad := Nat.lor (s.port p.val).bad (2 ^ ln.val), lanes := Nat.land (s.port p.val).lanes (15 - Nat.land (Nat.lor (s.port p.val).bad (2 ^ ln.val)) 15), state := .training }) ∧ (u = { s with fabric := { s.fabric with ports := u.fabric.ports }, regs := { s.regs with scal := u.regs.scal } })) ∧
  (∀ (s : State) (p : CkxPort) (ln : Fin 4), (s.port p.val).state = .up → Nat.land (s.port p.val).lanes (15 - Nat.land (Nat.lor (s.port p.val).bad (2 ^ ln.val)) 15) = 0 → Sys2Proof.Machine.exec (.laneErrorLimit p ln) s = .next (((s.setPort p.val { (s.port p.val) with bad := Nat.lor (s.port p.val).bad (2 ^ ln.val), lanes := 0 })).linkDown p.val)) ∧
  (∀ (s : State) (p : CkxPort) (g : Fin 16), bitOf (s.reg (pgCkx p.val) 0x010) 0 = true ∧ s.dieTested (4 + p.val / 6) = false → (s.port p.val).state = .training ∨ (s.port p.val).state = .down → Nat.land g.val (15 - Nat.land (s.port p.val).bad 15) ≠ 0 → Sys2Proof.Machine.exec (.linkRetrainComplete p g) s = .next (((s.setPort p.val { (s.port p.val) with state := .up, lanes := Nat.land g.val (15 - Nat.land (s.port p.val).bad 15), bad := 15 - Nat.land g.val (15 - Nat.land (s.port p.val).bad 15), width := widthOf (popN 4 (Nat.land g.val (15 - Nat.land (s.port p.val).bad 15))), tries := 0, unreach := [] }).advertise p.val).pathFound)) ∧
  (widthOf 4 = 4 ∧ widthOf 3 = 2 ∧ widthOf 2 = 2 ∧ widthOf 1 = 1 ∧ widthOf 0 = 0) ∧
  (∀ (s : State) (p : CkxPort) (g : Fin 16), bitOf (s.reg (pgCkx p.val) 0x010) 0 = false → Sys2Proof.Machine.exec (.linkRetrainComplete p g) s = .next s) ∧
  (∀ (s : State) (p : CkxPort), (s.port p.val).state = .held → (s.port p.val).heldAt + max 1 (fld (s.reg (pgCkx p.val) 0x010) 23 16) * 1000000000 ≤ s.now → Sys2Proof.Machine.exec (.portHoldExpire p) s = .next (s.setPort p.val { (s.port p.val) with state := .training })) ∧
  (∀ (s : State) (p : CkxPort), s.now < (s.port p.val).heldAt + max 1 (fld (s.reg (pgCkx p.val) 0x010) 23 16) * 1000000000 → Sys2Proof.Machine.exec (.portHoldExpire p) s = .next s) ∧
  (∀ (s : State) (p : CkxPort), s.pwr.phase = .running → s.recMode = 0 → (s.port p.val).state = .held → Sys2Proof.Machine.exec (.holdClr p) s = .next (s.setPort p.val { (s.port p.val) with state := .training })) ∧
  (∀ (s : State) (p : CkxPort), s.pwr.phase = .running → s.recMode = 0 → bitOf (s.reg (pgCkx p.val) 0x010) 0 = true → (s.port p.val).state ≠ .held → Sys2Proof.Machine.exec (.retrain p) s = .next (s.setPort p.val { (s.port p.val) with state := .training, bad := 0 })) ∧
  (∀ (s : State) (p : CkxPort) (d : Fin 65536), (s.port p.val).state = .up → d.val ∉ (s.port p.val).unreach → Sys2Proof.Machine.exec (.switchUnreachable p d) s = .next ((((s.bump (pgCkx p.val) 3 1).setPort p.val { (s.port p.val) with unreach := d.val :: (s.port p.val).unreach } : State)).segReplay (fun x => x.port = some p.val && x.home = d.val)))

/-- Each round begins once. A heartbeat of a position that is no snag, at an epoch not older, is noted and withdraws this member's accusation; others are discarded. A member absent for TMISS is accused; an accusation is held, and more than N/2 of them make the verdict: the position becomes SNAG, the epoch rises by 1, and the module enters the revoke list. A VERDICT at the present epoch is adopted, one at an older epoch ignored, one naming the member itself fences it with cause 0. A module fault fences with cause 1, loss of quorum with 2, LEAVE with 3. FOUND makes a member at epoch 0 of a module that is in no group. JOIN needs NONE or FENCED, a passed BIST and no cell, and is otherwise counted. JOIN messages are answered with ADMIT and, in a group of at most 64, entry in round r + 2; more than N/2 ADMITs load table and epoch. JOINING lasts at most 64 rounds and SHADOW 4 × SHADOWN. Which messages a module outside the group takes is the model's reading (log entry 44). -/
def Obligations.Liveness : Prop :=
  (∀ (s : State), s.pwr.phase = .running → s.bist.inj.find 7 = none → Sys2Proof.Machine.exec (.moduleFault) s = .next (s.selfFence 1)) ∧
  (∀ (s : State) (j : Inj), s.pwr.phase = .running → s.bist.inj.find 7 = some j → Sys2Proof.Machine.exec (.moduleFault) s = .next ((s.useInj 7 j.target).2.selfFence 1)) ∧
  (∀ (s : State) (c : Nat), s.lv.state ≠ .fenced → (s.selfFence c).lv.state = .fenced ∧ (s.selfFence c).lv.cut = true ∧ (s.selfFence c).lv.cause = c ∧ (s.selfFence c).fabric.gather = [] ∧ (s.selfFence c).bist.logicOk = 0 ∧ (s.selfFence c).bist.memOk = 0) ∧
  (∀ (s : State) (c : Nat), s.lv.state = .fenced → s.selfFence c = s) ∧
  (∀ (s : State), s.lv.state = .member → s.lv.mine = [] → s.lv.began ≠ some s.lvRound → Sys2Proof.Machine.exec (.livenessRound) s = .next (foldS (s.configured.filter (· ≠ s.myPos)) (fun j t => t.sendBeat j { pos := s.myPos, epoch := w32 s.lv.epoch, round := s.lvRound, flagged := false, digest := s.lv.digest }) (s.setLv { s.lv with began := some s.lvRound }))) ∧
  (∀ (s : State), s.lv.state = .none ∨ s.lv.state = .fenced → Sys2Proof.Machine.exec (.livenessRound) s = .next (s.setLv { s.lv with began := some s.lvRound })) ∧
  (∀ (s : State), s.lv.began = some s.lvRound → Sys2Proof.Machine.exec (.livenessRound) s = .next s) ∧
  (∀ (s : State) (h : Heartbeat), s.lv.state = .member → s.lv.posState h.pos ≠ .snag → s.lv.epoch ≤ h.epoch.toNat → s.lv.mine = [] → Sys2Proof.Machine.exec (.heartbeat h) s = .next (s.setLv { s.lv with heard := s.lv.heard.set h.pos s.now })) ∧
  (∀ (s : State) (h : Heartbeat), s.lv.state = .member → s.lv.posState h.pos ≠ .snag → s.lv.epoch ≤ h.epoch.toNat → h.pos ∈ s.lv.mine → Sys2Proof.Machine.exec (.heartbeat h) s = .next ((s.setLv { s.lv with heard := s.lv.heard.set h.pos s.now, mine := s.lv.mine.filter (· ≠ h.pos), accused := s.lv.accused.filter (fun p => !(p.1 = h.pos && p.2 = s.myPos)) }).lvToMembers (.clear h.pos (w32 s.lv.epoch)))) ∧
  (∀ (s : State) (h : Heartbeat), s.lv.posState h.pos = .snag ∨ h.epoch.toNat < s.lv.epoch → Sys2Proof.Machine.exec (.heartbeat h) s = .next s) ∧
  (∀ (s : State) (x : Fin 256), s.lv.state = .member → x.val ≠ s.myPos ∧ s.lv.posState x.val = .member → s.lv.heard.get 0 x.val + 1000 * s.lvTmiss ≤ s.now → x.val ∉ s.lv.mine → Sys2Proof.Machine.exec (.peerAbsent x) s = .next (State.verdicts 256 ((s.setLv { s.lv with mine := x.val :: s.lv.mine, accused := (x.val, s.myPos) :: s.lv.accused }).lvToMembers (.accuse x.val (w32 s.lv.epoch))))) ∧
  (∀ (s : State) (x : Fin 256), s.now < s.lv.heard.get 0 x.val + 1000 * s.lvTmiss → Sys2Proof.Machine.exec (.peerAbsent x) s = .next s) ∧
  (∀ (s : State) (x f : Fin 256) (e : Word), s.lv.state = .member ∧ x.val ≠ s.myPos → s.lv.posState f.val = .member ∧ s.lv.epoch ≤ e.toNat → s.lv.accused.all (fun p => decide (p ≠ (x.val, f.val))) = true → Sys2Proof.Machine.exec (.accuse x f e) s = .next (State.verdicts 256 (s.setLv { s.lv with accused := (x.val, f.val) :: s.lv.accused }))) ∧
  (∀ (s : State) (n : Nat), s.lv.state = .member → s.lv.members.all (fun x => decide (2 * (s.lv.accused.filter (fun p => p.1 = x && s.lv.posState p.2 = .member && p.2 ≠ x)).length ≤ s.lv.n)) = true → State.verdicts n s = s) ∧
  (∀ (s : State) (n x : Nat), s.lv.state = .member → 3 ≤ s.lv.n → s.lv.members.find? s.lv.guilty = some x → State.verdicts (n + 1) s = State.verdicts n (s.adopt x) ∧ s.lv.n < 2 * (s.lv.accused.filter (fun p => p.1 = x && s.lv.posState p.2 = .member && p.2 ≠ x)).length) ∧
  (∀ (s : State) (x : Nat), (s.adopt x).lv.posState x = .snag ∧ (s.adopt x).lv.epoch = (s.lv.epoch + 1) % 2 ^ 32 ∧ (s.adopt x).lv.revoke.any (fun r => decide (r.module_ = s.modAt x)) = true) ∧
  (∀ (s : State) (x f : Fin 256) (e : Word), s.lv.state = .member → s.lv.posState f.val ≠ .snag ∧ s.lv.epoch ≤ e.toNat → Sys2Proof.Machine.exec (.clear x f e) s = .next (s.setLv { s.lv with accused := s.lv.accused.filter (fun p => !(p.1 = x.val && p.2 = f.val)) })) ∧
  (∀ (s : State) (x f : Fin 256) (e : Word), s.replayed 3 = false → s.lv.state = .member ∧ x.val = s.myPos → s.lv.posState f.val ≠ .snag ∧ s.lv.epoch ≤ e.toNat → Sys2Proof.Machine.exec (.verdict x f e) s = .next (s.selfFence 0)) ∧
  (∀ (s : State) (x f : Fin 256) (e : Word), s.replayed 3 = false → s.lv.state = .member ∧ x.val ≠ s.myPos → s.lv.posState f.val ≠ .snag ∧ s.lv.posState x.val ≠ .snag → e.toNat = s.lv.epoch → Sys2Proof.Machine.exec (.verdict x f e) s = .next (State.verdicts 256 (s.adopt x.val))) ∧
  (∀ (s : State) (x f : Fin 256) (e : Word), s.replayed 3 = false → e.toNat < s.lv.epoch → Sys2Proof.Machine.exec (.verdict x f e) s = .next s) ∧
  (∀ (s : State) (x : Forward), x.module_.val ≠ s.modId → s.lv.revoke.all (fun r => decide (r.module_ ≠ x.module_.val) || decide (r.epoch < x.epoch.toNat)) = true → (s.peerSnag x.module_.val x.epoch.toNat).lv.cut = false → Sys2Proof.Machine.exec (.verdictForward x) s = .next ((s.peerSnag x.module_.val x.epoch.toNat).mirrorVerdict x.module_.val)) ∧
  (∀ (s : State) (x : Forward), x.module_.val ≠ s.modId → s.lv.revoke.all (fun r => decide (r.module_ ≠ x.module_.val) || decide (r.epoch < x.epoch.toNat)) = true → (s.peerSnag x.module_.val x.epoch.toNat).lv.cut = true → Sys2Proof.Machine.exec (.verdictForward x) s = .next (s.peerSnag x.module_.val x.epoch.toNat)) ∧
  (∀ (s : State) (x : Forward), s.lv.revoke.any (fun r => decide (r.module_ = x.module_.val) && decide (x.epoch.toNat ≤ r.epoch)) = true → Sys2Proof.Machine.exec (.verdictForward x) s = .next s) ∧
  (∀ (s : State) (x e : Nat), (s.peerSnag x e).lv.revoke.any (fun r => decide (r.module_ = x)) = true ∧ (s.peerSnag x e).fabric.imports.all (fun p => decide (p.2.home ≠ x) || p.2.suspect) = true ∧ (s.peerSnag x e).fabric.agents.all (fun p => p.2.wins.all (fun w => decide (w.src ≠ x))) = true) ∧
  (∀ (s : State), s.lv.state = .member ∧ 3 ≤ s.lv.n → 2 * ((s.lv.members.filter (fun j => decide (j ≠ s.myPos) && decide (s.now < s.lv.heard.get 0 j + 1000 * (s.lvTmiss - s.lvPeriod)))).length + 1) ≤ s.lv.n → Sys2Proof.Machine.exec (.quorumLoss) s = .next (s.selfFence 2)) ∧
  (∀ (s : State), s.lv.n < 2 * ((s.lv.members.filter (fun j => decide (j ≠ s.myPos) && decide (s.now < s.lv.heard.get 0 j + 1000 * (s.lvTmiss - s.lvPeriod)))).length + 1) ∨ s.lv.n < 3 → Sys2Proof.Machine.exec (.quorumLoss) s = .next s) ∧
  (∀ (s : State), s.pwr.phase = .running → s.recMode = 0 → s.lv.state ≠ .none → Sys2Proof.Machine.exec (.found) s = .next s) ∧
  (∀ (s : State), s.pwr.phase = .running → s.recMode = 0 → s.lv.state = .none → Sys2Proof.Machine.exec (.found) s = .next ((s.setLv { LvSt.reset with state := .member, cause := s.lv.cause, posn := [(s.myPos, .member)], revoke := s.lv.revoke }).lvEvents)) ∧
  (∀ (s : State), s.pwr.phase = .running → s.recMode = 0 → s.lv.state = .member → Sys2Proof.Machine.exec (.leave) s = .next (s.selfFence 3)) ∧
  (∀ (s : State), s.pwr.phase = .running → s.recMode = 0 → s.lv.state = .none ∨ s.lv.state = .fenced → s.bist.logicOk = 63 ∧ s.bist.memOk = 63 → s.cells.all (fun p => p.2.phase = .free) = true → Sys2Proof.Machine.exec (.join) s = .next ((s.setLv { s.lv with state := .joining, rounds := 0, match_ := 0, admits := [], entry := none, entries := [], digests := [] }).lvEvents.lvToAll (.join s.myPos false true))) ∧
  (∀ (s : State), s.pwr.phase = .running → s.recMode = 0 → s.bist.logicOk ≠ 63 ∨ s.bist.memOk ≠ 63 → Sys2Proof.Machine.exec (.join) s = .next (s.bump (pgCkx 32) 0 1)) ∧
  (∀ (s : State) (x : Fin 256), s.lv.state = .member ∧ s.lv.n ≤ 64 → x.val ≠ s.myPos ∧ s.lv.posState x.val ≠ .member → s.configured.contains x.val = true → s.lv.entries.all (fun p => decide (p.1 ≠ x.val)) = true → Sys2Proof.Machine.exec (.joinMessage x false true) s = .next ((s.setLv { s.lv with posn := s.lv.posn.set x.val .joining, entries := s.lv.entries ++ [(x.val, s.lvRound + 2)] }).lvSend (s.modAt x.val) (.admitMsg { pos := s.myPos, epoch := w32 s.lv.epoch, round := s.lvRound, table := s.lv.table }))) ∧
  (∀ (s : State) (x : Fin 256), Sys2Proof.Machine.exec (.joinMessage x false false) s = .next s) ∧
  (∀ (s : State) (a : AdmitMsg), s.lv.state = .joining ∧ s.lv.entry = none → s.lv.admits.all (fun b => decide (b.pos ≠ a.pos)) = true → 2 * (s.lv.admits.length + 1) ≤ (a.table.filter (· = 1)).length → Sys2Proof.Machine.exec (.admitMessage a) s = .next (s.setLv { s.lv with admits := s.lv.admits ++ [a] })) ∧
  (∀ (s : State) (a b : AdmitMsg), s.lv.state = .joining ∧ s.lv.entry = none → s.lv.admits = [b] ∧ b.pos ≠ a.pos → (a.table.filter (· = 1)).length < 4 → ∃ u, Sys2Proof.Machine.exec (.admitMessage a) s = .next u ∧ (u.lv.epoch = a.epoch.toNat ∧ u.lv.entry = some (b.round + 2) ∧ u.lv.state = .joining) ∧ ((List.range 256).all (fun j => u.lv.posState j = (if j = s.myPos then .joining else (if s.configured.contains j then posOf (a.table.getD j 0) else .none))) = true) ∧ (u = s.setLv { s.lv with admits := [b, a], posn := u.lv.posn, epoch := a.epoch.toNat, entry := some (b.round + 2) })) ∧
  (∀ (s : State) (j r : Nat), s.lv.state = .member → s.lv.entries = [(j, r)] ∧ r ≤ s.lvRound → ∃ u, Sys2Proof.Machine.exec (.memberEntry) s = .next u ∧ (u.lv.posState j = .member ∧ u.lv.epoch = (s.lv.epoch + 1) % 2 ^ 32 ∧ u.lv.entries = []) ∧ (u.lv.revoke = s.lv.revoke.filter (fun x => x.module_ ≠ s.modAt j))) ∧
  (∀ (s : State) (e : Nat), s.lv.state = .joining ∨ s.lv.state = .shadow → s.lv.entry = some e ∧ e ≤ s.lvRound → ∃ u, Sys2Proof.Machine.exec (.memberEntry) s = .next u ∧ (u.lv.state = .member ∧ u.lv.cut = false ∧ u.lv.posState s.myPos = .member ∧ u.lv.epoch = (s.lv.epoch + 1) % 2 ^ 32) ∧ (u.fabric.grants = [] ∧ u.fabric.imports = [])) ∧
  (∀ (s : State) (e : Nat), s.lv.state = .joining ∨ s.lv.state = .shadow → s.lv.entry = some e ∧ s.lvRound < e → Sys2Proof.Machine.exec (.memberEntry) s = .next s) ∧
  (∀ (s : State), s.lv.state = .joining ∧ 64 ≤ s.lv.rounds ∨ s.lv.state = .shadow ∧ 4 * s.lvShadown ≤ s.lv.rounds → s.lv.state = .joining ∨ s.lv.entry = none → Sys2Proof.Machine.exec (.joinTimeout) s = .next (((s.setLv { s.lv with state := .fenced, cut := true, admits := [], entry := none, entries := [], digests := [], rounds := 0, match_ := 0 }).pulse (pgCkx 32) 3).lvEvents)) ∧
  (∀ (s : State), s.lv.state = .joining ∧ s.lv.rounds < 64 → Sys2Proof.Machine.exec (.joinTimeout) s = .next s) ∧
  (∀ (s : State), s.inForce (pgCkx 32) 0x0C8 = 0 → s.lvPeriod = 50 ∧ s.lvTmiss = 100 ∧ s.lvShadown = 8)

/-- ARM makes an origin's entry WAIT when its cell is ACCEPTED or ACTIVE, a partner's when the local descriptor passes every check of admission; otherwise it posts the code and changes nothing. DISARM clears an entry, except a TAKEN one (log entry 46). READ fills staging. The origin's open request makes the entry ARMED or, refused, NONE with MIRROR_FAIL; the partner answers a request only from its origin, ARMED on a match. While ARMED the partner holds mirrored gains. On a verdict an ARMED partner entry becomes TAKEN and its cell ACTIVE at a slot start at least one slot time ahead; an ARMED origin entry becomes LOST. MBX_EC_CMD with GO starts the command in staging unless one is running, which is ignored and counted. At its end the code is held, BUSY clears and EC_DONE is set. A command whose fields are out of range reports CONFIG_INVALID and writes nothing. The example of the rule: data 1, 2, 3, 4 give P = 0x04 and Q = 0x29, and the two lost shards come back. A single lost data shard is the sum of P and the others. -/
def Obligations.MirrorsAndTakeover : Prop :=
  (∀ (s : State) (v : Word), s.pwr.phase = .running → s.recMode = 0 → fld v 1 0 = 1 → mirStageOk ((List.range 8).map (fun i => s.reg (pgSds 4) (0x240 + 4 * i))) (fld v 12 4) = true → (s.mirror (fld v 12 4)).state = .none → bitOf (wAt ((List.range 8).map (fun i => s.reg (pgSds 4) (0x240 + 4 * i))) 0) 9 = false → (s.cell (fld v 12 4)).phase = .accepted ∨ (s.cell (fld v 12 4)).phase = .active → Sys2Proof.Machine.exec (.arm v) s = .next { s with mirrors := s.mirrors.set (fld v 12 4) { role := false, desc := (s.cell (fld v 12 4)).desc, state := .wait, pcell := fld (wAt ((List.range 8).map (fun i => s.reg (pgSds 4) (0x240 + 4 * i))) 0) 24 16, pmod := fld (wAt ((List.range 8).map (fun i => s.reg (pgSds 4) (0x240 + 4 * i))) 1) 15 0, daddr := fld (wAt ((List.range 8).map (fun i => s.reg (pgSds 4) (0x240 + 4 * i))) 2) 27 0 }, coord := { s.coord with mirStat := .ok } }) ∧
  (∀ (s : State) (v : Word), s.pwr.phase = .running → s.recMode = 0 → fld v 1 0 = 1 → mirStageOk ((List.range 8).map (fun i => s.reg (pgSds 4) (0x240 + 4 * i))) (fld v 12 4) = true → bitOf (wAt ((List.range 8).map (fun i => s.reg (pgSds 4) (0x240 + 4 * i))) 0) 9 = false → (s.cell (fld v 12 4)).phase = .free ∨ (s.cell (fld v 12 4)).phase = .draining → Sys2Proof.Machine.exec (.arm v) s = .next { s with coord := { s.coord with mirStat := .configInvalid } }) ∧
  (∀ (s : State) (v : Word), s.pwr.phase = .running → s.recMode = 0 → fld v 1 0 = 1 → (s.mirror (fld v 12 4)).state ≠ .none → Sys2Proof.Machine.exec (.arm v) s = .next { s with coord := { s.coord with mirStat := .configInvalid } }) ∧
  (∀ (s : State) (v : Word), s.pwr.phase = .running → s.recMode = 0 → fld v 1 0 = 1 → mirStageOk ((List.range 8).map (fun i => s.reg (pgSds 4) (0x240 + 4 * i))) (fld v 12 4) = true → (s.mirror (fld v 12 4)).state = .none → bitOf (wAt ((List.range 8).map (fun i => s.reg (pgSds 4) (0x240 + 4 * i))) 0) 9 = true → (failsCode ((s.loadDev .dom0 (fld (wAt ((List.range 8).map (fun i => s.reg (pgSds 4) (0x240 + 4 * i))) 2) 27 0 * 4096) 64).2.2.admitFails (if (s.loadDev .dom0 (fld (wAt ((List.range 8).map (fun i => s.reg (pgSds 4) (0x240 + 4 * i))) 2) 27 0 * 4096) 64).1 = .ok then wordsOf 16 (s.loadDev .dom0 (fld (wAt ((List.range 8).map (fun i => s.reg (pgSds 4) (0x240 + 4 * i))) 2) 27 0 * 4096) 64).2.1 else List.replicate 16 0) (fld v 12 4)) = .ok) → Sys2Proof.Machine.exec (.arm v) s = .next (({ (s.loadDev .dom0 (fld (wAt ((List.range 8).map (fun i => s.reg (pgSds 4) (0x240 + 4 * i))) 2) 27 0 * 4096) 64).2.2 with mirrors := (s.loadDev .dom0 (fld (wAt ((List.range 8).map (fun i => s.reg (pgSds 4) (0x240 + 4 * i))) 2) 27 0 * 4096) 64).2.2.mirrors.set (fld v 12 4) { role := true, desc := (if (s.loadDev .dom0 (fld (wAt ((List.range 8).map (fun i => s.reg (pgSds 4) (0x240 + 4 * i))) 2) 27 0 * 4096) 64).1 = .ok then wordsOf 16 (s.loadDev .dom0 (fld (wAt ((List.range 8).map (fun i => s.reg (pgSds 4) (0x240 + 4 * i))) 2) 27 0 * 4096) 64).2.1 else List.replicate 16 0), state := .wait, pcell := fld (wAt ((List.range 8).map (fun i => s.reg (pgSds 4) (0x240 + 4 * i))) 0) 24 16, pmod := fld (wAt ((List.range 8).map (fun i => s.reg (pgSds 4) (0x240 + 4 * i))) 1) 15 0, daddr := fld (wAt ((List.range 8).map (fun i => s.reg (pgSds 4) (0x240 + 4 * i))) 2) 27 0 }, coord := { (s.loadDev .dom0 (fld (wAt ((List.range 8).map (fun i => s.reg (pgSds 4) (0x240 + 4 * i))) 2) 27 0 * 4096) 64).2.2.coord with mirStat := .ok } } : State).overCheck (dHome (if (s.loadDev .dom0 (fld (wAt ((List.range 8).map (fun i => s.reg (pgSds 4) (0x240 + 4 * i))) 2) 27 0 * 4096) 64).1 = .ok then wordsOf 16 (s.loadDev .dom0 (fld (wAt ((List.range 8).map (fun i => s.reg (pgSds 4) (0x240 + 4 * i))) 2) 27 0 * 4096) 64).2.1 else List.replicate 16 0)))) ∧
  (∀ (s : State) (v : Word), s.pwr.phase = .running → s.recMode = 0 → fld v 1 0 = 1 → mirStageOk ((List.range 8).map (fun i => s.reg (pgSds 4) (0x240 + 4 * i))) (fld v 12 4) = true → (s.mirror (fld v 12 4)).state = .none → bitOf (wAt ((List.range 8).map (fun i => s.reg (pgSds 4) (0x240 + 4 * i))) 0) 9 = true → (failsCode ((s.loadDev .dom0 (fld (wAt ((List.range 8).map (fun i => s.reg (pgSds 4) (0x240 + 4 * i))) 2) 27 0 * 4096) 64).2.2.admitFails (if (s.loadDev .dom0 (fld (wAt ((List.range 8).map (fun i => s.reg (pgSds 4) (0x240 + 4 * i))) 2) 27 0 * 4096) 64).1 = .ok then wordsOf 16 (s.loadDev .dom0 (fld (wAt ((List.range 8).map (fun i => s.reg (pgSds 4) (0x240 + 4 * i))) 2) 27 0 * 4096) 64).2.1 else List.replicate 16 0) (fld v 12 4)) ≠ .ok) → Sys2Proof.Machine.exec (.arm v) s = .next { (s.loadDev .dom0 (fld (wAt ((List.range 8).map (fun i => s.reg (pgSds 4) (0x240 + 4 * i))) 2) 27 0 * 4096) 64).2.2 with coord := { (s.loadDev .dom0 (fld (wAt ((List.range 8).map (fun i => s.reg (pgSds 4) (0x240 + 4 * i))) 2) 27 0 * 4096) 64).2.2.coord with mirStat := failsCode ((s.loadDev .dom0 (fld (wAt ((List.range 8).map (fun i => s.reg (pgSds 4) (0x240 + 4 * i))) 2) 27 0 * 4096) 64).2.2.admitFails (if (s.loadDev .dom0 (fld (wAt ((List.range 8).map (fun i => s.reg (pgSds 4) (0x240 + 4 * i))) 2) 27 0 * 4096) 64).1 = .ok then wordsOf 16 (s.loadDev .dom0 (fld (wAt ((List.range 8).map (fun i => s.reg (pgSds 4) (0x240 + 4 * i))) 2) 27 0 * 4096) 64).2.1 else List.replicate 16 0) (fld v 12 4)) } }) ∧
  (∀ (s : State) (v : Word), s.pwr.phase = .running → s.recMode = 0 → fld v 1 0 = 2 → (s.mirror (fld v 12 4)).state ≠ .taken → (s.mirror (fld v 12 4)).role = false ∨ ((s.mirror (fld v 12 4)).state ≠ .wait ∧ (s.mirror (fld v 12 4)).state ≠ .armed) → Sys2Proof.Machine.exec (.disarm v) s = .next { s with mirrors := s.mirrors.set (fld v 12 4) MirrorEntry.none, coord := { s.coord with mirStat := .ok } }) ∧
  (∀ (s : State) (v : Word), s.pwr.phase = .running → s.recMode = 0 → fld v 1 0 = 2 → (s.mirror (fld v 12 4)).role = true ∧ ((s.mirror (fld v 12 4)).state = .wait ∨ (s.mirror (fld v 12 4)).state = .armed) → (s.cell (fld v 12 4)).phase = .free → Sys2Proof.Machine.exec (.disarm v) s = .next ((({ s with mirrors := s.mirrors.set (fld v 12 4) MirrorEntry.none, cells := s.cells.set (fld v 12 4) { Cell.free with txSeq := (s.cell (fld v 12 4)).txSeq } } : State).overCheck (dHome (s.mirror (fld v 12 4)).desc)).mirDone .ok)) ∧
  (∀ (s : State) (v : Word), s.pwr.phase = .running → s.recMode = 0 → fld v 1 0 = 2 → (s.mirror (fld v 12 4)).state = .taken → Sys2Proof.Machine.exec (.disarm v) s = .next { s with coord := { s.coord with mirStat := .configInvalid } }) ∧
  (∀ (s : State) (v : Word), s.pwr.phase = .running → s.recMode = 0 → fld v 1 0 = 3 → ∃ u, Sys2Proof.Machine.exec (.mirrorRead v) s = .next u ∧ (((List.range 8).map (fun i => u.reg (pgSds 4) (0x240 + 4 * i))) = [w32 ((fld v 12 4) + 2 ^ 9 * b1 (s.mirror (fld v 12 4)).role + 2 ^ 16 * (s.mirror (fld v 12 4)).pcell), w32 (s.mirror (fld v 12 4)).pmod, w32 (s.mirror (fld v 12 4)).daddr, 0, 0, 0, 0, 0]) ∧ (u = { s with regs := { s.regs with raw := u.regs.raw }, coord := { s.coord with mirStat := .ok } })) ∧
  (∀ (s : State) (c : CellId), (s.mirror c.val).state = .wait ∧ (s.mirror c.val).role = false → Sys2Proof.Machine.exec (.mirrorOpenRequest c none) s = .next (s.lvSend (s.mirror c.val).pmod (.mirrorOpen c.val (s.mirror c.val).pcell (s.cell c.val).desc (s.pkgDigest (dRpkg (s.cell c.val).desc)) (s.pkgDigest (dLpkg (s.cell c.val).desc))))) ∧
  (∀ (s : State) (c : CellId), (s.mirror c.val).state = .wait ∧ (s.mirror c.val).role = false → ∃ u, Sys2Proof.Machine.exec (.mirrorOpenRequest c (some true)) s = .next u ∧ (u.mirror c.val = { (s.mirror c.val) with state := .armed }) ∧ (u = { s with mirrors := s.mirrors.set c.val (u.mirror c.val), out := u.out })) ∧
  (∀ (s : State) (c : CellId), (s.mirror c.val).state = .wait ∧ (s.mirror c.val).role = false → ∃ u, Sys2Proof.Machine.exec (.mirrorOpenRequest c (some false)) s = .next u ∧ (u.mirror c.val = MirrorEntry.none) ∧ (u = { s with mirrors := s.mirrors.set c.val MirrorEntry.none, regs := { s.regs with evtRaw := u.regs.evtRaw, evtPend := u.regs.evtPend, pba := u.regs.pba }, out := u.out }) ∧ (∀ q, pageKey q ≠ pageKey (pgSds 4) → u.evtRaw q = s.evtRaw q ∧ u.evtPend q = s.evtPend q)) ∧
  (∀ (s : State) (c : CellId) (a : Option Bool), (s.mirror c.val).state ≠ .wait ∨ (s.mirror c.val).role = true → Sys2Proof.Machine.exec (.mirrorOpenRequest c a) s = .next s) ∧
  (∀ (s : State) (f : Fin 65536) (pc c : CellId) (d : List Word) (rd ld : List Byte), (s.mirror c.val).state = .wait ∧ (s.mirror c.val).role = true → (s.mirror c.val).pmod = f.val ∧ (s.mirror c.val).pcell = pc.val → mirMatch d (s.mirror c.val).desc = true → rd = s.pkgDigest (dRpkg (s.mirror c.val).desc) ∧ ld = s.pkgDigest (dLpkg (s.mirror c.val).desc) → ∃ u, Sys2Proof.Machine.exec (.mirrorOpenReceive f pc c d rd ld) s = .next u ∧ (u.mirror c.val = { (s.mirror c.val) with state := .armed }) ∧ (u = { s with mirrors := s.mirrors.set c.val (u.mirror c.val), out := u.out })) ∧
  (∀ (s : State) (f : Fin 65536) (pc c : CellId) (d : List Word) (rd ld : List Byte), (s.mirror c.val).state = .wait ∧ (s.mirror c.val).role = true → (s.mirror c.val).pmod = f.val ∧ (s.mirror c.val).pcell = pc.val → mirMatch d (s.mirror c.val).desc = false → Sys2Proof.Machine.exec (.mirrorOpenReceive f pc c d rd ld) s = .next ((s.lvSend f.val (.mirrorAnswer pc.val false)).mirFail c.val)) ∧
  (∀ (s : State) (f : Fin 65536) (pc c : CellId) (d : List Word) (rd ld : List Byte), (s.mirror c.val).pmod ≠ f.val ∨ (s.mirror c.val).pcell ≠ pc.val → Sys2Proof.Machine.exec (.mirrorOpenReceive f pc c d rd ld) s = .next s) ∧
  (∀ (s : State) (c : CellId) (g : Int) (fz hd : Option Nat) (q : Int), (s.mirror c.val).state = .armed ∧ (s.mirror c.val).role = true → Sys2Proof.Machine.exec (.mirror c (.gains [(g, fz, hd, q)])) s = .next { s with cells := s.cells.set c.val { s.cell c.val with gains := [(0, { Gain.zero with g := g, frzEnd := fz, holdEnd := hd, rssi := q })] } }) ∧
  (∀ (s : State) (c : CellId) (ws : List Word), (s.mirror c.val).state = .armed ∧ (s.mirror c.val).role = true → Sys2Proof.Machine.exec (.mirror c (.message ws)) s = .next (s.mirrorMsg c.val (s.mirror c.val).desc ws)) ∧
  (∀ (s : State) (c : CellId) (bs : List Byte), (s.mirror c.val).state = .armed ∧ (s.mirror c.val).role = true → Sys2Proof.Machine.exec (.mirror c (.area bs)) s = .next (s.putDev .dom0 (dRing (s.mirror c.val).desc + dRingSz (s.mirror c.val).desc - s.mirSz (s.mirror c.val).desc) (bs.take (s.mirSz (s.mirror c.val).desc)))) ∧
  (∀ (s : State) (c : CellId) (m : MirrorItem), (s.mirror c.val).state ≠ .armed ∨ (s.mirror c.val).role = false → Sys2Proof.Machine.exec (.mirror c m) s = .next s) ∧
  (∀ (s : State) (c : Nat), (s.mirFail c).mirror c = MirrorEntry.none) ∧
  (∀ (s : State) (c : Nat), ((s.takeCell c).mirror c).state = .taken ∧ ((s.takeCell c).cell c).phase = .active ∧ ((s.takeCell c).cell c).startAt = (s.takeSlot (s.mirror c).desc).start) ∧
  (∀ (s : State) (c x : Nat) (e : MirrorEntry), s.mirrors = [(c, e)] → e.state = .armed ∧ e.pmod = x ∧ e.role = false → s.mirrorVerdict x = { s with mirrors := s.mirrors.set c { e with state := .failed } }) ∧
  (∀ (s : State) (i : InstId) (v : Word), s.pwr.phase = .running → pageDead (s.inst i.val).phase = false → bitOf v 0 = true → fld (wAt ((List.range 8).map (fun j => s.reg (pgMbx i.val) (0x540 + 4 * j))) 0) 1 0 = 1 → (s.inst i.val).ecBusy = false → Sys2Proof.Machine.exec (.encode i v) s = .next { s with insts := s.insts.set i.val { (s.inst i.val) with ecBusy := true, ecWords := ((List.range 8).map (fun j => s.reg (pgMbx i.val) (0x540 + 4 * j))) } }) ∧
  (∀ (s : State) (i : InstId) (v : Word), s.pwr.phase = .running → pageDead (s.inst i.val).phase = false → bitOf v 0 = true → fld (wAt ((List.range 8).map (fun j => s.reg (pgMbx i.val) (0x540 + 4 * j))) 0) 1 0 = 2 → (s.inst i.val).ecBusy = false → Sys2Proof.Machine.exec (.rebuild i v) s = .next { s with insts := s.insts.set i.val { (s.inst i.val) with ecBusy := true, ecWords := ((List.range 8).map (fun j => s.reg (pgMbx i.val) (0x540 + 4 * j))) } }) ∧
  (∀ (s : State) (i : InstId) (v : Word), s.pwr.phase = .running → pageDead (s.inst i.val).phase = false → bitOf v 0 = true → fld (wAt ((List.range 8).map (fun j => s.reg (pgMbx i.val) (0x540 + 4 * j))) 0) 1 0 = 1 → (s.inst i.val).ecBusy = true → Sys2Proof.Machine.exec (.encode i v) s = .next (s.bump (pgMbx i.val) 1 1)) ∧
  (∀ (s : State) (i : InstId) (v : Word), s.pwr.phase = .running → pageDead (s.inst i.val).phase = false → bitOf v 0 = true → fld (wAt ((List.range 8).map (fun j => s.reg (pgMbx i.val) (0x540 + 4 * j))) 0) 1 0 = 2 → (s.inst i.val).ecBusy = true → Sys2Proof.Machine.exec (.rebuild i v) s = .next (s.bump (pgMbx i.val) 1 1)) ∧
  (∀ (s : State) (i : InstId), (s.inst i.val).ecBusy = true → Sys2Proof.Machine.exec (.ecDone i) s = .next ((((s.ecRun i.val (s.inst i.val).ecWords).2.updInst i.val (fun y => { y with ecBusy := false, ecStat := (s.ecRun i.val (s.inst i.val).ecWords).1 })).evt (pgMbx i.val) ((s.ecRun i.val (s.inst i.val).ecWords).2.evtRaw (pgMbx i.val)) 0x800))) ∧
  (∀ (s : State) (i : InstId), (s.inst i.val).ecBusy = false → Sys2Proof.Machine.exec (.ecDone i) s = .next s) ∧
  (∀ (s : State) (i : Nat) (ws : List Word), fld (wAt ws 0) 7 4 = 0 ∨ 14 < fld (wAt ws 0) 7 4 ∨ fld (wAt ws 1) 12 0 = 0 ∨ 4096 < fld (wAt ws 1) 12 0 ∨ fld (wAt ws 0) 1 0 = 0 ∨ fld (wAt ws 0) 1 0 = 3 → s.ecRun i ws = (.configInvalid, s)) ∧
  (gfRebuild 1 4 [(0, [1]), (1, [2]), (2, [3]), (3, [4])] = [[1], [2], [3], [4], [0x04], [0x29]] ∧ gfRebuild 1 4 [(0, [1]), (2, [3]), (4, [0x04]), (5, [0x29])] = [[1], [2], [3], [4], [0x04], [0x29]]) ∧
  (∀ (k n : Nat) (ds : List (List Nat)), ds.length = k → ds.all (fun d => decide (d.length = n)) = true → (gfRebuild n k ((List.range k).zip ds)).take k = ds ∧ (gfRebuild n k ((List.range k).zip ds))[k]? = some (ds.foldl gfXor (List.replicate n 0))) ∧
  (∀ (a b c : Nat), (gfRebuild 1 3 [(0, [a]), (2, [c]), (3, [Nat.xor (Nat.xor a b) c])]).take 3 = [[a], [b], [c]])

/-- An edge without a committed setting, slew or announcement adds TIME_INCR units of 2^−28 ns. The first edge after COMMITs adds their steps and takes the last increment, FOFF and barrier setting. An increment outside its limits takes effect as the nearer one. SNAP copies count and fraction. A loss of the reference in use gives HOLDOVER; a good one ACQUIRING, then LOCKED. A stamp goes to the queue's tail, or is dropped and counted when 64 are held; a head write past the tail is ignored and counted. A PPS edge is captured unless it comes within 500 ms of the last, which is counted as a glitch. A pulse output whose settings are legal is scheduled from START; with illegal ones, or a one-shot START in the past, it stays off with the code. A leading edge counts a pulse; the trailing edge of a one-shot ends it. -/
def Obligations.TimeBaseAndStamps : Prop :=
  (∀ (s : State), s.time.pend = none ∧ s.time.slew = 0 ∧ s.time.announce = [] → s.time.frac < 2 ^ 28 → s.time.ns < 2 ^ 64 → s.timeEdge = { s with time := { s.time with ns := (s.time.ns + (s.time.frac + s.time.incr) / 2 ^ 28) % 2 ^ 64, frac := (s.time.frac + s.time.incr) % 2 ^ 28 } }) ∧
  (∀ (s : State) (q : TimeSet), s.time.pend = some q → q.step = 0 → s.time.slew = 0 ∧ s.time.announce = [] → s.time.frac < 2 ^ 28 ∧ s.time.ns < 2 ^ 64 → Sys2Proof.Machine.exec (.timeSettingApply) s = .next { s with time := { s.time with pend := none, incr := q.incr, foff := q.foff, barCfg := q.barCfg, ns := (s.time.ns + (s.time.frac + q.incr) / 2 ^ 28) % 2 ^ 64, frac := (s.time.frac + q.incr) % 2 ^ 28 } }) ∧
  (∀ (s : State) (q : TimeSet), s.time.pend = some q → 0 < q.step ∧ q.step < 2 ^ 40 → s.time.slew = 0 ∧ s.time.announce = [] → s.time.frac < 2 ^ 28 ∧ s.time.ns < 2 ^ 40 → s.time.pulses.all (fun x => !x.en) = true → Sys2Proof.Machine.exec (.timeSettingApply) s = .next { s with time := { s.time with pend := none, incr := q.incr, foff := q.foff, barCfg := q.barCfg, ns := (s.time.ns + q.step.toNat + (s.time.frac + q.incr) / 2 ^ 28) % 2 ^ 64, frac := (s.time.frac + q.incr) % 2 ^ 28 } }) ∧
  (∀ (s : State), s.time.pend = none → Sys2Proof.Machine.exec (.timeSettingApply) s = .next s) ∧
  (∀ (n : Nat), incrClamp n = (if n < 0x0FFBE76D then 0x0FFBE76D else if 0x10041893 < n then 0x10041893 else n)) ∧
  (∀ (s : State), s.pwr.phase = .running → Sys2Proof.Machine.exec (.snap) s = .next { s with time := { s.time with snapNs := s.time.ns, snapFrac := s.time.frac } }) ∧
  (∀ (s : State), s.pwr.phase = .running → s.isMember = true ∨ s.refSrc ≠ 0 → s.time.pll ≠ .holdover → ∃ u, Sys2Proof.Machine.exec (.referenceLost) s = .next u ∧ (u.time = { s.time with pll := .holdover }) ∧ (u = { s with time := u.time, regs := { s.regs with evtRaw := u.regs.evtRaw, evtPend := u.regs.evtPend, pba := u.regs.pba }, out := u.out }) ∧ (∀ q, pageKey q ≠ pageKey (pgTime) → u.evtRaw q = s.evtRaw q ∧ u.evtPend q = s.evtPend q)) ∧
  (∀ (s : State), s.isMember = false ∧ s.refSrc = 0 → Sys2Proof.Machine.exec (.referenceLost) s = .next s) ∧
  (∀ (s : State), s.isMember = false ∧ s.refSrc ≠ 0 ∧ s.refUp = true → Sys2Proof.Machine.exec (.referenceGood) s = .next { s with time := { s.time with pll := if s.time.pll = .acquiring ∨ s.time.pll = .locked then .locked else .acquiring, srcAct := s.refSrc } }) ∧
  (∀ (s : State), s.refUp = false → Sys2Proof.Machine.exec (.referenceGood) s = .next s) ∧
  (∀ (s : State) (p : EthPort) (ns : DWord) (fr : Fin 16) (sub txid : Nat) (rest : List (Nat × Nat)), s.recMode = 0 → (s.ethp p.val).tsWait = (sub, txid) :: rest → idxGap (fld (s.reg (pgEth p.val) 0x1C0) 15 0) (s.ethp p.val).tsqTail < 64 → ∃ u, Sys2Proof.Machine.exec (.ethernetStamp p ns fr) s = .next u ∧ (u.ethp p.val = { (s.ethp p.val) with tsWait := rest, tsq := (s.ethp p.val).tsq.set ((s.ethp p.val).tsqTail % 64) [w32 ns.toNat, w32 (ns.toNat / 2 ^ 32), w32 ((if p.val < 2 then fr.val else 0) % 16 + (if p.val < 2 then 16 else 0) + sub % 8 * 32 + txid % 65536 * 65536), w32 (codeVal .ok + min (s.ethp p.val).lost 255 * 256)], tsqTail := ((s.ethp p.val).tsqTail + 1) % 65536, lost := 0 }) ∧ (u = { s with eth := s.eth.set p.val (u.ethp p.val), regs := { s.regs with evtRaw := u.regs.evtRaw, evtPend := u.regs.evtPend, pba := u.regs.pba }, out := u.out }) ∧ (∀ q, pageKey q ≠ pageKey (pgEth p.val) → u.evtRaw q = s.evtRaw q ∧ u.evtPend q = s.evtPend q)) ∧
  (∀ (s : State) (p : EthPort) (ns : DWord) (fr : Fin 16) (w : Nat × Nat) (rest : List (Nat × Nat)), s.recMode = 0 → (s.ethp p.val).tsWait = w :: rest → idxGap (fld (s.reg (pgEth p.val) 0x1C0) 15 0) (s.ethp p.val).tsqTail = 64 → ∃ u, Sys2Proof.Machine.exec (.ethernetStamp p ns fr) s = .next u ∧ (u.ethp p.val = { (s.ethp p.val) with tsWait := rest, drops := satAdd (s.ethp p.val).drops 1 0xFFFF, lost := (s.ethp p.val).lost + 1 }) ∧ (u = { s with eth := s.eth.set p.val (u.ethp p.val), regs := { s.regs with evtRaw := u.regs.evtRaw, evtPend := u.regs.evtPend, pba := u.regs.pba }, out := u.out }) ∧ (∀ q, pageKey q ≠ pageKey (pgEth p.val) → u.evtRaw q = s.evtRaw q ∧ u.evtPend q = s.evtPend q)) ∧
  (∀ (s : State) (p : EthPort) (ns : DWord) (fr : Fin 16), (s.ethp p.val).tsWait = [] → Sys2Proof.Machine.exec (.ethernetStamp p ns fr) s = .next s) ∧
  (∀ (s : State) (p : EthPort) (v : Word), s.pwr.phase = .running → s.recMode = 0 → idxGap (fld (s.reg (pgEth p.val) 0x1C0) 15 0) (fld v 15 0) ≤ idxGap (fld (s.reg (pgEth p.val) 0x1C0) 15 0) (s.ethp p.val).tsqTail → Sys2Proof.Machine.exec (.tsqHeadWrite p v) s = .next ((s.setReg (pgEth p.val) 0x1C0 (w32 (fld v 15 0))).tsqEvent p.val)) ∧
  (∀ (s : State) (p : EthPort) (v : Word), s.pwr.phase = .running → s.recMode = 0 → idxGap (fld (s.reg (pgEth p.val) 0x1C0) 15 0) (s.ethp p.val).tsqTail < idxGap (fld (s.reg (pgEth p.val) 0x1C0) 15 0) (fld v 15 0) → Sys2Proof.Machine.exec (.tsqHeadWrite p v) s = .next (s.ignored (pgEth p.val))) ∧
  (∀ (s : State), s.pwr.phase = .running → s.recMode = 0 → s.time.ppsTaken = false ∨ s.time.ppsNs + 500000000 ≤ s.now → ∃ u, Sys2Proof.Machine.exec (.ppsEdge) s = .next u ∧ (u.time = { s.time with ppsNs := s.time.ns, ppsFrac := s.time.frac, ppsSeq := (s.time.ppsSeq + 1) % 65536, ppsTaken := true }) ∧ (u = { s with time := u.time, regs := { s.regs with evtRaw := u.regs.evtRaw, evtPend := u.regs.evtPend, pba := u.regs.pba }, out := u.out }) ∧ (∀ q, pageKey q ≠ pageKey (pgTime) → u.evtRaw q = s.evtRaw q ∧ u.evtPend q = s.evtPend q)) ∧
  (∀ (s : State), s.pwr.phase = .running → s.recMode = 0 → s.time.ppsTaken = true ∧ s.now < s.time.ppsNs + 500000000 → Sys2Proof.Machine.exec (.ppsEdge) s = .next { s with time := { s.time with glitch := satAdd s.time.glitch 1 0xFFFF } }) ∧
  (∀ (s : State) (p : PulseId) (v : Word), s.pwr.phase = .running → bitOf v 0 = false → (pulseAt s.time p.val).high = false → s.time.pulses.length = 4 → ∃ u, Sys2Proof.Machine.exec (.pulseEnable p v) s = .next u ∧ (pulseAt u.time p.val = { (pulseAt s.time p.val) with en := false, waitBar := false }) ∧ (u = { s with time := { s.time with pulses := s.time.pulses.set p.val (pulseAt u.time p.val) }, regs := { s.regs with raw := u.regs.raw } })) ∧
  (∀ (s : State) (p : PulseId) (v : Word), s.pwr.phase = .running → bitOf v 0 = true → (pulseAt s.time p.val).high = false → s.time.pulses.length = 4 → (s.reg pgTime (0x10C + 0x20 * p.val)).toNat = 0 ∨ bitOf v 1 = true ∧ (s.reg pgTime (0x108 + 0x20 * p.val)).toNat ≤ (s.reg pgTime (0x10C + 0x20 * p.val)).toNat ∨ (s.reg pgTime (0x108 + 0x20 * p.val)).toNat < 100 → ∃ u, Sys2Proof.Machine.exec (.pulseEnable p v) s = .next u ∧ (pulseAt u.time p.val = { (pulseAt s.time p.val) with en := false, waitBar := false, status := .configInvalid }) ∧ (u = { s with time := { s.time with pulses := s.time.pulses.set p.val (pulseAt u.time p.val) }, regs := { s.regs with raw := u.regs.raw } })) ∧
  (∀ (s : State) (p : PulseId) (v : Word), s.pwr.phase = .running → bitOf v 0 = true ∧ bitOf v 1 = false ∧ bitOf v 2 = false → (pulseAt s.time p.val).high = false → s.time.pulses.length = 4 → (s.reg pgTime (0x10C + 0x20 * p.val)).toNat ≠ 0 ∧ 100 ≤ (s.reg pgTime (0x108 + 0x20 * p.val)).toNat → s.now ≤ (s.pair pgTime (0x100 + 0x20 * p.val) (0x104 + 0x20 * p.val)) → ∃ u, Sys2Proof.Machine.exec (.pulseEnable p v) s = .next u ∧ (pulseAt u.time p.val = { (pulseAt s.time p.val) with en := true, waitBar := false, start := (s.pair pgTime (0x100 + 0x20 * p.val) (0x104 + 0x20 * p.val)), edge := 0, status := .ok }) ∧ (u = { s with time := { s.time with pulses := s.time.pulses.set p.val (pulseAt u.time p.val) }, regs := { s.regs with raw := u.regs.raw } })) ∧
  (∀ (s : State) (p : PulseId) (v : Word), s.pwr.phase = .running → bitOf v 0 = true ∧ bitOf v 1 = false ∧ bitOf v 2 = false → (pulseAt s.time p.val).high = false → s.time.pulses.length = 4 → (s.reg pgTime (0x10C + 0x20 * p.val)).toNat ≠ 0 ∧ 100 ≤ (s.reg pgTime (0x108 + 0x20 * p.val)).toNat → (s.pair pgTime (0x100 + 0x20 * p.val) (0x104 + 0x20 * p.val)) < s.now → ∃ u, Sys2Proof.Machine.exec (.pulseEnable p v) s = .next u ∧ ((pulseAt u.time p.val).en = false ∧ (pulseAt u.time p.val).status = .deadlineMissed) ∧ (u = { s with time := { s.time with pulses := s.time.pulses.set p.val (pulseAt u.time p.val) }, regs := { s.regs with raw := u.regs.raw } })) ∧
  (∀ (s : State) (p : PulseId) (v : Word), s.pwr.phase = .running → bitOf v 0 = true ∧ bitOf v 1 = false ∧ bitOf v 2 = true → (pulseAt s.time p.val).high = false → s.time.pulses.length = 4 → (s.reg pgTime (0x10C + 0x20 * p.val)).toNat ≠ 0 ∧ 100 ≤ (s.reg pgTime (0x108 + 0x20 * p.val)).toNat → ∃ u, Sys2Proof.Machine.exec (.pulseEnable p v) s = .next u ∧ (pulseAt u.time p.val = { (pulseAt s.time p.val) with en := true, waitBar := true, edge := 0, status := .ok }) ∧ (u = { s with time := { s.time with pulses := s.time.pulses.set p.val (pulseAt u.time p.val) }, regs := { s.regs with raw := u.regs.raw } })) ∧
  (∀ (s : State) (p : PulseId), (pulseAt s.time p.val).en = true ∧ (pulseAt s.time p.val).waitBar = false ∧ (pulseAt s.time p.val).edge % 2 = 0 → s.time.pulses.length = 4 → (pulseAt s.time p.val).start + (pulseAt s.time p.val).edge / 2 * (s.reg pgTime (0x108 + 0x20 * p.val)).toNat ≤ s.now → Sys2Proof.Machine.exec (.pulseEdge p) s = .next { s with time := { s.time with pulses := s.time.pulses.set p.val { (pulseAt s.time p.val) with high := true, count := ((pulseAt s.time p.val).count + 1) % 65536, edge := (pulseAt s.time p.val).edge + 1 } }, out := .pulse p.val (!bitOf (s.reg pgTime (0x110 + 0x20 * p.val)) 3) :: s.out }) ∧
  (∀ (s : State) (p : PulseId), (pulseAt s.time p.val).en = true ∧ (pulseAt s.time p.val).waitBar = false ∧ (pulseAt s.time p.val).edge % 2 = 1 → bitOf (s.reg pgTime (0x110 + 0x20 * p.val)) 1 = true → s.time.pulses.length = 4 → (pulseAt s.time p.val).start + (pulseAt s.time p.val).edge / 2 * (s.reg pgTime (0x108 + 0x20 * p.val)).toNat + (s.reg pgTime (0x10C + 0x20 * p.val)).toNat ≤ s.now → Sys2Proof.Machine.exec (.pulseEdge p) s = .next { s with time := { s.time with pulses := s.time.pulses.set p.val { (pulseAt s.time p.val) with high := false, edge := (pulseAt s.time p.val).edge + 1 } }, out := .pulse p.val (bitOf (s.reg pgTime (0x110 + 0x20 * p.val)) 3) :: s.out }) ∧
  (∀ (s : State) (p : PulseId), (pulseAt s.time p.val).en = true ∧ (pulseAt s.time p.val).waitBar = false ∧ (pulseAt s.time p.val).edge = 1 → bitOf (s.reg pgTime (0x110 + 0x20 * p.val)) 1 = false → s.time.pulses.length = 4 → (pulseAt s.time p.val).start + (s.reg pgTime (0x10C + 0x20 * p.val)).toNat ≤ s.now → ∃ u, Sys2Proof.Machine.exec (.pulseEdge p) s = .next u ∧ (pulseAt u.time p.val = { (pulseAt s.time p.val) with en := false, waitBar := false, high := false, edge := 2, status := .ok }) ∧ (bitOf (u.reg pgTime (0x110 + 0x20 * p.val)) 0 = false) ∧ (u = { s with time := { s.time with pulses := s.time.pulses.set p.val (pulseAt u.time p.val) }, regs := { s.regs with raw := u.regs.raw, evtRaw := u.regs.evtRaw, evtPend := u.regs.evtPend, pba := u.regs.pba }, out := u.out })) ∧
  (∀ (s : State) (p : PulseId), s.now < s.pulseEdgeAt p.val (pulseAt s.time p.val).edge → Sys2Proof.Machine.exec (.pulseEdge p) s = .next s)

/-- A member's measured upstream delay sets its count to the master's plus the delay; a conflict is reported. Loss of the upstream port gives HOLDOVER and aborts a waiting barrier; its return starts a slew, which ends within 2h + 2 ns. Announced steps apply at their value. An arm while one waits is ignored and counted; an arm at a root without downstream ports fixes the fire time, the first multiple of the granularity past the lead. A member fires at the T it is told, or on arrival with DEADLINE_MISSED when T has passed. A barrier not fired by its time-out, or aborted from upstream, ends ABORTED. Other modules do nothing on these messages. -/
def Obligations.TimingGroupsAndBarrier : Prop :=
  (∀ (s : State) (q : CascId) (d : Fin 65536) (up : Option (Nat × Nat × Nat)) (b : Fin 32), s.pwr.phase = .running → s.dieTested 4 = false → s.time.cascs.length = 4 → s.isMember = false ∧ s.timeRole = 0 ∧ s.barWaiting = false → ∃ u, Sys2Proof.Machine.exec (.cascadeDelayMeasure q d true up b) s = .next u ∧ (u.time = { s.time with cascs := s.time.cascs.set q.val { cascAt s.time q.val with dly := d.val, state := 2 } }) ∧ (u = { s with time := u.time, regs := { s.regs with evtRaw := u.regs.evtRaw, evtPend := u.regs.evtPend, pba := u.regs.pba }, out := u.out }) ∧ (∀ q, pageKey q ≠ pageKey (pgTime) → u.evtRaw q = s.evtRaw q ∧ u.evtPend q = s.evtPend q)) ∧
  (∀ (s : State) (q : CascId) (d : Fin 65536) (ns foff hops : Nat) (b : Fin 32), s.pwr.phase = .running → s.dieTested 4 = false → s.isMember = true ∧ q.val = s.upPort → s.time.casc = .none ∨ s.time.casc = .locked → Sys2Proof.Machine.exec (.cascadeDelayMeasure q d false (some (ns, foff, hops)) b) s = .next { s with time := { s.time with cascs := s.time.cascs.set q.val { cascAt s.time q.val with dly := d.val, state := 1, below := b.val }, foff := foff, hops := min 15 (hops + 1), casc := .locked, srcAct := 3, ns := (ns + d.val / 16) % 2 ^ 64, frac := d.val % 16 * 2 ^ 24 } }) ∧
  (∀ (s : State) (q : CascId) (d : Fin 65536) (up : Option (Nat × Nat × Nat)) (b : Fin 32), s.pwr.phase = .running → s.dieTested 4 = false → s.timeRole = 0 → Sys2Proof.Machine.exec (.cascadeDelayMeasure q d false up b) s = .next { s with time := { s.time with cascs := s.time.cascs.set q.val { cascAt s.time q.val with dly := d.val, state := 1, below := b.val } } }) ∧
  (∀ (s : State) (q : CascId), s.isMember = true ∧ q.val = s.upPort → s.barWaiting = false → ∃ u, Sys2Proof.Machine.exec (.cascadeLinkLost q) s = .next u ∧ (u.time = { s.time with cascs := s.time.cascs.set q.val { cascAt s.time q.val with state := 0, ready := false, below := 0 }, casc := .holdover, pll := .holdover }) ∧ (u = { s with time := u.time, regs := { s.regs with evtRaw := u.regs.evtRaw, evtPend := u.regs.evtPend, pba := u.regs.pba }, out := u.out }) ∧ (∀ q, pageKey q ≠ pageKey (pgTime) → u.evtRaw q = s.evtRaw q ∧ u.evtPend q = s.evtPend q)) ∧
  (∀ (s : State) (q : CascId), s.isMember = false → s.time.barState ≠ .armed → Sys2Proof.Machine.exec (.cascadeLinkLost q) s = .next { s with time := { s.time with cascs := s.time.cascs.set q.val { cascAt s.time q.val with state := 0, ready := false, below := 0 } } }) ∧
  (∀ (s : State) (q : CascId) (off : Int), s.pwr.phase = .running → s.dieTested 4 = false → s.isMember = true ∧ q.val = s.upPort → s.time.casc = .holdover → Sys2Proof.Machine.exec (.cascadeLinkReturn q off) s = .next { s with time := { s.time with cascs := s.time.cascs.set q.val { cascAt s.time q.val with state := 1 }, casc := .slewing, slew := off } }) ∧
  (∀ (s : State) (q : CascId) (off : Int), s.pwr.phase = .running → s.dieTested 4 = false → s.isMember = false → Sys2Proof.Machine.exec (.cascadeLinkReturn q off) s = .next { s with time := { s.time with cascs := s.time.cascs.set q.val { cascAt s.time q.val with state := 1 } } }) ∧
  (∀ (s : State), s.time.casc = .slewing → s.time.slew.natAbs ≤ (2 * s.time.hops + 2) * 2 ^ 28 → Sys2Proof.Machine.exec (.cascadeSlewComplete) s = .next { s with time := { s.time with casc := .locked, slew := 0 } }) ∧
  (∀ (s : State), s.time.casc ≠ .slewing ∨ (2 * s.time.hops + 2) * 2 ^ 28 < s.time.slew.natAbs → Sys2Proof.Machine.exec (.cascadeSlewComplete) s = .next s) ∧
  (∀ (s : State) (at0 : DWord) (st : Int) (f : Nat), s.isMember = true → s.now < at0.toNat → s.downPorts = [] ∧ s.time.announce = [] → Sys2Proof.Machine.exec (.stepAnnounce at0 st f) s = .next { s with time := { s.time with announce := [{ at_ := at0.toNat, step := st, foff := f % 10240000000 }] } }) ∧
  (∀ (s : State) (at0 : DWord) (st : Int) (f : Nat), s.isMember = false → Sys2Proof.Machine.exec (.stepAnnounce at0 st f) s = .next s) ∧
  (∀ (s : State) (a : Announce), s.time.announce = [a] ∧ a.at_ ≤ s.now → a.step = 0 → s.announceDue.time.announce = [] ∧ s.announceDue.time.foff = a.foff) ∧
  (∀ (s : State), s.pwr.phase = .running → s.recMode = 0 → s.barWaiting = false ∧ s.isMember = false ∧ s.downPorts = [] → s.time.oversize = false → ∃ u, Sys2Proof.Machine.exec (.barArm) s = .next u ∧ (u.time.barState = .ready ∧ u.time.armedAt = s.now) ∧ (u = { s with time := { s.time with barState := .ready, armedAt := s.now, barFire := u.time.barFire } })) ∧
  (∀ (s : State) (t : Nat), s.time.barState = .armed ∧ s.isMember = false ∧ s.downPorts = [] → s.time.oversize = false → s.time.foff ≤ s.now → s.barCheck.time.barFire = some t → s.time.foff ≤ t ∧ (t - s.time.foff) % s.barGran = 0 ∧ s.now + 10000 * max 1 (fld s.time.barCfg 15 8) ≤ t ∧ t < s.now + 10000 * max 1 (fld s.time.barCfg 15 8) + s.barGran) ∧
  (∀ (s : State), s.pwr.phase = .running → s.barWaiting = true → Sys2Proof.Machine.exec (.barArm) s = .next (s.ignored pgTime)) ∧
  (∀ (s : State) (q : CascId), s.pwr.phase = .running → s.time.barState ≠ .armed → Sys2Proof.Machine.exec (.ready q) s = .next { s with time := { s.time with cascs := s.time.cascs.set q.val { cascAt s.time q.val with ready := true } } }) ∧
  (∀ (s : State) (q : CascId), s.pwr.phase = .running → s.time.barState = .armed ∧ s.isMember = true → s.downPorts = [q.val] → s.time.cascs.length = 4 → Sys2Proof.Machine.exec (.ready q) s = .next { s with time := { s.time with cascs := s.time.cascs.set q.val { cascAt s.time q.val with ready := true }, barState := .ready }, out := .cascTx s.upPort .ready :: s.out }) ∧
  (∀ (s : State) (at0 : DWord), s.isMember = true ∧ s.barWaiting = true → s.now ≤ at0.toNat → s.downPorts = [] → Sys2Proof.Machine.exec (.fire at0) s = .next { s with time := { s.time with barFire := some at0.toNat } }) ∧
  (∀ (s : State) (at0 : DWord), s.isMember = true ∧ s.barWaiting = true → at0.toNat < s.now → s.downPorts = [] → Sys2Proof.Machine.exec (.fire at0) s = .next (s.barDone .deadlineMissed (some s.now))) ∧
  (∀ (s : State) (at0 : DWord), s.isMember = false ∨ s.barWaiting = false → Sys2Proof.Machine.exec (.fire at0) s = .next s) ∧
  (∀ (s : State) (f : Nat), s.time.barFire = some f ∧ f ≤ s.now → s.barWaiting = true → Sys2Proof.Machine.exec (.barrierFire) s = .next (s.barDone .ok (some f))) ∧
  (∀ (s : State) (f : Nat), s.time.barFire = some f ∧ s.now < f → Sys2Proof.Machine.exec (.barrierFire) s = .next s) ∧
  (∀ (s : State), s.isMember = false ∧ s.barWaiting = true → s.time.armedAt + 1000000 * max 1 (fld s.time.barCfg 31 16) ≤ s.now → Sys2Proof.Machine.exec (.barrierTimeout) s = .next ((s.cascDown .abort).barDone .aborted none)) ∧
  (∀ (s : State), s.now < s.time.armedAt + 1000000 * max 1 (fld s.time.barCfg 31 16) → Sys2Proof.Machine.exec (.barrierTimeout) s = .next s) ∧
  (∀ (s : State), s.isMember = true ∧ s.barWaiting = true → Sys2Proof.Machine.exec (.abort) s = .next ((s.cascDown .abort).barDone .aborted none)) ∧
  (∀ (s : State), s.isMember = false → Sys2Proof.Machine.exec (.abort) s = .next s) ∧
  (∀ (s : State), s.isMember = true ∧ s.barWaiting = false → Sys2Proof.Machine.exec (.abort) s = .next ((s.cascDown .abort).barDone .aborted none)) ∧
  (∀ (s : State) (c : Code) (f : Nat), (s.barDone c (some f)).time.barState = .done ∧ (s.barDone c (some f)).time.barStatus = c ∧ (s.barDone c (some f)).time.barGen = (s.time.barGen + 1) % 256 ∧ (s.barDone c (some f)).time.barT = f ∧ (s.barDone c (some f)).time.barFire = none)

/-- REPLAY_INJECT outside a running replay does nothing. With no entry at HEAD it stops with NOT_READY (log entry 28), at a GAP entry with OVERFLOW; an entry of a class not replayed, and a blaze, is passed over; an entry not yet due waits; a due one is injected and HEAD moves on, counted as late past 1 µs. CLOSE of a continuous span holds the result, counts the span, with CMP = 0 compares it with EXPECT, and loads INIT; RESTART loads INIT. CLOSE of a unit that is not continuous does nothing. -/
def Obligations.ReplayAndCheckUnits : Prop :=
  (∀ (s : State), s.recMode ≠ 2 ∨ s.recd.running = false ∨ s.recd.stopped = true → Sys2Proof.Machine.exec (.replayInject) s = .next s) ∧
  (∀ (s : State), s.pwr.phase = .running → s.recMode = 2 ∧ s.recd.running = true ∧ s.recd.stopped = false ∧ s.recUnits ≠ 0 → s.recHead % s.recUnits = s.recTail % s.recUnits → Sys2Proof.Machine.exec (.replayInject) s = .next { s with recd := { s.recd with stopped := true, status := .notReady } }) ∧
  (∀ (s : State), s.pwr.phase = .running → s.recMode = 2 ∧ s.recd.running = true ∧ s.recd.stopped = false ∧ s.recUnits ≠ 0 → s.recHead % s.recUnits ≠ s.recTail % s.recUnits → s.recPoisoned s.recHead (s.recAt s.recHead).2.2.2.2 = false → (s.recAt s.recHead).1 = 0x1F → Sys2Proof.Machine.exec (.replayInject) s = .next { s with recd := { s.recd with stopped := true, status := .overflow } }) ∧
  (∀ (s : State), s.pwr.phase = .running → s.recMode = 2 ∧ s.recd.running = true ∧ s.recd.stopped = false ∧ s.recUnits ≠ 0 → s.recHead % s.recUnits ≠ s.recTail % s.recUnits → s.recPoisoned s.recHead (s.recAt s.recHead).2.2.2.2 = true → Sys2Proof.Machine.exec (.replayInject) s = .next { s with recd := { s.recd with stopped := true, status := .tierError } }) ∧
  (∀ (s : State), s.pwr.phase = .running → s.recMode = 2 ∧ s.recd.running = true ∧ s.recd.stopped = false ∧ s.recUnits ≠ 0 → s.recHead % s.recUnits ≠ s.recTail % s.recUnits → s.recPoisoned s.recHead (s.recAt s.recHead).2.2.2.2 = false → (s.recAt s.recHead).1 = 0x01 → s.recClass 0 = false → Sys2Proof.Machine.exec (.replayInject) s = .next (s.setReg pgTime 0x314 (w32 (s.recAt s.recHead).2.2.2.2))) ∧
  (∀ (s : State), s.pwr.phase = .running → s.recMode = 2 ∧ s.recd.running = true ∧ s.recd.stopped = false ∧ s.recUnits ≠ 0 → s.recHead % s.recUnits ≠ s.recTail % s.recUnits → s.recPoisoned s.recHead (s.recAt s.recHead).2.2.2.2 = false → (s.recAt s.recHead).1 = 0x10 → Sys2Proof.Machine.exec (.replayInject) s = .next (s.setReg pgTime 0x314 (w32 (s.recAt s.recHead).2.2.2.2))) ∧
  (∀ (s : State), s.pwr.phase = .running → s.recMode = 2 ∧ s.recd.running = true ∧ s.recd.stopped = false ∧ s.recUnits ≠ 0 → s.recHead % s.recUnits ≠ s.recTail % s.recUnits → s.recPoisoned s.recHead (s.recAt s.recHead).2.2.2.2 = false → (s.recAt s.recHead).1 = 0x08 → s.recClass 4 = true → s.now < (s.recd.origin + (s.recAt s.recHead).2.2.1) % 2 ^ 64 → Sys2Proof.Machine.exec (.replayInject) s = .next s) ∧
  (∀ (s : State), s.pwr.phase = .running → s.recMode = 2 ∧ s.recd.running = true ∧ s.recd.stopped = false ∧ s.recUnits ≠ 0 → s.recHead % s.recUnits ≠ s.recTail % s.recUnits → s.recPoisoned s.recHead (s.recAt s.recHead).2.2.2.2 = false → (s.recAt s.recHead).1 = 0x08 ∧ (s.recAt s.recHead).2.1 = 0xFFFF → s.recClass 4 = true → (s.recd.origin + (s.recAt s.recHead).2.2.1) % 2 ^ 64 ≤ s.now ∧ s.now ≤ (s.recd.origin + (s.recAt s.recHead).2.2.1) % 2 ^ 64 + 1000 → Sys2Proof.Machine.exec (.replayInject) s = .next ((s.ppsTake (plNat (s.recAt s.recHead).2.2.2.1 0 8) (plNat (s.recAt s.recHead).2.2.2.1 8 4)).setReg pgTime 0x314 (w32 (s.recAt s.recHead).2.2.2.2))) ∧
  (∀ (s : State), s.pwr.phase = .running → s.recMode = 2 ∧ s.recd.running = true ∧ s.recd.stopped = false ∧ s.recUnits ≠ 0 → s.recHead % s.recUnits ≠ s.recTail % s.recUnits → s.recPoisoned s.recHead (s.recAt s.recHead).2.2.2.2 = false → (s.recAt s.recHead).1 = 0x08 ∧ (s.recAt s.recHead).2.1 = 0xFFFF → s.recClass 4 = true → (s.recd.origin + (s.recAt s.recHead).2.2.1) % 2 ^ 64 + 1000 < s.now → Sys2Proof.Machine.exec (.replayInject) s = .next ((({ s.ppsTake (plNat (s.recAt s.recHead).2.2.2.1 0 8) (plNat (s.recAt s.recHead).2.2.2.1 8 4) with recd := { s.recd with drops := satAdd s.recd.drops 1 0xFFFF } } : State)).setReg pgTime 0x314 (w32 (s.recAt s.recHead).2.2.2.2))) ∧
  (∀ (s : State) (k : ChkId), s.pwr.phase = .running → bitOf (s.reg (pgChk k.val) 0x010) 9 = true → bitOf (s.reg (pgChk k.val) 0x010) 10 = true ∨ (crcEnd (chkWidth (s.reg (pgChk k.val) 0x010)) (s.reg (pgChk k.val) 0x01C).toNat (bitOf (s.reg (pgChk k.val) 0x010) 7) (s.chk k.val).crc) = (s.reg (pgChk k.val) 0x020).toNat → ∃ u, Sys2Proof.Machine.exec (.close k) s = .next u ∧ (u.chk k.val = { (s.chk k.val) with result := (crcEnd (chkWidth (s.reg (pgChk k.val) 0x010)) (s.reg (pgChk k.val) 0x01C).toNat (bitOf (s.reg (pgChk k.val) 0x010) 7) (s.chk k.val).crc), spans := ((s.chk k.val).spans + 1) % 65536, crc := s.chkInit k.val }) ∧ (u = { s with chks := s.chks.set k.val (u.chk k.val), regs := { s.regs with evtRaw := u.regs.evtRaw, evtPend := u.regs.evtPend, pba := u.regs.pba }, out := u.out }) ∧ (∀ q, pageKey q ≠ pageKey (pgChk k.val) → u.evtRaw q = s.evtRaw q ∧ u.evtPend q = s.evtPend q)) ∧
  (∀ (s : State) (k : ChkId), s.pwr.phase = .running → bitOf (s.reg (pgChk k.val) 0x010) 9 = true → bitOf (s.reg (pgChk k.val) 0x010) 10 = false ∧ (crcEnd (chkWidth (s.reg (pgChk k.val) 0x010)) (s.reg (pgChk k.val) 0x01C).toNat (bitOf (s.reg (pgChk k.val) 0x010) 7) (s.chk k.val).crc) ≠ (s.reg (pgChk k.val) 0x020).toNat → ∃ u, Sys2Proof.Machine.exec (.close k) s = .next u ∧ (u.chk k.val = { (s.chk k.val) with result := (crcEnd (chkWidth (s.reg (pgChk k.val) 0x010)) (s.reg (pgChk k.val) 0x01C).toNat (bitOf (s.reg (pgChk k.val) 0x010) 7) (s.chk k.val).crc), spans := ((s.chk k.val).spans + 1) % 65536, mismatch := satAdd (s.chk k.val).mismatch 1 0xFF, crc := s.chkInit k.val }) ∧ (u = { s with chks := s.chks.set k.val (u.chk k.val), regs := { s.regs with evtRaw := u.regs.evtRaw, evtPend := u.regs.evtPend, pba := u.regs.pba }, out := u.out }) ∧ (∀ q, pageKey q ≠ pageKey (pgChk k.val) → u.evtRaw q = s.evtRaw q ∧ u.evtPend q = s.evtPend q)) ∧
  (∀ (s : State) (k : ChkId), s.pwr.phase = .running → bitOf (s.reg (pgChk k.val) 0x010) 9 = false → Sys2Proof.Machine.exec (.close k) s = .next s) ∧
  (∀ (s : State) (k : ChkId), s.pwr.phase = .running → Sys2Proof.Machine.exec (.chkRestart k) s = .next { s with chks := s.chks.set k.val { (s.chk k.val) with crc := s.chkInit k.val } })

/-- While the link is not UP or CXL.mem is Insecure a window access does nothing. Otherwise check units see its flits first. A read of a legal extent that the points grant returns its bytes, a write stores them and is answered; one not granted is held at the port; a line that the host holds is snooped back when a device agent needs it; on a page in T3, a write to an unbacked page or to one that moves waits (tag: log entry 114). One outside every segment or refused by the checks returns poison or writes nothing, and is counted; poisoned lines read as poison; a write of a replayed class is discarded and counted. A translation refused by the host is held until it is given. A stream whose integrity check fails is Insecure and no longer secure. TSP_LOCK and TSP_UNLOCK set and clear an instance's lock. Training ends UP at a width and rate of the link, or FLITFAIL. A tail write of a queue pair copies each entry once and advances its head; a tail outside the ring is ignored and counted; a data head write frees space for held messages. ENTDAA gives an address to a target without one and answers its provisional ID; SETNEWDA changes it; RSTDAA takes it away; ENEC and DISEC switch interrupts; other codes are not acknowledged. A private write of one byte below 0x20 sets the pointer; any other is not acknowledged; a private read returns bytes of the snapshot from the pointer, wrapping at 32, and moves it. A target without an address acknowledges neither. A snapshot takes the readings, counts, and raises an in-band interrupt when FLAGS changed and interrupts are enabled. Answers to GETBCR, GETDCR, GETSTATUS and GETMXDS are open values. -/
def Obligations.HostLink : Prop :=
  (∀ (s : State) (addr : Fin 274877906944) (op : AccessOp), s.pwr.phase = .running → s.cxl.state ≠ .up ∨ s.cxl.insecure.contains 4 = true → Sys2Proof.Machine.exec (.windowAccess addr op) s = .next s) ∧
  (∀ (s : State) (addr : Fin 274877906944) (n : Nat), s.pwr.phase = .running → s.cxl.state = .up ∧ s.cxl.insecure.contains 4 = false → ((s.chkCxl false).chkCxl true).windowMap addr.val = none → Sys2Proof.Machine.exec (.windowAccess addr (.read n)) s = .next { ((s.chkCxl false).chkCxl true) with cxl := { ((s.chkCxl false).chkCxl true).cxl with winref := satAdd ((s.chkCxl false).chkCxl true).cxl.winref 1 0xFFFF }, out := .windowPoison n :: ((s.chkCxl false).chkCxl true).out }) ∧
  (∀ (s : State) (addr : Fin 274877906944) (bs : List Byte), s.pwr.phase = .running → s.cxl.state = .up ∧ s.cxl.insecure.contains 4 = false → ((s.chkCxl false).chkCxl true).windowMap addr.val = none → Sys2Proof.Machine.exec (.windowAccess addr (.write bs)) s = .next { ((s.chkCxl false).chkCxl true) with cxl := { ((s.chkCxl false).chkCxl true).cxl with winref := satAdd ((s.chkCxl false).chkCxl true).cxl.winref 1 0xFFFF } }) ∧
  (∀ (s : State) (addr : Fin 274877906944) (n va : Nat) (sp : Space), s.pwr.phase = .running → s.cxl.state = .up ∧ s.cxl.insecure.contains 4 = false → ((s.chkCxl false).chkCxl true).windowMap addr.val = some (sp, va) → ((s.chkCxl false).chkCxl true).accCode sp va n = .ok ∧ ((s.chkCxl false).chkCxl true).firstWait sp va n false = none → (((s.chkCxl false).chkCxl true).portAsks { who := cxlReq, work := .window sp va (.read n), tag := ((s.chkCxl false).chkCxl true).tag7, late := false } (((s.chkCxl false).chkCxl true).domainOf sp) (((s.chkCxl false).chkCxl true).accPoints 4 sp va n)).1 = true → (((((s.chkCxl false).chkCxl true).portAsks { who := cxlReq, work := .window sp va (.read n), tag := ((s.chkCxl false).chkCxl true).tag7, late := false } (((s.chkCxl false).chkCxl true).domainOf sp) (((s.chkCxl false).chkCxl true).accPoints 4 sp va n)).2.hostTakes (spaceIdx sp) va n false).loadDev sp va n).1 = .ok → Sys2Proof.Machine.exec (.windowAccess addr (.read n)) s = .next (((((((s.chkCxl false).chkCxl true).portAsks { who := cxlReq, work := .window sp va (.read n), tag := ((s.chkCxl false).chkCxl true).tag7, late := false } (((s.chkCxl false).chkCxl true).domainOf sp) (((s.chkCxl false).chkCxl true).accPoints 4 sp va n)).2.hostTakes (spaceIdx sp) va n false).loadDev sp va n).2.2.hostTakes (spaceIdx sp) va n true).emit (.windowData (((((s.chkCxl false).chkCxl true).portAsks { who := cxlReq, work := .window sp va (.read n), tag := ((s.chkCxl false).chkCxl true).tag7, late := false } (((s.chkCxl false).chkCxl true).domainOf sp) (((s.chkCxl false).chkCxl true).accPoints 4 sp va n)).2.hostTakes (spaceIdx sp) va n false).loadDev sp va n).2.1))) ∧
  (∀ (s : State) (addr : Fin 274877906944) (n va : Nat) (sp : Space), s.pwr.phase = .running → s.cxl.state = .up ∧ s.cxl.insecure.contains 4 = false → ((s.chkCxl false).chkCxl true).windowMap addr.val = some (sp, va) → ((s.chkCxl false).chkCxl true).accCode sp va n = .ok ∧ ((s.chkCxl false).chkCxl true).firstWait sp va n false = none → (((s.chkCxl false).chkCxl true).portAsks { who := cxlReq, work := .window sp va (.read n), tag := ((s.chkCxl false).chkCxl true).tag7, late := false } (((s.chkCxl false).chkCxl true).domainOf sp) (((s.chkCxl false).chkCxl true).accPoints 4 sp va n)).1 = true → (((((s.chkCxl false).chkCxl true).portAsks { who := cxlReq, work := .window sp va (.read n), tag := ((s.chkCxl false).chkCxl true).tag7, late := false } (((s.chkCxl false).chkCxl true).domainOf sp) (((s.chkCxl false).chkCxl true).accPoints 4 sp va n)).2.hostTakes (spaceIdx sp) va n false).loadDev sp va n).1 = .tierError → Sys2Proof.Machine.exec (.windowAccess addr (.read n)) s = .next ((((((s.chkCxl false).chkCxl true).portAsks { who := cxlReq, work := .window sp va (.read n), tag := ((s.chkCxl false).chkCxl true).tag7, late := false } (((s.chkCxl false).chkCxl true).domainOf sp) (((s.chkCxl false).chkCxl true).accPoints 4 sp va n)).2.hostTakes (spaceIdx sp) va n false).loadDev sp va n).2.2.emit (.windowPoison n))) ∧
  (∀ (s : State) (addr : Fin 274877906944) (n va : Nat) (sp : Space), s.pwr.phase = .running → s.cxl.state = .up ∧ s.cxl.insecure.contains 4 = false → ((s.chkCxl false).chkCxl true).windowMap addr.val = some (sp, va) → ((s.chkCxl false).chkCxl true).accCode sp va n = .keyDenied → Sys2Proof.Machine.exec (.windowAccess addr (.read n)) s = .next { ((s.chkCxl false).chkCxl true) with cxl := { ((s.chkCxl false).chkCxl true).cxl with winref := satAdd ((s.chkCxl false).chkCxl true).cxl.winref 1 0xFFFF }, out := .windowPoison n :: ((s.chkCxl false).chkCxl true).out }) ∧
  (∀ (s : State) (addr : Fin 274877906944) (n va pk : Nat) (sp : Space) (t3 : Bool), s.pwr.phase = .running → s.cxl.state = .up ∧ s.cxl.insecure.contains 4 = false → ((s.chkCxl false).chkCxl true).windowMap addr.val = some (sp, va) → ((s.chkCxl false).chkCxl true).accCode sp va n = .ok ∧ ((s.chkCxl false).chkCxl true).firstWait sp va n false = some (pk, t3) → Sys2Proof.Machine.exec (.windowAccess addr (.read n)) s = .next (((s.chkCxl false).chkCxl true).waitOn pk (.window sp va (.read n)) t3 ((s.chkCxl false).chkCxl true).tag7 false)) ∧
  (∀ (s : State) (addr : Fin 274877906944) (bs : List Byte) (va : Nat) (sp : Space), s.pwr.phase = .running → s.cxl.state = .up ∧ s.cxl.insecure.contains 4 = false → ((s.chkCxl false).chkCxl true).windowMap addr.val = some (sp, va) → ((s.chkCxl false).chkCxl true).recMode = 0 → ((s.chkCxl false).chkCxl true).accCode sp va bs.length = .ok → progExtent sp va bs.length = false → (((s.chkCxl false).chkCxl true).portAsks { who := cxlReq, work := .window sp va (.write bs), tag := ((s.chkCxl false).chkCxl true).tag7, late := false } (((s.chkCxl false).chkCxl true).domainOf sp) (((s.chkCxl false).chkCxl true).accPoints 4 sp va bs.length)).1 = true → (((((s.chkCxl false).chkCxl true).portAsks { who := cxlReq, work := .window sp va (.write bs), tag := ((s.chkCxl false).chkCxl true).tag7, late := false } (((s.chkCxl false).chkCxl true).domainOf sp) (((s.chkCxl false).chkCxl true).accPoints 4 sp va bs.length)).2.hostTakes (spaceIdx sp) va bs.length false).storeDev sp va bs).1 = .ok → ((s.chkCxl false).chkCxl true).firstWait sp va bs.length true = none → Sys2Proof.Machine.exec (.windowAccess addr (.write bs)) s = .next ((((((s.chkCxl false).chkCxl true).portAsks { who := cxlReq, work := .window sp va (.write bs), tag := ((s.chkCxl false).chkCxl true).tag7, late := false } (((s.chkCxl false).chkCxl true).domainOf sp) (((s.chkCxl false).chkCxl true).accPoints 4 sp va bs.length)).2.hostTakes (spaceIdx sp) va bs.length false).storeDev sp va bs).2.emit (.windowDone .ok))) ∧
  (∀ (s : State) (addr : Fin 274877906944) (bs : List Byte) (va : Nat) (sp : Space), s.pwr.phase = .running → s.cxl.state = .up ∧ s.cxl.insecure.contains 4 = false → ((s.chkCxl false).chkCxl true).windowMap addr.val = some (sp, va) → ((s.chkCxl false).chkCxl true).recMode = 0 → ((s.chkCxl false).chkCxl true).accCode sp va bs.length = .ok → progExtent sp va bs.length = false → ((s.chkCxl false).chkCxl true).firstWait sp va bs.length true = none → (((s.chkCxl false).chkCxl true).portAsks { who := cxlReq, work := .window sp va (.write bs), tag := ((s.chkCxl false).chkCxl true).tag7, late := false } (((s.chkCxl false).chkCxl true).domainOf sp) (((s.chkCxl false).chkCxl true).accPoints 4 sp va bs.length)).1 = false → Sys2Proof.Machine.exec (.windowAccess addr (.write bs)) s = .next (((s.chkCxl false).chkCxl true).portAsks { who := cxlReq, work := .window sp va (.write bs), tag := ((s.chkCxl false).chkCxl true).tag7, late := false } (((s.chkCxl false).chkCxl true).domainOf sp) (((s.chkCxl false).chkCxl true).accPoints 4 sp va bs.length)).2) ∧
  (∀ (s : State) (k va len x : Nat), s.cxl.hostLines = [x] → devKey k va / 64 ≤ x ∧ x ≤ (devKey k va + len - 1) / 64 → s.snoopHost k va len = { s with cxl := { s.cxl with hostLines := [] }, out := .biSnoop x :: s.out }) ∧
  (∀ (s : State) (addr : Fin 274877906944) (bs : List Byte) (va pk : Nat) (sp : Space) (t3 : Bool), s.pwr.phase = .running → s.cxl.state = .up ∧ s.cxl.insecure.contains 4 = false → ((s.chkCxl false).chkCxl true).windowMap addr.val = some (sp, va) → ((s.chkCxl false).chkCxl true).recMode = 0 → ((s.chkCxl false).chkCxl true).accCode sp va bs.length = .ok → progExtent sp va bs.length = false → ((s.chkCxl false).chkCxl true).firstWait sp va bs.length true = some (pk, t3) → Sys2Proof.Machine.exec (.windowAccess addr (.write bs)) s = .next (((s.chkCxl false).chkCxl true).waitOn pk (.window sp va (.write bs)) t3 ((s.chkCxl false).chkCxl true).tag7 false)) ∧
  (∀ (s : State) (addr : Fin 274877906944) (bs : List Byte) (va : Nat) (sp : Space), s.pwr.phase = .running → s.cxl.state = .up ∧ s.cxl.insecure.contains 4 = false → ((s.chkCxl false).chkCxl true).windowMap addr.val = some (sp, va) → ((s.chkCxl false).chkCxl true).recMode = 0 → ((s.chkCxl false).chkCxl true).accCode sp va bs.length ≠ .ok → Sys2Proof.Machine.exec (.windowAccess addr (.write bs)) s = .next { ((s.chkCxl false).chkCxl true) with cxl := { ((s.chkCxl false).chkCxl true).cxl with winref := satAdd ((s.chkCxl false).chkCxl true).cxl.winref 1 0xFFFF } }) ∧
  (∀ (s : State) (addr : Fin 274877906944) (bs : List Byte) (va : Nat) (sp : Space), s.pwr.phase = .running → s.cxl.state = .up ∧ s.cxl.insecure.contains 4 = false → ((s.chkCxl false).chkCxl true).windowMap addr.val = some (sp, va) → ((s.chkCxl false).chkCxl true).recMode = 2 ∧ ((s.chkCxl false).chkCxl true).recd.running = true ∧ ((s.chkCxl false).chkCxl true).recClass 2 = true → Sys2Proof.Machine.exec (.windowAccess addr (.write bs)) s = .next { ((s.chkCxl false).chkCxl true) with recd := { ((s.chkCxl false).chkCxl true).recd with late := ((s.chkCxl false).chkCxl true).recd.late + 1 } }) ∧
  (∀ (s : State) (p : BitVec 20) (f n : Nat), s.cxl.denied = [] → 0 < n → Sys2Proof.Machine.exec (.atsInvalidation p f n true) s = .next { s with cxl := { s.cxl with denied := [(p.toNat, f, n)] }, out := .atsDone p.toNat f n :: s.out }) ∧
  (∀ (s : State) (p : BitVec 20) (f n : Nat), s.cxl.denied = [(p.toNat, f, n)] → 0 < n → Sys2Proof.Machine.exec (.atsInvalidation p f n false) s = .next { s with cxl := { s.cxl with denied := [] }, out := .atsDone p.toNat f n :: s.out }) ∧
  (∀ (s : State), s.pwr.phase = .running → s.cxl.insecure = [] → Sys2Proof.Machine.exec (.ideIntegrityFail 4) s = .next { s with cxl := { s.cxl with insecure := [4], cmide := false } }) ∧
  (∀ (s : State) (n : Fin 4), s.pwr.phase = .running → s.cxl.insecure = [] → s.cxl.ide / 2 ^ n.val % 2 = 1 → Sys2Proof.Machine.exec (.ideIntegrityFail (n.castLE (by decide))) s = .next { s with cxl := { s.cxl with insecure := [n.val], ide := s.cxl.ide - 2 ^ n.val } }) ∧
  (∀ (s : State) (i : InstId), s.pwr.phase = .running → Sys2Proof.Machine.exec (.tspLock i) s = .next { s with insts := s.insts.set i.val { s.inst i.val with locked := true } }) ∧
  (∀ (s : State) (i : InstId), Sys2Proof.Machine.exec (.tspUnlock i) s = .next { s with insts := s.insts.set i.val { s.inst i.val with locked := false } }) ∧
  (∀ (s : State) (w r : Nat) (f : Bool), s.cxl.state = .training → w ∈ [1, 2, 4, 8] ∧ r ∈ [16, 32, 64] → Sys2Proof.Machine.exec (.cxlLinkUp w r f) s = .next { s with cxl := { s.cxl with state := if f then .up else .flitfail, width := w, rate := r } }) ∧
  (∀ (s : State) (w r : Nat) (f : Bool), s.cxl.state ≠ .training → Sys2Proof.Machine.exec (.cxlLinkUp w r f) s = .next s) ∧
  (∀ (s : State) (q : Fin 8) (v : Word) (a : Nat), s.pwr.phase = .running → s.replayed 2 = false → a = (s.l2q q.val).inHead ∧ fld v 15 0 = (a + 1) % 65536 ∧ a < 65536 → s.ringIdx pgCxl (l2qBase q.val) = a → s.ringOn pgCxl (l2qBase q.val) = true → Sys2Proof.Machine.exec (.l2qInboundTailWrite q v) s = .next ((s.setReg pgCxl (l2qBase q.val + 0xC) (w32 (fld v 15 0))).l2qEntry q.val a)) ∧
  (∀ (s : State) (q : Fin 8) (v : Word), s.pwr.phase = .running → s.replayed 2 = false → s.ringLen pgCxl (l2qBase q.val) < idxGap (s.l2q q.val).inHead (fld v 15 0) → Sys2Proof.Machine.exec (.l2qInboundTailWrite q v) s = .next (s.ignored pgCxl)) ∧
  (∀ (s : State) (q n : Nat), ((s.l2qEntry q n).l2q q).inHead = (n + 1) % 65536) ∧
  (∀ (s : State) (q : Fin 8) (v : Word), s.pwr.phase = .running → s.replayed 2 = false → (s.l2q q.val).waiting = [] → Sys2Proof.Machine.exec (.l2qDheadWrite q v) s = .next (s.setReg pgCxl (l2qBase q.val + 0x34) (v &&& 0x3FFFFFFF))) ∧
  (∀ (s : State) (a : Nat), s.i3c.addr = none → Sys2Proof.Machine.exec (.i3cCcc .entdaa a) s = .next { s with i3c := { s.i3c with addr := some (a % 128) }, out := .i3cData (beBytes 6 provisionalId) :: s.out }) ∧
  (∀ (s : State) (a : Nat), s.i3c.addr ≠ none → Sys2Proof.Machine.exec (.i3cCcc .entdaa a) s = .next { s with out := .i3cNack :: s.out }) ∧
  (∀ (s : State) (a : Nat), Sys2Proof.Machine.exec (.i3cCcc .rstdaa a) s = .next { s with i3c := { s.i3c with addr := none }, out := .i3cAck :: s.out }) ∧
  (∀ (s : State) (a : Nat), s.i3c.addr ≠ none → Sys2Proof.Machine.exec (.i3cCcc .setnewda a) s = .next { s with i3c := { s.i3c with addr := some (a % 128) }, out := .i3cAck :: s.out }) ∧
  (∀ (s : State), Sys2Proof.Machine.exec (.i3cCcc .enec 1) s = .next { s with i3c := { s.i3c with ibi := true }, out := .i3cAck :: s.out }) ∧
  (∀ (s : State), Sys2Proof.Machine.exec (.i3cCcc .disec 1) s = .next { s with i3c := { s.i3c with ibi := false }, out := .i3cAck :: s.out }) ∧
  (∀ (s : State) (a : Nat), s.i3c.addr ≠ none → Sys2Proof.Machine.exec (.i3cCcc .getpid a) s = .next { s with out := .i3cData (beBytes 6 provisionalId) :: s.out }) ∧
  (∀ (s : State) (b : Byte) (a : Nat), Sys2Proof.Machine.exec (.i3cCcc (.other b) a) s = .next { s with out := .i3cNack :: s.out }) ∧
  (∀ (s : State) (b : Byte), s.i3c.addr ≠ none → b.toNat < 32 → Sys2Proof.Machine.exec (.i3cPrivateWrite [b]) s = .next { s with i3c := { s.i3c with ptr := b.toNat }, out := .i3cAck :: s.out }) ∧
  (∀ (s : State) (b : Byte), s.i3c.addr = none ∨ 32 ≤ b.toNat → Sys2Proof.Machine.exec (.i3cPrivateWrite [b]) s = .next { s with out := .i3cNack :: s.out }) ∧
  (∀ (s : State) (n : Nat), s.i3c.addr ≠ none → Sys2Proof.Machine.exec (.i3cPrivateRead n) s = .next { s with i3c := { s.i3c with ptr := (s.i3c.ptr + n) % 32 }, out := .i3cData ((List.range n).map (fun i => s.i3c.snap.getD ((s.i3c.ptr + i) % 32) 0)) :: s.out }) ∧
  (∀ (s : State) (n : Nat), s.i3c.addr = none → Sys2Proof.Machine.exec (.i3cPrivateRead n) s = .next { s with out := .i3cNack :: s.out }) ∧
  (∀ (s : State) (r : Readings), s.i3c.ibi = false → ∃ u, Sys2Proof.Machine.exec (.telemetrySnapshot r) s = .next u ∧ (u.i3c.seq = (s.i3c.seq + 1) % 2 ^ 32) ∧ (u.i3c.snap.take 6 = leBytes 2 r.voltage ++ leBytes 2 r.current ++ leBytes 2 r.power) ∧ (u.i3c.flags = b1 s.pwr.overTemp + 2 * b1 (decide (r.voltage < 4800) || decide (6000 < r.voltage)) + 4 * b1 s.fencedNow + 8 * b1 (decide (s.pwr.throt ≠ 0))) ∧ (u = { s with i3c := { s.i3c with snap := u.i3c.snap, seq := u.i3c.seq, flags := u.i3c.flags } })) ∧
  (∀ (s : State) (r : Readings), s.i3c.ibi = true → s.i3c.flags = 0 ∧ r.voltage < 4800 → ∃ u, Sys2Proof.Machine.exec (.telemetrySnapshot r) s = .next u ∧ (u.out = .i3cIbi (BitVec.ofNat 8 u.i3c.flags) :: s.out) ∧ (u = { s with i3c := u.i3c, out := u.out }))

/-- A frame for a sub-port that is not UP is not received. One with an injected FCS error is dropped and counted. One past its policer is dropped and counted, one whose addresses do not fit, or whose eCPRI header is concatenated or of another revision than 1, is counted UL_UNKNOWN, the rest are delivered: another eCPRI type is counted, a datagram on a payload sub-port is reassembled. A datagram with a bad version is dropped; one that completes a message lands it; another is held. Reassemblies past their time are dropped. A management tail write queues each frame once; outside the ring it is ignored. Due frames leave their wheel in order of their keys, nearest deadline first. A sub-port that goes DOWN loses its frames; each that asked for a stamp gets one with ABORTED, and the loss of the last sub-port of the reference port gives HOLDOVER. -/
def Obligations.EthernetPorts : Prop :=
  (∀ (s : State) (p : EthPort) (f : EthFrame), (s.ethp p.val).up / 2 ^ f.sub % 2 ≠ 1 → Sys2Proof.Machine.exec (.ethFrameReceive p f) s = .next s) ∧
  (∀ (s : State) (p : EthPort) (f : EthFrame) (j : Inj), (s.ethp p.val).up / 2 ^ f.sub % 2 = 1 → s.bist.inj.find 6 = some j → j.arg % 8 = f.sub ∧ j.target = p.val ∧ j.every = true → ∃ u, Sys2Proof.Machine.exec (.ethFrameReceive p f) s = .next u ∧ (u.scaler (pgEth p.val) 15 = satAdd (s.scaler (pgEth p.val) 15) 1 0xFFFFFFFF) ∧ (u = { s with bist := { s.bist with uses := satAdd s.bist.uses 1 0xFFFF }, regs := { s.regs with scal := u.regs.scal } })) ∧
  (∀ (s : State) (p : EthPort) (f : EthFrame), (s.ethp p.val).up / 2 ^ f.sub % 2 = 1 → s.bist.inj.find 6 = none → 9216 < f.len → Sys2Proof.Machine.exec (.ethFrameReceive p f) s = .next (s.chkEth p.val false (frameEaxc f.body) f.raw)) ∧
  (∀ (s : State) (p : EthPort) (f : EthFrame), (s.ethp p.val).up / 2 ^ f.sub % 2 = 1 → s.bist.inj.find 6 = none → f.len ≤ 9216 → ((s.chkEth p.val false (frameEaxc f.body) f.raw).policeFrame p.val f).1 = false → Sys2Proof.Machine.exec (.ethFrameReceive p f) s = .next ((((s.chkEth p.val false (frameEaxc f.body) f.raw).policeFrame p.val f).2.bump (pgEth p.val) 13 1).updEth p.val (fun x => { x with polDrop := satAdd x.polDrop 1 0xFFFF }))) ∧
  (∀ (s : State) (p : EthPort) (f : EthFrame), (s.ethp p.val).up / 2 ^ f.sub % 2 = 1 → s.bist.inj.find 6 = none → f.len ≤ 9216 → ((s.chkEth p.val false (frameEaxc f.body) f.raw).policeFrame p.val f).1 = true → ((s.chkEth p.val false (frameEaxc f.body) f.raw).policeFrame p.val f).2.addressOk p.val f = false → Sys2Proof.Machine.exec (.ethFrameReceive p f) s = .next (((s.chkEth p.val false (frameEaxc f.body) f.raw).policeFrame p.val f).2.bump (pgEth p.val) 0 1)) ∧
  (∀ (s : State) (p : EthPort) (f : EthFrame), (s.ethp p.val).up / 2 ^ f.sub % 2 = 1 → s.bist.inj.find 6 = none → f.len ≤ 9216 → ((s.chkEth p.val false (frameEaxc f.body) f.raw).policeFrame p.val f).1 = true → ((s.chkEth p.val false (frameEaxc f.body) f.raw).policeFrame p.val f).2.addressOk p.val f = true → Sys2Proof.Machine.exec (.ethFrameReceive p f) s = .next (((s.chkEth p.val false (frameEaxc f.body) f.raw).policeFrame p.val f).2.deliverFrame p.val f)) ∧
  (∀ (s : State) (p t : Nat) (f : EthFrame) (h : EcpriHead), f.body = .ecpriOther h t ∧ h.rev = 1 ∧ h.concat = false → t = 1 ∨ t = 3 ∨ t = 4 ∨ t = 6 ∨ t = 7 → s.deliverFrame p f = s.updEth p (fun x => { x with unsup := satAdd x.unsup 1 0xFFFF })) ∧
  (∀ (s : State) (p t : Nat) (f : EthFrame) (h : EcpriHead), f.body = .ecpriOther h t ∧ h.rev = 1 ∧ h.concat = false → t = 2 ∨ 8 ≤ t → s.deliverFrame p f = s.mgmtReceive p f (f.raw.take (f.raw.length - 4))) ∧
  (∀ (s : State) (p : Nat) (f : EthFrame) (h : EcpriHead) (t : Nat), f.body = .ecpriOther h t → h.rev ≠ 1 ∨ h.concat = true → s.deliverFrame p f = s.ethDrop p 0) ∧
  (∀ (s : State) (p e : Nat) (f : EthFrame) (h : EcpriHead) (r : Option RadioHead) (b : Bool) (xs : List USection), s.ruOk p f.src e = false → s.uplaneBad p f h r e b xs = some 0) ∧
  (∀ (s : State) (p e : Nat) (f : EthFrame) (h : EcpriHead) (r : Option RadioHead) (b : Bool) (xs : List USection), h.rev = 1 ∧ h.concat = false ∧ s.ruOk p f.src e = true → h.size ≠ frameEcpriBytes f → s.uplaneBad p f h r e b xs = some 4) ∧
  (∀ (b : Nat × Nat) (rate depth cost now : Nat), (police b rate depth cost now).2.1 ≤ depth ∧ ((police b rate depth cost now).1 = true ↔ cost ≤ min depth (b.1 + (now - b.2) * rate))) ∧
  (∀ (s : State) (p : EthPort) (ip : Nat) (fr : Bool) (ver : Nat) (c : CellId) (id : Word) (off total : Nat) (bs : List Byte), s.pwr.phase = .running → fr = true ∨ ver ≠ 1 ∨ total < off + bs.length ∨ total < 16 ∨ total % 8 ≠ 0 → Sys2Proof.Machine.exec (.payloadDatagram p ip fr ver c id off total bs) s = .next (s.bump (pgEth p.val) 9 1)) ∧
  (∀ (s : State) (p : EthPort) (ip : Nat) (fr : Bool) (ver : Nat) (c : CellId) (id : Word) (off total : Nat) (bs : List Byte), s.pwr.phase = .running → fr = false ∧ ver = 1 ∧ off + bs.length ≤ total ∧ 16 ≤ total ∧ total % 8 = 0 → dL2Path (s.cell c.val).desc = false → Sys2Proof.Machine.exec (.payloadDatagram p ip fr ver c id off total bs) s = .next (s.bump (pgEth p.val) 10 1)) ∧
  (∀ (s : State) (p ip cell : Nat) (id : Word) (off total : Nat) (bs : List Byte), off + bs.length ≤ total ∧ 16 ≤ total ∧ total % 8 = 0 → (s.peer p 2 cell).isSome = true ∧ dL2Path (s.cell cell).desc = true ∧ dL2Port (s.cell cell).desc = p → (s.ethp p).reasm = [] → coversAll [(off, bs.length)] total = false → s.datagram p ip false 1 cell id off total bs = s.setEth p { s.ethp p with reasm := [{ src := ip, cell := cell, msgid := id, total := total, since := s.now, first := decide (off = 0), got := [(off, bs.length)], bytes := Memory.writeN off bs [] }] }) ∧
  (∀ (s : State) (p ip cell : Nat) (id : Word) (total : Nat) (bs : List Byte), bs.length = total ∧ 16 ≤ total ∧ total % 8 = 0 → (s.peer p 2 cell).isSome = true ∧ dL2Path (s.cell cell).desc = true ∧ dL2Port (s.cell cell).desc = p → (s.ethp p).reasm = [] → s.datagram p ip false 1 cell id 0 total bs = (s.setEth p (s.ethp p)).landMessage ((slotHead (wordsOf (total / 4) bs)).cell = cell) (wordsOf (total / 4) bs)) ∧
  (∀ (s : State) (p : EthPort), (s.ethp p.val).reasm.all (fun r => decide (s.now < r.since + 2 * dTslot (s.cell r.cell).desc)) = true → ∃ u, Sys2Proof.Machine.exec (.reassemblyTimeout p) s = .next u ∧ (u.ethp p.val = (s.ethp p.val)) ∧ (u = { s with eth := u.eth })) ∧
  (∀ (s : State) (p : EthPort) (r : Reasm), (s.ethp p.val).reasm = [r] ∧ r.first = false → r.since + 2 * dTslot (s.cell r.cell).desc ≤ s.now → Sys2Proof.Machine.exec (.reassemblyTimeout p) s = .next ((s.setEth p.val { (s.ethp p.val) with reasm := [] }).bump (pgEth p.val) 11 1)) ∧
  (∀ (s : State) (p : EthPort) (v : Word) (a : Nat), s.pwr.phase = .running → s.recMode = 0 → a = (s.ethp p.val).mtxHead ∧ fld v 15 0 = (a + 1) % 65536 ∧ a < 65536 → s.ringIdx (pgEth p.val) 0x600 = a → s.ringOn (pgEth p.val) 0x600 = true → Sys2Proof.Machine.exec (.managementTxTailWrite p v) s = .next ((s.setReg (pgEth p.val) 0x60C (w32 (fld v 15 0))).mtxEntry p.val a)) ∧
  (∀ (s : State) (p : EthPort) (v : Word), s.pwr.phase = .running → s.recMode = 0 → s.ringLen (pgEth p.val) 0x600 < idxGap (s.ethp p.val).mtxHead (fld v 15 0) → Sys2Proof.Machine.exec (.managementTxTailWrite p v) s = .next (s.ignored (pgEth p.val))) ∧
  (∀ (s : State) (p n : Nat), ((s.mtxEntry p n).ethp p).mtxHead = (n + 1) % 65536) ∧
  (∀ (s : State) (p : EthPort) (sub : Fin 8), Sys2Proof.Machine.exec (.wheelBucketDue p sub) s = .next (foldS (((s.ethp p.val).wheel.filter (fun f => f.sub = sub.val && f.launch / 128 * 128 ≤ s.now)).foldl (fun acc f => s.insertFrame f acc) []) (fun f t => t.sendFrame p.val f) (s.setEth p.val { (s.ethp p.val) with wheel := (s.ethp p.val).wheel.filter (fun f => !(f.sub = sub.val && f.launch / 128 * 128 ≤ s.now)) }))) ∧
  (∀ (s : State) (l : List EgressFrame), (l.foldl (fun acc f => s.insertFrame f acc) []).Pairwise (fun a b => s.frameKey a ≤ s.frameKey b) ∧ (l.foldl (fun acc f => s.insertFrame f acc) []).length = l.length ∧ ∀ f ∈ l, f ∈ l.foldl (fun acc f => s.insertFrame f acc) []) ∧
  (∀ (s : State) (p : EthPort) (sub : Fin 8), (s.ethp p.val).up / 2 ^ sub.val % 2 = 1 → s.isMember = true ∨ s.refSrc ≠ p.val + 1 ∨ s.time.pll = .holdover → Sys2Proof.Machine.exec (.ethernetLinkDown p sub) s = .next (foldS ((s.ethp p.val).wheel.filter (fun f => f.sub = sub.val)) (fun f t => if f.tsreq then t.tsqPut p.val sub.val f.txid 0 0 .aborted else t) (s.setEth p.val { (s.ethp p.val) with up := (s.ethp p.val).up - 2 ^ sub.val, wheel := (s.ethp p.val).wheel.filter (fun f => f.sub ≠ sub.val) }))) ∧
  (∀ (s : State) (p : EthPort) (sub : Fin 8), (s.ethp p.val).up = 2 ^ sub.val ∧ (s.ethp p.val).wheel = [] → s.isMember = false ∧ s.refSrc = p.val + 1 ∧ s.time.pll ≠ .holdover → Sys2Proof.Machine.exec (.ethernetLinkDown p sub) s = .next ((s.setEth p.val { (s.ethp p.val) with up := 0 }).pllHold)) ∧
  (∀ (s : State) (p : EthPort) (sub : Fin 8), (s.ethp p.val).up / 2 ^ sub.val % 2 ≠ 1 → Sys2Proof.Machine.exec (.ethernetLinkDown p sub) s = .next s) ∧
  (∀ (s : State) (p : EthPort) (sub : Fin 8), bitOf (s.reg (pgEth p.val) 0x014) 0 = true ∧ s.dieTested (4 + p.val / 4) = false → sub.val < s.subCount p.val ∧ s.role p.val sub.val ≠ 0 → (s.ethp p.val).up / 2 ^ sub.val % 2 = 0 → Sys2Proof.Machine.exec (.ethernetLinkUp p sub) s = .next (s.setEth p.val { (s.ethp p.val) with up := (s.ethp p.val).up + 2 ^ sub.val })) ∧
  (∀ (s : State) (p : EthPort) (sub : Fin 8), bitOf (s.reg (pgEth p.val) 0x014) 0 = false ∨ s.dieTested (4 + p.val / 4) = true → Sys2Proof.Machine.exec (.ethernetLinkUp p sub) s = .next s)

/-- BIND takes address, length and staging at the write, held behind admission, and is ignored and counted while one runs; its completion reports the first check that fails, and then nothing is entered, or OK with the lowest free handle. UNBIND and READ act on a handle. An anchor command is applied with counter 31 raised when it is accepted, and else only reports its code; without a VALID slot an unsigned INSTALL into slot 0 with management rights is accepted; a RAISE that does not raise is refused. A report request is queued, one at a time for an instance. The signer takes the oldest request, with the next index of its block, or with TOP while it has none; that signature is held until TOP + 1,024 is written; without an index the request ends INDEX_EXHAUSTED. Signature verification and signing are open functions, so no clause says that one succeeds. -/
def Obligations.TrustAndAttestation : Prop :=
  (∀ (s : State) (v : Word), s.pwr.phase = .running → s.recMode = 0 → fld v 1 0 = 1 → s.seed.job = none → Sys2Proof.Machine.exec (.bind v) s = .next { s with seed := { s.seed with job := some (.bind (fld (s.reg pgSeed 0x100) 31 12 * 4096 + fld (s.reg pgSeed 0x104) 7 0 * 2 ^ 32) ((s.reg pgSeed 0x108).toNat + 2 ^ 32 * fld (s.reg pgSeed 0x11C) 7 0) ((List.range 8).map (fun i => s.reg pgSeed (0x140 + 4 * i)))), jobHeld := s.coord.busy } }) ∧
  (∀ (s : State) (v : Word), s.pwr.phase = .running → s.recMode = 0 → fld v 1 0 = 1 → s.seed.job ≠ none → Sys2Proof.Machine.exec (.bind v) s = .next (s.ignored pgSeed)) ∧
  (∀ (s : State) (a n : Nat) (st : List Word), s.seed.job = some (.bind a n st) ∧ s.seed.jobHeld = false → Sys2Proof.Machine.exec (.bindComplete) s = .next (s.bindNow a n st)) ∧
  (∀ (s : State), s.seed.job = none ∨ s.seed.jobHeld = true → Sys2Proof.Machine.exec (.bindComplete) s = .next s) ∧
  (∀ (s : State) (a n : Nat) (st : List Word), (s.loadDev .dom0 a n).1 = .ok → (let l := s.loadDev .dom0 a n; let u := s.bindNow a n st; u.seed.job = none ∧ match l.2.2.bindCheck l.2.1 n st with | some (k, c) => u.seed.status = c ∧ u.seed.reason = k ∧ u.seed.pkgs = s.seed.pkgs ∧ u.mem = l.2.2.mem | none => u.seed.status = .ok ∧ u.seed.handle = l.2.2.freeHandle ∧ (u.seed.pkgs.find l.2.2.freeHandle).isSome = true)) ∧
  (∀ (s : State) (bs : List Byte) (n : Nat) (st : List Word), pkgForm bs n = false → s.bindCheck bs n st = some (1, .configInvalid)) ∧
  (∀ (s : State) (bs : List Byte) (n : Nat) (st : List Word), s.seed.anchors = [] → s.bindCheck bs n st ≠ none) ∧
  (∀ (s : State) (v : Word), s.pwr.phase = .running → s.recMode = 0 → fld v 1 0 = 2 → s.seed.job = none → s.coord.busy = false → Sys2Proof.Machine.exec (.unbind v) s = .next (s.unbindNow (fld v 14 4))) ∧
  (∀ (s : State) (v : Word), s.pwr.phase = .running → s.recMode = 0 → fld v 1 0 = 2 → s.seed.job = none → s.coord.busy = true → Sys2Proof.Machine.exec (.unbind v) s = .next { s with seed := { s.seed with job := some (.unbind (fld v 14 4)), jobHeld := true } }) ∧
  (∀ (s : State) (v : Word) (p : Pkg), s.pwr.phase = .running → s.recMode = 0 → fld v 1 0 = 3 → s.seed.job = none → s.seed.pkgs.find (fld v 14 4) = some p → Sys2Proof.Machine.exec (.packageRead v) s = .next { s with seed := { s.seed with status := .ok, reason := 0, read := [w32 (p.kind + p.level * 16 + p.abi * 65536), w32 p.svn, w32 p.padr, w32 (p.padr / 2 ^ 32), 0, 0, 0, 0] ++ wordsOf 8 p.digest } }) ∧
  (∀ (s : State) (v : Word), s.pwr.phase = .running → s.recMode = 0 → fld v 1 0 = 3 → s.seed.job = none → s.seed.pkgs.find (fld v 14 4) = none → Sys2Proof.Machine.exec (.packageRead v) s = .next { s with seed := { s.seed with status := .configInvalid, reason := 0 } }) ∧
  (∀ (s : State) (v : Word), s.pwr.phase = .running → s.recMode = 0 → bitOf v 0 = true → (s.loadDev .dom0 (fld (s.reg pgSeed 0x10C) 31 12 * 4096 + fld (s.reg pgSeed 0x110) 7 0 * 2 ^ 32) 96).1 = .ok → fld (wAt (wordsOf 24 (s.loadDev .dom0 (fld (s.reg pgSeed 0x10C) 31 12 * 4096 + fld (s.reg pgSeed 0x110) 7 0 * 2 ^ 32) 96).2.1) 0) 3 0 = 1 → Sys2Proof.Machine.exec (.install v) s = .next ((({ ((s.loadDev .dom0 (fld (s.reg pgSeed 0x10C) 31 12 * 4096 + fld (s.reg pgSeed 0x110) 7 0 * 2 ^ 32) 96).2.2.loadDev .dom0 ((fld (s.reg pgSeed 0x10C) 31 12 * 4096 + fld (s.reg pgSeed 0x110) 7 0 * 2 ^ 32) + 96) (match s.seed.anchors.find (fld (wAt (wordsOf 24 (s.loadDev .dom0 (fld (s.reg pgSeed 0x10C) 31 12 * 4096 + fld (s.reg pgSeed 0x110) 7 0 * 2 ^ 32) 96).2.1) 0) 11 8) with | some k => (sigLen (keyOid k.key)).getD 0 | none => 0)).2.2 with seed := if ((s.loadDev .dom0 (fld (s.reg pgSeed 0x10C) 31 12 * 4096 + fld (s.reg pgSeed 0x110) 7 0 * 2 ^ 32) 96).2.2.anchorCode (wordsOf 24 (s.loadDev .dom0 (fld (s.reg pgSeed 0x10C) 31 12 * 4096 + fld (s.reg pgSeed 0x110) 7 0 * 2 ^ 32) 96).2.1) (s.loadDev .dom0 (fld (s.reg pgSeed 0x10C) 31 12 * 4096 + fld (s.reg pgSeed 0x110) 7 0 * 2 ^ 32) 96).2.1 (if ((s.loadDev .dom0 (fld (s.reg pgSeed 0x10C) 31 12 * 4096 + fld (s.reg pgSeed 0x110) 7 0 * 2 ^ 32) 96).2.2.loadDev .dom0 ((fld (s.reg pgSeed 0x10C) 31 12 * 4096 + fld (s.reg pgSeed 0x110) 7 0 * 2 ^ 32) + 96) (match s.seed.anchors.find (fld (wAt (wordsOf 24 (s.loadDev .dom0 (fld (s.reg pgSeed 0x10C) 31 12 * 4096 + fld (s.reg pgSeed 0x110) 7 0 * 2 ^ 32) 96).2.1) 0) 11 8) with | some k => (sigLen (keyOid k.key)).getD 0 | none => 0)).1 = .ok then ((s.loadDev .dom0 (fld (s.reg pgSeed 0x10C) 31 12 * 4096 + fld (s.reg pgSeed 0x110) 7 0 * 2 ^ 32) 96).2.2.loadDev .dom0 ((fld (s.reg pgSeed 0x10C) 31 12 * 4096 + fld (s.reg pgSeed 0x110) 7 0 * 2 ^ 32) + 96) (match s.seed.anchors.find (fld (wAt (wordsOf 24 (s.loadDev .dom0 (fld (s.reg pgSeed 0x10C) 31 12 * 4096 + fld (s.reg pgSeed 0x110) 7 0 * 2 ^ 32) 96).2.1) 0) 11 8) with | some k => (sigLen (keyOid k.key)).getD 0 | none => 0)).2.1 else [])) = .ok then { ((s.loadDev .dom0 (fld (s.reg pgSeed 0x10C) 31 12 * 4096 + fld (s.reg pgSeed 0x110) 7 0 * 2 ^ 32) 96).2.2.loadDev .dom0 ((fld (s.reg pgSeed 0x10C) 31 12 * 4096 + fld (s.reg pgSeed 0x110) 7 0 * 2 ^ 32) + 96) (match s.seed.anchors.find (fld (wAt (wordsOf 24 (s.loadDev .dom0 (fld (s.reg pgSeed 0x10C) 31 12 * 4096 + fld (s.reg pgSeed 0x110) 7 0 * 2 ^ 32) 96).2.1) 0) 11 8) with | some k => (sigLen (keyOid k.key)).getD 0 | none => 0)).2.2.seed with ancStat := .ok, anchors := ((s.loadDev .dom0 (fld (s.reg pgSeed 0x10C) 31 12 * 4096 + fld (s.reg pgSeed 0x110) 7 0 * 2 ^ 32) 96).2.2.loadDev .dom0 ((fld (s.reg pgSeed 0x10C) 31 12 * 4096 + fld (s.reg pgSeed 0x110) 7 0 * 2 ^ 32) + 96) (match s.seed.anchors.find (fld (wAt (wordsOf 24 (s.loadDev .dom0 (fld (s.reg pgSeed 0x10C) 31 12 * 4096 + fld (s.reg pgSeed 0x110) 7 0 * 2 ^ 32) 96).2.1) 0) 11 8) with | some k => (sigLen (keyOid k.key)).getD 0 | none => 0)).2.2.seed.anchors.set (fld (wAt (wordsOf 24 (s.loadDev .dom0 (fld (s.reg pgSeed 0x10C) 31 12 * 4096 + fld (s.reg pgSeed 0x110) 7 0 * 2 ^ 32) 96).2.1) 0) 7 4) { key := ((wordsOf 24 (s.loadDev .dom0 (fld (s.reg pgSeed 0x10C) 31 12 * 4096 + fld (s.reg pgSeed 0x110) 7 0 * 2 ^ 32) 96).2.1).drop 3).take 17, rights := fld (wAt (wordsOf 24 (s.loadDev .dom0 (fld (s.reg pgSeed 0x10C) 31 12 * 4096 + fld (s.reg pgSeed 0x110) 7 0 * 2 ^ 32) 96).2.1) 0) 15 12, domain := fld (wAt (wordsOf 24 (s.loadDev .dom0 (fld (s.reg pgSeed 0x10C) 31 12 * 4096 + fld (s.reg pgSeed 0x110) 7 0 * 2 ^ 32) 96).2.1) 0) 21 16 }, ctrs := ((s.loadDev .dom0 (fld (s.reg pgSeed 0x10C) 31 12 * 4096 + fld (s.reg pgSeed 0x110) 7 0 * 2 ^ 32) 96).2.2.loadDev .dom0 ((fld (s.reg pgSeed 0x10C) 31 12 * 4096 + fld (s.reg pgSeed 0x110) 7 0 * 2 ^ 32) + 96) (match s.seed.anchors.find (fld (wAt (wordsOf 24 (s.loadDev .dom0 (fld (s.reg pgSeed 0x10C) 31 12 * 4096 + fld (s.reg pgSeed 0x110) 7 0 * 2 ^ 32) 96).2.1) 0) 11 8) with | some k => (sigLen (keyOid k.key)).getD 0 | none => 0)).2.2.seed.ctrs.set 31 (((s.loadDev .dom0 (fld (s.reg pgSeed 0x10C) 31 12 * 4096 + fld (s.reg pgSeed 0x110) 7 0 * 2 ^ 32) 96).2.2.loadDev .dom0 ((fld (s.reg pgSeed 0x10C) 31 12 * 4096 + fld (s.reg pgSeed 0x110) 7 0 * 2 ^ 32) + 96) (match s.seed.anchors.find (fld (wAt (wordsOf 24 (s.loadDev .dom0 (fld (s.reg pgSeed 0x10C) 31 12 * 4096 + fld (s.reg pgSeed 0x110) 7 0 * 2 ^ 32) 96).2.1) 0) 11 8) with | some k => (sigLen (keyOid k.key)).getD 0 | none => 0)).2.2.seed.ctrs.get 0 31 + 1) } else { ((s.loadDev .dom0 (fld (s.reg pgSeed 0x10C) 31 12 * 4096 + fld (s.reg pgSeed 0x110) 7 0 * 2 ^ 32) 96).2.2.loadDev .dom0 ((fld (s.reg pgSeed 0x10C) 31 12 * 4096 + fld (s.reg pgSeed 0x110) 7 0 * 2 ^ 32) + 96) (match s.seed.anchors.find (fld (wAt (wordsOf 24 (s.loadDev .dom0 (fld (s.reg pgSeed 0x10C) 31 12 * 4096 + fld (s.reg pgSeed 0x110) 7 0 * 2 ^ 32) 96).2.1) 0) 11 8) with | some k => (sigLen (keyOid k.key)).getD 0 | none => 0)).2.2.seed with ancStat := ((s.loadDev .dom0 (fld (s.reg pgSeed 0x10C) 31 12 * 4096 + fld (s.reg pgSeed 0x110) 7 0 * 2 ^ 32) 96).2.2.anchorCode (wordsOf 24 (s.loadDev .dom0 (fld (s.reg pgSeed 0x10C) 31 12 * 4096 + fld (s.reg pgSeed 0x110) 7 0 * 2 ^ 32) 96).2.1) (s.loadDev .dom0 (fld (s.reg pgSeed 0x10C) 31 12 * 4096 + fld (s.reg pgSeed 0x110) 7 0 * 2 ^ 32) 96).2.1 (if ((s.loadDev .dom0 (fld (s.reg pgSeed 0x10C) 31 12 * 4096 + fld (s.reg pgSeed 0x110) 7 0 * 2 ^ 32) 96).2.2.loadDev .dom0 ((fld (s.reg pgSeed 0x10C) 31 12 * 4096 + fld (s.reg pgSeed 0x110) 7 0 * 2 ^ 32) + 96) (match s.seed.anchors.find (fld (wAt (wordsOf 24 (s.loadDev .dom0 (fld (s.reg pgSeed 0x10C) 31 12 * 4096 + fld (s.reg pgSeed 0x110) 7 0 * 2 ^ 32) 96).2.1) 0) 11 8) with | some k => (sigLen (keyOid k.key)).getD 0 | none => 0)).1 = .ok then ((s.loadDev .dom0 (fld (s.reg pgSeed 0x10C) 31 12 * 4096 + fld (s.reg pgSeed 0x110) 7 0 * 2 ^ 32) 96).2.2.loadDev .dom0 ((fld (s.reg pgSeed 0x10C) 31 12 * 4096 + fld (s.reg pgSeed 0x110) 7 0 * 2 ^ 32) + 96) (match s.seed.anchors.find (fld (wAt (wordsOf 24 (s.loadDev .dom0 (fld (s.reg pgSeed 0x10C) 31 12 * 4096 + fld (s.reg pgSeed 0x110) 7 0 * 2 ^ 32) 96).2.1) 0) 11 8) with | some k => (sigLen (keyOid k.key)).getD 0 | none => 0)).2.1 else [])) } } : State)).pulse pgSeed 1)) ∧
  (∀ (s : State) (v : Word), s.pwr.phase = .running → s.recMode = 0 → bitOf v 0 = true → (s.loadDev .dom0 (fld (s.reg pgSeed 0x10C) 31 12 * 4096 + fld (s.reg pgSeed 0x110) 7 0 * 2 ^ 32) 96).1 = .ok → fld (wAt (wordsOf 24 (s.loadDev .dom0 (fld (s.reg pgSeed 0x10C) 31 12 * 4096 + fld (s.reg pgSeed 0x110) 7 0 * 2 ^ 32) 96).2.1) 0) 3 0 = 2 → Sys2Proof.Machine.exec (.anchorClear v) s = .next ((({ ((s.loadDev .dom0 (fld (s.reg pgSeed 0x10C) 31 12 * 4096 + fld (s.reg pgSeed 0x110) 7 0 * 2 ^ 32) 96).2.2.loadDev .dom0 ((fld (s.reg pgSeed 0x10C) 31 12 * 4096 + fld (s.reg pgSeed 0x110) 7 0 * 2 ^ 32) + 96) (match s.seed.anchors.find (fld (wAt (wordsOf 24 (s.loadDev .dom0 (fld (s.reg pgSeed 0x10C) 31 12 * 4096 + fld (s.reg pgSeed 0x110) 7 0 * 2 ^ 32) 96).2.1) 0) 11 8) with | some k => (sigLen (keyOid k.key)).getD 0 | none => 0)).2.2 with seed := if ((s.loadDev .dom0 (fld (s.reg pgSeed 0x10C) 31 12 * 4096 + fld (s.reg pgSeed 0x110) 7 0 * 2 ^ 32) 96).2.2.anchorCode (wordsOf 24 (s.loadDev .dom0 (fld (s.reg pgSeed 0x10C) 31 12 * 4096 + fld (s.reg pgSeed 0x110) 7 0 * 2 ^ 32) 96).2.1) (s.loadDev .dom0 (fld (s.reg pgSeed 0x10C) 31 12 * 4096 + fld (s.reg pgSeed 0x110) 7 0 * 2 ^ 32) 96).2.1 (if ((s.loadDev .dom0 (fld (s.reg pgSeed 0x10C) 31 12 * 4096 + fld (s.reg pgSeed 0x110) 7 0 * 2 ^ 32) 96).2.2.loadDev .dom0 ((fld (s.reg pgSeed 0x10C) 31 12 * 4096 + fld (s.reg pgSeed 0x110) 7 0 * 2 ^ 32) + 96) (match s.seed.anchors.find (fld (wAt (wordsOf 24 (s.loadDev .dom0 (fld (s.reg pgSeed 0x10C) 31 12 * 4096 + fld (s.reg pgSeed 0x110) 7 0 * 2 ^ 32) 96).2.1) 0) 11 8) with | some k => (sigLen (keyOid k.key)).getD 0 | none => 0)).1 = .ok then ((s.loadDev .dom0 (fld (s.reg pgSeed 0x10C) 31 12 * 4096 + fld (s.reg pgSeed 0x110) 7 0 * 2 ^ 32) 96).2.2.loadDev .dom0 ((fld (s.reg pgSeed 0x10C) 31 12 * 4096 + fld (s.reg pgSeed 0x110) 7 0 * 2 ^ 32) + 96) (match s.seed.anchors.find (fld (wAt (wordsOf 24 (s.loadDev .dom0 (fld (s.reg pgSeed 0x10C) 31 12 * 4096 + fld (s.reg pgSeed 0x110) 7 0 * 2 ^ 32) 96).2.1) 0) 11 8) with | some k => (sigLen (keyOid k.key)).getD 0 | none => 0)).2.1 else [])) = .ok then { ((s.loadDev .dom0 (fld (s.reg pgSeed 0x10C) 31 12 * 4096 + fld (s.reg pgSeed 0x110) 7 0 * 2 ^ 32) 96).2.2.loadDev .dom0 ((fld (s.reg pgSeed 0x10C) 31 12 * 4096 + fld (s.reg pgSeed 0x110) 7 0 * 2 ^ 32) + 96) (match s.seed.anchors.find (fld (wAt (wordsOf 24 (s.loadDev .dom0 (fld (s.reg pgSeed 0x10C) 31 12 * 4096 + fld (s.reg pgSeed 0x110) 7 0 * 2 ^ 32) 96).2.1) 0) 11 8) with | some k => (sigLen (keyOid k.key)).getD 0 | none => 0)).2.2.seed with ancStat := .ok, anchors := ((s.loadDev .dom0 (fld (s.reg pgSeed 0x10C) 31 12 * 4096 + fld (s.reg pgSeed 0x110) 7 0 * 2 ^ 32) 96).2.2.loadDev .dom0 ((fld (s.reg pgSeed 0x10C) 31 12 * 4096 + fld (s.reg pgSeed 0x110) 7 0 * 2 ^ 32) + 96) (match s.seed.anchors.find (fld (wAt (wordsOf 24 (s.loadDev .dom0 (fld (s.reg pgSeed 0x10C) 31 12 * 4096 + fld (s.reg pgSeed 0x110) 7 0 * 2 ^ 32) 96).2.1) 0) 11 8) with | some k => (sigLen (keyOid k.key)).getD 0 | none => 0)).2.2.seed.anchors.erase (fld (wAt (wordsOf 24 (s.loadDev .dom0 (fld (s.reg pgSeed 0x10C) 31 12 * 4096 + fld (s.reg pgSeed 0x110) 7 0 * 2 ^ 32) 96).2.1) 0) 7 4), ctrs := ((s.loadDev .dom0 (fld (s.reg pgSeed 0x10C) 31 12 * 4096 + fld (s.reg pgSeed 0x110) 7 0 * 2 ^ 32) 96).2.2.loadDev .dom0 ((fld (s.reg pgSeed 0x10C) 31 12 * 4096 + fld (s.reg pgSeed 0x110) 7 0 * 2 ^ 32) + 96) (match s.seed.anchors.find (fld (wAt (wordsOf 24 (s.loadDev .dom0 (fld (s.reg pgSeed 0x10C) 31 12 * 4096 + fld (s.reg pgSeed 0x110) 7 0 * 2 ^ 32) 96).2.1) 0) 11 8) with | some k => (sigLen (keyOid k.key)).getD 0 | none => 0)).2.2.seed.ctrs.set 31 (((s.loadDev .dom0 (fld (s.reg pgSeed 0x10C) 31 12 * 4096 + fld (s.reg pgSeed 0x110) 7 0 * 2 ^ 32) 96).2.2.loadDev .dom0 ((fld (s.reg pgSeed 0x10C) 31 12 * 4096 + fld (s.reg pgSeed 0x110) 7 0 * 2 ^ 32) + 96) (match s.seed.anchors.find (fld (wAt (wordsOf 24 (s.loadDev .dom0 (fld (s.reg pgSeed 0x10C) 31 12 * 4096 + fld (s.reg pgSeed 0x110) 7 0 * 2 ^ 32) 96).2.1) 0) 11 8) with | some k => (sigLen (keyOid k.key)).getD 0 | none => 0)).2.2.seed.ctrs.get 0 31 + 1) } else { ((s.loadDev .dom0 (fld (s.reg pgSeed 0x10C) 31 12 * 4096 + fld (s.reg pgSeed 0x110) 7 0 * 2 ^ 32) 96).2.2.loadDev .dom0 ((fld (s.reg pgSeed 0x10C) 31 12 * 4096 + fld (s.reg pgSeed 0x110) 7 0 * 2 ^ 32) + 96) (match s.seed.anchors.find (fld (wAt (wordsOf 24 (s.loadDev .dom0 (fld (s.reg pgSeed 0x10C) 31 12 * 4096 + fld (s.reg pgSeed 0x110) 7 0 * 2 ^ 32) 96).2.1) 0) 11 8) with | some k => (sigLen (keyOid k.key)).getD 0 | none => 0)).2.2.seed with ancStat := ((s.loadDev .dom0 (fld (s.reg pgSeed 0x10C) 31 12 * 4096 + fld (s.reg pgSeed 0x110) 7 0 * 2 ^ 32) 96).2.2.anchorCode (wordsOf 24 (s.loadDev .dom0 (fld (s.reg pgSeed 0x10C) 31 12 * 4096 + fld (s.reg pgSeed 0x110) 7 0 * 2 ^ 32) 96).2.1) (s.loadDev .dom0 (fld (s.reg pgSeed 0x10C) 31 12 * 4096 + fld (s.reg pgSeed 0x110) 7 0 * 2 ^ 32) 96).2.1 (if ((s.loadDev .dom0 (fld (s.reg pgSeed 0x10C) 31 12 * 4096 + fld (s.reg pgSeed 0x110) 7 0 * 2 ^ 32) 96).2.2.loadDev .dom0 ((fld (s.reg pgSeed 0x10C) 31 12 * 4096 + fld (s.reg pgSeed 0x110) 7 0 * 2 ^ 32) + 96) (match s.seed.anchors.find (fld (wAt (wordsOf 24 (s.loadDev .dom0 (fld (s.reg pgSeed 0x10C) 31 12 * 4096 + fld (s.reg pgSeed 0x110) 7 0 * 2 ^ 32) 96).2.1) 0) 11 8) with | some k => (sigLen (keyOid k.key)).getD 0 | none => 0)).1 = .ok then ((s.loadDev .dom0 (fld (s.reg pgSeed 0x10C) 31 12 * 4096 + fld (s.reg pgSeed 0x110) 7 0 * 2 ^ 32) 96).2.2.loadDev .dom0 ((fld (s.reg pgSeed 0x10C) 31 12 * 4096 + fld (s.reg pgSeed 0x110) 7 0 * 2 ^ 32) + 96) (match s.seed.anchors.find (fld (wAt (wordsOf 24 (s.loadDev .dom0 (fld (s.reg pgSeed 0x10C) 31 12 * 4096 + fld (s.reg pgSeed 0x110) 7 0 * 2 ^ 32) 96).2.1) 0) 11 8) with | some k => (sigLen (keyOid k.key)).getD 0 | none => 0)).2.1 else [])) } } : State)).pulse pgSeed 1)) ∧
  (∀ (s : State) (v : Word), s.pwr.phase = .running → s.recMode = 0 → bitOf v 0 = true → (s.loadDev .dom0 (fld (s.reg pgSeed 0x10C) 31 12 * 4096 + fld (s.reg pgSeed 0x110) 7 0 * 2 ^ 32) 96).1 = .ok → fld (wAt (wordsOf 24 (s.loadDev .dom0 (fld (s.reg pgSeed 0x10C) 31 12 * 4096 + fld (s.reg pgSeed 0x110) 7 0 * 2 ^ 32) 96).2.1) 0) 3 0 = 3 → Sys2Proof.Machine.exec (.raise v) s = .next ((({ ((s.loadDev .dom0 (fld (s.reg pgSeed 0x10C) 31 12 * 4096 + fld (s.reg pgSeed 0x110) 7 0 * 2 ^ 32) 96).2.2.loadDev .dom0 ((fld (s.reg pgSeed 0x10C) 31 12 * 4096 + fld (s.reg pgSeed 0x110) 7 0 * 2 ^ 32) + 96) (match s.seed.anchors.find (fld (wAt (wordsOf 24 (s.loadDev .dom0 (fld (s.reg pgSeed 0x10C) 31 12 * 4096 + fld (s.reg pgSeed 0x110) 7 0 * 2 ^ 32) 96).2.1) 0) 11 8) with | some k => (sigLen (keyOid k.key)).getD 0 | none => 0)).2.2 with seed := if ((s.loadDev .dom0 (fld (s.reg pgSeed 0x10C) 31 12 * 4096 + fld (s.reg pgSeed 0x110) 7 0 * 2 ^ 32) 96).2.2.anchorCode (wordsOf 24 (s.loadDev .dom0 (fld (s.reg pgSeed 0x10C) 31 12 * 4096 + fld (s.reg pgSeed 0x110) 7 0 * 2 ^ 32) 96).2.1) (s.loadDev .dom0 (fld (s.reg pgSeed 0x10C) 31 12 * 4096 + fld (s.reg pgSeed 0x110) 7 0 * 2 ^ 32) 96).2.1 (if ((s.loadDev .dom0 (fld (s.reg pgSeed 0x10C) 31 12 * 4096 + fld (s.reg pgSeed 0x110) 7 0 * 2 ^ 32) 96).2.2.loadDev .dom0 ((fld (s.reg pgSeed 0x10C) 31 12 * 4096 + fld (s.reg pgSeed 0x110) 7 0 * 2 ^ 32) + 96) (match s.seed.anchors.find (fld (wAt (wordsOf 24 (s.loadDev .dom0 (fld (s.reg pgSeed 0x10C) 31 12 * 4096 + fld (s.reg pgSeed 0x110) 7 0 * 2 ^ 32) 96).2.1) 0) 11 8) with | some k => (sigLen (keyOid k.key)).getD 0 | none => 0)).1 = .ok then ((s.loadDev .dom0 (fld (s.reg pgSeed 0x10C) 31 12 * 4096 + fld (s.reg pgSeed 0x110) 7 0 * 2 ^ 32) 96).2.2.loadDev .dom0 ((fld (s.reg pgSeed 0x10C) 31 12 * 4096 + fld (s.reg pgSeed 0x110) 7 0 * 2 ^ 32) + 96) (match s.seed.anchors.find (fld (wAt (wordsOf 24 (s.loadDev .dom0 (fld (s.reg pgSeed 0x10C) 31 12 * 4096 + fld (s.reg pgSeed 0x110) 7 0 * 2 ^ 32) 96).2.1) 0) 11 8) with | some k => (sigLen (keyOid k.key)).getD 0 | none => 0)).2.1 else [])) = .ok then { ((s.loadDev .dom0 (fld (s.reg pgSeed 0x10C) 31 12 * 4096 + fld (s.reg pgSeed 0x110) 7 0 * 2 ^ 32) 96).2.2.loadDev .dom0 ((fld (s.reg pgSeed 0x10C) 31 12 * 4096 + fld (s.reg pgSeed 0x110) 7 0 * 2 ^ 32) + 96) (match s.seed.anchors.find (fld (wAt (wordsOf 24 (s.loadDev .dom0 (fld (s.reg pgSeed 0x10C) 31 12 * 4096 + fld (s.reg pgSeed 0x110) 7 0 * 2 ^ 32) 96).2.1) 0) 11 8) with | some k => (sigLen (keyOid k.key)).getD 0 | none => 0)).2.2.seed with ancStat := .ok, ctrs := (((s.loadDev .dom0 (fld (s.reg pgSeed 0x10C) 31 12 * 4096 + fld (s.reg pgSeed 0x110) 7 0 * 2 ^ 32) 96).2.2.loadDev .dom0 ((fld (s.reg pgSeed 0x10C) 31 12 * 4096 + fld (s.reg pgSeed 0x110) 7 0 * 2 ^ 32) + 96) (match s.seed.anchors.find (fld (wAt (wordsOf 24 (s.loadDev .dom0 (fld (s.reg pgSeed 0x10C) 31 12 * 4096 + fld (s.reg pgSeed 0x110) 7 0 * 2 ^ 32) 96).2.1) 0) 11 8) with | some k => (sigLen (keyOid k.key)).getD 0 | none => 0)).2.2.seed.ctrs.set (fld (wAt (wordsOf 24 (s.loadDev .dom0 (fld (s.reg pgSeed 0x10C) 31 12 * 4096 + fld (s.reg pgSeed 0x110) 7 0 * 2 ^ 32) 96).2.1) 0) 26 22) (wAt (wordsOf 24 (s.loadDev .dom0 (fld (s.reg pgSeed 0x10C) 31 12 * 4096 + fld (s.reg pgSeed 0x110) 7 0 * 2 ^ 32) 96).2.1) 2).toNat).set 31 (((s.loadDev .dom0 (fld (s.reg pgSeed 0x10C) 31 12 * 4096 + fld (s.reg pgSeed 0x110) 7 0 * 2 ^ 32) 96).2.2.loadDev .dom0 ((fld (s.reg pgSeed 0x10C) 31 12 * 4096 + fld (s.reg pgSeed 0x110) 7 0 * 2 ^ 32) + 96) (match s.seed.anchors.find (fld (wAt (wordsOf 24 (s.loadDev .dom0 (fld (s.reg pgSeed 0x10C) 31 12 * 4096 + fld (s.reg pgSeed 0x110) 7 0 * 2 ^ 32) 96).2.1) 0) 11 8) with | some k => (sigLen (keyOid k.key)).getD 0 | none => 0)).2.2.seed.ctrs.get 0 31 + 1) } else { ((s.loadDev .dom0 (fld (s.reg pgSeed 0x10C) 31 12 * 4096 + fld (s.reg pgSeed 0x110) 7 0 * 2 ^ 32) 96).2.2.loadDev .dom0 ((fld (s.reg pgSeed 0x10C) 31 12 * 4096 + fld (s.reg pgSeed 0x110) 7 0 * 2 ^ 32) + 96) (match s.seed.anchors.find (fld (wAt (wordsOf 24 (s.loadDev .dom0 (fld (s.reg pgSeed 0x10C) 31 12 * 4096 + fld (s.reg pgSeed 0x110) 7 0 * 2 ^ 32) 96).2.1) 0) 11 8) with | some k => (sigLen (keyOid k.key)).getD 0 | none => 0)).2.2.seed with ancStat := ((s.loadDev .dom0 (fld (s.reg pgSeed 0x10C) 31 12 * 4096 + fld (s.reg pgSeed 0x110) 7 0 * 2 ^ 32) 96).2.2.anchorCode (wordsOf 24 (s.loadDev .dom0 (fld (s.reg pgSeed 0x10C) 31 12 * 4096 + fld (s.reg pgSeed 0x110) 7 0 * 2 ^ 32) 96).2.1) (s.loadDev .dom0 (fld (s.reg pgSeed 0x10C) 31 12 * 4096 + fld (s.reg pgSeed 0x110) 7 0 * 2 ^ 32) 96).2.1 (if ((s.loadDev .dom0 (fld (s.reg pgSeed 0x10C) 31 12 * 4096 + fld (s.reg pgSeed 0x110) 7 0 * 2 ^ 32) 96).2.2.loadDev .dom0 ((fld (s.reg pgSeed 0x10C) 31 12 * 4096 + fld (s.reg pgSeed 0x110) 7 0 * 2 ^ 32) + 96) (match s.seed.anchors.find (fld (wAt (wordsOf 24 (s.loadDev .dom0 (fld (s.reg pgSeed 0x10C) 31 12 * 4096 + fld (s.reg pgSeed 0x110) 7 0 * 2 ^ 32) 96).2.1) 0) 11 8) with | some k => (sigLen (keyOid k.key)).getD 0 | none => 0)).1 = .ok then ((s.loadDev .dom0 (fld (s.reg pgSeed 0x10C) 31 12 * 4096 + fld (s.reg pgSeed 0x110) 7 0 * 2 ^ 32) 96).2.2.loadDev .dom0 ((fld (s.reg pgSeed 0x10C) 31 12 * 4096 + fld (s.reg pgSeed 0x110) 7 0 * 2 ^ 32) + 96) (match s.seed.anchors.find (fld (wAt (wordsOf 24 (s.loadDev .dom0 (fld (s.reg pgSeed 0x10C) 31 12 * 4096 + fld (s.reg pgSeed 0x110) 7 0 * 2 ^ 32) 96).2.1) 0) 11 8) with | some k => (sigLen (keyOid k.key)).getD 0 | none => 0)).2.1 else [])) } } : State)).pulse pgSeed 1)) ∧
  (∀ (s : State) (ws : List Word) (b g : List Byte), s.seed.anchors = [] → fld (wAt ws 0) 3 0 = 1 ∧ fld (wAt ws 0) 7 4 = 0 ∧ fld (wAt ws 0) 15 12 = 8 ∧ fld (wAt ws 0) 31 16 = 0 → (wAt ws 1).toNat = s.seed.ctrs.get 0 31 ∧ s.seed.ctrs.get 0 31 < 2 ^ 32 - 1 → wAt ws 20 = 0 ∧ wAt ws 21 = 0 ∧ wAt ws 22 = 0 ∧ wAt ws 23 = 0 → s.anchorCode ws b g = .ok) ∧
  (∀ (s : State) (ws : List Word) (b g : List Byte), s.seed.anchors.find (fld (wAt ws 0) 11 8) = none → fld (wAt ws 0) 3 0 ≠ 1 ∨ s.seed.anchors ≠ [] → s.anchorCode ws b g ≠ .ok) ∧
  (∀ (s : State) (ws : List Word) (b g : List Byte), fld (wAt ws 0) 3 0 = 3 → (wAt ws 2).toNat ≤ s.seed.ctrs.get 0 (fld (wAt ws 0) 26 22) → s.anchorCode ws b g ≠ .ok) ∧
  (∀ (s : State) (i : InstId) (v : Word), s.pwr.phase = .running → pageDead (s.inst i.val).phase = false → bitOf v 0 = true → s.attPending i.val = false → Sys2Proof.Machine.exec (.tenantAttestationRequest i v) s = .next { s with insts := s.insts.set i.val { s.inst i.val with attBusy := true }, seed := { s.seed with queue := s.seed.queue ++ [{ who := .tenant i.val, nonce := bytesOf ((List.range 8).map (fun k => s.reg (pgMbx i.val) (0x5A0 + 4 * k))), dest := ((s.reg (pgMbx i.val) 0x5C0).toNat + 2 ^ 32 * fld (s.reg (pgMbx i.val) 0x5C4) 15 0) / 64 * 64 }] } }) ∧
  (∀ (s : State) (i : InstId) (v : Word), s.pwr.phase = .running → pageDead (s.inst i.val).phase = false → bitOf v 0 = true → s.attPending i.val = true → Sys2Proof.Machine.exec (.tenantAttestationRequest i v) s = .next (s.ignored (pgMbx i.val))) ∧
  (∀ (s : State) (v : Word), s.pwr.phase = .running → s.recMode = 0 → bitOf v 0 = true → s.seed.attBusy = false → s.attPending (fld v 15 4) = false → Sys2Proof.Machine.exec (.managerAttestationRequest v) s = .next { s with seed := { s.seed with attBusy := true, queue := s.seed.queue ++ [{ who := .manager (fld v 15 4), nonce := (List.range 8).flatMap (fun k => leBytes 4 (s.reg pgSeed (0x160 + 4 * k)).toNat), dest := fld (s.reg pgSeed 0x114) 31 12 * 4096 + fld (s.reg pgSeed 0x118) 7 0 * 2 ^ 32 }] } }) ∧
  (∀ (s : State) (v : Word), s.pwr.phase = .running → s.recMode = 0 → bitOf v 0 = true → s.seed.attBusy = true → Sys2Proof.Machine.exec (.managerAttestationRequest v) s = .next (s.ignored pgSeed)) ∧
  (∀ (s : State) (x : SpdmRequest), s.pwr.phase = .running → Sys2Proof.Machine.exec (.spdmRequest x) s = .next { s with seed := { s.seed with queue := s.seed.queue ++ [{ who := .spdm x.ide, nonce := x.msg, dest := 0 }] } }) ∧
  (∀ (s : State) (r : SignReq) (rest : List SignReq), s.seed.signing = none ∧ s.seed.queue = r :: rest → s.seed.block.1 ≠ s.seed.block.2 → r.who = .spdm none → Sys2Proof.Machine.exec (.signerTakeRequest) s = .next { s with seed := { s.seed with queue := rest, signing := some { req := r, report := r.nonce, index := s.seed.block.1, made := false, held := false }, block := (s.seed.block.1 + 1, s.seed.block.2) } }) ∧
  (∀ (s : State) (r : SignReq) (rest : List SignReq) (i : Nat), s.seed.signing = none ∧ s.seed.queue = r :: rest → s.seed.block.1 = s.seed.block.2 ∧ s.seed.top < 2 ^ 40 → r.who = .tenant i → Sys2Proof.Machine.exec (.signerTakeRequest) s = .next { s with seed := { s.seed with queue := rest, signing := some { req := r, report := s.report i r.nonce, index := s.seed.top, made := false, held := true } } }) ∧
  (∀ (s : State) (r : SignReq) (rest : List SignReq), s.seed.signing = none ∧ s.seed.queue = r :: rest → s.seed.block.1 = s.seed.block.2 ∧ 2 ^ 40 ≤ s.seed.top → r.who = .spdm none → Sys2Proof.Machine.exec (.signerTakeRequest) s = .next { s with seed := { s.seed with queue := rest, exh := true }, out := .spdm none :: s.out }) ∧
  (∀ (s : State), s.seed.queue = [] ∨ s.seed.signing ≠ none → Sys2Proof.Machine.exec (.signerTakeRequest) s = .next s) ∧
  (∀ (s : State) (g : Signing), s.seed.signing = some g ∧ g.made = false ∧ g.held = true → Sys2Proof.Machine.exec (.signatureComplete) s = .next { s with seed := { s.seed with signing := some { g with made := true } } }) ∧
  (∀ (s : State) (g : Signing), s.seed.signing = some g ∧ g.made = false ∧ g.held = false → Sys2Proof.Machine.exec (.signatureComplete) s = .next (s.signRelease g)) ∧
  (∀ (s : State), s.seed.signing = none → Sys2Proof.Machine.exec (.signatureComplete) s = .next s) ∧
  (∀ (s : State) (g : Signing), s.seed.signing = some g ∧ g.made = true ∧ g.held = true → Sys2Proof.Machine.exec (.topWriteComplete) s = .next ((({ s with seed := { s.seed with top := g.index + 1024, block := (g.index + 1, g.index + 1024) } } : State)).signRelease g)) ∧
  (∀ (s : State) (g : Signing), s.seed.signing = some g ∧ g.made = false → Sys2Proof.Machine.exec (.topWriteComplete) s = .next s) ∧
  (∀ (s : State) (g : Signing), g.req.who = .spdm none → (s.signRelease g).seed.signing = none ∧ (s.signRelease g).seed.top = s.seed.top ∧ (s.signRelease g).seed.block = s.seed.block ∧ .spdm (some g.index) ∈ (s.signRelease g).out)

/-- PARK and UNPARK are ignored and counted while one runs, held while admission is busy, and else checked. A park completes when every tile and the sort deck of the grove are empty, and clears every store; an unpark clears them too. A module reset needs KEY 0xA5, ends every cell and instance, empties every key slot and keeps anchors, counters, TOP and the I3C address. SLEEP needs no cell and every instance FREE. MOD_WAKE and POWER_ON begin start-up at step 1, a completed step goes on, a failed one stops, step 7 releases the module. A temperature above TRIP, an input fault or a power-stage fault trips a running module; a hot die is throttled. Loss of an arithmetic, HBM or time PLL is a module fault, of a port PLL takes the port down. -/
def Obligations.PowerAndResets : Prop :=
  (∀ (s : State) (v : Word), s.pwr.phase = .running → s.recMode = 0 → fld v 1 0 = 1 → s.pwr.parkBusy = true → Sys2Proof.Machine.exec (.park v) s = .next (s.ignored pgPwr)) ∧
  (∀ (s : State) (v : Word), s.pwr.phase = .running → s.recMode = 0 → fld v 1 0 = 1 → s.pwr.parkBusy = false → s.coord.busy = true → Sys2Proof.Machine.exec (.park v) s = .next { s with pwr := { s.pwr with parkBusy := true, parkHeld := some v } }) ∧
  (∀ (s : State) (v : Word), s.pwr.phase = .running → s.recMode = 0 → fld v 1 0 = 1 → s.pwr.parkBusy = false → s.coord.busy = false → Sys2Proof.Machine.exec (.park v) s = .next (s.parkApply v)) ∧
  (∀ (s : State) (v : Word), s.pwr.phase = .running → s.recMode = 0 → fld v 1 0 = 2 → s.pwr.parkBusy = false → s.coord.busy = false → Sys2Proof.Machine.exec (.unpark v) s = .next (s.parkApply v)) ∧
  (∀ (s : State) (v : Word), fld v 8 4 % 8 = 0 → fld v 1 0 = 1 ∨ fld v 1 0 = 2 → s.parkApply v = { s with pwr := { s.pwr with parkBusy := false, parkHeld := none, parkStat := .configInvalid } }) ∧
  (∀ (s : State) (v : Word), fld v 8 4 % 8 ≠ 0 ∧ fld v 1 0 = 2 → (s.grove (fld v 8 4)).parked = true → ((s.parkApply v).grove (fld v 8 4)).unparking = true ∧ (s.parkApply v).pwr.parkBusy = true) ∧
  (∀ (s : State) (g : GroveId), (s.grove g.val).parkPending = true → (groveTiles g.val).all (fun t => (s.tile t).quiet) = true → (s.grove g.val).deck0 = none ∧ (s.grove g.val).deck1 = none ∧ (s.grove g.val).deckWait = [] → ∃ u, Sys2Proof.Machine.exec (.parkComplete g) s = .next u ∧ (u.grove g.val = { (s.grove g.val) with parked := true, parkPending := false }) ∧ ((groveTiles g.val).all (fun t => decide (u.tile t = (s.tile t).cleared)) = true) ∧ (∀ t, t / 32 ≠ g.val → u.tile t = s.tile t) ∧ (u = { s with tiles := u.tiles, groves := s.groves.set g.val (u.grove g.val), pwr := { s.pwr with parkBusy := false, parkHeld := none, parkStat := .ok }, regs := { s.regs with evtRaw := u.regs.evtRaw, evtPend := u.regs.evtPend, pba := u.regs.pba }, out := u.out }) ∧ (∀ q, pageKey q ≠ pageKey (pgPwr) → u.evtRaw q = s.evtRaw q ∧ u.evtPend q = s.evtPend q)) ∧
  (∀ (s : State) (g : GroveId), (s.grove g.val).parkPending = false ∨ (s.grove g.val).deck0 ≠ none → Sys2Proof.Machine.exec (.parkComplete g) s = .next s) ∧
  (∀ (s : State) (g : GroveId), (s.grove g.val).unparking = true → ∃ u, Sys2Proof.Machine.exec (.unparkComplete g) s = .next u ∧ ((groveTiles g.val).all (fun t => decide (u.tile t = (s.tile t).cleared)) = true) ∧ (u.grove g.val = { (s.grove g.val) with parked := false, unparking := false }) ∧ (u.pwr = { s.pwr with parkBusy := false, parkHeld := none, parkStat := .ok }) ∧ (u = { s with tiles := u.tiles, groves := s.groves.set g.val (u.grove g.val), pwr := u.pwr, regs := { s.regs with evtRaw := u.regs.evtRaw, evtPend := u.regs.evtPend, pba := u.regs.pba }, out := u.out })) ∧
  (∀ (s : State) (g : GroveId), (s.grove g.val).unparking = false → Sys2Proof.Machine.exec (.unparkComplete g) s = .next s) ∧
  (∀ (s : State) (v : Word), s.pwr.phase = .running → s.recMode = 0 → bitOf v 0 = true → fld v 15 8 = 0xA5 → Sys2Proof.Machine.exec (.moduleReset v) s = .next s.moduleReset) ∧
  (∀ (s : State) (v : Word), s.pwr.phase = .running → s.recMode = 0 → bitOf v 0 = true → fld v 15 8 ≠ 0xA5 → Sys2Proof.Machine.exec (.moduleReset v) s = .next (s.ignored pgPwr)) ∧
  (∀ (s : State), s.moduleReset.lv = LvSt.reset ∧ s.moduleReset.insts = [] ∧ s.moduleReset.cells = [] ∧ s.moduleReset.ctxs = [] ∧ s.moduleReset.mems = MemSt.empty ∧ s.moduleReset.fbk.d0key = none ∧ s.moduleReset.bist.logicOk = 0 ∧ s.moduleReset.seed.anchors = s.seed.anchors ∧ s.moduleReset.seed.ctrs = s.seed.ctrs ∧ s.moduleReset.seed.top = s.seed.top ∧ s.moduleReset.i3c.addr = s.i3c.addr ∧ s.moduleReset.pwr.phase = .starting ∧ s.moduleReset.pwr.step = 4 ∧ s.moduleReset.pending = s.pending) ∧
  (∀ (s : State) (v : Word), s.pwr.phase = .running → s.recMode = 0 → bitOf v 1 = true → s.cells.all (fun p => p.2.phase = .free) = true ∧ s.insts.all (fun p => p.2.phase = .free) = true → Sys2Proof.Machine.exec (.sleep v) s = .next (s.moduleReset.railsOff .standby false)) ∧
  (∀ (s : State) (v : Word), s.pwr.phase = .running → s.recMode = 0 → bitOf v 1 = true → s.cells.any (fun p => p.2.phase ≠ .free) = true ∨ s.insts.any (fun p => p.2.phase ≠ .free) = true → Sys2Proof.Machine.exec (.sleep v) s = .next (s.ignored pgPwr)) ∧
  (∀ (s : State), s.pwr.phase = .standby → Sys2Proof.Machine.exec (.modWake) s = .next (s.wipe (PwrSt.at_ 1 false) I3cSt.reset)) ∧
  (∀ (s : State), s.pwr.phase ≠ .standby → Sys2Proof.Machine.exec (.modWake) s = .next s) ∧
  (∀ (s : State) (m : Bool), s.pwr.phase ≠ .running → Sys2Proof.Machine.exec (.powerOn m) s = .next (s.wipe (PwrSt.at_ 1 m) I3cSt.reset)) ∧
  (∀ (s : State) (m : Bool), s.pwr.phase = .running → Sys2Proof.Machine.exec (.powerOn m) s = .next s) ∧
  (∀ (s : State), s.pwr.phase = .starting ∧ s.pwr.fail = 0 → Sys2Proof.Machine.exec (.startupStepComplete false) s = .next { s with pwr := { s.pwr with fail := s.pwr.step } }) ∧
  (∀ (s : State), s.pwr.phase = .starting ∧ s.pwr.fail = 0 → s.pwr.step < 7 → s.pwr.step ≠ 3 ∨ s.pwr.modTest = false → Sys2Proof.Machine.exec (.startupStepComplete true) s = .next { s with pwr := { s.pwr with step := s.pwr.step + 1 } }) ∧
  (∀ (s : State), s.pwr.phase = .starting ∧ s.pwr.fail = 0 → s.pwr.step = 3 ∧ s.pwr.modTest = true → Sys2Proof.Machine.exec (.startupStepComplete true) s = .next s) ∧
  (∀ (s : State), s.pwr.phase = .starting ∧ s.pwr.fail = 0 → s.pwr.step = 7 → Sys2Proof.Machine.exec (.startupStepComplete true) s = .next { s with fresh := s.fresh + 1, fbk := FbkSt.reset (Sys2Proof.Config.randomKey s.fresh), cxl := { s.cxl with state := .training }, time := TimeSt.reset, pwr := { PwrSt.running with modTest := s.pwr.modTest } }) ∧
  (∀ (s : State) (b : Bool), s.pwr.phase ≠ .starting ∨ s.pwr.fail ≠ 0 → Sys2Proof.Machine.exec (.startupStepComplete b) s = .next s) ∧
  (∀ (s : State), s.pwr.phase = .running ∨ s.pwr.phase = .starting ∧ 4 ≤ s.pwr.step → Sys2Proof.Machine.exec (.perst) s = .next s.moduleReset) ∧
  (∀ (s : State), s.pwr.phase = .standby ∨ s.pwr.phase = .tripped ∨ s.pwr.phase = .starting ∧ s.pwr.step < 4 → Sys2Proof.Machine.exec (.perst) s = .next s) ∧
  (∀ (s : State), s.pwr.phase = .running → Sys2Proof.Machine.exec (.cxlLinkReset) s = .next s.cxlReset) ∧
  (∀ (s : State), s.mems.moves = [] → s.tiles = [] → s.cxlReset = { s.resetRegs pgCxl with cxl := { CxlSt.reset with denied := s.cxl.denied } }) ∧
  (∀ (s : State), Sys2Proof.Machine.exec (.testReset) s = .next { s with jtag := { irs := List.replicate 6 .idcode } }) ∧
  (∀ (s : State) (r : Readings), s.pwr.phase = .running ∨ s.pwr.phase = .starting → (r.dies ++ [r.hbm, r.stage]).any (fun x => decide ((10 * s.tripAt : Int) < x)) = true → Sys2Proof.Machine.exec (.thermalSample r) s = .next ((s.selfFence 1).railsOff .tripped true)) ∧
  (∀ (s : State) (r : Readings), s.pwr.phase = .running → (r.dies ++ [r.hbm, r.stage]).all (fun x => decide (x ≤ (10 * s.tripAt : Int))) = true → (10 * s.throtAt : Int) < r.dies.getD 0 0 → (List.range 3).all (fun d => decide (r.dies.getD (d + 1) 0 ≤ (10 * s.throtAt : Int))) = true → s.pwr.throt = 0 → ∃ u, Sys2Proof.Machine.exec (.thermalSample r) s = .next u ∧ (u.pwr = { s.pwr with throt := 1, coolAt := none }) ∧ (u = { s with pwr := u.pwr, regs := { s.regs with evtRaw := u.regs.evtRaw, evtPend := u.regs.evtPend, pba := u.regs.pba }, out := u.out }) ∧ (∀ q, pageKey q ≠ pageKey (pgPwr) → u.evtRaw q = s.evtRaw q ∧ u.evtPend q = s.evtPend q)) ∧
  (∀ (s : State) (r : Readings) (t : Nat), s.pwr.phase = .running → (r.dies ++ [r.hbm, r.stage]).all (fun x => decide (x ≤ (10 * s.tripAt : Int))) = true → (List.range 4).all (fun d => decide (r.dies.getD d 0 < 10 * ((s.throtAt : Int) - 5))) = true → s.pwr.coolAt = some t ∧ t + 10000000 ≤ s.now → ∃ u, Sys2Proof.Machine.exec (.thermalSample r) s = .next u ∧ (u.pwr = { s.pwr with throt := 0 }) ∧ (u = { s with pwr := u.pwr, regs := { s.regs with evtRaw := u.regs.evtRaw, evtPend := u.regs.evtPend, pba := u.regs.pba }, out := u.out }) ∧ (∀ q, pageKey q ≠ pageKey (pgPwr) → u.evtRaw q = s.evtRaw q ∧ u.evtPend q = s.evtPend q)) ∧
  (∀ (s : State) (r : Readings), s.pwr.phase = .standby ∨ s.pwr.phase = .tripped → Sys2Proof.Machine.exec (.thermalSample r) s = .next s) ∧
  (∀ (s : State), s.pwr.phase = .running → Sys2Proof.Machine.exec (.inputFault) s = .next ((s.selfFence 1).railsOff .tripped false)) ∧
  (∀ (s : State), s.pwr.phase = .starting ∨ s.pwr.phase = .standby → Sys2Proof.Machine.exec (.inputFault) s = .next (s.railsOff .standby false)) ∧
  (∀ (s : State), s.pwr.phase = .tripped → Sys2Proof.Machine.exec (.inputFault) s = .next s) ∧
  (∀ (s : State), s.pwr.phase = .running ∨ s.pwr.phase = .starting → Sys2Proof.Machine.exec (.powerStageFault) s = .next ((s.selfFence 1).railsOff .tripped false)) ∧
  (∀ (s : State), s.pwr.phase = .standby ∨ s.pwr.phase = .tripped → Sys2Proof.Machine.exec (.powerStageFault) s = .next s) ∧
  (∀ (s : State) (p : Pll), s.pwr.phase = .running → p = .arith ∨ p = .hbm ∨ p = .time → Sys2Proof.Machine.exec (.pllLockLoss p) s = .next (s.selfFence 1)) ∧
  (∀ (s : State) (k : CkxPort), s.pwr.phase = .running → (s.port k.val).state = .up ∨ (s.port k.val).state = .training → Sys2Proof.Machine.exec (.pllLockLoss (.ckx k)) s = .next (s.linkDown k.val)) ∧
  (∀ (s : State) (e : EthPort), s.pwr.phase = .running → Sys2Proof.Machine.exec (.pllLockLoss (.eth e)) s = .next (foldN 8 (fun sub t => t.subDown e.val sub) s)) ∧
  (∀ (s : State) (p : Pll), s.pwr.phase ≠ .running → Sys2Proof.Machine.exec (.pllLockLoss p) s = .next s) ∧
  (∀ (s : State), s.pwr.phase = .running → Sys2Proof.Machine.exec (.pllLockLoss .cxl) s = .next s.cxlReset)

/-- LOGIC and MEMORY start only while no cell, instance or package stands and the module is in no group, else they post CONFIG_INVALID; a command while a test runs is ignored and counted. TILE takes only a SUSPECT tile at rest. At its end a LOGIC or MEMORY test records the dies that passed and failed; a tile test passes when its signature is the one expected, and scrubs the tile. An arm is refused beside a live instance or out of range; DISARM clears the point. Selecting a counter latches its value, 0 for one that the page does not define. DUMP writes every counter of the page and CLR clears them, the dump first. A JTAG instruction stands in its TAP; EXTEST, CLAMP and HIGHZ act only under MOD_TEST. -/
def Obligations.BuiltInTestAndCounters : Prop :=
  (∀ (s : State) (v : Word), s.pwr.phase = .running → s.recMode = 0 → fld v 1 0 = 1 → s.bist.test = none → s.bistAllowed = true → Sys2Proof.Machine.exec (.logic v) s = .next (({ (foldS (s.mems.canopy.filter (fun c => dieIn (fld v 7 2) c.die && c.dirty)) (fun c t => t.heatUp c.page) s) with mems := { (foldS (s.mems.canopy.filter (fun c => dieIn (fld v 7 2) c.die && c.dirty)) (fun c t => t.heatUp c.page) s).mems with canopy := (foldS (s.mems.canopy.filter (fun c => dieIn (fld v 7 2) c.die && c.dirty)) (fun c t => t.heatUp c.page) s).mems.canopy.filter (fun c => !dieIn (fld v 7 2) c.die) }, bist := { (foldS (s.mems.canopy.filter (fun c => dieIn (fld v 7 2) c.die && c.dirty)) (fun c t => t.heatUp c.page) s).bist with status := .ok, pass := false, test := some (.logic (fld v 7 2)) } } : State).bistPorts (fld v 7 2))) ∧
  (∀ (s : State) (v : Word), s.pwr.phase = .running → s.recMode = 0 → fld v 1 0 = 1 → s.bist.test = none → s.bistAllowed = false → Sys2Proof.Machine.exec (.logic v) s = .next { s with bist := { s.bist with status := .configInvalid } }) ∧
  (∀ (s : State) (v : Word), s.pwr.phase = .running → s.recMode = 0 → fld v 1 0 = 1 → s.bist.test ≠ none → Sys2Proof.Machine.exec (.logic v) s = .next (s.ignored pgBist)) ∧
  (∀ (s : State) (v : Word), s.pwr.phase = .running → s.recMode = 0 → fld v 1 0 = 2 → s.bist.test = none → s.bistAllowed = true → Sys2Proof.Machine.exec (.memory v) s = .next (({ (foldS (s.mems.canopy.filter (fun c => dieIn (fld v 7 2) c.die && c.dirty)) (fun c t => t.heatUp c.page) s) with mems := { (foldS (s.mems.canopy.filter (fun c => dieIn (fld v 7 2) c.die && c.dirty)) (fun c t => t.heatUp c.page) s).mems with canopy := (foldS (s.mems.canopy.filter (fun c => dieIn (fld v 7 2) c.die && c.dirty)) (fun c t => t.heatUp c.page) s).mems.canopy.filter (fun c => !dieIn (fld v 7 2) c.die) }, bist := { (foldS (s.mems.canopy.filter (fun c => dieIn (fld v 7 2) c.die && c.dirty)) (fun c t => t.heatUp c.page) s).bist with status := .ok, pass := false, test := some (.memory (fld v 7 2)) } } : State).bistPorts (fld v 7 2))) ∧
  (∀ (s : State) (v : Word), s.pwr.phase = .running → s.recMode = 0 → fld v 1 0 = 2 → s.bist.test = none → s.bistAllowed = false → Sys2Proof.Machine.exec (.memory v) s = .next { s with bist := { s.bist with status := .configInvalid } }) ∧
  (∀ (s : State) (v : Word), s.pwr.phase = .running → s.recMode = 0 → fld v 1 0 = 2 → s.bist.test ≠ none → Sys2Proof.Machine.exec (.memory v) s = .next (s.ignored pgBist)) ∧
  (∀ (s : State) (v : Word), s.pwr.phase = .running → s.recMode = 0 → fld v 1 0 = 3 → s.bist.test = none → (s.tile (fld v 17 8)).suspect = true ∧ (s.tile (fld v 17 8)).queue = [] ∧ (s.tile (fld v 17 8)).held = false → (s.tile (fld v 17 8)).sched = .none ∨ (s.tile (fld v 17 8)).sched = .floor → Sys2Proof.Machine.exec (.tileBist v) s = .next { s with bist := { s.bist with status := .ok, pass := false, test := some (.tile (fld v 17 8)) }, tiles := s.tiles.set (fld v 17 8) { s.tile (fld v 17 8) with testing := true, testPass := false } }) ∧
  (∀ (s : State) (v : Word), s.pwr.phase = .running → s.recMode = 0 → fld v 1 0 = 3 → s.bist.test = none → (s.tile (fld v 17 8)).suspect = false ∨ (s.tile (fld v 17 8)).queue ≠ [] ∨ (s.tile (fld v 17 8)).held = true ∨ (s.tile (fld v 17 8)).sched ≠ .none ∧ (s.tile (fld v 17 8)).sched ≠ .floor → Sys2Proof.Machine.exec (.tileBist v) s = .next { s with bist := { s.bist with status := .configInvalid } }) ∧
  (∀ (s : State) (r : BistResult), s.bist.test = none → Sys2Proof.Machine.exec (.bistDone r) s = .next s) ∧
  (∀ (s : State) (r : BistResult) (t : Nat), s.bist.test = some (.tile t) → ∃ u, Sys2Proof.Machine.exec (.bistDone r) s = .next u ∧ (u.tile t = { (s.tile t).cleared with testPass := decide (wAt r.sigs 0 = 0x3E5D9B12) }) ∧ (u.bist = { s.bist with test := none, pass := decide (wAt r.sigs 0 = 0x3E5D9B12), tsig := wAt r.sigs 0 }) ∧ (u = { s with tiles := s.tiles.set t (u.tile t), bist := u.bist, regs := { s.regs with evtRaw := u.regs.evtRaw, evtPend := u.regs.evtPend, pba := u.regs.pba }, out := u.out }) ∧ (∀ q, pageKey q ≠ pageKey (pgBist) → u.evtRaw q = s.evtRaw q ∧ u.evtPend q = s.evtPend q)) ∧
  (∀ (s : State) (r : BistResult) (m : Nat), s.bist.test = some (.logic m) → m = 63 → (List.range 6).all (fun d => decide (wAt r.sigs d = expectSig d)) = true → ∃ u, Sys2Proof.Machine.exec (.bistDone r) s = .next u ∧ (u.bist.logicOk = s.bist.logicOk ||| 63 ∧ u.bist.pass = true ∧ u.bist.dieFail = 0 ∧ u.bist.test = none) ∧ (u.bist.memOk = s.bist.memOk ∧ u.mem = s.mem ∧ u.fbk = s.fbk ∧ u.time = s.time ∧ u.insts = s.insts)) ∧
  (∀ (s : State) (r : BistResult) (d : Fin 6), s.bist.test = some (.memory 63) → r.dieFail = [d.val] ∧ r.tileFail = [] → ∃ u, Sys2Proof.Machine.exec (.bistDone r) s = .next u ∧ (u.bist.dieFail = 2 ^ d.val ∧ u.bist.pass = false ∧ u.bist.test = none ∧ u.bist.failArray = r.array % 4096 ∧ u.bist.failWord = r.word % 2 ^ 20) ∧ (u.bist.logicOk = s.bist.logicOk ∧ u.mem = s.mem ∧ u.fbk = s.fbk ∧ u.time = s.time ∧ u.insts = s.insts)) ∧
  (∀ (s : State) (m : Nat), m < 16 → s.bistPorts m = s) ∧
  (∀ (s : State) (d t : Nat), t / 256 = d → (s.bistScrub d).tile t = (s.tile t).cleared ∨ s.tiles.find t = none) ∧
  (∀ (s : State) (v : Word), s.pwr.phase = .running → s.recMode = 0 → bitOf v 5 = false → s.tenantsLive = false → injOk (fld v 3 0) (fld v 17 8) (s.reg pgBist 0x114).toNat = true → Sys2Proof.Machine.exec (.injectionArm v) s = .next { s with bist := { s.bist with injStat := .ok, inj := s.bist.inj.set (fld v 3 0) { every := bitOf v 4, target := fld v 17 8, arg := (s.reg pgBist 0x114).toNat } } }) ∧
  (∀ (s : State) (v : Word), s.pwr.phase = .running → s.recMode = 0 → bitOf v 5 = false → s.tenantsLive = true ∨ injOk (fld v 3 0) (fld v 17 8) (s.reg pgBist 0x114).toNat = false → Sys2Proof.Machine.exec (.injectionArm v) s = .next { s with bist := { s.bist with injStat := .configInvalid } }) ∧
  (∀ (t a : Nat), (injOk 1 t a = true ↔ t < 1024 ∧ a < 2 ^ 18) ∧ (injOk 3 t a = true ↔ t < 24 ∧ a < 2) ∧ (injOk 5 t a = true ↔ t < 12) ∧ (injOk 7 t a = true ↔ t < 16 ∧ a = 0xA5) ∧ injOk 0 t a = false) ∧
  (∀ (s : State) (v : Word), s.pwr.phase = .running → s.recMode = 0 → bitOf v 5 = true → Sys2Proof.Machine.exec (.injectionDisarm v) s = .next { s with bist := { s.bist with inj := s.bist.inj.erase (fld v 3 0) } }) ∧
  (∀ (s : State) (k : Fin 10), fld (s.reg pgBist (0x0C0 + 4 * k.val)) 19 0 ≠ 0 → s.tenantsLive = true → s.bistCommit = { s with bist := { s.bist with pertStat := .configInvalid } }) ∧
  (∀ (s : State) (v : Word) (p : Page), s.pwr.phase = .running → s.recMode = 0 → pageOfId (s.reg pgBist 0x118) = some p → ∃ u, Sys2Proof.Machine.exec (.scalerSelect v) s = .next u ∧ (u.bist = { s.bist with selPage := s.reg pgBist 0x118, selIdx := fld v 12 0, ready := true, val := w32 (s.scalRead p (fld v 12 0)) }) ∧ (u.reg pgBist 0x11C = v &&& 0x1FFF) ∧ (u = { s with bist := u.bist, regs := { s.regs with raw := u.regs.raw } })) ∧
  (∀ (s : State) (v : Word), s.pwr.phase = .running → s.recMode = 0 → pageOfId (s.reg pgBist 0x118) = none → ∃ u, Sys2Proof.Machine.exec (.scalerSelect v) s = .next u ∧ (u.bist = { s.bist with selPage := s.reg pgBist 0x118, selIdx := fld v 12 0, ready := true, val := 0 }) ∧ (u = { s with bist := u.bist, regs := { s.regs with raw := u.regs.raw } })) ∧
  (∀ (s : State) (p : Page) (i : Nat), scalCount p ≤ i → s.scalRead p i = 0) ∧
  (∀ (s : State) (v : Word) (p : Page), s.pwr.phase = .running → s.recMode = 0 → bitOf v 1 = true ∧ bitOf v 0 = false → pageOfId (s.reg pgBist 0x118) = some p → ∃ u, Sys2Proof.Machine.exec (.clr v) s = .next u ∧ (∀ i, i < 65536 → u.scaler p i = 0) ∧ (∀ q i, i < 65536 → scalKey q 0 ≠ scalKey p 0 → u.scaler q i = s.scaler q i) ∧ (u = { s with regs := { s.regs with scal := u.regs.scal } })) ∧
  (∀ (s : State) (v : Word) (p : Page), s.pwr.phase = .running → s.recMode = 0 → bitOf v 0 = true ∧ bitOf v 1 = false → pageOfId (s.reg pgBist 0x118) = some p → Sys2Proof.Machine.exec (.dump v) s = .next (((s.storeDev .dom0 (fld (s.reg pgBist 0x120) 31 2 * 4 + 2 ^ 32 * fld (s.reg pgBist 0x124) 15 0) (bytesOf ((List.range (scalCount p)).map (fun i => w32 (s.scalRead p i))))).2).pulse pgBist 1)) ∧
  (∀ (s : State) (t : Fin 6) (i : JtagIr), i = .bypass ∨ i = .idcode ∨ i = .sample ∨ s.pwr.modTest = true → Sys2Proof.Machine.exec (.jtagInstruction t i) s = .next { s with jtag := { irs := s.jtag.irs.set t.val i } }) ∧
  (∀ (s : State) (t : Fin 6) (i : JtagIr), i = .extest ∨ i = .clamp ∨ i = .highz → s.pwr.modTest = false → Sys2Proof.Machine.exec (.jtagInstruction t i) s = .next { s with jtag := { irs := s.jtag.irs.set t.val .bypass } })

/-- At State.reset no command waits, every map unit but the floor granules is not VALID and those belong to domain 0, every non-floor grove is parked, the time base is 0 with TIME_INCR of 1 ns, no instance, cell, context, region or package exists, memory lists nothing and is in canonical form, the liveness state is NONE, and PWR_STATUS reports step 8 without failure and RADIO_ONLY. Of the values below, those of states that the rules leave open are the model's (log entries 6 and 40). -/
def Obligations.ResetState : Prop :=
  (State.reset.pending = [] ∧ Memory.wf State.reset.mem = true ∧ State.reset.mem = []) ∧
  (∀ (g : Fin 64), State.reset.owner g.val = (if g.val ∈ [0, 1, 16, 17, 32, 33, 48, 49] then some 0 else none)) ∧
  (∀ (u : Nat), 64 ≤ u → State.reset.owner u = none) ∧
  (∀ (g : Fin 32), (State.reset.grove g.val).parked = decide (g.val % 8 ≠ 0)) ∧
  (State.reset.time.ns = 0 ∧ State.reset.time.frac = 0 ∧ State.reset.time.incr = 0x10000000 ∧ State.reset.recMode = 0) ∧
  (State.reset.insts = [] ∧ State.reset.cells = [] ∧ State.reset.ctxs = [] ∧ State.reset.fabric.regions = [] ∧ State.reset.seed.pkgs = [] ∧ State.reset.lv.state = .none ∧ State.reset.arr = []) ∧
  (State.reset.powerCode = 5 ∧ State.reset.pwr.step = 8 ∧ State.reset.pwr.fail = 0 ∧ State.reset.readReg pgPwr 0x048 = 0xFEFEFEFE ∧ State.reset.readReg pgPwr 0x010 = 0x7369)

/-- From every state, with any command in front or none, one step answers a next state, and so does exec of every command, whatever its operands, at every state: no command of the module ends in a fault or a refusal. The rules give every command an effect, if only that it is ignored or counted (log entry 5). -/
def Obligations.EveryStepCompletes : Prop :=
  (∀ s : State, ∃ t, step s = .next t) ∧ ∀ (i : Instr) (s : State), ∃ t, exec i s = .next t

/-- From every state, the next state's queue is the queue without its front command, or empty when it was empty: no command adds, drops or reorders waiting commands, resets included. The queue is the model's own (log entry 2). -/
def Obligations.QueueIsFirstInFirstOut : Prop :=
  ∀ s t : State, step s = .next t → t.pending = s.pending.tail

/-- From every state whose memory lists rising addresses and no byte equal to what an unlisted address reads as, every step answers a state whose memory does too. The form is the model's own. -/
def Obligations.MemoryStaysCanonical : Prop :=
  ∀ s t : State, s.memOk → step s = .next t → t.memOk
end

