-- ==== Sys2Proof/Laws/Table.lean ====
section
/-! SUPPORT. Laws of sparse tables and of byte memory: a read after a write, and the canonical form that every memory operation keeps. -/

namespace Sys2Proof.Machine

variable {α : Type}

/-! Tables. -/

@[simp] theorem Table.find_nil (k : Nat) : Table.find k ([] : Table α) = none := rfl

@[simp] theorem Table.find_set_self (k : Nat) (v : α) (t : Table α) : Table.find k (Table.set k v t) = some v := by
  induction t with
  | nil => simp [Table.set, Table.find]
  | cons p t ih =>
    obtain ⟨a, x⟩ := p
    simp only [Table.set]
    split
    · simp [Table.find]
    · split
      · simp [Table.find]
      · rename_i h1 h2
        simp [Table.find, Ne.symm h2, ih]

theorem Table.find_set_ne {k j : Nat} (h : j ≠ k) (v : α) (t : Table α) : Table.find j (Table.set k v t) = Table.find j t := by
  induction t with
  | nil => simp [Table.set, Table.find, Ne.symm h]
  | cons p t ih =>
    obtain ⟨a, x⟩ := p
    simp only [Table.set]
    split
    · simp [Table.find, Ne.symm h]
    · split
      · rename_i h1 h2
        subst h2
        simp [Table.find, Ne.symm h]
      · simp only [Table.find, ih]

@[simp] theorem Table.get_nil (d : α) (k : Nat) : Table.get d ([] : Table α) k = d := rfl

@[simp] theorem Table.get_set_self (d : α) (k : Nat) (v : α) (t : Table α) : Table.get d (Table.set k v t) k = v := by
  simp [Table.get]

theorem Table.get_set_ne {k j : Nat} (h : j ≠ k) (d v : α) (t : Table α) : Table.get d (Table.set k v t) j = Table.get d t j := by
  simp [Table.get, Table.find_set_ne h]

@[simp] theorem Table.set_set (k : Nat) (v w : α) (t : Table α) : Table.set k w (Table.set k v t) = Table.set k w t := by
  induction t with
  | nil => simp [Table.set]
  | cons p t ih =>
    obtain ⟨a, x⟩ := p
    by_cases h1 : k < a
    · simp [Table.set, h1]
    · by_cases h2 : k = a
      · subst h2
        simp [Table.set]
      · simp [Table.set, h1, h2, ih]

theorem Table.find_none_of_lt {k : Nat} {p : Nat × α} {t : Table α} (hs : Table.sorted (p :: t) = true) (h : k ≤ p.1) :
    Table.find k t = none := by
  induction t generalizing p with
  | nil => rfl
  | cons q t ih =>
    obtain ⟨a, x⟩ := p
    obtain ⟨b, y⟩ := q
    simp only [Table.sorted, Bool.and_eq_true, decide_eq_true_eq] at hs
    have hb : k < b := Nat.lt_of_le_of_lt h hs.1
    simp only [Table.find, Nat.ne_of_gt hb, if_false]
    exact ih hs.2 (Nat.le_of_lt hb)

theorem Table.sorted_tail {p : Nat × α} {t : Table α} (h : Table.sorted (p :: t) = true) : Table.sorted t = true := by
  cases t with
  | nil => rfl
  | cons q t =>
    obtain ⟨a, x⟩ := p
    obtain ⟨b, y⟩ := q
    simp only [Table.sorted, Bool.and_eq_true] at h
    exact h.2

/-- In a rising table the head lies below every key of the tail. -/
theorem Table.lt_of_mem {p q : Nat × α} {t : Table α} (h : Table.sorted (p :: t) = true) (hq : q ∈ t) : p.1 < q.1 := by
  induction t generalizing p with
  | nil => cases hq
  | cons r t ih =>
    obtain ⟨a, x⟩ := p
    obtain ⟨b, y⟩ := r
    simp only [Table.sorted, Bool.and_eq_true, decide_eq_true_eq] at h
    cases hq with
    | head => exact h.1
    | tail _ hq => exact Nat.lt_trans h.1 (ih h.2 hq)

theorem Table.sorted_cons_of {p : Nat × α} {t : Table α} (ht : Table.sorted t = true) (h : ∀ q ∈ t, p.1 < q.1) :
    Table.sorted (p :: t) = true := by
  cases t with
  | nil => rfl
  | cons q t =>
    obtain ⟨a, x⟩ := p
    obtain ⟨b, y⟩ := q
    simp only [Table.sorted, Bool.and_eq_true, decide_eq_true_eq]
    exact ⟨h (b, y) (List.mem_cons_self ..), ht⟩

theorem Table.mem_set {k : Nat} {v : α} {t : Table α} {q : Nat × α} (h : q ∈ Table.set k v t) : q = (k, v) ∨ q ∈ t := by
  induction t with
  | nil => simpa [Table.set] using h
  | cons p t ih =>
    obtain ⟨a, x⟩ := p
    simp only [Table.set] at h
    split at h
    · simpa using h
    · split at h
      · rcases List.mem_cons.1 h with h | h
        · exact Or.inl h
        · exact Or.inr (List.mem_cons_of_mem _ h)
      · rcases List.mem_cons.1 h with h | h
        · exact Or.inr (h ▸ List.mem_cons_self ..)
        · rcases ih h with h | h
          · exact Or.inl h
          · exact Or.inr (List.mem_cons_of_mem _ h)

/-- A write of a table keeps its keys rising. -/
theorem Table.sorted_set {k : Nat} {v : α} {t : Table α} (h : Table.sorted t = true) : Table.sorted (Table.set k v t) = true := by
  induction t with
  | nil => rfl
  | cons p t ih =>
    obtain ⟨a, x⟩ := p
    have ht := Table.sorted_tail h
    simp only [Table.set]
    split
    · rename_i hk
      refine Table.sorted_cons_of h (fun q hq => ?_)
      rcases List.mem_cons.1 hq with hq | hq
      · exact hq ▸ hk
      · exact Nat.lt_trans hk (Table.lt_of_mem h hq)
    · split
      · rename_i hk
        subst hk
        exact Table.sorted_cons_of ht (fun q hq => (Table.lt_of_mem h hq : k < q.1))
      · rename_i h1 h2
        refine Table.sorted_cons_of (ih ht) (fun q hq => ?_)
        rcases Table.mem_set hq with hq | hq
        · subst hq
          exact Nat.lt_of_le_of_ne (Nat.le_of_not_lt h1) (Ne.symm h2)
        · exact Table.lt_of_mem h hq

/-! Byte memory. -/

theorem Memory.mem_write {a : Nat} {b : Byte} {m : Memory} {q : Nat × Byte} (h : q ∈ Memory.write a b m) :
    (q = (a, b) ∧ b ≠ 0#8) ∨ q ∈ m := by
  induction m with
  | nil =>
    simp only [Memory.write] at h
    split at h
    · cases h
    · rename_i hb
      exact Or.inl ⟨by simpa using h, hb⟩
  | cons p t ih =>
    obtain ⟨c, x⟩ := p
    simp only [Memory.write] at h
    split at h
    · split at h
      · exact Or.inr h
      · rename_i hb
        rcases List.mem_cons.1 h with h | h
        · exact Or.inl ⟨h, hb⟩
        · exact Or.inr h
    · split at h
      · split at h
        · exact Or.inr (List.mem_cons_of_mem _ h)
        · rename_i hb
          rcases List.mem_cons.1 h with h | h
          · exact Or.inl ⟨h, hb⟩
          · exact Or.inr (List.mem_cons_of_mem _ h)
      · rcases List.mem_cons.1 h with h | h
        · exact Or.inr (h ▸ List.mem_cons_self ..)
        · rcases ih h with h | h
          · exact Or.inl h
          · exact Or.inr (List.mem_cons_of_mem _ h)

theorem Memory.sorted_write {a : Nat} {b : Byte} {m : Memory} (h : Table.sorted m = true) :
    Table.sorted (Memory.write a b m) = true := by
  induction m with
  | nil => simp only [Memory.write]; split <;> rfl
  | cons p t ih =>
    obtain ⟨c, x⟩ := p
    have ht := Table.sorted_tail h
    simp only [Memory.write]
    split
    · rename_i hk
      split
      · exact h
      · refine Table.sorted_cons_of h (fun q hq => ?_)
        rcases List.mem_cons.1 hq with hq | hq
        · exact hq ▸ hk
        · exact Nat.lt_trans hk (Table.lt_of_mem h hq)
    · split
      · rename_i hk
        split
        · exact ht
        · subst hk
          exact Table.sorted_cons_of ht (fun q hq => (Table.lt_of_mem h hq : a < q.1))
      · rename_i h1 h2
        refine Table.sorted_cons_of (ih ht) (fun q hq => ?_)
        rcases Memory.mem_write hq with ⟨hq, _⟩ | hq
        · subst hq
          exact Nat.lt_of_le_of_ne (Nat.le_of_not_lt h1) (Ne.symm h2)
        · exact Table.lt_of_mem h hq

theorem Memory.wf_iff {m : Memory} : Memory.wf m = true ↔ Table.sorted m = true ∧ ∀ p ∈ m, p.2 ≠ 0#8 := by
  simp [Memory.wf]

/-- The empty memory is in canonical form. -/
@[simp] theorem Memory.wf_nil : Memory.wf [] = true := rfl

/-- A byte write keeps the canonical form. -/
theorem Memory.wf_write {a : Nat} {b : Byte} {m : Memory} (h : Memory.wf m = true) : Memory.wf (Memory.write a b m) = true := by
  rw [Memory.wf_iff] at h ⊢
  refine ⟨Memory.sorted_write h.1, fun p hp => ?_⟩
  rcases Memory.mem_write hp with ⟨hp, hb⟩ | hp
  · exact hp ▸ hb
  · exact h.2 p hp

/-- A write of several bytes keeps the canonical form. -/
theorem Memory.wf_writeN {a : Nat} {bs : List Byte} {m : Memory} (h : Memory.wf m = true) : Memory.wf (Memory.writeN a bs m) = true := by
  induction bs generalizing a m with
  | nil => exact h
  | cons b bs ih => exact ih (Memory.wf_write h)

theorem Table.sorted_filter {f : Nat × α → Bool} {t : Table α} (h : Table.sorted t = true) : Table.sorted (t.filter f) = true := by
  induction t with
  | nil => rfl
  | cons p t ih =>
    have ht := ih (Table.sorted_tail h)
    simp only [List.filter]
    split
    · exact Table.sorted_cons_of ht (fun q hq => Table.lt_of_mem h (List.mem_of_mem_filter hq))
    · exact ht

/-- Bytes left out leave the canonical form. -/
theorem Memory.wf_filter {f : Nat × Byte → Bool} {m : Memory} (h : Memory.wf m = true) : Memory.wf (m.filter f) = true := by
  rw [Memory.wf_iff] at h ⊢
  exact ⟨Table.sorted_filter h.1, fun p hp => h.2 p (List.mem_of_mem_filter hp)⟩

/-- A cleared range keeps the canonical form. -/
theorem Memory.wf_clear {lo hi : Nat} {m : Memory} (h : Memory.wf m = true) : Memory.wf (Memory.clear lo hi m) = true :=
  Memory.wf_filter h

/-- A byte read after a write elsewhere is the old one. -/
theorem Memory.read_write_ne {a c : Nat} (hc : c ≠ a) {b : Byte} {m : Memory} (h : Memory.wf m = true) :
    (Memory.write a b m).read c = m.read c := by
  replace h := (Memory.wf_iff.1 h).1
  simp only [Memory.read, Table.get]
  induction m with
  | nil =>
    simp only [Memory.write]
    split <;> simp [Table.find, Ne.symm hc]
  | cons p t ih =>
    obtain ⟨d, x⟩ := p
    simp only [Memory.write]
    split
    · split
      · rfl
      · simp [Table.find, Ne.symm hc]
    · split
      · rename_i hk
        subst hk
        split <;> simp [Table.find, Ne.symm hc]
      · simp only [Table.find]
        split
        · rfl
        · exact ih (Table.sorted_tail h)

/-- A byte read back after its write. -/
theorem Memory.read_write_self {a : Nat} {b : Byte} {m : Memory} (h : Memory.wf m = true) : (Memory.write a b m).read a = b := by
  replace h := (Memory.wf_iff.1 h).1
  simp only [Memory.read, Table.get]
  induction m with
  | nil =>
    simp only [Memory.write]
    split
    · rename_i hb; simp [Table.find, hb]
    · simp [Table.find]
  | cons p t ih =>
    obtain ⟨d, x⟩ := p
    simp only [Memory.write]
    split
    · rename_i hk
      split
      · rename_i hb
        simp only [Table.find, Nat.ne_of_gt hk, if_false]
        rw [Table.find_none_of_lt h (Nat.le_of_lt hk)]
        exact hb.symm
      · simp [Table.find]
    · split
      · rename_i hk
        subst hk
        split
        · rename_i hb
          rw [Table.find_none_of_lt h (Nat.le_refl _)]
          exact hb.symm
        · simp [Table.find]
      · rename_i h1 h2
        simp only [Table.find, Ne.symm h2, if_false]
        exact ih (Table.sorted_tail h)

end Sys2Proof.Machine
end

