-- ==== Sys2Proof/Laws/State.lean ====
section
/-! SUPPORT. What each update of the state leaves alone, field by field, and what it stores. -/

namespace Sys2Proof.Machine

variable (s : State)

/-! setTile writes tiles only. -/

@[simp] theorem State.setTile_pending (t : Nat) (x : Tile) : (s.setTile t x).pending = s.pending := rfl
@[simp] theorem State.setTile_fresh (t : Nat) (x : Tile) : (s.setTile t x).fresh = s.fresh := rfl
@[simp] theorem State.setTile_out (t : Nat) (x : Tile) : (s.setTile t x).out = s.out := rfl
@[simp] theorem State.setTile_ac (t : Nat) (x : Tile) : (s.setTile t x).ac = s.ac := rfl
@[simp] theorem State.setTile_regs (t : Nat) (x : Tile) : (s.setTile t x).regs = s.regs := rfl
@[simp] theorem State.setTile_mem (t : Nat) (x : Tile) : (s.setTile t x).mem = s.mem := rfl
@[simp] theorem State.setTile_mems (t : Nat) (x : Tile) : (s.setTile t x).mems = s.mems := rfl
@[simp] theorem State.setTile_groves (t : Nat) (x : Tile) : (s.setTile t x).groves = s.groves := rfl
@[simp] theorem State.setTile_lanes (t : Nat) (x : Tile) : (s.setTile t x).lanes = s.lanes := rfl
@[simp] theorem State.setTile_cells (t : Nat) (x : Tile) : (s.setTile t x).cells = s.cells := rfl
@[simp] theorem State.setTile_mirrors (t : Nat) (x : Tile) : (s.setTile t x).mirrors = s.mirrors := rfl
@[simp] theorem State.setTile_scheds (t : Nat) (x : Tile) : (s.setTile t x).scheds = s.scheds := rfl
@[simp] theorem State.setTile_coord (t : Nat) (x : Tile) : (s.setTile t x).coord = s.coord := rfl
@[simp] theorem State.setTile_codeSeq (t : Nat) (x : Tile) : (s.setTile t x).codeSeq = s.codeSeq := rfl
@[simp] theorem State.setTile_insts (t : Nat) (x : Tile) : (s.setTile t x).insts = s.insts := rfl
@[simp] theorem State.setTile_ctxs (t : Nat) (x : Tile) : (s.setTile t x).ctxs = s.ctxs := rfl
@[simp] theorem State.setTile_fbk (t : Nat) (x : Tile) : (s.setTile t x).fbk = s.fbk := rfl
@[simp] theorem State.setTile_arr (t : Nat) (x : Tile) : (s.setTile t x).arr = s.arr := rfl
@[simp] theorem State.setTile_arb (t : Nat) (x : Tile) : (s.setTile t x).arb = s.arb := rfl
@[simp] theorem State.setTile_shape (t : Nat) (x : Tile) : (s.setTile t x).shape = s.shape := rfl
@[simp] theorem State.setTile_time (t : Nat) (x : Tile) : (s.setTile t x).time = s.time := rfl
@[simp] theorem State.setTile_recd (t : Nat) (x : Tile) : (s.setTile t x).recd = s.recd := rfl
@[simp] theorem State.setTile_chks (t : Nat) (x : Tile) : (s.setTile t x).chks = s.chks := rfl
@[simp] theorem State.setTile_fabric (t : Nat) (x : Tile) : (s.setTile t x).fabric = s.fabric := rfl
@[simp] theorem State.setTile_eth (t : Nat) (x : Tile) : (s.setTile t x).eth = s.eth := rfl
@[simp] theorem State.setTile_cxl (t : Nat) (x : Tile) : (s.setTile t x).cxl = s.cxl := rfl
@[simp] theorem State.setTile_i3c (t : Nat) (x : Tile) : (s.setTile t x).i3c = s.i3c := rfl
@[simp] theorem State.setTile_seed (t : Nat) (x : Tile) : (s.setTile t x).seed = s.seed := rfl
@[simp] theorem State.setTile_pwr (t : Nat) (x : Tile) : (s.setTile t x).pwr = s.pwr := rfl
@[simp] theorem State.setTile_bist (t : Nat) (x : Tile) : (s.setTile t x).bist = s.bist := rfl
@[simp] theorem State.setTile_jtag (t : Nat) (x : Tile) : (s.setTile t x).jtag = s.jtag := rfl

/-! setGrove writes groves only. -/

@[simp] theorem State.setGrove_pending (g : Nat) (x : Grove) : (s.setGrove g x).pending = s.pending := rfl
@[simp] theorem State.setGrove_fresh (g : Nat) (x : Grove) : (s.setGrove g x).fresh = s.fresh := rfl
@[simp] theorem State.setGrove_out (g : Nat) (x : Grove) : (s.setGrove g x).out = s.out := rfl
@[simp] theorem State.setGrove_ac (g : Nat) (x : Grove) : (s.setGrove g x).ac = s.ac := rfl
@[simp] theorem State.setGrove_regs (g : Nat) (x : Grove) : (s.setGrove g x).regs = s.regs := rfl
@[simp] theorem State.setGrove_mem (g : Nat) (x : Grove) : (s.setGrove g x).mem = s.mem := rfl
@[simp] theorem State.setGrove_mems (g : Nat) (x : Grove) : (s.setGrove g x).mems = s.mems := rfl
@[simp] theorem State.setGrove_tiles (g : Nat) (x : Grove) : (s.setGrove g x).tiles = s.tiles := rfl
@[simp] theorem State.setGrove_lanes (g : Nat) (x : Grove) : (s.setGrove g x).lanes = s.lanes := rfl
@[simp] theorem State.setGrove_cells (g : Nat) (x : Grove) : (s.setGrove g x).cells = s.cells := rfl
@[simp] theorem State.setGrove_mirrors (g : Nat) (x : Grove) : (s.setGrove g x).mirrors = s.mirrors := rfl
@[simp] theorem State.setGrove_scheds (g : Nat) (x : Grove) : (s.setGrove g x).scheds = s.scheds := rfl
@[simp] theorem State.setGrove_coord (g : Nat) (x : Grove) : (s.setGrove g x).coord = s.coord := rfl
@[simp] theorem State.setGrove_codeSeq (g : Nat) (x : Grove) : (s.setGrove g x).codeSeq = s.codeSeq := rfl
@[simp] theorem State.setGrove_insts (g : Nat) (x : Grove) : (s.setGrove g x).insts = s.insts := rfl
@[simp] theorem State.setGrove_ctxs (g : Nat) (x : Grove) : (s.setGrove g x).ctxs = s.ctxs := rfl
@[simp] theorem State.setGrove_fbk (g : Nat) (x : Grove) : (s.setGrove g x).fbk = s.fbk := rfl
@[simp] theorem State.setGrove_arr (g : Nat) (x : Grove) : (s.setGrove g x).arr = s.arr := rfl
@[simp] theorem State.setGrove_arb (g : Nat) (x : Grove) : (s.setGrove g x).arb = s.arb := rfl
@[simp] theorem State.setGrove_shape (g : Nat) (x : Grove) : (s.setGrove g x).shape = s.shape := rfl
@[simp] theorem State.setGrove_time (g : Nat) (x : Grove) : (s.setGrove g x).time = s.time := rfl
@[simp] theorem State.setGrove_recd (g : Nat) (x : Grove) : (s.setGrove g x).recd = s.recd := rfl
@[simp] theorem State.setGrove_chks (g : Nat) (x : Grove) : (s.setGrove g x).chks = s.chks := rfl
@[simp] theorem State.setGrove_fabric (g : Nat) (x : Grove) : (s.setGrove g x).fabric = s.fabric := rfl
@[simp] theorem State.setGrove_eth (g : Nat) (x : Grove) : (s.setGrove g x).eth = s.eth := rfl
@[simp] theorem State.setGrove_cxl (g : Nat) (x : Grove) : (s.setGrove g x).cxl = s.cxl := rfl
@[simp] theorem State.setGrove_i3c (g : Nat) (x : Grove) : (s.setGrove g x).i3c = s.i3c := rfl
@[simp] theorem State.setGrove_seed (g : Nat) (x : Grove) : (s.setGrove g x).seed = s.seed := rfl
@[simp] theorem State.setGrove_pwr (g : Nat) (x : Grove) : (s.setGrove g x).pwr = s.pwr := rfl
@[simp] theorem State.setGrove_bist (g : Nat) (x : Grove) : (s.setGrove g x).bist = s.bist := rfl
@[simp] theorem State.setGrove_jtag (g : Nat) (x : Grove) : (s.setGrove g x).jtag = s.jtag := rfl

/-! setLane writes lanes only. -/

@[simp] theorem State.setLane_pending (l : Nat) (x : Lane) : (s.setLane l x).pending = s.pending := rfl
@[simp] theorem State.setLane_fresh (l : Nat) (x : Lane) : (s.setLane l x).fresh = s.fresh := rfl
@[simp] theorem State.setLane_out (l : Nat) (x : Lane) : (s.setLane l x).out = s.out := rfl
@[simp] theorem State.setLane_ac (l : Nat) (x : Lane) : (s.setLane l x).ac = s.ac := rfl
@[simp] theorem State.setLane_regs (l : Nat) (x : Lane) : (s.setLane l x).regs = s.regs := rfl
@[simp] theorem State.setLane_mem (l : Nat) (x : Lane) : (s.setLane l x).mem = s.mem := rfl
@[simp] theorem State.setLane_mems (l : Nat) (x : Lane) : (s.setLane l x).mems = s.mems := rfl
@[simp] theorem State.setLane_tiles (l : Nat) (x : Lane) : (s.setLane l x).tiles = s.tiles := rfl
@[simp] theorem State.setLane_groves (l : Nat) (x : Lane) : (s.setLane l x).groves = s.groves := rfl
@[simp] theorem State.setLane_cells (l : Nat) (x : Lane) : (s.setLane l x).cells = s.cells := rfl
@[simp] theorem State.setLane_mirrors (l : Nat) (x : Lane) : (s.setLane l x).mirrors = s.mirrors := rfl
@[simp] theorem State.setLane_scheds (l : Nat) (x : Lane) : (s.setLane l x).scheds = s.scheds := rfl
@[simp] theorem State.setLane_coord (l : Nat) (x : Lane) : (s.setLane l x).coord = s.coord := rfl
@[simp] theorem State.setLane_codeSeq (l : Nat) (x : Lane) : (s.setLane l x).codeSeq = s.codeSeq := rfl
@[simp] theorem State.setLane_insts (l : Nat) (x : Lane) : (s.setLane l x).insts = s.insts := rfl
@[simp] theorem State.setLane_ctxs (l : Nat) (x : Lane) : (s.setLane l x).ctxs = s.ctxs := rfl
@[simp] theorem State.setLane_fbk (l : Nat) (x : Lane) : (s.setLane l x).fbk = s.fbk := rfl
@[simp] theorem State.setLane_arr (l : Nat) (x : Lane) : (s.setLane l x).arr = s.arr := rfl
@[simp] theorem State.setLane_arb (l : Nat) (x : Lane) : (s.setLane l x).arb = s.arb := rfl
@[simp] theorem State.setLane_shape (l : Nat) (x : Lane) : (s.setLane l x).shape = s.shape := rfl
@[simp] theorem State.setLane_time (l : Nat) (x : Lane) : (s.setLane l x).time = s.time := rfl
@[simp] theorem State.setLane_recd (l : Nat) (x : Lane) : (s.setLane l x).recd = s.recd := rfl
@[simp] theorem State.setLane_chks (l : Nat) (x : Lane) : (s.setLane l x).chks = s.chks := rfl
@[simp] theorem State.setLane_fabric (l : Nat) (x : Lane) : (s.setLane l x).fabric = s.fabric := rfl
@[simp] theorem State.setLane_eth (l : Nat) (x : Lane) : (s.setLane l x).eth = s.eth := rfl
@[simp] theorem State.setLane_cxl (l : Nat) (x : Lane) : (s.setLane l x).cxl = s.cxl := rfl
@[simp] theorem State.setLane_i3c (l : Nat) (x : Lane) : (s.setLane l x).i3c = s.i3c := rfl
@[simp] theorem State.setLane_seed (l : Nat) (x : Lane) : (s.setLane l x).seed = s.seed := rfl
@[simp] theorem State.setLane_pwr (l : Nat) (x : Lane) : (s.setLane l x).pwr = s.pwr := rfl
@[simp] theorem State.setLane_bist (l : Nat) (x : Lane) : (s.setLane l x).bist = s.bist := rfl
@[simp] theorem State.setLane_jtag (l : Nat) (x : Lane) : (s.setLane l x).jtag = s.jtag := rfl

/-! setCell writes cells only. -/

@[simp] theorem State.setCell_pending (c : Nat) (x : Cell) : (s.setCell c x).pending = s.pending := rfl
@[simp] theorem State.setCell_fresh (c : Nat) (x : Cell) : (s.setCell c x).fresh = s.fresh := rfl
@[simp] theorem State.setCell_out (c : Nat) (x : Cell) : (s.setCell c x).out = s.out := rfl
@[simp] theorem State.setCell_ac (c : Nat) (x : Cell) : (s.setCell c x).ac = s.ac := rfl
@[simp] theorem State.setCell_regs (c : Nat) (x : Cell) : (s.setCell c x).regs = s.regs := rfl
@[simp] theorem State.setCell_mem (c : Nat) (x : Cell) : (s.setCell c x).mem = s.mem := rfl
@[simp] theorem State.setCell_mems (c : Nat) (x : Cell) : (s.setCell c x).mems = s.mems := rfl
@[simp] theorem State.setCell_tiles (c : Nat) (x : Cell) : (s.setCell c x).tiles = s.tiles := rfl
@[simp] theorem State.setCell_groves (c : Nat) (x : Cell) : (s.setCell c x).groves = s.groves := rfl
@[simp] theorem State.setCell_lanes (c : Nat) (x : Cell) : (s.setCell c x).lanes = s.lanes := rfl
@[simp] theorem State.setCell_mirrors (c : Nat) (x : Cell) : (s.setCell c x).mirrors = s.mirrors := rfl
@[simp] theorem State.setCell_scheds (c : Nat) (x : Cell) : (s.setCell c x).scheds = s.scheds := rfl
@[simp] theorem State.setCell_coord (c : Nat) (x : Cell) : (s.setCell c x).coord = s.coord := rfl
@[simp] theorem State.setCell_codeSeq (c : Nat) (x : Cell) : (s.setCell c x).codeSeq = s.codeSeq := rfl
@[simp] theorem State.setCell_insts (c : Nat) (x : Cell) : (s.setCell c x).insts = s.insts := rfl
@[simp] theorem State.setCell_ctxs (c : Nat) (x : Cell) : (s.setCell c x).ctxs = s.ctxs := rfl
@[simp] theorem State.setCell_fbk (c : Nat) (x : Cell) : (s.setCell c x).fbk = s.fbk := rfl
@[simp] theorem State.setCell_arr (c : Nat) (x : Cell) : (s.setCell c x).arr = s.arr := rfl
@[simp] theorem State.setCell_arb (c : Nat) (x : Cell) : (s.setCell c x).arb = s.arb := rfl
@[simp] theorem State.setCell_shape (c : Nat) (x : Cell) : (s.setCell c x).shape = s.shape := rfl
@[simp] theorem State.setCell_time (c : Nat) (x : Cell) : (s.setCell c x).time = s.time := rfl
@[simp] theorem State.setCell_recd (c : Nat) (x : Cell) : (s.setCell c x).recd = s.recd := rfl
@[simp] theorem State.setCell_chks (c : Nat) (x : Cell) : (s.setCell c x).chks = s.chks := rfl
@[simp] theorem State.setCell_fabric (c : Nat) (x : Cell) : (s.setCell c x).fabric = s.fabric := rfl
@[simp] theorem State.setCell_eth (c : Nat) (x : Cell) : (s.setCell c x).eth = s.eth := rfl
@[simp] theorem State.setCell_cxl (c : Nat) (x : Cell) : (s.setCell c x).cxl = s.cxl := rfl
@[simp] theorem State.setCell_i3c (c : Nat) (x : Cell) : (s.setCell c x).i3c = s.i3c := rfl
@[simp] theorem State.setCell_seed (c : Nat) (x : Cell) : (s.setCell c x).seed = s.seed := rfl
@[simp] theorem State.setCell_pwr (c : Nat) (x : Cell) : (s.setCell c x).pwr = s.pwr := rfl
@[simp] theorem State.setCell_bist (c : Nat) (x : Cell) : (s.setCell c x).bist = s.bist := rfl
@[simp] theorem State.setCell_jtag (c : Nat) (x : Cell) : (s.setCell c x).jtag = s.jtag := rfl

/-! setMirror writes mirrors only. -/

@[simp] theorem State.setMirror_pending (c : Nat) (x : MirrorEntry) : (s.setMirror c x).pending = s.pending := rfl
@[simp] theorem State.setMirror_fresh (c : Nat) (x : MirrorEntry) : (s.setMirror c x).fresh = s.fresh := rfl
@[simp] theorem State.setMirror_out (c : Nat) (x : MirrorEntry) : (s.setMirror c x).out = s.out := rfl
@[simp] theorem State.setMirror_ac (c : Nat) (x : MirrorEntry) : (s.setMirror c x).ac = s.ac := rfl
@[simp] theorem State.setMirror_regs (c : Nat) (x : MirrorEntry) : (s.setMirror c x).regs = s.regs := rfl
@[simp] theorem State.setMirror_mem (c : Nat) (x : MirrorEntry) : (s.setMirror c x).mem = s.mem := rfl
@[simp] theorem State.setMirror_mems (c : Nat) (x : MirrorEntry) : (s.setMirror c x).mems = s.mems := rfl
@[simp] theorem State.setMirror_tiles (c : Nat) (x : MirrorEntry) : (s.setMirror c x).tiles = s.tiles := rfl
@[simp] theorem State.setMirror_groves (c : Nat) (x : MirrorEntry) : (s.setMirror c x).groves = s.groves := rfl
@[simp] theorem State.setMirror_lanes (c : Nat) (x : MirrorEntry) : (s.setMirror c x).lanes = s.lanes := rfl
@[simp] theorem State.setMirror_cells (c : Nat) (x : MirrorEntry) : (s.setMirror c x).cells = s.cells := rfl
@[simp] theorem State.setMirror_scheds (c : Nat) (x : MirrorEntry) : (s.setMirror c x).scheds = s.scheds := rfl
@[simp] theorem State.setMirror_coord (c : Nat) (x : MirrorEntry) : (s.setMirror c x).coord = s.coord := rfl
@[simp] theorem State.setMirror_codeSeq (c : Nat) (x : MirrorEntry) : (s.setMirror c x).codeSeq = s.codeSeq := rfl
@[simp] theorem State.setMirror_insts (c : Nat) (x : MirrorEntry) : (s.setMirror c x).insts = s.insts := rfl
@[simp] theorem State.setMirror_ctxs (c : Nat) (x : MirrorEntry) : (s.setMirror c x).ctxs = s.ctxs := rfl
@[simp] theorem State.setMirror_fbk (c : Nat) (x : MirrorEntry) : (s.setMirror c x).fbk = s.fbk := rfl
@[simp] theorem State.setMirror_arr (c : Nat) (x : MirrorEntry) : (s.setMirror c x).arr = s.arr := rfl
@[simp] theorem State.setMirror_arb (c : Nat) (x : MirrorEntry) : (s.setMirror c x).arb = s.arb := rfl
@[simp] theorem State.setMirror_shape (c : Nat) (x : MirrorEntry) : (s.setMirror c x).shape = s.shape := rfl
@[simp] theorem State.setMirror_time (c : Nat) (x : MirrorEntry) : (s.setMirror c x).time = s.time := rfl
@[simp] theorem State.setMirror_recd (c : Nat) (x : MirrorEntry) : (s.setMirror c x).recd = s.recd := rfl
@[simp] theorem State.setMirror_chks (c : Nat) (x : MirrorEntry) : (s.setMirror c x).chks = s.chks := rfl
@[simp] theorem State.setMirror_fabric (c : Nat) (x : MirrorEntry) : (s.setMirror c x).fabric = s.fabric := rfl
@[simp] theorem State.setMirror_eth (c : Nat) (x : MirrorEntry) : (s.setMirror c x).eth = s.eth := rfl
@[simp] theorem State.setMirror_cxl (c : Nat) (x : MirrorEntry) : (s.setMirror c x).cxl = s.cxl := rfl
@[simp] theorem State.setMirror_i3c (c : Nat) (x : MirrorEntry) : (s.setMirror c x).i3c = s.i3c := rfl
@[simp] theorem State.setMirror_seed (c : Nat) (x : MirrorEntry) : (s.setMirror c x).seed = s.seed := rfl
@[simp] theorem State.setMirror_pwr (c : Nat) (x : MirrorEntry) : (s.setMirror c x).pwr = s.pwr := rfl
@[simp] theorem State.setMirror_bist (c : Nat) (x : MirrorEntry) : (s.setMirror c x).bist = s.bist := rfl
@[simp] theorem State.setMirror_jtag (c : Nat) (x : MirrorEntry) : (s.setMirror c x).jtag = s.jtag := rfl

/-! updSched writes scheds only. -/

@[simp] theorem State.updSched_pending (d : Nat) (f : Sched → Sched) : (s.updSched d f).pending = s.pending := rfl
@[simp] theorem State.updSched_fresh (d : Nat) (f : Sched → Sched) : (s.updSched d f).fresh = s.fresh := rfl
@[simp] theorem State.updSched_out (d : Nat) (f : Sched → Sched) : (s.updSched d f).out = s.out := rfl
@[simp] theorem State.updSched_ac (d : Nat) (f : Sched → Sched) : (s.updSched d f).ac = s.ac := rfl
@[simp] theorem State.updSched_regs (d : Nat) (f : Sched → Sched) : (s.updSched d f).regs = s.regs := rfl
@[simp] theorem State.updSched_mem (d : Nat) (f : Sched → Sched) : (s.updSched d f).mem = s.mem := rfl
@[simp] theorem State.updSched_mems (d : Nat) (f : Sched → Sched) : (s.updSched d f).mems = s.mems := rfl
@[simp] theorem State.updSched_tiles (d : Nat) (f : Sched → Sched) : (s.updSched d f).tiles = s.tiles := rfl
@[simp] theorem State.updSched_groves (d : Nat) (f : Sched → Sched) : (s.updSched d f).groves = s.groves := rfl
@[simp] theorem State.updSched_lanes (d : Nat) (f : Sched → Sched) : (s.updSched d f).lanes = s.lanes := rfl
@[simp] theorem State.updSched_cells (d : Nat) (f : Sched → Sched) : (s.updSched d f).cells = s.cells := rfl
@[simp] theorem State.updSched_mirrors (d : Nat) (f : Sched → Sched) : (s.updSched d f).mirrors = s.mirrors := rfl
@[simp] theorem State.updSched_coord (d : Nat) (f : Sched → Sched) : (s.updSched d f).coord = s.coord := rfl
@[simp] theorem State.updSched_codeSeq (d : Nat) (f : Sched → Sched) : (s.updSched d f).codeSeq = s.codeSeq := rfl
@[simp] theorem State.updSched_insts (d : Nat) (f : Sched → Sched) : (s.updSched d f).insts = s.insts := rfl
@[simp] theorem State.updSched_ctxs (d : Nat) (f : Sched → Sched) : (s.updSched d f).ctxs = s.ctxs := rfl
@[simp] theorem State.updSched_fbk (d : Nat) (f : Sched → Sched) : (s.updSched d f).fbk = s.fbk := rfl
@[simp] theorem State.updSched_arr (d : Nat) (f : Sched → Sched) : (s.updSched d f).arr = s.arr := rfl
@[simp] theorem State.updSched_arb (d : Nat) (f : Sched → Sched) : (s.updSched d f).arb = s.arb := rfl
@[simp] theorem State.updSched_shape (d : Nat) (f : Sched → Sched) : (s.updSched d f).shape = s.shape := rfl
@[simp] theorem State.updSched_time (d : Nat) (f : Sched → Sched) : (s.updSched d f).time = s.time := rfl
@[simp] theorem State.updSched_recd (d : Nat) (f : Sched → Sched) : (s.updSched d f).recd = s.recd := rfl
@[simp] theorem State.updSched_chks (d : Nat) (f : Sched → Sched) : (s.updSched d f).chks = s.chks := rfl
@[simp] theorem State.updSched_fabric (d : Nat) (f : Sched → Sched) : (s.updSched d f).fabric = s.fabric := rfl
@[simp] theorem State.updSched_eth (d : Nat) (f : Sched → Sched) : (s.updSched d f).eth = s.eth := rfl
@[simp] theorem State.updSched_cxl (d : Nat) (f : Sched → Sched) : (s.updSched d f).cxl = s.cxl := rfl
@[simp] theorem State.updSched_i3c (d : Nat) (f : Sched → Sched) : (s.updSched d f).i3c = s.i3c := rfl
@[simp] theorem State.updSched_seed (d : Nat) (f : Sched → Sched) : (s.updSched d f).seed = s.seed := rfl
@[simp] theorem State.updSched_pwr (d : Nat) (f : Sched → Sched) : (s.updSched d f).pwr = s.pwr := rfl
@[simp] theorem State.updSched_bist (d : Nat) (f : Sched → Sched) : (s.updSched d f).bist = s.bist := rfl
@[simp] theorem State.updSched_jtag (d : Nat) (f : Sched → Sched) : (s.updSched d f).jtag = s.jtag := rfl

/-! setInst writes insts only. -/

@[simp] theorem State.setInst_pending (i : Nat) (x : Inst) : (s.setInst i x).pending = s.pending := rfl
@[simp] theorem State.setInst_fresh (i : Nat) (x : Inst) : (s.setInst i x).fresh = s.fresh := rfl
@[simp] theorem State.setInst_out (i : Nat) (x : Inst) : (s.setInst i x).out = s.out := rfl
@[simp] theorem State.setInst_ac (i : Nat) (x : Inst) : (s.setInst i x).ac = s.ac := rfl
@[simp] theorem State.setInst_regs (i : Nat) (x : Inst) : (s.setInst i x).regs = s.regs := rfl
@[simp] theorem State.setInst_mem (i : Nat) (x : Inst) : (s.setInst i x).mem = s.mem := rfl
@[simp] theorem State.setInst_mems (i : Nat) (x : Inst) : (s.setInst i x).mems = s.mems := rfl
@[simp] theorem State.setInst_tiles (i : Nat) (x : Inst) : (s.setInst i x).tiles = s.tiles := rfl
@[simp] theorem State.setInst_groves (i : Nat) (x : Inst) : (s.setInst i x).groves = s.groves := rfl
@[simp] theorem State.setInst_lanes (i : Nat) (x : Inst) : (s.setInst i x).lanes = s.lanes := rfl
@[simp] theorem State.setInst_cells (i : Nat) (x : Inst) : (s.setInst i x).cells = s.cells := rfl
@[simp] theorem State.setInst_mirrors (i : Nat) (x : Inst) : (s.setInst i x).mirrors = s.mirrors := rfl
@[simp] theorem State.setInst_scheds (i : Nat) (x : Inst) : (s.setInst i x).scheds = s.scheds := rfl
@[simp] theorem State.setInst_coord (i : Nat) (x : Inst) : (s.setInst i x).coord = s.coord := rfl
@[simp] theorem State.setInst_codeSeq (i : Nat) (x : Inst) : (s.setInst i x).codeSeq = s.codeSeq := rfl
@[simp] theorem State.setInst_ctxs (i : Nat) (x : Inst) : (s.setInst i x).ctxs = s.ctxs := rfl
@[simp] theorem State.setInst_fbk (i : Nat) (x : Inst) : (s.setInst i x).fbk = s.fbk := rfl
@[simp] theorem State.setInst_arr (i : Nat) (x : Inst) : (s.setInst i x).arr = s.arr := rfl
@[simp] theorem State.setInst_arb (i : Nat) (x : Inst) : (s.setInst i x).arb = s.arb := rfl
@[simp] theorem State.setInst_shape (i : Nat) (x : Inst) : (s.setInst i x).shape = s.shape := rfl
@[simp] theorem State.setInst_time (i : Nat) (x : Inst) : (s.setInst i x).time = s.time := rfl
@[simp] theorem State.setInst_recd (i : Nat) (x : Inst) : (s.setInst i x).recd = s.recd := rfl
@[simp] theorem State.setInst_chks (i : Nat) (x : Inst) : (s.setInst i x).chks = s.chks := rfl
@[simp] theorem State.setInst_fabric (i : Nat) (x : Inst) : (s.setInst i x).fabric = s.fabric := rfl
@[simp] theorem State.setInst_eth (i : Nat) (x : Inst) : (s.setInst i x).eth = s.eth := rfl
@[simp] theorem State.setInst_cxl (i : Nat) (x : Inst) : (s.setInst i x).cxl = s.cxl := rfl
@[simp] theorem State.setInst_i3c (i : Nat) (x : Inst) : (s.setInst i x).i3c = s.i3c := rfl
@[simp] theorem State.setInst_seed (i : Nat) (x : Inst) : (s.setInst i x).seed = s.seed := rfl
@[simp] theorem State.setInst_pwr (i : Nat) (x : Inst) : (s.setInst i x).pwr = s.pwr := rfl
@[simp] theorem State.setInst_bist (i : Nat) (x : Inst) : (s.setInst i x).bist = s.bist := rfl
@[simp] theorem State.setInst_jtag (i : Nat) (x : Inst) : (s.setInst i x).jtag = s.jtag := rfl

/-! setCtx writes ctxs only. -/

@[simp] theorem State.setCtx_pending (k : Nat) (x : ReqCtx) : (s.setCtx k x).pending = s.pending := rfl
@[simp] theorem State.setCtx_fresh (k : Nat) (x : ReqCtx) : (s.setCtx k x).fresh = s.fresh := rfl
@[simp] theorem State.setCtx_out (k : Nat) (x : ReqCtx) : (s.setCtx k x).out = s.out := rfl
@[simp] theorem State.setCtx_ac (k : Nat) (x : ReqCtx) : (s.setCtx k x).ac = s.ac := rfl
@[simp] theorem State.setCtx_regs (k : Nat) (x : ReqCtx) : (s.setCtx k x).regs = s.regs := rfl
@[simp] theorem State.setCtx_mem (k : Nat) (x : ReqCtx) : (s.setCtx k x).mem = s.mem := rfl
@[simp] theorem State.setCtx_mems (k : Nat) (x : ReqCtx) : (s.setCtx k x).mems = s.mems := rfl
@[simp] theorem State.setCtx_tiles (k : Nat) (x : ReqCtx) : (s.setCtx k x).tiles = s.tiles := rfl
@[simp] theorem State.setCtx_groves (k : Nat) (x : ReqCtx) : (s.setCtx k x).groves = s.groves := rfl
@[simp] theorem State.setCtx_lanes (k : Nat) (x : ReqCtx) : (s.setCtx k x).lanes = s.lanes := rfl
@[simp] theorem State.setCtx_cells (k : Nat) (x : ReqCtx) : (s.setCtx k x).cells = s.cells := rfl
@[simp] theorem State.setCtx_mirrors (k : Nat) (x : ReqCtx) : (s.setCtx k x).mirrors = s.mirrors := rfl
@[simp] theorem State.setCtx_scheds (k : Nat) (x : ReqCtx) : (s.setCtx k x).scheds = s.scheds := rfl
@[simp] theorem State.setCtx_coord (k : Nat) (x : ReqCtx) : (s.setCtx k x).coord = s.coord := rfl
@[simp] theorem State.setCtx_codeSeq (k : Nat) (x : ReqCtx) : (s.setCtx k x).codeSeq = s.codeSeq := rfl
@[simp] theorem State.setCtx_insts (k : Nat) (x : ReqCtx) : (s.setCtx k x).insts = s.insts := rfl
@[simp] theorem State.setCtx_fbk (k : Nat) (x : ReqCtx) : (s.setCtx k x).fbk = s.fbk := rfl
@[simp] theorem State.setCtx_arr (k : Nat) (x : ReqCtx) : (s.setCtx k x).arr = s.arr := rfl
@[simp] theorem State.setCtx_arb (k : Nat) (x : ReqCtx) : (s.setCtx k x).arb = s.arb := rfl
@[simp] theorem State.setCtx_shape (k : Nat) (x : ReqCtx) : (s.setCtx k x).shape = s.shape := rfl
@[simp] theorem State.setCtx_time (k : Nat) (x : ReqCtx) : (s.setCtx k x).time = s.time := rfl
@[simp] theorem State.setCtx_recd (k : Nat) (x : ReqCtx) : (s.setCtx k x).recd = s.recd := rfl
@[simp] theorem State.setCtx_chks (k : Nat) (x : ReqCtx) : (s.setCtx k x).chks = s.chks := rfl
@[simp] theorem State.setCtx_fabric (k : Nat) (x : ReqCtx) : (s.setCtx k x).fabric = s.fabric := rfl
@[simp] theorem State.setCtx_eth (k : Nat) (x : ReqCtx) : (s.setCtx k x).eth = s.eth := rfl
@[simp] theorem State.setCtx_cxl (k : Nat) (x : ReqCtx) : (s.setCtx k x).cxl = s.cxl := rfl
@[simp] theorem State.setCtx_i3c (k : Nat) (x : ReqCtx) : (s.setCtx k x).i3c = s.i3c := rfl
@[simp] theorem State.setCtx_seed (k : Nat) (x : ReqCtx) : (s.setCtx k x).seed = s.seed := rfl
@[simp] theorem State.setCtx_pwr (k : Nat) (x : ReqCtx) : (s.setCtx k x).pwr = s.pwr := rfl
@[simp] theorem State.setCtx_bist (k : Nat) (x : ReqCtx) : (s.setCtx k x).bist = s.bist := rfl
@[simp] theorem State.setCtx_jtag (k : Nat) (x : ReqCtx) : (s.setCtx k x).jtag = s.jtag := rfl

/-! setChk writes chks only. -/

@[simp] theorem State.setChk_pending (k : Nat) (x : ChkSt) : (s.setChk k x).pending = s.pending := rfl
@[simp] theorem State.setChk_fresh (k : Nat) (x : ChkSt) : (s.setChk k x).fresh = s.fresh := rfl
@[simp] theorem State.setChk_out (k : Nat) (x : ChkSt) : (s.setChk k x).out = s.out := rfl
@[simp] theorem State.setChk_ac (k : Nat) (x : ChkSt) : (s.setChk k x).ac = s.ac := rfl
@[simp] theorem State.setChk_regs (k : Nat) (x : ChkSt) : (s.setChk k x).regs = s.regs := rfl
@[simp] theorem State.setChk_mem (k : Nat) (x : ChkSt) : (s.setChk k x).mem = s.mem := rfl
@[simp] theorem State.setChk_mems (k : Nat) (x : ChkSt) : (s.setChk k x).mems = s.mems := rfl
@[simp] theorem State.setChk_tiles (k : Nat) (x : ChkSt) : (s.setChk k x).tiles = s.tiles := rfl
@[simp] theorem State.setChk_groves (k : Nat) (x : ChkSt) : (s.setChk k x).groves = s.groves := rfl
@[simp] theorem State.setChk_lanes (k : Nat) (x : ChkSt) : (s.setChk k x).lanes = s.lanes := rfl
@[simp] theorem State.setChk_cells (k : Nat) (x : ChkSt) : (s.setChk k x).cells = s.cells := rfl
@[simp] theorem State.setChk_mirrors (k : Nat) (x : ChkSt) : (s.setChk k x).mirrors = s.mirrors := rfl
@[simp] theorem State.setChk_scheds (k : Nat) (x : ChkSt) : (s.setChk k x).scheds = s.scheds := rfl
@[simp] theorem State.setChk_coord (k : Nat) (x : ChkSt) : (s.setChk k x).coord = s.coord := rfl
@[simp] theorem State.setChk_codeSeq (k : Nat) (x : ChkSt) : (s.setChk k x).codeSeq = s.codeSeq := rfl
@[simp] theorem State.setChk_insts (k : Nat) (x : ChkSt) : (s.setChk k x).insts = s.insts := rfl
@[simp] theorem State.setChk_ctxs (k : Nat) (x : ChkSt) : (s.setChk k x).ctxs = s.ctxs := rfl
@[simp] theorem State.setChk_fbk (k : Nat) (x : ChkSt) : (s.setChk k x).fbk = s.fbk := rfl
@[simp] theorem State.setChk_arr (k : Nat) (x : ChkSt) : (s.setChk k x).arr = s.arr := rfl
@[simp] theorem State.setChk_arb (k : Nat) (x : ChkSt) : (s.setChk k x).arb = s.arb := rfl
@[simp] theorem State.setChk_shape (k : Nat) (x : ChkSt) : (s.setChk k x).shape = s.shape := rfl
@[simp] theorem State.setChk_time (k : Nat) (x : ChkSt) : (s.setChk k x).time = s.time := rfl
@[simp] theorem State.setChk_recd (k : Nat) (x : ChkSt) : (s.setChk k x).recd = s.recd := rfl
@[simp] theorem State.setChk_fabric (k : Nat) (x : ChkSt) : (s.setChk k x).fabric = s.fabric := rfl
@[simp] theorem State.setChk_eth (k : Nat) (x : ChkSt) : (s.setChk k x).eth = s.eth := rfl
@[simp] theorem State.setChk_cxl (k : Nat) (x : ChkSt) : (s.setChk k x).cxl = s.cxl := rfl
@[simp] theorem State.setChk_i3c (k : Nat) (x : ChkSt) : (s.setChk k x).i3c = s.i3c := rfl
@[simp] theorem State.setChk_seed (k : Nat) (x : ChkSt) : (s.setChk k x).seed = s.seed := rfl
@[simp] theorem State.setChk_pwr (k : Nat) (x : ChkSt) : (s.setChk k x).pwr = s.pwr := rfl
@[simp] theorem State.setChk_bist (k : Nat) (x : ChkSt) : (s.setChk k x).bist = s.bist := rfl
@[simp] theorem State.setChk_jtag (k : Nat) (x : ChkSt) : (s.setChk k x).jtag = s.jtag := rfl

/-! setEth writes eth only. -/

@[simp] theorem State.setEth_pending (p : Nat) (x : EthSt) : (s.setEth p x).pending = s.pending := rfl
@[simp] theorem State.setEth_fresh (p : Nat) (x : EthSt) : (s.setEth p x).fresh = s.fresh := rfl
@[simp] theorem State.setEth_out (p : Nat) (x : EthSt) : (s.setEth p x).out = s.out := rfl
@[simp] theorem State.setEth_ac (p : Nat) (x : EthSt) : (s.setEth p x).ac = s.ac := rfl
@[simp] theorem State.setEth_regs (p : Nat) (x : EthSt) : (s.setEth p x).regs = s.regs := rfl
@[simp] theorem State.setEth_mem (p : Nat) (x : EthSt) : (s.setEth p x).mem = s.mem := rfl
@[simp] theorem State.setEth_mems (p : Nat) (x : EthSt) : (s.setEth p x).mems = s.mems := rfl
@[simp] theorem State.setEth_tiles (p : Nat) (x : EthSt) : (s.setEth p x).tiles = s.tiles := rfl
@[simp] theorem State.setEth_groves (p : Nat) (x : EthSt) : (s.setEth p x).groves = s.groves := rfl
@[simp] theorem State.setEth_lanes (p : Nat) (x : EthSt) : (s.setEth p x).lanes = s.lanes := rfl
@[simp] theorem State.setEth_cells (p : Nat) (x : EthSt) : (s.setEth p x).cells = s.cells := rfl
@[simp] theorem State.setEth_mirrors (p : Nat) (x : EthSt) : (s.setEth p x).mirrors = s.mirrors := rfl
@[simp] theorem State.setEth_scheds (p : Nat) (x : EthSt) : (s.setEth p x).scheds = s.scheds := rfl
@[simp] theorem State.setEth_coord (p : Nat) (x : EthSt) : (s.setEth p x).coord = s.coord := rfl
@[simp] theorem State.setEth_codeSeq (p : Nat) (x : EthSt) : (s.setEth p x).codeSeq = s.codeSeq := rfl
@[simp] theorem State.setEth_insts (p : Nat) (x : EthSt) : (s.setEth p x).insts = s.insts := rfl
@[simp] theorem State.setEth_ctxs (p : Nat) (x : EthSt) : (s.setEth p x).ctxs = s.ctxs := rfl
@[simp] theorem State.setEth_fbk (p : Nat) (x : EthSt) : (s.setEth p x).fbk = s.fbk := rfl
@[simp] theorem State.setEth_arr (p : Nat) (x : EthSt) : (s.setEth p x).arr = s.arr := rfl
@[simp] theorem State.setEth_arb (p : Nat) (x : EthSt) : (s.setEth p x).arb = s.arb := rfl
@[simp] theorem State.setEth_shape (p : Nat) (x : EthSt) : (s.setEth p x).shape = s.shape := rfl
@[simp] theorem State.setEth_time (p : Nat) (x : EthSt) : (s.setEth p x).time = s.time := rfl
@[simp] theorem State.setEth_recd (p : Nat) (x : EthSt) : (s.setEth p x).recd = s.recd := rfl
@[simp] theorem State.setEth_chks (p : Nat) (x : EthSt) : (s.setEth p x).chks = s.chks := rfl
@[simp] theorem State.setEth_fabric (p : Nat) (x : EthSt) : (s.setEth p x).fabric = s.fabric := rfl
@[simp] theorem State.setEth_cxl (p : Nat) (x : EthSt) : (s.setEth p x).cxl = s.cxl := rfl
@[simp] theorem State.setEth_i3c (p : Nat) (x : EthSt) : (s.setEth p x).i3c = s.i3c := rfl
@[simp] theorem State.setEth_seed (p : Nat) (x : EthSt) : (s.setEth p x).seed = s.seed := rfl
@[simp] theorem State.setEth_pwr (p : Nat) (x : EthSt) : (s.setEth p x).pwr = s.pwr := rfl
@[simp] theorem State.setEth_bist (p : Nat) (x : EthSt) : (s.setEth p x).bist = s.bist := rfl
@[simp] theorem State.setEth_jtag (p : Nat) (x : EthSt) : (s.setEth p x).jtag = s.jtag := rfl

/-! setPort writes fabric only. -/

@[simp] theorem State.setPort_pending (p : Nat) (x : CkxPortSt) : (s.setPort p x).pending = s.pending := rfl
@[simp] theorem State.setPort_fresh (p : Nat) (x : CkxPortSt) : (s.setPort p x).fresh = s.fresh := rfl
@[simp] theorem State.setPort_out (p : Nat) (x : CkxPortSt) : (s.setPort p x).out = s.out := rfl
@[simp] theorem State.setPort_ac (p : Nat) (x : CkxPortSt) : (s.setPort p x).ac = s.ac := rfl
@[simp] theorem State.setPort_regs (p : Nat) (x : CkxPortSt) : (s.setPort p x).regs = s.regs := rfl
@[simp] theorem State.setPort_mem (p : Nat) (x : CkxPortSt) : (s.setPort p x).mem = s.mem := rfl
@[simp] theorem State.setPort_mems (p : Nat) (x : CkxPortSt) : (s.setPort p x).mems = s.mems := rfl
@[simp] theorem State.setPort_tiles (p : Nat) (x : CkxPortSt) : (s.setPort p x).tiles = s.tiles := rfl
@[simp] theorem State.setPort_groves (p : Nat) (x : CkxPortSt) : (s.setPort p x).groves = s.groves := rfl
@[simp] theorem State.setPort_lanes (p : Nat) (x : CkxPortSt) : (s.setPort p x).lanes = s.lanes := rfl
@[simp] theorem State.setPort_cells (p : Nat) (x : CkxPortSt) : (s.setPort p x).cells = s.cells := rfl
@[simp] theorem State.setPort_mirrors (p : Nat) (x : CkxPortSt) : (s.setPort p x).mirrors = s.mirrors := rfl
@[simp] theorem State.setPort_scheds (p : Nat) (x : CkxPortSt) : (s.setPort p x).scheds = s.scheds := rfl
@[simp] theorem State.setPort_coord (p : Nat) (x : CkxPortSt) : (s.setPort p x).coord = s.coord := rfl
@[simp] theorem State.setPort_codeSeq (p : Nat) (x : CkxPortSt) : (s.setPort p x).codeSeq = s.codeSeq := rfl
@[simp] theorem State.setPort_insts (p : Nat) (x : CkxPortSt) : (s.setPort p x).insts = s.insts := rfl
@[simp] theorem State.setPort_ctxs (p : Nat) (x : CkxPortSt) : (s.setPort p x).ctxs = s.ctxs := rfl
@[simp] theorem State.setPort_fbk (p : Nat) (x : CkxPortSt) : (s.setPort p x).fbk = s.fbk := rfl
@[simp] theorem State.setPort_arr (p : Nat) (x : CkxPortSt) : (s.setPort p x).arr = s.arr := rfl
@[simp] theorem State.setPort_arb (p : Nat) (x : CkxPortSt) : (s.setPort p x).arb = s.arb := rfl
@[simp] theorem State.setPort_shape (p : Nat) (x : CkxPortSt) : (s.setPort p x).shape = s.shape := rfl
@[simp] theorem State.setPort_time (p : Nat) (x : CkxPortSt) : (s.setPort p x).time = s.time := rfl
@[simp] theorem State.setPort_recd (p : Nat) (x : CkxPortSt) : (s.setPort p x).recd = s.recd := rfl
@[simp] theorem State.setPort_chks (p : Nat) (x : CkxPortSt) : (s.setPort p x).chks = s.chks := rfl
@[simp] theorem State.setPort_eth (p : Nat) (x : CkxPortSt) : (s.setPort p x).eth = s.eth := rfl
@[simp] theorem State.setPort_cxl (p : Nat) (x : CkxPortSt) : (s.setPort p x).cxl = s.cxl := rfl
@[simp] theorem State.setPort_i3c (p : Nat) (x : CkxPortSt) : (s.setPort p x).i3c = s.i3c := rfl
@[simp] theorem State.setPort_seed (p : Nat) (x : CkxPortSt) : (s.setPort p x).seed = s.seed := rfl
@[simp] theorem State.setPort_pwr (p : Nat) (x : CkxPortSt) : (s.setPort p x).pwr = s.pwr := rfl
@[simp] theorem State.setPort_bist (p : Nat) (x : CkxPortSt) : (s.setPort p x).bist = s.bist := rfl
@[simp] theorem State.setPort_jtag (p : Nat) (x : CkxPortSt) : (s.setPort p x).jtag = s.jtag := rfl

/-! setFstream writes fabric only. -/

@[simp] theorem State.setFstream_pending (k : Nat) (x : FStream) : (s.setFstream k x).pending = s.pending := rfl
@[simp] theorem State.setFstream_fresh (k : Nat) (x : FStream) : (s.setFstream k x).fresh = s.fresh := rfl
@[simp] theorem State.setFstream_out (k : Nat) (x : FStream) : (s.setFstream k x).out = s.out := rfl
@[simp] theorem State.setFstream_ac (k : Nat) (x : FStream) : (s.setFstream k x).ac = s.ac := rfl
@[simp] theorem State.setFstream_regs (k : Nat) (x : FStream) : (s.setFstream k x).regs = s.regs := rfl
@[simp] theorem State.setFstream_mem (k : Nat) (x : FStream) : (s.setFstream k x).mem = s.mem := rfl
@[simp] theorem State.setFstream_mems (k : Nat) (x : FStream) : (s.setFstream k x).mems = s.mems := rfl
@[simp] theorem State.setFstream_tiles (k : Nat) (x : FStream) : (s.setFstream k x).tiles = s.tiles := rfl
@[simp] theorem State.setFstream_groves (k : Nat) (x : FStream) : (s.setFstream k x).groves = s.groves := rfl
@[simp] theorem State.setFstream_lanes (k : Nat) (x : FStream) : (s.setFstream k x).lanes = s.lanes := rfl
@[simp] theorem State.setFstream_cells (k : Nat) (x : FStream) : (s.setFstream k x).cells = s.cells := rfl
@[simp] theorem State.setFstream_mirrors (k : Nat) (x : FStream) : (s.setFstream k x).mirrors = s.mirrors := rfl
@[simp] theorem State.setFstream_scheds (k : Nat) (x : FStream) : (s.setFstream k x).scheds = s.scheds := rfl
@[simp] theorem State.setFstream_coord (k : Nat) (x : FStream) : (s.setFstream k x).coord = s.coord := rfl
@[simp] theorem State.setFstream_codeSeq (k : Nat) (x : FStream) : (s.setFstream k x).codeSeq = s.codeSeq := rfl
@[simp] theorem State.setFstream_insts (k : Nat) (x : FStream) : (s.setFstream k x).insts = s.insts := rfl
@[simp] theorem State.setFstream_ctxs (k : Nat) (x : FStream) : (s.setFstream k x).ctxs = s.ctxs := rfl
@[simp] theorem State.setFstream_fbk (k : Nat) (x : FStream) : (s.setFstream k x).fbk = s.fbk := rfl
@[simp] theorem State.setFstream_arr (k : Nat) (x : FStream) : (s.setFstream k x).arr = s.arr := rfl
@[simp] theorem State.setFstream_arb (k : Nat) (x : FStream) : (s.setFstream k x).arb = s.arb := rfl
@[simp] theorem State.setFstream_shape (k : Nat) (x : FStream) : (s.setFstream k x).shape = s.shape := rfl
@[simp] theorem State.setFstream_time (k : Nat) (x : FStream) : (s.setFstream k x).time = s.time := rfl
@[simp] theorem State.setFstream_recd (k : Nat) (x : FStream) : (s.setFstream k x).recd = s.recd := rfl
@[simp] theorem State.setFstream_chks (k : Nat) (x : FStream) : (s.setFstream k x).chks = s.chks := rfl
@[simp] theorem State.setFstream_eth (k : Nat) (x : FStream) : (s.setFstream k x).eth = s.eth := rfl
@[simp] theorem State.setFstream_cxl (k : Nat) (x : FStream) : (s.setFstream k x).cxl = s.cxl := rfl
@[simp] theorem State.setFstream_i3c (k : Nat) (x : FStream) : (s.setFstream k x).i3c = s.i3c := rfl
@[simp] theorem State.setFstream_seed (k : Nat) (x : FStream) : (s.setFstream k x).seed = s.seed := rfl
@[simp] theorem State.setFstream_pwr (k : Nat) (x : FStream) : (s.setFstream k x).pwr = s.pwr := rfl
@[simp] theorem State.setFstream_bist (k : Nat) (x : FStream) : (s.setFstream k x).bist = s.bist := rfl
@[simp] theorem State.setFstream_jtag (k : Nat) (x : FStream) : (s.setFstream k x).jtag = s.jtag := rfl

/-! setAgent writes fabric only. -/

@[simp] theorem State.setAgent_pending (d : Nat) (x : Agent) : (s.setAgent d x).pending = s.pending := rfl
@[simp] theorem State.setAgent_fresh (d : Nat) (x : Agent) : (s.setAgent d x).fresh = s.fresh := rfl
@[simp] theorem State.setAgent_out (d : Nat) (x : Agent) : (s.setAgent d x).out = s.out := rfl
@[simp] theorem State.setAgent_ac (d : Nat) (x : Agent) : (s.setAgent d x).ac = s.ac := rfl
@[simp] theorem State.setAgent_regs (d : Nat) (x : Agent) : (s.setAgent d x).regs = s.regs := rfl
@[simp] theorem State.setAgent_mem (d : Nat) (x : Agent) : (s.setAgent d x).mem = s.mem := rfl
@[simp] theorem State.setAgent_mems (d : Nat) (x : Agent) : (s.setAgent d x).mems = s.mems := rfl
@[simp] theorem State.setAgent_tiles (d : Nat) (x : Agent) : (s.setAgent d x).tiles = s.tiles := rfl
@[simp] theorem State.setAgent_groves (d : Nat) (x : Agent) : (s.setAgent d x).groves = s.groves := rfl
@[simp] theorem State.setAgent_lanes (d : Nat) (x : Agent) : (s.setAgent d x).lanes = s.lanes := rfl
@[simp] theorem State.setAgent_cells (d : Nat) (x : Agent) : (s.setAgent d x).cells = s.cells := rfl
@[simp] theorem State.setAgent_mirrors (d : Nat) (x : Agent) : (s.setAgent d x).mirrors = s.mirrors := rfl
@[simp] theorem State.setAgent_scheds (d : Nat) (x : Agent) : (s.setAgent d x).scheds = s.scheds := rfl
@[simp] theorem State.setAgent_coord (d : Nat) (x : Agent) : (s.setAgent d x).coord = s.coord := rfl
@[simp] theorem State.setAgent_codeSeq (d : Nat) (x : Agent) : (s.setAgent d x).codeSeq = s.codeSeq := rfl
@[simp] theorem State.setAgent_insts (d : Nat) (x : Agent) : (s.setAgent d x).insts = s.insts := rfl
@[simp] theorem State.setAgent_ctxs (d : Nat) (x : Agent) : (s.setAgent d x).ctxs = s.ctxs := rfl
@[simp] theorem State.setAgent_fbk (d : Nat) (x : Agent) : (s.setAgent d x).fbk = s.fbk := rfl
@[simp] theorem State.setAgent_arr (d : Nat) (x : Agent) : (s.setAgent d x).arr = s.arr := rfl
@[simp] theorem State.setAgent_arb (d : Nat) (x : Agent) : (s.setAgent d x).arb = s.arb := rfl
@[simp] theorem State.setAgent_shape (d : Nat) (x : Agent) : (s.setAgent d x).shape = s.shape := rfl
@[simp] theorem State.setAgent_time (d : Nat) (x : Agent) : (s.setAgent d x).time = s.time := rfl
@[simp] theorem State.setAgent_recd (d : Nat) (x : Agent) : (s.setAgent d x).recd = s.recd := rfl
@[simp] theorem State.setAgent_chks (d : Nat) (x : Agent) : (s.setAgent d x).chks = s.chks := rfl
@[simp] theorem State.setAgent_eth (d : Nat) (x : Agent) : (s.setAgent d x).eth = s.eth := rfl
@[simp] theorem State.setAgent_cxl (d : Nat) (x : Agent) : (s.setAgent d x).cxl = s.cxl := rfl
@[simp] theorem State.setAgent_i3c (d : Nat) (x : Agent) : (s.setAgent d x).i3c = s.i3c := rfl
@[simp] theorem State.setAgent_seed (d : Nat) (x : Agent) : (s.setAgent d x).seed = s.seed := rfl
@[simp] theorem State.setAgent_pwr (d : Nat) (x : Agent) : (s.setAgent d x).pwr = s.pwr := rfl
@[simp] theorem State.setAgent_bist (d : Nat) (x : Agent) : (s.setAgent d x).bist = s.bist := rfl
@[simp] theorem State.setAgent_jtag (d : Nat) (x : Agent) : (s.setAgent d x).jtag = s.jtag := rfl

/-! setLv writes fabric only. -/

@[simp] theorem State.setLv_pending (x : LvSt) : (s.setLv x).pending = s.pending := rfl
@[simp] theorem State.setLv_fresh (x : LvSt) : (s.setLv x).fresh = s.fresh := rfl
@[simp] theorem State.setLv_out (x : LvSt) : (s.setLv x).out = s.out := rfl
@[simp] theorem State.setLv_ac (x : LvSt) : (s.setLv x).ac = s.ac := rfl
@[simp] theorem State.setLv_regs (x : LvSt) : (s.setLv x).regs = s.regs := rfl
@[simp] theorem State.setLv_mem (x : LvSt) : (s.setLv x).mem = s.mem := rfl
@[simp] theorem State.setLv_mems (x : LvSt) : (s.setLv x).mems = s.mems := rfl
@[simp] theorem State.setLv_tiles (x : LvSt) : (s.setLv x).tiles = s.tiles := rfl
@[simp] theorem State.setLv_groves (x : LvSt) : (s.setLv x).groves = s.groves := rfl
@[simp] theorem State.setLv_lanes (x : LvSt) : (s.setLv x).lanes = s.lanes := rfl
@[simp] theorem State.setLv_cells (x : LvSt) : (s.setLv x).cells = s.cells := rfl
@[simp] theorem State.setLv_mirrors (x : LvSt) : (s.setLv x).mirrors = s.mirrors := rfl
@[simp] theorem State.setLv_scheds (x : LvSt) : (s.setLv x).scheds = s.scheds := rfl
@[simp] theorem State.setLv_coord (x : LvSt) : (s.setLv x).coord = s.coord := rfl
@[simp] theorem State.setLv_codeSeq (x : LvSt) : (s.setLv x).codeSeq = s.codeSeq := rfl
@[simp] theorem State.setLv_insts (x : LvSt) : (s.setLv x).insts = s.insts := rfl
@[simp] theorem State.setLv_ctxs (x : LvSt) : (s.setLv x).ctxs = s.ctxs := rfl
@[simp] theorem State.setLv_fbk (x : LvSt) : (s.setLv x).fbk = s.fbk := rfl
@[simp] theorem State.setLv_arr (x : LvSt) : (s.setLv x).arr = s.arr := rfl
@[simp] theorem State.setLv_arb (x : LvSt) : (s.setLv x).arb = s.arb := rfl
@[simp] theorem State.setLv_shape (x : LvSt) : (s.setLv x).shape = s.shape := rfl
@[simp] theorem State.setLv_time (x : LvSt) : (s.setLv x).time = s.time := rfl
@[simp] theorem State.setLv_recd (x : LvSt) : (s.setLv x).recd = s.recd := rfl
@[simp] theorem State.setLv_chks (x : LvSt) : (s.setLv x).chks = s.chks := rfl
@[simp] theorem State.setLv_eth (x : LvSt) : (s.setLv x).eth = s.eth := rfl
@[simp] theorem State.setLv_cxl (x : LvSt) : (s.setLv x).cxl = s.cxl := rfl
@[simp] theorem State.setLv_i3c (x : LvSt) : (s.setLv x).i3c = s.i3c := rfl
@[simp] theorem State.setLv_seed (x : LvSt) : (s.setLv x).seed = s.seed := rfl
@[simp] theorem State.setLv_pwr (x : LvSt) : (s.setLv x).pwr = s.pwr := rfl
@[simp] theorem State.setLv_bist (x : LvSt) : (s.setLv x).bist = s.bist := rfl
@[simp] theorem State.setLv_jtag (x : LvSt) : (s.setLv x).jtag = s.jtag := rfl

/-! setL2q writes cxl only. -/

@[simp] theorem State.setL2q_pending (q : Nat) (x : L2q) : (s.setL2q q x).pending = s.pending := rfl
@[simp] theorem State.setL2q_fresh (q : Nat) (x : L2q) : (s.setL2q q x).fresh = s.fresh := rfl
@[simp] theorem State.setL2q_out (q : Nat) (x : L2q) : (s.setL2q q x).out = s.out := rfl
@[simp] theorem State.setL2q_ac (q : Nat) (x : L2q) : (s.setL2q q x).ac = s.ac := rfl
@[simp] theorem State.setL2q_regs (q : Nat) (x : L2q) : (s.setL2q q x).regs = s.regs := rfl
@[simp] theorem State.setL2q_mem (q : Nat) (x : L2q) : (s.setL2q q x).mem = s.mem := rfl
@[simp] theorem State.setL2q_mems (q : Nat) (x : L2q) : (s.setL2q q x).mems = s.mems := rfl
@[simp] theorem State.setL2q_tiles (q : Nat) (x : L2q) : (s.setL2q q x).tiles = s.tiles := rfl
@[simp] theorem State.setL2q_groves (q : Nat) (x : L2q) : (s.setL2q q x).groves = s.groves := rfl
@[simp] theorem State.setL2q_lanes (q : Nat) (x : L2q) : (s.setL2q q x).lanes = s.lanes := rfl
@[simp] theorem State.setL2q_cells (q : Nat) (x : L2q) : (s.setL2q q x).cells = s.cells := rfl
@[simp] theorem State.setL2q_mirrors (q : Nat) (x : L2q) : (s.setL2q q x).mirrors = s.mirrors := rfl
@[simp] theorem State.setL2q_scheds (q : Nat) (x : L2q) : (s.setL2q q x).scheds = s.scheds := rfl
@[simp] theorem State.setL2q_coord (q : Nat) (x : L2q) : (s.setL2q q x).coord = s.coord := rfl
@[simp] theorem State.setL2q_codeSeq (q : Nat) (x : L2q) : (s.setL2q q x).codeSeq = s.codeSeq := rfl
@[simp] theorem State.setL2q_insts (q : Nat) (x : L2q) : (s.setL2q q x).insts = s.insts := rfl
@[simp] theorem State.setL2q_ctxs (q : Nat) (x : L2q) : (s.setL2q q x).ctxs = s.ctxs := rfl
@[simp] theorem State.setL2q_fbk (q : Nat) (x : L2q) : (s.setL2q q x).fbk = s.fbk := rfl
@[simp] theorem State.setL2q_arr (q : Nat) (x : L2q) : (s.setL2q q x).arr = s.arr := rfl
@[simp] theorem State.setL2q_arb (q : Nat) (x : L2q) : (s.setL2q q x).arb = s.arb := rfl
@[simp] theorem State.setL2q_shape (q : Nat) (x : L2q) : (s.setL2q q x).shape = s.shape := rfl
@[simp] theorem State.setL2q_time (q : Nat) (x : L2q) : (s.setL2q q x).time = s.time := rfl
@[simp] theorem State.setL2q_recd (q : Nat) (x : L2q) : (s.setL2q q x).recd = s.recd := rfl
@[simp] theorem State.setL2q_chks (q : Nat) (x : L2q) : (s.setL2q q x).chks = s.chks := rfl
@[simp] theorem State.setL2q_fabric (q : Nat) (x : L2q) : (s.setL2q q x).fabric = s.fabric := rfl
@[simp] theorem State.setL2q_eth (q : Nat) (x : L2q) : (s.setL2q q x).eth = s.eth := rfl
@[simp] theorem State.setL2q_i3c (q : Nat) (x : L2q) : (s.setL2q q x).i3c = s.i3c := rfl
@[simp] theorem State.setL2q_seed (q : Nat) (x : L2q) : (s.setL2q q x).seed = s.seed := rfl
@[simp] theorem State.setL2q_pwr (q : Nat) (x : L2q) : (s.setL2q q x).pwr = s.pwr := rfl
@[simp] theorem State.setL2q_bist (q : Nat) (x : L2q) : (s.setL2q q x).bist = s.bist := rfl
@[simp] theorem State.setL2q_jtag (q : Nat) (x : L2q) : (s.setL2q q x).jtag = s.jtag := rfl

/-! setReg writes regs only. -/

@[simp] theorem State.setReg_pending (p : Page) (o : Nat) (v : Word) : (s.setReg p o v).pending = s.pending := rfl
@[simp] theorem State.setReg_fresh (p : Page) (o : Nat) (v : Word) : (s.setReg p o v).fresh = s.fresh := rfl
@[simp] theorem State.setReg_out (p : Page) (o : Nat) (v : Word) : (s.setReg p o v).out = s.out := rfl
@[simp] theorem State.setReg_ac (p : Page) (o : Nat) (v : Word) : (s.setReg p o v).ac = s.ac := rfl
@[simp] theorem State.setReg_mem (p : Page) (o : Nat) (v : Word) : (s.setReg p o v).mem = s.mem := rfl
@[simp] theorem State.setReg_mems (p : Page) (o : Nat) (v : Word) : (s.setReg p o v).mems = s.mems := rfl
@[simp] theorem State.setReg_tiles (p : Page) (o : Nat) (v : Word) : (s.setReg p o v).tiles = s.tiles := rfl
@[simp] theorem State.setReg_groves (p : Page) (o : Nat) (v : Word) : (s.setReg p o v).groves = s.groves := rfl
@[simp] theorem State.setReg_lanes (p : Page) (o : Nat) (v : Word) : (s.setReg p o v).lanes = s.lanes := rfl
@[simp] theorem State.setReg_cells (p : Page) (o : Nat) (v : Word) : (s.setReg p o v).cells = s.cells := rfl
@[simp] theorem State.setReg_mirrors (p : Page) (o : Nat) (v : Word) : (s.setReg p o v).mirrors = s.mirrors := rfl
@[simp] theorem State.setReg_scheds (p : Page) (o : Nat) (v : Word) : (s.setReg p o v).scheds = s.scheds := rfl
@[simp] theorem State.setReg_coord (p : Page) (o : Nat) (v : Word) : (s.setReg p o v).coord = s.coord := rfl
@[simp] theorem State.setReg_codeSeq (p : Page) (o : Nat) (v : Word) : (s.setReg p o v).codeSeq = s.codeSeq := rfl
@[simp] theorem State.setReg_insts (p : Page) (o : Nat) (v : Word) : (s.setReg p o v).insts = s.insts := rfl
@[simp] theorem State.setReg_ctxs (p : Page) (o : Nat) (v : Word) : (s.setReg p o v).ctxs = s.ctxs := rfl
@[simp] theorem State.setReg_fbk (p : Page) (o : Nat) (v : Word) : (s.setReg p o v).fbk = s.fbk := rfl
@[simp] theorem State.setReg_arr (p : Page) (o : Nat) (v : Word) : (s.setReg p o v).arr = s.arr := rfl
@[simp] theorem State.setReg_arb (p : Page) (o : Nat) (v : Word) : (s.setReg p o v).arb = s.arb := rfl
@[simp] theorem State.setReg_shape (p : Page) (o : Nat) (v : Word) : (s.setReg p o v).shape = s.shape := rfl
@[simp] theorem State.setReg_time (p : Page) (o : Nat) (v : Word) : (s.setReg p o v).time = s.time := rfl
@[simp] theorem State.setReg_recd (p : Page) (o : Nat) (v : Word) : (s.setReg p o v).recd = s.recd := rfl
@[simp] theorem State.setReg_chks (p : Page) (o : Nat) (v : Word) : (s.setReg p o v).chks = s.chks := rfl
@[simp] theorem State.setReg_fabric (p : Page) (o : Nat) (v : Word) : (s.setReg p o v).fabric = s.fabric := rfl
@[simp] theorem State.setReg_eth (p : Page) (o : Nat) (v : Word) : (s.setReg p o v).eth = s.eth := rfl
@[simp] theorem State.setReg_cxl (p : Page) (o : Nat) (v : Word) : (s.setReg p o v).cxl = s.cxl := rfl
@[simp] theorem State.setReg_i3c (p : Page) (o : Nat) (v : Word) : (s.setReg p o v).i3c = s.i3c := rfl
@[simp] theorem State.setReg_seed (p : Page) (o : Nat) (v : Word) : (s.setReg p o v).seed = s.seed := rfl
@[simp] theorem State.setReg_pwr (p : Page) (o : Nat) (v : Word) : (s.setReg p o v).pwr = s.pwr := rfl
@[simp] theorem State.setReg_bist (p : Page) (o : Nat) (v : Word) : (s.setReg p o v).bist = s.bist := rfl
@[simp] theorem State.setReg_jtag (p : Page) (o : Nat) (v : Word) : (s.setReg p o v).jtag = s.jtag := rfl

/-! setCtr writes arr only. -/

@[simp] theorem State.setCtr_pending (d c : Nat) (v : Word) : (s.setCtr d c v).pending = s.pending := rfl
@[simp] theorem State.setCtr_fresh (d c : Nat) (v : Word) : (s.setCtr d c v).fresh = s.fresh := rfl
@[simp] theorem State.setCtr_out (d c : Nat) (v : Word) : (s.setCtr d c v).out = s.out := rfl
@[simp] theorem State.setCtr_ac (d c : Nat) (v : Word) : (s.setCtr d c v).ac = s.ac := rfl
@[simp] theorem State.setCtr_regs (d c : Nat) (v : Word) : (s.setCtr d c v).regs = s.regs := rfl
@[simp] theorem State.setCtr_mem (d c : Nat) (v : Word) : (s.setCtr d c v).mem = s.mem := rfl
@[simp] theorem State.setCtr_mems (d c : Nat) (v : Word) : (s.setCtr d c v).mems = s.mems := rfl
@[simp] theorem State.setCtr_tiles (d c : Nat) (v : Word) : (s.setCtr d c v).tiles = s.tiles := rfl
@[simp] theorem State.setCtr_groves (d c : Nat) (v : Word) : (s.setCtr d c v).groves = s.groves := rfl
@[simp] theorem State.setCtr_lanes (d c : Nat) (v : Word) : (s.setCtr d c v).lanes = s.lanes := rfl
@[simp] theorem State.setCtr_cells (d c : Nat) (v : Word) : (s.setCtr d c v).cells = s.cells := rfl
@[simp] theorem State.setCtr_mirrors (d c : Nat) (v : Word) : (s.setCtr d c v).mirrors = s.mirrors := rfl
@[simp] theorem State.setCtr_scheds (d c : Nat) (v : Word) : (s.setCtr d c v).scheds = s.scheds := rfl
@[simp] theorem State.setCtr_coord (d c : Nat) (v : Word) : (s.setCtr d c v).coord = s.coord := rfl
@[simp] theorem State.setCtr_codeSeq (d c : Nat) (v : Word) : (s.setCtr d c v).codeSeq = s.codeSeq := rfl
@[simp] theorem State.setCtr_insts (d c : Nat) (v : Word) : (s.setCtr d c v).insts = s.insts := rfl
@[simp] theorem State.setCtr_ctxs (d c : Nat) (v : Word) : (s.setCtr d c v).ctxs = s.ctxs := rfl
@[simp] theorem State.setCtr_fbk (d c : Nat) (v : Word) : (s.setCtr d c v).fbk = s.fbk := rfl
@[simp] theorem State.setCtr_arb (d c : Nat) (v : Word) : (s.setCtr d c v).arb = s.arb := rfl
@[simp] theorem State.setCtr_shape (d c : Nat) (v : Word) : (s.setCtr d c v).shape = s.shape := rfl
@[simp] theorem State.setCtr_time (d c : Nat) (v : Word) : (s.setCtr d c v).time = s.time := rfl
@[simp] theorem State.setCtr_recd (d c : Nat) (v : Word) : (s.setCtr d c v).recd = s.recd := rfl
@[simp] theorem State.setCtr_chks (d c : Nat) (v : Word) : (s.setCtr d c v).chks = s.chks := rfl
@[simp] theorem State.setCtr_fabric (d c : Nat) (v : Word) : (s.setCtr d c v).fabric = s.fabric := rfl
@[simp] theorem State.setCtr_eth (d c : Nat) (v : Word) : (s.setCtr d c v).eth = s.eth := rfl
@[simp] theorem State.setCtr_cxl (d c : Nat) (v : Word) : (s.setCtr d c v).cxl = s.cxl := rfl
@[simp] theorem State.setCtr_i3c (d c : Nat) (v : Word) : (s.setCtr d c v).i3c = s.i3c := rfl
@[simp] theorem State.setCtr_seed (d c : Nat) (v : Word) : (s.setCtr d c v).seed = s.seed := rfl
@[simp] theorem State.setCtr_pwr (d c : Nat) (v : Word) : (s.setCtr d c v).pwr = s.pwr := rfl
@[simp] theorem State.setCtr_bist (d c : Nat) (v : Word) : (s.setCtr d c v).bist = s.bist := rfl
@[simp] theorem State.setCtr_jtag (d c : Nat) (v : Word) : (s.setCtr d c v).jtag = s.jtag := rfl

/-! emit writes out only. -/

@[simp] theorem State.emit_pending (o : Output) : (s.emit o).pending = s.pending := rfl
@[simp] theorem State.emit_fresh (o : Output) : (s.emit o).fresh = s.fresh := rfl
@[simp] theorem State.emit_ac (o : Output) : (s.emit o).ac = s.ac := rfl
@[simp] theorem State.emit_regs (o : Output) : (s.emit o).regs = s.regs := rfl
@[simp] theorem State.emit_mem (o : Output) : (s.emit o).mem = s.mem := rfl
@[simp] theorem State.emit_mems (o : Output) : (s.emit o).mems = s.mems := rfl
@[simp] theorem State.emit_tiles (o : Output) : (s.emit o).tiles = s.tiles := rfl
@[simp] theorem State.emit_groves (o : Output) : (s.emit o).groves = s.groves := rfl
@[simp] theorem State.emit_lanes (o : Output) : (s.emit o).lanes = s.lanes := rfl
@[simp] theorem State.emit_cells (o : Output) : (s.emit o).cells = s.cells := rfl
@[simp] theorem State.emit_mirrors (o : Output) : (s.emit o).mirrors = s.mirrors := rfl
@[simp] theorem State.emit_scheds (o : Output) : (s.emit o).scheds = s.scheds := rfl
@[simp] theorem State.emit_coord (o : Output) : (s.emit o).coord = s.coord := rfl
@[simp] theorem State.emit_codeSeq (o : Output) : (s.emit o).codeSeq = s.codeSeq := rfl
@[simp] theorem State.emit_insts (o : Output) : (s.emit o).insts = s.insts := rfl
@[simp] theorem State.emit_ctxs (o : Output) : (s.emit o).ctxs = s.ctxs := rfl
@[simp] theorem State.emit_fbk (o : Output) : (s.emit o).fbk = s.fbk := rfl
@[simp] theorem State.emit_arr (o : Output) : (s.emit o).arr = s.arr := rfl
@[simp] theorem State.emit_arb (o : Output) : (s.emit o).arb = s.arb := rfl
@[simp] theorem State.emit_shape (o : Output) : (s.emit o).shape = s.shape := rfl
@[simp] theorem State.emit_time (o : Output) : (s.emit o).time = s.time := rfl
@[simp] theorem State.emit_recd (o : Output) : (s.emit o).recd = s.recd := rfl
@[simp] theorem State.emit_chks (o : Output) : (s.emit o).chks = s.chks := rfl
@[simp] theorem State.emit_fabric (o : Output) : (s.emit o).fabric = s.fabric := rfl
@[simp] theorem State.emit_eth (o : Output) : (s.emit o).eth = s.eth := rfl
@[simp] theorem State.emit_cxl (o : Output) : (s.emit o).cxl = s.cxl := rfl
@[simp] theorem State.emit_i3c (o : Output) : (s.emit o).i3c = s.i3c := rfl
@[simp] theorem State.emit_seed (o : Output) : (s.emit o).seed = s.seed := rfl
@[simp] theorem State.emit_pwr (o : Output) : (s.emit o).pwr = s.pwr := rfl
@[simp] theorem State.emit_bist (o : Output) : (s.emit o).bist = s.bist := rfl
@[simp] theorem State.emit_jtag (o : Output) : (s.emit o).jtag = s.jtag := rfl

/-! setHome writes mems only. -/

@[simp] theorem State.setHome_pending (pk : Nat) (h : Home) : (s.setHome pk h).pending = s.pending := rfl
@[simp] theorem State.setHome_fresh (pk : Nat) (h : Home) : (s.setHome pk h).fresh = s.fresh := rfl
@[simp] theorem State.setHome_out (pk : Nat) (h : Home) : (s.setHome pk h).out = s.out := rfl
@[simp] theorem State.setHome_ac (pk : Nat) (h : Home) : (s.setHome pk h).ac = s.ac := rfl
@[simp] theorem State.setHome_regs (pk : Nat) (h : Home) : (s.setHome pk h).regs = s.regs := rfl
@[simp] theorem State.setHome_mem (pk : Nat) (h : Home) : (s.setHome pk h).mem = s.mem := rfl
@[simp] theorem State.setHome_tiles (pk : Nat) (h : Home) : (s.setHome pk h).tiles = s.tiles := rfl
@[simp] theorem State.setHome_groves (pk : Nat) (h : Home) : (s.setHome pk h).groves = s.groves := rfl
@[simp] theorem State.setHome_lanes (pk : Nat) (h : Home) : (s.setHome pk h).lanes = s.lanes := rfl
@[simp] theorem State.setHome_cells (pk : Nat) (h : Home) : (s.setHome pk h).cells = s.cells := rfl
@[simp] theorem State.setHome_mirrors (pk : Nat) (h : Home) : (s.setHome pk h).mirrors = s.mirrors := rfl
@[simp] theorem State.setHome_scheds (pk : Nat) (h : Home) : (s.setHome pk h).scheds = s.scheds := rfl
@[simp] theorem State.setHome_coord (pk : Nat) (h : Home) : (s.setHome pk h).coord = s.coord := rfl
@[simp] theorem State.setHome_codeSeq (pk : Nat) (h : Home) : (s.setHome pk h).codeSeq = s.codeSeq := rfl
@[simp] theorem State.setHome_insts (pk : Nat) (h : Home) : (s.setHome pk h).insts = s.insts := rfl
@[simp] theorem State.setHome_ctxs (pk : Nat) (h : Home) : (s.setHome pk h).ctxs = s.ctxs := rfl
@[simp] theorem State.setHome_fbk (pk : Nat) (h : Home) : (s.setHome pk h).fbk = s.fbk := rfl
@[simp] theorem State.setHome_arr (pk : Nat) (h : Home) : (s.setHome pk h).arr = s.arr := rfl
@[simp] theorem State.setHome_arb (pk : Nat) (h : Home) : (s.setHome pk h).arb = s.arb := rfl
@[simp] theorem State.setHome_shape (pk : Nat) (h : Home) : (s.setHome pk h).shape = s.shape := rfl
@[simp] theorem State.setHome_time (pk : Nat) (h : Home) : (s.setHome pk h).time = s.time := rfl
@[simp] theorem State.setHome_recd (pk : Nat) (h : Home) : (s.setHome pk h).recd = s.recd := rfl
@[simp] theorem State.setHome_chks (pk : Nat) (h : Home) : (s.setHome pk h).chks = s.chks := rfl
@[simp] theorem State.setHome_fabric (pk : Nat) (h : Home) : (s.setHome pk h).fabric = s.fabric := rfl
@[simp] theorem State.setHome_eth (pk : Nat) (h : Home) : (s.setHome pk h).eth = s.eth := rfl
@[simp] theorem State.setHome_cxl (pk : Nat) (h : Home) : (s.setHome pk h).cxl = s.cxl := rfl
@[simp] theorem State.setHome_i3c (pk : Nat) (h : Home) : (s.setHome pk h).i3c = s.i3c := rfl
@[simp] theorem State.setHome_seed (pk : Nat) (h : Home) : (s.setHome pk h).seed = s.seed := rfl
@[simp] theorem State.setHome_pwr (pk : Nat) (h : Home) : (s.setHome pk h).pwr = s.pwr := rfl
@[simp] theorem State.setHome_bist (pk : Nat) (h : Home) : (s.setHome pk h).bist = s.bist := rfl
@[simp] theorem State.setHome_jtag (pk : Nat) (h : Home) : (s.setHome pk h).jtag = s.jtag := rfl

/-! setBist writes bist only. -/

@[simp] theorem State.setBist_pending (x : BistSt) : (s.setBist x).pending = s.pending := rfl
@[simp] theorem State.setBist_fresh (x : BistSt) : (s.setBist x).fresh = s.fresh := rfl
@[simp] theorem State.setBist_out (x : BistSt) : (s.setBist x).out = s.out := rfl
@[simp] theorem State.setBist_ac (x : BistSt) : (s.setBist x).ac = s.ac := rfl
@[simp] theorem State.setBist_regs (x : BistSt) : (s.setBist x).regs = s.regs := rfl
@[simp] theorem State.setBist_mem (x : BistSt) : (s.setBist x).mem = s.mem := rfl
@[simp] theorem State.setBist_mems (x : BistSt) : (s.setBist x).mems = s.mems := rfl
@[simp] theorem State.setBist_tiles (x : BistSt) : (s.setBist x).tiles = s.tiles := rfl
@[simp] theorem State.setBist_groves (x : BistSt) : (s.setBist x).groves = s.groves := rfl
@[simp] theorem State.setBist_lanes (x : BistSt) : (s.setBist x).lanes = s.lanes := rfl
@[simp] theorem State.setBist_cells (x : BistSt) : (s.setBist x).cells = s.cells := rfl
@[simp] theorem State.setBist_mirrors (x : BistSt) : (s.setBist x).mirrors = s.mirrors := rfl
@[simp] theorem State.setBist_scheds (x : BistSt) : (s.setBist x).scheds = s.scheds := rfl
@[simp] theorem State.setBist_coord (x : BistSt) : (s.setBist x).coord = s.coord := rfl
@[simp] theorem State.setBist_codeSeq (x : BistSt) : (s.setBist x).codeSeq = s.codeSeq := rfl
@[simp] theorem State.setBist_insts (x : BistSt) : (s.setBist x).insts = s.insts := rfl
@[simp] theorem State.setBist_ctxs (x : BistSt) : (s.setBist x).ctxs = s.ctxs := rfl
@[simp] theorem State.setBist_fbk (x : BistSt) : (s.setBist x).fbk = s.fbk := rfl
@[simp] theorem State.setBist_arr (x : BistSt) : (s.setBist x).arr = s.arr := rfl
@[simp] theorem State.setBist_arb (x : BistSt) : (s.setBist x).arb = s.arb := rfl
@[simp] theorem State.setBist_shape (x : BistSt) : (s.setBist x).shape = s.shape := rfl
@[simp] theorem State.setBist_time (x : BistSt) : (s.setBist x).time = s.time := rfl
@[simp] theorem State.setBist_recd (x : BistSt) : (s.setBist x).recd = s.recd := rfl
@[simp] theorem State.setBist_chks (x : BistSt) : (s.setBist x).chks = s.chks := rfl
@[simp] theorem State.setBist_fabric (x : BistSt) : (s.setBist x).fabric = s.fabric := rfl
@[simp] theorem State.setBist_eth (x : BistSt) : (s.setBist x).eth = s.eth := rfl
@[simp] theorem State.setBist_cxl (x : BistSt) : (s.setBist x).cxl = s.cxl := rfl
@[simp] theorem State.setBist_i3c (x : BistSt) : (s.setBist x).i3c = s.i3c := rfl
@[simp] theorem State.setBist_seed (x : BistSt) : (s.setBist x).seed = s.seed := rfl
@[simp] theorem State.setBist_pwr (x : BistSt) : (s.setBist x).pwr = s.pwr := rfl
@[simp] theorem State.setBist_jtag (x : BistSt) : (s.setBist x).jtag = s.jtag := rfl

/-! setCxl writes cxl only. -/

@[simp] theorem State.setCxl_pending (x : CxlSt) : (s.setCxl x).pending = s.pending := rfl
@[simp] theorem State.setCxl_fresh (x : CxlSt) : (s.setCxl x).fresh = s.fresh := rfl
@[simp] theorem State.setCxl_out (x : CxlSt) : (s.setCxl x).out = s.out := rfl
@[simp] theorem State.setCxl_ac (x : CxlSt) : (s.setCxl x).ac = s.ac := rfl
@[simp] theorem State.setCxl_regs (x : CxlSt) : (s.setCxl x).regs = s.regs := rfl
@[simp] theorem State.setCxl_mem (x : CxlSt) : (s.setCxl x).mem = s.mem := rfl
@[simp] theorem State.setCxl_mems (x : CxlSt) : (s.setCxl x).mems = s.mems := rfl
@[simp] theorem State.setCxl_tiles (x : CxlSt) : (s.setCxl x).tiles = s.tiles := rfl
@[simp] theorem State.setCxl_groves (x : CxlSt) : (s.setCxl x).groves = s.groves := rfl
@[simp] theorem State.setCxl_lanes (x : CxlSt) : (s.setCxl x).lanes = s.lanes := rfl
@[simp] theorem State.setCxl_cells (x : CxlSt) : (s.setCxl x).cells = s.cells := rfl
@[simp] theorem State.setCxl_mirrors (x : CxlSt) : (s.setCxl x).mirrors = s.mirrors := rfl
@[simp] theorem State.setCxl_scheds (x : CxlSt) : (s.setCxl x).scheds = s.scheds := rfl
@[simp] theorem State.setCxl_coord (x : CxlSt) : (s.setCxl x).coord = s.coord := rfl
@[simp] theorem State.setCxl_codeSeq (x : CxlSt) : (s.setCxl x).codeSeq = s.codeSeq := rfl
@[simp] theorem State.setCxl_insts (x : CxlSt) : (s.setCxl x).insts = s.insts := rfl
@[simp] theorem State.setCxl_ctxs (x : CxlSt) : (s.setCxl x).ctxs = s.ctxs := rfl
@[simp] theorem State.setCxl_fbk (x : CxlSt) : (s.setCxl x).fbk = s.fbk := rfl
@[simp] theorem State.setCxl_arr (x : CxlSt) : (s.setCxl x).arr = s.arr := rfl
@[simp] theorem State.setCxl_arb (x : CxlSt) : (s.setCxl x).arb = s.arb := rfl
@[simp] theorem State.setCxl_shape (x : CxlSt) : (s.setCxl x).shape = s.shape := rfl
@[simp] theorem State.setCxl_time (x : CxlSt) : (s.setCxl x).time = s.time := rfl
@[simp] theorem State.setCxl_recd (x : CxlSt) : (s.setCxl x).recd = s.recd := rfl
@[simp] theorem State.setCxl_chks (x : CxlSt) : (s.setCxl x).chks = s.chks := rfl
@[simp] theorem State.setCxl_fabric (x : CxlSt) : (s.setCxl x).fabric = s.fabric := rfl
@[simp] theorem State.setCxl_eth (x : CxlSt) : (s.setCxl x).eth = s.eth := rfl
@[simp] theorem State.setCxl_i3c (x : CxlSt) : (s.setCxl x).i3c = s.i3c := rfl
@[simp] theorem State.setCxl_seed (x : CxlSt) : (s.setCxl x).seed = s.seed := rfl
@[simp] theorem State.setCxl_pwr (x : CxlSt) : (s.setCxl x).pwr = s.pwr := rfl
@[simp] theorem State.setCxl_bist (x : CxlSt) : (s.setCxl x).bist = s.bist := rfl
@[simp] theorem State.setCxl_jtag (x : CxlSt) : (s.setCxl x).jtag = s.jtag := rfl

/-! setI3c writes i3c only. -/

@[simp] theorem State.setI3c_pending (x : I3cSt) : (s.setI3c x).pending = s.pending := rfl
@[simp] theorem State.setI3c_fresh (x : I3cSt) : (s.setI3c x).fresh = s.fresh := rfl
@[simp] theorem State.setI3c_out (x : I3cSt) : (s.setI3c x).out = s.out := rfl
@[simp] theorem State.setI3c_ac (x : I3cSt) : (s.setI3c x).ac = s.ac := rfl
@[simp] theorem State.setI3c_regs (x : I3cSt) : (s.setI3c x).regs = s.regs := rfl
@[simp] theorem State.setI3c_mem (x : I3cSt) : (s.setI3c x).mem = s.mem := rfl
@[simp] theorem State.setI3c_mems (x : I3cSt) : (s.setI3c x).mems = s.mems := rfl
@[simp] theorem State.setI3c_tiles (x : I3cSt) : (s.setI3c x).tiles = s.tiles := rfl
@[simp] theorem State.setI3c_groves (x : I3cSt) : (s.setI3c x).groves = s.groves := rfl
@[simp] theorem State.setI3c_lanes (x : I3cSt) : (s.setI3c x).lanes = s.lanes := rfl
@[simp] theorem State.setI3c_cells (x : I3cSt) : (s.setI3c x).cells = s.cells := rfl
@[simp] theorem State.setI3c_mirrors (x : I3cSt) : (s.setI3c x).mirrors = s.mirrors := rfl
@[simp] theorem State.setI3c_scheds (x : I3cSt) : (s.setI3c x).scheds = s.scheds := rfl
@[simp] theorem State.setI3c_coord (x : I3cSt) : (s.setI3c x).coord = s.coord := rfl
@[simp] theorem State.setI3c_codeSeq (x : I3cSt) : (s.setI3c x).codeSeq = s.codeSeq := rfl
@[simp] theorem State.setI3c_insts (x : I3cSt) : (s.setI3c x).insts = s.insts := rfl
@[simp] theorem State.setI3c_ctxs (x : I3cSt) : (s.setI3c x).ctxs = s.ctxs := rfl
@[simp] theorem State.setI3c_fbk (x : I3cSt) : (s.setI3c x).fbk = s.fbk := rfl
@[simp] theorem State.setI3c_arr (x : I3cSt) : (s.setI3c x).arr = s.arr := rfl
@[simp] theorem State.setI3c_arb (x : I3cSt) : (s.setI3c x).arb = s.arb := rfl
@[simp] theorem State.setI3c_shape (x : I3cSt) : (s.setI3c x).shape = s.shape := rfl
@[simp] theorem State.setI3c_time (x : I3cSt) : (s.setI3c x).time = s.time := rfl
@[simp] theorem State.setI3c_recd (x : I3cSt) : (s.setI3c x).recd = s.recd := rfl
@[simp] theorem State.setI3c_chks (x : I3cSt) : (s.setI3c x).chks = s.chks := rfl
@[simp] theorem State.setI3c_fabric (x : I3cSt) : (s.setI3c x).fabric = s.fabric := rfl
@[simp] theorem State.setI3c_eth (x : I3cSt) : (s.setI3c x).eth = s.eth := rfl
@[simp] theorem State.setI3c_cxl (x : I3cSt) : (s.setI3c x).cxl = s.cxl := rfl
@[simp] theorem State.setI3c_seed (x : I3cSt) : (s.setI3c x).seed = s.seed := rfl
@[simp] theorem State.setI3c_pwr (x : I3cSt) : (s.setI3c x).pwr = s.pwr := rfl
@[simp] theorem State.setI3c_bist (x : I3cSt) : (s.setI3c x).bist = s.bist := rfl
@[simp] theorem State.setI3c_jtag (x : I3cSt) : (s.setI3c x).jtag = s.jtag := rfl

/-! setPwr writes pwr only. -/

@[simp] theorem State.setPwr_pending (x : PwrSt) : (s.setPwr x).pending = s.pending := rfl
@[simp] theorem State.setPwr_fresh (x : PwrSt) : (s.setPwr x).fresh = s.fresh := rfl
@[simp] theorem State.setPwr_out (x : PwrSt) : (s.setPwr x).out = s.out := rfl
@[simp] theorem State.setPwr_ac (x : PwrSt) : (s.setPwr x).ac = s.ac := rfl
@[simp] theorem State.setPwr_regs (x : PwrSt) : (s.setPwr x).regs = s.regs := rfl
@[simp] theorem State.setPwr_mem (x : PwrSt) : (s.setPwr x).mem = s.mem := rfl
@[simp] theorem State.setPwr_mems (x : PwrSt) : (s.setPwr x).mems = s.mems := rfl
@[simp] theorem State.setPwr_tiles (x : PwrSt) : (s.setPwr x).tiles = s.tiles := rfl
@[simp] theorem State.setPwr_groves (x : PwrSt) : (s.setPwr x).groves = s.groves := rfl
@[simp] theorem State.setPwr_lanes (x : PwrSt) : (s.setPwr x).lanes = s.lanes := rfl
@[simp] theorem State.setPwr_cells (x : PwrSt) : (s.setPwr x).cells = s.cells := rfl
@[simp] theorem State.setPwr_mirrors (x : PwrSt) : (s.setPwr x).mirrors = s.mirrors := rfl
@[simp] theorem State.setPwr_scheds (x : PwrSt) : (s.setPwr x).scheds = s.scheds := rfl
@[simp] theorem State.setPwr_coord (x : PwrSt) : (s.setPwr x).coord = s.coord := rfl
@[simp] theorem State.setPwr_codeSeq (x : PwrSt) : (s.setPwr x).codeSeq = s.codeSeq := rfl
@[simp] theorem State.setPwr_insts (x : PwrSt) : (s.setPwr x).insts = s.insts := rfl
@[simp] theorem State.setPwr_ctxs (x : PwrSt) : (s.setPwr x).ctxs = s.ctxs := rfl
@[simp] theorem State.setPwr_fbk (x : PwrSt) : (s.setPwr x).fbk = s.fbk := rfl
@[simp] theorem State.setPwr_arr (x : PwrSt) : (s.setPwr x).arr = s.arr := rfl
@[simp] theorem State.setPwr_arb (x : PwrSt) : (s.setPwr x).arb = s.arb := rfl
@[simp] theorem State.setPwr_shape (x : PwrSt) : (s.setPwr x).shape = s.shape := rfl
@[simp] theorem State.setPwr_time (x : PwrSt) : (s.setPwr x).time = s.time := rfl
@[simp] theorem State.setPwr_recd (x : PwrSt) : (s.setPwr x).recd = s.recd := rfl
@[simp] theorem State.setPwr_chks (x : PwrSt) : (s.setPwr x).chks = s.chks := rfl
@[simp] theorem State.setPwr_fabric (x : PwrSt) : (s.setPwr x).fabric = s.fabric := rfl
@[simp] theorem State.setPwr_eth (x : PwrSt) : (s.setPwr x).eth = s.eth := rfl
@[simp] theorem State.setPwr_cxl (x : PwrSt) : (s.setPwr x).cxl = s.cxl := rfl
@[simp] theorem State.setPwr_i3c (x : PwrSt) : (s.setPwr x).i3c = s.i3c := rfl
@[simp] theorem State.setPwr_seed (x : PwrSt) : (s.setPwr x).seed = s.seed := rfl
@[simp] theorem State.setPwr_bist (x : PwrSt) : (s.setPwr x).bist = s.bist := rfl
@[simp] theorem State.setPwr_jtag (x : PwrSt) : (s.setPwr x).jtag = s.jtag := rfl

/-! setTime writes time only. -/

@[simp] theorem State.setTime_pending (x : TimeSt) : (s.setTime x).pending = s.pending := rfl
@[simp] theorem State.setTime_fresh (x : TimeSt) : (s.setTime x).fresh = s.fresh := rfl
@[simp] theorem State.setTime_out (x : TimeSt) : (s.setTime x).out = s.out := rfl
@[simp] theorem State.setTime_ac (x : TimeSt) : (s.setTime x).ac = s.ac := rfl
@[simp] theorem State.setTime_regs (x : TimeSt) : (s.setTime x).regs = s.regs := rfl
@[simp] theorem State.setTime_mem (x : TimeSt) : (s.setTime x).mem = s.mem := rfl
@[simp] theorem State.setTime_mems (x : TimeSt) : (s.setTime x).mems = s.mems := rfl
@[simp] theorem State.setTime_tiles (x : TimeSt) : (s.setTime x).tiles = s.tiles := rfl
@[simp] theorem State.setTime_groves (x : TimeSt) : (s.setTime x).groves = s.groves := rfl
@[simp] theorem State.setTime_lanes (x : TimeSt) : (s.setTime x).lanes = s.lanes := rfl
@[simp] theorem State.setTime_cells (x : TimeSt) : (s.setTime x).cells = s.cells := rfl
@[simp] theorem State.setTime_mirrors (x : TimeSt) : (s.setTime x).mirrors = s.mirrors := rfl
@[simp] theorem State.setTime_scheds (x : TimeSt) : (s.setTime x).scheds = s.scheds := rfl
@[simp] theorem State.setTime_coord (x : TimeSt) : (s.setTime x).coord = s.coord := rfl
@[simp] theorem State.setTime_codeSeq (x : TimeSt) : (s.setTime x).codeSeq = s.codeSeq := rfl
@[simp] theorem State.setTime_insts (x : TimeSt) : (s.setTime x).insts = s.insts := rfl
@[simp] theorem State.setTime_ctxs (x : TimeSt) : (s.setTime x).ctxs = s.ctxs := rfl
@[simp] theorem State.setTime_fbk (x : TimeSt) : (s.setTime x).fbk = s.fbk := rfl
@[simp] theorem State.setTime_arr (x : TimeSt) : (s.setTime x).arr = s.arr := rfl
@[simp] theorem State.setTime_arb (x : TimeSt) : (s.setTime x).arb = s.arb := rfl
@[simp] theorem State.setTime_shape (x : TimeSt) : (s.setTime x).shape = s.shape := rfl
@[simp] theorem State.setTime_recd (x : TimeSt) : (s.setTime x).recd = s.recd := rfl
@[simp] theorem State.setTime_chks (x : TimeSt) : (s.setTime x).chks = s.chks := rfl
@[simp] theorem State.setTime_fabric (x : TimeSt) : (s.setTime x).fabric = s.fabric := rfl
@[simp] theorem State.setTime_eth (x : TimeSt) : (s.setTime x).eth = s.eth := rfl
@[simp] theorem State.setTime_cxl (x : TimeSt) : (s.setTime x).cxl = s.cxl := rfl
@[simp] theorem State.setTime_i3c (x : TimeSt) : (s.setTime x).i3c = s.i3c := rfl
@[simp] theorem State.setTime_seed (x : TimeSt) : (s.setTime x).seed = s.seed := rfl
@[simp] theorem State.setTime_pwr (x : TimeSt) : (s.setTime x).pwr = s.pwr := rfl
@[simp] theorem State.setTime_bist (x : TimeSt) : (s.setTime x).bist = s.bist := rfl
@[simp] theorem State.setTime_jtag (x : TimeSt) : (s.setTime x).jtag = s.jtag := rfl

/-! setSeed writes seed only. -/

@[simp] theorem State.setSeed_pending (x : SeedSt) : (s.setSeed x).pending = s.pending := rfl
@[simp] theorem State.setSeed_fresh (x : SeedSt) : (s.setSeed x).fresh = s.fresh := rfl
@[simp] theorem State.setSeed_out (x : SeedSt) : (s.setSeed x).out = s.out := rfl
@[simp] theorem State.setSeed_ac (x : SeedSt) : (s.setSeed x).ac = s.ac := rfl
@[simp] theorem State.setSeed_regs (x : SeedSt) : (s.setSeed x).regs = s.regs := rfl
@[simp] theorem State.setSeed_mem (x : SeedSt) : (s.setSeed x).mem = s.mem := rfl
@[simp] theorem State.setSeed_mems (x : SeedSt) : (s.setSeed x).mems = s.mems := rfl
@[simp] theorem State.setSeed_tiles (x : SeedSt) : (s.setSeed x).tiles = s.tiles := rfl
@[simp] theorem State.setSeed_groves (x : SeedSt) : (s.setSeed x).groves = s.groves := rfl
@[simp] theorem State.setSeed_lanes (x : SeedSt) : (s.setSeed x).lanes = s.lanes := rfl
@[simp] theorem State.setSeed_cells (x : SeedSt) : (s.setSeed x).cells = s.cells := rfl
@[simp] theorem State.setSeed_mirrors (x : SeedSt) : (s.setSeed x).mirrors = s.mirrors := rfl
@[simp] theorem State.setSeed_scheds (x : SeedSt) : (s.setSeed x).scheds = s.scheds := rfl
@[simp] theorem State.setSeed_coord (x : SeedSt) : (s.setSeed x).coord = s.coord := rfl
@[simp] theorem State.setSeed_codeSeq (x : SeedSt) : (s.setSeed x).codeSeq = s.codeSeq := rfl
@[simp] theorem State.setSeed_insts (x : SeedSt) : (s.setSeed x).insts = s.insts := rfl
@[simp] theorem State.setSeed_ctxs (x : SeedSt) : (s.setSeed x).ctxs = s.ctxs := rfl
@[simp] theorem State.setSeed_fbk (x : SeedSt) : (s.setSeed x).fbk = s.fbk := rfl
@[simp] theorem State.setSeed_arr (x : SeedSt) : (s.setSeed x).arr = s.arr := rfl
@[simp] theorem State.setSeed_arb (x : SeedSt) : (s.setSeed x).arb = s.arb := rfl
@[simp] theorem State.setSeed_shape (x : SeedSt) : (s.setSeed x).shape = s.shape := rfl
@[simp] theorem State.setSeed_time (x : SeedSt) : (s.setSeed x).time = s.time := rfl
@[simp] theorem State.setSeed_recd (x : SeedSt) : (s.setSeed x).recd = s.recd := rfl
@[simp] theorem State.setSeed_chks (x : SeedSt) : (s.setSeed x).chks = s.chks := rfl
@[simp] theorem State.setSeed_fabric (x : SeedSt) : (s.setSeed x).fabric = s.fabric := rfl
@[simp] theorem State.setSeed_eth (x : SeedSt) : (s.setSeed x).eth = s.eth := rfl
@[simp] theorem State.setSeed_cxl (x : SeedSt) : (s.setSeed x).cxl = s.cxl := rfl
@[simp] theorem State.setSeed_i3c (x : SeedSt) : (s.setSeed x).i3c = s.i3c := rfl
@[simp] theorem State.setSeed_pwr (x : SeedSt) : (s.setSeed x).pwr = s.pwr := rfl
@[simp] theorem State.setSeed_bist (x : SeedSt) : (s.setSeed x).bist = s.bist := rfl
@[simp] theorem State.setSeed_jtag (x : SeedSt) : (s.setSeed x).jtag = s.jtag := rfl

/-! A unit read after a write of that unit, of another unit; two writes of one unit. -/

@[simp] theorem State.setTile_self (t : Nat) (x : Tile) : (s.setTile t x).tile t = x := by simp [State.setTile, State.tile]
theorem State.setTile_ne (t j : Nat) (x : Tile) (h : j ≠ t) : (s.setTile t x).tile j = s.tile j := by simp [State.setTile, State.tile, Table.get_set_ne h]
@[simp] theorem State.setTile_setTile (t : Nat) (x y : Tile) : (s.setTile t x).setTile t y = s.setTile t y := by simp [State.setTile]
@[simp] theorem State.setGrove_self (g : Nat) (x : Grove) : (s.setGrove g x).grove g = x := by simp [State.setGrove, State.grove]
theorem State.setGrove_ne (g j : Nat) (x : Grove) (h : j ≠ g) : (s.setGrove g x).grove j = s.grove j := by simp [State.setGrove, State.grove, Table.get_set_ne h]
@[simp] theorem State.setGrove_setGrove (g : Nat) (x y : Grove) : (s.setGrove g x).setGrove g y = s.setGrove g y := by simp [State.setGrove]
@[simp] theorem State.setLane_self (l : Nat) (x : Lane) : (s.setLane l x).lane l = x := by simp [State.setLane, State.lane]
theorem State.setLane_ne (l j : Nat) (x : Lane) (h : j ≠ l) : (s.setLane l x).lane j = s.lane j := by simp [State.setLane, State.lane, Table.get_set_ne h]
@[simp] theorem State.setLane_setLane (l : Nat) (x y : Lane) : (s.setLane l x).setLane l y = s.setLane l y := by simp [State.setLane]
@[simp] theorem State.setCell_self (c : Nat) (x : Cell) : (s.setCell c x).cell c = x := by simp [State.setCell, State.cell]
theorem State.setCell_ne (c j : Nat) (x : Cell) (h : j ≠ c) : (s.setCell c x).cell j = s.cell j := by simp [State.setCell, State.cell, Table.get_set_ne h]
@[simp] theorem State.setCell_setCell (c : Nat) (x y : Cell) : (s.setCell c x).setCell c y = s.setCell c y := by simp [State.setCell]
@[simp] theorem State.setMirror_self (c : Nat) (x : MirrorEntry) : (s.setMirror c x).mirror c = x := by simp [State.setMirror, State.mirror]
theorem State.setMirror_ne (c j : Nat) (x : MirrorEntry) (h : j ≠ c) : (s.setMirror c x).mirror j = s.mirror j := by simp [State.setMirror, State.mirror, Table.get_set_ne h]
@[simp] theorem State.setMirror_setMirror (c : Nat) (x y : MirrorEntry) : (s.setMirror c x).setMirror c y = s.setMirror c y := by simp [State.setMirror]
@[simp] theorem State.setInst_self (i : Nat) (x : Inst) : (s.setInst i x).inst i = x := by simp [State.setInst, State.inst]
theorem State.setInst_ne (i j : Nat) (x : Inst) (h : j ≠ i) : (s.setInst i x).inst j = s.inst j := by simp [State.setInst, State.inst, Table.get_set_ne h]
@[simp] theorem State.setInst_setInst (i : Nat) (x y : Inst) : (s.setInst i x).setInst i y = s.setInst i y := by simp [State.setInst]
@[simp] theorem State.setCtx_self (k : Nat) (x : ReqCtx) : (s.setCtx k x).ctx k = x := by simp [State.setCtx, State.ctx]
theorem State.setCtx_ne (k j : Nat) (x : ReqCtx) (h : j ≠ k) : (s.setCtx k x).ctx j = s.ctx j := by simp [State.setCtx, State.ctx, Table.get_set_ne h]
@[simp] theorem State.setCtx_setCtx (k : Nat) (x y : ReqCtx) : (s.setCtx k x).setCtx k y = s.setCtx k y := by simp [State.setCtx]
@[simp] theorem State.setChk_self (k : Nat) (x : ChkSt) : (s.setChk k x).chk k = x := by simp [State.setChk, State.chk]
theorem State.setChk_ne (k j : Nat) (x : ChkSt) (h : j ≠ k) : (s.setChk k x).chk j = s.chk j := by simp [State.setChk, State.chk, Table.get_set_ne h]
@[simp] theorem State.setChk_setChk (k : Nat) (x y : ChkSt) : (s.setChk k x).setChk k y = s.setChk k y := by simp [State.setChk]
@[simp] theorem State.setEth_self (p : Nat) (x : EthSt) : (s.setEth p x).ethp p = x := by simp [State.setEth, State.ethp]
theorem State.setEth_ne (p j : Nat) (x : EthSt) (h : j ≠ p) : (s.setEth p x).ethp j = s.ethp j := by simp [State.setEth, State.ethp, Table.get_set_ne h]
@[simp] theorem State.setEth_setEth (p : Nat) (x y : EthSt) : (s.setEth p x).setEth p y = s.setEth p y := by simp [State.setEth]
@[simp] theorem State.setPort_self (p : Nat) (x : CkxPortSt) : (s.setPort p x).port p = x := by simp [State.setPort, State.port]
theorem State.setPort_ne (p j : Nat) (x : CkxPortSt) (h : j ≠ p) : (s.setPort p x).port j = s.port j := by simp [State.setPort, State.port, Table.get_set_ne h]
@[simp] theorem State.setPort_setPort (p : Nat) (x y : CkxPortSt) : (s.setPort p x).setPort p y = s.setPort p y := by simp [State.setPort]
@[simp] theorem State.setFstream_self (k : Nat) (x : FStream) : (s.setFstream k x).fstream k = x := by simp [State.setFstream, State.fstream]
theorem State.setFstream_ne (k j : Nat) (x : FStream) (h : j ≠ k) : (s.setFstream k x).fstream j = s.fstream j := by simp [State.setFstream, State.fstream, Table.get_set_ne h]
@[simp] theorem State.setFstream_setFstream (k : Nat) (x y : FStream) : (s.setFstream k x).setFstream k y = s.setFstream k y := by simp [State.setFstream]
@[simp] theorem State.setAgent_self (d : Nat) (x : Agent) : (s.setAgent d x).agent d = x := by simp [State.setAgent, State.agent]
theorem State.setAgent_ne (d j : Nat) (x : Agent) (h : j ≠ d) : (s.setAgent d x).agent j = s.agent j := by simp [State.setAgent, State.agent, Table.get_set_ne h]
@[simp] theorem State.setAgent_setAgent (d : Nat) (x y : Agent) : (s.setAgent d x).setAgent d y = s.setAgent d y := by simp [State.setAgent]
@[simp] theorem State.setL2q_self (q : Nat) (x : L2q) : (s.setL2q q x).l2q q = x := by simp [State.setL2q, State.l2q]
theorem State.setL2q_ne (q j : Nat) (x : L2q) (h : j ≠ q) : (s.setL2q q x).l2q j = s.l2q j := by simp [State.setL2q, State.l2q, Table.get_set_ne h]
@[simp] theorem State.setL2q_setL2q (q : Nat) (x y : L2q) : (s.setL2q q x).setL2q q y = s.setL2q q y := by simp [State.setL2q]
@[simp] theorem State.setHome_self (k : Nat) (x : Home) : (s.setHome k x).home k = x := by simp [State.setHome, State.home]
theorem State.setHome_ne (k j : Nat) (x : Home) (h : j ≠ k) : (s.setHome k x).home j = s.home j := by simp [State.setHome, State.home, Table.get_set_ne h]
@[simp] theorem State.setHome_setHome (k : Nat) (x y : Home) : (s.setHome k x).setHome k y = s.setHome k y := by simp [State.setHome]

@[simp] theorem State.setLv_self (x : LvSt) : (s.setLv x).lv = x := rfl
@[simp] theorem State.setBist_self (x : BistSt) : (s.setBist x).bist = x := rfl
@[simp] theorem State.setCxl_self (x : CxlSt) : (s.setCxl x).cxl = x := rfl
@[simp] theorem State.setI3c_self (x : I3cSt) : (s.setI3c x).i3c = x := rfl
@[simp] theorem State.setPwr_self (x : PwrSt) : (s.setPwr x).pwr = x := rfl
@[simp] theorem State.setTime_self (x : TimeSt) : (s.setTime x).time = x := rfl
@[simp] theorem State.setSeed_self (x : SeedSt) : (s.setSeed x).seed = x := rfl

@[simp] theorem State.setReg_self (p : Page) (o : Nat) (v : Word) : (s.setReg p o v).reg p o = v := by simp [State.setReg, State.reg]

theorem State.setReg_ne (p q : Page) (o r : Nat) (v : Word) (h : regKey q r ≠ regKey p o) : (s.setReg p o v).reg q r = s.reg q r := by
  simp [State.setReg, State.reg, Table.get_set_ne h]

@[simp] theorem State.setCtr_self (d c : Nat) (v : Word) : (s.setCtr d c v).ctr d c = v := by simp [State.setCtr, State.ctr]

/-! The updates that apply a function are writes of the function's value. -/

theorem State.updTile_eq (t : Nat) (f : Tile → Tile) : s.updTile t f = s.setTile t (f (s.tile t)) := rfl
theorem State.updGrove_eq (g : Nat) (f : Grove → Grove) : s.updGrove g f = s.setGrove g (f (s.grove g)) := rfl
theorem State.updLane_eq (l : Nat) (f : Lane → Lane) : s.updLane l f = s.setLane l (f (s.lane l)) := rfl
theorem State.updCell_eq (c : Nat) (f : Cell → Cell) : s.updCell c f = s.setCell c (f (s.cell c)) := rfl
theorem State.updInst_eq (i : Nat) (f : Inst → Inst) : s.updInst i f = s.setInst i (f (s.inst i)) := rfl
theorem State.updCtx_eq (k : Nat) (f : ReqCtx → ReqCtx) : s.updCtx k f = s.setCtx k (f (s.ctx k)) := rfl
theorem State.updEth_eq (p : Nat) (f : EthSt → EthSt) : s.updEth p f = s.setEth p (f (s.ethp p)) := rfl
theorem State.updPort_eq (p : Nat) (f : CkxPortSt → CkxPortSt) : s.updPort p f = s.setPort p (f (s.port p)) := rfl

end Sys2Proof.Machine
end

