-- ==== Sys2Proof/Laws/Ops.lean ====
section
/-! SUPPORT. Everything that the shared operations over registers, events, counters and messages can do, once for each. -/

namespace Sys2Proof.Machine

variable (s : State)

/-! Scaler counters (R501). -/

/-- A count changes one scaler counter and nothing else. -/
theorem State.bump_frame (p : Page) (i n : Nat) : s.bump p i n = { s with regs := { s.regs with scal := (s.bump p i n).regs.scal } } := by
  unfold State.bump; split <;> rfl

@[simp] theorem State.bump_zero (p : Page) (i : Nat) : s.bump p i 0 = s := rfl

/-- The counter after a count: it saturates. -/
theorem State.bump_scaler (p : Page) (i n : Nat) (h : s.scaler p i ≤ 0xFFFFFFFF) :
    (s.bump p i n).scaler p i = min (s.scaler p i + n) 0xFFFFFFFF := by
  unfold State.bump
  split
  · subst_vars; simp [Nat.min_eq_left h]
  · simp [State.scaler, satAdd]

/-- A write that is ignored and counted changes scaler counters only. -/
theorem State.ignored_frame (p : Page) : s.ignored p = { s with regs := { s.regs with scal := (s.ignored p).regs.scal } } :=
  State.bump_frame s p _ 1

/-! Interrupts (R510). -/

/-- A message of a vector leaves, or stays pending. -/
theorem State.sendVector_frame (v : Nat) :
    s.sendVector v = { s with regs := { s.regs with pba := (s.sendVector v).regs.pba }, out := (s.sendVector v).out } := by
  unfold State.sendVector; split <;> rfl

theorem State.notifyBar0_frame (p : Page) :
    s.notifyBar0 p = { s with regs := { s.regs with pba := (s.notifyBar0 p).regs.pba }, out := (s.notifyBar0 p).out } :=
  State.sendVector_frame s _

/-- An event of a BAR0 page changes the page's event registers, pending vectors and what has left. -/
theorem State.evtBar0_frame (p : Page) (raw pulse : Word) :
    s.evtBar0 p raw pulse = { s with regs := { s.regs with evtRaw := (s.evtBar0 p raw pulse).regs.evtRaw, evtPend := (s.evtBar0 p raw pulse).regs.evtPend, pba := (s.evtBar0 p raw pulse).regs.pba }, out := (s.evtBar0 p raw pulse).out } := by
  simp only [State.evtBar0]
  split
  · rw [State.notifyBar0_frame]; rfl
  · rfl

theorem State.level_frame (p : Page) (b : Nat) (on : Bool) :
    s.level p b on = { s with regs := { s.regs with evtRaw := (s.level p b on).regs.evtRaw, evtPend := (s.level p b on).regs.evtPend, pba := (s.level p b on).regs.pba }, out := (s.level p b on).out } :=
  State.evtBar0_frame s p _ 0

theorem State.pulse_frame (p : Page) (b : Nat) :
    s.pulse p b = { s with regs := { s.regs with evtRaw := (s.pulse p b).regs.evtRaw, evtPend := (s.pulse p b).regs.evtPend, pba := (s.pulse p b).regs.pba }, out := (s.pulse p b).out } :=
  State.evtBar0_frame s p _ _

/-- EVT_RAW after an event is the new condition. -/
theorem State.evtBar0_raw (p : Page) (raw pulse : Word) : (s.evtBar0 p raw pulse).evtRaw p = raw := by
  simp only [State.evtBar0]
  split
  · rw [State.notifyBar0_frame]; simp [State.evtRaw, State.latch]
  · simp [State.evtRaw, State.latch]

/-- EVT_PEND after an event holds what it held, the new condition and the pulse. -/
theorem State.evtBar0_pend (p : Page) (raw pulse : Word) : (s.evtBar0 p raw pulse).evtPend p = s.evtPend p ||| raw ||| pulse := by
  simp only [State.evtBar0]
  split
  · rw [State.notifyBar0_frame]; simp [State.evtPend, State.latch]
  · simp [State.evtPend, State.latch]

/-- OVER of a die changes event registers of the coordinator's page only. -/
theorem State.overCheck_frame (d : Nat) :
    s.overCheck d = { s with regs := { s.regs with evtRaw := (s.overCheck d).regs.evtRaw, evtPend := (s.overCheck d).regs.evtPend, pba := (s.overCheck d).regs.pba }, out := (s.overCheck d).out } := by
  simp only [State.overCheck]
  split
  · rfl
  · exact State.level_frame s _ _ _

/-! Folds: a property that every step keeps. -/

/-- A property that f keeps at every element is kept by a fold over a list. -/
theorem foldS_keeps {α β : Type} {P : α → Prop} {f : β → α → α} (l : List β) (h : ∀ x ∈ l, ∀ a, P a → P (f x a)) {a : α} (ha : P a) :
    P (foldS l f a) := by
  unfold foldS
  induction l generalizing a with
  | nil => exact ha
  | cons x l ih =>
    exact ih (fun y hy => h y (List.mem_cons_of_mem _ hy)) (h x (List.mem_cons_self ..) a ha)

/-- The same over the numbers below n. -/
theorem foldN_keeps {α : Type} {P : α → Prop} {f : Nat → α → α} (n : Nat) (h : ∀ i, i < n → ∀ a, P a → P (f i a)) {a : α} (ha : P a) :
    P (foldN n f a) :=
  foldS_keeps (f := f) (List.range n) (fun i hi => h i (List.mem_range.1 hi)) ha

/-! Free values (log entry 3). -/

/-- A free value advances the counter of free values and nothing else. -/
theorem State.takeFree_frame : s.takeFree.2 = { s with fresh := s.fresh + 1 } := rfl

/-! Arbitration points (R222, R223, R312, R313). -/

/-- A grant changes a shaping bucket and nothing else. -/
theorem State.takeGrant_frame (d pt : Nat) : s.takeGrant d pt = { s with shape := (s.takeGrant d pt).shape } := by
  unfold State.takeGrant; split <;> rfl

/-- A domain that is not shaped pays for no grant. -/
theorem State.takeGrant_unshaped (d pt : Nat) (h : s.shaped d = false) : s.takeGrant d pt = s := by
  simp [State.takeGrant, h]

/-- A tie that is settled changes the turns of the points and nothing else. -/
theorem State.tieWon_frame (pt : Nat) (a : ArbWhat) (tag : Nat) (late : Bool) :
    s.tieWon pt a tag late = { s with mems := { s.mems with rr := (s.tieWon pt a tag late).mems.rr } } := by
  unfold State.tieWon; split <;> rfl

/-- A request that leaves its points changes what they hold and nothing else. -/
theorem State.leavePoints_frame (a : ArbWhat) : s.leavePoints a = { s with arb := (s.leavePoints a).arb } := rfl

/-- So does one that takes an entry. -/
theorem State.holdAt_frame (pt d : Nat) (a : ArbWhat) (tag : Nat) (late : Bool) :
    s.holdAt pt d a tag late = { s with arb := (s.holdAt pt d a tag late).arb } := by
  unfold State.holdAt
  split
  · rfl
  · split <;> rfl

/-- A request whose domain finds no entry at a point stays where it was. -/
theorem State.holdAt_full (pt d : Nat) (a : ArbWhat) (tag : Nat) (late : Bool) (h : s.entryFree pt d a = false) :
    s.holdAt pt d a tag late = s := by
  unfold State.holdAt
  split
  · rfl
  · simp [h]

/-- An access at its points changes what they hold, their buckets and their turns, and nothing else. -/
theorem State.arbitrate_frame (d : Nat) (a : ArbWhat) (tag : Nat) (late : Bool) (pts : List Nat) :
    (s.arbitrate d a tag late pts).2 = { s with
      arb := (s.arbitrate d a tag late pts).2.arb
      shape := (s.arbitrate d a tag late pts).2.shape
      mems := { s.mems with rr := (s.arbitrate d a tag late pts).2.mems.rr } } := by
  have key (P : State → Prop) (hP : P = fun t => t = { s with arb := t.arb, shape := t.shape, mems := { s.mems with rr := t.mems.rr } }) :
      P (s.arbitrate d a tag late pts).2 := by
    have grant (pt : Nat) (t : State) (ht : P t) : P (t.takeGrant d pt) := by
      subst hP; rw [State.takeGrant_frame]; exact congrArg (fun u : State => { u with shape := (t.takeGrant d pt).shape }) ht
    have tie (pt : Nat) (l : Bool) (t : State) (ht : P t) : P (t.tieWon pt a tag l) := by
      subst hP; rw [State.tieWon_frame]; exact congrArg (fun u : State => { u with mems := { u.mems with rr := (t.tieWon pt a tag l).mems.rr } }) ht
    have leave (t : State) (ht : P t) : P (t.leavePoints a) := by
      subst hP; rw [State.leavePoints_frame]; exact congrArg (fun u : State => { u with arb := (t.leavePoints a).arb }) ht
    have self : P s := by subst hP; rfl
    simp only [State.arbitrate]
    split
    · subst hP; rw [State.holdAt_frame]
    · exact foldS_keeps _ (fun pt _ t ht => grant pt t ht) (leave _ (foldS_keeps _ (fun pt _ t ht => tie pt _ t ht) self))
  exact key _ rfl

/-! Lines of device memory that the host holds (R437). -/

/-- Lines that the host takes change what it holds and nothing else. -/
theorem State.hostTakes_frame (k va len : Nat) (on : Bool) :
    s.hostTakes k va len on = { s with cxl := { s.cxl with hostLines := (s.hostTakes k va len on).cxl.hostLines } } := rfl

/-- A host that holds no line is not snooped. -/
theorem State.snoopHost_none (k va len : Nat) (h : s.cxl.hostLines = []) : s.snoopHost k va len = s := by
  simp [State.snoopHost, h]

end Sys2Proof.Machine
end

