-- ==== Sys2Proof/Tests/Slice0.lean ====
section
/-! SUPPORT. Tests: ill-formed commands are refused, worked examples of the manual, and witnesses that the statements' hypotheses can be met. -/

set_option maxRecDepth 20000

namespace Sys2Proof

open Sys2Proof.Machine

/-! Ill-formed commands: one for each check of WellFormed. -/

/-- None of these commands is well formed. -/
def illFormed (is : List Instr) : Bool := is.all (fun i => !wellFormed i)

theorem test_wf_registers : illFormed [
  .registerWrite {} ⟨.tile, 1024⟩ 0x100 0, .registerWrite {} ⟨.tile, 0⟩ 0x101 0, .registerWrite {} ⟨.tile, 0⟩ 4096 0,
  .unsupportedRegisterAccess ⟨{}, ⟨.tile, 1024⟩⟩ 0 2, .unsupportedRegisterAccess ⟨{}, ⟨.tile, 0⟩⟩ 4096 2,
  .unsupportedRegisterAccess ⟨{}, ⟨.tile, 0⟩⟩ 0 0, .unsupportedRegisterAccess ⟨{}, ⟨.tile, 0⟩⟩ 0 4,
  .tenantManagementAccess 5 ⟨.lane, 128⟩, .tenantManagementAccess 5 ⟨.mbx, 3⟩,
  .commit ⟨.grv, 32⟩, .commit ⟨.msix, 0⟩, .evtPendClear ⟨.grv, 32⟩ 1, .evtPendClear ⟨.msix, 0⟩ 1,
  .evtMaskWrite ⟨.grv, 32⟩ 1, .evtMaskWrite ⟨.msix, 0⟩ 1] = true := by decide

theorem test_wf_start_bits : illFormed [
  .tileCtrlHostWrite 0 4, .enable 0 0 0, .laneContextDisable 0 0 1, .groupCommit 0, .encode 0 0, .rebuild 0 0,
  .install 0, .anchorClear 0, .raise 0, .tenantAttestationRequest 0 0, .managerAttestationRequest 0,
  .moduleReset 0, .sleep 1, .injectionArm 32, .injectionDisarm 0, .dump 0, .clr 1] = true := by decide

theorem test_wf_ops : illFormed [
  .admitCell 2, .remove 1, .removeForce 2, .register 0 2, .unregister 0 1, .objectRead 0 1, .create 2, .activate 1,
  .resetDrain 0x10003, .resetDrain 4, .resetSquash 3, .resetSquash 0x10004, .destroy 3, .logStart 6, .logSwap 7, .logStop 5,
  .freeze 9, .thaw 8, .instanceRead 1, .arm 2, .disarm 1, .mirrorRead 1, .bind 2, .unbind 3, .packageRead 1,
  .park 2, .unpark 1, .logic 2, .memory 3, .tileBist 1] = true := by decide

theorem test_wf_lane_memory : illFormed [
  .laneExternalAccess 0 .prog 32767 (.read 2), .laneExternalAccess 0 .x 65535 (.read 2), .laneExternalAccess 0 .x 0 (.read 0),
  .programMemoryWrite 0 0 [], .programMemoryWrite 0 32768 [1]] = true := by decide

theorem test_wf_messages : illFormed [
  .ulConfig [2, 0, 0, 0], .ulConfig [1, 0, 0], .dlConfig [1, 0, 0, 0], .txData [2, 0, 0, 0],
  .mirrorOpenReceive 0 0 0 [] (List.replicate 32 0) (List.replicate 32 0),
  .mirrorOpenReceive 0 0 0 (List.replicate 16 0) [] (List.replicate 32 0),
  .mirrorOpenReceive 0 0 0 (List.replicate 16 0) (List.replicate 32 0) []] = true := by decide

theorem test_wf_grid : illFormed [
  .uplinkCplaneSend 0 1024 0, .ulSymbolClose 0 0 80 0, .gainSlotEnd 0 1024 0, .rxDataEgress 0 0 80 [] [] [],
  .dlSymbolSend 0 0 0 14, .dlSymbolClose 0 0 0 14, .downlinkCplaneSend 0 0 80 [], .harqLockRelease 0 1024] = true := by decide

/-- A section of one PRB. -/
def wfSec0 : USection := ⟨1, 0, 0, 0, 0, [[0]], 0, false, false, 0, 0x91⟩
/-- An IQ message of one sample. -/
def wfIq0 : IqMessage := ⟨1, 0, 0, 0, 0, [(0, 0)], 0, 0⟩

theorem test_wf_sections : illFormed [
  .uplaneSection 0 { wfSec0 with sfn := 1024 }, .uplaneSection 0 { wfSec0 with eaxc := 65536 },
  .uplaneSection 0 { wfSec0 with startPrb := 1024 }, .uplaneSection 0 { wfSec0 with prbs := [] }, .uplaneSection 0 { wfSec0 with frac := 16 },
  .timeDomainIqMessage 0 { wfIq0 with sym := 14 }, .timeDomainIqMessage 0 { wfIq0 with eaxc := 65536 },
  .timeDomainIqMessage 0 { wfIq0 with samples := [] }, .timeDomainIqMessage 0 { wfIq0 with frac := 16 }] = true := by decide

/-- A segment that reads a byte, and a frame of no known kind. -/
def wfSeg0 : Segment := ⟨0, 0, 0, 0, 0, 0, 0, .read 1, none, false, 0, false⟩
def wfFrame0 : EthFrame := ⟨0, 0, 0, none, false, 64, 0, 0, [], .other []⟩

theorem test_wf_fabric : illFormed [
  .segmentArrive { wfSeg0 with src := 65536 }, .segmentArrive { wfSeg0 with stream := 65536 },
  .segmentArrive { wfSeg0 with seq := 16777216 }, .segmentArrive { wfSeg0 with region := 65536 },
  .segmentArrive { wfSeg0 with grant := 65536 }, .segmentArrive { wfSeg0 with tag := 16777216 }, .segmentAck ⟨65536, .dom0, 0, 0, false, [], 0⟩, .segmentAck ⟨0, .dom0, 16777216, 0, false, [], 0⟩, .segmentAck ⟨0, .dom0, 0, 0, false, [], 65536⟩,
  .bulkTransferArrive 0 ⟨65536, [], [wfSeg0]⟩, .bulkTransferArrive 0 ⟨0, [], []⟩, .bulkTransferArrive 0 ⟨0, [], [{ wfSeg0 with src := 65536 }]⟩,
  .linkPacketReceive 0 ⟨16777216, true, .linkAck 0⟩, .heartbeat ⟨256, 0, 0, false, 0⟩, .admitMessage ⟨256, 0, 0, []⟩] = true := by decide

theorem test_wf_memory_and_host : illFormed [
  .shapingRefill 1 1048576, .deviceMemoryAccess (.agent .dom0 0 (.read 0) 0 0), .deviceMemoryAccess (.agent .dom0 0 (.read 1) 16777216 0), .patrolScrub 0 0 32768 0, .patrolScrub 0 0 0 3,
  .stepAnnounce 0 0 10240000000, .windowAccess 0 (.read 0), .windowAccess 60 (.read 8), .atsInvalidation 0 0 0 false,
  .cxlLinkUp 3 16 false, .cxlLinkUp 8 8 false] = true := by decide

theorem test_wf_ports : illFormed [
  .ethFrameReceive 0 { wfFrame0 with sub := 8 }, .ethFrameReceive 0 { wfFrame0 with dst := 281474976710656 },
  .ethFrameReceive 0 { wfFrame0 with src := 281474976710656 }, .ethFrameReceive 0 { wfFrame0 with frac := 16 }, .ethFrameReceive 0 { wfFrame0 with body := .ecpriOther { size := 65536 } 7 },
  .ethFrameReceive 0 { wfFrame0 with body := .uplane { size := 4 } { ver := 8 } 1 true 0 [wfSec0] }, .ethFrameReceive 0 { wfFrame0 with body := .delayRequest { rev := 16, size := 4 } 1 },
  .payloadDatagram 0 0 false 1 0 0 0 8 [], .payloadDatagram 0 0 false 1 0 0 4294967296 8 [1], .i3cPrivateWrite [], .i3cPrivateRead 0] = true := by decide

theorem test_wf_readings : illFormed [
  .telemetrySnapshot ⟨[], 0, 0, 0, 0, 0⟩, .thermalSample ⟨[], 0, 0, 0, 0, 0⟩,
  .bistDone ⟨[], [6], [], 0, 0⟩, .bistDone ⟨[], [], [1024], 0, 0⟩] = true := by decide

/-- The samples above, unchanged, are well formed. -/
theorem test_wf_accepts : [Instr.uplaneSection 0 wfSec0, .timeDomainIqMessage 0 wfIq0, .segmentArrive wfSeg0, .ethFrameReceive 0 wfFrame0,
  .ulConfig [1, 0, 0, 0], .create 1, .windowAccess 56 (.read 8), .cxlLinkUp 8 64 true].all wellFormed = true := by decide

/-! Worked examples of the manual. -/

/-- The example of R19: PATH_LOST and FENCED_OUT together give FENCED_OUT; a checksum fault outranks a missed deadline. -/
theorem test_code_ranks : codeMin .pathLost .fencedOut = .fencedOut ∧ codeMin .deadlineMissed .checksumFault = .checksumFault := by decide

/-- The example after R40: I0 = 6,716 and Q0 = −5,000 at w = 9 give e = 5, mantissas 210 and 356, first bytes 05, 69, 59. -/
theorem test_cbfp_example : ((cbfpBlock 0 ((numOfInt 6716 (-15), .nearest) :: (numOfInt (-5000) (-15), .nearest) ::
    List.replicate 22 (numOfInt 0 0, .nearest))).1.take 3) = [0x05, 0x69, 0x59] := by decide

/-- The example after R45: 13.0, 2.75 and −0.2 as scaled E2M1 give scale 0x80 and elements 7, 3, 8; −0.2 as FP32 is 0xBE4CCCCD, and 6.5 sets SAT_OUT. -/
theorem test_scaled_example :
    let r := scaledBlock 0x8 [(numOfInt 13 0, .nearest), (numOfInt 11 (-2), .nearest), (ofFp32 0xBE4CCCCD, .nearest)]
    (r.1, r.2.1, r.2.2.satOut) = (0x80, [0x7, 0x3, 0x8], true) := by decide

/-- R49: under round to nearest 470 into E4M3 is beyond 448 and 65,520 into FP16 beyond 65,504; toward zero both stay in range. -/
theorem test_beyond_largest :
    encodeReal 0x4 .nearest true (numOfInt 470 0) = (0x7E, { satOut := true }) ∧ encodeReal 0x4 .zero true (numOfInt 470 0) = (0x7E, {}) ∧
    encodeReal 0x2 .nearest true (numOfInt 65520 0) = (0x7BFF, { satOut := true }) ∧ encodeReal 0x2 .zero true (numOfInt 65520 0) = (0x7BFF, {}) := by decide

/-- The example of R48: FP32 1.1 to E4M3 by r = 0x2F10, r = 0x9A01, to nearest and toward zero. -/
theorem test_stochastic_example : ([Rnd.stoch 0x2F10, .stoch 0x9A01, .nearest, .zero].map (fun r => (encodeReal 0x4 r false (ofFp32 0x3F8CCCCD)).1))
    = [0x38, 0x39, 0x39, 0x38] := by decide

/-- The example after R55: the products 2^30, 1 and −2^30 in one E5M2 group give 1.0, in three groups 0. -/
theorem test_group_example :
    let ps := [numOfInt 1 30, numOfInt 1 0, numOfInt (-1) 30]
    (encodeFp fp32 .nearest false (faccVal (faccGroup false none ps))).1 = 0x3F800000 ∧
    (encodeFp fp32 .nearest false (faccVal (ps.foldl (fun a p => faccGroup false a [p]) none))).1 = 0 := by decide

/-- The example of R217: the tag of 0x12345678 ns. -/
theorem test_tag_example : tagOf 0x12345678 = 0x91A2B3 ∧ tagOf 25612345678 = 0xB4EB0A := by decide

/-- The example after R387: P and Q of 1, 2, 3, 4, and the rebuilding of D1 and D3. -/
theorem test_erasure_example :
    gfSum 1 false [(0, [1]), (1, [2]), (2, [3]), (3, [4])] = [0x04] ∧ gfSum 1 true [(0, [1]), (1, [2]), (2, [3]), (3, [4])] = [0x29] ∧
    gfRebuild 1 4 [(0, [1]), (2, [3]), (4, [0x04]), (5, [0x29])] = [[1], [2], [3], [4], [0x04], [0x29]] := by decide

/-- The example after R433: the CRC-32 of 123456789. -/
theorem test_crc_example : crc32 [0x31, 0x32, 0x33, 0x34, 0x35, 0x36, 0x37, 0x38, 0x39] = 0xCBF43926 := by decide

/-- The convolution example after R74: P = Q = 14. -/
theorem test_conv_example : convDim 14 1 1 1 3 1 = 14 := by decide

/-- The first row of the gain example after R174: T − P = 6.30 dB is a step of 3.25 dB, clamped to 3.00; 1.56 dB is one of 0.75 dB. -/
theorem test_gain_example :
    gainStep 0x48 12 (2 ^ 30 * 371535 / 100000000) 1 = 12 ∧ gainStep 0x48 40 (2 ^ 30 * 371535 / 100000000) 1 = 13 ∧
    gainStep 0x48 12 (2 ^ 30 * 1109175 / 100000000) 1 = 3 := by decide

/-- The reset increment of R393. -/
theorem test_reset_incr : State.reset.time.incr = 0x10000000 := by decide

/-- The chunk example after R293: 32 zero lines, 16 lines of 20 non-zero bytes and 16 repeats make 464 bytes, one sector. -/
theorem test_chunk_example :
    let line (k : Nat) : List Byte := (List.range 64).map (fun j => if j < 20 then BitVec.ofNat 8 (k + 1) else 0)
    let codes := lineCodes none (List.replicate 32 (List.replicate 64 0) ++ (List.range 16).map line ++ List.replicate 16 (line 15))
    (16 + (codes.map (·.2.length)).sum, codes.map (·.1)) =
      (464, List.replicate 32 0 ++ List.replicate 16 2 ++ List.replicate 16 1) := by decide

/-- Reset with instance 3 ACTIVE under PASID 0x55. -/
def stInst : State := { State.reset with insts := [(3, { Inst.free with phase := .active, pasid := 0x55, domain := 1, dmem := 16 })] }

/-- Sixteen words, those listed and zeros. -/
def words16 (l : Table Word) : List Word := (List.range 16).map (fun i => Table.get 0 l i)

/-- A command of lane 64, context 0, on die 2. -/
def cmdOf (l : Table Word) : TileCmd := { words := words16 l, issuer := .lane 64 0, space := .dom0, seed := 0, step := 0, late := false }

/-- Tile 512 with a command at the head of its queue. -/
def stHead (c : TileCmd) : State := { State.reset with tiles := [(512, { Tile.idleFloor with queue := [c] })] }

/-- One INT8 product, 1 × 1 × 1, result INT32. -/
def cMat : TileCmd := cmdOf [(0, 0x10000007), (3, 0x00010001), (4, 1), (5, 0xC099), (7, 0x1000), (9, 0x2000)]

/-- A 1 × 1 convolution of one INT8 element. -/
def cConv : TileCmd := cmdOf [(0, 0x20000007), (3, 0x11001001), (4, 0x00010001), (5, 0xC099), (7, 0x1000), (9, 0x2000), (10, 0x1111)]

/-- A DFT of 16 points. -/
def cDft : TileCmd := cmdOf [(0, 0x30000007), (3, 0x00000104), (5, 0xD00D), (8, 0x1000), (9, 0x2000)]

/-- A LOAD and a STORE of four bytes at address 0 of the domain-0 space. -/
def cLoad : TileCmd := cmdOf [(0, 0x40000007), (3, 0x00040001), (9, 0x99)]
def cStore : TileCmd := cmdOf [(0, 0x50000007), (3, 0x00040001), (9, 0x99)]

/-- WAIT and SIGNAL on counter 0x8000, and a GATE with INIT over 4 tokens. -/
def cWait : TileCmd := cmdOf [(0, 0x60000007), (3, 0x8000)]
def cSignal : TileCmd := cmdOf [(0, 0x70000007), (3, 0x8000), (4, 5)]
def cGate : TileCmd := cmdOf [(0, 0x80000007), (3, 0x00010004), (5, 0x1), (6, 0x100), (7, 0x200), (8, 0x300)]

/-- Tile 512 with a flight in its engines. -/
def stFlight (f : Flight) : State := { State.reset with tiles := [(512, { Tile.idleFloor with flights := [f] })] }
def fMat : Flight := { newFlight cMat .matmul 7 with m := 1 }

/-- The instruction word of the fields of R122. -/
def insW (op rd ra rb mod low : Nat) : Nat := op * 2 ^ 56 + rd * 2 ^ 52 + ra * 2 ^ 48 + rb * 2 ^ 44 + mod * 2 ^ 40 + low

/-- Context 0 of lane 64 running, enabled, at instruction w of its segment of 16; S1 is 5, S2 is 7. -/
def stLane (w : Nat) : State :=
  ((State.reset.setReg (pgLane 64) 0x100 1).setReg (pgLane 64) 0x104 0x00100000).setLane 64
    { Lane.reset with
      running := true
      prog := Memory.writeN 0 (leBytes 8 w) []
      ctxs := [(0, { LaneCtx.zero with state := .run, s := [0, 5, 7] ++ List.replicate 13 0, stack := [3] })] }

/-- The same with a window of 4 KiB in X. -/
def stLaneX (w : Nat) : State := (stLane w).setReg (pgLane 64) 0x108 0x10

/-- The effect of a data instruction at a state's lane 64. -/
def effAt (work : LIns → LaneCtx → Except LaneFault LEff) (w : Nat) : LEff := ((work (decodeLane w) ((stLane w).lctx 64 0)).toOption).getD {}

/-- A sort-deck command: one token, one expert, scores at 0x1000 and bins at 0x2000 of tile 1, destination tile 1, for request context 3 of instance 5. -/
def dkCmd : DeckCmd := { words := words16 [(0, 7), (2, 0x02010001), (3, 0x00010001), (4, 0x00081000), (5, 1), (6, 0x2000), (7, 2)], ctx := 3, domain := 0, late := false }
def stDeck (wait : List DeckCmd) (d0 : Option DeckCmd) : State := { State.reset with groves := [(0, { Grove.idle with deckWait := wait, deck0 := d0 })] }

/-- Lane 64 with these contexts. -/
def stCtxs (cs : Table LaneCtx) : State := { State.reset with lanes := [(64, { Lane.reset with ctxs := cs, running := true })] }
/-- Lane 64 with context 0 off over a sealed segment of 16. -/
def stSealed : State := (State.reset.setReg (pgLane 64) 0x104 0x00100000).setLane 64 { Lane.reset with seals := [(0, 16, 0)] }

/-- A cell descriptor: cell 3, µ 0, die 0, 1 PRB, one antenna and layer each way, port 1. -/
def cellDesc : List Word := words16 [(0, 0x00010003), (1, 0x00210101), (2, 0x00001000), (3, 0x02000100), (4, 0x0101), (5, 0x00640064), (7, 0x100), (8, 1), (9, 0x300), (10, 5), (11, 1)]
/-- Cell 3 in a phase at 1 ms. -/
def stCellWith (f : Cell → Cell) : State := { State.reset with cells := [(3, f { Cell.free with desc := cellDesc })], time := { State.reset.time with ns := 1000000 } }
def stCell (ph : CellPhase) : State := stCellWith (fun c => { c with phase := ph })
/-- A state in which that descriptor is awaiting its checks and passes them all. -/
def stAdmit : State :=
  { (((((State.reset.setReg (pgLane 0) 0x100 0x31).setReg (pgEth 1) 0x014 1).setReg (pgEth 1) 0x018 1))) with
    coord := { Coord.reset with busy := true, cmdCell := 3, asap := true, desc := cellDesc }
    seed := { State.reset.seed with pkgs := [(1, { kind := 1, anchor := 0, level := 0, abi := 1, svn := 0, npspan := 0, padr := 0, size := 0, digest := [], inst := 0, wbase := 0, lmask := 0, pbase := 0, pinst := 0, oid := 0, records := [[0x3FFF81FF, 0x3FF, 0, 0, 0, 0, 0, 0]], steps := [], cmds := [], wgts := [], ckptsz := 0, ckpt := [] })] }
    mems := { MemSt.empty with objects := [(1, { space := .dom0, die := 0, vpn := 0, npages := 4096, pinned := false, cmpt2 := false, base := 0, stalls := Stalls.zero })] } }

/-- Messages for slot 5 of frame 0 of cell 3 with no PDU; and a slot of the cell with its UL_CONFIG accepted. -/
def slotHd (type : Nat) : List Word := [w32 (type + 0x100 + 3 * 65536), 0x1400, 16, 9]
def slot5 : SlotMsgs := { SlotMsgs.empty 0 5 5000000 with ulSeq := some 9 }

/-- Cell 3 ACTIVE with slot 5 of frame 0 configured both ways, at a time base. -/
def slot5b : SlotMsgs := { slot5 with dlSeq := some 9 }
def stSlot (ns : Nat) : State := { stCellWith (fun c => { c with phase := .active, slots := [slot5b] }) with time := { State.reset.time with ns := ns } }
/-- The same with time-domain fronthaul. -/
def tdDesc : List Word := setAt cellDesc 2 0x00001002
def stTd (ns : Nat) : State := { stCellWith (fun c => { c with phase := .active, slots := [slot5b], desc := tdDesc, gains := [(0, Gain.zero)] }) with time := { State.reset.time with ns := ns } }
def sec0 : USection := { eaxc := 0x100, sfn := 0, slot := 5, sym := 0, startPrb := 0, prbs := [[1, 2]], stamp := 5000100, prach := false, lastOfOccasion := false }
def iq0 : IqMessage := { eaxc := 0x100, sfn := 0, slot := 5, sym := 0, off := 0, samples := [(1, -1), (2, 3)], stamp := 5000100 }

def kCmd (w : List Word) : CodeCmd := CodeCmd.fresh w 0 0 1 false
def wLdec : List Word := words16 [(0, 0x11000007), (2, 0x00200004), (3, 0x00030001), (4, 128), (5, 0x12), (7, 0x1000), (9, 0x2000)]
def wLenc : List Word := words16 [(0, 0x20000007), (2, 0x00200004), (3, 0x00030001), (4, 128), (5, 0x12), (7, 0x1000), (9, 0x2000)]
def wPdec : List Word := words16 [(0, 0x30000007), (3, 0x00030001), (7, 0x1000), (9, 0x2000), (11, 0x20014)]
def wPenc : List Word := words16 [(0, 0x40000007), (3, 0x00030001), (7, 0x1000), (9, 0x2000), (11, 0x20014)]
/-- Cell 3 active with entries 0 and 1 of its directory holding the keys of RNTI 4, and these commands in the coding engine of grove 0. -/
def stCode (q : List CodeCmd) (busy : Option Nat) : State := { stCell .active with groves := [(0, { Grove.idle with ceQueue := q, ceBusy := busy })], mem := Memory.writeN (devKey 4096 0x300000) [4, 0, 0x20] (Memory.writeN (devKey 4096 0x300020) [4, 0, 0x30] []) }

/-- Tile 40 (outside the floor) changed by f. -/
def stTile (f : Tile → Tile) : State := { State.reset with tiles := [(40, f Tile.idle)] }
def img7 : SpillImage := { store := [(5, 9)], save := { queue := [], flights := [], bank := none }, inst := 7 }

/-- The map in force with granule 5 given to domain 9, which has no credit. -/
def image5 : Memory := Memory.write 5 0x89 resetMap

/-- Instance 3 ACTIVE in domain 9 with queues enabled, one entry in its command queue, granule 4 in its domain, job 0 open over package 5 with these steps. -/
def stInstA : Inst := { Inst.free with phase := .active, domain := 9, pasid := 0x55, quota := 4, dmem := 64, key := some 1 }
def pkg5 (steps : List (List Word)) (cmds : List Byte) : Pkg := { kind := 3, anchor := 0, level := 0, abi := 1, svn := 0, npspan := 0, padr := 0, size := 0, digest := [], inst := 3, wbase := 0x40000, lmask := 0, pbase := 0, pinst := 0, oid := 0, records := [], steps := steps, cmds := cmds, wgts := [], ckptsz := 128, ckpt := [] }
def job0 : Job := { Job.closed with isOpen := true, pkg := 5, gmask := 16, ckptva := 0x20000 }
def stJobs (jobs : Table Job) (steps : List (List Word)) (cmds : List Byte) : State :=
  { State.reset with
    insts := [(3, { stInstA with jobs := jobs })]
    groves := [(2, Grove.idle)]
    fbk := { State.reset.fbk with map := Memory.write 4 0x89 resetMap }
    seed := { State.reset.seed with pkgs := [(5, pkg5 steps cmds)] } }
def stCq (jobs : Table Job) (ws : List Word) : State :=
  { ((((stJobs jobs [] []).setReg (pgMbx 3) 0x100 0x10000).setReg (pgMbx 3) 0x108 0x104).setReg (pgMbx 3) 0x10C 1) with mem := Memory.writeN (devKey 3 0x10000) (bytesOf ws) [] }

/-- Context 6 of that job at its step 0. -/
def ctx6 (st : CtxState) : ReqCtx := { ReqCtx.free with state := st, inst := 3, ticket := 9, tag := 500, limit := 3, foot := [64] }
def stStep (e : List Word) (cmds : List Byte) (c : ReqCtx) : State := { stJobs [(0, job0)] [e] cmds with ctxs := [(6, c)] }
def eTile : List Word := [0x101, 0, 0x400, 0, 0, 0, 0, 0]
def eSort : List Word := [0x102, 0, 0x400, 0, 0, 0, 0, 0]
def eJump : List Word := [3, 0, 0x400, 5, 0, 0, 0, 0]
def eEmit : List Word := [4, 0, 0x400, 0, 0, 0, 0, 0]
def eCkpt : List Word := [5, 0, 0x400, 0, 0, 0, 0, 0]
def eEnd : List Word := [6, 0, 0x400, 0, 0, 0, 0, 0]
def pGate : PendCmd := { header := 0, header1 := 0, words := words16 [(0, 0x80000000), (3, 0x00010004)] }
def pSort : PendCmd := { header := 0, header1 := 0, words := words16 [(2, 0x02010001), (3, 0x00010001), (4, 0x1000), (5, 1), (6, 0x2000), (7, 1)] }

/-- A page of domain 0's space, a home in T3 or T2, and a move of it. -/
def pg0 : Nat := pageKeyOf 4096 1
def stHome (h : Home) (mv : List Move) : State := { State.reset with mems := { MemSt.empty with homes := [(pg0, h)], moves := mv } }
def mvOf (k : MoveKind) : Move := { page := pg0, kind := k, frame := 7, sector := 0, sectors := 0, cmap := 0, tag := 0 }
/-- That home in T2; with line 0 poisoned; and with an earlier request held at the point of its pseudo-channel. -/
def stAcc : State := stHome { Home.fresh with tier := .t2, frame := 7 } []
def stAccPoison : State := { stAcc with mems := { stAcc.mems with poison := [pg0 * 512] } }
def stAccHeld : State := { stAcc with arb := [(linkPoint 1 0, [{ domain := 0, what := .access (.agent .dom0 0x10000 (.read 4) 5 1), tag := 5, late := false }])] }
def stStage : State := ((State.reset.setReg (pgCru 1) 0x140 0x1000).setReg (pgCru 1) 0x144 16).setReg (pgCru 1) 0x148 4

/-- Staging of instance 3: domain 9, PASID 0x66, quota 4, 64 GiB. -/
def stStageI : State := (((State.reset.setReg pgMap 0x140 0x00090003).setReg pgMap 0x144 0x66).setReg pgMap 0x148 4).setReg pgMap 0x14C 64
/-- The same with a channel of domain 9 on die 0. -/
def stStageI2 : State := { stStageI with fbk := { State.reset.fbk with map := Memory.write 64 0x89 resetMap } }

/-- Instance 3 with a fabric queue of 16 entries at 0x10000 holding one descriptor, and a completion ring at 0x14000. -/
def stFq (ws : List Word) : State :=
  let r := (((((State.reset.setReg (pgMbx 3) 0x400 0x10000).setReg (pgMbx 3) 0x408 0x104).setReg (pgMbx 3) 0x40C 1).setReg (pgMbx 3) 0x420 0x14000).setReg (pgMbx 3) 0x428 0x104)
  { r with
    insts := [(3, stInstA)]
    fbk := { State.reset.fbk with map := Memory.write 64 0x89 resetMap }
    fabric := { FabricSt.reset with imports := [(7, { holder := .inst 3, home := 0x0102, region := 5, grant := 6, key := 9, perm := 15, suspect := false })] }
    mem := Memory.writeN (devKey 3 0x10000) (bytesOf ws) [] }
def fqW (op rest : Nat) (more : List Word) : List Word := (w32 (op + rest * 256 + 0x120000) :: 7 :: more) ++ List.replicate (14 - more.length) 0
/-- The same instance with a region of one page at 0x20000 and a grant of it. -/
def stFqR (ws : List Word) : State := { stFq ws with fabric := { (stFq ws).fabric with regions := [(5, { owner := .inst 3, base := 0x20000, pages := 1, atomic := false, ctrBase := 0, ctrN := 0 })], grants := [(6, { region := 5, module_ := 0x0304, key := 9, perm := 15 })] } }

def segW : Segment := { src := 0x0304, stream := 9, seq := 5, region := 5, grant := 6, key := 9, offset := 0x100, op := .write [1, 2, 3, 4], ctr := none, mstore := false, tag := 0 }
/-- The module is 0x0201 with a valid ID; instance 3 has region 5 and a grant of it to module 0x0304. -/
def stSeg : State := { (stFqR []).setReg (pgCkx 32) 0x010 0x10201 with mems := { MemSt.empty with homes := [(pageKeyOf 3 2, { Home.fresh with tier := .t2, frame := 9 })] } }
def unackW : Unacked := { seg := segW, import_ := 7, home := 0x0102, port := none, op := 0, lva := 0x20000, retry := false }
def opW : FabOp := { id := 0, opc := 3, ticket := 1, quiet := false, fence := false, left := 1, code := .ok, result := 0, data := [], lctr := none, issued := 0 }
def stUn (u : List Unacked) (o : List FabOp) : State := { stFq [] with fabric := { (stFq []).fabric with streams := [(3, { FStream.new with unacked := u, ops := o })] } }

def portUpSt : CkxPortSt := { CkxPortSt.reset with state := .up, lanes := 15, width := 4 }
def pk (q : Nat) : LinkPacket := { seq := q, crcOk := true, body := .liveness [] }
def stPort (x : CkxPortSt) : State := ((State.reset.setReg (pgCkx 32) 0x010 0x10201).setReg (pgCkx 2) 0x010 0x000AE001).setPort 2 x

/-- Position 1 of stage 2, a member of a group of positions 1 to 4. -/
def lvM : LvSt := { LvSt.reset with state := .member, posn := [(1, .member), (2, .member), (3, .member), (4, .member)] }
def stLv (l : LvSt) : State := { State.reset.setReg (pgCkx 32) 0x010 0x10201 with fabric := { FabricSt.reset with lv := l } }

/-- Mirror staging for cell 3 as partner of cell 40 of module 0x0305, descriptor at page 0x40 of domain 0. -/
def stMir (role : Nat) : State :=
  let s := ((stAdmit.setReg (pgSds 4) 0x240 (w32 (3 + role * 512 + 40 * 65536))).setReg (pgSds 4) 0x244 0x0305).setReg (pgSds 4) 0x248 (w32 (role * 0x40))
  { s with mem := Memory.writeN (devKey 4096 0x40000) (bytesOf cellDesc) [] }
def mirE (st : MirState) (role : Bool) : MirrorEntry := { state := st, role := role, pcell := 40, pmod := 0x0305, daddr := 0x40, desc := cellDesc }
def stMirE (st : MirState) (role : Bool) (ph : CellPhase) : State := { stCell ph with mirrors := [(3, mirE st role)] }
/-- Instance 3 with an erasure-code command in staging: ENCODE, K = 1, SIZE = 1, table at 0x10000. -/
def stEc (op : Nat) : State := ((({ State.reset with insts := [(3, stInstA)] } : State).setReg (pgMbx 3) 0x540 (w32 (op + 0x50010))).setReg (pgMbx 3) 0x544 1).setReg (pgMbx 3) 0x548 0x10000

/-- Pulse output 1: period 1,000 ns, width 100 ns, START 5,000. -/
def stPls (ctrl : Word) (p : Pulse) (ns : Nat) : State :=
  let r := (((State.reset.setReg pgTime 0x120 5000).setReg pgTime 0x128 1000).setReg pgTime 0x12C 100).setReg pgTime 0x130 ctrl
  { r with time := { r.time with ns := ns, pulses := r.time.pulses.set 1 p } }
def stTsq (e : EthSt) : State := { State.reset with eth := [(5, e)] }

def cascUp (n : Nat) : List Casc := List.replicate n { Casc.down with state := 1 }
/-- TIME_CFG with a role, an upstream port 0 and downstream ports. -/
def stRole (r down : Nat) (t : TimeSt) : State := { State.reset.setReg pgTime 0x010 (w32 (r * 16 + down * 256)) with time := t }

/-- Replay of a ring of 65,536 units at 0x10000 of domain 0, from fire time 1,000, holding one entry. -/
def stRep (ws : List Word) (tail : Word) (cls : Nat) (ns : Nat) : State :=
  let r := (((State.reset.setReg pgTime 0x300 (w32 (2 + cls * 4))).setReg pgTime 0x308 0x10000).setReg pgTime 0x310 1).setReg pgTime 0x318 tail
  { r with recd := { RecSt.reset with running := true, origin := 1000 }, time := { r.time with ns := ns }, mem := Memory.writeN (devKey 4096 0x10000) (bytesOf ws) [] }

def stUpC : State := { State.reset with cxl := { CxlSt.reset with state := .up } }
def stWin : State := { stUpC.setReg pgCxl 0x800 3 with out := [] }
/-- The segment names instance 3, which is FREE. -/
def stWin3 : State := stUpC.setReg pgCxl 0x800 0xD
/-- The page is in T2, its line 0 poisoned, or in T3. -/
def stWinB : State := { stWin with mems := { stWin.mems with homes := [(pageKeyOf 4096 0, { Home.fresh with tier := .t2, frame := 8 })] } }
def stWinP : State := { stWinB with mems := { stWinB.mems with poison := [pageKeyOf 4096 0 * 512] } }
def stWinT : State := { stWin with mems := { stWin.mems with homes := [(pageKeyOf 4096 0, { Home.fresh with tier := .t3 })] } }
def stWinR : State := { stWin.setReg pgTime 0x300 0x3E with recd := { RecSt.reset with running := true } }

def stEth (e : EthSt) : State := { ((State.reset.setReg (pgEth 1) 0x014 1).setReg (pgEth 1) 0x018 2).setReg (pgEth 1) 0x038 0x10010 with eth := [(1, e)] }
/-- Cell 3 by payload datagrams at sub-port 0 of port 1. -/
def stDg : State := { ((stEth EthSt.reset).setReg (pgEth 1) 0x204 0x100000).setReg (pgEth 1) 0x208 0x10003 with cells := [(3, { Cell.free with desc := [3, 0, 0x18000] })] }
def frm (b : FrameBody) (n : Nat) : EthFrame := { sub := 0, dst := 0, src := 0, vlan := none, doubleTag := false, len := n, stamp := 0, frac := 0, raw := List.replicate 64 0, body := b }
def wFrame (d : Nat) : EgressFrame := { sub := 0, launch := 0, deadline := d, eaxc := none, kind := .mgmt, bytes := [], tsreq := false, txid := 0, close := none }

/-- An unsigned INSTALL into slot 0 with management rights, staged at page 0x10 of domain 0. -/
def stAnc (w0 : Word) : State := { State.reset.setReg pgSeed 0x10C 0x10000 with mem := Memory.writeN (devKey 4096 0x10000) (bytesOf [w0, 0, 7, 0x10]) [] }
def sgn (held made : Bool) : Signing := { req := { who := .spdm none, nonce := [1], dest := 0 }, report := [1], index := 5, made := made, held := held }
def stSeed (x : SeedSt) : State := { State.reset with seed := x }
def pkgA : Pkg := { kind := 2, anchor := 0, level := 2, abi := 7, svn := 3, npspan := 0, padr := 0x50000, size := 64, digest := List.replicate 32 1, inst := 0, wbase := 0, lmask := 0, pbase := 0, pinst := 0, oid := 4096, records := [], steps := [], cmds := [], wgts := [], ckptsz := 0, ckpt := [] }

def readings (d : Int) : Readings := { dies := [d, 500, 500, 500, 500, 500], hbm := 500, stage := 500, voltage := 5400, current := 100, power := 200 }


/-! UnsupportedAccessChangesNothing: states and operands that meet the hypotheses. -/

theorem witness_unsupported_access : ∃ (s : State) (req : Requester) (p : Page) (off size : Nat), (s.pwr.phase = .running) ∧ ((size ≠ 4 ∨ off % 4 ≠ 0)) ∧ (s.reqDropped req = false) ∧ (s.reqOk req p = true) :=
  ⟨State.reset, {}, pgHbm 2, 16, 8, by decide⟩
theorem witness_unsupported_tenant : ∃ (s : State) (pasid : BitVec 20) (p : Page) (off size i : Nat), (s.pwr.phase = .running) ∧ ((size ≠ 4 ∨ off % 4 ≠ 0)) ∧ (s.reqDropped { pasid := some pasid } = false) ∧ (p.kind ≠ .mbx) ∧ (fld (s.reg pgMap 0x010) 19 0 ≠ pasid.toNat) ∧ (s.pasidInst pasid = some i) ∧ (s.scaler (pgMbx i) 0 < 0xFFFFFFFF) :=
  ⟨stInst, 0x55, pgPwr, 2, 4, 3, by decide⟩
theorem witness_unaligned_write : ∃ (s : State) (req : Requester) (p : Page) (off : Nat) (v : Word), (s.pwr.phase = .running) ∧ (off % 4 ≠ 0) ∧ (s.reqDropped req = false) ∧ (s.reqOk req p = true) :=
  ⟨State.reset, {}, pgHbm 2, 18, 0xFFFF, by decide⟩

/-! TenantAccessToManagementIsCounted: states and operands that meet the hypotheses. -/

theorem witness_tenant_management : ∃ (s : State) (pasid : BitVec 20) (p : Page) (i : Nat), (s.pwr.phase = .running) ∧ (p.kind ≠ .mbx) ∧ (fld (s.reg pgMap 0x010) 19 0 ≠ pasid.toNat) ∧ (s.pasidInst pasid = some i) ∧ (s.scaler (pgMbx i) 0 < 0xFFFFFFFF) :=
  ⟨stInst, 0x55, pgPwr, 3, by decide⟩

/-! RegisterWriteHoldsWritableBits: states and operands that meet the hypotheses. -/

theorem witness_write_hbm : ∃ (s : State) (k off : Nat) (v : Word) (d : RegDesc), (s.pwr.phase = .running) ∧ (s.recMode = 0) ∧ (k < 24) ∧ (off % 4 = 0) ∧ (off ≠ 0x084 ∧ off ≠ 0x088 ∧ off ≠ 0x0FC ∧ off ≠ 0x100) ∧ (findReg (pgHbm k) off = some d) :=
  ⟨State.reset, 2, 0x010, 0xFFFF0012, reg1 0x010 0xFFFF 0x1018, by decide⟩
theorem witness_write_unassigned : ∃ (s : State) (k off : Nat) (v : Word), (s.pwr.phase = .running) ∧ (s.recMode = 0) ∧ (k < 24) ∧ (off % 4 = 0) ∧ (off ≠ 0x084 ∧ off ≠ 0x088 ∧ off ≠ 0x0FC ∧ off ≠ 0x100) ∧ (findReg (pgHbm k) off = none) :=
  ⟨State.reset, 2, 0x020, 0xFFFF0012, by decide⟩
theorem witness_write_shadow : ∃ (s : State) (d : DieId) (v : Word), (s.pwr.phase = .running) ∧ (s.recMode = 0) :=
  ⟨State.reset, 1, 0xFFFF0012, by decide⟩

/-! CommitAppliesShadowRegisters: states and operands that meet the hypotheses. -/

theorem witness_commit : ∃ (s : State) (p : Page), (s.pwr.phase = .running) ∧ (s.recMode = 0) ∧ (pageExists p = true) ∧ (hasShadow p = true) ∧ (p.kind = .lane ∨ p.kind = .cru ∨ p.kind = .ckx) :=
  ⟨State.reset, pgLane 5, by decide⟩

/-! EventRegistersOfAPage: states and operands that meet the hypotheses. -/

theorem witness_evt_pend_clear : ∃ (s : State) (p : Page) (v : Word), (s.pwr.phase = .running) ∧ (s.recMode = 0) ∧ (pageExists p = true) ∧ (p.kind ≠ .mbx) :=
  ⟨State.reset, pgSds 4, 1, by decide⟩
theorem witness_evt_pend_clear_mbx : ∃ (s : State) (p : Page) (v : Word), (s.pwr.phase = .running) ∧ (pageExists p = true) ∧ (p.kind = .mbx) ∧ (pageDead (s.inst p.inst).phase = false) :=
  ⟨stInst, pgMbx 3, 1, by decide⟩
theorem witness_evt_mask_write : ∃ (s : State) (p : Page) (v : Word), (s.pwr.phase = .running) ∧ (s.recMode = 0) ∧ (pageExists p = true) ∧ (p.kind ≠ .mbx) :=
  ⟨State.reset, pgSds 4, 0xFFFFFFFF, by decide⟩
theorem witness_evt_mask_write_mbx : ∃ (s : State) (p : Page) (v : Word), (s.pwr.phase = .running) ∧ (pageExists p = true) ∧ (p.kind = .mbx) ∧ (pageDead (s.inst p.inst).phase = false) :=
  ⟨stInst, pgMbx 3, 1, by decide⟩
theorem witness_evt_dead_page : ∃ (s : State) (p : Page) (v : Word), (s.pwr.phase = .running) ∧ (pageExists p = true) ∧ (p.kind = .mbx) ∧ (pageDead (s.inst p.inst).phase = true) ∧ (s.scaler pgMap 0 < 0xFFFFFFFF) :=
  ⟨State.reset, pgMbx 3, 1, by decide⟩
theorem witness_evt_mask_dead_page : ∃ (s : State) (p : Page) (v : Word), (s.pwr.phase = .running) ∧ (pageExists p = true) ∧ (p.kind = .mbx) ∧ (pageDead (s.inst p.inst).phase = true) ∧ (s.scaler pgMap 0 < 0xFFFFFFFF) :=
  ⟨State.reset, pgMbx 3, 1, by decide⟩

/-! ArrayCommandStarts: states and operands that meet the hypotheses. -/

theorem witness_matmul : ∃ (s : State) (t : TileId) (c : TileCmd) (rest : List TileCmd), ((s.tile t.val).queue = c :: rest) ∧ (cmdOp c.words = 1) ∧ ((s.tile t.val).suspect = false) ∧ ((s.tile t.val).headReady c .matmul = true) ∧ (matOk (decodeMat c.words (s.tile t.val).store) c.words (s.tile t.val).store = true) ∧ ((decodeMat c.words (s.tile t.val).store).m ≠ 0 ∧ (decodeMat c.words (s.tile t.val).store).n ≠ 0) ∧ ((s.domainOf c.space ≠ 0 ∨ s.bist.inj = [])) :=
  ⟨stHead cMat, 512, cMat, [], by decide⟩
theorem witness_conv : ∃ (s : State) (t : TileId) (c : TileCmd) (rest : List TileCmd), ((s.tile t.val).queue = c :: rest) ∧ (cmdOp c.words = 2) ∧ ((s.tile t.val).suspect = false) ∧ ((s.tile t.val).headReady c .conv = true) ∧ (matOk (decodeMat c.words (s.tile t.val).store) c.words (s.tile t.val).store = true) ∧ ((decodeMat c.words (s.tile t.val).store).m ≠ 0 ∧ (decodeMat c.words (s.tile t.val).store).n ≠ 0) ∧ ((s.domainOf c.space ≠ 0 ∨ s.bist.inj = [])) :=
  ⟨stHead cConv, 512, cConv, [], by decide⟩
theorem witness_dft : ∃ (s : State) (t : TileId) (c : TileCmd) (rest : List TileCmd), ((s.tile t.val).queue = c :: rest) ∧ (cmdOp c.words = 3) ∧ ((s.tile t.val).suspect = false) ∧ ((s.tile t.val).headReady c .dft = true) ∧ (dftOk (decodeDft c.words) c.words = true) ∧ ((decodeDft c.words).nb ≠ 0) ∧ ((s.domainOf c.space ≠ 0 ∨ s.bist.inj = [])) :=
  ⟨stHead cDft, 512, cDft, [], by decide⟩

/-! TransferAndCounterCommandsStart: states and operands that meet the hypotheses. -/

theorem witness_load : ∃ (s : State) (t : TileId) (c : TileCmd) (rest : List TileCmd), ((s.tile t.val).queue = c :: rest) ∧ (cmdOp c.words = 4) ∧ ((s.tile t.val).suspect = false) ∧ ((s.tile t.val).headReady c .load = true) ∧ (xferOk (decodeXfer c.words) c.words true = true) ∧ ((decodeXfer c.words).rows ≠ 0 ∧ (decodeXfer c.words).cols ≠ 0) ∧ (s.xferCode c.space (decodeXfer c.words) true = .ok) :=
  ⟨stHead cLoad, 512, cLoad, [], by decide⟩
theorem witness_store : ∃ (s : State) (t : TileId) (c : TileCmd) (rest : List TileCmd), ((s.tile t.val).queue = c :: rest) ∧ (cmdOp c.words = 5) ∧ ((s.tile t.val).suspect = false) ∧ ((s.tile t.val).headReady c .store = true) ∧ (xferOk (decodeXfer c.words) c.words false = true) ∧ ((decodeXfer c.words).rows ≠ 0 ∧ (decodeXfer c.words).cols ≠ 0) ∧ (s.xferCode c.space (decodeXfer c.words) false = .ok) :=
  ⟨stHead cStore, 512, cStore, [], by decide⟩
theorem witness_wait : ∃ (s : State) (t : TileId) (c : TileCmd) (rest : List TileCmd), ((s.tile t.val).queue = c :: rest) ∧ (cmdOp c.words = 6) ∧ ((s.tile t.val).suspect = false) ∧ ((s.tile t.val).headReady c .wait = true) ∧ (ctrCmdOk c.words = true) ∧ (s.ctrHeld (s.domainOf c.space) (fld (wAt c.words 3) 15 0) = true) :=
  ⟨stHead cWait, 512, cWait, [], by decide⟩
theorem witness_signal : ∃ (s : State) (t : TileId) (c : TileCmd) (rest : List TileCmd), ((s.tile t.val).queue = c :: rest) ∧ (cmdOp c.words = 7) ∧ ((s.tile t.val).suspect = false) ∧ ((s.tile t.val).headReady c .signal = true) ∧ (ctrCmdOk c.words = true) ∧ (s.ctrHeld (s.domainOf c.space) (fld (wAt c.words 3) 15 0) = true) ∧ (wAt c.words 4 ≠ 0) :=
  ⟨stHead cSignal, 512, cSignal, [], by decide⟩
theorem witness_gate : ∃ (s : State) (t : TileId) (c : TileCmd) (rest : List TileCmd), ((s.tile t.val).queue = c :: rest) ∧ (cmdOp c.words = 8) ∧ ((s.tile t.val).suspect = false) ∧ ((s.tile t.val).headReady c .gate = true) ∧ (gateOk (decodeGate c.words) c.words = true) ∧ ((decodeGate c.words).m ≠ 0) :=
  ⟨stHead cGate, 512, cGate, [], by decide⟩
theorem witness_wait_satisfied : ∃ (s : State) (t : TileId) (f : Flight), ((s.tile t.val).flights = [f]) ∧ (f.op = .wait ∧ f.done = none) ∧ ((s.tile t.val).open_ = true) ∧ ((s.ctr (t.val / 256) (fld (wAt f.cmd.words 3) 15 0) - wAt f.cmd.words 4).toNat < 2 ^ 31) :=
  ⟨stFlight (newFlight cWait .wait 2), 512, newFlight cWait .wait 2, by decide⟩
theorem witness_wait_unsatisfied : ∃ (s : State) (t : TileId) (f : Flight), ((s.tile t.val).flights = [f]) ∧ (f.op = .wait ∧ f.done = none) ∧ (2 ^ 31 ≤ (s.ctr (t.val / 256) (fld (wAt f.cmd.words 3) 15 0) - wAt f.cmd.words 4).toNat) :=
  ⟨stFlight (newFlight (cmdOf [(0, 0x60000007), (3, 0x8000), (4, 1)]) .wait 2), 512, newFlight (cmdOf [(0, 0x60000007), (3, 0x8000), (4, 1)]) .wait 2, by decide⟩
theorem witness_signal_apply : ∃ (s : State) (t : TileId) (f : Flight), ((s.tile t.val).flights = [f]) ∧ (f.op = .signal ∧ f.done = none) ∧ ((s.tile t.val).open_ = true) :=
  ⟨stFlight (newFlight (cmdOf [(0, 0x70000007), (3, 0x12), (4, 5)]) .signal 2), 512, newFlight (cmdOf [(0, 0x70000007), (3, 0x12), (4, 5)]) .signal 2, by decide⟩
theorem witness_queue_entry_free_none : ∃ (s : State) (t : TileId), ∀ p ∈ s.ctxs, p.2.state ≠ .run :=
  ⟨State.reset, 512, by decide⟩

/-! RefusedOrEmptyAtDecode: states and operands that meet the hypotheses. -/

theorem witness_suspect_refuses : ∃ (s : State) (t : TileId) (c : TileCmd) (rest : List TileCmd) (op : TileOp), ((s.tile t.val).queue = c :: rest) ∧ (opOf (cmdOp c.words) = some op) ∧ ((s.tile t.val).suspect = true) ∧ ((s.tile t.val).headReady c op = true) :=
  ⟨{ stHead cMat with tiles := [(512, { Tile.idleFloor with queue := [cMat], suspect := true })] }, 512, cMat, [], .matmul, by decide⟩
theorem witness_matmul_refused : ∃ (s : State) (t : TileId) (c : TileCmd) (rest : List TileCmd), ((s.tile t.val).queue = c :: rest) ∧ (cmdOp c.words = 1) ∧ ((s.tile t.val).suspect = false) ∧ ((s.tile t.val).headReady c .matmul = true) ∧ (matOk (decodeMat c.words (s.tile t.val).store) c.words (s.tile t.val).store = false) :=
  ⟨stHead (cmdOf [(0, 0x10400007)]), 512, cmdOf [(0, 0x10400007)], [], by decide⟩
theorem witness_matmul_empty : ∃ (s : State) (t : TileId) (c : TileCmd) (rest : List TileCmd), ((s.tile t.val).queue = c :: rest) ∧ (cmdOp c.words = 1) ∧ ((s.tile t.val).suspect = false) ∧ ((s.tile t.val).headReady c .matmul = true) ∧ (matOk (decodeMat c.words (s.tile t.val).store) c.words (s.tile t.val).store = true) ∧ ((decodeMat c.words (s.tile t.val).store).m = 0 ∨ (decodeMat c.words (s.tile t.val).store).n = 0) :=
  ⟨stHead (cmdOf [(0, 0x10000007), (4, 1), (5, 0xC099), (7, 0x1000), (9, 0x2000)]), 512, cmdOf [(0, 0x10000007), (4, 1), (5, 0xC099), (7, 0x1000), (9, 0x2000)], [], by decide⟩
theorem witness_load_empty : ∃ (s : State) (t : TileId) (c : TileCmd) (rest : List TileCmd), ((s.tile t.val).queue = c :: rest) ∧ (cmdOp c.words = 4) ∧ ((s.tile t.val).suspect = false) ∧ ((s.tile t.val).headReady c .load = true) ∧ (xferOk (decodeXfer c.words) c.words true = true) ∧ ((decodeXfer c.words).rows = 0 ∨ (decodeXfer c.words).cols = 0) :=
  ⟨stHead (cmdOf [(0, 0x40000007), (9, 0x99)]), 512, cmdOf [(0, 0x40000007), (9, 0x99)], [], by decide⟩
theorem witness_load_denied : ∃ (s : State) (t : TileId) (c : TileCmd) (rest : List TileCmd), ((s.tile t.val).queue = c :: rest) ∧ (cmdOp c.words = 4) ∧ ((s.tile t.val).suspect = false) ∧ ((s.tile t.val).headReady c .load = true) ∧ (xferOk (decodeXfer c.words) c.words true = true) ∧ ((decodeXfer c.words).rows ≠ 0 ∧ (decodeXfer c.words).cols ≠ 0) ∧ (s.xferCode c.space (decodeXfer c.words) true = .keyDenied) :=
  ⟨stHead { cLoad with space := .inst 9 }, 512, { cLoad with space := .inst 9 }, [], by decide⟩
theorem witness_signal_empty : ∃ (s : State) (t : TileId) (c : TileCmd) (rest : List TileCmd), ((s.tile t.val).queue = c :: rest) ∧ (cmdOp c.words = 7) ∧ ((s.tile t.val).suspect = false) ∧ ((s.tile t.val).headReady c .signal = true) ∧ (ctrCmdOk c.words = true) ∧ (s.ctrHeld (s.domainOf c.space) (fld (wAt c.words 3) 15 0) = true) ∧ (wAt c.words 4 = 0) :=
  ⟨stHead (cmdOf [(0, 0x70000007), (3, 0x8000)]), 512, cmdOf [(0, 0x70000007), (3, 0x8000)], [], by decide⟩

/-! OutputBlockEnds: states and operands that meet the hypotheses. -/

theorem witness_block_fails : ∃ (s : State) (t : TileId) (f : Flight) (fault : Bool), ((s.tile t.val).flights = [f]) ∧ (f.done = none ∧ f.op.engine = 0) ∧ ((s.tile t.val).held = false ∧ (s.tile t.val).scrub = false ∧ (s.tile t.val).saving = false) ∧ ((f.blockEnd (s.tile t.val).store (s.tile t.val).bank fault).fails = true) ∧ (s.scaler (pgTile t.val) 0 < 0xFFFFFFFF) :=
  ⟨stFlight fMat, 512, fMat, true, by decide⟩
theorem witness_block_passes : ∃ (s : State) (t : TileId) (f : Flight) (fault : Bool), ((s.tile t.val).flights = [f]) ∧ (f.done = none ∧ f.op.engine = 0) ∧ ((s.tile t.val).held = false ∧ (s.tile t.val).scrub = false ∧ (s.tile t.val).saving = false) ∧ ((f.blockEnd (s.tile t.val).store (s.tile t.val).bank fault).fails = false) :=
  ⟨stFlight fMat, 512, fMat, false, by decide⟩

/-! TileRecordIsPosted: states and operands that meet the hypotheses. -/

theorem witness_record_post : ∃ (s : State) (t : TileId) (f : Flight) (rest : List Flight) (b : RecBody) (l : LaneId) (c : LaneCtxId), ((s.tile t.val).flights = f :: rest) ∧ (f.done = some b) ∧ (f.cmd.issuer = .lane l c) ∧ ((s.tile t.val).held = false ∧ (s.tile t.val).scrub = false ∧ (s.tile t.val).saving = false) ∧ (b.late = false) :=
  ⟨stFlight { fMat with done := some { status := .checksumFault, flags := {}, ckM := 0, ckN := 0, ac := 9, endNs := 0, late := false } }, 512, { fMat with done := some { status := .checksumFault, flags := {}, ckM := 0, ckN := 0, ac := 9, endNs := 0, late := false } }, [], { status := .checksumFault, flags := {}, ckM := 0, ckN := 0, ac := 9, endNs := 0, late := false }, 64, 0, by decide⟩
theorem witness_record_post_seq : ∃ (s : State) (t : TileId) (f : Flight) (rest : List Flight) (b : RecBody) (g : GroveId) (k : Nat), ((s.tile t.val).flights = f :: rest) ∧ (f.done = some b) ∧ (f.cmd.issuer = .seq g k) ∧ ((s.tile t.val).held = false ∧ (s.tile t.val).scrub = false ∧ (s.tile t.val).saving = false) ∧ (b.status = .ok) ∧ (b.late = false) ∧ (bitOf (wAt f.cmd.words 0) 26 = false) :=
  ⟨stFlight { newFlight { cLoad with issuer := .seq 16 5 } .load 1 with done := some { status := .ok, flags := {}, ckM := 0x7FFFF, ckN := 0xFFFF, ac := 9, endNs := 0, late := false } }, 512, { newFlight { cLoad with issuer := .seq 16 5 } .load 1 with done := some { status := .ok, flags := {}, ckM := 0x7FFFF, ckN := 0xFFFF, ac := 9, endNs := 0, late := false } }, [], { status := .ok, flags := {}, ckM := 0x7FFFF, ckN := 0xFFFF, ac := 9, endNs := 0, late := false }, 16, 5, by decide⟩

/-! TilePreemptionAndScrub: states and operands that meet the hypotheses. -/

theorem witness_preq : ∃ (s : State) (t : TileId), ((s.tile t.val).held = false ∧ (s.tile t.val).saving = false ∧ (s.tile t.val).scrub = false) ∧ (s.preqAllowed t.val = true) :=
  ⟨stFlight fMat, 512, by decide⟩
theorem witness_preq_tenant : ∃ (s : State) (t : TileId), ((s.tile t.val).live.isSome = true) ∧ ((s.tile t.val).sched ≠ .preempt) ∧ ((s.tile t.val).holder = none) :=
  ⟨{ State.reset with tiles := [(300, { Tile.idle with live := some (3, 5) })] }, 300, by decide⟩
theorem witness_preempt_point : ∃ (s : State) (t : TileId), ((s.tile t.val).preq = true ∧ (s.tile t.val).saving = false) ∧ ((s.tile t.val).xferStops = true) ∧ ((s.tile t.val).running = none) :=
  ⟨{ State.reset with tiles := [(512, { Tile.idleFloor with flights := [{ newFlight cDft .dft 0 with block := 1 }], preq := true })] }, 512, by decide⟩
theorem witness_preempt_inside : ∃ (s : State) (t : TileId) (f : Flight) (d : Mat) (n : Nat), ((s.tile t.val).preq = true ∧ (s.tile t.val).saving = false) ∧ ((s.tile t.val).xferStops = true) ∧ ((s.tile t.val).running = some (f, d, n)) :=
  ⟨{ State.reset with tiles := [(512, { Tile.idleFloor with flights := [fMat], preq := true })] }, 512, fMat, matFor cMat.words (some 1) [], 0, by decide⟩
theorem witness_transfer_timeout : ∃ (s : State) (t : TileId), ((s.tile t.val).preq = true) ∧ ((s.tile t.val).flights.any (fun f => f.done.isNone && f.op.engine = 1) = true) :=
  ⟨{ State.reset with tiles := [(512, { Tile.idleFloor with flights := [newFlight cLoad .load 1], preq := true })] }, 512, by decide⟩
theorem witness_save_complete : ∃ (s : State) (t : TileId), ((s.tile t.val).saving = true) ∧ ((s.tile t.val).sched ≠ .preempt) :=
  ⟨{ State.reset with tiles := [(512, { Tile.idleFloor with flights := [fMat], preq := true, saving := true })] }, 512, by decide⟩
theorem witness_resume : ∃ (s : State) (t : TileId), (s.tile t.val).held = true :=
  ⟨{ State.reset with tiles := [(512, { Tile.idleFloor with flights := [fMat], held := true })] }, 512, by decide⟩
theorem witness_scrub_complete : ∃ (s : State) (t : TileId), ((s.tile t.val).scrub = true) ∧ ((s.tile t.val).sched = .none ∨ (s.tile t.val).sched = .floor) :=
  ⟨{ State.reset with tiles := [(300, { Tile.idle with scrub := true, store := [(5, 1)] })] }, 300, by decide⟩
theorem witness_suspect_clr : ∃ (s : State) (t : TileId), (s.pwr.phase = .running) ∧ (s.recMode = 0) ∧ ((s.tile t.val).suspect = true ∧ (s.tile t.val).testPass = true ∧ (s.tile t.val).testing = false) :=
  ⟨{ State.reset with tiles := [(512, { Tile.idleFloor with suspect := true, testPass := true })] }, 512, by decide⟩
theorem witness_suspect_clr_ignored : ∃ (s : State) (t : TileId), (s.pwr.phase = .running) ∧ (s.recMode = 0) ∧ ((s.tile t.val).suspect = false ∨ (s.tile t.val).testPass = false ∨ (s.tile t.val).testing = true) ∧ (s.scaler (pgTile t.val) 11 < 0xFFFFFFFF) :=
  ⟨State.reset, 512, by decide⟩
theorem witness_tile_ctrl_host : ∃ (s : State) (t : TileId) (v : Word), (s.pwr.phase = .running) ∧ (s.recMode = 0) ∧ (s.scaler (pgTile t.val) 6 + 2 ≤ 0xFFFFFFFF) :=
  ⟨State.reset, 512, 3, by decide⟩

/-! LaneDataInstructionsComplete: states and operands that meet the hypotheses. -/

theorem witness_lane_nop : ∃ (s : State) (l : LaneId) (c : Nat) (i : LIns) (e : LEff) (ms : List Move1), (s.laneAt l.val c i = true) ∧ (i.op = 0x00) ∧ ((nopEff i (s.lctx l.val c)).toOption = some e) ∧ (s.laneMoves l.val c i e ms = true) :=
  ⟨stLane (insW 0x0 3 1 2 0 0), 64, 0, decodeLane (insW 0x0 3 1 2 0 0), effAt nopEff (insW 0x0 3 1 2 0 0), [], by decide⟩
theorem witness_lane_salu : ∃ (s : State) (l : LaneId) (c : Nat) (i : LIns) (e : LEff) (ms : List Move1), (s.laneAt l.val c i = true) ∧ (i.op = 0x10) ∧ ((saluEff i (s.lctx l.val c)).toOption = some e) ∧ (s.laneMoves l.val c i e ms = true) :=
  ⟨stLane (insW 0x10 3 1 2 0 0), 64, 0, decodeLane (insW 0x10 3 1 2 0 0), effAt saluEff (insW 0x10 3 1 2 0 0), [], by decide⟩
theorem witness_lane_movi : ∃ (s : State) (l : LaneId) (c : Nat) (i : LIns) (e : LEff) (ms : List Move1), (s.laneAt l.val c i = true) ∧ (i.op = 0x11) ∧ ((moviEff i (s.lctx l.val c)).toOption = some e) ∧ (s.laneMoves l.val c i e ms = true) :=
  ⟨stLane (insW 0x11 3 0 0 0 9), 64, 0, decodeLane (insW 0x11 3 0 0 0 9), effAt moviEff (insW 0x11 3 0 0 0 9), [], by decide⟩
theorem witness_lane_cmp : ∃ (s : State) (l : LaneId) (c : Nat) (i : LIns) (e : LEff) (ms : List Move1), (s.laneAt l.val c i = true) ∧ (i.op = 0x12) ∧ ((cmpEff i (s.lctx l.val c)).toOption = some e) ∧ (s.laneMoves l.val c i e ms = true) :=
  ⟨stLane (insW 0x12 3 1 2 0 0), 64, 0, decodeLane (insW 0x12 3 1 2 0 0), effAt cmpEff (insW 0x12 3 1 2 0 0), [], by decide⟩
theorem witness_lane_geta : ∃ (s : State) (l : LaneId) (c : Nat) (i : LIns) (e : LEff) (ms : List Move1), (s.laneAt l.val c i = true) ∧ (i.op = 0x21) ∧ ((getaEff i (s.lctx l.val c)).toOption = some e) ∧ (s.laneMoves l.val c i e ms = true) :=
  ⟨stLane (insW 0x21 3 1 2 0 0), 64, 0, decodeLane (insW 0x21 3 1 2 0 0), effAt getaEff (insW 0x21 3 1 2 0 0), [], by decide⟩
theorem witness_lane_valu : ∃ (s : State) (l : LaneId) (c : Nat) (i : LIns) (e : LEff) (ms : List Move1), (s.laneAt l.val c i = true) ∧ (i.op = 0x30) ∧ ((valuEff i (s.lctx l.val c)).toOption = some e) ∧ (s.laneMoves l.val c i e ms = true) :=
  ⟨stLane (insW 0x30 3 1 2 0 0), 64, 0, decodeLane (insW 0x30 3 1 2 0 0), effAt valuEff (insW 0x30 3 1 2 0 0), [], by decide⟩
theorem witness_lane_vcmul : ∃ (s : State) (l : LaneId) (c : Nat) (i : LIns) (e : LEff) (ms : List Move1), (s.laneAt l.val c i = true) ∧ (i.op = 0x31) ∧ ((vcmulEff i (s.lctx l.val c)).toOption = some e) ∧ (s.laneMoves l.val c i e ms = true) :=
  ⟨stLane (insW 0x31 3 1 2 0 0), 64, 0, decodeLane (insW 0x31 3 1 2 0 0), effAt vcmulEff (insW 0x31 3 1 2 0 0), [], by decide⟩
theorem witness_lane_vmac : ∃ (s : State) (l : LaneId) (c : Nat) (i : LIns) (e : LEff) (ms : List Move1), (s.laneAt l.val c i = true) ∧ (i.op = 0x32) ∧ ((vmacEff i (s.lctx l.val c)).toOption = some e) ∧ (s.laneMoves l.val c i e ms = true) :=
  ⟨stLane (insW 0x32 1 1 2 0 0), 64, 0, decodeLane (insW 0x32 1 1 2 0 0), effAt vmacEff (insW 0x32 1 1 2 0 0), [], by decide⟩
theorem witness_lane_vmacs : ∃ (s : State) (l : LaneId) (c : Nat) (i : LIns) (e : LEff) (ms : List Move1), (s.laneAt l.val c i = true) ∧ (i.op = 0x33) ∧ ((vmacsEff i (s.lctx l.val c)).toOption = some e) ∧ (s.laneMoves l.val c i e ms = true) :=
  ⟨stLane (insW 0x33 1 1 2 0 0), 64, 0, decodeLane (insW 0x33 1 1 2 0 0), effAt vmacsEff (insW 0x33 1 1 2 0 0), [], by decide⟩
theorem witness_lane_vcmac : ∃ (s : State) (l : LaneId) (c : Nat) (i : LIns) (e : LEff) (ms : List Move1), (s.laneAt l.val c i = true) ∧ (i.op = 0x34) ∧ ((vcmacEff i (s.lctx l.val c)).toOption = some e) ∧ (s.laneMoves l.val c i e ms = true) :=
  ⟨stLane (insW 0x34 1 1 2 0 0), 64, 0, decodeLane (insW 0x34 1 1 2 0 0), effAt vcmacEff (insW 0x34 1 1 2 0 0), [], by decide⟩
theorem witness_lane_vrdac : ∃ (s : State) (l : LaneId) (c : Nat) (i : LIns) (e : LEff) (ms : List Move1), (s.laneAt l.val c i = true) ∧ (i.op = 0x35) ∧ ((vrdacEff i (s.lctx l.val c)).toOption = some e) ∧ (s.laneMoves l.val c i e ms = true) :=
  ⟨stLane (insW 0x35 3 1 2 0 0), 64, 0, decodeLane (insW 0x35 3 1 2 0 0), effAt vrdacEff (insW 0x35 3 1 2 0 0), [], by decide⟩
theorem witness_lane_vsclac : ∃ (s : State) (l : LaneId) (c : Nat) (i : LIns) (e : LEff) (ms : List Move1), (s.laneAt l.val c i = true) ∧ (i.op = 0x36) ∧ ((vsclacEff i (s.lctx l.val c)).toOption = some e) ∧ (s.laneMoves l.val c i e ms = true) :=
  ⟨stLane (insW 0x36 3 1 2 0 0), 64, 0, decodeLane (insW 0x36 3 1 2 0 0), effAt vsclacEff (insW 0x36 3 1 2 0 0), [], by decide⟩
theorem witness_lane_vmag2 : ∃ (s : State) (l : LaneId) (c : Nat) (i : LIns) (e : LEff) (ms : List Move1), (s.laneAt l.val c i = true) ∧ (i.op = 0x37) ∧ ((vmag2Eff i (s.lctx l.val c)).toOption = some e) ∧ (s.laneMoves l.val c i e ms = true) :=
  ⟨stLane (insW 0x37 3 1 2 0 0), 64, 0, decodeLane (insW 0x37 3 1 2 0 0), effAt vmag2Eff (insW 0x37 3 1 2 0 0), [], by decide⟩
theorem witness_lane_vrcp : ∃ (s : State) (l : LaneId) (c : Nat) (i : LIns) (e : LEff) (ms : List Move1), (s.laneAt l.val c i = true) ∧ (i.op = 0x38) ∧ ((vrcpEff i (s.lctx l.val c)).toOption = some e) ∧ (s.laneMoves l.val c i e ms = true) :=
  ⟨stLane (insW 0x38 3 1 2 0 0), 64, 0, decodeLane (insW 0x38 3 1 2 0 0), effAt vrcpEff (insW 0x38 3 1 2 0 0), [], by decide⟩
theorem witness_lane_vcvt : ∃ (s : State) (l : LaneId) (c : Nat) (i : LIns) (e : LEff) (ms : List Move1), (s.laneAt l.val c i = true) ∧ (i.op = 0x39) ∧ ((vcvtEff i (s.lctx l.val c)).toOption = some e) ∧ (s.laneMoves l.val c i e ms = true) :=
  ⟨stLane (insW 0x39 1 2 0xB 0x1 0), 64, 0, decodeLane (insW 0x39 1 2 0xB 0x1 0), effAt vcvtEff (insW 0x39 1 2 0xB 0x1 0), [], by decide⟩
theorem witness_lane_vsplat : ∃ (s : State) (l : LaneId) (c : Nat) (i : LIns) (e : LEff) (ms : List Move1), (s.laneAt l.val c i = true) ∧ (i.op = 0x3A) ∧ ((vsplatEff i (s.lctx l.val c)).toOption = some e) ∧ (s.laneMoves l.val c i e ms = true) :=
  ⟨stLane (insW 0x3a 3 1 2 0 0), 64, 0, decodeLane (insW 0x3a 3 1 2 0 0), effAt vsplatEff (insW 0x3a 3 1 2 0 0), [], by decide⟩
theorem witness_lane_gett : ∃ (s : State) (l : LaneId) (c : Nat) (i : LIns), (s.laneAt l.val c i = true) ∧ (i.op = 0x13) :=
  ⟨stLane (insW 0x13 3 0 0 0 0), 64, 0, decodeLane (insW 0x13 3 0 0 0 0), by decide⟩
theorem witness_lane_rdc : ∃ (s : State) (l : LaneId) (c : Nat) (i : LIns), (s.laneAt l.val c i = true) ∧ (i.op = 0x0B) ∧ (i.rd < 8) :=
  ⟨stLane (insW 0x0B 3 0 0 0 0), 64, 0, decodeLane (insW 0x0B 3 0 0 0 0), by decide⟩

/-! LaneResultFrame: states and operands that meet the hypotheses. -/

theorem witness_lane_frame : ∃ (s : State) (l c : Nat) (e : LEff) (ms : List Move1), (ms.all (fun m => decide (m.mem < 3)) = true) ∧ (∀ p ∈ s.insts, p.2.watch = true → p.2.ovfTarget ≠ 0x1000 + l) :=
  ⟨State.reset, 64, 0, {}, [], by decide⟩
theorem witness_lane_begun : ∃ (s : State) (l : LaneId) (c : Nat) (i : LIns), s.laneAt l.val c i = true :=
  ⟨stLane (insW 0x30 3 1 2 0 0), 64, 0, decodeLane (insW 0x30 3 1 2 0 0), by decide⟩
theorem witness_lane_interlock : ∃ (s : State) (l : LaneId) (c : Nat) (i : LIns), (s.laneAt l.val c i = true) ∧ (i.op ≠ 0x05) ∧ (s.scaler (pgLane l.val) 1 + (s.lctx l.val c).stall (max (s.lane l.val).free s.ac) (insSources i) ≤ 0xFFFFFFFF) :=
  ⟨stLane (insW 0x35 3 1 0 0 0), 64, 0, decodeLane (insW 0x35 3 1 0 0 0), by decide⟩
theorem witness_lane_frame_mem : ∃ (s : State) (l c : Nat) (e : LEff) (ms : List Move1), ms.all (fun m => !m.store) = true :=
  ⟨State.reset, 64, 0, {}, [], by decide⟩
theorem witness_lane_store : ∃ (s : State) (l c : Nat) (e : LEff) (ms : List Move1) (m : Move1) (k : Nat), (ms = [m] ∧ m.store = true ∧ m.mem < 3) ∧ (Memory.wf ((s.lane l).memOf m.mem) = true) ∧ ((k < (s.window l c m.mem).1 + m.addr ∨ (s.window l c m.mem).1 + m.addr + ((s.lctx l c).regBytes m.reg).length ≤ k)) :=
  ⟨State.reset, 64, 0, {}, [{ mem := 1, ptr := 4, upd := none, addr := 16, reg := 9, size := 4, store := true }], { mem := 1, ptr := 4, upd := none, addr := 16, reg := 9, size := 4, store := true }, 20, by decide⟩

/-! AccumulatorSlotsNeverWrap: states and operands that meet the hypotheses. -/

theorem witness_slot_add : ∃ (a : AcSlot) (t : Int), (a.sat = false) ∧ ((-(2 ^ 47) ≤ a.val ∧ a.val ≤ 2 ^ 47 - 1)) :=
  ⟨{ val := 2 ^ 47 - 1, sat := false }, 1, by decide⟩
theorem witness_slot_keeps : ∃ (a : AcSlot) (t : Int), (a.sat = true) ∧ ((-(2 ^ 47) ≤ a.val ∧ a.val ≤ 2 ^ 47 - 1)) :=
  ⟨{ val := 2 ^ 47 - 1, sat := true }, -5, by decide⟩

/-! VectorLaneResults: states and operands that meet the hypotheses. -/

theorem witness_valu_add : ∃ (i : LIns) (x : LaneCtx), (i.ra < 8 ∧ i.rb < 8 ∧ i.rd < 8) ∧ (i.mod < 2) :=
  ⟨decodeLane (insW 0x30 3 1 2 0 0), LaneCtx.zero, by decide⟩
theorem witness_vmac_term : ∃ (i : LIns) (x : LaneCtx), i.ra < 8 ∧ i.rb < 8 ∧ i.rd < 4 :=
  ⟨decodeLane (insW 0x32 3 1 2 0 0), LaneCtx.zero, by decide⟩
theorem witness_vmacs_term : ∃ (i : LIns) (x : LaneCtx), i.ra < 8 ∧ i.rd < 4 :=
  ⟨decodeLane (insW 0x33 3 1 2 0 0), LaneCtx.zero, by decide⟩
theorem witness_vcmac_term : ∃ (i : LIns) (x : LaneCtx), i.ra < 8 ∧ i.rb < 8 ∧ i.rd < 4 :=
  ⟨decodeLane (insW 0x34 3 1 2 0 0), LaneCtx.zero, by decide⟩
theorem witness_vsplat_copy : ∃ (i : LIns) (x : LaneCtx), (i.rd < 8) ∧ (i.mod < 2) :=
  ⟨decodeLane (insW 0x3A 3 1 0 0 0), LaneCtx.zero, by decide⟩
theorem witness_no_such_register : ∃ (i : LIns) (x : LaneCtx), 8 ≤ i.ra :=
  ⟨decodeLane (insW 0x31 3 9 2 0 0), LaneCtx.zero, by decide⟩

/-! LaneControlInstructions: states and operands that meet the hypotheses. -/

theorem witness_br_taken : ∃ (s : State) (l : LaneId) (c : Nat) (i : LIns), (s.laneAt l.val c i = true) ∧ (i.op = 0x01) ∧ ((s.lctx l.val c).condition i.mod = some true) ∧ (fld i.imm 11 0 < s.psize l.val c) :=
  ⟨stLane (insW 0x01 0 0 0 0 6), 64, 0, decodeLane (insW 0x01 0 0 0 0 6), by decide⟩
theorem witness_br_not_taken : ∃ (s : State) (l : LaneId) (c : Nat) (i : LIns), (s.laneAt l.val c i = true) ∧ (i.op = 0x01) ∧ ((s.lctx l.val c).condition i.mod = some false) :=
  ⟨stLane (insW 0x01 0 0 0 1 6), 64, 0, decodeLane (insW 0x01 0 0 0 1 6), by decide⟩
theorem witness_br_past_end : ∃ (s : State) (l : LaneId) (c : Nat) (i : LIns), (s.laneAt l.val c i = true) ∧ (i.op = 0x01) ∧ ((s.lctx l.val c).condition i.mod = some true) ∧ (s.psize l.val c ≤ fld i.imm 11 0) :=
  ⟨stLane (insW 0x01 0 0 0 0 99), 64, 0, decodeLane (insW 0x01 0 0 0 0 99), by decide⟩
theorem witness_call : ∃ (s : State) (l : LaneId) (c : Nat) (i : LIns), (s.laneAt l.val c i = true) ∧ (i.op = 0x02) ∧ ((s.lctx l.val c).stack.length < 8) ∧ (fld i.imm 11 0 < s.psize l.val c) :=
  ⟨stLane (insW 0x02 0 0 0 0 6), 64, 0, decodeLane (insW 0x02 0 0 0 0 6), by decide⟩
theorem witness_call_overflow : ∃ (s : State) (l : LaneId) (c : Nat) (i : LIns), (s.laneAt l.val c i = true) ∧ (i.op = 0x02) ∧ (8 ≤ (s.lctx l.val c).stack.length) :=
  ⟨(stLane (insW 0x02 0 0 0 0 6)).updLctx 64 0 (fun x => { x with stack := List.replicate 8 1 }), 64, 0, decodeLane (insW 0x02 0 0 0 0 6), by decide⟩
theorem witness_ret : ∃ (s : State) (l : LaneId) (c : Nat) (i : LIns) (a : Nat) (rest : List Nat), (s.laneAt l.val c i = true) ∧ (i.op = 0x03) ∧ ((s.lctx l.val c).stack = a :: rest) ∧ (a < s.psize l.val c) :=
  ⟨stLane (insW 0x03 0 0 0 0 0), 64, 0, decodeLane (insW 0x03 0 0 0 0 0), 3, [], by decide⟩
theorem witness_ret_empty : ∃ (s : State) (l : LaneId) (c : Nat) (i : LIns), (s.laneAt l.val c i = true) ∧ (i.op = 0x03) ∧ ((s.lctx l.val c).stack = []) :=
  ⟨(stLane (insW 0x03 0 0 0 0 0)).updLctx 64 0 (fun x => { x with stack := [] }), 64, 0, decodeLane (insW 0x03 0 0 0 0 0), by decide⟩
theorem witness_loop : ∃ (s : State) (l : LaneId) (c : Nat) (i : LIns) (n : Nat), (s.laneAt l.val c i = true) ∧ (i.op = 0x04) ∧ (n = (if i.mod % 2 = 1 then ((s.lctx l.val c).getS i.ra).toNat else fld i.imm 15 0)) ∧ (1 ≤ n ∧ n ≤ 65535) ∧ ((s.lctx l.val c).loops.length < 2) :=
  ⟨stLane (insW 0x04 0 0 0 0 0x20003), 64, 0, decodeLane (insW 0x04 0 0 0 0 0x20003), 3, by decide⟩
theorem witness_loop_zero : ∃ (s : State) (l : LaneId) (c : Nat) (i : LIns), (s.laneAt l.val c i = true) ∧ (i.op = 0x04) ∧ ((if i.mod % 2 = 1 then ((s.lctx l.val c).getS i.ra).toNat else fld i.imm 15 0) = 0) ∧ ((s.lctx l.val c).loops.length < 2) :=
  ⟨stLane (insW 0x04 0 0 0 0 0x20000), 64, 0, decodeLane (insW 0x04 0 0 0 0 0x20000), by decide⟩
theorem witness_loop_third : ∃ (s : State) (l : LaneId) (c : Nat) (i : LIns), (s.laneAt l.val c i = true) ∧ (i.op = 0x04) ∧ (2 ≤ (s.lctx l.val c).loops.length) :=
  ⟨(stLane (insW 0x04 0 0 0 0 0x20003)).updLctx 64 0 (fun x => { x with loops := [{ left := 2, start := 0, len := 9 }, { left := 2, start := 0, len := 9 }] }), 64, 0, decodeLane (insW 0x04 0 0 0 0 0x20003), by decide⟩
theorem witness_loop_count : ∃ (s : State) (l : LaneId) (c : Nat) (i : LIns), (s.laneAt l.val c i = true) ∧ (i.op = 0x04) ∧ (65535 < (if i.mod % 2 = 1 then ((s.lctx l.val c).getS i.ra).toNat else fld i.imm 15 0)) ∧ ((s.lctx l.val c).loops.length < 2) :=
  ⟨(stLane (insW 0x04 0 1 0 1 0x20003)).updLctx 64 0 (fun x => { x with s := x.s.set 1 0x10000 }), 64, 0, decodeLane (insW 0x04 0 1 0 1 0x20003), by decide⟩
theorem witness_repeat : ∃ (s : State) (l : LaneId) (c : Nat) (i : LIns) (n : Nat), (s.laneAt l.val c i = true) ∧ (i.op = 0x05) ∧ (n = (if i.mod % 2 = 1 then ((s.lctx l.val c).getS i.ra).toNat else fld i.imm 11 0)) ∧ (1 ≤ n ∧ n ≤ 4095) ∧ ((s.lctx l.val c).loops.any (fun v => decide ((s.lctx l.val c).pc + 1 = v.start + v.len)) = false) ∧ ((s.lctx l.val c).pc + 1 < s.psize l.val c) ∧ (repeatable (decodeLane (s.laneWord l.val c ((s.lctx l.val c).pc + 1))).op = true) :=
  ⟨stLane (insW 0x05 0 0 0 0 3), 64, 0, decodeLane (insW 0x05 0 0 0 0 3), 3, by decide⟩
theorem witness_seta : ∃ (s : State) (l : LaneId) (c : Nat) (i : LIns) (y : LaneCtx), (s.laneAt l.val c i = true) ∧ (i.op = 0x20) ∧ ((s.lctx l.val c).seta i = some y) :=
  ⟨stLane (insW 0x20 2 0 0 4 0x40), 64, 0, decodeLane (insW 0x20 2 0 0 4 0x40), ((stLane (insW 0x20 2 0 0 4 0x40)).lctx 64 0).seta (decodeLane (insW 0x20 2 0 0 4 0x40)) |>.getD LaneCtx.zero, by decide⟩
theorem witness_seta_refused : ∃ (s : State) (l : LaneId) (c : Nat) (i : LIns), (s.laneAt l.val c i = true) ∧ (i.op = 0x20) ∧ ((s.lctx l.val c).seta i = none) :=
  ⟨stLane (insW 0x20 2 0 0 6 0x41), 64, 0, decodeLane (insW 0x20 2 0 0 6 0x41), by decide⟩
theorem witness_setdl : ∃ (s : State) (l : LaneId) (c : Nat) (i : LIns), (s.laneAt l.val c i = true) ∧ (i.op = 0x07) :=
  ⟨stLane (insW 0x07 0 1 0 0 0), 64, 0, decodeLane (insW 0x07 0 1 0 0 0), by decide⟩
theorem witness_seta_p : ∃ (i : LIns) (x : LaneCtx) (v : Nat), (v = (if i.mod / 4 % 2 = 1 then i.imm.toNat % 2 ^ 17 else (x.getS i.ra).toNat)) ∧ (i.mod % 4 = 0) :=
  ⟨decodeLane (insW 0x20 2 0 0 4 0x40), LaneCtx.zero, 0x40, by decide⟩
theorem witness_seta_n : ∃ (i : LIns) (x : LaneCtx) (v : Nat), (v = (if i.mod / 4 % 2 = 1 then i.imm.toNat % 2 ^ 17 else (x.getS i.ra).toNat)) ∧ (i.mod % 4 = 1) :=
  ⟨decodeLane (insW 0x20 2 0 0 5 0x40), LaneCtx.zero, 0x40, by decide⟩
theorem witness_seta_base : ∃ (i : LIns) (x : LaneCtx) (v : Nat), (v = (if i.mod / 4 % 2 = 1 then i.imm.toNat % 2 ^ 17 else (x.getS i.ra).toNat)) ∧ (i.mod % 4 = 2) :=
  ⟨decodeLane (insW 0x20 2 0 0 6 0x40), LaneCtx.zero, 0x40, by decide⟩
theorem witness_seta_len : ∃ (i : LIns) (x : LaneCtx) (v : Nat), (v = (if i.mod / 4 % 2 = 1 then i.imm.toNat % 2 ^ 17 else (x.getS i.ra).toNat % 2 ^ 17)) ∧ (i.mod % 4 = 3) :=
  ⟨decodeLane (insW 0x20 2 0 0 7 0x40), LaneCtx.zero, 0x40, by decide⟩

/-! LaneWaitsSleepAndWake: states and operands that meet the hypotheses. -/

theorem witness_halt : ∃ (s : State) (l : LaneId) (c : Nat) (i : LIns), (s.laneAt l.val c i = true) ∧ (i.op = 0x08) :=
  ⟨stLane (insW 0x08 0 0 0 0 0), 64, 0, decodeLane (insW 0x08 0 0 0 0 0), by decide⟩
theorem witness_wait_counter_now : ∃ (s : State) (l : LaneId) (c : Nat) (i : LIns), (s.laneAt l.val c i = true) ∧ (i.op = 0x06 ∧ i.mod = 0) ∧ (((s.lctx l.val c).getS i.ra).toNat ≤ 65535) ∧ ((s.ctr (l.val / 32) ((s.lctx l.val c).getS i.ra).toNat - (s.lctx l.val c).getS i.rb).toNat < 2 ^ 31) :=
  ⟨stLane (insW 0x06 0 1 0 0 0), 64, 0, decodeLane (insW 0x06 0 1 0 0 0), by decide⟩
theorem witness_wait_counter_sleeps : ∃ (s : State) (l : LaneId) (c : Nat) (i : LIns), (s.laneAt l.val c i = true) ∧ (i.op = 0x06 ∧ i.mod = 0) ∧ (((s.lctx l.val c).getS i.ra).toNat ≤ 65535) ∧ (2 ^ 31 ≤ (s.ctr (l.val / 32) ((s.lctx l.val c).getS i.ra).toNat - (s.lctx l.val c).getS i.rb).toNat) :=
  ⟨stLane (insW 0x06 0 1 2 0 0), 64, 0, decodeLane (insW 0x06 0 1 2 0 0), by decide⟩
theorem witness_wait_record_sleeps : ∃ (s : State) (l : LaneId) (c : Nat) (i : LIns), (s.laneAt l.val c i = true) ∧ (i.op = 0x06 ∧ i.mod = 1) ∧ ((s.lctx l.val c).port = []) :=
  ⟨stLane (insW 0x06 0 1 2 1 0), 64, 0, decodeLane (insW 0x06 0 1 2 1 0), by decide⟩
theorem witness_wait_time_now : ∃ (s : State) (l : LaneId) (c : Nat) (i : LIns), (s.laneAt l.val c i = true) ∧ (i.op = 0x06 ∧ i.mod = 2) ∧ ((s.now32 - (s.lctx l.val c).getS i.ra).toNat < 2 ^ 31) :=
  ⟨stLane (insW 0x06 0 0 0 2 0), 64, 0, decodeLane (insW 0x06 0 0 0 2 0), by decide⟩
theorem witness_wait_no_counter : ∃ (s : State) (l : LaneId) (c : Nat) (i : LIns), (s.laneAt l.val c i = true) ∧ (i.op = 0x06 ∧ i.mod = 0) ∧ (65535 < ((s.lctx l.val c).getS i.ra).toNat) :=
  ⟨(stLane (insW 0x06 0 1 0 0 0)).updLctx 64 0 (fun x => { x with s := x.s.set 1 0x10000 }), 64, 0, decodeLane (insW 0x06 0 1 0 0 0), by decide⟩
theorem witness_wait_wake : ∃ (s : State) (l : LaneId) (c : LaneCtxId), ((s.lctx l.val c.val).state = .sleep) ∧ (s.laneWaitHolds l.val c.val = true) :=
  ⟨(stLane 0).updLctx 64 0 (fun x => { x with state := .sleep, wait := .record, port := [[1, 2, 3, 4]] }), 64, 0, by decide⟩
theorem witness_wait_stays : ∃ (s : State) (l : LaneId) (c : LaneCtxId), s.laneWaitHolds l.val c.val = false :=
  ⟨State.reset, 64, 0, by decide⟩

/-! LaneIssuesCommands: states and operands that meet the hypotheses. -/

theorem witness_tiss : ∃ (s : State) (l : LaneId) (c : Nat) (i : LIns), (s.laneAt l.val c i = true) ∧ (i.op = 0x09) ∧ (((s.lctx l.val c).getS i.rb).toNat % 32 = 0 ∧ ((s.lctx l.val c).getS i.rb).toNat + 64 ≤ (s.window l.val c 0).2) ∧ (bitOf (wAt (wordsOf 16 ((s.lane l.val).x.readN ((s.window l.val c 0).1 + ((s.lctx l.val c).getS i.rb).toNat) 64)) 0) 27 = false) ∧ (((s.lctx l.val c).getS i.ra).toNat / 256 = l.val / 32 ∧ ((s.lctx l.val c).getS i.ra).toNat < 1024) ∧ (s.tileHeldBy ((s.lctx l.val c).getS i.ra).toNat 0 = true) ∧ ((s.tile ((s.lctx l.val c).getS i.ra).toNat).queue.length < 16) ∧ ((s.lctx l.val c).outst + (s.lctx l.val c).port.length < 32) ∧ (c < 8) :=
  ⟨(stLaneX (insW 0x09 0 3 0 0 0)).updLctx 64 0 (fun x => { x with s := x.s.set 3 512 }), 64, 0, decodeLane (insW 0x09 0 3 0 0 0), by decide⟩
theorem witness_tiss_full : ∃ (s : State) (l : LaneId) (c : Nat) (i : LIns), (s.laneAt l.val c i = true) ∧ (i.op = 0x09) ∧ (((s.lctx l.val c).getS i.rb).toNat % 32 = 0 ∧ ((s.lctx l.val c).getS i.rb).toNat + 64 ≤ (s.window l.val c 0).2) ∧ (bitOf (wAt (wordsOf 16 ((s.lane l.val).x.readN ((s.window l.val c 0).1 + ((s.lctx l.val c).getS i.rb).toNat) 64)) 0) 27 = false) ∧ (((s.lctx l.val c).getS i.ra).toNat / 256 = l.val / 32 ∧ ((s.lctx l.val c).getS i.ra).toNat < 1024) ∧ (s.tileHeldBy ((s.lctx l.val c).getS i.ra).toNat 0 = true) ∧ (16 ≤ (s.tile ((s.lctx l.val c).getS i.ra).toNat).queue.length) ∧ ((s.lctx l.val c).outst + (s.lctx l.val c).port.length < 32) :=
  ⟨{ (stLaneX (insW 0x09 0 3 0 0 0)).updLctx 64 0 (fun x => { x with s := x.s.set 3 512 }) with tiles := [(512, { Tile.idleFloor with queue := List.replicate 16 cMat })] }, 64, 0, decodeLane (insW 0x09 0 3 0 0 0), by decide⟩
theorem witness_tiss_refused : ∃ (s : State) (l : LaneId) (c : Nat) (i : LIns), (s.laneAt l.val c i = true) ∧ (i.op = 0x09) ∧ (((s.lctx l.val c).getS i.rb).toNat % 32 = 0 ∧ ((s.lctx l.val c).getS i.rb).toNat + 64 ≤ (s.window l.val c 0).2) ∧ (bitOf (wAt (wordsOf 16 ((s.lane l.val).x.readN ((s.window l.val c 0).1 + ((s.lctx l.val c).getS i.rb).toNat) 64)) 0) 27 = false) ∧ (1024 ≤ ((s.lctx l.val c).getS i.ra).toNat ∨ ((s.lctx l.val c).getS i.ra).toNat / 256 ≠ l.val / 32 ∨ s.tileHeldBy ((s.lctx l.val c).getS i.ra).toNat 0 = false) ∧ ((s.lctx l.val c).outst + (s.lctx l.val c).port.length < 32) ∧ (s.scaler (pgLane l.val) 2 < 0xFFFFFFFF) :=
  ⟨stLaneX (insW 0x09 0 0 0 0 0), 64, 0, decodeLane (insW 0x09 0 0 0 0 0), by decide⟩
theorem witness_ciss : ∃ (s : State) (l : LaneId) (c : Nat) (i : LIns), (s.laneAt l.val c i = true) ∧ (i.op = 0x0A) ∧ (((s.lctx l.val c).getS i.rb).toNat % 32 = 0 ∧ ((s.lctx l.val c).getS i.rb).toNat + 64 ≤ (s.window l.val c 0).2) ∧ (((s.lctx l.val c).getS i.ra).toNat < 32 ∧ ((s.lctx l.val c).getS i.ra).toNat / 8 = l.val / 32) ∧ (((s.grove ((s.lctx l.val c).getS i.ra).toNat).ceQueue.filter (fun q => !q.started)).length < 16) ∧ ((s.lctx l.val c).outst + (s.lctx l.val c).port.length < 32) ∧ (c < 8) :=
  ⟨(stLaneX (insW 0x0A 0 3 0 0 0)).updLctx 64 0 (fun x => { x with s := x.s.set 3 16 }), 64, 0, decodeLane (insW 0x0A 0 3 0 0 0), by decide⟩
theorem witness_issue_unblock : ∃ (s : State) (l : LaneId) (c : LaneCtxId) (i : LIns), ((s.lctx l.val c.val).state = .sleep ∧ (s.lctx l.val c.val).wait = .issue) ∧ (s.issueBehind l.val c.val = false) ∧ ((s.bist.inj.find 2).isNone = true) ∧ (i = decodeLane (s.laneWord l.val c.val (s.lctx l.val c.val).pc) ∧ i.op = 0x09) ∧ (((s.lctx l.val c.val).getS i.rb).toNat % 32 = 0 ∧ ((s.lctx l.val c.val).getS i.rb).toNat + 64 ≤ (s.window l.val c.val 0).2) ∧ (bitOf (wAt (wordsOf 16 ((s.lane l.val).x.readN ((s.window l.val c.val 0).1 + ((s.lctx l.val c.val).getS i.rb).toNat) 64)) 0) 27 = false) ∧ (((s.lctx l.val c.val).getS i.ra).toNat / 256 = l.val / 32 ∧ ((s.lctx l.val c.val).getS i.ra).toNat < 1024) ∧ (s.tileHeldBy ((s.lctx l.val c.val).getS i.ra).toNat 0 = true) ∧ ((s.tile ((s.lctx l.val c.val).getS i.ra).toNat).queue.length < 16) ∧ ((s.lctx l.val c.val).outst + (s.lctx l.val c.val).port.length < 32) :=
  ⟨((stLaneX (insW 0x09 0 3 0 0 0)).updLctx 64 0 (fun x => { x with s := x.s.set 3 512 })).updLctx 64 0 (fun x => { x with state := .sleep, wait := .issue }), 64, 0, decodeLane (insW 0x09 0 3 0 0 0), by decide⟩
theorem witness_advc : ∃ (s : State) (l : LaneId) (c : Nat) (i : LIns), (s.laneAt l.val c i = true) ∧ (i.op = 0x0C) :=
  ⟨stLane (insW 0x0C 0 0 0 0 0), 64, 0, decodeLane (insW 0x0C 0 0 0 0 0), by decide⟩
theorem witness_sigc : ∃ (s : State) (l : LaneId) (c : Nat) (i : LIns), (s.laneAt l.val c i = true) ∧ (i.op = 0x0D) ∧ (((s.lctx l.val c).getS i.ra).toNat < 0x8000) ∧ (s.ctrHeld 0 ((s.lctx l.val c).getS i.ra).toNat = true) :=
  ⟨{ stLane (insW 0x0D 0 1 2 0 0) with fbk := { State.reset.fbk with map := State.reset.fbk.map ++ [(576, 0x80)] } }, 64, 0, decodeLane (insW 0x0D 0 1 2 0 0), by decide⟩
theorem witness_sigc_refused : ∃ (s : State) (l : LaneId) (c : Nat) (i : LIns), (s.laneAt l.val c i = true) ∧ (i.op = 0x0D) ∧ (s.ctrHeld 0 ((s.lctx l.val c).getS i.ra).toNat = false) :=
  ⟨stLane (insW 0x0D 0 1 2 0 0), 64, 0, decodeLane (insW 0x0D 0 1 2 0 0), by decide⟩
theorem witness_record_arrive : ∃ (s : State) (l : LaneId) (c : LaneCtxId) (r : List Word) (rest : List (List Word)), ((s.lctx l.val c.val).arriving = r :: rest) ∧ ((s.lctx l.val c.val).state ≠ .faulted ∧ (s.lctx l.val c.val).state ≠ .stopping ∧ (s.lctx l.val c.val).state ≠ .off) ∧ ((s.cell (s.ctxCell l.val c.val)).forced = false) :=
  ⟨(stLane 0).updLctx 64 0 (fun x => { x with outst := 1, arriving := [[1, 2, 3, 4]] }), 64, 0, [1, 2, 3, 4], [], by decide⟩

/-! SortDeckRunsACommand: states and operands that meet the hypotheses. -/

theorem witness_deck_command : ∃ (s : State) (g : GroveId) (i : Nat) (c : DeckCmd), ((s.grove g.val).parked = false) ∧ ((s.grove g.val).deck0 = none ∨ (s.grove g.val).deck1 = none) ∧ (s.nearest (deckPoint g.val) (s.grove g.val).deckWait = some i) ∧ ((s.grove g.val).deckWait[i]? = some c) ∧ (deckOk (decodeDeck c.words) c.words = true) ∧ ((((decodeDeck c.words).stile :: (decodeDeck c.words).dests).map (groveTile g.val)).all (fun t => s.tileHeldBy t c.domain) = true) ∧ ((decodeDeck c.words).t ≠ 0) :=
  ⟨stDeck [dkCmd] none, 0, 0, dkCmd, by decide⟩
theorem witness_deck_refused : ∃ (s : State) (g : GroveId) (i : Nat) (c : DeckCmd), ((s.grove g.val).parked = false) ∧ ((s.grove g.val).deck0 = none ∨ (s.grove g.val).deck1 = none) ∧ (s.nearest (deckPoint g.val) (s.grove g.val).deckWait = some i) ∧ ((s.grove g.val).deckWait[i]? = some c) ∧ (deckOk (decodeDeck c.words) c.words = false ∨ (decodeDeck c.words).t = 0 ∨ (((decodeDeck c.words).stile :: (decodeDeck c.words).dests).map (groveTile g.val)).all (fun t => s.tileHeldBy t c.domain) = false) ∧ (s.pastTag (cmdDeadline c.words) = false) :=
  ⟨stDeck [{ dkCmd with words := words16 [] }] none, 0, 0, { dkCmd with words := words16 [] }, by decide⟩
theorem witness_deck_complete : ∃ (s : State) (g : GroveId) (second : Bool) (c : DeckCmd) (r : Placed × List Byte), ((if second then (s.grove g.val).deck1 else (s.grove g.val).deck0) = some c) ∧ ((s.grove g.val).parked = false) ∧ (s.deckWaits g.val (decodeDeck c.words) = false) ∧ (r = deckRun (decodeDeck c.words) (s.tile (groveTile g.val (decodeDeck c.words).stile)).store) ∧ ((decodeDeck c.words).ac ≤ c.spent) ∧ (s.pastTag (cmdDeadline c.words) = false) :=
  ⟨stDeck [] (some { dkCmd with spent := 100000 }), 0, false, { dkCmd with spent := 100000 }, deckRun (decodeDeck dkCmd.words) [], by decide⟩
theorem witness_deck_runs_on : ∃ (s : State) (g : GroveId) (second : Bool) (c : DeckCmd), ((if second then (s.grove g.val).deck1 else (s.grove g.val).deck0) = some c) ∧ (c.spent < (decodeDeck c.words).ac) :=
  ⟨stDeck [] (some dkCmd), 0, false, dkCmd, by decide⟩

/-! LaneContextsAreScheduled: states and operands that meet the hypotheses. -/

theorem witness_switch_ctx : ∃ (s : State) (l : LaneId) (b : Nat), ((s.lane l.val).running = true) ∧ (((s.lane l.val).ctx (s.lane l.val).runCtx).rep = none) ∧ (s.laneBest l.val (fun c => ((s.lane l.val).ctx c).state = .ready || ((s.lane l.val).running && c = (s.lane l.val).runCtx)) = some b) ∧ (b ≠ (s.lane l.val).runCtx) :=
  ⟨stCtxs [(0, { LaneCtx.zero with state := .run, cdl := 900 }), (3, { LaneCtx.zero with state := .ready, cdl := 100 })], 64, 3, by decide⟩
theorem witness_switch_idle : ∃ (s : State) (l : LaneId) (b : Nat), ((s.lane l.val).running = false) ∧ (s.laneBest l.val (fun c => ((s.lane l.val).ctx c).state = .ready || ((s.lane l.val).running && c = (s.lane l.val).runCtx)) = some b) :=
  ⟨{ State.reset with lanes := [(64, { Lane.reset with ctxs := [(3, { LaneCtx.zero with state := .ready, cdl := 100 })] })] }, 64, 3, by decide⟩
theorem witness_standby : ∃ (s : State) (l : LaneId) (c : LaneCtxId), s.laneBest l.val (fun k => ((s.lane l.val).ctx k).state = .ready) = some c.val :=
  ⟨stCtxs [(0, { LaneCtx.zero with state := .run, cdl := 900 }), (3, { LaneCtx.zero with state := .ready, cdl := 100 })], 64, 3, by decide⟩
theorem witness_slice : ∃ (s : State) (l : LaneId) (c : LaneCtxId), ((s.lctx l.val c.val).left = 0) ∧ ((s.lctx l.val c.val).state ≠ .off) ∧ (fld (s.inForce (pgLane l.val) (0x0C0 + 4 * c.val)) 21 0 ≠ 0) :=
  ⟨{ stCtxs [(3, { LaneCtx.zero with state := .ready })] with regs := { RegFile.reset with com := [(regKey (pgLane 64) 0xCC, 5)] } }, 64, 3, by decide⟩
theorem witness_lane_miss : ∃ (s : State) (l : LaneId) (c : LaneCtxId), ((s.lctx l.val c.val).cdlSet = true) ∧ ((s.lctx l.val c.val).state = .ready ∨ (s.lctx l.val c.val).state = .run ∨ (s.lctx l.val c.val).state = .sleep) ∧ (tagLater (tagOf s.now) (s.lctx l.val c.val).cdl = true) ∧ (s.scaler (pgSds (l.val / 32)) 0 < 0xFFFFFFFF ∧ s.scaler (pgSds 4) (cellIdx (s.ctxCell l.val c.val) 6) < 0xFFFFFFFF) :=
  ⟨{ stCtxs [(3, { LaneCtx.zero with state := .ready, cdl := 100, cdlSet := true })] with time := { TimeSt.reset with ns := 6400 } }, 64, 3, by decide⟩
theorem witness_miss_once : ∃ (s : State) (l : LaneId) (c : LaneCtxId), (s.lctx l.val c.val).cdlSet = false :=
  ⟨State.reset, 64, 3, by decide⟩
theorem witness_enable_ok : ∃ (s : State) (l : LaneId) (c : LaneCtxId) (v : Word), (s.pwr.phase = .running) ∧ (s.recMode = 0) ∧ (bitOf v 0 = true) ∧ (bitOf (s.reg (pgLane l.val) (0x100 + 0x20 * c.val)) 0 = false) ∧ (s.canEnable l.val c.val = true) :=
  ⟨stSealed, 64, 0, 0x11, by decide⟩
theorem witness_enable_refused : ∃ (s : State) (l : LaneId) (c : LaneCtxId) (v : Word), (s.pwr.phase = .running) ∧ (s.recMode = 0) ∧ (bitOf v 0 = true) ∧ (bitOf (s.reg (pgLane l.val) (0x100 + 0x20 * c.val)) 0 = false) ∧ (s.canEnable l.val c.val = false) :=
  ⟨State.reset, 64, 0, 0x11, by decide⟩
theorem witness_disable : ∃ (s : State) (l : LaneId) (c : LaneCtxId) (v : Word), (s.pwr.phase = .running) ∧ (s.recMode = 0) ∧ (bitOf v 0 = false) ∧ (bitOf (s.reg (pgLane l.val) (0x100 + 0x20 * c.val)) 0 = true) ∧ ((s.lctx l.val c.val).state ≠ .off ∧ (s.lctx l.val c.val).state ≠ .stopping) ∧ ((s.lctx l.val c.val).rep = none) :=
  ⟨(stLane 0), 64, 0, 0x10, by decide⟩
theorem witness_stopped : ∃ (s : State) (l : LaneId) (c : LaneCtxId), ((s.lctx l.val c.val).state = .stopping) ∧ ((s.lctx l.val c.val).outst = 0) :=
  ⟨stCtxs [(3, { LaneCtx.zero with state := .stopping, port := [[1]] })], 64, 3, by decide⟩

/-! LaneMemoriesFromOutside: states and operands that meet the hypotheses. -/

theorem witness_ext_write : ∃ (s : State) (l : LaneId) (a : Nat) (bytes : List Byte), a + bytes.length ≤ 65536 :=
  ⟨State.reset, 64, 0x100, [1, 2], by decide⟩
theorem witness_ext_write_x : ∃ (s : State) (l : LaneId) (a : Nat) (bytes : List Byte), (a + bytes.length ≤ 65536) ∧ (∀ p ∈ s.insts, p.2.watch = true → p.2.ovfTarget ≠ 0x1000 + l.val) ∧ (s.fbk.watch = false) :=
  ⟨State.reset, 64, 0xFE04, [1, 2], by decide⟩
theorem witness_ext_read : ∃ (s : State) (l : LaneId) (m : LaneMem) (a n : Nat), (s.bist.inj.find 2).isNone = true :=
  ⟨State.reset, 64, .c, 0, 8, by decide⟩
theorem witness_prog_write : ∃ (s : State) (l : LaneId) (off : Nat) (bs : List Byte), (s.pwr.phase = .running) ∧ (s.recMode = 0) ∧ (off + bs.length ≤ 32768) ∧ ((List.range (bs.length / 8 + 2)).all (fun j => !s.inSegment l.val (off / 8 + j)) = true) :=
  ⟨stSealed, 64, 8, [1, 2, 3], by decide⟩
theorem witness_prog_write_enabled : ∃ (s : State) (l : LaneId) (off : Nat) (b : Byte), (s.pwr.phase = .running) ∧ (s.recMode = 0) ∧ (off < 32768) ∧ (s.inSegment l.val (off / 8) = true) ∧ (s.scaler (pgLane l.val) 7 < 0xFFFFFFFF) :=
  ⟨(stLane 0), 64, 8, 1, by decide⟩
theorem witness_mbclr : ∃ (s : State) (l : LaneId), (s.pwr.phase = .running) ∧ (s.recMode = 0) ∧ ((laneHead (s.lane l.val)) = (s.lane l.val).mbTail) ∧ (∀ p ∈ s.insts, p.2.watch = true → p.2.ovfTarget ≠ 0x1000 + l.val) ∧ (s.fbk.watch = false) :=
  ⟨State.reset, 64, by decide⟩

/-! CellAdmission: states and operands that meet the hypotheses. -/

theorem witness_admit : ∃ (s : State) (v : Word), (s.pwr.phase = .running) ∧ (s.recMode = 0) ∧ (fld v 1 0 = 1) ∧ (s.coord.busy = false) :=
  ⟨State.reset, 0x00800031, by decide⟩
theorem witness_admit_busy : ∃ (s : State) (v : Word), (s.pwr.phase = .running) ∧ (s.recMode = 0) ∧ (fld v 1 0 = 1) ∧ (s.coord.busy = true) ∧ (s.scaler (pgSds 4) 0 < 0xFFFFFFFF) :=
  ⟨{ State.reset with coord := { Coord.reset with busy := true } }, 0x00800031, by decide⟩
theorem witness_admit_ok : ∃ (s : State) (k : Coord) (at0 sfn : Nat), (k = s.coord) ∧ (k.busy = true) ∧ (s.seed.job = none) ∧ (s.pwr.parkHeld = none ∧ s.seed.jobHeld = false) ∧ (failsCode (s.admitFails k.desc k.cmdCell) = .ok) ∧ ((at0, sfn) = s.frameAfter (s.now + 20000000) k.cmdSfn k.asap) :=
  ⟨stAdmit, stAdmit.coord, 20000000, 2, by decide⟩
theorem witness_admit_fails : ∃ (s : State) (k : Coord), (k = s.coord) ∧ (k.busy = true) ∧ (s.seed.job = none) ∧ (s.pwr.parkHeld = none ∧ s.seed.jobHeld = false) ∧ (failsCode (s.admitFails k.desc k.cmdCell) ≠ .ok) :=
  ⟨{ State.reset with coord := { Coord.reset with busy := true } }, { Coord.reset with busy := true }, by decide⟩

/-! CellRemoval: states and operands that meet the hypotheses. -/

theorem witness_remove_accepted : ∃ (s : State) (v : Word), (s.pwr.phase = .running) ∧ (s.recMode = 0) ∧ (fld v 1 0 = 2) ∧ (s.coord.busy = false) ∧ ((s.cell (fld v 12 4)).phase = .accepted) :=
  ⟨stCell .accepted, 0x00800032, by decide⟩
theorem witness_remove_active : ∃ (s : State) (v : Word) (at0 sfn : Nat), (s.pwr.phase = .running) ∧ (s.recMode = 0) ∧ (fld v 1 0 = 2) ∧ (s.coord.busy = false) ∧ ((s.cell (fld v 12 4)).phase = .active) ∧ ((s.cell (fld v 12 4)).ended = false) ∧ ((s.cell (fld v 12 4)).slots.all (fun m => decide (m.start < at0)) = true) ∧ ((at0, sfn) = s.frameAfter (s.now + 1000000) (fld v 22 13) (bitOf v 23)) :=
  ⟨stCell .active, 0x00800032, 10000000, 1, by decide⟩
theorem witness_remove_refused : ∃ (s : State) (v : Word), (s.pwr.phase = .running) ∧ (s.recMode = 0) ∧ (fld v 1 0 = 2) ∧ (s.coord.busy = false) ∧ ((s.cell (fld v 12 4)).phase = .free ∨ (s.cell (fld v 12 4)).phase = .draining) :=
  ⟨State.reset, 0x00800032, by decide⟩
theorem witness_remove_force : ∃ (s : State) (v : Word) (at0 : Nat), (s.pwr.phase = .running) ∧ (s.recMode = 0) ∧ (fld v 1 0 = 3) ∧ (s.coord.busy = false) ∧ ((s.cell (fld v 12 4)).phase = .active) ∧ ((s.cell (fld v 12 4)).ended = false) ∧ (at0 = (s.slotAt (dMu (s.cell (fld v 12 4)).desc) s.now).start + dTslot (s.cell (fld v 12 4)).desc) ∧ ((s.cell (fld v 12 4)).slots.all (fun m => decide (m.start < at0)) = true) :=
  ⟨stCell .active, 0x00800033, 2000000, by decide⟩
theorem witness_activate_cell : ∃ (s : State) (c : CellId), ((s.cell c.val).phase = .accepted) ∧ ((s.cell c.val).startAt ≤ s.now) :=
  ⟨stCell .accepted, 3, by decide⟩
theorem witness_activate_early : ∃ (s : State) (c : CellId), (s.cell c.val).phase ≠ .accepted ∨ s.now < (s.cell c.val).startAt :=
  ⟨State.reset, 3, by decide⟩
theorem witness_end_boundary : ∃ (s : State) (c : CellId), ((s.cell c.val).phase = .draining) ∧ ((s.cell c.val).ended = false) ∧ ((s.cell c.val).endAt ≤ s.now) ∧ ((s.cell c.val).forced = false) :=
  ⟨stCell .draining, 3, by decide⟩
theorem witness_end_forced : ∃ (s : State) (c : CellId), ((s.cell c.val).phase = .draining) ∧ ((s.cell c.val).ended = false) ∧ ((s.cell c.val).endAt ≤ s.now) ∧ ((s.cell c.val).forced = true) :=
  ⟨stCellWith (fun c => { c with phase := .draining, forced := true }), 3, by decide⟩
theorem witness_cell_free : ∃ (s : State) (c : CellId), ((s.cell c.val).phase = .draining ∧ (s.cell c.val).ended = true) ∧ ((s.cell c.val).indDone = true ∧ (s.cell c.val).sbFree = true) ∧ (s.lanesQuiet c.val = true) :=
  ⟨stCellWith (fun c => { c with phase := .draining, ended := true, sbFree := true }), 3, by decide⟩

/-! SlotMessagesAreTakenOrRefused: states and operands that meet the hypotheses. -/

theorem witness_ul_config : ∃ (s : State) (ws : List Word) (ps : List Pdu), (s.pwr.phase = .running) ∧ (s.recMode = 0) ∧ ((slotHead ws).type = 1) ∧ (headOk ws = true) ∧ (s.msgOk (slotHead ws) (s.slotStart (dMu (s.cell (slotHead ws).cell).desc) (slotHead ws).sfn (slotHead ws).slot) = true) ∧ (splitPdus (slotHead ws).seq (slotHead ws).npdu (ws.drop 4) = some ps) ∧ ((s.mirror (slotHead ws).cell).state ≠ .armed) :=
  ⟨stCell .active, slotHd 1, [], by decide⟩
theorem witness_dl_config : ∃ (s : State) (ws : List Word) (ps : List Pdu), (s.pwr.phase = .running) ∧ (s.recMode = 0) ∧ ((slotHead ws).type = 2) ∧ (headOk ws = true) ∧ (s.msgOk (slotHead ws) (s.slotStart (dMu (s.cell (slotHead ws).cell).desc) (slotHead ws).sfn (slotHead ws).slot) = true) ∧ (splitPdus (slotHead ws).seq (slotHead ws).npdu (ws.drop 4) = some ps) ∧ ((s.mirror (slotHead ws).cell).state ≠ .armed) :=
  ⟨stCell .active, slotHd 2, [], by decide⟩
theorem witness_tx_data : ∃ (s : State) (ws : List Word) (ps : List Pdu), (s.pwr.phase = .running) ∧ (s.recMode = 0) ∧ ((slotHead ws).type = 3) ∧ (headOk ws = true) ∧ (s.msgOk (slotHead ws) (s.slotStart (dMu (s.cell (slotHead ws).cell).desc) (slotHead ws).sfn (slotHead ws).slot) = true) ∧ (splitPdus (slotHead ws).seq (slotHead ws).npdu (ws.drop 4) = some ps) ∧ ((s.mirror (slotHead ws).cell).state ≠ .armed) :=
  ⟨stCell .active, slotHd 3, [], by decide⟩
theorem witness_ul_config_discarded : ∃ (s : State) (ws : List Word), (s.pwr.phase = .running) ∧ (s.recMode = 0) ∧ ((slotHead ws).type = 1) ∧ (headOk ws = false ∨ s.msgOk (slotHead ws) (s.slotStart (dMu (s.cell (slotHead ws).cell).desc) (slotHead ws).sfn (slotHead ws).slot) = false ∨ splitPdus (slotHead ws).seq (slotHead ws).npdu (ws.drop 4) = none) :=
  ⟨State.reset, slotHd 1, by decide⟩
theorem witness_dl_config_discarded : ∃ (s : State) (ws : List Word), (s.pwr.phase = .running) ∧ (s.recMode = 0) ∧ ((slotHead ws).type = 2) ∧ (headOk ws = false ∨ s.msgOk (slotHead ws) (s.slotStart (dMu (s.cell (slotHead ws).cell).desc) (slotHead ws).sfn (slotHead ws).slot) = false ∨ splitPdus (slotHead ws).seq (slotHead ws).npdu (ws.drop 4) = none) :=
  ⟨State.reset, slotHd 2, by decide⟩
theorem witness_tx_data_discarded : ∃ (s : State) (ws : List Word), (s.pwr.phase = .running) ∧ (s.recMode = 0) ∧ ((slotHead ws).type = 3) ∧ (headOk ws = false ∨ s.msgOk (slotHead ws) (s.slotStart (dMu (s.cell (slotHead ws).cell).desc) (slotHead ws).sfn (slotHead ws).slot) = false ∨ splitPdus (slotHead ws).seq (slotHead ws).npdu (ws.drop 4) = none) :=
  ⟨State.reset, slotHd 3, by decide⟩
theorem witness_deadline_plain : ∃ (s : State) (c : CellId) (m : SlotMsgs), ((s.cell c.val).slots.filter (fun m => !m.late && m.start ≤ s.now + dTslot (s.cell c.val).desc) = [m]) ∧ (m.tbs = [] ∧ m.dl = []) :=
  ⟨{ stCellWith (fun c => { c with phase := .active, slots := [slot5] }) with time := { State.reset.time with ns := 4000000 } }, 3, slot5, by decide⟩
theorem witness_deadline_no_tb : ∃ (s : State) (c : CellId) (m : SlotMsgs) (p : Pdu), ((s.cell c.val).slots.filter (fun m => !m.late && m.start ≤ s.now + dTslot (s.cell c.val).desc) = [m]) ∧ (m.tbs = [] ∧ m.dl = [p]) ∧ (p.kind = 0x11 ∧ p.f 8 1 1 = 0) :=
  ⟨{ stCellWith (fun c => { c with phase := .active, slots := [{ slot5 with dlSeq := some 9, dl := [{ kind := 0x11, seq := 9, words := [] }] }] }) with time := { State.reset.time with ns := 4000000 } }, 3, { slot5 with dlSeq := some 9, dl := [{ kind := 0x11, seq := 9, words := [] }] }, { kind := 0x11, seq := 9, words := [] }, by decide⟩
theorem witness_deadline_none : ∃ (s : State) (c : CellId), (s.cell c.val).slots.all (fun m => m.late || decide (s.now + dTslot (s.cell c.val).desc < m.start)) = true :=
  ⟨State.reset, 3, by decide⟩

/-! CellSlotStarts: states and operands that meet the hypotheses. -/

theorem witness_slot_start : ∃ (s : State) (c : CellId), (((s.cell c.val).phase = .active ∧ (s.cell c.val).startAt ≤ (s.slotAt (dMu (s.cell c.val).desc) s.now).start) ∨ ((s.cell c.val).phase = .draining ∧ (s.cell c.val).startAt ≤ (s.slotAt (dMu (s.cell c.val).desc) s.now).start ∧ (s.slotAt (dMu (s.cell c.val).desc) s.now).start < (s.cell c.val).endAt)) ∧ ((s.cell c.val).lastStart ≠ some (s.slotAt (dMu (s.cell c.val).desc) s.now).start) ∧ (s.recMode = 0) :=
  ⟨stCell .active, 3, by decide⟩
theorem witness_slot_start_once : ∃ (s : State) (c : CellId), (s.cell c.val).lastStart = some (s.slotAt (dMu (s.cell c.val).desc) s.now).start :=
  ⟨stCellWith (fun c => { c with phase := .active, lastStart := some 1000000 }), 3, by decide⟩
theorem witness_ctx_fresh : ∃ (x : LaneCtx) (e b d : Nat) (seed step : DWord), x.fresh = true :=
  ⟨{ LaneCtx.zero with fresh := true }, 1, 2, 3, 4, 5, by decide⟩
theorem witness_ctx_faulted : ∃ (x : LaneCtx) (e b d : Nat) (seed step : DWord), (x.fresh = false ∧ x.halted = false) ∧ (x.state = .faulted) ∧ (x.outst ≠ 0 ∨ 4 ≤ x.faultSlots) :=
  ⟨{ LaneCtx.zero with state := .faulted, outst := 1 }, 1, 2, 3, 4, 5, by decide⟩
theorem witness_ctx_halted : ∃ (x : LaneCtx) (e b d : Nat) (seed step : DWord), x.fresh = false ∧ x.halted = true ∧ x.state ≠ .faulted :=
  ⟨{ LaneCtx.zero with halted := true, state := .sleep }, 1, 2, 3, 4, 5, by decide⟩
theorem witness_ctx_running : ∃ (x : LaneCtx) (e b d : Nat) (seed step : DWord), x.fresh = false ∧ x.halted = false ∧ x.state ≠ .faulted :=
  ⟨{ LaneCtx.zero with state := .run }, 1, 2, 3, 4, 5, by decide⟩

/-! IndicationsLeave: states and operands that meet the hypotheses. -/

theorem witness_egress : ∃ (s : State) (c : CellId) (sfn slot : Nat) (tbs crcs : List (List Word)) (others : List (Nat × List (List Word))) (m : SlotMsgs) (tb : List (List Word)) (dl : Nat), ((s.cell c.val).phase ≠ .free) ∧ (m = ((s.cell c.val).slotOf sfn slot (s.slotStart (dMu (s.cell c.val).desc) sfn slot)).getD (SlotMsgs.empty sfn slot (s.slotStart (dMu (s.cell c.val).desc) sfn slot))) ∧ (m.indSent = false ∧ (m.ulSeq.isSome = true ∨ (s.cell c.val).occEnds (s.slotStart (dMu (s.cell c.val).desc) sfn slot) ≠ [])) ∧ (tb = (if m.ulSeq.isSome then tbs else [])) ∧ (dl = (s.slotStart (dMu (s.cell c.val).desc) sfn slot) + 2 * dTslot (s.cell c.val).desc + 1000 * dUlWin (s.cell c.val).desc) :=
  ⟨stSlot 6000000, 3, 0, 5, [], [], [], slot5b, [], 7100000, by decide⟩
theorem witness_crc_tbok : ∃ (m : SlotMsgs) (tbs crcs : List (List Word)) (p : Pdu) (t : List Word) (ok : Bool) (n : Nat), (m.decoded.find? (fun r => r.1 = p.handle) = some (p.handle, ok, n)) ∧ (tbs.find? (fun t => wAt t 1 = p.handle) = some t) :=
  ⟨{ slot5b with decoded := [(0, true, 0)] }, [[]], [], { kind := 1, seq := 9, words := [] }, [], true, 0, by decide⟩
theorem witness_egress_once : ∃ (s : State) (c : CellId) (sfn slot : Nat) (tbs crcs : List (List Word)) (others : List (Nat × List (List Word))) (m : SlotMsgs), ((s.cell c.val).slotOf sfn slot (s.slotStart (dMu (s.cell c.val).desc) sfn slot) = some m) ∧ (m.indSent = true) :=
  ⟨stCellWith (fun c => { c with phase := .active, slots := [{ slot5 with indSent := true }] }), 3, 0, 5, [], [], [], { slot5 with indSent := true }, by decide⟩
theorem witness_send_waits : ∃ (s : State) (c : Nat) (d : List Word) (type sfn slot : Nat) (st : Code) (ps : List (List Word)) (dl : Nat), (dL2Path d = false) ∧ ((s.l2q (c % 8)).waiting ≠ [] ∨ s.l2qRoom (c % 8) (4 * (slotMsg type c sfn slot (s.cell c).txSeq st ps).length) = false) :=
  ⟨State.reset, 3, cellDesc, 0x12, 0, 5, .ok, [], 0, by decide⟩
theorem witness_send_written : ∃ (s : State) (c : Nat) (d : List Word) (type sfn slot : Nat) (st : Code) (ps : List (List Word)) (dl : Nat), (dL2Path d = false) ∧ ((s.l2q (c % 8)).waiting = []) ∧ (s.l2qRoom (c % 8) (4 * (slotMsg type c sfn slot (s.cell c).txSeq st ps).length) = true) :=
  ⟨((State.reset.setReg pgCxl 0x1E8 0x10F)).setReg pgCxl 0x1DC 20, 3, cellDesc, 0x12, 0, 5, .ok, [], 0, by decide⟩

/-! UplinkFronthaulLands: states and operands that meet the hypotheses. -/

theorem witness_section : ∃ (s : State) (p : EthPort) (x : USection) (c st sm : Nat) (z : Cell), (s.pwr.phase = .running) ∧ (s.recMode = 0) ∧ (s.ulCell p.val x.eaxc = some (c, st)) ∧ (z = s.cell c) ∧ ((s.windowCheck z.desc x.sfn x.slot x.sym x.stamp.toNat x.frac).toOption = some sm) ∧ (dTimeDomain z.desc = false ∧ x.prach = false) ∧ (x.startPrb + x.prbs.length ≤ dNprb z.desc) ∧ ((z.symOf (slotNum (dMu z.desc) x.sfn x.slot) x.sym st).closed = false) ∧ ((z.symOf (slotNum (dMu z.desc) x.sfn x.slot) x.sym st).overlaps x.startPrb x.prbs.length = false) :=
  ⟨stSlot 5000000, 1, sec0, 3, 0, 5000000, (stSlot 0).cell 3, by decide⟩
theorem witness_section_prach : ∃ (s : State) (p : EthPort) (x : USection) (c st sm : Nat) (z : Cell), (s.pwr.phase = .running) ∧ (s.recMode = 0) ∧ (s.ulCell p.val x.eaxc = some (c, st)) ∧ (z = s.cell c) ∧ ((s.windowCheck z.desc x.sfn x.slot x.sym x.stamp.toNat x.frac).toOption = some sm) ∧ (dTimeDomain z.desc = false ∧ x.prach = true) ∧ ((z.symOf (slotNum (dMu z.desc) x.sfn x.slot) (14 + x.sym) st).closed = false) ∧ ((z.symOf (slotNum (dMu z.desc) x.sfn x.slot) (14 + x.sym) st).overlaps x.startPrb x.prbs.length = false) :=
  ⟨stSlot 5000000, 1, { sec0 with prach := true }, 3, 0, 5000000, (stSlot 0).cell 3, by decide⟩
theorem witness_section_unknown : ∃ (s : State) (p : EthPort) (x : USection), (s.pwr.phase = .running) ∧ (s.recMode = 0) ∧ (s.ulCell p.val x.eaxc = none) ∧ (s.mirrored p.val x.eaxc = false) :=
  ⟨State.reset, 1, sec0, by decide⟩
theorem witness_section_out : ∃ (s : State) (p : EthPort) (x : USection) (c st i : Nat), (s.pwr.phase = .running) ∧ (s.recMode = 0) ∧ (s.ulCell p.val x.eaxc = some (c, st)) ∧ ((match s.windowCheck (s.cell c).desc x.sfn x.slot x.sym x.stamp.toNat x.frac with | .error k => some k | .ok _ => none) = some i) :=
  ⟨stSlot 5000000, 1, { sec0 with stamp := 7 }, 3, 0, 1, by decide⟩
theorem witness_section_overlap : ∃ (s : State) (p : EthPort) (x : USection) (c st sm : Nat) (z : Cell), (s.pwr.phase = .running) ∧ (s.recMode = 0) ∧ (s.ulCell p.val x.eaxc = some (c, st)) ∧ (z = s.cell c) ∧ ((s.windowCheck z.desc x.sfn x.slot x.sym x.stamp.toNat x.frac).toOption = some sm) ∧ (dTimeDomain z.desc = false ∧ x.prach = false) ∧ (x.startPrb + x.prbs.length ≤ dNprb z.desc) ∧ ((z.symOf (slotNum (dMu z.desc) x.sfn x.slot) x.sym st).closed = false) ∧ ((z.symOf (slotNum (dMu z.desc) x.sfn x.slot) x.sym st).overlaps x.startPrb x.prbs.length = true) :=
  ⟨stCellWith (fun c => { c with phase := .active, slots := [slot5b], syms := [{ slot := 5, sym := 0, stream := 0, got := [(0, 1)], closed := false }] }), 1, sec0, 3, 0, 5000000, (stCellWith (fun c => { c with phase := .active, slots := [slot5b], syms := [{ slot := 5, sym := 0, stream := 0, got := [(0, 1)], closed := false }] })).cell 3, by decide⟩
theorem witness_land_section : ∃ (s : State) (port c st sm : Nat) (x : USection) (d : List Word) (u : UlSymbol), (d = (s.cell c).desc) ∧ (u = (s.cell c).symOf (slotNum (dMu d) x.sfn x.slot) x.sym st) :=
  ⟨stSlot 5000000, 1, 3, 0, 5000000, sec0, cellDesc, { slot := 5, sym := 0, stream := 0, got := [], closed := false }, by decide⟩
theorem witness_iq : ∃ (s : State) (p : EthPort) (x : IqMessage) (c st sm : Nat) (z : Cell) (f : Nat), (s.pwr.phase = .running) ∧ (s.recMode = 0) ∧ (s.ulCell p.val x.eaxc = some (c, st)) ∧ (z = s.cell c) ∧ ((s.windowCheck z.desc x.sfn x.slot x.sym x.stamp.toNat x.frac).toOption = some sm) ∧ (dTimeDomain z.desc = true) ∧ (f = cpLen (dMu z.desc) (nfft (dNprb z.desc)) x.slot x.sym - nfft (dNprb z.desc) / 32) ∧ ((z.symOf (slotNum (dMu z.desc) x.sfn x.slot) x.sym st).closed = false) ∧ ((z.symOf (slotNum (dMu z.desc) x.sfn x.slot) x.sym st).overlaps ((overlap x.off x.samples.length f (nfft (dNprb z.desc))).1 - f) (overlap x.off x.samples.length f (nfft (dNprb z.desc))).2 = false) :=
  ⟨stTd 5000000, 1, iq0, 3, 0, 5000000, (stTd 0).cell 3, 12, by decide⟩
theorem witness_iq_unknown : ∃ (s : State) (p : EthPort) (x : IqMessage), (s.pwr.phase = .running) ∧ (s.recMode = 0) ∧ (s.ulCell p.val x.eaxc = none) ∧ (s.mirrored p.val x.eaxc = false) :=
  ⟨State.reset, 1, iq0, by decide⟩

/-! UplinkSymbolAndSlotEnd: states and operands that meet the hypotheses. -/

theorem witness_symbol_close : ∃ (s : State) (c : CellId) (sfn slot : Nat) (k : Nat) (m : SlotMsgs) (r : Nat × State), ((s.cell c.val).phase ≠ .free ∧ dTimeDomain (s.cell c.val).desc = false) ∧ ((s.cell c.val).slotOf sfn slot (s.slotStart (dMu (s.cell c.val).desc) sfn slot) = some m ∧ m.ulSeq.isSome = true) ∧ (k < 14 ∧ uClose (s.cell c.val).desc (s.slotStart (dMu (s.cell c.val).desc) sfn slot) k ≤ 14 * s.now) ∧ (((s.cell c.val).symOf (slotNum (dMu (s.cell c.val).desc) sfn slot) k 0).closed = false) ∧ (r.1 = (foldN (dStrUl (s.cell c.val).desc) (fun st (acc : Nat × State) => (acc.1 + (acc.2.closePrbs c.val st sfn slot k).1, (acc.2.closePrbs c.val st sfn slot k).2)) (0, s)).1) :=
  ⟨stSlot 5300000, 3, 0, 5, 0, slot5b, (1, State.reset), by decide⟩
theorem witness_symbol_close_td : ∃ (s : State) (c : CellId) (sfn slot : Nat) (k : Nat) (m : SlotMsgs), ((s.cell c.val).phase ≠ .free ∧ dTimeDomain (s.cell c.val).desc = true) ∧ ((s.cell c.val).slotOf sfn slot (s.slotStart (dMu (s.cell c.val).desc) sfn slot) = some m ∧ m.ulSeq.isSome = true) ∧ (k < 14 ∧ uClose (s.cell c.val).desc (s.slotStart (dMu (s.cell c.val).desc) sfn slot) k ≤ 14 * s.now) ∧ (((s.cell c.val).symOf (slotNum (dMu (s.cell c.val).desc) sfn slot) k 0).closed = false) :=
  ⟨stTd 5300000, 3, 0, 5, 0, slot5b, by decide⟩
theorem witness_symbol_close_early : ∃ (s : State) (c : CellId) (sfn slot : Nat) (k : Nat), 14 * s.now < uClose (s.cell c.val).desc (s.slotStart (dMu (s.cell c.val).desc) sfn slot) k :=
  ⟨stSlot 5000000, 3, 0, 5, 0, by decide⟩
theorem witness_close_prbs : ∃ (s : State) (c st sfn slot k : Nat) (d : List Word) (u : UlSymbol), (d = (s.cell c).desc) ∧ (u = (s.cell c).symOf (slotNum (dMu d) sfn slot) k st) :=
  ⟨stSlot 5000000, 3, 0, 0, 5, 0, cellDesc, { slot := 5, sym := 0, stream := 0, got := [], closed := false }, by decide⟩
theorem witness_gain_end : ∃ (s : State) (c : CellId) (sfn slot : Nat), ((s.cell c.val).phase ≠ .free ∧ dTimeDomain (s.cell c.val).desc = true) ∧ ((s.slotStart (dMu (s.cell c.val).desc) sfn slot) + dTslot (s.cell c.val).desc ≤ s.now) ∧ ((s.mirror c.val).state ≠ .armed) :=
  ⟨stTd 6300000, 3, 0, 5, by decide⟩
theorem witness_gain_end_oran : ∃ (s : State) (c : CellId) (sfn slot : Nat), (dTimeDomain (s.cell c.val).desc = false) ∧ ((s.mirror c.val).state ≠ .armed) :=
  ⟨stSlot 6300000, 3, 0, 5, by decide⟩
theorem witness_gain_bounds : ∃ (g : Gain) (start next : Nat) (frz : Option Nat) (w : Word), -96 ≤ g.g ∧ g.g ≤ 96 :=
  ⟨Gain.zero, 0, 500, none, 0x212, by decide⟩
theorem witness_gain_frozen : ∃ (g : Gain) (start next e : Nat) (w : Word), start ≤ e :=
  ⟨Gain.zero, 0, 500, 5, 0x212, by decide⟩
theorem witness_gain_silence : ∃ (target maxStep count : Nat), 0 < count :=
  ⟨40, 2, 100, by decide⟩
theorem witness_ul_cplane : ∃ (s : State) (c : CellId) (sfn slot : Nat) (m : SlotMsgs), ((s.cell c.val).slotOf sfn slot (s.slotStart (dMu (s.cell c.val).desc) sfn slot) = some m) ∧ (m.ulSeq.isSome = true ∧ m.ulCplane = false) ∧ ((s.cell c.val).maySend (s.slotStart (dMu (s.cell c.val).desc) sfn slot) = true) :=
  ⟨stSlot 4000000, 3, 0, 5, slot5b, by decide⟩
theorem witness_ul_cplane_once : ∃ (s : State) (c : CellId) (sfn slot : Nat) (m : SlotMsgs), ((s.cell c.val).slotOf sfn slot (s.slotStart (dMu (s.cell c.val).desc) sfn slot) = some m) ∧ (m.ulCplane = true) :=
  ⟨stCellWith (fun c => { c with phase := .active, slots := [{ slot5 with ulCplane := true }] }), 3, 0, 5, { slot5 with ulCplane := true }, by decide⟩

/-! DownlinkFronthaulLeaves: states and operands that meet the hypotheses. -/

theorem witness_dl_cplane : ∃ (s : State) (c : CellId) (sfn slot : Nat) (ws : List (List (Nat × Nat × List (Int × Int)))) (m : SlotMsgs), ((s.cell c.val).slotOf sfn slot (s.slotStart (dMu (s.cell c.val).desc) sfn slot) = some m) ∧ (m.dlSeq.isSome = true ∧ m.dlCplane = false) ∧ ((s.cell c.val).maySend (s.slotStart (dMu (s.cell c.val).desc) sfn slot) = true) :=
  ⟨stSlot 4000000, 3, 0, 5, [], slot5b, by decide⟩
theorem witness_dl_send : ∃ (s : State) (c : CellId) (sfn slot : Nat) (k : Nat), (k < 14) ∧ ((s.cell c.val).dlShut.contains (slotNum (dMu (s.cell c.val).desc) sfn slot, k) = false) ∧ (14 * (s.now : Int) < eClose (s.cell c.val).desc (s.slotStart (dMu (s.cell c.val).desc) sfn slot) k) ∧ ((s.cell c.val).dlOpen sfn slot (s.slotStart (dMu (s.cell c.val).desc) sfn slot) = true) ∧ (((eClose (s.cell c.val).desc (s.slotStart (dMu (s.cell c.val).desc) sfn slot) k - dTslot (s.cell c.val).desc) / 14).toNat ≤ s.now) :=
  ⟨{ stSlot 4850000 with mem := Memory.write (devKey 4096 (dlPresAt (stSlot 4850000) cellDesc (ringPos cellDesc 0 5) 0 0)) 1 [] }, 3, 0, 5, 0, by decide⟩
theorem witness_dl_send_closed : ∃ (s : State) (c : CellId) (sfn slot : Nat) (k : Nat), (s.cell c.val).dlShut.contains (slotNum (dMu (s.cell c.val).desc) sfn slot, k) = true ∨ eClose (s.cell c.val).desc (s.slotStart (dMu (s.cell c.val).desc) sfn slot) k ≤ 14 * (s.now : Int) :=
  ⟨stSlot 5000000, 3, 0, 5, 0, by decide⟩
theorem witness_dl_send_early : ∃ (s : State) (c : CellId) (sfn slot : Nat) (k : Nat), s.now < ((eClose (s.cell c.val).desc (s.slotStart (dMu (s.cell c.val).desc) sfn slot) k - dTslot (s.cell c.val).desc) / 14).toNat :=
  ⟨stSlot 1000000, 3, 0, 5, 0, by decide⟩
theorem witness_dl_close : ∃ (s : State) (c : CellId) (sfn slot : Nat) (k : Nat), (k < 14) ∧ ((s.cell c.val).dlShut.contains (slotNum (dMu (s.cell c.val).desc) sfn slot, k) = false) ∧ ((s.cell c.val).phase ≠ .free) ∧ ((s.cell c.val).dlOpen sfn slot (s.slotStart (dMu (s.cell c.val).desc) sfn slot) = false) ∧ (eClose (s.cell c.val).desc (s.slotStart (dMu (s.cell c.val).desc) sfn slot) k ≤ 14 * (s.now : Int)) :=
  ⟨stCellWith (fun c => { c with phase := .active }), 3, 0, 0, 0, by decide⟩
theorem witness_dl_close_open : ∃ (s : State) (c : CellId) (sfn slot : Nat) (k : Nat), (k < 14) ∧ ((s.cell c.val).dlShut.contains (slotNum (dMu (s.cell c.val).desc) sfn slot, k) = false) ∧ ((s.cell c.val).phase ≠ .free) ∧ ((s.cell c.val).dlOpen sfn slot (s.slotStart (dMu (s.cell c.val).desc) sfn slot) = true) ∧ (eClose (s.cell c.val).desc (s.slotStart (dMu (s.cell c.val).desc) sfn slot) k ≤ 14 * (s.now : Int)) :=
  ⟨stSlot 5000000, 3, 0, 5, 0, by decide⟩
theorem witness_dl_close_shut : ∃ (s : State) (c : CellId) (sfn slot : Nat) (k : Nat), (s.cell c.val).dlShut.contains (slotNum (dMu (s.cell c.val).desc) sfn slot, k) = true :=
  ⟨stCellWith (fun c => { c with phase := .active, dlShut := [(slotNum (dMu c.desc) 0 0, 0)] }), 3, 0, 0, 0, by decide⟩
theorem witness_send_nothing : ∃ (s : State) (c st sfn slot k sm first : Nat) (pace : Bool), ∀ p ∈ presList (dNprb (s.cell c).desc) (s.peek .dom0 (dlPresAt s (s.cell c).desc (ringPos (s.cell c).desc sfn slot) k st) 64), (s.cell c).dlSent.contains (slotNum (dMu (s.cell c).desc) sfn slot, k, st, p) = true ∨ (s.cell c).dlStale.contains (slotNum (dMu (s.cell c).desc) sfn slot, k, st, p) = true ∨ (((s.cell c).slotOf sfn slot sm).getD (SlotMsgs.empty sfn slot sm)).blank k p = true :=
  ⟨stSlot 5000000, 3, 0, 0, 5, 0, 5000000, 0, false, by decide⟩
theorem witness_send_marks : ∃ (s : State) (c st sfn slot k sm first : Nat) (pace : Bool) (p : Nat), (p ∈ s.dlPresent c st (ringPos (s.cell c).desc sfn slot) k) ∧ ((s.cell c).dlStale.contains (slotNum (dMu (s.cell c).desc) sfn slot, k, st, p) = false) ∧ ((((s.cell c).slotOf sfn slot sm).getD (SlotMsgs.empty sfn slot sm)).blank k p = false) ∧ (s.hasPoison .dom0 (dlPrbAt s (s.cell c).desc (ringPos (s.cell c).desc sfn slot) k st p) (dlB (s.cell c).desc) = false) :=
  ⟨{ stSlot 5000000 with mem := Memory.write (devKey 4096 (dlPresAt (stSlot 5000000) cellDesc (ringPos cellDesc 0 5) 0 0)) 1 [] }, 3, 0, 0, 5, 0, 5000000, 0, false, 0, by decide⟩

/-! CodingCommandsStart: states and operands that meet the hypotheses. -/

set_option maxRecDepth 20000 in
theorem witness_ldec : ∃ (s : State) (g : GroveId) (k : CodeCmd), ((s.grove g.val).ceBusy = none) ∧ (s.codeNext g.val = some k) ∧ (k.started = false ∧ ccOp k.words = 1) ∧ (s.codeCheck g.val k = .ok) ∧ ((s.loadDev .dom0 (ccIn k.words) (ccInLen k.words)).1 = .ok) ∧ ((s.loadDev .dom0 (ccIn k.words) (ccInLen k.words)).2.2.hasPoison .dom0 (dSbuf ((s.loadDev .dom0 (ccIn k.words) (ccInLen k.words)).2.2.cell (ccCell k.words)).desc) 32768 = false) :=
  ⟨stCode [kCmd wLdec] none, 0, kCmd wLdec, by decide⟩
set_option maxRecDepth 20000 in
theorem witness_lenc : ∃ (s : State) (g : GroveId) (k : CodeCmd), ((s.grove g.val).ceBusy = none) ∧ (s.codeNext g.val = some k) ∧ (k.started = false ∧ ccOp k.words = 2) ∧ (s.codeCheck g.val k = .ok) ∧ ((s.loadDev .dom0 (ccIn k.words) (ccInLen k.words)).1 = .ok) ∧ ((s.loadDev .dom0 (ccIn k.words) (ccInLen k.words)).2.2.hasPoison .dom0 (dSbuf ((s.loadDev .dom0 (ccIn k.words) (ccInLen k.words)).2.2.cell (ccCell k.words)).desc) 32768 = false) :=
  ⟨stCode [kCmd wLenc] none, 0, kCmd wLenc, by decide⟩
theorem witness_pdec : ∃ (s : State) (g : GroveId) (k : CodeCmd), ((s.grove g.val).ceBusy = none) ∧ (s.codeNext g.val = some k) ∧ (k.started = false ∧ ccOp k.words = 3) ∧ (s.codeCheck g.val k = .ok) ∧ ((s.loadDev .dom0 (ccIn k.words) (ccInLen k.words)).1 = .ok) :=
  ⟨stCode [kCmd wPdec] none, 0, kCmd wPdec, by decide⟩
theorem witness_penc : ∃ (s : State) (g : GroveId) (k : CodeCmd), ((s.grove g.val).ceBusy = none) ∧ (s.codeNext g.val = some k) ∧ (k.started = false ∧ ccOp k.words = 4) ∧ (s.codeCheck g.val k = .ok) ∧ ((s.loadDev .dom0 (ccIn k.words) (ccInLen k.words)).1 = .ok) :=
  ⟨stCode [kCmd wPenc] none, 0, kCmd wPenc, by decide⟩
set_option maxRecDepth 20000 in
theorem witness_ldec_refused : ∃ (s : State) (g : GroveId) (k : CodeCmd) (c : Code), ((s.grove g.val).ceBusy = none) ∧ (s.codeNext g.val = some k) ∧ (k.started = false ∧ ccOp k.words = 1) ∧ (s.codeCheck g.val k = c ∧ c ≠ .ok) :=
  ⟨stCode [kCmd (setAt wLdec 12 1)] none, 0, kCmd (setAt wLdec 12 1), .configInvalid, by decide⟩
theorem witness_ldec_other : ∃ (s : State) (g : GroveId) (k : CodeCmd), ((s.grove g.val).ceBusy = none) ∧ (s.codeNext g.val = some k) ∧ (2 ≤ ccOp k.words ∧ ccOp k.words ≤ 4) :=
  ⟨stCode [kCmd wPdec] none, 0, kCmd wPdec, by decide⟩
set_option maxRecDepth 20000 in
theorem witness_ldec_claims : ∃ (s : State) (g : Nat) (k : CodeCmd) (soft : List Byte) (i : Nat) (d : List Word) (sg : Seg), (d = (s.cell (ccCell k.words)).desc ∧ sg = segOf k.words) ∧ (ccNdi k.words = true) ∧ (s.claimEntry d ((ccKey k.words).getD 0) = some (i, false)) ∧ (sg.c * sg.ncb ≤ sbSlotSize d) :=
  ⟨stCode [] none, 0, kCmd (setAt wLdec 2 0x00200004), [], 2, cellDesc, segOf wLdec, by decide⟩
set_option maxRecDepth 20000 in
theorem witness_ldec_poisoned : ∃ (s : State) (g : GroveId) (k : CodeCmd), ((s.grove g.val).ceBusy = none) ∧ (s.codeNext g.val = some k) ∧ (k.started = false ∧ ccOp k.words = 1) ∧ (s.codeCheck g.val k = .ok) ∧ ((s.loadDev .dom0 (ccIn k.words) (ccInLen k.words)).1 = .ok) ∧ ((s.loadDev .dom0 (ccIn k.words) (ccInLen k.words)).2.2.hasPoison .dom0 (dSbuf ((s.loadDev .dom0 (ccIn k.words) (ccInLen k.words)).2.2.cell (ccCell k.words)).desc) 32768 = true) :=
  ⟨{ stCode [kCmd wLdec] none with mems := { State.reset.mems with poison := [(4096 * 2 ^ 32 + 0x30) * 512] } }, 0, kCmd wLdec, by decide⟩
theorem witness_code_refusal : ∃ (s : State) (g : Nat) (k : CodeCmd) (c : Code), s.pastTag (fld (wAt k.words 1) 23 0) = false :=
  ⟨stCode [kCmd wLdec] none, 0, kCmd (setAt wLdec 1 0x100000), .configInvalid, by decide⟩

/-! CodeBlocksEnd: states and operands that meet the hypotheses. -/

theorem witness_block_end : ∃ (s : State) (g : GroveId) (k : CodeCmd), ((s.grove g.val).ceQueue.find? (fun y => decide ((s.grove g.val).ceBusy = some y.seq)) = some k) ∧ (s.blockPoisoned k = false) ∧ ((if ccOp k.words = 1 then s.decodeBlock k else if ccOp k.words = 2 then encodeBlock k else polarBlock k).next < (if ccOp k.words = 1 then s.decodeBlock k else if ccOp k.words = 2 then encodeBlock k else polarBlock k).blocks) :=
  ⟨stCode [{ kCmd wPenc with started := true, blocks := 2 }] (some 1), 0, { kCmd wPenc with started := true, blocks := 2 }, by decide⟩
theorem witness_block_end_last : ∃ (s : State) (g : GroveId) (k : CodeCmd), ((s.grove g.val).ceQueue.find? (fun y => decide ((s.grove g.val).ceBusy = some y.seq)) = some k) ∧ (s.blockPoisoned k = false) ∧ ((if ccOp k.words = 1 then s.decodeBlock k else if ccOp k.words = 2 then encodeBlock k else polarBlock k).blocks ≤ (if ccOp k.words = 1 then s.decodeBlock k else if ccOp k.words = 2 then encodeBlock k else polarBlock k).next) :=
  ⟨stCode [{ kCmd wPenc with started := true, blocks := 1 }] (some 1), 0, { kCmd wPenc with started := true, blocks := 1 }, by decide⟩
set_option maxRecDepth 20000 in
theorem witness_block_end_poisoned : ∃ (s : State) (g : GroveId) (k : CodeCmd), ((s.grove g.val).ceQueue.find? (fun y => decide ((s.grove g.val).ceBusy = some y.seq)) = some k) ∧ (s.blockPoisoned k = true) :=
  ⟨{ stCode [{ kCmd wLdec with started := true, blocks := 1, entry := some 0 }] (some 1) with mems := { State.reset.mems with poison := [(4096 * 2 ^ 32 + 0x30) * 512 + 256] } }, 0, { kCmd wLdec with started := true, blocks := 1, entry := some 0 }, by decide⟩
theorem witness_block_end_idle : ∃ (s : State) (g : GroveId), (s.grove g.val).ceBusy = none :=
  ⟨State.reset, 0, by decide⟩
theorem witness_lock_release : ∃ (s : State) (c : CellId) (e : Nat), ((s.cell c.val).phase ≠ .free ∧ e < 1024) ∧ (s.entryBusy c.val e = false) ∧ (bitOf (wAt (s.dirEntry (s.cell c.val).desc e) 0) 22 = true) :=
  ⟨{ stCell .active with mem := Memory.writeN (devKey 4096 0x300000) [0, 0, 0x60] [] }, 3, 0, by decide⟩
theorem witness_lock_keeps : ∃ (s : State) (c : CellId) (e : Nat), s.entryBusy c.val e = true :=
  ⟨stCode [{ kCmd wLdec with started := true, entry := some 0 }] none, 3, 0, by decide⟩
set_option maxRecDepth 20000 in
theorem witness_sb_release : ∃ (s : State) (c : CellId), ((s.cell c.val).phase = .draining ∧ (s.cell c.val).sbFree = false) ∧ ((s.cell c.val).forced = false ∧ s.claimsShut c.val = true) ∧ ((List.range 1024).all (fun i => !bitOf (wAt (s.dirEntry (s.cell c.val).desc i) 0) 22) = true) :=
  ⟨{ stCell .draining with time := { State.reset.time with ns := 2000000 } }, 3, by decide⟩

/-! RateMatchingAndCombining: states and operands that meet the hypotheses. -/

theorem witness_er_sum : ∃ (ws : List Word) (n : Nat), (0 < n) ∧ (0 < ccNl ws ∧ 0 < ccQm ws) ∧ (ccG ws % (ccNl ws * ccQm ws) = 0) :=
  ⟨wLdec, 3, by decide⟩
theorem witness_combine_range : ∃ (g : Seg) (ws : List Word) (soft : List Byte) (r : Nat) (held : List Int), ∀ v ∈ held, -127 ≤ v ∧ v ≤ 127 :=
  ⟨segOf wLdec, wLdec, [5], 0, [127, 3], by decide⟩

/-! PlanPeriodsHandTilesOver: states and operands that meet the hypotheses. -/

theorem witness_plan_boundary : ∃ (s : State) (d : DieId), (s.slotAt (s.sched d.val).pmu s.now).start ≠ (s.sched d.val).boundary :=
  ⟨{ State.reset with time := { State.reset.time with ns := 1000000 } }, 1, by decide⟩
theorem witness_plan_boundary_once : ∃ (s : State) (d : DieId), (s.slotAt (s.sched d.val).pmu s.now).start = (s.sched d.val).boundary :=
  ⟨State.reset, 1, by decide⟩
theorem witness_handover_tile : ∃ (s : State) (d t : Nat), d < 4 ∧ t / 256 = d :=
  ⟨State.reset, 1, 300, by decide⟩
theorem witness_plan_fixed : ∃ (s : State) (d : Nat) (mu start : Nat), (mu = (if (s.slotAt (s.sched d).pmu s.now).slot = 0 then s.dieMu d else (s.sched d).pmu)) ∧ (start = (s.slotAt mu s.now).start) :=
  ⟨State.reset, 1, 0, 0, by decide⟩
theorem witness_late_tile : ∃ (s : State) (t : TileId) (n : Nat) (c : TileCmd), ((s.tile t.val).queue[n]? = some c) ∧ (s.tooLate (cmdDeadline c.words) = true) :=
  ⟨{ stHead cMat with time := { State.reset.time with ns := 160000000 } }, 512, 0, cMat, by decide⟩
theorem witness_late_lane : ∃ (s : State) (l : LaneId) (c : LaneCtxId), (s.tooLate (s.lctx l.val c.val).cdl = true) ∧ ((s.lctx l.val c.val).wait ≠ .issue) :=
  ⟨{ State.reset with time := { State.reset.time with ns := 160000000 } }, 64, 0, by decide⟩
theorem witness_late_deck : ∃ (s : State) (g : GroveId) (n : Nat) (c : DeckCmd), ((s.grove g.val).deckWait[n]? = some c) ∧ (s.tooLate (cmdDeadline c.words) = true) :=
  ⟨{ stDeck [dkCmd] none with time := { State.reset.time with ns := 160000000 } }, 0, 0, dkCmd, by decide⟩
theorem witness_late_code : ∃ (s : State) (g : GroveId) (n : Nat) (c : CodeCmd), ((s.grove g.val).ceQueue[n]? = some c) ∧ (s.tooLate (cmdDeadline c.words) = true) :=
  ⟨{ stCode [kCmd wPdec] none with time := { State.reset.time with ns := 160000000 } }, 0, 0, kCmd wPdec, by decide⟩
theorem witness_late_slot : ∃ (s : State) (pt n : Nat) (r : ArbReq), ((s.arb.get [] pt)[n]? = some r) ∧ (s.tooLate r.tag = true) :=
  ⟨{ State.reset with arb := [(3, [{ domain := 9, what := .access (.agent (.inst 7) 0x40 (.read 1) 1 1), tag := 1, late := false }])], time := { State.reset.time with ns := 160000000 } }, 3, 0, { domain := 9, what := .access (.agent (.inst 7) 0x40 (.read 1) 1 1), tag := 1, late := false }, by decide⟩
theorem witness_late_waiter : ∃ (s : State) (pk n : Nat) (w : Waiter), ((s.home pk).waiters[n]? = some w) ∧ (s.tooLate w.tag = true) :=
  ⟨{ State.reset with mems := { State.reset.mems with homes := [(5, { Home.fresh with waiters := [{ what := .transfer 40, t3 := true, since := 0, tag := 1, late := false }] })] }, time := { State.reset.time with ns := 160000000 } }, 5, 0, { what := .transfer 40, t3 := true, since := 0, tag := 1, late := false }, by decide⟩
theorem witness_late_frame : ∃ (s : State) (p : EthPort) (n : Nat) (f : EgressFrame), ((s.ethp p.val).wheel[n]? = some f) ∧ (s.tooLate (tagOf f.deadline) = true) :=
  ⟨{ State.reset with eth := [(2, { EthSt.reset with wheel := [{ sub := 0, launch := 0, deadline := 32, eaxc := none, kind := .mgmt, bytes := [], tsreq := false, txid := 0, close := none }] })], time := { State.reset.time with ns := 160000000 } }, 2, 0, { sub := 0, launch := 0, deadline := 32, eaxc := none, kind := .mgmt, bytes := [], tsreq := false, txid := 0, close := none }, by decide⟩
theorem witness_late_req : ∃ (s : State) (k : ReqId), ((s.ctx k.val).state ≠ .free) ∧ (s.tooLate (s.ctx k.val).tag = true) :=
  ⟨{ State.reset with ctxs := [(5, { ReqCtx.free with state := .ready, tag := 1 })], time := { State.reset.time with ns := 160000000 } }, 5, by decide⟩
theorem witness_late_not : ∃ (s : State) (l : LaneId) (c : LaneCtxId), (s.tooLate (s.lctx l.val c.val).cdl = false) ∧ ((s.lctx l.val c.val).wait ≠ .issue) :=
  ⟨State.reset, 64, 0, by decide⟩
theorem witness_late_issue : ∃ (s : State) (l : LaneId) (c : LaneCtxId), ((s.lctx l.val c.val).wait = .issue) ∧ (s.tooLate (s.issueTag l.val c.val) = true ∧ s.tooLate (s.lctx l.val c.val).cdl = false) :=
  ⟨({ State.reset with time := { State.reset.time with ns := 160000000 } } : State).setLctx 64 0 { State.reset.lctx 64 0 with wait := .issue, cdl := tagOf 160000000 }, 64, 0, by decide⟩
theorem witness_late_move : ∃ (s : State) (n : Nat) (m : Move), (s.mems.moves[n]? = some m) ∧ (s.tooLate m.tag = true) :=
  ⟨{ (stHome Home.fresh [{ mvOf .rehome with tag := 1 }]) with time := { State.reset.time with ns := 160000000 } }, 0, { mvOf .rehome with tag := 1 }, by decide⟩
theorem witness_late_port : ∃ (s : State) (n : Nat) (q : PortReq), (s.mems.held[n]? = some q) ∧ (s.tooLate q.tag = true) :=
  ⟨{ State.reset with mems := { MemSt.empty with held := [{ who := 2, work := .post .dom0 0x20000 [3], tag := 1, late := false }] }, time := { State.reset.time with ns := 160000000 } }, 0, { who := 2, work := .post .dom0 0x20000 [3], tag := 1, late := false }, by decide⟩
theorem witness_late_unacked : ∃ (s : State) (sp : Space) (n : Nat) (u0 : Unacked), ((s.fstream (spaceIdx sp)).unacked[n]? = some u0) ∧ (s.tooLate u0.seg.tag = true) :=
  ⟨{ stUn [{ unackW with seg := { segW with tag := 1 } }] [opW] with time := { State.reset.time with ns := 160000000 } }, .inst 3, 0, { unackW with seg := { segW with tag := 1 } }, by decide⟩

/-! SpillReturnRestore: states and operands that meet the hypotheses. -/

theorem witness_spill_none : ∃ (s : State) (t : TileId) (e : Bool), ((s.tile t.val).sched = .spill) ∧ ((s.tile t.val).lastInst = none) ∧ ((s.tile t.val).holder = none) ∧ (bitOf (s.evtRaw (pgTile t.val)) 2 = false) :=
  ⟨stTile (fun x => { x with sched := .spill, held := true }), 40, false, by decide⟩
theorem witness_spill_image : ∃ (s : State) (t : TileId) (i : Nat), ((s.tile t.val).sched = .spill) ∧ ((s.tile t.val).lastInst = some i) ∧ (s.issuerOk (spaceOf i) = true) ∧ (bitOf (s.evtRaw (pgTile t.val)) 2 = false) :=
  ⟨{ stTile (fun x => { x with sched := .spill, held := true, lastInst := some 7, store := [(5, 9)] }) with insts := [(7, { Inst.free with phase := .active, key := some 1 })] }, 40, 7, by decide⟩
theorem witness_spill_lost : ∃ (s : State) (t : TileId) (i : Nat) (e : Bool), ((s.tile t.val).sched = .spill) ∧ ((s.tile t.val).lastInst = some i) ∧ (s.issuerOk (spaceOf i) = false ∨ e = true) ∧ ((s.tile t.val).live = none) ∧ (bitOf (s.evtRaw (pgTile t.val)) 2 = false) :=
  ⟨stTile (fun x => { x with sched := .spill, held := true, lastInst := some 7 }), 40, 7, false, by decide⟩
theorem witness_return_start : ∃ (s : State) (t : TileId), ((s.tile t.val).sched = .drain ∧ (s.tile t.val).queue = [] ∧ (s.tile t.val).flights = []) ∧ ((s.sched (t.val / 256)).cur.contains t.val = true) ∧ ((s.tile t.val).suspect = false) ∧ ((s.tile t.val).holder = none) ∧ (bitOf (s.evtRaw (pgTile t.val)) 2 = false) :=
  ⟨{ stTile (fun x => { x with sched := .drain }) with scheds := [(0, { Sched.reset with cur := [40] })] }, 40, by decide⟩
theorem witness_return_waits : ∃ (s : State) (t : TileId), (s.tile t.val).sched = .drain ∧ (s.tile t.val).queue ≠ [] :=
  ⟨stTile (fun x => { x with sched := .drain, queue := [cMat] }), 40, by decide⟩
theorem witness_restore : ∃ (s : State) (t : TileId) (g : SpillImage), ((s.tile t.val).sched = .restore ∧ (s.tile t.val).image = some g) ∧ ((s.tile t.val).dropImage = false) :=
  ⟨stTile (fun x => { x with sched := .restore, image := some img7 }), 40, img7, by decide⟩
theorem witness_restore_dropped : ∃ (s : State) (t : TileId) (g : SpillImage), ((s.tile t.val).sched = .restore ∧ (s.tile t.val).image = some g) ∧ ((s.tile t.val).dropImage = true) :=
  ⟨stTile (fun x => { x with sched := .restore, image := some img7, dropImage := true }), 40, img7, by decide⟩

/-! FirebreakMapAndCommits: states and operands that meet the hypotheses. -/

theorem witness_map_addr : ∃ (s : State) (v : Word), (s.pwr.phase = .running) ∧ (s.recMode = 0) :=
  ⟨State.reset, 0x123, by decide⟩
set_option maxRecDepth 20000 in
theorem witness_map_copy : ∃ (s : State) (r : Code × List Byte), (s.fbk.loaded = false) ∧ (r = ((s.loadDev .dom0 (fld (s.reg pgMap 0x0C0) 27 0 * 4096) 1024).1, (s.loadDev .dom0 (fld (s.reg pgMap 0x0C0) 27 0 * 4096) 1024).2.1)) ∧ (r.1 = .ok) :=
  ⟨{ State.reset with fbk := { State.reset.fbk with loaded := false } }, (.ok, List.replicate 1024 0), by decide⟩
theorem witness_commit_held : ∃ (s : State) (p : Fin 65), (s.pwr.phase = .running) ∧ (s.recMode = 0) ∧ (s.coord.busy = true ∨ s.fbk.held ≠ []) :=
  ⟨{ State.reset with coord := { Coord.reset with busy := true } }, 64, by decide⟩
set_option maxRecDepth 20000 in
theorem witness_commit_refused : ∃ (s : State) (c : Code), (s.pwr.phase = .running) ∧ (s.recMode = 0) ∧ (s.coord.busy = false ∧ s.fbk.held = [] ∧ s.fbk.loaded = true ∧ s.testHeld = false) ∧ (c = codePick (s.commitCodes (s.candidate s.fbk.image (List.range 64)) s.fbk.bad)) ∧ (c ≠ .ok) :=
  ⟨{ State.reset with fbk := { State.reset.fbk with bad := true } }, .configInvalid, by decide⟩
set_option maxRecDepth 20000 in
theorem witness_commit_map : ∃ (s : State), (s.pwr.phase = .running) ∧ (s.recMode = 0) ∧ (s.coord.busy = false ∧ s.fbk.held = [] ∧ s.fbk.loaded = true ∧ s.testHeld = false) ∧ (codePick (s.commitCodes (s.candidate s.fbk.image (List.range 64)) s.fbk.bad) = .ok) :=
  ⟨{ State.reset with fbk := { State.reset.fbk with image := image5 } }, by decide⟩
set_option maxRecDepth 20000 in
theorem witness_commit_dom : ∃ (s : State) (p : Fin 65), (s.pwr.phase = .running) ∧ (s.recMode = 0) ∧ (p.val < 64) ∧ (s.coord.busy = false ∧ s.fbk.held = [] ∧ s.fbk.loaded = true) ∧ (codePick (s.commitCodes (s.candidate s.fbk.map [p.val]) s.fbk.bad) = .ok) :=
  ⟨State.reset, 9, by decide⟩
set_option maxRecDepth 20000 in
theorem witness_commit_group : ∃ (s : State) (v : Word), (s.pwr.phase = .running) ∧ (s.recMode = 0) ∧ (bitOf v 0 = true) ∧ (s.coord.busy = false ∧ s.fbk.held = [] ∧ s.fbk.loaded = true ∧ s.testHeld = false) ∧ (codePick (s.commitCodes (s.candidate s.fbk.image (List.range 64)) s.fbk.bad) = .ok) :=
  ⟨State.reset, 1, by decide⟩
theorem witness_held_apply : ∃ (s : State) (h : HeldCommit) (rest : List HeldCommit), (s.fbk.held = h :: rest) ∧ (s.commitHeld h = false) :=
  ⟨{ State.reset with fbk := { State.reset.fbk with held := [.mapPage] } }, .mapPage, [], by decide⟩
theorem witness_held_stays : ∃ (s : State) (h : HeldCommit) (rest : List HeldCommit), (s.fbk.held = h :: rest) ∧ (s.commitHeld h = true) :=
  ⟨{ State.reset with fbk := { State.reset.fbk with held := [.mapPage] }, coord := { Coord.reset with busy := true } }, .mapPage, [], by decide⟩
theorem witness_refill : ∃ (s : State) (d : Fin 64) (pt : Nat), (d.val ≠ 0) ∧ (shapeRate (s.inForce (pgFbk d.val) 0x0C4) ≠ 0) ∧ (pt < ckxPoint 0 ∨ (ckxPoint 12 ≤ pt ∧ pt < 2 ^ 20)) :=
  ⟨{ State.reset with regs := { RegFile.reset with com := [(regKey (pgFbk 9) 0x0C4, 0x00100100)] } }, 9, 3, by decide⟩
theorem witness_refill_link : ∃ (s : State) (d : Fin 64) (pt : Nat), (d.val ≠ 0) ∧ (shapeRate (s.inForce (pgFbk d.val) 0x0C4) ≠ 0) ∧ (ckxPoint 0 ≤ pt ∧ pt < ckxPoint 12) :=
  ⟨{ State.reset with regs := { RegFile.reset with com := [(regKey (pgFbk 9) 0x0C4, 0x00100100)] } }, 9, ckxPoint 3, by decide⟩

/-! CommandQueuesAndJobs: states and operands that meet the hypotheses. -/

theorem witness_cq_doorbell : ∃ (s : State) (i : InstId) (v : Word), (s.pwr.phase = .running) ∧ ((s.inst i.val).phase = .active) ∧ (idxGap (s.inst i.val).cqHead (fld v 15 0) ≤ s.ringLen (pgMbx i.val) 0x100) ∧ (idxGap (s.inst i.val).cqHead (s.ringIdx (pgMbx i.val) 0x100) ≤ idxGap (s.inst i.val).cqHead (fld v 15 0)) :=
  ⟨stCq [] [], 3, 2, by decide⟩
theorem witness_cq_doorbell_bad : ∃ (s : State) (i : InstId) (v : Word), (s.pwr.phase = .running) ∧ ((s.inst i.val).phase = .active) ∧ (s.ringLen (pgMbx i.val) 0x100 < idxGap (s.inst i.val).cqHead (fld v 15 0)) :=
  ⟨stCq [] [], 3, 60, by decide⟩
theorem witness_cq_nop : ∃ (s : State) (i : InstId) (ws : List Word), ((s.cqEntry i.val).map (·.1) = some ws) ∧ (s.replayed 2 = false) ∧ (fld (wAt ws 0) 3 0 = 0) ∧ (cqOk0 ws = true ∧ zeroFrom ws 1 = true) :=
  ⟨stCq [] (words16 [(0, 0x00070000)]), 3, words16 [(0, 0x00070000)], by decide⟩
theorem witness_cq_unknown : ∃ (s : State) (i : InstId) (ws : List Word) (o : Nat), ((s.cqEntry i.val).map (·.1) = some ws) ∧ (s.replayed 2 = false) ∧ (fld (wAt ws 0) 3 0 = o ∧ 6 ≤ o) :=
  ⟨stCq [] (words16 [(0, 0x00070009)]), 3, words16 [(0, 0x00070009)], 9, by decide⟩
theorem witness_cq_replayed : ∃ (s : State) (i : InstId) (ws : List Word), ((s.cqEntry i.val).map (·.1) = some ws) ∧ (s.replayed 2 = true) ∧ (fld (wAt ws 0) 3 0 = 1) :=
  ⟨(let t := ((stCq [] (words16 [(0, 0x00070001)])).setReg pgTime 0x300 0x12); { t with recd := { t.recd with running := true } }), 3, words16 [(0, 0x00070001)], by decide⟩
theorem witness_run : ∃ (s : State) (i : InstId) (ws : List Word) (j : Job), ((s.cqEntry i.val).map (·.1) = some ws) ∧ (s.replayed 2 = false) ∧ (fld (wAt ws 0) 3 0 = 1) ∧ (s.recMode = 0) ∧ (j = (((s.cqEntry i.val).map (·.2)).getD s).job i.val (cqJob ws)) ∧ (cqOk0 ws = true ∧ fld (wAt ws 1) 15 4 = 0 ∧ fld (wAt ws 6) 31 16 = 0 ∧ zeroFrom ws 12 = true) ∧ (j.isOpen = true ∧ j.closing = none ∧ j.restart = none) ∧ ((((s.cqEntry i.val).map (·.2)).getD s).openCtxs i.val < ((((s.cqEntry i.val).map (·.2)).getD s).inst i.val).quota) ∧ ((((s.cqEntry i.val).map (·.2)).getD s).poolTurn i.val = true ∧ (((s.cqEntry i.val).map (·.2)).getD s).pickCtx.isSome = true) :=
  ⟨stCq [(0, job0)] (words16 [(0, 0x00070001)]), 3, words16 [(0, 0x00070001)], job0, by decide⟩
theorem witness_run_no_quota : ∃ (s : State) (i : InstId) (ws : List Word) (j : Job), ((s.cqEntry i.val).map (·.1) = some ws) ∧ (s.replayed 2 = false) ∧ (fld (wAt ws 0) 3 0 = 1) ∧ (j = (((s.cqEntry i.val).map (·.2)).getD s).job i.val (cqJob ws)) ∧ (cqOk0 ws = true ∧ fld (wAt ws 1) 15 4 = 0 ∧ fld (wAt ws 6) 31 16 = 0 ∧ zeroFrom ws 12 = true) ∧ (j.isOpen = true ∧ j.closing = none) ∧ (((((s.cqEntry i.val).map (·.2)).getD s).inst i.val).quota ≤ (((s.cqEntry i.val).map (·.2)).getD s).openCtxs i.val) :=
  ⟨{ stCq [(0, job0)] (words16 [(0, 0x00070001)]) with insts := [(3, { stInstA with jobs := [(0, job0)], quota := 0 })] }, 3, words16 [(0, 0x00070001)], job0, by decide⟩
theorem witness_run_waits_turn : ∃ (s : State) (i : InstId) (ws : List Word) (j : Job), ((s.cqEntry i.val).map (·.1) = some ws) ∧ (s.replayed 2 = false) ∧ (fld (wAt ws 0) 3 0 = 1) ∧ (j = (((s.cqEntry i.val).map (·.2)).getD s).job i.val (cqJob ws)) ∧ (cqOk0 ws = true ∧ fld (wAt ws 1) 15 4 = 0 ∧ fld (wAt ws 6) 31 16 = 0 ∧ zeroFrom ws 12 = true) ∧ (j.isOpen = true ∧ j.closing = none) ∧ ((((s.cqEntry i.val).map (·.2)).getD s).openCtxs i.val < ((((s.cqEntry i.val).map (·.2)).getD s).inst i.val).quota) ∧ ((((s.cqEntry i.val).map (·.2)).getD s).poolTurn i.val = false ∨ (((s.cqEntry i.val).map (·.2)).getD s).pickCtx = none) ∧ ((((s.cqEntry i.val).map (·.2)).getD s).fbk.pausedOrder.contains i.val = false) :=
  ⟨(let t := stCq [(0, job0)] (words16 [(0, 0x00070001)]); { t with insts := [(2, { stInstA with jobs := [] }), (3, { stInstA with jobs := [(0, job0)] })], fbk := { t.fbk with pausedOrder := [2] } }), 3, words16 [(0, 0x00070001)], job0, by decide⟩
theorem witness_run_no_job : ∃ (s : State) (i : InstId) (ws : List Word), ((s.cqEntry i.val).map (·.1) = some ws) ∧ (s.replayed 2 = false) ∧ (fld (wAt ws 0) 3 0 = 1) ∧ (((((s.cqEntry i.val).map (·.2)).getD s).job i.val (cqJob ws)).isOpen = false) :=
  ⟨stCq [] (words16 [(0, 0x00070001)]), 3, words16 [(0, 0x00070001)], by decide⟩
theorem witness_cancel : ∃ (s : State) (i : InstId) (ws : List Word) (k : Nat) (c : ReqCtx), ((s.cqEntry i.val).map (·.1) = some ws) ∧ (s.replayed 2 = false) ∧ (fld (wAt ws 0) 3 0 = 2) ∧ (cqOk0 ws = true ∧ fld (wAt ws 1) 31 16 = 0 ∧ zeroFrom ws 2 = true) ∧ ((((s.cqEntry i.val).map (·.2)).getD s).ctxs.filter (fun p => p.2.inst = i.val && p.2.ticket = fld (wAt ws 1) 15 0 && (p.2.state = .queued || p.2.state = .ready || p.2.state = .run)) = [(k, c)]) :=
  ⟨{ stCq [] (words16 [(0, 0x00070002), (1, 9)]) with ctxs := [(6, { ReqCtx.free with state := .ready, inst := 3, ticket := 9 })] }, 3, words16 [(0, 0x00070002), (1, 9)], 6, { ReqCtx.free with state := .ready, inst := 3, ticket := 9 }, by decide⟩
theorem witness_cancel_none : ∃ (s : State) (i : InstId) (ws : List Word), ((s.cqEntry i.val).map (·.1) = some ws) ∧ (s.replayed 2 = false) ∧ (fld (wAt ws 0) 3 0 = 2) ∧ (cqOk0 ws = true ∧ fld (wAt ws 1) 31 16 = 0 ∧ zeroFrom ws 2 = true) ∧ ((((s.cqEntry i.val).map (·.2)).getD s).ctxs.filter (fun p => p.2.inst = i.val && p.2.ticket = fld (wAt ws 1) 15 0 && (p.2.state = .queued || p.2.state = .ready || p.2.state = .run)) = []) :=
  ⟨stCq [] (words16 [(0, 0x00070002), (1, 9)]), 3, words16 [(0, 0x00070002), (1, 9)], by decide⟩
theorem witness_open_job : ∃ (s : State) (i : InstId) (ws : List Word), ((s.cqEntry i.val).map (·.1) = some ws) ∧ (s.replayed 2 = false) ∧ (fld (wAt ws 0) 3 0 = 3) ∧ ((((s.cqEntry i.val).map (·.2)).getD s).jobRefused i.val ws = false) :=
  ⟨stCq [] (words16 [(0, 0x00070003), (1, 0x00050000), (2, 16)]), 3, words16 [(0, 0x00070003), (1, 0x00050000), (2, 16)], by decide⟩
theorem witness_open_job_refused : ∃ (s : State) (i : InstId) (ws : List Word), ((s.cqEntry i.val).map (·.1) = some ws) ∧ (s.replayed 2 = false) ∧ (fld (wAt ws 0) 3 0 = 3) ∧ ((((s.cqEntry i.val).map (·.2)).getD s).jobRefused i.val ws = true) :=
  ⟨stCq [] (words16 [(0, 0x00070003)]), 3, words16 [(0, 0x00070003)], by decide⟩
theorem witness_close_job : ∃ (s : State) (i : InstId) (ws : List Word), ((s.cqEntry i.val).map (·.1) = some ws) ∧ (s.replayed 2 = false) ∧ (fld (wAt ws 0) 3 0 = 4) ∧ (cqOk0 ws = true ∧ fld (wAt ws 1) 31 4 = 0 ∧ zeroFrom ws 2 = true) ∧ (((((s.cqEntry i.val).map (·.2)).getD s).job i.val (cqJob ws)).isOpen = true ∧ ((((s.cqEntry i.val).map (·.2)).getD s).job i.val (cqJob ws)).closing = none ∧ ((((s.cqEntry i.val).map (·.2)).getD s).job i.val (cqJob ws)).restart = none) :=
  ⟨stCq [(0, job0)] (words16 [(0, 0x00070004)]), 3, words16 [(0, 0x00070004)], by decide⟩
theorem witness_restart_job : ∃ (s : State) (i : InstId) (ws : List Word), ((s.cqEntry i.val).map (·.1) = some ws) ∧ (s.replayed 2 = false) ∧ (fld (wAt ws 0) 3 0 = 5) ∧ (cqOk0 ws = true ∧ fld (wAt ws 1) 31 4 = 0 ∧ zeroFrom ws 2 = true) ∧ (((((s.cqEntry i.val).map (·.2)).getD s).job i.val (cqJob ws)).isOpen = true ∧ ((((s.cqEntry i.val).map (·.2)).getD s).job i.val (cqJob ws)).closing = none ∧ ((((s.cqEntry i.val).map (·.2)).getD s).job i.val (cqJob ws)).restart = none) :=
  ⟨stCq [(0, job0)] (words16 [(0, 0x00070005)]), 3, words16 [(0, 0x00070005)], by decide⟩
theorem witness_cq_empty : ∃ (s : State) (i : InstId), s.cqEntry i.val = none :=
  ⟨State.reset, 3, by decide⟩
theorem witness_closed_job : ∃ (s : State) (i n ticket : Nat), ((s.job i n).closing = some ticket) ∧ (s.jobPosted i n = false) ∧ (s.ctxs.all (fun p => decide (p.2.inst ≠ i) || decide (p.2.job ≠ n)) = true) :=
  ⟨stJobs [(0, { job0 with closing := some 7 })] [] [], 3, 0, 7, by decide⟩
theorem witness_rec_restarted : ∃ (s : State) (i n seq k : Nat), ((s.ctx k).state = .queued) ∧ ((s.ctx k).inst = i ∧ (s.ctx k).job = n) :=
  ⟨stStep [] [] (ctx6 .queued), 3, 0, 4, 6, by decide⟩
theorem witness_fetch_resume : ∃ (s : State) (i : InstId), ((s.inst i.val).cqPaused = true) ∧ (s.mayFetch i.val = true) :=
  ⟨{ State.reset with insts := [(3, { stInstA with cqPaused := true })] }, 3, by decide⟩
theorem witness_rq_head : ∃ (s : State) (i : InstId) (v : Word), (s.pwr.phase = .running) ∧ (pageDead (s.inst i.val).phase = false) ∧ (idxGap (s.ringIdx (pgMbx i.val) 0x120) (fld v 15 0) ≤ idxGap (s.ringIdx (pgMbx i.val) 0x120) (s.inst i.val).rqTail) ∧ ((s.inst i.val).rqWait = []) :=
  ⟨{ State.reset with insts := [(3, { stInstA with rqTail := 5 })] }, 3, 4, by decide⟩
theorem witness_rec_waits : ∃ (s : State) (i : Nat) (r : ReadyRec), (r.ctx = none) ∧ ((s.inst i).phase ≠ .squashing) ∧ ((s.inst i).rqWait ≠ [] ∨ s.rqRoom i = false) :=
  ⟨{ State.reset with insts := [(3, stInstA)] }, 3, { words := [], code := .ok, ctx := none, effect := .none }, by decide⟩
theorem witness_rec_written : ∃ (s : State) (i : Nat) (r : ReadyRec), (r.ctx = none) ∧ ((s.inst i).phase ≠ .squashing) ∧ ((s.inst i).rqWait = []) ∧ (s.rqRoom i = true) :=
  ⟨({ State.reset with insts := [(3, stInstA)] } : State).setReg (pgMbx 3) 0x128 0x104, 3, { words := [], code := .ok, ctx := none, effect := .none }, by decide⟩

/-! SequencerSteps: states and operands that meet the hypotheses. -/

theorem witness_step_start : ∃ (s : State) (id : ReqId) (e : List Word), ((s.ctx id.val).state = .ready) ∧ (s.throttled (jobDie (s.job (s.ctx id.val).inst (s.ctx id.val).job)) = false) ∧ (s.stepAt (s.ctx id.val) (s.ctx id.val).pc = some e) ∧ (stKind e = 5 → ∀ q ∈ s.ctxs, q.2.state ≠ .run) ∧ ((s.topReady (s.ctx id.val).inst (s.ctx id.val).job).getD id.val = id.val) ∧ ((s.footOf (s.ctx id.val) e).all (fun t => s.tileFree id.val t && !(s.tile t).suspect && ((s.tile t).lastInst = none || (s.tile t).lastInst = some (s.ctx id.val).inst)) = true) :=
  ⟨stStep eJump [] (ctx6 .ready), 6, eJump, by decide⟩
theorem witness_step_bad : ∃ (s : State) (id : ReqId), ((s.ctx id.val).state = .ready) ∧ (s.throttled (jobDie (s.job (s.ctx id.val).inst (s.ctx id.val).job)) = false) ∧ (s.stepAt (s.ctx id.val) (s.ctx id.val).pc = none) :=
  ⟨stStep [] [] (ctx6 .ready), 6, by decide⟩
theorem witness_step_suspect : ∃ (s : State) (id : ReqId) (e : List Word) (t : Nat), ((s.ctx id.val).state = .ready) ∧ (s.throttled (jobDie (s.job (s.ctx id.val).inst (s.ctx id.val).job)) = false) ∧ (s.stepAt (s.ctx id.val) (s.ctx id.val).pc = some e) ∧ ((s.footOf (s.ctx id.val) e).find? (fun t => (s.tile t).suspect) = some t) :=
  ⟨{ stStep eJump [] (ctx6 .ready) with tiles := [(64, { Tile.idle with suspect := true })] }, 6, eJump, 64, by decide⟩
theorem witness_step_tile : ∃ (s : State) (id : ReqId) (e : List Word) (p : PendCmd), (s.runStep id.val 1 = some e) ∧ ((s.ctx id.val).issue = [p]) ∧ (headerOk p = true) ∧ (stTile0 e ≤ fld p.header 9 0 ∧ fld p.header 9 0 < stTile0 e + stTileN e) ∧ (cmdOp p.words ≠ 4 ∧ cmdOp p.words ≠ 5) ∧ ((s.tile ((sliceTiles (s.job (s.ctx id.val).inst (s.ctx id.val).job)).getD (fld p.header 9 0) 0)).sched = .none ∧ s.queueFull ((sliceTiles (s.job (s.ctx id.val).inst (s.ctx id.val).job)).getD (fld p.header 9 0) 0) = false) ∧ (s.tileHeldBy ((sliceTiles (s.job (s.ctx id.val).inst (s.ctx id.val).job)).getD (fld p.header 9 0) 0) (s.domainOf (spaceOf (s.ctx id.val).inst)) = true ∧ s.eligible (s.domainOf (spaceOf (s.ctx id.val).inst)) (tilePoint ((sliceTiles (s.job (s.ctx id.val).inst (s.ctx id.val).job)).getD (fld p.header 9 0) 0)) = true) :=
  ⟨stStep eTile [] { ctx6 .run with issue := [pGate] }, 6, eTile, pGate, by decide⟩
theorem witness_step_tile_full : ∃ (s : State) (id : ReqId) (e : List Word) (p : PendCmd), (s.runStep id.val 1 = some e) ∧ ((s.ctx id.val).issue = [p]) ∧ (headerOk p = true) ∧ (stTile0 e ≤ fld p.header 9 0 ∧ fld p.header 9 0 < stTile0 e + stTileN e) ∧ (((s.tile ((sliceTiles (s.job (s.ctx id.val).inst (s.ctx id.val).job)).getD (fld p.header 9 0) 0)).sched ≠ .none ∧ (s.tile ((sliceTiles (s.job (s.ctx id.val).inst (s.ctx id.val).job)).getD (fld p.header 9 0) 0)).sched ≠ .floor) ∨ (s.tileHeldBy ((sliceTiles (s.job (s.ctx id.val).inst (s.ctx id.val).job)).getD (fld p.header 9 0) 0) (s.domainOf (spaceOf (s.ctx id.val).inst)) = true ∧ (s.queueFull ((sliceTiles (s.job (s.ctx id.val).inst (s.ctx id.val).job)).getD (fld p.header 9 0) 0) = true ∨ s.eligible (s.domainOf (spaceOf (s.ctx id.val).inst)) (tilePoint ((sliceTiles (s.job (s.ctx id.val).inst (s.ctx id.val).job)).getD (fld p.header 9 0) 0)) = false))) :=
  ⟨{ stStep eTile [] { ctx6 .run with issue := [pGate] } with tiles := [(64, { Tile.idle with sched := .lent })] }, 6, eTile, pGate, by decide⟩
theorem witness_step_tile_refused : ∃ (s : State) (id : ReqId) (e : List Word) (p : PendCmd), (s.runStep id.val 1 = some e) ∧ ((s.ctx id.val).issue = [p]) ∧ (headerOk p = true) ∧ (stTile0 e ≤ fld p.header 9 0 ∧ fld p.header 9 0 < stTile0 e + stTileN e) ∧ (cmdOp p.words ≠ 4 ∧ cmdOp p.words ≠ 5) ∧ ((s.tile ((sliceTiles (s.job (s.ctx id.val).inst (s.ctx id.val).job)).getD (fld p.header 9 0) 0)).sched = .none ∨ (s.tile ((sliceTiles (s.job (s.ctx id.val).inst (s.ctx id.val).job)).getD (fld p.header 9 0) 0)).sched = .floor) ∧ (s.tileHeldBy ((sliceTiles (s.job (s.ctx id.val).inst (s.ctx id.val).job)).getD (fld p.header 9 0) 0) (s.domainOf (spaceOf (s.ctx id.val).inst)) = false) :=
  ⟨{ stStep eTile [] { ctx6 .run with issue := [pGate] } with fbk := { State.reset.fbk with map := resetMap } }, 6, eTile, pGate, by decide⟩
theorem witness_queue_frees : ∃ (s : State) (t : TileId) (k : Nat) (e : List Word) (p : PendCmd), ((s.ctxs.filter (fun p => p.2.state = .run && (match p.2.issue with | [] => false | q :: _ => (sliceTiles (s.job p.2.inst p.2.job)).getD (fld q.header 9 0) 1024 = t.val))).foldl (fun acc p => match acc with | none => some p.1 | some b => if s.ranksBefore p.1 b then some p.1 else some b) (none : Option Nat) = some k) ∧ (s.runStep k 1 = some e) ∧ ((s.ctx k).issue = [p]) ∧ (headerOk p = true) ∧ (stTile0 e ≤ fld p.header 9 0 ∧ fld p.header 9 0 < stTile0 e + stTileN e) ∧ (cmdOp p.words ≠ 4 ∧ cmdOp p.words ≠ 5) ∧ ((s.tile ((sliceTiles (s.job (s.ctx k).inst (s.ctx k).job)).getD (fld p.header 9 0) 0)).sched = .none ∧ s.queueFull ((sliceTiles (s.job (s.ctx k).inst (s.ctx k).job)).getD (fld p.header 9 0) 0) = false) ∧ (s.tileHeldBy ((sliceTiles (s.job (s.ctx k).inst (s.ctx k).job)).getD (fld p.header 9 0) 0) (s.domainOf (spaceOf (s.ctx k).inst)) = true ∧ s.eligible (s.domainOf (spaceOf (s.ctx k).inst)) (tilePoint ((sliceTiles (s.job (s.ctx k).inst (s.ctx k).job)).getD (fld p.header 9 0) 0)) = true) :=
  ⟨stStep eTile [] { ctx6 .run with issue := [pGate] }, 64, 6, eTile, pGate, by decide⟩
theorem witness_step_sort : ∃ (s : State) (id : ReqId) (e : List Word) (p : PendCmd) (slice : List Nat), (s.runStep id.val 2 = some e) ∧ (stNcmd e = 1) ∧ ((s.ctx id.val).issue = [p]) ∧ (slice = sliceTiles (s.job (s.ctx id.val).inst (s.ctx id.val).job)) ∧ (s.footOf (s.ctx id.val) e ≠ []) ∧ ((s.footOf (s.ctx id.val) e).all (fun t => t / 32 = slice.getD (stTile0 e) 0 / 32 && (s.tile t).sched = .none) = true) ∧ (p.header1 = 0#32 ∧ fld p.header 31 10 = 0) ∧ ((fld (wAt p.words 4) 23 19 :: (List.range 32).filter (fun i => bitOf (wAt p.words 7) i)).all (fun i => stTile0 e ≤ i && i < stTile0 e + stTileN e) = true) :=
  ⟨stStep eSort [] { ctx6 .run with issue := [pSort] }, 6, eSort, pSort, sliceTiles job0, by decide⟩
theorem witness_jumpc_taken : ∃ (s : State) (id : ReqId) (e : List Word), (s.runStep id.val 3 = some e) ∧ ((s.ctx id.val).lc + 1 < (s.ctx id.val).limit) :=
  ⟨stStep eJump [] (ctx6 .run), 6, eJump, by decide⟩
theorem witness_jumpc_through : ∃ (s : State) (id : ReqId) (e : List Word), (s.runStep id.val 3 = some e) ∧ ((s.ctx id.val).limit ≤ (s.ctx id.val).lc + 1) :=
  ⟨stStep eJump [] { ctx6 .run with lc := 2 }, 6, eJump, by decide⟩
theorem witness_emit : ∃ (s : State) (id : ReqId) (e : List Word), (s.runStep id.val 4 = some e) ∧ (s.inlineAway (s.ctx id.val) e = false) :=
  ⟨stStep eEmit [] (ctx6 .run), 6, eEmit, by decide⟩
theorem witness_ckpt : ∃ (s : State) (id : ReqId) (e : List Word) (p : Pkg), (s.runStep id.val 5 = some e) ∧ (s.unitWait (.ctx id.val) (s.ctx id.val).tag (copyExtents (spaceOf (s.ctx id.val).inst) (ckptPlan p (nextSlot (s.job (s.ctx id.val).inst (s.ctx id.val).job) p).1) ++ [(spaceOf (s.ctx id.val).inst, (nextSlot (s.job (s.ctx id.val).inst (s.ctx id.val).job) p).1, 64, true)]) = none) ∧ (s.pkgOf (s.ctx id.val).inst (s.ctx id.val).job = some p) ∧ ((s.writeCkpt (s.ctx id.val).inst (s.ctx id.val) (s.job (s.ctx id.val).inst (s.ctx id.val).job) p).1 = .ok) :=
  ⟨{ stStep eCkpt [] (ctx6 .run) with mems := { MemSt.empty with homes := [(pageKeyOf 3 2, { Home.fresh with tier := .t2, frame := 9 })] } }, 6, eCkpt, pkg5 [eCkpt] [], by decide⟩
theorem witness_emit_stalls : ∃ (s : State) (id : ReqId) (e : List Word), (s.runStep id.val 4 = some e) ∧ (s.inlineAway (s.ctx id.val) e = true) :=
  ⟨{ stStep eEmit [] (ctx6 .run) with tiles := [(64, { Tile.idle with sched := .lent })] }, 6, eEmit, by decide⟩
theorem witness_end_stalls : ∃ (s : State) (id : ReqId) (e : List Word), (s.runStep id.val 6 = some e) ∧ (s.inlineAway (s.ctx id.val) e = true) :=
  ⟨{ stStep eEnd [] (ctx6 .run) with tiles := [(64, { Tile.idle with sched := .lent })] }, 6, eEnd, by decide⟩
theorem witness_step_end : ∃ (s : State) (id : ReqId) (e : List Word), (s.runStep id.val 6 = some e) ∧ (s.inlineAway (s.ctx id.val) e = false) ∧ (s.lv.cut = false) :=
  ⟨stStep eEnd [] (ctx6 .run), 6, eEnd, by decide⟩
theorem witness_step_end_fenced : ∃ (s : State) (id : ReqId) (e : List Word), (s.runStep id.val 6 = some e) ∧ (s.inlineAway (s.ctx id.val) e = false) ∧ (s.lv.cut = true) :=
  ⟨{ stStep eEnd [] (ctx6 .run) with fabric := { FabricSt.reset with lv := { LvSt.reset with state := .fenced, cut := true } } }, 6, eEnd, by decide⟩
theorem witness_boundary_once : ∃ (s : State) (k pc : Nat), (s.recMode = 0 ∧ s.lv.cut = false) ∧ ((s.ctx k).state = .run) :=
  ⟨stStep eEnd [] (ctx6 .run), 6, 1, by decide⟩
theorem witness_seq_record : ∃ (s : State) (id : ReqId) (r : List Word) (rest : List (List Word)), ((s.ctx id.val).recs = r :: rest) ∧ ((s.ctx id.val).state = .run) ∧ (fld (wAt r 0) 23 16 = 0) ∧ (2 ≤ (s.ctx id.val).outst) :=
  ⟨stStep eTile [] { ctx6 .run with outst := 2, recs := [[7, 0, 0, 0]] }, 6, [7, 0, 0, 0], [], by decide⟩
theorem witness_teardown : ∃ (s : State) (id : ReqId), ((s.ctx id.val).state = .ending) ∧ (s.cmdsOut id.val (s.dropsImages (s.ctx id.val)) = 0) ∧ (s.dropsImages (s.ctx id.val) = false) ∧ ((s.heldTiles id.val).any (fun t => (s.tile t).scrub) = false) :=
  ⟨stStep eTile [] { ctx6 .ending with aborted := true }, 6, by decide⟩
theorem witness_teardown_scrubs : ∃ (s : State) (id : ReqId), ((s.ctx id.val).state = .ending) ∧ (s.cmdsOut id.val (s.dropsImages (s.ctx id.val)) = 0) ∧ ((s.ctx id.val).cause ≠ none ∨ (s.ctx id.val).noRec = true) ∧ ((s.ctx id.val).scrubbing = false) ∧ (s.heldTiles id.val ≠ []) :=
  ⟨{ stStep eTile [] { ctx6 .ending with cause := some .tierError } with tiles := [(64, { Tile.idle with holder := some 6 })] }, 6, by decide⟩
theorem witness_teardown_waits : ∃ (s : State) (id : ReqId), ((s.ctx id.val).state = .ending) ∧ (s.cmdsOut id.val (s.dropsImages (s.ctx id.val)) ≠ 0) :=
  ⟨stStep eTile [] { ctx6 .ending with aborted := true, recs := [[7, 0, 0, 0]] }, 6, by decide⟩

/-! DeviceMemoryAccesses: states and operands that meet the hypotheses. -/

theorem witness_grant_alone : ∃ (s : State) (pt d : Nat) (a : ArbWhat) (tag : Nat) (late : Bool), s.heldAt pt = [] :=
  ⟨State.reset, 3, 9, .access (.agent .dom0 0 (.read 1) 0 1), 5, false, by decide⟩
theorem witness_pert_delay : ∃ (s : State) (pt k die since : Nat), (pointKind pt = some (k, die)) ∧ (bitOf (s.inForce pgBist (0x0C0 + 4 * k)) (20 + die) = true) ∧ (s.ac < since + fld (s.inForce pgBist (0x0C0 + 4 * k)) 11 0) :=
  ⟨{ State.reset with regs := { RegFile.reset with com := [(regKey pgBist 0x0D0, 0x00100008)] } }, 3, 4, 0, 0, by decide⟩
theorem witness_pert_bound : ∃ (s : State) (pt k die since : Nat), (pointKind pt = some (k, die)) ∧ (since + fld (s.inForce pgBist (0x0C0 + 4 * k)) 11 0 + 64 ≤ s.ac) :=
  ⟨{ State.reset with ac := 100, regs := { RegFile.reset with com := [(regKey pgBist 0x0D0, 0x00110008)] } }, 3, 4, 0, 0, by decide⟩
theorem witness_grant_order : ∃ (s : State) (pt d : Nat) (a : ArbWhat) (tag : Nat) (late : Bool) (r : ArbReq) (rest : List ArbReq), (s.heldAt pt = r :: rest ∧ r.what ≠ a) ∧ (s.eligible r.domain pt = true) ∧ (s.tagKey r.tag r.late < s.tagKey tag late ∨ (s.tagKey r.tag r.late = s.tagKey tag late ∧ r.since < s.sinceAt pt a)) :=
  ⟨{ State.reset with ac := 9, arb := [(3, [{ domain := 9, what := .access (.agent .dom0 0 (.read 2) 0 1), tag := 5, late := false }])] }, 3, 9, .access (.agent .dom0 0 (.read 1) 0 1), 5, false, { domain := 9, what := .access (.agent .dom0 0 (.read 2) 0 1), tag := 5, late := false }, [], by decide⟩
theorem witness_grant_first : ∃ (s : State) (pt d : Nat) (a : ArbWhat) (tag : Nat) (late : Bool), (s.entryFree pt d a = true) ∧ (s.eligible d pt = true) ∧ (s.perturbed pt (s.sinceAt pt a) = false) ∧ ((s.heldAt pt).all (fun r => decide (r.what = a) || decide (s.tagKey tag late < s.tagKey r.tag r.late)) = true) :=
  ⟨{ State.reset with arb := [(3, [{ domain := 8, what := .access (.agent .dom0 0 (.read 2) 0 1), tag := 5, late := false }])] }, 3, 9, .access (.agent .dom0 0 (.read 1) 0 1), 4, false, by decide⟩
theorem witness_grant_needs_entry : ∃ (s : State) (pt d : Nat) (a : ArbWhat) (tag : Nat) (late : Bool), s.entryFree pt d a = false :=
  ⟨{ State.reset with regs := { RegFile.reset with com := [(regKey (pgFbk 9) 0x0C0, 0)] } }, 3, 9, .access (.agent .dom0 0 (.read 1) 0 1), 5, false, by decide⟩
theorem witness_held_entry : ∃ (s : State) (pt d : Nat) (a : ArbWhat) (tag : Nat) (late : Bool), ((s.heldAt pt).any (fun r => decide (r.what = a)) = false) ∧ (((s.heldAt pt).filter (fun r => decide (r.domain = d))).length < s.credOf d ∧ (s.heldAt pt).length < 68) :=
  ⟨State.reset, 3, 0, .access (.agent .dom0 0 (.read 1) 0 1), 5, false, by decide⟩
theorem witness_no_entry : ∃ (s : State) (pt d : Nat) (a : ArbWhat) (tag : Nat) (late : Bool), s.credOf d ≤ ((s.heldAt pt).filter (fun r => decide (r.domain = d))).length ∨ 68 ≤ (s.heldAt pt).length :=
  ⟨{ State.reset with regs := { RegFile.reset with com := [(regKey (pgFbk 9) 0x0C0, 0)] } }, 3, 9, .access (.agent .dom0 0 (.read 1) 0 1), 5, false, by decide⟩
theorem witness_cred_share : ∃ (s : State) (d : Nat), d ≠ 0 :=
  ⟨State.reset, 9, by decide⟩
theorem witness_dma_write : ∃ (s : State) (sp : Space) (va : Nat) (bs : List Byte) (tag : Nat) (from_ : Fin 6), (s.storeCode sp va bs.length = .ok) ∧ (s.firstWait sp va bs.length true = none) ∧ ((s.arbitrate (s.domainOf sp) (.access (.agent sp va (.write bs) tag from_)) tag false (s.accPoints from_.val sp va bs.length)).1 = true) ∧ (inLanes sp va bs.length = false) :=
  ⟨stAcc, .dom0, 0x10000, [1, 2], 0, 0, by decide⟩
theorem witness_dma_lane : ∃ (s : State) (va : Nat) (bs : List Byte) (tag : Nat) (from_ : Fin 6), (s.storeCode .dom0 va bs.length = .ok) ∧ ((s.arbitrate 0 (.access (.agent .dom0 va (.write bs) tag from_)) tag false (s.accPoints from_.val .dom0 va bs.length)).1 = true) ∧ (inLanes .dom0 va bs.length = true ∧ bs ≠ []) :=
  ⟨State.reset, laneLo + 0x40010, [1, 2], 0, 0, by decide⟩
theorem witness_dma_read : ∃ (s : State) (sp : Space) (va : Nat) (n tag : Nat) (from_ : Fin 6), (s.accCode sp va n = .ok) ∧ (s.firstWait sp va n false = none) ∧ ((s.arbitrate (s.domainOf sp) (.access (.agent sp va (.read n) tag from_)) tag false (s.accPoints from_.val sp va n)).1 = true) ∧ (inLanes sp va n = false) ∧ ((((s.arbitrate (s.domainOf sp) (.access (.agent sp va (.read n) tag from_)) tag false (s.accPoints from_.val sp va n)).2.touchRead sp va n).tierBad sp va n).1 = false) :=
  ⟨stAcc, .dom0, 0x10000, 8, 0, 0, by decide⟩
theorem witness_dma_poisoned : ∃ (s : State) (sp : Space) (va : Nat) (n tag : Nat) (from_ : Fin 6), (s.accCode sp va n = .ok) ∧ (s.firstWait sp va n false = none) ∧ ((s.arbitrate (s.domainOf sp) (.access (.agent sp va (.read n) tag from_)) tag false (s.accPoints from_.val sp va n)).1 = true) ∧ (inLanes sp va n = false) ∧ ((((s.arbitrate (s.domainOf sp) (.access (.agent sp va (.read n) tag from_)) tag false (s.accPoints from_.val sp va n)).2.touchRead sp va n).tierBad sp va n).1 = true) :=
  ⟨stAccPoison, .dom0, 0x10000, 8, 0, 0, by decide⟩
theorem witness_dma_held : ∃ (s : State) (sp : Space) (va : Nat) (bs : List Byte) (tag : Nat) (from_ : Fin 6), (s.storeCode sp va bs.length = .ok) ∧ (s.firstWait sp va bs.length true = none) ∧ ((s.arbitrate (s.domainOf sp) (.access (.agent sp va (.write bs) tag from_)) tag false (s.accPoints from_.val sp va bs.length)).1 = false) :=
  ⟨stAccHeld, .dom0, 0x10000, [1, 2], 9, 1, by decide⟩
theorem witness_dma_waits : ∃ (s : State) (sp : Space) (va : Nat) (n tag pk : Nat) (from_ : Fin 6) (t3 : Bool), (s.accCode sp va n = .ok) ∧ (s.firstWait sp va n false = some (pk, t3)) :=
  ⟨stHome { Home.fresh with tier := .t3 } [], .dom0, 0x10000, 8, 5, pg0, 0, true, by decide⟩
theorem witness_dma_refused : ∃ (s : State) (sp : Space) (va : Nat) (bs : List Byte) (tag : Nat) (from_ : Fin 6), s.storeCode sp va bs.length ≠ .ok :=
  ⟨State.reset, .inst 3, 0, [1], 0, 0, by decide⟩
theorem witness_put_host : ∃ (s : State) (sp : Space) (va : Nat) (bs : List Byte), half ≤ va ∧ bs ≠ [] :=
  ⟨State.reset, .inst 3, 2 ^ 47, [1], by decide⟩
theorem witness_put_device : ∃ (s : State) (va : Nat) (bs : List Byte), (va + bs.length ≤ laneLo) ∧ ((pagesIn 4096 va bs.length).all s.lands = true) :=
  ⟨stAcc, 0x10000, [1], by decide⟩
theorem witness_put_waits : ∃ (s : State) (sp : Space) (va tag pk : Nat) (bs : List Byte), (bs ≠ []) ∧ (inLanes sp va bs.length = false ∧ va < half) ∧ (pagesIn (spaceIdx sp) va bs.length = [pk]) ∧ ((s.home pk).tier = .t3) :=
  ⟨stHome { Home.fresh with tier := .t3 } [], .dom0, 0x10000, 9, pg0, [1, 2], by decide⟩
theorem witness_port_post : ∃ (s : State) (p tag : Nat) (sp : Space) (va : Nat) (bs : List Byte), (bs ≠ []) ∧ (s.mems.held = []) ∧ ((s.arbitrate (s.domainOf sp) (.port (ethReq p)) tag false (s.accPoints (pageDie (pgEth p)) sp va bs.length)).1 = true) :=
  ⟨stAcc, 2, 9, .dom0, 0x10000, [1, 2], by decide⟩
theorem witness_port_held : ∃ (s : State) (p tag : Nat) (sp : Space) (va : Nat) (bs : List Byte), (bs ≠ []) ∧ (s.mems.held.any (fun q => decide (q.who = ethReq p)) = true) :=
  ⟨{ stAcc with mems := { stAcc.mems with held := [{ who := 2, work := .post .dom0 0x20000 [3], tag := 9, late := false }] } }, 2, 9, .dom0, 0x10000, [1, 2], by decide⟩
theorem witness_mem_frame : ∃ (m : Memory) (a c : Nat) (bs : List Byte), Memory.wf m = true :=
  ⟨[], 5, 9, [1, 0, 2], by decide⟩

/-! TiersMovesAndErrors: states and operands that meet the hypotheses. -/

theorem witness_move_switch : ∃ (s : State) (page : Nat) (m : Move), (s.mems.moves.find? (fun m => decide (m.page = page)) = some m) ∧ (s.hotPage page = false) :=
  ⟨stHome { Home.fresh with tier := .t2, lock := true } [mvOf .rehome], pg0, mvOf .rehome, by decide⟩
theorem witness_move_none : ∃ (s : State) (page : Nat), (s.hotPage page = false) ∧ (s.mems.moves.find? (fun m => decide (m.page = page)) = none) ∧ ((s.home page).waiters ≠ [] ∧ (s.home page).lock = false) :=
  ⟨stHome { Home.fresh with tier := .t2, waiters := [{ what := .transfer 40, t3 := true, since := 0, tag := 1, late := false }] } [], pg0, by decide⟩
theorem witness_move_hot : ∃ (s : State) (page : Nat), s.hotPage page = true :=
  ⟨{ State.reset with fabric := { State.reset.fabric with agents := [(0, { Agent.empty with hot := [{ key := pg0 * 512, times := [], buf := some 0 }] })] } }, pg0, by decide⟩
theorem witness_switch_rehome : ∃ (s : State) (m : Move), (m.kind = .rehome) ∧ (s.mustLeave m.frame = false) :=
  ⟨stHome { Home.fresh with tier := .t2, lock := true } [mvOf .rehome], mvOf .rehome, by decide⟩
theorem witness_move_abort : ∃ (s : State) (page : Nat) (m : Move), (s.mems.moves.find? (fun m => decide (m.page = page)) = some m) ∧ (m.kind = .promotion) ∧ ((s.home page).tier = .t3 ∧ (s.home page).waiters = []) :=
  ⟨stHome { Home.fresh with tier := .t3, lock := true } [mvOf .promotion], pg0, mvOf .promotion, by decide⟩
theorem witness_epoch_waits : ∃ (s : State) (d : DieId), s.mems.epochAt.get 0 d.val ≤ s.now ∧ s.now < s.mems.epochAt.get 0 d.val + s.epochLen d.val :=
  ⟨State.reset, 1, by decide⟩
theorem witness_epoch : ∃ (s : State) (d : DieId), s.mems.epochAt.get 0 d.val + s.epochLen d.val ≤ s.now :=
  ⟨{ State.reset with time := { State.reset.time with ns := 2000000000 } }, 1, by decide⟩
theorem witness_tier_late : ∃ (s : State) (k : ReqId) (c : ReqCtx) (lim : Nat), (c = s.ctx k.val) ∧ (lim = fld (s.inForce (pgCru (s.waitDie c.epPage)) 0x0C4) 19 0) ∧ (c.tierWait = true ∧ c.noticed = false) ∧ (lim ≠ 0 ∧ (s.inst c.inst).domain ≠ 0 ∧ lim * 1000 ≤ s.now - c.tierAt) :=
  ⟨{ stJobs [] [] [] with ctxs := [(6, { ctx6 .run with tierWait := true })], regs := { RegFile.reset with com := [(regKey (pgCru 0) 0x0C4, 1)] }, time := { State.reset.time with ns := 5000 } }, 6, { ctx6 .run with tierWait := true }, 1, by decide⟩
theorem witness_tier_late_once : ∃ (s : State) (k : ReqId), (s.ctx k.val).noticed = true :=
  ⟨{ State.reset with ctxs := [(6, { ctx6 .run with noticed := true })] }, 6, by decide⟩
theorem witness_patrol_ce : ∃ (s : State) (h : HbmId) (frame line : Nat), (s.pwr.phase = .running) ∧ (s.mems.patrolled.find ((h.val * 16 * framesPerCh + frame % (16 * framesPerCh)) * 512 + line % 512) = none) ∧ ((s.arbitrate 0 (.patrol (h.val * 16 * framesPerCh + frame % (16 * framesPerCh)) (line % 512)) s.tag7 false [hbmPoint (h.val * 16 * framesPerCh + frame % (16 * framesPerCh)) (line % 512)]).1 = true) ∧ (line ≠ 0) :=
  ⟨State.reset, 2, 5, 9, by decide⟩
theorem witness_patrol_ok : ∃ (s : State) (h : HbmId) (frame : Nat), (s.pwr.phase = .running) ∧ (s.mems.patrolled.find ((h.val * 16 * framesPerCh + frame % (16 * framesPerCh)) * 512 + 0 % 512) = none) ∧ ((s.arbitrate 0 (.patrol (h.val * 16 * framesPerCh + frame % (16 * framesPerCh)) (0 % 512)) s.tag7 false [hbmPoint (h.val * 16 * framesPerCh + frame % (16 * framesPerCh)) (0 % 512)]).1 = true) :=
  ⟨State.reset, 2, 5, by decide⟩
theorem witness_patrol_ue : ∃ (s : State) (h : HbmId) (frame line pk : Nat) (x : Home), (s.pwr.phase = .running) ∧ (s.mems.patrolled.find ((h.val * 16 * framesPerCh + frame % (16 * framesPerCh)) * 512 + line % 512) = none) ∧ ((s.arbitrate 0 (.patrol (h.val * 16 * framesPerCh + frame % (16 * framesPerCh)) (line % 512)) s.tag7 false [hbmPoint (h.val * 16 * framesPerCh + frame % (16 * framesPerCh)) (line % 512)]).1 = true) ∧ (line ≠ 0) ∧ (s.pageIn (h.val * 16 * framesPerCh + frame % (16 * framesPerCh)) = some (pk, x)) :=
  ⟨stHome { Home.fresh with tier := .t2, frame := 7 } [], 0, 7, 3, pg0, { Home.fresh with tier := .t2, frame := 7 }, by decide⟩
theorem witness_patrol_early : ∃ (s : State) (h : HbmId) (frame line err t0 : Nat), (s.pwr.phase = .running) ∧ (s.mems.patrolled.find ((h.val * 16 * framesPerCh + frame % (16 * framesPerCh)) * 512 + line % 512) = some t0) ∧ (s.now < t0 + max 1 (fld (s.reg (pgHbm h.val) 0x010) 7 0) * 3600000000000) :=
  ⟨{ State.reset with mems := { MemSt.empty with patrolled := [((2 * 16 * framesPerCh + 5) * 512 + 9, 0)] } }, 2, 5, 9, 1, 0, by decide⟩
theorem witness_corrected : ∃ (s : State) (f : Nat), s.mems.frameCe.get 0 f + 1 < max 1 (fld (s.reg (pgHbm (frameHbm f)) 0x010) 15 8) :=
  ⟨State.reset, 7, by decide⟩
theorem witness_register : ∃ (s : State) (d : DieId) (v : Word) (o : Obj), (s.pwr.phase = .running) ∧ (s.recMode = 0) ∧ (o = s.stagedObj d.val) ∧ (s.objRefused (objOid v) o = false) :=
  ⟨stStage, 1, 0x20001, stStage.stagedObj 1, by decide⟩
theorem witness_register_refused : ∃ (s : State) (d : DieId) (v : Word), (s.pwr.phase = .running) ∧ (s.recMode = 0) ∧ (s.objRefused (objOid v) (s.stagedObj d.val) = true) :=
  ⟨State.reset, 1, 1, by decide⟩
theorem witness_unregister : ∃ (s : State) (d : DieId) (v : Word) (o : Obj), (s.pwr.phase = .running) ∧ (s.recMode = 0) ∧ (4096 ≤ objOid v) ∧ (s.mems.objects.find (objOid v) = some o) :=
  ⟨{ State.reset with mems := { MemSt.empty with objects := [(8192, stStage.stagedObj 1)] } }, 1, 0x20002, stStage.stagedObj 1, by decide⟩
theorem witness_object_read : ∃ (s : State) (d : DieId) (v : Word) (o : Obj), (s.pwr.phase = .running) ∧ (s.recMode = 0) ∧ (4096 ≤ objOid v) ∧ (s.mems.objects.find (objOid v) = some o) :=
  ⟨{ State.reset with mems := { MemSt.empty with objects := [(8192, stStage.stagedObj 1)] } }, 1, 0x20003, stStage.stagedObj 1, by decide⟩
theorem witness_retire_removed : ∃ (s : State) (h : HbmId) (v : Word) (rest : List Nat), (s.pwr.phase = .running) ∧ (s.recMode = 0) ∧ (bitOf v 24 = false) ∧ (s.mems.retireLog.get [] h.val = fld v 23 0 :: rest) :=
  ⟨{ State.reset with mems := { MemSt.empty with retireLog := [(2, [9])] } }, 2, 9, [], by decide⟩
theorem witness_retire_now : ∃ (s : State) (h : HbmId) (v : Word), (s.pwr.phase = .running) ∧ (s.recMode = 0) ∧ (bitOf v 24 = true) ∧ (frameHbm (fld v 23 0) = h.val) :=
  ⟨State.reset, 0, 0x1000009, by decide⟩

/-! InstanceCommands: states and operands that meet the hypotheses. -/

theorem witness_inst_busy : ∃ (s : State) (v : Word), (s.pwr.phase = .running) ∧ (s.recMode = 0) ∧ (fld v 3 0 = 1) ∧ (s.fbk.instBusy = true) ∧ (s.scaler pgMap 0 < 0xFFFFFFFF) :=
  ⟨{ State.reset with fbk := { State.reset.fbk with instBusy := true } }, 0x31, by decide⟩
theorem witness_inst_refused : ∃ (s : State) (v : Word), (s.pwr.phase = .running) ∧ (s.recMode = 0) ∧ (fld v 3 0 = 2) ∧ (s.fbk.instBusy = false) ∧ ((s.inst (fld v 15 4)).locked = false) ∧ ((s.inst (fld v 15 4)).phase ≠ .created) :=
  ⟨State.reset, 0x32, by decide⟩
theorem witness_create : ∃ (s : State) (v : Word) (ws : List Word), (s.pwr.phase = .running) ∧ (s.recMode = 0) ∧ (fld v 3 0 = 1) ∧ (s.fbk.instBusy = false) ∧ ((s.inst (fld v 15 4)).locked = false) ∧ ((s.inst (fld v 15 4)).phase = .free) ∧ (ws = (List.range 8).map (s.stage pgMap)) ∧ (instDescOk ws (fld v 15 4) = true) ∧ (s.insts.all (fun p => p.2.phase = .free || p.2.pasid ≠ fld (wAt ws 1) 19 0) = true) ∧ (s.pinsFit (fld (wAt ws 0) 21 16) 1 = true) :=
  ⟨stStageI2, 0x31, (List.range 8).map (stStageI.stage pgMap), by decide⟩
theorem witness_create_no_room : ∃ (s : State) (v : Word), (s.pwr.phase = .running) ∧ (s.recMode = 0) ∧ (fld v 3 0 = 1) ∧ (s.fbk.instBusy = false) ∧ ((s.inst (fld v 15 4)).locked = false) ∧ ((s.inst (fld v 15 4)).phase = .free) ∧ (instDescOk ((List.range 8).map (s.stage pgMap)) (fld v 15 4) = true) ∧ (s.insts.all (fun p => p.2.phase = .free || p.2.pasid ≠ fld (wAt ((List.range 8).map (s.stage pgMap)) 1) 19 0) = true) ∧ (s.pinsFit (fld (wAt ((List.range 8).map (s.stage pgMap)) 0) 21 16) 1 = false) :=
  ⟨stStageI, 0x31, by decide⟩
theorem witness_activate : ∃ (s : State) (v : Word), (s.pwr.phase = .running) ∧ (s.recMode = 0) ∧ (fld v 3 0 = 2) ∧ (s.fbk.instBusy = false) ∧ ((s.inst (fld v 15 4)).locked = false) ∧ ((s.inst (fld v 15 4)).phase = .created) ∧ ((s.inst (fld v 15 4)).keysrc = false) :=
  ⟨{ State.reset with insts := [(3, { stInstA with phase := .created })] }, 0x32, by decide⟩
theorem witness_activate_no_key : ∃ (s : State) (v : Word), (s.pwr.phase = .running) ∧ (s.recMode = 0) ∧ (fld v 3 0 = 2) ∧ (s.fbk.instBusy = false) ∧ ((s.inst (fld v 15 4)).locked = false) ∧ ((s.inst (fld v 15 4)).phase = .created) ∧ ((s.inst (fld v 15 4)).keysrc = true ∧ (s.inst (fld v 15 4)).key = none) :=
  ⟨{ State.reset with insts := [(3, { stInstA with phase := .created, keysrc := true, key := none })] }, 0x32, by decide⟩
theorem witness_reset_drain : ∃ (s : State) (v : Word), (s.pwr.phase = .running) ∧ (s.recMode = 0) ∧ (fld v 3 0 = 3) ∧ (s.fbk.instBusy = false) ∧ ((s.inst (fld v 15 4)).locked = false) ∧ ((s.inst (fld v 15 4)).phase = .active ∨ (s.inst (fld v 15 4)).phase = .freezing ∨ (s.inst (fld v 15 4)).phase = .frozen) ∧ (bitOf v 16 = false) :=
  ⟨{ State.reset with insts := [(3, { stInstA with phase := .active })] }, 0x33, by decide⟩
theorem witness_reset_squash : ∃ (s : State) (v : Word), (s.pwr.phase = .running) ∧ (s.recMode = 0) ∧ (fld v 3 0 = 3) ∧ (s.fbk.instBusy = false) ∧ ((s.inst (fld v 15 4)).locked = false) ∧ ((s.inst (fld v 15 4)).phase = .active ∨ (s.inst (fld v 15 4)).phase = .draining ∨ (s.inst (fld v 15 4)).phase = .freezing ∨ (s.inst (fld v 15 4)).phase = .frozen) ∧ (bitOf v 16 = true) :=
  ⟨{ State.reset with insts := [(3, { stInstA with phase := .draining })] }, 0x10033, by decide⟩
theorem witness_destroy_created : ∃ (s : State) (v : Word), (s.pwr.phase = .running) ∧ (s.recMode = 0) ∧ (fld v 3 0 = 4) ∧ (s.fbk.instBusy = false) ∧ ((s.inst (fld v 15 4)).locked = false) ∧ ((s.inst (fld v 15 4)).phase = .created) :=
  ⟨{ State.reset with insts := [(3, { stInstA with phase := .created })] }, 0x34, by decide⟩
theorem witness_destroy_active : ∃ (s : State) (v : Word), (s.pwr.phase = .running) ∧ (s.recMode = 0) ∧ (fld v 3 0 = 4) ∧ (s.fbk.instBusy = false) ∧ ((s.inst (fld v 15 4)).locked = false) ∧ ((s.inst (fld v 15 4)).phase = .active) :=
  ⟨{ State.reset with insts := [(3, { stInstA with phase := .active })] }, 0x34, by decide⟩
theorem witness_log_start : ∃ (s : State) (v : Word) (a b : Nat), (s.pwr.phase = .running) ∧ (s.recMode = 0) ∧ (fld v 3 0 = 5) ∧ (s.fbk.instBusy = false) ∧ ((s.inst (fld v 15 4)).locked = false) ∧ ((s.inst (fld v 15 4)).phase = .active) ∧ (a = (s.stage pgMap 0).toNat + 2 ^ 32 * (s.stage pgMap 1).toNat ∧ b = (s.stage pgMap 2).toNat + 2 ^ 32 * (s.stage pgMap 3).toNat) ∧ (a % 4096 = 0 ∧ b % 4096 = 0) ∧ (a + (s.inst (fld v 15 4)).dmem * 2048 ≤ laneLo ∧ b + (s.inst (fld v 15 4)).dmem * 2048 ≤ laneLo) :=
  ⟨{ State.reset with insts := [(3, { stInstA with phase := .active })] }, 0x35, 0, 0, by decide⟩
theorem witness_log_swap : ∃ (s : State) (v : Word), (s.pwr.phase = .running) ∧ (s.recMode = 0) ∧ (fld v 3 0 = 6) ∧ (s.fbk.instBusy = false) ∧ ((s.inst (fld v 15 4)).locked = false) ∧ ((s.inst (fld v 15 4)).phase ≠ .free ∧ (s.inst (fld v 15 4)).phase ≠ .created) :=
  ⟨{ State.reset with insts := [(3, { stInstA with phase := .frozen, logOn := true })] }, 0x36, by decide⟩
theorem witness_log_stop : ∃ (s : State) (v : Word), (s.pwr.phase = .running) ∧ (s.recMode = 0) ∧ (fld v 3 0 = 7) ∧ (s.fbk.instBusy = false) ∧ ((s.inst (fld v 15 4)).locked = false) ∧ ((s.inst (fld v 15 4)).phase ≠ .free ∧ (s.inst (fld v 15 4)).phase ≠ .created) :=
  ⟨{ State.reset with insts := [(3, { stInstA with phase := .active, logOn := true })] }, 0x37, by decide⟩
theorem witness_freeze : ∃ (s : State) (v : Word), (s.pwr.phase = .running) ∧ (s.recMode = 0) ∧ (fld v 3 0 = 8) ∧ (s.fbk.instBusy = false) ∧ ((s.inst (fld v 15 4)).locked = false) ∧ ((s.inst (fld v 15 4)).phase = .active) :=
  ⟨{ State.reset with insts := [(3, { stInstA with phase := .active })] }, 0x38, by decide⟩
theorem witness_thaw : ∃ (s : State) (v : Word), (s.pwr.phase = .running) ∧ (s.recMode = 0) ∧ (fld v 3 0 = 9) ∧ (s.fbk.instBusy = false) ∧ ((s.inst (fld v 15 4)).locked = false) ∧ ((s.inst (fld v 15 4)).phase = .freezing ∨ (s.inst (fld v 15 4)).phase = .frozen) :=
  ⟨{ State.reset with insts := [(3, { stInstA with phase := .frozen })] }, 0x39, by decide⟩
theorem witness_inst_read : ∃ (s : State) (v : Word), (s.pwr.phase = .running) ∧ (s.recMode = 0) ∧ (fld v 3 0 = 10) ∧ (s.fbk.instBusy = false) ∧ ((s.inst (fld v 15 4)).locked = false) ∧ ((s.inst (fld v 15 4)).phase ≠ .free) :=
  ⟨{ State.reset with insts := [(3, { stInstA with phase := .active })] }, 0x3A, by decide⟩
theorem witness_key_delivery : ∃ (s : State) (i : InstId) (key : BitVec 512), ((s.inst i.val).phase ≠ .free) ∧ ((s.inst i.val).keysrc = true ∧ (s.inst i.val).locked = true) :=
  ⟨{ State.reset with insts := [(3, { stInstA with phase := .created, keysrc := true, locked := true })] }, 3, 5, by decide⟩
theorem witness_key_refused : ∃ (s : State) (i : InstId) (key : BitVec 512), (s.inst i.val).phase = .free ∨ (s.inst i.val).keysrc = false ∨ (s.inst i.val).locked = false :=
  ⟨State.reset, 3, 5, by decide⟩

/-! InstanceResetsAndMail: states and operands that meet the hypotheses. -/

theorem witness_drain_complete : ∃ (s : State) (i : InstId), ((s.inst i.val).phase = .draining) ∧ (s.openOf i.val = [] ∧ s.fabricBusy i.val = false ∧ (s.inst i.val).ecBusy = false) ∧ ((s.inst i.val).rqWait = []) :=
  ⟨{ State.reset with insts := [(3, { stInstA with phase := .draining })] }, 3, by decide⟩
theorem witness_drain_waits : ∃ (s : State) (i : InstId), (s.inst i.val).rqWait ≠ [] ∨ s.openOf i.val ≠ [] :=
  ⟨{ State.reset with insts := [(3, { stInstA with phase := .draining, rqWait := [{ words := [], code := .ok, ctx := none, effect := .none }] })] }, 3, by decide⟩
theorem witness_drain_timeout : ∃ (s : State) (i : InstId), ((s.inst i.val).phase = .draining) ∧ ((s.inst i.val).drainAt + 1000 * max 1 (fld (s.reg pgMap 0x014) 19 0) ≤ s.now) :=
  ⟨{ { State.reset with insts := [(3, { stInstA with phase := .draining })] } with time := { State.reset.time with ns := 2000000000 } }, 3, by decide⟩
theorem witness_drain_in_time : ∃ (s : State) (i : InstId), s.now < (s.inst i.val).drainAt + 1000 * max 1 (fld (s.reg pgMap 0x014) 19 0) :=
  ⟨{ State.reset with insts := [(3, { stInstA with phase := .draining })] }, 3, by decide⟩
theorem witness_squash_done : ∃ (s : State) (i : InstId), ((s.inst i.val).phase = .squashing) ∧ ((s.inst i.val).destroy = false) :=
  ⟨{ State.reset with insts := [(3, { stInstA with phase := .squashing })] }, 3, by decide⟩
theorem witness_squash_destroys : ∃ (s : State) (i : InstId), ((s.inst i.val).phase = .squashing) ∧ ((s.inst i.val).destroy = true) :=
  ⟨{ State.reset with insts := [(3, { stInstA with phase := .squashing, destroy := true })] }, 3, by decide⟩
theorem witness_freeze_done : ∃ (s : State) (i : InstId), ((s.inst i.val).phase = .freezing) ∧ (s.openOf i.val = [] ∧ s.fabricBusy i.val = false ∧ (s.inst i.val).ecBusy = false) :=
  ⟨{ State.reset with insts := [(3, { stInstA with phase := .freezing })] }, 3, by decide⟩
theorem witness_mail_placed : ∃ (s : State) (v : Word), (s.pwr.phase = .running) ∧ (s.recMode = 0) ∧ (s.sendBusy .dom0 = false ∧ bitOf (s.evtRaw pgMap) 1 = false) ∧ (fld v 12 0 < 4096) ∧ ((s.inst (fld v 12 0)).phase = .active ∨ (s.inst (fld v 12 0)).phase = .freezing ∨ (s.inst (fld v 12 0)).phase = .frozen) ∧ ((s.inst (fld v 12 0)).mailbox.length < 64) :=
  ⟨{ State.reset with insts := [(3, { stInstA with phase := .active })] }, 0x70003, by decide⟩
theorem witness_mail_refused : ∃ (s : State) (v : Word), (s.pwr.phase = .running) ∧ (s.recMode = 0) ∧ (s.sendBusy .dom0 = false ∧ bitOf (s.evtRaw pgMap) 1 = false) ∧ (fld v 12 0 < 4096) ∧ ((s.inst (fld v 12 0)).phase = .free ∨ (s.inst (fld v 12 0)).phase = .created) :=
  ⟨State.reset, 0x70003, by decide⟩
theorem witness_mail_full : ∃ (s : State) (v : Word), (s.pwr.phase = .running) ∧ (s.recMode = 0) ∧ (s.sendBusy .dom0 = false ∧ bitOf (s.evtRaw pgMap) 1 = false) ∧ (fld v 12 0 < 4096) ∧ ((s.inst (fld v 12 0)).phase = .active) ∧ (64 ≤ (s.inst (fld v 12 0)).mailbox.length) :=
  ⟨{ State.reset with insts := [(3, { stInstA with phase := .active, mailbox := List.replicate 64 [] })] }, 0x70003, by decide⟩
theorem witness_mail_busy : ∃ (s : State) (v : Word), (s.pwr.phase = .running) ∧ (s.sendBusy .dom0 = true) :=
  ⟨{ State.reset with fbk := { State.reset.fbk with sendUntil := 5 } }, 0x70003, by decide⟩
theorem witness_mail_busy_inst : ∃ (s : State) (i : InstId) (v : Word), (s.pwr.phase = .running) ∧ (pageDead (s.inst i.val).phase = false) ∧ (s.sendBusy (.inst i) = true) :=
  ⟨{ State.reset with insts := [(3, { stInstA with phase := .active, sendUntil := 5 })] }, 3, 0x70003, by decide⟩
theorem witness_mail_other_domain : ∃ (s : State) (i : InstId) (v : Word), (s.pwr.phase = .running) ∧ (s.recMode = 0) ∧ (pageDead (s.inst i.val).phase = false) ∧ (s.sendBusy (.inst i) = false ∧ bitOf (s.evtRaw (pgMbx i.val)) 1 = false) ∧ (fld v 12 0 < 4096) ∧ ((s.inst (fld v 12 0)).domain ≠ (s.inst i.val).domain) ∧ ((s.inst (fld v 12 0)).phase = .active) :=
  ⟨{ State.reset with insts := [(3, stInstA), (4, { stInstA with domain := 10 })] }, 3, 0x70004, by decide⟩

/-! MailboxHeadAndAck: states and operands that meet the hypotheses. -/

theorem witness_mail_head : ∃ (s : State) (i : InstId) (k : Fin 8) (m : List Word) (rest : List (List Word)), ((s.inst i.val).mailbox = m :: rest) ∧ (pageDead (s.inst i.val).phase = false) :=
  ⟨{ State.reset with insts := [(3, { stInstA with phase := .active, mailbox := [[1, 2, 3]] })] }, 3, 2, [1, 2, 3], [], by decide⟩
theorem witness_mail_empty : ∃ (s : State) (i : InstId) (k : Fin 8), ((s.inst i.val).mailbox = []) ∧ (pageDead (s.inst i.val).phase = false) :=
  ⟨{ State.reset with insts := [(3, { stInstA with phase := .active })] }, 3, 2, by decide⟩
theorem witness_mail_ack : ∃ (s : State) (i : InstId) (v : Word) (m : List Word) (rest : List (List Word)), (s.pwr.phase = .running) ∧ (pageDead (s.inst i.val).phase = false) ∧ ((s.inst i.val).mailbox = m :: rest) ∧ (wAt m 2 = v) :=
  ⟨{ State.reset with insts := [(3, { stInstA with phase := .active, mailbox := [[1, 2, 3]] })] }, 3, 3, [1, 2, 3], [], by decide⟩
theorem witness_mail_ack_other : ∃ (s : State) (i : InstId) (v : Word), (s.pwr.phase = .running) ∧ (pageDead (s.inst i.val).phase = false) ∧ ((s.inst i.val).mailbox = [] ∨ wAt ((s.inst i.val).mailbox.headD []) 2 ≠ v) ∧ (s.scaler (pgMbx i.val) 1 < 0xFFFFFFFF) :=
  ⟨{ State.reset with insts := [(3, { stInstA with phase := .active, mailbox := [[1, 2, 3]] })] }, 3, 4, by decide⟩

/-! FabricCommands: states and operands that meet the hypotheses. -/

theorem witness_fq_entry : ∃ (s : State) (i : InstId), ((s.inst i.val).phase = .active) ∧ (s.ringOn (pgMbx i.val) 0x400 = true) ∧ ((s.fstream i.val).fqHead ≠ s.ringIdx (pgMbx i.val) 0x400) ∧ ((s.fstream i.val).paused = false ∧ (s.fstream i.val).fcWait = [] ∧ (s.fstream i.val).cur = none) ∧ ((s.fstream i.val).ops.any (·.fence) = false ∧ s.fcRoom (.inst i) = true) ∧ ((s.loadDev (.inst i) (s.ringBase (pgMbx i.val) 0x400 + 64 * ((s.fstream i.val).fqHead % s.ringLen (pgMbx i.val) 0x400)) 64).1 = .ok) :=
  ⟨stFq [1], 3, by decide⟩
theorem witness_fq_store : ∃ (s : State) (sp : Space) (ws : List Word), ((s.fqEntry sp).map (·.1) = some ws) ∧ (fqOp ws = 3) ∧ ((((s.fqEntry sp).map (·.2)).getD s).lv.cut = false) ∧ (fqDescOk ws = true) ∧ ((s.fstream (spaceIdx sp)).unacked.length < 1024 ∧ (fqDests ws).all (s.fqEligible sp) = true) :=
  ⟨stFq (fqW 3 0 [0, 0, 0, 0, 4, 0, 0xAABBCCDD]), .inst 3, fqW 3 0 [0, 0, 0, 0, 4, 0, 0xAABBCCDD], by decide⟩
theorem witness_fq_load : ∃ (s : State) (sp : Space) (ws : List Word), ((s.fqEntry sp).map (·.1) = some ws) ∧ (fqOp ws = 4) ∧ ((((s.fqEntry sp).map (·.2)).getD s).lv.cut = false) ∧ (fqDescOk ws = true) ∧ ((s.fstream (spaceIdx sp)).unacked.length < 1024 ∧ (fqDests ws).all (s.fqEligible sp) = true) :=
  ⟨stFq (fqW 4 0 [0, 0, 0, 0, 4]), .inst 3, fqW 4 0 [0, 0, 0, 0, 4], by decide⟩
theorem witness_fq_red : ∃ (s : State) (sp : Space) (ws : List Word), ((s.fqEntry sp).map (·.1) = some ws) ∧ (fqOp ws = 5) ∧ ((((s.fqEntry sp).map (·.2)).getD s).lv.cut = false) ∧ (fqDescOk ws = true) ∧ ((s.fstream (spaceIdx sp)).unacked.length < 1024 ∧ (fqDests ws).all (s.fqEligible sp) = true) :=
  ⟨stFq (fqW 5 1 [0, 0, 0, 0, 4, 0, 0x3F800000]), .inst 3, fqW 5 1 [0, 0, 0, 0, 4, 0, 0x3F800000], by decide⟩
theorem witness_fq_atomic : ∃ (s : State) (sp : Space) (ws : List Word), ((s.fqEntry sp).map (·.1) = some ws) ∧ (fqOp ws = 7) ∧ ((((s.fqEntry sp).map (·.2)).getD s).lv.cut = false) ∧ (fqDescOk ws = true) ∧ ((s.fstream (spaceIdx sp)).unacked.length < 1024 ∧ (fqDests ws).all (s.fqEligible sp) = true) :=
  ⟨stFq (fqW 7 0x0C [0, 0, 0, 0, 0, 0, 1]), .inst 3, fqW 7 0x0C [0, 0, 0, 0, 0, 0, 1], by decide⟩
theorem witness_no_descriptor : ∃ (s : State) (sp : Space), (s.fstream (spaceIdx sp)).fqHead = s.ringIdx (fqPage sp) 0x400 :=
  ⟨State.reset, .inst 3, by decide⟩
theorem witness_fq_put : ∃ (s : State) (sp : Space) (ws : List Word), ((s.fqEntry sp).map (·.1) = some ws) ∧ (fqOp ws = 1) ∧ ((((s.fqEntry sp).map (·.2)).getD s).lv.cut = false) ∧ (fqDescOk ws = true) ∧ ((s.fstream (spaceIdx sp)).unacked.length < 1024 ∧ (fqDests ws).all (s.fqEligible sp) = true) :=
  ⟨stFq (fqW 1 0 [0, 0, 0x20000, 0, 4]), .inst 3, fqW 1 0 [0, 0, 0x20000, 0, 4], by decide⟩
theorem witness_fq_get : ∃ (s : State) (sp : Space) (ws : List Word), ((s.fqEntry sp).map (·.1) = some ws) ∧ (fqOp ws = 2) ∧ ((((s.fqEntry sp).map (·.2)).getD s).lv.cut = false) ∧ (fqDescOk ws = true) ∧ ((s.fstream (spaceIdx sp)).unacked.length < 1024 ∧ (fqDests ws).all (s.fqEligible sp) = true) :=
  ⟨stFq (fqW 2 0 [0, 0, 0x20000, 0, 600]), .inst 3, fqW 2 0 [0, 0, 0x20000, 0, 600], by decide⟩
theorem witness_mstore : ∃ (s : State) (sp : Space) (ws : List Word) (h : Nat), ((s.fqEntry sp).map (·.1) = some ws) ∧ (fqOp ws = 6) ∧ ((((s.fqEntry sp).map (·.2)).getD s).lv.cut = false) ∧ (fqDescOk ws = true) ∧ ((s.fstream (spaceIdx sp)).unacked.length + 8 ≤ 1024 ∧ (fqDests ws).all (s.fqEligible sp) = true) ∧ (fld (wAt ws 6) 27 24 = 1 ∧ fld (wAt ws 12) 15 0 = h) ∧ ((((s.fqEntry sp).map (·.2)).getD s).importCode sp h 1 = .ok) :=
  ⟨stFq ((fqW 6 0 [0, 0, 0, 0, 0x01000004, 0, 0xAABBCCDD, 0, 0, 0, 7]).set 1 0), .inst 3, (fqW 6 0 [0, 0, 0, 0, 0x01000004, 0, 0xAABBCCDD, 0, 0, 0, 7]).set 1 0, 7, by decide⟩
theorem witness_fq_fence : ∃ (s : State) (sp : Space) (ws : List Word), ((s.fqEntry sp).map (·.1) = some ws) ∧ (fqOp ws = 8) ∧ ((((s.fqEntry sp).map (·.2)).getD s).lv.cut = false) ∧ (fqDescOk ws = true) :=
  ⟨stFq (fqW 8 0 [] |>.set 1 0), .inst 3, fqW 8 0 [] |>.set 1 0, by decide⟩
theorem witness_fenced : ∃ (s : State) (sp : Space) (ws : List Word), ((s.fqEntry sp).map (·.1) = some ws) ∧ (fqOp ws = 8) ∧ ((((s.fqEntry sp).map (·.2)).getD s).lv.cut = true) :=
  ⟨{ stFq (fqW 8 0 []) with fabric := { FabricSt.reset with lv := { LvSt.reset with state := .fenced, cut := true } } }, .inst 3, fqW 8 0 [], by decide⟩
theorem witness_bad_desc : ∃ (s : State) (sp : Space) (ws : List Word), ((s.fqEntry sp).map (·.1) = some ws) ∧ (fqOp ws = 8) ∧ ((((s.fqEntry sp).map (·.2)).getD s).lv.cut = false) ∧ (fqDescOk ws = false) :=
  ⟨stFq (fqW 8 0 []), .inst 3, fqW 8 0 [], by decide⟩
theorem witness_issue_ok : ∃ (s : State) (sp : Space) (so : SegOp) (ctr : Option Nat) (ws : List Word) (m : Import), (s.fabric.imports.find (fqImport ws) = some m) ∧ (m.holder = sp ∧ m.suspect = false ∧ m.perm / 2 ^ opPerm so % 2 = 1) ∧ ((s.fstream (spaceIdx sp)).ops.all (fun o => decide (o.id ≠ (s.fstream (spaceIdx sp)).nextOp)) = true) :=
  ⟨stFq [], .inst 3, .read 4, none, [3, 7], { holder := .inst 3, home := 0x0102, region := 5, grant := 6, key := 9, perm := 15, suspect := false }, by decide⟩
theorem witness_issue_refused : ∃ (s : State) (sp : Space) (so : SegOp) (ctr : Option Nat) (ws : List Word), s.fabric.imports.find (fqImport ws) = none :=
  ⟨stFq [], .inst 3, .read 4, none, [3, 8], by decide⟩
theorem witness_issue_suspect : ∃ (s : State) (sp : Space) (h p : Nat) (m : Import), (s.fabric.imports.find h = some m) ∧ (m.holder = sp ∧ m.suspect = true ∧ m.perm / 2 ^ p % 2 = 1) :=
  ⟨{ State.reset with fabric := { FabricSt.reset with imports := [(7, { holder := .inst 3, home := 0x0102, region := 5, grant := 6, key := 9, perm := 15, suspect := true })] } }, .inst 3, 7, 1, { holder := .inst 3, home := 0x0102, region := 5, grant := 6, key := 9, perm := 15, suspect := true }, by decide⟩
theorem witness_put_segment : ∃ (s : State) (sp : Space) (c : Issuing), (fqOp c.words = 0x01) ∧ (s.importCode sp (fqImport c.words) 1 = .ok) ∧ ((s.loadDev sp (fqLva c.words + 512 * c.next) (min 512 (fqLen c.words - 512 * c.next))).1 = .ok) :=
  ⟨stFq [], .inst 3, { words := fqW 1 0 [0, 0, 0x20000, 0, 4], op := 0, next := 0, total := 1 }, by decide⟩
theorem witness_get_segment : ∃ (s : State) (sp : Space) (c : Issuing), (fqOp c.words = 0x02) ∧ (s.importCode sp (fqImport c.words) 0 = .ok) ∧ (s.accCode sp (fqLva c.words + 512 * c.next) (min 512 (fqLen c.words - 512 * c.next)) = .ok) :=
  ⟨stFq [], .inst 3, { words := fqW 2 0 [0, 0, 0x20000, 0, 4], op := 0, next := 0, total := 1 }, by decide⟩
set_option maxRecDepth 20000 in
theorem witness_issue_limit : ∃ (s : State) (sp : Space) (n : Nat) (c : Issuing), ((s.fstream (spaceIdx sp)).cur = some c ∧ c.next < c.total) ∧ (1024 ≤ (s.fstream (spaceIdx sp)).unacked.length) ∧ (s.squashes sp = false) :=
  ⟨{ State.reset with fabric := { FabricSt.reset with streams := [(3, { FStream.new with cur := some { words := [], op := 0, next := 0, total := 1 }, unacked := List.replicate 1024 { seg := { src := 0, stream := 3, seq := 0, region := 0, grant := 0, key := 0, offset := 0, op := .read 4, ctr := none, mstore := false, tag := 0 }, import_ := 7, home := 0, port := none, op := 0, lva := 0, retry := false } })] } }, .inst 3, 2, { words := [], op := 0, next := 0, total := 1 }, by decide⟩
theorem witness_issue_squashed : ∃ (s : State) (sp : Space) (n : Nat) (c : Issuing), ((s.fstream (spaceIdx sp)).cur = some c) ∧ (s.squashes sp = true) :=
  ⟨{ stFq [] with insts := [(3, { stInstA with phase := .squashing })], fabric := { FabricSt.reset with streams := [(3, { FStream.new with cur := some { words := [], op := 0, next := 0, total := 1 } })] } }, .inst 3, 2, { words := [], op := 0, next := 0, total := 1 }, by decide⟩
theorem witness_fence_waits : ∃ (s : State) (sp : Space), ((s.fstream (spaceIdx sp)).unacked ≠ []) ∧ ((s.fstream (spaceIdx sp)).ops.all (fun o => o.fence || decide (o.left ≠ 0)) = true) :=
  ⟨{ State.reset with fabric := { FabricSt.reset with streams := [(3, { FStream.new with unacked := [{ seg := { src := 0, stream := 3, seq := 0, region := 0, grant := 0, key := 0, offset := 0, op := .read 4, ctr := none, mstore := false, tag := 0 }, import_ := 7, home := 0, port := none, op := 0, lva := 0, retry := false }] })] } }, .inst 3, by decide⟩
theorem witness_fence_ends : ∃ (s : State) (sp : Space) (o : FabOp), (s.fstream (spaceIdx sp)).unacked = [] ∧ (s.fstream (spaceIdx sp)).cur = none ∧ (s.fstream (spaceIdx sp)).ops = [o] ∧ o.fence = true :=
  ⟨{ State.reset with fabric := { FabricSt.reset with streams := [(3, { FStream.new with ops := [{ id := 0, opc := 8, ticket := 1, quiet := false, fence := true, left := 0, code := .ok, result := 0, data := [], lctr := none, issued := 0 }] })] } }, .inst 3, { id := 0, opc := 8, ticket := 1, quiet := false, fence := true, left := 0, code := .ok, result := 0, data := [], lctr := none, issued := 0 }, by decide⟩
theorem witness_fc_written : ∃ (s : State) (sp : Space) (a b : Word) (r : List Word), ((s.fstream (spaceIdx sp)).fcWait = []) ∧ (s.fcRoom sp = true) :=
  ⟨stFq [], .inst 3, 5, 0, [1, 2], by decide⟩
theorem witness_fc_full : ∃ (s : State) (sp : Space) (ws : List Word), s.fcRoom sp = false :=
  ⟨State.reset, .inst 3, [1, 2], by decide⟩
theorem witness_region_open : ∃ (s : State) (sp : Space) (ws : List Word), ((s.fqEntry sp).map (·.1) = some ws) ∧ (fqOp ws = 16) ∧ ((((s.fqEntry sp).map (·.2)).getD s).lv.cut = false) ∧ (fqDescOk ws = true) ∧ (fqOffset ws % 65536 = 0 ∧ 1 ≤ fqLen ws ∧ (((s.fqEntry sp).map (·.2)).getD s).inDevice sp (fqOffset ws) (fqLen ws * 65536) = true) ∧ (fld (wAt ws 7) 27 16 ≤ 2048 ∧ fld (wAt ws 7) 15 0 + fld (wAt ws 7) 27 16 ≤ 65536) ∧ ((List.range (fld (wAt ws 7) 27 16)).all (fun j => (((s.fqEntry sp).map (·.2)).getD s).ctrHeld ((((s.fqEntry sp).map (·.2)).getD s).domainOf sp) (fld (wAt ws 7) 15 0 + j)) = true) ∧ ((((s.fqEntry sp).map (·.2)).getD s).fabric.regions.length < 16384) :=
  ⟨stFq ((fqW 0x10 0 [0x20000, 0, 0, 0, 1]).set 1 1), .inst 3, (fqW 0x10 0 [0x20000, 0, 0, 0, 1]).set 1 1, by decide⟩
theorem witness_region_bad : ∃ (s : State) (sp : Space) (ws : List Word), ((s.fqEntry sp).map (·.1) = some ws) ∧ (fqOp ws = 16) ∧ ((((s.fqEntry sp).map (·.2)).getD s).lv.cut = false) ∧ (fqDescOk ws = true) ∧ (fqOffset ws % 65536 ≠ 0 ∨ fqLen ws = 0 ∨ 2048 < fld (wAt ws 7) 27 16) :=
  ⟨stFq ((fqW 0x10 0 [0x20001, 0, 0, 0, 1]).set 1 1), .inst 3, (fqW 0x10 0 [0x20001, 0, 0, 0, 1]).set 1 1, by decide⟩
theorem witness_free_pick : ∃ (s : State) (used : List Nat) (n : Nat), used.length < n :=
  ⟨State.reset, [], 16384, by decide⟩
theorem witness_region_close : ∃ (s : State) (sp : Space) (ws : List Word) (x : Region), ((s.fqEntry sp).map (·.1) = some ws) ∧ (fqOp ws = 17) ∧ ((((s.fqEntry sp).map (·.2)).getD s).lv.cut = false) ∧ (fqDescOk ws = true) ∧ ((((s.fqEntry sp).map (·.2)).getD s).fabric.regions.find (fld (wAt ws 1) 13 0) = some x ∧ x.owner = sp) :=
  ⟨stFqR ((fqW 0x11 0 []).set 1 5), .inst 3, (fqW 0x11 0 []).set 1 5, { owner := .inst 3, base := 0x20000, pages := 1, atomic := false, ctrBase := 0, ctrN := 0 }, by decide⟩
theorem witness_close_denied : ∃ (s : State) (sp : Space) (ws : List Word), ((s.fqEntry sp).map (·.1) = some ws) ∧ (fqOp ws = 17) ∧ ((((s.fqEntry sp).map (·.2)).getD s).lv.cut = false) ∧ (fqDescOk ws = true) ∧ ((((s.fqEntry sp).map (·.2)).getD s).ownsRegion sp (fld (wAt ws 1) 13 0) = false) :=
  ⟨stFqR ((fqW 0x11 0 []).set 1 6), .inst 3, (fqW 0x11 0 []).set 1 6, by decide⟩
theorem witness_fq_grant : ∃ (s : State) (sp : Space) (ws : List Word), ((s.fqEntry sp).map (·.1) = some ws) ∧ (fqOp ws = 18) ∧ ((((s.fqEntry sp).map (·.2)).getD s).lv.cut = false) ∧ (fqDescOk ws = true) ∧ ((((s.fqEntry sp).map (·.2)).getD s).ownsRegion sp (fld (wAt ws 1) 13 0) = true) ∧ ((((s.fqEntry sp).map (·.2)).getD s).fabric.grants.length < 65536) :=
  ⟨{ stFqR ((fqW 0x12 0 [0, 0, 0, 0, 3, 0x304]).set 1 5) with fabric := { (stFqR []).fabric with grants := [] } }, .inst 3, (fqW 0x12 0 [0, 0, 0, 0, 3, 0x304]).set 1 5, by decide⟩
theorem witness_grant_denied : ∃ (s : State) (sp : Space) (ws : List Word), ((s.fqEntry sp).map (·.1) = some ws) ∧ (fqOp ws = 18) ∧ ((((s.fqEntry sp).map (·.2)).getD s).lv.cut = false) ∧ (fqDescOk ws = true) ∧ ((((s.fqEntry sp).map (·.2)).getD s).ownsRegion sp (fld (wAt ws 1) 13 0) = false) :=
  ⟨stFqR ((fqW 0x12 0 [0, 0, 0, 0, 3, 0x304]).set 1 4), .inst 3, (fqW 0x12 0 [0, 0, 0, 0, 3, 0x304]).set 1 4, by decide⟩
theorem witness_revoke : ∃ (s : State) (sp : Space) (ws : List Word) (g : Grant), ((s.fqEntry sp).map (·.1) = some ws) ∧ (fqOp ws = 19) ∧ ((((s.fqEntry sp).map (·.2)).getD s).lv.cut = false) ∧ (fqDescOk ws = true) ∧ ((((s.fqEntry sp).map (·.2)).getD s).fabric.grants.find (fld (wAt ws 1) 15 0) = some g ∧ (((s.fqEntry sp).map (·.2)).getD s).ownsRegion sp g.region = true) :=
  ⟨stFqR ((fqW 0x13 0 []).set 1 6), .inst 3, (fqW 0x13 0 []).set 1 6, { region := 5, module_ := 0x0304, key := 9, perm := 15 }, by decide⟩
theorem witness_revoke_denied : ∃ (s : State) (sp : Space) (ws : List Word), ((s.fqEntry sp).map (·.1) = some ws) ∧ (fqOp ws = 19) ∧ ((((s.fqEntry sp).map (·.2)).getD s).lv.cut = false) ∧ (fqDescOk ws = true) ∧ ((((s.fqEntry sp).map (·.2)).getD s).fabric.grants.find (fld (wAt ws 1) 15 0) = none) :=
  ⟨stFqR ((fqW 0x13 0 []).set 1 5), .inst 3, (fqW 0x13 0 []).set 1 5, by decide⟩
theorem witness_fq_import : ∃ (s : State) (sp : Space) (ws : List Word), ((s.fqEntry sp).map (·.1) = some ws) ∧ (fqOp ws = 20) ∧ ((((s.fqEntry sp).map (·.2)).getD s).lv.cut = false) ∧ (fqDescOk ws = true) ∧ ((((s.fqEntry sp).map (·.2)).getD s).fabric.imports.length < 65536) :=
  ⟨{ stFq ((fqW 0x14 0 [6, 0, 0, 0, 3, 0x304, 9]).set 1 5) with fabric := FabricSt.reset }, .inst 3, (fqW 0x14 0 [6, 0, 0, 0, 3, 0x304, 9]).set 1 5, by decide⟩
theorem witness_unimport : ∃ (s : State) (sp : Space) (ws : List Word) (m : Import), ((s.fqEntry sp).map (·.1) = some ws) ∧ (fqOp ws = 21) ∧ ((((s.fqEntry sp).map (·.2)).getD s).lv.cut = false) ∧ (fqDescOk ws = true) ∧ ((((s.fqEntry sp).map (·.2)).getD s).fabric.imports.find (fqImport ws) = some m ∧ m.holder = sp) :=
  ⟨stFq ((fqW 0x15 0 [])), .inst 3, (fqW 0x15 0 []), { holder := .inst 3, home := 0x0102, region := 5, grant := 6, key := 9, perm := 15, suspect := false }, by decide⟩
theorem witness_unimport_denied : ∃ (s : State) (sp : Space) (ws : List Word) (m : Import), ((s.fqEntry sp).map (·.1) = some ws) ∧ (fqOp ws = 21) ∧ ((((s.fqEntry sp).map (·.2)).getD s).lv.cut = false) ∧ (fqDescOk ws = true) ∧ ((((s.fqEntry sp).map (·.2)).getD s).fabric.imports.find (fqImport ws) = some m ∧ m.holder ≠ sp) :=
  ⟨{ stFq (fqW 0x15 0 []) with fabric := { FabricSt.reset with imports := [(7, { holder := .inst 4, home := 0x0102, region := 5, grant := 6, key := 9, perm := 15, suspect := false })] } }, .inst 3, fqW 0x15 0 [], { holder := .inst 4, home := 0x0102, region := 5, grant := 6, key := 9, perm := 15, suspect := false }, by decide⟩
theorem witness_import_clear : ∃ (s : State) (sp : Space) (ws : List Word) (m : Import), ((s.fqEntry sp).map (·.1) = some ws) ∧ (fqOp ws = 22) ∧ ((((s.fqEntry sp).map (·.2)).getD s).lv.cut = false) ∧ (fqDescOk ws = true) ∧ ((((s.fqEntry sp).map (·.2)).getD s).fabric.imports.find (fqImport ws) = some m ∧ m.holder = sp) :=
  ⟨stFq ((fqW 0x16 0 [])), .inst 3, (fqW 0x16 0 []), { holder := .inst 3, home := 0x0102, region := 5, grant := 6, key := 9, perm := 15, suspect := false }, by decide⟩
theorem witness_fq_doorbell : ∃ (s : State) (i : InstId) (v : Word), (s.pwr.phase = .running) ∧ ((s.inst i.val).phase = .active) ∧ (idxGap (s.fstream i.val).fqHead (fld v 15 0) ≤ s.ringLen (pgMbx i.val) 0x400) ∧ (idxGap (s.fstream i.val).fqHead (s.ringIdx (pgMbx i.val) 0x400) ≤ idxGap (s.fstream i.val).fqHead (fld v 15 0)) :=
  ⟨stFq [], 3, 2, by decide⟩
theorem witness_fq_doorbell_bad : ∃ (s : State) (i : InstId) (v : Word), (s.pwr.phase = .running) ∧ ((s.inst i.val).phase = .active) ∧ (s.ringLen (pgMbx i.val) 0x400 < idxGap (s.fstream i.val).fqHead (fld v 15 0)) :=
  ⟨stFq [], 3, 60, by decide⟩
theorem witness_fc_head : ∃ (s : State) (i : InstId) (v : Word), (s.pwr.phase = .running) ∧ ((s.inst i.val).phase = .active) ∧ (idxGap (s.ringIdx (pgMbx i.val) 0x420) (fld v 15 0) ≤ idxGap (s.ringIdx (pgMbx i.val) 0x420) (s.fstream i.val).fcTail) ∧ ((s.fstream i.val).fcWait = [] ∧ (s.fstream i.val).paused = false) :=
  ⟨{ stFq [] with fabric := { FabricSt.reset with streams := [(3, { FStream.new with fcTail := 2 })] } }, 3, 1, by decide⟩
theorem witness_fc_head_bad : ∃ (s : State) (i : InstId) (v : Word), (s.pwr.phase = .running) ∧ ((s.inst i.val).phase = .active) ∧ (idxGap (s.ringIdx (pgMbx i.val) 0x420) (s.fstream i.val).fcTail < idxGap (s.ringIdx (pgMbx i.val) 0x420) (fld v 15 0)) :=
  ⟨stFq [], 3, 1, by decide⟩

/-! FabricDelivery: states and operands that meet the hypotheses. -/

set_option maxRecDepth 20000 in
theorem witness_seg_new : ∃ (s : State) (x : Segment) (r : Region), (s.lv.cut = false) ∧ (s.modValid = true) ∧ (s.replayed 3 = false) ∧ ((s.windowTouch x).homeCode x = .ok) ∧ ((s.windowTouch x).fabric.regions.find x.region = some r) ∧ ((s.windowTouch x).unitWait (.seg x) x.tag [segExtent r x] = none) ∧ (((s.windowTouch x).portAsks { who := ckxReq ((s.windowTouch x).segPort x), work := .seg x, tag := x.tag, late := x.late } ((s.windowTouch x).domainOf r.owner) ((s.windowTouch x).accPoints (pageDie (pgCkx ((s.windowTouch x).segPort x))) r.owner (r.base + x.offset) (segLen x.op))).1 = true) ∧ ((((s.windowTouch x).portAsks { who := ckxReq ((s.windowTouch x).segPort x), work := .seg x, tag := x.tag, late := x.late } ((s.windowTouch x).domainOf r.owner) ((s.windowTouch x).accPoints (pageDie (pgCkx ((s.windowTouch x).segPort x))) r.owner (r.base + x.offset) (segLen x.op))).2.agent ((s.windowTouch x).regionDie r)).queues r x = false) ∧ ((((s.windowTouch x).portAsks { who := ckxReq ((s.windowTouch x).segPort x), work := .seg x, tag := x.tag, late := x.late } ((s.windowTouch x).domainOf r.owner) ((s.windowTouch x).accPoints (pageDie (pgCkx ((s.windowTouch x).segPort x))) r.owner (r.base + x.offset) (segLen x.op))).2.windowTake (((s.windowTouch x).portAsks { who := ckxReq ((s.windowTouch x).segPort x), work := .seg x, tag := x.tag, late := x.late } ((s.windowTouch x).domainOf r.owner) ((s.windowTouch x).accPoints (pageDie (pgCkx ((s.windowTouch x).segPort x))) r.owner (r.base + x.offset) (segLen x.op))).2.regionDie r) x.src x.stream x.seq).map (·.1) = some true) :=
  ⟨stSeg, segW, { owner := .inst 3, base := 0x20000, pages := 1, atomic := false, ctrBase := 0, ctrN := 0 }, by decide⟩
set_option maxRecDepth 20000 in
theorem witness_seg_dup : ∃ (s : State) (x : Segment) (r : Region), (s.lv.cut = false) ∧ (s.modValid = true) ∧ (s.replayed 3 = false) ∧ ((s.windowTouch x).homeCode x = .ok) ∧ ((s.windowTouch x).fabric.regions.find x.region = some r) ∧ ((s.windowTouch x).unitWait (.seg x) x.tag [segExtent r x] = none) ∧ (((s.windowTouch x).portAsks { who := ckxReq ((s.windowTouch x).segPort x), work := .seg x, tag := x.tag, late := x.late } ((s.windowTouch x).domainOf r.owner) ((s.windowTouch x).accPoints (pageDie (pgCkx ((s.windowTouch x).segPort x))) r.owner (r.base + x.offset) (segLen x.op))).1 = true) ∧ ((((s.windowTouch x).portAsks { who := ckxReq ((s.windowTouch x).segPort x), work := .seg x, tag := x.tag, late := x.late } ((s.windowTouch x).domainOf r.owner) ((s.windowTouch x).accPoints (pageDie (pgCkx ((s.windowTouch x).segPort x))) r.owner (r.base + x.offset) (segLen x.op))).2.agent ((s.windowTouch x).regionDie r)).queues r x = false) ∧ ((((s.windowTouch x).portAsks { who := ckxReq ((s.windowTouch x).segPort x), work := .seg x, tag := x.tag, late := x.late } ((s.windowTouch x).domainOf r.owner) ((s.windowTouch x).accPoints (pageDie (pgCkx ((s.windowTouch x).segPort x))) r.owner (r.base + x.offset) (segLen x.op))).2.windowTake (((s.windowTouch x).portAsks { who := ckxReq ((s.windowTouch x).segPort x), work := .seg x, tag := x.tag, late := x.late } ((s.windowTouch x).domainOf r.owner) ((s.windowTouch x).accPoints (pageDie (pgCkx ((s.windowTouch x).segPort x))) r.owner (r.base + x.offset) (segLen x.op))).2.regionDie r) x.src x.stream x.seq).map (·.1) = some false) ∧ (opPerm x.op = 1 ∨ opPerm x.op = 2) :=
  ⟨stSeg.setAgent 0 { wins := [{ src := 0x0304, stream := 9, base := 0, bits := [5], lastAt := 0 }], hot := [], exact := [] }, segW, { owner := .inst 3, base := 0x20000, pages := 1, atomic := false, ctrBase := 0, ctrN := 0 }, by decide⟩
set_option maxRecDepth 20000 in
theorem witness_seg_dup_read : ∃ (s : State) (x : Segment) (r : Region) (n : Nat), (s.lv.cut = false) ∧ (s.modValid = true) ∧ (s.replayed 3 = false) ∧ ((s.windowTouch x).homeCode x = .ok) ∧ ((s.windowTouch x).fabric.regions.find x.region = some r) ∧ ((s.windowTouch x).unitWait (.seg x) x.tag [segExtent r x] = none) ∧ (((s.windowTouch x).portAsks { who := ckxReq ((s.windowTouch x).segPort x), work := .seg x, tag := x.tag, late := x.late } ((s.windowTouch x).domainOf r.owner) ((s.windowTouch x).accPoints (pageDie (pgCkx ((s.windowTouch x).segPort x))) r.owner (r.base + x.offset) (segLen x.op))).1 = true) ∧ ((((s.windowTouch x).portAsks { who := ckxReq ((s.windowTouch x).segPort x), work := .seg x, tag := x.tag, late := x.late } ((s.windowTouch x).domainOf r.owner) ((s.windowTouch x).accPoints (pageDie (pgCkx ((s.windowTouch x).segPort x))) r.owner (r.base + x.offset) (segLen x.op))).2.agent ((s.windowTouch x).regionDie r)).queues r x = false) ∧ ((((s.windowTouch x).portAsks { who := ckxReq ((s.windowTouch x).segPort x), work := .seg x, tag := x.tag, late := x.late } ((s.windowTouch x).domainOf r.owner) ((s.windowTouch x).accPoints (pageDie (pgCkx ((s.windowTouch x).segPort x))) r.owner (r.base + x.offset) (segLen x.op))).2.windowTake (((s.windowTouch x).portAsks { who := ckxReq ((s.windowTouch x).segPort x), work := .seg x, tag := x.tag, late := x.late } ((s.windowTouch x).domainOf r.owner) ((s.windowTouch x).accPoints (pageDie (pgCkx ((s.windowTouch x).segPort x))) r.owner (r.base + x.offset) (segLen x.op))).2.regionDie r) x.src x.stream x.seq).map (·.1) = some false) ∧ (x.op = .read n) :=
  ⟨stSeg.setAgent 0 { wins := [{ src := 0x0304, stream := 9, base := 0, bits := [5], lastAt := 0 }], hot := [], exact := [] }, { segW with op := .read 4 }, { owner := .inst 3, base := 0x20000, pages := 1, atomic := false, ctrBase := 0, ctrN := 0 }, 4, by decide⟩
set_option maxRecDepth 20000 in
theorem witness_seg_no_window : ∃ (s : State) (x : Segment) (r : Region), (s.lv.cut = false) ∧ (s.modValid = true) ∧ (s.replayed 3 = false) ∧ ((s.windowTouch x).homeCode x = .ok) ∧ ((s.windowTouch x).fabric.regions.find x.region = some r) ∧ ((s.windowTouch x).unitWait (.seg x) x.tag [segExtent r x] = none) ∧ (((s.windowTouch x).portAsks { who := ckxReq ((s.windowTouch x).segPort x), work := .seg x, tag := x.tag, late := x.late } ((s.windowTouch x).domainOf r.owner) ((s.windowTouch x).accPoints (pageDie (pgCkx ((s.windowTouch x).segPort x))) r.owner (r.base + x.offset) (segLen x.op))).1 = true) ∧ ((((s.windowTouch x).portAsks { who := ckxReq ((s.windowTouch x).segPort x), work := .seg x, tag := x.tag, late := x.late } ((s.windowTouch x).domainOf r.owner) ((s.windowTouch x).accPoints (pageDie (pgCkx ((s.windowTouch x).segPort x))) r.owner (r.base + x.offset) (segLen x.op))).2.agent ((s.windowTouch x).regionDie r)).queues r x = false) ∧ ((((s.windowTouch x).portAsks { who := ckxReq ((s.windowTouch x).segPort x), work := .seg x, tag := x.tag, late := x.late } ((s.windowTouch x).domainOf r.owner) ((s.windowTouch x).accPoints (pageDie (pgCkx ((s.windowTouch x).segPort x))) r.owner (r.base + x.offset) (segLen x.op))).2.windowTake (((s.windowTouch x).portAsks { who := ckxReq ((s.windowTouch x).segPort x), work := .seg x, tag := x.tag, late := x.late } ((s.windowTouch x).domainOf r.owner) ((s.windowTouch x).accPoints (pageDie (pgCkx ((s.windowTouch x).segPort x))) r.owner (r.base + x.offset) (segLen x.op))).2.regionDie r) x.src x.stream x.seq).map (·.1) = none) :=
  ⟨stSeg.setAgent 0 { wins := List.replicate 4096 { src := 1, stream := 1, base := 0, bits := [], lastAt := 0 }, hot := [], exact := [] }, segW, { owner := .inst 3, base := 0x20000, pages := 1, atomic := false, ctrBase := 0, ctrN := 0 }, by decide⟩
set_option maxRecDepth 20000 in
theorem witness_seg_queued : ∃ (s : State) (x : Segment) (r : Region), (s.lv.cut = false) ∧ (s.modValid = true) ∧ (s.replayed 3 = false) ∧ ((s.windowTouch x).homeCode x = .ok) ∧ ((s.windowTouch x).fabric.regions.find x.region = some r) ∧ ((s.windowTouch x).unitWait (.seg x) x.tag [segExtent r x] = none) ∧ (((s.windowTouch x).portAsks { who := ckxReq ((s.windowTouch x).segPort x), work := .seg x, tag := x.tag, late := x.late } ((s.windowTouch x).domainOf r.owner) ((s.windowTouch x).accPoints (pageDie (pgCkx ((s.windowTouch x).segPort x))) r.owner (r.base + x.offset) (segLen x.op))).1 = true) ∧ ((((s.windowTouch x).portAsks { who := ckxReq ((s.windowTouch x).segPort x), work := .seg x, tag := x.tag, late := x.late } ((s.windowTouch x).domainOf r.owner) ((s.windowTouch x).accPoints (pageDie (pgCkx ((s.windowTouch x).segPort x))) r.owner (r.base + x.offset) (segLen x.op))).2.agent ((s.windowTouch x).regionDie r)).queues r x = true) :=
  ⟨stSeg.setAgent 0 { wins := [], hot := [{ key := (devKey 3 0x20000 + 0x100) / 128, times := [], buf := some 0 }], exact := [] }, segW, { owner := .inst 3, base := 0x20000, pages := 1, atomic := false, ctrBase := 0, ctrN := 0 }, by decide⟩
theorem witness_hot_turn : ∃ (s : State) (die key : Nat) (q : Segment × Region), ((s.agent die).nextAt (hotCred (s.inForce (pgCkx (16 + die)) 0x0C0)) key = some q) ∧ (s.unitWait (.seg q.1) q.1.tag [segExtent q.2 q.1] = none) ∧ (s.fabric.regions.find q.1.region = some q.2) :=
  ⟨stSeg.setAgent 0 { wins := [], hot := [{ key := (devKey 3 0x20000 + 0x100) / 128, times := [], buf := some 0 }], exact := [], queue := [(segW, { owner := .inst 3, base := 0x20000, pages := 1, atomic := false, ctrBase := 0, ctrN := 0 })] }, 0, (devKey 3 0x20000 + 0x100) / 128, (segW, { owner := .inst 3, base := 0x20000, pages := 1, atomic := false, ctrBase := 0, ctrN := 0 }), by decide⟩
theorem witness_seg_waits : ∃ (s : State) (x : Segment) (r : Region) (pk : Nat) (bs : List Byte), (s.lv.cut = false) ∧ (s.modValid = true) ∧ (s.replayed 3 = false) ∧ ((s.windowTouch x).homeCode x = .ok) ∧ ((s.windowTouch x).fabric.regions.find x.region = some r) ∧ ((s.windowTouch x).firstWait r.owner (r.base + x.offset) (segLen x.op) true = some (pk, true)) ∧ (x.op = .write bs) ∧ ((s.windowTouch x).mems.homes.all (fun p => p.2.waiters.isEmpty) = true) :=
  ⟨{ stSeg with mems := { MemSt.empty with homes := [(pageKeyOf 3 2, { Home.fresh with tier := .t3 })] } }, segW, { owner := .inst 3, base := 0x20000, pages := 1, atomic := false, ctrBase := 0, ctrN := 0 }, pageKeyOf 3 2, [1, 2, 3, 4], by decide⟩
set_option maxRecDepth 20000 in
theorem witness_seg_held : ∃ (s : State) (x : Segment) (r : Region), (s.lv.cut = false) ∧ (s.modValid = true) ∧ (s.replayed 3 = false) ∧ ((s.windowTouch x).homeCode x = .ok) ∧ ((s.windowTouch x).fabric.regions.find x.region = some r) ∧ ((s.windowTouch x).unitWait (.seg x) x.tag [segExtent r x] = none) ∧ (((s.windowTouch x).portAsks { who := ckxReq ((s.windowTouch x).segPort x), work := .seg x, tag := x.tag, late := x.late } ((s.windowTouch x).domainOf r.owner) ((s.windowTouch x).accPoints (pageDie (pgCkx ((s.windowTouch x).segPort x))) r.owner (r.base + x.offset) (segLen x.op))).1 = false) :=
  ⟨{ stSeg with mems := { stSeg.mems with held := [{ who := 128, work := .post .dom0 0x20000 [3], tag := 9, late := false }] } }, segW, { owner := .inst 3, base := 0x20000, pages := 1, atomic := false, ctrBase := 0, ctrN := 0 }, by decide⟩
theorem witness_hot_credit : ∃ (s : State) (die : Nat) (q : Segment × Region), (s.agent die).credit (hotCred (s.inForce (pgCkx (16 + die)) 0x0C0)) (s.agent die).outside q = true :=
  ⟨stSeg, 0, (segW, { owner := .inst 3, base := 0x20000, pages := 1, atomic := false, ctrBase := 0, ctrN := 0 }), by decide⟩
theorem witness_hot_no_credit : ∃ (s : State) (die : Nat) (q : Segment × Region), (s.agent die).credit (hotCred (s.inForce (pgCkx (16 + die)) 0x0C0)) (s.agent die).outside q = false :=
  ⟨stSeg.setAgent 0 { wins := [], hot := [], exact := [], outside := [({ segW with seq := 4 }, { owner := .inst 3, base := 0x20000, pages := 1, atomic := false, ctrBase := 0, ctrN := 0 })] }, 0, (segW, { owner := .inst 3, base := 0x20000, pages := 1, atomic := false, ctrBase := 0, ctrN := 0 }), by decide⟩
theorem witness_seg_refused : ∃ (s : State) (x : Segment), (s.lv.cut = false) ∧ (s.modValid = true) ∧ (s.replayed 3 = false) ∧ ((s.windowTouch x).homeCode x ≠ .ok) :=
  ⟨State.reset.setReg (pgCkx 32) 0x010 0x10201, segW, by decide⟩
theorem witness_seg_fenced : ∃ (s : State) (x : Segment), s.lv.cut = true :=
  ⟨{ State.reset with fabric := { FabricSt.reset with lv := { LvSt.reset with state := .fenced, cut := true } } }, segW, by decide⟩
theorem witness_home_revoked : ∃ (s : State) (x : Segment), s.lv.revoke.any (fun e => decide (e.module_ = x.src)) = true :=
  ⟨{ State.reset with fabric := { FabricSt.reset with lv := { LvSt.reset with revoke := [{ module_ := 0x0304, swept := false }] } } }, segW, by decide⟩
theorem witness_home_key : ∃ (s : State) (x : Segment) (g : Grant), (s.lv.revoke = []) ∧ (s.fabric.grants.find x.grant = some g) ∧ (g.module_ ≠ x.src ∨ g.region ≠ x.region ∨ g.key ≠ x.key) :=
  ⟨stSeg, { segW with key := 8 }, { region := 5, module_ := 0x0304, key := 9, perm := 15 }, by decide⟩
theorem witness_home_extent : ∃ (s : State) (x : Segment) (g : Grant) (r : Region), (s.lv.revoke = []) ∧ (s.fabric.grants.find x.grant = some g) ∧ (s.fabric.regions.find x.region = some r) ∧ (g.module_ = x.src ∧ g.region = x.region ∧ g.key = x.key) ∧ (r.pages * 65536 < x.offset + segLen x.op) :=
  ⟨stSeg, { segW with offset := 65533 }, { region := 5, module_ := 0x0304, key := 9, perm := 15 }, { owner := .inst 3, base := 0x20000, pages := 1, atomic := false, ctrBase := 0, ctrN := 0 }, by decide⟩
theorem witness_home_ok : ∃ (s : State) (x : Segment) (g : Grant) (r : Region), (s.lv.revoke = []) ∧ (s.fabric.grants.find x.grant = some g) ∧ (s.fabric.regions.find x.region = some r) ∧ (g.module_ = x.src ∧ g.region = x.region ∧ g.key = x.key) ∧ (x.offset + segLen x.op ≤ r.pages * 65536) ∧ (g.perm = 15 ∧ r.atomic = false ∧ opPerm x.op ≠ 3 ∧ x.ctr = none) :=
  ⟨stSeg, segW, { region := 5, module_ := 0x0304, key := 9, perm := 15 }, { owner := .inst 3, base := 0x20000, pages := 1, atomic := false, ctrBase := 0, ctrN := 0 }, by decide⟩
theorem witness_window_new : ∃ (s : State) (die src stream seq : Nat), ((s.agent die).wins.find? (fun w => decide (w.src = src) && decide (w.stream = stream)) = none) ∧ ((s.agent die).wins.length < 4096) :=
  ⟨State.reset, 0, 1, 2, 3, by decide⟩
theorem witness_window_seen : ∃ (s : State) (die src stream seq : Nat) (w : DupWin), ((s.agent die).wins.find? (fun w => decide (w.src = src) && decide (w.stream = stream)) = some w) ∧ (let rel := (seq + 2 ^ 24 - w.base) % 2 ^ 24; (rel < 1024 ∧ rel ∈ w.bits) ∨ 2 ^ 23 ≤ rel) :=
  ⟨State.reset.setAgent 0 { wins := [{ src := 1, stream := 2, base := 3, bits := [4], lastAt := 0 }], hot := [], exact := [] }, 0, 1, 2, 7, { src := 1, stream := 2, base := 3, bits := [4], lastAt := 0 }, by decide⟩
theorem witness_window_unseen : ∃ (s : State) (die src stream seq : Nat) (w : DupWin), ((s.agent die).wins.find? (fun w => decide (w.src = src) && decide (w.stream = stream)) = some w) ∧ ((seq + 2 ^ 24 - w.base) % 2 ^ 24 < 2 ^ 23 ∧ w.bits.all (fun b => decide (b ≠ (seq + 2 ^ 24 - w.base) % 2 ^ 24)) = true) :=
  ⟨State.reset.setAgent 0 { wins := [{ src := 1, stream := 2, base := 3, bits := [4], lastAt := 0 }], hot := [], exact := [] }, 0, 1, 2, 9, { src := 1, stream := 2, base := 3, bits := [4], lastAt := 0 }, by decide⟩
theorem witness_ack_settles : ∃ (s : State) (a : SegAck) (x : Unacked) (o : FabOp), (s.lv.cut = false) ∧ (s.squashes a.stream = false) ∧ ((s.fstream (spaceIdx a.stream)).unacked = [x] ∧ x.seg.seq = a.seq ∧ x.home = a.home) ∧ (a.retry = false ∧ a.status = 0) ∧ ((s.fstream (spaceIdx a.stream)).ops = [o] ∧ o.id = x.op ∧ o.fence = false ∧ o.left = 1 ∧ o.quiet = true ∧ o.code = .ok ∧ o.opc = 3 ∧ s.pastTag o.tag = false) ∧ ((s.fstream (spaceIdx a.stream)).cur = none) :=
  ⟨stUn [unackW] [{ opW with quiet := true }], { home := 0x0102, stream := .inst 3, seq := 5, status := 0, retry := false, data := [] }, unackW, { opW with quiet := true }, by decide⟩
theorem witness_ack_retry : ∃ (s : State) (a : SegAck), (s.lv.cut = false) ∧ (s.squashes a.stream = false) ∧ (a.retry = true) ∧ ((s.fstream (spaceIdx a.stream)).unacked.any (fun x => decide (x.seg.seq = a.seq) && decide (x.home = a.home)) = true) :=
  ⟨stUn [unackW] [opW], { home := 0x0102, stream := .inst 3, seq := 5, status := 0, retry := true, data := [] }, by decide⟩
theorem witness_ack_squashed : ∃ (s : State) (a : SegAck) (x : Unacked), (s.lv.cut = false) ∧ (s.squashes a.stream = true) ∧ ((s.fstream (spaceIdx a.stream)).unacked = [x] ∧ x.seg.seq = a.seq ∧ x.home = a.home) :=
  ⟨{ stUn [unackW] [opW] with insts := [(3, { Inst.free with phase := .squashing })] }, { home := 0x0102, stream := .inst 3, seq := 5, status := 0, retry := true, data := [] }, unackW, by decide⟩
theorem witness_ack_unknown : ∃ (s : State) (a : SegAck), (s.fstream (spaceIdx a.stream)).unacked = [] :=
  ⟨State.reset, { home := 0x0102, stream := .inst 3, seq := 5, status := 0, retry := true, data := [] }, by decide⟩
theorem witness_fence_timeout : ∃ (s : State) (sp : Space) (o : FabOp), ((s.fstream (spaceIdx sp)).ops.find? (·.fence) = some o) ∧ (o.issued + 1000 * max 1 (fld (s.reg (pgCkx 32) 0x014) 19 0) ≤ s.now) :=
  ⟨{ stUn [unackW] [{ opW with fence := true, opc := 8, left := 0 }] with time := { State.reset.time with ns := 2000000 } }, .inst 3, { opW with fence := true, opc := 8, left := 0 }, by decide⟩
theorem witness_fence_in_time : ∃ (s : State) (sp : Space), (s.fstream (spaceIdx sp)).ops.all (fun o => !o.fence || decide (s.now < o.issued + 1000 * max 1 (fld (s.reg (pgCkx 32) 0x014) 19 0))) = true :=
  ⟨stUn [unackW] [{ opW with fence := true, opc := 8, left := 0 }], .inst 3, by decide⟩
theorem witness_hot_leaves : ∃ (s : State) (d : DieId) (key t0 : Nat) (h : HotLine), ((s.agent d.val).hot.find? (fun h => decide (h.key = key)) = some h) ∧ (h.buf = some t0 ∧ t0 + 4000 ≤ s.now) ∧ (4 * (h.times.filter (fun t => decide (s.now < t + 4000))).length < max 1 (fld (s.inForce (pgCkx (16 + d.val)) 0x0C0) 7 0)) ∧ ((s.agent d.val).queue.all (fun q => !(segLines q.2 q.1).contains key) = true) :=
  ⟨({ State.reset with time := { State.reset.time with ns := 5000 } } : State).setAgent 0 { wins := [], hot := [{ key := 4, times := [900], buf := some 0 }], exact := [] }, 0, 4, 0, { key := 4, times := [900], buf := some 0 }, by decide⟩
theorem witness_hot_stays : ∃ (s : State) (d : DieId) (key t0 : Nat) (h : HotLine), ((s.agent d.val).hot.find? (fun h => decide (h.key = key)) = some h) ∧ (h.buf = some t0) ∧ (s.now < t0 + 4000 ∨ max 1 (fld (s.inForce (pgCkx (16 + d.val)) 0x0C0) 7 0) ≤ 4 * (h.times.filter (fun t => decide (s.now < t + 4000))).length) :=
  ⟨State.reset.setAgent 0 { wins := [], hot := [{ key := 4, times := [0], buf := some 0 }], exact := [] }, 0, 4, 0, { key := 4, times := [0], buf := some 0 }, by decide⟩
theorem witness_hot_cold : ∃ (s : State) (d : DieId) (key : Nat), ((s.agent d.val).hot.find? (fun h => decide (h.key = key))).all (fun h => h.buf.isNone) = true :=
  ⟨State.reset, 0, 4, by decide⟩
theorem witness_hot_enters : ∃ (s : State) (die key : Nat), ((s.agent die).hot = [{ key := key, times := List.replicate (max 1 (fld (s.inForce (pgCkx (16 + die)) 0x0C0) 7 0)) s.now, buf := none }]) ∧ ((s.home (key / 512)).tier = .t2) :=
  ⟨(stHome { Home.fresh with tier := .t2, frame := 7 } []).setAgent 0 { wins := [], hot := [{ key := pg0 * 512, times := List.replicate (max 1 (fld (State.reset.inForce (pgCkx 16) 0x0C0) 7 0)) 0, buf := none }], exact := [] }, 0, pg0 * 512, by decide⟩
theorem witness_bulk_home : ∃ (s : State) (g : LndId) (b : BulkTransfer), (s.lv.cut = false) ∧ (s.modValid = true) ∧ (b.dest = s.modId) :=
  ⟨stSeg, 1, { dest := 0x0201, crossed := [], segs := [] }, by decide⟩
theorem witness_bulk_loop : ∃ (s : State) (g : LndId) (b : BulkTransfer), (s.lv.cut = false) ∧ (s.modValid = true) ∧ (b.dest ≠ s.modId) ∧ (gwName s.modId g.val ∈ b.crossed ∨ 4 ≤ b.crossed.length) :=
  ⟨stSeg, 1, { dest := 0x0301, crossed := [1, 2, 3, 4], segs := [] }, by decide⟩
theorem witness_sweep : ∃ (s : State) (m : Fin 65536), s.lv.revoke.any (fun r => decide (r.module_ = m.val) && !r.swept) = true :=
  ⟨{ State.reset with fabric := { FabricSt.reset with lv := { LvSt.reset with revoke := [{ module_ := 5, swept := false }] } } }, 5, by decide⟩
theorem witness_sweep_none : ∃ (s : State) (m : Fin 65536), s.lv.revoke.all (fun r => decide (r.module_ ≠ m.val) || r.swept) = true :=
  ⟨State.reset, 5, by decide⟩

/-! Links: states and operands that meet the hypotheses. -/

theorem witness_pkt_good : ∃ (s : State) (p : CkxPort) (k : LinkPacket) (x : Segment), ((s.port p.val).state = .up) ∧ (s.modValid = true ∧ s.lv.cut = false) ∧ (k.crcOk = true) ∧ (k.body = .seg x) ∧ (k.seq = (s.port p.val).rxSeq) :=
  ⟨stPort portUpSt, 2, { seq := 0, crcOk := true, body := .seg segW }, segW, by decide⟩
theorem witness_pkt_again : ∃ (s : State) (p : CkxPort) (k : LinkPacket) (x : Segment), ((s.port p.val).state = .up) ∧ (s.modValid = true ∧ s.lv.cut = false) ∧ (k.crcOk = true) ∧ (k.body = .seg x) ∧ (k.seq ≠ (s.port p.val).rxSeq) ∧ (((s.port p.val).rxSeq + 2 ^ 24 - k.seq) % 2 ^ 24 < 2 ^ 23) :=
  ⟨stPort { portUpSt with rxSeq := 4 }, 2, { seq := 3, crcOk := true, body := .seg segW }, segW, by decide⟩
theorem witness_pkt_gap : ∃ (s : State) (p : CkxPort) (k : LinkPacket) (x : Segment), ((s.port p.val).state = .up) ∧ (s.modValid = true ∧ s.lv.cut = false) ∧ (k.crcOk = true) ∧ (k.body = .seg x) ∧ (k.seq ≠ (s.port p.val).rxSeq) ∧ (2 ^ 23 ≤ ((s.port p.val).rxSeq + 2 ^ 24 - k.seq) % 2 ^ 24) :=
  ⟨stPort portUpSt, 2, { seq := 3, crcOk := true, body := .seg segW }, segW, by decide⟩
theorem witness_pkt_bad : ∃ (s : State) (p : CkxPort) (k : LinkPacket), ((s.port p.val).state = .up) ∧ (s.modValid = true ∧ s.lv.cut = false) ∧ (k.crcOk = false) :=
  ⟨stPort portUpSt, 2, { seq := 3, crcOk := false, body := .seg segW }, by decide⟩
theorem witness_pkt_not_up : ∃ (s : State) (p : CkxPort) (k : LinkPacket), (s.port p.val).state ≠ .up :=
  ⟨State.reset, 2, { seq := 3, crcOk := false, body := .seg segW }, by decide⟩
theorem witness_pkt_ack : ∃ (s : State) (p : CkxPort) (k : LinkPacket) (n : Nat), ((s.port p.val).state = .up) ∧ (s.modValid = true) ∧ (k.crcOk = true) ∧ (k.body = .linkAck n) ∧ ((s.port p.val).txWait = []) :=
  ⟨stPort { portUpSt with sent := [pk 3, pk 4, pk 5] }, 2, { seq := 0, crcOk := true, body := .linkAck 4 }, 4, by decide⟩
theorem witness_pkt_nak : ∃ (s : State) (p : CkxPort) (k : LinkPacket) (n : Nat), ((s.port p.val).state = .up) ∧ (s.modValid = true) ∧ (k.crcOk = true) ∧ (k.body = .linkNak n) :=
  ⟨stPort { portUpSt with sent := [pk 3, pk 4, pk 5] }, 2, { seq := 0, crcOk := true, body := .linkNak 4 }, 4, by decide⟩
theorem witness_pkt_cut : ∃ (s : State) (p : CkxPort) (k : LinkPacket), ((s.port p.val).state = .up) ∧ (s.modValid = true ∧ s.lv.cut = true) ∧ (isData k.body = true) :=
  ⟨{ stPort portUpSt with fabric := { (stPort portUpSt).fabric with lv := { LvSt.reset with state := .fenced, cut := true } } }, 2, { seq := 0, crcOk := true, body := .seg segW }, by decide⟩
theorem witness_pkt_no_id : ∃ (s : State) (p : CkxPort) (k : LinkPacket), s.modValid = false :=
  ⟨State.reset, 2, { seq := 0, crcOk := true, body := .seg segW }, by decide⟩
theorem witness_retry_timeout : ∃ (s : State) (p : CkxPort), (s.port p.val).state = .up :=
  ⟨stPort { portUpSt with sent := [pk 3] }, 2, by decide⟩
theorem witness_retry_first : ∃ (s : State) (p : Nat) (k : LinkPacket) (ks : List LinkPacket), (s.lv.cut = false) ∧ ((s.port p).tryOf ≠ k.seq) :=
  ⟨stPort { portUpSt with sent := [pk 3] }, 2, pk 3, [], by decide⟩
theorem witness_retry_again : ∃ (s : State) (p : Nat) (k : LinkPacket) (ks : List LinkPacket), (s.lv.cut = false) ∧ ((s.port p).tryOf = k.seq) ∧ ((s.port p).tries < 8) :=
  ⟨stPort { portUpSt with sent := [pk 3], tryOf := 3, tries := 7 }, 2, pk 3, [], by decide⟩
theorem witness_retry_fails : ∃ (s : State) (p : Nat) (k : LinkPacket) (ks : List LinkPacket), (s.lv.cut = false) ∧ ((s.port p).tryOf = k.seq) ∧ (8 ≤ (s.port p).tries) :=
  ⟨stPort { portUpSt with sent := [pk 3], tryOf := 3, tries := 8 }, 2, pk 3, [], by decide⟩
theorem witness_retry_cut : ∃ (s : State) (p : Nat) (ks : List LinkPacket), s.lv.cut = true :=
  ⟨{ State.reset with fabric := { FabricSt.reset with lv := { LvSt.reset with cut := true } } }, 2, [pk 3], by decide⟩
theorem witness_resent : ∃ (s : State) (p : Nat) (k : LinkPacket), (p < 12) ∧ (s.scaler (pgCkx p) 0 < 0xFFFFFFFF) :=
  ⟨stPort portUpSt, 2, pk 3, by decide⟩
theorem witness_down_state : ∃ (s : State) (p : Nat), ((s.port p).downs.filter (fun t => s.now < t + 1000000000)).length < 2 :=
  ⟨stPort portUpSt, 2, by decide⟩
theorem witness_down_held : ∃ (s : State) (p : Nat), 2 ≤ ((s.port p).downs.filter (fun t => s.now < t + 1000000000)).length :=
  ⟨stPort { portUpSt with downs := [0, 0] }, 2, by decide⟩
theorem witness_lane_disabled : ∃ (s : State) (p : CkxPort) (ln : Fin 4), ((s.port p.val).state = .up) ∧ (Nat.land (s.port p.val).lanes (15 - Nat.land (Nat.lor (s.port p.val).bad (2 ^ ln.val)) 15) ≠ 0) :=
  ⟨stPort portUpSt, 2, 1, by decide⟩
theorem witness_lane_last : ∃ (s : State) (p : CkxPort) (ln : Fin 4), ((s.port p.val).state = .up) ∧ (Nat.land (s.port p.val).lanes (15 - Nat.land (Nat.lor (s.port p.val).bad (2 ^ ln.val)) 15) = 0) :=
  ⟨stPort { portUpSt with lanes := 2 }, 2, 1, by decide⟩
theorem witness_trained : ∃ (s : State) (p : CkxPort) (g : Fin 16), (bitOf (s.reg (pgCkx p.val) 0x010) 0 = true ∧ s.dieTested (4 + p.val / 6) = false) ∧ ((s.port p.val).state = .training ∨ (s.port p.val).state = .down) ∧ (Nat.land g.val (15 - Nat.land (s.port p.val).bad 15) ≠ 0) :=
  ⟨stPort { CkxPortSt.reset with state := .training }, 2, 7, by decide⟩
theorem witness_untrained : ∃ (s : State) (p : CkxPort) (g : Fin 16), bitOf (s.reg (pgCkx p.val) 0x010) 0 = false :=
  ⟨State.reset, 2, 7, by decide⟩
theorem witness_hold_ends : ∃ (s : State) (p : CkxPort), ((s.port p.val).state = .held) ∧ ((s.port p.val).heldAt + max 1 (fld (s.reg (pgCkx p.val) 0x010) 23 16) * 1000000000 ≤ s.now) :=
  ⟨{ stPort { portUpSt with state := .held } with time := { State.reset.time with ns := 10000000000 } }, 2, by decide⟩
theorem witness_hold_stands : ∃ (s : State) (p : CkxPort), s.now < (s.port p.val).heldAt + max 1 (fld (s.reg (pgCkx p.val) 0x010) 23 16) * 1000000000 :=
  ⟨stPort { portUpSt with state := .held }, 2, by decide⟩
theorem witness_hold_clr : ∃ (s : State) (p : CkxPort), (s.pwr.phase = .running) ∧ (s.recMode = 0) ∧ ((s.port p.val).state = .held) :=
  ⟨stPort { portUpSt with state := .held }, 2, by decide⟩
theorem witness_retrain : ∃ (s : State) (p : CkxPort), (s.pwr.phase = .running) ∧ (s.recMode = 0) ∧ (bitOf (s.reg (pgCkx p.val) 0x010) 0 = true) ∧ ((s.port p.val).state ≠ .held) :=
  ⟨stPort { portUpSt with bad := 3 }, 2, by decide⟩
theorem witness_unreachable : ∃ (s : State) (p : CkxPort) (d : Fin 65536), ((s.port p.val).state = .up) ∧ (d.val ∉ (s.port p.val).unreach) :=
  ⟨stPort portUpSt, 2, 0x0102, by decide⟩

/-! Liveness: states and operands that meet the hypotheses. -/

theorem witness_module_fault : ∃ (s : State), (s.pwr.phase = .running) ∧ (s.bist.inj.find 7 = none) :=
  ⟨stLv lvM, by decide⟩
theorem witness_module_fault_injected : ∃ (s : State) (j : Inj), (s.pwr.phase = .running) ∧ (s.bist.inj.find 7 = some j) :=
  ⟨{ stLv lvM with bist := { State.reset.bist with inj := [(7, { target := 0, arg := 0, every := false })] } }, { target := 0, arg := 0, every := false }, by decide⟩
theorem witness_self_fence : ∃ (s : State) (c : Nat), s.lv.state ≠ .fenced :=
  ⟨stLv lvM, 1, by decide⟩
theorem witness_fenced_stays : ∃ (s : State) (c : Nat), s.lv.state = .fenced :=
  ⟨stLv { lvM with state := .fenced }, 1, by decide⟩
theorem witness_round_member : ∃ (s : State), (s.lv.state = .member) ∧ (s.lv.mine = []) ∧ (s.lv.began ≠ some s.lvRound) :=
  ⟨stLv lvM, by decide⟩
theorem witness_round_none : ∃ (s : State), s.lv.state = .none ∨ s.lv.state = .fenced :=
  ⟨State.reset, by decide⟩
theorem witness_round_once : ∃ (s : State), s.lv.began = some s.lvRound :=
  ⟨stLv { lvM with began := some 0 }, by decide⟩
theorem witness_beat : ∃ (s : State) (h : Heartbeat), (s.lv.state = .member) ∧ (s.lv.posState h.pos ≠ .snag) ∧ (s.lv.epoch ≤ h.epoch.toNat) ∧ (s.lv.mine = []) :=
  ⟨stLv lvM, { pos := 2, epoch := 0, round := 0, flagged := false, digest := 0 }, by decide⟩
theorem witness_beat_clears : ∃ (s : State) (h : Heartbeat), (s.lv.state = .member) ∧ (s.lv.posState h.pos ≠ .snag) ∧ (s.lv.epoch ≤ h.epoch.toNat) ∧ (h.pos ∈ s.lv.mine) :=
  ⟨stLv { lvM with mine := [2], accused := [(2, 1)] }, { pos := 2, epoch := 0, round := 0, flagged := false, digest := 0 }, by decide⟩
theorem witness_beat_snag : ∃ (s : State) (h : Heartbeat), s.lv.posState h.pos = .snag ∨ h.epoch.toNat < s.lv.epoch :=
  ⟨stLv { lvM with epoch := 2 }, { pos := 2, epoch := 1, round := 0, flagged := false, digest := 0 }, by decide⟩
theorem witness_absent : ∃ (s : State) (x : Fin 256), (s.lv.state = .member) ∧ (x.val ≠ s.myPos ∧ s.lv.posState x.val = .member) ∧ (s.lv.heard.get 0 x.val + 1000 * s.lvTmiss ≤ s.now) ∧ (x.val ∉ s.lv.mine) :=
  ⟨{ stLv lvM with time := { State.reset.time with ns := 1000000 } }, 2, by decide⟩
theorem witness_present : ∃ (s : State) (x : Fin 256), s.now < s.lv.heard.get 0 x.val + 1000 * s.lvTmiss :=
  ⟨stLv lvM, 2, by decide⟩
theorem witness_accused : ∃ (s : State) (x f : Fin 256) (e : Word), (s.lv.state = .member ∧ x.val ≠ s.myPos) ∧ (s.lv.posState f.val = .member ∧ s.lv.epoch ≤ e.toNat) ∧ (s.lv.accused.all (fun p => decide (p ≠ (x.val, f.val))) = true) :=
  ⟨stLv lvM, 2, 3, 0, by decide⟩
theorem witness_no_verdict : ∃ (s : State) (n : Nat), (s.lv.state = .member) ∧ (s.lv.members.all (fun x => decide (2 * (s.lv.accused.filter (fun p => p.1 = x && s.lv.posState p.2 = .member && p.2 ≠ x)).length ≤ s.lv.n)) = true) :=
  ⟨stLv { lvM with accused := [(2, 1), (2, 3)] }, 256, by decide⟩
theorem witness_verdict_reached : ∃ (s : State) (n x : Nat), (s.lv.state = .member) ∧ (3 ≤ s.lv.n) ∧ (s.lv.members.find? s.lv.guilty = some x) :=
  ⟨stLv { lvM with accused := [(2, 1), (2, 3), (2, 4)] }, 3, 2, by decide⟩
theorem witness_accused_cleared : ∃ (s : State) (x f : Fin 256) (e : Word), (s.lv.state = .member) ∧ (s.lv.posState f.val ≠ .snag ∧ s.lv.epoch ≤ e.toNat) :=
  ⟨stLv { lvM with accused := [(2, 3)] }, 2, 3, 0, by decide⟩
theorem witness_verdict_self : ∃ (s : State) (x f : Fin 256) (e : Word), (s.replayed 3 = false) ∧ (s.lv.state = .member ∧ x.val = s.myPos) ∧ (s.lv.posState f.val ≠ .snag ∧ s.lv.epoch ≤ e.toNat) :=
  ⟨stLv lvM, 1, 3, 0, by decide⟩
theorem witness_verdict_adopted : ∃ (s : State) (x f : Fin 256) (e : Word), (s.replayed 3 = false) ∧ (s.lv.state = .member ∧ x.val ≠ s.myPos) ∧ (s.lv.posState f.val ≠ .snag ∧ s.lv.posState x.val ≠ .snag) ∧ (e.toNat = s.lv.epoch) :=
  ⟨stLv lvM, 2, 3, 0, by decide⟩
theorem witness_verdict_old : ∃ (s : State) (x f : Fin 256) (e : Word), (s.replayed 3 = false) ∧ (e.toNat < s.lv.epoch) :=
  ⟨stLv { lvM with epoch := 3 }, 2, 3, 0, by decide⟩
theorem witness_forwarded : ∃ (s : State) (x : Forward), (x.module_.val ≠ s.modId) ∧ (s.lv.revoke.all (fun r => decide (r.module_ ≠ x.module_.val) || decide (r.epoch < x.epoch.toNat)) = true) ∧ ((s.peerSnag x.module_.val x.epoch.toNat).lv.cut = false) :=
  ⟨stLv lvM, { module_ := 0x0305, epoch := 2 }, by decide⟩
theorem witness_forwarded_fenced : ∃ (s : State) (x : Forward), (x.module_.val ≠ s.modId) ∧ (s.lv.revoke.all (fun r => decide (r.module_ ≠ x.module_.val) || decide (r.epoch < x.epoch.toNat)) = true) ∧ ((s.peerSnag x.module_.val x.epoch.toNat).lv.cut = true) :=
  ⟨stLv { lvM with state := .fenced, cut := true }, { module_ := 0x0305, epoch := 2 }, by decide⟩
theorem witness_forwarded_again : ∃ (s : State) (x : Forward), s.lv.revoke.any (fun r => decide (r.module_ = x.module_.val) && decide (x.epoch.toNat ≤ r.epoch)) = true :=
  ⟨stLv { lvM with revoke := [{ module_ := 0x0305, swept := false, epoch := 2 }] }, { module_ := 0x0305, epoch := 2 }, by decide⟩
theorem witness_quorum_lost : ∃ (s : State), (s.lv.state = .member ∧ 3 ≤ s.lv.n) ∧ (2 * ((s.lv.members.filter (fun j => decide (j ≠ s.myPos) && decide (s.now < s.lv.heard.get 0 j + 1000 * (s.lvTmiss - s.lvPeriod)))).length + 1) ≤ s.lv.n) :=
  ⟨{ stLv lvM with time := { State.reset.time with ns := 900000 } }, by decide⟩
theorem witness_quorum_kept : ∃ (s : State), s.lv.n < 2 * ((s.lv.members.filter (fun j => decide (j ≠ s.myPos) && decide (s.now < s.lv.heard.get 0 j + 1000 * (s.lvTmiss - s.lvPeriod)))).length + 1) ∨ s.lv.n < 3 :=
  ⟨stLv lvM, by decide⟩
theorem witness_found_ignored : ∃ (s : State), (s.pwr.phase = .running) ∧ (s.recMode = 0) ∧ (s.lv.state ≠ .none) :=
  ⟨stLv lvM, by decide⟩
theorem witness_found : ∃ (s : State), (s.pwr.phase = .running) ∧ (s.recMode = 0) ∧ (s.lv.state = .none) :=
  ⟨State.reset, by decide⟩
theorem witness_leave : ∃ (s : State), (s.pwr.phase = .running) ∧ (s.recMode = 0) ∧ (s.lv.state = .member) :=
  ⟨stLv lvM, by decide⟩
theorem witness_join : ∃ (s : State), (s.pwr.phase = .running) ∧ (s.recMode = 0) ∧ (s.lv.state = .none ∨ s.lv.state = .fenced) ∧ (s.bist.logicOk = 63 ∧ s.bist.memOk = 63) ∧ (s.cells.all (fun p => p.2.phase = .free) = true) :=
  ⟨{ State.reset with bist := { State.reset.bist with logicOk := 63, memOk := 63 } }, by decide⟩
theorem witness_join_refused : ∃ (s : State), (s.pwr.phase = .running) ∧ (s.recMode = 0) ∧ (s.bist.logicOk ≠ 63 ∨ s.bist.memOk ≠ 63) :=
  ⟨State.reset, by decide⟩
theorem witness_join_message : ∃ (s : State) (x : Fin 256), (s.lv.state = .member ∧ s.lv.n ≤ 64) ∧ (x.val ≠ s.myPos ∧ s.lv.posState x.val ≠ .member) ∧ (s.configured.contains x.val = true) ∧ (s.lv.entries.all (fun p => decide (p.1 ≠ x.val)) = true) :=
  ⟨(stLv lvM).setReg pgLv 0x200 0x200, 9, by decide⟩
theorem witness_admit_few : ∃ (s : State) (a : AdmitMsg), (s.lv.state = .joining ∧ s.lv.entry = none) ∧ (s.lv.admits.all (fun b => decide (b.pos ≠ a.pos)) = true) ∧ (2 * (s.lv.admits.length + 1) ≤ (a.table.filter (· = 1)).length) :=
  ⟨stLv { LvSt.reset with state := .joining }, { pos := 2, epoch := 7, round := 3, table := [0, 1, 1, 1] }, by decide⟩
theorem witness_admit_enough : ∃ (s : State) (a b : AdmitMsg), (s.lv.state = .joining ∧ s.lv.entry = none) ∧ (s.lv.admits = [b] ∧ b.pos ≠ a.pos) ∧ ((a.table.filter (· = 1)).length < 4) :=
  ⟨stLv { LvSt.reset with state := .joining, admits := [{ pos := 3, epoch := 7, round := 3, table := [] }] }, { pos := 2, epoch := 7, round := 3, table := [0, 1, 1, 1] }, { pos := 3, epoch := 7, round := 3, table := [] }, by decide⟩
theorem witness_entry_member : ∃ (s : State) (j r : Nat), (s.lv.state = .member) ∧ (s.lv.entries = [(j, r)] ∧ r ≤ s.lvRound) :=
  ⟨stLv { lvM with entries := [(9, 0)] }, 9, 0, by decide⟩
theorem witness_entry_self : ∃ (s : State) (e : Nat), (s.lv.state = .joining ∨ s.lv.state = .shadow) ∧ (s.lv.entry = some e ∧ e ≤ s.lvRound) :=
  ⟨stLv { LvSt.reset with state := .joining, entry := some 0 }, 0, by decide⟩
theorem witness_entry_early : ∃ (s : State) (e : Nat), (s.lv.state = .joining ∨ s.lv.state = .shadow) ∧ (s.lv.entry = some e ∧ s.lvRound < e) :=
  ⟨stLv { LvSt.reset with state := .joining, entry := some 4 }, 4, by decide⟩
theorem witness_join_timeout : ∃ (s : State), (s.lv.state = .joining ∧ 64 ≤ s.lv.rounds ∨ s.lv.state = .shadow ∧ 4 * s.lvShadown ≤ s.lv.rounds) ∧ (s.lv.state = .joining ∨ s.lv.entry = none) :=
  ⟨stLv { LvSt.reset with state := .joining, rounds := 64 }, by decide⟩
theorem witness_join_time_left : ∃ (s : State), s.lv.state = .joining ∧ s.lv.rounds < 64 :=
  ⟨stLv { LvSt.reset with state := .joining, rounds := 63 }, by decide⟩
theorem witness_lv_timers : ∃ (s : State), s.inForce (pgCkx 32) 0x0C8 = 0 :=
  ⟨{ State.reset with regs := { RegFile.reset with com := RegFile.reset.com.set (regKey (pgCkx 32) 0x0C8) 0 } }, by decide⟩

/-! MirrorsAndTakeover: states and operands that meet the hypotheses. -/

theorem witness_arm_origin : ∃ (s : State) (v : Word), (s.pwr.phase = .running) ∧ (s.recMode = 0) ∧ (fld v 1 0 = 1) ∧ (mirStageOk ((List.range 8).map (fun i => s.reg (pgSds 4) (0x240 + 4 * i))) (fld v 12 4) = true) ∧ ((s.mirror (fld v 12 4)).state = .none) ∧ (bitOf (wAt ((List.range 8).map (fun i => s.reg (pgSds 4) (0x240 + 4 * i))) 0) 9 = false) ∧ ((s.cell (fld v 12 4)).phase = .accepted ∨ (s.cell (fld v 12 4)).phase = .active) :=
  ⟨{ stMir 0 with cells := [(3, { Cell.free with phase := .active, desc := cellDesc })] }, 0x31, by decide⟩
theorem witness_arm_origin_free : ∃ (s : State) (v : Word), (s.pwr.phase = .running) ∧ (s.recMode = 0) ∧ (fld v 1 0 = 1) ∧ (mirStageOk ((List.range 8).map (fun i => s.reg (pgSds 4) (0x240 + 4 * i))) (fld v 12 4) = true) ∧ (bitOf (wAt ((List.range 8).map (fun i => s.reg (pgSds 4) (0x240 + 4 * i))) 0) 9 = false) ∧ ((s.cell (fld v 12 4)).phase = .free ∨ (s.cell (fld v 12 4)).phase = .draining) :=
  ⟨stMir 0, 0x31, by decide⟩
theorem witness_arm_held : ∃ (s : State) (v : Word), (s.pwr.phase = .running) ∧ (s.recMode = 0) ∧ (fld v 1 0 = 1) ∧ ((s.mirror (fld v 12 4)).state ≠ .none) :=
  ⟨stMirE .wait true .free, 0x31, by decide⟩
theorem witness_arm_partner : ∃ (s : State) (v : Word), (s.pwr.phase = .running) ∧ (s.recMode = 0) ∧ (fld v 1 0 = 1) ∧ (mirStageOk ((List.range 8).map (fun i => s.reg (pgSds 4) (0x240 + 4 * i))) (fld v 12 4) = true) ∧ ((s.mirror (fld v 12 4)).state = .none) ∧ (bitOf (wAt ((List.range 8).map (fun i => s.reg (pgSds 4) (0x240 + 4 * i))) 0) 9 = true) ∧ (failsCode ((s.loadDev .dom0 (fld (wAt ((List.range 8).map (fun i => s.reg (pgSds 4) (0x240 + 4 * i))) 2) 27 0 * 4096) 64).2.2.admitFails (if (s.loadDev .dom0 (fld (wAt ((List.range 8).map (fun i => s.reg (pgSds 4) (0x240 + 4 * i))) 2) 27 0 * 4096) 64).1 = .ok then wordsOf 16 (s.loadDev .dom0 (fld (wAt ((List.range 8).map (fun i => s.reg (pgSds 4) (0x240 + 4 * i))) 2) 27 0 * 4096) 64).2.1 else List.replicate 16 0) (fld v 12 4)) = .ok) :=
  ⟨stMir 1, 0x31, by decide⟩
theorem witness_arm_partner_bad : ∃ (s : State) (v : Word), (s.pwr.phase = .running) ∧ (s.recMode = 0) ∧ (fld v 1 0 = 1) ∧ (mirStageOk ((List.range 8).map (fun i => s.reg (pgSds 4) (0x240 + 4 * i))) (fld v 12 4) = true) ∧ ((s.mirror (fld v 12 4)).state = .none) ∧ (bitOf (wAt ((List.range 8).map (fun i => s.reg (pgSds 4) (0x240 + 4 * i))) 0) 9 = true) ∧ (failsCode ((s.loadDev .dom0 (fld (wAt ((List.range 8).map (fun i => s.reg (pgSds 4) (0x240 + 4 * i))) 2) 27 0 * 4096) 64).2.2.admitFails (if (s.loadDev .dom0 (fld (wAt ((List.range 8).map (fun i => s.reg (pgSds 4) (0x240 + 4 * i))) 2) 27 0 * 4096) 64).1 = .ok then wordsOf 16 (s.loadDev .dom0 (fld (wAt ((List.range 8).map (fun i => s.reg (pgSds 4) (0x240 + 4 * i))) 2) 27 0 * 4096) 64).2.1 else List.replicate 16 0) (fld v 12 4)) ≠ .ok) :=
  ⟨{ stMir 1 with mem := [] }, 0x31, by decide⟩
theorem witness_disarm : ∃ (s : State) (v : Word), (s.pwr.phase = .running) ∧ (s.recMode = 0) ∧ (fld v 1 0 = 2) ∧ ((s.mirror (fld v 12 4)).state ≠ .taken) ∧ ((s.mirror (fld v 12 4)).role = false ∨ ((s.mirror (fld v 12 4)).state ≠ .wait ∧ (s.mirror (fld v 12 4)).state ≠ .armed)) :=
  ⟨stMirE .wait false .active, 0x32, by decide⟩
theorem witness_disarm_partner : ∃ (s : State) (v : Word), (s.pwr.phase = .running) ∧ (s.recMode = 0) ∧ (fld v 1 0 = 2) ∧ ((s.mirror (fld v 12 4)).role = true ∧ ((s.mirror (fld v 12 4)).state = .wait ∨ (s.mirror (fld v 12 4)).state = .armed)) ∧ ((s.cell (fld v 12 4)).phase = .free) :=
  ⟨stMirE .wait true .free, 0x32, by decide⟩
theorem witness_disarm_taken : ∃ (s : State) (v : Word), (s.pwr.phase = .running) ∧ (s.recMode = 0) ∧ (fld v 1 0 = 2) ∧ ((s.mirror (fld v 12 4)).state = .taken) :=
  ⟨stMirE .taken true .active, 0x32, by decide⟩
theorem witness_mirror_read : ∃ (s : State) (v : Word), (s.pwr.phase = .running) ∧ (s.recMode = 0) ∧ (fld v 1 0 = 3) :=
  ⟨stMirE .wait true .free, 0x33, by decide⟩
theorem witness_open_none : ∃ (s : State) (c : CellId), (s.mirror c.val).state = .wait ∧ (s.mirror c.val).role = false :=
  ⟨stMirE .wait false .active, 3, by decide⟩
theorem witness_open_yes : ∃ (s : State) (c : CellId), (s.mirror c.val).state = .wait ∧ (s.mirror c.val).role = false :=
  ⟨stMirE .wait false .active, 3, by decide⟩
theorem witness_open_no : ∃ (s : State) (c : CellId), (s.mirror c.val).state = .wait ∧ (s.mirror c.val).role = false :=
  ⟨stMirE .wait false .active, 3, by decide⟩
theorem witness_open_not_waiting : ∃ (s : State) (c : CellId) (a : Option Bool), (s.mirror c.val).state ≠ .wait ∨ (s.mirror c.val).role = true :=
  ⟨State.reset, 3, some true, by decide⟩
theorem witness_receive_match : ∃ (s : State) (f : Fin 65536) (pc c : CellId) (d : List Word) (rd ld : List Byte), ((s.mirror c.val).state = .wait ∧ (s.mirror c.val).role = true) ∧ ((s.mirror c.val).pmod = f.val ∧ (s.mirror c.val).pcell = pc.val) ∧ (mirMatch d (s.mirror c.val).desc = true) ∧ (rd = s.pkgDigest (dRpkg (s.mirror c.val).desc) ∧ ld = s.pkgDigest (dLpkg (s.mirror c.val).desc)) :=
  ⟨stMirE .wait true .free, 0x0305, 40, 3, cellDesc, [], [], by decide⟩
theorem witness_receive_differs : ∃ (s : State) (f : Fin 65536) (pc c : CellId) (d : List Word) (rd ld : List Byte), ((s.mirror c.val).state = .wait ∧ (s.mirror c.val).role = true) ∧ ((s.mirror c.val).pmod = f.val ∧ (s.mirror c.val).pcell = pc.val) ∧ (mirMatch d (s.mirror c.val).desc = false) :=
  ⟨stMirE .wait true .free, 0x0305, 40, 3, [], [], [], by decide⟩
theorem witness_receive_stranger : ∃ (s : State) (f : Fin 65536) (pc c : CellId) (d : List Word) (rd ld : List Byte), (s.mirror c.val).pmod ≠ f.val ∨ (s.mirror c.val).pcell ≠ pc.val :=
  ⟨stMirE .wait true .free, 0x0306, 40, 3, [], [], [], by decide⟩
theorem witness_mirror_gains : ∃ (s : State) (c : CellId) (g : Int) (fz hd : Option Nat) (q : Int), (s.mirror c.val).state = .armed ∧ (s.mirror c.val).role = true :=
  ⟨stMirE .armed true .free, 3, 5, none, none, 0, by decide⟩
theorem witness_mirror_message : ∃ (s : State) (c : CellId) (ws : List Word), (s.mirror c.val).state = .armed ∧ (s.mirror c.val).role = true :=
  ⟨stMirE .armed true .free, 3, [], by decide⟩
theorem witness_mirror_area : ∃ (s : State) (c : CellId) (bs : List Byte), (s.mirror c.val).state = .armed ∧ (s.mirror c.val).role = true :=
  ⟨stMirE .armed true .free, 3, [], by decide⟩
theorem witness_mirror_stranger : ∃ (s : State) (c : CellId) (m : MirrorItem), (s.mirror c.val).state ≠ .armed ∨ (s.mirror c.val).role = false :=
  ⟨State.reset, 3, .area [], by decide⟩
theorem witness_verdict_on_partner : ∃ (s : State) (c x : Nat) (e : MirrorEntry), (s.mirrors = [(c, e)]) ∧ (e.state = .armed ∧ e.pmod = x ∧ e.role = false) :=
  ⟨stMirE .armed false .active, 3, 0x0305, mirE .armed false, by decide⟩
theorem witness_ec_encode : ∃ (s : State) (i : InstId) (v : Word), (s.pwr.phase = .running) ∧ (pageDead (s.inst i.val).phase = false) ∧ (bitOf v 0 = true) ∧ (fld (wAt ((List.range 8).map (fun j => s.reg (pgMbx i.val) (0x540 + 4 * j))) 0) 1 0 = 1) ∧ ((s.inst i.val).ecBusy = false) :=
  ⟨stEc 1, 3, 1, by decide⟩
theorem witness_ec_rebuild : ∃ (s : State) (i : InstId) (v : Word), (s.pwr.phase = .running) ∧ (pageDead (s.inst i.val).phase = false) ∧ (bitOf v 0 = true) ∧ (fld (wAt ((List.range 8).map (fun j => s.reg (pgMbx i.val) (0x540 + 4 * j))) 0) 1 0 = 2) ∧ ((s.inst i.val).ecBusy = false) :=
  ⟨stEc 2, 3, 1, by decide⟩
theorem witness_ec_encode_busy : ∃ (s : State) (i : InstId) (v : Word), (s.pwr.phase = .running) ∧ (pageDead (s.inst i.val).phase = false) ∧ (bitOf v 0 = true) ∧ (fld (wAt ((List.range 8).map (fun j => s.reg (pgMbx i.val) (0x540 + 4 * j))) 0) 1 0 = 1) ∧ ((s.inst i.val).ecBusy = true) :=
  ⟨(let s := stEc 1; { s with insts := [(3, { stInstA with ecBusy := true })] }), 3, 1, by decide⟩
theorem witness_ec_rebuild_busy : ∃ (s : State) (i : InstId) (v : Word), (s.pwr.phase = .running) ∧ (pageDead (s.inst i.val).phase = false) ∧ (bitOf v 0 = true) ∧ (fld (wAt ((List.range 8).map (fun j => s.reg (pgMbx i.val) (0x540 + 4 * j))) 0) 1 0 = 2) ∧ ((s.inst i.val).ecBusy = true) :=
  ⟨(let s := stEc 2; { s with insts := [(3, { stInstA with ecBusy := true })] }), 3, 1, by decide⟩
theorem witness_ec_done : ∃ (s : State) (i : InstId), (s.inst i.val).ecBusy = true :=
  ⟨{ State.reset with insts := [(3, { stInstA with ecBusy := true })] }, 3, by decide⟩
theorem witness_ec_idle : ∃ (s : State) (i : InstId), (s.inst i.val).ecBusy = false :=
  ⟨State.reset, 3, by decide⟩
theorem witness_ec_bad : ∃ (s : State) (i : Nat) (ws : List Word), fld (wAt ws 0) 7 4 = 0 ∨ 14 < fld (wAt ws 0) 7 4 ∨ fld (wAt ws 1) 12 0 = 0 ∨ 4096 < fld (wAt ws 1) 12 0 ∨ fld (wAt ws 0) 1 0 = 0 ∨ fld (wAt ws 0) 1 0 = 3 :=
  ⟨State.reset, 3, [1, 1], by decide⟩
theorem witness_ec_parity : ∃ (k n : Nat) (ds : List (List Nat)), (ds.length = k) ∧ (ds.all (fun d => decide (d.length = n)) = true) :=
  ⟨2, 1, [[5], [6]], by decide⟩

/-! TimeBaseAndStamps: states and operands that meet the hypotheses. -/

theorem witness_edge_adds : ∃ (s : State), (s.time.pend = none ∧ s.time.slew = 0 ∧ s.time.announce = []) ∧ (s.time.frac < 2 ^ 28) ∧ (s.time.ns < 2 ^ 64) :=
  ⟨State.reset, by decide⟩
theorem witness_setting_applies : ∃ (s : State) (q : TimeSet), (s.time.pend = some q) ∧ (q.step = 0) ∧ (s.time.slew = 0 ∧ s.time.announce = []) ∧ (s.time.frac < 2 ^ 28 ∧ s.time.ns < 2 ^ 64) :=
  ⟨{ State.reset with time := { State.reset.time with pend := some { step := 0, incr := 0x10000001, foff := 5, barCfg := 3 } } }, { step := 0, incr := 0x10000001, foff := 5, barCfg := 3 }, by decide⟩
theorem witness_step_applies : ∃ (s : State) (q : TimeSet), (s.time.pend = some q) ∧ (0 < q.step ∧ q.step < 2 ^ 40) ∧ (s.time.slew = 0 ∧ s.time.announce = []) ∧ (s.time.frac < 2 ^ 28 ∧ s.time.ns < 2 ^ 40) ∧ (s.time.pulses.all (fun x => !x.en) = true) :=
  ⟨{ State.reset with time := { State.reset.time with pend := some { step := 900, incr := 0x10000001, foff := 5, barCfg := 3 } } }, { step := 900, incr := 0x10000001, foff := 5, barCfg := 3 }, by decide⟩
theorem witness_no_setting : ∃ (s : State), s.time.pend = none :=
  ⟨State.reset, by decide⟩
theorem witness_snap : ∃ (s : State), s.pwr.phase = .running :=
  ⟨State.reset, by decide⟩
theorem witness_ref_lost : ∃ (s : State), (s.pwr.phase = .running) ∧ (s.isMember = true ∨ s.refSrc ≠ 0) ∧ (s.time.pll ≠ .holdover) :=
  ⟨State.reset.setReg pgTime 0x010 1, by decide⟩
theorem witness_ref_own : ∃ (s : State), s.isMember = false ∧ s.refSrc = 0 :=
  ⟨State.reset, by decide⟩
theorem witness_ref_good : ∃ (s : State), s.isMember = false ∧ s.refSrc ≠ 0 ∧ s.refUp = true :=
  ⟨{ State.reset.setReg pgTime 0x010 1 with eth := [(0, { EthSt.reset with up := 1 })] }, by decide⟩
theorem witness_ref_down : ∃ (s : State), s.refUp = false :=
  ⟨State.reset.setReg pgTime 0x010 2, by decide⟩
theorem witness_stamp : ∃ (s : State) (p : EthPort) (ns : DWord) (fr : Fin 16) (sub txid : Nat) (rest : List (Nat × Nat)), (s.recMode = 0) ∧ ((s.ethp p.val).tsWait = (sub, txid) :: rest) ∧ (idxGap (fld (s.reg (pgEth p.val) 0x1C0) 15 0) (s.ethp p.val).tsqTail < 64) :=
  ⟨stTsq { EthSt.reset with tsWait := [(1, 7)] }, 5, 1000, 3, 1, 7, [], by decide⟩
theorem witness_stamp_full : ∃ (s : State) (p : EthPort) (ns : DWord) (fr : Fin 16) (w : Nat × Nat) (rest : List (Nat × Nat)), (s.recMode = 0) ∧ ((s.ethp p.val).tsWait = w :: rest) ∧ (idxGap (fld (s.reg (pgEth p.val) 0x1C0) 15 0) (s.ethp p.val).tsqTail = 64) :=
  ⟨stTsq { EthSt.reset with tsWait := [(1, 7)], tsqTail := 64 }, 5, 1000, 3, (1, 7), [], by decide⟩
theorem witness_stamp_none : ∃ (s : State) (p : EthPort) (ns : DWord) (fr : Fin 16), (s.ethp p.val).tsWait = [] :=
  ⟨State.reset, 5, 0, 0, by decide⟩
theorem witness_tsq_head : ∃ (s : State) (p : EthPort) (v : Word), (s.pwr.phase = .running) ∧ (s.recMode = 0) ∧ (idxGap (fld (s.reg (pgEth p.val) 0x1C0) 15 0) (fld v 15 0) ≤ idxGap (fld (s.reg (pgEth p.val) 0x1C0) 15 0) (s.ethp p.val).tsqTail) :=
  ⟨stTsq { EthSt.reset with tsqTail := 4 }, 5, 3, by decide⟩
theorem witness_tsq_head_bad : ∃ (s : State) (p : EthPort) (v : Word), (s.pwr.phase = .running) ∧ (s.recMode = 0) ∧ (idxGap (fld (s.reg (pgEth p.val) 0x1C0) 15 0) (s.ethp p.val).tsqTail < idxGap (fld (s.reg (pgEth p.val) 0x1C0) 15 0) (fld v 15 0)) :=
  ⟨stTsq { EthSt.reset with tsqTail := 4 }, 5, 5, by decide⟩
theorem witness_pps : ∃ (s : State), (s.pwr.phase = .running) ∧ (s.recMode = 0) ∧ (s.time.ppsTaken = false ∨ s.time.ppsNs + 500000000 ≤ s.now) :=
  ⟨{ State.reset with time := { State.reset.time with ppsTaken := true, ns := 600000000 } }, by decide⟩
theorem witness_pps_glitch : ∃ (s : State), (s.pwr.phase = .running) ∧ (s.recMode = 0) ∧ (s.time.ppsTaken = true ∧ s.now < s.time.ppsNs + 500000000) :=
  ⟨{ State.reset with time := { State.reset.time with ppsTaken := true, ns := 400000000 } }, by decide⟩
theorem witness_pulse_off : ∃ (s : State) (p : PulseId) (v : Word), (s.pwr.phase = .running) ∧ (bitOf v 0 = false) ∧ ((pulseAt s.time p.val).high = false) ∧ (s.time.pulses.length = 4) :=
  ⟨stPls 1 { Pulse.off with en := true } 0, 1, 0, by decide⟩
theorem witness_pulse_illegal : ∃ (s : State) (p : PulseId) (v : Word), (s.pwr.phase = .running) ∧ (bitOf v 0 = true) ∧ ((pulseAt s.time p.val).high = false) ∧ (s.time.pulses.length = 4) ∧ ((s.reg pgTime (0x10C + 0x20 * p.val)).toNat = 0 ∨ bitOf v 1 = true ∧ (s.reg pgTime (0x108 + 0x20 * p.val)).toNat ≤ (s.reg pgTime (0x10C + 0x20 * p.val)).toNat ∨ (s.reg pgTime (0x108 + 0x20 * p.val)).toNat < 100) :=
  ⟨State.reset, 1, 1, by decide⟩
theorem witness_pulse_once : ∃ (s : State) (p : PulseId) (v : Word), (s.pwr.phase = .running) ∧ (bitOf v 0 = true ∧ bitOf v 1 = false ∧ bitOf v 2 = false) ∧ ((pulseAt s.time p.val).high = false) ∧ (s.time.pulses.length = 4) ∧ ((s.reg pgTime (0x10C + 0x20 * p.val)).toNat ≠ 0 ∧ 100 ≤ (s.reg pgTime (0x108 + 0x20 * p.val)).toNat) ∧ (s.now ≤ (s.pair pgTime (0x100 + 0x20 * p.val) (0x104 + 0x20 * p.val))) :=
  ⟨stPls 0 Pulse.off 0, 1, 1, by decide⟩
theorem witness_pulse_missed : ∃ (s : State) (p : PulseId) (v : Word), (s.pwr.phase = .running) ∧ (bitOf v 0 = true ∧ bitOf v 1 = false ∧ bitOf v 2 = false) ∧ ((pulseAt s.time p.val).high = false) ∧ (s.time.pulses.length = 4) ∧ ((s.reg pgTime (0x10C + 0x20 * p.val)).toNat ≠ 0 ∧ 100 ≤ (s.reg pgTime (0x108 + 0x20 * p.val)).toNat) ∧ ((s.pair pgTime (0x100 + 0x20 * p.val) (0x104 + 0x20 * p.val)) < s.now) :=
  ⟨stPls 0 Pulse.off 6000, 1, 1, by decide⟩
theorem witness_pulse_waits : ∃ (s : State) (p : PulseId) (v : Word), (s.pwr.phase = .running) ∧ (bitOf v 0 = true ∧ bitOf v 1 = false ∧ bitOf v 2 = true) ∧ ((pulseAt s.time p.val).high = false) ∧ (s.time.pulses.length = 4) ∧ ((s.reg pgTime (0x10C + 0x20 * p.val)).toNat ≠ 0 ∧ 100 ≤ (s.reg pgTime (0x108 + 0x20 * p.val)).toNat) :=
  ⟨stPls 0 Pulse.off 0, 1, 5, by decide⟩
theorem witness_pulse_lead : ∃ (s : State) (p : PulseId), ((pulseAt s.time p.val).en = true ∧ (pulseAt s.time p.val).waitBar = false ∧ (pulseAt s.time p.val).edge % 2 = 0) ∧ (s.time.pulses.length = 4) ∧ ((pulseAt s.time p.val).start + (pulseAt s.time p.val).edge / 2 * (s.reg pgTime (0x108 + 0x20 * p.val)).toNat ≤ s.now) :=
  ⟨stPls 1 { Pulse.off with en := true, start := 5000 } 5000, 1, by decide⟩
theorem witness_pulse_trail : ∃ (s : State) (p : PulseId), ((pulseAt s.time p.val).en = true ∧ (pulseAt s.time p.val).waitBar = false ∧ (pulseAt s.time p.val).edge % 2 = 1) ∧ (bitOf (s.reg pgTime (0x110 + 0x20 * p.val)) 1 = true) ∧ (s.time.pulses.length = 4) ∧ ((pulseAt s.time p.val).start + (pulseAt s.time p.val).edge / 2 * (s.reg pgTime (0x108 + 0x20 * p.val)).toNat + (s.reg pgTime (0x10C + 0x20 * p.val)).toNat ≤ s.now) :=
  ⟨stPls 3 { Pulse.off with en := true, start := 5000, edge := 1, high := true } 5100, 1, by decide⟩
theorem witness_pulse_once_ends : ∃ (s : State) (p : PulseId), ((pulseAt s.time p.val).en = true ∧ (pulseAt s.time p.val).waitBar = false ∧ (pulseAt s.time p.val).edge = 1) ∧ (bitOf (s.reg pgTime (0x110 + 0x20 * p.val)) 1 = false) ∧ (s.time.pulses.length = 4) ∧ ((pulseAt s.time p.val).start + (s.reg pgTime (0x10C + 0x20 * p.val)).toNat ≤ s.now) :=
  ⟨stPls 1 { Pulse.off with en := true, start := 5000, edge := 1, high := true } 5100, 1, by decide⟩
theorem witness_pulse_early : ∃ (s : State) (p : PulseId), s.now < s.pulseEdgeAt p.val (pulseAt s.time p.val).edge :=
  ⟨stPls 1 { Pulse.off with en := true, start := 5000 } 4999, 1, by decide⟩

/-! TimingGroupsAndBarrier: states and operands that meet the hypotheses. -/

theorem witness_delay_conflict : ∃ (s : State) (q : CascId) (d : Fin 65536) (up : Option (Nat × Nat × Nat)) (b : Fin 32), (s.pwr.phase = .running) ∧ (s.dieTested 4 = false) ∧ (s.time.cascs.length = 4) ∧ (s.isMember = false ∧ s.timeRole = 0 ∧ s.barWaiting = false) :=
  ⟨State.reset, 2, 5, none, 1, by decide⟩
theorem witness_delay_member : ∃ (s : State) (q : CascId) (d : Fin 65536) (ns foff hops : Nat) (b : Fin 32), (s.pwr.phase = .running) ∧ (s.dieTested 4 = false) ∧ (s.isMember = true ∧ q.val = s.upPort) ∧ (s.time.casc = .none ∨ s.time.casc = .locked) :=
  ⟨stRole 2 0 State.reset.time, 0, 40, 1000, 5, 1, 1, by decide⟩
theorem witness_delay_standalone : ∃ (s : State) (q : CascId) (d : Fin 65536) (up : Option (Nat × Nat × Nat)) (b : Fin 32), (s.pwr.phase = .running) ∧ (s.dieTested 4 = false) ∧ (s.timeRole = 0) :=
  ⟨State.reset, 2, 5, none, 1, by decide⟩
theorem witness_up_lost : ∃ (s : State) (q : CascId), (s.isMember = true ∧ q.val = s.upPort) ∧ (s.barWaiting = false) :=
  ⟨stRole 2 0 State.reset.time, 0, by decide⟩
theorem witness_down_lost : ∃ (s : State) (q : CascId), (s.isMember = false) ∧ (s.time.barState ≠ .armed) :=
  ⟨State.reset, 1, by decide⟩
theorem witness_up_returns : ∃ (s : State) (q : CascId) (off : Int), (s.pwr.phase = .running) ∧ (s.dieTested 4 = false) ∧ (s.isMember = true ∧ q.val = s.upPort) ∧ (s.time.casc = .holdover) :=
  ⟨stRole 2 0 { State.reset.time with casc := .holdover }, 0, 900, by decide⟩
theorem witness_link_returns : ∃ (s : State) (q : CascId) (off : Int), (s.pwr.phase = .running) ∧ (s.dieTested 4 = false) ∧ (s.isMember = false) :=
  ⟨State.reset, 1, 900, by decide⟩
theorem witness_slew_done : ∃ (s : State), (s.time.casc = .slewing) ∧ (s.time.slew.natAbs ≤ (2 * s.time.hops + 2) * 2 ^ 28) :=
  ⟨{ State.reset with time := { State.reset.time with casc := .slewing, slew := 100 } }, by decide⟩
theorem witness_slew_goes_on : ∃ (s : State), s.time.casc ≠ .slewing ∨ (2 * s.time.hops + 2) * 2 ^ 28 < s.time.slew.natAbs :=
  ⟨State.reset, by decide⟩
theorem witness_announced : ∃ (s : State) (at0 : DWord) (st : Int) (f : Nat), (s.isMember = true) ∧ (s.now < at0.toNat) ∧ (s.downPorts = [] ∧ s.time.announce = []) :=
  ⟨stRole 2 0 State.reset.time, 900, 5, 0, by decide⟩
theorem witness_announce_other : ∃ (s : State) (at0 : DWord) (st : Int) (f : Nat), s.isMember = false :=
  ⟨State.reset, 900, 5, 0, by decide⟩
theorem witness_announce_applies : ∃ (s : State) (a : Announce), (s.time.announce = [a] ∧ a.at_ ≤ s.now) ∧ (a.step = 0) :=
  ⟨{ State.reset with time := { State.reset.time with announce := [{ at_ := 0, step := 0, foff := 7 }] } }, { at_ := 0, step := 0, foff := 7 }, by decide⟩
theorem witness_arm_alone : ∃ (s : State), (s.pwr.phase = .running) ∧ (s.recMode = 0) ∧ (s.barWaiting = false ∧ s.isMember = false ∧ s.downPorts = []) ∧ (s.time.oversize = false) :=
  ⟨State.reset, by decide⟩
theorem witness_fire_time : ∃ (s : State) (t : Nat), (s.time.barState = .armed ∧ s.isMember = false ∧ s.downPorts = []) ∧ (s.time.oversize = false) ∧ (s.time.foff ≤ s.now) ∧ (s.barCheck.time.barFire = some t) :=
  ⟨{ State.reset with time := { State.reset.time with barState := .armed } }, 10000000, by decide⟩
theorem witness_arm_waiting : ∃ (s : State), (s.pwr.phase = .running) ∧ (s.barWaiting = true) :=
  ⟨{ State.reset with time := { State.reset.time with barState := .armed } }, by decide⟩
theorem witness_ready_noted : ∃ (s : State) (q : CascId), (s.pwr.phase = .running) ∧ (s.time.barState ≠ .armed) :=
  ⟨State.reset, 1, by decide⟩
theorem witness_ready_passed : ∃ (s : State) (q : CascId), (s.pwr.phase = .running) ∧ (s.time.barState = .armed ∧ s.isMember = true) ∧ (s.downPorts = [q.val]) ∧ (s.time.cascs.length = 4) :=
  ⟨stRole 2 2 { State.reset.time with barState := .armed, cascs := cascUp 4 }, 1, by decide⟩
theorem witness_fire_heard : ∃ (s : State) (at0 : DWord), (s.isMember = true ∧ s.barWaiting = true) ∧ (s.now ≤ at0.toNat) ∧ (s.downPorts = []) :=
  ⟨stRole 2 0 { State.reset.time with barState := .ready }, 900, by decide⟩
theorem witness_fire_late : ∃ (s : State) (at0 : DWord), (s.isMember = true ∧ s.barWaiting = true) ∧ (at0.toNat < s.now) ∧ (s.downPorts = []) :=
  ⟨stRole 2 0 { State.reset.time with barState := .ready, ns := 1000 }, 900, by decide⟩
theorem witness_fire_other : ∃ (s : State) (at0 : DWord), s.isMember = false ∨ s.barWaiting = false :=
  ⟨State.reset, 900, by decide⟩
theorem witness_fires : ∃ (s : State) (f : Nat), (s.time.barFire = some f ∧ f ≤ s.now) ∧ (s.barWaiting = true) :=
  ⟨{ State.reset with time := { State.reset.time with barState := .ready, barFire := some 900, ns := 900 } }, 900, by decide⟩
theorem witness_not_yet : ∃ (s : State) (f : Nat), s.time.barFire = some f ∧ s.now < f :=
  ⟨{ State.reset with time := { State.reset.time with barState := .ready, barFire := some 901, ns := 900 } }, 901, by decide⟩
theorem witness_bar_timeout : ∃ (s : State), (s.isMember = false ∧ s.barWaiting = true) ∧ (s.time.armedAt + 1000000 * max 1 (fld s.time.barCfg 31 16) ≤ s.now) :=
  ⟨{ State.reset with time := { State.reset.time with barState := .armed, ns := 1000000000 } }, by decide⟩
theorem witness_bar_in_time : ∃ (s : State), s.now < s.time.armedAt + 1000000 * max 1 (fld s.time.barCfg 31 16) :=
  ⟨{ State.reset with time := { State.reset.time with barState := .armed } }, by decide⟩
theorem witness_aborted : ∃ (s : State), s.isMember = true ∧ s.barWaiting = true :=
  ⟨stRole 2 0 { State.reset.time with barState := .ready }, by decide⟩
theorem witness_abort_other : ∃ (s : State), s.isMember = false :=
  ⟨State.reset, by decide⟩
theorem witness_abort_passed : ∃ (s : State), s.isMember = true ∧ s.barWaiting = false :=
  ⟨stRole 2 0 State.reset.time, by decide⟩

/-! ReplayAndCheckUnits: states and operands that meet the hypotheses. -/

theorem witness_replay_off : ∃ (s : State), s.recMode ≠ 2 ∨ s.recd.running = false ∨ s.recd.stopped = true :=
  ⟨State.reset, by decide⟩
theorem witness_replay_empty : ∃ (s : State), (s.pwr.phase = .running) ∧ (s.recMode = 2 ∧ s.recd.running = true ∧ s.recd.stopped = false ∧ s.recUnits ≠ 0) ∧ (s.recHead % s.recUnits = s.recTail % s.recUnits) :=
  ⟨stRep [] 0 63 0, by decide⟩
theorem witness_replay_gap : ∃ (s : State), (s.pwr.phase = .running) ∧ (s.recMode = 2 ∧ s.recd.running = true ∧ s.recd.stopped = false ∧ s.recUnits ≠ 0) ∧ (s.recHead % s.recUnits ≠ s.recTail % s.recUnits) ∧ (s.recPoisoned s.recHead (s.recAt s.recHead).2.2.2.2 = false) ∧ ((s.recAt s.recHead).1 = 0x1F) :=
  ⟨stRep [0x1F, 4, 0, 0] 1 63 0, by decide⟩
theorem witness_replay_poisoned : ∃ (s : State), (s.pwr.phase = .running) ∧ (s.recMode = 2 ∧ s.recd.running = true ∧ s.recd.stopped = false ∧ s.recUnits ≠ 0) ∧ (s.recHead % s.recUnits ≠ s.recTail % s.recUnits) ∧ (s.recPoisoned s.recHead (s.recAt s.recHead).2.2.2.2 = true) :=
  ⟨{ stRep [0x1F, 4, 0, 0] 1 63 0 with mems := { MemSt.empty with poison := [pageKeyOf 4096 1 * 512] } }, by decide⟩
theorem witness_replay_class_off : ∃ (s : State), (s.pwr.phase = .running) ∧ (s.recMode = 2 ∧ s.recd.running = true ∧ s.recd.stopped = false ∧ s.recUnits ≠ 0) ∧ (s.recHead % s.recUnits ≠ s.recTail % s.recUnits) ∧ (s.recPoisoned s.recHead (s.recAt s.recHead).2.2.2.2 = false) ∧ ((s.recAt s.recHead).1 = 0x01) ∧ (s.recClass 0 = false) :=
  ⟨stRep [0x01, 4, 0, 0] 1 2 0, by decide⟩
theorem witness_replay_blaze : ∃ (s : State), (s.pwr.phase = .running) ∧ (s.recMode = 2 ∧ s.recd.running = true ∧ s.recd.stopped = false ∧ s.recUnits ≠ 0) ∧ (s.recHead % s.recUnits ≠ s.recTail % s.recUnits) ∧ (s.recPoisoned s.recHead (s.recAt s.recHead).2.2.2.2 = false) ∧ ((s.recAt s.recHead).1 = 0x10) :=
  ⟨stRep [0x10, 4, 0, 0] 1 63 0, by decide⟩
theorem witness_replay_early : ∃ (s : State), (s.pwr.phase = .running) ∧ (s.recMode = 2 ∧ s.recd.running = true ∧ s.recd.stopped = false ∧ s.recUnits ≠ 0) ∧ (s.recHead % s.recUnits ≠ s.recTail % s.recUnits) ∧ (s.recPoisoned s.recHead (s.recAt s.recHead).2.2.2.2 = false) ∧ ((s.recAt s.recHead).1 = 0x08) ∧ (s.recClass 4 = true) ∧ (s.now < (s.recd.origin + (s.recAt s.recHead).2.2.1) % 2 ^ 64) :=
  ⟨stRep [0x08, 4, 0, 0] 1 63 999, by decide⟩
theorem witness_replay_pps : ∃ (s : State), (s.pwr.phase = .running) ∧ (s.recMode = 2 ∧ s.recd.running = true ∧ s.recd.stopped = false ∧ s.recUnits ≠ 0) ∧ (s.recHead % s.recUnits ≠ s.recTail % s.recUnits) ∧ (s.recPoisoned s.recHead (s.recAt s.recHead).2.2.2.2 = false) ∧ ((s.recAt s.recHead).1 = 0x08 ∧ (s.recAt s.recHead).2.1 = 0xFFFF) ∧ (s.recClass 4 = true) ∧ ((s.recd.origin + (s.recAt s.recHead).2.2.1) % 2 ^ 64 ≤ s.now ∧ s.now ≤ (s.recd.origin + (s.recAt s.recHead).2.2.1) % 2 ^ 64 + 1000) :=
  ⟨stRep [0x000C0008, 0xFFFF, 0, 0, 7, 0, 9] 2 63 1000, by decide⟩
theorem witness_replay_late : ∃ (s : State), (s.pwr.phase = .running) ∧ (s.recMode = 2 ∧ s.recd.running = true ∧ s.recd.stopped = false ∧ s.recUnits ≠ 0) ∧ (s.recHead % s.recUnits ≠ s.recTail % s.recUnits) ∧ (s.recPoisoned s.recHead (s.recAt s.recHead).2.2.2.2 = false) ∧ ((s.recAt s.recHead).1 = 0x08 ∧ (s.recAt s.recHead).2.1 = 0xFFFF) ∧ (s.recClass 4 = true) ∧ ((s.recd.origin + (s.recAt s.recHead).2.2.1) % 2 ^ 64 + 1000 < s.now) :=
  ⟨stRep [0x000C0008, 0xFFFF, 0, 0, 7, 0, 9] 2 63 5000, by decide⟩
theorem witness_chk_close : ∃ (s : State) (k : ChkId), (s.pwr.phase = .running) ∧ (bitOf (s.reg (pgChk k.val) 0x010) 9 = true) ∧ (bitOf (s.reg (pgChk k.val) 0x010) 10 = true ∨ (crcEnd (chkWidth (s.reg (pgChk k.val) 0x010)) (s.reg (pgChk k.val) 0x01C).toNat (bitOf (s.reg (pgChk k.val) 0x010) 7) (s.chk k.val).crc) = (s.reg (pgChk k.val) 0x020).toNat) :=
  ⟨(State.reset.setReg (pgChk 3) 0x010 0x220).setReg (pgChk 3) 0x020 (w32 (crcEnd 32 ((State.reset.reg (pgChk 3) 0x01C).toNat) false 0)), 3, by decide⟩
theorem witness_chk_close_bad : ∃ (s : State) (k : ChkId), (s.pwr.phase = .running) ∧ (bitOf (s.reg (pgChk k.val) 0x010) 9 = true) ∧ (bitOf (s.reg (pgChk k.val) 0x010) 10 = false ∧ (crcEnd (chkWidth (s.reg (pgChk k.val) 0x010)) (s.reg (pgChk k.val) 0x01C).toNat (bitOf (s.reg (pgChk k.val) 0x010) 7) (s.chk k.val).crc) ≠ (s.reg (pgChk k.val) 0x020).toNat) :=
  ⟨(State.reset.setReg (pgChk 3) 0x010 0x220).setReg (pgChk 3) 0x020 (w32 (1 + crcEnd 32 ((State.reset.reg (pgChk 3) 0x01C).toNat) false 0)), 3, by decide⟩
theorem witness_chk_close_single : ∃ (s : State) (k : ChkId), (s.pwr.phase = .running) ∧ (bitOf (s.reg (pgChk k.val) 0x010) 9 = false) :=
  ⟨State.reset, 3, by decide⟩
theorem witness_chk_restart : ∃ (s : State) (k : ChkId), s.pwr.phase = .running :=
  ⟨State.reset, 3, by decide⟩

/-! HostLink: states and operands that meet the hypotheses. -/

theorem witness_win_closed : ∃ (s : State) (addr : Fin 274877906944) (op : AccessOp), (s.pwr.phase = .running) ∧ (s.cxl.state ≠ .up ∨ s.cxl.insecure.contains 4 = true) :=
  ⟨State.reset, 0, .read 4, by decide⟩
theorem witness_win_none_read : ∃ (s : State) (addr : Fin 274877906944) (n : Nat), (s.pwr.phase = .running) ∧ (s.cxl.state = .up ∧ s.cxl.insecure.contains 4 = false) ∧ (((s.chkCxl false).chkCxl true).windowMap addr.val = none) :=
  ⟨stUpC, 0, 4, by decide⟩
theorem witness_win_none_write : ∃ (s : State) (addr : Fin 274877906944) (bs : List Byte), (s.pwr.phase = .running) ∧ (s.cxl.state = .up ∧ s.cxl.insecure.contains 4 = false) ∧ (((s.chkCxl false).chkCxl true).windowMap addr.val = none) :=
  ⟨stUpC, 0, [1], by decide⟩
theorem witness_win_read : ∃ (s : State) (addr : Fin 274877906944) (n va : Nat) (sp : Space), (s.pwr.phase = .running) ∧ (s.cxl.state = .up ∧ s.cxl.insecure.contains 4 = false) ∧ (((s.chkCxl false).chkCxl true).windowMap addr.val = some (sp, va)) ∧ (((s.chkCxl false).chkCxl true).accCode sp va n = .ok ∧ ((s.chkCxl false).chkCxl true).firstWait sp va n false = none) ∧ ((((s.chkCxl false).chkCxl true).portAsks { who := cxlReq, work := .window sp va (.read n), tag := ((s.chkCxl false).chkCxl true).tag7, late := false } (((s.chkCxl false).chkCxl true).domainOf sp) (((s.chkCxl false).chkCxl true).accPoints 4 sp va n)).1 = true) ∧ ((((((s.chkCxl false).chkCxl true).portAsks { who := cxlReq, work := .window sp va (.read n), tag := ((s.chkCxl false).chkCxl true).tag7, late := false } (((s.chkCxl false).chkCxl true).domainOf sp) (((s.chkCxl false).chkCxl true).accPoints 4 sp va n)).2.hostTakes (spaceIdx sp) va n false).loadDev sp va n).1 = .ok) :=
  ⟨stWin, 8, 4, 8, .dom0, by decide⟩
theorem witness_win_read_poisoned : ∃ (s : State) (addr : Fin 274877906944) (n va : Nat) (sp : Space), (s.pwr.phase = .running) ∧ (s.cxl.state = .up ∧ s.cxl.insecure.contains 4 = false) ∧ (((s.chkCxl false).chkCxl true).windowMap addr.val = some (sp, va)) ∧ (((s.chkCxl false).chkCxl true).accCode sp va n = .ok ∧ ((s.chkCxl false).chkCxl true).firstWait sp va n false = none) ∧ ((((s.chkCxl false).chkCxl true).portAsks { who := cxlReq, work := .window sp va (.read n), tag := ((s.chkCxl false).chkCxl true).tag7, late := false } (((s.chkCxl false).chkCxl true).domainOf sp) (((s.chkCxl false).chkCxl true).accPoints 4 sp va n)).1 = true) ∧ ((((((s.chkCxl false).chkCxl true).portAsks { who := cxlReq, work := .window sp va (.read n), tag := ((s.chkCxl false).chkCxl true).tag7, late := false } (((s.chkCxl false).chkCxl true).domainOf sp) (((s.chkCxl false).chkCxl true).accPoints 4 sp va n)).2.hostTakes (spaceIdx sp) va n false).loadDev sp va n).1 = .tierError) :=
  ⟨stWinP, 8, 4, 8, .dom0, by decide⟩
theorem witness_win_read_refused : ∃ (s : State) (addr : Fin 274877906944) (n va : Nat) (sp : Space), (s.pwr.phase = .running) ∧ (s.cxl.state = .up ∧ s.cxl.insecure.contains 4 = false) ∧ (((s.chkCxl false).chkCxl true).windowMap addr.val = some (sp, va)) ∧ (((s.chkCxl false).chkCxl true).accCode sp va n = .keyDenied) :=
  ⟨stWin3, 8, 4, 8, .inst 3, by decide⟩
theorem witness_win_waits : ∃ (s : State) (addr : Fin 274877906944) (n va pk : Nat) (sp : Space) (t3 : Bool), (s.pwr.phase = .running) ∧ (s.cxl.state = .up ∧ s.cxl.insecure.contains 4 = false) ∧ (((s.chkCxl false).chkCxl true).windowMap addr.val = some (sp, va)) ∧ (((s.chkCxl false).chkCxl true).accCode sp va n = .ok ∧ ((s.chkCxl false).chkCxl true).firstWait sp va n false = some (pk, t3)) :=
  ⟨stWinT, 8, 4, 8, pageKeyOf 4096 0, .dom0, true, by decide⟩
theorem witness_win_write : ∃ (s : State) (addr : Fin 274877906944) (bs : List Byte) (va : Nat) (sp : Space), (s.pwr.phase = .running) ∧ (s.cxl.state = .up ∧ s.cxl.insecure.contains 4 = false) ∧ (((s.chkCxl false).chkCxl true).windowMap addr.val = some (sp, va)) ∧ (((s.chkCxl false).chkCxl true).recMode = 0) ∧ (((s.chkCxl false).chkCxl true).accCode sp va bs.length = .ok) ∧ (progExtent sp va bs.length = false) ∧ ((((s.chkCxl false).chkCxl true).portAsks { who := cxlReq, work := .window sp va (.write bs), tag := ((s.chkCxl false).chkCxl true).tag7, late := false } (((s.chkCxl false).chkCxl true).domainOf sp) (((s.chkCxl false).chkCxl true).accPoints 4 sp va bs.length)).1 = true) ∧ ((((((s.chkCxl false).chkCxl true).portAsks { who := cxlReq, work := .window sp va (.write bs), tag := ((s.chkCxl false).chkCxl true).tag7, late := false } (((s.chkCxl false).chkCxl true).domainOf sp) (((s.chkCxl false).chkCxl true).accPoints 4 sp va bs.length)).2.hostTakes (spaceIdx sp) va bs.length false).storeDev sp va bs).1 = .ok) ∧ (((s.chkCxl false).chkCxl true).firstWait sp va bs.length true = none) :=
  ⟨stWinB, 8, [1, 2], 8, .dom0, by decide⟩
theorem witness_win_write_held : ∃ (s : State) (addr : Fin 274877906944) (bs : List Byte) (va : Nat) (sp : Space), (s.pwr.phase = .running) ∧ (s.cxl.state = .up ∧ s.cxl.insecure.contains 4 = false) ∧ (((s.chkCxl false).chkCxl true).windowMap addr.val = some (sp, va)) ∧ (((s.chkCxl false).chkCxl true).recMode = 0) ∧ (((s.chkCxl false).chkCxl true).accCode sp va bs.length = .ok) ∧ (progExtent sp va bs.length = false) ∧ (((s.chkCxl false).chkCxl true).firstWait sp va bs.length true = none) ∧ ((((s.chkCxl false).chkCxl true).portAsks { who := cxlReq, work := .window sp va (.write bs), tag := ((s.chkCxl false).chkCxl true).tag7, late := false } (((s.chkCxl false).chkCxl true).domainOf sp) (((s.chkCxl false).chkCxl true).accPoints 4 sp va bs.length)).1 = false) :=
  ⟨{ stWinB with mems := { stWinB.mems with held := [{ who := 64, work := .window .dom0 0 (.read 4), tag := 9, late := false }] } }, 8, [1, 2], 8, .dom0, by decide⟩
theorem witness_host_line_snooped : ∃ (s : State) (k va len x : Nat), (s.cxl.hostLines = [x]) ∧ (devKey k va / 64 ≤ x ∧ x ≤ (devKey k va + len - 1) / 64) :=
  ⟨{ State.reset with cxl := { CxlSt.reset with hostLines := [(devKey 4096 0) / 64] } }, 4096, 0, 64, (devKey 4096 0) / 64, by decide⟩
theorem witness_win_write_waits : ∃ (s : State) (addr : Fin 274877906944) (bs : List Byte) (va pk : Nat) (sp : Space) (t3 : Bool), (s.pwr.phase = .running) ∧ (s.cxl.state = .up ∧ s.cxl.insecure.contains 4 = false) ∧ (((s.chkCxl false).chkCxl true).windowMap addr.val = some (sp, va)) ∧ (((s.chkCxl false).chkCxl true).recMode = 0) ∧ (((s.chkCxl false).chkCxl true).accCode sp va bs.length = .ok) ∧ (progExtent sp va bs.length = false) ∧ (((s.chkCxl false).chkCxl true).firstWait sp va bs.length true = some (pk, t3)) :=
  ⟨stWin, 8, [1, 2], 8, pageKeyOf 4096 0, .dom0, true, by decide⟩
theorem witness_win_write_refused : ∃ (s : State) (addr : Fin 274877906944) (bs : List Byte) (va : Nat) (sp : Space), (s.pwr.phase = .running) ∧ (s.cxl.state = .up ∧ s.cxl.insecure.contains 4 = false) ∧ (((s.chkCxl false).chkCxl true).windowMap addr.val = some (sp, va)) ∧ (((s.chkCxl false).chkCxl true).recMode = 0) ∧ (((s.chkCxl false).chkCxl true).accCode sp va bs.length ≠ .ok) :=
  ⟨stWin3, 8, [1, 2], 8, .inst 3, by decide⟩
theorem witness_win_replay : ∃ (s : State) (addr : Fin 274877906944) (bs : List Byte) (va : Nat) (sp : Space), (s.pwr.phase = .running) ∧ (s.cxl.state = .up ∧ s.cxl.insecure.contains 4 = false) ∧ (((s.chkCxl false).chkCxl true).windowMap addr.val = some (sp, va)) ∧ (((s.chkCxl false).chkCxl true).recMode = 2 ∧ ((s.chkCxl false).chkCxl true).recd.running = true ∧ ((s.chkCxl false).chkCxl true).recClass 2 = true) :=
  ⟨stWinR, 8, [1, 2], 8, .dom0, by decide⟩
theorem witness_ats_refused : ∃ (s : State) (p : BitVec 20) (f n : Nat), (s.cxl.denied = []) ∧ (0 < n) :=
  ⟨State.reset, 5, 1, 2, by decide⟩
theorem witness_ats_given : ∃ (s : State) (p : BitVec 20) (f n : Nat), (s.cxl.denied = [(p.toNat, f, n)]) ∧ (0 < n) :=
  ⟨{ State.reset with cxl := { CxlSt.reset with denied := [(5, 1, 2)] } }, 5, 1, 2, by decide⟩
theorem witness_ide_fail_mem : ∃ (s : State), (s.pwr.phase = .running) ∧ (s.cxl.insecure = []) :=
  ⟨State.reset, by decide⟩
theorem witness_ide_fail_io : ∃ (s : State) (n : Fin 4), (s.pwr.phase = .running) ∧ (s.cxl.insecure = []) ∧ (s.cxl.ide / 2 ^ n.val % 2 = 1) :=
  ⟨{ State.reset with cxl := { CxlSt.reset with ide := 4 } }, 2, by decide⟩
theorem witness_tsp_lock : ∃ (s : State) (i : InstId), s.pwr.phase = .running :=
  ⟨State.reset, 3, by decide⟩
theorem witness_cxl_up : ∃ (s : State) (w r : Nat) (f : Bool), (s.cxl.state = .training) ∧ (w ∈ [1, 2, 4, 8] ∧ r ∈ [16, 32, 64]) :=
  ⟨State.reset, 8, 64, true, by decide⟩
theorem witness_cxl_not_training : ∃ (s : State) (w r : Nat) (f : Bool), s.cxl.state ≠ .training :=
  ⟨stWin, 8, 64, true, by decide⟩
theorem witness_l2q_tail : ∃ (s : State) (q : Fin 8) (v : Word) (a : Nat), (s.pwr.phase = .running) ∧ (s.replayed 2 = false) ∧ (a = (s.l2q q.val).inHead ∧ fld v 15 0 = (a + 1) % 65536 ∧ a < 65536) ∧ (s.ringIdx pgCxl (l2qBase q.val) = a) ∧ (s.ringOn pgCxl (l2qBase q.val) = true) :=
  ⟨State.reset.setReg pgCxl 0x108 0x104, 0, 1, 0, by decide⟩
theorem witness_l2q_tail_bad : ∃ (s : State) (q : Fin 8) (v : Word), (s.pwr.phase = .running) ∧ (s.replayed 2 = false) ∧ (s.ringLen pgCxl (l2qBase q.val) < idxGap (s.l2q q.val).inHead (fld v 15 0)) :=
  ⟨State.reset, 0, 600, by decide⟩
theorem witness_l2q_dhead : ∃ (s : State) (q : Fin 8) (v : Word), (s.pwr.phase = .running) ∧ (s.replayed 2 = false) ∧ ((s.l2q q.val).waiting = []) :=
  ⟨State.reset, 0, 5, by decide⟩
theorem witness_i3c_entdaa : ∃ (s : State) (a : Nat), s.i3c.addr = none :=
  ⟨State.reset, 9, by decide⟩
theorem witness_i3c_entdaa_again : ∃ (s : State) (a : Nat), s.i3c.addr ≠ none :=
  ⟨{ State.reset with i3c := { I3cSt.reset with addr := some 9 } }, 9, by decide⟩
theorem witness_i3c_setnewda : ∃ (s : State) (a : Nat), s.i3c.addr ≠ none :=
  ⟨{ State.reset with i3c := { I3cSt.reset with addr := some 9 } }, 10, by decide⟩
theorem witness_i3c_getpid : ∃ (s : State) (a : Nat), s.i3c.addr ≠ none :=
  ⟨{ State.reset with i3c := { I3cSt.reset with addr := some 9 } }, 10, by decide⟩
theorem witness_i3c_write : ∃ (s : State) (b : Byte), (s.i3c.addr ≠ none) ∧ (b.toNat < 32) :=
  ⟨{ State.reset with i3c := { I3cSt.reset with addr := some 9 } }, 31, by decide⟩
theorem witness_i3c_write_bad : ∃ (s : State) (b : Byte), s.i3c.addr = none ∨ 32 ≤ b.toNat :=
  ⟨{ State.reset with i3c := { I3cSt.reset with addr := some 9 } }, 32, by decide⟩
theorem witness_i3c_read : ∃ (s : State) (n : Nat), s.i3c.addr ≠ none :=
  ⟨{ State.reset with i3c := { I3cSt.reset with addr := some 9, ptr := 30 } }, 4, by decide⟩
theorem witness_i3c_read_none : ∃ (s : State) (n : Nat), s.i3c.addr = none :=
  ⟨State.reset, 4, by decide⟩
theorem witness_snapshot : ∃ (s : State) (r : Readings), s.i3c.ibi = false :=
  ⟨State.reset, { dies := [], hbm := 0, stage := 0, voltage := 5400, current := 100, power := 200 }, by decide⟩
theorem witness_snapshot_ibi : ∃ (s : State) (r : Readings), (s.i3c.ibi = true) ∧ (s.i3c.flags = 0 ∧ r.voltage < 4800) :=
  ⟨{ State.reset with i3c := { I3cSt.reset with ibi := true } }, { dies := [], hbm := 0, stage := 0, voltage := 4700, current := 100, power := 200 }, by decide⟩

/-! EthernetPorts: states and operands that meet the hypotheses. -/

theorem witness_eth_not_up : ∃ (s : State) (p : EthPort) (f : EthFrame), (s.ethp p.val).up / 2 ^ f.sub % 2 ≠ 1 :=
  ⟨State.reset, 1, frm (.other []) 64, by decide⟩
theorem witness_eth_fcs : ∃ (s : State) (p : EthPort) (f : EthFrame) (j : Inj), ((s.ethp p.val).up / 2 ^ f.sub % 2 = 1) ∧ (s.bist.inj.find 6 = some j) ∧ (j.arg % 8 = f.sub ∧ j.target = p.val ∧ j.every = true) :=
  ⟨{ stEth { EthSt.reset with up := 1 } with bist := { State.reset.bist with inj := [(6, { target := 1, arg := 0, every := true })] } }, 1, frm (.other []) 64, { target := 1, arg := 0, every := true }, by decide⟩
theorem witness_eth_long : ∃ (s : State) (p : EthPort) (f : EthFrame), ((s.ethp p.val).up / 2 ^ f.sub % 2 = 1) ∧ (s.bist.inj.find 6 = none) ∧ (9216 < f.len) :=
  ⟨stEth { EthSt.reset with up := 1 }, 1, frm (.other []) 9217, by decide⟩
set_option maxRecDepth 20000 in
theorem witness_eth_policed : ∃ (s : State) (p : EthPort) (f : EthFrame), ((s.ethp p.val).up / 2 ^ f.sub % 2 = 1) ∧ (s.bist.inj.find 6 = none) ∧ (f.len ≤ 9216) ∧ (((s.chkEth p.val false (frameEaxc f.body) f.raw).policeFrame p.val f).1 = false) :=
  ⟨stEth { EthSt.reset with up := 1 }, 1, frm (.other []) 64, by decide⟩
set_option maxRecDepth 20000 in
theorem witness_eth_address : ∃ (s : State) (p : EthPort) (f : EthFrame), ((s.ethp p.val).up / 2 ^ f.sub % 2 = 1) ∧ (s.bist.inj.find 6 = none) ∧ (f.len ≤ 9216) ∧ (((s.chkEth p.val false (frameEaxc f.body) f.raw).policeFrame p.val f).1 = true) ∧ (((s.chkEth p.val false (frameEaxc f.body) f.raw).policeFrame p.val f).2.addressOk p.val f = false) :=
  ⟨stEth { EthSt.reset with up := 1, mgTok := (80000, 0) }, 1, { frm (.other []) 64 with dst := 1 }, by decide⟩
set_option maxRecDepth 20000 in
theorem witness_eth_delivered : ∃ (s : State) (p : EthPort) (f : EthFrame), ((s.ethp p.val).up / 2 ^ f.sub % 2 = 1) ∧ (s.bist.inj.find 6 = none) ∧ (f.len ≤ 9216) ∧ (((s.chkEth p.val false (frameEaxc f.body) f.raw).policeFrame p.val f).1 = true) ∧ (((s.chkEth p.val false (frameEaxc f.body) f.raw).policeFrame p.val f).2.addressOk p.val f = true) :=
  ⟨stEth { EthSt.reset with up := 1, mgTok := (80000, 0) }, 1, frm (.other []) 64, by decide⟩
theorem witness_eth_unsup : ∃ (s : State) (p t : Nat) (f : EthFrame) (h : EcpriHead), (f.body = .ecpriOther h t ∧ h.rev = 1 ∧ h.concat = false) ∧ (t = 1 ∨ t = 3 ∨ t = 4 ∨ t = 6 ∨ t = 7) :=
  ⟨State.reset, 1, 7, frm (.ecpriOther { size := 4 } 7) 64, { size := 4 }, by decide⟩
theorem witness_eth_unclaimed : ∃ (s : State) (p t : Nat) (f : EthFrame) (h : EcpriHead), (f.body = .ecpriOther h t ∧ h.rev = 1 ∧ h.concat = false) ∧ (t = 2 ∨ 8 ≤ t) :=
  ⟨State.reset, 1, 2, frm (.ecpriOther { size := 4 } 2) 64, { size := 4 }, by decide⟩
theorem witness_eth_revision : ∃ (s : State) (p : Nat) (f : EthFrame) (h : EcpriHead) (t : Nat), (f.body = .ecpriOther h t) ∧ (h.rev ≠ 1 ∨ h.concat = true) :=
  ⟨State.reset, 1, frm (.ecpriOther { rev := 2, size := 4 } 7) 64, { rev := 2, size := 4 }, 7, by decide⟩
theorem witness_eth_unknown : ∃ (s : State) (p e : Nat) (f : EthFrame) (h : EcpriHead) (r : Option RadioHead) (b : Bool) (xs : List USection), s.ruOk p f.src e = false :=
  ⟨State.reset, 1, 5, frm (.ecpriOther { size := 4 } 5) 64, { size := 4 }, none, true, [], by decide⟩
theorem witness_eth_size : ∃ (s : State) (p e : Nat) (f : EthFrame) (h : EcpriHead) (r : Option RadioHead) (b : Bool) (xs : List USection), (h.rev = 1 ∧ h.concat = false ∧ s.ruOk p f.src e = true) ∧ (h.size ≠ frameEcpriBytes f) :=
  ⟨State.reset.setReg (pgEth 1) 0x204 0x80000 |>.setReg (pgEth 1) 0x208 0xFFFF0000, 1, 5, frm (.ecpriOther { size := 4 } 5) 64, { size := 4 }, none, true, [], by decide⟩
theorem witness_dgram_bad : ∃ (s : State) (p : EthPort) (ip : Nat) (fr : Bool) (ver : Nat) (c : CellId) (id : Word) (off total : Nat) (bs : List Byte), (s.pwr.phase = .running) ∧ (fr = true ∨ ver ≠ 1 ∨ total < off + bs.length ∨ total < 16 ∨ total % 8 ≠ 0) :=
  ⟨State.reset, 1, 0, false, 2, 3, 0, 0, 16, [], by decide⟩
theorem witness_dgram_unknown : ∃ (s : State) (p : EthPort) (ip : Nat) (fr : Bool) (ver : Nat) (c : CellId) (id : Word) (off total : Nat) (bs : List Byte), (s.pwr.phase = .running) ∧ (fr = false ∧ ver = 1 ∧ off + bs.length ≤ total ∧ 16 ≤ total ∧ total % 8 = 0) ∧ (dL2Path (s.cell c.val).desc = false) :=
  ⟨State.reset, 1, 0, false, 1, 3, 0, 0, 16, [], by decide⟩
theorem witness_dgram_part : ∃ (s : State) (p ip cell : Nat) (id : Word) (off total : Nat) (bs : List Byte), (off + bs.length ≤ total ∧ 16 ≤ total ∧ total % 8 = 0) ∧ ((s.peer p 2 cell).isSome = true ∧ dL2Path (s.cell cell).desc = true ∧ dL2Port (s.cell cell).desc = p) ∧ ((s.ethp p).reasm = []) ∧ (coversAll [(off, bs.length)] total = false) :=
  ⟨stDg, 1, 5, 3, 9, 8, 16, List.replicate 8 1, by decide⟩
theorem witness_dgram_whole : ∃ (s : State) (p ip cell : Nat) (id : Word) (total : Nat) (bs : List Byte), (bs.length = total ∧ 16 ≤ total ∧ total % 8 = 0) ∧ ((s.peer p 2 cell).isSome = true ∧ dL2Path (s.cell cell).desc = true ∧ dL2Port (s.cell cell).desc = p) ∧ ((s.ethp p).reasm = []) :=
  ⟨stDg, 1, 5, 3, 9, 16, List.replicate 16 1, by decide⟩
theorem witness_reasm_timeout : ∃ (s : State) (p : EthPort), (s.ethp p.val).reasm.all (fun r => decide (s.now < r.since + 2 * dTslot (s.cell r.cell).desc)) = true :=
  ⟨State.reset, 1, by decide⟩
theorem witness_reasm_dropped : ∃ (s : State) (p : EthPort) (r : Reasm), ((s.ethp p.val).reasm = [r] ∧ r.first = false) ∧ (r.since + 2 * dTslot (s.cell r.cell).desc ≤ s.now) :=
  ⟨{ stEth { EthSt.reset with reasm := [{ src := 0, cell := 3, msgid := 0, total := 16, since := 0, first := false, got := [], bytes := [] }] } with time := { State.reset.time with ns := 9000000 } }, 1, { src := 0, cell := 3, msgid := 0, total := 16, since := 0, first := false, got := [], bytes := [] }, by decide⟩
theorem witness_mtx_tail : ∃ (s : State) (p : EthPort) (v : Word) (a : Nat), (s.pwr.phase = .running) ∧ (s.recMode = 0) ∧ (a = (s.ethp p.val).mtxHead ∧ fld v 15 0 = (a + 1) % 65536 ∧ a < 65536) ∧ (s.ringIdx (pgEth p.val) 0x600 = a) ∧ (s.ringOn (pgEth p.val) 0x600 = true) :=
  ⟨State.reset.setReg (pgEth 1) 0x608 0x104, 1, 1, 0, by decide⟩
theorem witness_mtx_tail_bad : ∃ (s : State) (p : EthPort) (v : Word), (s.pwr.phase = .running) ∧ (s.recMode = 0) ∧ (s.ringLen (pgEth p.val) 0x600 < idxGap (s.ethp p.val).mtxHead (fld v 15 0)) :=
  ⟨State.reset, 1, 600, by decide⟩
theorem witness_sub_down : ∃ (s : State) (p : EthPort) (sub : Fin 8), ((s.ethp p.val).up / 2 ^ sub.val % 2 = 1) ∧ (s.isMember = true ∨ s.refSrc ≠ p.val + 1 ∨ s.time.pll = .holdover) :=
  ⟨stEth { EthSt.reset with up := 5, wheel := [wFrame 9, { wFrame 4 with tsreq := true }] }, 1, 0, by decide⟩
theorem witness_sub_down_ref : ∃ (s : State) (p : EthPort) (sub : Fin 8), ((s.ethp p.val).up = 2 ^ sub.val ∧ (s.ethp p.val).wheel = []) ∧ (s.isMember = false ∧ s.refSrc = p.val + 1 ∧ s.time.pll ≠ .holdover) :=
  ⟨(stEth { EthSt.reset with up := 4 }).setReg pgTime 0x010 2, 1, 2, by decide⟩
theorem witness_sub_down_already : ∃ (s : State) (p : EthPort) (sub : Fin 8), (s.ethp p.val).up / 2 ^ sub.val % 2 ≠ 1 :=
  ⟨State.reset, 1, 0, by decide⟩
theorem witness_sub_up : ∃ (s : State) (p : EthPort) (sub : Fin 8), (bitOf (s.reg (pgEth p.val) 0x014) 0 = true ∧ s.dieTested (4 + p.val / 4) = false) ∧ (sub.val < s.subCount p.val ∧ s.role p.val sub.val ≠ 0) ∧ ((s.ethp p.val).up / 2 ^ sub.val % 2 = 0) :=
  ⟨stEth EthSt.reset, 1, 0, by decide⟩
theorem witness_sub_up_disabled : ∃ (s : State) (p : EthPort) (sub : Fin 8), bitOf (s.reg (pgEth p.val) 0x014) 0 = false ∨ s.dieTested (4 + p.val / 4) = true :=
  ⟨State.reset, 1, 0, by decide⟩

/-! TrustAndAttestation: states and operands that meet the hypotheses. -/

theorem witness_bind : ∃ (s : State) (v : Word), (s.pwr.phase = .running) ∧ (s.recMode = 0) ∧ (fld v 1 0 = 1) ∧ (s.seed.job = none) :=
  ⟨State.reset, 1, by decide⟩
theorem witness_bind_busy : ∃ (s : State) (v : Word), (s.pwr.phase = .running) ∧ (s.recMode = 0) ∧ (fld v 1 0 = 1) ∧ (s.seed.job ≠ none) :=
  ⟨stSeed { SeedSt.reset with job := some (.unbind 1) }, 1, by decide⟩
theorem witness_bind_done : ∃ (s : State) (a n : Nat) (st : List Word), s.seed.job = some (.bind a n st) ∧ s.seed.jobHeld = false :=
  ⟨stSeed { SeedSt.reset with job := some (.bind 0 64 []) }, 0, 64, [], by decide⟩
theorem witness_bind_held : ∃ (s : State), s.seed.job = none ∨ s.seed.jobHeld = true :=
  ⟨State.reset, by decide⟩
theorem witness_bind_reports : ∃ (s : State) (a n : Nat) (st : List Word), (s.loadDev .dom0 a n).1 = .ok :=
  ⟨State.reset, 0, 64, [], by decide⟩
theorem witness_bind_form_first : ∃ (s : State) (bs : List Byte) (n : Nat) (st : List Word), pkgForm bs n = false :=
  ⟨State.reset, [], 64, [], by decide⟩
theorem witness_bind_no_anchor : ∃ (s : State) (bs : List Byte) (n : Nat) (st : List Word), s.seed.anchors = [] :=
  ⟨State.reset, [], 64, [], by decide⟩
theorem witness_unbind : ∃ (s : State) (v : Word), (s.pwr.phase = .running) ∧ (s.recMode = 0) ∧ (fld v 1 0 = 2) ∧ (s.seed.job = none) ∧ (s.coord.busy = false) :=
  ⟨State.reset, 0x12, by decide⟩
theorem witness_unbind_held : ∃ (s : State) (v : Word), (s.pwr.phase = .running) ∧ (s.recMode = 0) ∧ (fld v 1 0 = 2) ∧ (s.seed.job = none) ∧ (s.coord.busy = true) :=
  ⟨{ State.reset with coord := { Coord.reset with busy := true } }, 0x12, by decide⟩
theorem witness_pkg_read : ∃ (s : State) (v : Word) (p : Pkg), (s.pwr.phase = .running) ∧ (s.recMode = 0) ∧ (fld v 1 0 = 3) ∧ (s.seed.job = none) ∧ (s.seed.pkgs.find (fld v 14 4) = some p) :=
  ⟨stSeed { SeedSt.reset with pkgs := [(1, pkgA)] }, 0x13, pkgA, by decide⟩
theorem witness_pkg_read_none : ∃ (s : State) (v : Word), (s.pwr.phase = .running) ∧ (s.recMode = 0) ∧ (fld v 1 0 = 3) ∧ (s.seed.job = none) ∧ (s.seed.pkgs.find (fld v 14 4) = none) :=
  ⟨State.reset, 0x13, by decide⟩
theorem witness_anc_install : ∃ (s : State) (v : Word), (s.pwr.phase = .running) ∧ (s.recMode = 0) ∧ (bitOf v 0 = true) ∧ ((s.loadDev .dom0 (fld (s.reg pgSeed 0x10C) 31 12 * 4096 + fld (s.reg pgSeed 0x110) 7 0 * 2 ^ 32) 96).1 = .ok) ∧ (fld (wAt (wordsOf 24 (s.loadDev .dom0 (fld (s.reg pgSeed 0x10C) 31 12 * 4096 + fld (s.reg pgSeed 0x110) 7 0 * 2 ^ 32) 96).2.1) 0) 3 0 = 1) :=
  ⟨stAnc 0x8001, 1, by decide⟩
theorem witness_anc_clear : ∃ (s : State) (v : Word), (s.pwr.phase = .running) ∧ (s.recMode = 0) ∧ (bitOf v 0 = true) ∧ ((s.loadDev .dom0 (fld (s.reg pgSeed 0x10C) 31 12 * 4096 + fld (s.reg pgSeed 0x110) 7 0 * 2 ^ 32) 96).1 = .ok) ∧ (fld (wAt (wordsOf 24 (s.loadDev .dom0 (fld (s.reg pgSeed 0x10C) 31 12 * 4096 + fld (s.reg pgSeed 0x110) 7 0 * 2 ^ 32) 96).2.1) 0) 3 0 = 2) :=
  ⟨stAnc 2, 1, by decide⟩
theorem witness_anc_raise : ∃ (s : State) (v : Word), (s.pwr.phase = .running) ∧ (s.recMode = 0) ∧ (bitOf v 0 = true) ∧ ((s.loadDev .dom0 (fld (s.reg pgSeed 0x10C) 31 12 * 4096 + fld (s.reg pgSeed 0x110) 7 0 * 2 ^ 32) 96).1 = .ok) ∧ (fld (wAt (wordsOf 24 (s.loadDev .dom0 (fld (s.reg pgSeed 0x10C) 31 12 * 4096 + fld (s.reg pgSeed 0x110) 7 0 * 2 ^ 32) 96).2.1) 0) 3 0 = 3) :=
  ⟨stAnc 3, 1, by decide⟩
theorem witness_anc_first : ∃ (s : State) (ws : List Word) (b g : List Byte), (s.seed.anchors = []) ∧ (fld (wAt ws 0) 3 0 = 1 ∧ fld (wAt ws 0) 7 4 = 0 ∧ fld (wAt ws 0) 15 12 = 8 ∧ fld (wAt ws 0) 31 16 = 0) ∧ ((wAt ws 1).toNat = s.seed.ctrs.get 0 31 ∧ s.seed.ctrs.get 0 31 < 2 ^ 32 - 1) ∧ (wAt ws 20 = 0 ∧ wAt ws 21 = 0 ∧ wAt ws 22 = 0 ∧ wAt ws 23 = 0) :=
  ⟨State.reset, [0x8001], [], [], by decide⟩
theorem witness_anc_unsigned : ∃ (s : State) (ws : List Word) (b g : List Byte), (s.seed.anchors.find (fld (wAt ws 0) 11 8) = none) ∧ (fld (wAt ws 0) 3 0 ≠ 1 ∨ s.seed.anchors ≠ []) :=
  ⟨State.reset, [2], [], [], by decide⟩
theorem witness_anc_no_fall : ∃ (s : State) (ws : List Word) (b g : List Byte), (fld (wAt ws 0) 3 0 = 3) ∧ ((wAt ws 2).toNat ≤ s.seed.ctrs.get 0 (fld (wAt ws 0) 26 22)) :=
  ⟨State.reset, [3], [], [], by decide⟩
theorem witness_att_tenant : ∃ (s : State) (i : InstId) (v : Word), (s.pwr.phase = .running) ∧ (pageDead (s.inst i.val).phase = false) ∧ (bitOf v 0 = true) ∧ (s.attPending i.val = false) :=
  ⟨{ State.reset with insts := [(3, stInstA)] }, 3, 1, by decide⟩
theorem witness_att_tenant_busy : ∃ (s : State) (i : InstId) (v : Word), (s.pwr.phase = .running) ∧ (pageDead (s.inst i.val).phase = false) ∧ (bitOf v 0 = true) ∧ (s.attPending i.val = true) :=
  ⟨{ stSeed { SeedSt.reset with queue := [{ who := .manager 3, nonce := [], dest := 0 }] } with insts := [(3, stInstA)] }, 3, 1, by decide⟩
theorem witness_att_manager : ∃ (s : State) (v : Word), (s.pwr.phase = .running) ∧ (s.recMode = 0) ∧ (bitOf v 0 = true) ∧ (s.seed.attBusy = false) ∧ (s.attPending (fld v 15 4) = false) :=
  ⟨State.reset, 0x31, by decide⟩
theorem witness_att_manager_busy : ∃ (s : State) (v : Word), (s.pwr.phase = .running) ∧ (s.recMode = 0) ∧ (bitOf v 0 = true) ∧ (s.seed.attBusy = true) :=
  ⟨stSeed { SeedSt.reset with attBusy := true }, 0x31, by decide⟩
theorem witness_spdm : ∃ (s : State) (x : SpdmRequest), s.pwr.phase = .running :=
  ⟨State.reset, { msg := [1] }, by decide⟩
theorem witness_take_block : ∃ (s : State) (r : SignReq) (rest : List SignReq), (s.seed.signing = none ∧ s.seed.queue = r :: rest) ∧ (s.seed.block.1 ≠ s.seed.block.2) ∧ (r.who = .spdm none) :=
  ⟨stSeed { SeedSt.reset with top := 1024, block := (3, 1024), queue := [{ who := .spdm none, nonce := [1], dest := 0 }] }, { who := .spdm none, nonce := [1], dest := 0 }, [], by decide⟩
theorem witness_take_top : ∃ (s : State) (r : SignReq) (rest : List SignReq) (i : Nat), (s.seed.signing = none ∧ s.seed.queue = r :: rest) ∧ (s.seed.block.1 = s.seed.block.2 ∧ s.seed.top < 2 ^ 40) ∧ (r.who = .tenant i) :=
  ⟨stSeed { SeedSt.reset with queue := [{ who := .tenant 3, nonce := [1], dest := 0 }] }, { who := .tenant 3, nonce := [1], dest := 0 }, [], 3, by decide⟩
theorem witness_take_exhausted : ∃ (s : State) (r : SignReq) (rest : List SignReq), (s.seed.signing = none ∧ s.seed.queue = r :: rest) ∧ (s.seed.block.1 = s.seed.block.2 ∧ 2 ^ 40 ≤ s.seed.top) ∧ (r.who = .spdm none) :=
  ⟨stSeed { SeedSt.reset with top := 2 ^ 40, queue := [{ who := .spdm none, nonce := [1], dest := 0 }] }, { who := .spdm none, nonce := [1], dest := 0 }, [], by decide⟩
theorem witness_take_none : ∃ (s : State), s.seed.queue = [] ∨ s.seed.signing ≠ none :=
  ⟨State.reset, by decide⟩
theorem witness_sign_held : ∃ (s : State) (g : Signing), s.seed.signing = some g ∧ g.made = false ∧ g.held = true :=
  ⟨stSeed { SeedSt.reset with signing := some (sgn true false) }, sgn true false, by decide⟩
theorem witness_sign_free : ∃ (s : State) (g : Signing), s.seed.signing = some g ∧ g.made = false ∧ g.held = false :=
  ⟨stSeed { SeedSt.reset with signing := some (sgn false false) }, sgn false false, by decide⟩
theorem witness_sign_none : ∃ (s : State), s.seed.signing = none :=
  ⟨State.reset, by decide⟩
theorem witness_top_written : ∃ (s : State) (g : Signing), s.seed.signing = some g ∧ g.made = true ∧ g.held = true :=
  ⟨stSeed { SeedSt.reset with signing := some (sgn true true) }, sgn true true, by decide⟩
theorem witness_top_early : ∃ (s : State) (g : Signing), s.seed.signing = some g ∧ g.made = false :=
  ⟨stSeed { SeedSt.reset with signing := some (sgn true false) }, sgn true false, by decide⟩
theorem witness_released : ∃ (s : State) (g : Signing), g.req.who = .spdm none :=
  ⟨State.reset, sgn false false, by decide⟩

/-! PowerAndResets: states and operands that meet the hypotheses. -/

theorem witness_park_busy : ∃ (s : State) (v : Word), (s.pwr.phase = .running) ∧ (s.recMode = 0) ∧ (fld v 1 0 = 1) ∧ (s.pwr.parkBusy = true) :=
  ⟨{ State.reset with pwr := { PwrSt.running with parkBusy := true } }, 0x11, by decide⟩
theorem witness_park_held : ∃ (s : State) (v : Word), (s.pwr.phase = .running) ∧ (s.recMode = 0) ∧ (fld v 1 0 = 1) ∧ (s.pwr.parkBusy = false) ∧ (s.coord.busy = true) :=
  ⟨{ State.reset with coord := { Coord.reset with busy := true } }, 0x11, by decide⟩
theorem witness_park : ∃ (s : State) (v : Word), (s.pwr.phase = .running) ∧ (s.recMode = 0) ∧ (fld v 1 0 = 1) ∧ (s.pwr.parkBusy = false) ∧ (s.coord.busy = false) :=
  ⟨State.reset, 0x11, by decide⟩
theorem witness_unpark : ∃ (s : State) (v : Word), (s.pwr.phase = .running) ∧ (s.recMode = 0) ∧ (fld v 1 0 = 2) ∧ (s.pwr.parkBusy = false) ∧ (s.coord.busy = false) :=
  ⟨State.reset, 0x12, by decide⟩
theorem witness_park_floor : ∃ (s : State) (v : Word), (fld v 8 4 % 8 = 0) ∧ (fld v 1 0 = 1 ∨ fld v 1 0 = 2) :=
  ⟨State.reset, 0x81, by decide⟩
theorem witness_park_starts : ∃ (s : State) (v : Word), (fld v 8 4 % 8 ≠ 0 ∧ fld v 1 0 = 2) ∧ ((s.grove (fld v 8 4)).parked = true) :=
  ⟨State.reset, 0x12, by decide⟩
theorem witness_park_done : ∃ (s : State) (g : GroveId), ((s.grove g.val).parkPending = true) ∧ ((groveTiles g.val).all (fun t => (s.tile t).quiet) = true) ∧ ((s.grove g.val).deck0 = none ∧ (s.grove g.val).deck1 = none ∧ (s.grove g.val).deckWait = []) :=
  ⟨{ State.reset with groves := [(1, { Grove.idle with parked := false, parkPending := true })] }, 1, by decide⟩
theorem witness_park_waits : ∃ (s : State) (g : GroveId), (s.grove g.val).parkPending = false ∨ (s.grove g.val).deck0 ≠ none :=
  ⟨State.reset, 1, by decide⟩
theorem witness_unpark_done : ∃ (s : State) (g : GroveId), (s.grove g.val).unparking = true :=
  ⟨{ State.reset with groves := [(1, { Grove.idle with parked := true, unparking := true })] }, 1, by decide⟩
theorem witness_unpark_none : ∃ (s : State) (g : GroveId), (s.grove g.val).unparking = false :=
  ⟨State.reset, 1, by decide⟩
theorem witness_reset_cmd : ∃ (s : State) (v : Word), (s.pwr.phase = .running) ∧ (s.recMode = 0) ∧ (bitOf v 0 = true) ∧ (fld v 15 8 = 0xA5) :=
  ⟨State.reset, 0xA501, by decide⟩
theorem witness_reset_key : ∃ (s : State) (v : Word), (s.pwr.phase = .running) ∧ (s.recMode = 0) ∧ (bitOf v 0 = true) ∧ (fld v 15 8 ≠ 0xA5) :=
  ⟨State.reset, 0x5A01, by decide⟩
theorem witness_sleep : ∃ (s : State) (v : Word), (s.pwr.phase = .running) ∧ (s.recMode = 0) ∧ (bitOf v 1 = true) ∧ (s.cells.all (fun p => p.2.phase = .free) = true ∧ s.insts.all (fun p => p.2.phase = .free) = true) :=
  ⟨State.reset, 2, by decide⟩
theorem witness_sleep_refused : ∃ (s : State) (v : Word), (s.pwr.phase = .running) ∧ (s.recMode = 0) ∧ (bitOf v 1 = true) ∧ (s.cells.any (fun p => p.2.phase ≠ .free) = true ∨ s.insts.any (fun p => p.2.phase ≠ .free) = true) :=
  ⟨stCell .active, 2, by decide⟩
theorem witness_mod_wake : ∃ (s : State), s.pwr.phase = .standby :=
  ⟨{ State.reset with pwr := { PwrSt.running with phase := .standby } }, by decide⟩
theorem witness_mod_wake_running : ∃ (s : State), s.pwr.phase ≠ .standby :=
  ⟨State.reset, by decide⟩
theorem witness_power_on : ∃ (s : State) (m : Bool), s.pwr.phase ≠ .running :=
  ⟨{ State.reset with pwr := { PwrSt.running with phase := .tripped } }, false, by decide⟩
theorem witness_power_dip : ∃ (s : State) (m : Bool), s.pwr.phase = .running :=
  ⟨State.reset, false, by decide⟩
theorem witness_step_fails : ∃ (s : State), s.pwr.phase = .starting ∧ s.pwr.fail = 0 :=
  ⟨{ State.reset with pwr := { PwrSt.running with phase := .starting, step := 5 } }, by decide⟩
theorem witness_step_next : ∃ (s : State), (s.pwr.phase = .starting ∧ s.pwr.fail = 0) ∧ (s.pwr.step < 7) ∧ (s.pwr.step ≠ 3 ∨ s.pwr.modTest = false) :=
  ⟨{ State.reset with pwr := { PwrSt.running with phase := .starting, step := 5 } }, by decide⟩
theorem witness_step_test : ∃ (s : State), (s.pwr.phase = .starting ∧ s.pwr.fail = 0) ∧ (s.pwr.step = 3 ∧ s.pwr.modTest = true) :=
  ⟨{ State.reset with pwr := { PwrSt.running with phase := .starting, step := 3, modTest := true } }, by decide⟩
theorem witness_step_last : ∃ (s : State), (s.pwr.phase = .starting ∧ s.pwr.fail = 0) ∧ (s.pwr.step = 7) :=
  ⟨{ State.reset with pwr := { PwrSt.running with phase := .starting, step := 7 } }, by decide⟩
theorem witness_step_failed : ∃ (s : State) (b : Bool), s.pwr.phase ≠ .starting ∨ s.pwr.fail ≠ 0 :=
  ⟨State.reset, true, by decide⟩
theorem witness_perst : ∃ (s : State), s.pwr.phase = .running ∨ s.pwr.phase = .starting ∧ 4 ≤ s.pwr.step :=
  ⟨State.reset, by decide⟩
theorem witness_perst_early : ∃ (s : State), s.pwr.phase = .standby ∨ s.pwr.phase = .tripped ∨ s.pwr.phase = .starting ∧ s.pwr.step < 4 :=
  ⟨{ State.reset with pwr := { PwrSt.running with phase := .standby } }, by decide⟩
theorem witness_cxl_reset : ∃ (s : State), s.pwr.phase = .running :=
  ⟨State.reset, by decide⟩
theorem witness_cxl_reset_scope : ∃ (s : State), (s.mems.moves = []) ∧ (s.tiles = []) :=
  ⟨State.reset, by decide⟩
theorem witness_thermal_trip : ∃ (s : State) (r : Readings), (s.pwr.phase = .running ∨ s.pwr.phase = .starting) ∧ ((r.dies ++ [r.hbm, r.stage]).any (fun x => decide ((10 * s.tripAt : Int) < x)) = true) :=
  ⟨State.reset, readings 1160, by decide⟩
theorem witness_thermal_throttle : ∃ (s : State) (r : Readings), (s.pwr.phase = .running) ∧ ((r.dies ++ [r.hbm, r.stage]).all (fun x => decide (x ≤ (10 * s.tripAt : Int))) = true) ∧ ((10 * s.throtAt : Int) < r.dies.getD 0 0) ∧ ((List.range 3).all (fun d => decide (r.dies.getD (d + 1) 0 ≤ (10 * s.throtAt : Int))) = true) ∧ (s.pwr.throt = 0) :=
  ⟨State.reset, readings 1060, by decide⟩
theorem witness_thermal_cool : ∃ (s : State) (r : Readings) (t : Nat), (s.pwr.phase = .running) ∧ ((r.dies ++ [r.hbm, r.stage]).all (fun x => decide (x ≤ (10 * s.tripAt : Int))) = true) ∧ ((List.range 4).all (fun d => decide (r.dies.getD d 0 < 10 * ((s.throtAt : Int) - 5))) = true) ∧ (s.pwr.coolAt = some t ∧ t + 10000000 ≤ s.now) :=
  ⟨{ State.reset with pwr := { PwrSt.running with throt := 1, coolAt := some 0 }, time := { TimeSt.reset with ns := 10000000 } }, readings 500, 0, by decide⟩
theorem witness_thermal_off : ∃ (s : State) (r : Readings), s.pwr.phase = .standby ∨ s.pwr.phase = .tripped :=
  ⟨{ State.reset with pwr := { PwrSt.running with phase := .standby } }, readings 1160, by decide⟩
theorem witness_input_fault : ∃ (s : State), s.pwr.phase = .running :=
  ⟨State.reset, by decide⟩
theorem witness_input_off : ∃ (s : State), s.pwr.phase = .starting ∨ s.pwr.phase = .standby :=
  ⟨{ State.reset with pwr := { PwrSt.running with phase := .starting, step := 5 } }, by decide⟩
theorem witness_input_tripped : ∃ (s : State), s.pwr.phase = .tripped :=
  ⟨{ State.reset with pwr := { PwrSt.running with phase := .tripped } }, by decide⟩
theorem witness_stage_fault : ∃ (s : State), s.pwr.phase = .running ∨ s.pwr.phase = .starting :=
  ⟨State.reset, by decide⟩
theorem witness_stage_off : ∃ (s : State), s.pwr.phase = .standby ∨ s.pwr.phase = .tripped :=
  ⟨{ State.reset with pwr := { PwrSt.running with phase := .standby } }, by decide⟩
theorem witness_pll_core : ∃ (s : State) (p : Pll), (s.pwr.phase = .running) ∧ (p = .arith ∨ p = .hbm ∨ p = .time) :=
  ⟨State.reset, .arith, by decide⟩
theorem witness_pll_ckx : ∃ (s : State) (k : CkxPort), (s.pwr.phase = .running) ∧ ((s.port k.val).state = .up ∨ (s.port k.val).state = .training) :=
  ⟨stPort portUpSt, 2, by decide⟩
theorem witness_pll_eth : ∃ (s : State) (e : EthPort), s.pwr.phase = .running :=
  ⟨State.reset, 2, by decide⟩
theorem witness_pll_off : ∃ (s : State) (p : Pll), s.pwr.phase ≠ .running :=
  ⟨{ State.reset with pwr := { PwrSt.running with phase := .standby } }, .arith, by decide⟩
theorem witness_pll_cxl : ∃ (s : State), s.pwr.phase = .running :=
  ⟨State.reset, by decide⟩

/-! BuiltInTestAndCounters: states and operands that meet the hypotheses. -/

theorem witness_bist_logic : ∃ (s : State) (v : Word), (s.pwr.phase = .running) ∧ (s.recMode = 0) ∧ (fld v 1 0 = 1) ∧ (s.bist.test = none) ∧ (s.bistAllowed = true) :=
  ⟨State.reset, 61, by decide⟩
theorem witness_bist_logic_refused : ∃ (s : State) (v : Word), (s.pwr.phase = .running) ∧ (s.recMode = 0) ∧ (fld v 1 0 = 1) ∧ (s.bist.test = none) ∧ (s.bistAllowed = false) :=
  ⟨{ State.reset with insts := [(3, stInstA)] }, 61, by decide⟩
theorem witness_bist_logic_busy : ∃ (s : State) (v : Word), (s.pwr.phase = .running) ∧ (s.recMode = 0) ∧ (fld v 1 0 = 1) ∧ (s.bist.test ≠ none) :=
  ⟨{ State.reset with bist := { BistSt.reset with test := some (.tile 5) } }, 61, by decide⟩
theorem witness_bist_memory : ∃ (s : State) (v : Word), (s.pwr.phase = .running) ∧ (s.recMode = 0) ∧ (fld v 1 0 = 2) ∧ (s.bist.test = none) ∧ (s.bistAllowed = true) :=
  ⟨State.reset, 62, by decide⟩
theorem witness_bist_memory_refused : ∃ (s : State) (v : Word), (s.pwr.phase = .running) ∧ (s.recMode = 0) ∧ (fld v 1 0 = 2) ∧ (s.bist.test = none) ∧ (s.bistAllowed = false) :=
  ⟨{ State.reset with insts := [(3, stInstA)] }, 62, by decide⟩
theorem witness_bist_memory_busy : ∃ (s : State) (v : Word), (s.pwr.phase = .running) ∧ (s.recMode = 0) ∧ (fld v 1 0 = 2) ∧ (s.bist.test ≠ none) :=
  ⟨{ State.reset with bist := { BistSt.reset with test := some (.tile 5) } }, 62, by decide⟩
theorem witness_bist_tile : ∃ (s : State) (v : Word), (s.pwr.phase = .running) ∧ (s.recMode = 0) ∧ (fld v 1 0 = 3) ∧ (s.bist.test = none) ∧ ((s.tile (fld v 17 8)).suspect = true ∧ (s.tile (fld v 17 8)).queue = [] ∧ (s.tile (fld v 17 8)).held = false) ∧ ((s.tile (fld v 17 8)).sched = .none ∨ (s.tile (fld v 17 8)).sched = .floor) :=
  ⟨{ State.reset with tiles := [(5, { Tile.idleFloor with suspect := true })] }, 0x503, by decide⟩
theorem witness_bist_tile_refused : ∃ (s : State) (v : Word), (s.pwr.phase = .running) ∧ (s.recMode = 0) ∧ (fld v 1 0 = 3) ∧ (s.bist.test = none) ∧ ((s.tile (fld v 17 8)).suspect = false ∨ (s.tile (fld v 17 8)).queue ≠ [] ∨ (s.tile (fld v 17 8)).held = true ∨ (s.tile (fld v 17 8)).sched ≠ .none ∧ (s.tile (fld v 17 8)).sched ≠ .floor) :=
  ⟨State.reset, 0x503, by decide⟩
theorem witness_bist_none : ∃ (s : State) (r : BistResult), s.bist.test = none :=
  ⟨State.reset, { sigs := [], dieFail := [], tileFail := [], array := 0, word := 0 }, by decide⟩
theorem witness_bist_tile_done : ∃ (s : State) (r : BistResult) (t : Nat), s.bist.test = some (.tile t) :=
  ⟨{ State.reset with bist := { BistSt.reset with test := some (.tile 5) } }, { sigs := [0x3E5D9B12], dieFail := [], tileFail := [], array := 0, word := 0 }, 5, by decide⟩
theorem witness_bist_logic_done : ∃ (s : State) (r : BistResult) (m : Nat), (s.bist.test = some (.logic m)) ∧ (m = 63) ∧ ((List.range 6).all (fun d => decide (wAt r.sigs d = expectSig d)) = true) :=
  ⟨{ State.reset with bist := { BistSt.reset with test := some (.logic 63) } }, { sigs := [0x7A31C05E, 0x7A31C05E, 0x7A31C05E, 0x7A31C05E, 0x1D94E2B7, 0x6C08F3A1], dieFail := [], tileFail := [], array := 0, word := 0 }, 63, by decide⟩
theorem witness_bist_memory_done : ∃ (s : State) (r : BistResult) (d : Fin 6), (s.bist.test = some (.memory 63)) ∧ (r.dieFail = [d.val] ∧ r.tileFail = []) :=
  ⟨{ State.reset with bist := { BistSt.reset with test := some (.memory 63) } }, { sigs := [], dieFail := [2], tileFail := [], array := 7, word := 9 }, 2, by decide⟩
theorem witness_bist_compute_only : ∃ (s : State) (m : Nat), m < 16 :=
  ⟨State.reset, 15, by decide⟩
theorem witness_bist_scrubs : ∃ (s : State) (d t : Nat), t / 256 = d :=
  ⟨State.reset, 0, 5, by decide⟩
theorem witness_inj_arm : ∃ (s : State) (v : Word), (s.pwr.phase = .running) ∧ (s.recMode = 0) ∧ (bitOf v 5 = false) ∧ (s.tenantsLive = false) ∧ (injOk (fld v 3 0) (fld v 17 8) (s.reg pgBist 0x114).toNat = true) :=
  ⟨State.reset, 0x205, by decide⟩
theorem witness_inj_refused : ∃ (s : State) (v : Word), (s.pwr.phase = .running) ∧ (s.recMode = 0) ∧ (bitOf v 5 = false) ∧ (s.tenantsLive = true ∨ injOk (fld v 3 0) (fld v 17 8) (s.reg pgBist 0x114).toNat = false) :=
  ⟨State.reset, 0xC05, by decide⟩
theorem witness_inj_disarm : ∃ (s : State) (v : Word), (s.pwr.phase = .running) ∧ (s.recMode = 0) ∧ (bitOf v 5 = true) :=
  ⟨State.reset, 0x25, by decide⟩
theorem witness_pert_refused : ∃ (s : State) (k : Fin 10), (fld (s.reg pgBist (0x0C0 + 4 * k.val)) 19 0 ≠ 0) ∧ (s.tenantsLive = true) :=
  ⟨({ State.reset with insts := [(3, stInstA)] } : State).setReg pgBist 0x0C8 5, 2, by decide⟩
theorem witness_scaler_select : ∃ (s : State) (v : Word) (p : Page), (s.pwr.phase = .running) ∧ (s.recMode = 0) ∧ (pageOfId (s.reg pgBist 0x118) = some p) :=
  ⟨State.reset.setReg pgBist 0x118 (pageId (pgTile 5)), 3, pgTile 5, by decide⟩
theorem witness_scaler_no_page : ∃ (s : State) (v : Word), (s.pwr.phase = .running) ∧ (s.recMode = 0) ∧ (pageOfId (s.reg pgBist 0x118) = none) :=
  ⟨State.reset.setReg pgBist 0x118 0xFFFF0000, 3, by decide⟩
theorem witness_scaler_undefined : ∃ (s : State) (p : Page) (i : Nat), scalCount p ≤ i :=
  ⟨State.reset, pgTile 5, 12, by decide⟩
theorem witness_scaler_clr : ∃ (s : State) (v : Word) (p : Page), (s.pwr.phase = .running) ∧ (s.recMode = 0) ∧ (bitOf v 1 = true ∧ bitOf v 0 = false) ∧ (pageOfId (s.reg pgBist 0x118) = some p) :=
  ⟨State.reset.setReg pgBist 0x118 (pageId (pgTile 5)), 2, pgTile 5, by decide⟩
theorem witness_scaler_dump : ∃ (s : State) (v : Word) (p : Page), (s.pwr.phase = .running) ∧ (s.recMode = 0) ∧ (bitOf v 0 = true ∧ bitOf v 1 = false) ∧ (pageOfId (s.reg pgBist 0x118) = some p) :=
  ⟨State.reset.setReg pgBist 0x118 (pageId (pgTile 5)), 1, pgTile 5, by decide⟩
theorem witness_jtag : ∃ (s : State) (t : Fin 6) (i : JtagIr), i = .bypass ∨ i = .idcode ∨ i = .sample ∨ s.pwr.modTest = true :=
  ⟨State.reset, 2, .sample, by decide⟩
theorem witness_jtag_bypass : ∃ (s : State) (t : Fin 6) (i : JtagIr), (i = .extest ∨ i = .clamp ∨ i = .highz) ∧ (s.pwr.modTest = false) :=
  ⟨State.reset, 2, .clamp, by decide⟩

/-! ResetState: states and operands that meet the hypotheses. -/

theorem witness_reset_units : ∃ (u : Nat), 64 ≤ u :=
  ⟨70, by decide⟩

end Sys2Proof
end

section
/-! PROOFS. Register accesses (O1 to O6): what a step runs, refused accesses, and a flit of the CXL port that a check unit snoops. -/

namespace Sys2Proof.Machine
open Sys2Proof

/-! Refused accesses (R9, R11, R436). -/

/-- One more count of a counter that has not reached its maximum. -/
theorem State.bump_one (s : State) (p : Page) (i : Nat) (h : s.scaler p i < 0xFFFFFFFF) :
    s.bump p i 1 = { s with regs := { s.regs with scal := s.regs.scal.set (scalKey p i) (s.scaler p i + 1) } } := by
  have hsat : satAdd (s.scaler p i) 1 0xFFFFFFFF = s.scaler p i + 1 := Nat.min_eq_left h
  simp [State.bump, hsat]

theorem State.running_iff (s : State) : s.running = true ↔ s.pwr.phase = .running := by
  simp [State.running]

/-- A BAR0 page accepts no PASID but the manager's. -/
theorem State.reqOk_tenant (s : State) (pasid : BitVec 20) (p : Page) (hp : p.kind ≠ .mbx)
    (hm : fld (s.reg pgMap 0x010) 19 0 ≠ pasid.toNat) : s.reqOk { pasid := some pasid } p = false := by
  simp [State.reqOk, hp, hm]

/-- A tenant's request that a BAR0 page does not accept raises REFUSED of that tenant. -/
theorem State.reqRefused_tenant (s : State) (pasid : BitVec 20) (p : Page) (i : Nat) (hp : p.kind ≠ .mbx)
    (hi : s.pasidInst pasid = some i) : s.reqRefused { pasid := some pasid } p = s.bump (pgMbx i) 0 1 := by
  simp [State.reqRefused, hp, hi]

/-- An access that its page accepts, but that is not 32 bits wide or not aligned, is answered and does nothing else. -/
theorem execUnsupportedRegisterAccess_accepted (s : State) (q : PageReq) (off size : Nat) (hrun : s.running = true)
    (hsize : size ≠ 4 ∨ off % 4 ≠ 0) (hdrop : s.reqDropped q.req = false) (hok : s.reqOk q.req q.page = true) :
    execUnsupportedRegisterAccess q off size s = .next (s.emit (.unsupported q.req q.page off)) := by
  have hbad : ¬(size = 4 ∧ off % 4 = 0) := by tauto
  simp [execUnsupportedRegisterAccess, hrun, hdrop, hok, hbad]

/-- One that its page does not accept is counted as well. -/
theorem execUnsupportedRegisterAccess_refused (s : State) (q : PageReq) (off size : Nat) (hrun : s.running = true)
    (hdrop : s.reqDropped q.req = false) (hok : s.reqOk q.req q.page = false) :
    execUnsupportedRegisterAccess q off size s = .next ((s.reqRefused q.req q.page).emit (.unsupported q.req q.page off)) := by
  simp [execUnsupportedRegisterAccess, hrun, hdrop, hok]

/-- A write at an offset that is no multiple of 4 is answered and does nothing else. -/
theorem execRegisterWrite_unaligned (s : State) (req : Requester) (p : Page) (off : Nat) (v : Word) (hrun : s.running = true)
    (hoff : off % 4 ≠ 0) (hdrop : s.reqDropped req = false) (hok : s.reqOk req p = true) :
    execRegisterWrite req p off v s = .next (s.emit (.unsupported req p off)) := by
  simp [execRegisterWrite, hrun, hoff, hdrop, hok]

/-- A tenant's access to a page that does not accept it is answered and counted. -/
theorem execTenantManagementAccess_refused (s : State) (pasid : BitVec 20) (p : Page) (hrun : s.running = true)
    (hok : s.reqOk { pasid := some pasid } p = false) :
    execTenantManagementAccess pasid p s =
      .next ((s.reqRefused { pasid := some pasid } p).emit (.unsupported { pasid := some pasid } p 0)) := by
  simp [execTenantManagementAccess, hrun, hok]

/-- Settles O1: it is the definition of a step on a queue that is not empty. -/
theorem stepRunsCommand : Obligations.StepRunsCommand := by
  intro c rest s hq
  simp only [step, hq]

/-- Settles O2, from what an access does that its page accepts, and one that it does not. -/
theorem unsupportedAccessChangesNothing : Obligations.UnsupportedAccessChangesNothing := by
  refine ⟨?accepted, ?refused, ?write⟩
  case accepted =>
    intro s req p off size hrun hsize hdrop hok
    exact execUnsupportedRegisterAccess_accepted s ⟨req, p⟩ off size (s.running_iff.2 hrun) hsize hdrop hok
  case refused =>
    intro s pasid p off size i hrun _ hdrop hp hm hi hlt
    have hok := s.reqOk_tenant pasid p hp hm
    refine (execUnsupportedRegisterAccess_refused s ⟨_, p⟩ off size (s.running_iff.2 hrun) hdrop hok).trans ?_
    rw [s.reqRefused_tenant pasid p i hp hi, s.bump_one _ _ hlt]
    rfl
  case write =>
    intro s req p off v hrun hoff hdrop hok
    exact execRegisterWrite_unaligned s req p off v (s.running_iff.2 hrun) hoff hdrop hok

/-- Settles O3: the page does not accept the tenant's request, which is then counted against that tenant. -/
theorem tenantAccessToManagementIsCounted : Obligations.TenantAccessToManagementIsCounted := by
  intro s pasid p i hrun hp hm hi hlt
  have hok := s.reqOk_tenant pasid p hp hm
  refine (execTenantManagementAccess_refused s pasid p (s.running_iff.2 hrun) hok).trans ?_
  rw [s.reqRefused_tenant pasid p i hp hi, s.bump_one _ _ hlt]
  rfl

/-! A write of the manager comes in as a flit of the CXL port (R26, R435). A check unit that snoops the port feeds on the flit's
bytes, which the manual does not lay out: they are a free value, and the counter of free values advances (log entries 3 and 112). -/

@[simp] theorem State.bump_fresh (s : State) (p : Page) (i n : Nat) : (s.bump p i n).fresh = s.fresh := by rw [State.bump_frame]
@[simp] theorem State.bump_raw (s : State) (p : Page) (i n : Nat) : (s.bump p i n).regs.raw = s.regs.raw := by rw [State.bump_frame]
@[simp] theorem State.pulse_fresh (s : State) (p : Page) (b : Nat) : (s.pulse p b).fresh = s.fresh := by rw [State.pulse_frame]
@[simp] theorem State.pulse_raw (s : State) (p : Page) (b : Nat) : (s.pulse p b).regs.raw = s.regs.raw := by rw [State.pulse_frame]
@[simp] theorem State.notifyBar0_fresh (s : State) (p : Page) : (s.notifyBar0 p).fresh = s.fresh := by rw [State.notifyBar0_frame]

@[simp] theorem State.chkCompare_fresh (s : State) (k r : Nat) (want : Option Nat) : (s.chkCompare k r want).fresh = s.fresh := by
  unfold State.chkCompare
  extract_lets x bad s1
  split <;> simp [s1]

@[simp] theorem State.chkCompare_raw (s : State) (k r : Nat) (want : Option Nat) : (s.chkCompare k r want).regs.raw = s.regs.raw := by
  unfold State.chkCompare
  extract_lets x bad s1
  split <;> simp [s1]

/-- A frame that passes a check unit takes no free value. -/
@[simp] theorem State.chkFeed_fresh (s : State) (k : Nat) (raw : List Byte) : (s.chkFeed k raw).fresh = s.fresh := by
  simp only [State.chkFeed]; repeat' split
  all_goals simp

/-- Nor does it write a register. -/
@[simp] theorem State.chkFeed_raw (s : State) (k : Nat) (raw : List Byte) : (s.chkFeed k raw).regs.raw = s.regs.raw := by
  simp only [State.chkFeed]; repeat' split
  all_goals simp

/-- A frame that passes every unit of a die takes no free value and writes no register. -/
theorem State.chkSource_keeps (s : State) (die src : Nat) (egress : Bool) (id : Option Nat) (raw : List Byte) :
    (s.chkSource die src egress id raw).fresh = s.fresh ∧ (s.chkSource die src egress id raw).regs.raw = s.regs.raw :=
  foldS_keeps (P := fun t : State => t.fresh = s.fresh ∧ t.regs.raw = s.regs.raw) _
    (fun k _ t ⟨hf, hr⟩ => by split <;> simp [hf, hr]) ⟨rfl, rfl⟩

/-- Some check unit takes the flits that come in at the CXL port. -/
def State.snoopsCxl (s : State) : Bool := (List.range 32).any (fun i => s.chkTakes (0 * 32 + i) 16 false none)

/-- A flit that is snooped advances the counter of free values. -/
theorem State.chkCxl_fresh (s : State) (h : s.snoopsCxl = true) : (s.chkCxl false).fresh = s.fresh + 1 := by
  have hany : (List.range 32).any (fun i => s.chkTakes (0 * 32 + i) 16 false none) = true := h
  simp only [State.chkCxl, State.chkFree, hany, if_true]
  exact (State.chkSource_keeps _ _ _ _ _ _).1

/-- A flit writes no register. -/
theorem State.chkCxl_raw (s : State) (egress : Bool) : (s.chkCxl egress).regs.raw = s.regs.raw := by
  simp only [State.chkCxl, State.chkFree]
  split
  · exact (State.chkSource_keeps _ _ _ _ _ _).2
  · rfl

/-- With the recorder off an input is not logged. -/
theorem State.recLog_off (s : State) (cls type src id : Nat) (payload : List Byte) (h : s.recMode = 0) :
    s.recLog cls type src id payload = s := by
  simp [State.recLog, State.recLogAt, h]

/-- With the recorder off a write that reaches a running module has its effect on the state that its flit leaves. -/
theorem State.hostWrite_off (s : State) (p : Page) (off : Nat) (v : Word) (k : State → Ans) (hrun : s.running = true)
    (hrec : s.recMode = 0) : s.hostWrite p off v k = k (s.chkCxl false) := by
  have hmode : (s.chkCxl false).recMode = 0 := by
    rw [← hrec]; unfold State.recMode State.reg; rw [State.chkCxl_raw]
  have hrep : (s.chkCxl false).replayed 2 = false := by simp [State.replayed, hmode]
  simp [State.hostWrite, hrun, hrep, State.recLog_off _ _ _ _ _ _ hmode]

/-- Check unit 0 is enabled on the CXL port, whose flits it takes as they come in. -/
def snoopingState : State := State.reset.setReg (pgChk 0) 0x010 0x00100100

theorem snoopingState_running : snoopingState.running = true := by decide
theorem snoopingState_recMode : snoopingState.recMode = 0 := by decide
theorem snoopingState_snoops : snoopingState.snoopsCxl = true := by decide

/-- A write to the snooping state whose effect takes no free value leaves no state with the counter of free values as before. -/
theorem hostWrite_snooped_fresh {p : Page} {off : Nat} {v : Word} {k : State → Ans} {u : State}
    (hk : ∀ t, ∃ t', k t = .next t' ∧ t'.fresh = t.fresh) (h : snoopingState.hostWrite p off v k = .next u) :
    u.fresh = snoopingState.fresh + 1 := by
  rw [State.hostWrite_off _ _ _ _ _ snoopingState_running snoopingState_recMode] at h
  obtain ⟨t', ht', hf⟩ := hk (snoopingState.chkCxl false)
  cases ht'.symm.trans h
  exact hf.trans (State.chkCxl_fresh _ snoopingState_snoops)

theorem regEffect_hbmCfg (t : State) (v : Word) :
    regEffect (pgHbm 0) 0x010 v t = .next (t.setReg (pgHbm 0) 0x010 (v &&& 0xFFFF)) := by
  have hreg : findReg (pgHbm 0) 0x010 = some (reg1 0x010 0xFFFF 0x1018) := by decide
  have hplain : t.plainWrite (pgHbm 0) 0x010 v = t.setReg (pgHbm 0) 0x010 (v &&& 0xFFFF) := by simp [State.plainWrite, hreg, reg1]
  have hexists : pageExists (pgHbm 0) = true := rfl
  have hkind : (pgHbm 0).kind = .hbm := rfl
  simp [regEffect, hexists, hkind, hplain]

/-- A write by the manager at an aligned offset of a BAR0 page reaches the module. -/
theorem execRegisterWrite_manager (s : State) (p : Page) (off : Nat) (v : Word) (hp : p.kind ≠ .mbx) (hoff : off % 4 = 0) :
    execRegisterWrite {} p off v s = s.hostWrite p off v (regEffect p off v) := by
  simp [execRegisterWrite, State.reqDropped, State.reqOk, hp, hoff]

/-- A write to EVT_PEND of a BAR0 page has its effect whatever becomes of tenants' pages. -/
theorem execEvtPendClear_bar0 (s : State) (p : Page) (v : Word) (hex : pageExists p = true) (hp : p.kind ≠ .mbx) :
    execEvtPendClear p v s = s.hostWrite p 0x088 v (hostEvtPendClear p v) := by
  simp [execEvtPendClear, hex, hp]

/-- That effect takes no free value. -/
theorem hostEvtPendClear_fresh (t : State) (p : Page) (v : Word) (hp : p.kind ≠ .mbx) :
    ∃ t', hostEvtPendClear p v t = .next t' ∧ t'.fresh = t.fresh := by
  have hdead : t.deadPage p = false := by simp [State.deadPage, hp]
  refine ⟨_, by simp only [hostEvtPendClear, hdead]; rfl, ?_⟩
  unfold State.evtAfter
  split <;> simp [State.notify, hp]

/-- Refutes O4: with check unit 0 on the CXL port, a write of HBM_CFG also feeds the unit and takes a free value. -/
theorem not_registerWriteHoldsWritableBits : ¬ Obligations.RegisterWriteHoldsWritableBits := by
  rintro ⟨hwrite, -, -⟩
  have h := hwrite snoopingState 0 0x010 0 (reg1 0x010 0xFFFF 0x1018) (by decide) snoopingState_recMode (by decide) (by decide)
    (by decide) (by decide)
  have hfresh := hostWrite_snooped_fresh (fun t => ⟨_, regEffect_hbmCfg t 0, rfl⟩)
    ((execRegisterWrite_manager snoopingState (pgHbm 0) 0x010 0 (by decide) rfl).symm.trans h)
  exact absurd hfresh (Nat.succ_ne_self _).symm

/-- Refutes O5: with check unit 0 on the CXL port, COMMIT of a lane page also feeds the unit and takes a free value. -/
theorem not_commitAppliesShadowRegisters : ¬ Obligations.CommitAppliesShadowRegisters := by
  intro hcommit
  obtain ⟨u, h, -, hframe, -⟩ := hcommit snoopingState (pgLane 0) (by decide) snoopingState_recMode (by decide) (by decide) (.inl rfl)
  have hfresh := hostWrite_snooped_fresh (p := pgLane 0) (off := 0x0FC) (v := 1) (k := hostCommit (pgLane 0))
    (fun t => ⟨t.applyShadow (pgLane 0), rfl, rfl⟩) h
  rw [hframe] at hfresh
  exact absurd hfresh (Nat.succ_ne_self _).symm

/-- Refutes O6: with check unit 0 on the CXL port, a write of EVT_PEND of a tile page also feeds the unit and takes a free value. -/
theorem not_eventRegistersOfAPage : ¬ Obligations.EventRegistersOfAPage := by
  rintro ⟨hclear, -⟩
  obtain ⟨u, h, -, hframe, -⟩ := hclear snoopingState (pgTile 0) 0 (by decide) snoopingState_recMode (by decide) (by decide)
  have hfresh := hostWrite_snooped_fresh (fun t => hostEvtPendClear_fresh t (pgTile 0) 0 (by decide))
    ((execEvtPendClear_bar0 snoopingState (pgTile 0) 0 rfl (by decide)).symm.trans h)
  rw [hframe] at hfresh
  exact absurd hfresh (Nat.succ_ne_self _).symm

end Sys2Proof.Machine
end

section
/-!
A step changes the queue of waiting commands only by taking its front command: no function of the model that a step runs,
resets included, writes the queue. Each such function has one lemma that says so, in the order of the model. A function that
answers a result beside the state has it for the state part; a command's function has it in the form `Ans.Leaves`, which also
says that it answers a next state, so that O58 and O59 both follow from `exec_leaves`.
-/

namespace Sys2Proof.Machine
open Sys2Proof

/-- The answer is a next state at which the commands that wait are q. -/
def Ans.Leaves (a : Ans) (q : List Instr) : Prop := ∃ t, a = .next t ∧ t.pending = q

@[simp] theorem Ans.leaves_next (t : State) (q : List Instr) : Ans.Leaves (.next t) q ↔ t.pending = q :=
  ⟨fun ⟨_, h, hq⟩ => by cases h; exact hq, fun h => ⟨t, rfl, h⟩⟩

@[simp] theorem Ans.leaves_ite (c : Prop) [Decidable c] (a b : Ans) (q : List Instr) :
    Ans.Leaves (if c then a else b) q ↔ if c then a.Leaves q else b.Leaves q := by
  split <;> rfl

@[simp] theorem State.pending_ite (c : Prop) [Decidable c] (a b : State) :
    (if c then a else b).pending = if c then a.pending else b.pending :=
  apply_ite State.pending c a b

/-- Two states with the same queue. The kernel compares two such statements state by state; of two equations between queues it
evaluates the states, which host addresses near 2^47 make too deep. -/
def State.SameQueue (s t : State) : Prop := t.pending = s.pending

@[simp] theorem State.sameQueue_iff (s t : State) : s.SameQueue t ↔ t.pending = s.pending := Iff.rfl

@[simp] theorem foldS_pending {β : Type} (l : List β) (f : β → State → State) (a : State)
    (h : ∀ x (t : State), t.SameQueue (f x t)) :
    (foldS l f a).pending = a.pending :=
  foldS_keeps (P := fun t => t.pending = a.pending) l (fun x _ t ht => (h x t).trans ht) rfl

@[simp] theorem foldN_pending (n : Nat) (f : Nat → State → State) (a : State) (h : ∀ i (t : State), t.SameQueue (f i t)) :
    (foldN n f a).pending = a.pending :=
  foldS_pending (List.range n) f a h

/-- A pair whose state part keeps the queue. -/
@[simp] theorem State.snd_pending_ite {α : Type} (c : Prop) [Decidable c] (a b : α × State) :
    (if c then a else b).2.pending = if c then a.2.pending else b.2.pending := by
  split <;> rfl

@[simp] theorem Ans.state_pending (s : State) (a : Ans) (h : a.Leaves s.pending) : (Ans.state s a).pending = s.pending := by
  obtain ⟨t, rfl, ht⟩ := h
  exact ht

@[simp] theorem Ans.after_leaves (a : Ans) (f : State → Ans) (q : List Instr) (h : a.Leaves q) (hf : ∀ t, (f t).Leaves t.pending) :
    (a.after f).Leaves q := by
  obtain ⟨t, rfl, rfl⟩ := h
  exact hf t

/-- The state part of a pair that has been taken apart. -/
theorem State.pending_of_pair {α : Type} {p : α × State} {a : α} {t : State} (h : p = (a, t)) : t.pending = p.2.pending := by rw [h]

theorem State.pending_of_triple {α β : Type} {p : α × β × State} {a : α} {b : β} {t : State} (h : p = (a, b, t)) :
    t.pending = p.2.2.pending := by rw [h]

/-- A fold that carries a state beside a value. -/
theorem foldl_snd_pending {α β : Type} (l : List β) (f : α × State → β → α × State) (a : α × State)
    (h : ∀ (acc : α × State) x, acc.2.SameQueue (f acc x).2) : (l.foldl f a).2.pending = a.2.pending := by
  induction l generalizing a with
  | nil => rfl
  | cons x l ih => exact (ih (f a x)).trans (h a x)

theorem foldl_pending {β : Type} (l : List β) (f : State → β → State) (a : State) (h : ∀ (t : State) x, t.SameQueue (f t x)) :
    (l.foldl f a).pending = a.pending := by
  induction l generalizing a with
  | nil => rfl
  | cons x l ih => exact (ih (f a x)).trans (h a x)

theorem Ans.leaves_next_of {t : State} {q : List Instr} (h : t.pending = q) : Ans.Leaves (.next t) q := ⟨t, rfl, h⟩

/-! The functions of Machine/Ops. -/

@[simp] theorem State.updTile_pending (s : State) (t : Nat) (f : Tile → Tile) : (s.updTile t f).pending = s.pending := by
  rfl

@[simp] theorem State.updGrove_pending (s : State) (g : Nat) (f : Grove → Grove) : (s.updGrove g f).pending = s.pending := by
  rfl

@[simp] theorem State.updLane_pending (s : State) (l : Nat) (f : Lane → Lane) : (s.updLane l f).pending = s.pending := by
  rfl

@[simp] theorem State.setLctx_pending (s : State) (l c : Nat) (x : LaneCtx) : (s.setLctx l c x).pending = s.pending := by
  rfl

@[simp] theorem State.updLctx_pending (s : State) (l c : Nat) (f : LaneCtx → LaneCtx) : (s.updLctx l c f).pending = s.pending := by
  rfl

@[simp] theorem State.updCell_pending (s : State) (c : Nat) (f : Cell → Cell) : (s.updCell c f).pending = s.pending := by
  rfl

@[simp] theorem State.updInst_pending (s : State) (i : Nat) (f : Inst → Inst) : (s.updInst i f).pending = s.pending := by
  rfl

@[simp] theorem State.updCtx_pending (s : State) (k : Nat) (f : ReqCtx → ReqCtx) : (s.updCtx k f).pending = s.pending := by
  rfl

@[simp] theorem State.updEth_pending (s : State) (p : Nat) (f : EthSt → EthSt) : (s.updEth p f).pending = s.pending := by
  rfl

@[simp] theorem State.updPort_pending (s : State) (p : Nat) (f : CkxPortSt → CkxPortSt) : (s.updPort p f).pending = s.pending := by
  rfl

@[simp] theorem State.takeFree_pending (s : State) : (s.takeFree).2.pending = s.pending := by
  rfl

@[simp] theorem State.takeKey_pending (s : State) : (s.takeKey).2.pending = s.pending := by
  rfl

@[simp] theorem State.applyShadow_pending (s : State) (p : Page) : (s.applyShadow p).pending = s.pending := by
  rfl

@[simp] theorem State.bump_pending (s : State) (p : Page) (idx n : Nat) : (s.bump p idx n).pending = s.pending := by
  simp [State.bump]

@[simp] theorem State.ignored_pending (s : State) (p : Page) : (s.ignored p).pending = s.pending := by
  rfl

@[simp] theorem State.sendVector_pending (s : State) (v : Nat) : (s.sendVector v).pending = s.pending := by
  simp [State.sendVector]

@[simp] theorem State.latch_pending (s : State) (p : Page) (raw pulse : Word) : (s.latch p raw pulse).pending = s.pending := by
  rfl

@[simp] theorem State.notifyBar0_pending (s : State) (p : Page) : (s.notifyBar0 p).pending = s.pending := by
  simp [State.notifyBar0]

@[simp] theorem State.evtBar0_pending (s : State) (p : Page) (raw pulse : Word) : (s.evtBar0 p raw pulse).pending = s.pending := by
  simp [State.evtBar0]

@[simp] theorem State.level_pending (s : State) (p : Page) (b : Nat) (on : Bool) : (s.level p b on).pending = s.pending := by
  simp [State.level]

@[simp] theorem State.pulse_pending (s : State) (p : Page) (b : Nat) : (s.pulse p b).pending = s.pending := by
  simp [State.pulse]

@[simp] theorem State.addCtr_pending (s : State) (die c : Nat) (n : Word) : (s.addCtr die c n).pending = s.pending := by
  rfl

/-! The functions of Machine/MemOps. -/

@[simp] theorem State.updHome_pending (s : State) (pk : Nat) (f : Home → Home) : (s.updHome pk f).pending = s.pending := by
  rfl

@[simp] theorem State.addRun_pending (s : State) (die a n : Nat) : (s.addRun die a n).pending = s.pending := by
  simp [State.addRun]

@[simp] theorem State.dropRun_pending (s : State) (die a : Nat) : (s.dropRun die a).pending = s.pending := by
  rfl

@[simp] theorem State.dropHomeRun_pending (s : State) (h : Home) : (s.dropHomeRun h).pending = s.pending := by
  simp [State.dropHomeRun]

@[simp] theorem State.heatUp_pending (s : State) (pk : Nat) : (s.heatUp pk).pending = s.pending := by
  rfl

@[simp] theorem State.exactPressure_pending (s : State) (d die : Nat) : (s.exactPressure d die).pending = s.pending := by
  simp [State.exactPressure]

@[simp] theorem State.allocLine_pending (s : State) (d pk line : Nat) (dirty pf : Bool) :
    (s.allocLine d pk line dirty pf).pending = s.pending := by
  simp only [State.allocLine]
  split
  · simp
  · split <;> simp

@[simp] theorem State.countUe_pending (s : State) (ctl : Nat) : (s.countUe ctl).pending = s.pending := by
  rfl

@[simp] theorem State.poisonLine_pending (s : State) (pk line : Nat) : (s.poisonLine pk line).pending = s.pending := by
  rfl

@[simp] theorem State.clearPoison_pending (s : State) (pk line : Nat) : (s.clearPoison pk line).pending = s.pending := by
  simp [State.clearPoison]

@[simp] theorem State.useInj_pending (s : State) (point target : Nat) : (s.useInj point target).2.pending = s.pending := by
  unfold State.useInj
  split <;> simp

@[simp] theorem State.dropLines_pending (s : State) (pk : Nat) : (s.dropLines pk).pending = s.pending := by
  rfl

@[simp] theorem State.noCandidate_pending (s : State) (die : Nat) : (s.noCandidate die).pending = s.pending := by
  simp [State.noCandidate]

@[simp] theorem State.startDemotion_pending (s : State) (pk : Nat) : (s.startDemotion pk).2.pending = s.pending := by
  simp only [State.startDemotion]
  split <;> simp

@[simp] theorem State.demoteTo_pending (s : State) (d die mark fuel : Nat) : (s.demoteTo d die mark fuel).pending = s.pending := by
  induction fuel generalizing s with
  | zero => rfl
  | succ fuel ih =>
    unfold State.demoteTo
    split
    · split
      · simp
      · simp [ih]
    · rfl

@[simp] theorem State.waterCheck_pending (s : State) (d die : Nat) (going : Bool) :
    (s.waterCheck d die going).pending = s.pending := by
  simp [State.waterCheck]

@[simp] theorem State.watchWater_pending (s : State) : s.watchWater.pending = s.pending := by
  simp [State.watchWater]

@[simp] theorem State.waitMove_pending (s : State) (pk : Nat) (k : MoveKind) (tag : Nat) :
    (s.waitMove pk k tag).pending = s.pending := by
  rfl

@[simp] theorem State.logRetire_pending (s : State) (f : Nat) : (s.logRetire f).pending = s.pending := by
  rfl

@[simp] theorem State.makeRoom_pending (s : State) (pk d die : Nat) : (s.makeRoom pk d die).pending = s.pending := by
  unfold State.makeRoom
  split
  · split <;> simp
  · simp

@[simp] theorem State.rehomeDest_pending (s : State) (pk f : Nat) : (s.rehomeDest pk f).2.pending = s.pending := by
  simp only [State.rehomeDest]
  split
  · simp
  · split <;> simp

@[simp] theorem State.startRehome_pending (s : State) (pk f : Nat) : (s.startRehome pk f).pending = s.pending := by
  unfold State.startRehome
  split
  · simp
  · split <;> simp [State.pending_of_pair ‹_ = (_, _)›]

@[simp] theorem State.retire_pending (s : State) (f : Nat) : (s.retire f).pending = s.pending := by
  unfold State.retire
  repeat' split
  all_goals simp

@[simp] theorem State.correctedAt_pending (s : State) (f : Nat) : (s.correctedAt f).pending = s.pending := by
  simp [State.correctedAt]

@[simp] theorem State.uncorrectedAt_pending (s : State) (f pk line : Nat) : (s.uncorrectedAt f pk line).pending = s.pending := by
  simp [State.uncorrectedAt]

@[simp] theorem State.hbmRead_pending (s : State) (d pk line : Nat) : (s.hbmRead d pk line).pending = s.pending := by
  simp only [State.hbmRead]
  split
  · rfl
  · split
    · rfl
    · simp [State.pending_of_pair ‹_ = (_, _)›]

@[simp] theorem State.canopyHit_pending (s : State) (d die pk line : Nat) (dirty : Bool) :
    (s.canopyHit d die pk line dirty).pending = s.pending := by
  simp only [State.canopyHit]
  split
  · rfl
  · split
    · rfl
    · simp [State.pending_of_pair ‹_ = (_, _)›]

@[simp] theorem State.takeGrant_pending (s : State) (d pt : Nat) : (s.takeGrant d pt).pending = s.pending := by
  simp [State.takeGrant]

@[simp] theorem State.lineAccess_pending (s : State) (d pk line : Nat) (wr full : Bool) :
    (s.lineAccess d pk line wr full).pending = s.pending := by
  simp only [State.lineAccess]
  split
  · simp
  split
  · simp
  · split <;> simp

@[simp] theorem State.pfLine_pending (s : State) (d pk line : Nat) : (s.pfLine d pk line).pending = s.pending := by
  simp [State.pfLine]

@[simp] theorem State.pfPage_pending (s : State) (d pk : Nat) : (s.pfPage d pk).pending = s.pending := by
  simp [State.pfPage]

@[simp] theorem State.laneRead_pending (s : State) (l m b len : Nat) : (s.laneRead l m b len).2.pending = s.pending := by
  unfold State.laneRead
  split <;> simp

@[simp] theorem State.tierBad_pending (s : State) (sp : Space) (va len : Nat) : (s.tierBad sp va len).2.pending = s.pending := by
  simp [State.tierBad]

@[simp] theorem State.enterT2_pending (s : State) (pk f : Nat) : (s.enterT2 pk f).pending = s.pending := by
  simp [State.enterT2]

@[simp] theorem State.frameFor_pending (s : State) (pk die base : Nat) : (s.frameFor pk die base).2.pending = s.pending := by
  simp only [State.frameFor]
  split <;> simp

@[simp] theorem State.startPromotion_pending (s : State) (pk tag : Nat) : (s.startPromotion pk tag).pending = s.pending := by
  simp only [State.startPromotion]
  split
  · simp
  split
  · simp
  split
  · simp
  · split <;> simp [State.pending_of_pair ‹_ = (_, _)›]

@[simp] theorem State.waitOn_pending (s : State) (pk : Nat) (what : WaitWhat) (t3 : Bool) (tag : Nat) (late : Bool) :
    (s.waitOn pk what t3 tag late).pending = s.pending := by
  simp [State.waitOn]

theorem State.unitWait_pending (s : State) (u : WaitUnit) (tag : Nat) (xs : List (Space × Nat × Nat × Bool)) {t : State}
    (h : s.unitWait u tag xs = some t) : t.pending = s.pending := by
  unfold State.unitWait at h
  split at h
  · cases h
  · split at h <;> cases h
    · rfl
    · simp

@[simp] theorem State.backFree_pending (s : State) (pk : Nat) : (s.backFree pk).pending = s.pending := by
  unfold State.backFree
  split
  · simp
  · split <;> simp

@[simp] theorem State.setMark_pending (s : State) (va bit : Nat) : (s.setMark va bit).pending = s.pending := by
  simp [State.setMark]

@[simp] theorem State.logDirty_pending (s : State) (sp : Space) (p : Nat) : (s.logDirty sp p).pending = s.pending := by
  unfold State.logDirty
  split <;> simp

@[simp] theorem State.freePage_pending (s : State) (pk : Nat) : (s.freePage pk).pending = s.pending := by
  simp [State.freePage]

@[simp] theorem State.releasePage_pending (s : State) (pk : Nat) : (s.releasePage pk).pending = s.pending := by
  simp [State.releasePage]

@[simp] theorem State.undoMove_pending (s : State) (m : Move) : (s.undoMove m).pending = s.pending := by
  simp [State.undoMove]

@[simp] theorem State.switchMove_pending (s : State) (m : Move) : (s.switchMove m).pending = s.pending := by
  unfold State.switchMove
  split <;> simp

@[simp] theorem State.endExact_pending (s : State) (k va len : Nat) : (s.endExact k va len).pending = s.pending := by
  simp [State.endExact]

@[simp] theorem State.snoopHost_pending (s : State) (k va len : Nat) : (s.snoopHost k va len).pending = s.pending := by
  simp only [State.snoopHost]
  split
  · rfl
  · exact foldS_pending _ _ _ (by simp)

@[simp] theorem State.hostTakes_pending (s : State) (k va len : Nat) (on : Bool) :
    (s.hostTakes k va len on).pending = s.pending := by
  rfl

@[simp] theorem State.landBytes_pending (s : State) (sp : Space) (va : Nat) (bs : List Byte) :
    (s.landBytes sp va bs).pending = s.pending := by
  simp [State.landBytes]

@[simp] theorem State.touchWrite_pending (s : State) (sp : Space) (va len : Nat) :
    (s.touchWrite sp va len).pending = s.pending := by
  simp [State.touchWrite]

@[simp] theorem State.landDev_pending (s : State) (sp : Space) (va : Nat) (bs : List Byte) :
    (s.landDev sp va bs).pending = s.pending := by
  simp [State.landDev]

@[simp] theorem State.putDevTag_pending (s : State) (tag : Nat) (sp : Space) (va : Nat) (bs : List Byte) :
    (s.putDevTag tag sp va bs).pending = s.pending := by
  simp [State.putDevTag]

@[simp] theorem State.putDev_pending (s : State) (sp : Space) (va : Nat) (bs : List Byte) :
    (s.putDev sp va bs).pending = s.pending := by
  simp [State.putDev]

@[simp] theorem State.poisonPages_pending (s : State) (pks : List Nat) : (s.poisonPages pks).pending = s.pending := by
  simp [State.poisonPages]

@[simp] theorem State.storeDev_pending (s : State) (sp : Space) (va : Nat) (bs : List Byte) :
    (s.storeDev sp va bs).2.pending = s.pending := by
  unfold State.storeDev
  split <;> simp

@[simp] theorem State.touchRead_pending (s : State) (sp : Space) (va len : Nat) : (s.touchRead sp va len).pending = s.pending := by
  simp [State.touchRead]

@[simp] theorem State.loadDev_pending (s : State) (sp : Space) (va len : Nat) : (s.loadDev sp va len).2.2.pending = s.pending := by
  simp only [State.loadDev]
  repeat' split
  all_goals simp

@[simp] theorem State.retryMoves_pending (s : State) (die : Nat) : (s.retryMoves die).pending = s.pending := by
  refine foldS_pending _ _ _ fun p t => ?_
  split <;> simp

@[simp] theorem State.retryAll_pending (s : State) : s.retryAll.pending = s.pending := by
  simp [State.retryAll]

@[simp] theorem State.pinPage_pending (s : State) (pk d die i : Nat) : (s.pinPage pk d die i).2.pending = s.pending := by
  unfold State.pinPage
  split
  · simp
  · split <;> simp

@[simp] theorem State.irqLine_pending (s : State) (i : Nat) : (s.irqLine i).pending = s.pending := by
  simp only [State.irqLine]
  split
  · rfl
  · split <;> simp [State.pending_of_pair ‹_ = (_, _)›]

@[simp] theorem State.notify_pending (s : State) (p : Page) : (s.notify p).pending = s.pending := by
  simp [State.notify]

@[simp] theorem State.evt_pending (s : State) (p : Page) (raw pulse : Word) : (s.evt p raw pulse).pending = s.pending := by
  simp [State.evt]

@[simp] theorem State.mbxLevel_pending (s : State) (i b : Nat) (on : Bool) : (s.mbxLevel i b on).pending = s.pending := by
  simp [State.mbxLevel]

/-! The functions of Machine/Notify. -/

@[simp] theorem State.place_pending (s : State) (i type srck : Nat) (status : Code) (srci : Nat) (payload : List Word) (sid : Nat) :
    (s.place i type srck status srci payload sid).pending = s.pending := by
  simp [State.place]

@[simp] theorem State.notice_pending (s : State) (i type : Nat) (status : Code) (payload : List Word) :
    (s.notice i type status payload).pending = s.pending := by
  simp [State.notice]

@[simp] theorem State.watchRise_pending (s : State) (target : Nat) : (s.watchRise target).pending = s.pending := by
  simp [State.watchRise]

@[simp] theorem State.tgtEmpty_pending (s : State) (target : Nat) : (s.tgtEmpty target).pending = s.pending := by
  simp [State.tgtEmpty]

@[simp] theorem State.popMail_pending (s : State) (i : Nat) : (s.popMail i).pending = s.pending := by
  simp [State.popMail]

@[simp] theorem State.discard_pending (s : State) (target : Nat) (m : List Word) : (s.discard target m).pending = s.pending := by
  simp [State.discard]

@[simp] theorem State.emptyMail_pending (s : State) (i : Nat) : (s.emptyMail i).pending = s.pending := by
  simp [State.emptyMail]

@[simp] theorem State.laneMbEvt_pending (s : State) (l : Nat) : (s.laneMbEvt l).pending = s.pending := by
  simp [State.laneMbEvt]

@[simp] theorem State.placeLane_pending (s : State) (l type srck : Nat) (status : Code) (payload : List Word) :
    (s.placeLane l type srck status payload).pending = s.pending := by
  simp [State.placeLane]

@[simp] theorem State.recPut_pending (s : State) (bs : List Byte) : (s.recPut bs).pending = s.pending := by
  simp [State.recPut]

@[simp] theorem State.recLogAt_pending (s : State) (cls type src id at0 : Nat) (payload : List Byte) :
    (s.recLogAt cls type src id at0 payload).pending = s.pending := by
  simp [State.recLogAt]

@[simp] theorem State.recLog_pending (s : State) (cls type src id : Nat) (payload : List Byte) :
    (s.recLog cls type src id payload).pending = s.pending := by
  simp [State.recLog]

@[simp] theorem State.liveDrop_pending (s : State) : s.liveDrop.pending = s.pending := by
  rfl

@[simp] theorem State.blaze_pending (s : State) (type id : Nat) (payload : List Byte) :
    (s.blaze type id payload).pending = s.pending := by
  simp only [State.blaze]
  split
  · split <;> simp
  · simp

/-! The functions of Machine/Check. -/

@[simp] theorem State.chkCompare_pending (s : State) (k result : Nat) (want : Option Nat) :
    (s.chkCompare k result want).pending = s.pending := by
  simp [State.chkCompare]

@[simp] theorem State.chkFeed_pending (s : State) (k : Nat) (raw : List Byte) : (s.chkFeed k raw).pending = s.pending := by
  simp [State.chkFeed]

@[simp] theorem State.chkSource_pending (s : State) (die src : Nat) (egress : Bool) (id : Option Nat) (raw : List Byte) :
    (s.chkSource die src egress id raw).pending = s.pending := by
  simp [State.chkSource]

@[simp] theorem State.chkEth_pending (s : State) (p : Nat) (egress : Bool) (eaxc : Option Nat) (raw : List Byte) :
    (s.chkEth p egress eaxc raw).pending = s.pending := by
  simp [State.chkEth]

@[simp] theorem State.chkFree_pending (s : State) (die src : Nat) (egress : Bool) (id : Option Nat) (n : Nat) :
    (s.chkFree die src egress id n).pending = s.pending := by
  simp [State.chkFree]

@[simp] theorem State.chkCkx_pending (s : State) (p : Nat) (egress : Bool) (stream : Option Nat) :
    (s.chkCkx p egress stream).pending = s.pending := by
  simp [State.chkCkx]

@[simp] theorem State.chkCxl_pending (s : State) (egress : Bool) : (s.chkCxl egress).pending = s.pending := by
  simp [State.chkCxl]

/-! The functions of Machine/Radio. -/

@[simp] theorem State.overCheck_pending (s : State) (d : Nat) : (s.overCheck d).pending = s.pending := by
  simp [State.overCheck]

@[simp] theorem State.overAll_pending (s : State) : s.overAll.pending = s.pending := by
  simp [State.overAll]

@[simp] theorem State.sdsEvent_pending (s : State) (d b : Nat) : (s.sdsEvent d b).pending = s.pending := by
  rfl

@[simp] theorem State.missCell_pending (s : State) (d c : Nat) : (s.missCell d c).pending = s.pending := by
  rfl

@[simp] theorem State.missInst_pending (s : State) (d i : Nat) : (s.missInst d i).pending = s.pending := by
  rfl

@[simp] theorem State.gainHold_pending (s : State) (c : Nat) : (s.gainHold c).pending = s.pending := by
  simp [State.gainHold]

@[simp] theorem State.raiseCtr_pending (s : State) (die c : Nat) (n : Word) : (s.raiseCtr die c n).pending = s.pending := by
  simp [State.raiseCtr]

@[simp] theorem State.updSlotAt_pending (s : State) (c start : Nat) (f : SlotMsgs → SlotMsgs) :
    (s.updSlotAt c start f).pending = s.pending := by
  rfl

@[simp] theorem State.puschHanded_pending (s : State) (ws : List Word) : (s.puschHanded ws).pending = s.pending := by
  simp only [State.puschHanded]
  split
  · simp
  · split <;> simp

@[simp] theorem State.puschDecoded_pending (s : State) (ws : List Word) (tbok : Bool) (err : Nat) :
    (s.puschDecoded ws tbok err).pending = s.pending := by
  simp only [State.puschDecoded]
  split
  · simp
  · split <;> simp

@[simp] theorem State.putHost_pending (s : State) (va : Nat) (bs : List Byte) : (s.putHost va bs).pending = s.pending := by
  simp [State.putHost]

theorem State.SameQueue.putHost {s t : State} (h : s.SameQueue t) (va : Nat) (bs : List Byte) : s.SameQueue (t.putHost va bs) := by
  exact (State.putHost_pending t va bs).trans h

theorem State.SameQueue.emit {s t : State} (h : s.SameQueue t) (m : Output) : s.SameQueue (t.emit m) := by
  exact (State.emit_pending t m).trans h

theorem State.SameQueue.setL2q {s t : State} (h : s.SameQueue t) (q : Nat) (x : L2q) : s.SameQueue (t.setL2q q x) := by
  exact (State.setL2q_pending t q x).trans h

@[simp] theorem State.l2qWrite_pending (s : State) (q cell : Nat) (ws : List Word) :
    (s.l2qWrite q cell ws).pending = s.pending := by
  suffices s.SameQueue (s.l2qWrite q cell ws) from this
  unfold State.l2qWrite
  exact .emit (.setL2q (.putHost (.putHost (.putHost (rfl : s.SameQueue s) _ _) _ _) _ _) _ _) _

@[simp] theorem State.l2qDrain_pending (s : State) (q fuel : Nat) : (s.l2qDrain q fuel).pending = s.pending := by
  induction fuel generalizing s with
  | zero => rfl
  | succ fuel ih =>
    unfold State.l2qDrain
    split
    · rfl
    · split <;> simp [ih]

@[simp] theorem State.queueFrame_pending (s : State) (p : Nat) (f : EgressFrame) : (s.queueFrame p f).pending = s.pending := by
  simp [State.queueFrame]

@[simp] theorem State.payloadSend_pending (s : State) (cell : Nat) (d : List Word) (msgid : Nat) (ws : List Word) (deadline : Nat) :
    (s.payloadSend cell d msgid ws deadline).pending = s.pending := by
  simp only [State.payloadSend]
  split <;> simp

@[simp] theorem State.sendSlot_pending (s : State) (c : Nat) (d : List Word) (type sfn slot : Nat) (st : Code)
    (pdus : List (List Word)) (deadline : Nat) : (s.sendSlot c d type sfn slot st pdus deadline).pending = s.pending := by
  simp [State.sendSlot]

@[simp] theorem State.errorInd_pending (s : State) (c : Nat) (d : List Word) (sfn slot : Nat) (handle : Word) (type : Nat)
    (st : Code) (seq pduType : Nat) : (s.errorInd c d sfn slot handle type st seq pduType).pending = s.pending := by
  simp [State.errorInd]

@[simp] theorem State.cellInd_pending (s : State) (c : Nat) (d : List Word) (code sfn : Nat) :
    (s.cellInd c d code sfn).pending = s.pending := by
  simp [State.cellInd]

/-! The functions of Machine/Tile. -/

@[simp] theorem State.deliver_pending (s : State) (who : Issuer) (r : List Word) : (s.deliver who r).pending = s.pending := by
  unfold State.deliver
  split <;> simp

@[simp] theorem State.bumpFlags_pending (s : State) (t : Nat) (f : AFlags) : (s.bumpFlags t f).pending = s.pending := by
  simp [State.bumpFlags]

@[simp] theorem State.heldCheck_pending (s : State) (k : Nat) : (s.heldCheck k).pending = s.pending := by
  simp only [State.heldCheck]
  split
  · simp
  · split <;> simp

@[simp] theorem State.toSched_pending (s : State) (t : Nat) (z : TSched) : (s.toSched t z).pending = s.pending := by
  unfold State.toSched
  split <;> simp

@[simp] theorem State.fly_pending (s : State) (t : Nat) (f : Flight) : (s.fly t f).pending = s.pending := by
  rfl

@[simp] theorem State.countRefusal_pending (s : State) (t : Nat) (who : Issuer) : (s.countRefusal t who).pending = s.pending := by
  unfold State.countRefusal
  split <;> simp

@[simp] theorem State.flyDone_pending (s : State) (t : Nat) (c : TileCmd) (op : TileOp) (code : Code) :
    (s.flyDone t c op code).pending = s.pending := by
  simp [State.flyDone]

@[simp] theorem State.dropUnknown_pending (s : State) (t fuel : Nat) : (s.dropUnknown t fuel).pending = s.pending := by
  induction fuel generalizing s with
  | zero => rfl
  | succ fuel ih =>
    unfold State.dropUnknown
    split
    · split <;> simp [ih]
    · rfl

@[simp] theorem State.startHead_pending (s : State) (t : Nat) (op : TileOp) (start : State → TileCmd → State)
    (hstart : ∀ u c, (start u c).pending = u.pending) : (s.startHead t op start).pending = s.pending := by
  simp only [State.startHead]
  split <;> simp [hstart]

@[simp] theorem State.tileInj_pending (s : State) (t : Nat) (c : TileCmd) : (s.tileInj t c).2.pending = s.pending := by
  simp [State.tileInj]

@[simp] theorem State.startMat_pending (s : State) (t : Nat) (op : TileOp) (c : TileCmd) :
    (State.startMat t op s c).pending = s.pending := by
  simp [State.startMat]

@[simp] theorem State.startDft_pending (s : State) (t : Nat) (c : TileCmd) : (State.startDft t s c).pending = s.pending := by
  simp [State.startDft]

@[simp] theorem execMatmul_leaves (s : State) (t : TileId) : (execMatmul t s).Leaves s.pending := by
  simp [execMatmul]

@[simp] theorem execConv_leaves (s : State) (t : TileId) : (execConv t s).Leaves s.pending := by
  simp [execConv]

@[simp] theorem execDft_leaves (s : State) (t : TileId) : (execDft t s).Leaves s.pending := by
  simp [execDft]

@[simp] theorem State.startXfer_pending (s : State) (t : Nat) (op : TileOp) (load : Bool) (c : TileCmd) :
    (State.startXfer t op load s c).pending = s.pending := by
  simp only [State.startXfer]
  split
  · simp
  split
  · simp
  · split <;> simp

@[simp] theorem execLoad_leaves (s : State) (t : TileId) : (execLoad t s).Leaves s.pending := by
  simp [execLoad]

@[simp] theorem execStore_leaves (s : State) (t : TileId) : (execStore t s).Leaves s.pending := by
  simp [execStore]

@[simp] theorem State.freeAc_pending (s : State) : (s.freeAc).2.pending = s.pending := by
  rfl

@[simp] theorem State.startWait_pending (s : State) (t : Nat) (c : TileCmd) : (State.startWait t s c).pending = s.pending := by
  simp [State.startWait]

@[simp] theorem State.startSignal_pending (s : State) (t : Nat) (c : TileCmd) : (State.startSignal t s c).pending = s.pending := by
  simp [State.startSignal]

@[simp] theorem execWait_leaves (s : State) (t : TileId) : (execWait t s).Leaves s.pending := by
  simp [execWait]

@[simp] theorem execSignal_leaves (s : State) (t : TileId) : (execSignal t s).Leaves s.pending := by
  simp [execSignal]

@[simp] theorem State.startGate_pending (s : State) (t : Nat) (c : TileCmd) : (State.startGate t s c).pending = s.pending := by
  simp [State.startGate]

@[simp] theorem execGate_leaves (s : State) (t : TileId) : (execGate t s).Leaves s.pending := by
  simp [execGate]

@[simp] theorem execTileWaitSatisfied_leaves (s : State) (t : TileId) : (execTileWaitSatisfied t s).Leaves s.pending := by
  simp only [execTileWaitSatisfied]
  split
  · simp
  · split <;> simp

@[simp] theorem State.releaseLent_pending (s : State) (t : Nat) : (s.releaseLent t).pending = s.pending := by
  simp [State.releaseLent]

@[simp] theorem execSignalApply_leaves (s : State) (t : TileId) : (execSignalApply t s).Leaves s.pending := by
  simp only [execSignalApply]
  split
  · simp
  · split <;> simp

@[simp] theorem execOutputBlockEnd_leaves (s : State) (t : TileId) (fault : Bool) :
    (execOutputBlockEnd t fault s).Leaves s.pending := by
  simp only [execOutputBlockEnd]
  split
  · simp
  split
  · simp
  · split <;> simp

@[simp] theorem State.faultRunAfter_pending (s : State) (t : Nat) (f : Flight) (b : RecBody) :
    (s.faultRunAfter t f b).pending = s.pending := by
  simp [State.faultRunAfter]

@[simp] theorem State.missIssuer_pending (s : State) (die : Nat) (who : Issuer) : (s.missIssuer die who).pending = s.pending := by
  unfold State.missIssuer
  split <;> simp

@[simp] theorem execTileRecordPost_leaves (s : State) (t : TileId) : (execTileRecordPost t s).Leaves s.pending := by
  simp only [execTileRecordPost]
  split
  · simp
  split
  · simp
  · split <;> simp

@[simp] theorem State.preqTile_pending (s : State) (t : Nat) : (s.preqTile t).pending = s.pending := by
  simp [State.preqTile]

@[simp] theorem execPreq_leaves (s : State) (t : TileId) : (execPreq t s).Leaves s.pending := by
  simp [execPreq]

@[simp] theorem execPreemptionPointReached_leaves (s : State) (t : TileId) : (execPreemptionPointReached t s).Leaves s.pending := by
  simp only [execPreemptionPointReached]
  split
  · split <;> simp
  · simp

@[simp] theorem execTransferPreemptTimeout_leaves (s : State) (t : TileId) : (execTransferPreemptTimeout t s).Leaves s.pending := by
  simp [execTransferPreemptTimeout]

@[simp] theorem State.startScrub_pending (s : State) (t : Nat) : (s.startScrub t).pending = s.pending := by
  simp [State.startScrub]

@[simp] theorem execTileSaveComplete_leaves (s : State) (t : TileId) : (execTileSaveComplete t s).Leaves s.pending := by
  simp [execTileSaveComplete]

@[simp] theorem State.resumeTile_pending (s : State) (t : Nat) : (s.resumeTile t).pending = s.pending := by
  simp [State.resumeTile]

@[simp] theorem execResume_leaves (s : State) (t : TileId) : (execResume t s).Leaves s.pending := by
  simp [execResume]

@[simp] theorem hostSuspectClr_leaves (s : State) (t : TileId) : (hostSuspectClr t s).Leaves s.pending := by
  simp [hostSuspectClr]

@[simp] theorem execTileScrubComplete_leaves (s : State) (t : TileId) : (execTileScrubComplete t s).Leaves s.pending := by
  simp only [execTileScrubComplete]
  split
  · simp
  · split <;> simp

@[simp] theorem hostTileCtrlHostWrite_leaves (s : State) (t : TileId) (v : Word) :
    (hostTileCtrlHostWrite t v s).Leaves s.pending := by
  simp [hostTileCtrlHostWrite]

@[simp] theorem State.enqueue_pending (s : State) (t : Nat) (c : TileCmd) : (s.enqueue t c).pending = s.pending := by
  rfl

@[simp] theorem State.refuseAtQueue_pending (s : State) (t : Nat) (c : TileCmd) : (s.refuseAtQueue t c).pending = s.pending := by
  simp [State.refuseAtQueue]

/-! The functions of Machine/Lane. -/

@[simp] theorem State.standbyCheck_pending (s : State) (l : Nat) : (s.standbyCheck l).pending = s.pending := by
  simp [State.standbyCheck]

@[simp] theorem State.cellFault_pending (s : State) (c : Nat) : (s.cellFault c).pending = s.pending := by
  simp only [State.cellFault]
  split
  · rfl
  · refine (foldS_pending _ _ _ fun y t => ?_).trans (by simp)
    repeat' split
    all_goals simp

@[simp] theorem State.laneFault_pending (s : State) (l c : Nat) (f : LaneFault) : (s.laneFault l c f).pending = s.pending := by
  simp [State.laneFault]

theorem State.fetchWord_pending (s : State) (l : Nat) {a : Nat} {t : State} (h : s.fetchWord l = some (a, t)) :
    t.pending = s.pending := by
  unfold State.fetchWord at h
  extract_lets +onlyGivenNames y x kept at h
  split at h
  · rw [← (Prod.mk.inj (Option.some.inj h)).2, State.setLane_pending]
  · split at h
    · cases h
    · rw [← (Prod.mk.inj (Option.some.inj h)).2, State.setLane_pending, State.pending_of_pair ‹_ = (_, _)›, State.laneRead_pending]

/-- The state that a fetched instruction runs on. -/
theorem State.laneFetch_pending (s : State) (l : Nat) {c : Nat} {i : LIns} {t : State} (h : s.laneFetch l = .ins c i t) :
    t.pending = s.pending := by
  unfold State.laneFetch at h
  extract_lets y c' at h
  split at h
  · cases h
  split at h
  · cases h
  split at h
  · cases h
  · split at h
    · rw [← (Fetched.ins.inj h).2.2]
      exact State.fetchWord_pending s l ‹_›
    · cases h

@[simp] theorem State.stopCheck_pending (s : State) (l c : Nat) : (s.stopCheck l c).pending = s.pending := by
  simp [State.stopCheck]

@[simp] theorem State.laneIssueAt_pending (s : State) (l c : Nat) (i : LIns) : (s.laneIssueAt l c i).pending = s.pending := by
  simp [State.laneIssueAt]

@[simp] theorem State.laneSpend_pending (s : State) (l c : Nat) (i : LIns) (ext : Bool) (x : LaneCtx) :
    (s.laneSpend l c i ext x).pending = s.pending := by
  rfl

@[simp] theorem State.laneRow_pending (s : State) (l op : Nat) (run : State → Nat → LIns → State)
    (hrun : ∀ t c i, (run t c i).pending = t.pending) : (s.laneRow l op run).pending = s.pending := by
  unfold State.laneRow
  split
  · rfl
  · simp
  · simp [hrun, State.laneFetch_pending s l ‹_›]

@[simp] theorem State.bumpLane_pending (s : State) (l : Nat) (f : AFlags) : (s.bumpLane l f).pending = s.pending := by
  simp [State.bumpLane]

@[simp] theorem State.laneLoads_pending (s : State) (l c : Nat) (ms : List Move1) :
    (s.laneLoads l c ms).2.2.pending = s.pending := by
  unfold State.laneLoads
  induction ms using List.reverseRecOn with
  | nil => rfl
  | append_singleton ms m ih =>
    rw [List.foldl_append]
    simp only [List.foldl_cons, List.foldl_nil]
    split
    · exact ih
    · simpa using ih

@[simp] theorem State.laneStores_pending (s : State) (l c : Nat) (x : LaneCtx) (ms : List Move1) :
    (s.laneStores l c x ms).pending = s.pending := by
  simp [State.laneStores]

@[simp] theorem State.laneData_pending (s : State) (l c : Nat) (i : LIns) (work : LaneCtx → Except LaneFault LEff) :
    (s.laneData l c i work).pending = s.pending := by
  simp only [State.laneData]
  split
  · simp
  · simp
  · split
    · simp
    split
    · simp
    split <;> simp [State.pending_of_triple ‹_ = (_, _, _)›]

@[simp] theorem State.laneCalc_pending (s : State) (l op : Nat) (work : State → LIns → LaneCtx → Except LaneFault LEff) :
    (s.laneCalc l op work).pending = s.pending := by
  simp [State.laneCalc]

/-! The functions of Machine/LaneOps. -/

@[simp] theorem execNop_leaves (s : State) (l : LaneId) : (execNop l s).Leaves s.pending := by
  simp [execNop]

@[simp] theorem execSalu_leaves (s : State) (l : LaneId) : (execSalu l s).Leaves s.pending := by
  simp [execSalu]

@[simp] theorem execMovi_leaves (s : State) (l : LaneId) : (execMovi l s).Leaves s.pending := by
  simp [execMovi]

@[simp] theorem execCmp_leaves (s : State) (l : LaneId) : (execCmp l s).Leaves s.pending := by
  simp [execCmp]

@[simp] theorem execGett_leaves (s : State) (l : LaneId) : (execGett l s).Leaves s.pending := by
  simp [execGett]

@[simp] theorem execGeta_leaves (s : State) (l : LaneId) : (execGeta l s).Leaves s.pending := by
  simp [execGeta]

@[simp] theorem execValu_leaves (s : State) (l : LaneId) : (execValu l s).Leaves s.pending := by
  simp [execValu]

@[simp] theorem execVcmul_leaves (s : State) (l : LaneId) : (execVcmul l s).Leaves s.pending := by
  simp [execVcmul]

@[simp] theorem execVmac_leaves (s : State) (l : LaneId) : (execVmac l s).Leaves s.pending := by
  simp [execVmac]

@[simp] theorem execVmacs_leaves (s : State) (l : LaneId) : (execVmacs l s).Leaves s.pending := by
  simp [execVmacs]

@[simp] theorem execVcmac_leaves (s : State) (l : LaneId) : (execVcmac l s).Leaves s.pending := by
  simp [execVcmac]

@[simp] theorem execVrdac_leaves (s : State) (l : LaneId) : (execVrdac l s).Leaves s.pending := by
  simp [execVrdac]

@[simp] theorem execVsclac_leaves (s : State) (l : LaneId) : (execVsclac l s).Leaves s.pending := by
  simp [execVsclac]

@[simp] theorem execVmag2_leaves (s : State) (l : LaneId) : (execVmag2 l s).Leaves s.pending := by
  simp [execVmag2]

@[simp] theorem execVrcp_leaves (s : State) (l : LaneId) : (execVrcp l s).Leaves s.pending := by
  simp [execVrcp]

@[simp] theorem execVcvt_leaves (s : State) (l : LaneId) : (execVcvt l s).Leaves s.pending := by
  simp [execVcvt]

@[simp] theorem execVsplat_leaves (s : State) (l : LaneId) : (execVsplat l s).Leaves s.pending := by
  simp [execVsplat]

@[simp] theorem execSeta_leaves (s : State) (l : LaneId) : (execSeta l s).Leaves s.pending := by
  refine (Ans.leaves_next _ _).2 (State.laneRow_pending _ _ _ _ fun t c i => ?_)
  repeat' split
  all_goals simp

@[simp] theorem execBr_leaves (s : State) (l : LaneId) : (execBr l s).Leaves s.pending := by
  refine (Ans.leaves_next _ _).2 (State.laneRow_pending _ _ _ _ fun t c i => ?_)
  dsimp only
  repeat' split
  all_goals simp

@[simp] theorem execCall_leaves (s : State) (l : LaneId) : (execCall l s).Leaves s.pending := by
  refine (Ans.leaves_next _ _).2 (State.laneRow_pending _ _ _ _ fun t c i => ?_)
  dsimp only
  repeat' split
  all_goals simp

@[simp] theorem execRet_leaves (s : State) (l : LaneId) : (execRet l s).Leaves s.pending := by
  refine (Ans.leaves_next _ _).2 (State.laneRow_pending _ _ _ _ fun t c i => ?_)
  dsimp only
  repeat' split
  all_goals simp

@[simp] theorem execLoop_leaves (s : State) (l : LaneId) : (execLoop l s).Leaves s.pending := by
  refine (Ans.leaves_next _ _).2 (State.laneRow_pending _ _ _ _ fun t c i => ?_)
  dsimp only
  repeat' split
  all_goals simp

@[simp] theorem execRepeat_leaves (s : State) (l : LaneId) : (execRepeat l s).Leaves s.pending := by
  refine (Ans.leaves_next _ _).2 (State.laneRow_pending _ _ _ _ fun t c i => ?_)
  dsimp only
  repeat' split
  all_goals simp

@[simp] theorem execSetdl_leaves (s : State) (l : LaneId) : (execSetdl l s).Leaves s.pending := by
  refine (Ans.leaves_next _ _).2 (State.laneRow_pending _ _ _ _ fun t c i => ?_)
  simp

@[simp] theorem State.laneLeave_pending (s : State) (l c : Nat) (f : LaneCtx → LaneCtx) :
    (s.laneLeave l c f).pending = s.pending := by
  rfl

@[simp] theorem execHalt_leaves (s : State) (l : LaneId) : (execHalt l s).Leaves s.pending := by
  refine (Ans.leaves_next _ _).2 (State.laneRow_pending _ _ _ _ fun t c i => ?_)
  simp

@[simp] theorem execLaneWait_leaves (s : State) (l : LaneId) : (execLaneWait l s).Leaves s.pending := by
  refine (Ans.leaves_next _ _).2 (State.laneRow_pending _ _ _ _ fun t c i => ?_)
  dsimp only
  split
  · split
    · simp
    · split <;> simp
  all_goals simp

@[simp] theorem State.laneReady_pending (s : State) (l c : Nat) (f : LaneCtx → LaneCtx) :
    (s.laneReady l c f).pending = s.pending := by
  simp [State.laneReady]

@[simp] theorem execLaneWaitWake_leaves (s : State) (l : LaneId) (c : LaneCtxId) : (execLaneWaitWake l c s).Leaves s.pending := by
  simp [execLaneWaitWake]

@[simp] theorem State.laneRefusal_pending (s : State) (l c tag dl : Nat) : (s.laneRefusal l c tag dl).pending = s.pending := by
  simp [State.laneRefusal]

@[simp] theorem State.xCommand_pending (s : State) (l c : Nat) (tile : Bool) (a : Word) :
    (s.xCommand l c tile a).2.pending = s.pending := by
  simp [State.xCommand]

@[simp] theorem State.tileRefusal_pending (s : State) (t : Nat) (ws : List Word) : (s.tileRefusal t ws).pending = s.pending := by
  simp [State.tileRefusal]

/-- The state that an issue goes on from keeps the queue. -/

def Issued.Leaves (q : List Instr) : Issued → Prop
  | .blocks => True
  | .fault _ t => t.pending = q
  | .done t => t.pending = q

theorem State.issueGate_leaves (s : State) (l c : Nat) (room : Bool) (go : State) {q : List Instr} (hs : s.pending = q)
    (hgo : go.pending = q) : Issued.Leaves q (s.issueGate l c room go) := by
  unfold State.issueGate
  extract_lets x
  split
  · split
    · exact hs
    · trivial
  split
  · trivial
  · exact hgo

theorem State.tiss_leaves (s : State) (l c : Nat) (i : LIns) : Issued.Leaves s.pending (s.tiss l c i) := by
  unfold State.tiss
  extract_lets +onlyGivenNames x
  split
  · exact (State.pending_of_pair ‹_ = (_, _)›).trans (by simp)
  · rename_i ws t heq
    have ht : t.pending = s.pending := (State.pending_of_pair heq).trans (by simp)
    extract_lets +onlyGivenNames k
    split
    · refine State.issueGate_leaves _ _ _ _ _ ht ?_
      split <;> simp [ht]
    · refine State.issueGate_leaves _ _ _ _ _ (by simp [ht]) ?_
      split <;> simp [ht]

theorem State.ciss_leaves (s : State) (l c : Nat) (i : LIns) : Issued.Leaves s.pending (s.ciss l c i) := by
  unfold State.ciss
  extract_lets +onlyGivenNames x
  split
  · exact (State.pending_of_pair ‹_ = (_, _)›).trans (by simp)
  · rename_i ws t heq
    have ht : t.pending = s.pending := (State.pending_of_pair heq).trans (by simp)
    extract_lets +onlyGivenNames k
    split
    · refine State.issueGate_leaves _ _ _ _ _ ht ?_
      split <;> simp [ht]
    · exact State.issueGate_leaves _ _ _ _ _ ht (by simp [ht])

theorem State.laneIssue_pending (s : State) (l c : Nat) (r : Issued) (h : Issued.Leaves s.pending r) :
    (s.laneIssue l c r).pending = s.pending := by
  cases r with
  | blocks => simp [State.laneIssue]
  | fault f t => exact (State.laneFault_pending t l c f).trans h
  | done t => exact (State.updLctx_pending t l c _).trans h

@[simp] theorem execTiss_leaves (s : State) (l : LaneId) : (execTiss l s).Leaves s.pending := by
  refine (Ans.leaves_next _ _).2 (State.laneRow_pending _ _ _ _ fun t c i => ?_)
  exact State.laneIssue_pending _ _ _ _ (t.tiss_leaves _ _ _)

@[simp] theorem execCiss_leaves (s : State) (l : LaneId) : (execCiss l s).Leaves s.pending := by
  refine (Ans.leaves_next _ _).2 (State.laneRow_pending _ _ _ _ fun t c i => ?_)
  exact State.laneIssue_pending _ _ _ _ (t.ciss_leaves _ _ _)

@[simp] theorem execLaneIssueUnblock_leaves (s : State) (l : LaneId) (c : LaneCtxId) :
    (execLaneIssueUnblock l c s).Leaves s.pending := by
  simp only [execLaneIssueUnblock]
  split
  · split
    · simp
    · rename_i f t heq
      have ht : t.pending = s.pending := by
        split at heq
        · exact (heq ▸ s.tiss_leaves _ _ _ : Issued.Leaves s.pending (.fault f t))
        · exact (heq ▸ s.ciss_leaves _ _ _ : Issued.Leaves s.pending (.fault f t))
      simpa using ht
    · rename_i t heq
      have ht : t.pending = s.pending := by
        split at heq
        · exact (heq ▸ s.tiss_leaves _ _ _ : Issued.Leaves s.pending (.done t))
        · exact (heq ▸ s.ciss_leaves _ _ _ : Issued.Leaves s.pending (.done t))
      simpa using ht
  · simp

@[simp] theorem execRdc_leaves (s : State) (l : LaneId) : (execRdc l s).Leaves s.pending := by
  simp [execRdc]

@[simp] theorem execAdvc_leaves (s : State) (l : LaneId) : (execAdvc l s).Leaves s.pending := by
  simp [execAdvc]

@[simp] theorem execSigc_leaves (s : State) (l : LaneId) : (execSigc l s).Leaves s.pending := by
  simp [execSigc]

/-! The functions of Machine/LaneRun. -/

@[simp] theorem execCompletionRecordArrive_leaves (s : State) (l : LaneId) (c : LaneCtxId) :
    (execCompletionRecordArrive l c s).Leaves s.pending := by
  simp only [execCompletionRecordArrive]
  split <;> simp

@[simp] theorem execLaneContextSwitch_leaves (s : State) (l : LaneId) : (execLaneContextSwitch l s).Leaves s.pending := by
  simp only [execLaneContextSwitch]
  split
  · simp
  · split <;> simp

@[simp] theorem execStandbyLoadComplete_leaves (s : State) (l : LaneId) (c : LaneCtxId) :
    (execStandbyLoadComplete l c s).Leaves s.pending := by
  simp [execStandbyLoadComplete]

@[simp] theorem execSliceExhausted_leaves (s : State) (l : LaneId) (c : LaneCtxId) :
    (execSliceExhausted l c s).Leaves s.pending := by
  simp [execSliceExhausted]

@[simp] theorem execLaneDeadlinePassed_leaves (s : State) (l : LaneId) (c : LaneCtxId) :
    (execLaneDeadlinePassed l c s).Leaves s.pending := by
  simp [execLaneDeadlinePassed]

@[simp] theorem execLaneExternalAccess_leaves (s : State) (l : LaneId) (mem : LaneMem) (addr : Nat) (op : AccessOp) :
    (execLaneExternalAccess l mem addr op s).Leaves s.pending := by
  unfold execLaneExternalAccess
  split <;> simp

@[simp] theorem State.progWrite_pending (s : State) (l off : Nat) (bs : List Byte) :
    (s.progWrite l off bs).pending = s.pending := by
  simp [State.progWrite]

@[simp] theorem State.ctxCfgWrite_pending (s : State) (l c : Nat) (v : Word) : (s.ctxCfgWrite l c v).pending = s.pending := by
  simp [State.ctxCfgWrite]

@[simp] theorem hostEnable_leaves (s : State) (l : LaneId) (c : LaneCtxId) (v : Word) : (hostEnable l c v s).Leaves s.pending := by
  simp [hostEnable]

@[simp] theorem hostLaneContextDisable_leaves (s : State) (l : LaneId) (c : LaneCtxId) (v : Word) :
    (hostLaneContextDisable l c v s).Leaves s.pending := by
  simp [hostLaneContextDisable]

@[simp] theorem execLaneContextStopped_leaves (s : State) (l : LaneId) (c : LaneCtxId) :
    (execLaneContextStopped l c s).Leaves s.pending := by
  simp [execLaneContextStopped]

@[simp] theorem hostMbclr_leaves (s : State) (l : LaneId) : (hostMbclr l s).Leaves s.pending := by
  simp [hostMbclr]

@[simp] theorem State.laneTick_pending (s : State) : s.laneTick.pending = s.pending := by
  rfl

/-! The functions of Machine/Deck. -/

@[simp] theorem State.deckRecord_pending (s : State) (g : Nat) (c : DeckCmd) (code : Code) (nan : Bool) (ac : Nat) :
    (s.deckRecord g c code nan ac).pending = s.pending := by
  simp [State.deckRecord]

@[simp] theorem execSortDeckCommand_leaves (s : State) (g : GroveId) : (execSortDeckCommand g s).Leaves s.pending := by
  simp only [execSortDeckCommand]
  split
  · simp
  split
  · simp
  · split <;> simp

@[simp] theorem execSortDeckComplete_leaves (s : State) (g : GroveId) (second : Bool) :
    (execSortDeckComplete g second s).Leaves s.pending := by
  simp only [execSortDeckComplete]
  split <;> simp

@[simp] theorem State.deckTick_pending (s : State) : s.deckTick.pending = s.pending := by
  simp [State.deckTick]

/-! The functions of Machine/Memory. -/

@[simp] theorem State.countStall_pending (s : State) (pk : Nat) (w : Waiter) : (s.countStall pk w).pending = s.pending := by
  simp only [State.countStall]
  split <;> simp

@[simp] theorem State.beginEpisode_pending (s : State) (who : Issuer) (pk : Nat) (t3 : Bool) :
    (s.beginEpisode who pk t3).pending = s.pending := by
  unfold State.beginEpisode
  split <;> simp

@[simp] theorem State.endEpisode_pending (s : State) (who : Issuer) : (s.endEpisode who).pending = s.pending := by
  unfold State.endEpisode
  split <;> simp

@[simp] theorem State.prefetchDone_pending (s : State) (f : Flight) : (State.prefetchDone f s).pending = s.pending := by
  unfold State.prefetchDone
  split <;> simp

@[simp] theorem State.endTransfer_pending (s : State) (t i : Nat) (f : Flight) (c : Code) :
    (s.endTransfer t i f c).pending = s.pending := by
  simp [State.endTransfer]

@[simp] theorem State.tieWon_pending (s : State) (pt : Nat) (a : ArbWhat) (tag : Nat) (late : Bool) :
    (s.tieWon pt a tag late).pending = s.pending := by
  simp [State.tieWon]

@[simp] theorem State.leavePoints_pending (s : State) (a : ArbWhat) : (s.leavePoints a).pending = s.pending := by
  rfl

@[simp] theorem State.holdAt_pending (s : State) (pt d : Nat) (a : ArbWhat) (tag : Nat) (late : Bool) :
    (s.holdAt pt d a tag late).pending = s.pending := by
  simp [State.holdAt]

@[simp] theorem State.arbitrate_pending (s : State) (d : Nat) (a : ArbWhat) (tag : Nat) (late : Bool) (pts : List Nat) :
    (s.arbitrate d a tag late pts).2.pending = s.pending := by
  simp only [State.arbitrate]
  split <;> simp

@[simp] theorem State.portAsks_pending (s : State) (q : PortReq) (d : Nat) (pts : List Nat) :
    (s.portAsks q d pts).2.pending = s.pending := by
  simp only [State.portAsks]
  split
  · rfl
  · split <;> simp [State.pending_of_pair ‹_ = (_, _)›]

@[simp] theorem State.portPost_pending (s : State) (p tag : Nat) (sp : Space) (va : Nat) (bs : List Byte) :
    (s.portPost p tag sp va bs).pending = s.pending := by
  unfold State.portPost
  split
  · rfl
  · split <;> simp [State.pending_of_pair ‹_ = (_, _)›]

@[simp] theorem State.storePiece_pending (s : State) (sp : Space) (va : Nat) (bs : List Byte) (first whole : Bool) :
    (s.storePiece sp va bs first whole).pending = s.pending := by
  simp [State.storePiece]

@[simp] theorem State.xferStep_pending (s : State) (who : TileId) : (s.xferStep who).pending = s.pending := by
  suffices s.SameQueue (s.xferStep who) from this
  unfold State.xferStep
  extract_lets +onlyGivenNames t x
  split
  · rfl
  split
  · rfl
  split
  · rfl
  extract_lets +onlyGivenNames q load sp va n code
  split
  · simp
  extract_lets +onlyGivenNames tag
  split
  · split
    · rfl
    · simp
  extract_lets +onlyGivenNames first
  split
  · simp [State.pending_of_pair ‹_ = (_, _)›]
  rename_i s0 harb
  have h0 : s0.pending = s.pending := by simp [State.pending_of_pair harb]
  extract_lets +onlyGivenNames z ta go
  have hgo (t1 : State) (store : Memory) (part : List Byte) (fl : AFlags) : t1.SameQueue (go t1 store part fl) := by
    simp only [go]
    split <;> simp
  split
  · split
    rename_i bad s1 hread
    have h1 : s1.pending = s.pending := by
      refine (State.pending_of_pair hread).trans ?_
      split
      · simp [h0]
      · split <;> simp [h0]
    split
    rename_i worse s2 hbad
    have h2 : s2.pending = s.pending := by simp [State.pending_of_pair hbad, h1]
    split
    · simp [h2]
    · exact (hgo _ _ _ _).trans h2
  split
  · simp [h0]
  · exact (hgo _ _ _ _).trans (by simp [h0])

@[simp] theorem State.agentStep_pending (s : State) (sp : Space) (va : Nat) (op : AccessOp) (tag : Nat) (from_ : Fin 6) :
    (s.agentStep sp va op tag from_).pending = s.pending := by
  unfold State.agentStep
  extract_lets len wr code
  split
  · simp
  split
  · simp
  split
  · simp [State.pending_of_pair ‹_ = (_, _)›]
  rename_i s0 harb
  have h0 : s0.pending = s.pending := by simp [State.pending_of_pair harb]
  split
  · split
    rename_i bad s1 hread
    have h1 : s1.pending = s.pending := by
      refine (State.pending_of_pair hread).trans ?_
      split <;> simp [h0]
    split
    simp [State.pending_of_pair ‹_ = (_, _)›, h1]
  · split
    · simp [h0]
    · extract_lets s1
      simp only [State.emit_pending]
      split <;> simp [s1, h0]

@[simp] theorem State.accessStep_pending (s : State) (w : MemAccess) : (s.accessStep w).pending = s.pending := by
  unfold State.accessStep
  split <;> simp

@[simp] theorem execDeviceMemoryAccess_leaves (s : State) (a : MemAccess) : (execDeviceMemoryAccess a s).Leaves s.pending := by
  simp [execDeviceMemoryAccess]

@[simp] theorem State.winRefused_pending (s : State) : s.winRefused.pending = s.pending := by
  rfl

@[simp] theorem State.windowServe_pending (s : State) (sp : Space) (va : Nat) (op : AccessOp) :
    (s.windowServe sp va op).pending = s.pending := by
  unfold State.windowServe
  split
  · split <;> simp [State.pending_of_triple ‹_ = (_, _, _)›]
  · simp

@[simp] theorem State.windowStep_pending (s : State) (sp : Space) (va : Nat) (op : AccessOp) (tag : Nat) (late : Bool) :
    (s.windowStep sp va op tag late).pending = s.pending := by
  unfold State.windowStep
  extract_lets len wr
  split
  · simp
  split
  · simp
  · split <;> simp [State.pending_of_pair ‹_ = (_, _)›]

@[simp] theorem State.wake_pending (s : State) (w : WaitWhat) : (s.wake w).pending = s.pending := by
  unfold State.wake
  split <;> simp

@[simp] theorem State.proceed_pending (s : State) (w : Waiter) : (s.proceed w).pending = s.pending := by
  unfold State.proceed
  split <;> simp

@[simp] theorem State.serveWaiter_pending (s : State) (pk : Nat) (w : Waiter) : (s.serveWaiter pk w).pending = s.pending := by
  unfold State.serveWaiter
  split
  · extract_lets h
    split
    · simp
    split
    · simp
    · split <;> simp
    · simp
    · split
      · split <;> simp
      · rfl
  · split
    · extract_lets t
      split <;> simp [t]
    · extract_lets who t
      cases who with
      | none => simp [t]
      | some i => simp [t]

@[simp] theorem State.serveWaiters_pending (s : State) (pk : Nat) : (s.serveWaiters pk).pending = s.pending := by
  simp [State.serveWaiters]

@[simp] theorem State.failWaiter_pending (s : State) (pk : Nat) (w : Waiter) : (s.failWaiter pk w).pending = s.pending := by
  simp only [State.failWaiter]
  repeat' split
  all_goals simp

@[simp] theorem State.moveGiveUp_pending (s : State) (m : Move) : (s.moveGiveUp m).pending = s.pending := by
  unfold State.moveGiveUp
  split <;> simp

@[simp] theorem State.moveDone_pending (s : State) (m : Move) : (s.moveDone m).pending = s.pending := by
  simp [State.moveDone]

@[simp] theorem execEpochEnd_leaves (s : State) (d : DieId) : (execEpochEnd d s).Leaves s.pending := by
  simp [execEpochEnd]

@[simp] theorem execTierStallLimit_leaves (s : State) (k : ReqId) : (execTierStallLimit k s).Leaves s.pending := by
  simp [execTierStallLimit]

@[simp] theorem execPatrolScrub_leaves (s : State) (ctl : HbmId) (frame line err : Nat) :
    (execPatrolScrub ctl frame line err s).Leaves s.pending := by
  unfold execPatrolScrub
  extract_lets f key hours due
  split
  · simp
  split
  · simp [State.pending_of_pair ‹_ = (_, _)›]
  rename_i t harb
  have ht : t.pending = s.pending := by simp [State.pending_of_pair harb]
  extract_lets m t1 m' s0
  have h0 : s0.pending = s.pending := by
    simp only [s0]
    split <;> exact ht
  refine Ans.leaves_next_of ?_
  split
  · simp [h0]
  · split <;> simp [h0]
  · exact h0

@[simp] theorem State.objStatus_pending (s : State) (d : Nat) (c : Code) : (s.objStatus d c).pending = s.pending := by
  rfl

@[simp] theorem State.addObj_pending (s : State) (oid : Nat) (o : Obj) : (s.addObj oid o).pending = s.pending := by
  rfl

@[simp] theorem hostRegister_leaves (s : State) (d : DieId) (v : Word) : (hostRegister d v s).Leaves s.pending := by
  simp [hostRegister]

@[simp] theorem hostUnregister_leaves (s : State) (d : DieId) (v : Word) : (hostUnregister d v s).Leaves s.pending := by
  simp [hostUnregister]

@[simp] theorem State.stageObj_pending (s : State) (d inst : Nat) (d0 pinned cmpt2 : Bool) (vpn npages base : Nat) (st : Stalls) :
    (s.stageObj d inst d0 pinned cmpt2 vpn npages base st).pending = s.pending := by
  exact foldN_pending _ _ _ fun i t => rfl

@[simp] theorem hostObjectRead_leaves (s : State) (d : DieId) (v : Word) : (hostObjectRead d v s).Leaves s.pending := by
  simp only [hostObjectRead]
  split
  · simp
  · split <;> simp

@[simp] theorem hostHbmRetireLogWrite_leaves (s : State) (ctl : HbmId) (v : Word) :
    (hostHbmRetireLogWrite ctl v s).Leaves s.pending := by
  unfold hostHbmRetireLogWrite
  split
  · simp
  · split <;> simp

/-! The functions of Machine/Jobs. -/

@[simp] theorem State.rqEvent_pending (s : State) (i : Nat) : (s.rqEvent i).pending = s.pending := by
  simp [State.rqEvent]

@[simp] theorem State.cqPause_pending (s : State) (i : Nat) (on : Bool) : (s.cqPause i on).pending = s.pending := by
  simp [State.cqPause]

@[simp] theorem State.setJob_pending (s : State) (i j : Nat) (x : Job) : (s.setJob i j x).pending = s.pending := by
  rfl

@[simp] theorem State.freeCtx_pending (s : State) (k : Nat) : (s.freeCtx k).pending = s.pending := by
  rfl

@[simp] theorem State.recEffect_pending (s : State) (i : Nat) (e : RecEffect) : (s.recEffect i e).pending = s.pending := by
  unfold State.recEffect
  split <;> simp

@[simp] theorem State.writeRec_pending (s : State) (i : Nat) (r : ReadyRec) : (s.writeRec i r).pending = s.pending := by
  simp only [State.writeRec]
  repeat' split
  all_goals simp

@[simp] theorem State.rqDrain_pending (s : State) (i fuel : Nat) : (s.rqDrain i fuel).pending = s.pending := by
  induction fuel generalizing s with
  | zero => rfl
  | succ fuel ih =>
    unfold State.rqDrain
    split
    · split <;> simp
    · split <;> simp [ih]

@[simp] theorem State.postRec_pending (s : State) (i : Nat) (r : ReadyRec) : (s.postRec i r).pending = s.pending := by
  unfold State.postRec
  split <;> simp

@[simp] theorem State.jobRec_pending (s : State) (i opc ticket : Nat) (code : Code) (job steps : Nat) (e : RecEffect) :
    (s.jobRec i opc ticket code job steps e).pending = s.pending := by
  simp [State.jobRec]

@[simp] theorem State.simpleRec_pending (s : State) (i opc ticket : Nat) (code : Code) (job steps : Nat) :
    (s.simpleRec i opc ticket code job steps).pending = s.pending := by
  simp [State.simpleRec]

@[simp] theorem State.ctxRec_pending (s : State) (k : Nat) (more : Bool) (code : Code) (inl : List Byte) :
    (s.ctxRec k more code inl).pending = s.pending := by
  simp [State.ctxRec]

@[simp] theorem State.releaseTile_pending (s : State) (k t : Nat) : (s.releaseTile k t).pending = s.pending := by
  simp [State.releaseTile]

@[simp] theorem State.scrubTile_pending (s : State) (t : Nat) : (s.scrubTile t).pending = s.pending := by
  simp [State.scrubTile]

@[simp] theorem State.releaseAll_pending (s : State) (k : Nat) : (s.releaseAll k).pending = s.pending := by
  simp [State.releaseAll]

@[simp] theorem State.endFoot_pending (s : State) (k : Nat) (keep : Bool) : (s.endFoot k keep).pending = s.pending := by
  simp [State.endFoot]

@[simp] theorem State.endCtx_pending (s : State) (k : Nat) (cause : Option Code) : (s.endCtx k cause).pending = s.pending := by
  simp only [State.endCtx]
  split <;> simp

@[simp] theorem State.boundary_pending (s : State) (k pc : Nat) : (s.boundary k pc).pending = s.pending := by
  simp [State.boundary]

@[simp] theorem State.prefetchLoad_pending (s : State) (k wbase : Nat) (step : DWord) (ws : List Word) :
    (s.prefetchLoad k wbase step ws).pending = s.pending := by
  simp [State.prefetchLoad]

@[simp] theorem State.prefetchWalk_pending (s : State) (k : Nat) : (s.prefetchWalk k).pending = s.pending := by
  simp only [State.prefetchWalk]
  split
  · split <;> simp
  · simp

@[simp] theorem State.ckptClear_pending (s : State) (k : Nat) : (s.ckptClear k).2.pending = s.pending := by
  simp only [State.ckptClear]
  split <;> simp

@[simp] theorem execStepStart_leaves (s : State) (id : ReqId) : (execStepStart id s).Leaves s.pending := by
  unfold execStepStart
  extract_lets k c
  split
  · simp
  split
  · simp
  extract_lets +onlyGivenNames foot blocked busy
  split
  · simp
  split
  · simp
  extract_lets +onlyGivenNames s1 s2 s3
  have h2 : s2.pending = s.pending := by
    refine (foldS_pending _ _ _ fun t u => ?_).trans rfl
    simp only
    split
    · split <;> simp
    · simp
  have h3 : s3.pending = s.pending := (State.prefetchWalk_pending _ _).trans h2
  split
  · simp [h3]
  · split <;> simp [State.pending_of_pair ‹_ = (_, _)›, h3]

@[simp] theorem State.stepDone_pending (s : State) (k : Nat) : (s.stepDone k).pending = s.pending := by
  simp only [State.stepDone]
  split
  · split <;> simp
  · simp

/-- The state of a command whose address has been relocated. -/

theorem State.relocate_pending (s : State) (c : ReqCtx) (reloc : Nat) (ws : List Word) {r : Nat × State}
    (h : s.relocate c reloc ws = .ok r) : r.2.pending = s.pending := by
  unfold State.relocate at h
  extract_lets a x n p o at h
  split at h
  · rw [← Except.ok.inj h]
  · rw [← Except.ok.inj h]
  · rw [← Except.ok.inj h]
  split at h
  · cases h
  split at h
  · extract_lets v at h
    split at h
    · rw [← Except.ok.inj h, State.pending_of_triple ‹_ = (_, _, _)›, State.loadDev_pending]
    · cases h
  · cases h

@[simp] theorem State.issueOne_pending (s : State) (k : Nat) (e : List Word) : (s.issueOne k e).2.pending = s.pending := by
  suffices s.SameQueue (s.issueOne k e).2 from this
  unfold State.issueOne
  extract_lets +onlyGivenNames c
  split
  · rfl
  rename_i p rest _
  extract_lets +onlyGivenNames n
  split
  · simp
  extract_lets +onlyGivenNames t x dom mine
  split
  · rfl
  extract_lets +onlyGivenNames op reloc r
  generalize hr : r = r'
  rcases r' with cause | ⟨a, u⟩
  · simp
  have hu : u.pending = s.pending := by
    simp only [r] at hr
    clear_value reloc
    cases reloc with
    | none => rw [← (Prod.mk.inj (Except.ok.inj hr)).2]
    | some m =>
      cases hm : s.relocate c m p.words with
      | error cause => simp only [hm, Except.map, reduceCtorEq] at hr
      | ok q =>
        simp only [hm, Except.map] at hr
        rw [← (Prod.mk.inj (Except.ok.inj hr)).2]
        exact State.relocate_pending s c m _ hm
  dsimp -zeta only
  extract_lets +onlyGivenNames cmd s2
  have h2 : s2.pending = s.pending := (State.updCtx_pending _ _ _).trans hu
  split <;> simp [h2]

theorem State.kvWait_pending (s : State) (k : Nat) {t : State} (h : s.kvWait k = some t) : t.pending = s.pending := by
  simp only [State.kvWait] at h
  split at h
  · split at h
    · exact State.unitWait_pending s _ _ _ h
    · cases h
  · cases h

@[simp] theorem State.issueAll_pending (s : State) (k : Nat) (e : List Word) (fuel : Nat) : (s.issueAll k e fuel).pending = s.pending := by
  induction fuel generalizing s with
  | zero => rfl
  | succ fuel ih =>
    unfold State.issueAll
    split
    · exact State.kvWait_pending s k ‹_›
    · split <;> simp [ih, State.pending_of_pair ‹_ = (_, _)›]

@[simp] theorem execStepTile_leaves (s : State) (id : ReqId) : (execStepTile id s).Leaves s.pending := by
  unfold execStepTile
  split <;> simp

@[simp] theorem execTileQueueEntryFree_leaves (s : State) (t : TileId) : (execTileQueueEntryFree t s).Leaves s.pending := by
  simp only [execTileQueueEntryFree]
  split
  · simp
  · split <;> simp

@[simp] theorem execStepSort_leaves (s : State) (id : ReqId) : (execStepSort id s).Leaves s.pending := by
  simp only [execStepSort]
  split
  · simp
  split
  · simp
  · split <;> simp

@[simp] theorem execJumpc_leaves (s : State) (id : ReqId) : (execJumpc id s).Leaves s.pending := by
  simp only [execJumpc]
  split <;> simp

@[simp] theorem execEmit_leaves (s : State) (id : ReqId) : (execEmit id s).Leaves s.pending := by
  simp only [execEmit]
  split <;> simp

@[simp] theorem State.copyRegions_pending (s : State) (sp : Space) (ws : List (Nat × Nat × Nat)) :
    (s.copyRegions sp ws).2.pending = s.pending := by
  refine foldl_snd_pending _ _ _ fun acc r => ?_
  split
  · rfl
  · split <;> simp [State.pending_of_triple ‹_ = (_, _, _)›]

@[simp] theorem State.writeCkpt_pending (s : State) (i : Nat) (c : ReqCtx) (j : Job) (p : Pkg) :
    (s.writeCkpt i c j p).2.pending = s.pending := by
  unfold State.writeCkpt
  dsimp only
  split
  · simp [State.pending_of_pair ‹_ = (_, _)›]
  · simp

@[simp] theorem execCkpt_leaves (s : State) (id : ReqId) : (execCkpt id s).Leaves s.pending := by
  simp only [execCkpt]
  split
  · simp
  split
  · simp
  split
  · simp [State.unitWait_pending s _ _ _ ‹_›]
  · split <;> simp [State.pending_of_pair ‹_ = (_, _)›]

@[simp] theorem execStepEnd_leaves (s : State) (id : ReqId) : (execStepEnd id s).Leaves s.pending := by
  simp only [execStepEnd]
  split <;> simp

@[simp] theorem execSequencerRecord_leaves (s : State) (id : ReqId) : (execSequencerRecord id s).Leaves s.pending := by
  simp only [execSequencerRecord]
  split <;> simp

@[simp] theorem State.scrubSlice_pending (s : State) (j : Job) : (s.scrubSlice j).pending = s.pending := by
  simp [State.scrubSlice]

theorem State.restartWait_pending (s : State) (i n : Nat) (j : Job) {t : State} (h : s.restartWait i n j = some t) :
    t.pending = s.pending := by
  simp only [State.restartWait] at h
  split at h
  · cases h
  split at h
  · cases h
    exact State.unitWait_pending s _ _ _ ‹_›
  · obtain ⟨q, -, hq⟩ := Option.bind_eq_some_iff.1 h
    exact State.unitWait_pending s _ _ _ hq

@[simp] theorem State.jobCheck_pending (s : State) (i n : Nat) : (s.jobCheck i n).pending = s.pending := by
  unfold State.jobCheck
  extract_lets +onlyGivenNames j
  split
  · rfl
  extract_lets +onlyGivenNames left
  split
  · rfl
  split
  · simp
  · split
    · exact State.restartWait_pending s _ _ _ ‹_›
    · extract_lets +onlyGivenNames s1
      split <;> simp [s1]
  · rfl

@[simp] theorem State.tearTile_pending (s : State) (t : Nat) : (s.tearTile t).pending = s.pending := by
  simp [State.tearTile]

@[simp] theorem execTeardownFinish_leaves (s : State) (id : ReqId) : (execTeardownFinish id s).Leaves s.pending := by
  simp [execTeardownFinish]

@[simp] theorem hostCqDoorbell_leaves (s : State) (i : InstId) (v : Word) : (hostCqDoorbell i v s).Leaves s.pending := by
  simp [hostCqDoorbell]

theorem State.cqWait_pending (s : State) (i : Nat) {t : State} (h : s.cqWait i = some t) : t.pending = s.pending := by
  simp only [State.cqWait] at h
  split at h
  · exact State.unitWait_pending s _ _ _ h
  · cases h

theorem State.cqEntry_pending (s : State) (i : Nat) {a : List Word} {t : State} (h : s.cqEntry i = some (a, t)) :
    t.pending = s.pending := by
  simp only [State.cqEntry] at h
  split at h
  · split at h <;> cases h
    simp [State.pending_of_triple ‹_ = (_, _, _)›]
  · cases h

@[simp] theorem State.cqTake_pending (s : State) (i : Nat) (ws : List Word) : (s.cqTake i ws).pending = s.pending := by
  simp [State.cqTake]

@[simp] theorem State.cqRow_pending (s : State) (i : Nat) (mine : Nat → Bool) (run : List Word → State → State)
    (hrun : ∀ ws t, (run ws t).pending = t.pending) : (s.cqRow i mine run).pending = s.pending := by
  unfold State.cqRow
  split
  · exact State.cqWait_pending s i ‹_›
  split
  · rfl
  · have h := State.cqEntry_pending s i ‹_›
    simp [hrun, h]

@[simp] theorem State.cqNop_pending (s : State) (i : Nat) (ws : List Word) : (State.cqNop i ws s).pending = s.pending := by
  simp [State.cqNop]

@[simp] theorem execCqNop_leaves (s : State) (i : InstId) : (execCqNop i s).Leaves s.pending := by
  simp [execCqNop]

theorem State.pickCtx_pending (s : State) {a : Nat} {t : State} (h : s.pickCtx = some (a, t)) : t.pending = s.pending := by
  simp only [State.pickCtx, Option.map_eq_some_iff] at h
  obtain ⟨k, -, hk⟩ := h
  cases hk
  rfl

@[simp] theorem State.cqRun_pending (s : State) (i : Nat) (ws : List Word) : (State.cqRun i ws s).pending = s.pending := by
  simp only [State.cqRun]
  split
  · simp
  split
  · simp
  split
  · simp
  · rename_i k t heq
    have ht : t.pending = s.pending := by
      split at heq
      · exact State.pickCtx_pending s heq
      · cases heq
    simp [ht]

@[simp] theorem execRun_leaves (s : State) (i : InstId) : (execRun i s).Leaves s.pending := by
  simp [execRun]

@[simp] theorem State.cqCancel_pending (s : State) (i : Nat) (ws : List Word) : (State.cqCancel i ws s).pending = s.pending := by
  simp only [State.cqCancel]
  split
  · simp
  · split <;> simp

@[simp] theorem execCancel_leaves (s : State) (i : InstId) : (execCancel i s).Leaves s.pending := by
  simp [execCancel]

@[simp] theorem State.cqOpenJob_pending (s : State) (i : Nat) (ws : List Word) : (State.cqOpenJob i ws s).pending = s.pending := by
  simp [State.cqOpenJob]

@[simp] theorem execOpenJob_leaves (s : State) (i : InstId) : (execOpenJob i s).Leaves s.pending := by
  simp [execOpenJob]

@[simp] theorem State.endJobCtxs_pending (s : State) (i n : Nat) : (s.endJobCtxs i n).pending = s.pending := by
  simp [State.endJobCtxs]

@[simp] theorem State.jobEnd_pending (s : State) (i opc : Nat) (ws : List Word) :
    (State.jobEnd i opc ws s).pending = s.pending := by
  simp [State.jobEnd]

@[simp] theorem execCloseJob_leaves (s : State) (i : InstId) : (execCloseJob i s).Leaves s.pending := by
  simp [execCloseJob]

@[simp] theorem execRestart_leaves (s : State) (i : InstId) : (execRestart i s).Leaves s.pending := by
  simp [execRestart]

@[simp] theorem execCqFetchResume_leaves (s : State) (i : InstId) : (execCqFetchResume i s).Leaves s.pending := by
  simp [execCqFetchResume]

@[simp] theorem hostRqHeadWrite_leaves (s : State) (i : InstId) (v : Word) : (hostRqHeadWrite i v s).Leaves s.pending := by
  simp [hostRqHeadWrite]

/-! The functions of Machine/Sched. -/

@[simp] theorem State.sdsPeriod_pending (s : State) (d : Nat) : (s.sdsPeriod d).pending = s.pending := by
  simp [State.sdsPeriod]

@[simp] theorem State.handOver_pending (s : State) (d : Nat) : (s.handOver d).pending = s.pending := by
  refine (foldS_pending _ _ _ fun t u => ?_).trans rfl
  split <;> simp

@[simp] theorem State.overrunPeriod_pending (s : State) (d : Nat) : (s.overrunPeriod d).pending = s.pending := by
  simp [State.overrunPeriod]

@[simp] theorem State.beginBorrow_pending (s : State) (t : Nat) : (s.beginBorrow t).pending = s.pending := by
  simp [State.beginBorrow]

@[simp] theorem State.fixPlan_pending (s : State) (d : Nat) : (s.fixPlan d).pending = s.pending := by
  simp [State.fixPlan]

@[simp] theorem execPlanPeriodBoundary_leaves (s : State) (d : DieId) : (execPlanPeriodBoundary d s).Leaves s.pending := by
  simp [execPlanPeriodBoundary]

@[simp] theorem State.dropWaiters_pending (s : State) (t : Nat) : (s.dropWaiters t).pending = s.pending := by
  simp [State.dropWaiters]

@[simp] theorem execSpillComplete_leaves (s : State) (t : TileId) (tierErr : Bool) :
    (execSpillComplete t tierErr s).Leaves s.pending := by
  simp only [execSpillComplete]
  split
  · simp
  split
  · simp
  · split <;> simp

@[simp] theorem execTileReturnStart_leaves (s : State) (t : TileId) : (execTileReturnStart t s).Leaves s.pending := by
  simp only [execTileReturnStart]
  repeat' split
  all_goals simp

@[simp] theorem execRestoreComplete_leaves (s : State) (t : TileId) : (execRestoreComplete t s).Leaves s.pending := by
  simp only [execRestoreComplete]
  split <;> simp

/-! The functions of Machine/Gate. -/

@[simp] theorem State.unbindPkg_pending (s : State) (h : Nat) : (s.unbindPkg h).pending = s.pending := by
  unfold State.unbindPkg
  split
  · rfl
  extract_lets s1 drop s2 s3
  have hd (oid : Nat) (release : Bool) (t : State) : (drop oid release t).pending = t.pending := by
    simp only [drop]
    split
    · rfl
    split
    · exact (foldN_pending _ _ _ fun _ _ => by simp).trans rfl
    · rfl
  have h2 : s2.pending = s.pending := by
    simp only [s2]
    split
    · rfl
    · exact (hd _ _ _).trans rfl
  have h3 : s3.pending = s.pending := (foldS_pending _ _ _ fun _ _ => hd _ _ _).trans h2
  exact (State.retryAll_pending _).trans h3

@[simp] theorem State.unbindNow_pending (s : State) (h : Nat) : (s.unbindNow h).pending = s.pending := by
  simp [State.unbindNow]

@[simp] theorem State.parkResult_pending (s : State) (c : Code) : (s.parkResult c).pending = s.pending := by
  rfl

@[simp] theorem State.parkApply_pending (s : State) (v : Word) : (s.parkApply v).pending = s.pending := by
  simp [State.parkApply]

@[simp] theorem State.gateOpen_pending (s : State) : s.gateOpen.pending = s.pending := by
  simp only [State.gateOpen]
  repeat' split
  all_goals simp

/-! The functions of Machine/Cells. -/

@[simp] theorem State.lvTxOn_pending (s : State) (p dest : Nat) (m : LvMsg) : (s.lvTxOn p dest m).pending = s.pending := by
  simp [State.lvTxOn]

@[simp] theorem State.lvSend_pending (s : State) (dest : Nat) (m : LvMsg) : (s.lvSend dest m).pending = s.pending := by
  unfold State.lvSend
  split <;> simp

@[simp] theorem State.mirrorOut_pending (s : State) (c : Nat) (item : MirrorItem) : (s.mirrorOut c item).pending = s.pending := by
  simp [State.mirrorOut]

@[simp] theorem State.refusePdus_pending (s : State) (c : Nat) (h : SlotHead) (code : Code) (ps : List Pdu) :
    (s.refusePdus c h code ps).pending = s.pending := by
  simp [State.refusePdus]

@[simp] theorem State.landSlot_pending (s : State) (ws : List Word) : (s.landSlot ws).pending = s.pending := by
  simp only [State.landSlot]
  split <;> simp

@[simp] theorem State.slotMessage_pending (s : State) (type : Nat) (ws : List Word) :
    (s.slotMessage type ws).pending = s.pending := by
  simp [State.slotMessage]

@[simp] theorem execUlConfig_leaves (s : State) (msg : List Word) : (execUlConfig msg s).Leaves s.pending := by
  simp [execUlConfig]

@[simp] theorem execDlConfig_leaves (s : State) (msg : List Word) : (execDlConfig msg s).Leaves s.pending := by
  simp [execDlConfig]

@[simp] theorem execTxData_leaves (s : State) (msg : List Word) : (execTxData msg s).Leaves s.pending := by
  simp [execTxData]

@[simp] theorem State.noTb_pending (s : State) (c : Nat) (m : SlotMsgs) (p : Pdu) : (s.noTb c m p).pending = s.pending := by
  simp [State.noTb]

@[simp] theorem State.judgePdsch_pending (s : State) (c : Nat) (m : SlotMsgs) (p : Pdu) :
    (s.judgePdsch c m p).pending = s.pending := by
  simp only [State.judgePdsch]
  split
  · simp
  · split <;> simp

@[simp] theorem State.slotDeadline_pending (s : State) (c : Nat) (m : SlotMsgs) : (s.slotDeadline c m).pending = s.pending := by
  simp [State.slotDeadline]

@[simp] theorem State.admBusy_pending (s : State) (b : Bool) : (s.admBusy b).pending = s.pending := by
  simp [State.admBusy]

@[simp] theorem State.admDone_pending (s : State) (c : Code) (sfn : Option Nat) : (s.admDone c sfn).pending = s.pending := by
  rfl

@[simp] theorem State.admIgnored_pending (s : State) : s.admIgnored.pending = s.pending := by
  rfl

@[simp] theorem hostAdmit_leaves (s : State) (v : Word) : (hostAdmit v s).Leaves s.pending := by
  simp [hostAdmit]

@[simp] theorem execAdmitChecksComplete_leaves (s : State) : (execAdmitChecksComplete s).Leaves s.pending := by
  simp [execAdmitChecksComplete]

@[simp] theorem State.abortSlot_pending (s : State) (c : Nat) (m : SlotMsgs) : (s.abortSlot c m).pending = s.pending := by
  unfold State.abortSlot
  repeat' split
  all_goals simp

@[simp] theorem State.abortFrom_pending (s : State) (c t : Nat) : (s.abortFrom c t).pending = s.pending := by
  simp [State.abortFrom]

@[simp] theorem State.drainCell_pending (s : State) (c at0 sfn : Nat) (forced : Bool) :
    (s.drainCell c at0 sfn forced).pending = s.pending := by
  simp [State.drainCell]

@[simp] theorem State.freeCell_pending (s : State) (c : Nat) : (s.freeCell c).pending = s.pending := by
  simp [State.freeCell]

@[simp] theorem hostRemove_leaves (s : State) (v : Word) : (hostRemove v s).Leaves s.pending := by
  simp only [hostRemove]
  split
  · simp
  split
  · simp
  · split <;> simp

@[simp] theorem hostRemoveForce_leaves (s : State) (v : Word) : (hostRemoveForce v s).Leaves s.pending := by
  simp [hostRemoveForce]

@[simp] theorem State.startStreams_pending (s : State) (c : Nat) : (s.startStreams c).pending = s.pending := by
  rfl

@[simp] theorem execCellActivate_leaves (s : State) (c : CellId) : (execCellActivate c s).Leaves s.pending := by
  simp [execCellActivate]

@[simp] theorem State.dropFrames_pending (s : State) (c p : Nat) : (s.dropFrames c p).pending = s.pending := by
  rfl

@[simp] theorem execCellEndBoundary_leaves (s : State) (c : CellId) : (execCellEndBoundary c s).Leaves s.pending := by
  simp [execCellEndBoundary]

@[simp] theorem execCellFree_leaves (s : State) (c : CellId) : (execCellFree c s).Leaves s.pending := by
  simp [execCellFree]

@[simp] theorem State.slotCtx_pending (s : State) (sm c l k : Nat) : (s.slotCtx sm c l k).pending = s.pending := by
  simp [State.slotCtx]

@[simp] theorem execCellSlotStart_leaves (s : State) (c : CellId) : (execCellSlotStart c s).Leaves s.pending := by
  simp [execCellSlotStart]

/-! The functions of Machine/Receive. -/

@[simp] theorem State.cellCtr_pending (s : State) (c j n : Nat) : (s.cellCtr c j n).pending = s.pending := by
  simp [State.cellCtr]

@[simp] theorem State.ethDrop_pending (s : State) (port idx : Nat) : (s.ethDrop port idx).pending = s.pending := by
  rfl

@[simp] theorem State.landSection_pending (s : State) (port c st sm : Nat) (x : USection) :
    (s.landSection port c st sm x).pending = s.pending := by
  simp [State.landSection]

@[simp] theorem State.landPrach_pending (s : State) (port c st sm : Nat) (x : USection) :
    (s.landPrach port c st sm x).pending = s.pending := by
  simp [State.landPrach]

@[simp] theorem State.uplane_pending (s : State) (port : Nat) (x : USection) : (s.uplane port x).pending = s.pending := by
  simp only [State.uplane]
  split
  · simp
  · split <;> simp

@[simp] theorem execUplaneSection_leaves (s : State) (port : EthPort) (sec : USection) :
    (execUplaneSection port sec s).Leaves s.pending := by
  simp [execUplaneSection]

@[simp] theorem State.latchOcc_pending (s : State) (c st : Nat) (o : OccSum) : (s.latchOcc c st o).pending = s.pending := by
  simp [State.latchOcc]

@[simp] theorem State.latchDue_pending (s : State) (c st : Nat) : (s.latchDue c st).pending = s.pending := by
  simp [State.latchDue]

@[simp] theorem State.copyOccasion_pending (s : State) (port tag c st : Nat) (m : SlotMsgs) (idx : Nat) (p : Pdu) (at0 : Nat)
    (raw out : List (ℤ × ℤ)) : (s.copyOccasion port tag c st m idx p at0 raw out).pending = s.pending := by
  simp [State.copyOccasion]

@[simp] theorem State.copyOccasions_pending (s : State) (port c st sm sym off slot : Nat) (raw out : List (ℤ × ℤ)) :
    (s.copyOccasions port c st sm sym off slot raw out).pending = s.pending := by
  simp [State.copyOccasions]

@[simp] theorem State.landIq_pending (s : State) (port c st sm : Nat) (x : IqMessage) :
    (s.landIq port c st sm x).pending = s.pending := by
  simp [State.landIq]

@[simp] theorem State.iqMessage_pending (s : State) (port : Nat) (x : IqMessage) : (s.iqMessage port x).pending = s.pending := by
  simp only [State.iqMessage]
  split
  · simp
  · split <;> simp

@[simp] theorem execTimeDomainIqMessage_leaves (s : State) (port : EthPort) (msg : IqMessage) :
    (execTimeDomainIqMessage port msg s).Leaves s.pending := by
  simp [execTimeDomainIqMessage]

@[simp] theorem State.closePrbs_pending (s : State) (c st sfn slot k : Nat) :
    (s.closePrbs c st sfn slot k).2.pending = s.pending := by
  simp [State.closePrbs]

@[simp] theorem State.closeSamples_pending (s : State) (c st sfn slot k : Nat) :
    (s.closeSamples c st sfn slot k).pending = s.pending := by
  simp [State.closeSamples]

@[simp] theorem execUlSymbolClose_leaves (s : State) (c : CellId) (sfn slot sym : Nat) :
    (execUlSymbolClose c sfn slot sym s).Leaves s.pending := by
  unfold execUlSymbolClose
  extract_lets x d sm due
  split
  · simp
  split
  · simp
  split
  rename_i n s1 heq
  refine Ans.leaves_next_of ?_
  have h1 : s1.pending = s.pending := by
    refine (State.pending_of_pair heq).trans
      (foldS_keeps (P := fun p : Nat × State => p.2.pending = s.pending) _ (fun st _ acc hacc => ?_) rfl)
    exact (State.closePrbs_pending _ _ _ _ _ _).trans hacc
  simp [h1]

@[simp] theorem execGainSlotEnd_leaves (s : State) (c : CellId) (sfn slot : Nat) :
    (execGainSlotEnd c sfn slot s).Leaves s.pending := by
  simp [execGainSlotEnd]

@[simp] theorem execRxDataEgress_leaves (s : State) (c : CellId) (sfn slot : Nat) (tbs crcs : List (List Word))
    (others : List (Nat × List (List Word))) : (execRxDataEgress c sfn slot tbs crcs others s).Leaves s.pending := by
  unfold execRxDataEgress
  simp

@[simp] theorem State.nextSeq_pending (s : State) (c st dir plane : Nat) : (s.nextSeq c st dir plane).2.pending = s.pending := by
  rfl

@[simp] theorem State.ruFrame_pending (s : State) (port eaxc : Nat) (body : List Byte) (launch deadline : Nat) (kind : EgressKind)
    (close : Option Nat) : (s.ruFrame port eaxc body launch deadline kind close).pending = s.pending := by
  unfold State.ruFrame
  split <;> simp

@[simp] theorem State.cFrame_pending (s : State) (c st : Nat) (dl : Bool) (sm : Nat) (payload : List Byte) :
    (s.cFrame c st dl sm payload).pending = s.pending := by
  simp [State.cFrame]

@[simp] theorem execUplinkCplaneSend_leaves (s : State) (c : CellId) (sfn slot : Nat) :
    (execUplinkCplaneSend c sfn slot s).Leaves s.pending := by
  simp only [execUplinkCplaneSend]
  split <;> simp

@[simp] theorem execDownlinkCplaneSend_leaves (s : State) (c : CellId) (sfn slot : Nat)
    (weights : List (List (Nat × Nat × List (ℤ × ℤ)))) : (execDownlinkCplaneSend c sfn slot weights s).Leaves s.pending := by
  simp only [execDownlinkCplaneSend]
  split <;> simp

@[simp] theorem State.sendSymbol_pending (s : State) (c st sfn slot k sm first : Nat) (paceIt : Bool) :
    (s.sendSymbol c st sfn slot k sm first paceIt).pending = s.pending := by
  simp [State.sendSymbol]

@[simp] theorem execDlSymbolSend_leaves (s : State) (c : CellId) (sfn slot k : Nat) :
    (execDlSymbolSend c sfn slot k s).Leaves s.pending := by
  simp [execDlSymbolSend]

@[simp] theorem State.clearSymbol_pending (s : State) (c st sfn slot k sm : Nat) :
    (s.clearSymbol c st sfn slot k sm).pending = s.pending := by
  simp [State.clearSymbol]

@[simp] theorem State.markStale_pending (s : State) (c : Nat) (m : SlotMsgs) : (s.markStale c m).pending = s.pending := by
  simp [State.markStale]

@[simp] theorem execMessageDeadline_leaves (s : State) (c : CellId) : (execMessageDeadline c s).Leaves s.pending := by
  simp [execMessageDeadline]

@[simp] theorem execDlSymbolClose_leaves (s : State) (c : CellId) (sfn slot k : Nat) :
    (execDlSymbolClose c sfn slot k s).Leaves s.pending := by
  simp [execDlSymbolClose]

/-! The functions of Machine/Coding. -/

@[simp] theorem State.dropCode_pending (s : State) (g q : Nat) : (s.dropCode g q).pending = s.pending := by
  rfl

@[simp] theorem State.codeRecord_pending (s : State) (g : Nat) (k : CodeCmd) (c : Code) (tbok : Bool) (ac : Nat) :
    (s.codeRecord g k c tbok ac).pending = s.pending := by
  simp [State.codeRecord]

@[simp] theorem State.putDir_pending (s : State) (d : List Word) (i : Nat) (ws : List Word) :
    (s.putDir d i ws).pending = s.pending := by
  simp [State.putDir]

/-- The state of a claim that is refused, and of one that takes an entry. -/
theorem State.claim_error_pending (s : State) (ws : List Word) (need : Nat) {t : State} (h : s.claim ws need = some (.error t)) :
    t.pending = s.pending := by
  unfold State.claim at h
  extract_lets c d key at h
  split at h
  · cases h
  extract_lets s1 at h
  have h1 : s1.pending = s.pending := by simp only [s1]; split <;> simp
  split at h
  all_goals cases h
  all_goals exact (State.putDir_pending _ _ _ _).trans h1

theorem State.claim_pending (s : State) (ws : List Word) (need : Nat) {i : Nat} {t : State} (h : s.claim ws need = some (.ok (i, t))) :
    t.pending = s.pending := by
  unfold State.claim at h
  extract_lets c d key at h
  split at h
  · cases h
  extract_lets s1 at h
  have h1 : s1.pending = s.pending := by simp only [s1]; split <;> simp
  split at h
  all_goals cases h
  all_goals exact (State.putDir_pending _ _ _ _).trans h1

@[simp] theorem State.combineAll_pending (s : State) (ws : List Word) (i : Nat) (soft : List Byte) :
    (s.combineAll ws i soft).pending = s.pending := by
  simp [State.combineAll]

@[simp] theorem State.codeTake_pending (s : State) (g : Nat) : (s.codeTake g).pending = s.pending := by
  unfold State.codeTake
  split <;> simp

@[simp] theorem State.codeRefuse_pending (s : State) (g : Nat) (k : CodeCmd) (c : Code) :
    (s.codeRefuse g k c).pending = s.pending := by
  simp [State.codeRefuse]

@[simp] theorem State.putCode_pending (s : State) (g : Nat) (k : CodeCmd) : (s.putCode g k).pending = s.pending := by
  rfl

@[simp] theorem State.beginCode_pending (s : State) (g : Nat) (k : CodeCmd) (blocks : Nat) (entry : Option Nat) :
    (s.beginCode g k blocks entry).pending = s.pending := by
  rfl

@[simp] theorem State.beginLdec_fresh_pending (s t : State) (g : Nat) (k : CodeCmd) (soft : List Byte) (d : List Word) (seg : Seg)
    (ht : t.pending = s.pending) : (State.beginLdec.fresh s g k soft t d seg).pending = s.pending := by
  unfold State.beginLdec.fresh
  split
  · rfl
  · simp [State.claim_error_pending t _ _ ‹_›, ht]
  · simp [State.claim_pending t _ _ ‹_›, ht]

@[simp] theorem State.beginLdec_pending (s : State) (g : Nat) (k : CodeCmd) (soft : List Byte) :
    (s.beginLdec g k soft).pending = s.pending := by
  simp only [State.beginLdec]
  split <;> simp

@[simp] theorem State.beginLenc_pending (s : State) (g : Nat) (k : CodeCmd) (tb : List Byte) :
    (s.beginLenc g k tb).pending = s.pending := by
  suffices s.SameQueue (s.beginLenc g k tb) from this
  unfold State.beginLenc
  extract_lets +onlyGivenNames d seg
  split
  · split
    · simp
    · extract_lets +onlyGivenNames w
      split <;> simp
  · split
    · rfl
    · simp [State.claim_error_pending s _ _ ‹_›]
    · simp [State.claim_pending s _ _ ‹_›]

@[simp] theorem State.startCode_pending (s : State) (g op : Nat) (begin_ : State → CodeCmd → List Byte → State)
    (hbegin : ∀ t k bs, (begin_ t k bs).pending = t.pending) : (s.startCode g op begin_).pending = s.pending := by
  simp only [State.startCode]
  split
  · rfl
  split
  · rfl
  split
  · rfl
  split
  · split <;> simp [hbegin, State.pending_of_triple ‹_ = (_, _, _)›]
  · simp

@[simp] theorem State.dropUnknownCode_pending (s : State) (g : Nat) : (s.dropUnknownCode g).pending = s.pending := by
  unfold State.dropUnknownCode
  split
  · simp
  · split <;> simp

@[simp] theorem execLdec_leaves (s : State) (g : GroveId) : (execLdec g s).Leaves s.pending := by
  simp [execLdec]

@[simp] theorem execLenc_leaves (s : State) (g : GroveId) : (execLenc g s).Leaves s.pending := by
  simp [execLenc]

@[simp] theorem execPdec_leaves (s : State) (g : GroveId) : (execPdec g s).Leaves s.pending := by
  simp [execPdec]

@[simp] theorem execPenc_leaves (s : State) (g : GroveId) : (execPenc g s).Leaves s.pending := by
  simp [execPenc]

@[simp] theorem State.endLdec_pending (s : State) (g : Nat) (k : CodeCmd) : (s.endLdec g k).pending = s.pending := by
  unfold State.endLdec
  extract_lets ws seg bits payload got ok body w0 rest
  split
  · split <;> simp [State.pending_of_pair ‹_ = (_, _)›, State.pending_of_pair ‹s.storeDev _ _ _ = (_, _)›]
  · simp [State.pending_of_pair ‹_ = (_, _)›]

@[simp] theorem State.endBits_pending (s : State) (g : Nat) (k : CodeCmd) (bits : List Bool) (ok : Bool) :
    (s.endBits g k bits ok).pending = s.pending := by
  unfold State.endBits
  split <;> simp [State.pending_of_pair ‹_ = (_, _)›]

@[simp] theorem State.endCode_pending (s : State) (g : Nat) (k : CodeCmd) : (s.endCode g k).pending = s.pending := by
  simp only [State.endCode]
  split <;> simp

@[simp] theorem execCodeBlockEnd_leaves (s : State) (g : GroveId) : (execCodeBlockEnd g s).Leaves s.pending := by
  simp only [execCodeBlockEnd]
  split <;> simp

@[simp] theorem execHarqLockRelease_leaves (s : State) (c : CellId) (entry : Nat) :
    (execHarqLockRelease c entry s).Leaves s.pending := by
  simp [execHarqLockRelease]

@[simp] theorem execSoftBufferRelease_leaves (s : State) (c : CellId) : (execSoftBufferRelease c s).Leaves s.pending := by
  simp [execSoftBufferRelease]

/-! The functions of Machine/Tenancy. -/

@[simp] theorem State.setStage_pending (s : State) (p : Page) (ws : List Word) : (s.setStage p ws).pending = s.pending := by
  exact foldN_pending _ _ _ fun _ _ => rfl

@[simp] theorem State.pinInst_pending (s : State) (i : Nat) : (s.pinInst i).pending = s.pending := by
  refine (foldS_pending _ _ _ fun g t => ?_).trans ?_
  · simp
  · split <;> simp

@[simp] theorem State.unpinInst_pending (s : State) (i : Nat) : (s.unpinInst i).pending = s.pending := by
  rfl

@[simp] theorem State.changeGranule_pending (s : State) (g : Nat) : (s.changeGranule g).pending = s.pending := by
  simp [State.changeGranule]

@[simp] theorem State.changeWay_pending (s : State) (u : Nat) (old : Option Nat) : (s.changeWay u old).pending = s.pending := by
  unfold State.changeWay
  split <;> simp

@[simp] theorem State.changeBlock_pending (s : State) (b : Nat) : (s.changeBlock b).pending = s.pending := by
  rfl

@[simp] theorem State.drainChannel_pending (s : State) (c : Nat) : (s.drainChannel c).pending = s.pending := by
  simp [State.drainChannel]

@[simp] theorem State.applyMap_pending (s : State) (m : Memory) : (s.applyMap m).pending = s.pending := by
  simp [State.applyMap]

@[simp] theorem State.applyDomain_pending (s : State) (d : Nat) : (s.applyDomain d).pending = s.pending := by
  simp [State.applyDomain]

@[simp] theorem State.reproEnd_pending (s old : State) : (s.reproEnd old).pending = s.pending := by
  simp [State.reproEnd]

@[simp] theorem State.commitNow_pending (s : State) (h : HeldCommit) : (s.commitNow h).pending = s.pending := by
  unfold State.commitNow
  split <;> simp

@[simp] theorem State.commitFbk_pending (s : State) (h : HeldCommit) : (s.commitFbk h).pending = s.pending := by
  simp [State.commitFbk]

@[simp] theorem hostFirebreakCommit_leaves (s : State) (page : Fin 65) : (hostFirebreakCommit page s).Leaves s.pending := by
  simp [hostFirebreakCommit]

@[simp] theorem hostGroupCommit_leaves (s : State) (v : Word) : (hostGroupCommit v s).Leaves s.pending := by
  simp [hostGroupCommit]

@[simp] theorem execHeldCommitApply_leaves (s : State) : (execHeldCommitApply s).Leaves s.pending := by
  unfold execHeldCommitApply
  split <;> simp

@[simp] theorem hostFbkMapaddrWrite_leaves (s : State) (v : Word) : (hostFbkMapaddrWrite v s).Leaves s.pending := by
  simp [hostFbkMapaddrWrite]

@[simp] theorem execMapCopyComplete_leaves (s : State) : (execMapCopyComplete s).Leaves s.pending := by
  unfold execMapCopyComplete
  split
  · simp
  · split <;> simp [State.pending_of_triple ‹_ = (_, _, _)›]

@[simp] theorem State.instPost_pending (s : State) (c : Code) : (s.instPost c).pending = s.pending := by
  rfl

@[simp] theorem State.instCmd_pending (s : State) (v : Word) (op : Nat) (okIn : InstPhase → Bool) (run : Nat → State → State)
    (hrun : ∀ i t, (run i t).pending = t.pending) : (s.instCmd v op okIn run).pending = s.pending := by
  simp [State.instCmd, hrun]

@[simp] theorem hostCreate_leaves (s : State) (v : Word) : (hostCreate v s).Leaves s.pending := by
  simp [hostCreate]

@[simp] theorem State.disableQueues_pending (s : State) (i : Nat) : (s.disableQueues i).pending = s.pending := by
  rfl

@[simp] theorem State.clearPerturb_pending (s : State) : s.clearPerturb.pending = s.pending := by
  unfold State.clearPerturb
  extract_lets s1 s2
  have h1 : s1.pending = s.pending := foldN_pending _ _ _ fun _ _ => rfl
  have h2 : s2.pending = s1.pending := foldN_pending _ _ _ fun _ _ => rfl
  exact h2.trans h1

@[simp] theorem hostActivate_leaves (s : State) (v : Word) : (hostActivate v s).Leaves s.pending := by
  simp [hostActivate]

@[simp] theorem State.closeFabric_pending (s : State) (i : Nat) : (s.closeFabric i).pending = s.pending := by
  simp [State.closeFabric]

@[simp] theorem State.byReset_pending (s : State) (k : Nat) : (s.byReset k).pending = s.pending := by
  rfl

@[simp] theorem State.beginReset_pending (s : State) (i : Nat) (ph : InstPhase) (timeout : Bool) :
    (s.beginReset i ph timeout).pending = s.pending := by
  simp [State.beginReset]

@[simp] theorem State.beginSquash_pending (s : State) (i : Nat) (timeout : Bool) :
    (s.beginSquash i timeout).pending = s.pending := by
  simp [State.beginSquash]

@[simp] theorem State.endReset_pending (s : State) (i : Nat) (c : Code) : (s.endReset i c).pending = s.pending := by
  simp [State.endReset]

@[simp] theorem State.squashTile_pending (s : State) (t : Nat) : (s.squashTile t).pending = s.pending := by
  simp [State.squashTile]

@[simp] theorem State.purgeCtx_pending (s : State) (k : Nat) : (s.purgeCtx k).pending = s.pending := by
  rfl

@[simp] theorem State.squashCtxs_pending (s : State) (i : Nat) : (s.squashCtxs i).pending = s.pending := by
  simp [State.squashCtxs]

@[simp] theorem State.stopSkidder_pending (s : State) (i : Nat) : (s.stopSkidder i).pending = s.pending := by
  rfl

@[simp] theorem State.resetPage_pending (s : State) (p : Page) : (s.resetPage p).pending = s.pending := by
  rfl

@[simp] theorem State.releaseInst_pending (s : State) (i : Nat) : (s.releaseInst i).pending = s.pending := by
  simp [State.releaseInst]

@[simp] theorem State.endDestroy_pending (s : State) (i : Nat) : (s.endDestroy i).pending = s.pending := by
  simp [State.endDestroy]

@[simp] theorem hostResetDrain_leaves (s : State) (v : Word) : (hostResetDrain v s).Leaves s.pending := by
  simp [hostResetDrain]

@[simp] theorem hostResetSquash_leaves (s : State) (v : Word) : (hostResetSquash v s).Leaves s.pending := by
  simp [hostResetSquash]

@[simp] theorem execDrainComplete_leaves (s : State) (i : InstId) : (execDrainComplete i s).Leaves s.pending := by
  simp [execDrainComplete]

@[simp] theorem execDrainTimeout_leaves (s : State) (i : InstId) : (execDrainTimeout i s).Leaves s.pending := by
  simp [execDrainTimeout]

@[simp] theorem execSquashComplete_leaves (s : State) (i : InstId) : (execSquashComplete i s).Leaves s.pending := by
  simp [execSquashComplete]

@[simp] theorem hostDestroy_leaves (s : State) (v : Word) : (hostDestroy v s).Leaves s.pending := by
  refine Ans.leaves_next_of (State.instCmd_pending _ _ _ _ _ fun i t => ?_)
  split <;> simp

@[simp] theorem hostLogStart_leaves (s : State) (v : Word) : (hostLogStart v s).Leaves s.pending := by
  simp [hostLogStart]

@[simp] theorem hostLogSwap_leaves (s : State) (v : Word) : (hostLogSwap v s).Leaves s.pending := by
  simp [hostLogSwap]

@[simp] theorem hostLogStop_leaves (s : State) (v : Word) : (hostLogStop v s).Leaves s.pending := by
  simp [hostLogStop]

@[simp] theorem hostFreeze_leaves (s : State) (v : Word) : (hostFreeze v s).Leaves s.pending := by
  simp [hostFreeze]

@[simp] theorem execFreezeComplete_leaves (s : State) (i : InstId) : (execFreezeComplete i s).Leaves s.pending := by
  simp [execFreezeComplete]

@[simp] theorem hostThaw_leaves (s : State) (v : Word) : (hostThaw v s).Leaves s.pending := by
  simp [hostThaw]

@[simp] theorem hostInstanceRead_leaves (s : State) (v : Word) : (hostInstanceRead v s).Leaves s.pending := by
  simp [hostInstanceRead]

@[simp] theorem execKeyDelivery_leaves (s : State) (i : InstId) (key : BitVec 512) :
    (execKeyDelivery i key s).Leaves s.pending := by
  simp [execKeyDelivery]

@[simp] theorem State.sendDone_pending (s : State) (sender : Space) (c : Code) (sid target : Nat) :
    (s.sendDone sender c sid target).pending = s.pending := by
  simp only [State.sendDone]
  split <;> simp

@[simp] theorem State.mailSend_pending (s : State) (sender : Space) (v : Word) (data : List Word) :
    (s.mailSend sender v data).pending = s.pending := by
  simp [State.mailSend]

@[simp] theorem hostMailboxSend_leaves (s : State) (sender : Space) (v : Word) : (hostMailboxSend sender v s).Leaves s.pending := by
  simp [hostMailboxSend]

@[simp] theorem hostMailboxAck_leaves (s : State) (i : InstId) (v : Word) : (hostMailboxAck i v s).Leaves s.pending := by
  simp only [hostMailboxAck]
  split
  · simp
  · split <;> simp

/-! The functions of Machine/Fabric. -/

@[simp] theorem State.linkPut_pending (s : State) (p : Nat) (body : LinkPayload) : (s.linkPut p body).pending = s.pending := by
  simp [State.linkPut]

@[simp] theorem State.linkSend_pending (s : State) (p : Nat) (body : LinkPayload) : (s.linkSend p body).pending = s.pending := by
  simp [State.linkSend]

@[simp] theorem State.linkDrain_pending (p n : Nat) (s : State) : (State.linkDrain p n s).pending = s.pending := by
  induction n generalizing s with
  | zero => rfl
  | succ n ih =>
    unfold State.linkDrain
    split
    · rfl
    · split <;> simp [ih]

@[simp] theorem State.linkResend_pending (s : State) (p : Nat) (ks : List LinkPacket) :
    (s.linkResend p ks).pending = s.pending := by
  simp [State.linkResend]

@[simp] theorem State.linkAck_pending (s : State) (p seq : Nat) (ok : Bool) : (s.linkAck p seq ok).pending = s.pending := by
  rfl

@[simp] theorem State.carriedOn_pending (s : State) (dest : Nat) (segs : List Segment) (p : Option Nat) :
    (s.carriedOn dest segs p).pending = s.pending := foldS_pending _ _ _ fun _ _ => rfl

@[simp] theorem State.bulkSend_pending (s : State) (g dest : Nat) (crossed : List Nat) (segs : List Segment) :
    (s.bulkSend g dest crossed segs).pending = s.pending := by
  unfold State.bulkSend
  split <;> simp

@[simp] theorem State.gatherFlush_pending (s : State) (b : GatherBuf) : (s.gatherFlush b).pending = s.pending := by
  simp [State.gatherFlush]

@[simp] theorem State.setGather_pending (s : State) (b : GatherBuf) : (s.setGather b).pending = s.pending := by
  rfl

@[simp] theorem State.landingIn_pending (s : State) (g : Nat) (sp : Space) (dest : Nat) (x : Segment) :
    (s.landingIn g sp dest x).pending = s.pending := by
  simp only [State.landingIn]
  split
  · split <;> simp
  · simp

@[simp] theorem State.segSend_pending (s : State) (sp : Space) (dest : Nat) (x : Segment) :
    (s.segSend sp dest x).2.pending = s.pending := by
  unfold State.segSend
  split
  · simp
  · split <;> simp

@[simp] theorem State.segReplay_pending (s : State) (cond : Unacked → Bool) : (s.segReplay cond).pending = s.pending := by
  refine foldS_pending _ _ _ fun k t => ?_
  refine (foldl_snd_pending _ _ _ fun acc u => ?_).trans rfl
  split <;> simp

@[simp] theorem State.portFailed_pending (s : State) (p : Nat) : (s.portFailed p).pending = s.pending := by
  simp [State.portFailed]

@[simp] theorem State.linkDown_pending (s : State) (p : Nat) : (s.linkDown p).pending = s.pending := by
  simp [State.linkDown]

@[simp] theorem State.linkRetry_pending (s : State) (p : Nat) (ks : List LinkPacket) : (s.linkRetry p ks).pending = s.pending := by
  unfold State.linkRetry
  split <;> simp

@[simp] theorem execLinkRetryTimeout_leaves (s : State) (p : CkxPort) : (execLinkRetryTimeout p s).Leaves s.pending := by
  simp [execLinkRetryTimeout]

@[simp] theorem execLaneErrorLimit_leaves (s : State) (p : CkxPort) (ln : Fin 4) :
    (execLaneErrorLimit p ln s).Leaves s.pending := by
  simp [execLaneErrorLimit]

@[simp] theorem State.advertise_pending (s : State) (p : Nat) : (s.advertise p).pending = s.pending := by
  simp [State.advertise]

@[simp] theorem State.pathFound_pending (s : State) : s.pathFound.pending = s.pending := by
  simp [State.pathFound]

@[simp] theorem execLinkRetrainComplete_leaves (s : State) (p : CkxPort) (good : Fin 16) :
    (execLinkRetrainComplete p good s).Leaves s.pending := by
  simp [execLinkRetrainComplete]

@[simp] theorem execPortHoldExpire_leaves (s : State) (p : CkxPort) : (execPortHoldExpire p s).Leaves s.pending := by
  simp [execPortHoldExpire]

@[simp] theorem hostRetrain_leaves (s : State) (p : CkxPort) : (hostRetrain p s).Leaves s.pending := by
  simp [hostRetrain]

@[simp] theorem hostHoldClr_leaves (s : State) (p : CkxPort) : (hostHoldClr p s).Leaves s.pending := by
  simp [hostHoldClr]

@[simp] theorem execSwitchUnreachable_leaves (s : State) (p : CkxPort) (dest : Fin 65536) :
    (execSwitchUnreachable p dest s).Leaves s.pending := by
  simp [execSwitchUnreachable]

@[simp] theorem State.portEnable_pending (s : State) (p : Nat) (on : Bool) : (s.portEnable p on).pending = s.pending := by
  simp [State.portEnable]

@[simp] theorem State.fqPaused_pending (s : State) (sp : Space) (on : Bool) : (s.fqPaused sp on).pending = s.pending := by
  unfold State.fqPaused
  split <;> simp

@[simp] theorem State.fcWrite_pending (s : State) (sp : Space) (ws : List Word) : (s.fcWrite sp ws).pending = s.pending := by
  simp [State.fcWrite]

@[simp] theorem State.fcPost_pending (s : State) (sp : Space) (rec : List Word) : (s.fcPost sp rec).pending = s.pending := by
  simp [State.fcPost]

@[simp] theorem State.fcDrain_pending (sp : Space) (n : Nat) (s : State) : (State.fcDrain sp n s).pending = s.pending := by
  induction n generalizing s with
  | zero => rfl
  | succ n ih =>
    unfold State.fcDrain
    dsimp only
    split
    · split <;> simp
    · split <;> simp [ih]

@[simp] theorem State.fabricMiss_pending (s : State) (sp : Space) (tag : Nat) : (s.fabricMiss sp tag).pending = s.pending := by
  unfold State.fabricMiss
  split
  · simp
  · split <;> simp

@[simp] theorem State.opDone_pending (s : State) (sp : Space) (o : FabOp) : (s.opDone sp o).pending = s.pending := by
  simp [State.opDone]

@[simp] theorem State.opsCheck_pending (s : State) (sp : Space) : (s.opsCheck sp).pending = s.pending := by
  simp only [State.opsCheck]
  split
  · split <;> simp
  · simp

@[simp] theorem State.updOp_pending (s : State) (sp : Space) (id : Nat) (g : FabOp → FabOp) :
    (s.updOp sp id g).pending = s.pending := by
  rfl

theorem State.fqEntry_pending (s : State) (sp : Space) {a : List Word} {t : State} (h : s.fqEntry sp = some (a, t)) :
    t.pending = s.pending := by
  simp only [State.fqEntry] at h
  split at h
  · split at h <;> cases h
    simp [State.pending_of_triple ‹_ = (_, _, _)›]
  · cases h

theorem State.fqWait_pending (s : State) (sp : Space) {t : State} (h : s.fqWait sp = some t) : t.pending = s.pending := by
  simp only [State.fqWait] at h
  split at h
  · exact State.unitWait_pending s _ _ _ h
  · cases h

@[simp] theorem State.newOp_pending (s : State) (sp : Space) (ws : List Word) (left : Nat) (c : Code) :
    (s.newOp sp ws left c).2.pending = s.pending := by
  rfl

@[simp] theorem State.fqFinish_pending (s : State) (sp : Space) (ws : List Word) (c : Code) (result : DWord) (data : List Word) :
    (s.fqFinish sp ws c result data).pending = s.pending := by
  simp [State.fqFinish]

@[simp] theorem State.fqTake_pending (s : State) (sp : Space) (op : Nat) (run : List Word → State → State)
    (hrun : ∀ ws t, (run ws t).pending = t.pending) : (s.fqTake sp op run).pending = s.pending := by
  unfold State.fqTake
  split
  · exact State.fqWait_pending s sp ‹_›
  split
  · rfl
  · have h := State.fqEntry_pending s sp ‹_›
    simp [hrun, h]

@[simp] theorem State.segIssue_pending (s : State) (sp : Space) (op h off lva seq : Nat) (so : SegOp) (ctr : Option Nat)
    (mst : Bool) : (s.segIssue sp op h off lva seq so ctr mst).pending = s.pending := by
  unfold State.segIssue
  split <;> simp

@[simp] theorem State.takeSeq_pending (s : State) (sp : Space) : (s.takeSeq sp).2.pending = s.pending := by
  rfl

@[simp] theorem State.pgSegment_pending (s : State) (sp : Space) (c : Issuing) : (s.pgSegment sp c).pending = s.pending := by
  simp only [State.pgSegment]
  split
  · split
    · split <;> simp [State.pending_of_triple ‹_ = (_, _, _)›]
    · simp
  · split <;> simp

theorem State.putWait_pending (s : State) (sp : Space) (c : Issuing) {t : State} (h : s.putWait sp c = some t) :
    t.pending = s.pending := by
  simp only [State.putWait] at h
  split at h
  · exact State.unitWait_pending s _ _ _ h
  · cases h

@[simp] theorem State.fqIssue_pending (sp : Space) (n : Nat) (s : State) : (State.fqIssue sp n s).pending = s.pending := by
  induction n generalizing s with
  | zero => rfl
  | succ n ih =>
    unfold State.fqIssue
    dsimp only
    split
    · rfl
    split
    · rfl
    split
    · rfl
    split
    · exact State.putWait_pending s sp _ ‹_›
    · simp [ih]

@[simp] theorem State.fqBulk_pending (s : State) (sp : Space) (ws : List Word) : (State.fqBulk sp ws s).pending = s.pending := by
  simp [State.fqBulk]

@[simp] theorem State.fqOne_pending (s : State) (sp : Space) (so : SegOp) (ctr : Option Nat) (ws : List Word) :
    (State.fqOne sp so ctr ws s).pending = s.pending := by
  unfold State.fqOne
  split <;> simp

@[simp] theorem State.fqTakeData_pending (s : State) (sp : Space) (op : Nat) (run : List Word → State → State)
    (hrun : ∀ ws t, (run ws t).pending = t.pending) : (s.fqTakeData sp op run).pending = s.pending := by
  simp [State.fqTakeData, hrun]

@[simp] theorem execShapingRefill_leaves (s : State) (d : Fin 64) (pt : Nat) : (execShapingRefill d pt s).Leaves s.pending := by
  simp [execShapingRefill]

@[simp] theorem execPut_leaves (s : State) (sp : Space) : (execPut sp s).Leaves s.pending := by
  simp [execPut]

@[simp] theorem execGet_leaves (s : State) (sp : Space) : (execGet sp s).Leaves s.pending := by
  simp [execGet]

@[simp] theorem execFabricStore_leaves (s : State) (sp : Space) : (execFabricStore sp s).Leaves s.pending := by
  simp [execFabricStore]

@[simp] theorem execFabricLoad_leaves (s : State) (sp : Space) : (execFabricLoad sp s).Leaves s.pending := by
  simp [execFabricLoad]

@[simp] theorem execRed_leaves (s : State) (sp : Space) : (execRed sp s).Leaves s.pending := by
  simp [execRed]

@[simp] theorem execAtomic_leaves (s : State) (sp : Space) : (execAtomic sp s).Leaves s.pending := by
  simp [execAtomic]

@[simp] theorem State.mstoreGo_pending (sp : Space) (ws : List Word) (op q : Nat) (hs : List Nat) (s : State) :
    (State.mstoreGo sp ws op q hs s).pending = s.pending := by
  induction hs generalizing s with
  | nil => rfl
  | cons h hs ih =>
    unfold State.mstoreGo
    split <;> simp [ih]

@[simp] theorem execMstore_leaves (s : State) (sp : Space) : (execMstore sp s).Leaves s.pending := by
  simp [execMstore]

@[simp] theorem execFence_leaves (s : State) (sp : Space) : (execFence sp s).Leaves s.pending := by
  simp [execFence]

theorem State.pickFree_pending (s : State) (used : List Nat) (n : Nat) {a : Nat} {t : State} (h : s.pickFree used n = some (a, t)) :
    t.pending = s.pending := by
  simp only [State.pickFree, Option.map_eq_some_iff] at h
  obtain ⟨k, -, hk⟩ := h
  cases hk
  rfl

@[simp] theorem execRegionOpen_leaves (s : State) (sp : Space) : (execRegionOpen sp s).Leaves s.pending := by
  refine Ans.leaves_next_of (State.fqTake_pending _ _ _ _ fun ws t => ?_)
  extract_lets base n cb cn ok
  split
  · simp
  split
  · simp
  · rename_i id u heq
    have hu : u.pending = t.pending := by
      split at heq
      · exact State.pickFree_pending t _ _ heq
      · cases heq
    simp [hu]

@[simp] theorem execGrant_leaves (s : State) (sp : Space) : (execGrant sp s).Leaves s.pending := by
  refine Ans.leaves_next_of (State.fqTake_pending _ _ _ _ fun ws t => ?_)
  extract_lets r
  split
  · simp
  split
  · simp
  · rename_i id u heq
    have hu : u.pending = t.pending := by
      split at heq
      · exact State.pickFree_pending t _ _ heq
      · cases heq
    simp [hu]

@[simp] theorem execRevoke_leaves (s : State) (sp : Space) : (execRevoke sp s).Leaves s.pending := by
  refine Ans.leaves_next_of (State.fqTake_pending _ _ _ _ fun ws t => ?_)
  split
  · split <;> simp
  · simp

@[simp] theorem execImport_leaves (s : State) (sp : Space) : (execImport sp s).Leaves s.pending := by
  refine Ans.leaves_next_of (State.fqTake_pending _ _ _ _ fun ws t => ?_)
  split
  · simp
  · rename_i h u heq
    have hu : u.pending = t.pending := by
      split at heq
      · exact State.pickFree_pending t _ _ heq
      · cases heq
    simp [hu]

@[simp] theorem execUnimport_leaves (s : State) (sp : Space) : (execUnimport sp s).Leaves s.pending := by
  refine Ans.leaves_next_of (State.fqTake_pending _ _ _ _ fun ws t => ?_)
  split
  · split <;> simp
  · simp

@[simp] theorem execImportClear_leaves (s : State) (sp : Space) : (execImportClear sp s).Leaves s.pending := by
  refine Ans.leaves_next_of (State.fqTake_pending _ _ _ _ fun ws t => ?_)
  split
  · split <;> simp
  · simp

@[simp] theorem hostFqDoorbell_leaves (s : State) (sp : Space) (v : Word) : (hostFqDoorbell sp v s).Leaves s.pending := by
  simp [hostFqDoorbell]

@[simp] theorem hostFcHeadWrite_leaves (s : State) (sp : Space) (v : Word) : (hostFcHeadWrite sp v s).Leaves s.pending := by
  simp [hostFcHeadWrite]

@[simp] theorem State.giveUp_pending (s : State) (sp : Space) (cond : Unacked → Bool) : (s.giveUp sp cond).pending = s.pending := by
  simp [State.giveUp]

@[simp] theorem State.fenceDone_pending (s : State) (sp : Space) (c : Code) : (s.fenceDone sp c).pending = s.pending := by
  unfold State.fenceDone
  split <;> simp

@[simp] theorem State.opsEnd_pending (s : State) (sp : Space) : (s.opsEnd sp).pending = s.pending := by
  simp [State.opsEnd]

@[simp] theorem execFenceTimeout_leaves (s : State) (sp : Space) : (execFenceTimeout sp s).Leaves s.pending := by
  unfold execFenceTimeout
  extract_lets k f fto us hs s1
  split
  · simp
  split
  · simp
  · refine Ans.leaves_next_of ((foldS_pending _ _ s1 fun h t => ?_).trans (by simp [s1]))
    split <;> simp

@[simp] theorem execWindowRetry_leaves (s : State) (sp : Space) : (execWindowRetry sp s).Leaves s.pending := by
  unfold execWindowRetry
  extract_lets k f go s1
  have h1 : s1.pending = s.pending := by
    refine foldl_pending _ _ _ fun t u => ?_
    split <;> simp
  refine Ans.leaves_next_of ((foldl_snd_pending f.unacked _ ([], s1) fun acc u => ?_).trans h1)
  split <;> simp

@[simp] theorem State.yieldLines_pending (d die n : Nat) (s : State) : (State.yieldLines d die n s).pending = s.pending := by
  induction n generalizing s with
  | zero => rfl
  | succ n ih =>
    unfold State.yieldLines
    dsimp only
    split
    · rfl
    · split <;> simp [ih]

@[simp] theorem State.exactAdd_pending (s : State) (die : Nat) (sp : Space) (va : Nat) (es : List Word) :
    (s.exactAdd die sp va es).pending = s.pending := by
  suffices s.SameQueue (s.exactAdd die sp va es) from this
  unfold State.exactAdd
  extract_lets +onlyGivenNames k d line key held
  split
  rename_i e t heq
  have ht : t.pending = s.pending := by
    refine (State.pending_of_pair heq).trans ?_
    split <;> simp
  extract_lets +onlyGivenNames elems s1 a
  exact (State.exactPressure_pending _ _ _).trans ((State.setAgent_pending _ _ _).trans ((State.putDev_pending _ _ _ _).trans ht))

@[simp] theorem State.redPlain_pending (s : State) (sp : Space) (va : Nat) (fp : Bool) (rop : Nat) (es : List Word) :
    (s.redPlain sp va fp rop es).2.pending = s.pending := by
  unfold State.redPlain
  split <;> simp [State.pending_of_triple ‹_ = (_, _, _)›]

@[simp] theorem State.redAt_pending (s : State) (die : Nat) (sp : Space) (va : Nat) (fp : Bool) (rop : Nat) (es : List Word) :
    (s.redAt die sp va fp rop es).2.pending = s.pending := by
  unfold State.redAt
  split
  · rfl
  split
  · split
    · simp
    · split <;> simp [State.pending_of_triple ‹_ = (_, _, _)›]
  · simp

@[simp] theorem State.atomicAt_pending (s : State) (sp : Space) (va : Nat) (w64 : Bool) (rop : Nat) (a c : DWord) :
    (s.atomicAt sp va w64 rop a c).2.2.pending = s.pending := by
  unfold State.atomicAt
  extract_lets n
  split <;> simp [State.pending_of_triple ‹_ = (_, _, _)›]

@[simp] theorem State.hotCount_pending (s : State) (die key : Nat) : (s.hotCount die key).pending = s.pending := by
  simp [State.hotCount]

@[simp] theorem execHotLineCool_leaves (s : State) (d : DieId) (key : Nat) : (execHotLineCool d key s).Leaves s.pending := by
  simp only [execHotLineCool]
  split
  · simp
  · split <;> simp

theorem State.windowTake_pending (s : State) (die src stream seq : Nat) {a : Bool} {t : State}
    (h : s.windowTake die src stream seq = some (a, t)) : t.pending = s.pending := by
  simp only [State.windowTake] at h
  split at h
  · split at h <;> cases h
    rfl
  split at h
  · split at h <;> cases h <;> rfl
  split at h <;> cases h <;> rfl

@[simp] theorem State.windowTouch_pending (s : State) (x : Segment) : (s.windowTouch x).pending = s.pending := by
  rfl

@[simp] theorem execDuplicateWindowExpire_leaves (s : State) (d : DieId) (src stream : Fin 65536) :
    (execDuplicateWindowExpire d src stream s).Leaves s.pending := by
  simp [execDuplicateWindowExpire]

@[simp] theorem State.hotCounts_pending (s : State) (r : Region) (x : Segment) : (s.hotCounts r x).pending = s.pending := by
  simp [State.hotCounts]

@[simp] theorem State.segDo_pending (s : State) (r : Region) (x : Segment) : (s.segDo r x).2.2.pending = s.pending := by
  simp only [State.segDo]
  repeat' split
  all_goals simp

@[simp] theorem State.segApply_pending (s : State) (r : Region) (x : Segment) : (s.segApply r x).2.2.pending = s.pending := by
  simp [State.segApply]

@[simp] theorem State.segServe_pending (s : State) (r : Region) (x : Segment) (apply : State → Code × List Byte × State)
    (happly : ∀ t, (apply t).2.2.pending = t.pending) : (s.segServe r x apply).2.pending = s.pending := by
  unfold State.segServe
  split
  · rfl
  · have h := State.windowTake_pending s _ _ _ _ ‹_›
    simp [happly, h]
  · have h := State.windowTake_pending s _ _ _ _ ‹_›
    split <;> simp [h]

@[simp] theorem State.ackSend_pending (s : State) (src stream : Nat) (a : SegAck) :
    (s.ackSend src stream a).pending = s.pending := by
  unfold State.ackSend
  split <;> simp

@[simp] theorem State.hotEnter_pending (s : State) (die : Nat) (q : Segment × Region) : (s.hotEnter die q).pending = s.pending := by
  simp [State.hotEnter]

@[simp] theorem State.hotAdmit_pending (s : State) (die : Nat) : (s.hotAdmit die).pending = s.pending := by
  simp [State.hotAdmit]

@[simp] theorem State.hotStep_pending (s : State) (die key : Nat) : (s.hotStep die key).pending = s.pending := by
  simp only [State.hotStep]
  split
  · rfl
  split
  · exact State.unitWait_pending s _ _ _ ‹_›
  · split <;> simp

@[simp] theorem State.hotClock_pending (s : State) (die : Nat) : (s.hotClock die).pending = s.pending := by
  simp only [State.hotClock]
  split <;> simp

@[simp] theorem State.hotTick_pending (s : State) : s.hotTick.pending = s.pending := by
  simp [State.hotTick]

@[simp] theorem State.hotDrain_pending (die : Nat) (r : Region) (n : Nat) (s : State) : (State.hotDrain die r n s).pending = s.pending := by
  induction n generalizing s with
  | zero => rfl
  | succ n ih =>
    unfold State.hotDrain
    split
    · split <;> simp [ih]
    · rfl

@[simp] theorem execRegionClose_leaves (s : State) (sp : Space) : (execRegionClose sp s).Leaves s.pending := by
  refine Ans.leaves_next_of (State.fqTake_pending _ _ _ _ fun ws t => ?_)
  extract_lets +onlyGivenNames r
  split
  · simp
  split
  · rfl
  · exact (State.fqFinish_pending _ _ _ _ _ _).trans ((State.endExact_pending _ _ _ _).trans (State.hotDrain_pending _ _ _ _))

@[simp] theorem State.hotDiscard_pending (s : State) (m : Nat) : (s.hotDiscard m).pending = s.pending := by
  simp [State.hotDiscard]

@[simp] theorem State.segHome_pending (s : State) (x : Segment) : (s.segHome x).pending = s.pending := by
  suffices s.SameQueue (s.segHome x) from this
  unfold State.segHome
  extract_lets +onlyGivenNames u
  have hu : u.pending = s.pending := by simp [u]
  split
  · extract_lets +onlyGivenNames die
    split
    · exact (State.unitWait_pending u _ _ _ ‹_›).trans hu
    · extract_lets +onlyGivenNames p
      split
      · simp [State.pending_of_pair ‹_ = (_, _)›, hu]
      · split <;> simp [State.pending_of_pair ‹_ = (_, _)›, hu]
  · simp [hu]

@[simp] theorem State.segArrive_pending (s : State) (x : Segment) : (s.segArrive x).pending = s.pending := by
  simp [State.segArrive]

@[simp] theorem execSegmentArrive_leaves (s : State) (x : Segment) : (execSegmentArrive x s).Leaves s.pending := by
  simp [execSegmentArrive]

theorem State.ackWait_pending (s : State) (a : SegAck) (u : Unacked) {t : State} (h : s.ackWait a u = some t) :
    t.pending = s.pending := by
  unfold State.ackWait at h
  split at h
  · split at h
    · exact State.unitWait_pending s _ _ _ h
    · cases h
  · cases h

@[simp] theorem State.segAcked_pending (s : State) (a : SegAck) : (s.segAcked a).pending = s.pending := by
  suffices s.SameQueue (s.segAcked a) from this
  unfold State.segAcked
  extract_lets +onlyGivenNames sp k f
  split
  · rfl
  split
  · exact State.ackWait_pending s _ _ ‹_›
  split
  · simp
  split
  · simp
  · extract_lets +onlyGivenNames c0 data s1
    have h1 : s1.pending = s.pending := by simp [s1]
    split
    · simp [h1]
    split
    rename_i c s2 heq
    have h2 : s2.pending = s.pending := by
      refine (State.pending_of_pair heq).trans ?_
      split
      · split
        · simp [h1]
        split
        rename_i e t hst
        have ht : t.pending = s.pending := by simp [State.pending_of_pair hst, h1]
        split
        · extract_lets +onlyGivenNames t1
          have ht1 : t1.pending = s.pending := (State.recLog_pending _ _ _ _ _ _).trans ht
          dsimp -zeta only
          split <;> simp [ht1]
        · exact ht
      · exact h1
    simp [h2]

@[simp] theorem execSegmentAck_leaves (s : State) (a : SegAck) : (execSegmentAck a s).Leaves s.pending := by
  simp [execSegmentAck]

@[simp] theorem execGatherTimeout_leaves (s : State) (g : LndId) : (execGatherTimeout g s).Leaves s.pending := by
  simp [execGatherTimeout]

@[simp] theorem State.bulkLost_pending (s : State) (b : BulkTransfer) : (s.bulkLost b).pending = s.pending := by
  simp [State.bulkLost]

@[simp] theorem State.bulkArrive_pending (s : State) (g : Nat) (b : BulkTransfer) : (s.bulkArrive g b).pending = s.pending := by
  unfold State.bulkArrive
  repeat' split
  all_goals simp

@[simp] theorem execBulkTransferArrive_leaves (s : State) (g : LndId) (b : BulkTransfer) :
    (execBulkTransferArrive g b s).Leaves s.pending := by
  simp [execBulkTransferArrive]

@[simp] theorem State.linkDeliver_pending (s : State) (p : Nat) (body : LinkPayload) :
    (s.linkDeliver p body).pending = s.pending := by
  unfold State.linkDeliver
  split <;> simp

@[simp] theorem execLinkPacketReceive_leaves (s : State) (p : CkxPort) (k : LinkPacket) :
    (execLinkPacketReceive p k s).Leaves s.pending := by
  unfold execLinkPacketReceive
  split
  · simp
  · split <;> simp

@[simp] theorem State.revokeEnter_pending (s : State) (m before : Nat) : (s.revokeEnter m before).pending = s.pending := by
  simp [State.revokeEnter]

@[simp] theorem execGrantSweepComplete_leaves (s : State) (m : Fin 65536) : (execGrantSweepComplete m s).Leaves s.pending := by
  unfold execGrantSweepComplete
  extract_lets +onlyGivenNames l gs
  split
  · simp
  · extract_lets +onlyGivenNames s1 y s2
    have h2 : s2.pending = s.pending := rfl
    refine Ans.leaves_next_of ((foldS_pending _ _ _ fun g t => ?_).trans h2)
    split
    · split <;> simp
    · rfl

/-! The functions of Machine/Liveness. -/

@[simp] theorem State.lvEvents_pending (s : State) : s.lvEvents.pending = s.pending := by
  simp [State.lvEvents]

@[simp] theorem State.lvToMembers_pending (s : State) (m : LvMsg) : (s.lvToMembers m).pending = s.pending := by
  simp [State.lvToMembers]

@[simp] theorem State.lvToAll_pending (s : State) (m : LvMsg) : (s.lvToAll m).pending = s.pending := by
  simp [State.lvToAll]

@[simp] theorem State.sendBeat_pending (s : State) (j : Nat) (h : Heartbeat) : (s.sendBeat j h).pending = s.pending := by
  unfold State.sendBeat
  split <;> simp

@[simp] theorem State.mirDone_pending (s : State) (c : Code) : (s.mirDone c).pending = s.pending := by
  rfl

@[simp] theorem State.mirClear_pending (s : State) (c : Nat) : (s.mirClear c).pending = s.pending := by
  simp [State.mirClear]

@[simp] theorem hostArm_leaves (s : State) (v : Word) : (hostArm v s).Leaves s.pending := by
  simp only [hostArm]
  repeat' split
  all_goals simp

@[simp] theorem hostDisarm_leaves (s : State) (v : Word) : (hostDisarm v s).Leaves s.pending := by
  simp [hostDisarm]

@[simp] theorem hostMirrorRead_leaves (s : State) (v : Word) : (hostMirrorRead v s).Leaves s.pending := by
  unfold hostMirrorRead
  extract_lets +onlyGivenNames c
  split
  · simp
  · exact Ans.leaves_next_of ((State.mirDone_pending _ _).trans (foldN_pending _ _ _ fun _ _ => rfl))

@[simp] theorem State.mirFail_pending (s : State) (c : Nat) : (s.mirFail c).pending = s.pending := by
  simp [State.mirFail]

@[simp] theorem execMirrorOpenRequest_leaves (s : State) (c : CellId) (answer : Option Bool) :
    (execMirrorOpenRequest c answer s).Leaves s.pending := by
  simp only [execMirrorOpenRequest]
  split
  · simp
  · split <;> simp

@[simp] theorem execMirrorOpenReceive_leaves (s : State) (src : Fin 65536) (pcell c : CellId) (desc : List Word)
    (rdigest ldigest : List Byte) : (execMirrorOpenReceive src pcell c desc rdigest ldigest s).Leaves s.pending := by
  simp [execMirrorOpenReceive]

@[simp] theorem State.mirrorMsg_pending (s : State) (c : Nat) (d ws : List Word) : (s.mirrorMsg c d ws).pending = s.pending := by
  simp only [State.mirrorMsg]
  split <;> simp

@[simp] theorem execMirror_leaves (s : State) (c : CellId) (item : MirrorItem) : (execMirror c item s).Leaves s.pending := by
  unfold execMirror
  split <;> simp

@[simp] theorem State.takeCell_pending (s : State) (c : Nat) : (s.takeCell c).pending = s.pending := by
  simp [State.takeCell]

@[simp] theorem State.mirrorVerdict_pending (s : State) (x : Nat) : (s.mirrorVerdict x).pending = s.pending := by
  simp [State.mirrorVerdict]

@[simp] theorem State.peerSnag_pending (s : State) (x before : Nat) : (s.peerSnag x before).pending = s.pending := by
  unfold State.peerSnag
  extract_lets again s0 m s1 fresh holders m2 s2 lost s3
  have h2 : s2.pending = s.pending := State.revokeEnter_pending s x before
  have h3 : s3.pending = s.pending := by
    refine (foldS_pending _ _ _ fun k t => ?_).trans h2
    split <;> simp
  refine (foldS_pending _ _ _ fun h t => ?_).trans h3
  split <;> simp

@[simp] theorem State.logVerdict_pending (s : State) (x : Nat) : (s.logVerdict x).pending = s.pending := by
  simp [State.logVerdict]

@[simp] theorem State.adopt_pending (s : State) (x : Nat) : (s.adopt x).pending = s.pending := by
  unfold State.adopt
  extract_lets before l s1 s2 tell s3
  have htell (t : State) : (tell t).pending = t.pending := foldS_pending _ _ _ (by simp)
  have h2 : s2.pending = s.pending := by simp [s2, s1]
  have h3 : s3.pending = s.pending := by
    simp only [s3]
    split
    · refine (foldS_pending _ _ _ fun st t => ?_).trans ((htell s2).trans h2)
      split <;> simp
    · exact h2
  simp [h3]

@[simp] theorem State.verdicts_pending (n : Nat) (s : State) : (State.verdicts n s).pending = s.pending := by
  induction n generalizing s with
  | zero => rfl
  | succ n ih =>
    unfold State.verdicts
    split
    · rfl
    · split <;> simp [ih]

@[simp] theorem State.fenceQueue_pending (sp : Space) (n : Nat) (s : State) : (State.fenceQueue sp n s).pending = s.pending := by
  induction n generalizing s with
  | zero => rfl
  | succ n ih =>
    unfold State.fenceQueue
    split
    · rfl
    · have h := State.fqEntry_pending s sp ‹_›
      simp [ih, h]

@[simp] theorem State.fenceStream_pending (s : State) (sp : Space) : (s.fenceStream sp).pending = s.pending := by
  simp [State.fenceStream]

@[simp] theorem State.fenceCell_pending (s : State) (c : Nat) : (s.fenceCell c).pending = s.pending := by
  simp only [State.fenceCell]
  split <;> simp

@[simp] theorem State.selfFence_pending (s : State) (cause : Nat) : (s.selfFence cause).pending = s.pending := by
  simp [State.selfFence]

@[simp] theorem State.moduleFault_pending (s : State) : s.moduleFault.pending = s.pending := by
  simp [State.moduleFault]

@[simp] theorem execModuleFault_leaves (s : State) : (execModuleFault s).Leaves s.pending := by
  unfold execModuleFault
  split <;> simp

@[simp] theorem hostLeave_leaves (s : State) : (hostLeave s).Leaves s.pending := by
  simp [hostLeave]

@[simp] theorem execQuorumLoss_leaves (s : State) : (execQuorumLoss s).Leaves s.pending := by
  simp [execQuorumLoss]

@[simp] theorem execHeartbeat_leaves (s : State) (h : Heartbeat) : (execHeartbeat h s).Leaves s.pending := by
  simp [execHeartbeat]

@[simp] theorem execPeerAbsent_leaves (s : State) (x : Fin 256) : (execPeerAbsent x s).Leaves s.pending := by
  simp [execPeerAbsent]

@[simp] theorem execAccuse_leaves (s : State) (x from_ : Fin 256) (epoch : Word) :
    (execAccuse x from_ epoch s).Leaves s.pending := by
  simp [execAccuse]

@[simp] theorem execClear_leaves (s : State) (x from_ : Fin 256) (epoch : Word) : (execClear x from_ epoch s).Leaves s.pending := by
  simp [execClear]

@[simp] theorem execVerdict_leaves (s : State) (x from_ : Fin 256) (epoch : Word) :
    (execVerdict x from_ epoch s).Leaves s.pending := by
  simp [execVerdict]

@[simp] theorem execVerdictForward_leaves (s : State) (x : Forward) : (execVerdictForward x s).Leaves s.pending := by
  simp [execVerdictForward]

@[simp] theorem hostFound_leaves (s : State) : (hostFound s).Leaves s.pending := by
  simp [hostFound]

@[simp] theorem hostJoin_leaves (s : State) : (hostJoin s).Leaves s.pending := by
  simp [hostJoin]

@[simp] theorem execJoinMessage_leaves (s : State) (x : Fin 256) (shadow bistOk : Bool) :
    (execJoinMessage x shadow bistOk s).Leaves s.pending := by
  simp [execJoinMessage]

@[simp] theorem execAdmitMessage_leaves (s : State) (a : AdmitMsg) : (execAdmitMessage a s).Leaves s.pending := by
  simp [execAdmitMessage]

@[simp] theorem State.readmitted_pending (s : State) (m : Nat) : (s.readmitted m).pending = s.pending := by
  simp [State.readmitted]

@[simp] theorem State.seesEnter_pending (s : State) (j : Nat) : (s.seesEnter j).pending = s.pending := by
  rfl

@[simp] theorem State.peerEnter_pending (s : State) (j : Nat) : (s.peerEnter j).pending = s.pending := by
  simp [State.peerEnter]

@[simp] theorem State.selfEnter_pending (s : State) : s.selfEnter.pending = s.pending := by
  simp [State.selfEnter]

@[simp] theorem execMemberEntry_leaves (s : State) : (execMemberEntry s).Leaves s.pending := by
  simp only [execMemberEntry]
  repeat' split
  all_goals simp

@[simp] theorem execJoinTimeout_leaves (s : State) : (execJoinTimeout s).Leaves s.pending := by
  simp [execJoinTimeout]

@[simp] theorem execLivenessRound_leaves (s : State) : (execLivenessRound s).Leaves s.pending := by
  simp only [execLivenessRound]
  split
  · simp
  · split <;> simp

@[simp] theorem State.ecLoad_pending (sp : Space) (n : Nat) (l : List (Nat × Nat)) (s : State) :
    (State.ecLoad sp n l s).2.2.pending = s.pending := by
  induction l generalizing s with
  | nil => rfl
  | cons p l ih =>
    unfold State.ecLoad
    split <;> simp [ih, State.pending_of_triple ‹_ = (_, _, _)›]

theorem State.ecWait_pending (s : State) (i : Nat) (ws : List Word) {t : State} (h : s.ecWait i ws = some t) :
    t.pending = s.pending := by
  simp only [State.ecWait] at h
  split at h
  · cases h
  split at h
  · cases h
    exact State.unitWait_pending s _ _ _ ‹_›
  · exact State.unitWait_pending s _ _ _ h

@[simp] theorem State.ecRun_pending (s : State) (i : Nat) (ws : List Word) : (s.ecRun i ws).2.pending = s.pending := by
  suffices s.SameQueue (s.ecRun i ws).2 from this
  unfold State.ecRun
  extract_lets +onlyGivenNames sp
  split
  · rfl
  extract_lets +onlyGivenNames k n enc
  split
  · rename_i bs s1 heq
    have h1 : s1.pending = s.pending := by simp [State.pending_of_triple heq]
    extract_lets +onlyGivenNames es vas pres num reads writes shut code
    split
    · exact h1
    split
    rename_i c ds s2 heq2
    have h2 : s2.pending = s.pending := by simp [State.pending_of_triple heq2, h1]
    split
    · exact h2
    · exact (foldS_pending _ _ _ (by simp)).trans h2
  · simp [State.pending_of_triple ‹_ = (_, _, _)›]

@[simp] theorem State.ecStart_pending (s : State) (i : Nat) (v : Word) (op : Nat) : (s.ecStart i v op).pending = s.pending := by
  simp [State.ecStart]

@[simp] theorem hostEncode_leaves (s : State) (i : InstId) (v : Word) : (hostEncode i v s).Leaves s.pending := by
  simp [hostEncode]

@[simp] theorem hostRebuild_leaves (s : State) (i : InstId) (v : Word) : (hostRebuild i v s).Leaves s.pending := by
  simp [hostRebuild]

@[simp] theorem execEcDone_leaves (s : State) (i : InstId) : (execEcDone i s).Leaves s.pending := by
  unfold execEcDone
  extract_lets x
  split
  · simp
  split
  · simp [State.ecWait_pending s _ _ ‹_›]
  · simp

/-! The functions of Machine/Moves. -/

@[simp] theorem State.cqAny_pending (s : State) (i : Nat) : (s.cqAny i).pending = s.pending := by
  refine State.cqRow_pending _ _ _ _ fun ws t => ?_
  split <;> simp

/-- Every row of a fabric queue's table keeps the commands that wait. -/

theorem fqRows_leave : ∀ r ∈ fqRows, ∀ (sp : Space) (s : State), (r.2 sp s).Leaves s.pending := by
  simp [fqRows]

@[simp] theorem State.fqAny_pending (s : State) (sp : Space) : (s.fqAny sp).pending = s.pending := by
  unfold State.fqAny
  split
  · simp
  split
  · rfl
  split
  · rename_i r hr
    have hmem := List.mem_of_find?_eq_some hr
    exact Ans.state_pending _ _ (fqRows_leave r hmem sp s)
  · simp

@[simp] theorem State.resumeUnit_pending (s : State) (w : WaitUnit) : (s.resumeUnit w).pending = s.pending := by
  unfold State.resumeUnit
  repeat' split
  all_goals simp

@[simp] theorem State.resumeUnits_pending (s : State) : s.resumeUnits.pending = s.pending := by
  unfold State.resumeUnits
  simp

@[simp] theorem execMoveSwitch_leaves (s : State) (page : Nat) : (execMoveSwitch page s).Leaves s.pending := by
  unfold execMoveSwitch
  split
  · simp
  · split <;> simp

@[simp] theorem execMoveAbort_leaves (s : State) (page : Nat) : (execMoveAbort page s).Leaves s.pending := by
  unfold execMoveAbort
  split
  · simp
  · split <;> simp

@[simp] theorem State.portServe_pending (s : State) (q : PortReq) : (s.portServe q).pending = s.pending := by
  unfold State.portServe
  split <;> simp

@[simp] theorem State.portRetry_pending (who n : Nat) (s : State) : (State.portRetry who n s).pending = s.pending := by
  induction n generalizing s with
  | zero => rfl
  | succ n ih =>
    unfold State.portRetry
    split
    · rfl
    · simp [ih]

@[simp] theorem State.heldTick_pending (s : State) : s.heldTick.pending = s.pending := by
  simp [State.heldTick]

/-! The functions of Machine/Time. -/

@[simp] theorem State.updPulse_pending (s : State) (p : Nat) (f : Pulse → Pulse) : (s.updPulse p f).pending = s.pending := by
  rfl

@[simp] theorem State.updCasc_pending (s : State) (q : Nat) (f : Casc → Casc) : (s.updCasc q f).pending = s.pending := by
  rfl

@[simp] theorem State.cascDown_pending (s : State) (m : CascMsg) : (s.cascDown m).pending = s.pending := foldS_pending _ _ _ fun _ _ => rfl

@[simp] theorem State.pulseOut_pending (s : State) (p : Nat) (high : Bool) : (s.pulseOut p high).pending = s.pending := by
  rfl

@[simp] theorem State.pulseStop_pending (s : State) (p : Nat) : (s.pulseStop p).pending = s.pending := by
  simp [State.pulseStop]

@[simp] theorem State.pulseGive_pending (s : State) (p j : Nat) : (s.pulseGive p j).pending = s.pending := by
  simp [State.pulseGive]

@[simp] theorem State.pulseSkip_pending (s : State) (p : Nat) : (s.pulseSkip p).pending = s.pending := by
  simp [State.pulseSkip]

@[simp] theorem State.pulseJump_pending (s : State) (p : Nat) : (s.pulseJump p).pending = s.pending := by
  simp [State.pulseJump]

@[simp] theorem State.timeStep_pending (s : State) (d : ℤ) : (s.timeStep d).pending = s.pending := by
  simp [State.timeStep]

@[simp] theorem State.announceDue_pending (s : State) : s.announceDue.pending = s.pending := by
  simp [State.announceDue]

@[simp] theorem State.timeEdge_pending (s : State) : s.timeEdge.pending = s.pending := by
  simp only [State.timeEdge]
  split <;> simp

@[simp] theorem execTimeSettingApply_leaves (s : State) : (execTimeSettingApply s).Leaves s.pending := by
  simp [execTimeSettingApply]

@[simp] theorem State.timeCommit_pending (s : State) : s.timeCommit.pending = s.pending := by
  simp [State.timeCommit]

@[simp] theorem hostSnap_leaves (s : State) : (hostSnap s).Leaves s.pending := by
  simp [hostSnap]

@[simp] theorem State.pllHold_pending (s : State) : s.pllHold.pending = s.pending := by
  simp [State.pllHold]

@[simp] theorem execReferenceLost_leaves (s : State) : (execReferenceLost s).Leaves s.pending := by
  simp [execReferenceLost]

@[simp] theorem execReferenceGood_leaves (s : State) : (execReferenceGood s).Leaves s.pending := by
  simp [execReferenceGood]

@[simp] theorem State.timeCfg_pending (s : State) (v : Word) : (s.timeCfg v).pending = s.pending := by
  simp [State.timeCfg]

@[simp] theorem State.tsqEvent_pending (s : State) (p : Nat) : (s.tsqEvent p).pending = s.pending := by
  simp [State.tsqEvent]

@[simp] theorem State.tsqWord_pending (s : State) (p : Nat) (ws : List Word) : (s.tsqWord p ws).pending = s.pending := by
  simp [State.tsqWord]

@[simp] theorem State.tsqPut_pending (s : State) (p sub txid ns frac : Nat) (c : Code) :
    (s.tsqPut p sub txid ns frac c).pending = s.pending := by
  simp [State.tsqPut]

@[simp] theorem execEthernetStamp_leaves (s : State) (p : EthPort) (ns : DWord) (frac : Fin 16) :
    (execEthernetStamp p ns frac s).Leaves s.pending := by
  simp only [execEthernetStamp]
  split <;> simp

@[simp] theorem hostTsqHeadWrite_leaves (s : State) (p : EthPort) (v : Word) : (hostTsqHeadWrite p v s).Leaves s.pending := by
  simp [hostTsqHeadWrite]

@[simp] theorem State.ppsTake_pending (s : State) (ns frac : Nat) : (s.ppsTake ns frac).pending = s.pending := by
  simp [State.ppsTake]

@[simp] theorem execPpsEdge_leaves (s : State) : (execPpsEdge s).Leaves s.pending := by
  simp [execPpsEdge]

@[simp] theorem State.pulseStart_pending (s : State) (p start : Nat) (fired : Bool) :
    (s.pulseStart p start fired).pending = s.pending := by
  simp [State.pulseStart]

@[simp] theorem hostPulseEnable_leaves (s : State) (p : PulseId) (v : Word) : (hostPulseEnable p v s).Leaves s.pending := by
  simp [hostPulseEnable]

@[simp] theorem execPulseEdge_leaves (s : State) (p : PulseId) : (execPulseEdge p s).Leaves s.pending := by
  simp [execPulseEdge]

@[simp] theorem State.barDone_pending (s : State) (c : Code) (fire : Option Nat) : (s.barDone c fire).pending = s.pending := by
  unfold State.barDone
  split <;> simp

@[simp] theorem State.barCheck_pending (s : State) : s.barCheck.pending = s.pending := by
  simp [State.barCheck]

@[simp] theorem hostBarArm_leaves (s : State) : (hostBarArm s).Leaves s.pending := by
  simp [hostBarArm]

@[simp] theorem execReady_leaves (s : State) (q : CascId) : (execReady q s).Leaves s.pending := by
  simp [execReady]

@[simp] theorem execFire_leaves (s : State) (at_ : DWord) : (execFire at_ s).Leaves s.pending := by
  simp [execFire]

@[simp] theorem execBarrierFire_leaves (s : State) : (execBarrierFire s).Leaves s.pending := by
  unfold execBarrierFire
  split <;> simp

@[simp] theorem execBarrierTimeout_leaves (s : State) : (execBarrierTimeout s).Leaves s.pending := by
  simp [execBarrierTimeout]

@[simp] theorem execAbort_leaves (s : State) : (execAbort s).Leaves s.pending := by
  simp [execAbort]

@[simp] theorem State.countMembers_pending (s : State) : s.countMembers.pending = s.pending := by
  simp [State.countMembers]

@[simp] theorem State.cascLost_pending (s : State) (q state : Nat) : (s.cascLost q state).pending = s.pending := by
  simp [State.cascLost]

@[simp] theorem execCascadeDelayMeasure_leaves (s : State) (q : CascId) (dly : Fin 65536) (conflict : Bool)
    (up : Option (Nat × Nat × Nat)) (below : Fin 32) : (execCascadeDelayMeasure q dly conflict up below s).Leaves s.pending := by
  unfold execCascadeDelayMeasure
  split
  · simp
  split
  · simp
  · split <;> simp

@[simp] theorem execCascadeLinkLost_leaves (s : State) (q : CascId) : (execCascadeLinkLost q s).Leaves s.pending := by
  simp [execCascadeLinkLost]

@[simp] theorem execCascadeLinkReturn_leaves (s : State) (q : CascId) (off : ℤ) :
    (execCascadeLinkReturn q off s).Leaves s.pending := by
  simp [execCascadeLinkReturn]

@[simp] theorem execCascadeSlewComplete_leaves (s : State) : (execCascadeSlewComplete s).Leaves s.pending := by
  simp [execCascadeSlewComplete]

@[simp] theorem execStepAnnounce_leaves (s : State) (at_ : DWord) (step : ℤ) (foff : Nat) :
    (execStepAnnounce at_ step foff s).Leaves s.pending := by
  simp [execStepAnnounce]

@[simp] theorem hostClose_leaves (s : State) (k : ChkId) : (hostClose k s).Leaves s.pending := by
  simp [hostClose]

@[simp] theorem hostChkRestart_leaves (s : State) (k : ChkId) : (hostChkRestart k s).Leaves s.pending := by
  simp [hostChkRestart]

@[simp] theorem State.chkCfg_pending (s : State) (k : Nat) (v : Word) : (s.chkCfg k v).pending = s.pending := by
  simp [State.chkCfg]

/-! The functions of Machine/Ports. -/

@[simp] theorem State.updCxl_pending (s : State) (f : CxlSt → CxlSt) : (s.updCxl f).pending = s.pending := by
  rfl

@[simp] theorem State.windowWrite_pending (s : State) (sp : Space) (va : Nat) (bs : List Byte) :
    (s.windowWrite sp va bs).pending = s.pending := by
  simp [State.windowWrite]

@[simp] theorem hostWindowAccess_leaves (s : State) (addr : Fin 274877906944) (op : AccessOp) :
    (hostWindowAccess addr op s).Leaves s.pending := by
  simp only [hostWindowAccess]
  split
  · simp
  · split <;> simp

@[simp] theorem execAtsInvalidation_leaves (s : State) (pasid : BitVec 20) (first pages : Nat) (refused : Bool) :
    (execAtsInvalidation pasid first pages refused s).Leaves s.pending := by
  simp [execAtsInvalidation]

@[simp] theorem execIdeIntegrityFail_leaves (s : State) (stream : Fin 5) : (execIdeIntegrityFail stream s).Leaves s.pending := by
  simp [execIdeIntegrityFail]

@[simp] theorem execTspLock_leaves (s : State) (i : InstId) : (execTspLock i s).Leaves s.pending := by
  simp [execTspLock]

@[simp] theorem execTspUnlock_leaves (s : State) (i : InstId) : (execTspUnlock i s).Leaves s.pending := by
  simp [execTspUnlock]

@[simp] theorem execCxlLinkUp_leaves (s : State) (width rate : Nat) (flit256 : Bool) :
    (execCxlLinkUp width rate flit256 s).Leaves s.pending := by
  simp [execCxlLinkUp]

@[simp] theorem State.landMessage_pending (s : State) (mine : Bool) (ws : List Word) :
    (s.landMessage mine ws).pending = s.pending := by
  simp [State.landMessage]

@[simp] theorem State.l2qEntry_pending (s : State) (q n : Nat) : (s.l2qEntry q n).pending = s.pending := by
  suffices s.SameQueue (s.l2qEntry q n) from this
  -- By `delta`, since the kernel must not compare the two sides of the equation by evaluation.
  generalize hf : @State.l2qEntry = F
  delta State.l2qEntry at hf
  subst hf
  beta_reduce
  extract_lets o s0
  have h0 : s0.pending = s.pending := by simp [s0]
  clear_value o s0
  generalize h1 : s0.loadDev _ _ _ = r1
  obtain ⟨c1, e, t⟩ := r1
  have ht : t.pending = s.pending := ((State.pending_of_triple h1).trans (s0.loadDev_pending _ _ _)).trans h0
  dsimp -zeta only
  extract_lets ws len x s3 y m cell
  have h3 : s3.pending = s.pending := by
    refine (State.setL2q_pending _ _ _).trans ?_
    split
    · exact (t.loadDev_pending _ _ _).trans ht
    · exact ht
  clear_value len s3
  simp [h3]

@[simp] theorem hostL2qInboundTailWrite_leaves (s : State) (q : Fin 8) (v : Word) :
    (hostL2qInboundTailWrite q v s).Leaves s.pending := by
  simp [hostL2qInboundTailWrite]

@[simp] theorem hostL2qDheadWrite_leaves (s : State) (q : Fin 8) (v : Word) : (hostL2qDheadWrite q v s).Leaves s.pending := by
  simp [hostL2qDheadWrite]

@[simp] theorem State.policeFrame_pending (s : State) (p : Nat) (f : EthFrame) : (s.policeFrame p f).2.pending = s.pending := by
  unfold State.policeFrame
  split <;> simp

@[simp] theorem State.landReasm_pending (s : State) (r : Reasm) : (s.landReasm r).pending = s.pending := by
  simp [State.landReasm]

@[simp] theorem State.datagram_pending (s : State) (p srcIp : Nat) (ipFragment : Bool) (ver cell : Nat) (msgid : Word)
    (offset total : Nat) (bs : List Byte) : (s.datagram p srcIp ipFragment ver cell msgid offset total bs).pending = s.pending := by
  simp [State.datagram]

@[simp] theorem execPayloadDatagram_leaves (s : State) (p : EthPort) (srcIp : Nat) (ipFragment : Bool) (ver : Nat) (cell : CellId)
    (msgid : Word) (offset total : Nat) (bytes : List Byte) :
    (execPayloadDatagram p srcIp ipFragment ver cell msgid offset total bytes s).Leaves s.pending := by
  simp [execPayloadDatagram]

@[simp] theorem State.reasmOut_pending (s : State) (p : Nat) (r : Reasm) : (s.reasmOut p r).pending = s.pending := by
  simp [State.reasmOut]

@[simp] theorem execReassemblyTimeout_leaves (s : State) (p : EthPort) : (execReassemblyTimeout p s).Leaves s.pending := by
  simp [execReassemblyTimeout]

@[simp] theorem State.mgmtReceive_pending (s : State) (p : Nat) (f : EthFrame) (bs : List Byte) :
    (s.mgmtReceive p f bs).pending = s.pending := by
  suffices s.SameQueue (s.mgmtReceive p f bs) from this
  -- By `delta`, since the kernel must not compare the two sides of the equation by evaluation.
  generalize hf : @State.mgmtReceive = F
  delta State.mgmtReceive at hf
  subst hf
  beta_reduce
  extract_lets g n a
  clear_value g n a
  split
  · simp
  generalize h1 : s.loadDev _ _ _ = r1
  obtain ⟨c1, e, t⟩ := r1
  have ht : t.pending = s.pending := (State.pending_of_triple h1).trans (s.loadDev_pending _ _ _)
  dsimp -zeta only
  extract_lets ws s2 s3 s4
  have h3 : s.SameQueue s3 := .putHost (.putHost ht _ _) _ _
  suffices h4 : s.SameQueue s4 from (State.updEth_pending _ _ _).trans h4
  simp only [s4]
  split
  · exact (State.recLog_pending _ _ _ _ _ _).trans h3
  · exact h3

@[simp] theorem State.seqCheck_pending (s : State) (p eaxc seqId : Nat) : (s.seqCheck p eaxc seqId).pending = s.pending := by
  simp only [State.seqCheck]
  split
  · simp
  · split <;> simp

@[simp] theorem State.delayResponse_pending (s : State) (p : Nat) (f : EthFrame) (id : Nat) :
    (s.delayResponse p f id).pending = s.pending := by
  simp [State.delayResponse]

@[simp] theorem State.deliverFrame_pending (s : State) (p : Nat) (f : EthFrame) : (s.deliverFrame p f).pending = s.pending := by
  unfold State.deliverFrame
  repeat' split
  all_goals simp

@[simp] theorem execEthFrameReceive_leaves (s : State) (p : EthPort) (f : EthFrame) :
    (execEthFrameReceive p f s).Leaves s.pending := by
  unfold execEthFrameReceive
  split
  · simp
  split
  · rename_i s1 heq
    have h1 : s1.pending = s.pending := by
      refine (State.pending_of_pair heq).trans ?_
      split
      · split <;> simp
      · rfl
    simp [h1]
  · rename_i s1 heq
    have h1 : s1.pending = s.pending := by
      refine (State.pending_of_pair heq).trans ?_
      split
      · split <;> simp
      · rfl
    extract_lets +onlyGivenNames s2
    have h2 : s2.pending = s.pending := (State.chkEth_pending _ _ _ _ _).trans h1
    split
    · exact Ans.leaves_next_of h2
    split
    rename_i pass s3 heq3
    have h3 : s3.pending = s.pending := by simp [State.pending_of_pair heq3, h2]
    split
    · simp [h3]
    split <;> simp [h3]

@[simp] theorem State.mtxEntry_pending (s : State) (p n : Nat) : (s.mtxEntry p n).pending = s.pending := by
  suffices s.SameQueue (s.mtxEntry p n) from this
  -- By `delta`, since the kernel must not compare the two sides of the equation by evaluation.
  generalize hf : @State.mtxEntry = f
  delta State.mtxEntry at hf
  subst hf
  beta_reduce
  extract_lets g
  clear_value g
  generalize h1 : s.loadDev _ _ _ = r1
  obtain ⟨c1, e, t⟩ := r1
  have ht : t.pending = s.pending := (State.pending_of_triple h1).trans (s.loadDev_pending _ _ _)
  dsimp -zeta only
  extract_lets ws len sub ts txid s3
  have h3 : s3.pending = s.pending := ((State.updEth_pending _ _ _).trans (t.loadDev_pending _ _ _)).trans ht
  clear_value len
  split
  · simp [h3]
  · split <;> simp [h3]

@[simp] theorem hostManagementTxTailWrite_leaves (s : State) (p : EthPort) (v : Word) :
    (hostManagementTxTailWrite p v s).Leaves s.pending := by
  simp [hostManagementTxTailWrite]

@[simp] theorem State.sendFrame_pending (s : State) (p : Nat) (f : EgressFrame) : (s.sendFrame p f).pending = s.pending := by
  simp only [State.sendFrame]
  split <;> simp

@[simp] theorem execWheelBucketDue_leaves (s : State) (p : EthPort) (sub : Fin 8) :
    (execWheelBucketDue p sub s).Leaves s.pending := by
  simp [execWheelBucketDue]

@[simp] theorem State.subDown_pending (s : State) (p sub : Nat) : (s.subDown p sub).pending = s.pending := by
  simp [State.subDown]

@[simp] theorem execEthernetLinkDown_leaves (s : State) (p : EthPort) (sub : Fin 8) :
    (execEthernetLinkDown p sub s).Leaves s.pending := by
  simp [execEthernetLinkDown]

@[simp] theorem execEthernetLinkUp_leaves (s : State) (p : EthPort) (sub : Fin 8) :
    (execEthernetLinkUp p sub s).Leaves s.pending := by
  simp [execEthernetLinkUp]

@[simp] theorem execI3cCcc_leaves (s : State) (c : I3cCcc) (arg : Nat) : (execI3cCcc c arg s).Leaves s.pending := by
  unfold execI3cCcc
  split <;> simp

@[simp] theorem execI3cPrivateWrite_leaves (s : State) (bytes : List Byte) : (execI3cPrivateWrite bytes s).Leaves s.pending := by
  unfold execI3cPrivateWrite
  split <;> simp

@[simp] theorem execI3cPrivateRead_leaves (s : State) (n : Nat) : (execI3cPrivateRead n s).Leaves s.pending := by
  simp only [execI3cPrivateRead]
  split <;> simp

@[simp] theorem execTelemetrySnapshot_leaves (s : State) (r : Readings) : (execTelemetrySnapshot r s).Leaves s.pending := by
  simp [execTelemetrySnapshot]

/-! The functions of Machine/Trust. -/

@[simp] theorem State.updSeed_pending (s : State) (f : SeedSt → SeedSt) : (s.updSeed f).pending = s.pending := by
  rfl

@[simp] theorem State.place'_pending (s : State) (bs : List Byte) (st : List Word) (h : Nat) :
    (s.place_ bs st h).pending = s.pending := by
  simp [State.place_]

@[simp] theorem State.bindNow_pending (s : State) (addr len : Nat) (st : List Word) :
    (s.bindNow addr len st).pending = s.pending := by
  simp only [State.bindNow]
  split <;> simp

@[simp] theorem hostBind_leaves (s : State) (v : Word) : (hostBind v s).Leaves s.pending := by
  simp [hostBind]

@[simp] theorem execBindComplete_leaves (s : State) : (execBindComplete s).Leaves s.pending := by
  unfold execBindComplete
  split <;> simp

@[simp] theorem hostUnbind_leaves (s : State) (v : Word) : (hostUnbind v s).Leaves s.pending := by
  simp [hostUnbind]

@[simp] theorem hostPackageRead_leaves (s : State) (v : Word) : (hostPackageRead v s).Leaves s.pending := by
  unfold hostPackageRead
  split
  · simp
  split
  · simp
  · split <;> simp

@[simp] theorem State.anchorCmd_pending (s : State) (v : Word) (op : Nat) : (s.anchorCmd v op).pending = s.pending := by
  suffices s.SameQueue (s.anchorCmd v op) from this
  unfold State.anchorCmd
  split
  · rfl
  extract_lets +onlyGivenNames a
  split
  rename_i c block s1 heq
  have h1 : s1.pending = s.pending := by simp [State.pending_of_triple heq]
  extract_lets +onlyGivenNames ws got
  split
  · rfl
  extract_lets +onlyGivenNames n
  split
  rename_i c2 sig s2 heq2
  have h2 : s2.pending = s.pending := by simp [State.pending_of_triple heq2, h1]
  extract_lets +onlyGivenNames code s3 s4
  refine (State.pulse_pending _ _ _).trans ?_
  simp only [s4]
  split <;> exact h2

@[simp] theorem hostInstall_leaves (s : State) (v : Word) : (hostInstall v s).Leaves s.pending := by
  simp [hostInstall]

@[simp] theorem hostAnchorClear_leaves (s : State) (v : Word) : (hostAnchorClear v s).Leaves s.pending := by
  simp [hostAnchorClear]

@[simp] theorem hostRaise_leaves (s : State) (v : Word) : (hostRaise v s).Leaves s.pending := by
  simp [hostRaise]

@[simp] theorem hostTenantAttestationRequest_leaves (s : State) (i : InstId) (v : Word) :
    (hostTenantAttestationRequest i v s).Leaves s.pending := by
  simp [hostTenantAttestationRequest]

@[simp] theorem hostManagerAttestationRequest_leaves (s : State) (v : Word) :
    (hostManagerAttestationRequest v s).Leaves s.pending := by
  simp [hostManagerAttestationRequest]

@[simp] theorem execSpdmRequest_leaves (s : State) (x : SpdmRequest) : (execSpdmRequest x s).Leaves s.pending := by
  simp [execSpdmRequest]

@[simp] theorem State.ideKeys_pending (s : State) (k : Fin 5) : (s.ideKeys k).pending = s.pending := by
  rfl

@[simp] theorem State.indexLow_pending (s : State) : s.indexLow.pending = s.pending := by
  simp [State.indexLow]

@[simp] theorem State.signDone_pending (s : State) (who : SignFor) (c : Code) : (s.signDone who c).pending = s.pending := by
  unfold State.signDone
  split <;> simp

@[simp] theorem execSignerTakeRequest_leaves (s : State) : (execSignerTakeRequest s).Leaves s.pending := by
  simp only [execSignerTakeRequest]
  repeat' split
  all_goals simp

@[simp] theorem State.signRelease_pending (s : State) (g : Signing) : (s.signRelease g).pending = s.pending := by
  unfold State.signRelease
  repeat' split
  all_goals simp

@[simp] theorem execSignatureComplete_leaves (s : State) : (execSignatureComplete s).Leaves s.pending := by
  unfold execSignatureComplete
  split <;> simp

@[simp] theorem execTopWriteComplete_leaves (s : State) : (execTopWriteComplete s).Leaves s.pending := by
  unfold execTopWriteComplete
  split <;> simp

/-! The functions of Machine/Power. -/

@[simp] theorem State.wipe_pending (s : State) (p : PwrSt) (i : I3cSt) : (s.wipe p i).pending = s.pending := by
  rfl

@[simp] theorem State.moduleReset_pending (s : State) : s.moduleReset.pending = s.pending := by
  rfl

@[simp] theorem State.railsOff_pending (s : State) (phase : PwrPhase) (hot : Bool) :
    (s.railsOff phase hot).pending = s.pending := by
  rfl

@[simp] theorem hostModuleReset_leaves (s : State) (v : Word) : (hostModuleReset v s).Leaves s.pending := by
  simp [hostModuleReset]

@[simp] theorem hostSleep_leaves (s : State) (v : Word) : (hostSleep v s).Leaves s.pending := by
  simp [hostSleep]

@[simp] theorem execModWake_leaves (s : State) : (execModWake s).Leaves s.pending := by
  simp [execModWake]

@[simp] theorem execPowerOn_leaves (s : State) (modTest : Bool) : (execPowerOn modTest s).Leaves s.pending := by
  simp [execPowerOn]

@[simp] theorem State.release_pending (s : State) : s.release.pending = s.pending := by
  rfl

@[simp] theorem execStartupStepComplete_leaves (s : State) (ok : Bool) : (execStartupStepComplete ok s).Leaves s.pending := by
  simp [execStartupStepComplete]

@[simp] theorem execPerst_leaves (s : State) : (execPerst s).Leaves s.pending := by
  simp [execPerst]

@[simp] theorem execTestReset_leaves (s : State) : (execTestReset s).Leaves s.pending := by
  simp [execTestReset]

@[simp] theorem State.hostTransferLost_pending (s : State) (t : Nat) : (s.hostTransferLost t).pending = s.pending := by
  simp only [State.hostTransferLost]
  split
  · simp
  · split <;> simp

@[simp] theorem State.resetRegs_pending (s : State) (p : Page) : (s.resetRegs p).pending = s.pending := by
  rfl

@[simp] theorem State.cxlReset_pending (s : State) : s.cxlReset.pending = s.pending := by
  simp [State.cxlReset]

@[simp] theorem execCxlLinkReset_leaves (s : State) : (execCxlLinkReset s).Leaves s.pending := by
  simp [execCxlLinkReset]

@[simp] theorem State.parkCmd_pending (s : State) (v : Word) (op : Nat) : (s.parkCmd v op).pending = s.pending := by
  simp [State.parkCmd]

@[simp] theorem hostPark_leaves (s : State) (v : Word) : (hostPark v s).Leaves s.pending := by
  simp [hostPark]

@[simp] theorem hostUnpark_leaves (s : State) (v : Word) : (hostUnpark v s).Leaves s.pending := by
  simp [hostUnpark]

@[simp] theorem execParkComplete_leaves (s : State) (g : GroveId) : (execParkComplete g s).Leaves s.pending := by
  simp [execParkComplete]

@[simp] theorem execUnparkComplete_leaves (s : State) (g : GroveId) : (execUnparkComplete g s).Leaves s.pending := by
  simp [execUnparkComplete]

@[simp] theorem State.tripped_pending (s : State) (hot : Bool) : (s.tripped hot).pending = s.pending := by
  simp [State.tripped]

@[simp] theorem State.throttle_pending (s : State) (r : Readings) : (s.throttle r).pending = s.pending := by
  simp only [State.throttle]
  split
  · simp
  · split <;> simp

@[simp] theorem execThermalSample_leaves (s : State) (r : Readings) : (execThermalSample r s).Leaves s.pending := by
  unfold execThermalSample
  split <;> simp

@[simp] theorem execInputFault_leaves (s : State) : (execInputFault s).Leaves s.pending := by
  unfold execInputFault
  split <;> simp

@[simp] theorem execPowerStageFault_leaves (s : State) : (execPowerStageFault s).Leaves s.pending := by
  unfold execPowerStageFault
  split <;> simp

@[simp] theorem execPllLockLoss_leaves (s : State) (p : Pll) : (execPllLockLoss p s).Leaves s.pending := by
  unfold execPllLockLoss
  split
  · simp
  · split <;> simp

/-! The functions of Machine/Bist. -/

@[simp] theorem State.bistPorts_pending (s : State) (mask : Nat) : (s.bistPorts mask).pending = s.pending := by
  unfold State.bistPorts
  extract_lets +onlyGivenNames s1 s2
  have h1 : s1.pending = s.pending := foldS_pending _ _ _ fun p t => foldN_pending _ _ _ fun k u => State.subDown_pending _ _ _
  have h2 : s2.pending = s.pending := (foldS_pending _ _ _ (by simp)).trans h1
  split
  · refine (foldN_pending _ _ _ fun q t => ?_).trans h2
    split
    · simp
    · split <;> simp
  · exact h2

@[simp] theorem State.bistStart_pending (s : State) (v : Word) (op : Nat) : (s.bistStart v op).pending = s.pending := by
  simp [State.bistStart]

@[simp] theorem hostLogic_leaves (s : State) (v : Word) : (hostLogic v s).Leaves s.pending := by
  simp [hostLogic]

@[simp] theorem hostMemory_leaves (s : State) (v : Word) : (hostMemory v s).Leaves s.pending := by
  simp [hostMemory]

@[simp] theorem hostTileBist_leaves (s : State) (v : Word) : (hostTileBist v s).Leaves s.pending := by
  simp [hostTileBist]

@[simp] theorem State.bistScrub_pending (s : State) (d : Nat) : (s.bistScrub d).pending = s.pending := by
  simp [State.bistScrub]

@[simp] theorem State.bistPortsEnd_pending (s : State) (mask : Nat) : (s.bistPortsEnd mask).pending = s.pending := by
  simp [State.bistPortsEnd]

@[simp] theorem State.bistEnd_pending (s : State) (mask good array word : Nat) (logic : Bool) :
    (s.bistEnd mask good array word logic).pending = s.pending := by
  simp [State.bistEnd]

@[simp] theorem State.bistSuspect_pending (s : State) (mask t : Nat) : (s.bistSuspect mask t).pending = s.pending := by
  simp [State.bistSuspect]

@[simp] theorem execBistDone_leaves (s : State) (r : BistResult) : (execBistDone r s).Leaves s.pending := by
  unfold execBistDone
  split <;> simp

@[simp] theorem State.bistCommit_pending (s : State) : s.bistCommit.pending = s.pending := by
  simp [State.bistCommit]

@[simp] theorem hostInjectionArm_leaves (s : State) (v : Word) : (hostInjectionArm v s).Leaves s.pending := by
  simp [hostInjectionArm]

@[simp] theorem hostInjectionDisarm_leaves (s : State) (v : Word) : (hostInjectionDisarm v s).Leaves s.pending := by
  simp [hostInjectionDisarm]

@[simp] theorem hostScalerSelect_leaves (s : State) (v : Word) : (hostScalerSelect v s).Leaves s.pending := by
  simp [hostScalerSelect]

@[simp] theorem State.sclCtrl_pending (s : State) (dump clr : Bool) : (s.sclCtrl dump clr).pending = s.pending := by
  unfold State.sclCtrl
  split <;> simp

@[simp] theorem hostDump_leaves (s : State) (v : Word) : (hostDump v s).Leaves s.pending := by
  simp [hostDump]

@[simp] theorem hostClr_leaves (s : State) (v : Word) : (hostClr v s).Leaves s.pending := by
  simp [hostClr]

@[simp] theorem execJtagInstruction_leaves (s : State) (tap : Fin 6) (ir : JtagIr) :
    (execJtagInstruction tap ir s).Leaves s.pending := by
  simp [execJtagInstruction]

/-! The functions of Machine/Regs. -/

@[simp] theorem onUnit_leaves (s : State) (n k : Nat) (f : Fin n → State → Ans) (hf : ∀ i, (f i s).Leaves s.pending) :
    (onUnit n k f s).Leaves s.pending := by
  unfold onUnit
  split
  · exact hf _
  · simp

@[simp] theorem whenBit_leaves (s : State) (v : Word) (b : Nat) (f : State → Ans) (hf : (f s).Leaves s.pending) :
    (whenBit v b f s).Leaves s.pending := by
  simp [whenBit, hf]

@[simp] theorem State.evtAfter_pending (s : State) (p : Page) : (s.evtAfter p).pending = s.pending := by
  simp [State.evtAfter]

@[simp] theorem hostEvtPendClear_leaves (s : State) (p : Page) (v : Word) : (hostEvtPendClear p v s).Leaves s.pending := by
  simp [hostEvtPendClear]

@[simp] theorem hostEvtMaskWrite_leaves (s : State) (p : Page) (v : Word) : (hostEvtMaskWrite p v s).Leaves s.pending := by
  simp [hostEvtMaskWrite]

@[simp] theorem hostCommit_leaves (s : State) (p : Page) : (hostCommit p s).Leaves s.pending := by
  unfold hostCommit
  split
  · simp
  split
  · simp
  · split <;> simp

@[simp] theorem State.plainWrite_pending (s : State) (p : Page) (off : Nat) (v : Word) :
    (s.plainWrite p off v).pending = s.pending := by
  unfold State.plainWrite
  split <;> simp

@[simp] theorem State.ringWrite_pending (s : State) (p : Page) (o off : Nat) (v : Word) (zero : State → State)
    (hzero : ∀ t, (zero t).pending = t.pending) : (s.ringWrite p o off v zero).pending = s.pending := by
  unfold State.ringWrite
  split
  · simp
  · split <;> simp [hzero]

@[simp] theorem State.cqZero_pending (s : State) (i : Nat) : (State.cqZero i s).pending = s.pending := by
  rfl

@[simp] theorem State.rqZero_pending (s : State) (i : Nat) : (State.rqZero i s).pending = s.pending := by
  simp [State.rqZero]

@[simp] theorem State.fqZero_pending (s : State) (k : Nat) : (State.fqZero k s).pending = s.pending := by
  rfl

@[simp] theorem State.fcZero_pending (s : State) (k : Nat) : (State.fcZero k s).pending = s.pending := by
  simp [State.fcZero]

@[simp] theorem State.fabricRegs_leaves (s : State) (p : Page) (k off : Nat) (v : Word) :
    (s.fabricRegs p k off v).Leaves s.pending := by
  simp [State.fabricRegs]

@[simp] theorem State.mbxRegs_leaves (s : State) (i : InstId) (off : Nat) (v : Word) : (s.mbxRegs i off v).Leaves s.pending := by
  simp [State.mbxRegs]

@[simp] theorem State.mapRegs_leaves (s : State) (off : Nat) (v : Word) : (s.mapRegs off v).Leaves s.pending := by
  unfold State.mapRegs
  split
  · simp
  split <;> split <;> simp

@[simp] theorem State.laneRegs_leaves (s : State) (l : LaneId) (off : Nat) (v : Word) : (s.laneRegs l off v).Leaves s.pending := by
  simp [State.laneRegs]

@[simp] theorem State.coordRegs_leaves (s : State) (off : Nat) (v : Word) : (s.coordRegs off v).Leaves s.pending := by
  unfold State.coordRegs
  repeat' split
  all_goals simp

@[simp] theorem State.cruRegs_leaves (s : State) (d : DieId) (off : Nat) (v : Word) : (s.cruRegs d off v).Leaves s.pending := by
  unfold State.cruRegs
  split
  · split <;> simp
  · simp

@[simp] theorem State.ckxRegs_leaves (s : State) (k off : Nat) (v : Word) : (s.ckxRegs k off v).Leaves s.pending := by
  unfold State.ckxRegs
  extract_lets +onlyGivenNames p
  split
  · extract_lets +onlyGivenNames s1
    refine Ans.leaves_next_of ?_
    split <;> simp [s1]
  split
  · exact Ans.after_leaves _ _ _ (by simp) fun t => whenBit_leaves _ _ _ _ (by simp)
  split
  · refine Ans.leaves_next_of ?_
    split <;> simp
  split
  · refine Ans.after_leaves _ _ _ (Ans.after_leaves _ _ _ ?_ ?_) ?_ <;> simp
  split
  · refine Ans.leaves_next_of ?_
    split <;> simp
  · simp

@[simp] theorem State.settleBuckets_pending (s : State) (p off : Nat) : (s.settleBuckets p off).pending = s.pending := by
  simp [State.settleBuckets]

@[simp] theorem State.ethRegs_leaves (s : State) (p : EthPort) (off : Nat) (v : Word) : (s.ethRegs p off v).Leaves s.pending := by
  simp [State.ethRegs]

@[simp] theorem State.cxlRegs_leaves (s : State) (off : Nat) (v : Word) : (s.cxlRegs off v).Leaves s.pending := by
  unfold State.cxlRegs
  extract_lets +onlyGivenNames p
  split
  · extract_lets +onlyGivenNames q o r
    split
    · simp
    split
    · simp
    split
    · refine Ans.leaves_next_of ?_
      split <;> simp
    split
    · exact Ans.leaves_next_of (State.ringWrite_pending _ _ _ _ _ _ fun t => State.setL2q_pending _ _ _)
    split <;> simp
  split
  · refine Ans.leaves_next_of ?_
    split <;> simp
  · simp

@[simp] theorem State.timeRegs_leaves (s : State) (off : Nat) (v : Word) : (s.timeRegs off v).Leaves s.pending := by
  simp [State.timeRegs]

@[simp] theorem State.chkRegs_leaves (s : State) (k : ChkId) (off : Nat) (v : Word) : (s.chkRegs k off v).Leaves s.pending := by
  simp [State.chkRegs]

@[simp] theorem State.seedRegs_leaves (s : State) (off : Nat) (v : Word) : (s.seedRegs off v).Leaves s.pending := by
  simp only [State.seedRegs]
  repeat' split
  all_goals simp

@[simp] theorem State.pwrRegs_leaves (s : State) (off : Nat) (v : Word) : (s.pwrRegs off v).Leaves s.pending := by
  unfold State.pwrRegs
  repeat' split
  all_goals simp

@[simp] theorem State.bistRegs_leaves (s : State) (off : Nat) (v : Word) : (s.bistRegs off v).Leaves s.pending := by
  unfold State.bistRegs
  split
  · split <;> simp
  · simp

@[simp] theorem State.msixRegs_pending (s : State) (off : Nat) (v : Word) : (s.msixRegs off v).pending = s.pending := by
  simp [State.msixRegs]

@[simp] theorem regEffect_leaves (s : State) (p : Page) (off : Nat) (v : Word) : (regEffect p off v s).Leaves s.pending := by
  unfold regEffect
  split
  · simp
  split
  · simp
  split
  · simp
  split
  · simp
  split
  · simp
  split
  · simp
  split
  case h_1 =>
    split
    · refine onUnit_leaves _ _ _ _ fun t => Ans.after_leaves _ _ _ (by simp) fun u => whenBit_leaves _ _ _ _ (by simp)
    · simp
  case h_3 => split <;> simp
  case h_4 => split <;> simp
  case h_11 => split <;> simp
  all_goals simp

@[simp] theorem State.hostWrite_leaves (s : State) (p : Page) (off : Nat) (v : Word) (k : State → Ans)
    (hk : ∀ t, (k t).Leaves t.pending) : (s.hostWrite p off v k).Leaves s.pending := by
  simp only [State.hostWrite]
  split
  · simp
  split
  · split
    · simp
    · simpa using hk ((s.chkCxl false).recLog 2 0x06 0 p.inst (leBytes 8 (regAddr p off) ++ leBytes 4 v.toNat))
  · simpa using hk (s.chkCxl false)

@[simp] theorem State.reqRefused_pending (s : State) (req : Requester) (p : Page) : (s.reqRefused req p).pending = s.pending := by
  unfold State.reqRefused
  split
  · simp
  · split <;> simp

@[simp] theorem State.freePageWrite_pending (s : State) (p : Page) : (s.freePageWrite p).pending = s.pending := by
  simp [State.freePageWrite]

@[simp] theorem execRegisterWrite_leaves (s : State) (req : Requester) (p : Page) (off : Nat) (v : Word) :
    (execRegisterWrite req p off v s).Leaves s.pending := by
  simp [execRegisterWrite]

@[simp] theorem execUnsupportedRegisterAccess_leaves (s : State) (p : PageReq) (off size : Nat) :
    (execUnsupportedRegisterAccess p off size s).Leaves s.pending := by
  simp [execUnsupportedRegisterAccess]

@[simp] theorem execTenantManagementAccess_leaves (s : State) (pasid : BitVec 20) (p : Page) :
    (execTenantManagementAccess pasid p s).Leaves s.pending := by
  simp [execTenantManagementAccess]

/-! The functions of Machine/Host. -/

@[simp] theorem execCommit_leaves (s : State) (p : Page) : (execCommit p s).Leaves s.pending := by
  simp [execCommit]

@[simp] theorem execEvtPendClear_leaves (s : State) (p : Page) (v : Word) : (execEvtPendClear p v s).Leaves s.pending := by
  simp [execEvtPendClear]

@[simp] theorem execEvtMaskWrite_leaves (s : State) (p : Page) (v : Word) : (execEvtMaskWrite p v s).Leaves s.pending := by
  simp [execEvtMaskWrite]

@[simp] theorem execSuspectClr_leaves (s : State) (t : TileId) : (execSuspectClr t s).Leaves s.pending := by
  simp [execSuspectClr]

@[simp] theorem execTileCtrlHostWrite_leaves (s : State) (t : TileId) (v : Word) :
    (execTileCtrlHostWrite t v s).Leaves s.pending := by
  simp [execTileCtrlHostWrite]

@[simp] theorem execEnable_leaves (s : State) (l : LaneId) (c : LaneCtxId) (v : Word) : (execEnable l c v s).Leaves s.pending := by
  simp [execEnable]

@[simp] theorem execLaneContextDisable_leaves (s : State) (l : LaneId) (c : LaneCtxId) (v : Word) :
    (execLaneContextDisable l c v s).Leaves s.pending := by
  simp [execLaneContextDisable]

@[simp] theorem execMbclr_leaves (s : State) (l : LaneId) : (execMbclr l s).Leaves s.pending := by
  simp [execMbclr]

@[simp] theorem execAdmit_leaves (s : State) (v : Word) : (execAdmit v s).Leaves s.pending := by
  simp [execAdmit]

@[simp] theorem execRemove_leaves (s : State) (v : Word) : (execRemove v s).Leaves s.pending := by
  simp [execRemove]

@[simp] theorem execRemoveForce_leaves (s : State) (v : Word) : (execRemoveForce v s).Leaves s.pending := by
  simp [execRemoveForce]

@[simp] theorem execGroupCommit_leaves (s : State) (v : Word) : (execGroupCommit v s).Leaves s.pending := by
  simp [execGroupCommit]

@[simp] theorem execArm_leaves (s : State) (v : Word) : (execArm v s).Leaves s.pending := by
  simp [execArm]

@[simp] theorem execDisarm_leaves (s : State) (v : Word) : (execDisarm v s).Leaves s.pending := by
  simp [execDisarm]

@[simp] theorem execMirrorRead_leaves (s : State) (v : Word) : (execMirrorRead v s).Leaves s.pending := by
  simp [execMirrorRead]

@[simp] theorem execCqDoorbell_leaves (s : State) (i : InstId) (v : Word) : (execCqDoorbell i v s).Leaves s.pending := by
  simp [execCqDoorbell]

@[simp] theorem execRqHeadWrite_leaves (s : State) (i : InstId) (v : Word) : (execRqHeadWrite i v s).Leaves s.pending := by
  simp [execRqHeadWrite]

@[simp] theorem execMailboxAck_leaves (s : State) (i : InstId) (v : Word) : (execMailboxAck i v s).Leaves s.pending := by
  simp [execMailboxAck]

@[simp] theorem execEncode_leaves (s : State) (i : InstId) (v : Word) : (execEncode i v s).Leaves s.pending := by
  simp [execEncode]

@[simp] theorem execRebuild_leaves (s : State) (i : InstId) (v : Word) : (execRebuild i v s).Leaves s.pending := by
  simp [execRebuild]

@[simp] theorem execTenantAttestationRequest_leaves (s : State) (i : InstId) (v : Word) :
    (execTenantAttestationRequest i v s).Leaves s.pending := by
  simp [execTenantAttestationRequest]

@[simp] theorem execMailboxSend_leaves (s : State) (sender : Space) (v : Word) : (execMailboxSend sender v s).Leaves s.pending := by
  simp [execMailboxSend]

@[simp] theorem execFqDoorbell_leaves (s : State) (sp : Space) (v : Word) : (execFqDoorbell sp v s).Leaves s.pending := by
  simp [execFqDoorbell]

@[simp] theorem execFcHeadWrite_leaves (s : State) (sp : Space) (v : Word) : (execFcHeadWrite sp v s).Leaves s.pending := by
  simp [execFcHeadWrite]

@[simp] theorem execRegister_leaves (s : State) (d : DieId) (v : Word) : (execRegister d v s).Leaves s.pending := by
  simp [execRegister]

@[simp] theorem execUnregister_leaves (s : State) (d : DieId) (v : Word) : (execUnregister d v s).Leaves s.pending := by
  simp [execUnregister]

@[simp] theorem execObjectRead_leaves (s : State) (d : DieId) (v : Word) : (execObjectRead d v s).Leaves s.pending := by
  simp [execObjectRead]

@[simp] theorem execHbmRetireLogWrite_leaves (s : State) (ctl : HbmId) (v : Word) :
    (execHbmRetireLogWrite ctl v s).Leaves s.pending := by
  simp [execHbmRetireLogWrite]

@[simp] theorem execFbkMapaddrWrite_leaves (s : State) (v : Word) : (execFbkMapaddrWrite v s).Leaves s.pending := by
  simp [execFbkMapaddrWrite]

@[simp] theorem execFirebreakCommit_leaves (s : State) (page : Fin 65) : (execFirebreakCommit page s).Leaves s.pending := by
  simp [execFirebreakCommit]

@[simp] theorem execCreate_leaves (s : State) (v : Word) : (execCreate v s).Leaves s.pending := by
  simp [execCreate]

@[simp] theorem execActivate_leaves (s : State) (v : Word) : (execActivate v s).Leaves s.pending := by
  simp [execActivate]

@[simp] theorem execResetDrain_leaves (s : State) (v : Word) : (execResetDrain v s).Leaves s.pending := by
  simp [execResetDrain]

@[simp] theorem execResetSquash_leaves (s : State) (v : Word) : (execResetSquash v s).Leaves s.pending := by
  simp [execResetSquash]

@[simp] theorem execDestroy_leaves (s : State) (v : Word) : (execDestroy v s).Leaves s.pending := by
  simp [execDestroy]

@[simp] theorem execLogStart_leaves (s : State) (v : Word) : (execLogStart v s).Leaves s.pending := by
  simp [execLogStart]

@[simp] theorem execLogSwap_leaves (s : State) (v : Word) : (execLogSwap v s).Leaves s.pending := by
  simp [execLogSwap]

@[simp] theorem execLogStop_leaves (s : State) (v : Word) : (execLogStop v s).Leaves s.pending := by
  simp [execLogStop]

@[simp] theorem execFreeze_leaves (s : State) (v : Word) : (execFreeze v s).Leaves s.pending := by
  simp [execFreeze]

@[simp] theorem execThaw_leaves (s : State) (v : Word) : (execThaw v s).Leaves s.pending := by
  simp [execThaw]

@[simp] theorem execInstanceRead_leaves (s : State) (v : Word) : (execInstanceRead v s).Leaves s.pending := by
  simp [execInstanceRead]

@[simp] theorem execRetrain_leaves (s : State) (p : CkxPort) : (execRetrain p s).Leaves s.pending := by
  simp [execRetrain]

@[simp] theorem execHoldClr_leaves (s : State) (p : CkxPort) : (execHoldClr p s).Leaves s.pending := by
  simp [execHoldClr]

@[simp] theorem execFound_leaves (s : State) : (execFound s).Leaves s.pending := by
  simp [execFound]

@[simp] theorem execJoin_leaves (s : State) : (execJoin s).Leaves s.pending := by
  simp [execJoin]

@[simp] theorem execLeave_leaves (s : State) : (execLeave s).Leaves s.pending := by
  simp [execLeave]

@[simp] theorem execSnap_leaves (s : State) : (execSnap s).Leaves s.pending := by
  simp [execSnap]

@[simp] theorem execBarArm_leaves (s : State) : (execBarArm s).Leaves s.pending := by
  simp [execBarArm]

@[simp] theorem execPulseEnable_leaves (s : State) (p : PulseId) (v : Word) : (execPulseEnable p v s).Leaves s.pending := by
  simp [execPulseEnable]

@[simp] theorem execTsqHeadWrite_leaves (s : State) (p : EthPort) (v : Word) : (execTsqHeadWrite p v s).Leaves s.pending := by
  simp [execTsqHeadWrite]

@[simp] theorem execManagementTxTailWrite_leaves (s : State) (p : EthPort) (v : Word) :
    (execManagementTxTailWrite p v s).Leaves s.pending := by
  simp [execManagementTxTailWrite]

@[simp] theorem execClose_leaves (s : State) (k : ChkId) : (execClose k s).Leaves s.pending := by
  simp [execClose]

@[simp] theorem execChkRestart_leaves (s : State) (k : ChkId) : (execChkRestart k s).Leaves s.pending := by
  simp [execChkRestart]

@[simp] theorem execL2qInboundTailWrite_leaves (s : State) (q : Fin 8) (v : Word) :
    (execL2qInboundTailWrite q v s).Leaves s.pending := by
  simp [execL2qInboundTailWrite]

@[simp] theorem execL2qDheadWrite_leaves (s : State) (q : Fin 8) (v : Word) : (execL2qDheadWrite q v s).Leaves s.pending := by
  simp [execL2qDheadWrite]

@[simp] theorem execBind_leaves (s : State) (v : Word) : (execBind v s).Leaves s.pending := by
  simp [execBind]

@[simp] theorem execUnbind_leaves (s : State) (v : Word) : (execUnbind v s).Leaves s.pending := by
  simp [execUnbind]

@[simp] theorem execPackageRead_leaves (s : State) (v : Word) : (execPackageRead v s).Leaves s.pending := by
  simp [execPackageRead]

@[simp] theorem execInstall_leaves (s : State) (v : Word) : (execInstall v s).Leaves s.pending := by
  simp [execInstall]

@[simp] theorem execAnchorClear_leaves (s : State) (v : Word) : (execAnchorClear v s).Leaves s.pending := by
  simp [execAnchorClear]

@[simp] theorem execRaise_leaves (s : State) (v : Word) : (execRaise v s).Leaves s.pending := by
  simp [execRaise]

@[simp] theorem execManagerAttestationRequest_leaves (s : State) (v : Word) :
    (execManagerAttestationRequest v s).Leaves s.pending := by
  simp [execManagerAttestationRequest]

@[simp] theorem execModuleReset_leaves (s : State) (v : Word) : (execModuleReset v s).Leaves s.pending := by
  simp [execModuleReset]

@[simp] theorem execSleep_leaves (s : State) (v : Word) : (execSleep v s).Leaves s.pending := by
  simp [execSleep]

@[simp] theorem execPark_leaves (s : State) (v : Word) : (execPark v s).Leaves s.pending := by
  simp [execPark]

@[simp] theorem execUnpark_leaves (s : State) (v : Word) : (execUnpark v s).Leaves s.pending := by
  simp [execUnpark]

@[simp] theorem execLogic_leaves (s : State) (v : Word) : (execLogic v s).Leaves s.pending := by
  simp [execLogic]

@[simp] theorem execMemory_leaves (s : State) (v : Word) : (execMemory v s).Leaves s.pending := by
  simp [execMemory]

@[simp] theorem execTileBist_leaves (s : State) (v : Word) : (execTileBist v s).Leaves s.pending := by
  simp [execTileBist]

@[simp] theorem execInjectionArm_leaves (s : State) (v : Word) : (execInjectionArm v s).Leaves s.pending := by
  simp [execInjectionArm]

@[simp] theorem execInjectionDisarm_leaves (s : State) (v : Word) : (execInjectionDisarm v s).Leaves s.pending := by
  simp [execInjectionDisarm]

@[simp] theorem execScalerSelect_leaves (s : State) (v : Word) : (execScalerSelect v s).Leaves s.pending := by
  simp [execScalerSelect]

@[simp] theorem execDump_leaves (s : State) (v : Word) : (execDump v s).Leaves s.pending := by
  simp [execDump]

@[simp] theorem execClr_leaves (s : State) (v : Word) : (execClr v s).Leaves s.pending := by
  simp [execClr]

@[simp] theorem execWindowAccess_leaves (s : State) (addr : Fin 274877906944) (op : AccessOp) :
    (execWindowAccess addr op s).Leaves s.pending := by
  simp [execWindowAccess]

@[simp] theorem execProgramMemoryWrite_leaves (s : State) (l : LaneId) (off : Nat) (bytes : List Byte) :
    (execProgramMemoryWrite l off bytes s).Leaves s.pending := by
  unfold execProgramMemoryWrite hostProgramMemoryWrite
  split
  · simp
  split <;> simp

/-! The functions of Machine/Replay. -/

theorem State.injectCq_pending (s : State) (i : Nat) (ws : List Word) {t : State} (h : s.injectCq i ws = some t) :
    t.pending = s.pending := by
  unfold State.injectCq at h
  split at h
  · rw [← Option.some.inj h]
  · extract_lets u head at h
    have hu : u.pending = s.pending := by
      simp only [u]
      split <;> simp
    split at h
    · cases h
    · rw [← Option.some.inj h, State.updInst_pending, hu]

@[simp] theorem State.injectFabric_pending (s : State) (pl : List Byte) : (s.injectFabric pl).pending = s.pending := by
  simp only [State.injectFabric]
  repeat' split
  all_goals simp

@[simp] theorem State.injectTime_pending (s : State) (id : Nat) (pl : List Byte) : (s.injectTime id pl).pending = s.pending := by
  simp [State.injectTime]

theorem State.inject_pending (s : State) (ty src id stamp : Nat) (pl : List Byte) {t : State}
    (h : s.inject ty src id stamp pl = some t) : t.pending = s.pending := by
  unfold State.inject at h
  split at h
  case h_3 => exact State.injectCq_pending s _ _ h
  all_goals rw [← Option.some.inj h]
  case h_1 =>
    split
    · split <;> simp
    · simp
  case h_6 => split <;> simp
  all_goals simp

@[simp] theorem State.replayStop_pending (s : State) (c : Code) : (s.replayStop c).pending = s.pending := by
  rfl

@[simp] theorem execReplayInject_leaves (s : State) : (execReplayInject s).Leaves s.pending := by
  unfold execReplayInject
  split
  · simp
  split
  · simp
  split
  split
  · simp
  split
  · simp
  extract_lets +onlyGivenNames step
  have hstep (u : State) : (step u).pending = u.pending := State.setReg_pending _ _ _ _
  split
  · simp [hstep]
  extract_lets +onlyGivenNames due
  split
  · simp [hstep]
  split
  · simp
  split
  · simp
  · rename_i u hu
    have h := State.inject_pending s _ _ _ _ _ hu
    refine Ans.leaves_next_of ?_
    split
    · exact h
    · split <;> simp [hstep, h]

/-! The functions of Machine/Tick. -/

@[simp] theorem State.timeTick_pending (s : State) : s.timeTick.pending = s.pending := by
  simp [State.timeTick]

@[simp] theorem State.tick_pending (s : State) : s.tick.pending = s.pending := by
  simp [State.tick]

@[simp] theorem execRequestLate_leaves (s : State) (pt : HoldPoint) : (execRequestLate pt s).Leaves s.pending := by
  unfold execRequestLate
  split <;> simp

/-! Every command and the tick, and the two obligations. -/

/-- No command's effect writes the queue, and each answers a next state: one of the lemmas above for each row of the dispatch. -/
theorem exec_leaves (i : Instr) (s : State) : Ans.Leaves (exec i s) s.pending := by
  cases i <;> simp [exec]

/-- Settles O58: each command leaves a next state, and with an empty queue the step is the tick. -/
theorem everyStepCompletes : Obligations.EveryStepCompletes := by
  have hexec (i : Instr) (s : State) : ∃ t, exec i s = .next t := by
    obtain ⟨t, ht, -⟩ := exec_leaves i s
    exact ⟨t, ht⟩
  refine ⟨fun s => ?_, hexec⟩
  unfold step
  split
  · exact ⟨s.tick, rfl⟩
  · exact hexec _ _

/-- Settles O59: the step hands the command in front the queue without it, and no command's effect writes the queue. -/
theorem queueIsFirstInFirstOut : Obligations.QueueIsFirstInFirstOut := by
  intro s t h
  unfold step at h
  split at h
  · rename_i hnil
    cases h
    simp [hnil]
  · rename_i c rest hcons
    obtain ⟨u, hu, hq⟩ := exec_leaves c { s with pending := rest }
    obtain rfl : u = t := by
      rw [hu] at h
      cases h
      rfl
    rw [hq, hcons, List.tail_cons]

end Sys2Proof.Machine
end

section
/-! PROOFS. The module after start-up (O57), and a lane's command that a tile refuses (O19). -/

namespace Sys2Proof.Machine
open Sys2Proof

/-! The map after start-up (R22, R490). -/

/-- The map after start-up lists the floor granules alone, all of which are below 64. -/
theorem resetMap_read_ge (u : Nat) (hu : 64 ≤ u) : resetMap.read u = 0#8 := by
  have hne (g : Nat) (hg : g < 64) : g ≠ u := Nat.ne_of_lt (Nat.lt_of_lt_of_le hg hu)
  simp [resetMap, floorGranules, Memory.read, Table.get, Table.find, hne]

/-- Settles O57: each part is read off the reset state, and units past the granules are not listed in its map. -/
theorem resetState : Obligations.ResetState := by
  refine ⟨?queueAndMemory, ?granules, ?otherUnits, ?groves, ?timeBase, ?nothingHeld, ?power⟩
  case queueAndMemory => exact ⟨rfl, Memory.wf_nil, rfl⟩
  case granules => decide
  case otherUnits =>
    intro u hu
    have hread : State.reset.fbk.map.read u = 0#8 := resetMap_read_ge u hu
    simp [State.owner, mapOwner, hread]
  case groves => decide
  case timeBase => decide
  case nothingHeld => exact ⟨rfl, rfl, rfl, rfl, rfl, rfl, rfl⟩
  case power => decide

/-! A refused TISS (R24, R63, R134). -/

/-- A state that differs in lanes, schedulers and scaler counters alone has the same pending events. -/
theorem State.evtPend_of_frame {s u : State} {ls : Table Lane} {ds : Table Sched} {cs : Table Nat}
    (h : u = { s with lanes := ls, scheds := ds, regs := { s.regs with scal := cs } }) (p : Page) :
    u.evtPend p = s.evtPend p := by
  subst h
  rfl

/-- The word of TISS with its tile in S3 and its command's address in S0. -/
def tissWord : Nat := 0x0903000000000000

/-- Context 0 of lane 64, enabled over a segment of 16 with a window of 4 KiB in X, is to issue the command at the start of the
window to tile 544 of its die, which lies in a parked grove. The command's bit EVT is set. -/
def refusedIssueState : State :=
  (((State.reset.setReg (pgLane 64) 0x100 1).setReg (pgLane 64) 0x104 0x00100000).setReg (pgLane 64) 0x108 0x10).setLane 64
    { Lane.reset with
      running := true
      prog := Memory.writeN 0 (leBytes 8 tissWord) []
      x := Memory.writeN 0 (leBytes 4 (2 ^ 26)) []
      ctxs := [(0, { LaneCtx.zero with state := .run, s := (List.replicate 16 0).set 3 544 })] }

/-- The tile's page stands without an event before the issue. -/
theorem refusedIssueState_evtPend : refusedIssueState.evtPend (pgTile 544) = 0 := by decide

/-- The tile that refuses the command sets its completion event, as EVT asks. -/
theorem refusedIssue_setsEvent :
    (Ans.state refusedIssueState (exec (.tiss 64) refusedIssueState)).evtPend (pgTile 544) = 1 := by decide

/-- Refutes O19: a tile that refuses a TISS whose command has EVT set sets its completion event (R63), which the clause on refused
commands leaves out of what changes. -/
theorem not_laneIssuesCommands : ¬ Obligations.LaneIssuesCommands := by
  rintro ⟨-, -, hrefused, -⟩
  obtain ⟨u, hexec, -, -, -, -, hframe, -⟩ := hrefused refusedIssueState 64 0 (decodeLane tissWord) (by decide) rfl
    (by decide) (by decide) (by decide) (by decide) (by decide)
  have hkept : u.evtPend (pgTile 544) = refusedIssueState.evtPend (pgTile 544) := State.evtPend_of_frame hframe _
  have hset : u.evtPend (pgTile 544) = 1 := by
    have h := refusedIssue_setsEvent
    rwa [hexec] at h
  rw [hkept, refusedIssueState_evtPend] at hset
  exact absurd hset (by decide)

end Sys2Proof.Machine
end

section
/-! PROOFS. Matrix tiles (O7 to O12): commands that leave the queue, output blocks, records, and a host write to a tile's page. -/

namespace Sys2Proof.Machine
open Sys2Proof

/-! A state that differs from another in its scaler counters alone (R501). -/

/-- u is s but for scaler counters. -/
def State.ScalFrame (s u : State) : Prop := u = { s with regs := { s.regs with scal := u.regs.scal } }

theorem State.ScalFrame.refl (s : State) : s.ScalFrame s := rfl

theorem State.ScalFrame.bump {s u : State} (h : s.ScalFrame u) (p : Page) (i n : Nat) : s.ScalFrame (u.bump p i n) :=
  (State.bump_frame u p i n).trans
    (congrArg (fun v : State => { v with regs := { v.regs with scal := (u.bump p i n).regs.scal } }) h)

theorem State.ScalFrame.bumpFlags {s u : State} (h : s.ScalFrame u) (t : Nat) (f : AFlags) : s.ScalFrame (u.bumpFlags t f) :=
  ((((h.bump _ _ _).bump _ _ _).bump _ _ _).bump _ _ _).bump _ _ _

theorem State.ScalFrame.countRefusal (s : State) (t : Nat) (who : Issuer) : s.ScalFrame (s.countRefusal t who) := by
  cases who with
  | lane l c => exact ((State.ScalFrame.refl s).bump _ _ _).bump _ _ _
  | seq g k => exact .refl s

theorem State.ScalFrame.tile {s u : State} (h : s.ScalFrame u) (t : Nat) : u.tile t = s.tile t := by rw [h]; rfl

/-- A tile written where only counters have changed. -/
theorem State.ScalFrame.setTile {s u : State} (h : s.ScalFrame u) (t : Nat) (x : Tile) :
    u.setTile t x = { s with tiles := s.tiles.set t x, regs := { s.regs with scal := u.regs.scal } } :=
  congrArg (fun v : State => v.setTile t x) h

/-- Counters raised after a tile is written. -/
theorem State.ScalFrame.of_setTile {s u : State} {t : Nat} {x : Tile} (h : (s.setTile t x).ScalFrame u) :
    u = { s with tiles := s.tiles.set t (u.tile t), regs := { s.regs with scal := u.regs.scal } } := by
  rw [h.tile, State.setTile_self]
  exact h

/-- A count leaves the page's other counters. -/
theorem State.bump_scaler_ne (s : State) (p : Page) {i j : Nat} (n : Nat) (h : j ≠ i) : (s.bump p i n).scaler p j = s.scaler p j := by
  have hkey : scalKey p j ≠ scalKey p i := by simpa [scalKey] using h
  unfold State.bump
  split
  · rfl
  · exact Table.get_set_ne hkey _ _ _

/-- The flags of a block are not counted in CHECKSUM, counter 0 of a tile's page. -/
theorem State.bumpFlags_checksum (s : State) (t : Nat) (f : AFlags) : (s.bumpFlags t f).scaler (pgTile t) 0 = s.scaler (pgTile t) 0 := by
  simp [State.bumpFlags, State.bump_scaler_ne]

/-! The head of the queue starts, or completes at decode (R61, R63, R71). -/

/-- The tile once the head of its queue has left as flight f: rest waits. -/
def Tile.launch (x : Tile) (rest : List TileCmd) (f : Flight) : Tile := { x with queue := rest, flights := x.flights ++ [f] }

theorem State.fly_head (s : State) {t : Nat} {c : TileCmd} {rest : List TileCmd} (hq : (s.tile t).queue = c :: rest) (f : Flight) :
    s.fly t f = s.setTile t ((s.tile t).launch rest f) := by
  simp [State.fly, State.updTile_eq, Tile.launch, hq]

/-- The head leaves where only counters have changed. -/
theorem State.ScalFrame.fly_head {s u : State} (h : s.ScalFrame u) {t : Nat} {c : TileCmd} {rest : List TileCmd}
    (hq : (s.tile t).queue = c :: rest) (f : Flight) : u.fly t f = u.setTile t ((s.tile t).launch rest f) := by
  have hq' : (u.tile t).queue = c :: rest := by rw [h.tile, hq]
  rw [u.fly_head hq', h.tile]

/-- A head of a known operation stays. -/
theorem State.dropUnknown_known (s : State) {t : Nat} {c : TileCmd} {rest : List TileCmd} {op : TileOp}
    (hq : (s.tile t).queue = c :: rest) (hop : opOf (cmdOp c.words) = some op) (fuel : Nat) : s.dropUnknown t fuel = s := by
  cases fuel with
  | zero => rfl
  | succ fuel => simp [State.dropUnknown, hq, hop]

/-- The flight of a command that completes at decode. -/
def State.doneFlight (s : State) (c : TileCmd) (op : TileOp) (code : Code) : Flight :=
  { newFlight c op 1 with ran := false, done := some (s.plainBody c.words code 1) }

/-- A command that completes at decode with any code but CONFIG_INVALID changes its tile alone. -/
theorem State.flyDone_head (s : State) {t : Nat} {c : TileCmd} {rest : List TileCmd} (hq : (s.tile t).queue = c :: rest) (op : TileOp)
    {code : Code} (hcode : code ≠ .configInvalid) :
    s.flyDone t c op code = s.setTile t ((s.tile t).launch rest (s.doneFlight c op code)) := by
  rw [← s.fly_head hq]
  simp [State.flyDone, hcode, State.doneFlight]

/-- One that completes with CONFIG_INVALID is counted as well. -/
theorem State.flyDone_refused (s : State) {t : Nat} {c : TileCmd} {rest : List TileCmd} (hq : (s.tile t).queue = c :: rest) (op : TileOp) :
    s.flyDone t c op .configInvalid =
      (s.countRefusal t c.issuer).setTile t ((s.tile t).launch rest (s.doneFlight c op .configInvalid)) :=
  (State.ScalFrame.countRefusal s t c.issuer).fly_head hq _

section Rows

variable (s : State) {t : Nat} {c : TileCmd} {rest : List TileCmd} {op : TileOp} {start : State → TileCmd → State}
  (hq : (s.tile t).queue = c :: rest) (hop : opOf (cmdOp c.words) = some op) (hready : (s.tile t).headReady c op = true)
include hq hop hready

/-- On a suspect tile a row of the table refuses the head that is free to leave. -/
theorem State.startHead_suspect (hsus : (s.tile t).suspect = true) :
    s.startHead t op start = s.setTile t ((s.tile t).launch rest (s.doneFlight c op .checksumFault)) := by
  rw [← s.flyDone_head hq op (by decide)]
  simp [State.startHead, s.dropUnknown_known hq hop, hq, hop, hready, hsus]

variable (hsus : (s.tile t).suspect = false)
include hsus

/-- On any other tile it starts the head. -/
theorem State.startHead_starts : s.startHead t op start = start s c := by
  simp [State.startHead, s.dropUnknown_known hq hop, hq, hop, hready, hsus]

/-- A command whose start is to complete at decode. -/
theorem State.startHead_completes {code : Code} (hstart : start s c = s.flyDone t c op code) (hcode : code ≠ .configInvalid) :
    s.startHead t op start = s.setTile t ((s.tile t).launch rest (s.doneFlight c op code)) := by
  rw [s.startHead_starts hq hop hready hsus, hstart, s.flyDone_head hq op hcode]

/-- A command that starts with a free number of clocks (log entry 23). -/
theorem State.startHead_flies {f : Flight} (hstart : start s c = s.freeAc.2.fly t f) :
    s.startHead t op start = s.freeAc.2.setTile t ((s.tile t).launch rest f) := by
  rw [s.startHead_starts hq hop hready hsus, hstart]
  exact State.fly_head s.freeAc.2 hq f

end Rows

/-! MATMUL, CONV and DFT (R64, R73, R75). -/

/-- With no injection armed, or for a command of another domain than 0, none goes with the command. -/
theorem State.tileInj_none (s : State) (t : Nat) (c : TileCmd) (h : s.domainOf c.space ≠ 0 ∨ s.bist.inj = []) :
    s.tileInj t c = (none, s) := by
  unfold State.tileInj State.cmdDomain
  rcases h with h | h
  · simp [h]
  · simp [State.useInj, h]

/-- A MATMUL or CONV as it starts (R104: its M is fixed). -/
def matFlight (c : TileCmd) (op : TileOp) (st : Memory) : Flight :=
  { newFlight c op (matStartAc (decodeMat c.words st) st) with m := (decodeMat c.words st).m }

theorem State.startMat_starts (s : State) (t : Nat) (op : TileOp) (c : TileCmd)
    (hok : matOk (decodeMat c.words (s.tile t).store) c.words (s.tile t).store = true)
    (hout : (decodeMat c.words (s.tile t).store).m ≠ 0 ∧ (decodeMat c.words (s.tile t).store).n ≠ 0)
    (hinj : s.domainOf c.space ≠ 0 ∨ s.bist.inj = []) :
    State.startMat t op s c = (s.bump (pgTile t) 10 (badIndices (decodeMat c.words (s.tile t).store) (s.tile t).store)).fly t
      (matFlight c op (s.tile t).store) := by
  simp [State.startMat, hok, hout, s.tileInj_none t c hinj, matFlight, newFlight]

theorem State.startMat_refused (s : State) (t : Nat) (op : TileOp) (c : TileCmd)
    (hok : matOk (decodeMat c.words (s.tile t).store) c.words (s.tile t).store = false) :
    State.startMat t op s c = s.flyDone t c op .configInvalid := by
  simp [State.startMat, hok]

theorem State.startMat_empty (s : State) (t : Nat) (op : TileOp) (c : TileCmd)
    (hok : matOk (decodeMat c.words (s.tile t).store) c.words (s.tile t).store = true)
    (hout : (decodeMat c.words (s.tile t).store).m = 0 ∨ (decodeMat c.words (s.tile t).store).n = 0) :
    State.startMat t op s c = s.flyDone t c op .empty := by
  simp [State.startMat, hok, hout]

theorem State.startDft_starts (s : State) (t : Nat) (c : TileCmd) (hok : dftOk (decodeDft c.words) c.words = true)
    (hout : (decodeDft c.words).nb ≠ 0) (hinj : s.domainOf c.space ≠ 0 ∨ s.bist.inj = []) :
    State.startDft t s c = s.fly t (newFlight c .dft 0) := by
  simp [State.startDft, hok, hout, s.tileInj_none t c hinj, newFlight]

/-- A MATMUL or CONV at the head, free to leave, that passes its checks and has an output starts. -/
theorem State.startHead_startMat (s : State) {t : Nat} {c : TileCmd} {rest : List TileCmd} {op : TileOp}
    (hq : (s.tile t).queue = c :: rest) (hop : opOf (cmdOp c.words) = some op) (hsus : (s.tile t).suspect = false)
    (hready : (s.tile t).headReady c op = true)
    (hok : matOk (decodeMat c.words (s.tile t).store) c.words (s.tile t).store = true)
    (hout : (decodeMat c.words (s.tile t).store).m ≠ 0 ∧ (decodeMat c.words (s.tile t).store).n ≠ 0)
    (hinj : s.domainOf c.space ≠ 0 ∨ s.bist.inj = []) :
    ∃ u, s.startHead t op (State.startMat t op) = u ∧ u.tile t = (s.tile t).launch rest (matFlight c op (s.tile t).store) ∧
      u = { s with tiles := s.tiles.set t (u.tile t), regs := { s.regs with scal := u.regs.scal } } ∧
      (badIndices (decodeMat c.words (s.tile t).store) (s.tile t).store = 0 → u.regs = s.regs) := by
  have hcount := (State.ScalFrame.refl s).bump (pgTile t) 10 (badIndices (decodeMat c.words (s.tile t).store) (s.tile t).store)
  have hstart := s.startHead_starts (start := State.startMat t op) hq hop hready hsus
  rw [s.startMat_starts t op c hok hout hinj, hcount.fly_head hq] at hstart
  refine ⟨_, hstart, State.setTile_self _ _ _, ?_, ?_⟩
  · rw [State.setTile_self]
    exact hcount.setTile _ _
  · intro hbad
    rw [hbad]
    rfl

/-- Settles O7: the row starts the head, whose flight takes no injection along. -/
theorem arrayCommandStarts : Obligations.ArrayCommandStarts := by
  refine ⟨?matmul, ?conv, ?dft⟩
  case matmul =>
    intro s t c rest hq hop hsus hready hok hout hinj
    obtain ⟨u, hu, hrest⟩ := s.startHead_startMat hq (congrArg opOf hop) hsus hready hok hout hinj
    exact ⟨u, congrArg Host.Outcome.next hu, hrest⟩
  case conv =>
    intro s t c rest hq hop hsus hready hok hout hinj
    obtain ⟨u, hu, hrest⟩ := s.startHead_startMat hq (congrArg opOf hop) hsus hready hok hout hinj
    exact ⟨u, congrArg Host.Outcome.next hu, hrest⟩
  case dft =>
    intro s t c rest hq hop hsus hready hok hout hinj
    have hstart := s.startHead_starts (start := State.startDft t.val) hq (congrArg opOf hop) hready hsus
    rw [s.startDft_starts _ _ hok hout hinj, s.fly_head hq] at hstart
    exact congrArg Host.Outcome.next hstart

/-! LOAD, STORE, WAIT and SIGNAL at decode (R78, R79, R81). -/

/-- A LOAD or STORE whose every page translates. -/
theorem State.startXfer_starts (s : State) (t : Nat) (op : TileOp) (load : Bool) (c : TileCmd)
    (hok : xferOk (decodeXfer c.words) c.words load = true) (hout : (decodeXfer c.words).rows ≠ 0 ∧ (decodeXfer c.words).cols ≠ 0)
    (hcode : s.xferCode c.space (decodeXfer c.words) load = .ok) :
    State.startXfer t op load s c = s.freeAc.2.fly t (newFlight c op s.freeAc.1) := by
  simp [State.startXfer, hok, hout, hcode, State.freeAc]

/-- One that meets a page outside the mapping: translation has taken a free number of clocks (log entry 23). -/
theorem State.startXfer_denied (s : State) (t : Nat) (op : TileOp) (load : Bool) (c : TileCmd)
    (hok : xferOk (decodeXfer c.words) c.words load = true) (hout : (decodeXfer c.words).rows ≠ 0 ∧ (decodeXfer c.words).cols ≠ 0)
    (hcode : s.xferCode c.space (decodeXfer c.words) load = .keyDenied) :
    State.startXfer t op load s c = s.freeAc.2.fly t
      { newFlight c op s.freeAc.1 with ran := false, done := some (s.plainBody c.words .keyDenied s.freeAc.1) } := by
  simp [State.startXfer, hok, hout, hcode, State.freeAc]

theorem State.startXfer_empty (s : State) (t : Nat) (op : TileOp) (load : Bool) (c : TileCmd)
    (hok : xferOk (decodeXfer c.words) c.words load = true) (hout : (decodeXfer c.words).rows = 0 ∨ (decodeXfer c.words).cols = 0) :
    State.startXfer t op load s c = s.flyDone t c op .empty := by
  simp [State.startXfer, hok, hout]

theorem State.startWait_starts (s : State) (t : Nat) (c : TileCmd) (hok : ctrCmdOk c.words = true)
    (hheld : s.ctrHeld (s.domainOf c.space) (fld (wAt c.words 3) 15 0) = true) :
    State.startWait t s c = s.freeAc.2.fly t (newFlight c .wait s.freeAc.1) := by
  simp [State.startWait, State.cmdDomain, hok, hheld]

theorem State.startSignal_starts (s : State) (t : Nat) (c : TileCmd) (hok : ctrCmdOk c.words = true)
    (hheld : s.ctrHeld (s.domainOf c.space) (fld (wAt c.words 3) 15 0) = true) (hinc : wAt c.words 4 ≠ 0) :
    State.startSignal t s c = s.freeAc.2.fly t (newFlight c .signal s.freeAc.1) := by
  have hne : wAt c.words 4 ≠ 0#32 := hinc
  simp [State.startSignal, State.cmdDomain, hok, hheld, hne]

theorem State.startSignal_empty (s : State) (t : Nat) (c : TileCmd) (hok : ctrCmdOk c.words = true)
    (hheld : s.ctrHeld (s.domainOf c.space) (fld (wAt c.words 3) 15 0) = true) (hinc : wAt c.words 4 = 0) :
    State.startSignal t s c = s.flyDone t c .signal .empty := by
  simp [State.startSignal, State.cmdDomain, hok, hheld, hinc]

/-- Settles O9: a command that completes at decode leaves the queue as a flight with its record. -/
theorem refusedOrEmptyAtDecode : Obligations.RefusedOrEmptyAtDecode := by
  refine ⟨?suspect, ?matRefused, ?matEmpty, ?loadEmpty, ?loadDenied, ?signalEmpty⟩
  case suspect =>
    intro s t c rest op hq hop hsus hready
    have hdone (start : State → TileCmd → State) := s.startHead_suspect (start := start) hq hop hready hsus
    cases op <;> exact congrArg Host.Outcome.next (hdone _)
  case matRefused =>
    intro s t c rest hq hop hsus hready hok
    have hstart := s.startHead_starts (start := State.startMat t.val .matmul) hq (congrArg opOf hop) hready hsus
    rw [s.startMat_refused _ _ _ hok, s.flyDone_refused hq] at hstart
    refine ⟨_, congrArg Host.Outcome.next hstart, State.setTile_self _ _ _, ?_⟩
    rw [State.setTile_self]
    exact (State.ScalFrame.countRefusal s _ _).setTile _ _
  case matEmpty =>
    intro s t c rest hq hop hsus hready hok hout
    exact congrArg Host.Outcome.next
      (s.startHead_completes hq (congrArg opOf hop) hready hsus (s.startMat_empty _ _ _ hok hout) (by decide))
  case loadEmpty =>
    intro s t c rest hq hop hsus hready hok hout
    exact congrArg Host.Outcome.next
      (s.startHead_completes hq (congrArg opOf hop) hready hsus (s.startXfer_empty _ _ _ _ hok hout) (by decide))
  case loadDenied =>
    intro s t c rest hq hop hsus hready hok hout hcode
    exact congrArg Host.Outcome.next
      (s.startHead_flies hq (congrArg opOf hop) hready hsus (s.startXfer_denied _ _ _ _ hok hout hcode))
  case signalEmpty =>
    intro s t c rest hq hop hsus hready hok hheld hinc
    exact congrArg Host.Outcome.next
      (s.startHead_completes hq (congrArg opOf hop) hready hsus (s.startSignal_empty _ _ hok hheld hinc) (by decide))

/-! A GATE runs as it leaves the queue (R100, R101). -/

/-- The flight of a GATE that has run. -/
def State.gateFlight (s : State) (c : TileCmd) (fl : AFlags) : Flight :=
  { newFlight c .gate (gateAc (decodeGate c.words)) with
    flags := fl, done := some (s.closeBody c.words .ok fl 0x7FFFF 0xFFFF (gateAc (decodeGate c.words))) }

/-- The tile that a GATE leaves. -/
def State.gatedTile (s : State) (t : Nat) (c : TileCmd) (rest : List TileCmd) : Tile :=
  { (s.tile t).launch rest (s.gateFlight c (gateRun (decodeGate c.words) (s.tile t).store).2) with
    store := (gateRun (decodeGate c.words) (s.tile t).store).1 }

theorem State.startGate_runs (s : State) {t : Nat} {c : TileCmd} {rest : List TileCmd} (hq : (s.tile t).queue = c :: rest)
    (hok : gateOk (decodeGate c.words) c.words = true) (hout : (decodeGate c.words).m ≠ 0) :
    State.startGate t s c =
      (s.setTile t (s.gatedTile t c rest)).bumpFlags t (gateRun (decodeGate c.words) (s.tile t).store).2 := by
  simp [State.startGate, hok, hout, s.fly_head hq, State.updTile_eq, State.gatedTile, State.gateFlight]

/-! The only flight of a tile. -/

theorem Tile.flightIdx_single {x : Tile} {f : Flight} (hx : x.flights = [f]) {p : Flight → Bool} (hp : p f = true) :
    x.flightIdx p = some 0 := by
  simp [Tile.flightIdx, hx, hp]

theorem Tile.putFlight_single {x : Tile} {f : Flight} (hx : x.flights = [f]) (g : Flight) :
    x.putFlight 0 g = { x with flights := [g] } := by
  simp [Tile.putFlight, hx]

/-- The only flight of a tile completes with OK (R81). -/
def State.completed (s : State) (t : Nat) (f : Flight) : Tile :=
  { s.tile t with flights := [{ f with done := some (s.plainBody f.cmd.words .ok f.ac) }] }

/-- A pending WAIT, the only flight, completes exactly when its counter has reached the threshold (R81). -/
theorem execTileWaitSatisfied_single (s : State) (t : TileId) (f : Flight) (hx : (s.tile t.val).flights = [f])
    (hf : f.op = .wait ∧ f.done = none) :
    execTileWaitSatisfied t s = .next (
      if (s.tile t.val).open_ && ctrReached (s.ctr (t.val / 256) (fld (wAt f.cmd.words 3) 15 0)) (wAt f.cmd.words 4)
      then s.setTile t.val (s.completed t.val f) else s) := by
  obtain ⟨hop, hdone⟩ := hf
  have hidx : (s.tile t.val).flightIdx (fun g => g.undone && g.op = .wait) = some 0 :=
    Tile.flightIdx_single hx (by simp [Flight.undone, hop, hdone])
  simp only [execTileWaitSatisfied, hidx, hx, Tile.putFlight_single hx, List.getElem?_cons_zero]
  split <;> rfl

/-! SIGNAL_APPLY (R81, R169, R234). -/

/-- A cell written where only cells have changed. -/
theorem State.updCell_frame {s u : State} (h : u = { s with cells := u.cells }) (c : Nat) (f : Cell → Cell) :
    u.updCell c f = { s with cells := (u.updCell c f).cells } :=
  congrArg (fun v : State => { v with cells := (u.updCell c f).cells }) h

/-- The gain stage of a cell changes cells only. -/
theorem State.gainHold_frame (s : State) (c : Nat) : s.gainHold c = { s with cells := (s.gainHold c).cells } := by
  simp only [State.gainHold]
  split
  · rfl
  · exact foldN_keeps (P := fun u : State => u = { s with cells := u.cells }) _
      (fun _ _ _ hu => State.updCell_frame hu _ _) rfl

/-- A count of an arrival counter below 0x8000 changes the counter alone. -/
theorem State.raiseCtr_low (s : State) (die c : Nat) (n : Word) (hc : c < 0x8000) : s.raiseCtr die c n = s.addCtr die c n := by
  have hnot : ¬ 0x8000 ≤ c := Nat.not_le.2 hc
  simp [State.raiseCtr, hnot]

/-- Any count changes the counter, and cells. -/
theorem State.raiseCtr_frame (s : State) (die c : Nat) (n : Word) :
    s.raiseCtr die c n = { s.addCtr die c n with cells := (s.raiseCtr die c n).cells } := by
  simp only [State.raiseCtr]
  split
  · exact State.gainHold_frame _ _
  · rfl

/-- HELD of a context changes contexts only. -/
theorem State.heldCheck_frame (s : State) (k : Nat) : s.heldCheck k = { s with ctxs := (s.heldCheck k).ctxs } := by
  simp only [State.heldCheck]
  split
  · rfl
  · split <;> rfl

/-- A tile's scheduler state changes that tile, and contexts. -/
theorem State.toSched_frame (s : State) (t : Nat) (z : TSched) :
    s.toSched t z = { s.setTile t { s.tile t with sched := z } with ctxs := (s.toSched t z).ctxs } := by
  unfold State.toSched
  split
  · exact State.heldCheck_frame _ _
  · rfl

/-- The end of a lending changes the scheduler state of the tile, and contexts. -/
theorem State.releaseLent_setTile (s : State) (t : Nat) (x : Tile) :
    ∃ z ks, (s.setTile t x).releaseLent t = { s.setTile t { x with sched := z } with ctxs := ks } := by
  unfold State.releaseLent
  split
  · refine ⟨.drain, ((s.setTile t x).toSched t .drain).ctxs, (State.toSched_frame _ _ _).trans ?_⟩
    rw [State.setTile_self, State.setTile_setTile]
  · exact ⟨x.sched, s.ctxs, rfl⟩

/-- The state that SIGNAL_APPLY leaves with a counter that may end no lending. -/
def State.signalled (s : State) (t : TileId) (f : Flight) : State :=
  (s.raiseCtr (t.val / 256) (fld (wAt f.cmd.words 3) 15 0) (wAt f.cmd.words 4)).setTile t.val (s.completed t.val f)

theorem execSignalApply_single (s : State) (t : TileId) (f : Flight) (hx : (s.tile t.val).flights = [f])
    (hf : f.op = .signal ∧ f.done = none) (hopen : (s.tile t.val).open_ = true) :
    execSignalApply t s = .next (
      if fld (wAt f.cmd.words 3) 15 0 = 0xFFFF then (s.signalled t f).releaseLent t.val else s.signalled t f) := by
  obtain ⟨hop, hdone⟩ := hf
  have hidx : (s.tile t.val).flightIdx (fun g => g.undone) = some 0 := Tile.flightIdx_single hx (by simp [Flight.undone, hdone])
  simp only [execSignalApply, hidx, hx, Tile.putFlight_single hx, List.getElem?_cons_zero]
  rw [if_pos (by simp [hop, hopen])]
  rfl

/-- What SIGNAL_APPLY leaves: cells and contexts may have changed, but for a counter below 0x8000. -/
theorem execSignalApply_cases (s : State) (t : TileId) (f : Flight) (hx : (s.tile t.val).flights = [f])
    (hf : f.op = .signal ∧ f.done = none) (hopen : (s.tile t.val).open_ = true) :
    ∃ z cs ks, execSignalApply t s = .next
        { s with
          arr := s.arr.set (t.val / 256 * 65536 + fld (wAt f.cmd.words 3) 15 0)
            (s.ctr (t.val / 256) (fld (wAt f.cmd.words 3) 15 0) + wAt f.cmd.words 4)
          tiles := s.tiles.set t.val { s.completed t.val f with sched := z }, cells := cs, ctxs := ks } ∧
      (fld (wAt f.cmd.words 3) 15 0 < 0x8000 → cs = s.cells ∧ ks = s.ctxs ∧ z = (s.tile t.val).sched) := by
  rw [execSignalApply_single s t f hx hf hopen]
  split
  · rename_i hc
    obtain ⟨z, ks, hz⟩ := State.releaseLent_setTile (s.raiseCtr (t.val / 256) (fld (wAt f.cmd.words 3) 15 0) (wAt f.cmd.words 4))
      t.val (s.completed t.val f)
    refine ⟨z, (s.signalled t f).cells, ks, congrArg Host.Outcome.next (hz.trans ?_), fun hlow => ?_⟩
    · rw [State.raiseCtr_frame]
      rfl
    · omega
  · refine ⟨(s.tile t.val).sched, (s.signalled t f).cells, s.ctxs, congrArg Host.Outcome.next ?_, fun hlow => ⟨?_, rfl, rfl⟩⟩
    · unfold State.signalled
      rw [State.raiseCtr_frame]
      rfl
    · simp only [State.signalled, State.raiseCtr_low _ _ _ _ hlow]
      rfl

/-- With no context that runs, none is held up. -/
theorem filter_run_eq_nil {l : Table ReqCtx} (h : ∀ p ∈ l, p.2.state ≠ .run) (q : Nat × ReqCtx → Bool) :
    l.filter (fun p => p.2.state = .run && q p) = [] :=
  List.filter_eq_nil_iff.2 fun p hp => by simp [h p hp]

/-- Settles O8: a command that starts leaves the queue as a flight, and the only flight of a tile completes as its counter stands. -/
theorem transferAndCounterCommandsStart : Obligations.TransferAndCounterCommandsStart := by
  refine ⟨?load, ?store, ?wait, ?signal, ?gate, ?waitReached, ?waitPending, ?signalApply, ?entryFree⟩
  case load =>
    intro s t c rest hq hop hsus hready hok hout hcode
    exact congrArg Host.Outcome.next
      (s.startHead_flies hq (congrArg opOf hop) hready hsus (s.startXfer_starts _ _ _ _ hok hout hcode))
  case store =>
    intro s t c rest hq hop hsus hready hok hout hcode
    exact congrArg Host.Outcome.next
      (s.startHead_flies hq (congrArg opOf hop) hready hsus (s.startXfer_starts _ _ _ _ hok hout hcode))
  case wait =>
    intro s t c rest hq hop hsus hready hok hheld
    exact congrArg Host.Outcome.next
      (s.startHead_flies hq (congrArg opOf hop) hready hsus (s.startWait_starts _ _ hok hheld))
  case signal =>
    intro s t c rest hq hop hsus hready hok hheld hinc
    exact congrArg Host.Outcome.next
      (s.startHead_flies hq (congrArg opOf hop) hready hsus (s.startSignal_starts _ _ hok hheld hinc))
  case gate =>
    intro s t c rest hq hop hsus hready hok hout
    have hstart := s.startHead_starts (start := State.startGate t.val) hq (congrArg opOf hop) hready hsus
    rw [s.startGate_runs hq hok hout] at hstart
    have hframe := (State.ScalFrame.refl (s.setTile t.val (s.gatedTile t.val c rest))).bumpFlags t.val
      (gateRun (decodeGate c.words) (s.tile t.val).store).2
    have htile := (hframe.tile t.val).trans (State.setTile_self _ _ _)
    refine ⟨_, congrArg Host.Outcome.next hstart, ?_, ?_, ?_, ?_, hframe.of_setTile⟩
    all_goals rw [htile]
    · rfl
    · rfl
    · simp [State.gatedTile, Tile.launch, State.gateFlight, newFlight]
    · simp [State.gatedTile, Tile.launch, State.gateFlight, State.closeBody]
  case waitReached =>
    intro s t f hx hf hopen hreached
    have hwait := execTileWaitSatisfied_single s t f hx hf
    rw [if_pos (by simpa [hopen, ctrReached] using hreached)] at hwait
    exact hwait
  case waitPending =>
    intro s t f hx hf hpending
    have hwait := execTileWaitSatisfied_single s t f hx hf
    have hnot : ctrReached (s.ctr (t.val / 256) (fld (wAt f.cmd.words 3) 15 0)) (wAt f.cmd.words 4) = false :=
      decide_eq_false (Nat.not_lt.2 hpending)
    rw [hnot, Bool.and_false, if_neg Bool.false_ne_true] at hwait
    exact hwait
  case signalApply =>
    intro s t f hx hf hopen
    obtain ⟨z, cs, ks, hexec, hlow⟩ := execSignalApply_cases s t f hx hf hopen
    refine ⟨_, hexec, ?ctr, ?flights, ?kept, ?frame, ?low⟩
    all_goals simp only [State.tile, State.ctr, Table.get_set_self]
    case flights => rfl
    case kept => exact ⟨rfl, rfl⟩
    case low => exact hlow
  case entryFree =>
    intro s t hrun
    simp only [exec, execTileQueueEntryFree]
    rw [filter_run_eq_nil hrun]
    rfl

/-! The end of an output block (R68 to R70). -/

/-- A tile that is neither held, scrubbed nor saving is not stopped. -/
theorem Tile.not_stopped {x : Tile} (h : x.held = false ∧ x.scrub = false ∧ x.saving = false) :
    (x.held || x.scrub || x.saving) = false := by
  simp [h]

/-- The end of the running array command's next block. -/
def State.blockEnd (s : State) (t : Nat) (f : Flight) (fault : Bool) : BlockEnd :=
  f.blockEnd (s.tile t).store (s.tile t).bank fault

/-- The flight with the clocks and flags of its block. -/
def Flight.charged (f : Flight) (e : BlockEnd) : Flight := { f with flags := f.flags.or e.flags, ac := f.ac + e.ac, inject := none }

/-- The tile after a block whose comparison failed. -/
def State.failedTile (s : State) (t : Nat) (f : Flight) (e : BlockEnd) : Tile :=
  { s.tile t with
    flights := [{ f.charged e with
      done := some (s.closeBody f.cmd.words .checksumFault (f.flags.or e.flags) e.bm e.bn (f.ac + e.ac)) }]
    bank := none }

/-- The tile after a block that passed. -/
def State.passedTile (s : State) (t : Nat) (f : Flight) (e : BlockEnd) : Tile :=
  { s.tile t with
    flights := [{ f.charged e with
      block := f.block + 1
      done := if e.last then some (s.closeBody f.cmd.words .ok (f.flags.or e.flags) 0x7FFFF 0xFFFF (f.ac + e.ac)) else none }]
    store := e.store
    bank := none }

theorem Tile.arrayIdx_single {x : Tile} {f : Flight} (hx : x.flights = [f]) (hf : f.done = none ∧ f.op.engine = 0) :
    x.flightIdx (fun g => g.undone && g.op.engine = 0) = some 0 :=
  Tile.flightIdx_single hx (by simp [Flight.undone, hf])

/-- The record of a passed block is there once it was the last. -/
theorem State.passedTile_status (s : State) (t : Nat) (f : Flight) (e : BlockEnd) :
    (s.passedTile t f e).flights.map (fun g => g.done.map (fun b => b.status)) =
      [if e.last then some (s.closeCode (cmdDeadline f.cmd.words) .ok) else none] := by
  cases hlast : e.last <;> simp [State.passedTile, hlast, State.closeBody]

/-- The sub-blocks and indices that a block left out are counted (R502). -/
def State.countSkips (s : State) (t : Nat) (e : BlockEnd) : State :=
  (s.bump (pgTile t) 7 e.skips).bump (pgTile t) 8 e.skipK

theorem State.ScalFrame.countSkips {s u : State} (h : s.ScalFrame u) (t : Nat) (e : BlockEnd) : s.ScalFrame (u.countSkips t e) :=
  (h.bump _ _ _).bump _ _ _

/-- They are not counted in CHECKSUM. -/
theorem State.countSkips_checksum (s : State) (t : Nat) (e : BlockEnd) :
    (s.countSkips t e).scaler (pgTile t) 0 = s.scaler (pgTile t) 0 := by
  simp [State.countSkips, State.bump_scaler_ne]

/-- The state after a block whose comparison failed. -/
def State.failedBlock (s : State) (t : Nat) (f : Flight) (e : BlockEnd) : State :=
  (((s.setTile t (s.failedTile t f e)).bump (pgTile t) 0 1).countSkips t e).bumpFlags t (f.flags.or e.flags)

theorem State.failedBlock_frame (s : State) (t : Nat) (f : Flight) (e : BlockEnd) :
    (s.setTile t (s.failedTile t f e)).ScalFrame (s.failedBlock t f e) :=
  (((State.ScalFrame.refl _).bump _ _ _).countSkips _ _).bumpFlags _ _

/-- It counts once in CHECKSUM (R70). -/
theorem State.failedBlock_checksum (s : State) (t : Nat) (f : Flight) (e : BlockEnd) (hlt : s.scaler (pgTile t) 0 < 0xFFFFFFFF) :
    (s.failedBlock t f e).scaler (pgTile t) 0 = s.scaler (pgTile t) 0 + 1 := by
  have hmin : min (s.scaler (pgTile t) 0 + 1) 0xFFFFFFFF = s.scaler (pgTile t) 0 + 1 := Nat.min_eq_left hlt
  rw [State.failedBlock, State.bumpFlags_checksum, State.countSkips_checksum]
  exact (State.bump_scaler _ _ 0 1 (Nat.le_of_lt hlt)).trans hmin

/-- The state after a block that passed: the flags are counted at the command's end. -/
def State.passedBlock (s : State) (t : Nat) (f : Flight) (e : BlockEnd) : State :=
  let u := ((s.setTile t (s.passedTile t f e)).countSkips t e).bump (pgTile t) 9 e.masked
  if e.last then u.bumpFlags t (f.flags.or e.flags) else u

theorem State.passedBlock_frame (s : State) (t : Nat) (f : Flight) (e : BlockEnd) :
    (s.setTile t (s.passedTile t f e)).ScalFrame (s.passedBlock t f e) := by
  have hcounted := ((State.ScalFrame.refl (s.setTile t (s.passedTile t f e))).countSkips t e).bump (pgTile t) 9 e.masked
  unfold State.passedBlock
  split
  · exact hcounted.bumpFlags _ _
  · exact hcounted

/-- The end of a block of the only flight of a tile that is not stopped. -/
theorem execOutputBlockEnd_single (s : State) (t : TileId) (f : Flight) (fault : Bool) (hx : (s.tile t.val).flights = [f])
    (hf : f.done = none ∧ f.op.engine = 0)
    (hgo : (s.tile t.val).held = false ∧ (s.tile t.val).scrub = false ∧ (s.tile t.val).saving = false) :
    execOutputBlockEnd t fault s =
      if (s.blockEnd t.val f fault).fails then .next (s.failedBlock t.val f (s.blockEnd t.val f fault))
      else .next (s.passedBlock t.val f (s.blockEnd t.val f fault)) := by
  simp only [execOutputBlockEnd, Tile.not_stopped hgo, Tile.arrayIdx_single hx hf, hx, Tile.putFlight_single hx,
    List.getElem?_cons_zero]
  rfl

/-- A failed comparison outranks a missed deadline (R18, R19). -/
theorem State.closeCode_checksumFault (s : State) (deadline : Nat) : s.closeCode deadline .checksumFault = .checksumFault := by
  unfold State.closeCode
  split <;> rfl

/-- Settles O10: the block's end writes the tile, then counts. -/
theorem outputBlockEnds : Obligations.OutputBlockEnds := by
  refine ⟨?fails, ?passes⟩
  case fails =>
    intro s t f fault hx hf hgo hfails hlt
    have hend := (execOutputBlockEnd_single s t f fault hx hf hgo).trans (if_pos hfails)
    have hframe := s.failedBlock_frame t.val f (s.blockEnd t.val f fault)
    have htile := (hframe.tile t.val).trans (State.setTile_self _ _ _)
    refine ⟨_, hend, ?store, ?record, s.failedBlock_checksum _ _ _ hlt, hframe.of_setTile⟩
    all_goals rw [htile]
    case store => rfl
    case record => simp [State.failedTile, State.closeBody, State.closeCode_checksumFault, State.blockEnd]
  case passes =>
    intro s t f fault hx hf hgo hpass
    have hend := (execOutputBlockEnd_single s t f fault hx hf hgo).trans (if_neg (Bool.eq_false_iff.1 hpass))
    have hframe := s.passedBlock_frame t.val f (s.blockEnd t.val f fault)
    have htile := (hframe.tile t.val).trans (State.setTile_self _ _ _)
    refine ⟨_, hend, ?store, ?block, ?record, hframe.of_setTile⟩
    all_goals rw [htile]
    case store => rfl
    case block => rfl
    case record => exact s.passedTile_status _ _ _

/-! A record on its way to the issuer (R62), and the events of a page (R510). -/

/-- u is s but for event registers, pending vectors and what has left. -/
def State.EventFrame (s u : State) : Prop :=
  u = { s with regs := { s.regs with evtRaw := u.regs.evtRaw, evtPend := u.regs.evtPend, pba := u.regs.pba }, out := u.out }

theorem State.EventFrame.refl (s : State) : s.EventFrame s := rfl

theorem State.EventFrame.trans {s u v : State} (h : s.EventFrame u) (h' : u.EventFrame v) : s.EventFrame v :=
  Eq.trans h' (congrArg (fun w : State =>
    { w with regs := { w.regs with evtRaw := v.regs.evtRaw, evtPend := v.regs.evtPend, pba := v.regs.pba }, out := v.out }) h)

/-- A tile written again where events have occurred. -/
theorem State.EventFrame.setTile {s u : State} {t : Nat} {x : Tile} (h : (s.setTile t x).EventFrame u) (y : Tile) :
    (s.setTile t y).EventFrame (u.setTile t y) := by
  have hset : ((s.setTile t x).setTile t y).EventFrame (u.setTile t y) := congrArg (fun w : State => w.setTile t y) h
  rwa [State.setTile_setTile] at hset

theorem State.EventFrame.tile {s u : State} (h : s.EventFrame u) (t : Nat) : u.tile t = s.tile t := by rw [h]; rfl
theorem State.EventFrame.lane {s u : State} (h : s.EventFrame u) (l : Nat) : u.lane l = s.lane l := by rw [h]; rfl

/-- An event of any page clears no bit of EVT_PEND. -/
theorem State.evtBar0_keeps (s : State) (p q : Page) (raw pulse : Word) (i : Nat) (h : bitOf (s.evtPend q) i = true) :
    bitOf ((s.evtBar0 p raw pulse).evtPend q) i = true := by
  by_cases hkey : pageKey q = pageKey p
  · have hpend : (s.evtBar0 p raw pulse).evtPend q = s.evtPend q ||| raw ||| pulse := by
      have hp := s.evtBar0_pend p raw pulse
      simp only [State.evtPend, ← hkey] at hp
      exact hp
    rw [hpend]
    simp only [bitOf] at h
    simp [bitOf, h]
  · have hpend : (s.evtBar0 p raw pulse).evtPend q = s.evtPend q := by
      simp only [State.evtBar0]
      split
      · rw [State.notifyBar0_frame]
        exact Table.get_set_ne hkey _ _ _
      · exact Table.get_set_ne hkey _ _ _
    rw [hpend, h]

/-- Nor does OVER. -/
theorem State.overCheck_keeps (s : State) (d : Nat) (q : Page) (i : Nat) (h : bitOf (s.evtPend q) i = true) :
    bitOf ((s.overCheck d).evtPend q) i = true := by
  simp only [State.overCheck]
  split
  · exact h
  · exact State.evtBar0_keeps _ _ _ _ _ _ h

/-- A pulse of event 0 stands in EVT_PEND. -/
theorem State.pulse_pend_zero (s : State) (p : Page) : bitOf ((s.pulse p 0).evtPend p) 0 = true := by
  rw [State.pulse, State.evtBar0_pend]
  simp [bitOf]

/-! The run of checksum faults (R71). -/

/-- The flight is of an array command that executed. -/
def Flight.counts (f : Flight) : Bool := f.ran && (f.op = .matmul || f.op = .conv || f.op = .dft)

/-- The run of checksum faults after a record. -/
def Tile.nextRun (x : Tile) (b : RecBody) : Nat := if b.status = .checksumFault then x.faultRun + 1 else 0

/-- The tile after the record b of flight f: a second CHECKSUM_FAULT in a row makes it suspect. -/
def Tile.afterRecord (x : Tile) (f : Flight) (b : RecBody) : Tile :=
  { x with
    faultRun := if f.counts then x.nextRun b else x.faultRun
    suspect := x.suspect || (f.counts && 2 ≤ x.nextRun b)
    testPass := x.testPass && !(f.counts && 2 ≤ x.nextRun b && !x.suspect) }

theorem Tile.afterRecord_uncounted (x : Tile) (f : Flight) (b : RecBody) (h : f.counts = false) : x.afterRecord f b = x := by
  simp [Tile.afterRecord, h]

theorem Tile.afterRecord_trips (x : Tile) (f : Flight) (b : RecBody) (hcounts : f.counts = true) (hrun : 2 ≤ x.nextRun b)
    (hsus : x.suspect = false) :
    x.afterRecord f b = { x with faultRun := x.nextRun b, suspect := true, testPass := false } := by
  simp [Tile.afterRecord, hcounts, hrun, hsus]

theorem Tile.afterRecord_runs (x : Tile) (f : Flight) (b : RecBody) (hcounts : f.counts = true)
    (hno : ¬(2 ≤ x.nextRun b ∧ x.suspect = false)) : x.afterRecord f b = { x with faultRun := x.nextRun b } := by
  cases hsus : x.suspect
  · have hrun : ¬ 2 ≤ x.nextRun b := fun h => hno ⟨h, hsus⟩
    simp [Tile.afterRecord, hcounts, hrun, hsus]
  · simp [Tile.afterRecord, hcounts, hsus]

/-- A run reaches 2 exactly on a CHECKSUM_FAULT after another. -/
theorem Tile.two_le_nextRun (x : Tile) (b : RecBody) : 2 ≤ x.nextRun b ↔ b.status = .checksumFault ∧ 1 ≤ x.faultRun := by
  unfold Tile.nextRun
  split
  · rename_i h
    simp [h]
  · rename_i h
    simp [h]

theorem State.faultRunAfter_uncounted (s : State) (t : Nat) (f : Flight) (b : RecBody) (h : f.counts = false) :
    s.faultRunAfter t f b = s :=
  if_neg (Bool.eq_false_iff.1 h)

/-- The record of an array command that executed: SUSPECT rises with its event, or the run of faults goes on. -/
theorem State.faultRunAfter_counted (s : State) (t : Nat) (f : Flight) (b : RecBody) (h : f.counts = true) :
    s.faultRunAfter t f b =
      if 2 ≤ (s.tile t).nextRun b ∧ (s.tile t).suspect = false then
        ((s.setTile t ((s.tile t).afterRecord f b)).level (pgTile t) 1 true).overCheck (t / 256)
      else s.setTile t ((s.tile t).afterRecord f b) := by
  by_cases htrips : 2 ≤ (s.tile t).nextRun b ∧ (s.tile t).suspect = false
  · rw [if_pos htrips, Tile.afterRecord_trips _ f b h htrips.1 htrips.2]
    refine (if_pos h).trans ((if_pos ?_).trans ?_)
    · rw [State.updTile_eq, State.setTile_self]
      simpa [Tile.nextRun] using htrips
    · rw [State.updTile_eq, State.updTile_eq, State.setTile_self, State.setTile_setTile]
      rfl
  · rw [if_neg htrips, Tile.afterRecord_runs _ f b h htrips]
    refine (if_pos h).trans ((if_neg ?_).trans rfl)
    rw [State.updTile_eq, State.setTile_self]
    simpa [Tile.nextRun] using htrips

/-- The run of faults and SUSPECT after a record, and the events that go with SUSPECT. -/
theorem State.EventFrame.faultRunAfter {s u : State} {t : Nat} {x : Tile} (h : (s.setTile t x).EventFrame u) (f : Flight) (b : RecBody) :
    (s.setTile t (x.afterRecord f b)).EventFrame (u.faultRunAfter t f b) := by
  have htile : u.tile t = x := (h.tile t).trans (State.setTile_self _ _ _)
  cases hcounts : f.counts with
  | false =>
    rw [x.afterRecord_uncounted f b hcounts, u.faultRunAfter_uncounted t f b hcounts]
    exact h
  | true =>
    rw [u.faultRunAfter_counted t f b hcounts, htile]
    split
    · exact (h.setTile _).trans (.trans (State.level_frame _ _ _ _) (State.overCheck_frame _ _))
    · exact h.setTile _

/-- Any status but CHECKSUM_FAULT comes with no event. -/
theorem State.faultRunAfter_passed (s : State) (t : Nat) (x : Tile) (f : Flight) (b : RecBody) (h : b.status ≠ .checksumFault) :
    (s.setTile t x).faultRunAfter t f b = s.setTile t (x.afterRecord f b) := by
  cases hcounts : f.counts with
  | false => rw [x.afterRecord_uncounted f b hcounts, State.faultRunAfter_uncounted _ t f b hcounts]
  | true =>
    have hno : ¬(2 ≤ x.nextRun b ∧ x.suspect = false) := fun hr => h ((x.two_le_nextRun b).1 hr.1).1
    rw [State.faultRunAfter_counted _ t f b hcounts, State.setTile_self, if_neg hno, State.setTile_setTile]

/-- The run of faults clears no bit of EVT_PEND. -/
theorem State.faultRunAfter_keeps (s : State) (t : Nat) (f : Flight) (b : RecBody) (q : Page) (i : Nat)
    (h : bitOf (s.evtPend q) i = true) : bitOf ((s.faultRunAfter t f b).evtPend q) i = true := by
  cases hcounts : f.counts with
  | false => rwa [s.faultRunAfter_uncounted t f b hcounts]
  | true =>
    rw [s.faultRunAfter_counted t f b hcounts]
    split
    · exact State.overCheck_keeps _ _ _ _ (State.evtBar0_keeps _ _ _ _ _ _ h)
    · exact h

/-! TILE_RECORD_POST (R62, R71). -/

/-- A record on its way leaves every tile. -/
theorem State.deliver_setTile (s : State) (t : Nat) (x : Tile) (who : Issuer) (r : List Word) :
    (s.setTile t x).deliver who r = (s.deliver who r).setTile t x := by
  cases who <;> rfl

/-- The completion event, where EVT asks for it (R63). -/
def State.evtAsked (s : State) (t : Nat) (f : Flight) : State :=
  if bitOf (wAt f.cmd.words 0) 26 then s.pulse (pgTile t) 0 else s

theorem State.evtAsked_frame (s : State) (t : Nat) (f : Flight) : s.EventFrame (s.evtAsked t f) := by
  unfold State.evtAsked
  split
  · exact State.pulse_frame _ _ _
  · exact .refl s

/-- The oldest flight of a tile that is not stopped posts its record, in time. -/
theorem execTileRecordPost_posts (s : State) (t : TileId) (f : Flight) (rest : List Flight) (b : RecBody)
    (hx : (s.tile t.val).flights = f :: rest) (hdone : f.done = some b)
    (hgo : (s.tile t.val).held = false ∧ (s.tile t.val).scrub = false ∧ (s.tile t.val).saving = false) (hlate : b.late = false) :
    execTileRecordPost t s = .next
      ((((s.deliver f.cmd.issuer (recordWords (cmdTag f.cmd.words) b)).setTile t.val
        { s.tile t.val with flights := rest }).evtAsked t.val f).faultRunAfter t.val f b) := by
  rw [← State.deliver_setTile]
  simp only [execTileRecordPost, Tile.not_stopped hgo, hx, hdone, hlate]
  rfl

/-- What the post leaves: the tile after the record, where the record has been delivered, but for events. -/
theorem execTileRecordPost_frame (s : State) (t : TileId) (f : Flight) (rest : List Flight) (b : RecBody)
    (hx : (s.tile t.val).flights = f :: rest) (hdone : f.done = some b)
    (hgo : (s.tile t.val).held = false ∧ (s.tile t.val).scrub = false ∧ (s.tile t.val).saving = false) (hlate : b.late = false) :
    ∃ u, execTileRecordPost t s = .next u ∧
      ((s.deliver f.cmd.issuer (recordWords (cmdTag f.cmd.words) b)).setTile t.val
        ({ s.tile t.val with flights := rest }.afterRecord f b)).EventFrame u ∧
      (bitOf (wAt f.cmd.words 0) 26 = true → bitOf (u.evtPend (pgTile t.val)) 0 = true) := by
  refine ⟨_, execTileRecordPost_posts s t f rest b hx hdone hgo hlate, (State.evtAsked_frame _ _ _).faultRunAfter f b, fun hevt => ?_⟩
  refine State.faultRunAfter_keeps _ _ _ _ _ _ ?_
  rw [State.evtAsked, if_pos hevt]
  exact State.pulse_pend_zero _ _

/-- Settles O11: the record is delivered and the flight gone, then come the completion event and the run of faults. -/
theorem tileRecordIsPosted : Obligations.TileRecordIsPosted := by
  refine ⟨?lane, ?seq⟩
  case lane =>
    intro s t f rest b l c hx hdone hwho hgo hlate
    obtain ⟨u, hu, hframe, hevt⟩ := execTileRecordPost_frame s t f rest b hx hdone hgo hlate
    rw [hwho] at hframe
    have htile := (hframe.tile t.val).trans (State.setTile_self _ _ _)
    have hlane : u.lane l.val = _ := (hframe.lane l.val).trans (State.setLane_self _ _ _)
    refine ⟨u, hu, ?arriving, ?flights, ?kept, hevt, ?run, ?suspect, ?frame⟩
    case arriving => simp [State.lctx, hlane, Lane.ctx, Lane.setCtx]
    case frame =>
      rw [htile, hlane]
      exact hframe
    all_goals rw [htile]
    case flights => rfl
    case kept => exact ⟨rfl, rfl⟩
    case run =>
      intro hran hop
      have hcounts : f.counts = true := by simpa [Flight.counts, hran, or_assoc] using hop
      exact if_pos hcounts
    case suspect =>
      simp only [Tile.afterRecord, Tile.two_le_nextRun]
      simp [Flight.counts, Bool.and_assoc]
  case seq =>
    intro s t f rest b g k hx hdone hwho hgo hok hlate hevt
    have hpost := execTileRecordPost_posts s t f rest b hx hdone hgo hlate
    rw [State.evtAsked, if_neg (Bool.eq_false_iff.1 hevt), State.faultRunAfter_passed _ _ _ _ _ (by simp [hok]), hwho] at hpost
    have hctx : ((s.deliver (.seq g k) (recordWords (cmdTag f.cmd.words) b)).setTile t.val
        ({ s.tile t.val with flights := rest }.afterRecord f b)).ctx k = _ := State.setCtx_self s k _
    refine ⟨_, hpost, ?recs, ?flights, ?frame⟩
    case recs => rw [hctx]
    case flights => rw [State.setTile_self]; rfl
    case frame => rw [hctx, State.setTile_self]; rfl

/-! A host write to TILE_CTRL (R26, R435, R515; log entries 3 and 112). -/

/-- The effect of a host write to TILE_CTRL takes no free value. -/
theorem hostTileCtrlHostWrite_fresh (t : TileId) (v : Word) (s : State) :
    ∃ u, hostTileCtrlHostWrite t v s = .next u ∧ u.fresh = s.fresh :=
  ⟨_, rfl, State.bump_fresh _ _ _ _⟩

/-- Refutes O12: with check unit 0 on the CXL port, a host write of PREQ and RESUME also feeds the unit and takes a free value. -/
theorem not_tilePreemptionAndScrub : ¬ Obligations.TilePreemptionAndScrub := by
  rintro ⟨-, -, -, -, -, -, -, -, -, -, hwrite⟩
  obtain ⟨u, hexec, -, hframe⟩ := hwrite snoopingState 512 3 (by decide) snoopingState_recMode (by decide)
  have hfresh := hostWrite_snooped_fresh (p := pgTile 512) (off := 0x010) (v := 3) (hostTileCtrlHostWrite_fresh 512 3) hexec
  rw [hframe] at hfresh
  exact absurd hfresh (Nat.succ_ne_self _).symm

end Sys2Proof.Machine
end

section
/-! PROOFS. The sort deck (O20): the command that a free context takes, and the command that has had its clocks. -/

namespace Sys2Proof.Machine
open Sys2Proof

/-! A grant and the write of a unit (R313). -/

@[simp] theorem State.takeGrant_grove (s : State) (d pt g : Nat) : (s.takeGrant d pt).grove g = s.grove g := by
  rw [s.takeGrant_frame d pt]; rfl

/-- What a grant takes does not depend on the groves. -/
theorem State.takeGrant_setGrove (s : State) (d pt g : Nat) (x : Grove) :
    (s.takeGrant d pt).setGrove g x = (s.setGrove g x).takeGrant d pt :=
  apply_ite (State.setGrove · g x) _ _ _

/-- Nor on the request contexts. -/
theorem State.takeGrant_setCtx (s : State) (d pt k : Nat) (x : ReqCtx) :
    (s.takeGrant d pt).setCtx k x = (s.setCtx k x).takeGrant d pt :=
  apply_ite (State.setCtx · k x) _ _ _

/-- A request context written leaves the groves. -/
theorem State.setCtx_grove (s : State) (k g : Nat) (x : ReqCtx) : (s.setCtx k x).grove g = s.grove g := rfl

/-! The record of a deck command that closes in time (R108, R244). -/

/-- The body of that record. -/
def State.deckBody (s : State) (code : Code) (nan : Bool) (ac : Nat) : RecBody :=
  { status := code, flags := { nanSeen := nan }, ckM := 0x7FFFF, ckN := 0xFFFF, ac := ac, endNs := s.now32, late := false }

/-- The request context that a deck command serves, with one more record. -/
def State.deckServed (s : State) (c : DeckCmd) (b : RecBody) : ReqCtx :=
  { s.ctx c.ctx with recs := (s.ctx c.ctx).recs ++ [recordWords (cmdTag c.words) b] }

/-- Before its deadline a command's record goes to its request context, and no miss is counted. -/
theorem State.deckRecord_inTime (s : State) (g : Nat) (c : DeckCmd) (code : Code) (nan : Bool) (ac : Nat)
    (htime : s.pastTag (cmdDeadline c.words) = false) :
    s.deckRecord g c code nan ac = s.setCtx c.ctx (s.deckServed c (s.deckBody code nan ac)) := by
  have hbody : s.closeBody c.words code { nanSeen := nan } 0x7FFFF 0xFFFF ac = s.deckBody code nan ac := by
    simp [State.closeBody, State.closeCode, State.deckBody, htime]
  simp only [State.deckRecord, hbody]
  rfl

/-! A command that leaves the wait list (R105, R109). -/

/-- The words pass the checks of R105, and the command's domain holds the tiles. -/
def State.deckLegal (s : State) (g : Nat) (c : DeckCmd) : Bool :=
  deckOk (decodeDeck c.words) c.words
    && (((decodeDeck c.words).stile :: (decodeDeck c.words).dests).map (groveTile g)).all (fun t => s.tileHeldBy t c.domain)

/-- Entry i of the wait list, command c, is granted: it has left the list, and its domain has paid. -/
def State.deckGranted (s : State) (g i : Nat) (c : DeckCmd) : State :=
  (s.setGrove g { s.grove g with deckWait := (s.grove g).deckWait.eraseIdx i }).takeGrant c.domain (deckPoint g)

theorem State.deckGranted_frame (s : State) (g i : Nat) (c : DeckCmd) :
    s.deckGranted g i c = { s with groves := (s.deckGranted g i c).groves, shape := (s.deckGranted g i c).shape } := by
  rw [State.deckGranted, State.takeGrant_frame]; rfl

/-- The record that a granted command ends with in time. -/
theorem State.deckGranted_record (s : State) (g i : Nat) (c : DeckCmd) (code : Code) (nan : Bool) (ac : Nat)
    (htime : s.pastTag (cmdDeadline c.words) = false) :
    (s.deckGranted g i c).deckRecord g c code nan ac =
      ((s.setGrove g { s.grove g with deckWait := (s.grove g).deckWait.eraseIdx i }).setCtx c.ctx
        (s.deckServed c (s.deckBody code nan ac))).takeGrant c.domain (deckPoint g) := by
  have hpast : (s.deckGranted g i c).pastTag (cmdDeadline c.words) = s.pastTag (cmdDeadline c.words) := by
    rw [s.deckGranted_frame g i c]; rfl
  have hserved : (s.deckGranted g i c).deckServed c ((s.deckGranted g i c).deckBody code nan ac) =
      s.deckServed c (s.deckBody code nan ac) := by
    rw [s.deckGranted_frame g i c]; rfl
  rw [State.deckRecord_inTime _ _ _ _ _ _ (hpast.trans htime), hserved, State.deckGranted, State.takeGrant_setCtx]

section Command

variable (s : State) (g : GroveId) {i : Nat} {c : DeckCmd} (hparked : (s.grove g.val).parked = false)
  (hfree : (s.grove g.val).deck0 = none ∨ (s.grove g.val).deck1 = none)
  (hnear : s.nearest (deckPoint g.val) (s.grove g.val).deckWait = some i) (hc : (s.grove g.val).deckWait[i]? = some c)
include hparked hfree hnear hc

/-- A granted command is refused, completes with EMPTY, or occupies a free context. -/
theorem execSortDeckCommand_grants :
    execSortDeckCommand g s =
      if s.deckLegal g.val c = false then .next ((s.deckGranted g.val i c).deckRecord g.val c .configInvalid false 0)
      else if (decodeDeck c.words).t = 0 then .next ((s.deckGranted g.val i c).deckRecord g.val c .empty false 0)
      else .next ((s.deckGranted g.val i c).updGrove g.val
        (fun w => if w.deck0.isNone then { w with deck0 := some c } else { w with deck1 := some c })) := by
  have hopen : ((s.grove g.val).parked || ((s.grove g.val).deck0.isSome && (s.grove g.val).deck1.isSome)) = false := by
    rcases hfree with h | h <;> simp [hparked, h]
  simp only [execSortDeckCommand, hopen, hnear, hc, ← Bool.not_and, Bool.not_eq_true', Bool.false_eq_true, if_false]
  rfl

/-- One that does not run ends in time with its record, whose ACTIVE_AC is 0 (log entry 102). -/
theorem execSortDeckCommand_ends (hends : s.deckLegal g.val c = false ∨ (decodeDeck c.words).t = 0)
    (htime : s.pastTag (cmdDeadline c.words) = false) :
    execSortDeckCommand g s = .next (((s.setGrove g.val
      { s.grove g.val with deckWait := (s.grove g.val).deckWait.eraseIdx i }).setCtx c.ctx
        (s.deckServed c (s.deckBody (if s.deckLegal g.val c then .empty else .configInvalid) false 0))).takeGrant c.domain
          (deckPoint g.val)) := by
  rw [execSortDeckCommand_grants s g hparked hfree hnear hc]
  cases hlegal : s.deckLegal g.val c with
  | false => simp [s.deckGranted_record g.val i c _ _ _ htime]
  | true =>
    have ht : (decodeDeck c.words).t = 0 := hends.resolve_left (by simp [hlegal])
    simp [ht, s.deckGranted_record g.val i c _ _ _ htime]

/-- One that runs leaves the wait list for the first free context. -/
theorem execSortDeckCommand_runs (hlegal : s.deckLegal g.val c = true) (ht : (decodeDeck c.words).t ≠ 0) :
    execSortDeckCommand g s = .next ((s.setGrove g.val (
      if (s.grove g.val).deck0.isNone then
        { s.grove g.val with deckWait := (s.grove g.val).deckWait.eraseIdx i, deck0 := some c }
      else { s.grove g.val with deckWait := (s.grove g.val).deckWait.eraseIdx i, deck1 := some c })).takeGrant c.domain
        (deckPoint g.val)) := by
  rw [execSortDeckCommand_grants s g hparked hfree hnear hc]
  simp [hlegal, ht, State.deckGranted, State.updGrove_eq, State.takeGrant_setGrove]

end Command

/-! A command that has had its clocks (R106 to R109). -/

theorem groveTile_ne (g : Nat) {i j : Nat} (h : i ≠ j) : groveTile g i ≠ groveTile g j :=
  fun heq => h (Nat.add_left_cancel heq)

theorem Deck.dests_nodup (d : Deck) : d.dests.Nodup := List.nodup_range.filter _

/-- One function applied to the listed tiles of a grove. -/
def State.updTiles (s : State) (g : Nat) (is : List Nat) (f : Tile → Tile) : State :=
  foldS is (fun i u => u.updTile (groveTile g i) f) s

/-- It changes tiles and nothing else. -/
theorem State.updTiles_frame (s : State) (g : Nat) (is : List Nat) (f : Tile → Tile) :
    s.updTiles g is f = { s with tiles := (s.updTiles g is f).tiles } :=
  foldS_keeps (P := fun u : State => u = { s with tiles := u.tiles }) (f := fun i u => u.updTile (groveTile g i) f) is
    (fun i _ u hu => congrArg (fun v : State => { v with tiles := (u.updTile (groveTile g i) f).tiles }) hu) rfl

/-- A tile that is not listed is as before. -/
theorem State.updTiles_tile_ne (s : State) {g t : Nat} {is : List Nat} (f : Tile → Tile) (h : ∀ i ∈ is, t ≠ groveTile g i) :
    (s.updTiles g is f).tile t = s.tile t :=
  foldS_keeps (P := fun u : State => u.tile t = s.tile t) (f := fun i u => u.updTile (groveTile g i) f) is
    (fun i hi u hu => (u.setTile_ne _ _ _ (h i hi)).trans hu) rfl

/-- A listed tile, which the list holds once, has had the function applied. -/
theorem State.updTiles_tile_mem (s : State) (g : Nat) {is : List Nat} (f : Tile → Tile) (hnodup : is.Nodup) {i : Nat} (hi : i ∈ is) :
    (s.updTiles g is f).tile (groveTile g i) = f (s.tile (groveTile g i)) := by
  induction is generalizing s with
  | nil => cases hi
  | cons j is ih =>
    obtain ⟨hj, hrest⟩ := List.nodup_cons.1 hnodup
    have hstep : s.updTiles g (j :: is) f = (s.updTile (groveTile g j) f).updTiles g is f := rfl
    rw [hstep]
    rcases List.mem_cons.1 hi with rfl | hmem
    · rw [State.updTiles_tile_ne _ f (fun k hk => groveTile_ne g (ne_of_mem_of_not_mem hk hj).symm), State.updTile_eq,
        State.setTile_self]
    · rw [ih _ hrest hmem, State.updTile_eq, State.setTile_ne _ _ _ _ (groveTile_ne g (ne_of_mem_of_not_mem hmem hj))]

/-- The destination tiles of a command with its output written at BBASE. -/
def State.deckWritten (s : State) (g : Nat) (d : Deck) (bs : List Byte) : State :=
  s.updTiles g d.dests (fun x => { x with store := Memory.writeN d.bbase bs x.store })

theorem State.deckWritten_frame (s : State) (g : Nat) (d : Deck) (bs : List Byte) :
    s.deckWritten g d bs = { s with tiles := (s.deckWritten g d bs).tiles } :=
  s.updTiles_frame _ _ _

/-- A grove with one context of its deck free again. -/
def Grove.freed (v : Grove) (second : Bool) : Grove := if second then { v with deck1 := none } else { v with deck0 := none }

section Complete

variable (s : State) (g : GroveId) (second : Bool) {c : DeckCmd}
  (hdeck : (if second then (s.grove g.val).deck1 else (s.grove g.val).deck0) = some c)
include hdeck

/-- Before its clocks have been granted to it, a command goes on. -/
theorem execSortDeckComplete_early (hspent : c.spent < (decodeDeck c.words).ac) : execSortDeckComplete g second s = .next s := by
  simp [execSortDeckComplete, hdeck, hspent]

/-- Then, with no tile of it stopped, it writes its output, frees its context and in time posts its record. -/
theorem execSortDeckComplete_ends {r : Placed × List Byte} (hparked : (s.grove g.val).parked = false)
    (hgo : s.deckWaits g.val (decodeDeck c.words) = false)
    (hr : r = deckRun (decodeDeck c.words) (s.tile (groveTile g.val (decodeDeck c.words).stile)).store)
    (hspent : (decodeDeck c.words).ac ≤ c.spent) (htime : s.pastTag (cmdDeadline c.words) = false) :
    execSortDeckComplete g second s = .next (((s.deckWritten g.val (decodeDeck c.words) r.2).setGrove g.val
      ((s.grove g.val).freed second)).setCtx c.ctx
        (s.deckServed c (s.deckBody (if r.1.drops = 0 then .ok else .overflow) (r.1.nans ≠ 0) (decodeDeck c.words).ac))) := by
  have hready : ((s.grove g.val).parked || decide (c.spent < (decodeDeck c.words).ac) || s.deckWaits g.val (decodeDeck c.words)) = false := by
    simp [hparked, hgo, hspent]
  have hexec : execSortDeckComplete g second s = .next (((s.deckWritten g.val (decodeDeck c.words) r.2).updGrove g.val
      (Grove.freed · second)).deckRecord g.val c (if r.1.drops = 0 then .ok else .overflow) (r.1.nans ≠ 0) (decodeDeck c.words).ac) := by
    simp only [execSortDeckComplete, hdeck, hready, Bool.false_eq_true, if_false, ← hr]
    rfl
  have hlate : ((s.deckWritten g.val (decodeDeck c.words) r.2).updGrove g.val (Grove.freed · second)).pastTag
      (cmdDeadline c.words) = false := by
    rw [s.deckWritten_frame]; exact htime
  rw [hexec, State.deckRecord_inTime _ _ _ _ _ _ hlate, s.deckWritten_frame]
  rfl

end Complete

/-- Settles O20: the wait list's command is granted and checked, and one that has had its clocks writes each destination once. That the
record of a command that does not run carries ACTIVE_AC 0 is the model's choice (log entry 102). -/
theorem sortDeckRunsACommand : Obligations.SortDeckRunsACommand := by
  refine ⟨?runs, ?ends, ?completes, ?early⟩
  case runs =>
    intro s g i c hparked hfree hnear hc hok hheld ht
    exact execSortDeckCommand_runs s g hparked hfree hnear hc (Bool.and_eq_true_iff.2 ⟨hok, hheld⟩) ht
  case ends =>
    intro s g i c hparked hfree hnear hc hends htime
    refine execSortDeckCommand_ends s g hparked hfree hnear hc ?_ htime
    rcases hends with hok | ht | hheld
    · exact .inl (Bool.and_eq_false_imp.2 fun h => absurd h (by simp [hok]))
    · exact .inr ht
    · exact .inl (Bool.and_eq_false_imp.2 fun _ => hheld)
  case completes =>
    intro s g second c r hdeck hparked hgo hr hspent htime
    refine ⟨_, execSortDeckComplete_ends s g second hdeck hparked hgo hr hspent htime, ?written, ?others, ?freed, ?frame⟩
    case written =>
      intro i hi
      exact congrArg Tile.store (s.updTiles_tile_mem g.val _ (Deck.dests_nodup _) hi)
    case others => exact fun t ht => s.updTiles_tile_ne _ ht
    case freed => exact State.setGrove_self _ _ _
    case frame =>
      rw [State.setCtx_grove, State.setGrove_self, s.deckWritten_frame]
      rfl
  case early =>
    intro s g second c hdeck hspent
    exact execSortDeckComplete_early s g second hdeck hspent

end Sys2Proof.Machine
end

section
/-! PROOFS. Cells and slots (O23 to O30, O36): what a flit of the CXL port leaves alone, a manager's writes to the coordinator and to the
map page, slot messages and their deadline, the indications of a dropped slot, downlink symbols. -/

namespace Sys2Proof.Machine
open Sys2Proof

/-! A flit of the CXL port reaches check units only (R26, R431 to R434). -/

/-- A held result changes its unit, the unit's event and the messages sent for it. -/
theorem State.chkCompare_frame (s : State) (k r : Nat) (want : Option Nat) :
    s.chkCompare k r want = { s with regs := (s.chkCompare k r want).regs, chks := (s.chkCompare k r want).chks, out := (s.chkCompare k r want).out } := by
  unfold State.chkCompare
  extract_lets x bad s1
  split
  · rw [State.pulse_frame]; rfl
  · rfl

/-- A frame that passes a unit changes check units, registers and messages. -/
theorem State.chkFeed_frame (s : State) (k : Nat) (raw : List Byte) :
    s.chkFeed k raw = { s with regs := (s.chkFeed k raw).regs, chks := (s.chkFeed k raw).chks, out := (s.chkFeed k raw).out } := by
  have count (x : ChkSt) : ((s.setChk k x).bump (pgChk k) 1 1) = { s with regs := ((s.setChk k x).bump (pgChk k) 1 1).regs, chks := (s.setChk k x).chks } := by
    rw [State.bump_frame]; rfl
  unfold State.chkFeed
  extract_lets p cfg w body off len stop span short x s0 poly y r n tail
  have hs0 : s0 = { s with regs := s0.regs, chks := s0.chks } := by
    simp only [s0]; split
    · exact count _
    · rfl
  split
  · rw [hs0]; rfl
  · rw [State.chkCompare_frame, hs0]

/-- So does a frame that passes every unit of a die. -/
theorem State.chkSource_frame (s : State) (die src : Nat) (egress : Bool) (id : Option Nat) (raw : List Byte) :
    s.chkSource die src egress id raw = { s with
      regs := (s.chkSource die src egress id raw).regs
      chks := (s.chkSource die src egress id raw).chks
      out := (s.chkSource die src egress id raw).out } := by
  refine foldS_keeps (P := fun t : State => t = { s with regs := t.regs, chks := t.chks, out := t.out }) _ (fun k _ t ht => ?_) rfl
  split
  · rw [State.chkFeed_frame, ht]
  · exact ht

/-- A flit of the CXL port changes check units, registers, messages and the counter of free values. -/
theorem State.chkCxl_frame (s : State) (egress : Bool) :
    s.chkCxl egress = { s with
      fresh := (s.chkCxl egress).fresh, regs := (s.chkCxl egress).regs, chks := (s.chkCxl egress).chks, out := (s.chkCxl egress).out } := by
  simp only [State.chkCxl, State.chkFree]
  split
  · rw [State.chkSource_frame]; rfl
  · rfl

@[simp] theorem State.chkCxl_coord (s : State) (egress : Bool) : (s.chkCxl egress).coord = s.coord := by rw [State.chkCxl_frame]
@[simp] theorem State.chkCxl_cell (s : State) (egress : Bool) (c : Nat) : (s.chkCxl egress).cell c = s.cell c := by
  rw [State.chkCxl_frame]; rfl

/-- A write whose effect on the state that its flit leaves takes no free value: where the flit is snooped, it took one. -/
theorem State.hostWrite_fresh {s u : State} {p : Page} {off : Nat} {v : Word} {k : State → Ans} (hrun : s.running = true)
    (hrec : s.recMode = 0) (hsnoop : s.snoopsCxl = true) (hk : ∃ t, k (s.chkCxl false) = .next t ∧ t.fresh = (s.chkCxl false).fresh)
    (h : s.hostWrite p off v k = .next u) : u.fresh = s.fresh + 1 := by
  obtain ⟨t, ht, hfresh⟩ := hk
  rw [State.hostWrite_off _ _ _ _ _ hrun hrec, ht] at h
  cases h
  exact hfresh.trans (State.chkCxl_fresh _ hsnoop)

/-! Admission and removal (R159, R164). -/

theorem State.admDone_fresh (s : State) (c : Code) (sfn : Option Nat) : (s.admDone c sfn).fresh = s.fresh := rfl

/-- An ADMIT while BUSY is ignored and counted. -/
theorem hostAdmit_busy (s : State) (v : Word) (hop : fld v 1 0 = 1) (hbusy : s.coord.busy = true) : hostAdmit v s = .next s.admIgnored := by
  simp [hostAdmit, hop, hbusy]

/-- A REMOVE of a cell that is FREE is refused. -/
theorem hostRemove_free (s : State) (v : Word) (hop : fld v 1 0 = 2) (hbusy : s.coord.busy = false)
    (hfree : (s.cell (fld v 12 4)).phase = .free) : hostRemove v s = .next (s.admDone .configInvalid none) := by
  simp [hostRemove, hop, hbusy, hfree]

/-- The snooping state while the checks of an ADMIT run. -/
def busySnoopingState : State := { snoopingState with coord := { snoopingState.coord with busy := true } }

/-- Refutes O23: with check unit 0 on the CXL port, an ADMIT while BUSY is not only counted: it also feeds the unit and takes a free value. -/
theorem not_cellAdmission : ¬ Obligations.CellAdmission := by
  rintro ⟨-, hignored, -⟩
  have hexec := hignored busySnoopingState 1 (by decide) (by decide) (by decide) rfl (by decide)
  have hbusy : (busySnoopingState.chkCxl false).coord.busy = true := by rw [State.chkCxl_coord]; rfl
  have hfresh := State.hostWrite_fresh (p := pgSds 4) (off := 0x014) (v := 1) (k := hostAdmit 1) (by decide) (by decide) (by decide)
    ⟨_, hostAdmit_busy _ 1 (by decide) hbusy, State.bump_fresh _ _ _ _⟩ hexec
  exact absurd hfresh (Nat.succ_ne_self _).symm

/-- Refutes O24: with check unit 0 on the CXL port, a REMOVE of a FREE cell also feeds the unit and takes a free value. -/
theorem not_cellRemoval : ¬ Obligations.CellRemoval := by
  rintro ⟨-, -, hrefused, -⟩
  have hexec := hrefused snoopingState 2 (by decide) snoopingState_recMode (by decide) (by decide) (by decide)
  have hbusy : (snoopingState.chkCxl false).coord.busy = false := by rw [State.chkCxl_coord]; rfl
  have hfree : ((snoopingState.chkCxl false).cell (fld (2 : Word) 12 4)).phase = .free := by rw [State.chkCxl_cell]; rfl
  have hfresh := State.hostWrite_fresh (p := pgSds 4) (off := 0x014) (v := 2) (k := hostRemove 2) snoopingState_running
    snoopingState_recMode snoopingState_snoops ⟨_, hostRemove_free _ 2 (by decide) hbusy hfree, State.admDone_fresh _ _ _⟩ hexec
  exact absurd hfresh (Nat.succ_ne_self _).symm

/-! The map's address (R309). -/

/-- The effect of a write of FBK_MAPADDR takes no free value. -/
theorem hostFbkMapaddrWrite_fresh (s : State) (v : Word) : ∃ t, hostFbkMapaddrWrite v s = .next t ∧ t.fresh = s.fresh := ⟨_, rfl, rfl⟩

/-- Refutes O36: with check unit 0 on the CXL port, a write of FBK_MAPADDR also feeds the unit and takes a free value. -/
theorem not_firebreakMapAndCommits : ¬ Obligations.FirebreakMapAndCommits := by
  rintro ⟨hmapaddr, -⟩
  have hexec := hmapaddr snoopingState 0 (by decide) snoopingState_recMode
  have hfresh := State.hostWrite_fresh (p := pgMap) (off := 0x0C0) (v := 0) (k := hostFbkMapaddrWrite 0) snoopingState_running
    snoopingState_recMode snoopingState_snoops (hostFbkMapaddrWrite_fresh _ 0) hexec
  exact absurd hfresh (Nat.succ_ne_self _).symm

/-! Slot messages (R150 to R155, R206). -/

/-- With the recorder off a message of its row's type lands in a running module. -/
theorem State.slotMessage_lands (s : State) (ws : List Word) (type : Nat) (hrun : s.pwr.phase = .running) (hrec : s.recMode = 0)
    (htype : (slotHead ws).type = type) : s.slotMessage type ws = s.landSlot ws := by
  have hfield : fld (wAt ws 0) 7 0 = type := htype
  simp [State.slotMessage, s.running_iff.2 hrun, hfield, State.replayed, hrec]

/-- A message that is not well formed, that its slot does not take, or whose PDUs do not fill it is discarded whole, with one error. -/
theorem State.landSlot_discarded (s : State) (ws : List Word)
    (h : headOk ws = false ∨
      s.msgOk (slotHead ws) (s.slotStart (dMu (s.cell (slotHead ws).cell).desc) (slotHead ws).sfn (slotHead ws).slot) = false ∨
      splitPdus (slotHead ws).seq (slotHead ws).npdu (ws.drop 4) = none) :
    s.landSlot ws = s.errorInd (slotHead ws).cell (s.cell (slotHead ws).cell).desc (slotHead ws).sfn (slotHead ws).slot 0
      (slotHead ws).type .configInvalid (slotHead ws).seq 0 := by
  rcases h with hhead | hmsg | hsplit
  · simp [State.landSlot, hhead]
  · simp [State.landSlot, hmsg]
  · simp [State.landSlot, hsplit]

/-- The slot that a message names, as its cell holds it. -/
def State.msgSlot (s : State) (h : SlotHead) : SlotMsgs :=
  ((s.cell h.cell).slotOf h.sfn h.slot (s.slotStart (dMu (s.cell h.cell).desc) h.sfn h.slot)).getD
    (SlotMsgs.empty h.sfn h.slot (s.slotStart (dMu (s.cell h.cell).desc) h.sfn h.slot))

/-- Of the legal PDUs of a message, those that the slot keeps, and the TBs of a TX_DATA after its DL_CONFIG that no PDSCH PDU waits for. -/
def SlotMsgs.sift (m : SlotMsgs) (type : Nat) (good : List Pdu) : List Pdu × List Pdu :=
  if type = 3 && m.dlSeq.isSome then (good.filter m.wantsTb, good.filter (fun p => !m.wantsTb p)) else (good, [])

/-- UL_CONFIG and DL_CONFIG keep every legal PDU. -/
theorem SlotMsgs.sift_config (m : SlotMsgs) {type : Nat} (h : type ≠ 3) (good : List Pdu) : m.sift type good = (good, []) := by
  simp [SlotMsgs.sift, h]

/-- TX_DATA keeps every TB while its DL_CONFIG has not come, and those that it waits for afterwards. -/
theorem SlotMsgs.sift_txData (m : SlotMsgs) (good : List Pdu) :
    m.sift 3 good = (good.filter (fun p => m.dlSeq.isNone || m.wantsTb p), good.filter (fun p => m.dlSeq.isSome && !m.wantsTb p)) := by
  cases hdl : m.dlSeq with
  | none => simp [SlotMsgs.sift, hdl]
  | some q => simp [SlotMsgs.sift, hdl]

/-- The slot's messages once a message's PDUs are held. -/
def SlotMsgs.hold (h : SlotHead) (keep : List Pdu) (m : SlotMsgs) : SlotMsgs :=
  match h.type with
  | 1 => { m with ulSeq := some h.seq, ul := keep }
  | 2 => { m with dlSeq := some h.seq, dl := keep }
  | _ => { m with tbs := m.tbs ++ keep.map Pdu.withCrc }

theorem SlotMsgs.hold_ul (h : SlotHead) (keep : List Pdu) (htype : h.type = 1) :
    SlotMsgs.hold h keep = fun m => { m with ulSeq := some h.seq, ul := keep } := by
  funext m; simp only [SlotMsgs.hold, htype]

theorem SlotMsgs.hold_dl (h : SlotHead) (keep : List Pdu) (htype : h.type = 2) :
    SlotMsgs.hold h keep = fun m => { m with dlSeq := some h.seq, dl := keep } := by
  funext m; simp only [SlotMsgs.hold, htype]

theorem SlotMsgs.hold_tx (h : SlotHead) (keep : List Pdu) (htype : h.type = 3) :
    SlotMsgs.hold h keep = fun m => { m with tbs := m.tbs ++ keep.map Pdu.withCrc } := by
  funext m; simp only [SlotMsgs.hold, htype]

/-- A message that R152 accepts, with the recorder off and for a cell whose mirror entry is not ARMED: what its slot keeps is held, and
each refused PDU draws an error. -/
theorem State.landSlot_accepted (s : State) (ws : List Word) (ps : List Pdu) (h : SlotHead) (hws : h = slotHead ws) (hrec : s.recMode = 0)
    (hhead : headOk ws = true) (hmsg : s.msgOk h (s.slotStart (dMu (s.cell h.cell).desc) h.sfn h.slot) = true)
    (hsplit : splitPdus h.seq h.npdu (ws.drop 4) = some ps) (hmirror : (s.mirror h.cell).state ≠ .armed) :
    s.landSlot ws = (s.updCell h.cell (fun x => x.updSlot h.sfn h.slot (s.slotStart (dMu (s.cell h.cell).desc) h.sfn h.slot)
        (SlotMsgs.hold h ((s.msgSlot h).sift h.type (judgePdus (s.cell h.cell).desc h.type ps).1).1))).refusePdus h.cell h .configInvalid
      ((judgePdus (s.cell h.cell).desc h.type ps).2 ++ ((s.msgSlot h).sift h.type (judgePdus (s.cell h.cell).desc h.type ps).1).2) := by
  subst hws
  have sent (t : State) (ht : t.recMode = 0) (hm : (t.mirror (slotHead ws).cell).state ≠ .armed) :
      (t.recLog 1 0x02 (l2Src (s.cell (slotHead ws).cell).desc (slotHead ws).cell) (slotHead ws).cell (bytesOf ws)).mirrorOut
        (slotHead ws).cell (.message ws) = t := by
    rw [State.recLog_off _ _ _ _ _ _ ht]; simp [State.mirrorOut, hm]
  simp only [State.landSlot, hhead, hmsg, hsplit, Bool.and_self, if_true]
  exact congrArg (fun t : State => t.refusePdus _ _ _ _) (sent _ hrec hmirror)

/-! The message deadline (R155, R208, R211). -/

/-- Every slot that is due is judged, in the cell's order. -/
theorem execMessageDeadline_one (s : State) (c : CellId) (m : SlotMsgs)
    (hdue : (s.cell c.val).slots.filter (fun m => !m.late && m.start ≤ s.now + dTslot (s.cell c.val).desc) = [m]) :
    execMessageDeadline c s = .next ((s.slotDeadline c.val m).markStale c.val m) := by
  simp [execMessageDeadline, hdue, foldS]

/-- A slot without transport blocks becomes late, and each of its PDSCH PDUs is judged. -/
theorem State.slotDeadline_no_tbs (s : State) (c : Nat) (m : SlotMsgs) (htbs : m.tbs = []) :
    s.slotDeadline c m = foldS (m.dl.filter (fun p => p.kind = 0x11)) (fun p t => t.judgePdsch c m p)
      (s.updCell c (fun x => x.updSlot m.sfn m.slot m.start (fun y => { y with late := true, tbs := y.tbs.filter (m.wantsTb ·) }))) := by
  simp [State.slotDeadline, htbs, foldS]

/-- A PDSCH PDU that waits for a TB that has not come transmits nothing. -/
theorem State.judgePdsch_no_tb (s : State) (c : Nat) (m : SlotMsgs) (p : Pdu) (htbs : m.tbs = []) (hnew : p.f 8 1 1 = 0) :
    s.judgePdsch c m p = s.noTb c m p := by
  simp [State.judgePdsch, htbs, hnew]

/-- Settles O25: a message is discarded whole or accepted with the PDUs that its slot keeps, and the deadline judges the slots that are due. -/
theorem slotMessagesAreTakenOrRefused : Obligations.SlotMessagesAreTakenOrRefused := by
  refine ⟨?ul, ?dl, ?tx, ?ulBad, ?dlBad, ?txBad, ?plain, ?noTb, ?none⟩
  case ul =>
    intro s ws ps hrun hrec htype hhead hmsg hsplit hmirror
    refine congrArg Host.Outcome.next ((s.slotMessage_lands ws 1 hrun hrec htype).trans ?_)
    rw [s.landSlot_accepted ws ps _ rfl hrec hhead hmsg hsplit hmirror, SlotMsgs.hold_ul _ _ htype, htype,
      SlotMsgs.sift_config _ (by decide), List.append_nil]
  case dl =>
    intro s ws ps hrun hrec htype hhead hmsg hsplit hmirror
    refine congrArg Host.Outcome.next ((s.slotMessage_lands ws 2 hrun hrec htype).trans ?_)
    rw [s.landSlot_accepted ws ps _ rfl hrec hhead hmsg hsplit hmirror, SlotMsgs.hold_dl _ _ htype, htype,
      SlotMsgs.sift_config _ (by decide), List.append_nil]
  case tx =>
    intro s ws ps hrun hrec htype hhead hmsg hsplit hmirror
    refine congrArg Host.Outcome.next ((s.slotMessage_lands ws 3 hrun hrec htype).trans ?_)
    rw [s.landSlot_accepted ws ps _ rfl hrec hhead hmsg hsplit hmirror, SlotMsgs.hold_tx _ _ htype, htype, SlotMsgs.sift_txData]
    rfl
  case ulBad | dlBad | txBad =>
    intro s ws hrun hrec htype hbad
    exact congrArg Host.Outcome.next ((s.slotMessage_lands ws _ hrun hrec htype).trans (htype ▸ s.landSlot_discarded ws hbad))
  case plain =>
    intro s c m hdue ⟨htbs, hdl⟩
    refine (execMessageDeadline_one s c m hdue).trans ?_
    rw [s.slotDeadline_no_tbs c.val m htbs, hdl]
    rfl
  case noTb =>
    intro s c m p hdue ⟨htbs, hdl⟩ ⟨hkind, hnew⟩
    refine (execMessageDeadline_one s c m hdue).trans ?_
    rw [s.slotDeadline_no_tbs c.val m htbs, hdl]
    simp [foldS, hkind, State.judgePdsch_no_tb _ _ m p htbs hnew]
  case none =>
    intro s c hlate
    have hdue : (s.cell c.val).slots.filter (fun m => !m.late && m.start ≤ s.now + dTslot (s.cell c.val).desc) = [] := by
      refine List.filter_eq_nil_iff.2 (fun m hm => ?_)
      have h := List.all_eq_true.1 hlate m hm
      simp only [Bool.or_eq_true, decide_eq_true_eq] at h
      simp only [Bool.and_eq_true, Bool.not_eq_true', decide_eq_true_eq, not_and, not_le]
      intro hnot
      simpa [hnot] using h
    show execMessageDeadline c s = .next s
    simp [execMessageDeadline, hdue, foldS]

/-! Indications of a slot that was dropped as a cell fault (R143, R370). -/

/-- Such a slot sends no RX_DATA. -/
theorem Cell.indications_dropped (x : Cell) (m : SlotMsgs) (start : Nat) (tbs crcs : List (List Word)) (others : List (Nat × List (List Word)))
    (h : m.dropped = true) : foundFor (x.indications m start tbs crcs others) 0x11 = [] := by
  simp only [Cell.indications, h, if_true, foundFor]
  split <;> split <;> simp

/-- Refutes O27: a slot dropped as a cell fault sends none of the TBs that its radio program hands over. -/
theorem not_indicationsLeave : ¬ Obligations.IndicationsLeave := by
  rintro ⟨-, hind, -⟩
  have htbs := (hind Cell.free { SlotMsgs.empty 0 5 5000000 with ulSeq := some 9, dropped := true } 5000000 [[w32 0x00100021, 7, 0, 0]] [] []).1
  rw [Cell.indications_dropped _ _ _ _ _ _ rfl] at htbs
  cases htbs

/-! Downlink symbols (R155, R211, R303, R454). -/

/-- The present PRBs of a stream's symbol that sendSymbol sends. -/
def State.unsentPrbs (s : State) (c st sfn slot k sm : Nat) : List Nat :=
  let x := s.cell c
  let num := slotNum (dMu x.desc) sfn slot
  (s.dlPresent c st (ringPos x.desc sfn slot) k).filter (fun p => !x.dlSent.contains (num, k, st, p) && !x.dlStale.contains (num, k, st, p)
    && !((x.slotOf sfn slot sm).getD (SlotMsgs.empty sfn slot sm)).blank k p
    && !s.hasPoison .dom0 (dlPrbAt s x.desc (ringPos x.desc sfn slot) k st p) (dlB x.desc))

theorem State.mem_unsentPrbs (s : State) {c st sfn slot k sm p : Nat} :
    p ∈ s.unsentPrbs c st sfn slot k sm ↔ p ∈ s.dlPresent c st (ringPos (s.cell c).desc sfn slot) k
      ∧ (s.cell c).dlSent.contains (slotNum (dMu (s.cell c).desc) sfn slot, k, st, p) = false
      ∧ (s.cell c).dlStale.contains (slotNum (dMu (s.cell c).desc) sfn slot, k, st, p) = false
      ∧ (((s.cell c).slotOf sfn slot sm).getD (SlotMsgs.empty sfn slot sm)).blank k p = false
      ∧ s.hasPoison .dom0 (dlPrbAt s (s.cell c).desc (ringPos (s.cell c).desc sfn slot) k st p) (dlB (s.cell c).desc) = false := by
  simp [State.unsentPrbs, List.mem_filter, and_assoc]

/-- A PRB counts as present only where its presence bit is set. -/
theorem State.mem_presList_of_dlPresent (s : State) {c st pos k p : Nat} (h : p ∈ s.dlPresent c st pos k) :
    p ∈ presList (dNprb (s.cell c).desc) (s.peek .dom0 (dlPresAt s (s.cell c).desc pos k st) 64) := by
  simp only [State.dlPresent] at h
  split at h
  · cases h
  · exact h

/-- With nothing new present nothing changes. -/
theorem State.sendSymbol_nothing (s : State) (c st sfn slot k sm first : Nat) (pace : Bool) (h : s.unsentPrbs c st sfn slot k sm = []) :
    s.sendSymbol c st sfn slot k sm first pace = s := by
  unfold State.sendSymbol
  exact if_pos (List.isEmpty_iff.2 h)

theorem State.queueFrame_cells (s : State) (p : Nat) (f : EgressFrame) : (s.queueFrame p f).cells = s.cells := by
  unfold State.queueFrame; split <;> rfl

/-- A fronthaul frame leaves the cells as they are. -/
theorem State.ruFrame_cells (s : State) (port eaxc : Nat) (body : List Byte) (launch deadline : Nat) (kind : EgressKind) (close : Option Nat) :
    (s.ruFrame port eaxc body launch deadline kind close).cells = s.cells := by
  unfold State.ruFrame
  split
  · rfl
  · exact State.queueFrame_cells _ _ _

/-- The next SeqId of a stream leaves the PRBs noted as sent. -/
theorem State.nextSeq_dlSent (s : State) (c st dir plane : Nat) : ((s.nextSeq c st dir plane).2.cell c).dlSent = (s.cell c).dlSent := by
  simp [State.nextSeq, State.updCell_eq]

/-- What is new is noted as sent. -/
theorem State.sendSymbol_dlSent (s : State) (c st sfn slot k sm first : Nat) (pace : Bool) (h : s.unsentPrbs c st sfn slot k sm ≠ []) :
    ((s.sendSymbol c st sfn slot k sm first pace).cell c).dlSent =
      (s.cell c).dlSent ++ (s.unsentPrbs c st sfn slot k sm).map (fun p => (slotNum (dMu (s.cell c).desc) sfn slot, k, st, p)) := by
  have hne : (s.unsentPrbs c st sfn slot k sm).isEmpty = false := by simpa using h
  unfold State.unsentPrbs at hne ⊢
  simp only [State.sendSymbol, hne, Bool.false_eq_true, if_false]
  refine foldS_keeps (P := fun t : State => (t.cell c).dlSent = _) _ (fun lb _ t ht => ?_) ?_
  · exact (congrArg (fun y : Table Cell => (y.get Cell.free c).dlSent) (State.ruFrame_cells _ _ _ _ _ _ _ _)).trans
      ((State.nextSeq_dlSent t c st 1 0).trans ht)
  · exact congrArg Cell.dlSent (State.setCell_self s c _)

/-- What was sent before stays noted. -/
theorem State.sendSymbol_keeps_dlSent (s : State) (c st sfn slot k sm first : Nat) (pace : Bool) {e : Nat × Nat × Nat × Nat}
    (h : (s.cell c).dlSent.contains e = true) : ((s.sendSymbol c st sfn slot k sm first pace).cell c).dlSent.contains e = true := by
  by_cases hnew : s.unsentPrbs c st sfn slot k sm = []
  · rwa [s.sendSymbol_nothing c st sfn slot k sm first pace hnew]
  · rw [s.sendSymbol_dlSent c st sfn slot k sm first pace hnew]
    exact List.contains_iff_mem.2 (List.mem_append_left _ (List.contains_iff_mem.1 h))

/-- Settles O30, from what a row does in each case of its conditions, and from the PRBs of a symbol that are new. -/
theorem downlinkFronthaulLeaves : Obligations.DownlinkFronthaulLeaves := by
  refine ⟨?cplane, ?send, ?sendClosed, ?sendEarly, ?closeIdle, ?closeOpen, ?closeShut, ?nothing, ?marks, ?clear⟩
  case cplane =>
    intro s c sfn slot ws m hslot ⟨hdl, hcp⟩ hmay
    show execDownlinkCplaneSend c sfn slot ws s = _
    have hnone : m.dlSeq.isNone = false := by simpa using hdl
    simp [execDownlinkCplaneSend, hslot, hnone, hcp, hmay]
  case send =>
    intro s c sfn slot k hk hshut hbefore hopen hfirst
    show execDlSymbolSend c sfn slot k s = _
    simp only [execDlSymbolSend, Nat.not_le.2 hk, hopen, Nat.not_lt.2 hfirst, hshut, Int.not_le.2 hbefore, decide_false, Bool.not_true,
      Bool.or_false, Bool.false_eq_true, if_false]
  case sendClosed =>
    intro s c sfn slot k h
    show execDlSymbolSend c sfn slot k s = _
    rcases h with hshut | hpast
    · simp only [execDlSymbolSend, hshut, Bool.or_true, Bool.true_or, if_true]
    · simp [execDlSymbolSend, hpast]
  case sendEarly =>
    intro s c sfn slot k h
    show execDlSymbolSend c sfn slot k s = _
    simp [execDlSymbolSend, h]
  case closeIdle =>
    intro s c sfn slot k hk hshut hphase hopen hclose
    show execDlSymbolClose c sfn slot k s = _
    simp only [execDlSymbolClose, Nat.not_le.2 hk, hphase, Int.not_lt.2 hclose, hshut, hopen, decide_false, Bool.or_false,
      Bool.false_eq_true, if_false]
  case closeOpen =>
    intro s c sfn slot k hk hshut hphase hopen hclose
    show execDlSymbolClose c sfn slot k s = _
    simp only [execDlSymbolClose, Nat.not_le.2 hk, hphase, Int.not_lt.2 hclose, hshut, hopen, decide_false, Bool.or_false,
      Bool.false_eq_true, if_false, if_true]
  case closeShut =>
    intro s c sfn slot k hshut
    show execDlSymbolClose c sfn slot k s = _
    simp only [execDlSymbolClose, hshut, Bool.or_true, if_true]
  case nothing =>
    intro s c st sfn slot k sm first pace h
    refine s.sendSymbol_nothing c st sfn slot k sm first pace (List.eq_nil_iff_forall_not_mem.2 (fun p hp => ?_))
    obtain ⟨hpres, hsent, hstale, hblank, -⟩ := s.mem_unsentPrbs.1 hp
    rcases h p (s.mem_presList_of_dlPresent hpres) with hyes | hyes | hyes
    · exact Bool.false_ne_true (hsent.symm.trans hyes)
    · exact Bool.false_ne_true (hstale.symm.trans hyes)
    · exact Bool.false_ne_true (hblank.symm.trans hyes)
  case marks =>
    intro s c st sfn slot k sm first pace p hp hstale hblank hpoison
    by_cases hsent : (s.cell c).dlSent.contains (slotNum (dMu (s.cell c).desc) sfn slot, k, st, p) = true
    · exact s.sendSymbol_keeps_dlSent c st sfn slot k sm first pace hsent
    · have hnew : p ∈ s.unsentPrbs c st sfn slot k sm :=
        s.mem_unsentPrbs.2 ⟨hp, by simpa using hsent, hstale, hblank, hpoison⟩
      rw [s.sendSymbol_dlSent c st sfn slot k sm first pace (List.ne_nil_of_mem hnew)]
      simp [hnew]
  case clear =>
    intro s c st sfn slot k sm
    rfl

end Sys2Proof.Machine
end

section
/-! PROOFS. Uplink fronthaul (O28): where a section and a time-domain message at a port go, and the gain stage's product. -/

namespace Sys2Proof.Machine
open Sys2Proof

/-! A section or message at a port (R167, R450), with the recorder off. -/

/-- With the recorder off no class of live input is replayed. -/
theorem State.replayed_off (s : State) (cls : Nat) (h : s.recMode = 0) : s.replayed cls = false := by
  simp [State.replayed, h]

/-- Nor is an input logged. -/
theorem State.recLogAt_off (s : State) (cls type src id at0 : Nat) (payload : List Byte) (h : s.recMode = 0) :
    s.recLogAt cls type src id at0 payload = s := by
  simp [State.recLogAt, h]

/-- A section that reaches a running module goes to its cell. -/
theorem execUplaneSection_live (s : State) (p : EthPort) (x : USection) (hrun : s.pwr.phase = .running) (hrec : s.recMode = 0) :
    execUplaneSection p x s = .next (s.uplane p.val x) := by
  simp [execUplaneSection, s.running_iff.2 hrun, s.replayed_off 0 hrec]

/-- So does a time-domain IQ message. -/
theorem execTimeDomainIqMessage_live (s : State) (p : EthPort) (x : IqMessage) (hrun : s.pwr.phase = .running) (hrec : s.recMode = 0) :
    execTimeDomainIqMessage p x s = .next (s.iqMessage p.val x) := by
  simp [execTimeDomainIqMessage, s.running_iff.2 hrun, s.replayed_off 0 hrec]

theorem ok_of_toOption_eq_some {ε α : Type} {e : Except ε α} {a : α} (h : e.toOption = some a) : e = .ok a := by
  cases e with
  | error k => cases h
  | ok b => exact congrArg Except.ok (Option.some.inj h)

/-! Where a section goes (R167 to R170, R176). -/

section Section
variable (s : State) (port : Nat) (x : USection)

/-- What no cell takes is dropped and counted: as mirrored, or as unknown. -/
theorem State.uplane_unknown (hcell : s.ulCell port x.eaxc = none) :
    s.uplane port x = s.ethDrop port (if s.mirrored port x.eaxc then 7 else 0) := by
  simp only [State.uplane, hcell]

variable {c st : Nat}

/-- A section that the window refuses is dropped under the window's counter. -/
theorem State.uplane_outside {i : Nat} (hcell : s.ulCell port x.eaxc = some (c, st))
    (hwin : s.windowCheck (s.cell c).desc x.sfn x.slot x.sym x.stamp.toNat x.frac = .error i) : s.uplane port x = s.ethDrop port i := by
  simp only [State.uplane, hcell, hwin]

/-- What the stream has received of the symbol that a section names; a PRACH section's symbols are noted from 14 on. -/
def State.sectionSym (s : State) (c st : Nat) (x : USection) : UlSymbol :=
  (s.cell c).symOf (slotNum (dMu (s.cell c).desc) x.sfn x.slot) (if x.prach then 14 + x.sym else x.sym) st

theorem State.sectionSym_data (hdata : x.prach = false) :
    s.sectionSym c st x = (s.cell c).symOf (slotNum (dMu (s.cell c).desc) x.sfn x.slot) x.sym st := by
  simp [State.sectionSym, hdata]

theorem State.sectionSym_prach (hprach : x.prach = true) :
    s.sectionSym c st x = (s.cell c).symOf (slotNum (dMu (s.cell c).desc) x.sfn x.slot) (14 + x.sym) st := by
  simp [State.sectionSym, hprach]

/-- A section in its window, of an O-RAN cell, within the carrier, on an open symbol, lands unless it overlaps what was received. -/
theorem State.uplane_inWindow {sm : Nat} (hrec : s.recMode = 0) (hcell : s.ulCell port x.eaxc = some (c, st))
    (hwin : s.windowCheck (s.cell c).desc x.sfn x.slot x.sym x.stamp.toNat x.frac = .ok sm) (hmode : dTimeDomain (s.cell c).desc = false)
    (hfit : x.prach = true ∨ x.startPrb + x.prbs.length ≤ dNprb (s.cell c).desc) (hopen : (s.sectionSym c st x).closed = false) :
    s.uplane port x =
      if (s.sectionSym c st x).overlaps x.startPrb x.prbs.length then s.ethDrop port 3
      else if x.prach then s.landPrach port c st sm x else s.landSection port c st sm x := by
  have hcarrier : (!x.prach && decide (dNprb (s.cell c).desc < x.startPrb + x.prbs.length)) = false := by
    rcases hfit with hprach | hle
    · simp [hprach]
    · simp [Nat.not_lt.2 hle]
  unfold State.sectionSym at hopen ⊢
  simp only [State.uplane, hcell, hwin, hmode, hcarrier, hopen, State.recLogAt_off _ _ _ _ _ _ _ hrec, Bool.or_self, Bool.false_eq_true, if_false]

end Section

/-- What was received, with one more run of PRBs. -/
theorem UlSymbol.has_append (u : UlSymbol) (a n : Nat) :
    ({ u with got := u.got ++ [(a, n)] } : UlSymbol).has = fun i => u.has i || (decide (a ≤ i) && decide (i < a + n)) := by
  funext i
  simp [UlSymbol.has]

/-! Where a time-domain message goes (R450). -/

/-- A message that no cell takes is dropped and counted: as mirrored, or as unknown. -/
theorem State.iqMessage_unknown (s : State) (port : Nat) (x : IqMessage) (hcell : s.ulCell port x.eaxc = none) :
    s.iqMessage port x = s.ethDrop port (if s.mirrored port x.eaxc then 7 else 0) := by
  simp only [State.iqMessage, hcell]

/-- A message in its window, of a time-domain cell, on an open symbol and overlapping nothing received, lands. -/
theorem State.iqMessage_inWindow (s : State) (port : Nat) (x : IqMessage) {c st sm : Nat} (hrec : s.recMode = 0)
    (hcell : s.ulCell port x.eaxc = some (c, st))
    (hwin : s.windowCheck (s.cell c).desc x.sfn x.slot x.sym x.stamp.toNat x.frac = .ok sm) (hmode : dTimeDomain (s.cell c).desc = true)
    {n f : Nat} (hn : n = nfft (dNprb (s.cell c).desc)) (hf : f = cpLen (dMu (s.cell c).desc) n x.slot x.sym - n / 32) {u : UlSymbol}
    (hu : u = (s.cell c).symOf (slotNum (dMu (s.cell c).desc) x.sfn x.slot) x.sym st) (hopen : u.closed = false)
    (hnew : u.overlaps ((overlap x.off x.samples.length f n).1 - f) (overlap x.off x.samples.length f n).2 = false) :
    s.iqMessage port x = s.landIq port c st sm x := by
  subst hu hf hn
  simp only [State.iqMessage, hcell, hwin, hmode, hopen, hnew, State.recLogAt_off _ _ _ _ _ _ _ hrec, Bool.not_true, Bool.false_eq_true,
    if_false]

/-! The gain stage's product (R171). -/

/-- The quotient rounded to the nearest, ties to even, before it is held to INT16. -/
def nearest16 (p : Int) : Int :=
  if 32768 < p - p / 65536 * 65536 || (p - p / 65536 * 65536 = 32768 && p / 65536 % 2 ≠ 0) then p / 65536 + 1 else p / 65536

theorem gainMul_eq (f : Nat) (v : Int) :
    gainMul f v = if 32767 < nearest16 (v * f) then (32767, true)
      else if nearest16 (v * f) < -32768 then (-32768, true) else (nearest16 (v * f), false) := rfl

/-- It is within half a unit of the quotient. -/
theorem nearest16_near (p : Int) : 2 * (65536 * nearest16 p - p) ≤ 65536 ∧ -65536 ≤ 2 * (65536 * nearest16 p - p) := by
  unfold nearest16
  split
  case isTrue h =>
    simp only [Bool.or_eq_true, Bool.and_eq_true, decide_eq_true_eq] at h
    omega
  case isFalse h =>
    simp only [Bool.or_eq_true, Bool.and_eq_true, decide_eq_true_eq, not_or] at h
    omega

/-- A sample after gain is an INT16; unless it saturates it is within half a unit of the product. -/
theorem gainMul_spec (f : Nat) (v : Int) :
    (-32768 ≤ (gainMul f v).1 ∧ (gainMul f v).1 ≤ 32767) ∧
    ((gainMul f v).2 = false → 2 * (65536 * (gainMul f v).1 - v * f) ≤ 65536 ∧ -65536 ≤ 2 * (65536 * (gainMul f v).1 - v * f)) ∧
    ((gainMul f v).2 = true → (gainMul f v).1 = 32767 ∨ (gainMul f v).1 = -32768) := by
  rw [gainMul_eq]
  split
  case isTrue => simp
  case isFalse hle =>
    split
    case isTrue => simp
    case isFalse hge => exact ⟨⟨not_lt.1 hge, not_lt.1 hle⟩, fun _ => nearest16_near _, fun h => nomatch h⟩

/-- Settles O28, from where a section and a message go in each case of R167, from what a symbol has received with one more section, and
from the rounding of the gain stage. -/
theorem uplinkFronthaulLands : Obligations.UplinkFronthaulLands := by
  refine ⟨?data, ?prach, ?unknown, ?outside, ?overlap, ?land, ?iq, ?iqUnknown, gainMul_spec⟩
  case data =>
    rintro s p x c st sm z hrun hrec hcell rfl hwin ⟨hmode, hprach⟩ hfit hopen hnew
    rw [← s.sectionSym_data x hprach] at hopen hnew
    refine (execUplaneSection_live s p x hrun hrec).trans (congrArg Host.Outcome.next ?_)
    rw [s.uplane_inWindow p.val x hrec hcell (ok_of_toOption_eq_some hwin) hmode (.inr hfit) hopen, hnew, hprach]
    rfl
  case prach =>
    rintro s p x c st sm z hrun hrec hcell rfl hwin ⟨hmode, hprach⟩ hopen hnew
    rw [← s.sectionSym_prach x hprach] at hopen hnew
    refine (execUplaneSection_live s p x hrun hrec).trans (congrArg Host.Outcome.next ?_)
    rw [s.uplane_inWindow p.val x hrec hcell (ok_of_toOption_eq_some hwin) hmode (.inl hprach) hopen, hnew, hprach]
    rfl
  case unknown =>
    intro s p x hrun hrec hcell hmirror
    refine (execUplaneSection_live s p x hrun hrec).trans (congrArg Host.Outcome.next ?_)
    rw [s.uplane_unknown p.val x hcell, hmirror]
    rfl
  case outside =>
    intro s p x c st i hrun hrec hcell hwin
    refine (execUplaneSection_live s p x hrun hrec).trans (congrArg Host.Outcome.next ?_)
    split at hwin
    · cases hwin
      exact s.uplane_outside p.val x hcell ‹_›
    · cases hwin
  case overlap =>
    rintro s p x c st sm z hrun hrec hcell rfl hwin ⟨hmode, hprach⟩ hfit hopen hmeets
    rw [← s.sectionSym_data x hprach] at hopen hmeets
    refine (execUplaneSection_live s p x hrun hrec).trans (congrArg Host.Outcome.next ?_)
    rw [s.uplane_inWindow p.val x hrec hcell (ok_of_toOption_eq_some hwin) hmode (.inr hfit) hopen, hmeets]
    rfl
  case land =>
    rintro s port c st sm x d u rfl rfl
    rw [← UlSymbol.has_append]
    rfl
  case iq =>
    rintro s p x c st sm z f hrun hrec hcell rfl hwin hmode rfl hopen hnew
    refine (execTimeDomainIqMessage_live s p x hrun hrec).trans (congrArg Host.Outcome.next ?_)
    exact s.iqMessage_inWindow p.val x hrec hcell (ok_of_toOption_eq_some hwin) hmode rfl rfl rfl hopen hnew
  case iqUnknown =>
    intro s p x hrun hrec hcell hmirror
    refine (execTimeDomainIqMessage_live s p x hrun hrec).trans (congrArg Host.Outcome.next ?_)
    rw [s.iqMessage_unknown p.val x hcell, hmirror]
    rfl

end Sys2Proof.Machine
end

section
/-! PROOFS. Symbol close, slot end and uplink C-plane (O29): a write of the device's own leaves the cells, the gain's step, the rows' cases. -/

namespace Sys2Proof.Machine
open Sys2Proof

/-! A write of the device's own leaves the cells (R276 to R282, R301 to R305). One lemma for each memory operation that it runs. -/

@[simp] theorem State.cells_ite (p : Prop) [Decidable p] (a b : State) : (if p then a else b).cells = if p then a.cells else b.cells := by
  split <;> rfl

theorem State.cells_of_pair {α : Type} {p : α × State} {a : α} {t : State} (h : p = (a, t)) : t.cells = p.2.cells := by rw [h]

/-- A fold whose every step leaves the cells leaves them. -/
theorem foldS_cells {β : Type} (l : List β) {f : β → State → State} (a : State) (h : ∀ x (t : State), (f x t).cells = t.cells) :
    (foldS l f a).cells = a.cells :=
  foldS_keeps (P := fun t : State => t.cells = a.cells) l (fun x _ t ht => (h x t).trans ht) rfl

@[simp] theorem State.bump_cells (s : State) (p : Page) (i n : Nat) : (s.bump p i n).cells = s.cells := by rw [State.bump_frame]

@[simp] theorem State.pulse_cells (s : State) (p : Page) (b : Nat) : (s.pulse p b).cells = s.cells := by rw [State.pulse_frame]

@[simp] theorem State.updHome_cells (s : State) (pk : Nat) (f : Home → Home) : (s.updHome pk f).cells = s.cells := rfl

@[simp] theorem State.waitMove_cells (s : State) (pk : Nat) (k : MoveKind) (tag : Nat) : (s.waitMove pk k tag).cells = s.cells := rfl

@[simp] theorem State.heatUp_cells (s : State) (pk : Nat) : (s.heatUp pk).cells = s.cells := rfl

@[simp] theorem State.poisonLine_cells (s : State) (pk line : Nat) : (s.poisonLine pk line).cells = s.cells := rfl

@[simp] theorem State.countUe_cells (s : State) (ctl : Nat) : (s.countUe ctl).cells = s.cells := rfl

@[simp] theorem State.logRetire_cells (s : State) (f : Nat) : (s.logRetire f).cells = s.cells := rfl

@[simp] theorem State.addRun_cells (s : State) (die a n : Nat) : (s.addRun die a n).cells = s.cells := by simp [State.addRun]

@[simp] theorem State.takeGrant_cells (s : State) (d pt : Nat) : (s.takeGrant d pt).cells = s.cells := by rw [State.takeGrant_frame]

@[simp] theorem State.noCandidate_cells (s : State) (die : Nat) : (s.noCandidate die).cells = s.cells := by simp [State.noCandidate]

@[simp] theorem State.dropHomeRun_cells (s : State) (h : Home) : (s.dropHomeRun h).cells = s.cells := by simp [State.dropHomeRun, State.dropRun]

@[simp] theorem State.clearPoison_cells (s : State) (pk line : Nat) : (s.clearPoison pk line).cells = s.cells := by simp [State.clearPoison]

@[simp] theorem State.useInj_cells (s : State) (point target : Nat) : (s.useInj point target).2.cells = s.cells := by
  unfold State.useInj
  split
  · split <;> rfl
  · rfl

@[simp] theorem State.exactPressure_cells (s : State) (d die : Nat) : (s.exactPressure d die).cells = s.cells := by simp [State.exactPressure]

@[simp] theorem State.allocLine_cells (s : State) (d pk line : Nat) (dirty pf : Bool) : (s.allocLine d pk line dirty pf).cells = s.cells := by
  simp only [State.allocLine]
  split
  · simp
  · split <;> simp

@[simp] theorem State.startDemotion_cells (s : State) (pk : Nat) : (s.startDemotion pk).2.cells = s.cells := by
  simp only [State.startDemotion]
  split <;> simp

@[simp] theorem State.demoteTo_cells (s : State) (d die mark fuel : Nat) : (s.demoteTo d die mark fuel).cells = s.cells := by
  induction fuel generalizing s with
  | zero => rfl
  | succ fuel ih =>
    unfold State.demoteTo
    split
    · split <;> simp [ih]
    · rfl

@[simp] theorem State.waterCheck_cells (s : State) (d die : Nat) (going : Bool) : (s.waterCheck d die going).cells = s.cells := by
  simp [State.waterCheck]

@[simp] theorem State.makeRoom_cells (s : State) (pk d die : Nat) : (s.makeRoom pk d die).cells = s.cells := by
  unfold State.makeRoom
  split
  · split <;> simp
  · rfl

@[simp] theorem State.rehomeDest_cells (s : State) (pk f : Nat) : (s.rehomeDest pk f).2.cells = s.cells := by
  simp only [State.rehomeDest]
  split
  · rfl
  · split <;> simp

@[simp] theorem State.startRehome_cells (s : State) (pk f : Nat) : (s.startRehome pk f).cells = s.cells := by
  have hdest {d : Option Nat} {t : State} (h : s.rehomeDest pk f = (d, t)) : t.cells = s.cells :=
    (State.cells_of_pair h).trans (s.rehomeDest_cells pk f)
  unfold State.startRehome
  split
  · rfl
  · split <;> simp [hdest ‹_›]

@[simp] theorem State.retire_cells (s : State) (f : Nat) : (s.retire f).cells = s.cells := by
  unfold State.retire
  split
  · rfl
  · split
    · split <;> simp
    · simp

@[simp] theorem State.correctedAt_cells (s : State) (f : Nat) : (s.correctedAt f).cells = s.cells := by simp [State.correctedAt]

@[simp] theorem State.uncorrectedAt_cells (s : State) (f pk line : Nat) : (s.uncorrectedAt f pk line).cells = s.cells := by
  simp [State.uncorrectedAt]

@[simp] theorem State.hbmRead_cells (s : State) (d pk line : Nat) : (s.hbmRead d pk line).cells = s.cells := by
  simp only [State.hbmRead]
  split
  · rfl
  · split
    · rfl
    · simp [State.cells_of_pair ‹_ = (_, _)›]

@[simp] theorem State.canopyHit_cells (s : State) (d die pk line : Nat) (dirty : Bool) : (s.canopyHit d die pk line dirty).cells = s.cells := by
  simp only [State.canopyHit]
  split
  · rfl
  · split
    · rfl
    · simp [State.cells_of_pair ‹_ = (_, _)›]

@[simp] theorem State.lineAccess_cells (s : State) (d pk line : Nat) (wr full : Bool) : (s.lineAccess d pk line wr full).cells = s.cells := by
  simp only [State.lineAccess]
  split
  · rfl
  split
  · simp
  · split <;> simp

@[simp] theorem State.enterT2_cells (s : State) (pk f : Nat) : (s.enterT2 pk f).cells = s.cells := by simp [State.enterT2]

@[simp] theorem State.frameFor_cells (s : State) (pk die base : Nat) : (s.frameFor pk die base).2.cells = s.cells := by
  simp only [State.frameFor]
  split <;> simp

@[simp] theorem State.startPromotion_cells (s : State) (pk tag : Nat) : (s.startPromotion pk tag).cells = s.cells := by
  simp only [State.startPromotion]
  split
  · rfl
  split
  · simp
  split
  · rfl
  · split <;> simp [State.cells_of_pair ‹_ = (_, _)›]

@[simp] theorem State.waitOn_cells (s : State) (pk : Nat) (what : WaitWhat) (t3 : Bool) (tag : Nat) (late : Bool) :
    (s.waitOn pk what t3 tag late).cells = s.cells := by simp [State.waitOn]

@[simp] theorem State.backFree_cells (s : State) (pk : Nat) : (s.backFree pk).cells = s.cells := by
  simp only [State.backFree]
  split
  · rfl
  · split
    · rfl
    · split <;> simp

@[simp] theorem State.setMark_cells (s : State) (va bit : Nat) : (s.setMark va bit).cells = s.cells := by simp [State.setMark]

@[simp] theorem State.logDirty_cells (s : State) (sp : Space) (p : Nat) : (s.logDirty sp p).cells = s.cells := by
  cases sp with
  | dom0 => rfl
  | inst i => simp [State.logDirty]

@[simp] theorem State.endExact_cells (s : State) (k va len : Nat) : (s.endExact k va len).cells = s.cells := by simp [State.endExact]

@[simp] theorem State.snoopHost_cells (s : State) (k va len : Nat) : (s.snoopHost k va len).cells = s.cells := by
  simp only [State.snoopHost]
  split
  · rfl
  · exact foldS_cells _ _ (fun _ _ => rfl)

/-- Bytes that land leave the cells. -/
@[simp] theorem State.landBytes_cells (s : State) (sp : Space) (va : Nat) (bs : List Byte) : (s.landBytes sp va bs).cells = s.cells := by
  rw [State.landBytes, State.endExact_cells]
  exact (foldS_cells _ _ (fun _ _ => by simp)).trans (State.snoopHost_cells _ _ _ _)

@[simp] theorem State.touchWrite_cells (s : State) (sp : Space) (va len : Nat) : (s.touchWrite sp va len).cells = s.cells :=
  foldS_cells _ _ (fun _ _ => by simp)

@[simp] theorem State.landDev_cells (s : State) (sp : Space) (va : Nat) (bs : List Byte) : (s.landDev sp va bs).cells = s.cells := by
  simp [State.landDev]

/-- A write of the device's own leaves the cells, wherever it goes: to host memory, to a lane, or to pages where it lands or waits. -/
@[simp] theorem State.putDevTag_cells (s : State) (tag : Nat) (sp : Space) (va : Nat) (bs : List Byte) :
    (s.putDevTag tag sp va bs).cells = s.cells := by
  simp only [State.putDevTag]
  split
  · rfl
  split
  · rfl
  split
  · exact foldS_cells _ _ (fun _ _ => rfl)
  have hback := foldS_cells (pagesIn (spaceIdx sp) va bs.length) s (f := fun pk t => t.backFree pk) (fun pk t => t.backFree_cells pk)
  split
  · exact (State.landDev_cells _ _ _ _).trans hback
  · exact (foldS_cells _ _ (fun _ _ => by simp)).trans hback

/-! Symbol close (R170). -/

/-- At U(k) a stream's symbol is noted as closed, and no other cell state changes. -/
theorem State.closePrbs_cells (s : State) (c st sfn slot k : Nat) :
    (s.closePrbs c st sfn slot k).2.cells =
      s.cells.set c ((s.cell c).putSym { (s.cell c).symOf (slotNum (dMu (s.cell c).desc) sfn slot) k st with closed := true }) := by
  unfold State.closePrbs
  extract_lets d u gone pos tag s1 s2
  have hcells : s2.cells = s.cells := (State.putDevTag_cells _ _ _ _ _).trans (foldS_cells _ _ (fun _ _ => State.putDevTag_cells _ _ _ _ _))
  show s2.cells.set c ((s2.cells.get Cell.free c).putSym _) = _
  rw [hcells]
  rfl

/-- The streams of an O-RAN cell at U(k): the PRBs that were missing, and the state in which all have closed. -/
def State.closeStreams (s : State) (c sfn slot k : Nat) : Nat × State :=
  foldN (dStrUl (s.cell c).desc)
    (fun st acc => (acc.1 + (acc.2.closePrbs c st sfn slot k).1, (acc.2.closePrbs c st sfn slot k).2)) (0, s)

/-- U(k) of an open symbol of a slot with an accepted UL_CONFIG. -/
theorem execUlSymbolClose_due (s : State) (c : CellId) (sfn slot k : Nat) (m : SlotMsgs) (hphase : (s.cell c.val).phase ≠ .free)
    (hslot : (s.cell c.val).slotOf sfn slot (s.slotStart (dMu (s.cell c.val).desc) sfn slot) = some m) (hul : m.ulSeq.isSome = true)
    (hk : k < 14) (hclose : uClose (s.cell c.val).desc (s.slotStart (dMu (s.cell c.val).desc) sfn slot) k ≤ 14 * s.now)
    (hopen : ((s.cell c.val).symOf (slotNum (dMu (s.cell c.val).desc) sfn slot) k 0).closed = false) :
    execUlSymbolClose c sfn slot k s = .next (
      if dTimeDomain (s.cell c.val).desc then
        foldN (dStrUl (s.cell c.val).desc) (fun st t => (t.closeSamples c.val st sfn slot k).latchDue c.val st) s
      else ((s.closeStreams c.val sfn slot k).2.bump (pgSds 4) (cellIdx c.val 0) (s.closeStreams c.val sfn slot k).1).cellCtr c.val k
        (s.closeStreams c.val sfn slot k).1) := by
  simp only [execUlSymbolClose, hphase, hslot, hul, hk, hclose, hopen, decide_true, decide_false, Bool.not_false, Bool.not_true, Bool.and_self,
    Bool.or_self, Bool.false_eq_true, if_false]
  split <;> rfl

/-- Before U(k) the symbol stays open. -/
theorem execUlSymbolClose_early (s : State) (c : CellId) (sfn slot k : Nat)
    (h : 14 * s.now < uClose (s.cell c.val).desc (s.slotStart (dMu (s.cell c.val).desc) sfn slot) k) :
    execUlSymbolClose c sfn slot k s = .next s := by
  simp [execUlSymbolClose, Nat.not_le.2 h]

/-! The gain's step (R172 to R174). -/

/-- The numbers below n as integers are n. -/
theorem length_range_int (n : Nat) : (List.range n : List Int).length = n := by simp

/-- A step is at most MAXSTEP, up or down: it counts how many of the 2 · MAXSTEP steps above −MAXSTEP are due. -/
theorem gainStep_le (target maxStep sum count : Nat) :
    -(maxStep : Int) ≤ gainStep target maxStep sum count ∧ gainStep target maxStep sum count ≤ maxStep := by
  have hdue (p : Int → Bool) : ((List.range (2 * maxStep) : List Int).filter p).length ≤ 2 * maxStep :=
    (List.length_filter_le _ _).trans_eq (length_range_int _)
  simp only [gainStep]
  constructor
  · omega
  · refine sub_le_iff_le_add.2 ((Int.ofNat_le.2 (hdue _)).trans_eq ?_)
    omega

/-- The mean of samples that are all zero reaches no power. -/
theorem powGe_zero (b p : Nat) (e : Int) (hb : 0 < b) (hp : p ≠ 0) : powGe 0 b p e = false := by
  have hpos : 0 < b ^ p := Nat.pow_pos hb
  simp only [powGe, Nat.zero_pow (Nat.pos_of_ne_zero hp)]
  split
  · exact decide_eq_false (Nat.not_le.2 (Nat.mul_pos hpos (Nat.pow_pos (by decide))))
  · simpa using hpos.ne'

/-- Samples that are all zero raise the gain by MAXSTEP: every step is due. -/
theorem gainStep_silence (target maxStep count : Nat) (h : 0 < count) : gainStep target maxStep 0 count = maxStep := by
  have hlow (e : Int) : powGe 0 (count * 2 ^ 30) 40 e = false := powGe_zero _ _ _ (Nat.mul_pos h (by decide)) (by decide)
  simp only [gainStep, hlow, Bool.not_false, Bool.true_or, List.filter_true, length_range_int]
  omega

/-- The end of a slot leaves a stream's gain, or moves it by a step within ±24 dB. -/
theorem Gain.slotEnd_g (g : Gain) (start next : Nat) (frz : Option Nat) (w : Word) :
    (g.slotEnd start next frz w).g = g.g ∨ (g.slotEnd start next frz w).g =
      max (-96) (min 96 (g.g + gainStep (fld g.cfg 7 0) (fld g.cfg 11 8) g.gsum g.gcount)) := by
  simp only [Gain.slotEnd]
  split
  · exact .inl rfl
  · exact .inr rfl

/-- So a gain within ±24 dB stays there, and moves by at most MAXSTEP. -/
theorem Gain.slotEnd_bounds (g : Gain) (start next : Nat) (frz : Option Nat) (w : Word) (h : -96 ≤ g.g ∧ g.g ≤ 96) :
    (-96 ≤ (g.slotEnd start next frz w).g ∧ (g.slotEnd start next frz w).g ≤ 96) ∧
    ((g.slotEnd start next frz w).g - g.g ≤ fld g.cfg 11 8 ∧ g.g - (g.slotEnd start next frz w).g ≤ fld g.cfg 11 8) := by
  have hstep := gainStep_le (fld g.cfg 7 0) (fld g.cfg 11 8) g.gsum g.gcount
  rcases g.slotEnd_g start next frz w with hg | hg <;> rw [hg] <;> omega

/-- The later of two ends is no earlier than the second. -/
theorem le_laterOf (a : Option Nat) (e : Nat) : ∃ f, laterOf a (some e) = some f ∧ e ≤ f := by
  cases a with
  | none => exact ⟨e, rfl, le_rfl⟩
  | some x => exact ⟨max x e, rfl, le_max_right _ _⟩

/-- A frozen gain stays. -/
theorem Gain.slotEnd_frozen (g : Gain) (start next e : Nat) (w : Word) (h : start ≤ e) : (g.slotEnd start next (some e) w).g = g.g := by
  obtain ⟨f, hf, hef⟩ := le_laterOf g.frzEnd e
  simp [Gain.slotEnd, hf, h.trans hef]

/-- So does a held one. -/
theorem Gain.slotEnd_held (g : Gain) (start next e : Nat) (frz : Option Nat) (w : Word) (hhold : g.holdEnd = some e) (h : start ≤ e) :
    (g.slotEnd start next frz w).g = g.g := by
  simp [Gain.slotEnd, hhold, h]

/-! The end of a slot (R172, R382). -/

/-- A cell that is no armed origin mirrors nothing. -/
theorem State.mirrorOut_unarmed (s : State) (c : Nat) (item : MirrorItem) (h : (s.mirror c).state ≠ .armed) : s.mirrorOut c item = s := by
  simp [State.mirrorOut, h]

/-- An RSSI latched leaves the mirror entries. -/
theorem State.latchOcc_mirrors (s : State) (c st : Nat) (o : OccSum) : (s.latchOcc c st o).mirrors = s.mirrors := by
  unfold State.latchOcc
  split
  rename_i v s1 hv
  have hs1 : s1.mirrors = s.mirrors := by
    rw [show s1 = _ from (congrArg Prod.snd hv).symm, apply_ite Prod.snd, apply_ite State.mirrors]
    exact ite_self _
  exact hs1

theorem State.latchDue_mirrors (s : State) (c st : Nat) : (s.latchDue c st).mirrors = s.mirrors :=
  foldS_keeps (P := fun t : State => t.mirrors = s.mirrors) _ (fun o _ t ht => (t.latchOcc_mirrors c st o).trans ht) rfl

/-- Settles O29, from what a row does in each case of its conditions, from what a closed stream leaves, and from the gain's step. -/
theorem uplinkSymbolAndSlotEnd : Obligations.UplinkSymbolAndSlotEnd := by
  refine ⟨?close, ?closeTd, execUlSymbolClose_early, ?closePrbs, ?slotEnd, ?slotEndOran, ?gain, ?gainStays, gainStep_silence, ?cplane,
    ?cplaneOnce⟩
  case close =>
    rintro s c sfn slot k m ⟨n, t⟩ ⟨hphase, hmode⟩ ⟨hslot, hul⟩ ⟨hk, hclose⟩ hopen hgone
    refine (execUlSymbolClose_due s c sfn slot k m hphase hslot hul hk hclose hopen).trans ?_
    rw [hmode, hgone]
    rfl
  case closeTd =>
    rintro s c sfn slot k m ⟨hphase, hmode⟩ ⟨hslot, hul⟩ ⟨hk, hclose⟩ hopen
    refine (execUlSymbolClose_due s c sfn slot k m hphase hslot hul hk hclose hopen).trans ?_
    rw [if_pos hmode]
  case closePrbs =>
    rintro s c st sfn slot k d u rfl rfl
    exact ⟨rfl, s.closePrbs_cells c st sfn slot k⟩
  case slotEnd =>
    rintro s c sfn slot ⟨hphase, hmode⟩ hend hmirror
    show execGainSlotEnd c sfn slot s = _
    have hkept : (foldN (dStrUl (s.cell c.val).desc) (fun st t => t.latchDue c.val st) s).mirrors = s.mirrors :=
      foldN_keeps (P := fun t : State => t.mirrors = s.mirrors) _ (fun st _ t ht => (t.latchDue_mirrors c.val st).trans ht) rfl
    have hout (f : Cell → Cell) (item : MirrorItem) := State.mirrorOut_unarmed
      ((foldN (dStrUl (s.cell c.val).desc) (fun st t => t.latchDue c.val st) s).updCell c.val f) c.val item
      (show (Table.get _ (foldN _ _ s).mirrors _).state ≠ _ by rw [hkept]; exact hmirror)
    simp only [execGainSlotEnd, hphase, hmode, Nat.not_lt.2 hend, hout, decide_false, Bool.or_self, Bool.not_true, Bool.false_eq_true, if_false]
  case slotEndOran =>
    intro s c sfn slot hmode hmirror
    show execGainSlotEnd c sfn slot s = _
    simp [execGainSlotEnd, hmode, s.mirrorOut_unarmed _ _ hmirror]
  case gain =>
    intro g start next frz w h
    obtain ⟨hrange, hstep⟩ := g.slotEnd_bounds start next frz w h
    exact ⟨hrange, hstep, rfl, rfl, rfl, rfl, rfl⟩
  case gainStays =>
    intro g start next e w h
    exact ⟨g.slotEnd_frozen start next e w h, Gain.slotEnd_held { g with holdEnd := some e } start next e none w rfl h⟩
  case cplane =>
    rintro s c sfn slot m hslot ⟨hul, hnew⟩ hmay
    show execUplinkCplaneSend c sfn slot s = _
    have hnone : m.ulSeq.isNone = false := by simpa using hul
    simp only [execUplinkCplaneSend, hslot, hnone, hnew, hmay, Bool.not_true, Bool.or_self, Bool.false_eq_true, if_false]
  case cplaneOnce =>
    intro s c sfn slot m hslot hsent
    show execUplinkCplaneSend c sfn slot s = _
    simp only [execUplinkCplaneSend, hslot, hsent, Bool.or_true, Bool.true_or, if_true]

end Sys2Proof.Machine
end

section
/-! PROOFS. A write of the device's own to device memory (used by O32): the tiles, decks, engines, lanes, cells and whatever else it leaves alone. -/

namespace Sys2Proof.Machine
open Sys2Proof

/-! A write of device memory (R276 to R282, R301 to R305). One lemma for each memory operation that it runs. -/

/-- The state without what a write of device memory can change: those fields stand as at reset. -/
def State.besideMem (s : State) : State :=
  { s with
    mem := [], mems := MemSt.empty, regs := RegFile.reset, out := [], shape := [], bist := BistSt.reset, fabric := FabricSt.reset
    cxl := CxlSt.reset }

/-- States that differ in those fields alone have the same units. -/
theorem State.units_of_besideMem {s t : State} (h : t.besideMem = s.besideMem) :
    t.cells = s.cells ∧ t.tiles = s.tiles ∧ t.groves = s.groves ∧ t.lanes = s.lanes :=
  ⟨(congrArg State.cells h :), (congrArg State.tiles h :), (congrArg State.groves h :), (congrArg State.lanes h :)⟩

theorem State.besideMem_of_pair {α : Type} {p : α × State} {a : α} {s t : State} (h : p = (a, t)) (hp : p.2.besideMem = s.besideMem) :
    t.besideMem = s.besideMem := by
  rw [h] at hp; exact hp

/-- A fold whose every step changes device memory alone does so too. -/
theorem foldS_besideMem {β : Type} (l : List β) {f : β → State → State} (a : State) (h : ∀ x (t : State), (f x t).besideMem = t.besideMem) :
    (foldS l f a).besideMem = a.besideMem :=
  foldS_keeps (P := fun t : State => t.besideMem = a.besideMem) l (fun x _ t ht => (h x t).trans ht) rfl

/-- Tiers written leave the rest. -/
theorem State.mems_besideMem (s : State) (m : MemSt) : ({ s with mems := m } : State).besideMem = s.besideMem := rfl

theorem State.bump_besideMem (s : State) (p : Page) (i n : Nat) : (s.bump p i n).besideMem = s.besideMem := by
  rw [State.bump_frame]; rfl

theorem State.pulse_besideMem (s : State) (p : Page) (b : Nat) : (s.pulse p b).besideMem = s.besideMem := by
  rw [State.pulse_frame]; rfl

theorem State.takeGrant_besideMem (s : State) (d pt : Nat) : (s.takeGrant d pt).besideMem = s.besideMem := by
  rw [State.takeGrant_frame]; rfl

theorem State.waitMove_besideMem (s : State) (pk : Nat) (k : MoveKind) (tag : Nat) : (s.waitMove pk k tag).besideMem = s.besideMem := rfl

theorem State.addRun_besideMem (s : State) (die a n : Nat) : (s.addRun die a n).besideMem = s.besideMem := by
  unfold State.addRun; split <;> rfl

theorem State.dropHomeRun_besideMem (s : State) (h : Home) : (s.dropHomeRun h).besideMem = s.besideMem := by
  unfold State.dropHomeRun; split <;> rfl

theorem State.clearPoison_besideMem (s : State) (pk line : Nat) : (s.clearPoison pk line).besideMem = s.besideMem := by
  unfold State.clearPoison; split <;> rfl

theorem State.noCandidate_besideMem (s : State) (die : Nat) : (s.noCandidate die).besideMem = s.besideMem :=
  (State.pulse_besideMem _ _ _).trans (State.bump_besideMem _ _ _ _)

theorem State.useInj_besideMem (s : State) (point target : Nat) : (s.useInj point target).2.besideMem = s.besideMem := by
  unfold State.useInj
  split
  · split <;> rfl
  · rfl

theorem State.exactPressure_besideMem (s : State) (d die : Nat) : (s.exactPressure d die).besideMem = s.besideMem := by
  simp only [State.exactPressure]
  split
  · rfl
  · exact (State.pulse_besideMem _ _ _).trans (State.bump_besideMem _ _ _ _)

theorem State.allocLine_besideMem (s : State) (d pk line : Nat) (dirty pf : Bool) :
    (s.allocLine d pk line dirty pf).besideMem = s.besideMem := by
  unfold State.allocLine
  extract_lets h die ways inSet enter
  have henter (t : State) (w : Nat) : ((enter t w).exactPressure d die).besideMem = t.besideMem :=
    (State.exactPressure_besideMem _ _ _).trans (t.mems_besideMem _)
  split
  · exact henter _ _
  · split
    · rfl
    · refine (henter _ _).trans ?_
      split <;> rfl

theorem State.startDemotion_besideMem (s : State) (pk : Nat) : (s.startDemotion pk).2.besideMem = s.besideMem := by
  unfold State.startDemotion
  extract_lets h cs n
  split
  · rfl
  next a _ =>
    extract_lets t
    have ht : t.besideMem = s.besideMem := (State.mems_besideMem _ _).trans (s.addRun_besideMem h.die a n)
    exact (State.mems_besideMem _ _).trans ht

theorem State.demoteTo_besideMem (s : State) (d die mark fuel : Nat) : (s.demoteTo d die mark fuel).besideMem = s.besideMem := by
  induction fuel generalizing s with
  | zero => rfl
  | succ fuel ih =>
    unfold State.demoteTo
    split
    · split
      · exact s.noCandidate_besideMem die
      · dsimp only
        split
        · exact (ih _).trans (s.startDemotion_besideMem _)
        · exact s.startDemotion_besideMem _
    · rfl

theorem State.waterCheck_besideMem (s : State) (d die : Nat) (going : Bool) : (s.waterCheck d die going).besideMem = s.besideMem := by
  unfold State.waterCheck
  extract_lets w frames low high f
  generalize (if going = true then high else low) = mark
  split
  · exact s.demoteTo_besideMem _ _ _ _
  · rfl

theorem State.makeRoom_besideMem (s : State) (pk d die : Nat) : (s.makeRoom pk d die).besideMem = s.besideMem := by
  unfold State.makeRoom
  split
  · split
    · exact s.startDemotion_besideMem _
    · exact s.noCandidate_besideMem die
  · rfl

theorem State.rehomeDest_besideMem (s : State) (pk f : Nat) : (s.rehomeDest pk f).2.besideMem = s.besideMem := by
  simp only [State.rehomeDest]
  split
  · rfl
  split
  · rfl
  · dsimp only
    split
    · rfl
    · exact s.makeRoom_besideMem _ _ _

theorem State.startRehome_besideMem (s : State) (pk f : Nat) : (s.startRehome pk f).besideMem = s.besideMem := by
  have hdest {d : Option Nat} {t : State} (h : s.rehomeDest pk f = (d, t)) : t.besideMem = s.besideMem :=
    State.besideMem_of_pair h (s.rehomeDest_besideMem pk f)
  unfold State.startRehome
  split
  · rfl
  split
  next h => exact (State.waterCheck_besideMem _ _ _ _).trans ((State.mems_besideMem _ _).trans (hdest h :))
  next h =>
    split
    · exact (State.pulse_besideMem _ _ _).trans ((State.mems_besideMem _ _).trans (hdest h :))
    · exact (hdest h :)

theorem State.retire_besideMem (s : State) (f : Nat) : (s.retire f).besideMem = s.besideMem := by
  unfold State.retire
  split
  · rfl
  split
  · split
    · exact State.waterCheck_besideMem _ _ _ _
    · rfl
  · dsimp only
    split <;> exact s.startRehome_besideMem _ _

theorem State.correctedAt_besideMem (s : State) (f : Nat) : (s.correctedAt f).besideMem = s.besideMem := by
  simp only [State.correctedAt]
  split
  · exact State.retire_besideMem _ _
  · rfl

theorem State.uncorrectedAt_besideMem (s : State) (f pk line : Nat) : (s.uncorrectedAt f pk line).besideMem = s.besideMem :=
  State.retire_besideMem _ _

theorem State.hbmRead_besideMem (s : State) (d pk line : Nat) : (s.hbmRead d pk line).besideMem = s.besideMem := by
  have hinj {a : Option Nat} {t : State} (h : s.useInj 3 (frameHbm (s.home pk).frame) = (a, t)) : t.besideMem = s.besideMem :=
    State.besideMem_of_pair h (s.useInj_besideMem _ _)
  simp only [State.hbmRead]
  split
  · rfl
  split
  · rfl
  next h =>
    split
    · exact (State.uncorrectedAt_besideMem _ _ _ _).trans (hinj h :)
    · exact (State.correctedAt_besideMem _ _).trans (hinj h :)

theorem State.canopyHit_besideMem (s : State) (d die pk line : Nat) (dirty : Bool) :
    (s.canopyHit d die pk line dirty).besideMem = s.besideMem := by
  have hinj {a : Option Nat} {t : State} (h : s.useInj 4 die = (a, t)) : t.besideMem = s.besideMem :=
    State.besideMem_of_pair h (s.useInj_besideMem _ _)
  simp only [State.canopyHit]
  split
  · rfl
  split
  · rfl
  next h =>
    split
    · exact (hinj h :)
    split <;> exact (hinj h :)

theorem State.lineAccess_besideMem (s : State) (d pk line : Nat) (wr full : Bool) :
    (s.lineAccess d pk line wr full).besideMem = s.besideMem := by
  have hheat (pt : Nat) : ((s.heatUp pk).takeGrant d pt).besideMem = s.besideMem := State.takeGrant_besideMem _ _ _
  simp only [State.lineAccess]
  split
  · rfl
  split
  · split
    · exact hheat _
    · exact (State.hbmRead_besideMem _ _ _ _).trans (hheat _)
  split
  · split
    · rfl
    · exact State.canopyHit_besideMem _ _ _ _ _ _
  · have halloc (pt : Nat) := (State.allocLine_besideMem _ d pk line wr false).trans (hheat pt)
    split
    · exact halloc _
    · exact (State.hbmRead_besideMem _ _ _ _).trans (halloc _)

theorem State.enterT2_besideMem (s : State) (pk f : Nat) : (s.enterT2 pk f).besideMem = s.besideMem :=
  s.dropHomeRun_besideMem _

theorem State.frameFor_besideMem (s : State) (pk die base : Nat) : (s.frameFor pk die base).2.besideMem = s.besideMem := by
  simp only [State.frameFor]
  split
  · rfl
  · exact s.makeRoom_besideMem _ _ _

theorem State.startPromotion_besideMem (s : State) (pk tag : Nat) : (s.startPromotion pk tag).besideMem = s.besideMem := by
  have hframe {die base : Nat} {f : Option Nat} {t : State} (h : s.frameFor pk die base = (f, t)) : t.besideMem = s.besideMem :=
    State.besideMem_of_pair h (s.frameFor_besideMem pk die base)
  simp only [State.startPromotion]
  split
  · rfl
  split
  · split <;> rfl
  split
  · rfl
  split
  next h => exact (State.waitMove_besideMem _ _ _ _).trans (hframe h :)
  next h => exact (State.waterCheck_besideMem _ _ _ _).trans ((State.mems_besideMem _ _).trans (hframe h :))

theorem State.waitOn_besideMem (s : State) (pk : Nat) (what : WaitWhat) (t3 : Bool) (tag : Nat) (late : Bool) :
    (s.waitOn pk what t3 tag late).besideMem = s.besideMem := by
  simp only [State.waitOn]
  split
  · exact State.startPromotion_besideMem _ _ _
  · rfl

theorem State.backFree_besideMem (s : State) (pk : Nat) : (s.backFree pk).besideMem = s.besideMem := by
  simp only [State.backFree]
  split
  · rfl
  split
  · rfl
  split
  · exact (State.waterCheck_besideMem _ _ _ _).trans (s.enterT2_besideMem _ _)
  · rfl

theorem State.setMark_besideMem (s : State) (va bit : Nat) : (s.setMark va bit).besideMem = s.besideMem := by
  simp only [State.setMark]
  split
  · exact s.backFree_besideMem _
  · exact (State.waitOn_besideMem _ _ _ _ _ _).trans (s.backFree_besideMem _)

theorem State.logDirty_besideMem (s : State) (sp : Space) (p : Nat) : (s.logDirty sp p).besideMem = s.besideMem := by
  cases sp with
  | dom0 => rfl
  | inst i =>
    simp only [State.logDirty]
    split
    · exact s.setMark_besideMem _ _
    · rfl

theorem State.endExact_besideMem (s : State) (k va len : Nat) : (s.endExact k va len).besideMem = s.besideMem := by
  simp only [State.endExact]
  split <;> rfl

theorem State.snoopHost_besideMem (s : State) (k va len : Nat) : (s.snoopHost k va len).besideMem = s.besideMem := by
  simp only [State.snoopHost]
  split
  · rfl
  · exact foldS_besideMem _ _ (fun _ _ => rfl)

theorem State.landBytes_besideMem (s : State) (sp : Space) (va : Nat) (bs : List Byte) : (s.landBytes sp va bs).besideMem = s.besideMem := by
  rw [State.landBytes, State.endExact_besideMem]
  refine (foldS_besideMem _ _ (fun pk t => (State.logDirty_besideMem _ _ _).trans ?_)).trans (State.snoopHost_besideMem _ _ _ _)
  split <;> rfl

theorem State.touchWrite_besideMem (s : State) (sp : Space) (va len : Nat) : (s.touchWrite sp va len).besideMem = s.besideMem := by
  refine foldS_besideMem _ _ (fun x t => (State.lineAccess_besideMem _ _ _ _ _ _).trans ?_)
  split
  · exact t.clearPoison_besideMem _ _
  · rfl

theorem State.landDev_besideMem (s : State) (sp : Space) (va : Nat) (bs : List Byte) : (s.landDev sp va bs).besideMem = s.besideMem :=
  (State.landBytes_besideMem _ _ _ _).trans (State.touchWrite_besideMem _ _ _ _)

/-- A write of the device's own to other than lane memory changes device memory alone, whether it lands or waits. -/
theorem State.putDevTag_besideMem (s : State) (tag : Nat) (sp : Space) (va : Nat) (bs : List Byte) (h : inLanes sp va bs.length = false) :
    (s.putDevTag tag sp va bs).besideMem = s.besideMem := by
  have hback := foldS_besideMem (pagesIn (spaceIdx sp) va bs.length) s (f := fun pk t => t.backFree pk) (fun pk t => t.backFree_besideMem pk)
  simp only [State.putDevTag, h, Bool.false_eq_true, if_false]
  split
  · rfl
  split
  · rfl
  split
  · exact (State.landDev_besideMem _ _ _ _).trans hback
  · refine (foldS_besideMem _ _ (fun x t => ?_)).trans hback
    split
    · exact t.landDev_besideMem _ _ _
    · exact t.waitOn_besideMem _ _ _ _ _

end Sys2Proof.Machine
end

section
/-! PROOFS. Channel coding (O31 to O33): how a command starts and how it is refused, the end of a block, locks and soft buffers, rate
matching and combining. -/

namespace Sys2Proof.Machine
open Sys2Proof

/-! A command that the engine takes (R190, R191, R193, R303). -/

/-- An idle engine whose next command is of one of the four operations drops nothing. -/
theorem State.dropUnknownCode_known {s : State} {g : Nat} {k : CodeCmd} (hnext : s.codeNext g = some k)
    (hop : 1 ≤ ccOp k.words ∧ ccOp k.words ≤ 4) : s.dropUnknownCode g = s := by
  have hknown : (decide (ccOp k.words = 0) || decide (4 < ccOp k.words)) = false := by simp; omega
  unfold State.dropUnknownCode
  simp [hnext, hknown]

section
variable {s t : State} {g op : Nat} {k : CodeCmd} {bs : List Byte} (start : State → CodeCmd → List Byte → State)

/-- A command of one of the four operations reaches the start of its row. -/
theorem State.startCode_known (hnext : s.codeNext g = some k) (hop : 1 ≤ ccOp k.words ∧ ccOp k.words ≤ 4) :
    (s.dropUnknownCode g).startCode g op start = s.startCode g op start := by
  rw [State.dropUnknownCode_known hnext hop]

/-- A command of another operation than the row's stays where it is. -/
theorem State.startCode_other (hnext : s.codeNext g = some k) (hop : ccOp k.words ≠ op) : s.startCode g op start = s := by
  simp [State.startCode, hnext, hop]

variable (hidle : (s.grove g).ceBusy = none) (hnext : s.codeNext g = some k) (hnew : k.started = false) (hop : ccOp k.words = op)
include hidle hnext hnew hop

/-- A command that fails a check ends with the check's code. -/
theorem State.startCode_refuses {c : Code} (hcheck : s.codeCheck g k = c) (hc : c ≠ .ok) :
    s.startCode g op start = s.codeRefuse g k c := by
  simp only [State.startCode, hidle, hnext, hnew, hop, hcheck, Option.isSome_none, Bool.false_eq_true, if_false, ne_eq, not_true,
    decide_false, Bool.or_self]

variable (hcheck : s.codeCheck g k = .ok) (hload : s.loadDev .dom0 (ccIn k.words) (ccInLen k.words) = (.ok, bs, t))
include hcheck hload

/-- Its input read, and no poisoned line in the directory that it may use: it starts. -/
theorem State.startCode_begins
    (hdir : ((ccKey k.words).isSome && t.hasPoison .dom0 (dSbuf (t.cell (ccCell k.words)).desc) 32768) = false) :
    s.startCode g op start = start t k bs := by
  simp [State.startCode, hidle, hnext, hnew, hop, hcheck, hload, hdir]

/-- A poisoned line of its directory ends it with TIER_ERROR. -/
theorem State.startCode_poisoned
    (hdir : ((ccKey k.words).isSome && t.hasPoison .dom0 (dSbuf (t.cell (ccCell k.words)).desc) 32768) = true) :
    s.startCode g op start = t.codeRefuse g k .tierError := by
  simp [State.startCode, hidle, hnext, hnew, hop, hcheck, hload, hdir]

end

/-- LDPC commands use a directory. -/
theorem ccKey_ldpc {ws : List Word} (hop : ccOp ws = 1 ∨ ccOp ws = 2) : (ccKey ws).isSome = true := by
  rcases hop with hop | hop <;> simp [ccKey, hop]

/-- Polar commands use none. -/
theorem ccKey_polar {ws : List Word} (hop : ccOp ws = 3 ∨ ccOp ws = 4) : (ccKey ws).isSome = false := by
  rcases hop with hop | hop <;> simp [ccKey, hop]

/-! A claim that takes an entry, and the soft bits of new data (R200, R201). -/

/-- The entry that a claim takes holds the command's key once it is written, where the slot is large enough. -/
theorem State.claim_takes {s : State} {ws : List Word} {need i : Nat}
    (hentry : s.claimEntry (s.cell (ccCell ws)).desc ((ccKey ws).getD 0) = some (i, false))
    (hfits : need ≤ sbSlotSize (s.cell (ccCell ws)).desc) :
    s.claim ws need =
      some (.ok (i, s.putDir (s.cell (ccCell ws)).desc i (dirWords ((ccKey ws).getD 0) ws (segOf ws) s.now32))) := by
  unfold State.claim
  extract_lets c d key
  rw [hentry]
  exact if_neg (Nat.not_lt.2 hfits)

/-- New data is combined into a slot of zeros. -/
theorem State.beginLdec_newData {s : State} {g : Nat} {k : CodeCmd} {soft : List Byte} {i : Nat} (hndi : ccNdi k.words = true)
    (hentry : s.claimEntry (s.cell (ccCell k.words)).desc ((ccKey k.words).getD 0) = some (i, false))
    (hfits : (segOf k.words).c * (segOf k.words).ncb ≤ sbSlotSize (s.cell (ccCell k.words)).desc) :
    s.beginLdec g k soft =
      ((((s.putDir (s.cell (ccCell k.words)).desc i (dirWords ((ccKey k.words).getD 0) k.words (segOf k.words) s.now32)).putDev .dom0
        (sbSlotAddr (s.cell (ccCell k.words)).desc i) (List.replicate (sbSlotSize (s.cell (ccCell k.words)).desc) 0#8)).combineAll
          k.words i soft).beginCode g k (segOf k.words).c (some i)) := by
  have hfresh : s.beginLdec g k soft = State.beginLdec.fresh s g k soft s (s.cell (ccCell k.words)).desc (segOf k.words) := by
    unfold State.beginLdec
    extract_lets ws c d seg key found
    rw [show found = none from if_pos hndi]
    exact congrArg (State.beginLdec.fresh s g k soft · d seg) (if_pos hndi)
  rw [hfresh]
  unfold State.beginLdec.fresh
  rw [State.claim_takes hentry hfits]

/-! The record of a command that ends in time (R192, R244). -/

/-- The words of that record. -/
def State.codeWords (s : State) (k : CodeCmd) (c : Code) (tbok : Bool) (ac : Nat) : List Word :=
  [w32 (fld (wAt k.words 0) 15 0 + codeVal c * 65536 + b1 tbok * 2 ^ 24 + k.itMax % 16 * 2 ^ 25), w32 ac, s.now32,
    w32 (k.cbErr % 65536 + ccNcb k.words % 65536 * 65536)]

/-- Tag, code and count of blocks of a record. -/
theorem State.codeWords_fields (s : State) (k : CodeCmd) (c : Code) (ac : Nat) :
    fld (wAt (s.codeWords k c false ac) 0) 15 0 = fld (wAt k.words 0) 15 0 ∧ fld (wAt (s.codeWords k c false ac) 0) 23 16 = codeVal c % 256 ∧
      fld (wAt (s.codeWords k c false ac) 3) 31 16 = ccNcb k.words % 65536 := by
  have htag : fld (wAt k.words 0) 15 0 < 65536 := Nat.mod_lt _ (by decide)
  have hcode : codeVal c < 256 := by cases c <;> decide
  have hword (n : Nat) : (w32 n).toNat = n % 4294967296 := BitVec.toNat_ofNat _ _
  unfold State.codeWords
  generalize fld (wAt k.words 0) 15 0 = tag at htag ⊢
  simp only [wAt, List.getD_cons_zero, List.getD_cons_succ, b1, fld, hword, Bool.false_eq_true, if_false, Nat.zero_mul,
    Nat.add_zero, Nat.pow_zero, Nat.div_one]
  omega

/-- What an LDEC tells its PUSCH PDU stands in its cell. -/
theorem State.puschDecoded_frame (s : State) (ws : List Word) (tbok : Bool) (err : Nat) :
    s.puschDecoded ws tbok err = { s with cells := (s.puschDecoded ws tbok err).cells } := by
  simp only [State.puschDecoded]
  split
  · rfl
  · split <;> rfl

/-- The lane of a command, its context's port holding one more record. -/
def State.codeServed (s : State) (k : CodeCmd) (r : List Word) : Lane :=
  (s.lane k.lane.val).setCtx k.lctx.val
    { s.lctx k.lane.val k.lctx.val with arriving := (s.lctx k.lane.val k.lctx.val).arriving ++ [r] }

/-- The engine without the command. -/
def Grove.withoutCode (x : Grove) (q : Nat) : Grove :=
  { x with ceQueue := x.ceQueue.filter (fun y => y.seq ≠ q), ceBusy := if x.ceBusy = some q then none else x.ceBusy }

/-- Before its deadline a command's record goes to its lane's context, the command leaves the engine, and no miss is counted. -/
theorem State.codeRecord_inTime (s : State) (g : Nat) (k : CodeCmd) (c : Code) (tbok : Bool) (ac : Nat)
    (htime : s.pastTag (fld (wAt k.words 1) 23 0) = false) :
    ∃ cs, s.codeRecord g k c tbok ac =
      ({ s with lanes := s.lanes.set k.lane.val (s.codeServed k (s.codeWords k c tbok ac)), cells := cs } : State).setGrove g
        ((s.grove g).withoutCode k.seq) := by
  simp only [State.codeRecord, State.closeCode, htime, Bool.false_eq_true, if_false]
  exact ⟨_, State.puschDecoded_frame _ _ _ _⟩

/-- At a block boundary an engine changes at most the block that is in progress. -/
theorem State.codeTake_setGrove (s : State) (g : Nat) (x : Grove) :
    ∃ b, (s.setGrove g x).codeTake g = s.setGrove g { x with ceBusy := b } := by
  unfold State.codeTake
  split
  · split
    · exact ⟨_, by rw [State.updGrove_eq, State.setGrove_self, State.setGrove_setGrove]⟩
    · exact ⟨x.ceBusy, rfl⟩
  · exact ⟨x.ceBusy, rfl⟩

/-- A refusal in time: the record with the code, the command gone from the engine, and a free value taken for its clocks. -/
theorem State.codeRefuse_inTime (s : State) (g : Nat) (k : CodeCmd) (c : Code) (htime : s.pastTag (fld (wAt k.words 1) 23 0) = false) :
    ∃ cs b, s.codeRefuse g k c =
      ({ s with
        fresh := s.fresh + 1, lanes := s.lanes.set k.lane.val (s.codeServed k (s.codeWords k c false s.freeAc.1))
        cells := cs } : State).setGrove g { (s.grove g).withoutCode k.seq with ceBusy := b } := by
  obtain ⟨cs, hrec⟩ := State.codeRecord_inTime s.freeAc.2 g k c false s.freeAc.1 htime
  obtain ⟨b, htake⟩ := State.codeTake_setGrove { s with
    fresh := s.fresh + 1, lanes := s.lanes.set k.lane.val (s.codeServed k (s.codeWords k c false s.freeAc.1))
    cells := cs } g ((s.grove g).withoutCode k.seq)
  exact ⟨cs, b, (congrArg (State.codeTake · g) hrec).trans htake⟩

/-- The port of the context that the record reached. -/
theorem State.codeServed_arriving (s : State) (k : CodeCmd) (r : List Word) :
    ((s.codeServed k r).ctx k.lctx.val).arriving = (s.lctx k.lane.val k.lctx.val).arriving ++ [r] := by
  simp [State.codeServed, Lane.ctx, Lane.setCtx]

/-- Settles O31, from what the start of a command comes to in each case of its conditions, and from the record of a refusal. -/
theorem codingCommandsStart : Obligations.CodingCommandsStart := by
  refine ⟨?ldec, ?lenc, ?pdec, ?penc, ?refused, ?other, ?newData, ?poisoned, ?record⟩
  case ldec =>
    rintro s g k hidle hnext ⟨hnew, hop⟩ hcheck hload hdir
    exact congrArg Host.Outcome.next ((State.startCode_known _ hnext (by omega)).trans
      (State.startCode_begins _ hidle hnext hnew hop hcheck (Prod.ext hload rfl) (by rw [hdir, Bool.and_false])))
  case lenc =>
    rintro s g k hidle hnext ⟨hnew, hop⟩ hcheck hload hdir
    exact congrArg Host.Outcome.next ((State.startCode_known _ hnext (by omega)).trans
      (State.startCode_begins _ hidle hnext hnew hop hcheck (Prod.ext hload rfl) (by rw [hdir, Bool.and_false])))
  case pdec =>
    rintro s g k hidle hnext ⟨hnew, hop⟩ hcheck hload
    exact congrArg Host.Outcome.next ((State.startCode_known _ hnext (by omega)).trans
      (State.startCode_begins _ hidle hnext hnew hop hcheck (Prod.ext hload rfl) (by rw [ccKey_polar (.inl hop), Bool.false_and])))
  case penc =>
    rintro s g k hidle hnext ⟨hnew, hop⟩ hcheck hload
    exact congrArg Host.Outcome.next ((State.startCode_known _ hnext (by omega)).trans
      (State.startCode_begins _ hidle hnext hnew hop hcheck (Prod.ext hload rfl) (by rw [ccKey_polar (.inr hop), Bool.false_and])))
  case refused =>
    rintro s g k c hidle hnext ⟨hnew, hop⟩ ⟨hcheck, hc⟩
    exact congrArg Host.Outcome.next ((State.startCode_known _ hnext (by omega)).trans
      (State.startCode_refuses _ hidle hnext hnew hop hcheck hc))
  case other =>
    intro s g k _ hnext hop
    exact congrArg Host.Outcome.next ((State.startCode_known _ hnext (by omega)).trans (State.startCode_other _ hnext (by omega)))
  case newData =>
    rintro s g k soft i d sg ⟨rfl, rfl⟩ hndi hentry hfits
    exact State.beginLdec_newData hndi hentry hfits
  case poisoned =>
    rintro s g k hidle hnext ⟨hnew, hop⟩ hcheck hload hdir
    exact congrArg Host.Outcome.next ((State.startCode_known _ hnext (by omega)).trans
      (State.startCode_poisoned _ hidle hnext hnew hop hcheck (Prod.ext hload rfl) (by rw [ccKey_ldpc (.inl hop), hdir, Bool.and_self])))
  case record =>
    intro s g k c htime
    obtain ⟨cs, b, hu⟩ := s.codeRefuse_inTime g k c htime
    obtain ⟨htag, hcode, hncb⟩ := s.codeWords_fields k c s.freeAc.1
    have hlane : (s.codeRefuse g k c).lane k.lane.val = s.codeServed k (s.codeWords k c false s.freeAc.1) := by
      rw [hu]; exact Table.get_set_self _ _ _ _
    have hgrove : (s.codeRefuse g k c).grove g = { (s.grove g).withoutCode k.seq with ceBusy := b } := by
      rw [hu, State.setGrove_self]
    have hport : ((s.codeRefuse g k c).lctx k.lane.val k.lctx.val).arriving =
        (s.lctx k.lane.val k.lctx.val).arriving ++ [s.codeWords k c false s.freeAc.1] :=
      (congrArg (fun l : Lane => (l.ctx k.lctx.val).arriving) hlane).trans (s.codeServed_arriving k _)
    refine ⟨congrArg Grove.ceQueue hgrove, ?one, ?words, ?frame⟩
    case one => rw [hport, List.length_append, List.length_singleton]
    case words => rw [hport, List.getLast?_concat, Option.map_some, htag, hcode, hncb]
    case frame => rw [hgrove, hlane, hu]; rfl

/-! The end of a block (R193, R196 to R198, R303). -/

/-- The command once the block in progress has ended. -/
def State.codeBlockDone (s : State) (k : CodeCmd) : CodeCmd :=
  if ccOp k.words = 1 then s.decodeBlock k else if ccOp k.words = 2 then encodeBlock k else polarBlock k

/-- The engine that holds the command as it stands after the block, with no block in progress. -/
def Grove.blockOver (x : Grove) (k : CodeCmd) : Grove :=
  { x with ceQueue := x.ceQueue.map (fun y => if y.seq = k.seq then k else y), ceBusy := none }

/-- With no block in progress nothing ends. -/
theorem execCodeBlockEnd_idle (s : State) (g : GroveId) (h : (s.grove g.val).ceBusy = none) : execCodeBlockEnd g s = .next s := by
  have hnone : (s.grove g.val).ceQueue.find? (fun y => decide ((s.grove g.val).ceBusy = some y.seq)) = none :=
    List.find?_eq_none.2 (fun y _ => by simp [h])
  simp only [execCodeBlockEnd, hnone]

section
variable {s : State} {g : GroveId} {k : CodeCmd}
  (hbusy : (s.grove g.val).ceQueue.find? (fun y => decide ((s.grove g.val).ceBusy = some y.seq)) = some k)
include hbusy

/-- A sound block is stored and frees the engine; the last one ends its command. -/
theorem execCodeBlockEnd_sound (hsound : s.blockPoisoned k = false) :
    execCodeBlockEnd g s = .next (State.codeTake
      (if (s.codeBlockDone k).blocks ≤ (s.codeBlockDone k).next
        then (s.setGrove g.val ((s.grove g.val).blockOver (s.codeBlockDone k))).endCode g.val (s.codeBlockDone k)
        else s.setGrove g.val ((s.grove g.val).blockOver (s.codeBlockDone k))) g.val) := by
  have hover : (s.putCode g.val (s.codeBlockDone k)).updGrove g.val (fun y => { y with ceBusy := none }) =
      s.setGrove g.val ((s.grove g.val).blockOver (s.codeBlockDone k)) := by
    rw [State.putCode, State.updGrove_eq, State.updGrove_eq, State.setGrove_self, State.setGrove_setGrove]
    rfl
  rw [← hover]
  simp only [execCodeBlockEnd, hbusy, hsound, Bool.false_eq_true, if_false]
  rfl

/-- A poisoned block ends its command with TIER_ERROR. -/
theorem execCodeBlockEnd_poisoned (hpoison : s.blockPoisoned k = true) :
    execCodeBlockEnd g s = .next ((s.codeRecord g.val k .tierError false k.ac).codeTake g.val) := by
  simp only [execCodeBlockEnd, hbusy, hpoison, if_true]

end

/-! Directory entries (R199, R202, R204). -/

/-- The soft-buffer directory lies below the lane memories. -/
theorem inLanes_directory (d : List Word) {i : Nat} (hi : i < 1024) (len : Nat) : inLanes .dom0 (dSbuf d + 32 * i) len = false := by
  have hbase : fld (wAt d 9) 27 0 < 2 ^ 28 := Nat.mod_lt _ (by decide)
  have hlow : ¬ laneLo ≤ dSbuf d + 32 * i := by simp only [dSbuf, laneLo]; omega
  simp [inLanes, hlow]

/-- A directory entry written changes device memory alone. -/
theorem State.putDir_besideMem (s : State) (d : List Word) {i : Nat} (hi : i < 1024) (ws : List Word) :
    (s.putDir d i ws).besideMem = s.besideMem :=
  s.putDevTag_besideMem _ _ _ _ (inLanes_directory d hi _)

/-- The directory with every VALID bit clear. -/
def State.clearValid (s : State) (d : List Word) : State :=
  foldN 1024 (fun i t =>
    let ws := s.dirEntry d i
    if bitOf (wAt ws 0) 21 then t.putDir d i (setAt ws 0 (setBitTo (wAt ws 0) 21 false)) else t) s

theorem State.clearValid_besideMem (s : State) (d : List Word) : (s.clearValid d).besideMem = s.besideMem := by
  refine foldN_keeps (P := fun t : State => t.besideMem = s.besideMem) 1024 (fun i hi t ht => ?_) rfl
  dsimp only
  split
  · exact (t.putDir_besideMem d hi _).trans ht
  · exact ht

/-- The user of a locked entry is done: LOCK clears. -/
theorem execHarqLockRelease_clears {s : State} {c : CellId} {e : Nat} (hcell : (s.cell c.val).phase ≠ .free) (he : e < 1024)
    (hdone : s.entryBusy c.val e = false) (hlock : bitOf (wAt (s.dirEntry (s.cell c.val).desc e) 0) 22 = true) :
    execHarqLockRelease c e s = .next (s.putDir (s.cell c.val).desc e
      (setAt (s.dirEntry (s.cell c.val).desc e) 0 (setBitTo (wAt (s.dirEntry (s.cell c.val).desc e) 0) 22 false))) := by
  simp only [execHarqLockRelease, hcell, hdone, hlock, Nat.not_le.2 he, decide_false, Bool.or_self, Bool.false_eq_true, if_false, if_true]

/-- An entry in use keeps its LOCK. -/
theorem execHarqLockRelease_busy {s : State} {c : CellId} {e : Nat} (hbusy : s.entryBusy c.val e = true) :
    execHarqLockRelease c e s = .next s := by
  simp [execHarqLockRelease, hbusy]

/-- A draining cell that is not forced, takes no more claims and has no entry locked gives its soft buffers back. -/
theorem execSoftBufferRelease_due {s : State} {c : CellId} (hphase : (s.cell c.val).phase = .draining) (hkept : (s.cell c.val).sbFree = false)
    (hforced : (s.cell c.val).forced = false) (hshut : s.claimsShut c.val = true)
    (hlocks : (List.range 1024).all (fun i => !bitOf (wAt (s.dirEntry (s.cell c.val).desc i) 0) 22) = true) :
    execSoftBufferRelease c s = .next ((s.clearValid (s.cell c.val).desc).updCell c.val (fun y => { y with sbFree := true })) := by
  have hnone : (List.range 1024).any (fun i => bitOf (wAt (s.dirEntry (s.cell c.val).desc i) 0) 22) = false := by
    rw [List.any_eq_not_all_not, hlocks, Bool.not_true]
  simp only [execSoftBufferRelease, hphase, hkept, hforced, hshut, hnone, decide_true, Bool.not_false, Bool.not_true, Bool.and_self,
    Bool.false_and, Bool.or_true, Bool.or_self, Bool.false_eq_true, if_false]
  rfl

/-- Settles O32, from what the end of a block comes to in each case, and from a directory write, which changes device memory alone. -/
theorem codeBlocksEnd : Obligations.CodeBlocksEnd := by
  refine ⟨?more, ?last, ?poisoned, execCodeBlockEnd_idle, ?lock, ?busy, ?release⟩
  case more =>
    intro s g k hbusy hsound hmore
    exact (execCodeBlockEnd_sound hbusy hsound).trans
      (congrArg (fun t : State => Host.Outcome.next (t.codeTake g.val)) (if_neg (Nat.not_le.2 hmore)))
  case last =>
    intro s g k hbusy hsound hlast
    exact (execCodeBlockEnd_sound hbusy hsound).trans
      (congrArg (fun t : State => Host.Outcome.next (t.codeTake g.val)) (if_pos hlast))
  case poisoned => exact fun s g k hbusy hpoison => execCodeBlockEnd_poisoned hbusy hpoison
  case lock =>
    rintro s c e ⟨hcell, he⟩ hdone hlock
    exact execHarqLockRelease_clears hcell he hdone hlock
  case busy => exact fun s c e hbusy => execHarqLockRelease_busy hbusy
  case release =>
    rintro s c ⟨hphase, hkept⟩ ⟨hforced, hshut⟩ hlocks
    have hdue := execSoftBufferRelease_due hphase hkept hforced hshut hlocks
    obtain ⟨hcells, htiles, hgroves, hlanes⟩ := State.units_of_besideMem (s.clearValid_besideMem (s.cell c.val).desc)
    generalize s.clearValid (s.cell c.val).desc = t at hdue hcells htiles hgroves hlanes
    have hcell : t.cell c.val = s.cell c.val := congrArg (Table.get Cell.free · c.val) hcells
    refine ⟨_, hdue, ?free, ?cells, ?units⟩
    case free => rw [State.updCell_eq, State.setCell_self]
    case cells =>
      rw [State.updCell_eq, hcell, ← hcells]
      rfl
    case units =>
      exact ⟨htiles, hgroves, congrArg List.length hlanes⟩

/-! The shares of a transport block's bits (R195). -/

/-- A sum whose first a terms are x and whose next b terms are y. -/
theorem sum_range_two_values (a b x y : Nat) :
    ((List.range (a + b)).map (fun r => if r < a then x else y)).sum = a * x + b * y := by
  induction b with
  | zero =>
    rw [Nat.add_zero, List.map_congr_left (fun r hr => if_pos (List.mem_range.1 hr))]
    simp
  | succ b ih =>
    rw [← Nat.add_assoc, List.range_succ, List.map_append, List.sum_append, ih]
    simp [Nat.succ_mul, Nat.add_assoc]

/-- Rounded up, a quotient that leaves a remainder is one more. -/
theorem cdiv_of_rem {u n m : Nat} (hu : 0 < u) (hn : 0 < n) (hm : 0 < m % n) : cdiv (u * m) (u * n) = m / n + 1 := by
  have hun : 0 < u * n := Nat.mul_pos hu hn
  have hrem : u * m = u * n * (m / n) + u * (m % n) := by
    rw [Nat.mul_assoc, ← Nat.mul_add, Nat.div_add_mod]
  have hlow : 0 < u * (m % n) := Nat.mul_pos hu hm
  have hhigh : u * (m % n) < u * n := Nat.mul_lt_mul_of_pos_left (Nat.mod_lt _ hn) hu
  rw [cdiv, if_neg hun.ne']
  refine Nat.div_eq_of_lt_le ?_ ?_
  · rw [Nat.mul_comm, Nat.mul_add]
    omega
  · rw [Nat.mul_comm (_ + 1), Nat.mul_add, Nat.mul_add]
    omega

/-- Er of block r of n where G is m units of layers times bits per symbol: the last m mod n blocks hold one unit more. -/
theorem blockE_of_units {ws : List Word} {n m : Nat} (hu : 0 < ccNl ws * ccQm ws) (hG : ccG ws = ccNl ws * ccQm ws * m) (r : Nat) :
    blockE ws n r = if r < n - m % n then ccNl ws * ccQm ws * (m / n)
      else ccNl ws * ccQm ws * cdiv (ccNl ws * ccQm ws * m) (ccNl ws * ccQm ws * n) := by
  simp only [blockE, hG, Nat.mul_div_cancel_left m hu, Nat.mul_div_mul_left m n hu]

/-- The shares add up to G. -/
theorem sum_blockE {ws : List Word} {n : Nat} (hn : 0 < n) (hu : 0 < ccNl ws * ccQm ws) (hG : ccNl ws * ccQm ws ∣ ccG ws) :
    ((List.range n).map (blockE ws n)).sum = ccG ws := by
  obtain ⟨m, hm⟩ := hG
  have hj : m % n < n := Nat.mod_lt _ hn
  rw [funext (blockE_of_units hu hm), hm]
  generalize ccNl ws * ccQm ws = u at hu
  have hsum := sum_range_two_values (n - m % n) (m % n) (u * (m / n)) (u * cdiv (u * m) (u * n))
  rw [Nat.sub_add_cancel hj.le] at hsum
  rw [hsum]
  rcases Nat.eq_zero_or_pos (m % n) with h0 | hpos
  · rw [h0, Nat.zero_mul, Nat.add_zero, Nat.sub_zero, Nat.mul_left_comm, Nat.mul_div_cancel' (Nat.dvd_of_mod_eq_zero h0)]
  · calc (n - m % n) * (u * (m / n)) + m % n * (u * cdiv (u * m) (u * n))
        = u * ((n - m % n + m % n) * (m / n) + m % n) := by rw [cdiv_of_rem hu hn hpos]; ring
      _ = u * m := by rw [Nat.sub_add_cancel hj.le, Nat.div_add_mod]

/-- A block begins where the blocks before it end. -/
theorem blockOff_succ (ws : List Word) (n r : Nat) : blockOff ws n (r + 1) = blockOff ws n r + blockE ws n r := by
  simp [blockOff, List.range_succ]

/-! Combining (R201). -/

/-- A soft bit as the buffer keeps it: within −127 to 127. -/
def InSoftRange (v : Int) : Prop := -127 ≤ v ∧ v ≤ 127

theorem clip127_inSoftRange (v : Int) : InSoftRange (clip127 v) := by
  simp only [InSoftRange, clip127]
  omega

/-- One value written within the range leaves all of them in it, and their number. -/
theorem set_inSoftRange {vs : List Int} (h : ∀ v ∈ vs, InSoftRange v) (i : Nat) {x : Int} (hx : InSoftRange x) :
    ∀ v ∈ vs.set i x, InSoftRange v :=
  fun v hv => (List.mem_or_eq_of_mem_set hv).elim (h v) (fun heq => heq ▸ hx)

/-- Combining a block writes clipped sums into its part of the slot, and nothing else. -/
theorem combineBlock_keeps (g : Seg) (ws : List Word) (soft : List Byte) (r : Nat) (held : List Int) (h : ∀ v ∈ held, InSoftRange v) :
    (combineBlock g ws soft r held).length = held.length ∧ ∀ v ∈ combineBlock g ws soft r held, InSoftRange v :=
  foldS_keeps (P := fun vs : List Int => vs.length = held.length ∧ ∀ v ∈ vs, InSoftRange v) _
    (fun jp _ _ hvs => ⟨List.length_set.trans hvs.1, set_inSoftRange hvs.2 jp.2 (clip127_inSoftRange _)⟩) ⟨rfl, h⟩

/-- Settles O33, from the sum of the shares, the step of a block's beginning, and the clip that every combined value passes. -/
theorem rateMatchingAndCombining : Obligations.RateMatchingAndCombining := by
  refine ⟨?shares, fun ws n r => ⟨blockOff_succ ws n r, rfl⟩, combineBlock_keeps⟩
  case shares =>
    rintro ws n hn ⟨hNl, hQm⟩ hG
    exact sum_blockE hn (Nat.mul_pos hNl hQm) (Nat.dvd_of_mod_eq_zero hG)

end Sys2Proof.Machine
end

section
/-! PROOFS. Deadline scheduling (O34, O35): the hand-over and the fixing of a plan, late requests, and the spill, return and restore of a
lent tile. -/

namespace Sys2Proof.Machine
open Sys2Proof

/-! The scheduler state of a tile (R236). -/

theorem State.toSched_tile_self (s : State) (t : Nat) (z : TSched) : (s.toSched t z).tile t = { s.tile t with sched := z } := by
  rw [State.toSched_frame]
  exact s.setTile_self t _

theorem State.toSched_tile_ne (s : State) {t j : Nat} (z : TSched) (h : j ≠ t) : (s.toSched t z).tile j = s.tile j := by
  rw [State.toSched_frame]
  exact s.setTile_ne t j _ h

/-- With no context that holds the tile, it changes the tile alone. -/
theorem State.toSched_unheld (s : State) {t : Nat} (z : TSched) (h : (s.tile t).holder = none) :
    s.toSched t z = s.setTile t { s.tile t with sched := z } := by
  unfold State.toSched
  split
  · rename_i hheld
    cases h.symm.trans hheld
  · rfl

/-- Of a tile just written: the tile as written, in the new state, and contexts. -/
theorem State.setTile_toSched (s : State) (t : Nat) (x : Tile) (z : TSched) :
    ∃ ks, (s.setTile t x).toSched t z = { s with tiles := s.tiles.set t { x with sched := z }, ctxs := ks } ∧
      (x.holder = none → ks = s.ctxs) := by
  refine ⟨((s.setTile t x).toSched t z).ctxs, (State.toSched_frame _ _ _).trans ?_, fun hx => ?_⟩
  · rw [State.setTile_self, State.setTile_setTile]
    rfl
  · rw [State.toSched_unheld _ _ ((congrArg Tile.holder (s.setTile_self t x)).trans hx)]
    rfl

/-! The start of a scrub (R59, R84). -/

/-- A tile whose scrub has begun: its queue and engine state are gone, its store is not yet zero. -/
def Tile.scrubbing (x : Tile) : Tile :=
  { x with scrub := true, held := false, preq := false, saving := false, xferPoint := false, bank := none, queue := [], flights := [],
           saved := none }

/-- Where event HELD does not stand, the tile alone changes. -/
theorem State.startScrub_quiet (s : State) {t : Nat} (h : bitOf (s.evtRaw (pgTile t)) 2 = false) :
    s.startScrub t = s.setTile t (s.tile t).scrubbing :=
  if_neg (Bool.eq_false_iff.1 h)

/-- Of a tile with no command, queue and flights stay empty. -/
theorem Tile.scrubbing_idle {x : Tile} (hqueue : x.queue = []) (hflights : x.flights = []) :
    x.scrubbing = { x with
      scrub := true, held := false, preq := false, saving := false, xferPoint := false, bank := none, saved := none } := by
  rw [Tile.scrubbing, hqueue, hflights]

theorem State.startScrub_scheds (s : State) (t : Nat) : (s.startScrub t).scheds = s.scheds := by
  simp only [State.startScrub]
  split
  · rw [State.level_frame]
    rfl
  · rfl

/-! Events of another page. -/

/-- An event of a page leaves the event registers of every other page. -/
theorem State.evtBar0_other (s : State) {p q : Page} (raw pulse : Word) (h : pageKey q ≠ pageKey p) :
    (s.evtBar0 p raw pulse).evtRaw q = s.evtRaw q ∧ (s.evtBar0 p raw pulse).evtPend q = s.evtPend q := by
  have hlatch : (s.latch p raw pulse).evtRaw q = s.evtRaw q ∧ (s.latch p raw pulse).evtPend q = s.evtPend q :=
    ⟨Table.get_set_ne h _ _ _, Table.get_set_ne h _ _ _⟩
  simp only [State.evtBar0]
  split
  · rw [State.notifyBar0_frame]
    exact hlatch
  · exact hlatch

theorem State.level_other (s : State) {p q : Page} (b : Nat) (on : Bool) (h : pageKey q ≠ pageKey p) :
    (s.level p b on).evtRaw q = s.evtRaw q ∧ (s.level p b on).evtPend q = s.evtPend q :=
  s.evtBar0_other _ _ h

/-- An event that comes to stand stands in EVT_RAW. -/
theorem State.level_on (s : State) (p : Page) {b : Nat} (hb : b < 32) : bitOf ((s.level p b true).evtRaw p) b = true := by
  rw [State.level, State.evtBar0_raw]
  simp [bitOf, setBitTo, hb]

/-! The tiles of a die, and a fold over them. -/

theorem mem_dieTiles {d t : Nat} : t ∈ dieTiles d ↔ t / 256 = d := by
  simp only [dieTiles, List.mem_map, List.mem_range]
  constructor
  · rintro ⟨i, hi, rfl⟩
    omega
  · exact fun h => ⟨t % 256, Nat.mod_lt _ (by decide), by omega⟩

theorem dieTiles_nodup (d : Nat) : (dieTiles d).Nodup :=
  List.nodup_range.map (fun _ _ h => Nat.add_left_cancel h)

section
variable {f : Nat → State → State} {g : Nat → Tile → Tile} (hne : ∀ t j (u : State), j ≠ t → (f t u).tile j = u.tile j)
include hne

/-- Steps that each leave all tiles but one leave a tile that is not listed. -/
theorem foldS_tile_ne {ts : List Nat} {t : Nat} (ht : t ∉ ts) (s : State) : (foldS ts f s).tile t = s.tile t :=
  foldS_keeps (P := fun u : State => u.tile t = s.tile t) ts
    (fun j hj u hu => (hne j t u (ne_of_mem_of_not_mem hj ht).symm).trans hu) rfl

variable (hself : ∀ t (u : State), (f t u).tile t = g t (u.tile t))
include hself

/-- A tile that the list holds once has taken its own step. -/
theorem foldS_tile_mem {ts : List Nat} (hnodup : ts.Nodup) {t : Nat} (ht : t ∈ ts) (s : State) :
    (foldS ts f s).tile t = g t (s.tile t) := by
  induction ts generalizing s with
  | nil => cases ht
  | cons j ts ih =>
    obtain ⟨hj, hrest⟩ := List.nodup_cons.1 hnodup
    change (foldS ts f (f j s)).tile t = _
    rcases List.mem_cons.1 ht with rfl | hmem
    · rw [foldS_tile_ne hne hj, hself]
    · rw [ih hrest hmem, hne j t s (ne_of_mem_of_not_mem hmem hj)]

end

/-! The hand-over (R228, R234). -/

theorem State.updSched_self (s : State) (d : Nat) (f : Sched → Sched) : (s.updSched d f).sched d = f (s.sched d) :=
  Table.get_set_self _ _ _ _

/-- What the hand-over makes of a tile that the plan names, or does not. -/
def Tile.handedOver (x : Tile) (named : Bool) : Tile :=
  if x.sched = .standby then { x with sched := if named then .lent else .drain }
  else if x.sched = .lent ∧ named = false then { x with sched := .drain }
  else x

/-- The hand-over of one tile. -/
def State.handOverTile (plan : List Nat) (t : Nat) (u : State) : State :=
  match (u.tile t).sched with
  | .standby => u.toSched t (if plan.contains t then .lent else .drain)
  | .lent => if plan.contains t then u else u.toSched t .drain
  | _ => u

theorem State.handOver_eq (s : State) (d : Nat) :
    s.handOver d = foldS (dieTiles d) (State.handOverTile (s.sched d).plan) (s.updSched d (fun x => { x with cur := (s.sched d).plan })) :=
  rfl

theorem State.handOverTile_self (plan : List Nat) (t : Nat) (u : State) :
    (u.handOverTile plan t).tile t = (u.tile t).handedOver (plan.contains t) := by
  unfold State.handOverTile Tile.handedOver
  split
  case h_1 hz => rw [State.toSched_tile_self, if_pos hz]
  case h_2 hz =>
    cases hplan : plan.contains t
    · simp [hz, State.toSched_tile_self]
    · simp [hz]
  case h_3 hstandby hlent => rw [if_neg hstandby, if_neg (fun h => hlent h.1)]

theorem State.handOverTile_ne (plan : List Nat) (t j : Nat) (u : State) (h : j ≠ t) : (u.handOverTile plan t).tile j = u.tile j := by
  unfold State.handOverTile
  split
  · exact State.toSched_tile_ne _ _ h
  · split
    · rfl
    · exact State.toSched_tile_ne _ _ h
  · rfl

/-- It changes tiles and contexts. -/
theorem State.handOverTile_frame (plan : List Nat) (t : Nat) (u : State) :
    u.handOverTile plan t = { u with tiles := (u.handOverTile plan t).tiles, ctxs := (u.handOverTile plan t).ctxs } := by
  have hsched (z : TSched) : u.toSched t z = { u with tiles := (u.toSched t z).tiles, ctxs := (u.toSched t z).ctxs } := by
    rw [State.toSched_frame]
    rfl
  unfold State.handOverTile
  split
  · exact hsched _
  · split
    · rfl
    · exact hsched _
  · rfl

theorem State.handOver_frame (s : State) (d : Nat) :
    s.handOver d = { s with
      tiles := (s.handOver d).tiles, ctxs := (s.handOver d).ctxs, scheds := s.scheds.set d { s.sched d with cur := (s.sched d).plan } } := by
  rw [State.handOver_eq]
  refine foldS_keeps (P := fun u : State => u = { s with
      tiles := u.tiles, ctxs := u.ctxs, scheds := s.scheds.set d { s.sched d with cur := (s.sched d).plan } }) _ (fun t _ u hu => ?_) rfl
  rw [State.handOverTile_frame]
  exact congrArg (fun v : State => { v with
    tiles := (u.handOverTile (s.sched d).plan t).tiles, ctxs := (u.handOverTile (s.sched d).plan t).ctxs }) hu

theorem State.handOver_cur (s : State) (d : Nat) : ((s.handOver d).sched d).cur = (s.sched d).plan := by
  have hscheds : (s.handOver d).scheds = s.scheds.set d { s.sched d with cur := (s.sched d).plan } :=
    (congrArg State.scheds (s.handOver_frame d) :)
  rw [State.sched, hscheds, Table.get_set_self]

/-- A tile of the die has been handed over. -/
theorem State.handOver_tile (s : State) {d t : Nat} (ht : t / 256 = d) :
    (s.handOver d).tile t = (s.tile t).handedOver ((s.sched d).plan.contains t) := by
  rw [State.handOver_eq]
  exact foldS_tile_mem (State.handOverTile_ne _) (g := fun j x => x.handedOver ((s.sched d).plan.contains j))
    (State.handOverTile_self _) (dieTiles_nodup d) (mem_dieTiles.2 ht) _

/-- A tile of another die is as before. -/
theorem State.handOver_tile_ne (s : State) {d t : Nat} (ht : t / 256 ≠ d) : (s.handOver d).tile t = s.tile t := by
  rw [State.handOver_eq]
  exact foldS_tile_ne (State.handOverTile_ne _) (mt mem_dieTiles.1 ht) _

/-! The events of a period (R249). -/

theorem State.evtBar0_scheds (s : State) (p : Page) (raw pulse : Word) : (s.evtBar0 p raw pulse).scheds = s.scheds := by
  rw [State.evtBar0_frame]

theorem State.sdsPeriod_raisedNow (s : State) (d : Nat) : ((s.sdsPeriod d).sched d).raisedNow = 0 :=
  calc ((s.sdsPeriod d).sched d).raisedNow
      = ((s.updSched d (fun x => { x with raisedNow := 0 })).sched d).raisedNow :=
        congrArg (fun ss => (Table.get Sched.reset ss d).raisedNow) (State.evtBar0_scheds _ _ _ _)
    _ = 0 := by rw [State.updSched_self]

/-! The next plan (R230 to R232). -/

theorem State.toSched_scheds (s : State) (t : Nat) (z : TSched) : (s.toSched t z).scheds = s.scheds := by
  rw [State.toSched_frame]
  rfl

theorem State.preqTile_scheds (s : State) (t : Nat) : (s.preqTile t).scheds = s.scheds := by
  simp only [State.preqTile]
  split <;> rfl

/-- A borrow that begins leaves the plans. -/
theorem State.beginBorrow_scheds (s : State) (t : Nat) : (s.beginBorrow t).scheds = s.scheds := by
  simp only [State.beginBorrow]
  split
  · rw [State.preqTile_scheds, State.toSched_scheds]
  · split
    · exact State.toSched_scheds _ _ _
    · rw [State.toSched_scheds, State.startScrub_scheds]

theorem State.bump_sched (s : State) (p : Page) (i n d : Nat) : (s.bump p i n).sched d = s.sched d := by
  rw [State.bump_frame]
  rfl

theorem State.sdsEvent_sched (s : State) (d b : Nat) :
    (s.sdsEvent d b).sched d = { s.sched d with raisedNow := (s.sched d).raisedNow ||| 2 ^ b } :=
  s.updSched_self d _

/-- The numerology of the next period: that of the die's cells at the start of a frame, and otherwise as it was (R229). -/
def State.nextMu (s : State) (d : Nat) : Nat :=
  if (s.slotAt (s.sched d).pmu s.now).slot = 0 then s.dieMu d else (s.sched d).pmu

/-- NEED of the next period (R230). -/
def State.nextNeed (s : State) (d : Nat) : Nat :=
  cdiv (s.demand d ((s.slotAt (s.nextMu d) s.now).start + tSlot (s.nextMu d))) 900

/-- The tiles that the next plan borrows (R231). -/
def State.nextPlan (s : State) (d : Nat) : List Nat := (s.borrowList d).take (s.nextNeed d - s.ownTiles d)

/-- What the die's scheduler holds with the next plan fixed. -/
def State.nextSched (s : State) (d : Nat) : Sched :=
  { s.sched d with
    need := s.nextNeed d, borrow := (s.nextPlan d).length, pmu := s.nextMu d, boundary := (s.slotAt (s.nextMu d) s.now).start
    plan := s.nextPlan d, grp := min 32 (max 8 (fld (s.inForce (pgSds d) 0x0C0) 5 0)) }

/-- The die with its next plan fixed, a shortage counted, and no borrow begun. -/
def State.planNoted (s : State) (d : Nat) : State :=
  let b := s.nextNeed d - s.ownTiles d
  let u := { s.updSched d (fun _ => s.nextSched d) with fresh := s.fresh + 1024 }
  if (s.nextPlan d).length < b then (u.bump (pgSds d) 2 (b - (s.nextPlan d).length)).sdsEvent d 2 else u

/-- The plan is fixed, then the borrows of the tiles that are not lent yet begin. -/
theorem State.fixPlan_eq (s : State) (d : Nat) :
    s.fixPlan d = foldS (s.nextPlan d) (fun t u => if (u.tile t).sched = .lent then u else u.beginBorrow t) (s.planNoted d) := rfl

/-- The event of a shortage may be noted beside the plan. -/
theorem State.planNoted_sched (s : State) (d : Nat) : ∃ r, (s.planNoted d).sched d = { s.nextSched d with raisedNow := r } := by
  have hplan : (s.updSched d (fun _ => s.nextSched d)).sched d = s.nextSched d := s.updSched_self d _
  simp only [State.planNoted]
  split
  · refine ⟨(s.sched d).raisedNow ||| 2 ^ 2, ?_⟩
    rw [State.sdsEvent_sched, State.bump_sched]
    exact congrArg (fun x : Sched => { x with raisedNow := x.raisedNow ||| 2 ^ 2 }) hplan
  · exact ⟨_, hplan⟩

/-- The borrows that begin leave the plan. -/
theorem State.fixPlan_sched (s : State) (d : Nat) : ∃ r, (s.fixPlan d).sched d = { s.nextSched d with raisedNow := r } := by
  rw [State.fixPlan_eq]
  refine foldS_keeps (P := fun u : State => ∃ r, u.sched d = { s.nextSched d with raisedNow := r }) _ (fun t _ u hu => ?_)
    (s.planNoted_sched d)
  split
  · exact hu
  · rwa [State.sched, State.beginBorrow_scheds]

theorem execPlanPeriodBoundary_due (s : State) (d : DieId) (h : (s.slotAt (s.sched d.val).pmu s.now).start ≠ (s.sched d.val).boundary) :
    execPlanPeriodBoundary d s = .next ((((s.overrunPeriod d.val).sdsPeriod d.val).handOver d.val).fixPlan d.val) :=
  congrArg Host.Outcome.next (if_pos (decide_eq_true h))

theorem execPlanPeriodBoundary_handled (s : State) (d : DieId) (h : (s.slotAt (s.sched d.val).pmu s.now).start = (s.sched d.val).boundary) :
    execPlanPeriodBoundary d s = .next s :=
  congrArg Host.Outcome.next (if_neg (fun hat => absurd h (of_decide_eq_true hat)))

/-! Late requests (R217, R218). -/

/-- A late request's key is the lowest, and every key has 24 bits. -/
theorem State.tagKey_bounds (s : State) (a b : Nat) (l : Bool) :
    s.tagKey a true = -(2 ^ 22) ∧ -(2 ^ 22) ≤ s.tagKey b l ∧ s.tagKey b l < 2 ^ 23 := by
  refine ⟨rfl, ?_⟩
  simp only [State.tagKey]
  generalize hk : (b + 2 ^ 24 - tagOf s.now) % 2 ^ 24 = k
  have hlt : k < 2 ^ 24 := hk ▸ Nat.mod_lt _ (by decide)
  split
  · decide
  · split <;> omega

/-- The listed item takes its new form. -/
theorem markNth_of_get {α : Type} {l : List α} {n : Nat} {x : α} (h : l[n]? = some x) (f : α → α) : markNth l n f = l.set n (f x) := by
  rw [markNth, List.modify_eq_set_getElem?, h]
  rfl

theorem markCmds_late {s : State} {n : Nat} {q : List TileCmd} {c : TileCmd} (hget : q[n]? = some c)
    (hlate : s.tooLate (cmdDeadline c.words) = true) : markCmds s n q = q.set n { c with late := true } := by
  simp only [markCmds, hget, hlate, if_true]

theorem State.lateSeg_late {s : State} {x : Segment} (h : s.tooLate x.tag = true) : s.lateSeg x = { x with late := true } := if_pos h

/-- A lane that does not wait to issue: its own deadline marks it. -/
theorem execRequestLate_lane {s : State} {l : LaneId} {c : LaneCtxId} (hwait : (s.lctx l.val c.val).wait ≠ .issue) :
    execRequestLate (.lane l c) s = .next (if s.tooLate (s.lctx l.val c.val).cdl
      then s.setLctx l.val c.val { s.lctx l.val c.val with late := true } else s) := by
  simp only [execRequestLate, hwait, decide_false, Bool.false_and, Bool.false_eq_true, if_false]
  rfl

/-- One that waits to issue a late command, and is not late itself: the command is marked. -/
theorem execRequestLate_issue {s : State} {l : LaneId} {c : LaneCtxId} (hwait : (s.lctx l.val c.val).wait = .issue)
    (hissue : s.tooLate (s.issueTag l.val c.val) = true) (hown : s.tooLate (s.lctx l.val c.val).cdl = false) :
    execRequestLate (.lane l c) s = .next (s.setLctx l.val c.val { s.lctx l.val c.val with issueLate := true }) := by
  have hmark : (decide ((s.lctx l.val c.val).wait = .issue) && s.tooLate (s.issueTag l.val c.val)) = true := by simp [hwait, hissue]
  simp only [execRequestLate]
  rw [if_pos hmark, if_neg (Bool.eq_false_iff.1 hown)]
  rfl

theorem State.setLctx_self (s : State) (l c : Nat) (x : LaneCtx) : (s.setLctx l c x).lctx l c = x := by
  rw [State.lctx, State.setLctx, State.updLane_eq, State.setLane_self]
  exact Table.get_set_self _ _ _ _

/-- Settles O34: the hand-over tile by tile, the scheduler with its next plan, and the mark at each holding point. -/
theorem planPeriodsHandTilesOver : Obligations.PlanPeriodsHandTilesOver := by
  refine ⟨execPlanPeriodBoundary_due, execPlanPeriodBoundary_handled, fun s d t ht => s.handOver_tile ht.2,
    fun s d => ⟨s.handOver_cur d, s.handOver_frame d, fun t => s.handOver_tile_ne⟩,
    fun s d => ⟨State.evtBar0_raw _ _ _ _, s.sdsPeriod_raisedNow d⟩, ?plan, ?tile, ?lane, ?deck, ?code, ?slot, ?waiter, ?frame, ?req,
    ?laneInTime, ?issue, ?move, ?port, ?unacked, State.tagKey_bounds⟩
  case plan =>
    rintro s d mu start rfl rfl
    obtain ⟨r, hsched⟩ := s.fixPlan_sched d
    simp only [hsched]
    exact ⟨rfl, rfl, rfl, rfl, rfl, rfl⟩
  case tile =>
    intro s t n c hget hlate
    exact congrArg (fun q => Host.Outcome.next (s.setTile t.val { s.tile t.val with queue := q })) (markCmds_late hget hlate)
  case lane => exact fun s l c hlate hwait => (execRequestLate_lane hwait).trans (by rw [if_pos hlate])
  case deck =>
    intro s g n c hget hlate
    simp only [exec, execRequestLate, State.updGrove_eq, hget, hlate, if_true]
    rfl
  case code =>
    intro s g n c hget hlate
    simp only [exec, execRequestLate, State.updGrove_eq, hget, hlate, if_true]
    rfl
  case slot =>
    intro s pt n r hget hlate
    simp only [exec, execRequestLate, hget, hlate, if_true]
  case waiter =>
    intro s pk n w hget hlate
    simp only [exec, execRequestLate, State.updHome, hget, hlate, if_true]
    rfl
  case frame =>
    intro s p n f hget hlate
    simp only [exec, execRequestLate, State.updEth_eq, hget, hlate, if_true]
    rfl
  case req =>
    intro s k hstate hlate
    exact congrArg Host.Outcome.next (if_pos (by simp [hstate, hlate]))
  case laneInTime =>
    exact fun s l c htime hwait => (execRequestLate_lane hwait).trans (by rw [if_neg (Bool.eq_false_iff.1 htime)])
  case issue =>
    rintro s l c hwait ⟨hissue, hown⟩
    exact ⟨_, execRequestLate_issue hwait hissue hown, s.setLctx_self _ _ _, by rw [State.setLctx_self]⟩
  case move =>
    intro s n m hget hlate
    simp only [exec, execRequestLate, markNth_of_get hget, hlate, if_true]
  case port =>
    intro s n q hget hlate
    simp only [exec, execRequestLate, markNth_of_get hget, hlate, if_true]
  case unacked =>
    intro s sp n u hget hlate
    simp only [exec, execRequestLate, markNth_of_get hget, State.lateSeg_late hlate]

/-! A spill (R232, R238, R296, R298). -/

/-- The state with other lists of waiters and other counts of stalls. -/
def State.setStalls (s : State) (hs : Table Home) (os : Table Obj) (ds : Table Stalls) : State :=
  { s with mems := { s.mems with homes := hs, objects := os, dstalls := ds } }

/-- u is s but for the counts of stalls. -/
def State.StallFrame (s u : State) : Prop := u = s.setStalls s.mems.homes u.mems.objects u.mems.dstalls

/-- The time of a wait that ends is counted, and nothing else changes. -/
theorem State.StallFrame.countStall {s u : State} (h : s.StallFrame u) (pk : Nat) (w : Waiter) : s.StallFrame (u.countStall pk w) := by
  have hstep : u.StallFrame (u.countStall pk w) := by
    simp only [State.countStall]
    split
    · rfl
    · split <;> rfl
  unfold State.StallFrame at h
  exact Eq.trans hstep (congrArg (fun v : State =>
    v.setStalls v.mems.homes (u.countStall pk w).mems.objects (u.countStall pk w).mems.dstalls) h :)

/-- A transfer that leaves the lists of waiters changes those lists and the counts of stalls. -/
theorem State.dropWaiters_frame (s : State) (t : Nat) : ∃ hs os ds, s.dropWaiters t = s.setStalls hs os ds := by
  simp only [State.dropWaiters]
  generalize hu : foldS s.mems.homes _ s = u
  have hcount : s.StallFrame u := by
    rw [← hu]
    exact foldS_keeps _ (fun p _ _ hv => foldS_keeps _ (fun w _ _ hv => hv.countStall p.1 w) hv) rfl
  have hset (hs : Table Home) : { u with mems := { u.mems with homes := hs } } = s.setStalls hs u.mems.objects u.mems.dstalls :=
    congrArg (fun v : State => { v with mems := { v.mems with homes := hs } }) hcount
  exact ⟨_, _, _, hset _⟩

/-- A stall episode that ends changes contexts only. -/
theorem State.endEpisode_frame {s u : State} (h : u = { s with ctxs := u.ctxs }) (who : Issuer) :
    u.endEpisode who = { s with ctxs := (u.endEpisode who).ctxs } := by
  have hstep : u.endEpisode who = { u with ctxs := (u.endEpisode who).ctxs } := by
    unfold State.endEpisode
    split
    · rfl
    · split <;> rfl
  exact hstep.trans (congrArg (fun v : State => { v with ctxs := (u.endEpisode who).ctxs }) h)

/-- The stall episodes of contexts with commands in a tile end. -/
def State.endEpisodes (s : State) (t : Nat) (ks : List Nat) : State :=
  foldS ks (fun k u => u.endEpisode (.seq ⟨t / 32 % 32, Nat.mod_lt _ (by decide)⟩ k)) s

theorem State.endEpisodes_frame (s : State) (t : Nat) (ks : List Nat) :
    s.endEpisodes t ks = { s with ctxs := (s.endEpisodes t ks).ctxs } :=
  foldS_keeps (P := fun u : State => u = { s with ctxs := u.ctxs }) ks (fun _ _ _ hu => State.endEpisode_frame hu _) rfl

theorem tileCtxs_empty {x : Tile} (hqueue : x.queue = []) (hflights : x.flights = []) : tileCtxs x = [] := by
  simp [tileCtxs, hqueue, hflights]

/-- What a tile's spill keeps of it (R232). -/
def Tile.spillImage (x : Tile) (i : Nat) : SpillImage :=
  { store := x.store, inst := i,
    save := { queue := x.queue, flights := x.flights.map (fun f => { f with waits := false }), bank := x.bank } }

/-- A tile that is scrubbed for a borrow, with its image or without. -/
def Tile.spilled (x : Tile) (img : Option SpillImage) : Tile :=
  { x.scrubbing with image := img, imageLost := img.isNone, sched := .scrubIn }

/-- The spill is over and the scrub begins, with the image or without. -/
def State.spillTo (s : State) (t : Nat) (img : Option SpillImage) : State :=
  (((s.dropWaiters t).startScrub t).updTile t (fun y => { y with image := img, imageLost := img.isNone })).toSched t .scrubIn

/-- What a spill leaves: another tile, other contexts, lists of waiters and counts of stalls, and what has left. -/
def State.spillResult (s : State) (t : Nat) (x : Tile) (hs : Table Home) (os : Table Obj) (ds : Table Stalls) (ks : Table ReqCtx)
    (out : List Output) : State :=
  { s.setStalls hs os ds with tiles := s.tiles.set t x, ctxs := ks, out := out }

section
variable {s : State} {t : Nat} {x : Tile} {hs : Table Home} {os : Table Obj} {ds : Table Stalls} {ks : Table ReqCtx} {out : List Output}

theorem State.spillResult_tile : (s.spillResult t x hs os ds ks out).tile t = x := Table.get_set_self _ _ _ _

theorem State.spillResult_frame :
    s.spillResult t x hs os ds ks out = s.spillResult t ((s.spillResult t x hs os ds ks out).tile t) hs os ds ks out := by
  rw [State.spillResult_tile]

theorem State.spillResult_emit (o : Output) :
    (s.spillResult t x hs os ds ks out).emit o = s.spillResult t x hs os ds ks (o :: out) := rfl

theorem State.spillResult_endEpisodes (cs : List Nat) :
    (s.spillResult t x hs os ds ks out).endEpisodes t cs =
      s.spillResult t x hs os ds ((s.spillResult t x hs os ds ks out).endEpisodes t cs).ctxs out :=
  State.endEpisodes_frame _ _ _

end

/-- Contexts change only where one holds the tile; nothing has left yet. -/
theorem State.spillTo_result (s : State) {t : Nat} (img : Option SpillImage) (hquiet : bitOf (s.evtRaw (pgTile t)) 2 = false) :
    ∃ hs os ds ks, s.spillTo t img = s.spillResult t ((s.tile t).spilled img) hs os ds ks s.out ∧
      ((s.tile t).holder = none → ks = s.ctxs) := by
  obtain ⟨hs, os, ds, hdrop⟩ := s.dropWaiters_frame t
  have hscrub : (s.setStalls hs os ds).startScrub t = (s.setStalls hs os ds).setTile t (s.tile t).scrubbing :=
    State.startScrub_quiet _ hquiet
  unfold State.spillTo
  rw [hdrop, hscrub, State.updTile_eq, State.setTile_self, State.setTile_setTile]
  exact ⟨hs, os, ds, State.setTile_toSched (s.setStalls hs os ds) t _ .scrubIn⟩

/-- A tile that no tenant wrote is only scrubbed. -/
theorem execSpillComplete_unwritten {s : State} {t : TileId} (e : Bool) (hsched : (s.tile t.val).sched = .spill)
    (hlast : (s.tile t.val).lastInst = none) : execSpillComplete t e s = .next ((s.startScrub t.val).toSched t.val .scrubIn) := by
  simp only [execSpillComplete, hsched, hlast]
  rfl

/-- Under a key that serves, the image leaves the tile. -/
theorem execSpillComplete_kept {s : State} {t : TileId} {i : Nat} (hsched : (s.tile t.val).sched = .spill)
    (hlast : (s.tile t.val).lastInst = some i) (hkey : s.issuerOk (spaceOf i) = true) :
    execSpillComplete t false s = .next (((s.spillTo t.val (some ((s.tile t.val).spillImage i))).emit
      (.spillWrite i t.val (s.spillCipher i t.val ((s.tile t.val).store.readN 0 524288)))).endEpisodes t.val (tileCtxs (s.tile t.val))) := by
  simp only [execSpillComplete, hsched, hlast, hkey]
  rfl

/-- With the key gone or a tier error, and no context that is live on the tile, the image is lost. -/
theorem execSpillComplete_lost {s : State} {t : TileId} {i : Nat} {e : Bool} (hsched : (s.tile t.val).sched = .spill)
    (hlast : (s.tile t.val).lastInst = some i) (hbad : s.issuerOk (spaceOf i) = false ∨ e = true) (hlive : (s.tile t.val).live = none) :
    execSpillComplete t e s = .next ((s.spillTo t.val none).endEpisodes t.val (tileCtxs (s.tile t.val))) := by
  cases hkey : s.issuerOk (spaceOf i)
  · simp only [execSpillComplete, hsched, hlast, hkey, hlive]
    rfl
  · have he : e = true := hbad.resolve_left (by simp [hkey])
    simp only [execSpillComplete, hsched, hlast, hkey, hlive, he]
    rfl

/-! The return (R235, R236, R238). -/

/-- A tile that drains within the period and is not SUSPECT goes to its scrub. -/
theorem execTileReturnStart_drained {s : State} {t : TileId} (hsched : (s.tile t.val).sched = .drain)
    (hqueue : (s.tile t.val).queue = []) (hflights : (s.tile t.val).flights = [])
    (hperiod : (s.sched (t.val / 256)).cur.contains t.val = true) (hsuspect : (s.tile t.val).suspect = false) :
    execTileReturnStart t s = .next ((s.startScrub t.val).toSched t.val .scrubOut) := by
  simp only [execTileReturnStart, hsched, hqueue, hflights, hperiod, hsuspect]
  rfl

/-- One with commands left in its queue drains on. -/
theorem execTileReturnStart_waits {s : State} {t : TileId} (hqueue : (s.tile t.val).queue ≠ []) : execTileReturnStart t s = .next s :=
  if_neg (by simp [hqueue])

/-- A scrub that begins where event HELD does not stand and no context holds the tile changes the tile alone. -/
theorem State.startScrub_toSched {s : State} {t : Nat} (z : TSched) (hquiet : bitOf (s.evtRaw (pgTile t)) 2 = false)
    (hholder : (s.tile t).holder = none) :
    (s.startScrub t).toSched t z = s.setTile t { (s.tile t).scrubbing with sched := z } := by
  rw [State.startScrub_quiet s hquiet, State.toSched_unheld, State.setTile_self, State.setTile_setTile]
  rw [State.setTile_self]
  exact hholder

/-- A tile with its image back, HELD until RESUME (R236). -/
def Tile.restored (x : Tile) (g : SpillImage) : Tile :=
  { x with
    image := none, imageLost := false, held := true, saved := some g.save, store := g.store, queue := g.save.queue,
    flights := g.save.flights, bank := g.save.bank, lastInst := some g.inst }

/-- A tile that waits for its image gets it, or, where the image is to be dropped, loses it (R251). -/
theorem execRestoreComplete_image {s : State} {t : TileId} {g : SpillImage}
    (h : (s.tile t.val).sched = .restore ∧ (s.tile t.val).image = some g) :
    execRestoreComplete t s = .next (if (s.tile t.val).dropImage = true
      then (s.setTile t.val { s.tile t.val with image := none, dropImage := false }).toSched t.val .none
      else ((s.setTile t.val ((s.tile t.val).restored g)).toSched t.val .none).level (pgTile t.val) 2 true) := by
  obtain ⟨hsched, himage⟩ := h
  simp only [execRestoreComplete]
  split
  case h_1 g' _ hg =>
    cases himage.symm.trans hg
    split <;> rfl
  case h_2 hnot => exact absurd himage (hnot g hsched)

/-- Settles O35: a spill changes its tile, lists of waiters, counts of stalls and contexts; the start of a scrub its tile; a restore its
tile, contexts and the tile's event HELD. -/
theorem spillReturnRestore : Obligations.SpillReturnRestore := by
  refine ⟨?unwritten, ?kept, ?lost, ?return_, fun s t h => execTileReturnStart_waits h.2, ?restored, ?dropped⟩
  case unwritten =>
    intro s t e hsched hlast hholder hquiet
    exact (execSpillComplete_unwritten e hsched hlast).trans (congrArg Host.Outcome.next (State.startScrub_toSched .scrubIn hquiet hholder))
  case kept =>
    intro s t i hsched hlast hkey hquiet
    obtain ⟨hs, os, ds, ks, hspill, hks⟩ := s.spillTo_result (some ((s.tile t.val).spillImage i)) hquiet
    have hexec := execSpillComplete_kept hsched hlast hkey
    rw [hspill, State.spillResult_emit, State.spillResult_endEpisodes] at hexec
    refine ⟨_, hexec, State.spillResult_tile, State.spillResult_frame, List.mem_cons_self, ?_⟩
    rintro ⟨hholder, hqueue, hflights⟩
    rw [tileCtxs_empty hqueue hflights]
    exact hks hholder
  case lost =>
    intro s t i e hsched hlast hbad hlive hquiet
    obtain ⟨hs, os, ds, ks, hspill, -⟩ := s.spillTo_result none hquiet
    have hexec := execSpillComplete_lost hsched hlast hbad hlive
    rw [hspill, State.spillResult_endEpisodes] at hexec
    refine ⟨_, hexec, ?_, State.spillResult_frame⟩
    rw [State.spillResult_tile]
    exact ⟨rfl, rfl, rfl⟩
  case return_ =>
    rintro s t ⟨hsched, hqueue, hflights⟩ hperiod hsuspect hholder hquiet
    refine (execTileReturnStart_drained hsched hqueue hflights hperiod hsuspect).trans
      (congrArg Host.Outcome.next ((State.startScrub_toSched .scrubOut hquiet hholder).trans ?_))
    rw [Tile.scrubbing_idle hqueue hflights]
    rfl
  case restored =>
    intro s t g himage hdrop
    obtain ⟨ks, hnone, hks⟩ := s.setTile_toSched t.val ((s.tile t.val).restored g) .none
    refine ⟨_, (execRestoreComplete_image himage).trans (congrArg Host.Outcome.next (if_neg (Bool.eq_false_iff.1 hdrop))), ?_⟩
    rw [hnone]
    have hframe := State.level_frame { s with tiles := s.tiles.set t.val { (s.tile t.val).restored g with sched := .none }, ctxs := ks }
      (pgTile t.val) 2 true
    generalize hu : State.level _ (pgTile t.val) 2 true = u at hframe ⊢
    have htile : u.tile t.val = { (s.tile t.val).restored g with sched := .none } := by
      rw [hframe]
      exact Table.get_set_self _ _ _ _
    have hctxs : u.ctxs = ks := by rw [hframe]
    refine ⟨htile, ?_, ?_, fun hholder => hctxs.trans (hks hholder), ?_⟩
    · rw [← hu]
      exact State.level_on _ _ (by decide)
    · rw [htile, hctxs]
      exact hframe
    · intro q hq
      rw [← hu]
      exact State.level_other _ 2 true hq
  case dropped =>
    intro s t g himage hdrop
    obtain ⟨ks, hnone, hks⟩ := s.setTile_toSched t.val { s.tile t.val with image := none, dropImage := false } .none
    refine ⟨_, (execRestoreComplete_image himage).trans (congrArg Host.Outcome.next ((if_pos hdrop).trans hnone)), ?_, ?_, hks⟩
    · exact Table.get_set_self _ _ _ _
    · exact congrArg (fun x : Tile => { s with tiles := s.tiles.set t.val x, ctxs := ks }) (Table.get_set_self _ _ _ _).symm

end Sys2Proof.Machine
end

section
/-! PROOFS. Command queues (O37) and sequencer steps (O38): a doorbell that comes in as a snooped flit, and a command that waits for its
KV-list entry. -/

namespace Sys2Proof.Machine
open Sys2Proof

/-! A doorbell (R257). -/

/-- The effect of a doorbell, taken or ignored, takes no free value. -/
theorem hostCqDoorbell_fresh (s : State) (i : InstId) (v : Word) : ∃ t, hostCqDoorbell i v s = .next t ∧ t.fresh = s.fresh := by
  simp only [hostCqDoorbell]
  repeat' split
  all_goals exact ⟨_, rfl, by simp⟩

/-- The snooping state with tenant 3 ACTIVE, its command queue empty. -/
def activeSnoopingState : State := { snoopingState with insts := [(3, { Inst.free with phase := .active })] }

/-- Refutes O37: with check unit 0 on the CXL port, a doorbell within the ring does not only move the tail: its write also feeds the unit
and takes a free value. -/
theorem not_commandQueuesAndJobs : ¬ Obligations.CommandQueuesAndJobs := by
  rintro ⟨hdoorbell, -⟩
  have hexec := hdoorbell activeSnoopingState 3 0 (by decide) (by decide) (by decide) (by decide)
  have hwrite : activeSnoopingState.hostWrite (pgMbx (3 : InstId).val) 0x10C 0 (hostCqDoorbell 3 0) = _ := hexec
  have hfresh := State.hostWrite_fresh (by decide) (by decide) (by decide) (hostCqDoorbell_fresh _ 3 0) hwrite
  exact absurd hfresh (Nat.succ_ne_self _).symm

/-! A command that waits for the page of its KV-list entry (R253, R295). -/

/-- Such a wait comes before anything else that could hold the command up. -/
theorem execStepTile_kvWait {s t : State} {id : ReqId} {e : List Word} (hrun : s.runStep id.val 1 = some e)
    (hwait : s.kvWait id.val = some t) : execStepTile id s = .next (t.stepDone id.val) := by
  simp only [execStepTile, hrun, State.issueAll, hwait]

/-- The KV-list entry that a command's address names under RELOC 2 (R253). -/
def PendCmd.kvEntry (p : PendCmd) : Nat := ((wAt p.words 4).toNat + fld (wAt p.words 5) 15 0 * 2 ^ 32) / 65536

/-- The first command's KV-list entry is an access of the context (R253). -/
theorem State.kvWait_kvEntry {s : State} {k : Nat} {p : PendCmd} {rest : List PendCmd} (hissue : (s.ctx k).issue = p :: rest)
    (hop : cmdOp p.words = 4 ∨ cmdOp p.words = 5) (hreloc : fld p.header 12 11 = 2) (hlen : p.kvEntry < (s.ctx k).kvlen) :
    s.kvWait k = s.unitWait (.ctx k) (s.ctx k).tag [(spaceOf (s.ctx k).inst, (s.ctx k).kvlist + 8 * p.kvEntry, 8, false)] := by
  simp only [State.kvWait, hissue]
  exact if_pos (by simpa [hreloc, PendCmd.kvEntry] using And.intro hop hlen)

/-- The one access of a unit that waits for no page yet joins the waiters of the page that makes it wait (R276, R295). -/
theorem State.unitWait_first {s : State} {w : WaitUnit} {tag va len pk : Nat} {sp : Space} {wr t3 : Bool}
    (hpage : s.firstWait sp va len wr = some (pk, t3))
    (hnew : s.mems.homes.any (fun p => p.2.waiters.any (fun x => x.what = .unit w true || x.what = .unit w false)) = false) :
    s.unitWait w tag [(sp, va, len, wr)] = some (s.waitOn pk (.unit w wr) t3 tag false) := by
  simp [State.unitWait, hpage, hnew]

/-- A step with commands left to issue is not done. -/
theorem State.stepDone_issuing {s : State} {k : Nat} (h : (s.ctx k).issue ≠ []) : s.stepDone k = s := by
  simp [State.stepDone, h]

/-- A STEP_TILE on tile 0 of its slice. -/
def kvStep : List Word := [0x101, 0, 0x400, 0, 0, 0, 0, 0]

/-- A LOAD to that tile whose address is relocated under RELOC 2, by entry 0 of the KV list. -/
def kvLoad : PendCmd := { header := 0x1000, header1 := 0, words := 0x40000000 :: List.replicate 15 0 }

/-- The page of tenant 3 that holds the KV list at address 0x50000. -/
def kvPage : Nat := pageKeyOf 3 5

/-- The package of tenant 3's job: the one step. -/
def kvPkg : Pkg :=
  { kind := 3, anchor := 0, level := 0, abi := 1, svn := 0, npspan := 0, padr := 0, size := 0, digest := [], inst := 3, wbase := 0,
    lmask := 0, pbase := 0, pinst := 0, oid := 0, records := [], steps := [kvStep], cmds := [], wgts := [], ckptsz := 0, ckpt := [] }

/-- Job 0 of tenant 3 has granule 4, whose first tile is lent. Context 6 runs the step and has the LOAD to issue; the page of its
KV list is in T3. -/
def kvWaitState : State :=
  { State.reset with
    insts := [(3, { Inst.free with phase := .active, jobs := [(0, { Job.closed with isOpen := true, pkg := 5, gmask := 16 })] })]
    seed := { State.reset.seed with pkgs := [(5, kvPkg)] }
    tiles := [(64, { Tile.idle with sched := .lent })]
    mems := { MemSt.empty with homes := [(kvPage, { Home.fresh with tier := .t3 })] }
    ctxs := [(6, { ReqCtx.free with state := .run, inst := 3, issue := [kvLoad], kvlist := 0x50000, kvlen := 1 })] }

theorem kvWaitState_runStep : kvWaitState.runStep 6 1 = some kvStep := by decide

/-- No access waits for the page before the step. -/
theorem kvWaitState_waiters : (kvWaitState.home kvPage).waiters = [] := by decide

/-- The state in which the context has joined the page's waiters. -/
def kvJoinedState : State := kvWaitState.waitOn kvPage (.unit (.ctx 6) false) true 0 false

theorem kvWaitState_firstWait : kvWaitState.firstWait (spaceOf 3) 0x50000 8 false = some (kvPage, true) := by decide

/-- The context joins the page's waiters. -/
theorem kvWaitState_kvWait : kvWaitState.kvWait 6 = some kvJoinedState :=
  (State.kvWait_kvEntry (p := kvLoad) rfl (.inl (by decide)) (by decide) (by decide)).trans
    (State.unitWait_first kvWaitState_firstWait (by decide))

theorem kvJoinedState_issuing : (kvJoinedState.ctx 6).issue ≠ [] := by decide

theorem kvJoinedState_waiters : (kvJoinedState.home kvPage).waiters ≠ [] := by decide

/-- Refutes O38: a command whose tile is lent waits without any change of state, says the clause; a LOAD whose KV-list entry lies in T3
joins that page's waiters first. -/
theorem not_sequencerSteps : ¬ Obligations.SequencerSteps := by
  rintro ⟨-, -, -, -, hheld, -⟩
  have hexec := hheld kvWaitState 6 kvStep kvLoad kvWaitState_runStep rfl (by decide) (by decide) (.inl (by decide))
  have hjoins := execStepTile_kvWait (id := 6) kvWaitState_runStep kvWaitState_kvWait
  have hsame : kvJoinedState = kvWaitState :=
    (State.stepDone_issuing kvJoinedState_issuing).symm.trans (Host.Outcome.next.inj (hjoins.symm.trans hexec))
  exact kvJoinedState_waiters (hsame ▸ kvWaitState_waiters)

end Sys2Proof.Machine
end

section
/-! PROOFS. The memory tiers (O39, O40): an agent's write to a chunk that is never written, and units that go on after MOVE_SWITCH. -/

namespace Sys2Proof.Machine
open Sys2Proof

/-! An agent's write (R293, R318). -/

/-- An agent's write that meets a chunk which is never written fails: POISON stands for the chunk's pages (R293, R303). -/
theorem State.agentStep_write_badNibble (s : State) (sp : Space) (va : Nat) (bs : List Byte) (tag : Nat) (from_ : Fin 6) (s0 : State)
    (hcode : s.storeCode sp va bs.length = .ok) (hwait : s.firstWait sp va bs.length true = none)
    (harb : s.arbitrate (s.domainOf sp) (.access (.agent sp va (.write bs) tag from_)) tag false (s.accPoints from_.val sp va bs.length)
      = (true, s0))
    (hbad : s0.badNibble sp va bs.length ≠ []) :
    s.agentStep sp va (.write bs) tag from_ = (s0.poisonPages (s0.badNibble sp va bs.length)).emit (.accessDone sp va .tierError []) := by
  simp [State.agentStep, hcode, hwait, harb, hbad]

/-- Page 0 of domain 0 stands encoded in T2, and its chunk map names a nibble that is never written (R293). -/
def badChunkState : State := State.reset.setHome (pageKeyOf 4096 0) { Home.fresh with tier := .t2, cmp := true, cmap := 0xF }

/-- The write of a byte at its address 0. -/
def badChunkWrite : MemAccess := .agent .dom0 0 (.write [1]) 0 0

/-- The state once the write has crossed its points. -/
def badChunkCrossed : Bool × State :=
  badChunkState.arbitrate 0 (.access badChunkWrite) 0 false (badChunkState.accPoints 0 .dom0 0 1)

/-- Refutes O39: an agent's write whose pages can all be served fails with TIER_ERROR when its chunk's nibble is never written. -/
theorem not_deviceMemoryAccesses : ¬ Obligations.DeviceMemoryAccesses := by
  rintro ⟨-, -, -, -, -, -, -, -, -, hwrite, -⟩
  have hcode : badChunkState.storeCode .dom0 0 1 = .ok := by decide
  have hwait : badChunkState.firstWait .dom0 0 1 true = none := by decide
  have hgrant : badChunkCrossed.1 = true := by decide
  have hbad : badChunkCrossed.2.badNibble .dom0 0 1 ≠ [] := by decide
  have hfails := badChunkState.agentStep_write_badNibble .dom0 0 [1] 0 0 badChunkCrossed.2 hcode hwait (Prod.ext hgrant rfl) hbad
  have hserved := hwrite badChunkState .dom0 0 [1] 0 0 hcode hwait hgrant (by decide)
  have hout := congrArg State.out (hfails.symm.trans (Host.Outcome.next.inj hserved))
  simp [State.emit] at hout

/-! The waiters of a page without a move (R283). -/

/-- MOVE_SWITCH of a page with waiters and no move also lets the units that were served go on (R283). -/
theorem execMoveSwitch_noMove (s : State) (page : Nat) (hhot : s.hotPage page = false)
    (hmove : s.mems.moves.find? (fun m => decide (m.page = page)) = none)
    (hwait : (s.home page).waiters ≠ []) (hlock : (s.home page).lock = false) :
    execMoveSwitch page s = .next (s.serveWaiters page).resumeUnits := by
  simp [execMoveSwitch, hhot, hmove, hwait, hlock]

/-- A unit, the command queue 0, waits on page 0 of domain 0, which stands in T2. -/
def unitWaitsState : State :=
  State.reset.setHome (pageKeyOf 4096 0)
    { Home.fresh with tier := .t2, waiters := [{ what := .unit (.cq 0) false, t3 := true, since := 0, tag := 0, late := false }] }

/-- Refutes O40: a unit that waited on a page without a move is served, and goes on within the step. -/
theorem not_tiersMovesAndErrors : ¬ Obligations.TiersMovesAndErrors := by
  rintro ⟨-, hserve, -⟩
  have hhot : unitWaitsState.hotPage (pageKeyOf 4096 0) = false := by decide
  have hmove : unitWaitsState.mems.moves.find? (fun m => decide (m.page = pageKeyOf 4096 0)) = none := by decide
  have hwait : (unitWaitsState.home (pageKeyOf 4096 0)).waiters ≠ [] := by decide
  have hlock : (unitWaitsState.home (pageKeyOf 4096 0)).lock = false := by decide
  have hstated := hserve unitWaitsState _ hhot hmove ⟨hwait, hlock⟩
  have hgoesOn := execMoveSwitch_noMove unitWaitsState _ hhot hmove hwait hlock
  have hwoken : ((unitWaitsState.serveWaiters (pageKeyOf 4096 0)).resumeUnits).mems.woken = [] := by decide
  have hserved : (unitWaitsState.serveWaiters (pageKeyOf 4096 0)).mems.woken = [(.cq 0, none)] := by decide
  rw [Host.Outcome.next.inj (hgoesOn.symm.trans hstated), hserved] at hwoken
  exact absurd hwoken (by simp)

end Sys2Proof.Machine
end

section
/-!
Every step keeps memory in its canonical form (O60). Memory is written in five places: a bit of a bitmap (`State.setMark`), a page
freed (`State.freePage`), bytes that land (`State.landBytes`, `State.putDevTag`), and what a reset loses (`State.wipe`); each
writes, clears or filters, and the laws of Memory say that these keep the form. Every other function of the model has one lemma,
in the order of the model: `_mem` when it leaves memory as it is, `_memOk` when it runs one of the five. A command's function has
it in the form `Ans.MemOk`, and O60 follows from `exec_memOk`.
-/

namespace Sys2Proof.Machine
open Sys2Proof

/-- The answer is a next state whose memory is in canonical form. -/
def Ans.MemOk (a : Ans) : Prop := ∃ t, a = .next t ∧ t.mem.wf

@[simp] theorem Ans.memOk_next (t : State) : Ans.MemOk (.next t) ↔ t.mem.wf :=
  ⟨fun ⟨_, h, ht⟩ => by cases h; exact ht, fun h => ⟨t, rfl, h⟩⟩

@[simp] theorem Ans.memOk_ite (c : Prop) [Decidable c] (a b : Ans) :
    Ans.MemOk (if c then a else b) ↔ if c then a.MemOk else b.MemOk := by
  split <;> rfl

@[simp] theorem State.mem_ite (c : Prop) [Decidable c] (a b : State) :
    (if c then a else b).mem = if c then a.mem else b.mem :=
  apply_ite State.mem c a b

@[simp] theorem Memory.wf_ite (c : Prop) [Decidable c] (a b : Memory) :
    (if c then a else b).wf = if c then a.wf else b.wf :=
  apply_ite Memory.wf c a b

@[simp] theorem State.memOk_iff (s : State) : s.memOk ↔ s.mem.wf := Iff.rfl

/-- Two states with the same memory. As with `State.SameQueue`, the kernel compares two such statements state by state. -/
def State.SameMem (s t : State) : Prop := t.mem = s.mem

@[simp] theorem State.sameMem_iff (s t : State) : s.SameMem t ↔ t.mem = s.mem := Iff.rfl

@[simp] theorem foldS_mem {β : Type} (l : List β) (f : β → State → State) (a : State)
    (h : ∀ x (t : State), t.SameMem (f x t)) :
    (foldS l f a).mem = a.mem :=
  foldS_keeps (P := fun t => t.mem = a.mem) l (fun x _ t ht => (h x t).trans ht) rfl

@[simp] theorem foldN_mem (n : Nat) (f : Nat → State → State) (a : State) (h : ∀ i (t : State), t.SameMem (f i t)) :
    (foldN n f a).mem = a.mem :=
  foldS_mem (List.range n) f a h

@[simp] theorem foldS_memOk {β : Type} {l : List β} {f : β → State → State} {a : State} (ha : a.mem.wf)
    (h : ∀ x (t : State), t.mem.wf → (f x t).memOk) : (foldS l f a).mem.wf :=
  foldS_keeps (P := fun t => t.mem.wf) l (fun x _ t ht => h x t ht) ha

@[simp] theorem foldN_memOk {n : Nat} {f : Nat → State → State} {a : State} (ha : a.mem.wf)
    (h : ∀ i (t : State), t.mem.wf → (f i t).memOk) : (foldN n f a).mem.wf :=
  foldS_memOk ha h

@[simp] theorem State.snd_mem_ite {α : Type} (c : Prop) [Decidable c] (a b : α × State) :
    (if c then a else b).2.mem = if c then a.2.mem else b.2.mem := by
  split <;> rfl

@[simp] theorem Ans.state_memOk (s : State) (a : Ans) (h : a.MemOk) : (Ans.state s a).mem.wf := by
  obtain ⟨t, rfl, ht⟩ := h
  exact ht

@[simp] theorem Ans.after_memOk (a : Ans) (f : State → Ans) (h : a.MemOk) (hf : ∀ t, t.mem.wf → (f t).MemOk) :
    (a.after f).MemOk := by
  obtain ⟨t, rfl, ht⟩ := h
  exact hf t ht

theorem State.mem_of_pair {α : Type} {p : α × State} {a : α} {t : State} (h : p = (a, t)) : t.mem = p.2.mem := by rw [h]

theorem State.mem_of_triple {α β : Type} {p : α × β × State} {a : α} {b : β} {t : State} (h : p = (a, b, t)) :
    t.mem = p.2.2.mem := by rw [h]

theorem foldl_snd_memOk {α β : Type} {l : List β} {f : α × State → β → α × State} {a : α × State} (ha : a.2.mem.wf)
    (h : ∀ (acc : α × State) x, acc.2.mem.wf → (f acc x).2.memOk) : (l.foldl f a).2.mem.wf := by
  induction l generalizing a with
  | nil => exact ha
  | cons x l ih => exact ih (h a x ha)

theorem foldl_memOk {β : Type} {l : List β} {f : State → β → State} {a : State} (ha : a.mem.wf)
    (h : ∀ (t : State) x, t.mem.wf → (f t x).memOk) : (l.foldl f a).mem.wf := by
  induction l generalizing a with
  | nil => exact ha
  | cons x l ih => exact ih (h a x ha)

theorem foldl_snd_mem {α β : Type} (l : List β) (f : α × State → β → α × State) (a : α × State)
    (h : ∀ (acc : α × State) x, acc.2.SameMem (f acc x).2) : (l.foldl f a).2.mem = a.2.mem := by
  induction l generalizing a with
  | nil => rfl
  | cons x l ih => exact (ih (f a x)).trans (h a x)

theorem Ans.memOk_next_of {t : State} (h : t.mem.wf) : Ans.MemOk (.next t) := ⟨t, rfl, h⟩

/-! The functions of Machine/Ops. -/

@[simp] theorem State.updTile_mem (s : State) (t : Nat) (f : Tile → Tile) : (s.updTile t f).mem = s.mem := by
  rfl

@[simp] theorem State.updGrove_mem (s : State) (g : Nat) (f : Grove → Grove) : (s.updGrove g f).mem = s.mem := by
  rfl

@[simp] theorem State.updLane_mem (s : State) (l : Nat) (f : Lane → Lane) : (s.updLane l f).mem = s.mem := by
  rfl

@[simp] theorem State.setLctx_mem (s : State) (l c : Nat) (x : LaneCtx) : (s.setLctx l c x).mem = s.mem := by
  rfl

@[simp] theorem State.updLctx_mem (s : State) (l c : Nat) (f : LaneCtx → LaneCtx) : (s.updLctx l c f).mem = s.mem := by
  rfl

@[simp] theorem State.updCell_mem (s : State) (c : Nat) (f : Cell → Cell) : (s.updCell c f).mem = s.mem := by
  rfl

@[simp] theorem State.updInst_mem (s : State) (i : Nat) (f : Inst → Inst) : (s.updInst i f).mem = s.mem := by
  rfl

@[simp] theorem State.updCtx_mem (s : State) (k : Nat) (f : ReqCtx → ReqCtx) : (s.updCtx k f).mem = s.mem := by
  rfl

@[simp] theorem State.updEth_mem (s : State) (p : Nat) (f : EthSt → EthSt) : (s.updEth p f).mem = s.mem := by
  rfl

@[simp] theorem State.updPort_mem (s : State) (p : Nat) (f : CkxPortSt → CkxPortSt) : (s.updPort p f).mem = s.mem := by
  rfl

@[simp] theorem State.takeFree_mem (s : State) : (s.takeFree).2.mem = s.mem := by
  rfl

@[simp] theorem State.takeKey_mem (s : State) : (s.takeKey).2.mem = s.mem := by
  rfl

@[simp] theorem State.applyShadow_mem (s : State) (p : Page) : (s.applyShadow p).mem = s.mem := by
  rfl

@[simp] theorem State.bump_mem (s : State) (p : Page) (idx n : Nat) : (s.bump p idx n).mem = s.mem := by
  simp [State.bump]

@[simp] theorem State.ignored_mem (s : State) (p : Page) : (s.ignored p).mem = s.mem := by
  rfl

@[simp] theorem State.sendVector_mem (s : State) (v : Nat) : (s.sendVector v).mem = s.mem := by
  simp [State.sendVector]

@[simp] theorem State.latch_mem (s : State) (p : Page) (raw pulse : Word) : (s.latch p raw pulse).mem = s.mem := by
  rfl

@[simp] theorem State.notifyBar0_mem (s : State) (p : Page) : (s.notifyBar0 p).mem = s.mem := by
  simp [State.notifyBar0]

@[simp] theorem State.evtBar0_mem (s : State) (p : Page) (raw pulse : Word) : (s.evtBar0 p raw pulse).mem = s.mem := by
  simp [State.evtBar0]

@[simp] theorem State.level_mem (s : State) (p : Page) (b : Nat) (on : Bool) : (s.level p b on).mem = s.mem := by
  simp [State.level]

@[simp] theorem State.pulse_mem (s : State) (p : Page) (b : Nat) : (s.pulse p b).mem = s.mem := by
  simp [State.pulse]

@[simp] theorem State.addCtr_mem (s : State) (die c : Nat) (n : Word) : (s.addCtr die c n).mem = s.mem := by
  rfl

/-! The functions of Machine/MemOps. -/

@[simp] theorem State.updHome_mem (s : State) (pk : Nat) (f : Home → Home) : (s.updHome pk f).mem = s.mem := by
  rfl

@[simp] theorem State.addRun_mem (s : State) (die a n : Nat) : (s.addRun die a n).mem = s.mem := by
  simp [State.addRun]

@[simp] theorem State.dropRun_mem (s : State) (die a : Nat) : (s.dropRun die a).mem = s.mem := by
  rfl

@[simp] theorem State.dropHomeRun_mem (s : State) (h : Home) : (s.dropHomeRun h).mem = s.mem := by
  simp [State.dropHomeRun]

@[simp] theorem State.heatUp_mem (s : State) (pk : Nat) : (s.heatUp pk).mem = s.mem := by
  rfl

@[simp] theorem State.exactPressure_mem (s : State) (d die : Nat) : (s.exactPressure d die).mem = s.mem := by
  simp [State.exactPressure]

@[simp] theorem State.allocLine_mem (s : State) (d pk line : Nat) (dirty pf : Bool) :
    (s.allocLine d pk line dirty pf).mem = s.mem := by
  simp only [State.allocLine]
  split
  · simp
  · split <;> simp

@[simp] theorem State.countUe_mem (s : State) (ctl : Nat) : (s.countUe ctl).mem = s.mem := by
  rfl

@[simp] theorem State.poisonLine_mem (s : State) (pk line : Nat) : (s.poisonLine pk line).mem = s.mem := by
  rfl

@[simp] theorem State.clearPoison_mem (s : State) (pk line : Nat) : (s.clearPoison pk line).mem = s.mem := by
  simp [State.clearPoison]

@[simp] theorem State.useInj_mem (s : State) (point target : Nat) : (s.useInj point target).2.mem = s.mem := by
  unfold State.useInj
  split <;> simp

@[simp] theorem State.dropLines_mem (s : State) (pk : Nat) : (s.dropLines pk).mem = s.mem := by
  rfl

@[simp] theorem State.noCandidate_mem (s : State) (die : Nat) : (s.noCandidate die).mem = s.mem := by
  simp [State.noCandidate]

@[simp] theorem State.startDemotion_mem (s : State) (pk : Nat) : (s.startDemotion pk).2.mem = s.mem := by
  simp only [State.startDemotion]
  split <;> simp

@[simp] theorem State.demoteTo_mem (s : State) (d die mark fuel : Nat) : (s.demoteTo d die mark fuel).mem = s.mem := by
  induction fuel generalizing s with
  | zero => rfl
  | succ fuel ih =>
    unfold State.demoteTo
    split
    · split
      · simp
      · simp [ih]
    · rfl

@[simp] theorem State.waterCheck_mem (s : State) (d die : Nat) (going : Bool) :
    (s.waterCheck d die going).mem = s.mem := by
  simp [State.waterCheck]

@[simp] theorem State.watchWater_mem (s : State) : s.watchWater.mem = s.mem := by
  simp [State.watchWater]

@[simp] theorem State.waitMove_mem (s : State) (pk : Nat) (k : MoveKind) (tag : Nat) :
    (s.waitMove pk k tag).mem = s.mem := by
  rfl

@[simp] theorem State.logRetire_mem (s : State) (f : Nat) : (s.logRetire f).mem = s.mem := by
  rfl

@[simp] theorem State.makeRoom_mem (s : State) (pk d die : Nat) : (s.makeRoom pk d die).mem = s.mem := by
  unfold State.makeRoom
  split
  · split <;> simp
  · simp

@[simp] theorem State.rehomeDest_mem (s : State) (pk f : Nat) : (s.rehomeDest pk f).2.mem = s.mem := by
  simp only [State.rehomeDest]
  split
  · simp
  · split <;> simp

@[simp] theorem State.startRehome_mem (s : State) (pk f : Nat) : (s.startRehome pk f).mem = s.mem := by
  unfold State.startRehome
  split
  · simp
  · split <;> simp [State.mem_of_pair ‹_ = (_, _)›]

@[simp] theorem State.retire_mem (s : State) (f : Nat) : (s.retire f).mem = s.mem := by
  unfold State.retire
  repeat' split
  all_goals simp

@[simp] theorem State.correctedAt_mem (s : State) (f : Nat) : (s.correctedAt f).mem = s.mem := by
  simp [State.correctedAt]

@[simp] theorem State.uncorrectedAt_mem (s : State) (f pk line : Nat) : (s.uncorrectedAt f pk line).mem = s.mem := by
  simp [State.uncorrectedAt]

@[simp] theorem State.hbmRead_mem (s : State) (d pk line : Nat) : (s.hbmRead d pk line).mem = s.mem := by
  simp only [State.hbmRead]
  split
  · rfl
  · split
    · rfl
    · simp [State.mem_of_pair ‹_ = (_, _)›]

@[simp] theorem State.canopyHit_mem (s : State) (d die pk line : Nat) (dirty : Bool) :
    (s.canopyHit d die pk line dirty).mem = s.mem := by
  simp only [State.canopyHit]
  split
  · rfl
  · split
    · rfl
    · simp [State.mem_of_pair ‹_ = (_, _)›]

@[simp] theorem State.takeGrant_mem (s : State) (d pt : Nat) : (s.takeGrant d pt).mem = s.mem := by
  simp [State.takeGrant]

@[simp] theorem State.lineAccess_mem (s : State) (d pk line : Nat) (wr full : Bool) :
    (s.lineAccess d pk line wr full).mem = s.mem := by
  simp only [State.lineAccess]
  split
  · simp
  split
  · simp
  · split <;> simp

@[simp] theorem State.pfLine_mem (s : State) (d pk line : Nat) : (s.pfLine d pk line).mem = s.mem := by
  simp [State.pfLine]

@[simp] theorem State.pfPage_mem (s : State) (d pk : Nat) : (s.pfPage d pk).mem = s.mem := by
  simp [State.pfPage]

@[simp] theorem State.laneRead_mem (s : State) (l m b len : Nat) : (s.laneRead l m b len).2.mem = s.mem := by
  unfold State.laneRead
  split <;> simp

@[simp] theorem State.tierBad_mem (s : State) (sp : Space) (va len : Nat) : (s.tierBad sp va len).2.mem = s.mem := by
  simp [State.tierBad]

@[simp] theorem State.enterT2_mem (s : State) (pk f : Nat) : (s.enterT2 pk f).mem = s.mem := by
  simp [State.enterT2]

@[simp] theorem State.frameFor_mem (s : State) (pk die base : Nat) : (s.frameFor pk die base).2.mem = s.mem := by
  simp only [State.frameFor]
  split <;> simp

@[simp] theorem State.startPromotion_mem (s : State) (pk tag : Nat) : (s.startPromotion pk tag).mem = s.mem := by
  simp only [State.startPromotion]
  split
  · simp
  split
  · simp
  split
  · simp
  · split <;> simp [State.mem_of_pair ‹_ = (_, _)›]

@[simp] theorem State.waitOn_mem (s : State) (pk : Nat) (what : WaitWhat) (t3 : Bool) (tag : Nat) (late : Bool) :
    (s.waitOn pk what t3 tag late).mem = s.mem := by
  simp [State.waitOn]

theorem State.unitWait_mem (s : State) (u : WaitUnit) (tag : Nat) (xs : List (Space × Nat × Nat × Bool)) {t : State}
    (h : s.unitWait u tag xs = some t) : t.mem = s.mem := by
  unfold State.unitWait at h
  split at h
  · cases h
  · split at h <;> cases h
    · rfl
    · simp

@[simp] theorem State.backFree_mem (s : State) (pk : Nat) : (s.backFree pk).mem = s.mem := by
  unfold State.backFree
  split
  · simp
  · split <;> simp

@[simp] theorem State.setMark_memOk (s : State) (va bit : Nat) (hs : s.mem.wf) : (s.setMark va bit).mem.wf := by
  simp only [State.setMark]
  split
  · simp [Memory.wf_write, hs]
  · simp [hs]

@[simp] theorem State.logDirty_memOk (s : State) (sp : Space) (p : Nat) (hs : s.mem.wf) : (s.logDirty sp p).mem.wf := by
  unfold State.logDirty
  split <;> simp [hs]

@[simp] theorem State.freePage_memOk (s : State) (pk : Nat) (hs : s.mem.wf) : (s.freePage pk).mem.wf := by
  simp only [State.freePage]
  split <;> simp [Memory.wf_clear, hs]

@[simp] theorem State.releasePage_memOk (s : State) (pk : Nat) (hs : s.mem.wf) : (s.releasePage pk).mem.wf := by
  simp [State.releasePage, hs]

@[simp] theorem State.undoMove_mem (s : State) (m : Move) : (s.undoMove m).mem = s.mem := by
  simp [State.undoMove]

@[simp] theorem State.switchMove_memOk (s : State) (m : Move) (hs : s.mem.wf) : (s.switchMove m).mem.wf := by
  unfold State.switchMove
  split <;> simp [hs]

@[simp] theorem State.endExact_mem (s : State) (k va len : Nat) : (s.endExact k va len).mem = s.mem := by
  simp [State.endExact]

@[simp] theorem State.snoopHost_mem (s : State) (k va len : Nat) : (s.snoopHost k va len).mem = s.mem := by
  simp only [State.snoopHost]
  split
  · rfl
  · exact foldS_mem _ _ _ (by simp)

@[simp] theorem State.hostTakes_mem (s : State) (k va len : Nat) (on : Bool) :
    (s.hostTakes k va len on).mem = s.mem := by
  rfl

@[simp] theorem State.landBytes_memOk (s : State) (sp : Space) (va : Nat) (bs : List Byte) (hs : s.mem.wf) :
    (s.landBytes sp va bs).mem.wf := by
  simp only [State.landBytes, State.endExact_mem]
  refine foldS_memOk (by simp [Memory.wf_writeN, hs]) fun pk t ht => ?_
  split <;> simp [ht]

@[simp] theorem State.touchWrite_mem (s : State) (sp : Space) (va len : Nat) :
    (s.touchWrite sp va len).mem = s.mem := by
  simp [State.touchWrite]

@[simp] theorem State.landDev_memOk (s : State) (sp : Space) (va : Nat) (bs : List Byte) (hs : s.mem.wf) :
    (s.landDev sp va bs).mem.wf := by
  simp [State.landDev, hs]

@[simp] theorem State.putDevTag_memOk (s : State) (tag : Nat) (sp : Space) (va : Nat) (bs : List Byte) (hs : s.mem.wf) :
    (s.putDevTag tag sp va bs).mem.wf := by
  simp only [State.putDevTag]
  split
  · exact hs
  split
  · exact Memory.wf_writeN hs
  split
  · simp [hs]
  split
  · simp [hs]
  · refine foldS_memOk (by simp [hs]) fun x t ht => ?_
    split <;> simp [ht]

@[simp] theorem State.putDev_memOk (s : State) (sp : Space) (va : Nat) (bs : List Byte) (hs : s.mem.wf) :
    (s.putDev sp va bs).mem.wf := by
  simp [State.putDev, hs]

@[simp] theorem State.poisonPages_mem (s : State) (pks : List Nat) : (s.poisonPages pks).mem = s.mem := by
  simp [State.poisonPages]

@[simp] theorem State.storeDev_memOk (s : State) (sp : Space) (va : Nat) (bs : List Byte) (hs : s.mem.wf) :
    (s.storeDev sp va bs).2.mem.wf := by
  unfold State.storeDev
  split <;> simp [hs]

@[simp] theorem State.touchRead_mem (s : State) (sp : Space) (va len : Nat) : (s.touchRead sp va len).mem = s.mem := by
  simp [State.touchRead]

@[simp] theorem State.loadDev_mem (s : State) (sp : Space) (va len : Nat) : (s.loadDev sp va len).2.2.mem = s.mem := by
  simp only [State.loadDev]
  repeat' split
  all_goals simp

@[simp] theorem State.retryMoves_mem (s : State) (die : Nat) : (s.retryMoves die).mem = s.mem := by
  refine foldS_mem _ _ _ fun p t => ?_
  split <;> simp

@[simp] theorem State.retryAll_mem (s : State) : s.retryAll.mem = s.mem := by
  simp [State.retryAll]

@[simp] theorem State.pinPage_mem (s : State) (pk d die i : Nat) : (s.pinPage pk d die i).2.mem = s.mem := by
  unfold State.pinPage
  split
  · simp
  · split <;> simp

@[simp] theorem State.irqLine_memOk (s : State) (i : Nat) (hs : s.mem.wf) : (s.irqLine i).mem.wf := by
  simp only [State.irqLine]
  split
  · exact hs
  · split <;> simp [State.mem_of_pair ‹_ = (_, _)›, hs]

@[simp] theorem State.notify_memOk (s : State) (p : Page) (hs : s.mem.wf) : (s.notify p).mem.wf := by
  simp [State.notify, hs]

@[simp] theorem State.evt_memOk (s : State) (p : Page) (raw pulse : Word) (hs : s.mem.wf) : (s.evt p raw pulse).mem.wf := by
  simp [State.evt, hs]

@[simp] theorem State.mbxLevel_memOk (s : State) (i b : Nat) (on : Bool) (hs : s.mem.wf) : (s.mbxLevel i b on).mem.wf := by
  simp [State.mbxLevel, hs]

/-! The functions of Machine/Notify. -/

@[simp] theorem State.place_memOk (s : State) (i type srck : Nat) (status : Code) (srci : Nat) (payload : List Word)
    (sid : Nat) (hs : s.mem.wf) : (s.place i type srck status srci payload sid).mem.wf := by
  simp [State.place, hs]

@[simp] theorem State.notice_memOk (s : State) (i type : Nat) (status : Code) (payload : List Word) (hs : s.mem.wf) :
    (s.notice i type status payload).mem.wf := by
  simp [State.notice, hs]

@[simp] theorem State.watchRise_memOk (s : State) (target : Nat) (hs : s.mem.wf) : (s.watchRise target).mem.wf := by
  simp +contextual [State.watchRise, hs]

@[simp] theorem State.tgtEmpty_memOk (s : State) (target : Nat) (hs : s.mem.wf) : (s.tgtEmpty target).mem.wf := by
  simp [State.tgtEmpty, hs]

@[simp] theorem State.popMail_memOk (s : State) (i : Nat) (hs : s.mem.wf) : (s.popMail i).mem.wf := by
  simp [State.popMail, hs]

@[simp] theorem State.discard_memOk (s : State) (target : Nat) (m : List Word) (hs : s.mem.wf) :
    (s.discard target m).mem.wf := by
  simp [State.discard, hs]

@[simp] theorem State.emptyMail_memOk (s : State) (i : Nat) (hs : s.mem.wf) : (s.emptyMail i).mem.wf := by
  exact foldS_memOk (by simp [hs]) fun m t ht => by simp [ht]

@[simp] theorem State.laneMbEvt_memOk (s : State) (l : Nat) (hs : s.mem.wf) : (s.laneMbEvt l).mem.wf := by
  simp [State.laneMbEvt, hs]

@[simp] theorem State.placeLane_memOk (s : State) (l type srck : Nat) (status : Code) (payload : List Word)
    (hs : s.mem.wf) : (s.placeLane l type srck status payload).mem.wf := by
  simp [State.placeLane, hs]

@[simp] theorem State.recPut_memOk (s : State) (bs : List Byte) (hs : s.mem.wf) : (s.recPut bs).mem.wf := by
  simp +contextual [State.recPut, hs]

@[simp] theorem State.recLogAt_memOk (s : State) (cls type src id at0 : Nat) (payload : List Byte) (hs : s.mem.wf) :
    (s.recLogAt cls type src id at0 payload).mem.wf := by
  simp [State.recLogAt, hs]

@[simp] theorem State.recLog_memOk (s : State) (cls type src id : Nat) (payload : List Byte) (hs : s.mem.wf) :
    (s.recLog cls type src id payload).mem.wf := by
  simp [State.recLog, hs]

@[simp] theorem State.liveDrop_mem (s : State) : s.liveDrop.mem = s.mem := by
  rfl

@[simp] theorem State.blaze_memOk (s : State) (type id : Nat) (payload : List Byte) (hs : s.mem.wf) :
    (s.blaze type id payload).mem.wf := by
  simp only [State.blaze]
  split
  · split <;> simp [hs]
  · simp [hs]

/-! The functions of Machine/Check. -/

@[simp] theorem State.chkCompare_mem (s : State) (k result : Nat) (want : Option Nat) :
    (s.chkCompare k result want).mem = s.mem := by
  simp [State.chkCompare]

@[simp] theorem State.chkFeed_mem (s : State) (k : Nat) (raw : List Byte) : (s.chkFeed k raw).mem = s.mem := by
  simp [State.chkFeed]

@[simp] theorem State.chkSource_mem (s : State) (die src : Nat) (egress : Bool) (id : Option Nat) (raw : List Byte) :
    (s.chkSource die src egress id raw).mem = s.mem := by
  simp [State.chkSource]

@[simp] theorem State.chkEth_mem (s : State) (p : Nat) (egress : Bool) (eaxc : Option Nat) (raw : List Byte) :
    (s.chkEth p egress eaxc raw).mem = s.mem := by
  simp [State.chkEth]

@[simp] theorem State.chkFree_mem (s : State) (die src : Nat) (egress : Bool) (id : Option Nat) (n : Nat) :
    (s.chkFree die src egress id n).mem = s.mem := by
  simp [State.chkFree]

@[simp] theorem State.chkCkx_mem (s : State) (p : Nat) (egress : Bool) (stream : Option Nat) :
    (s.chkCkx p egress stream).mem = s.mem := by
  simp [State.chkCkx]

@[simp] theorem State.chkCxl_mem (s : State) (egress : Bool) : (s.chkCxl egress).mem = s.mem := by
  simp [State.chkCxl]

/-! The functions of Machine/Radio. -/

@[simp] theorem State.overCheck_mem (s : State) (d : Nat) : (s.overCheck d).mem = s.mem := by
  simp [State.overCheck]

@[simp] theorem State.overAll_mem (s : State) : s.overAll.mem = s.mem := by
  simp [State.overAll]

@[simp] theorem State.sdsEvent_mem (s : State) (d b : Nat) : (s.sdsEvent d b).mem = s.mem := by
  rfl

@[simp] theorem State.missCell_mem (s : State) (d c : Nat) : (s.missCell d c).mem = s.mem := by
  rfl

@[simp] theorem State.missInst_mem (s : State) (d i : Nat) : (s.missInst d i).mem = s.mem := by
  rfl

@[simp] theorem State.gainHold_mem (s : State) (c : Nat) : (s.gainHold c).mem = s.mem := by
  simp [State.gainHold]

@[simp] theorem State.raiseCtr_mem (s : State) (die c : Nat) (n : Word) : (s.raiseCtr die c n).mem = s.mem := by
  simp [State.raiseCtr]

@[simp] theorem State.updSlotAt_mem (s : State) (c start : Nat) (f : SlotMsgs → SlotMsgs) :
    (s.updSlotAt c start f).mem = s.mem := by
  rfl

@[simp] theorem State.puschHanded_mem (s : State) (ws : List Word) : (s.puschHanded ws).mem = s.mem := by
  simp only [State.puschHanded]
  split
  · simp
  · split <;> simp

@[simp] theorem State.puschDecoded_mem (s : State) (ws : List Word) (tbok : Bool) (err : Nat) :
    (s.puschDecoded ws tbok err).mem = s.mem := by
  simp only [State.puschDecoded]
  split
  · simp
  · split <;> simp

@[simp] theorem State.putHost_memOk (s : State) (va : Nat) (bs : List Byte) (hs : s.mem.wf) : (s.putHost va bs).mem.wf := by
  simp [State.putHost, hs]

theorem State.memOk.putHost {s : State} (h : s.memOk) (va : Nat) (bs : List Byte) : (s.putHost va bs).memOk :=
  State.putHost_memOk s va bs h

theorem State.memOk.emit {s : State} (h : s.memOk) (m : Output) : (s.emit m).memOk := h

theorem State.memOk.setL2q {s : State} (h : s.memOk) (q : Nat) (x : L2q) : (s.setL2q q x).memOk := h

@[simp] theorem State.l2qWrite_memOk (s : State) (q cell : Nat) (ws : List Word) (hs : s.mem.wf) :
    (s.l2qWrite q cell ws).mem.wf := by
  suffices (s.l2qWrite q cell ws).memOk from this
  unfold State.l2qWrite
  exact .emit (.setL2q (.putHost (.putHost (.putHost hs _ _) _ _) _ _) _ _) _

@[simp] theorem State.l2qDrain_memOk (s : State) (q fuel : Nat) (hs : s.mem.wf) : (s.l2qDrain q fuel).mem.wf := by
  induction fuel generalizing s with
  | zero => exact hs
  | succ fuel ih =>
    unfold State.l2qDrain
    split
    · exact hs
    · split <;> simp [ih, hs]

@[simp] theorem State.queueFrame_mem (s : State) (p : Nat) (f : EgressFrame) : (s.queueFrame p f).mem = s.mem := by
  simp [State.queueFrame]

@[simp] theorem State.payloadSend_mem (s : State) (cell : Nat) (d : List Word) (msgid : Nat) (ws : List Word)
    (deadline : Nat) :
    (s.payloadSend cell d msgid ws deadline).mem = s.mem := by
  simp only [State.payloadSend]
  split <;> simp

@[simp] theorem State.sendSlot_memOk (s : State) (c : Nat) (d : List Word) (type sfn slot : Nat) (st : Code)
    (pdus : List (List Word)) (deadline : Nat) (hs : s.mem.wf) : (s.sendSlot c d type sfn slot st pdus deadline).mem.wf := by
  simp [State.sendSlot, hs]

@[simp] theorem State.errorInd_memOk (s : State) (c : Nat) (d : List Word) (sfn slot : Nat) (handle : Word) (type : Nat)
    (st : Code) (seq pduType : Nat) (hs : s.mem.wf) : (s.errorInd c d sfn slot handle type st seq pduType).mem.wf := by
  simp [State.errorInd, hs]

@[simp] theorem State.cellInd_memOk (s : State) (c : Nat) (d : List Word) (code sfn : Nat) (hs : s.mem.wf) :
    (s.cellInd c d code sfn).mem.wf := by
  simp [State.cellInd, hs]

/-! The functions of Machine/Tile. -/

@[simp] theorem State.deliver_mem (s : State) (who : Issuer) (r : List Word) : (s.deliver who r).mem = s.mem := by
  unfold State.deliver
  split <;> simp

@[simp] theorem State.bumpFlags_mem (s : State) (t : Nat) (f : AFlags) : (s.bumpFlags t f).mem = s.mem := by
  simp [State.bumpFlags]

@[simp] theorem State.heldCheck_mem (s : State) (k : Nat) : (s.heldCheck k).mem = s.mem := by
  simp only [State.heldCheck]
  split
  · simp
  · split <;> simp

@[simp] theorem State.toSched_mem (s : State) (t : Nat) (z : TSched) : (s.toSched t z).mem = s.mem := by
  unfold State.toSched
  split <;> simp

@[simp] theorem State.fly_mem (s : State) (t : Nat) (f : Flight) : (s.fly t f).mem = s.mem := by
  rfl

@[simp] theorem State.countRefusal_mem (s : State) (t : Nat) (who : Issuer) : (s.countRefusal t who).mem = s.mem := by
  unfold State.countRefusal
  split <;> simp

@[simp] theorem State.flyDone_mem (s : State) (t : Nat) (c : TileCmd) (op : TileOp) (code : Code) :
    (s.flyDone t c op code).mem = s.mem := by
  simp [State.flyDone]

@[simp] theorem State.dropUnknown_mem (s : State) (t fuel : Nat) : (s.dropUnknown t fuel).mem = s.mem := by
  induction fuel generalizing s with
  | zero => rfl
  | succ fuel ih =>
    unfold State.dropUnknown
    split
    · split <;> simp [ih]
    · rfl

@[simp] theorem State.startHead_mem (s : State) (t : Nat) (op : TileOp) (start : State → TileCmd → State)
    (hstart : ∀ u c, (start u c).mem = u.mem) : (s.startHead t op start).mem = s.mem := by
  simp only [State.startHead]
  split <;> simp [hstart]

@[simp] theorem State.tileInj_mem (s : State) (t : Nat) (c : TileCmd) : (s.tileInj t c).2.mem = s.mem := by
  simp [State.tileInj]

@[simp] theorem State.startMat_mem (s : State) (t : Nat) (op : TileOp) (c : TileCmd) :
    (State.startMat t op s c).mem = s.mem := by
  simp [State.startMat]

@[simp] theorem State.startDft_mem (s : State) (t : Nat) (c : TileCmd) : (State.startDft t s c).mem = s.mem := by
  simp [State.startDft]

@[simp] theorem execMatmul_memOk (s : State) (t : TileId) (hs : s.mem.wf) : (execMatmul t s).MemOk := by
  simp [execMatmul, hs]

@[simp] theorem execConv_memOk (s : State) (t : TileId) (hs : s.mem.wf) : (execConv t s).MemOk := by
  simp [execConv, hs]

@[simp] theorem execDft_memOk (s : State) (t : TileId) (hs : s.mem.wf) : (execDft t s).MemOk := by
  simp [execDft, hs]

@[simp] theorem State.startXfer_mem (s : State) (t : Nat) (op : TileOp) (load : Bool) (c : TileCmd) :
    (State.startXfer t op load s c).mem = s.mem := by
  simp only [State.startXfer]
  split
  · simp
  split
  · simp
  · split <;> simp

@[simp] theorem execLoad_memOk (s : State) (t : TileId) (hs : s.mem.wf) : (execLoad t s).MemOk := by
  simp [execLoad, hs]

@[simp] theorem execStore_memOk (s : State) (t : TileId) (hs : s.mem.wf) : (execStore t s).MemOk := by
  simp [execStore, hs]

@[simp] theorem State.freeAc_mem (s : State) : (s.freeAc).2.mem = s.mem := by
  rfl

@[simp] theorem State.startWait_mem (s : State) (t : Nat) (c : TileCmd) : (State.startWait t s c).mem = s.mem := by
  simp [State.startWait]

@[simp] theorem State.startSignal_mem (s : State) (t : Nat) (c : TileCmd) : (State.startSignal t s c).mem = s.mem := by
  simp [State.startSignal]

@[simp] theorem execWait_memOk (s : State) (t : TileId) (hs : s.mem.wf) : (execWait t s).MemOk := by
  simp [execWait, hs]

@[simp] theorem execSignal_memOk (s : State) (t : TileId) (hs : s.mem.wf) : (execSignal t s).MemOk := by
  simp [execSignal, hs]

@[simp] theorem State.startGate_mem (s : State) (t : Nat) (c : TileCmd) : (State.startGate t s c).mem = s.mem := by
  simp [State.startGate]

@[simp] theorem execGate_memOk (s : State) (t : TileId) (hs : s.mem.wf) : (execGate t s).MemOk := by
  simp [execGate, hs]

@[simp] theorem execTileWaitSatisfied_memOk (s : State) (t : TileId) (hs : s.mem.wf) :
    (execTileWaitSatisfied t s).MemOk := by
  simp only [execTileWaitSatisfied]
  split
  · simp [hs]
  · split <;> simp [hs]

@[simp] theorem State.releaseLent_mem (s : State) (t : Nat) : (s.releaseLent t).mem = s.mem := by
  simp [State.releaseLent]

@[simp] theorem execSignalApply_memOk (s : State) (t : TileId) (hs : s.mem.wf) : (execSignalApply t s).MemOk := by
  simp only [execSignalApply]
  split
  · simp [hs]
  · split <;> simp [hs]

@[simp] theorem execOutputBlockEnd_memOk (s : State) (t : TileId) (fault : Bool) (hs : s.mem.wf) :
    (execOutputBlockEnd t fault s).MemOk := by
  simp only [execOutputBlockEnd]
  split
  · simp [hs]
  split
  · simp [hs]
  · split <;> simp [hs]

@[simp] theorem State.faultRunAfter_mem (s : State) (t : Nat) (f : Flight) (b : RecBody) :
    (s.faultRunAfter t f b).mem = s.mem := by
  simp [State.faultRunAfter]

@[simp] theorem State.missIssuer_mem (s : State) (die : Nat) (who : Issuer) : (s.missIssuer die who).mem = s.mem := by
  unfold State.missIssuer
  split <;> simp

@[simp] theorem execTileRecordPost_memOk (s : State) (t : TileId) (hs : s.mem.wf) : (execTileRecordPost t s).MemOk := by
  simp only [execTileRecordPost]
  split
  · simp [hs]
  split
  · simp [hs]
  · split <;> simp [hs]

@[simp] theorem State.preqTile_mem (s : State) (t : Nat) : (s.preqTile t).mem = s.mem := by
  simp [State.preqTile]

@[simp] theorem execPreq_memOk (s : State) (t : TileId) (hs : s.mem.wf) : (execPreq t s).MemOk := by
  simp [execPreq, hs]

@[simp] theorem execPreemptionPointReached_memOk (s : State) (t : TileId) (hs : s.mem.wf) :
    (execPreemptionPointReached t s).MemOk := by
  simp only [execPreemptionPointReached]
  split
  · split <;> simp [hs]
  · simp [hs]

@[simp] theorem execTransferPreemptTimeout_memOk (s : State) (t : TileId) (hs : s.mem.wf) :
    (execTransferPreemptTimeout t s).MemOk := by
  simp [execTransferPreemptTimeout, hs]

@[simp] theorem State.startScrub_mem (s : State) (t : Nat) : (s.startScrub t).mem = s.mem := by
  simp [State.startScrub]

@[simp] theorem execTileSaveComplete_memOk (s : State) (t : TileId) (hs : s.mem.wf) : (execTileSaveComplete t s).MemOk := by
  simp [execTileSaveComplete, hs]

@[simp] theorem State.resumeTile_mem (s : State) (t : Nat) : (s.resumeTile t).mem = s.mem := by
  simp [State.resumeTile]

@[simp] theorem execResume_memOk (s : State) (t : TileId) (hs : s.mem.wf) : (execResume t s).MemOk := by
  simp [execResume, hs]

@[simp] theorem hostSuspectClr_memOk (s : State) (t : TileId) (hs : s.mem.wf) : (hostSuspectClr t s).MemOk := by
  simp [hostSuspectClr, hs]

@[simp] theorem execTileScrubComplete_memOk (s : State) (t : TileId) (hs : s.mem.wf) :
    (execTileScrubComplete t s).MemOk := by
  simp only [execTileScrubComplete]
  split
  · simp [hs]
  · split <;> simp [hs]

@[simp] theorem hostTileCtrlHostWrite_memOk (s : State) (t : TileId) (v : Word) (hs : s.mem.wf) :
    (hostTileCtrlHostWrite t v s).MemOk := by
  simp [hostTileCtrlHostWrite, hs]

@[simp] theorem State.enqueue_mem (s : State) (t : Nat) (c : TileCmd) : (s.enqueue t c).mem = s.mem := by
  rfl

@[simp] theorem State.refuseAtQueue_mem (s : State) (t : Nat) (c : TileCmd) : (s.refuseAtQueue t c).mem = s.mem := by
  simp [State.refuseAtQueue]

/-! The functions of Machine/Lane. -/

@[simp] theorem State.standbyCheck_mem (s : State) (l : Nat) : (s.standbyCheck l).mem = s.mem := by
  simp [State.standbyCheck]

@[simp] theorem State.cellFault_memOk (s : State) (c : Nat) (hs : s.mem.wf) : (s.cellFault c).mem.wf := by
  simp only [State.cellFault]
  split
  · exact hs
  · refine foldS_memOk (by simp [hs]) fun y t ht => ?_
    repeat' split
    all_goals simp [ht]

@[simp] theorem State.laneFault_memOk (s : State) (l c : Nat) (f : LaneFault) (hs : s.mem.wf) :
    (s.laneFault l c f).mem.wf := by
  simp [State.laneFault, hs]

theorem State.fetchWord_mem (s : State) (l : Nat) {a : Nat} {t : State} (h : s.fetchWord l = some (a, t)) :
    t.mem = s.mem := by
  unfold State.fetchWord at h
  extract_lets +onlyGivenNames y x kept at h
  split at h
  · rw [← (Prod.mk.inj (Option.some.inj h)).2, State.setLane_mem]
  · split at h
    · cases h
    · rw [← (Prod.mk.inj (Option.some.inj h)).2, State.setLane_mem, State.mem_of_pair ‹_ = (_, _)›, State.laneRead_mem]

/-- The state that a fetched instruction runs on. -/
theorem State.laneFetch_memOk (s : State) (l : Nat) {c : Nat} {i : LIns} {t : State} (h : s.laneFetch l = .ins c i t)
    (hs : s.mem.wf) : t.mem.wf := by
  unfold State.laneFetch at h
  extract_lets y c' at h
  split at h
  · cases h
  split at h
  · cases h
  split at h
  · cases h
  · split at h
    · rw [← (Fetched.ins.inj h).2.2, State.fetchWord_mem s l ‹_›]
      exact hs
    · cases h

@[simp] theorem State.stopCheck_mem (s : State) (l c : Nat) : (s.stopCheck l c).mem = s.mem := by
  simp [State.stopCheck]

@[simp] theorem State.laneIssueAt_mem (s : State) (l c : Nat) (i : LIns) : (s.laneIssueAt l c i).mem = s.mem := by
  simp [State.laneIssueAt]

@[simp] theorem State.laneSpend_mem (s : State) (l c : Nat) (i : LIns) (ext : Bool) (x : LaneCtx) :
    (s.laneSpend l c i ext x).mem = s.mem := by
  rfl

@[simp] theorem State.laneRow_memOk (s : State) (l op : Nat) (run : State → Nat → LIns → State)
    (hrun : ∀ t c i, t.mem.wf → (run t c i).memOk) (hs : s.mem.wf) : (s.laneRow l op run).mem.wf := by
  unfold State.laneRow
  split
  · exact hs
  · simp [hs]
  · rename_i c i t heq
    have ht := State.laneFetch_memOk s l heq hs
    split
    · exact hs
    split
    · simp [ht]
    · have hrun := hrun (t.laneIssueAt l c i) c i (by simp [ht])
      simpa using hrun

@[simp] theorem State.bumpLane_mem (s : State) (l : Nat) (f : AFlags) : (s.bumpLane l f).mem = s.mem := by
  simp [State.bumpLane]

@[simp] theorem State.laneLoads_mem (s : State) (l c : Nat) (ms : List Move1) :
    (s.laneLoads l c ms).2.2.mem = s.mem := by
  unfold State.laneLoads
  induction ms using List.reverseRecOn with
  | nil => rfl
  | append_singleton ms m ih =>
    rw [List.foldl_append]
    simp only [List.foldl_cons, List.foldl_nil]
    split
    · exact ih
    · simpa using ih

@[simp] theorem State.laneStores_memOk (s : State) (l c : Nat) (x : LaneCtx) (ms : List Move1) (hs : s.mem.wf) :
    (s.laneStores l c x ms).mem.wf := by
  simp +contextual [State.laneStores, hs]

@[simp] theorem State.laneData_memOk (s : State) (l c : Nat) (i : LIns) (work : LaneCtx → Except LaneFault LEff)
    (hs : s.mem.wf) : (s.laneData l c i work).mem.wf := by
  simp only [State.laneData]
  split
  · simp [hs]
  · simp [hs]
  · split
    · simp [hs]
    split
    · simp [hs]
    split <;> simp [State.mem_of_triple ‹_ = (_, _, _)›, hs]

@[simp] theorem State.laneCalc_memOk (s : State) (l op : Nat) (work : State → LIns → LaneCtx → Except LaneFault LEff)
    (hs : s.mem.wf) : (s.laneCalc l op work).mem.wf := by
  simp +contextual [State.laneCalc, hs]

/-! The functions of Machine/LaneOps. -/

@[simp] theorem execNop_memOk (s : State) (l : LaneId) (hs : s.mem.wf) : (execNop l s).MemOk := by
  simp [execNop, hs]

@[simp] theorem execSalu_memOk (s : State) (l : LaneId) (hs : s.mem.wf) : (execSalu l s).MemOk := by
  simp [execSalu, hs]

@[simp] theorem execMovi_memOk (s : State) (l : LaneId) (hs : s.mem.wf) : (execMovi l s).MemOk := by
  simp [execMovi, hs]

@[simp] theorem execCmp_memOk (s : State) (l : LaneId) (hs : s.mem.wf) : (execCmp l s).MemOk := by
  simp [execCmp, hs]

@[simp] theorem execGett_memOk (s : State) (l : LaneId) (hs : s.mem.wf) : (execGett l s).MemOk := by
  simp [execGett, hs]

@[simp] theorem execGeta_memOk (s : State) (l : LaneId) (hs : s.mem.wf) : (execGeta l s).MemOk := by
  simp [execGeta, hs]

@[simp] theorem execValu_memOk (s : State) (l : LaneId) (hs : s.mem.wf) : (execValu l s).MemOk := by
  simp [execValu, hs]

@[simp] theorem execVcmul_memOk (s : State) (l : LaneId) (hs : s.mem.wf) : (execVcmul l s).MemOk := by
  simp [execVcmul, hs]

@[simp] theorem execVmac_memOk (s : State) (l : LaneId) (hs : s.mem.wf) : (execVmac l s).MemOk := by
  simp [execVmac, hs]

@[simp] theorem execVmacs_memOk (s : State) (l : LaneId) (hs : s.mem.wf) : (execVmacs l s).MemOk := by
  simp [execVmacs, hs]

@[simp] theorem execVcmac_memOk (s : State) (l : LaneId) (hs : s.mem.wf) : (execVcmac l s).MemOk := by
  simp [execVcmac, hs]

@[simp] theorem execVrdac_memOk (s : State) (l : LaneId) (hs : s.mem.wf) : (execVrdac l s).MemOk := by
  simp [execVrdac, hs]

@[simp] theorem execVsclac_memOk (s : State) (l : LaneId) (hs : s.mem.wf) : (execVsclac l s).MemOk := by
  simp [execVsclac, hs]

@[simp] theorem execVmag2_memOk (s : State) (l : LaneId) (hs : s.mem.wf) : (execVmag2 l s).MemOk := by
  simp [execVmag2, hs]

@[simp] theorem execVrcp_memOk (s : State) (l : LaneId) (hs : s.mem.wf) : (execVrcp l s).MemOk := by
  simp [execVrcp, hs]

@[simp] theorem execVcvt_memOk (s : State) (l : LaneId) (hs : s.mem.wf) : (execVcvt l s).MemOk := by
  simp [execVcvt, hs]

@[simp] theorem execVsplat_memOk (s : State) (l : LaneId) (hs : s.mem.wf) : (execVsplat l s).MemOk := by
  simp [execVsplat, hs]

@[simp] theorem execSeta_memOk (s : State) (l : LaneId) (hs : s.mem.wf) : (execSeta l s).MemOk := by
  refine Ans.memOk_next_of (State.laneRow_memOk _ _ _ _ (fun t _ _ ht => ?_) hs)
  repeat' split
  all_goals simp [ht]

@[simp] theorem execBr_memOk (s : State) (l : LaneId) (hs : s.mem.wf) : (execBr l s).MemOk := by
  refine Ans.memOk_next_of (State.laneRow_memOk _ _ _ _ (fun t _ _ ht => ?_) hs)
  dsimp only
  repeat' split
  all_goals simp [ht]

@[simp] theorem execCall_memOk (s : State) (l : LaneId) (hs : s.mem.wf) : (execCall l s).MemOk := by
  refine Ans.memOk_next_of (State.laneRow_memOk _ _ _ _ (fun t _ _ ht => ?_) hs)
  dsimp only
  repeat' split
  all_goals simp [ht]

@[simp] theorem execRet_memOk (s : State) (l : LaneId) (hs : s.mem.wf) : (execRet l s).MemOk := by
  refine Ans.memOk_next_of (State.laneRow_memOk _ _ _ _ (fun t _ _ ht => ?_) hs)
  dsimp only
  repeat' split
  all_goals simp [ht]

@[simp] theorem execLoop_memOk (s : State) (l : LaneId) (hs : s.mem.wf) : (execLoop l s).MemOk := by
  refine Ans.memOk_next_of (State.laneRow_memOk _ _ _ _ (fun t _ _ ht => ?_) hs)
  dsimp only
  repeat' split
  all_goals simp [ht]

@[simp] theorem execRepeat_memOk (s : State) (l : LaneId) (hs : s.mem.wf) : (execRepeat l s).MemOk := by
  refine Ans.memOk_next_of (State.laneRow_memOk _ _ _ _ (fun t _ _ ht => ?_) hs)
  dsimp only
  repeat' split
  all_goals simp [ht]

@[simp] theorem execSetdl_memOk (s : State) (l : LaneId) (hs : s.mem.wf) : (execSetdl l s).MemOk :=
  Ans.memOk_next_of (State.laneRow_memOk _ _ _ _ (fun t _ _ ht => by simp [ht]) hs)

@[simp] theorem State.laneLeave_mem (s : State) (l c : Nat) (f : LaneCtx → LaneCtx) :
    (s.laneLeave l c f).mem = s.mem := by
  rfl

@[simp] theorem execHalt_memOk (s : State) (l : LaneId) (hs : s.mem.wf) : (execHalt l s).MemOk :=
  Ans.memOk_next_of (State.laneRow_memOk _ _ _ _ (fun t _ _ ht => by simp [ht]) hs)

@[simp] theorem execLaneWait_memOk (s : State) (l : LaneId) (hs : s.mem.wf) : (execLaneWait l s).MemOk := by
  refine Ans.memOk_next_of (State.laneRow_memOk _ _ _ _ (fun t _ _ ht => ?_) hs)
  dsimp only
  repeat' split
  all_goals simp [ht]

@[simp] theorem State.laneReady_mem (s : State) (l c : Nat) (f : LaneCtx → LaneCtx) :
    (s.laneReady l c f).mem = s.mem := by
  simp [State.laneReady]

@[simp] theorem execLaneWaitWake_memOk (s : State) (l : LaneId) (c : LaneCtxId) (hs : s.mem.wf) :
    (execLaneWaitWake l c s).MemOk := by
  simp [execLaneWaitWake, hs]

@[simp] theorem State.laneRefusal_mem (s : State) (l c tag dl : Nat) : (s.laneRefusal l c tag dl).mem = s.mem := by
  simp [State.laneRefusal]

@[simp] theorem State.xCommand_mem (s : State) (l c : Nat) (tile : Bool) (a : Word) :
    (s.xCommand l c tile a).2.mem = s.mem := by
  simp [State.xCommand]

@[simp] theorem State.tileRefusal_mem (s : State) (t : Nat) (ws : List Word) : (s.tileRefusal t ws).mem = s.mem := by
  simp [State.tileRefusal]

/-- The state that an issue goes on from has its memory in canonical form. -/
def Issued.MemOk : Issued → Prop
  | .blocks => True
  | .fault _ t => t.mem.wf
  | .done t => t.mem.wf

theorem State.issueGate_memOk (s : State) (l c : Nat) (room : Bool) (go : State) (hs : s.mem.wf) (hgo : go.mem.wf) :
    (s.issueGate l c room go).MemOk := by
  unfold State.issueGate
  extract_lets x
  split
  · split
    · exact hs
    · trivial
  split
  · trivial
  · exact hgo

theorem State.tiss_memOk (s : State) (l c : Nat) (i : LIns) (hs : s.mem.wf) : (s.tiss l c i).MemOk := by
  unfold State.tiss
  extract_lets +onlyGivenNames x
  split
  · simp [Issued.MemOk, State.mem_of_pair ‹_ = (_, _)›, hs]
  · rename_i ws t heq
    have ht : t.mem.wf := by simp [State.mem_of_pair heq, hs]
    extract_lets +onlyGivenNames k
    split
    · refine State.issueGate_memOk _ _ _ _ _ ht ?_
      split <;> simp [ht]
    · refine State.issueGate_memOk _ _ _ _ _ (by simp [ht]) ?_
      split <;> simp [ht]

theorem State.ciss_memOk (s : State) (l c : Nat) (i : LIns) (hs : s.mem.wf) : (s.ciss l c i).MemOk := by
  unfold State.ciss
  extract_lets +onlyGivenNames x
  split
  · simp [Issued.MemOk, State.mem_of_pair ‹_ = (_, _)›, hs]
  · rename_i ws t heq
    have ht : t.mem.wf := by simp [State.mem_of_pair heq, hs]
    extract_lets +onlyGivenNames k
    split
    · refine State.issueGate_memOk _ _ _ _ _ ht ?_
      split <;> simp [ht]
    · exact State.issueGate_memOk _ _ _ _ _ ht (by simp [ht])

theorem State.laneIssue_memOk (s : State) (l c : Nat) (r : Issued) (hs : s.mem.wf) (h : r.MemOk) :
    (s.laneIssue l c r).mem.wf := by
  cases r with
  | blocks => simp [State.laneIssue, hs]
  | fault f t => exact State.laneFault_memOk t l c f h
  | done t => exact h

@[simp] theorem execTiss_memOk (s : State) (l : LaneId) (hs : s.mem.wf) : (execTiss l s).MemOk :=
  Ans.memOk_next_of
    (State.laneRow_memOk _ _ _ _ (fun t _ _ ht => State.laneIssue_memOk _ _ _ _ ht (t.tiss_memOk _ _ _ ht)) hs)

@[simp] theorem execCiss_memOk (s : State) (l : LaneId) (hs : s.mem.wf) : (execCiss l s).MemOk :=
  Ans.memOk_next_of
    (State.laneRow_memOk _ _ _ _ (fun t _ _ ht => State.laneIssue_memOk _ _ _ _ ht (t.ciss_memOk _ _ _ ht)) hs)

@[simp] theorem execLaneIssueUnblock_memOk (s : State) (l : LaneId) (c : LaneCtxId) (hs : s.mem.wf) :
    (execLaneIssueUnblock l c s).MemOk := by
  simp only [execLaneIssueUnblock]
  split
  · have hissued : (if (decodeLane (s.laneWord l c (s.lctx l c).pc)).op = 0x09
        then s.tiss l c (decodeLane (s.laneWord l c (s.lctx l c).pc))
        else s.ciss l c (decodeLane (s.laneWord l c (s.lctx l c).pc))).MemOk := by
      split
      · exact s.tiss_memOk _ _ _ hs
      · exact s.ciss_memOk _ _ _ hs
    split
    · simp [hs]
    · rename_i f t heq
      rw [heq] at hissued
      exact Ans.memOk_next_of (State.laneFault_memOk t _ _ f hissued)
    · rename_i t heq
      rw [heq] at hissued
      simp [show t.mem.wf from hissued]
  · simp [hs]

@[simp] theorem execRdc_memOk (s : State) (l : LaneId) (hs : s.mem.wf) : (execRdc l s).MemOk := by
  simp [execRdc, hs]

@[simp] theorem execAdvc_memOk (s : State) (l : LaneId) (hs : s.mem.wf) : (execAdvc l s).MemOk := by
  simp [execAdvc, hs]

@[simp] theorem execSigc_memOk (s : State) (l : LaneId) (hs : s.mem.wf) : (execSigc l s).MemOk := by
  simp +contextual [execSigc, hs]

/-! The functions of Machine/LaneRun. -/

@[simp] theorem execCompletionRecordArrive_memOk (s : State) (l : LaneId) (c : LaneCtxId) (hs : s.mem.wf) :
    (execCompletionRecordArrive l c s).MemOk := by
  simp only [execCompletionRecordArrive]
  split <;> simp [hs]

@[simp] theorem execLaneContextSwitch_memOk (s : State) (l : LaneId) (hs : s.mem.wf) :
    (execLaneContextSwitch l s).MemOk := by
  simp only [execLaneContextSwitch]
  split
  · simp [hs]
  · split <;> simp [hs]

@[simp] theorem execStandbyLoadComplete_memOk (s : State) (l : LaneId) (c : LaneCtxId) (hs : s.mem.wf) :
    (execStandbyLoadComplete l c s).MemOk := by
  simp [execStandbyLoadComplete, hs]

@[simp] theorem execSliceExhausted_memOk (s : State) (l : LaneId) (c : LaneCtxId) (hs : s.mem.wf) :
    (execSliceExhausted l c s).MemOk := by
  simp [execSliceExhausted, hs]

@[simp] theorem execLaneDeadlinePassed_memOk (s : State) (l : LaneId) (c : LaneCtxId) (hs : s.mem.wf) :
    (execLaneDeadlinePassed l c s).MemOk := by
  simp [execLaneDeadlinePassed, hs]

@[simp] theorem execLaneExternalAccess_memOk (s : State) (l : LaneId) (mem : LaneMem) (addr : Nat) (op : AccessOp)
    (hs : s.mem.wf) : (execLaneExternalAccess l mem addr op s).MemOk := by
  unfold execLaneExternalAccess
  split <;> simp [hs]

@[simp] theorem State.progWrite_mem (s : State) (l off : Nat) (bs : List Byte) :
    (s.progWrite l off bs).mem = s.mem := by
  simp [State.progWrite]

@[simp] theorem State.ctxCfgWrite_mem (s : State) (l c : Nat) (v : Word) : (s.ctxCfgWrite l c v).mem = s.mem := by
  simp [State.ctxCfgWrite]

@[simp] theorem hostEnable_memOk (s : State) (l : LaneId) (c : LaneCtxId) (v : Word) (hs : s.mem.wf) :
    (hostEnable l c v s).MemOk := by
  simp [hostEnable, hs]

@[simp] theorem hostLaneContextDisable_memOk (s : State) (l : LaneId) (c : LaneCtxId) (v : Word) (hs : s.mem.wf) :
    (hostLaneContextDisable l c v s).MemOk := by
  simp [hostLaneContextDisable, hs]

@[simp] theorem execLaneContextStopped_memOk (s : State) (l : LaneId) (c : LaneCtxId) (hs : s.mem.wf) :
    (execLaneContextStopped l c s).MemOk := by
  simp [execLaneContextStopped, hs]

@[simp] theorem hostMbclr_memOk (s : State) (l : LaneId) (hs : s.mem.wf) : (hostMbclr l s).MemOk := by
  simp +contextual [hostMbclr, hs]

@[simp] theorem State.laneTick_mem (s : State) : s.laneTick.mem = s.mem := by
  rfl

/-! The functions of Machine/Deck. -/

@[simp] theorem State.deckRecord_mem (s : State) (g : Nat) (c : DeckCmd) (code : Code) (nan : Bool) (ac : Nat) :
    (s.deckRecord g c code nan ac).mem = s.mem := by
  simp [State.deckRecord]

@[simp] theorem execSortDeckCommand_memOk (s : State) (g : GroveId) (hs : s.mem.wf) : (execSortDeckCommand g s).MemOk := by
  simp only [execSortDeckCommand]
  split
  · simp [hs]
  split
  · simp [hs]
  · split <;> simp [hs]

@[simp] theorem execSortDeckComplete_memOk (s : State) (g : GroveId) (second : Bool) (hs : s.mem.wf) :
    (execSortDeckComplete g second s).MemOk := by
  simp only [execSortDeckComplete]
  split <;> simp +contextual [hs]

@[simp] theorem State.deckTick_mem (s : State) : s.deckTick.mem = s.mem := by
  simp [State.deckTick]

/-! The functions of Machine/Memory. -/

@[simp] theorem State.countStall_mem (s : State) (pk : Nat) (w : Waiter) : (s.countStall pk w).mem = s.mem := by
  simp only [State.countStall]
  split <;> simp

@[simp] theorem State.beginEpisode_mem (s : State) (who : Issuer) (pk : Nat) (t3 : Bool) :
    (s.beginEpisode who pk t3).mem = s.mem := by
  unfold State.beginEpisode
  split <;> simp

@[simp] theorem State.endEpisode_mem (s : State) (who : Issuer) : (s.endEpisode who).mem = s.mem := by
  unfold State.endEpisode
  split <;> simp

@[simp] theorem State.prefetchDone_memOk (s : State) (f : Flight) (hs : s.mem.wf) : (State.prefetchDone f s).mem.wf := by
  unfold State.prefetchDone
  split <;> simp [hs]

@[simp] theorem State.endTransfer_memOk (s : State) (t i : Nat) (f : Flight) (c : Code) (hs : s.mem.wf) :
    (s.endTransfer t i f c).mem.wf := by
  simp [State.endTransfer, hs]

@[simp] theorem State.tieWon_mem (s : State) (pt : Nat) (a : ArbWhat) (tag : Nat) (late : Bool) :
    (s.tieWon pt a tag late).mem = s.mem := by
  simp [State.tieWon]

@[simp] theorem State.leavePoints_mem (s : State) (a : ArbWhat) : (s.leavePoints a).mem = s.mem := by
  rfl

@[simp] theorem State.holdAt_mem (s : State) (pt d : Nat) (a : ArbWhat) (tag : Nat) (late : Bool) :
    (s.holdAt pt d a tag late).mem = s.mem := by
  simp [State.holdAt]

@[simp] theorem State.arbitrate_mem (s : State) (d : Nat) (a : ArbWhat) (tag : Nat) (late : Bool) (pts : List Nat) :
    (s.arbitrate d a tag late pts).2.mem = s.mem := by
  simp only [State.arbitrate]
  split <;> simp

@[simp] theorem State.portAsks_mem (s : State) (q : PortReq) (d : Nat) (pts : List Nat) :
    (s.portAsks q d pts).2.mem = s.mem := by
  simp only [State.portAsks]
  split
  · rfl
  · split <;> simp [State.mem_of_pair ‹_ = (_, _)›]

@[simp] theorem State.portPost_memOk (s : State) (p tag : Nat) (sp : Space) (va : Nat) (bs : List Byte) (hs : s.mem.wf) :
    (s.portPost p tag sp va bs).mem.wf := by
  unfold State.portPost
  split
  · exact hs
  · split <;> simp [State.mem_of_pair ‹_ = (_, _)›, hs]

@[simp] theorem State.storePiece_memOk (s : State) (sp : Space) (va : Nat) (bs : List Byte) (first whole : Bool)
    (hs : s.mem.wf) : (s.storePiece sp va bs first whole).mem.wf := by
  simp [State.storePiece, hs]

@[simp] theorem State.xferStep_memOk (s : State) (who : TileId) (hs : s.mem.wf) : (s.xferStep who).mem.wf := by
  suffices (s.xferStep who).memOk from this
  unfold State.xferStep
  extract_lets +onlyGivenNames t x
  split
  · exact hs
  split
  · exact hs
  split
  · exact hs
  extract_lets +onlyGivenNames q load sp va n code
  split
  · simp [hs]
  extract_lets +onlyGivenNames tag
  split
  · split
    · exact hs
    · simp [hs]
  extract_lets +onlyGivenNames first
  split
  · simp [State.mem_of_pair ‹_ = (_, _)›, hs]
  rename_i s0 harb
  have h0 : s0.mem.wf := by simp [State.mem_of_pair harb, hs]
  extract_lets +onlyGivenNames z ta go
  have hgo (t1 : State) (store : Memory) (part : List Byte) (fl : AFlags) (ht : t1.mem.wf) : (go t1 store part fl).memOk := by
    simp only [go]
    split <;> simp [ht]
  split
  · split
    rename_i bad s1 hread
    have h1 : s1.mem.wf := by
      rw [State.mem_of_pair hread]
      split
      · simp [h0]
      · split <;> simp [h0]
    split
    rename_i worse s2 hbad
    have h2 : s2.mem.wf := by simp [State.mem_of_pair hbad, h1]
    split
    · simp [h2]
    · exact hgo _ _ _ _ h2
  split
  · simp [h0]
  · exact hgo _ _ _ _ (by simp [h0])

@[simp] theorem State.agentStep_memOk (s : State) (sp : Space) (va : Nat) (op : AccessOp) (tag : Nat) (from_ : Fin 6)
    (hs : s.mem.wf) : (s.agentStep sp va op tag from_).mem.wf := by
  unfold State.agentStep
  extract_lets len wr code
  split
  · simp [hs]
  split
  · simp [hs]
  split
  · simp [State.mem_of_pair ‹_ = (_, _)›, hs]
  rename_i s0 harb
  have h0 : s0.mem = s.mem := by simp [State.mem_of_pair harb]
  split
  · split
    rename_i bad s1 hread
    have h1 : s1.mem = s.mem := by
      refine (State.mem_of_pair hread).trans ?_
      split <;> simp [h0]
    split
    simp [State.mem_of_pair ‹_ = (_, _)›, h1, hs]
  · split
    · simp [h0, hs]
    · extract_lets s1
      simp only [State.emit_mem]
      split <;> simp [s1, h0, hs]

@[simp] theorem State.accessStep_memOk (s : State) (w : MemAccess) (hs : s.mem.wf) : (s.accessStep w).mem.wf := by
  unfold State.accessStep
  split <;> simp [hs]

@[simp] theorem execDeviceMemoryAccess_memOk (s : State) (a : MemAccess) (hs : s.mem.wf) :
    (execDeviceMemoryAccess a s).MemOk := by
  simp [execDeviceMemoryAccess, hs]

@[simp] theorem State.winRefused_mem (s : State) : s.winRefused.mem = s.mem := by
  rfl

@[simp] theorem State.windowServe_memOk (s : State) (sp : Space) (va : Nat) (op : AccessOp) (hs : s.mem.wf) :
    (s.windowServe sp va op).mem.wf := by
  unfold State.windowServe
  split
  · split <;> simp [State.mem_of_triple ‹_ = (_, _, _)›, hs]
  · simp [hs]

@[simp] theorem State.windowStep_memOk (s : State) (sp : Space) (va : Nat) (op : AccessOp) (tag : Nat) (late : Bool)
    (hs : s.mem.wf) : (s.windowStep sp va op tag late).mem.wf := by
  unfold State.windowStep
  extract_lets len wr
  split
  · simp [hs]
  split
  · simp [hs]
  · split <;> simp [State.mem_of_pair ‹_ = (_, _)›, hs]

@[simp] theorem State.wake_mem (s : State) (w : WaitWhat) : (s.wake w).mem = s.mem := by
  unfold State.wake
  split <;> simp

@[simp] theorem State.proceed_memOk (s : State) (w : Waiter) (hs : s.mem.wf) : (s.proceed w).mem.wf := by
  unfold State.proceed
  split <;> simp [hs]

@[simp] theorem State.serveWaiter_memOk (s : State) (pk : Nat) (w : Waiter) (hs : s.mem.wf) :
    (s.serveWaiter pk w).mem.wf := by
  unfold State.serveWaiter
  split
  · extract_lets h
    split
    · simp [hs]
    split
    · simp [hs]
    · split <;> simp [hs]
    · simp [hs]
    · split
      · split <;> simp [hs]
      · exact hs
  · split
    · extract_lets t
      split <;> simp [t, hs]
    · extract_lets who t
      cases who with
      | none => simp [t, hs]
      | some i => simp [t, hs]

@[simp] theorem State.serveWaiters_memOk (s : State) (pk : Nat) (hs : s.mem.wf) : (s.serveWaiters pk).mem.wf := by
  simp +contextual [State.serveWaiters, hs]

@[simp] theorem State.failWaiter_memOk (s : State) (pk : Nat) (w : Waiter) (hs : s.mem.wf) : (s.failWaiter pk w).mem.wf := by
  simp only [State.failWaiter]
  repeat' split
  all_goals simp [hs]

@[simp] theorem State.moveGiveUp_memOk (s : State) (m : Move) (hs : s.mem.wf) : (s.moveGiveUp m).mem.wf := by
  unfold State.moveGiveUp
  split <;> simp +contextual [hs]

@[simp] theorem State.moveDone_memOk (s : State) (m : Move) (hs : s.mem.wf) : (s.moveDone m).mem.wf := by
  simp [State.moveDone, hs]

@[simp] theorem execEpochEnd_memOk (s : State) (d : DieId) (hs : s.mem.wf) : (execEpochEnd d s).MemOk := by
  simp [execEpochEnd, hs]

@[simp] theorem execTierStallLimit_memOk (s : State) (k : ReqId) (hs : s.mem.wf) : (execTierStallLimit k s).MemOk := by
  simp [execTierStallLimit, hs]

@[simp] theorem execPatrolScrub_memOk (s : State) (ctl : HbmId) (frame line err : Nat) (hs : s.mem.wf) :
    (execPatrolScrub ctl frame line err s).MemOk := by
  unfold execPatrolScrub
  extract_lets f key hours due
  split
  · simp [hs]
  split
  · simp [State.mem_of_pair ‹_ = (_, _)›, hs]
  rename_i t harb
  have ht : t.mem.wf := by simp [State.mem_of_pair harb, hs]
  extract_lets m t1 m' s0
  have h0 : s0.mem.wf := by
    simp only [s0]
    split <;> exact ht
  refine Ans.memOk_next_of ?_
  split
  · simp [h0]
  · split <;> simp [h0]
  · exact h0

@[simp] theorem State.objStatus_mem (s : State) (d : Nat) (c : Code) : (s.objStatus d c).mem = s.mem := by
  rfl

@[simp] theorem State.addObj_mem (s : State) (oid : Nat) (o : Obj) : (s.addObj oid o).mem = s.mem := by
  rfl

@[simp] theorem hostRegister_memOk (s : State) (d : DieId) (v : Word) (hs : s.mem.wf) : (hostRegister d v s).MemOk := by
  simp [hostRegister, hs]

@[simp] theorem hostUnregister_memOk (s : State) (d : DieId) (v : Word) (hs : s.mem.wf) : (hostUnregister d v s).MemOk := by
  simp [hostUnregister, hs]

@[simp] theorem State.stageObj_mem (s : State) (d inst : Nat) (d0 pinned cmpt2 : Bool) (vpn npages base : Nat)
    (st : Stalls) :
    (s.stageObj d inst d0 pinned cmpt2 vpn npages base st).mem = s.mem := by
  exact foldN_mem _ _ _ fun i t => rfl

@[simp] theorem hostObjectRead_memOk (s : State) (d : DieId) (v : Word) (hs : s.mem.wf) : (hostObjectRead d v s).MemOk := by
  simp only [hostObjectRead]
  split
  · simp [hs]
  · split <;> simp [hs]

@[simp] theorem hostHbmRetireLogWrite_memOk (s : State) (ctl : HbmId) (v : Word) (hs : s.mem.wf) :
    (hostHbmRetireLogWrite ctl v s).MemOk := by
  unfold hostHbmRetireLogWrite
  split
  · simp [hs]
  · split <;> simp [hs]

/-! The functions of Machine/Jobs. -/

@[simp] theorem State.rqEvent_memOk (s : State) (i : Nat) (hs : s.mem.wf) : (s.rqEvent i).mem.wf := by
  simp [State.rqEvent, hs]

@[simp] theorem State.cqPause_memOk (s : State) (i : Nat) (on : Bool) (hs : s.mem.wf) : (s.cqPause i on).mem.wf := by
  simp [State.cqPause, hs]

@[simp] theorem State.setJob_mem (s : State) (i j : Nat) (x : Job) : (s.setJob i j x).mem = s.mem := by
  rfl

@[simp] theorem State.freeCtx_mem (s : State) (k : Nat) : (s.freeCtx k).mem = s.mem := by
  rfl

@[simp] theorem State.recEffect_mem (s : State) (i : Nat) (e : RecEffect) : (s.recEffect i e).mem = s.mem := by
  unfold State.recEffect
  split <;> simp

@[simp] theorem State.writeRec_memOk (s : State) (i : Nat) (r : ReadyRec) (hs : s.mem.wf) : (s.writeRec i r).mem.wf := by
  simp only [State.writeRec]
  repeat' split
  all_goals simp [hs]

@[simp] theorem State.rqDrain_memOk (s : State) (i fuel : Nat) (hs : s.mem.wf) : (s.rqDrain i fuel).mem.wf := by
  induction fuel generalizing s with
  | zero => exact hs
  | succ fuel ih =>
    unfold State.rqDrain
    split
    · split <;> simp [hs]
    · split <;> simp [ih, hs]

@[simp] theorem State.postRec_memOk (s : State) (i : Nat) (r : ReadyRec) (hs : s.mem.wf) : (s.postRec i r).mem.wf := by
  unfold State.postRec
  split <;> simp [hs]

@[simp] theorem State.jobRec_memOk (s : State) (i opc ticket : Nat) (code : Code) (job steps : Nat) (e : RecEffect)
    (hs : s.mem.wf) : (s.jobRec i opc ticket code job steps e).mem.wf := by
  simp [State.jobRec, hs]

@[simp] theorem State.simpleRec_memOk (s : State) (i opc ticket : Nat) (code : Code) (job steps : Nat) (hs : s.mem.wf) :
    (s.simpleRec i opc ticket code job steps).mem.wf := by
  simp [State.simpleRec, hs]

@[simp] theorem State.ctxRec_memOk (s : State) (k : Nat) (more : Bool) (code : Code) (inl : List Byte) (hs : s.mem.wf) :
    (s.ctxRec k more code inl).mem.wf := by
  simp [State.ctxRec, hs]

@[simp] theorem State.releaseTile_mem (s : State) (k t : Nat) : (s.releaseTile k t).mem = s.mem := by
  simp [State.releaseTile]

@[simp] theorem State.scrubTile_mem (s : State) (t : Nat) : (s.scrubTile t).mem = s.mem := by
  simp [State.scrubTile]

@[simp] theorem State.releaseAll_mem (s : State) (k : Nat) : (s.releaseAll k).mem = s.mem := by
  simp [State.releaseAll]

@[simp] theorem State.endFoot_mem (s : State) (k : Nat) (keep : Bool) : (s.endFoot k keep).mem = s.mem := by
  simp [State.endFoot]

@[simp] theorem State.endCtx_mem (s : State) (k : Nat) (cause : Option Code) : (s.endCtx k cause).mem = s.mem := by
  simp only [State.endCtx]
  split <;> simp

@[simp] theorem State.boundary_memOk (s : State) (k pc : Nat) (hs : s.mem.wf) : (s.boundary k pc).mem.wf := by
  simp [State.boundary, hs]

@[simp] theorem State.prefetchLoad_memOk (s : State) (k wbase : Nat) (step : DWord) (ws : List Word) (hs : s.mem.wf) :
    (s.prefetchLoad k wbase step ws).mem.wf := by
  simp [State.prefetchLoad, hs]

@[simp] theorem State.prefetchWalk_memOk (s : State) (k : Nat) (hs : s.mem.wf) : (s.prefetchWalk k).mem.wf := by
  simp only [State.prefetchWalk]
  split
  · split <;> simp +contextual [hs]
  · simp +contextual [hs]

@[simp] theorem State.ckptClear_memOk (s : State) (k : Nat) (hs : s.mem.wf) : (s.ckptClear k).2.mem.wf := by
  simp only [State.ckptClear]
  split <;> simp [hs]

@[simp] theorem execStepStart_memOk (s : State) (id : ReqId) (hs : s.mem.wf) : (execStepStart id s).MemOk := by
  unfold execStepStart
  extract_lets k c
  split
  · simp [hs]
  split
  · simp [hs]
  extract_lets +onlyGivenNames foot blocked busy
  split
  · simp [hs]
  split
  · simp [hs]
  extract_lets +onlyGivenNames s1 s2 s3
  have h2 : s2.mem.wf := by
    refine foldS_memOk hs fun t u hu => ?_
    simp only
    split
    · split <;> simp [hu]
    · simp [hu]
  have h3 : s3.mem.wf := State.prefetchWalk_memOk _ _ h2
  split
  · simp [h3]
  · split <;> simp [State.mem_of_pair ‹_ = (_, _)›, h3]

@[simp] theorem State.stepDone_memOk (s : State) (k : Nat) (hs : s.mem.wf) : (s.stepDone k).mem.wf := by
  simp only [State.stepDone]
  split
  · split <;> simp [hs]
  · simp [hs]

theorem State.relocate_mem (s : State) (c : ReqCtx) (reloc : Nat) (ws : List Word) {r : Nat × State}
    (h : s.relocate c reloc ws = .ok r) : r.2.mem = s.mem := by
  unfold State.relocate at h
  extract_lets a x n p o at h
  split at h
  · rw [← Except.ok.inj h]
  · rw [← Except.ok.inj h]
  · rw [← Except.ok.inj h]
  split at h
  · cases h
  split at h
  · extract_lets v at h
    split at h
    · rw [← Except.ok.inj h, State.mem_of_triple ‹_ = (_, _, _)›, State.loadDev_mem]
    · cases h
  · cases h

@[simp] theorem State.issueOne_memOk (s : State) (k : Nat) (e : List Word) (hs : s.mem.wf) : (s.issueOne k e).2.mem.wf := by
  unfold State.issueOne
  extract_lets +onlyGivenNames c
  split
  · exact hs
  rename_i p rest _
  extract_lets +onlyGivenNames n
  split
  · simp [hs]
  extract_lets +onlyGivenNames t x dom mine
  split
  · exact hs
  extract_lets +onlyGivenNames op reloc r
  generalize hr : r = r'
  rcases r' with cause | ⟨a, u⟩
  · simp [hs]
  have hu : u.mem = s.mem := by
    simp only [r] at hr
    clear_value reloc
    cases reloc with
    | none => rw [← (Prod.mk.inj (Except.ok.inj hr)).2]
    | some m =>
      cases hm : s.relocate c m p.words with
      | error cause => simp only [hm, Except.map, reduceCtorEq] at hr
      | ok q =>
        simp only [hm, Except.map] at hr
        rw [← (Prod.mk.inj (Except.ok.inj hr)).2]
        exact State.relocate_mem s c m _ hm
  dsimp -zeta only
  extract_lets +onlyGivenNames cmd s2
  have h2 : s2.mem.wf := by
    simp [s2, hu, hs]
  split <;> simp [h2]

theorem State.kvWait_mem (s : State) (k : Nat) {t : State} (h : s.kvWait k = some t) : t.mem = s.mem := by
  simp only [State.kvWait] at h
  split at h
  · split at h
    · exact State.unitWait_mem s _ _ _ h
    · cases h
  · cases h

@[simp] theorem State.issueAll_memOk (s : State) (k : Nat) (e : List Word) (fuel : Nat) (hs : s.mem.wf) :
    (s.issueAll k e fuel).mem.wf := by
  induction fuel generalizing s with
  | zero => exact hs
  | succ fuel ih =>
    unfold State.issueAll
    split
    · rw [State.kvWait_mem s k ‹_›]
      exact hs
    · split <;> simp [ih, State.mem_of_pair ‹_ = (_, _)›, hs]

@[simp] theorem execStepTile_memOk (s : State) (id : ReqId) (hs : s.mem.wf) : (execStepTile id s).MemOk := by
  unfold execStepTile
  split <;> simp [hs]

@[simp] theorem execTileQueueEntryFree_memOk (s : State) (t : TileId) (hs : s.mem.wf) :
    (execTileQueueEntryFree t s).MemOk := by
  simp only [execTileQueueEntryFree]
  split
  · simp [hs]
  · split <;> simp [hs]

@[simp] theorem execStepSort_memOk (s : State) (id : ReqId) (hs : s.mem.wf) : (execStepSort id s).MemOk := by
  simp only [execStepSort]
  split
  · simp +contextual [hs]
  split
  · simp +contextual [hs]
  · split <;> simp +contextual [hs]

@[simp] theorem execJumpc_memOk (s : State) (id : ReqId) (hs : s.mem.wf) : (execJumpc id s).MemOk := by
  simp only [execJumpc]
  split <;> simp [hs]

@[simp] theorem execEmit_memOk (s : State) (id : ReqId) (hs : s.mem.wf) : (execEmit id s).MemOk := by
  simp only [execEmit]
  split <;> simp [hs]

@[simp] theorem State.copyRegions_memOk (s : State) (sp : Space) (ws : List (Nat × Nat × Nat)) (hs : s.mem.wf) :
    (s.copyRegions sp ws).2.mem.wf := by
  refine foldl_snd_memOk hs fun acc r hacc => ?_
  split
  · exact hacc
  · split <;> simp [State.mem_of_triple ‹_ = (_, _, _)›, hacc]

@[simp] theorem State.writeCkpt_memOk (s : State) (i : Nat) (c : ReqCtx) (j : Job) (p : Pkg) (hs : s.mem.wf) :
    (s.writeCkpt i c j p).2.mem.wf := by
  unfold State.writeCkpt
  dsimp only
  split
  · simp [State.mem_of_pair ‹_ = (_, _)›, hs]
  · simp [hs]

@[simp] theorem execCkpt_memOk (s : State) (id : ReqId) (hs : s.mem.wf) : (execCkpt id s).MemOk := by
  simp only [execCkpt]
  split
  · simp [hs]
  split
  · simp [hs]
  split
  · simp [State.unitWait_mem s _ _ _ ‹_›, hs]
  · split <;> simp [State.mem_of_pair ‹_ = (_, _)›, hs]

@[simp] theorem execStepEnd_memOk (s : State) (id : ReqId) (hs : s.mem.wf) : (execStepEnd id s).MemOk := by
  simp only [execStepEnd]
  split <;> simp [hs]

@[simp] theorem execSequencerRecord_memOk (s : State) (id : ReqId) (hs : s.mem.wf) : (execSequencerRecord id s).MemOk := by
  simp only [execSequencerRecord]
  split <;> simp [hs]

@[simp] theorem State.scrubSlice_mem (s : State) (j : Job) : (s.scrubSlice j).mem = s.mem := by
  simp [State.scrubSlice]

theorem State.restartWait_mem (s : State) (i n : Nat) (j : Job) {t : State} (h : s.restartWait i n j = some t) :
    t.mem = s.mem := by
  simp only [State.restartWait] at h
  split at h
  · cases h
  split at h
  · cases h
    exact State.unitWait_mem s _ _ _ ‹_›
  · obtain ⟨q, -, hq⟩ := Option.bind_eq_some_iff.1 h
    exact State.unitWait_mem s _ _ _ hq

@[simp] theorem State.jobCheck_memOk (s : State) (i n : Nat) (hs : s.mem.wf) : (s.jobCheck i n).mem.wf := by
  unfold State.jobCheck
  extract_lets +onlyGivenNames j
  split
  · exact hs
  extract_lets +onlyGivenNames left
  split
  · exact hs
  split
  · simp [hs]
  · split
    · rw [State.restartWait_mem s _ _ _ ‹_›]
      exact hs
    · extract_lets +onlyGivenNames s1
      split <;> simp [s1, hs]
  · exact hs

@[simp] theorem State.tearTile_mem (s : State) (t : Nat) : (s.tearTile t).mem = s.mem := by
  simp [State.tearTile]

@[simp] theorem execTeardownFinish_memOk (s : State) (id : ReqId) (hs : s.mem.wf) : (execTeardownFinish id s).MemOk := by
  simp only [execTeardownFinish]
  split
  · simp [hs]
  split
  · simp [hs]
  split
  · simp [hs]
  · exact Ans.memOk_next_of (State.jobCheck_memOk _ _ _ (State.ctxRec_memOk _ _ _ _ _ (by simp [hs])))

@[simp] theorem hostCqDoorbell_memOk (s : State) (i : InstId) (v : Word) (hs : s.mem.wf) : (hostCqDoorbell i v s).MemOk := by
  simp [hostCqDoorbell, hs]

theorem State.cqWait_mem (s : State) (i : Nat) {t : State} (h : s.cqWait i = some t) : t.mem = s.mem := by
  simp only [State.cqWait] at h
  split at h
  · exact State.unitWait_mem s _ _ _ h
  · cases h

theorem State.cqEntry_mem (s : State) (i : Nat) {a : List Word} {t : State} (h : s.cqEntry i = some (a, t)) :
    t.mem = s.mem := by
  simp only [State.cqEntry] at h
  split at h
  · split at h <;> cases h
    simp [State.mem_of_triple ‹_ = (_, _, _)›]
  · cases h

@[simp] theorem State.cqTake_memOk (s : State) (i : Nat) (ws : List Word) (hs : s.mem.wf) : (s.cqTake i ws).mem.wf := by
  simp [State.cqTake, hs]

@[simp] theorem State.cqRow_memOk (s : State) (i : Nat) (mine : Nat → Bool) (run : List Word → State → State)
    (hrun : ∀ ws t, t.mem.wf → (run ws t).memOk) (hs : s.mem.wf) : (s.cqRow i mine run).mem.wf := by
  unfold State.cqRow
  split
  · rw [State.cqWait_mem s i ‹_›]
    exact hs
  split
  · exact hs
  · have h := State.cqEntry_mem s i ‹_›
    split
    · split
      · simp [h, hs]
      · exact hrun _ _ (by rw [h]; exact hs)
    · exact hs

@[simp] theorem State.cqNop_memOk (s : State) (i : Nat) (ws : List Word) (hs : s.mem.wf) : (State.cqNop i ws s).mem.wf := by
  simp [State.cqNop, hs]

@[simp] theorem execCqNop_memOk (s : State) (i : InstId) (hs : s.mem.wf) : (execCqNop i s).MemOk := by
  simp +contextual [execCqNop, hs]

theorem State.pickCtx_mem (s : State) {a : Nat} {t : State} (h : s.pickCtx = some (a, t)) : t.mem = s.mem := by
  simp only [State.pickCtx, Option.map_eq_some_iff] at h
  obtain ⟨k, -, hk⟩ := h
  cases hk
  rfl

@[simp] theorem State.cqRun_memOk (s : State) (i : Nat) (ws : List Word) (hs : s.mem.wf) : (State.cqRun i ws s).mem.wf := by
  simp only [State.cqRun]
  split
  · simp [hs]
  split
  · simp [hs]
  split
  · simp [hs]
  · rename_i k t heq
    have ht : t.mem = s.mem := by
      split at heq
      · exact State.pickCtx_mem s heq
      · cases heq
    simp [ht, hs]

@[simp] theorem execRun_memOk (s : State) (i : InstId) (hs : s.mem.wf) : (execRun i s).MemOk := by
  simp +contextual [execRun, hs]

@[simp] theorem State.cqCancel_memOk (s : State) (i : Nat) (ws : List Word) (hs : s.mem.wf) :
    (State.cqCancel i ws s).mem.wf := by
  simp only [State.cqCancel]
  split
  · simp [hs]
  · split <;> simp [hs]

@[simp] theorem execCancel_memOk (s : State) (i : InstId) (hs : s.mem.wf) : (execCancel i s).MemOk := by
  simp +contextual [execCancel, hs]

@[simp] theorem State.cqOpenJob_memOk (s : State) (i : Nat) (ws : List Word) (hs : s.mem.wf) :
    (State.cqOpenJob i ws s).mem.wf := by
  simp [State.cqOpenJob, hs]

@[simp] theorem execOpenJob_memOk (s : State) (i : InstId) (hs : s.mem.wf) : (execOpenJob i s).MemOk := by
  simp +contextual [execOpenJob, hs]

@[simp] theorem State.endJobCtxs_mem (s : State) (i n : Nat) : (s.endJobCtxs i n).mem = s.mem := by
  simp [State.endJobCtxs]

@[simp] theorem State.jobEnd_memOk (s : State) (i opc : Nat) (ws : List Word) (hs : s.mem.wf) :
    (State.jobEnd i opc ws s).mem.wf := by
  simp [State.jobEnd, hs]

@[simp] theorem execCloseJob_memOk (s : State) (i : InstId) (hs : s.mem.wf) : (execCloseJob i s).MemOk := by
  simp +contextual [execCloseJob, hs]

@[simp] theorem execRestart_memOk (s : State) (i : InstId) (hs : s.mem.wf) : (execRestart i s).MemOk := by
  simp +contextual [execRestart, hs]

@[simp] theorem execCqFetchResume_memOk (s : State) (i : InstId) (hs : s.mem.wf) : (execCqFetchResume i s).MemOk := by
  simp +contextual [execCqFetchResume, hs]

@[simp] theorem hostRqHeadWrite_memOk (s : State) (i : InstId) (v : Word) (hs : s.mem.wf) :
    (hostRqHeadWrite i v s).MemOk := by
  simp [hostRqHeadWrite, hs]

/-! The functions of Machine/Sched. -/

@[simp] theorem State.sdsPeriod_mem (s : State) (d : Nat) : (s.sdsPeriod d).mem = s.mem := by
  simp [State.sdsPeriod]

@[simp] theorem State.handOver_mem (s : State) (d : Nat) : (s.handOver d).mem = s.mem := by
  refine (foldS_mem _ _ _ fun t u => ?_).trans rfl
  split <;> simp

@[simp] theorem State.overrunPeriod_memOk (s : State) (d : Nat) (hs : s.mem.wf) : (s.overrunPeriod d).mem.wf := by
  simp [State.overrunPeriod, hs]

@[simp] theorem State.beginBorrow_mem (s : State) (t : Nat) : (s.beginBorrow t).mem = s.mem := by
  simp [State.beginBorrow]

@[simp] theorem State.fixPlan_mem (s : State) (d : Nat) : (s.fixPlan d).mem = s.mem := by
  simp [State.fixPlan]

@[simp] theorem execPlanPeriodBoundary_memOk (s : State) (d : DieId) (hs : s.mem.wf) :
    (execPlanPeriodBoundary d s).MemOk := by
  simp [execPlanPeriodBoundary, hs]

@[simp] theorem State.dropWaiters_mem (s : State) (t : Nat) : (s.dropWaiters t).mem = s.mem := by
  simp [State.dropWaiters]

@[simp] theorem execSpillComplete_memOk (s : State) (t : TileId) (tierErr : Bool) (hs : s.mem.wf) :
    (execSpillComplete t tierErr s).MemOk := by
  simp only [execSpillComplete]
  split
  · simp +contextual [hs]
  split
  · simp +contextual [hs]
  · split <;> simp +contextual [hs]

@[simp] theorem execTileReturnStart_memOk (s : State) (t : TileId) (hs : s.mem.wf) : (execTileReturnStart t s).MemOk := by
  simp only [execTileReturnStart]
  repeat' split
  all_goals simp +contextual [hs]

@[simp] theorem execRestoreComplete_memOk (s : State) (t : TileId) (hs : s.mem.wf) : (execRestoreComplete t s).MemOk := by
  simp only [execRestoreComplete]
  split <;> simp [hs]

/-! The functions of Machine/Gate. -/

@[simp] theorem State.unbindPkg_memOk (s : State) (h : Nat) (hs : s.mem.wf) : (s.unbindPkg h).mem.wf := by
  unfold State.unbindPkg
  split
  · exact hs
  extract_lets s1 drop s2 s3
  have hd (oid : Nat) (release : Bool) (t : State) (ht : t.mem.wf) : (drop oid release t).mem.wf := by
    simp only [drop]
    split
    · exact ht
    split
    · exact foldN_memOk ht fun i u hu => by simp [hu]
    · exact ht
  have h2 : s2.mem.wf := by
    simp only [s2]
    split
    · exact hs
    · exact hd _ _ _ hs
  have h3 : s3.mem.wf := foldS_memOk h2 fun _ _ ht => hd _ _ _ ht
  simp [h3]

@[simp] theorem State.unbindNow_memOk (s : State) (h : Nat) (hs : s.mem.wf) : (s.unbindNow h).mem.wf := by
  simp [State.unbindNow, hs]

@[simp] theorem State.parkResult_mem (s : State) (c : Code) : (s.parkResult c).mem = s.mem := by
  rfl

@[simp] theorem State.parkApply_mem (s : State) (v : Word) : (s.parkApply v).mem = s.mem := by
  simp [State.parkApply]

@[simp] theorem State.gateOpen_memOk (s : State) (hs : s.mem.wf) : s.gateOpen.mem.wf := by
  simp only [State.gateOpen]
  repeat' split
  all_goals simp [hs]

/-! The functions of Machine/Cells. -/

@[simp] theorem State.lvTxOn_mem (s : State) (p dest : Nat) (m : LvMsg) : (s.lvTxOn p dest m).mem = s.mem := by
  simp [State.lvTxOn]

@[simp] theorem State.lvSend_mem (s : State) (dest : Nat) (m : LvMsg) : (s.lvSend dest m).mem = s.mem := by
  unfold State.lvSend
  split <;> simp

@[simp] theorem State.mirrorOut_mem (s : State) (c : Nat) (item : MirrorItem) : (s.mirrorOut c item).mem = s.mem := by
  simp [State.mirrorOut]

@[simp] theorem State.refusePdus_memOk (s : State) (c : Nat) (h : SlotHead) (code : Code) (ps : List Pdu) (hs : s.mem.wf) :
    (s.refusePdus c h code ps).mem.wf := by
  simp +contextual [State.refusePdus, hs]

@[simp] theorem State.landSlot_memOk (s : State) (ws : List Word) (hs : s.mem.wf) : (s.landSlot ws).mem.wf := by
  simp only [State.landSlot]
  split <;> simp [hs]

@[simp] theorem State.slotMessage_memOk (s : State) (type : Nat) (ws : List Word) (hs : s.mem.wf) :
    (s.slotMessage type ws).mem.wf := by
  simp [State.slotMessage, hs]

@[simp] theorem execUlConfig_memOk (s : State) (msg : List Word) (hs : s.mem.wf) : (execUlConfig msg s).MemOk := by
  simp [execUlConfig, hs]

@[simp] theorem execDlConfig_memOk (s : State) (msg : List Word) (hs : s.mem.wf) : (execDlConfig msg s).MemOk := by
  simp [execDlConfig, hs]

@[simp] theorem execTxData_memOk (s : State) (msg : List Word) (hs : s.mem.wf) : (execTxData msg s).MemOk := by
  simp [execTxData, hs]

@[simp] theorem State.noTb_memOk (s : State) (c : Nat) (m : SlotMsgs) (p : Pdu) (hs : s.mem.wf) : (s.noTb c m p).mem.wf := by
  simp [State.noTb, hs]

@[simp] theorem State.judgePdsch_memOk (s : State) (c : Nat) (m : SlotMsgs) (p : Pdu) (hs : s.mem.wf) :
    (s.judgePdsch c m p).mem.wf := by
  simp only [State.judgePdsch]
  split
  · simp [hs]
  · split <;> simp [hs]

@[simp] theorem State.slotDeadline_memOk (s : State) (c : Nat) (m : SlotMsgs) (hs : s.mem.wf) :
    (s.slotDeadline c m).mem.wf := by
  simp only [State.slotDeadline]
  exact foldS_memOk (foldS_memOk (by simp [hs]) fun p t ht => by simp [ht]) fun p t ht => by simp [ht]

@[simp] theorem State.admBusy_memOk (s : State) (b : Bool) (hs : s.mem.wf) : (s.admBusy b).mem.wf := by
  simp [State.admBusy, hs]

@[simp] theorem State.admDone_mem (s : State) (c : Code) (sfn : Option Nat) : (s.admDone c sfn).mem = s.mem := by
  rfl

@[simp] theorem State.admIgnored_mem (s : State) : s.admIgnored.mem = s.mem := by
  rfl

@[simp] theorem hostAdmit_memOk (s : State) (v : Word) (hs : s.mem.wf) : (hostAdmit v s).MemOk := by
  simp [hostAdmit, hs]

@[simp] theorem execAdmitChecksComplete_memOk (s : State) (hs : s.mem.wf) : (execAdmitChecksComplete s).MemOk := by
  simp [execAdmitChecksComplete, hs]

@[simp] theorem State.abortSlot_memOk (s : State) (c : Nat) (m : SlotMsgs) (hs : s.mem.wf) : (s.abortSlot c m).mem.wf := by
  simp only [State.abortSlot]
  refine foldS_memOk ?_ fun q t ht => by simp [ht]
  repeat' split
  all_goals simp [hs]

@[simp] theorem State.abortFrom_memOk (s : State) (c t : Nat) (hs : s.mem.wf) : (s.abortFrom c t).mem.wf := by
  simp +contextual [State.abortFrom, hs]

@[simp] theorem State.drainCell_memOk (s : State) (c at0 sfn : Nat) (forced : Bool) (hs : s.mem.wf) :
    (s.drainCell c at0 sfn forced).mem.wf := by
  simp [State.drainCell, hs]

@[simp] theorem State.freeCell_memOk (s : State) (c : Nat) (hs : s.mem.wf) : (s.freeCell c).mem.wf := by
  simp [State.freeCell, hs]

@[simp] theorem hostRemove_memOk (s : State) (v : Word) (hs : s.mem.wf) : (hostRemove v s).MemOk := by
  simp only [hostRemove]
  split
  · simp [hs]
  split
  · simp [hs]
  · split <;> simp [hs]

@[simp] theorem hostRemoveForce_memOk (s : State) (v : Word) (hs : s.mem.wf) : (hostRemoveForce v s).MemOk := by
  simp [hostRemoveForce, hs]

@[simp] theorem State.startStreams_mem (s : State) (c : Nat) : (s.startStreams c).mem = s.mem := by
  rfl

@[simp] theorem execCellActivate_memOk (s : State) (c : CellId) (hs : s.mem.wf) : (execCellActivate c s).MemOk := by
  simp [execCellActivate, hs]

@[simp] theorem State.dropFrames_memOk (s : State) (c p : Nat) (hs : s.mem.wf) : (s.dropFrames c p).mem.wf := by
  exact hs

@[simp] theorem execCellEndBoundary_memOk (s : State) (c : CellId) (hs : s.mem.wf) : (execCellEndBoundary c s).MemOk := by
  simp [execCellEndBoundary, hs]

@[simp] theorem execCellFree_memOk (s : State) (c : CellId) (hs : s.mem.wf) : (execCellFree c s).MemOk := by
  simp [execCellFree, hs]

@[simp] theorem State.slotCtx_mem (s : State) (sm c l k : Nat) : (s.slotCtx sm c l k).mem = s.mem := by
  simp [State.slotCtx]

@[simp] theorem execCellSlotStart_memOk (s : State) (c : CellId) (hs : s.mem.wf) : (execCellSlotStart c s).MemOk := by
  simp only [execCellSlotStart]
  split
  · simp [hs]
  · exact Ans.memOk_next_of (State.blaze_memOk _ _ _ _ (State.sendSlot_memOk _ _ _ _ _ _ _ _ _ (by simp [hs])))

/-! The functions of Machine/Receive. -/

@[simp] theorem State.cellCtr_mem (s : State) (c j n : Nat) : (s.cellCtr c j n).mem = s.mem := by
  simp [State.cellCtr]

@[simp] theorem State.ethDrop_mem (s : State) (port idx : Nat) : (s.ethDrop port idx).mem = s.mem := by
  rfl

@[simp] theorem State.landSection_memOk (s : State) (port c st sm : Nat) (x : USection) (hs : s.mem.wf) :
    (s.landSection port c st sm x).mem.wf := by
  simp [State.landSection, hs]

@[simp] theorem State.landPrach_memOk (s : State) (port c st sm : Nat) (x : USection) (hs : s.mem.wf) :
    (s.landPrach port c st sm x).mem.wf := by
  simp [State.landPrach, hs]

@[simp] theorem State.uplane_memOk (s : State) (port : Nat) (x : USection) (hs : s.mem.wf) : (s.uplane port x).mem.wf := by
  simp only [State.uplane]
  split
  · simp [hs]
  · split <;> simp [hs]

@[simp] theorem execUplaneSection_memOk (s : State) (port : EthPort) (sec : USection) (hs : s.mem.wf) :
    (execUplaneSection port sec s).MemOk := by
  simp [execUplaneSection, hs]

@[simp] theorem State.latchOcc_mem (s : State) (c st : Nat) (o : OccSum) : (s.latchOcc c st o).mem = s.mem := by
  simp [State.latchOcc]

@[simp] theorem State.latchDue_mem (s : State) (c st : Nat) : (s.latchDue c st).mem = s.mem := by
  simp [State.latchDue]

@[simp] theorem State.copyOccasion_memOk (s : State) (port tag c st : Nat) (m : SlotMsgs) (idx : Nat) (p : Pdu) (at0 : Nat)
    (raw out : List (ℤ × ℤ)) (hs : s.mem.wf) : (s.copyOccasion port tag c st m idx p at0 raw out).mem.wf := by
  simp [State.copyOccasion, hs]

@[simp] theorem State.copyOccasions_memOk (s : State) (port c st sm sym off slot : Nat) (raw out : List (ℤ × ℤ))
    (hs : s.mem.wf) : (s.copyOccasions port c st sm sym off slot raw out).mem.wf := by
  simp only [State.copyOccasions]
  refine foldS_memOk hs fun m t ht => ?_
  split
  · exact ht
  · exact foldS_memOk ht fun ip u hu => by simp [hu]

@[simp] theorem State.landIq_memOk (s : State) (port c st sm : Nat) (x : IqMessage) (hs : s.mem.wf) :
    (s.landIq port c st sm x).mem.wf := by
  unfold State.landIq
  extract_lets z d n g ended f res out sats first pos u s1
  split
  extract_lets mine u1 s2 s3 s4
  have h4 : s4.mem.wf := by simp [s4, s3, s2, s1, hs]
  split <;> simp [h4]

@[simp] theorem State.iqMessage_memOk (s : State) (port : Nat) (x : IqMessage) (hs : s.mem.wf) :
    (s.iqMessage port x).mem.wf := by
  simp only [State.iqMessage]
  split
  · simp [hs]
  · split <;> simp [hs]

@[simp] theorem execTimeDomainIqMessage_memOk (s : State) (port : EthPort) (msg : IqMessage) (hs : s.mem.wf) :
    (execTimeDomainIqMessage port msg s).MemOk := by
  simp [execTimeDomainIqMessage, hs]

@[simp] theorem State.closePrbs_memOk (s : State) (c st sfn slot k : Nat) (hs : s.mem.wf) :
    (s.closePrbs c st sfn slot k).2.mem.wf := by
  simp only [State.closePrbs, State.updCell_mem]
  exact State.putDevTag_memOk _ _ _ _ _ (foldS_memOk hs fun p t ht => by simp [ht])

@[simp] theorem State.closeSamples_memOk (s : State) (c st sfn slot k : Nat) (hs : s.mem.wf) :
    (s.closeSamples c st sfn slot k).mem.wf := by
  simp only [State.closeSamples]
  split
  · simp [hs]
  · simp only [State.cellCtr_mem, State.bump_mem]
    exact State.putDevTag_memOk _ _ _ _ _ (foldS_memOk (by simp [hs]) fun i t ht => by simp [ht])

@[simp] theorem execUlSymbolClose_memOk (s : State) (c : CellId) (sfn slot sym : Nat) (hs : s.mem.wf) :
    (execUlSymbolClose c sfn slot sym s).MemOk := by
  unfold execUlSymbolClose
  extract_lets x d sm due
  split
  · simp [hs]
  split
  · exact Ans.memOk_next_of (foldN_memOk hs fun st t ht => by simp [ht])
  split
  rename_i n s1 heq
  have h1 : s1.mem.wf := by
    rw [State.mem_of_pair heq]
    refine foldS_keeps (P := fun p : Nat × State => p.2.memOk) _ (fun st _ acc hacc => ?_) hs
    exact State.closePrbs_memOk acc.2 c st sfn slot sym hacc
  simp [h1]

@[simp] theorem execGainSlotEnd_memOk (s : State) (c : CellId) (sfn slot : Nat) (hs : s.mem.wf) :
    (execGainSlotEnd c sfn slot s).MemOk := by
  simp [execGainSlotEnd, hs]

@[simp] theorem execRxDataEgress_memOk (s : State) (c : CellId) (sfn slot : Nat) (tbs crcs : List (List Word))
    (others : List (Nat × List (List Word))) (hs : s.mem.wf) : (execRxDataEgress c sfn slot tbs crcs others s).MemOk := by
  unfold execRxDataEgress
  simp +contextual [hs]

@[simp] theorem State.nextSeq_mem (s : State) (c st dir plane : Nat) : (s.nextSeq c st dir plane).2.mem = s.mem := by
  rfl

@[simp] theorem State.ruFrame_mem (s : State) (port eaxc : Nat) (body : List Byte) (launch deadline : Nat)
    (kind : EgressKind)
    (close : Option Nat) : (s.ruFrame port eaxc body launch deadline kind close).mem = s.mem := by
  unfold State.ruFrame
  split <;> simp

@[simp] theorem State.cFrame_mem (s : State) (c st : Nat) (dl : Bool) (sm : Nat) (payload : List Byte) :
    (s.cFrame c st dl sm payload).mem = s.mem := by
  simp [State.cFrame]

@[simp] theorem execUplinkCplaneSend_memOk (s : State) (c : CellId) (sfn slot : Nat) (hs : s.mem.wf) :
    (execUplinkCplaneSend c sfn slot s).MemOk := by
  simp only [execUplinkCplaneSend]
  split <;> simp [hs]

@[simp] theorem execDownlinkCplaneSend_memOk (s : State) (c : CellId) (sfn slot : Nat)
    (weights : List (List (Nat × Nat × List (ℤ × ℤ)))) (hs : s.mem.wf) :
    (execDownlinkCplaneSend c sfn slot weights s).MemOk := by
  simp only [execDownlinkCplaneSend]
  split <;> simp [hs]

@[simp] theorem State.sendSymbol_memOk (s : State) (c st sfn slot k sm first : Nat) (paceIt : Bool) (hs : s.mem.wf) :
    (s.sendSymbol c st sfn slot k sm first paceIt).mem.wf := by
  simp [State.sendSymbol, hs]

@[simp] theorem execDlSymbolSend_memOk (s : State) (c : CellId) (sfn slot k : Nat) (hs : s.mem.wf) :
    (execDlSymbolSend c sfn slot k s).MemOk := by
  simp only [execDlSymbolSend]
  split
  · simp [hs]
  · exact Ans.memOk_next_of (foldN_memOk hs fun st t ht => by simp [ht])

@[simp] theorem State.clearSymbol_memOk (s : State) (c st sfn slot k sm : Nat) (hs : s.mem.wf) :
    (s.clearSymbol c st sfn slot k sm).mem.wf := by
  simp [State.clearSymbol, hs]

@[simp] theorem State.markStale_mem (s : State) (c : Nat) (m : SlotMsgs) : (s.markStale c m).mem = s.mem := by
  simp [State.markStale]

@[simp] theorem execMessageDeadline_memOk (s : State) (c : CellId) (hs : s.mem.wf) : (execMessageDeadline c s).MemOk := by
  simp +contextual [execMessageDeadline, hs]

@[simp] theorem execDlSymbolClose_memOk (s : State) (c : CellId) (sfn slot k : Nat) (hs : s.mem.wf) :
    (execDlSymbolClose c sfn slot k s).MemOk := by
  simp only [execDlSymbolClose]
  split
  · simp [hs]
  · refine Ans.memOk_next_of (foldN_memOk ?_ fun st t ht => by simp [ht])
    split
    · exact foldN_memOk hs fun st t ht => by simp [ht]
    · exact hs

/-! The functions of Machine/Coding. -/

@[simp] theorem State.dropCode_mem (s : State) (g q : Nat) : (s.dropCode g q).mem = s.mem := by
  rfl

@[simp] theorem State.codeRecord_mem (s : State) (g : Nat) (k : CodeCmd) (c : Code) (tbok : Bool) (ac : Nat) :
    (s.codeRecord g k c tbok ac).mem = s.mem := by
  simp [State.codeRecord]

@[simp] theorem State.putDir_memOk (s : State) (d : List Word) (i : Nat) (ws : List Word) (hs : s.mem.wf) :
    (s.putDir d i ws).mem.wf := by
  simp [State.putDir, hs]

theorem State.claim_error_memOk (s : State) (ws : List Word) (need : Nat) {t : State} (hs : s.mem.wf)
    (h : s.claim ws need = some (.error t)) : t.mem.wf := by
  unfold State.claim at h
  extract_lets c d key at h
  split at h
  · cases h
  extract_lets s1 at h
  have h1 : s1.mem.wf := by simp only [s1]; split <;> simp [hs]
  split at h
  all_goals cases h
  all_goals exact State.putDir_memOk _ _ _ _ h1

theorem State.claim_memOk (s : State) (ws : List Word) (need : Nat) {i : Nat} {t : State} (hs : s.mem.wf)
    (h : s.claim ws need = some (.ok (i, t))) : t.mem.wf := by
  unfold State.claim at h
  extract_lets c d key at h
  split at h
  · cases h
  extract_lets s1 at h
  have h1 : s1.mem.wf := by simp only [s1]; split <;> simp [hs]
  split at h
  all_goals cases h
  all_goals exact State.putDir_memOk _ _ _ _ h1

@[simp] theorem State.combineAll_memOk (s : State) (ws : List Word) (i : Nat) (soft : List Byte) (hs : s.mem.wf) :
    (s.combineAll ws i soft).mem.wf := by
  exact foldN_memOk hs fun r t ht => by simp [ht]

@[simp] theorem State.codeTake_mem (s : State) (g : Nat) : (s.codeTake g).mem = s.mem := by
  unfold State.codeTake
  split <;> simp

@[simp] theorem State.codeRefuse_mem (s : State) (g : Nat) (k : CodeCmd) (c : Code) :
    (s.codeRefuse g k c).mem = s.mem := by
  simp [State.codeRefuse]

@[simp] theorem State.putCode_mem (s : State) (g : Nat) (k : CodeCmd) : (s.putCode g k).mem = s.mem := by
  rfl

@[simp] theorem State.beginCode_mem (s : State) (g : Nat) (k : CodeCmd) (blocks : Nat) (entry : Option Nat) :
    (s.beginCode g k blocks entry).mem = s.mem := by
  rfl

@[simp] theorem State.beginLdec_fresh_memOk (s t : State) (g : Nat) (k : CodeCmd) (soft : List Byte) (d : List Word)
    (seg : Seg)
    (hs : s.mem.wf) (ht : t.mem.wf) : (State.beginLdec.fresh s g k soft t d seg).mem.wf := by
  unfold State.beginLdec.fresh
  split
  · exact hs
  · simp [State.claim_error_memOk t _ _ ht ‹_›]
  · simp [State.claim_memOk t _ _ ht ‹_›]

@[simp] theorem State.beginLdec_memOk (s : State) (g : Nat) (k : CodeCmd) (soft : List Byte) (hs : s.mem.wf) :
    (s.beginLdec g k soft).mem.wf := by
  simp only [State.beginLdec]
  split <;> simp [hs]

@[simp] theorem State.beginLenc_memOk (s : State) (g : Nat) (k : CodeCmd) (tb : List Byte) (hs : s.mem.wf) :
    (s.beginLenc g k tb).mem.wf := by
  unfold State.beginLenc
  extract_lets +onlyGivenNames d seg
  split
  · split
    · simp [hs]
    · extract_lets +onlyGivenNames w
      split <;> simp [hs]
  · split
    · exact hs
    · simp [State.claim_error_memOk s _ _ hs ‹_›]
    · simp [State.claim_memOk s _ _ hs ‹_›]

@[simp] theorem State.startCode_memOk (s : State) (g op : Nat) (begin_ : State → CodeCmd → List Byte → State)
    (hbegin : ∀ t k bs, t.mem.wf → (begin_ t k bs).memOk) (hs : s.mem.wf) : (s.startCode g op begin_).mem.wf := by
  simp only [State.startCode]
  split
  · exact hs
  split
  · exact hs
  split
  · exact hs
  split
  · split
    · rename_i bs t heq
      have ht : t.mem.wf := by simp [State.mem_of_triple heq, hs]
      split
      · simp [ht]
      · exact hbegin _ _ _ ht
    · simp [State.mem_of_triple ‹_ = (_, _, _)›, hs]
  · simp [hs]

@[simp] theorem State.dropUnknownCode_mem (s : State) (g : Nat) : (s.dropUnknownCode g).mem = s.mem := by
  unfold State.dropUnknownCode
  split
  · simp
  · split <;> simp

@[simp] theorem execLdec_memOk (s : State) (g : GroveId) (hs : s.mem.wf) : (execLdec g s).MemOk :=
  Ans.memOk_next_of (State.startCode_memOk _ _ _ _ (fun t k bs ht => by simp [ht]) (by simp [hs]))

@[simp] theorem execLenc_memOk (s : State) (g : GroveId) (hs : s.mem.wf) : (execLenc g s).MemOk :=
  Ans.memOk_next_of (State.startCode_memOk _ _ _ _ (fun t k bs ht => by simp [ht]) (by simp [hs]))

@[simp] theorem execPdec_memOk (s : State) (g : GroveId) (hs : s.mem.wf) : (execPdec g s).MemOk := by
  simp [execPdec, hs]

@[simp] theorem execPenc_memOk (s : State) (g : GroveId) (hs : s.mem.wf) : (execPenc g s).MemOk := by
  simp [execPenc, hs]

@[simp] theorem State.endLdec_memOk (s : State) (g : Nat) (k : CodeCmd) (hs : s.mem.wf) : (s.endLdec g k).mem.wf := by
  unfold State.endLdec
  extract_lets ws seg bits payload got ok body w0 rest
  split
  · split <;> simp [State.mem_of_pair ‹_ = (_, _)›, State.mem_of_pair ‹s.storeDev _ _ _ = (_, _)›, hs]
  · simp [State.mem_of_pair ‹_ = (_, _)›, hs]

@[simp] theorem State.endBits_memOk (s : State) (g : Nat) (k : CodeCmd) (bits : List Bool) (ok : Bool) (hs : s.mem.wf) :
    (s.endBits g k bits ok).mem.wf := by
  unfold State.endBits
  split <;> simp [State.mem_of_pair ‹_ = (_, _)›, hs]

@[simp] theorem State.endCode_memOk (s : State) (g : Nat) (k : CodeCmd) (hs : s.mem.wf) : (s.endCode g k).mem.wf := by
  simp only [State.endCode]
  split <;> simp [hs]

@[simp] theorem execCodeBlockEnd_memOk (s : State) (g : GroveId) (hs : s.mem.wf) : (execCodeBlockEnd g s).MemOk := by
  simp only [execCodeBlockEnd]
  split <;> simp [hs]

@[simp] theorem execHarqLockRelease_memOk (s : State) (c : CellId) (entry : Nat) (hs : s.mem.wf) :
    (execHarqLockRelease c entry s).MemOk := by
  simp [execHarqLockRelease, hs]

@[simp] theorem execSoftBufferRelease_memOk (s : State) (c : CellId) (hs : s.mem.wf) :
    (execSoftBufferRelease c s).MemOk := by
  simp only [execSoftBufferRelease]
  split
  · simp [hs]
  · simp only [Ans.memOk_next, State.updCell_mem]
    refine foldN_memOk hs fun i t ht => ?_
    split <;> simp [ht]

/-! The functions of Machine/Tenancy. -/

@[simp] theorem State.setStage_mem (s : State) (p : Page) (ws : List Word) : (s.setStage p ws).mem = s.mem := by
  exact foldN_mem _ _ _ fun _ _ => rfl

@[simp] theorem State.pinInst_mem (s : State) (i : Nat) : (s.pinInst i).mem = s.mem := by
  refine (foldS_mem _ _ _ fun g t => ?_).trans ?_
  · simp
  · split <;> simp

@[simp] theorem State.unpinInst_mem (s : State) (i : Nat) : (s.unpinInst i).mem = s.mem := by
  rfl

@[simp] theorem State.changeGranule_mem (s : State) (g : Nat) : (s.changeGranule g).mem = s.mem := by
  simp [State.changeGranule]

@[simp] theorem State.changeWay_mem (s : State) (u : Nat) (old : Option Nat) : (s.changeWay u old).mem = s.mem := by
  unfold State.changeWay
  split <;> simp

@[simp] theorem State.changeBlock_mem (s : State) (b : Nat) : (s.changeBlock b).mem = s.mem := by
  rfl

@[simp] theorem State.drainChannel_mem (s : State) (c : Nat) : (s.drainChannel c).mem = s.mem := by
  simp [State.drainChannel]

@[simp] theorem State.applyMap_mem (s : State) (m : Memory) : (s.applyMap m).mem = s.mem := by
  simp [State.applyMap]

@[simp] theorem State.applyDomain_mem (s : State) (d : Nat) : (s.applyDomain d).mem = s.mem := by
  simp [State.applyDomain]

@[simp] theorem State.reproEnd_mem (s old : State) : (s.reproEnd old).mem = s.mem := by
  simp [State.reproEnd]

@[simp] theorem State.commitNow_mem (s : State) (h : HeldCommit) : (s.commitNow h).mem = s.mem := by
  unfold State.commitNow
  split <;> simp

@[simp] theorem State.commitFbk_mem (s : State) (h : HeldCommit) : (s.commitFbk h).mem = s.mem := by
  simp [State.commitFbk]

@[simp] theorem hostFirebreakCommit_memOk (s : State) (page : Fin 65) (hs : s.mem.wf) :
    (hostFirebreakCommit page s).MemOk := by
  simp [hostFirebreakCommit, hs]

@[simp] theorem hostGroupCommit_memOk (s : State) (v : Word) (hs : s.mem.wf) : (hostGroupCommit v s).MemOk := by
  simp [hostGroupCommit, hs]

@[simp] theorem execHeldCommitApply_memOk (s : State) (hs : s.mem.wf) : (execHeldCommitApply s).MemOk := by
  unfold execHeldCommitApply
  split <;> simp [hs]

@[simp] theorem hostFbkMapaddrWrite_memOk (s : State) (v : Word) (hs : s.mem.wf) : (hostFbkMapaddrWrite v s).MemOk := by
  simp [hostFbkMapaddrWrite, hs]

@[simp] theorem execMapCopyComplete_memOk (s : State) (hs : s.mem.wf) : (execMapCopyComplete s).MemOk := by
  unfold execMapCopyComplete
  split
  · simp [hs]
  · split <;> simp [State.mem_of_triple ‹_ = (_, _, _)›, hs]

@[simp] theorem State.instPost_mem (s : State) (c : Code) : (s.instPost c).mem = s.mem := by
  rfl

@[simp] theorem State.instCmd_memOk (s : State) (v : Word) (op : Nat) (okIn : InstPhase → Bool) (run : Nat → State → State)
    (hrun : ∀ i t, t.mem.wf → (run i t).memOk) (hs : s.mem.wf) : (s.instCmd v op okIn run).mem.wf := by
  unfold State.instCmd
  split
  · exact hs
  split
  · simp [hs]
  extract_lets +onlyGivenNames i fbk s1 locked code
  split
  · simp [s1, hs]
  · exact hrun i s1 hs

@[simp] theorem hostCreate_memOk (s : State) (v : Word) (hs : s.mem.wf) : (hostCreate v s).MemOk := by
  simp [hostCreate, hs]

@[simp] theorem State.disableQueues_mem (s : State) (i : Nat) : (s.disableQueues i).mem = s.mem := by
  rfl

@[simp] theorem State.clearPerturb_mem (s : State) : s.clearPerturb.mem = s.mem := by
  unfold State.clearPerturb
  extract_lets s1 s2
  have h1 : s1.mem = s.mem := foldN_mem _ _ _ fun _ _ => rfl
  have h2 : s2.mem = s1.mem := foldN_mem _ _ _ fun _ _ => rfl
  exact h2.trans h1

@[simp] theorem hostActivate_memOk (s : State) (v : Word) (hs : s.mem.wf) : (hostActivate v s).MemOk := by
  simp [hostActivate, hs]

@[simp] theorem State.closeFabric_mem (s : State) (i : Nat) : (s.closeFabric i).mem = s.mem := by
  simp [State.closeFabric]

@[simp] theorem State.byReset_mem (s : State) (k : Nat) : (s.byReset k).mem = s.mem := by
  rfl

@[simp] theorem State.beginReset_mem (s : State) (i : Nat) (ph : InstPhase) (timeout : Bool) :
    (s.beginReset i ph timeout).mem = s.mem := by
  simp [State.beginReset]

@[simp] theorem State.beginSquash_mem (s : State) (i : Nat) (timeout : Bool) :
    (s.beginSquash i timeout).mem = s.mem := by
  simp [State.beginSquash]

@[simp] theorem State.endReset_memOk (s : State) (i : Nat) (c : Code) (hs : s.mem.wf) : (s.endReset i c).mem.wf := by
  unfold State.endReset
  extract_lets mode s1 s2 s3 s4 fbk s5
  have h1 : s1.mem.wf := foldS_memOk hs fun p t ht => by simp [ht]
  have h2 : s2.mem.wf := h1
  have h3 : s3.mem.wf := by simp [s3, h2]
  have h5 : s5.mem.wf := by simp [s5, s4, h3]
  simp [h5]

@[simp] theorem State.squashTile_mem (s : State) (t : Nat) : (s.squashTile t).mem = s.mem := by
  simp [State.squashTile]

@[simp] theorem State.purgeCtx_mem (s : State) (k : Nat) : (s.purgeCtx k).mem = s.mem := by
  rfl

@[simp] theorem State.squashCtxs_mem (s : State) (i : Nat) : (s.squashCtxs i).mem = s.mem := by
  simp [State.squashCtxs]

@[simp] theorem State.stopSkidder_mem (s : State) (i : Nat) : (s.stopSkidder i).mem = s.mem := by
  rfl

@[simp] theorem State.resetPage_mem (s : State) (p : Page) : (s.resetPage p).mem = s.mem := by
  rfl

@[simp] theorem State.releaseInst_memOk (s : State) (i : Nat) (hs : s.mem.wf) : (s.releaseInst i).mem.wf := by
  simp +contextual [State.releaseInst, hs]

@[simp] theorem State.endDestroy_memOk (s : State) (i : Nat) (hs : s.mem.wf) : (s.endDestroy i).mem.wf := by
  unfold State.endDestroy
  extract_lets s0 s2 s3
  have h0 : s0.mem.wf := foldS_memOk hs fun p t ht => by simp [ht]
  have h2 : s2.mem.wf := by simp [s2, h0]
  simp [s3, h2]

@[simp] theorem hostResetDrain_memOk (s : State) (v : Word) (hs : s.mem.wf) : (hostResetDrain v s).MemOk := by
  simp [hostResetDrain, hs]

@[simp] theorem hostResetSquash_memOk (s : State) (v : Word) (hs : s.mem.wf) : (hostResetSquash v s).MemOk := by
  simp [hostResetSquash, hs]

@[simp] theorem execDrainComplete_memOk (s : State) (i : InstId) (hs : s.mem.wf) : (execDrainComplete i s).MemOk := by
  simp [execDrainComplete, hs]

@[simp] theorem execDrainTimeout_memOk (s : State) (i : InstId) (hs : s.mem.wf) : (execDrainTimeout i s).MemOk := by
  simp [execDrainTimeout, hs]

@[simp] theorem execSquashComplete_memOk (s : State) (i : InstId) (hs : s.mem.wf) : (execSquashComplete i s).MemOk := by
  simp [execSquashComplete, hs]

@[simp] theorem hostDestroy_memOk (s : State) (v : Word) (hs : s.mem.wf) : (hostDestroy v s).MemOk := by
  refine Ans.memOk_next_of (State.instCmd_memOk _ _ _ _ _ (fun i t ht => ?_) hs)
  split <;> simp [ht]

@[simp] theorem hostLogStart_memOk (s : State) (v : Word) (hs : s.mem.wf) : (hostLogStart v s).MemOk := by
  simp [hostLogStart, hs]

@[simp] theorem hostLogSwap_memOk (s : State) (v : Word) (hs : s.mem.wf) : (hostLogSwap v s).MemOk := by
  simp [hostLogSwap, hs]

@[simp] theorem hostLogStop_memOk (s : State) (v : Word) (hs : s.mem.wf) : (hostLogStop v s).MemOk := by
  simp [hostLogStop, hs]

@[simp] theorem hostFreeze_memOk (s : State) (v : Word) (hs : s.mem.wf) : (hostFreeze v s).MemOk := by
  simp [hostFreeze, hs]

@[simp] theorem execFreezeComplete_memOk (s : State) (i : InstId) (hs : s.mem.wf) : (execFreezeComplete i s).MemOk := by
  simp [execFreezeComplete, hs]

@[simp] theorem hostThaw_memOk (s : State) (v : Word) (hs : s.mem.wf) : (hostThaw v s).MemOk := by
  simp [hostThaw, hs]

@[simp] theorem hostInstanceRead_memOk (s : State) (v : Word) (hs : s.mem.wf) : (hostInstanceRead v s).MemOk := by
  simp [hostInstanceRead, hs]

@[simp] theorem execKeyDelivery_memOk (s : State) (i : InstId) (key : BitVec 512) (hs : s.mem.wf) :
    (execKeyDelivery i key s).MemOk := by
  simp [execKeyDelivery, hs]

@[simp] theorem State.sendDone_mem (s : State) (sender : Space) (c : Code) (sid target : Nat) :
    (s.sendDone sender c sid target).mem = s.mem := by
  simp only [State.sendDone]
  split <;> simp

@[simp] theorem State.mailSend_memOk (s : State) (sender : Space) (v : Word) (data : List Word) (hs : s.mem.wf) :
    (s.mailSend sender v data).mem.wf := by
  unfold State.mailSend
  extract_lets +onlyGivenNames target sid
  split
  extract_lets +onlyGivenNames s0 s1 c l
  have h0 : s0.mem.wf := by simp [s0, hs]
  have h1 : s1.mem.wf := by simp [s1, h0]
  split
  · simp [h1]
  · simp [h1]

@[simp] theorem hostMailboxSend_memOk (s : State) (sender : Space) (v : Word) (hs : s.mem.wf) :
    (hostMailboxSend sender v s).MemOk := by
  simp [hostMailboxSend, hs]

@[simp] theorem hostMailboxAck_memOk (s : State) (i : InstId) (v : Word) (hs : s.mem.wf) : (hostMailboxAck i v s).MemOk := by
  simp only [hostMailboxAck]
  split
  · simp [hs]
  · split <;> simp [hs]

/-! The functions of Machine/Fabric. -/

@[simp] theorem State.linkPut_mem (s : State) (p : Nat) (body : LinkPayload) : (s.linkPut p body).mem = s.mem := by
  simp [State.linkPut]

@[simp] theorem State.linkSend_mem (s : State) (p : Nat) (body : LinkPayload) : (s.linkSend p body).mem = s.mem := by
  simp [State.linkSend]

@[simp] theorem State.linkDrain_mem (p n : Nat) (s : State) : (State.linkDrain p n s).mem = s.mem := by
  induction n generalizing s with
  | zero => rfl
  | succ n ih =>
    unfold State.linkDrain
    split
    · rfl
    · split <;> simp [ih]

@[simp] theorem State.linkResend_mem (s : State) (p : Nat) (ks : List LinkPacket) :
    (s.linkResend p ks).mem = s.mem := by
  simp [State.linkResend]

@[simp] theorem State.linkAck_mem (s : State) (p seq : Nat) (ok : Bool) : (s.linkAck p seq ok).mem = s.mem := by
  rfl

@[simp] theorem State.carriedOn_mem (s : State) (dest : Nat) (segs : List Segment) (p : Option Nat) :
    (s.carriedOn dest segs p).mem = s.mem := foldS_mem _ _ _ fun _ _ => rfl

@[simp] theorem State.bulkSend_mem (s : State) (g dest : Nat) (crossed : List Nat) (segs : List Segment) :
    (s.bulkSend g dest crossed segs).mem = s.mem := by
  unfold State.bulkSend
  split <;> simp

@[simp] theorem State.gatherFlush_mem (s : State) (b : GatherBuf) : (s.gatherFlush b).mem = s.mem := by
  simp [State.gatherFlush]

@[simp] theorem State.setGather_mem (s : State) (b : GatherBuf) : (s.setGather b).mem = s.mem := by
  rfl

@[simp] theorem State.landingIn_mem (s : State) (g : Nat) (sp : Space) (dest : Nat) (x : Segment) :
    (s.landingIn g sp dest x).mem = s.mem := by
  simp only [State.landingIn]
  split
  · split <;> simp
  · simp

@[simp] theorem State.segSend_mem (s : State) (sp : Space) (dest : Nat) (x : Segment) :
    (s.segSend sp dest x).2.mem = s.mem := by
  unfold State.segSend
  split
  · simp
  · split <;> simp

@[simp] theorem State.segReplay_mem (s : State) (cond : Unacked → Bool) : (s.segReplay cond).mem = s.mem := by
  refine foldS_mem _ _ _ fun k t => ?_
  refine (foldl_snd_mem _ _ _ fun acc u => ?_).trans rfl
  split <;> simp

@[simp] theorem State.portFailed_mem (s : State) (p : Nat) : (s.portFailed p).mem = s.mem := by
  simp [State.portFailed]

@[simp] theorem State.linkDown_mem (s : State) (p : Nat) : (s.linkDown p).mem = s.mem := by
  simp [State.linkDown]

@[simp] theorem State.linkRetry_mem (s : State) (p : Nat) (ks : List LinkPacket) : (s.linkRetry p ks).mem = s.mem := by
  unfold State.linkRetry
  split <;> simp

@[simp] theorem execLinkRetryTimeout_memOk (s : State) (p : CkxPort) (hs : s.mem.wf) : (execLinkRetryTimeout p s).MemOk := by
  simp [execLinkRetryTimeout, hs]

@[simp] theorem execLaneErrorLimit_memOk (s : State) (p : CkxPort) (ln : Fin 4) (hs : s.mem.wf) :
    (execLaneErrorLimit p ln s).MemOk := by
  simp [execLaneErrorLimit, hs]

@[simp] theorem State.advertise_mem (s : State) (p : Nat) : (s.advertise p).mem = s.mem := by
  simp [State.advertise]

@[simp] theorem State.pathFound_mem (s : State) : s.pathFound.mem = s.mem := by
  simp [State.pathFound]

@[simp] theorem execLinkRetrainComplete_memOk (s : State) (p : CkxPort) (good : Fin 16) (hs : s.mem.wf) :
    (execLinkRetrainComplete p good s).MemOk := by
  simp [execLinkRetrainComplete, hs]

@[simp] theorem execPortHoldExpire_memOk (s : State) (p : CkxPort) (hs : s.mem.wf) : (execPortHoldExpire p s).MemOk := by
  simp [execPortHoldExpire, hs]

@[simp] theorem hostRetrain_memOk (s : State) (p : CkxPort) (hs : s.mem.wf) : (hostRetrain p s).MemOk := by
  simp [hostRetrain, hs]

@[simp] theorem hostHoldClr_memOk (s : State) (p : CkxPort) (hs : s.mem.wf) : (hostHoldClr p s).MemOk := by
  simp [hostHoldClr, hs]

@[simp] theorem execSwitchUnreachable_memOk (s : State) (p : CkxPort) (dest : Fin 65536) (hs : s.mem.wf) :
    (execSwitchUnreachable p dest s).MemOk := by
  simp [execSwitchUnreachable, hs]

@[simp] theorem State.portEnable_mem (s : State) (p : Nat) (on : Bool) : (s.portEnable p on).mem = s.mem := by
  simp [State.portEnable]

@[simp] theorem State.fqPaused_memOk (s : State) (sp : Space) (on : Bool) (hs : s.mem.wf) : (s.fqPaused sp on).mem.wf := by
  unfold State.fqPaused
  split <;> simp [hs]

@[simp] theorem State.fcWrite_memOk (s : State) (sp : Space) (ws : List Word) (hs : s.mem.wf) :
    (s.fcWrite sp ws).mem.wf := by
  simp [State.fcWrite, hs]

@[simp] theorem State.fcPost_memOk (s : State) (sp : Space) (rec : List Word) (hs : s.mem.wf) :
    (s.fcPost sp rec).mem.wf := by
  simp [State.fcPost, hs]

@[simp] theorem State.fcDrain_memOk (sp : Space) (n : Nat) (s : State) (hs : s.mem.wf) : (State.fcDrain sp n s).mem.wf := by
  induction n generalizing s with
  | zero => exact hs
  | succ n ih =>
    unfold State.fcDrain
    dsimp only
    split
    · split <;> simp [hs]
    · split <;> simp [ih, hs]

@[simp] theorem State.fabricMiss_mem (s : State) (sp : Space) (tag : Nat) : (s.fabricMiss sp tag).mem = s.mem := by
  unfold State.fabricMiss
  split
  · simp
  · split <;> simp

@[simp] theorem State.opDone_memOk (s : State) (sp : Space) (o : FabOp) (hs : s.mem.wf) : (s.opDone sp o).mem.wf := by
  simp [State.opDone, hs]

@[simp] theorem State.opsCheck_memOk (s : State) (sp : Space) (hs : s.mem.wf) : (s.opsCheck sp).mem.wf := by
  have h1 : (foldS ((s.fstream (spaceIdx sp)).ops.filter (fun o => !o.fence && o.left = 0))
      (fun o t => t.opDone sp o) s).mem.wf :=
    foldS_memOk hs fun o t ht => by simp [ht]
  simp only [State.opsCheck]
  repeat' split
  all_goals simp [h1]

@[simp] theorem State.updOp_mem (s : State) (sp : Space) (id : Nat) (g : FabOp → FabOp) :
    (s.updOp sp id g).mem = s.mem := by
  rfl

theorem State.fqEntry_mem (s : State) (sp : Space) {a : List Word} {t : State} (h : s.fqEntry sp = some (a, t)) :
    t.mem = s.mem := by
  simp only [State.fqEntry] at h
  split at h
  · split at h <;> cases h
    simp [State.mem_of_triple ‹_ = (_, _, _)›]
  · cases h

theorem State.fqWait_mem (s : State) (sp : Space) {t : State} (h : s.fqWait sp = some t) : t.mem = s.mem := by
  simp only [State.fqWait] at h
  split at h
  · exact State.unitWait_mem s _ _ _ h
  · cases h

@[simp] theorem State.newOp_mem (s : State) (sp : Space) (ws : List Word) (left : Nat) (c : Code) :
    (s.newOp sp ws left c).2.mem = s.mem := by
  rfl

@[simp] theorem State.fqFinish_memOk (s : State) (sp : Space) (ws : List Word) (c : Code) (result : DWord)
    (data : List Word) (hs : s.mem.wf) : (s.fqFinish sp ws c result data).mem.wf := by
  simp [State.fqFinish, hs]

@[simp] theorem State.fqTake_memOk (s : State) (sp : Space) (op : Nat) (run : List Word → State → State)
    (hrun : ∀ ws t, t.mem.wf → (run ws t).memOk) (hs : s.mem.wf) : (s.fqTake sp op run).mem.wf := by
  unfold State.fqTake
  split
  · rw [State.fqWait_mem s sp ‹_›]
    exact hs
  split
  · exact hs
  extract_lets +onlyGivenNames known
  split
  · exact hs
  extract_lets +onlyGivenNames k fs t1
  have h1 : t1.mem.wf := by simp [t1, State.fqEntry_mem s sp ‹_›, hs]
  split
  · simp [h1]
  split
  · simp [h1]
  · exact hrun _ _ h1

@[simp] theorem State.segIssue_mem (s : State) (sp : Space) (op h off lva seq : Nat) (so : SegOp) (ctr : Option Nat)
    (mst : Bool) : (s.segIssue sp op h off lva seq so ctr mst).mem = s.mem := by
  unfold State.segIssue
  split <;> simp

@[simp] theorem State.takeSeq_mem (s : State) (sp : Space) : (s.takeSeq sp).2.mem = s.mem := by
  rfl

@[simp] theorem State.pgSegment_mem (s : State) (sp : Space) (c : Issuing) : (s.pgSegment sp c).mem = s.mem := by
  simp only [State.pgSegment]
  split
  · split
    · split <;> simp [State.mem_of_triple ‹_ = (_, _, _)›]
    · simp
  · split <;> simp

theorem State.putWait_mem (s : State) (sp : Space) (c : Issuing) {t : State} (h : s.putWait sp c = some t) :
    t.mem = s.mem := by
  simp only [State.putWait] at h
  split at h
  · exact State.unitWait_mem s _ _ _ h
  · cases h

@[simp] theorem State.fqIssue_mem (sp : Space) (n : Nat) (s : State) : (State.fqIssue sp n s).mem = s.mem := by
  induction n generalizing s with
  | zero => rfl
  | succ n ih =>
    unfold State.fqIssue
    dsimp only
    split
    · rfl
    split
    · rfl
    split
    · rfl
    split
    · exact State.putWait_mem s sp _ ‹_›
    · simp [ih]

@[simp] theorem State.fqBulk_memOk (s : State) (sp : Space) (ws : List Word) (hs : s.mem.wf) :
    (State.fqBulk sp ws s).mem.wf := by
  simp [State.fqBulk, hs]

@[simp] theorem State.fqOne_memOk (s : State) (sp : Space) (so : SegOp) (ctr : Option Nat) (ws : List Word)
    (hs : s.mem.wf) : (State.fqOne sp so ctr ws s).mem.wf := by
  unfold State.fqOne
  split <;> simp [hs]

@[simp] theorem State.fqTakeData_memOk (s : State) (sp : Space) (op : Nat) (run : List Word → State → State)
    (hrun : ∀ ws t, t.mem.wf → (run ws t).memOk) (hs : s.mem.wf) : (s.fqTakeData sp op run).mem.wf := by
  unfold State.fqTakeData
  extract_lets +onlyGivenNames waits
  split
  · exact hs
  · exact State.fqTake_memOk _ _ _ _ hrun hs

@[simp] theorem execShapingRefill_memOk (s : State) (d : Fin 64) (pt : Nat) (hs : s.mem.wf) :
    (execShapingRefill d pt s).MemOk := by
  simp [execShapingRefill, hs]

@[simp] theorem execPut_memOk (s : State) (sp : Space) (hs : s.mem.wf) : (execPut sp s).MemOk := by
  simp +contextual [execPut, hs]

@[simp] theorem execGet_memOk (s : State) (sp : Space) (hs : s.mem.wf) : (execGet sp s).MemOk := by
  simp +contextual [execGet, hs]

@[simp] theorem execFabricStore_memOk (s : State) (sp : Space) (hs : s.mem.wf) : (execFabricStore sp s).MemOk := by
  simp +contextual [execFabricStore, hs]

@[simp] theorem execFabricLoad_memOk (s : State) (sp : Space) (hs : s.mem.wf) : (execFabricLoad sp s).MemOk := by
  simp +contextual [execFabricLoad, hs]

@[simp] theorem execRed_memOk (s : State) (sp : Space) (hs : s.mem.wf) : (execRed sp s).MemOk := by
  simp +contextual [execRed, hs]

@[simp] theorem execAtomic_memOk (s : State) (sp : Space) (hs : s.mem.wf) : (execAtomic sp s).MemOk := by
  simp +contextual [execAtomic, hs]

@[simp] theorem State.mstoreGo_mem (sp : Space) (ws : List Word) (op q : Nat) (hs : List Nat) (s : State) :
    (State.mstoreGo sp ws op q hs s).mem = s.mem := by
  induction hs generalizing s with
  | nil => rfl
  | cons h hs ih =>
    unfold State.mstoreGo
    split <;> simp [ih]

@[simp] theorem execMstore_memOk (s : State) (sp : Space) (hs : s.mem.wf) : (execMstore sp s).MemOk := by
  simp +contextual [execMstore, hs]

@[simp] theorem execFence_memOk (s : State) (sp : Space) (hs : s.mem.wf) : (execFence sp s).MemOk := by
  refine Ans.memOk_next_of (State.fqTake_memOk _ _ _ _ (fun ws t ht => ?_) hs)
  exact State.opsCheck_memOk _ _ (by simp [ht])

theorem State.pickFree_mem (s : State) (used : List Nat) (n : Nat) {a : Nat} {t : State}
    (h : s.pickFree used n = some (a, t)) :
    t.mem = s.mem := by
  simp only [State.pickFree, Option.map_eq_some_iff] at h
  obtain ⟨k, -, hk⟩ := h
  cases hk
  rfl

@[simp] theorem execRegionOpen_memOk (s : State) (sp : Space) (hs : s.mem.wf) : (execRegionOpen sp s).MemOk := by
  refine Ans.memOk_next_of (State.fqTake_memOk _ _ _ _ (fun ws t ht => ?_) hs)
  extract_lets base n cb cn ok
  split
  · simp [ht]
  split
  · simp [ht]
  · rename_i id u heq
    have hu : u.mem = t.mem := by
      split at heq
      · exact State.pickFree_mem t _ _ heq
      · cases heq
    simp [hu, ht]

@[simp] theorem execGrant_memOk (s : State) (sp : Space) (hs : s.mem.wf) : (execGrant sp s).MemOk := by
  refine Ans.memOk_next_of (State.fqTake_memOk _ _ _ _ (fun ws t ht => ?_) hs)
  extract_lets r
  split
  · simp [ht]
  split
  · simp [ht]
  · rename_i id u heq
    have hu : u.mem = t.mem := by
      split at heq
      · exact State.pickFree_mem t _ _ heq
      · cases heq
    simp [hu, ht]

@[simp] theorem execRevoke_memOk (s : State) (sp : Space) (hs : s.mem.wf) : (execRevoke sp s).MemOk := by
  refine Ans.memOk_next_of (State.fqTake_memOk _ _ _ _ (fun ws t ht => ?_) hs)
  split
  · split <;> simp [ht]
  · simp [ht]

@[simp] theorem execImport_memOk (s : State) (sp : Space) (hs : s.mem.wf) : (execImport sp s).MemOk := by
  refine Ans.memOk_next_of (State.fqTake_memOk _ _ _ _ (fun ws t ht => ?_) hs)
  split
  · simp [ht]
  · rename_i h u heq
    have hu : u.mem = t.mem := by
      split at heq
      · exact State.pickFree_mem t _ _ heq
      · cases heq
    simp [hu, ht]

@[simp] theorem execUnimport_memOk (s : State) (sp : Space) (hs : s.mem.wf) : (execUnimport sp s).MemOk := by
  refine Ans.memOk_next_of (State.fqTake_memOk _ _ _ _ (fun ws t ht => ?_) hs)
  split
  · split <;> simp [ht]
  · simp [ht]

@[simp] theorem execImportClear_memOk (s : State) (sp : Space) (hs : s.mem.wf) : (execImportClear sp s).MemOk := by
  refine Ans.memOk_next_of (State.fqTake_memOk _ _ _ _ (fun ws t ht => ?_) hs)
  split
  · split <;> simp [ht]
  · simp [ht]

@[simp] theorem hostFqDoorbell_memOk (s : State) (sp : Space) (v : Word) (hs : s.mem.wf) :
    (hostFqDoorbell sp v s).MemOk := by
  simp [hostFqDoorbell, hs]

@[simp] theorem hostFcHeadWrite_memOk (s : State) (sp : Space) (v : Word) (hs : s.mem.wf) :
    (hostFcHeadWrite sp v s).MemOk := by
  simp [hostFcHeadWrite, hs]

@[simp] theorem State.giveUp_mem (s : State) (sp : Space) (cond : Unacked → Bool) : (s.giveUp sp cond).mem = s.mem := by
  simp [State.giveUp]

@[simp] theorem State.fenceDone_memOk (s : State) (sp : Space) (c : Code) (hs : s.mem.wf) : (s.fenceDone sp c).mem.wf := by
  unfold State.fenceDone
  split <;> simp [hs]

@[simp] theorem State.opsEnd_memOk (s : State) (sp : Space) (hs : s.mem.wf) : (s.opsEnd sp).mem.wf := by
  exact foldS_memOk hs fun o t ht => by simp [ht]

@[simp] theorem execFenceTimeout_memOk (s : State) (sp : Space) (hs : s.mem.wf) : (execFenceTimeout sp s).MemOk := by
  unfold execFenceTimeout
  extract_lets k f fto us hosts s1
  split
  · simp [hs]
  split
  · simp [hs]
  · refine Ans.memOk_next_of (foldS_memOk (by simp [s1, hs]) fun h t ht => ?_)
    split <;> simp [ht]

@[simp] theorem execWindowRetry_memOk (s : State) (sp : Space) (hs : s.mem.wf) : (execWindowRetry sp s).MemOk := by
  unfold execWindowRetry
  extract_lets k f go s1
  have h1 : s1.mem.wf := by
    refine foldl_memOk hs fun t u ht => ?_
    split <;> simp [ht]
  refine Ans.memOk_next_of (foldl_snd_memOk (l := f.unacked) (a := ([], s1)) h1 fun acc u hacc => ?_)
  split <;> simp [hacc]

@[simp] theorem State.yieldLines_mem (d die n : Nat) (s : State) : (State.yieldLines d die n s).mem = s.mem := by
  induction n generalizing s with
  | zero => rfl
  | succ n ih =>
    unfold State.yieldLines
    dsimp only
    split
    · rfl
    · split <;> simp [ih]

@[simp] theorem State.exactAdd_memOk (s : State) (die : Nat) (sp : Space) (va : Nat) (es : List Word) (hs : s.mem.wf) :
    (s.exactAdd die sp va es).mem.wf := by
  unfold State.exactAdd
  extract_lets +onlyGivenNames k d line key held
  split
  rename_i e t heq
  have ht : t.mem.wf := by
    rw [State.mem_of_pair heq]
    split <;> simp [hs]
  extract_lets +onlyGivenNames at_ elems s1 a
  simp [s1, ht]

@[simp] theorem State.redPlain_memOk (s : State) (sp : Space) (va : Nat) (fp : Bool) (rop : Nat) (es : List Word)
    (hs : s.mem.wf) : (s.redPlain sp va fp rop es).2.mem.wf := by
  unfold State.redPlain
  split <;> simp [State.mem_of_triple ‹_ = (_, _, _)›, hs]

@[simp] theorem State.redAt_memOk (s : State) (die : Nat) (sp : Space) (va : Nat) (fp : Bool) (rop : Nat) (es : List Word)
    (hs : s.mem.wf) : (s.redAt die sp va fp rop es).2.mem.wf := by
  unfold State.redAt
  split
  · exact hs
  split
  · split
    · simp +contextual [hs]
    · split <;> simp +contextual [State.mem_of_triple ‹_ = (_, _, _)›, hs]
  · simp +contextual [hs]

@[simp] theorem State.atomicAt_memOk (s : State) (sp : Space) (va : Nat) (w64 : Bool) (rop : Nat) (a c : DWord)
    (hs : s.mem.wf) : (s.atomicAt sp va w64 rop a c).2.2.mem.wf := by
  unfold State.atomicAt
  extract_lets n
  split <;> simp [State.mem_of_triple ‹_ = (_, _, _)›, hs]

@[simp] theorem State.hotCount_mem (s : State) (die key : Nat) : (s.hotCount die key).mem = s.mem := by
  simp [State.hotCount]

@[simp] theorem execHotLineCool_memOk (s : State) (d : DieId) (key : Nat) (hs : s.mem.wf) :
    (execHotLineCool d key s).MemOk := by
  simp only [execHotLineCool]
  split
  · simp [hs]
  · split <;> simp [hs]

theorem State.windowTake_mem (s : State) (die src stream seq : Nat) {a : Bool} {t : State}
    (h : s.windowTake die src stream seq = some (a, t)) : t.mem = s.mem := by
  simp only [State.windowTake] at h
  split at h
  · split at h <;> cases h
    rfl
  split at h
  · split at h <;> cases h <;> rfl
  split at h <;> cases h <;> rfl

@[simp] theorem State.windowTouch_mem (s : State) (x : Segment) : (s.windowTouch x).mem = s.mem := by
  rfl

@[simp] theorem execDuplicateWindowExpire_memOk (s : State) (d : DieId) (src stream : Fin 65536) (hs : s.mem.wf) :
    (execDuplicateWindowExpire d src stream s).MemOk := by
  simp [execDuplicateWindowExpire, hs]

@[simp] theorem State.hotCounts_mem (s : State) (r : Region) (x : Segment) : (s.hotCounts r x).mem = s.mem := by
  simp [State.hotCounts]

@[simp] theorem State.segDo_memOk (s : State) (r : Region) (x : Segment) (hs : s.mem.wf) : (s.segDo r x).2.2.mem.wf := by
  simp only [State.segDo]
  repeat' split
  all_goals simp [hs]

@[simp] theorem State.segApply_memOk (s : State) (r : Region) (x : Segment) (hs : s.mem.wf) :
    (s.segApply r x).2.2.mem.wf := by
  simp [State.segApply, hs]

@[simp] theorem State.segServe_memOk (s : State) (r : Region) (x : Segment) (apply : State → Code × List Byte × State)
    (happly : ∀ t, t.mem.wf → (apply t).2.2.memOk) (hs : s.mem.wf) : (s.segServe r x apply).2.mem.wf := by
  unfold State.segServe
  split
  · exact hs
  · have h := State.windowTake_mem s _ _ _ _ ‹_›
    simpa using happly _ (State.recLog_memOk _ _ _ _ _ _ (by simp [h, hs]))
  · have h := State.windowTake_mem s _ _ _ _ ‹_›
    split <;> simp [h, hs]

@[simp] theorem State.ackSend_mem (s : State) (src stream : Nat) (a : SegAck) :
    (s.ackSend src stream a).mem = s.mem := by
  unfold State.ackSend
  split <;> simp

@[simp] theorem State.hotEnter_mem (s : State) (die : Nat) (q : Segment × Region) : (s.hotEnter die q).mem = s.mem := by
  simp [State.hotEnter]

@[simp] theorem State.hotAdmit_mem (s : State) (die : Nat) : (s.hotAdmit die).mem = s.mem := by
  simp [State.hotAdmit]

@[simp] theorem State.hotStep_memOk (s : State) (die key : Nat) (hs : s.mem.wf) : (s.hotStep die key).mem.wf := by
  simp only [State.hotStep]
  split
  · exact hs
  split
  · rw [State.unitWait_mem s _ _ _ ‹_›]
    exact hs
  · simp only [State.hotAdmit_mem, State.ackSend_mem]
    split
    · exact State.segServe_memOk _ _ _ _ (fun t ht => by simp [ht]) (by simp [hs])
    · simp [hs]

@[simp] theorem State.hotClock_memOk (s : State) (die : Nat) (hs : s.mem.wf) : (s.hotClock die).mem.wf := by
  simp only [State.hotClock]
  split <;> simp [hs]

@[simp] theorem State.hotTick_memOk (s : State) (hs : s.mem.wf) : s.hotTick.mem.wf := by
  simp +contextual [State.hotTick, hs]

@[simp] theorem State.hotDrain_memOk (die : Nat) (r : Region) (n : Nat) (s : State) (hs : s.mem.wf) :
    (State.hotDrain die r n s).mem.wf := by
  induction n generalizing s with
  | zero => exact hs
  | succ n ih =>
    unfold State.hotDrain
    split
    · split <;> simp [ih, hs]
    · exact hs

@[simp] theorem execRegionClose_memOk (s : State) (sp : Space) (hs : s.mem.wf) : (execRegionClose sp s).MemOk := by
  refine Ans.memOk_next_of (State.fqTake_memOk _ _ _ _ (fun ws t ht => ?_) hs)
  extract_lets +onlyGivenNames r
  split
  · simp [ht]
  split
  · exact ht
  · simp [ht]

@[simp] theorem State.hotDiscard_mem (s : State) (m : Nat) : (s.hotDiscard m).mem = s.mem := by
  simp [State.hotDiscard]

@[simp] theorem State.segHome_memOk (s : State) (x : Segment) (hs : s.mem.wf) : (s.segHome x).mem.wf := by
  unfold State.segHome
  extract_lets +onlyGivenNames u
  have hu : u.mem.wf := by simp [u, hs]
  split
  · extract_lets +onlyGivenNames die
    split
    · rw [State.unitWait_mem u _ _ _ ‹_›]
      exact hu
    extract_lets +onlyGivenNames p
    split
    · simp [State.mem_of_pair ‹_ = (_, _)›, hu]
    · rename_i t heq
      have ht : t.mem.wf := by simp [State.mem_of_pair heq, hu]
      split
      · simp [ht]
      · simp only [State.ackSend_mem]
        exact State.segServe_memOk _ _ _ _ (fun t ht => by simp [ht]) ht
  · simp [hu]

@[simp] theorem State.segArrive_memOk (s : State) (x : Segment) (hs : s.mem.wf) : (s.segArrive x).mem.wf := by
  simp [State.segArrive, hs]

@[simp] theorem execSegmentArrive_memOk (s : State) (x : Segment) (hs : s.mem.wf) : (execSegmentArrive x s).MemOk := by
  simp [execSegmentArrive, hs]

theorem State.ackWait_mem (s : State) (a : SegAck) (u : Unacked) {t : State} (h : s.ackWait a u = some t) :
    t.mem = s.mem := by
  unfold State.ackWait at h
  split at h
  · split at h
    · exact State.unitWait_mem s _ _ _ h
    · cases h
  · cases h

@[simp] theorem State.segAcked_memOk (s : State) (a : SegAck) (hs : s.mem.wf) : (s.segAcked a).mem.wf := by
  unfold State.segAcked
  extract_lets +onlyGivenNames sp k f
  split
  · exact hs
  split
  · rw [State.ackWait_mem s _ _ ‹_›]
    exact hs
  split
  · simp [hs]
  split
  · simp [hs]
  · extract_lets +onlyGivenNames c0 data s1
    have h1 : s1.mem.wf := by simp [s1, hs]
    split
    · simp [h1]
    split
    rename_i c s2 heq
    have h2 : s2.mem.wf := by
      rw [State.mem_of_pair heq]
      split
      · split
        · simp [h1]
        split
        rename_i e t hst
        have ht : t.mem.wf := by simp [State.mem_of_pair hst, h1]
        split
        · extract_lets +onlyGivenNames t1
          have ht1 : t1.mem.wf := State.recLog_memOk _ _ _ _ _ _ ht
          dsimp -zeta only
          split <;> simp [ht1]
        · exact ht
      · exact h1
    simp [h2]

@[simp] theorem execSegmentAck_memOk (s : State) (a : SegAck) (hs : s.mem.wf) : (execSegmentAck a s).MemOk := by
  simp [execSegmentAck, hs]

@[simp] theorem execGatherTimeout_memOk (s : State) (g : LndId) (hs : s.mem.wf) : (execGatherTimeout g s).MemOk := by
  simp [execGatherTimeout, hs]

@[simp] theorem State.bulkLost_mem (s : State) (b : BulkTransfer) : (s.bulkLost b).mem = s.mem := by
  simp [State.bulkLost]

@[simp] theorem State.bulkArrive_memOk (s : State) (g : Nat) (b : BulkTransfer) (hs : s.mem.wf) :
    (s.bulkArrive g b).mem.wf := by
  unfold State.bulkArrive
  split
  · exact hs
  split
  · exact foldS_memOk hs fun x t ht => by simp [ht]
  repeat' split
  all_goals simp [hs]

@[simp] theorem execBulkTransferArrive_memOk (s : State) (g : LndId) (b : BulkTransfer) (hs : s.mem.wf) :
    (execBulkTransferArrive g b s).MemOk := by
  simp [execBulkTransferArrive, hs]

@[simp] theorem State.linkDeliver_memOk (s : State) (p : Nat) (body : LinkPayload) (hs : s.mem.wf) :
    (s.linkDeliver p body).mem.wf := by
  unfold State.linkDeliver
  split <;> simp [hs]

@[simp] theorem execLinkPacketReceive_memOk (s : State) (p : CkxPort) (k : LinkPacket) (hs : s.mem.wf) :
    (execLinkPacketReceive p k s).MemOk := by
  unfold execLinkPacketReceive
  split
  · simp [hs]
  · split <;> simp [hs]

@[simp] theorem State.revokeEnter_mem (s : State) (m before : Nat) : (s.revokeEnter m before).mem = s.mem := by
  simp [State.revokeEnter]

@[simp] theorem execGrantSweepComplete_memOk (s : State) (m : Fin 65536) (hs : s.mem.wf) :
    (execGrantSweepComplete m s).MemOk := by
  unfold execGrantSweepComplete
  extract_lets +onlyGivenNames l gs
  split
  · simp [hs]
  · extract_lets +onlyGivenNames s1 y s2
    refine Ans.memOk_next_of (foldS_memOk hs fun g t ht => ?_)
    split
    · split <;> simp [ht]
    · exact ht

/-! The functions of Machine/Liveness. -/

@[simp] theorem State.lvEvents_mem (s : State) : s.lvEvents.mem = s.mem := by
  simp [State.lvEvents]

@[simp] theorem State.lvToMembers_mem (s : State) (m : LvMsg) : (s.lvToMembers m).mem = s.mem := by
  simp [State.lvToMembers]

@[simp] theorem State.lvToAll_mem (s : State) (m : LvMsg) : (s.lvToAll m).mem = s.mem := by
  simp [State.lvToAll]

@[simp] theorem State.sendBeat_mem (s : State) (j : Nat) (h : Heartbeat) : (s.sendBeat j h).mem = s.mem := by
  unfold State.sendBeat
  split <;> simp

@[simp] theorem State.mirDone_mem (s : State) (c : Code) : (s.mirDone c).mem = s.mem := by
  rfl

@[simp] theorem State.mirClear_mem (s : State) (c : Nat) : (s.mirClear c).mem = s.mem := by
  simp [State.mirClear]

@[simp] theorem hostArm_memOk (s : State) (v : Word) (hs : s.mem.wf) : (hostArm v s).MemOk := by
  simp only [hostArm]
  repeat' split
  all_goals simp [hs]

@[simp] theorem hostDisarm_memOk (s : State) (v : Word) (hs : s.mem.wf) : (hostDisarm v s).MemOk := by
  simp [hostDisarm, hs]

@[simp] theorem hostMirrorRead_memOk (s : State) (v : Word) (hs : s.mem.wf) : (hostMirrorRead v s).MemOk := by
  unfold hostMirrorRead
  extract_lets +onlyGivenNames c
  split
  · simp [hs]
  · exact Ans.memOk_next_of (foldN_memOk hs fun _ _ ht => ht)

@[simp] theorem State.mirFail_mem (s : State) (c : Nat) : (s.mirFail c).mem = s.mem := by
  simp [State.mirFail]

@[simp] theorem execMirrorOpenRequest_memOk (s : State) (c : CellId) (answer : Option Bool) (hs : s.mem.wf) :
    (execMirrorOpenRequest c answer s).MemOk := by
  simp only [execMirrorOpenRequest]
  split
  · simp [hs]
  · split <;> simp [hs]

@[simp] theorem execMirrorOpenReceive_memOk (s : State) (src : Fin 65536) (pcell c : CellId) (desc : List Word)
    (rdigest ldigest : List Byte) (hs : s.mem.wf) : (execMirrorOpenReceive src pcell c desc rdigest ldigest s).MemOk := by
  simp [execMirrorOpenReceive, hs]

@[simp] theorem State.mirrorMsg_mem (s : State) (c : Nat) (d ws : List Word) : (s.mirrorMsg c d ws).mem = s.mem := by
  simp only [State.mirrorMsg]
  split <;> simp

@[simp] theorem execMirror_memOk (s : State) (c : CellId) (item : MirrorItem) (hs : s.mem.wf) :
    (execMirror c item s).MemOk := by
  unfold execMirror
  split <;> simp [hs]

@[simp] theorem State.takeCell_memOk (s : State) (c : Nat) (hs : s.mem.wf) : (s.takeCell c).mem.wf := by
  simp [State.takeCell, hs]

@[simp] theorem State.mirrorVerdict_memOk (s : State) (x : Nat) (hs : s.mem.wf) : (s.mirrorVerdict x).mem.wf := by
  refine foldS_memOk hs fun p t ht => ?_
  split <;> simp [ht]

@[simp] theorem State.peerSnag_memOk (s : State) (x before : Nat) (hs : s.mem.wf) : (s.peerSnag x before).mem.wf := by
  unfold State.peerSnag
  extract_lets again s0 m s1 fresh holders m2 s2 lost s3
  have h2 : s2.mem.wf := by simp [s2, s1, s0, hs]
  have h3 : s3.mem.wf := by
    refine foldS_memOk h2 fun k t ht => ?_
    split <;> simp [ht]
  refine foldS_memOk h3 fun h t ht => ?_
  split <;> simp [ht]

@[simp] theorem State.logVerdict_memOk (s : State) (x : Nat) (hs : s.mem.wf) : (s.logVerdict x).mem.wf := by
  simp [State.logVerdict, hs]

@[simp] theorem State.adopt_memOk (s : State) (x : Nat) (hs : s.mem.wf) : (s.adopt x).mem.wf := by
  unfold State.adopt
  extract_lets before l s1 s2 tell s3
  have htell (t : State) (ht : t.mem.wf) : (tell t).mem.wf := foldS_memOk ht fun j u hu => by simp [hu]
  have h2 : s2.mem.wf := by simp [s2, s1, hs]
  have h3 : s3.mem.wf := by
    simp only [s3]
    split
    · refine foldS_memOk (htell s2 h2) fun st t ht => ?_
      split <;> simp [ht]
    · exact h2
  simp [h3]

@[simp] theorem State.verdicts_memOk (n : Nat) (s : State) (hs : s.mem.wf) : (State.verdicts n s).mem.wf := by
  induction n generalizing s with
  | zero => exact hs
  | succ n ih =>
    unfold State.verdicts
    split
    · exact hs
    · split <;> simp [ih, hs]

@[simp] theorem State.fenceQueue_memOk (sp : Space) (n : Nat) (s : State) (hs : s.mem.wf) :
    (State.fenceQueue sp n s).mem.wf := by
  induction n generalizing s with
  | zero => exact hs
  | succ n ih =>
    unfold State.fenceQueue
    split
    · exact hs
    · have h := State.fqEntry_mem s sp ‹_›
      simp [ih, h, hs]

@[simp] theorem State.fenceStream_memOk (s : State) (sp : Space) (hs : s.mem.wf) : (s.fenceStream sp).mem.wf := by
  exact State.fenceQueue_memOk _ _ _ (foldS_memOk hs fun o t ht => by simp [ht])

@[simp] theorem State.fenceCell_memOk (s : State) (c : Nat) (hs : s.mem.wf) : (s.fenceCell c).mem.wf := by
  simp only [State.fenceCell]
  split <;> simp [hs]

@[simp] theorem State.selfFence_memOk (s : State) (cause : Nat) (hs : s.mem.wf) : (s.selfFence cause).mem.wf := by
  unfold State.selfFence
  split
  · exact hs
  extract_lets s0 lv s1 bist s1' s2 fabric s3 s4 s5 s6
  have h0 : s0.mem.wf := by simp [s0, hs]
  have h1 : s1'.mem.wf := by simp [s1', s1, h0]
  clear_value s1'
  have h2 : s2.mem.wf := foldS_memOk h1 fun k t ht => by simp [ht]
  have h4 : s4.mem.wf := foldS_memOk (a := s3) h2 fun c t ht => by simp [ht]
  have h5 : s5.mem.wf := foldS_memOk h4 fun k t ht => by simp [ht]
  simp only [State.lvEvents_mem]
  exact foldS_memOk (a := s6) h5 fun p t ht => by simp [ht]

@[simp] theorem State.moduleFault_memOk (s : State) (hs : s.mem.wf) : s.moduleFault.mem.wf := by
  simp [State.moduleFault, hs]

@[simp] theorem execModuleFault_memOk (s : State) (hs : s.mem.wf) : (execModuleFault s).MemOk := by
  unfold execModuleFault
  split <;> simp [hs]

@[simp] theorem hostLeave_memOk (s : State) (hs : s.mem.wf) : (hostLeave s).MemOk := by
  simp [hostLeave, hs]

@[simp] theorem execQuorumLoss_memOk (s : State) (hs : s.mem.wf) : (execQuorumLoss s).MemOk := by
  simp [execQuorumLoss, hs]

@[simp] theorem execHeartbeat_memOk (s : State) (h : Heartbeat) (hs : s.mem.wf) : (execHeartbeat h s).MemOk := by
  simp [execHeartbeat, hs]

@[simp] theorem execPeerAbsent_memOk (s : State) (x : Fin 256) (hs : s.mem.wf) : (execPeerAbsent x s).MemOk := by
  simp [execPeerAbsent, hs]

@[simp] theorem execAccuse_memOk (s : State) (x from_ : Fin 256) (epoch : Word) (hs : s.mem.wf) :
    (execAccuse x from_ epoch s).MemOk := by
  simp [execAccuse, hs]

@[simp] theorem execClear_memOk (s : State) (x from_ : Fin 256) (epoch : Word) (hs : s.mem.wf) :
    (execClear x from_ epoch s).MemOk := by
  simp [execClear, hs]

@[simp] theorem execVerdict_memOk (s : State) (x from_ : Fin 256) (epoch : Word) (hs : s.mem.wf) :
    (execVerdict x from_ epoch s).MemOk := by
  simp [execVerdict, hs]

@[simp] theorem execVerdictForward_memOk (s : State) (x : Forward) (hs : s.mem.wf) : (execVerdictForward x s).MemOk := by
  simp [execVerdictForward, hs]

@[simp] theorem hostFound_memOk (s : State) (hs : s.mem.wf) : (hostFound s).MemOk := by
  simp [hostFound, hs]

@[simp] theorem hostJoin_memOk (s : State) (hs : s.mem.wf) : (hostJoin s).MemOk := by
  simp [hostJoin, hs]

@[simp] theorem execJoinMessage_memOk (s : State) (x : Fin 256) (shadow bistOk : Bool) (hs : s.mem.wf) :
    (execJoinMessage x shadow bistOk s).MemOk := by
  simp [execJoinMessage, hs]

@[simp] theorem execAdmitMessage_memOk (s : State) (a : AdmitMsg) (hs : s.mem.wf) : (execAdmitMessage a s).MemOk := by
  simp [execAdmitMessage, hs]

@[simp] theorem State.readmitted_memOk (s : State) (m : Nat) (hs : s.mem.wf) : (s.readmitted m).mem.wf := by
  exact foldS_memOk hs fun p t ht => by simp [ht]

@[simp] theorem State.seesEnter_mem (s : State) (j : Nat) : (s.seesEnter j).mem = s.mem := by
  rfl

@[simp] theorem State.peerEnter_memOk (s : State) (j : Nat) (hs : s.mem.wf) : (s.peerEnter j).mem.wf := by
  simp [State.peerEnter, hs]

@[simp] theorem State.selfEnter_memOk (s : State) (hs : s.mem.wf) : s.selfEnter.mem.wf := by
  simp [State.selfEnter, hs]

@[simp] theorem execMemberEntry_memOk (s : State) (hs : s.mem.wf) : (execMemberEntry s).MemOk := by
  simp only [execMemberEntry]
  repeat' split
  all_goals simp +contextual [hs]

@[simp] theorem execJoinTimeout_memOk (s : State) (hs : s.mem.wf) : (execJoinTimeout s).MemOk := by
  simp [execJoinTimeout, hs]

@[simp] theorem execLivenessRound_memOk (s : State) (hs : s.mem.wf) : (execLivenessRound s).MemOk := by
  simp only [execLivenessRound]
  split
  · simp [hs]
  · split <;> simp [hs]

@[simp] theorem State.ecLoad_mem (sp : Space) (n : Nat) (l : List (Nat × Nat)) (s : State) :
    (State.ecLoad sp n l s).2.2.mem = s.mem := by
  induction l generalizing s with
  | nil => rfl
  | cons p l ih =>
    unfold State.ecLoad
    split <;> simp [ih, State.mem_of_triple ‹_ = (_, _, _)›]

theorem State.ecWait_mem (s : State) (i : Nat) (ws : List Word) {t : State} (h : s.ecWait i ws = some t) :
    t.mem = s.mem := by
  simp only [State.ecWait] at h
  split at h
  · cases h
  split at h
  · cases h
    exact State.unitWait_mem s _ _ _ ‹_›
  · exact State.unitWait_mem s _ _ _ h

@[simp] theorem State.ecRun_memOk (s : State) (i : Nat) (ws : List Word) (hs : s.mem.wf) : (s.ecRun i ws).2.mem.wf := by
  unfold State.ecRun
  extract_lets +onlyGivenNames sp
  split
  · exact hs
  extract_lets +onlyGivenNames k n enc
  split
  · rename_i bs s1 heq
    have h1 : s1.mem.wf := by simp [State.mem_of_triple heq, hs]
    extract_lets +onlyGivenNames es vas pres num reads writes shut code
    split
    · exact h1
    split
    rename_i c ds s2 heq2
    have h2 : s2.mem.wf := by simp [State.mem_of_triple heq2, h1]
    split
    · exact h2
    · exact foldS_memOk h2 fun p t ht => by simp [ht]
  · simp [State.mem_of_triple ‹_ = (_, _, _)›, hs]

@[simp] theorem State.ecStart_mem (s : State) (i : Nat) (v : Word) (op : Nat) : (s.ecStart i v op).mem = s.mem := by
  simp [State.ecStart]

@[simp] theorem hostEncode_memOk (s : State) (i : InstId) (v : Word) (hs : s.mem.wf) : (hostEncode i v s).MemOk := by
  simp [hostEncode, hs]

@[simp] theorem hostRebuild_memOk (s : State) (i : InstId) (v : Word) (hs : s.mem.wf) : (hostRebuild i v s).MemOk := by
  simp [hostRebuild, hs]

@[simp] theorem execEcDone_memOk (s : State) (i : InstId) (hs : s.mem.wf) : (execEcDone i s).MemOk := by
  unfold execEcDone
  extract_lets x
  split
  · simp [hs]
  split
  · simp [State.ecWait_mem s _ _ ‹_›, hs]
  · simp [hs]

/-! The functions of Machine/Moves. -/

@[simp] theorem State.cqAny_memOk (s : State) (i : Nat) (hs : s.mem.wf) : (s.cqAny i).mem.wf := by
  refine State.cqRow_memOk _ _ _ _ (fun ws t ht => ?_) hs
  split <;> simp [ht]

/-- Every row of a fabric queue's table keeps memory in canonical form. -/
theorem fqRows_memOk : ∀ r ∈ fqRows, ∀ (sp : Space) (s : State), s.mem.wf → (r.2 sp s).MemOk := by
  simp +contextual [fqRows]

@[simp] theorem State.fqAny_memOk (s : State) (sp : Space) (hs : s.mem.wf) : (s.fqAny sp).mem.wf := by
  unfold State.fqAny
  split
  · simp [hs]
  split
  · exact hs
  split
  · rename_i r hr
    exact Ans.state_memOk _ _ (fqRows_memOk r (List.mem_of_find?_eq_some hr) sp s hs)
  · simp [hs]

@[simp] theorem State.resumeUnit_memOk (s : State) (w : WaitUnit) (hs : s.mem.wf) : (s.resumeUnit w).mem.wf := by
  unfold State.resumeUnit
  repeat' split
  all_goals simp [hs]

@[simp] theorem State.resumeUnits_memOk (s : State) (hs : s.mem.wf) : s.resumeUnits.mem.wf := by
  unfold State.resumeUnits
  simp +contextual [hs]

@[simp] theorem execMoveSwitch_memOk (s : State) (page : Nat) (hs : s.mem.wf) : (execMoveSwitch page s).MemOk := by
  unfold execMoveSwitch
  split
  · simp [hs]
  · split <;> simp [hs]

@[simp] theorem execMoveAbort_memOk (s : State) (page : Nat) (hs : s.mem.wf) : (execMoveAbort page s).MemOk := by
  unfold execMoveAbort
  split
  · simp [hs]
  · split <;> simp [hs]

@[simp] theorem State.portServe_memOk (s : State) (q : PortReq) (hs : s.mem.wf) : (s.portServe q).mem.wf := by
  unfold State.portServe
  split <;> simp [hs]

@[simp] theorem State.portRetry_memOk (who n : Nat) (s : State) (hs : s.mem.wf) : (State.portRetry who n s).mem.wf := by
  induction n generalizing s with
  | zero => exact hs
  | succ n ih =>
    unfold State.portRetry
    split
    · exact hs
    · simp [ih, hs]

@[simp] theorem State.heldTick_memOk (s : State) (hs : s.mem.wf) : s.heldTick.mem.wf := by
  simp +contextual [State.heldTick, hs]

/-! The functions of Machine/Time. -/

@[simp] theorem State.updPulse_mem (s : State) (p : Nat) (f : Pulse → Pulse) : (s.updPulse p f).mem = s.mem := by
  rfl

@[simp] theorem State.updCasc_mem (s : State) (q : Nat) (f : Casc → Casc) : (s.updCasc q f).mem = s.mem := by
  rfl

@[simp] theorem State.cascDown_mem (s : State) (m : CascMsg) : (s.cascDown m).mem = s.mem := foldS_mem _ _ _ fun _ _ => rfl

@[simp] theorem State.pulseOut_mem (s : State) (p : Nat) (high : Bool) : (s.pulseOut p high).mem = s.mem := by
  rfl

@[simp] theorem State.pulseStop_mem (s : State) (p : Nat) : (s.pulseStop p).mem = s.mem := by
  simp [State.pulseStop]

@[simp] theorem State.pulseGive_mem (s : State) (p j : Nat) : (s.pulseGive p j).mem = s.mem := by
  simp [State.pulseGive]

@[simp] theorem State.pulseSkip_mem (s : State) (p : Nat) : (s.pulseSkip p).mem = s.mem := by
  simp [State.pulseSkip]

@[simp] theorem State.pulseJump_mem (s : State) (p : Nat) : (s.pulseJump p).mem = s.mem := by
  simp [State.pulseJump]

@[simp] theorem State.timeStep_mem (s : State) (d : ℤ) : (s.timeStep d).mem = s.mem := by
  simp [State.timeStep]

@[simp] theorem State.announceDue_memOk (s : State) (hs : s.mem.wf) : s.announceDue.mem.wf := by
  simp [State.announceDue, hs]

@[simp] theorem State.timeEdge_memOk (s : State) (hs : s.mem.wf) : s.timeEdge.mem.wf := by
  simp only [State.timeEdge]
  split <;> simp [hs]

@[simp] theorem execTimeSettingApply_memOk (s : State) (hs : s.mem.wf) : (execTimeSettingApply s).MemOk := by
  simp [execTimeSettingApply, hs]

@[simp] theorem State.timeCommit_memOk (s : State) (hs : s.mem.wf) : s.timeCommit.mem.wf := by
  simp [State.timeCommit, hs]

@[simp] theorem hostSnap_memOk (s : State) (hs : s.mem.wf) : (hostSnap s).MemOk := by
  simp [hostSnap, hs]

@[simp] theorem State.pllHold_mem (s : State) : s.pllHold.mem = s.mem := by
  simp [State.pllHold]

@[simp] theorem execReferenceLost_memOk (s : State) (hs : s.mem.wf) : (execReferenceLost s).MemOk := by
  simp [execReferenceLost, hs]

@[simp] theorem execReferenceGood_memOk (s : State) (hs : s.mem.wf) : (execReferenceGood s).MemOk := by
  simp [execReferenceGood, hs]

@[simp] theorem State.timeCfg_mem (s : State) (v : Word) : (s.timeCfg v).mem = s.mem := by
  simp [State.timeCfg]

@[simp] theorem State.tsqEvent_mem (s : State) (p : Nat) : (s.tsqEvent p).mem = s.mem := by
  simp [State.tsqEvent]

@[simp] theorem State.tsqWord_memOk (s : State) (p : Nat) (ws : List Word) (hs : s.mem.wf) : (s.tsqWord p ws).mem.wf := by
  simp [State.tsqWord, hs]

@[simp] theorem State.tsqPut_memOk (s : State) (p sub txid ns frac : Nat) (c : Code) (hs : s.mem.wf) :
    (s.tsqPut p sub txid ns frac c).mem.wf := by
  simp [State.tsqPut, hs]

@[simp] theorem execEthernetStamp_memOk (s : State) (p : EthPort) (ns : DWord) (frac : Fin 16) (hs : s.mem.wf) :
    (execEthernetStamp p ns frac s).MemOk := by
  simp only [execEthernetStamp]
  split <;> simp [hs]

@[simp] theorem hostTsqHeadWrite_memOk (s : State) (p : EthPort) (v : Word) (hs : s.mem.wf) :
    (hostTsqHeadWrite p v s).MemOk := by
  simp [hostTsqHeadWrite, hs]

@[simp] theorem State.ppsTake_memOk (s : State) (ns frac : Nat) (hs : s.mem.wf) : (s.ppsTake ns frac).mem.wf := by
  simp [State.ppsTake, hs]

@[simp] theorem execPpsEdge_memOk (s : State) (hs : s.mem.wf) : (execPpsEdge s).MemOk := by
  simp [execPpsEdge, hs]

@[simp] theorem State.pulseStart_mem (s : State) (p start : Nat) (fired : Bool) :
    (s.pulseStart p start fired).mem = s.mem := by
  simp [State.pulseStart]

@[simp] theorem hostPulseEnable_memOk (s : State) (p : PulseId) (v : Word) (hs : s.mem.wf) :
    (hostPulseEnable p v s).MemOk := by
  simp [hostPulseEnable, hs]

@[simp] theorem execPulseEdge_memOk (s : State) (p : PulseId) (hs : s.mem.wf) : (execPulseEdge p s).MemOk := by
  simp [execPulseEdge, hs]

@[simp] theorem State.barDone_mem (s : State) (c : Code) (fire : Option Nat) : (s.barDone c fire).mem = s.mem := by
  unfold State.barDone
  split <;> simp

@[simp] theorem State.barCheck_mem (s : State) : s.barCheck.mem = s.mem := by
  simp [State.barCheck]

@[simp] theorem hostBarArm_memOk (s : State) (hs : s.mem.wf) : (hostBarArm s).MemOk := by
  simp [hostBarArm, hs]

@[simp] theorem execReady_memOk (s : State) (q : CascId) (hs : s.mem.wf) : (execReady q s).MemOk := by
  simp [execReady, hs]

@[simp] theorem execFire_memOk (s : State) (at_ : DWord) (hs : s.mem.wf) : (execFire at_ s).MemOk := by
  simp [execFire, hs]

@[simp] theorem execBarrierFire_memOk (s : State) (hs : s.mem.wf) : (execBarrierFire s).MemOk := by
  unfold execBarrierFire
  split <;> simp [hs]

@[simp] theorem execBarrierTimeout_memOk (s : State) (hs : s.mem.wf) : (execBarrierTimeout s).MemOk := by
  simp [execBarrierTimeout, hs]

@[simp] theorem execAbort_memOk (s : State) (hs : s.mem.wf) : (execAbort s).MemOk := by
  simp [execAbort, hs]

@[simp] theorem State.countMembers_mem (s : State) : s.countMembers.mem = s.mem := by
  simp [State.countMembers]

@[simp] theorem State.cascLost_mem (s : State) (q state : Nat) : (s.cascLost q state).mem = s.mem := by
  simp [State.cascLost]

@[simp] theorem execCascadeDelayMeasure_memOk (s : State) (q : CascId) (dly : Fin 65536) (conflict : Bool)
    (up : Option (Nat × Nat × Nat)) (below : Fin 32) (hs : s.mem.wf) :
    (execCascadeDelayMeasure q dly conflict up below s).MemOk := by
  unfold execCascadeDelayMeasure
  split
  · simp [hs]
  split
  · simp [hs]
  · split <;> simp [hs]

@[simp] theorem execCascadeLinkLost_memOk (s : State) (q : CascId) (hs : s.mem.wf) : (execCascadeLinkLost q s).MemOk := by
  simp [execCascadeLinkLost, hs]

@[simp] theorem execCascadeLinkReturn_memOk (s : State) (q : CascId) (off : ℤ) (hs : s.mem.wf) :
    (execCascadeLinkReturn q off s).MemOk := by
  simp [execCascadeLinkReturn, hs]

@[simp] theorem execCascadeSlewComplete_memOk (s : State) (hs : s.mem.wf) : (execCascadeSlewComplete s).MemOk := by
  simp [execCascadeSlewComplete, hs]

@[simp] theorem execStepAnnounce_memOk (s : State) (at_ : DWord) (step : ℤ) (foff : Nat) (hs : s.mem.wf) :
    (execStepAnnounce at_ step foff s).MemOk := by
  simp [execStepAnnounce, hs]

@[simp] theorem hostClose_memOk (s : State) (k : ChkId) (hs : s.mem.wf) : (hostClose k s).MemOk := by
  simp [hostClose, hs]

@[simp] theorem hostChkRestart_memOk (s : State) (k : ChkId) (hs : s.mem.wf) : (hostChkRestart k s).MemOk := by
  simp [hostChkRestart, hs]

@[simp] theorem State.chkCfg_mem (s : State) (k : Nat) (v : Word) : (s.chkCfg k v).mem = s.mem := by
  simp [State.chkCfg]

/-! The functions of Machine/Ports. -/

@[simp] theorem State.updCxl_mem (s : State) (f : CxlSt → CxlSt) : (s.updCxl f).mem = s.mem := by
  rfl

@[simp] theorem State.windowWrite_memOk (s : State) (sp : Space) (va : Nat) (bs : List Byte) (hs : s.mem.wf) :
    (s.windowWrite sp va bs).mem.wf := by
  simp [State.windowWrite, hs]

@[simp] theorem hostWindowAccess_memOk (s : State) (addr : Fin 274877906944) (op : AccessOp) (hs : s.mem.wf) :
    (hostWindowAccess addr op s).MemOk := by
  simp only [hostWindowAccess]
  split
  · simp [hs]
  · split <;> simp [hs]

@[simp] theorem execAtsInvalidation_memOk (s : State) (pasid : BitVec 20) (first pages : Nat) (refused : Bool)
    (hs : s.mem.wf) : (execAtsInvalidation pasid first pages refused s).MemOk := by
  simp [execAtsInvalidation, hs]

@[simp] theorem execIdeIntegrityFail_memOk (s : State) (stream : Fin 5) (hs : s.mem.wf) :
    (execIdeIntegrityFail stream s).MemOk := by
  simp [execIdeIntegrityFail, hs]

@[simp] theorem execTspLock_memOk (s : State) (i : InstId) (hs : s.mem.wf) : (execTspLock i s).MemOk := by
  simp [execTspLock, hs]

@[simp] theorem execTspUnlock_memOk (s : State) (i : InstId) (hs : s.mem.wf) : (execTspUnlock i s).MemOk := by
  simp [execTspUnlock, hs]

@[simp] theorem execCxlLinkUp_memOk (s : State) (width rate : Nat) (flit256 : Bool) (hs : s.mem.wf) :
    (execCxlLinkUp width rate flit256 s).MemOk := by
  simp [execCxlLinkUp, hs]

@[simp] theorem State.landMessage_memOk (s : State) (mine : Bool) (ws : List Word) (hs : s.mem.wf) :
    (s.landMessage mine ws).mem.wf := by
  simp [State.landMessage, hs]

@[simp] theorem State.l2qEntry_memOk (s : State) (q n : Nat) (hs : s.mem.wf) : (s.l2qEntry q n).mem.wf := by
  suffices (s.l2qEntry q n).memOk from this
  -- By `delta`, since the kernel must not compare the two sides of the equation by evaluation.
  generalize hf : @State.l2qEntry = F
  delta State.l2qEntry at hf
  subst hf
  beta_reduce
  extract_lets o s0
  have h0 : s0.mem.wf := by simp [s0, hs]
  clear_value o s0
  generalize h1 : s0.loadDev _ _ _ = r1
  obtain ⟨c1, e, t⟩ := r1
  have ht : t.mem.wf := by simp [State.mem_of_triple h1, h0]
  dsimp -zeta only
  extract_lets ws len x s3 y m cell
  have h3 : s3.mem.wf := by
    simp only [s3, State.setL2q_mem, x]
    split <;> simp [ht]
  clear_value len s3
  simp [h3]

@[simp] theorem hostL2qInboundTailWrite_memOk (s : State) (q : Fin 8) (v : Word) (hs : s.mem.wf) :
    (hostL2qInboundTailWrite q v s).MemOk := by
  simp only [hostL2qInboundTailWrite]
  split
  · simp [hs]
  · refine Ans.memOk_next_of ?_
    split
    · exact foldN_memOk (by simp [hs]) fun i t ht => by simp [ht]
    · exact hs

@[simp] theorem hostL2qDheadWrite_memOk (s : State) (q : Fin 8) (v : Word) (hs : s.mem.wf) :
    (hostL2qDheadWrite q v s).MemOk := by
  simp [hostL2qDheadWrite, hs]

@[simp] theorem State.policeFrame_mem (s : State) (p : Nat) (f : EthFrame) : (s.policeFrame p f).2.mem = s.mem := by
  unfold State.policeFrame
  split <;> simp

@[simp] theorem State.landReasm_memOk (s : State) (r : Reasm) (hs : s.mem.wf) : (s.landReasm r).mem.wf := by
  simp [State.landReasm, hs]

@[simp] theorem State.datagram_memOk (s : State) (p srcIp : Nat) (ipFragment : Bool) (ver cell : Nat) (msgid : Word)
    (offset total : Nat) (bs : List Byte) (hs : s.mem.wf) :
    (s.datagram p srcIp ipFragment ver cell msgid offset total bs).mem.wf := by
  simp [State.datagram, hs]

@[simp] theorem execPayloadDatagram_memOk (s : State) (p : EthPort) (srcIp : Nat) (ipFragment : Bool) (ver : Nat)
    (cell : CellId)
    (msgid : Word) (offset total : Nat) (bytes : List Byte) (hs : s.mem.wf) :
    (execPayloadDatagram p srcIp ipFragment ver cell msgid offset total bytes s).MemOk := by
  simp [execPayloadDatagram, hs]

@[simp] theorem State.reasmOut_memOk (s : State) (p : Nat) (r : Reasm) (hs : s.mem.wf) : (s.reasmOut p r).mem.wf := by
  simp [State.reasmOut, hs]

@[simp] theorem execReassemblyTimeout_memOk (s : State) (p : EthPort) (hs : s.mem.wf) :
    (execReassemblyTimeout p s).MemOk := by
  simp +contextual [execReassemblyTimeout, hs]

@[simp] theorem State.mgmtReceive_memOk (s : State) (p : Nat) (f : EthFrame) (bs : List Byte) (hs : s.mem.wf) :
    (s.mgmtReceive p f bs).mem.wf := by
  suffices (s.mgmtReceive p f bs).memOk from this
  -- By `delta`, since the kernel must not compare the two sides of the equation by evaluation.
  generalize hf : @State.mgmtReceive = F
  delta State.mgmtReceive at hf
  subst hf
  beta_reduce
  extract_lets g n a
  clear_value g n a
  split
  · simp [hs]
  generalize h1 : s.loadDev _ _ _ = r1
  obtain ⟨c1, e, t⟩ := r1
  have ht : t.memOk := by simp [State.mem_of_triple h1, hs]
  dsimp -zeta only
  extract_lets ws s2 s3 s4
  have h3 : s3.memOk := .putHost (.putHost ht _ _) _ _
  have h4 : s4.memOk := by
    simp only [s4]
    split
    · exact State.recLog_memOk _ _ _ _ _ _ h3
    · exact h3
  exact h4

@[simp] theorem State.seqCheck_mem (s : State) (p eaxc seqId : Nat) : (s.seqCheck p eaxc seqId).mem = s.mem := by
  simp only [State.seqCheck]
  split
  · simp
  · split <;> simp

@[simp] theorem State.delayResponse_mem (s : State) (p : Nat) (f : EthFrame) (id : Nat) :
    (s.delayResponse p f id).mem = s.mem := by
  simp [State.delayResponse]

@[simp] theorem State.deliverFrame_memOk (s : State) (p : Nat) (f : EthFrame) (hs : s.mem.wf) :
    (s.deliverFrame p f).mem.wf := by
  unfold State.deliverFrame
  split
  · split
    · simp [hs]
    · refine foldS_memOk (by simp [hs]) fun x t ht => ?_
      split <;> simp [ht]
  · split
    · simp [hs]
    · simp only
      split <;> simp [hs]
  all_goals simp [hs]

@[simp] theorem execEthFrameReceive_memOk (s : State) (p : EthPort) (f : EthFrame) (hs : s.mem.wf) :
    (execEthFrameReceive p f s).MemOk := by
  unfold execEthFrameReceive
  split
  · simp [hs]
  split
  · rename_i s1 heq
    have h1 : s1.mem.wf := by
      rw [State.mem_of_pair heq]
      split
      · split <;> simp [hs]
      · exact hs
    simp [h1]
  · rename_i s1 heq
    have h1 : s1.mem.wf := by
      rw [State.mem_of_pair heq]
      split
      · split <;> simp [hs]
      · exact hs
    extract_lets +onlyGivenNames s2
    have h2 : s2.mem.wf := by simp [s2, h1]
    split
    · exact Ans.memOk_next_of h2
    split
    rename_i pass s3 heq3
    have h3 : s3.mem.wf := by simp [State.mem_of_pair heq3, h2]
    split
    · simp [h3]
    split <;> simp [h3]

@[simp] theorem State.mtxEntry_memOk (s : State) (p n : Nat) (hs : s.mem.wf) : (s.mtxEntry p n).mem.wf := by
  suffices (s.mtxEntry p n).memOk from this
  -- By `delta`, since the kernel must not compare the two sides of the equation by evaluation.
  generalize hf : @State.mtxEntry = f
  delta State.mtxEntry at hf
  subst hf
  beta_reduce
  extract_lets g
  clear_value g
  generalize h1 : s.loadDev _ _ _ = r1
  obtain ⟨c1, e, t⟩ := r1
  have ht : t.mem.wf := by simp [State.mem_of_triple h1, hs]
  dsimp -zeta only
  extract_lets ws len sub ts txid s3
  have h3 : s3.mem.wf := by simp [s3, ht]
  clear_value len s3
  split
  · simp [h3]
  · split <;> simp [h3]

@[simp] theorem hostManagementTxTailWrite_memOk (s : State) (p : EthPort) (v : Word) (hs : s.mem.wf) :
    (hostManagementTxTailWrite p v s).MemOk := by
  simp only [hostManagementTxTailWrite]
  split
  · simp [hs]
  · refine Ans.memOk_next_of ?_
    split
    · exact foldN_memOk (by simp [hs]) fun i t ht => by simp [ht]
    · exact hs

@[simp] theorem State.sendFrame_mem (s : State) (p : Nat) (f : EgressFrame) : (s.sendFrame p f).mem = s.mem := by
  simp only [State.sendFrame]
  split <;> simp

@[simp] theorem execWheelBucketDue_memOk (s : State) (p : EthPort) (sub : Fin 8) (hs : s.mem.wf) :
    (execWheelBucketDue p sub s).MemOk := by
  simp [execWheelBucketDue, hs]

@[simp] theorem State.subDown_memOk (s : State) (p sub : Nat) (hs : s.mem.wf) : (s.subDown p sub).mem.wf := by
  simp +contextual [State.subDown, hs]

@[simp] theorem execEthernetLinkDown_memOk (s : State) (p : EthPort) (sub : Fin 8) (hs : s.mem.wf) :
    (execEthernetLinkDown p sub s).MemOk := by
  simp [execEthernetLinkDown, hs]

@[simp] theorem execEthernetLinkUp_memOk (s : State) (p : EthPort) (sub : Fin 8) (hs : s.mem.wf) :
    (execEthernetLinkUp p sub s).MemOk := by
  simp [execEthernetLinkUp, hs]

@[simp] theorem execI3cCcc_memOk (s : State) (c : I3cCcc) (arg : Nat) (hs : s.mem.wf) : (execI3cCcc c arg s).MemOk := by
  unfold execI3cCcc
  split <;> simp [hs]

@[simp] theorem execI3cPrivateWrite_memOk (s : State) (bytes : List Byte) (hs : s.mem.wf) :
    (execI3cPrivateWrite bytes s).MemOk := by
  unfold execI3cPrivateWrite
  split <;> simp [hs]

@[simp] theorem execI3cPrivateRead_memOk (s : State) (n : Nat) (hs : s.mem.wf) : (execI3cPrivateRead n s).MemOk := by
  simp only [execI3cPrivateRead]
  split <;> simp [hs]

@[simp] theorem execTelemetrySnapshot_memOk (s : State) (r : Readings) (hs : s.mem.wf) :
    (execTelemetrySnapshot r s).MemOk := by
  simp [execTelemetrySnapshot, hs]

/-! The functions of Machine/Trust. -/

@[simp] theorem State.updSeed_mem (s : State) (f : SeedSt → SeedSt) : (s.updSeed f).mem = s.mem := by
  rfl

@[simp] theorem State.place'_memOk (s : State) (bs : List Byte) (st : List Word) (h : Nat) (hs : s.mem.wf) :
    (s.place_ bs st h).mem.wf := by
  simp +contextual [State.place_, hs]

@[simp] theorem State.bindNow_memOk (s : State) (addr len : Nat) (st : List Word) (hs : s.mem.wf) :
    (s.bindNow addr len st).mem.wf := by
  simp only [State.bindNow]
  split <;> simp [hs]

@[simp] theorem hostBind_memOk (s : State) (v : Word) (hs : s.mem.wf) : (hostBind v s).MemOk := by
  simp [hostBind, hs]

@[simp] theorem execBindComplete_memOk (s : State) (hs : s.mem.wf) : (execBindComplete s).MemOk := by
  unfold execBindComplete
  split <;> simp [hs]

@[simp] theorem hostUnbind_memOk (s : State) (v : Word) (hs : s.mem.wf) : (hostUnbind v s).MemOk := by
  simp [hostUnbind, hs]

@[simp] theorem hostPackageRead_memOk (s : State) (v : Word) (hs : s.mem.wf) : (hostPackageRead v s).MemOk := by
  unfold hostPackageRead
  split
  · simp [hs]
  split
  · simp [hs]
  · split <;> simp [hs]

@[simp] theorem State.anchorCmd_mem (s : State) (v : Word) (op : Nat) : (s.anchorCmd v op).mem = s.mem := by
  suffices s.SameMem (s.anchorCmd v op) from this
  unfold State.anchorCmd
  split
  · rfl
  extract_lets +onlyGivenNames a
  split
  rename_i c block s1 heq
  have h1 : s1.mem = s.mem := by simp [State.mem_of_triple heq]
  extract_lets +onlyGivenNames ws got
  split
  · rfl
  extract_lets +onlyGivenNames n
  split
  rename_i c2 sig s2 heq2
  have h2 : s2.mem = s.mem := by simp [State.mem_of_triple heq2, h1]
  extract_lets +onlyGivenNames code s3 s4
  refine (State.pulse_mem _ _ _).trans ?_
  simp only [s4]
  split <;> exact h2

@[simp] theorem hostInstall_memOk (s : State) (v : Word) (hs : s.mem.wf) : (hostInstall v s).MemOk := by
  simp [hostInstall, hs]

@[simp] theorem hostAnchorClear_memOk (s : State) (v : Word) (hs : s.mem.wf) : (hostAnchorClear v s).MemOk := by
  simp [hostAnchorClear, hs]

@[simp] theorem hostRaise_memOk (s : State) (v : Word) (hs : s.mem.wf) : (hostRaise v s).MemOk := by
  simp [hostRaise, hs]

@[simp] theorem hostTenantAttestationRequest_memOk (s : State) (i : InstId) (v : Word) (hs : s.mem.wf) :
    (hostTenantAttestationRequest i v s).MemOk := by
  simp [hostTenantAttestationRequest, hs]

@[simp] theorem hostManagerAttestationRequest_memOk (s : State) (v : Word) (hs : s.mem.wf) :
    (hostManagerAttestationRequest v s).MemOk := by
  simp [hostManagerAttestationRequest, hs]

@[simp] theorem execSpdmRequest_memOk (s : State) (x : SpdmRequest) (hs : s.mem.wf) : (execSpdmRequest x s).MemOk := by
  simp [execSpdmRequest, hs]

@[simp] theorem State.ideKeys_mem (s : State) (k : Fin 5) : (s.ideKeys k).mem = s.mem := by
  rfl

@[simp] theorem State.indexLow_mem (s : State) : s.indexLow.mem = s.mem := by
  simp [State.indexLow]

@[simp] theorem State.signDone_memOk (s : State) (who : SignFor) (c : Code) (hs : s.mem.wf) : (s.signDone who c).mem.wf := by
  unfold State.signDone
  split <;> simp [hs]

@[simp] theorem execSignerTakeRequest_memOk (s : State) (hs : s.mem.wf) : (execSignerTakeRequest s).MemOk := by
  simp only [execSignerTakeRequest]
  repeat' split
  all_goals simp [hs]

@[simp] theorem State.signRelease_memOk (s : State) (g : Signing) (hs : s.mem.wf) : (s.signRelease g).mem.wf := by
  unfold State.signRelease
  repeat' split
  all_goals simp [hs]

@[simp] theorem execSignatureComplete_memOk (s : State) (hs : s.mem.wf) : (execSignatureComplete s).MemOk := by
  unfold execSignatureComplete
  split <;> simp [hs]

@[simp] theorem execTopWriteComplete_memOk (s : State) (hs : s.mem.wf) : (execTopWriteComplete s).MemOk := by
  unfold execTopWriteComplete
  split <;> simp [hs]

/-! The functions of Machine/Power. -/

@[simp] theorem State.wipe_memOk (s : State) (p : PwrSt) (i : I3cSt) (hs : s.mem.wf) :
    (s.wipe p i).mem.wf := Memory.wf_filter hs

@[simp] theorem State.moduleReset_memOk (s : State) (hs : s.mem.wf) : s.moduleReset.mem.wf := State.wipe_memOk _ _ _ hs

@[simp] theorem State.railsOff_memOk (s : State) (phase : PwrPhase) (hot : Bool) (hs : s.mem.wf) :
    (s.railsOff phase hot).mem.wf := State.wipe_memOk _ _ _ hs

@[simp] theorem hostModuleReset_memOk (s : State) (v : Word) (hs : s.mem.wf) : (hostModuleReset v s).MemOk := by
  simp [hostModuleReset, hs]

@[simp] theorem hostSleep_memOk (s : State) (v : Word) (hs : s.mem.wf) : (hostSleep v s).MemOk := by
  simp [hostSleep, hs]

@[simp] theorem execModWake_memOk (s : State) (hs : s.mem.wf) : (execModWake s).MemOk := by
  simp [execModWake, hs]

@[simp] theorem execPowerOn_memOk (s : State) (modTest : Bool) (hs : s.mem.wf) : (execPowerOn modTest s).MemOk := by
  simp [execPowerOn, hs]

@[simp] theorem State.release_mem (s : State) : s.release.mem = s.mem := by
  rfl

@[simp] theorem execStartupStepComplete_memOk (s : State) (ok : Bool) (hs : s.mem.wf) :
    (execStartupStepComplete ok s).MemOk := by
  simp [execStartupStepComplete, hs]

@[simp] theorem execPerst_memOk (s : State) (hs : s.mem.wf) : (execPerst s).MemOk := by
  simp [execPerst, hs]

@[simp] theorem execTestReset_memOk (s : State) (hs : s.mem.wf) : (execTestReset s).MemOk := by
  simp [execTestReset, hs]

@[simp] theorem State.hostTransferLost_memOk (s : State) (t : Nat) (hs : s.mem.wf) : (s.hostTransferLost t).mem.wf := by
  simp only [State.hostTransferLost]
  split
  · simp [hs]
  · split <;> simp [hs]

@[simp] theorem State.resetRegs_mem (s : State) (p : Page) : (s.resetRegs p).mem = s.mem := by
  rfl

@[simp] theorem State.cxlReset_memOk (s : State) (hs : s.mem.wf) : s.cxlReset.mem.wf := by
  simp only [State.cxlReset]
  exact foldS_memOk (foldS_memOk (by simp [hs]) fun m t ht => by simp [ht]) fun k t ht => by simp [ht]

@[simp] theorem execCxlLinkReset_memOk (s : State) (hs : s.mem.wf) : (execCxlLinkReset s).MemOk := by
  simp [execCxlLinkReset, hs]

@[simp] theorem State.parkCmd_mem (s : State) (v : Word) (op : Nat) : (s.parkCmd v op).mem = s.mem := by
  simp [State.parkCmd]

@[simp] theorem hostPark_memOk (s : State) (v : Word) (hs : s.mem.wf) : (hostPark v s).MemOk := by
  simp [hostPark, hs]

@[simp] theorem hostUnpark_memOk (s : State) (v : Word) (hs : s.mem.wf) : (hostUnpark v s).MemOk := by
  simp [hostUnpark, hs]

@[simp] theorem execParkComplete_memOk (s : State) (g : GroveId) (hs : s.mem.wf) : (execParkComplete g s).MemOk := by
  simp [execParkComplete, hs]

@[simp] theorem execUnparkComplete_memOk (s : State) (g : GroveId) (hs : s.mem.wf) : (execUnparkComplete g s).MemOk := by
  simp [execUnparkComplete, hs]

@[simp] theorem State.tripped_memOk (s : State) (hot : Bool) (hs : s.mem.wf) : (s.tripped hot).mem.wf := by
  simp [State.tripped, hs]

@[simp] theorem State.throttle_mem (s : State) (r : Readings) : (s.throttle r).mem = s.mem := by
  simp only [State.throttle]
  split
  · simp
  · split <;> simp

@[simp] theorem execThermalSample_memOk (s : State) (r : Readings) (hs : s.mem.wf) : (execThermalSample r s).MemOk := by
  unfold execThermalSample
  split <;> simp [hs]

@[simp] theorem execInputFault_memOk (s : State) (hs : s.mem.wf) : (execInputFault s).MemOk := by
  unfold execInputFault
  split <;> simp [hs]

@[simp] theorem execPowerStageFault_memOk (s : State) (hs : s.mem.wf) : (execPowerStageFault s).MemOk := by
  unfold execPowerStageFault
  split <;> simp [hs]

@[simp] theorem execPllLockLoss_memOk (s : State) (p : Pll) (hs : s.mem.wf) : (execPllLockLoss p s).MemOk := by
  unfold execPllLockLoss
  split
  · simp +contextual [hs]
  · split <;> simp +contextual [hs]

/-! The functions of Machine/Bist. -/

@[simp] theorem State.bistPorts_memOk (s : State) (mask : Nat) (hs : s.mem.wf) : (s.bistPorts mask).mem.wf := by
  unfold State.bistPorts
  extract_lets s1 s2
  have h1 : s1.mem.wf := foldS_memOk hs fun p t ht => foldN_memOk ht fun k u hu => by simp [hu]
  have h2 : s2.mem.wf := foldS_memOk h1 fun p t ht => by simp [ht]
  split
  · refine foldN_memOk h2 fun q t ht => ?_
    split
    · exact ht
    split <;> simp [ht]
  · exact h2

@[simp] theorem State.bistStart_memOk (s : State) (v : Word) (op : Nat) (hs : s.mem.wf) : (s.bistStart v op).mem.wf := by
  simp [State.bistStart, hs]

@[simp] theorem hostLogic_memOk (s : State) (v : Word) (hs : s.mem.wf) : (hostLogic v s).MemOk := by
  simp [hostLogic, hs]

@[simp] theorem hostMemory_memOk (s : State) (v : Word) (hs : s.mem.wf) : (hostMemory v s).MemOk := by
  simp [hostMemory, hs]

@[simp] theorem hostTileBist_memOk (s : State) (v : Word) (hs : s.mem.wf) : (hostTileBist v s).MemOk := by
  simp [hostTileBist, hs]

@[simp] theorem State.bistScrub_memOk (s : State) (d : Nat) (hs : s.mem.wf) : (s.bistScrub d).mem.wf := by
  simp +contextual [State.bistScrub, hs]

@[simp] theorem State.bistPortsEnd_mem (s : State) (mask : Nat) : (s.bistPortsEnd mask).mem = s.mem := by
  simp [State.bistPortsEnd]

@[simp] theorem State.bistEnd_memOk (s : State) (mask good array word : Nat) (logic : Bool) (hs : s.mem.wf) :
    (s.bistEnd mask good array word logic).mem.wf := by
  simp +contextual [State.bistEnd, hs]

@[simp] theorem State.bistSuspect_mem (s : State) (mask t : Nat) : (s.bistSuspect mask t).mem = s.mem := by
  simp [State.bistSuspect]

@[simp] theorem execBistDone_memOk (s : State) (r : BistResult) (hs : s.mem.wf) : (execBistDone r s).MemOk := by
  unfold execBistDone
  split <;> simp [hs]

@[simp] theorem State.bistCommit_mem (s : State) : s.bistCommit.mem = s.mem := by
  simp [State.bistCommit]

@[simp] theorem hostInjectionArm_memOk (s : State) (v : Word) (hs : s.mem.wf) : (hostInjectionArm v s).MemOk := by
  simp [hostInjectionArm, hs]

@[simp] theorem hostInjectionDisarm_memOk (s : State) (v : Word) (hs : s.mem.wf) : (hostInjectionDisarm v s).MemOk := by
  simp [hostInjectionDisarm, hs]

@[simp] theorem hostScalerSelect_memOk (s : State) (v : Word) (hs : s.mem.wf) : (hostScalerSelect v s).MemOk := by
  simp [hostScalerSelect, hs]

@[simp] theorem State.sclCtrl_memOk (s : State) (dump clr : Bool) (hs : s.mem.wf) : (s.sclCtrl dump clr).mem.wf := by
  unfold State.sclCtrl
  split <;> simp [hs]

@[simp] theorem hostDump_memOk (s : State) (v : Word) (hs : s.mem.wf) : (hostDump v s).MemOk := by
  simp [hostDump, hs]

@[simp] theorem hostClr_memOk (s : State) (v : Word) (hs : s.mem.wf) : (hostClr v s).MemOk := by
  simp [hostClr, hs]

@[simp] theorem execJtagInstruction_memOk (s : State) (tap : Fin 6) (ir : JtagIr) (hs : s.mem.wf) :
    (execJtagInstruction tap ir s).MemOk := by
  simp [execJtagInstruction, hs]

/-! The functions of Machine/Regs. -/

@[simp] theorem onUnit_memOk (s : State) (n k : Nat) (f : Fin n → State → Ans) (hs : s.mem.wf) (hf : ∀ i, (f i s).MemOk) :
    (onUnit n k f s).MemOk := by
  unfold onUnit
  split
  · exact hf _
  · simp [hs]

@[simp] theorem whenBit_memOk (s : State) (v : Word) (b : Nat) (f : State → Ans) (hs : s.mem.wf) (hf : (f s).MemOk) :
    (whenBit v b f s).MemOk := by
  simp [whenBit, hf, hs]

@[simp] theorem State.evtAfter_memOk (s : State) (p : Page) (hs : s.mem.wf) : (s.evtAfter p).mem.wf := by
  simp [State.evtAfter, hs]

@[simp] theorem hostEvtPendClear_memOk (s : State) (p : Page) (v : Word) (hs : s.mem.wf) :
    (hostEvtPendClear p v s).MemOk := by
  simp [hostEvtPendClear, hs]

@[simp] theorem hostEvtMaskWrite_memOk (s : State) (p : Page) (v : Word) (hs : s.mem.wf) :
    (hostEvtMaskWrite p v s).MemOk := by
  simp [hostEvtMaskWrite, hs]

@[simp] theorem hostCommit_memOk (s : State) (p : Page) (hs : s.mem.wf) : (hostCommit p s).MemOk := by
  unfold hostCommit
  split
  · simp [hs]
  split
  · simp [hs]
  · split <;> simp [hs]

@[simp] theorem State.plainWrite_mem (s : State) (p : Page) (off : Nat) (v : Word) :
    (s.plainWrite p off v).mem = s.mem := by
  unfold State.plainWrite
  split <;> simp

@[simp] theorem State.ringWrite_memOk (s : State) (p : Page) (o off : Nat) (v : Word) (zero : State → State)
    (hzero : ∀ t, t.mem.wf → (zero t).memOk) (hs : s.mem.wf) : (s.ringWrite p o off v zero).mem.wf := by
  unfold State.ringWrite
  split
  · simp [hs]
  split
  · simpa using hzero _ (by simp [hs])
  · simp [hs]

@[simp] theorem State.cqZero_mem (s : State) (i : Nat) : (State.cqZero i s).mem = s.mem := by
  rfl

@[simp] theorem State.rqZero_memOk (s : State) (i : Nat) (hs : s.mem.wf) : (State.rqZero i s).mem.wf := by
  simp [State.rqZero, hs]

@[simp] theorem State.fqZero_mem (s : State) (k : Nat) : (State.fqZero k s).mem = s.mem := by
  rfl

@[simp] theorem State.fcZero_memOk (s : State) (k : Nat) (hs : s.mem.wf) : (State.fcZero k s).mem.wf := by
  simp [State.fcZero, hs]

@[simp] theorem State.fabricRegs_memOk (s : State) (p : Page) (k off : Nat) (v : Word) (hs : s.mem.wf) :
    (s.fabricRegs p k off v).MemOk := by
  unfold State.fabricRegs
  split
  · simp [hs]
  split
  · simp [hs]
  split
  · simp [hs]
  split
  · exact Ans.memOk_next_of (State.ringWrite_memOk _ _ _ _ _ _ (fun t ht => by simp [ht]) hs)
  · simp [hs]

@[simp] theorem State.mbxRegs_memOk (s : State) (i : InstId) (off : Nat) (v : Word) (hs : s.mem.wf) :
    (s.mbxRegs i off v).MemOk := by
  have hrq : (s.ringWrite (pgMbx i.val) 0x120 off v (State.rqZero i.val)).mem.wf :=
    State.ringWrite_memOk _ _ _ _ _ _ (fun t ht => by simp [ht]) hs
  unfold State.mbxRegs
  extract_lets p
  simp [p, hs, hrq]

@[simp] theorem State.mapRegs_memOk (s : State) (off : Nat) (v : Word) (hs : s.mem.wf) : (s.mapRegs off v).MemOk := by
  unfold State.mapRegs
  split
  · simp [hs]
  split <;> split <;> simp [hs]

@[simp] theorem State.laneRegs_memOk (s : State) (l : LaneId) (off : Nat) (v : Word) (hs : s.mem.wf) :
    (s.laneRegs l off v).MemOk := by
  simp +contextual [State.laneRegs, hs]

@[simp] theorem State.coordRegs_memOk (s : State) (off : Nat) (v : Word) (hs : s.mem.wf) : (s.coordRegs off v).MemOk := by
  unfold State.coordRegs
  repeat' split
  all_goals simp [hs]

@[simp] theorem State.cruRegs_memOk (s : State) (d : DieId) (off : Nat) (v : Word) (hs : s.mem.wf) :
    (s.cruRegs d off v).MemOk := by
  unfold State.cruRegs
  split
  · split <;> simp [hs]
  · simp [hs]

@[simp] theorem State.ckxRegs_memOk (s : State) (k off : Nat) (v : Word) (hs : s.mem.wf) : (s.ckxRegs k off v).MemOk := by
  unfold State.ckxRegs
  extract_lets +onlyGivenNames p
  split
  · extract_lets +onlyGivenNames s1
    refine Ans.memOk_next_of ?_
    split <;> simp [s1, hs]
  split
  · exact Ans.after_memOk _ _ (whenBit_memOk _ _ _ _ hs (onUnit_memOk _ _ _ _ hs fun i => by simp [hs]))
      fun t ht => whenBit_memOk _ _ _ _ ht (onUnit_memOk _ _ _ _ ht fun i => by simp [ht])
  split
  · refine Ans.memOk_next_of ?_
    split <;> simp [hs]
  split
  · exact Ans.after_memOk _ _ (Ans.after_memOk _ _ (by simp [hs]) fun t ht => by simp [ht]) fun t ht => by simp [ht]
  split
  · refine Ans.memOk_next_of ?_
    split <;> simp [hs]
  · simp [hs]

@[simp] theorem State.settleBuckets_mem (s : State) (p off : Nat) : (s.settleBuckets p off).mem = s.mem := by
  simp [State.settleBuckets]

@[simp] theorem State.ethRegs_memOk (s : State) (p : EthPort) (off : Nat) (v : Word) (hs : s.mem.wf) :
    (s.ethRegs p off v).MemOk := by
  simp +contextual [State.ethRegs, hs]

@[simp] theorem State.cxlRegs_memOk (s : State) (off : Nat) (v : Word) (hs : s.mem.wf) : (s.cxlRegs off v).MemOk := by
  unfold State.cxlRegs
  extract_lets +onlyGivenNames p
  split
  · extract_lets +onlyGivenNames q o r
    split
    · simp [hs]
    split
    · simp [hs]
    split
    · refine Ans.memOk_next_of ?_
      split <;> simp [hs]
    split
    · exact Ans.memOk_next_of (State.ringWrite_memOk _ _ _ _ _ _ (fun t ht => by simp [ht]) hs)
    split
    · exact Ans.memOk_next_of (State.ringWrite_memOk _ _ _ _ _ _ (fun t ht => by simp [ht]) hs)
    · simp [hs]
  split
  · refine Ans.memOk_next_of ?_
    split <;> simp [hs]
  · simp [hs]

@[simp] theorem State.timeRegs_memOk (s : State) (off : Nat) (v : Word) (hs : s.mem.wf) : (s.timeRegs off v).MemOk := by
  unfold State.timeRegs
  split
  · simp [hs]
  split
  · exact Ans.after_memOk _ _ (by simp [hs]) fun t ht => by simp [ht]
  · simp [hs]

@[simp] theorem State.chkRegs_memOk (s : State) (k : ChkId) (off : Nat) (v : Word) (hs : s.mem.wf) :
    (s.chkRegs k off v).MemOk := by
  unfold State.chkRegs
  split
  · simp [hs]
  split
  · exact Ans.after_memOk _ _ (by simp [hs]) fun t ht => by simp [ht]
  · simp [hs]

@[simp] theorem State.seedRegs_memOk (s : State) (off : Nat) (v : Word) (hs : s.mem.wf) : (s.seedRegs off v).MemOk := by
  simp only [State.seedRegs]
  repeat' split
  all_goals simp [hs]

@[simp] theorem State.pwrRegs_memOk (s : State) (off : Nat) (v : Word) (hs : s.mem.wf) : (s.pwrRegs off v).MemOk := by
  unfold State.pwrRegs
  split
  · exact Ans.after_memOk _ _ (by simp [hs]) fun t ht => by split <;> simp [ht]
  split
  · split <;> simp [hs]
  · simp [hs]

@[simp] theorem State.bistRegs_memOk (s : State) (off : Nat) (v : Word) (hs : s.mem.wf) : (s.bistRegs off v).MemOk := by
  unfold State.bistRegs
  split
  · split <;> simp [hs]
  · simp [hs]

@[simp] theorem State.msixRegs_mem (s : State) (off : Nat) (v : Word) : (s.msixRegs off v).mem = s.mem := by
  simp [State.msixRegs]

@[simp] theorem regEffect_memOk (s : State) (p : Page) (off : Nat) (v : Word) (hs : s.mem.wf) :
    (regEffect p off v s).MemOk := by
  unfold regEffect
  split
  · simp [hs]
  split
  · simp [hs]
  split
  · simp [hs]
  split
  · simp [hs]
  split
  · simp [hs]
  split
  · simp [hs]
  split
  case h_1 =>
    split
    · exact onUnit_memOk _ _ _ _ hs fun t => Ans.after_memOk _ _ (by simp [hs]) fun u hu => by simp [hu]
    · simp [hs]
  case h_3 => split <;> simp [hs]
  case h_4 => split <;> simp [hs]
  case h_11 => split <;> simp [hs]
  all_goals simp [hs]

@[simp] theorem State.hostWrite_memOk (s : State) (p : Page) (off : Nat) (v : Word) (k : State → Ans)
    (hs : s.mem.wf) (hk : ∀ t, t.mem.wf → (k t).MemOk) : (s.hostWrite p off v k).MemOk := by
  simp only [State.hostWrite]
  split
  · simp [hs]
  split
  · split
    · simp [hs]
    · exact hk _ (by simp [hs])
  · exact hk _ (by simp [hs])

@[simp] theorem State.reqRefused_mem (s : State) (req : Requester) (p : Page) : (s.reqRefused req p).mem = s.mem := by
  unfold State.reqRefused
  split
  · simp
  · split <;> simp

@[simp] theorem State.freePageWrite_mem (s : State) (p : Page) : (s.freePageWrite p).mem = s.mem := by
  simp [State.freePageWrite]

@[simp] theorem execRegisterWrite_memOk (s : State) (req : Requester) (p : Page) (off : Nat) (v : Word) (hs : s.mem.wf) :
    (execRegisterWrite req p off v s).MemOk := by
  simp +contextual [execRegisterWrite, hs]

@[simp] theorem execUnsupportedRegisterAccess_memOk (s : State) (p : PageReq) (off size : Nat) (hs : s.mem.wf) :
    (execUnsupportedRegisterAccess p off size s).MemOk := by
  simp [execUnsupportedRegisterAccess, hs]

@[simp] theorem execTenantManagementAccess_memOk (s : State) (pasid : BitVec 20) (p : Page) (hs : s.mem.wf) :
    (execTenantManagementAccess pasid p s).MemOk := by
  simp [execTenantManagementAccess, hs]

/-! The functions of Machine/Host. -/

@[simp] theorem execCommit_memOk (s : State) (p : Page) (hs : s.mem.wf) : (execCommit p s).MemOk := by
  simp +contextual [execCommit, hs]

@[simp] theorem execEvtPendClear_memOk (s : State) (p : Page) (v : Word) (hs : s.mem.wf) :
    (execEvtPendClear p v s).MemOk := by
  simp +contextual [execEvtPendClear, hs]

@[simp] theorem execEvtMaskWrite_memOk (s : State) (p : Page) (v : Word) (hs : s.mem.wf) :
    (execEvtMaskWrite p v s).MemOk := by
  simp +contextual [execEvtMaskWrite, hs]

@[simp] theorem execSuspectClr_memOk (s : State) (t : TileId) (hs : s.mem.wf) : (execSuspectClr t s).MemOk := by
  simp +contextual [execSuspectClr, hs]

@[simp] theorem execTileCtrlHostWrite_memOk (s : State) (t : TileId) (v : Word) (hs : s.mem.wf) :
    (execTileCtrlHostWrite t v s).MemOk := by
  simp +contextual [execTileCtrlHostWrite, hs]

@[simp] theorem execEnable_memOk (s : State) (l : LaneId) (c : LaneCtxId) (v : Word) (hs : s.mem.wf) :
    (execEnable l c v s).MemOk := by
  simp +contextual [execEnable, hs]

@[simp] theorem execLaneContextDisable_memOk (s : State) (l : LaneId) (c : LaneCtxId) (v : Word) (hs : s.mem.wf) :
    (execLaneContextDisable l c v s).MemOk := by
  simp +contextual [execLaneContextDisable, hs]

@[simp] theorem execMbclr_memOk (s : State) (l : LaneId) (hs : s.mem.wf) : (execMbclr l s).MemOk := by
  simp +contextual [execMbclr, hs]

@[simp] theorem execAdmit_memOk (s : State) (v : Word) (hs : s.mem.wf) : (execAdmit v s).MemOk := by
  simp +contextual [execAdmit, hs]

@[simp] theorem execRemove_memOk (s : State) (v : Word) (hs : s.mem.wf) : (execRemove v s).MemOk := by
  simp +contextual [execRemove, hs]

@[simp] theorem execRemoveForce_memOk (s : State) (v : Word) (hs : s.mem.wf) : (execRemoveForce v s).MemOk := by
  simp +contextual [execRemoveForce, hs]

@[simp] theorem execGroupCommit_memOk (s : State) (v : Word) (hs : s.mem.wf) : (execGroupCommit v s).MemOk := by
  simp +contextual [execGroupCommit, hs]

@[simp] theorem execArm_memOk (s : State) (v : Word) (hs : s.mem.wf) : (execArm v s).MemOk := by
  simp +contextual [execArm, hs]

@[simp] theorem execDisarm_memOk (s : State) (v : Word) (hs : s.mem.wf) : (execDisarm v s).MemOk := by
  simp +contextual [execDisarm, hs]

@[simp] theorem execMirrorRead_memOk (s : State) (v : Word) (hs : s.mem.wf) : (execMirrorRead v s).MemOk := by
  simp +contextual [execMirrorRead, hs]

@[simp] theorem execCqDoorbell_memOk (s : State) (i : InstId) (v : Word) (hs : s.mem.wf) : (execCqDoorbell i v s).MemOk := by
  simp +contextual [execCqDoorbell, hs]

@[simp] theorem execRqHeadWrite_memOk (s : State) (i : InstId) (v : Word) (hs : s.mem.wf) :
    (execRqHeadWrite i v s).MemOk := by
  simp +contextual [execRqHeadWrite, hs]

@[simp] theorem execMailboxAck_memOk (s : State) (i : InstId) (v : Word) (hs : s.mem.wf) : (execMailboxAck i v s).MemOk := by
  simp +contextual [execMailboxAck, hs]

@[simp] theorem execEncode_memOk (s : State) (i : InstId) (v : Word) (hs : s.mem.wf) : (execEncode i v s).MemOk := by
  simp +contextual [execEncode, hs]

@[simp] theorem execRebuild_memOk (s : State) (i : InstId) (v : Word) (hs : s.mem.wf) : (execRebuild i v s).MemOk := by
  simp +contextual [execRebuild, hs]

@[simp] theorem execTenantAttestationRequest_memOk (s : State) (i : InstId) (v : Word) (hs : s.mem.wf) :
    (execTenantAttestationRequest i v s).MemOk := by
  simp +contextual [execTenantAttestationRequest, hs]

@[simp] theorem execMailboxSend_memOk (s : State) (sender : Space) (v : Word) (hs : s.mem.wf) :
    (execMailboxSend sender v s).MemOk := by
  simp [execMailboxSend, hs]

@[simp] theorem execFqDoorbell_memOk (s : State) (sp : Space) (v : Word) (hs : s.mem.wf) :
    (execFqDoorbell sp v s).MemOk := by
  simp +contextual [execFqDoorbell, hs]

@[simp] theorem execFcHeadWrite_memOk (s : State) (sp : Space) (v : Word) (hs : s.mem.wf) :
    (execFcHeadWrite sp v s).MemOk := by
  simp +contextual [execFcHeadWrite, hs]

@[simp] theorem execRegister_memOk (s : State) (d : DieId) (v : Word) (hs : s.mem.wf) : (execRegister d v s).MemOk := by
  simp +contextual [execRegister, hs]

@[simp] theorem execUnregister_memOk (s : State) (d : DieId) (v : Word) (hs : s.mem.wf) : (execUnregister d v s).MemOk := by
  simp +contextual [execUnregister, hs]

@[simp] theorem execObjectRead_memOk (s : State) (d : DieId) (v : Word) (hs : s.mem.wf) : (execObjectRead d v s).MemOk := by
  simp +contextual [execObjectRead, hs]

@[simp] theorem execHbmRetireLogWrite_memOk (s : State) (ctl : HbmId) (v : Word) (hs : s.mem.wf) :
    (execHbmRetireLogWrite ctl v s).MemOk := by
  simp +contextual [execHbmRetireLogWrite, hs]

@[simp] theorem execFbkMapaddrWrite_memOk (s : State) (v : Word) (hs : s.mem.wf) : (execFbkMapaddrWrite v s).MemOk := by
  simp +contextual [execFbkMapaddrWrite, hs]

@[simp] theorem execFirebreakCommit_memOk (s : State) (page : Fin 65) (hs : s.mem.wf) :
    (execFirebreakCommit page s).MemOk := by
  simp +contextual [execFirebreakCommit, hs]

@[simp] theorem execCreate_memOk (s : State) (v : Word) (hs : s.mem.wf) : (execCreate v s).MemOk := by
  simp +contextual [execCreate, hs]

@[simp] theorem execActivate_memOk (s : State) (v : Word) (hs : s.mem.wf) : (execActivate v s).MemOk := by
  simp +contextual [execActivate, hs]

@[simp] theorem execResetDrain_memOk (s : State) (v : Word) (hs : s.mem.wf) : (execResetDrain v s).MemOk := by
  simp +contextual [execResetDrain, hs]

@[simp] theorem execResetSquash_memOk (s : State) (v : Word) (hs : s.mem.wf) : (execResetSquash v s).MemOk := by
  simp +contextual [execResetSquash, hs]

@[simp] theorem execDestroy_memOk (s : State) (v : Word) (hs : s.mem.wf) : (execDestroy v s).MemOk := by
  simp +contextual [execDestroy, hs]

@[simp] theorem execLogStart_memOk (s : State) (v : Word) (hs : s.mem.wf) : (execLogStart v s).MemOk := by
  simp +contextual [execLogStart, hs]

@[simp] theorem execLogSwap_memOk (s : State) (v : Word) (hs : s.mem.wf) : (execLogSwap v s).MemOk := by
  simp +contextual [execLogSwap, hs]

@[simp] theorem execLogStop_memOk (s : State) (v : Word) (hs : s.mem.wf) : (execLogStop v s).MemOk := by
  simp +contextual [execLogStop, hs]

@[simp] theorem execFreeze_memOk (s : State) (v : Word) (hs : s.mem.wf) : (execFreeze v s).MemOk := by
  simp +contextual [execFreeze, hs]

@[simp] theorem execThaw_memOk (s : State) (v : Word) (hs : s.mem.wf) : (execThaw v s).MemOk := by
  simp +contextual [execThaw, hs]

@[simp] theorem execInstanceRead_memOk (s : State) (v : Word) (hs : s.mem.wf) : (execInstanceRead v s).MemOk := by
  simp +contextual [execInstanceRead, hs]

@[simp] theorem execRetrain_memOk (s : State) (p : CkxPort) (hs : s.mem.wf) : (execRetrain p s).MemOk := by
  simp +contextual [execRetrain, hs]

@[simp] theorem execHoldClr_memOk (s : State) (p : CkxPort) (hs : s.mem.wf) : (execHoldClr p s).MemOk := by
  simp +contextual [execHoldClr, hs]

@[simp] theorem execFound_memOk (s : State) (hs : s.mem.wf) : (execFound s).MemOk := by
  simp +contextual [execFound, hs]

@[simp] theorem execJoin_memOk (s : State) (hs : s.mem.wf) : (execJoin s).MemOk := by
  simp +contextual [execJoin, hs]

@[simp] theorem execLeave_memOk (s : State) (hs : s.mem.wf) : (execLeave s).MemOk := by
  simp +contextual [execLeave, hs]

@[simp] theorem execSnap_memOk (s : State) (hs : s.mem.wf) : (execSnap s).MemOk := by
  simp +contextual [execSnap, hs]

@[simp] theorem execBarArm_memOk (s : State) (hs : s.mem.wf) : (execBarArm s).MemOk := by
  simp +contextual [execBarArm, hs]

@[simp] theorem execPulseEnable_memOk (s : State) (p : PulseId) (v : Word) (hs : s.mem.wf) :
    (execPulseEnable p v s).MemOk := by
  simp +contextual [execPulseEnable, hs]

@[simp] theorem execTsqHeadWrite_memOk (s : State) (p : EthPort) (v : Word) (hs : s.mem.wf) :
    (execTsqHeadWrite p v s).MemOk := by
  simp +contextual [execTsqHeadWrite, hs]

@[simp] theorem execManagementTxTailWrite_memOk (s : State) (p : EthPort) (v : Word) (hs : s.mem.wf) :
    (execManagementTxTailWrite p v s).MemOk := by
  simp +contextual [execManagementTxTailWrite, hs]

@[simp] theorem execClose_memOk (s : State) (k : ChkId) (hs : s.mem.wf) : (execClose k s).MemOk := by
  simp +contextual [execClose, hs]

@[simp] theorem execChkRestart_memOk (s : State) (k : ChkId) (hs : s.mem.wf) : (execChkRestart k s).MemOk := by
  simp +contextual [execChkRestart, hs]

@[simp] theorem execL2qInboundTailWrite_memOk (s : State) (q : Fin 8) (v : Word) (hs : s.mem.wf) :
    (execL2qInboundTailWrite q v s).MemOk := by
  simp +contextual [execL2qInboundTailWrite, hs]

@[simp] theorem execL2qDheadWrite_memOk (s : State) (q : Fin 8) (v : Word) (hs : s.mem.wf) :
    (execL2qDheadWrite q v s).MemOk := by
  simp +contextual [execL2qDheadWrite, hs]

@[simp] theorem execBind_memOk (s : State) (v : Word) (hs : s.mem.wf) : (execBind v s).MemOk := by
  simp +contextual [execBind, hs]

@[simp] theorem execUnbind_memOk (s : State) (v : Word) (hs : s.mem.wf) : (execUnbind v s).MemOk := by
  simp +contextual [execUnbind, hs]

@[simp] theorem execPackageRead_memOk (s : State) (v : Word) (hs : s.mem.wf) : (execPackageRead v s).MemOk := by
  simp +contextual [execPackageRead, hs]

@[simp] theorem execInstall_memOk (s : State) (v : Word) (hs : s.mem.wf) : (execInstall v s).MemOk := by
  simp +contextual [execInstall, hs]

@[simp] theorem execAnchorClear_memOk (s : State) (v : Word) (hs : s.mem.wf) : (execAnchorClear v s).MemOk := by
  simp +contextual [execAnchorClear, hs]

@[simp] theorem execRaise_memOk (s : State) (v : Word) (hs : s.mem.wf) : (execRaise v s).MemOk := by
  simp +contextual [execRaise, hs]

@[simp] theorem execManagerAttestationRequest_memOk (s : State) (v : Word) (hs : s.mem.wf) :
    (execManagerAttestationRequest v s).MemOk := by
  simp +contextual [execManagerAttestationRequest, hs]

@[simp] theorem execModuleReset_memOk (s : State) (v : Word) (hs : s.mem.wf) : (execModuleReset v s).MemOk := by
  simp +contextual [execModuleReset, hs]

@[simp] theorem execSleep_memOk (s : State) (v : Word) (hs : s.mem.wf) : (execSleep v s).MemOk := by
  simp +contextual [execSleep, hs]

@[simp] theorem execPark_memOk (s : State) (v : Word) (hs : s.mem.wf) : (execPark v s).MemOk := by
  simp +contextual [execPark, hs]

@[simp] theorem execUnpark_memOk (s : State) (v : Word) (hs : s.mem.wf) : (execUnpark v s).MemOk := by
  simp +contextual [execUnpark, hs]

@[simp] theorem execLogic_memOk (s : State) (v : Word) (hs : s.mem.wf) : (execLogic v s).MemOk := by
  simp +contextual [execLogic, hs]

@[simp] theorem execMemory_memOk (s : State) (v : Word) (hs : s.mem.wf) : (execMemory v s).MemOk := by
  simp +contextual [execMemory, hs]

@[simp] theorem execTileBist_memOk (s : State) (v : Word) (hs : s.mem.wf) : (execTileBist v s).MemOk := by
  simp +contextual [execTileBist, hs]

@[simp] theorem execInjectionArm_memOk (s : State) (v : Word) (hs : s.mem.wf) : (execInjectionArm v s).MemOk := by
  simp +contextual [execInjectionArm, hs]

@[simp] theorem execInjectionDisarm_memOk (s : State) (v : Word) (hs : s.mem.wf) : (execInjectionDisarm v s).MemOk := by
  simp +contextual [execInjectionDisarm, hs]

@[simp] theorem execScalerSelect_memOk (s : State) (v : Word) (hs : s.mem.wf) : (execScalerSelect v s).MemOk := by
  simp +contextual [execScalerSelect, hs]

@[simp] theorem execDump_memOk (s : State) (v : Word) (hs : s.mem.wf) : (execDump v s).MemOk := by
  simp +contextual [execDump, hs]

@[simp] theorem execClr_memOk (s : State) (v : Word) (hs : s.mem.wf) : (execClr v s).MemOk := by
  simp +contextual [execClr, hs]

@[simp] theorem execWindowAccess_memOk (s : State) (addr : Fin 274877906944) (op : AccessOp) (hs : s.mem.wf) :
    (execWindowAccess addr op s).MemOk := by
  simp [execWindowAccess, hs]

@[simp] theorem execProgramMemoryWrite_memOk (s : State) (l : LaneId) (off : Nat) (bytes : List Byte) (hs : s.mem.wf) :
    (execProgramMemoryWrite l off bytes s).MemOk := by
  unfold execProgramMemoryWrite hostProgramMemoryWrite
  split
  · simp [hs]
  split <;> simp [hs]

/-! The functions of Machine/Replay. -/

theorem State.injectCq_memOk (s : State) (i : Nat) (ws : List Word) {t : State} (h : s.injectCq i ws = some t)
    (hs : s.mem.wf) : t.mem.wf := by
  unfold State.injectCq at h
  split at h
  · rw [← Option.some.inj h]
    exact hs
  · extract_lets u head at h
    have hu : u.mem.wf := by
      simp only [u]
      split <;> simp [hs]
    split at h
    · cases h
    · rw [← Option.some.inj h, State.updInst_mem]
      exact hu

@[simp] theorem State.injectFabric_memOk (s : State) (pl : List Byte) (hs : s.mem.wf) : (s.injectFabric pl).mem.wf := by
  simp only [State.injectFabric]
  repeat' split
  all_goals simp [hs]

@[simp] theorem State.injectTime_memOk (s : State) (id : Nat) (pl : List Byte) (hs : s.mem.wf) :
    (s.injectTime id pl).mem.wf := by
  simp [State.injectTime, hs]

theorem State.inject_memOk (s : State) (ty src id stamp : Nat) (pl : List Byte) {t : State}
    (h : s.inject ty src id stamp pl = some t) (hs : s.mem.wf) : t.mem.wf := by
  unfold State.inject at h
  split at h
  case h_3 => exact State.injectCq_memOk s _ _ h hs
  all_goals rw [← Option.some.inj h]
  case h_1 =>
    split
    · split <;> simp [hs]
    · simp [hs]
  case h_6 => split <;> simp [hs]
  all_goals simp [hs]

@[simp] theorem State.replayStop_mem (s : State) (c : Code) : (s.replayStop c).mem = s.mem := by
  rfl

@[simp] theorem execReplayInject_memOk (s : State) (hs : s.mem.wf) : (execReplayInject s).MemOk := by
  unfold execReplayInject
  split
  · simp [hs]
  split
  · simp [hs]
  split
  split
  · simp [hs]
  split
  · simp [hs]
  extract_lets +onlyGivenNames step
  have hstep (u : State) : (step u).mem = u.mem := State.setReg_mem _ _ _ _
  split
  · simp [hstep, hs]
  extract_lets +onlyGivenNames due
  split
  · simp [hstep, hs]
  split
  · simp [hs]
  split
  · simp [hs]
  · rename_i u hu
    have h := State.inject_memOk s _ _ _ _ _ hu hs
    refine Ans.memOk_next_of ?_
    split
    · exact h
    · split <;> simp [hstep, h]

/-! The functions of Machine/Tick. -/

@[simp] theorem State.timeTick_memOk (s : State) (hs : s.mem.wf) : s.timeTick.mem.wf := by
  simp [State.timeTick, hs]

@[simp] theorem State.tick_memOk (s : State) (hs : s.mem.wf) : s.tick.mem.wf := by
  unfold State.tick
  split
  · exact State.timeTick_memOk _ (State.heldTick_memOk _ (by simp [hs]))
  · exact hs

@[simp] theorem execRequestLate_memOk (s : State) (pt : HoldPoint) (hs : s.mem.wf) : (execRequestLate pt s).MemOk := by
  unfold execRequestLate
  split <;> simp [hs]

/-! Every command and the tick, and the obligation. -/

/-- Each command leaves memory in its canonical form: one of the lemmas above for each row of the dispatch. -/
theorem exec_memOk (i : Instr) (s : State) (hs : s.mem.wf) : Ans.MemOk (exec i s) := by
  cases i <;> simp [exec, hs]

/-- Settles O60: each command leaves memory canonical, and so does the tick that an empty queue steps by. -/
theorem memoryStaysCanonical : Obligations.MemoryStaysCanonical := by
  unfold Obligations.MemoryStaysCanonical
  intro s t hs h
  unfold step at h
  split at h
  · cases h
    exact State.tick_memOk s hs
  · rename_i i rest _
    obtain ⟨u, hu, hwf⟩ := exec_memOk i { s with pending := rest } hs
    cases h.symm.trans hu
    exact hwf

end Sys2Proof.Machine
end

section
/-! PROOFS. Statements that give a register write its effect on the state as it stands (O41, O43, O44, O46, O47, O49 to O56): the write
comes in as a flit of the CXL port, which a check unit may snoop. -/

namespace Sys2Proof.Machine
open Sys2Proof

/-! A snooped write (R26, R435; log entries 3 and 112). -/

/-- A write whose effect takes no free value takes one as a snooped flit: its state is none with the counter of free values as before. -/
theorem State.not_hostWrite_snooped {s u : State} {p : Page} {off : Nat} {v : Word} {k : State → Ans}
    (h : s.hostWrite p off v k = .next u) (hs : s.running = true ∧ s.recMode = 0 ∧ s.snoopsCxl = true)
    (hk : ∃ t, k (s.chkCxl false) = .next t ∧ t.fresh = (s.chkCxl false).fresh) (hu : u.fresh = s.fresh) : False := by
  obtain ⟨hrun, hrec, hsnoop⟩ := hs
  have htaken := State.hostWrite_fresh hrun hrec hsnoop hk h
  exact Nat.succ_ne_self _ (htaken.symm.trans hu)

@[simp] theorem State.ignored_fresh (s : State) (p : Page) : (s.ignored p).fresh = s.fresh := s.bump_fresh p _ 1

/-! What a flit leaves alone, beside the coordinator and the cells. -/

@[simp] theorem State.chkCxl_inst (s : State) (egress : Bool) (i : Nat) : (s.chkCxl egress).inst i = s.inst i := by
  rw [State.chkCxl_frame]; rfl
@[simp] theorem State.chkCxl_lv (s : State) (egress : Bool) : (s.chkCxl egress).lv = s.lv := by rw [State.chkCxl_frame]; rfl
@[simp] theorem State.chkCxl_time (s : State) (egress : Bool) : (s.chkCxl egress).time = s.time := by rw [State.chkCxl_frame]
@[simp] theorem State.chkCxl_l2q (s : State) (egress : Bool) (q : Nat) : (s.chkCxl egress).l2q q = s.l2q q := by
  rw [State.chkCxl_frame]; rfl
@[simp] theorem State.chkCxl_ethp (s : State) (egress : Bool) (p : Nat) : (s.chkCxl egress).ethp p = s.ethp p := by
  rw [State.chkCxl_frame]; rfl
@[simp] theorem State.chkCxl_ringLen (s : State) (egress : Bool) (p : Page) (o : Nat) :
    (s.chkCxl egress).ringLen p o = s.ringLen p o := by
  unfold State.ringLen State.reg; rw [State.chkCxl_raw]

/-! Tenants (R321, R332, R338). -/

/-- A command of FBK_INST_CMD takes no free value where its effect takes none. -/
theorem State.instCmd_fresh (s : State) (v : Word) (op : Nat) (okIn : InstPhase → Bool) (run : Nat → State → State)
    (hrun : ∀ i t, (run i t).fresh = t.fresh) : (s.instCmd v op okIn run).fresh = s.fresh := by
  unfold State.instCmd
  split
  · rfl
  split
  · exact s.bump_fresh _ _ _
  extract_lets i fbk s1 locked code
  split
  · rfl
  · exact hrun i s1

theorem hostLogStop_fresh (s : State) (v : Word) : ∃ t, hostLogStop v s = .next t ∧ t.fresh = s.fresh :=
  ⟨_, rfl, s.instCmd_fresh v 7 logPhase _ (fun _ _ => rfl)⟩

/-- Refutes O41: with check unit 0 on the CXL port, LOG_STOP of an ACTIVE tenant also feeds the unit and takes a free value. -/
theorem not_instanceCommands : ¬ Obligations.InstanceCommands := by
  rintro ⟨-, -, -, -, -, -, -, -, -, -, -, -, hlogStop, -⟩
  have hexec := hlogStop activeSnoopingState 0x37 (by decide) (by decide) (by decide) (by decide) (by decide) (by decide)
  have hwrite : activeSnoopingState.hostWrite pgMap 0x120 0x37 (hostLogStop 0x37) = _ := hexec
  exact State.not_hostWrite_snooped hwrite (by decide) (hostLogStop_fresh _ 0x37) rfl

/-- An acknowledgement at an empty mailbox is ignored and counted. -/
theorem hostMailboxAck_empty (s : State) (i : InstId) (v : Word) (hphase : logPhase (s.inst i.val).phase = true)
    (hempty : (s.inst i.val).mailbox = []) : hostMailboxAck i v s = .next (s.bump (pgMbx i.val) 1 1) := by
  simp [hostMailboxAck, hphase, hempty]

/-- Refutes O43: with check unit 0 on the CXL port, an acknowledgement at an empty mailbox is not only counted: it also feeds the unit
and takes a free value. -/
theorem not_mailboxHeadAndAck : ¬ Obligations.MailboxHeadAndAck := by
  rintro ⟨-, -, -, hignored⟩
  have hexec := hignored activeSnoopingState 3 0 (by decide) (by decide) (.inl (by decide)) (by decide)
  have hcounts := hostMailboxAck_empty (activeSnoopingState.chkCxl false) 3 0 (by rw [State.chkCxl_inst]; rfl)
    (by rw [State.chkCxl_inst]; rfl)
  have hwrite : activeSnoopingState.hostWrite (pgMbx 3) 0x204 0 (hostMailboxAck 3 0) = _ := hexec
  exact State.not_hostWrite_snooped hwrite (by decide) ⟨_, hcounts, State.bump_fresh _ _ _ _⟩ rfl

/-! The rack fabric (R351, R366, R378, R392). -/

/-- The effect of a doorbell of a fabric queue, taken or ignored, takes no free value. -/
theorem hostFqDoorbell_fresh (s : State) (sp : Space) (v : Word) : ∃ t, hostFqDoorbell sp v s = .next t ∧ t.fresh = s.fresh := by
  unfold hostFqDoorbell
  extract_lets p tail head shut
  split
  · exact ⟨_, rfl, s.bump_fresh _ _ _⟩
  split
  · exact ⟨_, rfl, s.bump_fresh _ _ _⟩
  · exact ⟨_, rfl, rfl⟩

/-- Refutes O44: with check unit 0 on the CXL port, a doorbell past the fabric queue's ring is not only counted: it also feeds the unit
and takes a free value. -/
theorem not_fabricCommands : ¬ Obligations.FabricCommands := by
  rintro ⟨-, -, -, -, -, -, -, -, -, -, -, -, -, -, -, -, -, -, -, -, -, -, -, -, -, -, -, -, -, -, -, -, -, -, -, -, -, hpast, -⟩
  have hexec := hpast activeSnoopingState 3 100 (by decide) (by decide) (by decide)
  have hwrite : activeSnoopingState.hostWrite (pgMbx 3) 0x40C 100 (hostFqDoorbell (.inst 3) 100) = _ := hexec
  exact State.not_hostWrite_snooped hwrite (by decide) (hostFqDoorbell_fresh _ (.inst 3) 100) (State.bump_fresh _ _ _ _)

/-- HOLD_CLR takes no free value. -/
theorem hostHoldClr_fresh (s : State) (p : CkxPort) : ∃ t, hostHoldClr p s = .next t ∧ t.fresh = s.fresh := by
  refine ⟨_, rfl, ?_⟩
  split <;> rfl

/-- The snooping state with port 0 HELD. -/
def heldPortSnoopingState : State := snoopingState.setPort 0 { snoopingState.port 0 with state := .held }

/-- Refutes O46: with check unit 0 on the CXL port, HOLD_CLR of a HELD port also feeds the unit and takes a free value. -/
theorem not_links : ¬ Obligations.Links := by
  rintro ⟨-, -, -, -, -, -, -, -, -, -, -, -, -, -, -, -, -, -, -, -, -, -, -, -, hclr, -⟩
  have hexec := hclr heldPortSnoopingState 0 (by decide) (by decide) (by decide)
  have hwrite : heldPortSnoopingState.hostWrite (pgCkx 0) 0x018 2 (hostHoldClr 0) = _ := hexec
  exact State.not_hostWrite_snooped hwrite (by decide) (hostHoldClr_fresh _ 0) rfl

/-- FOUND does nothing in a module that is in a group, or has been. -/
theorem hostFound_not_none (s : State) (h : s.lv.state ≠ .none) : hostFound s = .next s := by
  simp [hostFound, h]

/-- The snooping state of a module that has fenced itself. -/
def fencedSnoopingState : State := snoopingState.setLv { snoopingState.lv with state := .fenced }

/-- Refutes O47: with check unit 0 on the CXL port, FOUND at a FENCED module does not leave the state as it was: it feeds the unit and
takes a free value. -/
theorem not_liveness : ¬ Obligations.Liveness := by
  rintro ⟨-, -, -, -, -, -, -, -, -, -, -, -, -, -, -, -, -, -, -, -, -, -, -, -, -, -, hfound, -⟩
  have hexec := hfound fencedSnoopingState (by decide) (by decide) (by decide)
  have hnothing := hostFound_not_none (fencedSnoopingState.chkCxl false) (by rw [State.chkCxl_lv]; decide)
  have hwrite : fencedSnoopingState.hostWrite (pgCkx 32) 0x01C 1 hostFound = _ := hexec
  exact State.not_hostWrite_snooped hwrite (by decide) ⟨_, hnothing, rfl⟩ rfl

/-! Time and check units (R395, R411, R431). -/

theorem hostSnap_fresh (s : State) : ∃ t, hostSnap s = .next t ∧ t.fresh = s.fresh := ⟨_, rfl, rfl⟩

/-- Refutes O49: with check unit 0 on the CXL port, SNAP also feeds the unit and takes a free value. -/
theorem not_timeBaseAndStamps : ¬ Obligations.TimeBaseAndStamps := by
  rintro ⟨-, -, -, -, -, hsnap, -⟩
  have hexec := hsnap snoopingState (by decide)
  have hwrite : snoopingState.hostWrite pgTime 0x014 1 hostSnap = _ := hexec
  exact State.not_hostWrite_snooped hwrite (by decide) (hostSnap_fresh _) rfl

/-- An arm while a barrier waits is ignored and counted. -/
theorem hostBarArm_waiting (s : State) (h : s.barWaiting = true) : hostBarArm s = .next (s.ignored pgTime) := by
  simp [hostBarArm, h]

/-- The snooping state with a barrier armed. -/
def armedSnoopingState : State := snoopingState.setTime { snoopingState.time with barState := .armed }

/-- Refutes O50: with check unit 0 on the CXL port, an arm while a barrier waits is not only counted: it also feeds the unit and takes a
free value. -/
theorem not_timingGroupsAndBarrier : ¬ Obligations.TimingGroupsAndBarrier := by
  rintro ⟨-, -, -, -, -, -, -, -, -, -, -, -, -, -, hignored, -⟩
  have hexec := hignored armedSnoopingState (by decide) (by decide)
  have hcounts := hostBarArm_waiting (armedSnoopingState.chkCxl false) (by unfold State.barWaiting; rw [State.chkCxl_time]; rfl)
  have hwrite : armedSnoopingState.hostWrite pgTime 0x014 2 hostBarArm = _ := hexec
  exact State.not_hostWrite_snooped hwrite (by decide) ⟨_, hcounts, State.ignored_fresh _ _⟩ (State.ignored_fresh _ _)

theorem hostChkRestart_fresh (s : State) (k : ChkId) : ∃ t, hostChkRestart k s = .next t ∧ t.fresh = s.fresh := ⟨_, rfl, rfl⟩

/-- Refutes O51: with check unit 0 on the CXL port, RESTART of unit 1 also feeds unit 0 and takes a free value. -/
theorem not_replayAndCheckUnits : ¬ Obligations.ReplayAndCheckUnits := by
  rintro ⟨-, -, -, -, -, -, -, -, -, -, -, -, hrestart⟩
  have hexec := hrestart snoopingState 1 (by decide)
  have hwrite : snoopingState.hostWrite (pgChk 1) 0x02C 2 (hostChkRestart 1) = _ := hexec
  exact State.not_hostWrite_snooped hwrite (by decide) (hostChkRestart_fresh _ 1) rfl

/-! Host and network ports (R443, R453). -/

/-- A tail past the ring of an inbound queue is ignored and counted. -/
theorem hostL2qInboundTailWrite_past (s : State) (q : Fin 8) (v : Word)
    (h : s.ringLen pgCxl (l2qBase q.val) < idxGap (s.l2q q.val).inHead (fld v 15 0)) :
    hostL2qInboundTailWrite q v s = .next (s.ignored pgCxl) := by
  simp [hostL2qInboundTailWrite, h]

/-- Refutes O52: with check unit 0 on the CXL port, a tail outside the ring of a queue pair is not only counted: its write also feeds the
unit and takes a free value. -/
theorem not_hostLink : ¬ Obligations.HostLink := by
  rintro ⟨-, -, -, -, -, -, -, -, -, -, -, -, -, -, -, -, -, -, -, -, -, -, hpast, -⟩
  have hexec := hpast snoopingState 0 100 (by decide) (by decide) (by decide)
  have hcounts := hostL2qInboundTailWrite_past (snoopingState.chkCxl false) 0 100
    (by rw [State.chkCxl_ringLen, State.chkCxl_l2q]; decide)
  have hwrite : snoopingState.hostWrite pgCxl 0x10C 100 (hostL2qInboundTailWrite 0 100) = _ := hexec
  exact State.not_hostWrite_snooped hwrite (by decide) ⟨_, hcounts, State.ignored_fresh _ _⟩ (State.ignored_fresh _ _)

/-- A tail past the management ring is ignored and counted. -/
theorem hostManagementTxTailWrite_past (s : State) (p : EthPort) (v : Word)
    (h : s.ringLen (pgEth p.val) 0x600 < idxGap (s.ethp p.val).mtxHead (fld v 15 0)) :
    hostManagementTxTailWrite p v s = .next (s.ignored (pgEth p.val)) := by
  simp [hostManagementTxTailWrite, h]

/-- Refutes O53: with check unit 0 on the CXL port, a management tail outside the ring is not only counted: its write also feeds the unit
and takes a free value. -/
theorem not_ethernetPorts : ¬ Obligations.EthernetPorts := by
  rintro ⟨-, -, -, -, -, -, -, -, -, -, -, -, -, -, -, -, -, -, -, hpast, -⟩
  have hexec := hpast snoopingState 0 100 (by decide) (by decide) (by decide)
  have hcounts := hostManagementTxTailWrite_past (snoopingState.chkCxl false) 0 100
    (by rw [State.chkCxl_ringLen, State.chkCxl_ethp]; decide)
  have hwrite : snoopingState.hostWrite (pgEth 0) 0x60C 100 (hostManagementTxTailWrite 0 100) = _ := hexec
  exact State.not_hostWrite_snooped hwrite (by decide) ⟨_, hcounts, State.ignored_fresh _ _⟩ (State.ignored_fresh _ _)

/-! Trust, power and test (R467, R488, R500). -/

/-- BIND, taken or ignored, takes no free value. -/
theorem hostBind_fresh (s : State) (v : Word) : ∃ t, hostBind v s = .next t ∧ t.fresh = s.fresh := by
  unfold hostBind
  split
  · exact ⟨_, rfl, rfl⟩
  split
  · exact ⟨_, rfl, State.ignored_fresh _ _⟩
  · exact ⟨_, rfl, rfl⟩

/-- Refutes O54: with check unit 0 on the CXL port, BIND also feeds the unit and takes a free value. -/
theorem not_trustAndAttestation : ¬ Obligations.TrustAndAttestation := by
  rintro ⟨hbind, -⟩
  have hexec := hbind snoopingState 1 (by decide) (by decide) (by decide) (by decide)
  have hwrite : snoopingState.hostWrite pgSeed 0x120 1 (hostBind 1) = _ := hexec
  exact State.not_hostWrite_snooped hwrite (by decide) (hostBind_fresh _ 1) rfl

/-- A module reset with another KEY is ignored and counted. -/
theorem hostModuleReset_otherKey (s : State) (v : Word) (hreset : bitOf v 0 = true) (hkey : fld v 15 8 ≠ 0xA5) :
    hostModuleReset v s = .next (s.ignored pgPwr) := by
  simp [hostModuleReset, hreset, hkey]

/-- Refutes O55: with check unit 0 on the CXL port, a module reset with a wrong KEY is not only counted: its write also feeds the unit
and takes a free value. -/
theorem not_powerAndResets : ¬ Obligations.PowerAndResets := by
  rintro ⟨-, -, -, -, -, -, -, -, -, -, -, hignored, -⟩
  have hexec := hignored snoopingState 1 (by decide) (by decide) (by decide) (by decide)
  have hcounts := hostModuleReset_otherKey (snoopingState.chkCxl false) 1 (by decide) (by decide)
  have hwrite : snoopingState.hostWrite pgPwr 0x014 1 (hostModuleReset 1) = _ := hexec
  exact State.not_hostWrite_snooped hwrite (by decide) ⟨_, hcounts, State.ignored_fresh _ _⟩ (State.ignored_fresh _ _)

/-- DISARM takes no free value. -/
theorem hostInjectionDisarm_fresh (s : State) (v : Word) : ∃ t, hostInjectionDisarm v s = .next t ∧ t.fresh = s.fresh := by
  unfold hostInjectionDisarm
  split <;> exact ⟨_, rfl, rfl⟩

/-- Refutes O56: with check unit 0 on the CXL port, DISARM also feeds the unit and takes a free value. -/
theorem not_builtInTestAndCounters : ¬ Obligations.BuiltInTestAndCounters := by
  rintro ⟨-, -, -, -, -, -, -, -, -, -, -, -, -, -, -, -, -, hdisarm, -⟩
  have hexec := hdisarm snoopingState 0x20 (by decide) (by decide) (by decide)
  have hwrite : snoopingState.hostWrite pgBist 0x110 0x20 (hostInjectionDisarm 0x20) = _ := hexec
  exact State.not_hostWrite_snooped hwrite (by decide) (hostInjectionDisarm_fresh _ 0x20) rfl

end Sys2Proof.Machine
end

section
/-! PROOFS. Mailbox sends (O42) and combining buffers (O45): a notification line that the host holds, and an operation that waits for a
credit of its line. -/

namespace Sys2Proof.Machine
open Sys2Proof

/-! A send to a tenant whose notification line the host has cached (R329, R437, R514). -/

/-- A send by the manager that finds no send in progress, with the recorder off, is placed or refused. -/
theorem execMailboxSend_manager (s : State) (v : Word) (hrun : s.running = true) (hbusy : s.sendBusy .dom0 = false)
    (hrec : s.recMode = 0) :
    execMailboxSend .dom0 v s = .next (s.mailSend .dom0 v ((List.range 4).map (fun i => s.reg pgMap (0x300 + 4 * i)))) := by
  simp [execMailboxSend, hostMailboxSend, hrun, hbusy, State.replayed, hrec, sendPage]

/-- Tenant 3 is ACTIVE, with its event of a waiting message notified at address 64 of its memory, whose page stands in T2 and whose line
the host holds. -/
def hostHeldLineState : State :=
  ((({ State.reset with
      insts := [(3, { Inst.free with phase := .active, domain := 1, dmem := 1, key := some 0 })]
      cxl := { State.reset.cxl with hostLines := [devKey 3 64 / 64] } } : State).setHome
    (pageKeyOf 3 0) { Home.fresh with tier := .t2 }).setReg (pgMbx 3) 0x084 1).setReg (pgMbx 3) 0x140 64

/-- The state after a send without payload to tenant 3. -/
def hostHeldLineSent : State := hostHeldLineState.mailSend .dom0 3 [0, 0, 0, 0]

/-- The write of the notification line takes it back from the host. -/
theorem hostHeldLineSent_hostLines : hostHeldLineSent.cxl.hostLines = [] := by decide

/-- Refutes O42: a send that is placed writes the notification line of its target, and the host loses that line. -/
theorem not_instanceResetsAndMail : ¬ Obligations.InstanceResetsAndMail := by
  rintro ⟨-, -, -, -, -, -, -, -, hplaced, -⟩
  obtain ⟨u, hexec, -, -, hframe⟩ :=
    hplaced hostHeldLineState 3 (by decide) (by decide) (by decide) (by decide) (.inl (by decide)) (by decide)
  have hsend := execMailboxSend_manager hostHeldLineState 3 (by decide) (by decide) (by decide)
  obtain rfl : hostHeldLineSent = u := Host.Outcome.next.inj (hsend.symm.trans hexec)
  have hkept : hostHeldLineSent.cxl = hostHeldLineState.cxl := by rw [hframe]
  have hlines := hostHeldLineSent_hostLines
  rw [hkept] at hlines
  exact absurd hlines (by decide)

/-! A line of a combining buffer (R362, R363). -/

/-- A line that an operation outside the buffer touches does not leave it. -/
theorem execHotLineCool_outside (s : State) (d : DieId) (key t0 : Nat) (h : HotLine)
    (hline : (s.agent d.val).hot.find? (fun h => decide (h.key = key)) = some h) (hbuf : h.buf = some t0)
    (hwaits : (s.agent d.val).outside.any (fun q => (segLines q.2 q.1).contains key) = true) :
    execHotLineCool d key s = .next s := by
  have hany : ((s.agent d.val).queue ++ (s.agent d.val).outside).any (fun q => (segLines q.2 q.1).contains key) = true := by
    rw [List.any_append, hwaits, Bool.or_true]
  simp only [execHotLineCool, hline, hbuf, hany, Bool.or_true, if_true]

/-- A write of four bytes to region 0, which module 5 sent and which waits for a credit. -/
def creditWaiter : Segment × Region :=
  ({ src := 5, stream := 0, seq := 0, region := 0, grant := 0, key := 0, offset := 0, op := .write [0, 0, 0, 0], ctr := none
     mstore := false },
    { owner := .dom0, base := 0, pages := 1, atomic := false, ctrBase := 0, ctrN := 0 })

/-- The key of the line that it touches. -/
def creditLine : Nat := devKey (spaceIdx .dom0) 0 / 128

/-- Its line, in the buffer since the time 0, counts no operation. -/
def idleHotLine : HotLine := { key := creditLine, times := [], buf := some 0 }

/-- Die 0 at the time of 5 µs holds that line alone in its buffer. -/
def creditWaitState : State :=
  ({ State.reset with time := { State.reset.time with ns := 5000 } } : State).setAgent 0
    { wins := [], hot := [idleHotLine], exact := [], outside := [creditWaiter] }

/-- Refutes O45: a line without queued operations stays in the combining buffer while one that touches it waits for a credit outside. -/
theorem not_fabricDelivery : ¬ Obligations.FabricDelivery := by
  rintro ⟨-, -, -, -, -, -, -, -, -, -, -, -, -, -, -, -, -, -, -, -, -, -, -, -, -, -, -, -, hleaves, -⟩
  have hexec := hleaves creditWaitState 0 creditLine 0 idleHotLine (by decide) (by decide) (by decide) (by decide)
  have hstays := execHotLineCool_outside creditWaitState 0 creditLine 0 idleHotLine (by decide) rfl (by decide)
  have hhot := congrArg (fun t : State => (t.agent 0).hot) (Host.Outcome.next.inj (hstays.symm.trans hexec))
  exact absurd hhot (by decide)

end Sys2Proof.Machine
end

section
/-! PROOFS. Results of lane instructions (O15, O16). -/

namespace Sys2Proof.Machine
open Sys2Proof

/-! Accumulator slots (R128). -/

/-- A term added to an accumulator that has not saturated: the sum clamped, saturated where it was clamped. -/
theorem iaccAdd_open (a : IAcc) (t : Int) (h : a.sat = false) :
    iaccAdd 48 a t = { v := max (-(2 ^ 47)) (min (2 ^ 47 - 1) (a.v + t)), sat := decide (a.v + t < -(2 ^ 47) ∨ 2 ^ 47 - 1 < a.v + t) } := by
  simp only [iaccAdd, h, Bool.false_eq_true, if_false]
  split
  · next hhigh => simp; omega
  split
  · next hlow => simp; omega
  · next hhigh hlow => simp; omega

/-- A term added to a slot that is cleared first, or that has not saturated. -/
theorem slotAdd_clear (a : AcSlot) (t : Int) :
    (slotAdd a true t).1 = { val := max (-(2 ^ 47)) (min (2 ^ 47 - 1) t), sat := decide (t < -(2 ^ 47) ∨ 2 ^ 47 - 1 < t) } := by
  simp [slotAdd, iaccAdd_open]

theorem slotAdd_open (a : AcSlot) (t : Int) (h : a.sat = false) :
    (slotAdd a false t).1 =
      { val := max (-(2 ^ 47)) (min (2 ^ 47 - 1) (a.val + t)), sat := decide (a.val + t < -(2 ^ 47) ∨ 2 ^ 47 - 1 < a.val + t) } := by
  simp [slotAdd, iaccAdd_open, h]

/-- A slot that has saturated keeps its value. -/
theorem slotAdd_saturated (a : AcSlot) (t : Int) (h : a.sat = true) : (slotAdd a false t).1 = a := by
  cases a
  simp_all [slotAdd, iaccAdd]

/-- SAT_ACC tells of a slot that saturates now. -/
theorem slotAdd_satAcc_open (a : AcSlot) (t : Int) (h : a.sat = false) : (slotAdd a false t).2.satAcc = (slotAdd a false t).1.sat := by
  simp [slotAdd, h]

/-- Settles O15, from what a term does to a slot that is cleared, that has not saturated, and that has. -/
theorem accumulatorSlotsNeverWrap : Obligations.AccumulatorSlotsNeverWrap := by
  refine ⟨fun a t hopen _ => ⟨?_, ?_, slotAdd_satAcc_open a t hopen⟩, fun a t hsat _ => slotAdd_saturated a t hsat, fun a t => ?_⟩
  · rw [slotAdd_open a t hopen]
  · rw [slotAdd_open a t hopen]
  · rw [slotAdd_clear]

/-! Vector results (R125, R127). -/

/-- A sum or difference of 16 bits is clamped, and sets SAT_OUT where it was. -/
theorem sat16_val (v : Int) : (sat16 v).1 = twos 16 (max (-32768) (min 32767 v)) := by
  unfold sat16
  split
  · next h => rw [Int.min_eq_left h.le]; rfl
  split
  · next h => rw [Int.min_eq_right (by omega), Int.max_eq_left h.le]
  · next h => rw [Int.min_eq_right (by omega), Int.max_eq_right (by omega)]

theorem sat16_satOut (v : Int) : (sat16 v).2.satOut = decide (v < -32768 ∨ 32767 < v) := by
  unfold sat16
  split
  · next h => simp [h]
  split
  · next h => simp [h]
  · next h => simp; omega

/-- SAT_OUT of several results is set where one of them sets it. -/
theorem foldl_or_satOut (fs : List AFlags) (a : AFlags) : (fs.foldl AFlags.or a).satOut = (a.satOut || fs.any (·.satOut)) := by
  induction fs generalizing a with
  | nil => simp
  | cons f fs ih => simp [ih, AFlags.or, Bool.or_assoc]

theorem orFlags_satOut (fs : List AFlags) : (orFlags fs).satOut = fs.any (·.satOut) := by
  simp [orFlags, foldl_or_satOut]

/-- A vector result that does not round, in a register that exists. -/
theorem vEff_ok (i : LIns) (w : Nat) (es : List (Nat × AFlags)) (h : i.rd < 8) :
    vEff i w es false = .ok { vreg := some (i.rd, vOf w (es.map (·.1))), flags := orFlags (es.map (·.2)) } := by
  simp [vEff, h]

/-- Eight saturating results. -/
theorem vEff_sat16 (i : LIns) (f : Nat → Int) (h : i.rd < 8) : ∃ e, vEff i 16 ((List.range 8).map (fun k => sat16 (f k))) false = .ok e ∧
    e.vreg = some (i.rd, vOf 16 ((List.range 8).map (fun k => twos 16 (max (-32768) (min 32767 (f k)))))) ∧
    e.flags.satOut = (List.range 8).any (fun k => decide (f k < -32768 ∨ 32767 < f k)) ∧ e.sreg = none ∧ e.areg = none := by
  refine ⟨_, vEff_ok i 16 _ h, ?_, ?_, rfl, rfl⟩
  · simp only [List.map_map, Function.comp_def, sat16_val]
  · simp only [orFlags_satOut, List.any_map, Function.comp_def, sat16_satOut]

/-- Terms added to the slots of an accumulator that exists. -/
theorem acEff_ok (i : LIns) (x : LaneCtx) (clear : Bool) (term : Nat → Int) (h : i.rd < 4) : ∃ e, acEff i x clear term = .ok e ∧
    e.areg = some (i.rd, (List.range 8).map (fun k => (slotAdd ((x.getAc i.rd).getD k { val := 0, sat := false }) clear (term k)).1)) ∧
    e.vreg = none ∧ e.sreg = none := by
  have hrd : ¬4 ≤ i.rd := Nat.not_le.2 h
  refine ⟨_, by simp only [acEff, hrd, if_false]; rfl, ?_, rfl, rfl⟩
  simp only [List.map_map, Function.comp_def]

/-- The sign that MOD gives a term. -/
theorem ite_neg_one_mul (c : Prop) [Decidable c] (t : Int) : (if c then (-1 : Int) else 1) * t = if c then -t else t := by
  split <;> simp

/-! Shifts (R125). -/

theorem shiftLeft_ite (a b : Word) : a <<< b.toNat = if 32 ≤ b.toNat then 0 else a <<< b.toNat := by
  split
  · next h => exact BitVec.shiftLeft_eq_zero h
  · rfl

theorem ushiftRight_ite (a b : Word) : a >>> b.toNat = if 32 ≤ b.toNat then 0 else a >>> b.toNat := by
  split
  · next h => exact BitVec.ushiftRight_eq_zero h
  · rfl

theorem sshiftRight_ite (a b : Word) :
    a.sshiftRight b.toNat = if 32 ≤ b.toNat then (if a.msb then 0xFFFFFFFF else 0) else a.sshiftRight b.toNat := by
  split
  · next h =>
    have hones : (0xFFFFFFFF : Word) = BitVec.allOnes 32 := rfl
    refine BitVec.eq_of_getElem_eq (fun j hj => ?_)
    rw [BitVec.getElem_sshiftRight, dif_neg (by omega), hones]
    cases a.msb
    · simp
    · exact (BitVec.getElem_allOnes j hj).symm
  · rfl

/-- SALU by MOD (R125). -/
theorem saluEff_eq (i : LIns) (x : LaneCtx) : saluEff i x =
    (let a := x.getS i.ra
     let b := x.getS i.rb
     if i.mod = 0 then .ok { sreg := some (i.rd, a + b) } else if i.mod = 1 then .ok { sreg := some (i.rd, a - b) }
     else if i.mod = 2 then .ok { sreg := some (i.rd, a &&& b) } else if i.mod = 3 then .ok { sreg := some (i.rd, a ||| b) }
     else if i.mod = 4 then .ok { sreg := some (i.rd, a ^^^ b) }
     else if i.mod = 5 then .ok { sreg := some (i.rd, if 32 ≤ b.toNat then 0 else a <<< b.toNat) }
     else if i.mod = 6 then .ok { sreg := some (i.rd, if 32 ≤ b.toNat then 0 else a >>> b.toNat) }
     else if i.mod = 7 then .ok { sreg := some (i.rd, if 32 ≤ b.toNat then (if a.msb then 0xFFFFFFFF else 0) else a.sshiftRight b.toNat) }
     else if i.mod = 8 then .ok { sreg := some (i.rd, if a.toInt < b.toInt then a else b) }
     else if i.mod = 9 then .ok { sreg := some (i.rd, if a.toInt < b.toInt then b else a) } else .error .illegal) := by
  extract_lets a b
  rw [← shiftLeft_ite, ← ushiftRight_ite, ← sshiftRight_ite]
  simp only [saluEff, BitVec.slt_iff_toInt_lt]
  by_cases hmod : i.mod < 10
  case pos => interval_cases i.mod <;> rfl
  case neg =>
    have hne (n : Nat) (hn : n < 10) : i.mod ≠ n := by omega
    simp [hne]

/-- GETA by MOD[1:0] (R125). -/
theorem getaEff_eq (i : LIns) (x : LaneCtx) : getaEff i x = .ok { sreg := some (i.rd,
    if i.mod % 4 = 0 then (x.p.getD (i.ra % 8) 0).setWidth 32 else if i.mod % 4 = 1 then (x.n.getD (i.ra % 8) 0).signExtend 32
    else if i.mod % 4 = 2 then (x.base.getD (i.ra % 8) 0).setWidth 32 else w32 (x.len.getD (i.ra % 8) 0)) } := by
  have hmod : i.mod % 4 < 4 := Nat.mod_lt _ (by decide)
  simp only [getaEff]
  interval_cases i.mod % 4 <;> rfl

/-- CMP writes Z, LT and LTU alone (R125). -/
theorem LaneCtx.compare_eq (x : LaneCtx) (a b : Word) :
    x.compare a b = { x with z := decide (a = b), lt := decide (a.toInt < b.toInt), ltu := decide (a.toNat < b.toNat) } := rfl

/-- A vector register past V7 is ILLEGAL as V_RA or AC_RA, whatever the instruction (R125). -/
theorem vectorEff_illegal (i : LIns) (x : LaneCtx) (h : 8 ≤ i.ra) :
    vcmulEff i x = .error .illegal ∧ vrdacEff i x = .error .illegal ∧ vsclacEff i x = .error .illegal ∧ vmag2Eff i x = .error .illegal ∧
      vrcpEff i x = .error .illegal ∧ vcvtEff i x = .error .illegal := by
  have hac : 4 ≤ i.ra := le_trans (by decide) h
  have hcvt : vcvtEff i x = .error .illegal := by
    unfold vcvtEff
    split
    · simp [h]
    · rfl
  exact ⟨by simp [vcmulEff, h], by simp [vrdacEff, hac], by simp [vsclacEff, hac], by simp [vmag2Eff, h], by simp [vrcpEff, h], hcvt⟩

/-- VSPLAT by MOD (R125). -/
theorem vsplatEff_vreg (i : LIns) (x : LaneCtx) (hrd : i.rd < 8) (hmod : i.mod < 2) : ∃ e, vsplatEff i x = .ok e ∧
    e.vreg = some (i.rd,
      if i.mod = 0 then vOf 16 (List.replicate 8 ((x.getS i.ra).toNat % 65536)) else vOf 32 (List.replicate 4 (x.getS i.ra).toNat)) := by
  simp only [vsplatEff]
  interval_cases i.mod
  · exact ⟨_, vEff_ok i 16 _ hrd, rfl⟩
  · exact ⟨_, vEff_ok i 32 _ hrd, rfl⟩

/-- Settles O16, from the rules for saturating elements, accumulator terms and shifts above. -/
theorem vectorLaneResults : Obligations.VectorLaneResults := by
  have hreg {n : Nat} (h : n < 8) : ¬8 ≤ n := Nat.not_le.2 h
  refine ⟨?valu, ?vmac, ?vmacs, ?vcmac, vsplatEff_vreg, vectorEff_illegal, saluEff_eq, fun i x => ⟨rfl, rfl⟩, LaneCtx.compare_eq, getaEff_eq⟩
  case valu =>
    rintro i x ⟨hra, hrb, hrd⟩ hmod
    simp only [valuEff, hreg hra, hreg hrb, decide_false, Bool.or_false, Bool.false_eq_true, if_false]
    interval_cases i.mod
    · exact vEff_sat16 i (fun k => v16 (x.getV i.ra) k + v16 (x.getV i.rb) k) hrd
    · exact vEff_sat16 i (fun k => v16 (x.getV i.ra) k - v16 (x.getV i.rb) k) hrd
  case vmac =>
    rintro i x ⟨hra, hrb, hrd⟩
    simp only [vmacEff, hreg hra, hreg hrb, decide_false, Bool.or_false, Bool.false_eq_true, if_false, ite_neg_one_mul]
    exact acEff_ok i x (i.mod % 2 = 1) _ hrd
  case vmacs =>
    rintro i x ⟨hra, hrd⟩
    simp only [vmacsEff, hreg hra, if_false, ite_neg_one_mul]
    exact acEff_ok i x (i.mod % 2 = 1) _ hrd
  case vcmac =>
    rintro i x ⟨hra, hrb, hrd⟩
    simp only [vcmacEff, hreg hra, hreg hrb, decide_false, Bool.or_false, Bool.false_eq_true, if_false, ite_neg_one_mul]
    obtain ⟨e, he, hareg, hvreg, -⟩ := acEff_ok i x (i.mod % 2 = 1) _ hrd
    refine ⟨e, he, hareg.trans ?_, hvreg⟩
    simp only [cmul16, cmulI, Nat.mul_comm 2, decide_eq_true_eq]

end Sys2Proof.Machine
end

section
/-! PROOFS. Registers (R12 to R15): a write of memory, an event, a message to a host and a fault of a lane context write none of the
registers that software writes. One lemma for each operation, in the order of the model; the proofs on lanes use them. -/

namespace Sys2Proof.Machine
open Sys2Proof

/-- Two states with the same registers as last written. The kernel compares two such statements state by state. -/
def State.SameRaw (s t : State) : Prop := t.regs.raw = s.regs.raw

@[simp] theorem State.sameRaw_iff (s t : State) : s.SameRaw t ↔ t.regs.raw = s.regs.raw := Iff.rfl

@[simp] theorem State.raw_ite (c : Prop) [Decidable c] (a b : State) :
    (if c then a else b).regs.raw = if c then a.regs.raw else b.regs.raw :=
  apply_ite (fun t : State => t.regs.raw) c a b

@[simp] theorem State.snd_raw_ite {α : Type} (c : Prop) [Decidable c] (a b : α × State) :
    (if c then a else b).2.regs.raw = if c then a.2.regs.raw else b.2.regs.raw :=
  apply_ite (fun p : α × State => p.2.regs.raw) c a b

@[simp] theorem foldS_raw {β : Type} (l : List β) (f : β → State → State) (a : State) (h : ∀ x (t : State), t.SameRaw (f x t)) :
    (foldS l f a).regs.raw = a.regs.raw :=
  foldS_keeps (P := fun t => t.regs.raw = a.regs.raw) l (fun x _ t ht => (h x t).trans ht) rfl

@[simp] theorem foldN_raw (n : Nat) (f : Nat → State → State) (a : State) (h : ∀ i (t : State), t.SameRaw (f i t)) :
    (foldN n f a).regs.raw = a.regs.raw :=
  foldS_raw (List.range n) f a h

/-- The state part of a pair that has been taken apart. -/
theorem State.raw_of_pair {α : Type} {p : α × State} {a : α} {t : State} (h : p = (a, t)) : t.regs.raw = p.2.regs.raw := by rw [h]

@[simp] theorem State.updLane_raw (s : State) (l : Nat) (f : Lane → Lane) : (s.updLane l f).regs.raw = s.regs.raw := by
  rfl

@[simp] theorem State.updLctx_raw (s : State) (l c : Nat) (f : LaneCtx → LaneCtx) : (s.updLctx l c f).regs.raw = s.regs.raw := by
  rfl

@[simp] theorem State.updCell_raw (s : State) (c : Nat) (f : Cell → Cell) : (s.updCell c f).regs.raw = s.regs.raw := by
  rfl

@[simp] theorem State.updEth_raw (s : State) (p : Nat) (f : EthSt → EthSt) : (s.updEth p f).regs.raw = s.regs.raw := by
  rfl

@[simp] theorem State.latch_raw (s : State) (p : Page) (raw pulse : Word) : (s.latch p raw pulse).regs.raw = s.regs.raw := by
  rfl

@[simp] theorem State.dropRun_raw (s : State) (die a : Nat) : (s.dropRun die a).regs.raw = s.regs.raw := by
  rfl

@[simp] theorem State.addRun_raw (s : State) (die a n : Nat) : (s.addRun die a n).regs.raw = s.regs.raw := by
  simp [State.addRun]

@[simp] theorem State.notifyBar0_raw (s : State) (p : Page) : (s.notifyBar0 p).regs.raw = s.regs.raw := by
  rw [State.notifyBar0_frame]

@[simp] theorem State.level_raw (s : State) (p : Page) (b : Nat) (on : Bool) : (s.level p b on).regs.raw = s.regs.raw := by
  rw [State.level_frame]

@[simp] theorem State.updHome_raw (s : State) (pk : Nat) (f : Home → Home) : (s.updHome pk f).regs.raw = s.regs.raw := by
  rfl

@[simp] theorem State.dropHomeRun_raw (s : State) (h : Home) : (s.dropHomeRun h).regs.raw = s.regs.raw := by
  simp [State.dropHomeRun]

@[simp] theorem State.heatUp_raw (s : State) (pk : Nat) : (s.heatUp pk).regs.raw = s.regs.raw := by
  rfl

@[simp] theorem State.exactPressure_raw (s : State) (d die : Nat) : (s.exactPressure d die).regs.raw = s.regs.raw := by
  simp [State.exactPressure]

@[simp] theorem State.allocLine_raw (s : State) (d pk line : Nat) (dirty pf : Bool) :
    (s.allocLine d pk line dirty pf).regs.raw = s.regs.raw := by
  simp only [State.allocLine]
  split
  · simp
  · split <;> simp

@[simp] theorem State.countUe_raw (s : State) (ctl : Nat) : (s.countUe ctl).regs.raw = s.regs.raw := by
  rfl

@[simp] theorem State.poisonLine_raw (s : State) (pk line : Nat) : (s.poisonLine pk line).regs.raw = s.regs.raw := by
  rfl

@[simp] theorem State.clearPoison_raw (s : State) (pk line : Nat) : (s.clearPoison pk line).regs.raw = s.regs.raw := by
  simp [State.clearPoison]

@[simp] theorem State.useInj_raw (s : State) (point target : Nat) : (s.useInj point target).2.regs.raw = s.regs.raw := by
  unfold State.useInj
  split <;> simp

@[simp] theorem State.noCandidate_raw (s : State) (die : Nat) : (s.noCandidate die).regs.raw = s.regs.raw := by
  simp [State.noCandidate]

@[simp] theorem State.startDemotion_raw (s : State) (pk : Nat) : (s.startDemotion pk).2.regs.raw = s.regs.raw := by
  simp only [State.startDemotion]
  split <;> simp

@[simp] theorem State.demoteTo_raw (s : State) (d die mark fuel : Nat) : (s.demoteTo d die mark fuel).regs.raw = s.regs.raw := by
  induction fuel generalizing s with
  | zero => rfl
  | succ fuel ih =>
    unfold State.demoteTo
    split
    · split
      · simp
      · simp [ih]
    · rfl

@[simp] theorem State.waterCheck_raw (s : State) (d die : Nat) (going : Bool) :
    (s.waterCheck d die going).regs.raw = s.regs.raw := by
  simp [State.waterCheck]

@[simp] theorem State.waitMove_raw (s : State) (pk : Nat) (k : MoveKind) (tag : Nat) :
    (s.waitMove pk k tag).regs.raw = s.regs.raw := by
  rfl

@[simp] theorem State.logRetire_raw (s : State) (f : Nat) : (s.logRetire f).regs.raw = s.regs.raw := by
  rfl

@[simp] theorem State.makeRoom_raw (s : State) (pk d die : Nat) : (s.makeRoom pk d die).regs.raw = s.regs.raw := by
  unfold State.makeRoom
  split
  · split <;> simp
  · simp

@[simp] theorem State.rehomeDest_raw (s : State) (pk f : Nat) : (s.rehomeDest pk f).2.regs.raw = s.regs.raw := by
  simp only [State.rehomeDest]
  split
  · simp
  · split <;> simp

@[simp] theorem State.startRehome_raw (s : State) (pk f : Nat) : (s.startRehome pk f).regs.raw = s.regs.raw := by
  unfold State.startRehome
  split
  · simp
  · split <;> simp [State.raw_of_pair ‹_ = (_, _)›]

@[simp] theorem State.retire_raw (s : State) (f : Nat) : (s.retire f).regs.raw = s.regs.raw := by
  unfold State.retire
  repeat' split
  all_goals simp

@[simp] theorem State.correctedAt_raw (s : State) (f : Nat) : (s.correctedAt f).regs.raw = s.regs.raw := by
  simp [State.correctedAt]

@[simp] theorem State.uncorrectedAt_raw (s : State) (f pk line : Nat) : (s.uncorrectedAt f pk line).regs.raw = s.regs.raw := by
  simp [State.uncorrectedAt]

@[simp] theorem State.hbmRead_raw (s : State) (d pk line : Nat) : (s.hbmRead d pk line).regs.raw = s.regs.raw := by
  simp only [State.hbmRead]
  split
  · rfl
  · split
    · rfl
    · simp [State.raw_of_pair ‹_ = (_, _)›]

@[simp] theorem State.canopyHit_raw (s : State) (d die pk line : Nat) (dirty : Bool) :
    (s.canopyHit d die pk line dirty).regs.raw = s.regs.raw := by
  simp only [State.canopyHit]
  split
  · rfl
  · split
    · rfl
    · simp [State.raw_of_pair ‹_ = (_, _)›]

@[simp] theorem State.takeGrant_raw (s : State) (d pt : Nat) : (s.takeGrant d pt).regs.raw = s.regs.raw := by
  rw [State.takeGrant_frame]

@[simp] theorem State.lineAccess_raw (s : State) (d pk line : Nat) (wr full : Bool) :
    (s.lineAccess d pk line wr full).regs.raw = s.regs.raw := by
  simp only [State.lineAccess]
  split
  · simp
  split
  · simp
  · split <;> simp

@[simp] theorem State.enterT2_raw (s : State) (pk f : Nat) : (s.enterT2 pk f).regs.raw = s.regs.raw := by
  simp [State.enterT2]

@[simp] theorem State.frameFor_raw (s : State) (pk die base : Nat) : (s.frameFor pk die base).2.regs.raw = s.regs.raw := by
  simp only [State.frameFor]
  split <;> simp

@[simp] theorem State.startPromotion_raw (s : State) (pk tag : Nat) : (s.startPromotion pk tag).regs.raw = s.regs.raw := by
  simp only [State.startPromotion]
  split
  · simp
  split
  · simp
  split
  · simp
  · split <;> simp [State.raw_of_pair ‹_ = (_, _)›]

@[simp] theorem State.waitOn_raw (s : State) (pk : Nat) (what : WaitWhat) (t3 : Bool) (tag : Nat) (late : Bool) :
    (s.waitOn pk what t3 tag late).regs.raw = s.regs.raw := by
  simp [State.waitOn]

@[simp] theorem State.backFree_raw (s : State) (pk : Nat) : (s.backFree pk).regs.raw = s.regs.raw := by
  unfold State.backFree
  split
  · simp
  · split <;> simp

@[simp] theorem State.setMark_raw (s : State) (va bit : Nat) : (s.setMark va bit).regs.raw = s.regs.raw := by
  simp [State.setMark]

@[simp] theorem State.logDirty_raw (s : State) (sp : Space) (p : Nat) : (s.logDirty sp p).regs.raw = s.regs.raw := by
  unfold State.logDirty
  split <;> simp

@[simp] theorem State.endExact_raw (s : State) (k va len : Nat) : (s.endExact k va len).regs.raw = s.regs.raw := by
  simp [State.endExact]

@[simp] theorem State.snoopHost_raw (s : State) (k va len : Nat) : (s.snoopHost k va len).regs.raw = s.regs.raw := by
  simp only [State.snoopHost]
  split
  · rfl
  · exact foldS_raw _ _ _ (by simp)

@[simp] theorem State.landBytes_raw (s : State) (sp : Space) (va : Nat) (bs : List Byte) :
    (s.landBytes sp va bs).regs.raw = s.regs.raw := by
  simp [State.landBytes]

@[simp] theorem State.touchWrite_raw (s : State) (sp : Space) (va len : Nat) :
    (s.touchWrite sp va len).regs.raw = s.regs.raw := by
  simp [State.touchWrite]

@[simp] theorem State.landDev_raw (s : State) (sp : Space) (va : Nat) (bs : List Byte) :
    (s.landDev sp va bs).regs.raw = s.regs.raw := by
  simp [State.landDev]

@[simp] theorem State.putDevTag_raw (s : State) (tag : Nat) (sp : Space) (va : Nat) (bs : List Byte) :
    (s.putDevTag tag sp va bs).regs.raw = s.regs.raw := by
  simp [State.putDevTag]

@[simp] theorem State.putDev_raw (s : State) (sp : Space) (va : Nat) (bs : List Byte) :
    (s.putDev sp va bs).regs.raw = s.regs.raw := by
  simp [State.putDev]

@[simp] theorem State.poisonPages_raw (s : State) (pks : List Nat) : (s.poisonPages pks).regs.raw = s.regs.raw := by
  simp [State.poisonPages]

@[simp] theorem State.storeDev_raw (s : State) (sp : Space) (va : Nat) (bs : List Byte) :
    (s.storeDev sp va bs).2.regs.raw = s.regs.raw := by
  unfold State.storeDev
  split <;> simp

@[simp] theorem State.irqLine_raw (s : State) (i : Nat) : (s.irqLine i).regs.raw = s.regs.raw := by
  simp only [State.irqLine]
  split
  · rfl
  · split <;> simp [State.raw_of_pair ‹_ = (_, _)›]

@[simp] theorem State.notify_raw (s : State) (p : Page) : (s.notify p).regs.raw = s.regs.raw := by
  simp [State.notify]

@[simp] theorem State.evt_raw (s : State) (p : Page) (raw pulse : Word) : (s.evt p raw pulse).regs.raw = s.regs.raw := by
  simp [State.evt]

@[simp] theorem State.mbxLevel_raw (s : State) (i b : Nat) (on : Bool) : (s.mbxLevel i b on).regs.raw = s.regs.raw := by
  simp [State.mbxLevel]

@[simp] theorem State.watchRise_raw (s : State) (target : Nat) : (s.watchRise target).regs.raw = s.regs.raw := by
  simp [State.watchRise]

@[simp] theorem State.laneMbEvt_raw (s : State) (l : Nat) : (s.laneMbEvt l).regs.raw = s.regs.raw := by
  simp [State.laneMbEvt]

@[simp] theorem State.putHost_raw (s : State) (va : Nat) (bs : List Byte) : (s.putHost va bs).regs.raw = s.regs.raw := by
  simp [State.putHost, State.chkCxl_raw]

theorem State.SameRaw.putHost {s t : State} (h : s.SameRaw t) (va : Nat) (bs : List Byte) : s.SameRaw (t.putHost va bs) :=
  (t.putHost_raw va bs).trans h

theorem State.SameRaw.emit {s t : State} (h : s.SameRaw t) (m : Output) : s.SameRaw (t.emit m) := h

theorem State.SameRaw.setL2q {s t : State} (h : s.SameRaw t) (q : Nat) (x : L2q) : s.SameRaw (t.setL2q q x) := h

@[simp] theorem State.l2qWrite_raw (s : State) (q cell : Nat) (ws : List Word) :
    (s.l2qWrite q cell ws).regs.raw = s.regs.raw := by
  suffices s.SameRaw (s.l2qWrite q cell ws) from this
  have hself : s.SameRaw s := rfl
  unfold State.l2qWrite
  exact .emit (.setL2q (.putHost (.putHost (.putHost hself _ _) _ _) _ _) _ _) _

@[simp] theorem State.queueFrame_raw (s : State) (p : Nat) (f : EgressFrame) : (s.queueFrame p f).regs.raw = s.regs.raw := by
  simp [State.queueFrame]

@[simp] theorem State.payloadSend_raw (s : State) (cell : Nat) (d : List Word) (msgid : Nat) (ws : List Word) (deadline : Nat) :
    (s.payloadSend cell d msgid ws deadline).regs.raw = s.regs.raw := by
  simp only [State.payloadSend]
  split <;> simp

@[simp] theorem State.sendSlot_raw (s : State) (c : Nat) (d : List Word) (type sfn slot : Nat) (st : Code)
    (pdus : List (List Word)) (deadline : Nat) : (s.sendSlot c d type sfn slot st pdus deadline).regs.raw = s.regs.raw := by
  simp [State.sendSlot]

@[simp] theorem State.errorInd_raw (s : State) (c : Nat) (d : List Word) (sfn slot : Nat) (handle : Word) (type : Nat)
    (st : Code) (seq pduType : Nat) : (s.errorInd c d sfn slot handle type st seq pduType).regs.raw = s.regs.raw := by
  simp [State.errorInd]

@[simp] theorem State.cellFault_raw (s : State) (c : Nat) : (s.cellFault c).regs.raw = s.regs.raw := by
  simp only [State.cellFault]
  split
  · rfl
  · refine (foldS_raw _ _ _ fun y t => ?_).trans (by simp)
    repeat' split
    all_goals simp

@[simp] theorem State.laneFault_raw (s : State) (l c : Nat) (f : LaneFault) : (s.laneFault l c f).regs.raw = s.regs.raw := by
  simp [State.laneFault]

@[simp] theorem State.bumpLane_raw (s : State) (l : Nat) (f : AFlags) : (s.bumpLane l f).regs.raw = s.regs.raw := by
  simp [State.bumpLane]

@[simp] theorem State.laneStores_raw (s : State) (l c : Nat) (x : LaneCtx) (ms : List Move1) :
    (s.laneStores l c x ms).regs.raw = s.regs.raw := by
  simp [State.laneStores]

end Sys2Proof.Machine
end

section
/-! PROOFS. An instruction of a DSP lane, from its fetch to its clocks (used by O13, O17 and O18). -/

namespace Sys2Proof.Machine
open Sys2Proof

/-! What a register, a lane and a context read after the updates that an instruction makes. -/

theorem State.reg_of_raw {s t : State} (h : t.regs.raw = s.regs.raw) (p : Page) (o : Nat) : t.reg p o = s.reg p o := by
  unfold State.reg; rw [h]

@[simp] theorem State.updLane_self (s : State) (l : Nat) (f : Lane → Lane) : (s.updLane l f).lane l = f (s.lane l) := s.setLane_self l _

@[simp] theorem Lane.setCtx_self (y : Lane) (c : Nat) (x : LaneCtx) : (y.setCtx c x).ctx c = x := by
  simp [Lane.setCtx, Lane.ctx]

@[simp] theorem State.setLane_lctx (s : State) (l c : Nat) (y : Lane) : (s.setLane l y).lctx l c = y.ctx c := by
  rw [State.lctx, State.setLane_self]

/-! The instruction at the running context's PC (R122, R144). -/

/-- Context c of lane l runs, enabled, at a well-formed instruction i, fetched from program memory or from the loop cache. -/
structure State.StandsAt (s : State) (l c : Nat) (i : LIns) : Prop where
  running : (s.lane l).running = true
  runCtx : (s.lane l).runCtx = c
  runs : (s.lctx l c).state = .run
  noInj : s.bist.inj.find 2 = none
  enabled : bitOf (s.reg (pgLane l) (0x100 + 0x20 * c)) 0 = true
  inSegment : (s.lctx l c).pc < s.psize l c
  fetched : ∃ w k, s.fetchWord l = some (w, s.setLane l { s.lane l with cache := k }) ∧ decodeLane w = i
  fieldsOk : laneFieldsOk i = true

/-- Without an armed injection a read of lane memory meets no error and changes nothing (R118, R500). -/
theorem State.laneRead_noInj {s : State} (h : s.bist.inj.find 2 = none) (l m b len : Nat) : s.laneRead l m b len = (false, s) := by
  simp [State.laneRead, h]

/-- Without one, a fetch changes the loop cache alone. -/
theorem State.fetchWord_noInj {s t : State} (h : s.bist.inj.find 2 = none) {l w : Nat} (hf : s.fetchWord l = some (w, t)) :
    ∃ k, t = s.setLane l { s.lane l with cache := k } := by
  simp only [State.fetchWord, State.laneRead_noInj h] at hf
  split at hf
  · exact ⟨_, (Prod.mk.inj (Option.some.inj hf)).2.symm⟩
  · exact ⟨_, (Prod.mk.inj (Option.some.inj hf)).2.symm⟩

theorem State.laneAt_standsAt {s : State} {l c : Nat} {i : LIns} (h : s.laneAt l c i = true) : s.StandsAt l c i := by
  simp only [State.laneAt, Bool.and_eq_true, decide_eq_true_eq, Option.isNone_iff_eq_none] at h
  obtain ⟨⟨⟨⟨⟨⟨⟨hrunning, hctx⟩, hruns⟩, hinj⟩, henabled⟩, hseg⟩, hfetch⟩, hfields⟩ := h
  refine ⟨hrunning, hctx, hruns, hinj, henabled, hseg, ?_, hfields⟩
  split at hfetch
  · next r hr =>
    obtain ⟨k, hk⟩ := State.fetchWord_noInj hinj (w := r.1) (t := r.2) hr
    exact ⟨r.1, k, by rw [hr, ← hk], of_decide_eq_true hfetch⟩
  · cases hfetch

/-! The issue (R125, R126). -/

/-- A lane after an issue by context c: the loop cache, the results in flight and the clock of the next issue. -/
def Lane.issued (y : Lane) (c : Nat) (cache due : List (Nat × Nat)) (free : Nat) : Lane :=
  { y.setCtx c { y.ctx c with due := due } with cache := cache, free := free }

/-- A context with other results in flight. -/
def LaneCtx.withDue (x : LaneCtx) (due : List (Nat × Nat)) : LaneCtx := { x with due := due }

@[simp] theorem Lane.issued_ctx (y : Lane) (c : Nat) (cache due : List (Nat × Nat)) (free : Nat) :
    (y.issued c cache due free).ctx c = (y.ctx c).withDue due := y.setCtx_self c _

section Begun
variable {s : State} {l c : Nat} {i : LIns} (h : s.StandsAt l c i)
include h

/-- A fetch and an issue change the lane's loop cache, results in flight and next issue, and a counter of its page. -/
theorem State.StandsAt.begun : ∃ k d t w, s.laneBegun l c i = (s.setLane l ((s.lane l).issued c k d t)).bump (pgLane l) 1 w := by
  obtain ⟨w, k, hf, -⟩ := h.fetched
  simp only [State.laneBegun, hf, State.laneIssueAt, State.setLane_self, State.setLane_setLane]
  exact ⟨k, _, _, _, rfl⟩

theorem State.StandsAt.begun_frame : s.laneBegun l c i =
    { s with lanes := s.lanes.set l ((s.laneBegun l c i).lane l), regs := { s.regs with scal := (s.laneBegun l c i).regs.scal } } := by
  obtain ⟨k, d, t, w, hb⟩ := h.begun
  rw [hb, State.bump_frame]
  simp [State.setLane, State.lane]

theorem State.StandsAt.begun_raw : (s.laneBegun l c i).regs.raw = s.regs.raw := by rw [h.begun_frame]

theorem State.StandsAt.begun_reg (p : Page) (o : Nat) : (s.laneBegun l c i).reg p o = s.reg p o := State.reg_of_raw h.begun_raw p o

theorem State.StandsAt.begun_psize (k : Nat) : (s.laneBegun l c i).psize l k = s.psize l k := by
  unfold State.psize; rw [h.begun_reg]

theorem State.StandsAt.begun_window (m : Nat) : (s.laneBegun l c i).window l c m = s.window l c m := by
  unfold State.window; rw [h.begun_reg]

theorem State.StandsAt.begun_noInj : (s.laneBegun l c i).bist.inj.find 2 = none := by rw [h.begun_frame]; exact h.noInj

theorem State.StandsAt.begun_now32 : (s.laneBegun l c i).now32 = s.now32 := by rw [h.begun_frame]; rfl

theorem State.StandsAt.begun_ctr (die a : Nat) : (s.laneBegun l c i).ctr die a = s.ctr die a := by rw [h.begun_frame]; rfl

/-- The lane keeps all but its loop cache, its next issue and the running context's results in flight. -/
theorem State.StandsAt.begun_lane : ∃ k d t, (s.laneBegun l c i).lane l = (s.lane l).issued c k d t := by
  obtain ⟨k, d, t, w, hb⟩ := h.begun
  refine ⟨k, d, t, ?_⟩
  rw [hb, State.bump_frame]
  exact s.setLane_self l _

theorem State.StandsAt.begun_lctx : ∃ d, (s.laneBegun l c i).lctx l c = (s.lctx l c).withDue d := by
  obtain ⟨k, d, t, hy⟩ := h.begun_lane
  exact ⟨d, by rw [State.lctx, hy, Lane.issued_ctx]; rfl⟩

/-- A row runs the instruction that the running context stands at, if its operation is the row's, and lets its clocks pass. The context
goes on, or faults, where what ran left its ENABLE. -/
theorem State.StandsAt.row {op : Nat} {run : State → Nat → LIns → State} {u : State} (hop : i.op = op) (hknown : op ∈ laneOps)
    (hrun : run (s.laneBegun l c i) c i = u) (hraw : u.regs.raw = (s.laneBegun l c i).regs.raw) :
    (.next (s.laneRow l op run) : Ans) = .next (s.laneDone l c i u) := by
  obtain ⟨w, k, hf, hw⟩ := h.fetched
  have hfetch : s.laneFetch l = .ins c i (s.setLane l { s.lane l with cache := k }) := by
    have hruns : ((s.lane l).ctx c).state = .run := h.runs
    have hseg : ¬s.psize l c ≤ ((s.lane l).ctx c).pc := Nat.not_le.2 h.inSegment
    simp [State.laneFetch, h.running, h.runCtx, hruns, hseg, hf, hw, hop, hknown]
  have hctx : (s.setLane l { s.lane l with cache := k }).lctx l c = s.lctx l c := by
    rw [State.setLane_lctx]; rfl
  have hbegun : (s.setLane l { s.lane l with cache := k }).laneIssueAt l c i = s.laneBegun l c i := by simp only [State.laneBegun, hf]
  have hstop (v : State) (hv : v.regs.raw = u.regs.raw) : v.stopCheck l c = v := by
    have hen : bitOf (v.reg (pgLane l) (0x100 + 0x20 * c)) 0 = true := by
      rw [State.reg_of_raw (hv.trans (hraw.trans h.begun_raw))]; exact h.enabled
    simp [State.stopCheck, hen]
  simp only [State.laneRow, hfetch, hop, h.fieldsOk, hctx, hbegun, hrun, ne_eq, not_true_eq_false, Bool.not_true, Bool.false_eq_true, if_false]
  exact congrArg Host.Outcome.next (hstop _ rfl)

end Begun

/-- What the clauses on an instruction rest on: where the context stands, and what it is after the issue. -/
theorem State.laneAt_begun {s : State} {l c : Nat} {i : LIns} (hat : s.laneAt l c i = true) :
    s.StandsAt l c i ∧ ∃ d, (s.laneBegun l c i).lctx l c = (s.lctx l c).withDue d :=
  ⟨State.laneAt_standsAt hat, (State.laneAt_standsAt hat).begun_lctx⟩

/-! Data instructions (R124). -/

/-- Without an armed injection the load slots bring their bytes and change nothing. -/
theorem State.laneLoads_noInj {s : State} (h : s.bist.inj.find 2 = none) (l c : Nat) (ms : List Move1) :
    s.laneLoads l c ms = (false, s.laneLoaded l c ms, s) := by
  unfold State.laneLoads State.laneLoaded
  induction ms using List.reverseRecOn with
  | nil => rfl
  | append_singleton ms m ih =>
    rw [List.foldl_append, ih]
    cases hm : m.store <;> simp [hm, State.laneRead_noInj h]

/-- A data instruction with a result, whose moves are legal, aligned and within their windows. -/
theorem State.laneData_ok {s : State} {l c : Nat} {i : LIns} {e : LEff} {ms : List Move1} {work : LaneCtx → Except LaneFault LEff}
    (hinj : s.bist.inj.find 2 = none) (hwork : work (s.lctx l c) = .ok e)
    (hmoves : s.laneMoves l c i e ms = true) : s.laneData l c i work = s.laneResult l c e ms := by
  simp only [State.laneMoves, Bool.and_eq_true, Bool.not_eq_true'] at hmoves
  obtain ⟨⟨hms, hclash⟩, hwin⟩ := hmoves
  have hslots : (if slotsAllowed i.op then (s.lctx l c).moves i else .ok []) = .ok ms := by
    split at hms
    · next r hr => rw [hr, of_decide_eq_true hms]
    · cases hms
  have hinside : ms.any (fun m => !m.inWindow (s.window l c m.mem).2) = false := by
    simpa using hwin
  simp only [State.laneData, hwork, hslots, hclash, hinside, State.laneLoads_noInj hinj, Bool.false_eq_true, if_false]
  rfl

end Sys2Proof.Machine
end

section
/-! PROOFS. Data instructions, control instructions and waits of a DSP lane (O13, O17, O18). -/

namespace Sys2Proof.Machine
open Sys2Proof

/-! Data instructions (R124, R125). -/

@[simp] theorem State.laneResult_raw (s : State) (l c : Nat) (e : LEff) (ms : List Move1) :
    (s.laneResult l c e ms).regs.raw = s.regs.raw := by
  simp [State.laneResult]

/-- The moves of an instruction do not depend on the results in flight, nor do its windows on its issue. -/
theorem State.StandsAt.begun_moves {s : State} {l c : Nat} {i : LIns} (h : s.StandsAt l c i) {e : LEff} {ms : List Move1}
    (hms : s.laneMoves l c i e ms = true) : (s.laneBegun l c i).laneMoves l c i e ms = true := by
  obtain ⟨d, hctx⟩ := h.begun_lctx
  simp only [State.laneMoves, hctx, h.begun_window]
  exact hms

/-- A row for a data instruction with a result leads to that result, its moves and the next PC. -/
theorem State.StandsAt.calc {s : State} {l c : Nat} {i : LIns} (h : s.StandsAt l c i) {op : Nat} {e : LEff} {ms : List Move1}
    {work : State → LIns → LaneCtx → Except LaneFault LEff} (hop : i.op = op) (hknown : op ∈ laneOps)
    (hwork : work (s.laneBegun l c i) i ((s.laneBegun l c i).lctx l c) = .ok e) (hms : s.laneMoves l c i e ms = true) :
    (.next (s.laneCalc l op work) : Ans) = .next (s.laneDone l c i ((s.laneBegun l c i).laneResult l c e ms)) :=
  h.row hop hknown (State.laneData_ok h.begun_noInj hwork (h.begun_moves hms)) (State.laneResult_raw _ _ _ _ _)

/-- The same for an operation whose result depends on the context alone, and not on its results in flight. -/
theorem State.laneCalc_completes (eff : LIns → LaneCtx → Except LaneFault LEff) {op : Nat} (hknown : op ∈ laneOps)
    (hdue : ∀ i x d, eff i (x.withDue d) = eff i x) (s : State) (l : LaneId) (c : Nat) (i : LIns) (e : LEff) (ms : List Move1)
    (hat : s.laneAt l.val c i = true) (hop : i.op = op) (heff : (eff i (s.lctx l.val c)).toOption = some e)
    (hms : s.laneMoves l.val c i e ms = true) :
    (.next (s.laneCalc l.val op (fun _ => eff)) : Ans) = .next (s.laneDone l.val c i ((s.laneBegun l.val c i).laneResult l.val c e ms)) := by
  obtain ⟨h, d, hctx⟩ := State.laneAt_begun hat
  have hok : eff i (s.lctx l.val c) = .ok e := by
    cases hr : eff i (s.lctx l.val c) <;> simp_all [Except.toOption]
  exact h.calc hop hknown (by rw [hctx, hdue, hok]) hms

/-- A result in one register clashes with no move where there is none. -/
theorem movesClash_nil (e : LEff) (hone : e.sreg = none ∨ e.vreg = none) : movesClash e [] = false := by
  rcases hone with h | h
  · rcases hv : e.vreg with _ | ⟨n, v⟩ <;> simp [movesClash, h, hv]
  · rcases hs : e.sreg with _ | ⟨n, v⟩
    · simp [movesClash, h, hs]
    · by_cases hn : 8 ≤ n <;> simp [movesClash, h, hs, hn]

/-- An operation without move slots moves nothing. -/
theorem State.laneMoves_nil (s : State) (l c : Nat) (i : LIns) (e : LEff) (hslots : slotsAllowed i.op = false)
    (hone : e.sreg = none ∨ e.vreg = none) : s.laneMoves l c i e [] = true := by
  simp [State.laneMoves, hslots, movesClash_nil e hone]

/-- Settles O13: every row is the one for data instructions, whose result does not depend on the results in flight. -/
theorem laneDataInstructionsComplete : Obligations.LaneDataInstructionsComplete := by
  refine ⟨State.laneCalc_completes nopEff (by decide) (fun _ _ _ => rfl),
    State.laneCalc_completes saluEff (by decide) (fun _ _ _ => rfl),
    State.laneCalc_completes moviEff (by decide) (fun _ _ _ => rfl),
    State.laneCalc_completes cmpEff (by decide) (fun _ _ _ => rfl),
    State.laneCalc_completes getaEff (by decide) (fun _ _ _ => rfl),
    State.laneCalc_completes valuEff (by decide) (fun _ _ _ => rfl),
    State.laneCalc_completes vcmulEff (by decide) (fun _ _ _ => rfl),
    State.laneCalc_completes vmacEff (by decide) (fun _ _ _ => rfl),
    State.laneCalc_completes vmacsEff (by decide) (fun _ _ _ => rfl),
    State.laneCalc_completes vcmacEff (by decide) (fun _ _ _ => rfl),
    State.laneCalc_completes vrdacEff (by decide) (fun _ _ _ => rfl),
    State.laneCalc_completes vsclacEff (by decide) (fun _ _ _ => rfl),
    State.laneCalc_completes vmag2Eff (by decide) (fun _ _ _ => rfl),
    State.laneCalc_completes vrcpEff (by decide) (fun _ _ _ => rfl),
    State.laneCalc_completes vcvtEff (by decide) (fun _ _ _ => rfl),
    State.laneCalc_completes vsplatEff (by decide) (fun _ _ _ => rfl), ?gett, ?rdc⟩
  case gett =>
    intro s l c i hat hop
    have h := State.laneAt_standsAt hat
    refine h.calc hop (by decide) (by rw [h.begun_now32]) (s.laneMoves_nil l.val c i _ (by rw [hop]; rfl) (.inr rfl))
  case rdc =>
    intro s l c i hat hop hrd
    obtain ⟨h, d, hctx⟩ := State.laneAt_begun hat
    refine h.calc hop (by decide) ?_ (s.laneMoves_nil l.val c i _ (by rw [hop]; rfl) (.inl rfl))
    rw [hctx, if_neg (Nat.not_le.2 hrd)]
    rfl

/-! What a control instruction reads of its context does not depend on the results in flight. -/

section WithDue
variable (x : LaneCtx) (d : List (Nat × Nat))

@[simp] theorem LaneCtx.withDue_pc : (x.withDue d).pc = x.pc := rfl
@[simp] theorem LaneCtx.withDue_loops : (x.withDue d).loops = x.loops := rfl
@[simp] theorem LaneCtx.withDue_stack : (x.withDue d).stack = x.stack := rfl
@[simp] theorem LaneCtx.withDue_getS (n : Nat) : (x.withDue d).getS n = x.getS n := rfl
@[simp] theorem LaneCtx.withDue_condition (m : Nat) : (x.withDue d).condition m = x.condition m := rfl
@[simp] theorem LaneCtx.withDue_count (i : LIns) (n : Nat) : (x.withDue d).count i n = x.count i n := rfl

/-- SETA leaves the results in flight alone. -/
theorem LaneCtx.withDue_seta (i : LIns) : (x.withDue d).seta i = (x.seta i).map (·.withDue d) := by
  simp only [LaneCtx.seta]
  split
  · rfl
  · rfl
  · rw [apply_ite (Option.map _)]; rfl
  · rw [apply_ite (Option.map _)]; rfl

end WithDue

/-- The program of the lane stands as before the issue. -/
theorem State.StandsAt.begun_laneWord {s : State} {l c : Nat} {i : LIns} (h : s.StandsAt l c i) (k pc : Nat) :
    (s.laneBegun l c i).laneWord l k pc = s.laneWord l k pc := by
  obtain ⟨k, d, t, hlane⟩ := h.begun_lane
  simp only [State.laneWord, State.pbase, h.begun_reg, hlane]
  rfl

/-! SETA (R125). -/

theorem LaneCtx.seta_base (x : LaneCtx) (i : LIns) (v : Nat) (hv : v = if i.mod / 4 % 2 = 1 then i.imm.toNat % 2 ^ 17 else (x.getS i.ra).toNat)
    (hmod : i.mod % 4 = 2) :
    x.seta i = if v % 16 = 0 then some { x with base := x.base.set (i.rd % 8) (BitVec.ofNat 16 v) } else none := by
  have h16 : v % 65536 % 16 = v % 16 := Nat.mod_mod_of_dvd v (by decide)
  simp only [LaneCtx.seta, hmod, ← hv, h16]

theorem LaneCtx.seta_len (x : LaneCtx) (i : LIns) (v : Nat)
    (hv : v = if i.mod / 4 % 2 = 1 then i.imm.toNat % 2 ^ 17 else (x.getS i.ra).toNat % 2 ^ 17) (hmod : i.mod % 4 = 3) :
    x.seta i = if v % 16 = 0 ∧ v ≤ 65536 then some { x with len := x.len.set (i.rd % 8) v } else none := by
  have hwidth : (if i.mod / 4 % 2 = 1 then i.imm.toNat % 2 ^ 17 else (x.getS i.ra).toNat) % 2 ^ 17 = v := by
    rw [hv]; split <;> simp
  simp only [LaneCtx.seta, hmod, hwidth, Bool.and_eq_true, decide_eq_true_eq]

/-- Settles O17: each row runs on a context that differs from the one before the issue in the results in flight alone, and neither a new
context nor a fault writes ENABLE. -/
theorem laneControlInstructions : Obligations.LaneControlInstructions := by
  refine ⟨?brTaken, ?brNot, ?brPast, ?call, ?callFull, ?ret, ?retEmpty, ?loop, ?loopZero, ?loopThird, ?loopCount, ?repeat_, ?seta,
    ?setaRefused, ?setdl, ?setaP, ?setaN, fun i x v => x.seta_base i v, fun i x v => x.seta_len i v⟩
  case brTaken =>
    intro s l c i hat hop hcond hlt
    obtain ⟨h, d, hctx⟩ := State.laneAt_begun hat
    refine h.row hop (by decide) ?_ rfl
    simp only [hctx, LaneCtx.withDue_condition, hcond, h.begun_psize, Nat.not_le.2 hlt, if_false]
    rfl
  case brNot =>
    intro s l c i hat hop hcond
    obtain ⟨h, d, hctx⟩ := State.laneAt_begun hat
    refine h.row hop (by decide) ?_ rfl
    simp only [hctx, LaneCtx.withDue_condition, hcond]
    rfl
  case brPast =>
    intro s l c i hat hop hcond hpast
    obtain ⟨h, d, hctx⟩ := State.laneAt_begun hat
    refine h.row hop (by decide) ?_ (State.laneFault_raw _ _ _ _)
    simp only [hctx, LaneCtx.withDue_condition, hcond, h.begun_psize, hpast, if_true]
  case call =>
    intro s l c i hat hop hroom hlt
    obtain ⟨h, d, hctx⟩ := State.laneAt_begun hat
    refine h.row hop (by decide) ?_ rfl
    simp only [hctx, LaneCtx.withDue_stack, Nat.not_le.2 hroom, h.begun_psize, Nat.not_le.2 hlt, if_false]
    rfl
  case callFull =>
    intro s l c i hat hop hfull
    obtain ⟨h, d, hctx⟩ := State.laneAt_begun hat
    refine h.row hop (by decide) ?_ (State.laneFault_raw _ _ _ _)
    simp only [hctx, LaneCtx.withDue_stack, hfull, if_true]
  case ret =>
    intro s l c i a rest hat hop hstack hlt
    obtain ⟨h, d, hctx⟩ := State.laneAt_begun hat
    refine h.row hop (by decide) ?_ rfl
    simp only [hctx, LaneCtx.withDue_stack, hstack, h.begun_psize, Nat.not_le.2 hlt, if_false]
  case retEmpty =>
    intro s l c i hat hop hstack
    obtain ⟨h, d, hctx⟩ := State.laneAt_begun hat
    refine h.row hop (by decide) ?_ (State.laneFault_raw _ _ _ _)
    simp only [hctx, LaneCtx.withDue_stack, hstack]
  case loop =>
    intro s l c i n hat hop hn hcount hroom
    obtain ⟨h, d, hctx⟩ := State.laneAt_begun hat
    have hn' : (s.lctx l.val c).count i 16 = n := hn.symm
    refine h.row hop (by decide) ?_ rfl
    simp only [hctx, LaneCtx.withDue_loops, LaneCtx.withDue_count, hn', Nat.not_le.2 hroom, Nat.not_lt.2 hcount.2,
      Nat.ne_of_gt hcount.1, if_false]
    rfl
  case loopZero =>
    intro s l c i hat hop hn hroom
    obtain ⟨h, d, hctx⟩ := State.laneAt_begun hat
    have hn' : (s.lctx l.val c).count i 16 = 0 := hn
    refine h.row hop (by decide) ?_ rfl
    simp only [hctx, LaneCtx.withDue_loops, LaneCtx.withDue_count, hn', Nat.not_le.2 hroom, Nat.not_lt_zero, if_false, if_true]
    rfl
  case loopThird =>
    intro s l c i hat hop hfull
    obtain ⟨h, d, hctx⟩ := State.laneAt_begun hat
    refine h.row hop (by decide) ?_ (State.laneFault_raw _ _ _ _)
    simp only [hctx, LaneCtx.withDue_loops, hfull, if_true]
  case loopCount =>
    intro s l c i hat hop hn hroom
    obtain ⟨h, d, hctx⟩ := State.laneAt_begun hat
    have hn' : 65535 < (s.lctx l.val c).count i 16 := hn
    refine h.row hop (by decide) ?_ (State.laneFault_raw _ _ _ _)
    simp only [hctx, LaneCtx.withDue_loops, LaneCtx.withDue_count, hn', Nat.not_le.2 hroom, if_false, if_true]
  case repeat_ =>
    intro s l c i n hat hop hn hcount hends hlt hrep
    obtain ⟨h, d, hctx⟩ := State.laneAt_begun hat
    have hn' : (s.lctx l.val c).count i 12 = n := hn.symm
    refine h.row hop (by decide) ?_ rfl
    simp only [hctx, LaneCtx.withDue_loops, LaneCtx.withDue_pc, LaneCtx.withDue_count, hn', hends, Nat.not_lt.2 hcount.2,
      Nat.ne_of_gt hcount.1, h.begun_psize, Nat.not_le.2 hlt, h.begun_laneWord, hrep, Bool.not_true, Bool.false_eq_true, if_false]
  case seta =>
    intro s l c i y hat hop hy
    obtain ⟨h, d, hctx⟩ := State.laneAt_begun hat
    refine h.row hop (by decide) ?_ rfl
    simp only [hctx, LaneCtx.withDue_seta, hy, Option.map_some]
    rfl
  case setaRefused =>
    intro s l c i hat hop hy
    obtain ⟨h, d, hctx⟩ := State.laneAt_begun hat
    refine h.row hop (by decide) ?_ (State.laneFault_raw _ _ _ _)
    simp only [hctx, LaneCtx.withDue_seta, hy, Option.map_none]
  case setdl =>
    intro s l c i hat hop
    obtain ⟨h, d, hctx⟩ := State.laneAt_begun hat
    refine h.row hop (by decide) ?_ rfl
    simp only [State.updLctx, hctx]
    rfl
  case setaP =>
    intro i x v hv hmod
    simp only [LaneCtx.seta, hmod, ← hv]
  case setaN =>
    intro i x v hv hmod
    simp only [LaneCtx.seta, hmod, ← hv]

end Sys2Proof.Machine
end

section
/-! PROOFS. HALT and the waits of a DSP lane (O18): a context that leaves the active bank, and one that wakes. -/

namespace Sys2Proof.Machine
open Sys2Proof

/-! A context leaves the active bank (R138, R140). -/

theorem Lane.setCtx_setCtx (y : Lane) (c : Nat) (x z : LaneCtx) : (y.setCtx c x).setCtx c z = y.setCtx c z := by
  simp [Lane.setCtx]

/-- The lane after its running context c has left the active bank as x. -/
def Lane.left (y : Lane) (c : Nat) (x : LaneCtx) : Lane := { y.setCtx c x with running := false }

theorem State.laneLeave_runCtx {s : State} {l c : Nat} (h : (s.lane l).runCtx = c) (f : LaneCtx → LaneCtx) :
    s.laneLeave l c f = s.setLane l ((s.lane l).left c (f (s.lctx l c))) := by
  simp only [State.laneLeave, State.updLane_eq, h, ne_eq, not_true_eq_false, decide_false, Bool.and_false]
  rfl

/-- The same after the context has changed. -/
theorem State.setLctx_laneLeave {s : State} {l c : Nat} (h : (s.lane l).runCtx = c) (x : LaneCtx) (f : LaneCtx → LaneCtx) :
    (s.setLctx l c x).laneLeave l c f = s.setLane l ((s.lane l).left c (f x)) := by
  have hrun : ((s.setLctx l c x).lane l).runCtx = c := by rw [State.setLctx, State.updLane_self]; exact h
  rw [State.laneLeave_runCtx hrun, State.setLctx_self]
  simp only [State.setLctx, State.updLane_eq, State.setLane_self, State.setLane_setLane, Lane.left, Lane.setCtx_setCtx]

/-- The clocks of an instruction change when its lane next issues, and whether the loop cache is cold. -/
theorem State.laneDone_setLane (s b : State) (l c : Nat) (i : LIns) (y : Lane) :
    ∃ f k, s.laneDone l c i (b.setLane l y) = b.setLane l { y with free := f, cold := k } := by
  simp only [State.laneDone, State.laneSpend, State.updLane_eq, State.setLane_self, State.setLane_setLane]
  exact ⟨_, _, rfl⟩

section Left
variable {s : State} {l c : Nat} {i : LIns} (h : s.StandsAt l c i)
include h

theorem State.StandsAt.begun_runCtx : ((s.laneBegun l c i).lane l).runCtx = c := by
  obtain ⟨k, d, t, hlane⟩ := h.begun_lane
  rw [hlane]; exact h.runCtx

/-- When the lane alone changes after the issue, only it and a counter of its page differ from the state before the instruction. -/
theorem State.StandsAt.begun_setLane (y : Lane) : (s.laneBegun l c i).setLane l y =
    { s with lanes := s.lanes.set l y, regs := { s.regs with scal := (s.laneBegun l c i).regs.scal } } := by
  rw [h.begun_frame]
  simp [State.setLane]

/-- A row whose instruction makes its context leave the active bank as x changes the lane and a counter of its page alone. -/
theorem State.StandsAt.row_left {op : Nat} {run : State → Nat → LIns → State} {x : LaneCtx} (hop : i.op = op) (hknown : op ∈ laneOps)
    (hrun : run (s.laneBegun l c i) c i = (s.laneBegun l c i).setLane l (((s.laneBegun l c i).lane l).left c x)) :
    ∃ u, (.next (s.laneRow l op run) : Ans) = .next u ∧ u.lctx l c = x ∧ (u.lane l).running = false ∧
      u = { s with lanes := s.lanes.set l (u.lane l), regs := { s.regs with scal := u.regs.scal } } := by
  obtain ⟨f, k, hdone⟩ := s.laneDone_setLane (s.laneBegun l c i) l c i (((s.laneBegun l c i).lane l).left c x)
  refine ⟨_, (h.row hop hknown hrun rfl).trans (congrArg Host.Outcome.next hdone), ?_, ?_, ?_⟩
  · rw [State.setLane_lctx]
    exact Lane.setCtx_self _ c x
  · rw [State.setLane_self]; rfl
  · rw [State.setLane_self]
    exact h.begun_setLane _

end Left

/-! The conditions of a WAIT (R138). -/

theorem State.setLctx_waits_counter (s : State) (l c : Nat) (x : LaneCtx) (a : Nat) (t : Word) :
    (s.setLctx l c { x with wait := .counter a t }).laneWaitHolds l c = ctrReached (s.ctr (l / 32) a) t := by
  simp only [State.laneWaitHolds, State.setLctx_self]
  rfl

theorem State.setLctx_waits_record (s : State) (l c : Nat) (x : LaneCtx) :
    (s.setLctx l c { x with wait := .record }).laneWaitHolds l c = !x.port.isEmpty := by
  simp only [State.laneWaitHolds, State.setLctx_self]

theorem State.setLctx_waits_time (s : State) (l c : Nat) (x : LaneCtx) (t : Word) :
    (s.setLctx l c { x with wait := .time t }).laneWaitHolds l c = ctrReached s.now32 t := by
  simp only [State.laneWaitHolds, State.setLctx_self]
  rfl

/-! A context that wakes (R138, R141). -/

/-- The lane after its context c has passed its WAIT and become READY, the last in the order of readiness. -/
def Lane.woken (y : Lane) (c : Nat) (stby : Bool) : Lane :=
  { y.setCtx c { (y.ctx c).advance with state := .ready, wait := .nothing, issueLate := false, seq := y.ticks } with
    ticks := y.ticks + 1, stbyValid := stby }

@[simp] theorem Lane.woken_ctx (y : Lane) (c : Nat) (stby : Bool) :
    (y.woken c stby).ctx c = { (y.ctx c).advance with state := .ready, wait := .nothing, issueLate := false, seq := y.ticks } :=
  y.setCtx_self c _

/-- The standby bank keeps its context, or is to be loaded again. -/
theorem State.laneReady_advance (s : State) (l c : Nat) :
    ∃ v, s.laneReady l c LaneCtx.advance = s.setLane l ((s.lane l).woken c v) := by
  unfold State.laneReady State.standbyCheck
  split
  · exact ⟨false, by rw [State.updLane_eq, State.updLane_self, State.updLane_eq, State.setLane_setLane]; rfl⟩
  · exact ⟨_, rfl⟩

/-- Settles O18: a context that sleeps leaves the active bank, one whose condition holds at issue goes on, and one that wakes passes its
WAIT. -/
theorem laneWaitsSleepAndWake : Obligations.LaneWaitsSleepAndWake := by
  refine ⟨?halt, ?counterNow, ?counterSleeps, ?recordSleeps, ?timeNow, ?noCounter, ?wake, ?stays⟩
  case halt =>
    intro s l c i hat hop
    have h := State.laneAt_standsAt hat
    exact h.row_left hop (by decide) (State.laneLeave_runCtx h.begun_runCtx _)
  case counterNow =>
    rintro s l c i hat ⟨hop, hmod⟩ hctr hreached
    obtain ⟨h, d, hctx⟩ := State.laneAt_begun hat
    have hholds : ctrReached (s.ctr (l.val / 32) ((s.lctx l.val c).getS i.ra).toNat) ((s.lctx l.val c).getS i.rb) = true :=
      decide_eq_true hreached
    refine h.row hop (by decide) ?_ rfl
    simp only [hmod, hctx, LaneCtx.withDue_getS, Nat.not_lt.2 hctr, State.setLctx_waits_counter, h.begun_ctr, hholds, if_false, if_true]
    rfl
  case counterSleeps =>
    rintro s l c i hat ⟨hop, hmod⟩ hctr hlater
    obtain ⟨h, d, hctx⟩ := State.laneAt_begun hat
    have hholds : ctrReached (s.ctr (l.val / 32) ((s.lctx l.val c).getS i.ra).toNat) ((s.lctx l.val c).getS i.rb) = false :=
      decide_eq_false (Nat.not_lt.2 hlater)
    refine h.row_left hop (by decide) ?_
    simp only [hmod, hctx, LaneCtx.withDue_getS, Nat.not_lt.2 hctr, State.setLctx_waits_counter, h.begun_ctr, hholds, if_false,
      Bool.false_eq_true, State.setLctx_laneLeave h.begun_runCtx]
  case recordSleeps =>
    rintro s l c i hat ⟨hop, hmod⟩ hport
    obtain ⟨h, d, hctx⟩ := State.laneAt_begun hat
    have hholds : (!((s.lctx l.val c).withDue d).port.isEmpty) = false := by simp [LaneCtx.withDue, hport]
    refine h.row_left hop (by decide) ?_
    simp only [hmod, hctx, State.setLctx_waits_record, hholds, Bool.false_eq_true, if_false,
      State.setLctx_laneLeave h.begun_runCtx]
  case timeNow =>
    rintro s l c i hat ⟨hop, hmod⟩ hreached
    obtain ⟨h, d, hctx⟩ := State.laneAt_begun hat
    have hholds : ctrReached s.now32 ((s.lctx l.val c).getS i.ra) = true := decide_eq_true hreached
    refine h.row hop (by decide) ?_ rfl
    simp only [hmod, hctx, LaneCtx.withDue_getS, State.setLctx_waits_time, h.begun_now32, hholds, if_true]
    rfl
  case noCounter =>
    rintro s l c i hat ⟨hop, hmod⟩ hctr
    obtain ⟨h, d, hctx⟩ := State.laneAt_begun hat
    refine h.row hop (by decide) ?_ (State.laneFault_raw _ _ _ _)
    simp only [hmod, hctx, LaneCtx.withDue_getS, hctr, if_true]
  case wake =>
    intro s l c hsleeps hholds
    have hexec : execLaneWaitWake l c s = .next (s.laneReady l.val c.val LaneCtx.advance) := by
      simp [execLaneWaitWake, hsleeps, hholds]
    obtain ⟨v, hready⟩ := s.laneReady_advance l.val c.val
    refine ⟨_, hexec.trans (congrArg Host.Outcome.next hready), ?_, ?_, ?_⟩
    · rw [State.setLane_lctx, Lane.woken_ctx]; exact ⟨rfl, rfl, rfl⟩
    · rw [State.setLane_lctx, Lane.woken_ctx]; rfl
    · rw [State.setLane_self]; rfl
  case stays =>
    intro s l c hholds
    change execLaneWaitWake l c s = .next s
    simp [execLaneWaitWake, hholds]

end Sys2Proof.Machine
end

section
/-! PROOFS. DSP lanes and slot starts: statements that fail (O14, O21, O22, O26). -/

namespace Sys2Proof.Machine
open Sys2Proof

/-! The clocks of an instruction (R125, R133). -/

/-- A context that runs at index 0. -/
def runningAtZero : LaneCtx := { LaneCtx.zero with state := .run }

/-- WAIT for the counter in S0. -/
def waitIns : LIns := decodeLane 0x0600000000000000

/-- A WAIT that ends a loop's iteration, whose body the loop cache does not hold, takes the 2 clocks of the loop-back beside its own. -/
theorem insClocks_wait_loopBack : insClocks waitIns false runningAtZero runningAtZero [] false = 4 := by decide

/-- Refutes O14: its clause on clocks gives WAIT 2 whatever context follows it, and so leaves out the 2 clocks of a loop-back (R133). -/
theorem not_laneResultFrame : ¬ Obligations.LaneResultFrame := by
  rintro ⟨-, -, -, hclocks, -⟩
  obtain ⟨-, hwait, -⟩ := hclocks waitIns false runningAtZero runningAtZero []
  have htwo := congrFun (hwait (.inr (.inr (.inl (by decide))))) false
  rw [insClocks_wait_loopBack] at htwo
  exact absurd htwo (by decide)

/-! Writes of a lane's page come in as flits of the CXL port (R26, R435; log entries 3 and 112). -/

@[simp] theorem State.chkCxl_lane (s : State) (egress : Bool) (l : Nat) : (s.chkCxl egress).lane l = s.lane l := by
  rw [State.chkCxl_frame]; rfl
@[simp] theorem State.chkCxl_lctx (s : State) (egress : Bool) (l c : Nat) : (s.chkCxl egress).lctx l c = s.lctx l c := by
  unfold State.lctx; rw [State.chkCxl_lane]
@[simp] theorem State.chkCxl_reg (s : State) (egress : Bool) (p : Page) (o : Nat) : (s.chkCxl egress).reg p o = s.reg p o := by
  unfold State.reg; rw [State.chkCxl_raw]

/-- An enable of a context that is not enabled takes no free value, whether its segment is valid or not. -/
theorem hostEnable_fresh (s : State) (l : LaneId) (c : LaneCtxId) (v : Word)
    (h : bitOf (s.reg (pgLane l.val) (0x100 + 0x20 * c.val)) 0 = false) :
    ∃ t, hostEnable l c v s = .next t ∧ t.fresh = s.fresh := by
  refine ⟨_, rfl, ?_⟩
  split
  · simp only [State.ctxCfgWrite, h, Bool.false_eq_true, if_false]
    split
    · rfl
    · split <;> rfl
  · rfl

/-- Refutes O21: with check unit 0 on the CXL port, an ENABLE that fails also feeds the unit and takes a free value. -/
theorem not_laneContextsAreScheduled : ¬ Obligations.LaneContextsAreScheduled := by
  rintro ⟨-, -, -, -, -, -, -, hrefused, -⟩
  have hexec := hrefused snoopingState 0 0 1 (by decide) (by decide) (by decide) (by decide) (by decide)
  have hwrite : snoopingState.hostWrite (pgLane 0) 0x100 1 (hostEnable 0 0 1) = _ := hexec
  exact State.not_hostWrite_snooped hwrite (by decide) (hostEnable_fresh _ 0 0 1 (by rw [State.chkCxl_reg]; decide)) rfl

@[simp] theorem State.level_fresh (s : State) (p : Page) (b : Nat) (on : Bool) : (s.level p b on).fresh = s.fresh := by
  rw [State.level_frame]

/-- Where there is no tenant, the pages that watch a mailbox take no free value: the map's page alone can be one. -/
theorem State.watchRise_fresh (s : State) (target : Nat) (h : s.insts = []) : (s.watchRise target).fresh = s.fresh := by
  simp only [State.watchRise, h, List.filter_nil, foldS, List.foldl_nil]
  split
  · exact s.level_fresh pgMap 1 true
  · rfl

theorem State.laneMbEvt_fresh (s : State) (l : Nat) (h : s.insts = []) : (s.laneMbEvt l).fresh = s.fresh := by
  simp only [State.laneMbEvt]
  split
  · rfl
  split
  · exact s.level_fresh _ _ _
  · have hlevel : (s.level (pgLane l) 8 false).insts = [] := by rw [State.level_frame]; exact h
    exact (State.watchRise_fresh _ _ hlevel).trans (s.level_fresh _ _ _)

/-- MBCLR of a mailbox that is empty, where there is no tenant, takes no free value. -/
theorem hostMbclr_fresh (s : State) (l : LaneId) (hempty : (s.lane l.val).mbTail - laneHead (s.lane l.val) = 0)
    (hinsts : s.insts = []) : ∃ t, hostMbclr l s = .next t ∧ t.fresh = s.fresh := by
  refine ⟨_, rfl, ?_⟩
  simp only [hempty]
  exact State.laneMbEvt_fresh _ _ hinsts

/-- Refutes O22: with check unit 0 on the CXL port, MBCLR of an empty mailbox also feeds the unit and takes a free value. -/
theorem not_laneMemoriesFromOutside : ¬ Obligations.LaneMemoriesFromOutside := by
  rintro ⟨-, -, -, -, -, -, hmbclr⟩
  have hnobody : snoopingState.insts = [] := rfl
  obtain ⟨u, hexec, -, -, -, hframe, -⟩ := hmbclr snoopingState 0 (by decide) (by decide) (by decide) (by simp [hnobody]) (by decide)
  have hwrite : snoopingState.hostWrite (pgLane 0) 0x010 1 (hostMbclr 0) = .next u := hexec
  have hclears := hostMbclr_fresh (snoopingState.chkCxl false) 0 (by rw [State.chkCxl_lane]; decide) (by rw [State.chkCxl_frame]; rfl)
  exact State.not_hostWrite_snooped hwrite (by decide) hclears (by rw [hframe])

/-! The start of a slot (R140). -/

/-- Cell 3 ACTIVE at the start of slot 1 of frame 0, symbol 0 of slot 100 of whose downlink is still marked closed. -/
def closedSymbolState : State :=
  { State.reset with
    cells := [(3, { Cell.free with phase := .active, dlShut := [(100, 0)] })]
    time := { State.reset.time with ns := 1000000 } }

/-- The slot start drops the mark: slot 100 is not one of the last eight. -/
theorem closedSymbol_dropped : ((Ans.state closedSymbolState (exec (.cellSlotStart 3) closedSymbolState)).cell 3).dlShut = [] := by
  decide

/-- Refutes O26: a slot start also drops the marks of downlink symbols that closed eight slots ago or before, which the statement keeps. -/
theorem not_cellSlotStarts : ¬ Obligations.CellSlotStarts := by
  rintro ⟨hstart, -⟩
  have hexec := hstart closedSymbolState 3 (by decide) (by decide) (by decide)
  have hkept := (congrArg (fun a : Ans => ((Ans.state closedSymbolState a).cell 3).dlShut) hexec).symm.trans closedSymbol_dropped
  exact absurd hkept (by decide)

end Sys2Proof.Machine
end
